-- ==== Sys2Proof/Word.lean ====
section
/-! DEFINITION. The words of the machine: bytes, registers, addresses and the names of registers, masks and tags.
Little-endian order follows R6 of spec/00_scope.md. -/

namespace Sys2Proof

/-- One byte. -/
abbrev Byte := BitVec 8
/-- One word register (R135). -/
abbrev Word := BitVec 32
/-- A pair, an address or a 64-bit special register. -/
abbrev DWord := BitVec 64
/-- A 6-bit word register number, w0 to w63 (R135). -/
abbrev Reg := BitVec 6
/-- A 3-bit octet number of the V format: n names w(8n).8 (R146). -/
abbrev Oct := BitVec 3
/-- A mask register number, m0 to m7 (R138). -/
abbrev MReg := BitVec 3
/-- A tag number, 0 to 63 (R243). -/
abbrev Tag := BitVec 6

end Sys2Proof
end

