-- ==== Sys2Proof/Config.lean ====
section
/-! DEFINITION. What the spec leaves open and the model leaves free: uninterpreted values and functions. No proof can
see what any of them is. Notes: notes/assumptions. -/

namespace Sys2Proof.Config

/-- Cycles that pass in a step beyond the first; the argument counts steps (log entry 5). -/
opaque elapsed : Nat → Nat
/-- A free bit; the argument is the counter freeCtr (log entry 6). -/
opaque freeBit : Nat → Bool
/-- A free word; the argument is the counter freeCtr (log entry 6). -/
opaque freeWord : Nat → Word
/-- A free double word; the argument is the counter freeCtr (log entry 6). -/
opaque freeDWord : Nat → DWord
/-- The cipher text that phase 4 of a power-up writes at an HBM address: the power-ups before, the address (R44; log entry 3). -/
opaque hbmInit : Nat → Nat → Byte
/-- Steps until an observer sees an engine's landing that nothing orders before its reads: the landing, the observer (R235, R319; log
entry 10). -/
opaque landDelay : Nat → Nat → Nat
/-- CHK of a capability under the key drawn at a power-up: the power-ups before, bits [63:32], the placement count, the cluster (R65; log
entry 15). -/
opaque chk : Nat → Word → Nat → Nat → Word
/-- Bytes of the random-number generator: the draw, the byte (R27, R47; log entry 7). -/
opaque random : Nat → Nat → Byte
/-- The device-unique secret of the package (R17, R47; log entry 7). -/
opaque deviceSecret : List Byte
/-- The private attestation key that the device-unique secret and MEAS0 give (R17; log entry 7). -/
opaque attestKey : List Byte → Nat
/-- The image root, 32 bytes drawn at a power-up (R384; log entry 7). -/
opaque imageRoot : Nat → List Byte
/-- What the mailbox answers to GET_CAPABILITIES, GET_DIGESTS and GET_CERTIFICATE after the header (R18; log entry 19). -/
opaque spdmBody : List Byte → List Byte
/-- The contents of the boot ROM (R12, R20; log entry 7). -/
opaque bootRom : List Byte
/-- The public keys fixed in the ROM mask: of ECDSA P-384 x and y, 96 bytes; of LMS the identifier and the root, 48 bytes (R15; log
entry 7). -/
opaque ecdsaKey : List Byte
opaque lmsKey : List Byte

end Sys2Proof.Config
end

