-- ==== Sys2Proof/Syntax.lean ====
section
/-! DEFINITION. The syntax: the operand kinds of the 200 encoded Crawin instructions, and Instr, with one constructor for every row of spec/opcode_table.json. -/

namespace Sys2Proof

/-- The four operand widths (R135, R147). -/
inductive Width where
  | single | pair | quad | octet
  deriving DecidableEq, Repr

/-- Integer condition codes (R153). -/
inductive Cc where
  | eq | ne | lt | ge | ltu | geu
  deriving DecidableEq, Repr

/-- Lane conditions of VCMP (R154). -/
inductive VCond where
  | eq | ne | lt | le | gt | ge | un
  deriving DecidableEq, Repr

/-- Element formats, codes 0x0 to 0x9 of R64. -/
inductive Ty where
  | fp32 | bf16 | fp16 | e4m3 | e5m2 | int8 | uint8 | int32 | ex4 | ue8
  deriving DecidableEq, Repr

/-- Rounding codes of R75: dynamic, then the five modes. -/
inductive Rc where
  | dyn | rne | rtz | rdn | rup | rsto
  deriving DecidableEq, Repr

/-- Load orderings (R205). -/
inductive LdOrd where
  | plain | inv | acq
  deriving DecidableEq, Repr

/-- Store orderings (R211). -/
inductive StOrd where
  | plain | rel
  deriving DecidableEq, Repr

/-- ATOM orderings (R216). -/
inductive AtOrd where
  | rlx | acq | rel | ar
  deriving DecidableEq, Repr

/-- FENCE scopes (R219). -/
inductive Scope where
  | core | team | pkg | dom
  deriving DecidableEq, Repr

/-- The five access paths (R3). -/
inductive Path where
  | c | p | m | t | x
  deriving DecidableEq, Repr

/-- The special registers of R139. -/
inductive SReg where
  | tags | tagerr
  | lcnt (i : Fin 3)
  | xpc | xcause | xaddr | xinfo | tvec
  | rmode | seed
  | ctx | core | tile | clus | pkg
  | team | teamn | lnch | capt
  | clk | retc | mailst | leasest
  | bpa (i : BitVec 2)
  | deadw (i : BitVec 7)
  deriving DecidableEq, Repr

/-- One constructor for every row of spec/opcode_table.json: first the 200 encoded instructions, in the table's order, then the
143 events, which the table gives no encoding and no fields: what an event carries is in the latch State.inp. -/
inductive Instr where
  /-- ADD: R166 Adds two groups modulo 2^n. -/
  | add (w : Width) (d : Reg) (a : Reg) (b : Reg)
  /-- SUB: R166 Subtracts two groups modulo 2^n. -/
  | sub (w : Width) (d : Reg) (a : Reg) (b : Reg)
  /-- MUL: R166 Gives the low 32 bits of a product. -/
  | mul (d : Reg) (a : Reg) (b : Reg)
  /-- MULH: R166 Gives the high 32 bits of a signed product. -/
  | mulh (d : Reg) (a : Reg) (b : Reg)
  /-- MULHU: R166 Gives the high 32 bits of an unsigned product. -/
  | mulhu (d : Reg) (a : Reg) (b : Reg)
  /-- DIV: R168 Gives the signed quotient, truncated towards zero. -/
  | div (d : Reg) (a : Reg) (b : Reg)
  /-- DIVU: R168 Gives the unsigned quotient. -/
  | divu (d : Reg) (a : Reg) (b : Reg)
  /-- REM: R168 Gives the signed remainder. -/
  | rem (d : Reg) (a : Reg) (b : Reg)
  /-- REMU: R168 Gives the unsigned remainder. -/
  | remu (d : Reg) (a : Reg) (b : Reg)
  /-- AND: R166 Gives the bitwise AND of two groups. -/
  | and (w : Width) (d : Reg) (a : Reg) (b : Reg)
  /-- OR: R166 Gives the bitwise OR of two groups. -/
  | or (w : Width) (d : Reg) (a : Reg) (b : Reg)
  /-- XOR: R166 Gives the bitwise XOR of two groups. -/
  | xor (w : Width) (d : Reg) (a : Reg) (b : Reg)
  /-- ANDN: R166 Gives a AND NOT b. -/
  | andn (w : Width) (d : Reg) (a : Reg) (b : Reg)
  /-- MIN: R166 Gives the signed minimum. -/
  | min (d : Reg) (a : Reg) (b : Reg)
  /-- MAX: R166 Gives the signed maximum. -/
  | max (d : Reg) (a : Reg) (b : Reg)
  /-- MINU: R166 Gives the unsigned minimum. -/
  | minu (d : Reg) (a : Reg) (b : Reg)
  /-- MAXU: R166 Gives the unsigned maximum. -/
  | maxu (d : Reg) (a : Reg) (b : Reg)
  /-- SHL: R167 Shifts left by a register amount. -/
  | shl (w : Width) (d : Reg) (a : Reg) (b : Reg)
  /-- SHR: R167 Shifts right logically by a register amount. -/
  | shr (w : Width) (d : Reg) (a : Reg) (b : Reg)
  /-- SHA: R167 Shifts right arithmetically by a register amount. -/
  | sha (w : Width) (d : Reg) (a : Reg) (b : Reg)
  /-- ROT: R167 Rotates right by a register amount. -/
  | rot (w : Width) (d : Reg) (a : Reg) (b : Reg)
  /-- CLZ: R169 Counts leading zero bits. -/
  | clz (d : Reg) (a : Reg)
  /-- CTZ: R169 Counts trailing zero bits. -/
  | ctz (d : Reg) (a : Reg)
  /-- POPC: R169 Counts 1 bits. -/
  | popc (d : Reg) (a : Reg)
  /-- BREV: R169 Reverses the bit order of a word. -/
  | brev (d : Reg) (a : Reg)
  /-- SEXT: R170 Sign-extends the low nb bits. -/
  | sext (w : Width) (d : Reg) (a : Reg) (n : BitVec 5)
  /-- ZEXT: R170 Zero-extends the low nb bits. -/
  | zext (w : Width) (d : Reg) (a : Reg) (n : BitVec 5)
  /-- MOV: R169 Copies a group. -/
  | mov (w : Width) (d : Reg) (a : Reg)
  /-- SEL: R171 Picks a when the destination is non-zero, else b. -/
  | sel (w : Width) (d : Reg) (a : Reg) (b : Reg)
  /-- SET_CC: R172 Writes 1 when the condition holds between two groups, else 0. -/
  | setCc (c : Cc) (w : Width) (d : Reg) (a : Reg) (b : Reg)
  /-- ADDI: R173 Adds a sign-extended 12-bit immediate. -/
  | addi (d : Reg) (a : Reg) (i : BitVec 12)
  /-- ANDI: R173 ANDs with a sign-extended immediate. -/
  | andi (d : Reg) (a : Reg) (i : BitVec 12)
  /-- ORI: R173 ORs with a sign-extended immediate. -/
  | ori (d : Reg) (a : Reg) (i : BitVec 12)
  /-- XORI: R173 XORs with a sign-extended immediate. -/
  | xori (d : Reg) (a : Reg) (i : BitVec 12)
  /-- SHLI: R174 Shifts left by an immediate. -/
  | shli (d : Reg) (a : Reg) (k : BitVec 5)
  /-- SHRI: R174 Shifts right logically by an immediate. -/
  | shri (d : Reg) (a : Reg) (k : BitVec 5)
  /-- SHAI: R174 Shifts right arithmetically by an immediate. -/
  | shai (d : Reg) (a : Reg) (k : BitVec 5)
  /-- ROTI: R174 Rotates right by an immediate. -/
  | roti (d : Reg) (a : Reg) (k : BitVec 5)
  /-- BFX: R175 Extracts a bit field, zero-extended. -/
  | bfx (d : Reg) (a : Reg) (p : BitVec 5) (l : BitVec 5)
  /-- BFI: R175 Inserts a bit field into the destination. -/
  | bfi (d : Reg) (a : Reg) (p : BitVec 5) (l : BitVec 5)
  /-- MOVI: R176 Loads a sign-extended 18-bit immediate. -/
  | movi (d : Reg) (i : BitVec 18)
  /-- MOVHI: R176 Sets bits [31:14] of the destination, keeping bits [13:0]. -/
  | movhi (d : Reg) (i : BitVec 18)
  /-- LEA: R177 Adds a sign-extended immediate to an address pair. -/
  | lea (d : Reg) (a : Reg) (i : BitVec 12)
  /-- BEQ: R179 Branches if equal. -/
  | beq (a : Reg) (b : Reg) (o : BitVec 12)
  /-- BNE: R179 Branches if not equal. -/
  | bne (a : Reg) (b : Reg) (o : BitVec 12)
  /-- BLT: R179 Branches if signed less than. -/
  | blt (a : Reg) (b : Reg) (o : BitVec 12)
  /-- BGE: R179 Branches if signed greater or equal. -/
  | bge (a : Reg) (b : Reg) (o : BitVec 12)
  /-- BLTU: R179 Branches if unsigned less than. -/
  | bltu (a : Reg) (b : Reg) (o : BitVec 12)
  /-- BGEU: R179 Branches if unsigned greater or equal. -/
  | bgeu (a : Reg) (b : Reg) (o : BitVec 12)
  /-- BRI_EQ: R180 Branches if equal to a signed 6-bit immediate. -/
  | briEq (a : Reg) (i : BitVec 6) (o : BitVec 12)
  /-- BRI_NE: R180 Branches if not equal to a signed 6-bit immediate. -/
  | briNe (a : Reg) (i : BitVec 6) (o : BitVec 12)
  /-- BRI_LT: R180 Branches if signed less than an immediate. -/
  | briLt (a : Reg) (i : BitVec 6) (o : BitVec 12)
  /-- BRI_GE: R180 Branches if signed greater or equal to an immediate. -/
  | briGe (a : Reg) (i : BitVec 6) (o : BitVec 12)
  /-- BRI_LTU: R180 Branches if unsigned less than an immediate. -/
  | briLtu (a : Reg) (i : BitVec 6) (o : BitVec 12)
  /-- BRI_GEU: R180 Branches if unsigned greater or equal to an immediate. -/
  | briGeu (a : Reg) (i : BitVec 6) (o : BitVec 12)
  /-- J: R181 Jumps PC-relative. -/
  | j (o : BitVec 24)
  /-- JL: R181 Jumps PC-relative and links in w62.2. -/
  | jl (o : BitVec 24)
  /-- JLR: R182 Jumps to a register pair and writes the link. -/
  | jlr (d : Reg) (a : Reg)
  /-- LOOP: R185 Pushes a zero-overhead loop level with a register count, or skips an empty or zero-trip body. -/
  | loop (a : Reg) (o : BitVec 12)
  /-- LOOPI: R185 Pushes a loop level with an immediate count. -/
  | loopi (c : BitVec 12) (o : BitVec 12)
  /-- NOP: R189 Does nothing. -/
  | nop
  /-- YIELD: R189 Stays READY and gives up the turn. -/
  | yield
  /-- HALT: R189 Makes the context HALTED. -/
  | halt
  /-- LEXIT: R187 Pops the innermost loop level. -/
  | lexit
  /-- MFS: R190 Reads a special register. -/
  | mfs (d : Reg) (sr : SReg)
  /-- MTS: R191 Writes a special register, subject to privilege and value checks. -/
  | mts (sr : SReg) (a : Reg)
  /-- TRAP: R368 Takes trap TRAP with the code in XINFO, returning after the instruction. -/
  | trap (c : BitVec 6)
  /-- RFT: R368 Returns to XPC, clearing INTRAP and setting SKIPBP. -/
  | rft
  /-- BKPT: R368 Takes trap BKPT at itself. -/
  | bkpt
  /-- SVC: R370 Posts a SERVICE message with six words to the service context and waits for the reply. -/
  | svc (n : Reg)
  /-- LDB_H: R206 Loads a signed byte at a home offset. -/
  | ldbH (o : LdOrd) (d : Reg) (a : Reg) (i : BitVec 10)
  /-- LDBU_H: R206 Loads an unsigned byte at a home offset. -/
  | ldbuH (o : LdOrd) (d : Reg) (a : Reg) (i : BitVec 10)
  /-- LDH_H: R206 Loads a signed halfword at a home offset. -/
  | ldhH (o : LdOrd) (d : Reg) (a : Reg) (i : BitVec 10)
  /-- LDHU_H: R206 Loads an unsigned halfword at a home offset. -/
  | ldhuH (o : LdOrd) (d : Reg) (a : Reg) (i : BitVec 10)
  /-- LDW_H: R206 Loads a word at a home offset. -/
  | ldwH (o : LdOrd) (d : Reg) (a : Reg) (i : BitVec 10)
  /-- LDD_H: R206 Loads a pair at a home offset. -/
  | lddH (o : LdOrd) (d : Reg) (a : Reg) (i : BitVec 10)
  /-- LDQ_H: R206 Loads a quad at a home offset. -/
  | ldqH (o : LdOrd) (d : Reg) (a : Reg) (i : BitVec 10)
  /-- LDO_H: R206 Loads an octet at a home offset. -/
  | ldoH (o : LdOrd) (d : Reg) (a : Reg) (i : BitVec 10)
  /-- LDB_G: R206 Loads a signed byte at a global virtual address. -/
  | ldbG (o : LdOrd) (d : Reg) (a : Reg) (i : BitVec 10)
  /-- LDBU_G: R206 Loads an unsigned byte at a global virtual address. -/
  | ldbuG (o : LdOrd) (d : Reg) (a : Reg) (i : BitVec 10)
  /-- LDH_G: R206 Loads a signed halfword at a global virtual address. -/
  | ldhG (o : LdOrd) (d : Reg) (a : Reg) (i : BitVec 10)
  /-- LDHU_G: R206 Loads an unsigned halfword at a global virtual address. -/
  | ldhuG (o : LdOrd) (d : Reg) (a : Reg) (i : BitVec 10)
  /-- LDW_G: R206 Loads a word at a global virtual address. -/
  | ldwG (o : LdOrd) (d : Reg) (a : Reg) (i : BitVec 10)
  /-- LDD_G: R206 Loads a pair at a global virtual address. -/
  | lddG (o : LdOrd) (d : Reg) (a : Reg) (i : BitVec 10)
  /-- LDQ_G: R206 Loads a quad at a global virtual address. -/
  | ldqG (o : LdOrd) (d : Reg) (a : Reg) (i : BitVec 10)
  /-- LDO_G: R206 Loads an octet at a global virtual address. -/
  | ldoG (o : LdOrd) (d : Reg) (a : Reg) (i : BitVec 10)
  /-- STB: R212 Stores a byte at a home offset. -/
  | stb (o : StOrd) (d : Reg) (a : Reg) (i : BitVec 10)
  /-- STH: R212 Stores a halfword at a home offset. -/
  | sth (o : StOrd) (d : Reg) (a : Reg) (i : BitVec 10)
  /-- STW: R212 Stores a word at a home offset. -/
  | stw (o : StOrd) (d : Reg) (a : Reg) (i : BitVec 10)
  /-- STD: R212 Stores a pair at a home offset. -/
  | std (o : StOrd) (d : Reg) (a : Reg) (i : BitVec 10)
  /-- STQ: R212 Stores a quad at a home offset. -/
  | stq (o : StOrd) (d : Reg) (a : Reg) (i : BitVec 10)
  /-- STO: R212 Stores an octet at a home offset. -/
  | sto (o : StOrd) (d : Reg) (a : Reg) (i : BitVec 10)
  /-- LDL: R215 Loads a group from the core's own store in 2 cycles. -/
  | ldl (w : Width) (d : Reg) (a : Reg) (i : BitVec 10)
  /-- STL: R215 Stores a group into the core's own store at issue. -/
  | stl (w : Width) (d : Reg) (a : Reg) (i : BitVec 10)
  /-- ATOM_ADD: R217 Atomically adds at a home offset and returns the old value. -/
  | atomAdd (o : AtOrd) (w : Width) (d : Reg) (a : Reg) (b : Reg)
  /-- ATOM_MIN: R217 Atomic signed minimum. -/
  | atomMin (o : AtOrd) (w : Width) (d : Reg) (a : Reg) (b : Reg)
  /-- ATOM_MAX: R217 Atomic signed maximum. -/
  | atomMax (o : AtOrd) (w : Width) (d : Reg) (a : Reg) (b : Reg)
  /-- ATOM_MINU: R217 Atomic unsigned minimum. -/
  | atomMinu (o : AtOrd) (w : Width) (d : Reg) (a : Reg) (b : Reg)
  /-- ATOM_MAXU: R217 Atomic unsigned maximum. -/
  | atomMaxu (o : AtOrd) (w : Width) (d : Reg) (a : Reg) (b : Reg)
  /-- ATOM_AND: R217 Atomic AND. -/
  | atomAnd (o : AtOrd) (w : Width) (d : Reg) (a : Reg) (b : Reg)
  /-- ATOM_OR: R217 Atomic OR. -/
  | atomOr (o : AtOrd) (w : Width) (d : Reg) (a : Reg) (b : Reg)
  /-- ATOM_XOR: R217 Atomic XOR. -/
  | atomXor (o : AtOrd) (w : Width) (d : Reg) (a : Reg) (b : Reg)
  /-- ATOM_SWAP: R217 Atomic swap. -/
  | atomSwap (o : AtOrd) (w : Width) (d : Reg) (a : Reg) (b : Reg)
  /-- ATOM_CAS: R217 Atomic compare-and-swap. -/
  | atomCas (o : AtOrd) (w : Width) (d : Reg) (a : Reg) (b : Reg)
  /-- FENCE: R219 Waits for earlier loads to return and earlier writes to be performed before later path-C accesses. -/
  | fence (sc : Scope)
  /-- FENCE_P: R220 Orders seen-complete writes on path pa before later accesses on path pb. -/
  | fenceP (a : Path) (b : Path)
  /-- RWB: R222 Writes back dirty L1 bytes of a home range. -/
  | rwb (a : Reg) (b : Reg)
  /-- RINV: R222 Writes back and discards the L1 lines of a global range. -/
  | rinv (a : Reg) (b : Reg)
  /-- CLEAN: R222 Discards a range from the reader cache and the L1. -/
  | clean (a : Reg) (b : Reg)
  /-- PULL: R237 Submits a strided pull into home memory on a tag. -/
  | pull (a : Reg) (b : Reg) (t : Tag)
  /-- PULLD: R237 Submits a pull that distributes blocks across core stores. -/
  | pulld (a : Reg) (b : Reg) (t : Tag)
  /-- PULLC: R237 Submits a pull that writes a completion stamp. -/
  | pullc (a : Reg) (b : Reg) (t : Tag)
  /-- STREAM: R241 Puts an octet into stream mode on a tag. -/
  | stream (b : Reg) (p : Reg) (t : Tag)
  /-- TAGWAIT_ANY: R244 Waits for any masked tag to be DONE and returns its number. -/
  | tagwaitAny (d : Reg) (a : Reg)
  /-- TAGWAIT_ALL: R244 Waits until every masked tag is DONE. -/
  | tagwaitAll (a : Reg)
  /-- TAGFF: R244 Returns the lowest masked DONE tag, or 64. -/
  | tagff (d : Reg) (a : Reg)
  /-- TAGCLR: R244 Frees the masked DONE tags. -/
  | tagclr (a : Reg)
  /-- TAGTST: R244 Returns a tag's status word. -/
  | tagtst (d : Reg) (t : Tag)
  /-- SCLOSE: R242 Closes a stream, waiting for landings under way. -/
  | sclose (a : Reg)
  /-- MMA: R281 Sends a matrix command to the core's own plane array. -/
  | mma (a : Reg) (b : Reg) (t : Tag)
  /-- MMAS: R279 Sends a matrix command with a skip list from a stream. -/
  | mmas (a : Reg) (b : Reg) (t : Tag)
  /-- MSEND: R277 Sends a matrix command to tile TT's plane array. -/
  | msend (a : Reg) (b : Reg) (t : Tag)
  /-- MDRAIN: R289 Sends a drain of accumulators into core store. -/
  | mdrain (a : Reg) (t : Tag)
  /-- MZERO: R287 Sends a command that zeroes accumulator banks. -/
  | mzero (a : Reg) (t : Tag)
  /-- PLANE: R274 Converts a block of 32 elements into a plane record in core store. -/
  | plane (b : Reg) (s : Reg)
  /-- TIDSET: R275 Writes a tensor identifier entry of the launch's bank. -/
  | tidset (a : Reg) (b : Reg)
  /-- TIDCLR: R275 Clears a tensor identifier entry. -/
  | tidclr (a : Reg)
  /-- PUB: R299 Releases, then advances a milestone to a new value. -/
  | pub (a : Reg) (b : Reg)
  /-- PUBI: R299 Releases, then advances a milestone by an immediate. -/
  | pubi (a : Reg) (i : BitVec 12)
  /-- UNWATCH: R305 Cancels or awaits a pending watch on a tag. -/
  | unwatch (d : Reg) (t : Tag)
  /-- BAR: R307 Arrives at a barrier and waits for its generation to change. -/
  | bar (a : Reg)
  /-- BARA: R307 Arrives at a barrier and returns the generation without waiting. -/
  | bara (d : Reg) (a : Reg)
  /-- BARW: R307 Waits for a barrier's generation to differ from a register. -/
  | barw (a : Reg) (b : Reg)
  /-- CONVOY: R313 Waits for the named contexts, then forms a convoy. -/
  | convoy (m : Reg)
  /-- CJOIN: R129 Waits among the convoy's participants and re-forms the convoy. -/
  | cjoin
  /-- CLEAVE: R127 Leaves the convoy. -/
  | cleave
  /-- WATCH: R302 Sends a watch of a milestone with a threshold on a tag. -/
  | watch (a : Reg) (t : Tag)
  /-- SEND: R311 Releases and sends a 32-byte message, waiting for ACCEPT. -/
  | send (s : Reg) (t : Reg)
  /-- SENDT: R311 Sends a message without waiting; the answer goes to wd. -/
  | sendt (d : Reg) (s : Reg) (t : Reg)
  /-- RECV: R311 Takes the oldest message for the context, blocking if there is none. -/
  | recv (d : Reg)
  /-- RECVT: R311 Takes a message if one is held, and reports whether it did. -/
  | recvt (d : Reg) (s : Reg)
  /-- ENQ: R315 Places a launch record in a device queue, or grows the launch, blocking on a full queue. -/
  | enq (s : Reg) (q : Reg)
  /-- ENQT: R315 As ENQ, without blocking; the status goes to wd. -/
  | enqt (d : Reg) (s : Reg) (q : Reg)
  /-- LEASE: R344 Requests colours towards a partner on a tag. -/
  | lease (a : Reg) (t : Tag)
  /-- COLL: R353 Issues a collective to the cluster's sequencer on a tag. -/
  | coll (a : Reg) (t : Tag)
  /-- LEASEQ: R345 Queries the lease state towards a package. -/
  | leaseq (d : Reg) (p : Reg)
  /-- LEASEREL: R346 Releases leased colours towards a package. -/
  | leaserel (d : Reg) (p : Reg) (n : Reg)
  /-- DEADQ: R339 Queries a package's dead-peer and link state. -/
  | deadq (d : Reg) (p : Reg)
  /-- VADD: R252 Adds lanes. -/
  | vadd (t : Ty) (r : Rc) (d : Oct) (a : Oct) (b : Oct) (m : MReg)
  /-- VSUB: R252 Subtracts lanes. -/
  | vsub (t : Ty) (r : Rc) (d : Oct) (a : Oct) (b : Oct) (m : MReg)
  /-- VMUL: R252 Multiplies lanes. -/
  | vmul (t : Ty) (r : Rc) (d : Oct) (a : Oct) (b : Oct) (m : MReg)
  /-- VFMA: R252 Fused multiply-add on lanes. -/
  | vfma (t : Ty) (r : Rc) (d : Oct) (a : Oct) (b : Oct) (m : MReg)
  /-- VFMS: R252 Fused multiply-subtract on lanes. -/
  | vfms (t : Ty) (r : Rc) (d : Oct) (a : Oct) (b : Oct) (m : MReg)
  /-- VFNMA: R252 Fused negated multiply-add on lanes. -/
  | vfnma (t : Ty) (r : Rc) (d : Oct) (a : Oct) (b : Oct) (m : MReg)
  /-- VMAX: R253 Lane maximum. -/
  | vmax (t : Ty) (d : Oct) (a : Oct) (b : Oct) (m : MReg)
  /-- VMIN: R253 Lane minimum. -/
  | vmin (t : Ty) (d : Oct) (a : Oct) (b : Oct) (m : MReg)
  /-- VABS: R253 Lane absolute value. -/
  | vabs (t : Ty) (d : Oct) (a : Oct) (m : MReg)
  /-- VNEG: R253 Lane negation. -/
  | vneg (t : Ty) (d : Oct) (a : Oct) (m : MReg)
  /-- VDOT: R254 Accumulates short dot products into wide lanes. -/
  | vdot (t : Ty) (r : Rc) (d : Oct) (a : Oct) (b : Oct) (m : MReg)
  /-- VRCP: R255 Correctly rounded reciprocal on lanes. -/
  | vrcp (t : Ty) (r : Rc) (d : Oct) (a : Oct) (m : MReg)
  /-- VRSQ: R255 Correctly rounded reciprocal square root on lanes. -/
  | vrsq (t : Ty) (r : Rc) (d : Oct) (a : Oct) (m : MReg)
  /-- VEXP2: R255 Correctly rounded 2^a on lanes. -/
  | vexp2 (t : Ty) (r : Rc) (d : Oct) (a : Oct) (m : MReg)
  /-- VCVT: R257 Converts lanes between types of equal size. -/
  | vcvt (t : Ty) (st : Ty) (r : Rc) (d : Oct) (a : Oct) (m : MReg)
  /-- VCVTW: R257 Widens lanes exactly. -/
  | vcvtw (t : Ty) (st : Ty) (d : Oct) (a : Oct) (m : MReg)
  /-- VCVTN: R257 Narrows lanes with rounding. -/
  | vcvtn (t : Ty) (st : Ty) (r : Rc) (d : Oct) (a : Oct) (m : MReg)
  /-- VQNT: R258 Quantises 32 elements into an EX4 block. -/
  | vqnt (st : Ty) (d : Oct) (a : Oct)
  /-- VDQ: R259 Decodes an EX4 block into lanes. -/
  | vdq (t : Ty) (r : Rc) (d : Oct) (a : Oct) (m : MReg)
  /-- VCMP_CC: R260 Compares lanes into a mask register. -/
  | vcmpCc (c : VCond) (t : Ty) (d : MReg) (a : Oct) (b : Oct) (m : MReg)
  /-- VSEL: R261 Selects lanes by a mask. -/
  | vsel (t : Ty) (d : Oct) (a : Oct) (b : Oct) (m : MReg)
  /-- VPERM: R261 Permutes lanes by index. -/
  | vperm (t : Ty) (d : Oct) (a : Oct) (b : Oct) (m : MReg)
  /-- VBCAST: R261 Broadcasts a word register to lanes. -/
  | vbcast (t : Ty) (d : Oct) (s : Reg) (m : MReg)
  /-- VINS: R262 Inserts a word register into one lane. -/
  | vins (t : Ty) (d : Oct) (s : Reg) (idx : BitVec 5)
  /-- VEXT: R262 Extracts one lane into a word register. -/
  | vext (t : Ty) (d : Reg) (v : Oct) (idx : BitVec 5)
  /-- VIOTA: R261 Writes each lane's index. -/
  | viota (t : Ty) (d : Oct) (m : MReg)
  /-- VRED_SUM: R263 Sums enabled lanes by a fixed tree into lane 0. -/
  | vredSum (t : Ty) (r : Rc) (d : Oct) (a : Oct) (m : MReg)
  /-- VRED_MAX: R263 Maximum of enabled lanes into lane 0. -/
  | vredMax (t : Ty) (d : Oct) (a : Oct) (m : MReg)
  /-- VRED_MIN: R263 Minimum of enabled lanes into lane 0. -/
  | vredMin (t : Ty) (d : Oct) (a : Oct) (m : MReg)
  /-- VTBL: R268 Looks lanes up in a table slot with linear interpolation. -/
  | vtbl (t : Ty) (r : Rc) (d : Oct) (a : Oct) (slot : BitVec 2) (m : MReg)
  /-- VTBLD: R267 Loads a table image into a slot of the tile's table engine. -/
  | vtbld (slot : BitVec 2) (s : Reg)
  /-- MAND: R264 ANDs mask registers. -/
  | mand (d : MReg) (a : MReg) (b : MReg)
  /-- MOR: R264 ORs mask registers. -/
  | mor (d : MReg) (a : MReg) (b : MReg)
  /-- MXOR: R264 XORs mask registers. -/
  | mxor (d : MReg) (a : MReg) (b : MReg)
  /-- MNOT: R264 Inverts a mask register. -/
  | mnot (d : MReg) (a : MReg)
  /-- MPOP: R264 Counts the 1 bits of a mask register. -/
  | mpop (d : Reg) (a : MReg)
  /-- ADDI16_POS: R145 16-bit ADDI with an immediate from 0 to 31. -/
  | addi16Pos (d : Reg) (i : BitVec 5)
  /-- ADD16: R145 16-bit ADD. -/
  | add16 (d : Reg) (s : BitVec 5)
  /-- SUB16: R145 16-bit SUB. -/
  | sub16 (d : Reg) (s : BitVec 5)
  /-- AND16: R145 16-bit AND. -/
  | and16 (d : Reg) (s : BitVec 5)
  /-- OR16: R145 16-bit OR. -/
  | or16 (d : Reg) (s : BitVec 5)
  /-- XOR16: R145 16-bit XOR. -/
  | xor16 (d : Reg) (s : BitVec 5)
  /-- MOV16: R145 16-bit MOV. -/
  | mov16 (d : Reg) (s : BitVec 5)
  /-- MOVI16: R145 16-bit MOVI with an immediate from −16 to 15. -/
  | movi16 (d : Reg) (i : BitVec 5)
  /-- SHLI16: R145 16-bit SHLI. -/
  | shli16 (d : Reg) (k : BitVec 5)
  /-- SHRI16: R145 16-bit SHRI. -/
  | shri16 (d : Reg) (k : BitVec 5)
  /-- SHAI16: R145 16-bit SHAI. -/
  | shai16 (d : Reg) (k : BitVec 5)
  /-- MUL16: R145 16-bit MUL. -/
  | mul16 (d : Reg) (s : BitVec 5)
  /-- MIN16: R145 16-bit MIN. -/
  | min16 (d : Reg) (s : BitVec 5)
  /-- MAX16: R145 16-bit MAX. -/
  | max16 (d : Reg) (s : BitVec 5)
  /-- ANDI16: R145 16-bit ANDI with an immediate from 0 to 31. -/
  | andi16 (d : Reg) (i : BitVec 5)
  /-- ADDI16_NEG: R145 16-bit ADDI with an immediate from −32 to −1. -/
  | addi16Neg (d : Reg) (i : BitVec 5)
  /-- POWER_GOOD: R12 The board asserts power-good, so phase 2 begins: the I/O die senses fuses, hashes the boot ROM and enters the ROM state. -/
  | powerGood
  /-- ROM_MEASURED: R12 The phase-2 hash of the boot ROM completes: MEAS0 is extended with the digest and the management core is released at address 0. -/
  | romMeasured
  /-- PHASE_TIMEOUT: R12 A power-up phase exceeds its limit: the I/O die writes 0xF0 plus the phase number into BOOT_STAT and power-up ends in FAILED. -/
  | phaseTimeout
  /-- FIRST_SRAM_FETCH: R24 The management core makes its first instruction fetch from SRAM after the jump, and the I/O die sets STATE to FIRMWARE. -/
  | firstSramFetch
  /-- CE_HASH: R15 Command 1 written to CE_CMD hashes CE_LEN bytes at CE_SRC with SHA-384 into CE_DIGEST, unless a command is busy. -/
  | ceHash
  /-- CE_VERIFY_ECDSA: R15 Command 2 written to CE_CMD verifies the ECDSA P-384 signature at CE_SIG over CE_DIGEST. -/
  | ceVerifyEcdsa
  /-- CE_VERIFY_LMS: R15 Command 3 written to CE_CMD verifies the one-level HSS LMS signature at CE_SIG over CE_DIGEST. -/
  | ceVerifyLms
  /-- CE_COMMAND_DONE: R16 A crypto-engine command ends: BUSY clears and DONE is set, with PASS or ERR as the outcome gives. -/
  | ceCommandDone
  /-- ME_EXTEND: R17 Command 1 written to ME_CMD extends MEASi with the 48 bytes at ME_SRC; an index of 0 sets ERR. -/
  | meExtend
  /-- ME_SPDM_MEAS: R17 Command 2 written to ME_CMD parses a GET_MEASUREMENTS request in the receive buffer and writes a signed MEASUREMENTS response to the transmit buffer. -/
  | meSpdmMeas
  /-- ME_COMMAND_DONE: R16 A measurement-block command ends: BUSY clears and DONE is set, with ERR on failure. -/
  | meCommandDone
  /-- MCTP_REQUEST: R18 An MCTP request arrives from the board controller: the mailbox answers the SPDM discovery requests itself and places every other request in the receive buffer, setting RXV. -/
  | mctpRequest
  /-- MB_TXLEN: R18 A write to MB_TXLEN transmits that many bytes from the mailbox transmit buffer and sets TXB. -/
  | mbTxlen
  /-- MB_TRANSMIT_DONE: R18 A mailbox transmission ends and TXB clears. -/
  | mbTransmitDone
  /-- MB_RXDONE: R18 Writing 1 to MB_RXDONE releases the mailbox receive buffer and clears RXV. -/
  | mbRxdone
  /-- BOOT_STAT_WRITE: R19 A write to BOOT_STAT sets the boot status, unless a timeout value stands; the value 0xEF sets DEV_STATE.STATE to FAILED in the same cycle. -/
  | bootStatWrite
  /-- FU_STATE_WRITE: R24 A write of 0x03, 0x04 or 0xFF to FU_STATE moves DEV_STATE.STATE forward where R24 allows it, and is otherwise ignored. -/
  | fuStateWrite
  /-- CONFIG_REQUEST: R26 A PCIe configuration request is answered by hardware from 100 ms after PERST# is deasserted, in every phase. -/
  | configRequest
  /-- TRAIN_START: R27 Training with a partner leaves DOWN, at READY or once 1 s has passed since the last failure, and starts CAL. -/
  | trainStart
  /-- CAL_DONE: R27 Calibration ends: colours with a bit-error rate above 10^-12 are unusable, and training goes to RTT if one colour is usable and to DOWN otherwise. -/
  | calDone
  /-- RTT_DONE: R27 The echo round trips end: the median RTT of each usable colour is taken, and training goes to KEYS, or to DOWN if it is over 2 ms. -/
  | rttDone
  /-- KEYS_DONE: R27 The mutually authenticated SPDM session is established and the eight group keys are derived; training goes to WINDOWS. -/
  | keysDone
  /-- KEY_UPDATE: R331 A group key reaches 2^40 flits or one hour of use, so firmware runs SPDM KEY_UPDATE and derives new group keys. -/
  | keyUpdate
  /-- KS_CREATE: R47 Key-store command 1 puts a new random key in an EMPTY allocation slot, held by the caller. -/
  | ksCreate
  /-- KS_IMPORT: R47 Key-store command 2 unwraps the key at KS_ADDR into an EMPTY slot held by the caller, setting ERR if the unwrap fails. -/
  | ksImport
  /-- KS_EXPORT: R47 Key-store command 3 writes the wrapped key of a slot the caller holds to KS_ADDR. -/
  | ksExport
  /-- KS_OFFER: R47 Key-store command 4 marks a held slot OFFERED to the function in KS_ARG. -/
  | ksOffer
  /-- KS_ACCEPT: R49 Key-store command 5 begins the handoff of an offered slot: the offering function's translation units clear the slot's bit. -/
  | ksAccept
  /-- KS_ACCEPT_DRAINED: R49 The accesses that had passed their check have completed, so the key is re-wrapped and passes to the accepting function, which gains the bit, and DONE is set. -/
  | ksAcceptDrained
  /-- KS_ERASE: R48 Key-store command 6 begins an erase: every translation unit clears the slot's bit. -/
  | ksErase
  /-- KS_ERASE_DRAINED: R48 The accesses that had passed their check have completed, so the key is zeroed, the slot becomes EMPTY and DONE is set. -/
  | ksEraseDrained
  /-- KS_SIMPORT: R292 Key-store command 7 unwraps a sealed-key buffer through ECDH with the attestation key and makes the sealed slot HELD by the caller. -/
  | ksSimport
  /-- KS_SERASE: R295 Key-store command 8 begins erasing a sealed slot: the plane arrays refuse new sealed fetches under it. -/
  | ksSerase
  /-- KS_SERASE_DRAINED: R295 The sealed fetches in progress have ended, so the decrypted operand blocks are zeroed, XK and GK are zeroed, the slot becomes EMPTY and DONE is set. -/
  | ksSeraseDrained
  /-- CLUSTER_FN_WRITE: R50 A write to CLUSTER_FNc moves an idle cluster to another function, zeroing its memories, clearing its roots and replacing its key bitmap, and is otherwise ignored. -/
  | clusterFnWrite
  /-- QUEUE_FN_WRITE: R91 A write to QUEUE_FNq assigns an ABSENT queue to a function, and is otherwise ignored. -/
  | queueFnWrite
  /-- REGISTER_WRITE: R8 A write to a device register that has no row of its own sets its RW fields, with RSV bits ignored and holes ignored. -/
  | registerWrite
  /-- Q_PROD_WRITE: R94 A write to Q_PROD of a host queue advances the producer count, notes PROD_REGRESS, or raises OVERRUN, as R94 gives. -/
  | qProdWrite
  /-- QUEUE_CREATE: R93 Q_CMD code 1 makes an ABSENT queue with a valid LOGN ACTIVE, with zeroed counts, history and error record. -/
  | queueCreate
  /-- QUEUE_DESTROY: R97 Q_CMD code 2 sets the queue DRAINING, drops unplaced launches, unpicks its basting launches, and lets placed launches finish, or pre-empts them with abort. -/
  | queueDestroy
  /-- QUEUE_RESUME: R93 Q_CMD code 3 returns a queue in ERROR to ACTIVE, skipping or rereading a failed record where R93 allows. -/
  | queueResume
  /-- SVC_CTL_WRITE: R131 An accepted write to SVC_CTL starts the service context on context 3 of core 0, or refuses it, or returns that context to FREE. -/
  | svcCtlWrite
  /-- BST_CTL_WRITE: R104 A write to BST_CTL sets the basting limits, and unpicks the newest basting launches or those older than a lowered LIFE. -/
  | bstCtlWrite
  /-- RECORD_READ: R96 The front end starts reading record n of an ACTIVE queue once Q_PROD exceeds n and NLIVE is below 16. -/
  | recordRead
  /-- RECORD_ARRIVAL: R96 A whole record has been read, so the front end checks it under R60 and accepts it, or raises FETCH_FAULT or the reason of the failed check. -/
  | recordArrival
  /-- ENQ_REQUEST: R100 An ENQ or ENQT request reaches the front end, which copies the record into the device queue and advances Q_PROD, adds teams, or answers a status of refusal. -/
  | enqRequest
  /-- DEPENDENCE_SATISFIED: R58 The watch of a dependence completes, satisfying the dependence and keeping its stamp, or failing it and dropping the launch with DEPENDENCE. -/
  | dependenceSatisfied
  /-- TEAM_PLACE: R113 The front end places the next team of the first offered launch that fits, in the order of R99 and on a cluster chosen under R116. -/
  | teamPlace
  /-- LAUNCH_BLOCKING: R99 A launch has been offered for 2^20 cycles without receiving a team, so it becomes blocking and holds back placement at its priority and below. -/
  | launchBlocking
  /-- BASTE_START: R103 The predictor starts a basting launch of the predicted record on free clusters once every condition of R103 holds at one moment. -/
  | basteStart
  /-- BASTE_ADOPT: R108 A matching record is accepted and its dependences hold, so the basting launch's contexts halt and revalidation requests go to the owners. -/
  | basteAdopt
  /-- BASTE_REVALIDATED: R108 Every read-set generation is confirmed equal, so the shadow lines are committed home. -/
  | basteRevalidated
  /-- BASTE_COMMITTED: R108 Every shadow line is home, so the deferred effects are replayed in recorded order. -/
  | basteCommitted
  /-- BASTE_CLAIMED: R108 The replay has ended, so the basting contexts resume as ordinary contexts of the real launch and BST_CLAIMS advances. -/
  | basteClaimed
  /-- BASTE_UNPICK: R110 An unpicking event discards the basting launch's shadow lines, log and read set, scrubs its teams and releases its clusters. -/
  | basteUnpick
  /-- BASTE_LIFE_EXPIRY: R104 A basting launch outlives LIFE and is unpicked. -/
  | basteLifeExpiry
  /-- QUANTUM_EXPIRY: R122 A turn's count reaches 2^14 while another context is READY, so the turn ends and the next context in the ring issues two cycles later. -/
  | quantumExpiry
  /-- FETCH_LINE_ARRIVAL: R120 A fetched code line arrives and the context that waited for it becomes READY. -/
  | fetchLineArrival
  /-- BREAKPOINT_MATCH: R369 The PC matches a non-zero BPAi with SKIPBP clear in a DEBUG or SYS launch, so BKPT is taken before the instruction executes. -/
  | breakpointMatch
  /-- TEAM_STALL: R134 A team meets the stall condition for 2^STALLK cycles, so every BLOCKED context takes TEAM_STALL at its blocking instruction. -/
  | teamStall
  /-- TABLE_WALK_READ: R38 A walker's read of a table page returns, and the walk examines the entry, goes down a level, succeeds, traps or ends in a page-fault message. -/
  | tableWalkRead
  /-- TU_RETRY: R373 A TU_REPLY with ACTION 0 makes every requester of the token walk again. -/
  | tuRetry
  /-- TU_FAIL: R373 A TU_REPLY with ACTION 1 traps each context requester with CODE and completes each engine tag with CODE. -/
  | tuFail
  /-- TU_ANSWER: R373 A TU_REPLY with ACTION 2 completes an SVC with VALUE, and acts as RETRY for a page fault. -/
  | tuAnswer
  /-- TU_INV_PAGE: R374 TU_INV command 1 removes one page's translations from every TLB of the cluster. -/
  | tuInvPage
  /-- TU_INV_SPACE: R374 TU_INV command 2 removes one address space's translations from every TLB of the cluster. -/
  | tuInvSpace
  /-- TU_INV_ALL: R374 TU_INV command 3 removes every translation from every TLB of the cluster. -/
  | tuInvAll
  /-- TU_INV_DONE: R374 The earlier walks have ended and the pins on matching pages are released, so TU_INVST.DONE is set. -/
  | tuInvDone
  /-- LOAD_REPLY: R206 An off-core load's data arrives and is written to its destination, raising the owner's floor for .ACQ and waking the context. -/
  | loadReply
  /-- ATOM_REPLY: R218 The atomic unit's old value for an ATOM reaches its destination register. -/
  | atomReply
  /-- L1_EVICTION: R199 The L1 evicts a line, and any dirty SWM bytes are written back under their mask. -/
  | l1Eviction
  /-- READ: R334 A READ item reaches an owner port, which refuses it or answers with owner_read data and the publication stamp. -/
  | read
  /-- READ_REPLY: R334 A READ_REPLY item delivers read data, a stamp and a status to the requesting cluster. -/
  | readReply
  /-- PULL_REQ: R230 A pull request of up to 4 KiB reaches the source page's owner port, which checks it and returns the data as PULL_DATA or an error. -/
  | pullReq
  /-- PULL_DATA: R232 Pull data arrives and lands in 32-byte units through the puller's home path, or in a stream ring. -/
  | pullData
  /-- PULL_COMPLETE: R234 The last landing of a pull is performed, so the stamp is written for PULLC, the tag becomes DONE with or without error, and the pins are released. -/
  | pullComplete
  /-- WATCH_REQ: R303 A watch request reaches an owner port, which refuses it, completes it at once if the threshold is met, enters it in the watch table, or refuses the entry so that the watcher's port polls. -/
  | watchReq
  /-- WATCH_POLL: R303 Every 1 µs the watcher's port reads a polled word with owner_read and completes the watch if the threshold is met. -/
  | watchPoll
  /-- WATCH_DONE: R304 A watch completion arrives: the floor rises, VALUE is written into the block and the tag becomes DONE, in that order. -/
  | watchDone
  /-- MSG: R309 A message reaches the target's mailbox router, which answers ACCEPT, FULL or REFUSE and keeps FULL senders on a list. -/
  | msg
  /-- MSG_ANSWER: R311 A message answer or a slot notification reaches the sender, which completes, resends or traps, or whose SENDT status is written. -/
  | msgAnswer
  /-- ENQ_ANSWER: R315 The front end's status for an ENQ or ENQT reaches the context, which completes, stays BLOCKED, traps PERM, or receives the status in wd. -/
  | enqAnswer
  /-- UNWATCH_ANSWER: R305 The owner port's or the polling port's answer to an UNWATCH arrives and is written to wd. -/
  | unwatchAnswer
  /-- FABRIC_QUERY_ANSWER: R339 The answer to a DEADQ, LEASEQ or LEASEREL arrives and is written to wd. -/
  | fabricQueryAnswer
  /-- MATRIX_ACCEPT: R280 A plane array takes a command from its queue, runs the checks of R280 and starts its B fetch, or completes its tag with an error. -/
  | matrixAccept
  /-- B_FETCH_DONE: R294 A command's B fetch completes, with GMAC verification and decryption for sealed chunks, and the blocks are converted to plane form. -/
  | bFetchDone
  /-- MATRIX_STEP_START: R284 The plane array starts the compute, drain or zero step of its next accepted command once the previous step has ended and the command's operands are ready. -/
  | matrixStepStart
  /-- MATRIX_STEP_DONE: R286 A compute, drain or zero step ends and the command's tag becomes DONE in the next cycle. -/
  | matrixStepDone
  /-- VTBLD_DONE: R267 A VTBLD completes and the new table replaces the old one in the slot as a whole. -/
  | vtbldDone
  /-- FLIT_SEND: R332 A colour with a DATA flit waiting and room in its window sends it with SEQ = NEXT. -/
  | flitSend
  /-- DATA: R332 A DATA flit arrives: a failed tag discards it, and otherwise it is accepted in order and its items are delivered or relayed, or it is discarded with a NAK or an ACK. -/
  | data
  /-- ACK: R332 An ACK arrives and moves UNA forward, removing acknowledged flits from the window. -/
  | ack
  /-- NAK: R332 A NAK arrives and the sender resends from the missing number, before any new DATA. -/
  | nak
  /-- IDLE: R332 An IDLE flit arrives, carrying an acknowledgement and keeping the partner alive. -/
  | idle
  /-- ECHO: R27 An echo flit arrives during RTT training and is returned so that round trips can be timed. -/
  | echo
  /-- ACK_TIMER: R332 1 µs passes since the oldest unacknowledged acceptance, so the receiver sends an ACK. -/
  | ackTimer
  /-- RETRANSMIT_TIMEOUT: R332 UNA stays unchanged for 2 × RTT + 2 µs while flits are outstanding, so the sender resends from UNA. -/
  | retransmitTimeout
  /-- IDLE_TIMER: R332 Nothing has been sent on a colour for 2 µs, so it sends IDLE. -/
  | idleTimer
  /-- COLOUR_RECALIBRATED: R333 A dark colour's lane passes recalibration and the colour returns. -/
  | colourRecalibrated
  /-- LANE_RETUNED: R327 A lane finishes retuning to another route, within 4 µs, and may send again. -/
  | laneRetuned
  /-- LEASE_REQ: R342 A LEASE_REQ reaches the destination's port, which pairs lanes for it, refuses it, or queues it and marks grants revoked. -/
  | leaseReq
  /-- LEASE_ANSWER: R344 A lease answer arrives: GOT, WHY and TEND are written into the block, LEASEST is updated and the tag becomes DONE. -/
  | leaseAnswer
  /-- LEASE_WAIT_EXPIRY: R344 A lease request's WAITT expires, and it is refused with WHY 3 and LEASE_DENIED. -/
  | leaseWaitExpiry
  /-- TERM_END: R341 A grant's term ends: it renews, or it ends when revoked or over quota, and its lanes go dark once their flits are acknowledged. -/
  | termEnd
  /-- GEN_REQ: R334 A GEN_REQ item asks an owner for the current write generations of pages in a read set. -/
  | genReq
  /-- GEN_REPLY: R334 A GEN_REPLY item returns page generations to the front end for revalidation. -/
  | genReply
  /-- STATE: R337 A relay's STATE item reports packages dead or UP, setting or clearing their dead-peer bits. -/
  | state
  /-- ERROR: R335 An ERROR item returns a fault code for a request, completing it with that error. -/
  | error
  /-- DEAD_PEER_DECLARE: R337 A partner gives no flit for DT, or every colour to it stays dark for DTMIN, so it is declared dead: its bit is set, leases end, requests fail with DEAD_PEER and it returns to DOWN. -/
  | deadPeerDeclare
  /-- COLL_START: R354 The cluster's sequencer takes the next collective, writes the raw contribution and advances MS to +1. -/
  | collStart
  /-- COLL_WATCH_MET: R354 A sequencer watch on a peer's MS or on the abort milestone completes, so the sequencer pulls, aborts or completes the collective. -/
  | collWatchMet
  /-- COLL_PULL_LANDED: R355 A sequencer pull lands, so the node adds partials in fixed order and publishes, or a rank lands its result and advances MS. -/
  | collPullLanded
  /-- TNODE_EXPIRY: R356 A tree node's TNODE expires, so it forwards the partial of the children that have arrived, or the root pulls the missing contributions directly. -/
  | tnodeExpiry
  /-- TLIM_EXPIRY: R360 A collective's TLIM expires and the rank aborts with LINK_TIMEOUT. -/
  | tlimExpiry
  /-- PRE_SAVE: R377 PRE_CTL command 1 halts every context of the team within 0.8 µs and begins draining for the save. -/
  | preSave
  /-- SAVE_DRAINED: R377 The save's drain ends, so the image is written, redirect entries are set, resources are released and the image reads SAVED. -/
  | saveDrained
  /-- REDIRECT_COMPLETION: R381 A completion belonging to a saved team is applied to its image and OUT is decremented, reaching SETTLED at 0. -/
  | redirectCompletion
  /-- PRE_RESUME: R382 PRE_CTL command 2 checks the image header and offers the saved team for placement. -/
  | preResume
  /-- RESUME_PLACE: R382 Every resource of the saved team is free at once, so core records, banks, tables and contexts are restored and CAPT is issued afresh. -/
  | resumePlace
  /-- PRE_DROP: R383 PRE_CTL command 3 ends a saved team as if it had retired, cancelling its operations and marking the image DROPPED. -/
  | preDrop
  /-- DBG_READ: R386 DBG_CTL command 1 reads 8 bytes at a global virtual address into DBG_DATA, or refuses with a code. -/
  | dbgRead
  /-- DBG_WRITE: R386 DBG_CTL command 2 writes DBG_DATA at a home offset through the home path, or refuses with a code. -/
  | dbgWrite
  /-- TEAM_RETIRE: R388 Every context of a team has halted, so its streams close, its watches and leases are cancelled and retirement waits for its tags. -/
  | teamRetire
  /-- TEAM_RETIRE_DONE: R388 No tag of the retiring team is BUSY, so L1s are emptied, R68 scrubbing is applied and its positions and slot are released. -/
  | teamRetireDone
  /-- QUIESCENCE_WAVE: R391 Every 2^WAVE cycles a wave sums every router's launch counters over the package tree. -/
  | quiescenceWave
  /-- FUNCTION_LEVEL_RESET: R394 A function-level reset stops queues, halts teams, cancels operations, scrubs clusters, erases keys, clears roots and makes the queues ABSENT. -/
  | functionLevelReset
  /-- CONVENTIONAL_RESET: R395 A conventional reset of the host link, or a reset of the physical function, disables SR-IOV and resets every function as under R394. -/
  | conventionalReset
  /-- CORRECTED_ERROR: R397 A correctable storage error is repaired in place and counted. -/
  | correctedError
  /-- UNCORRECTABLE_ERROR: R398 An uncorrectable memory error poisons the line, so reads of it get error replies without setting dead-peer bits. -/
  | uncorrectableError
  /-- PARITY_ERROR: R398 A parity error drops the context's team with UNCORRECTABLE, or discards a watch-table or TLB entry. -/
  | parityError
  /-- HBM_LINK_TAG_FAIL: R45 An Ascon tag on an HBM link transfer fails, is retried once, and a second failure counts as an uncorrectable error. -/
  | hbmLinkTagFail
  /-- SNAP_QUIESCE: R400 SNAP_CMD QUIESCE stops placement of the function's teams and unpicks its basting launches. -/
  | snapQuiesce
  /-- QUIESCE_DONE: R400 Every team of the function has retired or is SAVED with OUT 0, so the snapshot milestone advances and QUIET is set. -/
  | quiesceDone
  /-- SNAP_COPY: R400 SNAP_CMD COPY starts copying HBM ciphertext to board memory peer-to-peer. -/
  | snapCopy
  /-- COPY_DONE: R400 A snapshot copy ends, advancing the milestone on success or stopping with DEAD_PEER or PERM. -/
  | copyDone
  /-- SNAP_RESTORE: R400 SNAP_CMD RESTORE starts writing lines from board memory back through the home path. -/
  | snapRestore
  /-- RESTORE_DONE: R400 A snapshot restore ends and the milestone advances. -/
  | restoreDone
  /-- SNAP_RELEASE: R400 SNAP_CMD RELEASE clears QUIET and placement resumes. -/
  | snapRelease
  /-- TELEMETRY_UPDATE: R401 Every 60 s firmware updates the wear, life, temperature and error telemetry registers. -/
  | telemetryUpdate
  /-- POWER_REMOVED: R21 Power is removed from the package, which ends every activity and leaves the state to be rebuilt from the next power-good. -/
  | powerRemoved
  /-- PERST_DEASSERTED: R26 PERST# is deasserted, which starts the 100 ms after which hardware answers configuration requests. -/
  | perstDeasserted
  /-- STORE_PERFORMED: R212 A store or L1 write-back forwarded through the store buffer takes its place in home order at the home cache or core store, which frees a store-buffer entry and lets waiting releases and stores proceed. -/
  | storePerformed
  /-- COMPLETION_TIMEOUT: R95 A PCIe read of a host queue's record gets no completion within the completion timeout, so the record is discarded and the queue stops with FETCH_FAULT. -/
  | completionTimeout
  deriving DecidableEq, Repr

end Sys2Proof
end

