-- ==== Sys2Proof/Decode.lean ====
section
/-! DEFINITION. Decoding and encoding: the fields of R146, the opcode map of R152, the fate of every encoding (R150),
and the encoder written from the same tables. -/

namespace Sys2Proof

/-- Why an encoding is not an instruction: the step of R150 that refuses it. -/
inductive Reject where
  /-- R143: the halfword 0x0000 or the word 0xFFFF_FFFF. -/
  | alwaysIllegal
  /-- Step 2 of R150. -/
  | unassignedMajor
  /-- Step 3 of R150: a function, selector, condition, type or ordering code. -/
  | unassignedFunction
  /-- Step 4 of R150. -/
  | nonzeroField
  /-- Step 5 of R150. -/
  | rounding
  /-- Step 6 of R150: a width, a misaligned group, an odd pair, a mask above 7 or m0 as a destination. -/
  | widthOrGroup
  /-- Step 7 of R150. -/
  | immediate
  /-- Fewer bytes than the length bit of R141 asks for. -/
  | truncated
  deriving DecidableEq, Repr

/-! ### Codes -/

def Width.ofCode (c : BitVec 2) : Width :=
  match c.toNat with
  | 0 => .single
  | 1 => .pair
  | 2 => .quad
  | _ => .octet

def Width.code : Width → BitVec 2
  | .single => 0
  | .pair => 1
  | .quad => 2
  | .octet => 3

/-- Registers in a group of the width (R135). -/
def Width.words : Width → Nat
  | .single => 1
  | .pair => 2
  | .quad => 4
  | .octet => 8

def Cc.ofCode (c : BitVec 4) : Option Cc :=
  match c.toNat with
  | 0 => some .eq
  | 1 => some .ne
  | 2 => some .lt
  | 3 => some .ge
  | 4 => some .ltu
  | 5 => some .geu
  | _ => none

def Cc.code : Cc → BitVec 4
  | .eq => 0
  | .ne => 1
  | .lt => 2
  | .ge => 3
  | .ltu => 4
  | .geu => 5

def VCond.ofCode (c : BitVec 4) : Option VCond :=
  match c.toNat with
  | 0 => some .eq
  | 1 => some .ne
  | 2 => some .lt
  | 3 => some .le
  | 4 => some .gt
  | 5 => some .ge
  | 6 => some .un
  | _ => none

def VCond.code : VCond → BitVec 4
  | .eq => 0
  | .ne => 1
  | .lt => 2
  | .le => 3
  | .gt => 4
  | .ge => 5
  | .un => 6

/-- The format codes of R64; 0xA to 0xF are unassigned. -/
def Ty.ofCode (c : BitVec 4) : Option Ty :=
  match c.toNat with
  | 0 => some .fp32
  | 1 => some .bf16
  | 2 => some .fp16
  | 3 => some .e4m3
  | 4 => some .e5m2
  | 5 => some .int8
  | 6 => some .uint8
  | 7 => some .int32
  | 8 => some .ex4
  | 9 => some .ue8
  | _ => none

def Ty.code : Ty → BitVec 4
  | .fp32 => 0
  | .bf16 => 1
  | .fp16 => 2
  | .e4m3 => 3
  | .e5m2 => 4
  | .int8 => 5
  | .uint8 => 6
  | .int32 => 7
  | .ex4 => 8
  | .ue8 => 9

/-- The rounding codes of R75; 0b0110 to 0b1111 trap. -/
def Rc.ofCode (c : BitVec 4) : Option Rc :=
  match c.toNat with
  | 0 => some .dyn
  | 1 => some .rne
  | 2 => some .rtz
  | 3 => some .rdn
  | 4 => some .rup
  | 5 => some .rsto
  | _ => none

def Rc.code : Rc → BitVec 4
  | .dyn => 0
  | .rne => 1
  | .rtz => 2
  | .rdn => 3
  | .rup => 4
  | .rsto => 5

def LdOrd.ofCode (c : BitVec 2) : Option LdOrd :=
  match c.toNat with
  | 0 => some .plain
  | 1 => some .inv
  | 2 => some .acq
  | _ => none

def LdOrd.code : LdOrd → BitVec 2
  | .plain => 0
  | .inv => 1
  | .acq => 2

def StOrd.ofCode (c : BitVec 2) : Option StOrd :=
  match c.toNat with
  | 0 => some .plain
  | 1 => some .rel
  | _ => none

def StOrd.code : StOrd → BitVec 2
  | .plain => 0
  | .rel => 1

def AtOrd.ofCode (c : BitVec 2) : AtOrd :=
  match c.toNat with
  | 0 => .rlx
  | 1 => .acq
  | 2 => .rel
  | _ => .ar

def AtOrd.code : AtOrd → BitVec 2
  | .rlx => 0
  | .acq => 1
  | .rel => 2
  | .ar => 3

def Scope.ofCode (c : BitVec 6) : Option Scope :=
  match c.toNat with
  | 0 => some .core
  | 1 => some .team
  | 2 => some .pkg
  | 3 => some .dom
  | _ => none

def Scope.code : Scope → BitVec 6
  | .core => 0
  | .team => 1
  | .pkg => 2
  | .dom => 3

def Path.ofCode (c : BitVec 6) : Option Path :=
  match c.toNat with
  | 0 => some .c
  | 1 => some .p
  | 2 => some .m
  | 3 => some .t
  | 4 => some .x
  | _ => none

def Path.code : Path → BitVec 6
  | .c => 0
  | .p => 1
  | .m => 2
  | .t => 3
  | .x => 4

/-- The special-register numbers of R139; every number not listed is unassigned. -/
def SReg.ofCode (c : BitVec 12) : Option SReg :=
  match c.toNat with
  | 0x000 => some .tags
  | 0x001 => some .tagerr
  | 0x004 => some (.lcnt 0)
  | 0x005 => some (.lcnt 1)
  | 0x006 => some (.lcnt 2)
  | 0x008 => some .xpc
  | 0x009 => some .xcause
  | 0x00A => some .xaddr
  | 0x00B => some .xinfo
  | 0x00C => some .tvec
  | 0x010 => some .rmode
  | 0x011 => some .seed
  | 0x018 => some .ctx
  | 0x019 => some .core
  | 0x01A => some .tile
  | 0x01B => some .clus
  | 0x01C => some .pkg
  | 0x020 => some .team
  | 0x021 => some .teamn
  | 0x022 => some .lnch
  | 0x023 => some .capt
  | 0x028 => some .clk
  | 0x029 => some .retc
  | 0x030 => some .mailst
  | 0x031 => some .leasest
  | 0x038 => some (.bpa 0)
  | 0x039 => some (.bpa 1)
  | 0x03A => some (.bpa 2)
  | 0x03B => some (.bpa 3)
  | _ => if c.extractLsb' 7 5 = 0b00010#5 then some (.deadw (c.extractLsb' 0 7)) else none

def SReg.code : SReg → BitVec 12
  | .tags => 0x000
  | .tagerr => 0x001
  | .lcnt i => BitVec.ofNat 12 (4 + i.val)
  | .xpc => 0x008
  | .xcause => 0x009
  | .xaddr => 0x00A
  | .xinfo => 0x00B
  | .tvec => 0x00C
  | .rmode => 0x010
  | .seed => 0x011
  | .ctx => 0x018
  | .core => 0x019
  | .tile => 0x01A
  | .clus => 0x01B
  | .pkg => 0x01C
  | .team => 0x020
  | .teamn => 0x021
  | .lnch => 0x022
  | .capt => 0x023
  | .clk => 0x028
  | .retc => 0x029
  | .mailst => 0x030
  | .leasest => 0x031
  | .bpa i => 0b0000001110#10 ++ i
  | .deadw i => 0b00010#5 ++ i

/-- Whether the special register is 64 bits wide (R139). -/
def SReg.wide : SReg → Bool
  | .tags => true
  | .tagerr => true
  | .lcnt _ => false
  | .xpc => true
  | .xcause => false
  | .xaddr => true
  | .xinfo => false
  | .tvec => true
  | .rmode => false
  | .seed => false
  | .ctx => false
  | .core => false
  | .tile => false
  | .clus => false
  | .pkg => false
  | .team => false
  | .teamn => false
  | .lnch => false
  | .capt => true
  | .clk => true
  | .retc => true
  | .mailst => false
  | .leasest => false
  | .bpa _ => true
  | .deadw _ => false

/-! ### Fields of the formats (R146) -/

def fSrc2 (w : BitVec 32) : BitVec 6 := w.extractLsb' 26 6
def fSrc1 (w : BitVec 32) : BitVec 6 := w.extractLsb' 20 6
def fDst (w : BitVec 32) : BitVec 6 := w.extractLsb' 14 6
def fWidth (w : BitVec 32) : BitVec 2 := w.extractLsb' 12 2
def fFn (w : BitVec 32) : BitVec 4 := w.extractLsb' 8 4
def fMajor (w : BitVec 32) : BitVec 7 := w.extractLsb' 1 7
def fImm (w : BitVec 32) : BitVec 12 := w.extractLsb' 20 12
def fISrc (w : BitVec 32) : BitVec 6 := w.extractLsb' 14 6
def fIDst (w : BitVec 32) : BitVec 6 := w.extractLsb' 8 6
def fImm18 (w : BitVec 32) : BitVec 18 := w.extractLsb' 14 18
def fCount (w : BitVec 32) : BitVec 12 := w.extractLsb' 8 12
def fOff24 (w : BitVec 32) : BitVec 24 := w.extractLsb' 8 24
def fVb (w : BitVec 32) : BitVec 3 := w.extractLsb' 29 3
def fVa (w : BitVec 32) : BitVec 3 := w.extractLsb' 26 3
def fVd (w : BitVec 32) : BitVec 3 := w.extractLsb' 23 3
def fMk (w : BitVec 32) : BitVec 3 := w.extractLsb' 20 3
def fTy (w : BitVec 32) : BitVec 4 := w.extractLsb' 16 4
def fRf (w : BitVec 32) : BitVec 4 := w.extractLsb' 12 4

/-- R format. -/
def encR (src2 src1 dst : BitVec 6) (w : BitVec 2) (fn : BitVec 4) (major : BitVec 7) : BitVec 32 :=
  src2 ++ src1 ++ dst ++ w ++ fn ++ major ++ 1#1
/-- I and B formats. -/
def encI (imm : BitVec 12) (src1 dst : BitVec 6) (major : BitVec 7) : BitVec 32 :=
  imm ++ src1 ++ dst ++ major ++ 1#1
/-- I format with the 18-bit immediate of MOVI and MOVHI (R148). -/
def enc18 (imm : BitVec 18) (dst : BitVec 6) (major : BitVec 7) : BitVec 32 :=
  imm ++ dst ++ major ++ 1#1
/-- I format with the 12-bit count of LOOPI (R148). -/
def encCount (off count : BitVec 12) (major : BitVec 7) : BitVec 32 :=
  off ++ count ++ major ++ 1#1
/-- J format. -/
def encJ (off : BitVec 24) (major : BitVec 7) : BitVec 32 :=
  off ++ major ++ 1#1
/-- V format. -/
def encV (vb va vd mk : BitVec 3) (ty rf fn : BitVec 4) (major : BitVec 7) : BitVec 32 :=
  vb ++ va ++ vd ++ mk ++ ty ++ rf ++ fn ++ major ++ 1#1
/-- V format, word-register variant. -/
def encVw (r : BitVec 6) (vd mk : BitVec 3) (ty rf fn : BitVec 4) (major : BitVec 7) : BitVec 32 :=
  r ++ vd ++ mk ++ ty ++ rf ++ fn ++ major ++ 1#1
/-- X format. -/
def encX (pa pb tag : BitVec 6) (fn : BitVec 4) (major : BitVec 7) : BitVec 32 :=
  pa ++ pb ++ tag ++ 0#2 ++ fn ++ major ++ 1#1
/-- The 16-bit format (R144). -/
def enc16 (s5 : BitVec 5) (d : BitVec 6) (form : BitVec 4) : BitVec 16 :=
  s5 ++ d ++ form ++ 0#1

/-! ### Decoding the fields -/

/-- Refuse with r unless the field holds k. -/
def guardEq {n : Nat} (x k : BitVec n) (r : Reject) : Except Reject Unit :=
  if x = k then .ok () else .error r

/-- Refuse with r where the code is unassigned. -/
def orReject {α : Type} (r : Reject) : Option α → Except Reject α
  | some a => .ok a
  | none => .error r

/-- A 6-bit field that names a mask register: 8 to 63 trap (R138). -/
def maskReg (x : BitVec 6) : Except Reject MReg :=
  if x.extractLsb' 3 3 = 0 then .ok (x.extractLsb' 0 3) else .error .widthOrGroup

/-- Major 0x01 of the opcode map (R152), by its function code. -/
def decodeIntA (w : BitVec 32) : Except Reject Instr :=
  match (fFn w).toNat with
  | 0 => do
    let w2 := Width.ofCode (fWidth w)
    pure (.add w2 (fDst w) (fSrc1 w) (fSrc2 w))
  | 1 => do
    let w2 := Width.ofCode (fWidth w)
    pure (.sub w2 (fDst w) (fSrc1 w) (fSrc2 w))
  | 2 => do
    guardEq (fWidth w) 0 .widthOrGroup
    pure (.mul (fDst w) (fSrc1 w) (fSrc2 w))
  | 3 => do
    guardEq (fWidth w) 0 .widthOrGroup
    pure (.mulh (fDst w) (fSrc1 w) (fSrc2 w))
  | 4 => do
    guardEq (fWidth w) 0 .widthOrGroup
    pure (.mulhu (fDst w) (fSrc1 w) (fSrc2 w))
  | 5 => do
    guardEq (fWidth w) 0 .widthOrGroup
    pure (.div (fDst w) (fSrc1 w) (fSrc2 w))
  | 6 => do
    guardEq (fWidth w) 0 .widthOrGroup
    pure (.divu (fDst w) (fSrc1 w) (fSrc2 w))
  | 7 => do
    guardEq (fWidth w) 0 .widthOrGroup
    pure (.rem (fDst w) (fSrc1 w) (fSrc2 w))
  | 8 => do
    guardEq (fWidth w) 0 .widthOrGroup
    pure (.remu (fDst w) (fSrc1 w) (fSrc2 w))
  | 9 => do
    let w2 := Width.ofCode (fWidth w)
    pure (.and w2 (fDst w) (fSrc1 w) (fSrc2 w))
  | 10 => do
    let w2 := Width.ofCode (fWidth w)
    pure (.or w2 (fDst w) (fSrc1 w) (fSrc2 w))
  | 11 => do
    let w2 := Width.ofCode (fWidth w)
    pure (.xor w2 (fDst w) (fSrc1 w) (fSrc2 w))
  | 12 => do
    let w2 := Width.ofCode (fWidth w)
    pure (.andn w2 (fDst w) (fSrc1 w) (fSrc2 w))
  | 13 => do
    guardEq (fWidth w) 0 .widthOrGroup
    pure (.min (fDst w) (fSrc1 w) (fSrc2 w))
  | 14 => do
    guardEq (fWidth w) 0 .widthOrGroup
    pure (.max (fDst w) (fSrc1 w) (fSrc2 w))
  | 15 => do
    guardEq (fWidth w) 0 .widthOrGroup
    pure (.minu (fDst w) (fSrc1 w) (fSrc2 w))
  | _ => .error .unassignedFunction

/-- Major 0x02 of the opcode map (R152), by its function code. -/
def decodeIntB (w : BitVec 32) : Except Reject Instr :=
  match (fFn w).toNat with
  | 0 => do
    guardEq (fWidth w) 0 .widthOrGroup
    pure (.maxu (fDst w) (fSrc1 w) (fSrc2 w))
  | 1 => do
    let w2 := Width.ofCode (fWidth w)
    pure (.shl w2 (fDst w) (fSrc1 w) (fSrc2 w))
  | 2 => do
    let w2 := Width.ofCode (fWidth w)
    pure (.shr w2 (fDst w) (fSrc1 w) (fSrc2 w))
  | 3 => do
    let w2 := Width.ofCode (fWidth w)
    pure (.sha w2 (fDst w) (fSrc1 w) (fSrc2 w))
  | 4 => do
    let w2 := Width.ofCode (fWidth w)
    pure (.rot w2 (fDst w) (fSrc1 w) (fSrc2 w))
  | 5 => do
    guardEq (fSrc2 w) 0 .nonzeroField
    guardEq (fWidth w) 0 .widthOrGroup
    pure (.clz (fDst w) (fSrc1 w))
  | 6 => do
    guardEq (fSrc2 w) 0 .nonzeroField
    guardEq (fWidth w) 0 .widthOrGroup
    pure (.ctz (fDst w) (fSrc1 w))
  | 7 => do
    guardEq (fSrc2 w) 0 .nonzeroField
    guardEq (fWidth w) 0 .widthOrGroup
    pure (.popc (fDst w) (fSrc1 w))
  | 8 => do
    guardEq (fSrc2 w) 0 .nonzeroField
    guardEq (fWidth w) 0 .widthOrGroup
    pure (.brev (fDst w) (fSrc1 w))
  | 9 => do
    guardEq ((fSrc2 w).extractLsb' 5 1) 0 .nonzeroField
    let w2 := Width.ofCode (fWidth w)
    pure (.sext w2 (fDst w) (fSrc1 w) ((fSrc2 w).extractLsb' 0 5))
  | 10 => do
    guardEq ((fSrc2 w).extractLsb' 5 1) 0 .nonzeroField
    let w2 := Width.ofCode (fWidth w)
    pure (.zext w2 (fDst w) (fSrc1 w) ((fSrc2 w).extractLsb' 0 5))
  | 11 => do
    guardEq (fSrc2 w) 0 .nonzeroField
    let w2 := Width.ofCode (fWidth w)
    pure (.mov w2 (fDst w) (fSrc1 w))
  | 12 => do
    let w2 := Width.ofCode (fWidth w)
    pure (.sel w2 (fDst w) (fSrc1 w) (fSrc2 w))
  | _ => .error .unassignedFunction

/-- Major 0x08 (R174): the shift immediates, chosen by imm12[11:10]. -/
def decodeShiftImm (w : BitVec 32) : Except Reject Instr := do
  guardEq ((fImm w).extractLsb' 5 5) 0 .nonzeroField
  match ((fImm w).extractLsb' 10 2).toNat with
  | 0 => pure (.shli (fIDst w) (fISrc w) ((fImm w).extractLsb' 0 5))
  | 1 => pure (.shri (fIDst w) (fISrc w) ((fImm w).extractLsb' 0 5))
  | 2 => pure (.shai (fIDst w) (fISrc w) ((fImm w).extractLsb' 0 5))
  | _ => pure (.roti (fIDst w) (fISrc w) ((fImm w).extractLsb' 0 5))

/-- Major 0x20 of the opcode map (R152), by its function code. -/
def decodeControl (w : BitVec 32) : Except Reject Instr :=
  match (fFn w).toNat with
  | 0 => do
    guardEq (fSrc2 w) 0 .nonzeroField
    guardEq (fWidth w) 1 .widthOrGroup
    pure (.jlr (fDst w) (fSrc1 w))
  | 1 => do
    guardEq (fSrc2 w) 0 .nonzeroField
    guardEq (fSrc1 w) 0 .nonzeroField
    guardEq (fDst w) 0 .nonzeroField
    guardEq (fWidth w) 0 .widthOrGroup
    pure (.nop)
  | 2 => do
    guardEq (fSrc2 w) 0 .nonzeroField
    guardEq (fSrc1 w) 0 .nonzeroField
    guardEq (fDst w) 0 .nonzeroField
    guardEq (fWidth w) 0 .widthOrGroup
    pure (.yield)
  | 3 => do
    guardEq (fSrc2 w) 0 .nonzeroField
    guardEq (fSrc1 w) 0 .nonzeroField
    guardEq (fDst w) 0 .nonzeroField
    guardEq (fWidth w) 0 .widthOrGroup
    pure (.halt)
  | 4 => do
    guardEq (fSrc2 w) 0 .nonzeroField
    guardEq (fSrc1 w) 0 .nonzeroField
    guardEq (fDst w) 0 .nonzeroField
    guardEq (fWidth w) 0 .widthOrGroup
    pure (.lexit)
  | _ => .error .unassignedFunction

/-- Major 0x23 of the opcode map (R152), by its function code. -/
def decodeSystem (w : BitVec 32) : Except Reject Instr :=
  match (fFn w).toNat with
  | 0 => do
    guardEq (fSrc2 w) 0 .nonzeroField
    guardEq (fDst w) 0 .nonzeroField
    guardEq (fWidth w) 0 .widthOrGroup
    pure (.trap (fSrc1 w))
  | 1 => do
    guardEq (fSrc2 w) 0 .nonzeroField
    guardEq (fSrc1 w) 0 .nonzeroField
    guardEq (fDst w) 0 .nonzeroField
    guardEq (fWidth w) 0 .widthOrGroup
    pure (.rft)
  | 2 => do
    guardEq (fSrc2 w) 0 .nonzeroField
    guardEq (fSrc1 w) 0 .nonzeroField
    guardEq (fDst w) 0 .nonzeroField
    guardEq (fWidth w) 0 .widthOrGroup
    pure (.bkpt)
  | 3 => do
    guardEq (fSrc2 w) 0 .nonzeroField
    guardEq (fDst w) 0 .nonzeroField
    guardEq (fWidth w) 3 .widthOrGroup
    pure (.svc (fSrc1 w))
  | _ => .error .unassignedFunction

/-- Major 0x48 of the opcode map (R152), by its function code. -/
def decodeAtom (w : BitVec 32) : Except Reject Instr :=
  match (fFn w).toNat with
  | 0 => do
    let w2 := Width.ofCode (fWidth w)
    pure (.atomAdd (AtOrd.ofCode ((fMajor w).extractLsb' 0 2)) w2 (fDst w) (fSrc1 w) (fSrc2 w))
  | 1 => do
    let w2 := Width.ofCode (fWidth w)
    pure (.atomMin (AtOrd.ofCode ((fMajor w).extractLsb' 0 2)) w2 (fDst w) (fSrc1 w) (fSrc2 w))
  | 2 => do
    let w2 := Width.ofCode (fWidth w)
    pure (.atomMax (AtOrd.ofCode ((fMajor w).extractLsb' 0 2)) w2 (fDst w) (fSrc1 w) (fSrc2 w))
  | 3 => do
    let w2 := Width.ofCode (fWidth w)
    pure (.atomMinu (AtOrd.ofCode ((fMajor w).extractLsb' 0 2)) w2 (fDst w) (fSrc1 w) (fSrc2 w))
  | 4 => do
    let w2 := Width.ofCode (fWidth w)
    pure (.atomMaxu (AtOrd.ofCode ((fMajor w).extractLsb' 0 2)) w2 (fDst w) (fSrc1 w) (fSrc2 w))
  | 5 => do
    let w2 := Width.ofCode (fWidth w)
    pure (.atomAnd (AtOrd.ofCode ((fMajor w).extractLsb' 0 2)) w2 (fDst w) (fSrc1 w) (fSrc2 w))
  | 6 => do
    let w2 := Width.ofCode (fWidth w)
    pure (.atomOr (AtOrd.ofCode ((fMajor w).extractLsb' 0 2)) w2 (fDst w) (fSrc1 w) (fSrc2 w))
  | 7 => do
    let w2 := Width.ofCode (fWidth w)
    pure (.atomXor (AtOrd.ofCode ((fMajor w).extractLsb' 0 2)) w2 (fDst w) (fSrc1 w) (fSrc2 w))
  | 8 => do
    let w2 := Width.ofCode (fWidth w)
    pure (.atomSwap (AtOrd.ofCode ((fMajor w).extractLsb' 0 2)) w2 (fDst w) (fSrc1 w) (fSrc2 w))
  | 9 => do
    let w2 := Width.ofCode (fWidth w)
    pure (.atomCas (AtOrd.ofCode ((fMajor w).extractLsb' 0 2)) w2 (fDst w) (fSrc1 w) (fSrc2 w))
  | _ => .error .unassignedFunction

/-- Major 0x4c of the opcode map (R152), by its function code. -/
def decodeMemCtl (w : BitVec 32) : Except Reject Instr :=
  match (fFn w).toNat with
  | 0 => do
    guardEq (fSrc1 w) 0 .nonzeroField
    guardEq (fDst w) 0 .nonzeroField
    guardEq (fWidth w) 0 .widthOrGroup
    let sc ← orReject .unassignedFunction (Scope.ofCode (fSrc2 w))
    pure (.fence sc)
  | 1 => do
    let b ← orReject .immediate (Path.ofCode (fSrc2 w))
    let a ← orReject .immediate (Path.ofCode (fSrc1 w))
    guardEq (fDst w) 0 .nonzeroField
    guardEq (fWidth w) 0 .widthOrGroup
    pure (.fenceP a b)
  | 2 => do
    guardEq (fDst w) 0 .nonzeroField
    guardEq (fWidth w) 0 .widthOrGroup
    pure (.rwb (fSrc1 w) (fSrc2 w))
  | 3 => do
    guardEq (fDst w) 0 .nonzeroField
    guardEq (fWidth w) 0 .widthOrGroup
    pure (.rinv (fSrc1 w) (fSrc2 w))
  | 4 => do
    guardEq (fDst w) 0 .nonzeroField
    guardEq (fWidth w) 0 .widthOrGroup
    pure (.clean (fSrc1 w) (fSrc2 w))
  | _ => .error .unassignedFunction

/-- Major 0x50 of the opcode map (R152), by its function code. -/
def decodePulls (w : BitVec 32) : Except Reject Instr :=
  match (fFn w).toNat with
  | 0 => do
    guardEq (fWidth w) 0 .nonzeroField
    pure (.pull (fSrc2 w) (fSrc1 w) (fDst w))
  | 1 => do
    guardEq (fWidth w) 0 .nonzeroField
    pure (.pulld (fSrc2 w) (fSrc1 w) (fDst w))
  | 2 => do
    guardEq (fWidth w) 0 .nonzeroField
    pure (.pullc (fSrc2 w) (fSrc1 w) (fDst w))
  | 3 => do
    guardEq (fWidth w) 0 .nonzeroField
    pure (.stream (fSrc1 w) (fSrc2 w) (fDst w))
  | _ => .error .unassignedFunction

/-- Major 0x51 of the opcode map (R152), by its function code. -/
def decodeTags (w : BitVec 32) : Except Reject Instr :=
  match (fFn w).toNat with
  | 0 => do
    guardEq (fSrc2 w) 0 .nonzeroField
    guardEq (fWidth w) 1 .widthOrGroup
    pure (.tagwaitAny (fDst w) (fSrc1 w))
  | 1 => do
    guardEq (fSrc2 w) 0 .nonzeroField
    guardEq (fDst w) 0 .nonzeroField
    guardEq (fWidth w) 1 .widthOrGroup
    pure (.tagwaitAll (fSrc1 w))
  | 2 => do
    guardEq (fSrc2 w) 0 .nonzeroField
    guardEq (fWidth w) 1 .widthOrGroup
    pure (.tagff (fDst w) (fSrc1 w))
  | 3 => do
    guardEq (fSrc2 w) 0 .nonzeroField
    guardEq (fDst w) 0 .nonzeroField
    guardEq (fWidth w) 1 .widthOrGroup
    pure (.tagclr (fSrc1 w))
  | 4 => do
    guardEq (fSrc2 w) 0 .nonzeroField
    guardEq (fWidth w) 0 .widthOrGroup
    pure (.tagtst (fDst w) (fSrc1 w))
  | 5 => do
    guardEq (fSrc2 w) 0 .nonzeroField
    guardEq (fDst w) 0 .nonzeroField
    guardEq (fWidth w) 3 .widthOrGroup
    pure (.sclose (fSrc1 w))
  | _ => .error .unassignedFunction

/-- Major 0x52 of the opcode map (R152), by its function code. -/
def decodeMatrix (w : BitVec 32) : Except Reject Instr :=
  match (fFn w).toNat with
  | 0 => do
    guardEq (fWidth w) 0 .nonzeroField
    pure (.mma (fSrc2 w) (fSrc1 w) (fDst w))
  | 1 => do
    guardEq (fWidth w) 0 .nonzeroField
    pure (.mmas (fSrc2 w) (fSrc1 w) (fDst w))
  | 2 => do
    guardEq (fWidth w) 0 .nonzeroField
    pure (.msend (fSrc2 w) (fSrc1 w) (fDst w))
  | 3 => do
    guardEq (fSrc1 w) 0 .nonzeroField
    guardEq (fWidth w) 0 .nonzeroField
    pure (.mdrain (fSrc2 w) (fDst w))
  | 4 => do
    guardEq (fSrc1 w) 0 .nonzeroField
    guardEq (fWidth w) 0 .nonzeroField
    pure (.mzero (fSrc2 w) (fDst w))
  | 5 => do
    guardEq (fDst w) 0 .nonzeroField
    guardEq (fWidth w) 0 .nonzeroField
    pure (.plane (fSrc1 w) (fSrc2 w))
  | _ => .error .unassignedFunction

/-- Major 0x53 of the opcode map (R152), by its function code. -/
def decodeTid (w : BitVec 32) : Except Reject Instr :=
  match (fFn w).toNat with
  | 0 => do
    guardEq (fDst w) 0 .nonzeroField
    guardEq (fWidth w) 0 .widthOrGroup
    pure (.tidset (fSrc1 w) (fSrc2 w))
  | 1 => do
    guardEq (fSrc2 w) 0 .nonzeroField
    guardEq (fDst w) 0 .nonzeroField
    guardEq (fWidth w) 0 .widthOrGroup
    pure (.tidclr (fSrc1 w))
  | _ => .error .unassignedFunction

/-- Major 0x54 of the opcode map (R152), by its function code. -/
def decodeSync (w : BitVec 32) : Except Reject Instr :=
  match (fFn w).toNat with
  | 0 => do
    guardEq (fDst w) 0 .nonzeroField
    guardEq (fWidth w) 1 .widthOrGroup
    pure (.pub (fSrc1 w) (fSrc2 w))
  | 1 => do
    guardEq (fSrc2 w) 0 .nonzeroField
    guardEq (fWidth w) 0 .widthOrGroup
    pure (.unwatch (fDst w) (fSrc1 w))
  | 2 => do
    guardEq (fSrc2 w) 0 .nonzeroField
    guardEq (fDst w) 0 .nonzeroField
    guardEq (fWidth w) 0 .widthOrGroup
    pure (.bar (fSrc1 w))
  | 3 => do
    guardEq (fSrc2 w) 0 .nonzeroField
    guardEq (fWidth w) 0 .widthOrGroup
    pure (.bara (fDst w) (fSrc1 w))
  | 4 => do
    guardEq (fDst w) 0 .nonzeroField
    guardEq (fWidth w) 0 .widthOrGroup
    pure (.barw (fSrc1 w) (fSrc2 w))
  | 5 => do
    guardEq (fSrc2 w) 0 .nonzeroField
    guardEq (fDst w) 0 .nonzeroField
    guardEq (fWidth w) 0 .widthOrGroup
    pure (.convoy (fSrc1 w))
  | 6 => do
    guardEq (fSrc2 w) 0 .nonzeroField
    guardEq (fSrc1 w) 0 .nonzeroField
    guardEq (fDst w) 0 .nonzeroField
    guardEq (fWidth w) 0 .widthOrGroup
    pure (.cjoin)
  | 7 => do
    guardEq (fSrc2 w) 0 .nonzeroField
    guardEq (fSrc1 w) 0 .nonzeroField
    guardEq (fDst w) 0 .nonzeroField
    guardEq (fWidth w) 0 .widthOrGroup
    pure (.cleave)
  | _ => .error .unassignedFunction

/-- Major 0x56 of the opcode map (R152), by its function code. -/
def decodeWatch (w : BitVec 32) : Except Reject Instr :=
  match (fFn w).toNat with
  | 0 => do
    guardEq (fSrc1 w) 0 .nonzeroField
    guardEq (fWidth w) 0 .nonzeroField
    pure (.watch (fSrc2 w) (fDst w))
  | _ => .error .unassignedFunction

/-- Major 0x57 of the opcode map (R152), by its function code. -/
def decodeMsg (w : BitVec 32) : Except Reject Instr :=
  match (fFn w).toNat with
  | 0 => do
    guardEq (fDst w) 0 .nonzeroField
    guardEq (fWidth w) 3 .widthOrGroup
    pure (.send (fSrc1 w) (fSrc2 w))
  | 1 => do
    guardEq (fWidth w) 3 .widthOrGroup
    pure (.sendt (fDst w) (fSrc1 w) (fSrc2 w))
  | 2 => do
    guardEq (fSrc2 w) 0 .nonzeroField
    guardEq (fSrc1 w) 0 .nonzeroField
    guardEq (fWidth w) 3 .widthOrGroup
    pure (.recv (fDst w))
  | 3 => do
    guardEq (fSrc1 w) 0 .nonzeroField
    guardEq (fWidth w) 3 .widthOrGroup
    pure (.recvt (fDst w) (fSrc2 w))
  | 4 => do
    guardEq (fDst w) 0 .nonzeroField
    guardEq (fWidth w) 0 .widthOrGroup
    pure (.enq (fSrc1 w) (fSrc2 w))
  | 5 => do
    guardEq (fWidth w) 0 .widthOrGroup
    pure (.enqt (fDst w) (fSrc1 w) (fSrc2 w))
  | _ => .error .unassignedFunction

/-- Major 0x58 of the opcode map (R152), by its function code. -/
def decodeFabric (w : BitVec 32) : Except Reject Instr :=
  match (fFn w).toNat with
  | 0 => do
    guardEq (fSrc1 w) 0 .nonzeroField
    guardEq (fWidth w) 0 .nonzeroField
    pure (.lease (fSrc2 w) (fDst w))
  | 1 => do
    guardEq (fSrc1 w) 0 .nonzeroField
    guardEq (fWidth w) 0 .nonzeroField
    pure (.coll (fSrc2 w) (fDst w))
  | _ => .error .unassignedFunction

/-- Major 0x59 of the opcode map (R152), by its function code. -/
def decodeQuery (w : BitVec 32) : Except Reject Instr :=
  match (fFn w).toNat with
  | 0 => do
    guardEq (fSrc2 w) 0 .nonzeroField
    guardEq (fWidth w) 0 .widthOrGroup
    pure (.leaseq (fDst w) (fSrc1 w))
  | 1 => do
    guardEq (fWidth w) 0 .widthOrGroup
    pure (.leaserel (fDst w) (fSrc1 w) (fSrc2 w))
  | 2 => do
    guardEq (fSrc2 w) 0 .nonzeroField
    guardEq (fWidth w) 0 .widthOrGroup
    pure (.deadq (fDst w) (fSrc1 w))
  | _ => .error .unassignedFunction

/-- Major 0x60 of the opcode map (R152), by its function code. -/
def decodeLaneArith (w : BitVec 32) : Except Reject Instr :=
  match (fFn w).toNat with
  | 0 => do
    let t ← orReject .unassignedFunction (Ty.ofCode (fTy w))
    let r ← orReject .rounding (Rc.ofCode (fRf w))
    pure (.vadd t r (fVd w) (fVa w) (fVb w) (fMk w))
  | 1 => do
    let t ← orReject .unassignedFunction (Ty.ofCode (fTy w))
    let r ← orReject .rounding (Rc.ofCode (fRf w))
    pure (.vsub t r (fVd w) (fVa w) (fVb w) (fMk w))
  | 2 => do
    let t ← orReject .unassignedFunction (Ty.ofCode (fTy w))
    let r ← orReject .rounding (Rc.ofCode (fRf w))
    pure (.vmul t r (fVd w) (fVa w) (fVb w) (fMk w))
  | 3 => do
    let t ← orReject .unassignedFunction (Ty.ofCode (fTy w))
    let r ← orReject .rounding (Rc.ofCode (fRf w))
    pure (.vfma t r (fVd w) (fVa w) (fVb w) (fMk w))
  | 4 => do
    let t ← orReject .unassignedFunction (Ty.ofCode (fTy w))
    let r ← orReject .rounding (Rc.ofCode (fRf w))
    pure (.vfms t r (fVd w) (fVa w) (fVb w) (fMk w))
  | 5 => do
    let t ← orReject .unassignedFunction (Ty.ofCode (fTy w))
    let r ← orReject .rounding (Rc.ofCode (fRf w))
    pure (.vfnma t r (fVd w) (fVa w) (fVb w) (fMk w))
  | 6 => do
    let t ← orReject .unassignedFunction (Ty.ofCode (fTy w))
    guardEq (fRf w) 0 .rounding
    pure (.vmax t (fVd w) (fVa w) (fVb w) (fMk w))
  | 7 => do
    let t ← orReject .unassignedFunction (Ty.ofCode (fTy w))
    guardEq (fRf w) 0 .rounding
    pure (.vmin t (fVd w) (fVa w) (fVb w) (fMk w))
  | 8 => do
    guardEq (fVb w) 0 .nonzeroField
    let t ← orReject .unassignedFunction (Ty.ofCode (fTy w))
    guardEq (fRf w) 0 .rounding
    pure (.vabs t (fVd w) (fVa w) (fMk w))
  | 9 => do
    guardEq (fVb w) 0 .nonzeroField
    let t ← orReject .unassignedFunction (Ty.ofCode (fTy w))
    guardEq (fRf w) 0 .rounding
    pure (.vneg t (fVd w) (fVa w) (fMk w))
  | 10 => do
    let t ← orReject .unassignedFunction (Ty.ofCode (fTy w))
    let r ← orReject .rounding (Rc.ofCode (fRf w))
    pure (.vdot t r (fVd w) (fVa w) (fVb w) (fMk w))
  | _ => .error .unassignedFunction

/-- Major 0x61 of the opcode map (R152), by its function code. -/
def decodeLaneFun (w : BitVec 32) : Except Reject Instr :=
  match (fFn w).toNat with
  | 0 => do
    guardEq (fVb w) 0 .nonzeroField
    let t ← orReject .unassignedFunction (Ty.ofCode (fTy w))
    let r ← orReject .rounding (Rc.ofCode (fRf w))
    pure (.vrcp t r (fVd w) (fVa w) (fMk w))
  | 1 => do
    guardEq (fVb w) 0 .nonzeroField
    let t ← orReject .unassignedFunction (Ty.ofCode (fTy w))
    let r ← orReject .rounding (Rc.ofCode (fRf w))
    pure (.vrsq t r (fVd w) (fVa w) (fMk w))
  | 2 => do
    guardEq (fVb w) 0 .nonzeroField
    let t ← orReject .unassignedFunction (Ty.ofCode (fTy w))
    let r ← orReject .rounding (Rc.ofCode (fRf w))
    pure (.vexp2 t r (fVd w) (fVa w) (fMk w))
  | _ => .error .unassignedFunction

/-- Major 0x62 of the opcode map (R152), by its function code. -/
def decodeConv (w : BitVec 32) : Except Reject Instr :=
  match (fFn w).toNat with
  | 0 => do
    let st ← orReject .unassignedFunction (Ty.ofCode (0#1 ++ fVb w))
    let t ← orReject .unassignedFunction (Ty.ofCode (fTy w))
    let r ← orReject .rounding (Rc.ofCode (fRf w))
    pure (.vcvt t st r (fVd w) (fVa w) (fMk w))
  | 1 => do
    let st ← orReject .unassignedFunction (Ty.ofCode (0#1 ++ fVb w))
    let t ← orReject .unassignedFunction (Ty.ofCode (fTy w))
    guardEq (fRf w) 0 .rounding
    pure (.vcvtw t st (fVd w) (fVa w) (fMk w))
  | 2 => do
    let st ← orReject .unassignedFunction (Ty.ofCode (0#1 ++ fVb w))
    let t ← orReject .unassignedFunction (Ty.ofCode (fTy w))
    let r ← orReject .rounding (Rc.ofCode (fRf w))
    pure (.vcvtn t st r (fVd w) (fVa w) (fMk w))
  | 3 => do
    let st ← orReject .unassignedFunction (Ty.ofCode (0#1 ++ fVb w))
    guardEq (fMk w) 0 .nonzeroField
    guardEq (fTy w) 0x8 .unassignedFunction
    guardEq (fRf w) 0 .rounding
    pure (.vqnt st (fVd w) (fVa w))
  | 4 => do
    guardEq (fVb w) 0 .nonzeroField
    let t ← orReject .unassignedFunction (Ty.ofCode (fTy w))
    let r ← orReject .rounding (Rc.ofCode (fRf w))
    pure (.vdq t r (fVd w) (fVa w) (fMk w))
  | _ => .error .unassignedFunction

/-- Major 0x63 of the opcode map (R152), by its function code. -/
def decodeVcmp (w : BitVec 32) : Except Reject Instr :=
  match (fFn w).toNat with
  | 0 => do
    let t ← orReject .unassignedFunction (Ty.ofCode (fTy w))
    let c ← orReject .unassignedFunction (VCond.ofCode (fRf w))
    pure (.vcmpCc c t (fVd w) (fVa w) (fVb w) (fMk w))
  | _ => .error .unassignedFunction

/-- Major 0x64 of the opcode map (R152), by its function code. -/
def decodeLaneMove (w : BitVec 32) : Except Reject Instr :=
  match (fFn w).toNat with
  | 0 => do
    let t ← orReject .unassignedFunction (Ty.ofCode (fTy w))
    guardEq (fRf w) 0 .rounding
    pure (.vsel t (fVd w) (fVa w) (fVb w) (fMk w))
  | 1 => do
    let t ← orReject .unassignedFunction (Ty.ofCode (fTy w))
    guardEq (fRf w) 0 .rounding
    pure (.vperm t (fVd w) (fVa w) (fVb w) (fMk w))
  | 2 => do
    let t ← orReject .unassignedFunction (Ty.ofCode (fTy w))
    guardEq (fRf w) 0 .rounding
    pure (.vbcast t (fVd w) (fSrc2 w) (fMk w))
  | 3 => do
    let t ← orReject .unassignedFunction (Ty.ofCode (fTy w))
    guardEq ((fMk w).extractLsb' 1 2) 0 .nonzeroField
    pure (.vins t (fVd w) (fSrc2 w) ((fMk w).extractLsb' 0 1 ++ fRf w))
  | 4 => do
    let t ← orReject .unassignedFunction (Ty.ofCode (fTy w))
    guardEq ((fMk w).extractLsb' 1 2) 0 .nonzeroField
    pure (.vext t (fSrc2 w) (fVd w) ((fMk w).extractLsb' 0 1 ++ fRf w))
  | 5 => do
    guardEq (fVb w) 0 .nonzeroField
    guardEq (fVa w) 0 .nonzeroField
    let t ← orReject .unassignedFunction (Ty.ofCode (fTy w))
    guardEq (fRf w) 0 .rounding
    pure (.viota t (fVd w) (fMk w))
  | _ => .error .unassignedFunction

/-- Major 0x65 of the opcode map (R152), by its function code. -/
def decodeVred (w : BitVec 32) : Except Reject Instr :=
  match (fFn w).toNat with
  | 0 => do
    guardEq (fVb w) 0 .nonzeroField
    let t ← orReject .unassignedFunction (Ty.ofCode (fTy w))
    let r ← orReject .rounding (Rc.ofCode (fRf w))
    pure (.vredSum t r (fVd w) (fVa w) (fMk w))
  | 1 => do
    guardEq (fVb w) 0 .nonzeroField
    let t ← orReject .unassignedFunction (Ty.ofCode (fTy w))
    guardEq (fRf w) 0 .rounding
    pure (.vredMax t (fVd w) (fVa w) (fMk w))
  | 2 => do
    guardEq (fVb w) 0 .nonzeroField
    let t ← orReject .unassignedFunction (Ty.ofCode (fTy w))
    guardEq (fRf w) 0 .rounding
    pure (.vredMin t (fVd w) (fVa w) (fMk w))
  | _ => .error .unassignedFunction

/-- Major 0x66 of the opcode map (R152), by its function code. -/
def decodeTable (w : BitVec 32) : Except Reject Instr :=
  match (fFn w).toNat with
  | 0 => do
    guardEq ((fVb w).extractLsb' 2 1) 0 .immediate
    let t ← orReject .unassignedFunction (Ty.ofCode (fTy w))
    let r ← orReject .rounding (Rc.ofCode (fRf w))
    pure (.vtbl t r (fVd w) (fVa w) ((fVb w).extractLsb' 0 2) (fMk w))
  | 1 => do
    guardEq (fMk w) 0 .nonzeroField
    guardEq (fTy w) 0 .nonzeroField
    guardEq (fRf w) 0 .rounding
    guardEq ((fVd w).extractLsb' 2 1) 0 .immediate
    pure (.vtbld ((fVd w).extractLsb' 0 2) (fSrc2 w))
  | _ => .error .unassignedFunction

/-- Major 0x67 of the opcode map (R152), by its function code. -/
def decodeMasks (w : BitVec 32) : Except Reject Instr :=
  match (fFn w).toNat with
  | 0 => do
    let b ← maskReg (fSrc2 w)
    let a ← maskReg (fSrc1 w)
    let d ← maskReg (fDst w)
    guardEq (fWidth w) 0 .widthOrGroup
    pure (.mand d a b)
  | 1 => do
    let b ← maskReg (fSrc2 w)
    let a ← maskReg (fSrc1 w)
    let d ← maskReg (fDst w)
    guardEq (fWidth w) 0 .widthOrGroup
    pure (.mor d a b)
  | 2 => do
    let b ← maskReg (fSrc2 w)
    let a ← maskReg (fSrc1 w)
    let d ← maskReg (fDst w)
    guardEq (fWidth w) 0 .widthOrGroup
    pure (.mxor d a b)
  | 3 => do
    guardEq (fSrc2 w) 0 .nonzeroField
    let a ← maskReg (fSrc1 w)
    let d ← maskReg (fDst w)
    guardEq (fWidth w) 0 .widthOrGroup
    pure (.mnot d a)
  | 4 => do
    guardEq (fSrc2 w) 0 .nonzeroField
    let a ← maskReg (fSrc1 w)
    guardEq (fWidth w) 0 .widthOrGroup
    pure (.mpop (fDst w) a)
  | _ => .error .unassignedFunction


/-- The opcode map of R152: the fields of a 32-bit instruction, before the checks on their values. -/
def decodeMajor (w : BitVec 32) : Except Reject Instr :=
  match (fMajor w).toNat with
  | 0x01 => decodeIntA w
  | 0x02 => decodeIntB w
  | 0x03 => do
    let w2 := Width.ofCode (fWidth w)
    let c ← orReject .unassignedFunction (Cc.ofCode (fFn w))
    pure (.setCc c w2 (fDst w) (fSrc1 w) (fSrc2 w))
  | 0x04 => pure (.addi (fIDst w) (fISrc w) (fImm w))
  | 0x05 => pure (.andi (fIDst w) (fISrc w) (fImm w))
  | 0x06 => pure (.ori (fIDst w) (fISrc w) (fImm w))
  | 0x07 => pure (.xori (fIDst w) (fISrc w) (fImm w))
  | 0x08 => decodeShiftImm w
  | 0x09 => do
    guardEq ((fImm w).extractLsb' 10 2) 0 .nonzeroField
    pure (.bfx (fIDst w) (fISrc w) ((fImm w).extractLsb' 5 5) ((fImm w).extractLsb' 0 5))
  | 0x0a => do
    guardEq ((fImm w).extractLsb' 10 2) 0 .nonzeroField
    pure (.bfi (fIDst w) (fISrc w) ((fImm w).extractLsb' 5 5) ((fImm w).extractLsb' 0 5))
  | 0x0b => pure (.movi (fIDst w) (fImm18 w))
  | 0x0c => pure (.movhi (fIDst w) (fImm18 w))
  | 0x0d => pure (.lea (fIDst w) (fISrc w) (fImm w))
  | 0x10 => pure (.beq (fISrc w) (fIDst w) (fImm w))
  | 0x11 => pure (.bne (fISrc w) (fIDst w) (fImm w))
  | 0x12 => pure (.blt (fISrc w) (fIDst w) (fImm w))
  | 0x13 => pure (.bge (fISrc w) (fIDst w) (fImm w))
  | 0x14 => pure (.bltu (fISrc w) (fIDst w) (fImm w))
  | 0x15 => pure (.bgeu (fISrc w) (fIDst w) (fImm w))
  | 0x16 => pure (.briEq (fISrc w) (fIDst w) (fImm w))
  | 0x17 => pure (.briNe (fISrc w) (fIDst w) (fImm w))
  | 0x18 => pure (.briLt (fISrc w) (fIDst w) (fImm w))
  | 0x19 => pure (.briGe (fISrc w) (fIDst w) (fImm w))
  | 0x1a => pure (.briLtu (fISrc w) (fIDst w) (fImm w))
  | 0x1b => pure (.briGeu (fISrc w) (fIDst w) (fImm w))
  | 0x1c => pure (.j (fOff24 w))
  | 0x1d => pure (.jl (fOff24 w))
  | 0x20 => decodeControl w
  | 0x1e => do
    guardEq (fIDst w) 0 .nonzeroField
    pure (.loop (fISrc w) (fImm w))
  | 0x1f => pure (.loopi (fCount w) (fImm w))
  | 0x21 => do
    let sr ← orReject .unassignedFunction (SReg.ofCode (fImm w))
    guardEq (fISrc w) 0 .nonzeroField
    pure (.mfs (fIDst w) sr)
  | 0x22 => do
    let sr ← orReject .unassignedFunction (SReg.ofCode (fImm w))
    guardEq (fIDst w) 0 .nonzeroField
    pure (.mts sr (fISrc w))
  | 0x23 => decodeSystem w
  | 0x30 => do
    let o ← orReject .unassignedFunction (LdOrd.ofCode ((fImm w).extractLsb' 10 2))
    pure (.ldbH o (fIDst w) (fISrc w) ((fImm w).extractLsb' 0 10))
  | 0x31 => do
    let o ← orReject .unassignedFunction (LdOrd.ofCode ((fImm w).extractLsb' 10 2))
    pure (.ldbuH o (fIDst w) (fISrc w) ((fImm w).extractLsb' 0 10))
  | 0x32 => do
    let o ← orReject .unassignedFunction (LdOrd.ofCode ((fImm w).extractLsb' 10 2))
    pure (.ldhH o (fIDst w) (fISrc w) ((fImm w).extractLsb' 0 10))
  | 0x33 => do
    let o ← orReject .unassignedFunction (LdOrd.ofCode ((fImm w).extractLsb' 10 2))
    pure (.ldhuH o (fIDst w) (fISrc w) ((fImm w).extractLsb' 0 10))
  | 0x34 => do
    let o ← orReject .unassignedFunction (LdOrd.ofCode ((fImm w).extractLsb' 10 2))
    pure (.ldwH o (fIDst w) (fISrc w) ((fImm w).extractLsb' 0 10))
  | 0x35 => do
    let o ← orReject .unassignedFunction (LdOrd.ofCode ((fImm w).extractLsb' 10 2))
    pure (.lddH o (fIDst w) (fISrc w) ((fImm w).extractLsb' 0 10))
  | 0x36 => do
    let o ← orReject .unassignedFunction (LdOrd.ofCode ((fImm w).extractLsb' 10 2))
    pure (.ldqH o (fIDst w) (fISrc w) ((fImm w).extractLsb' 0 10))
  | 0x37 => do
    let o ← orReject .unassignedFunction (LdOrd.ofCode ((fImm w).extractLsb' 10 2))
    pure (.ldoH o (fIDst w) (fISrc w) ((fImm w).extractLsb' 0 10))
  | 0x38 => do
    let o ← orReject .unassignedFunction (LdOrd.ofCode ((fImm w).extractLsb' 10 2))
    pure (.ldbG o (fIDst w) (fISrc w) ((fImm w).extractLsb' 0 10))
  | 0x39 => do
    let o ← orReject .unassignedFunction (LdOrd.ofCode ((fImm w).extractLsb' 10 2))
    pure (.ldbuG o (fIDst w) (fISrc w) ((fImm w).extractLsb' 0 10))
  | 0x3a => do
    let o ← orReject .unassignedFunction (LdOrd.ofCode ((fImm w).extractLsb' 10 2))
    pure (.ldhG o (fIDst w) (fISrc w) ((fImm w).extractLsb' 0 10))
  | 0x3b => do
    let o ← orReject .unassignedFunction (LdOrd.ofCode ((fImm w).extractLsb' 10 2))
    pure (.ldhuG o (fIDst w) (fISrc w) ((fImm w).extractLsb' 0 10))
  | 0x3c => do
    let o ← orReject .unassignedFunction (LdOrd.ofCode ((fImm w).extractLsb' 10 2))
    pure (.ldwG o (fIDst w) (fISrc w) ((fImm w).extractLsb' 0 10))
  | 0x3d => do
    let o ← orReject .unassignedFunction (LdOrd.ofCode ((fImm w).extractLsb' 10 2))
    pure (.lddG o (fIDst w) (fISrc w) ((fImm w).extractLsb' 0 10))
  | 0x3e => do
    let o ← orReject .unassignedFunction (LdOrd.ofCode ((fImm w).extractLsb' 10 2))
    pure (.ldqG o (fIDst w) (fISrc w) ((fImm w).extractLsb' 0 10))
  | 0x3f => do
    let o ← orReject .unassignedFunction (LdOrd.ofCode ((fImm w).extractLsb' 10 2))
    pure (.ldoG o (fIDst w) (fISrc w) ((fImm w).extractLsb' 0 10))
  | 0x40 => do
    let o ← orReject .unassignedFunction (StOrd.ofCode ((fImm w).extractLsb' 10 2))
    pure (.stb o (fIDst w) (fISrc w) ((fImm w).extractLsb' 0 10))
  | 0x41 => do
    let o ← orReject .unassignedFunction (StOrd.ofCode ((fImm w).extractLsb' 10 2))
    pure (.sth o (fIDst w) (fISrc w) ((fImm w).extractLsb' 0 10))
  | 0x42 => do
    let o ← orReject .unassignedFunction (StOrd.ofCode ((fImm w).extractLsb' 10 2))
    pure (.stw o (fIDst w) (fISrc w) ((fImm w).extractLsb' 0 10))
  | 0x43 => do
    let o ← orReject .unassignedFunction (StOrd.ofCode ((fImm w).extractLsb' 10 2))
    pure (.std o (fIDst w) (fISrc w) ((fImm w).extractLsb' 0 10))
  | 0x44 => do
    let o ← orReject .unassignedFunction (StOrd.ofCode ((fImm w).extractLsb' 10 2))
    pure (.stq o (fIDst w) (fISrc w) ((fImm w).extractLsb' 0 10))
  | 0x45 => do
    let o ← orReject .unassignedFunction (StOrd.ofCode ((fImm w).extractLsb' 10 2))
    pure (.sto o (fIDst w) (fISrc w) ((fImm w).extractLsb' 0 10))
  | 0x46 => pure (.ldl (Width.ofCode ((fImm w).extractLsb' 10 2)) (fIDst w) (fISrc w) ((fImm w).extractLsb' 0 10))
  | 0x47 => pure (.stl (Width.ofCode ((fImm w).extractLsb' 10 2)) (fIDst w) (fISrc w) ((fImm w).extractLsb' 0 10))
  | 0x48 => decodeAtom w
  | 0x49 => decodeAtom w
  | 0x4a => decodeAtom w
  | 0x4b => decodeAtom w
  | 0x4c => decodeMemCtl w
  | 0x50 => decodePulls w
  | 0x51 => decodeTags w
  | 0x52 => decodeMatrix w
  | 0x53 => decodeTid w
  | 0x54 => decodeSync w
  | 0x55 => do
    guardEq (fIDst w) 0 .nonzeroField
    pure (.pubi (fISrc w) (fImm w))
  | 0x56 => decodeWatch w
  | 0x57 => decodeMsg w
  | 0x58 => decodeFabric w
  | 0x59 => decodeQuery w
  | 0x60 => decodeLaneArith w
  | 0x61 => decodeLaneFun w
  | 0x62 => decodeConv w
  | 0x63 => decodeVcmp w
  | 0x64 => decodeLaneMove w
  | 0x65 => decodeVred w
  | 0x66 => decodeTable w
  | 0x67 => decodeMasks w
  | _ => .error .unassignedMajor

/-- The sixteen forms of R145. -/
def decodeForm (h : BitVec 16) : Instr :=
  match (h.extractLsb' 1 4).toNat with
  | 0 => .addi16Pos (h.extractLsb' 5 6) (h.extractLsb' 11 5)
  | 1 => .add16 (h.extractLsb' 5 6) (h.extractLsb' 11 5)
  | 2 => .sub16 (h.extractLsb' 5 6) (h.extractLsb' 11 5)
  | 3 => .and16 (h.extractLsb' 5 6) (h.extractLsb' 11 5)
  | 4 => .or16 (h.extractLsb' 5 6) (h.extractLsb' 11 5)
  | 5 => .xor16 (h.extractLsb' 5 6) (h.extractLsb' 11 5)
  | 6 => .mov16 (h.extractLsb' 5 6) (h.extractLsb' 11 5)
  | 7 => .movi16 (h.extractLsb' 5 6) (h.extractLsb' 11 5)
  | 8 => .shli16 (h.extractLsb' 5 6) (h.extractLsb' 11 5)
  | 9 => .shri16 (h.extractLsb' 5 6) (h.extractLsb' 11 5)
  | 10 => .shai16 (h.extractLsb' 5 6) (h.extractLsb' 11 5)
  | 11 => .mul16 (h.extractLsb' 5 6) (h.extractLsb' 11 5)
  | 12 => .min16 (h.extractLsb' 5 6) (h.extractLsb' 11 5)
  | 13 => .max16 (h.extractLsb' 5 6) (h.extractLsb' 11 5)
  | 14 => .andi16 (h.extractLsb' 5 6) (h.extractLsb' 11 5)
  | _ => .addi16Neg (h.extractLsb' 5 6) (h.extractLsb' 11 5)

/-! ### The checks on the values (steps 3, 5, 6 and 7 of R150) -/

/-- A group's first register meets the alignment of R135. -/
def aligned (w : Width) (r : Reg) : Bool :=
  r.toNat % w.words = 0

/-- The pair and width checks of R147. -/
def needs (ok : Bool) (r : Reject) (rest : Option Reject) : Option Reject :=
  if ok then rest else some r

def Width.sp : Width → Bool
  | .single => true
  | .pair => true
  | .quad => false
  | .octet => false

def even (r : Reg) : Bool := aligned .pair r

/-- FP32, BF16 and FP16: the floating types of lane arithmetic (R252). -/
def Ty.laneFloat : Ty → Bool
  | .fp32 => true
  | .bf16 => true
  | .fp16 => true
  | .e4m3 => false
  | .e5m2 => false
  | .int8 => false
  | .uint8 => false
  | .int32 => false
  | .ex4 => false
  | .ue8 => false

def Ty.isInt : Ty → Bool
  | .int8 => true
  | .uint8 => true
  | .int32 => true
  | .fp32 => false
  | .bf16 => false
  | .fp16 => false
  | .e4m3 => false
  | .e5m2 => false
  | .ex4 => false
  | .ue8 => false

/-- The six types of lane arithmetic (R252). -/
def Ty.laneArith (t : Ty) : Bool := t.laneFloat || t.isInt

/-- Types 0x0 to 0x7: those whose lanes an octet holds whole and that the moves accept (R261). -/
def Ty.movable (t : Ty) : Bool := t ≠ .ex4 && t ≠ .ue8

/-- Element bits (R135). -/
def Ty.bits : Ty → Nat
  | .fp32 => 32
  | .int32 => 32
  | .bf16 => 16
  | .fp16 => 16
  | .e4m3 => 8
  | .e5m2 => 8
  | .int8 => 8
  | .uint8 => 8
  | .ex4 => 4
  | .ue8 => 8

/-- Element size in bytes; EX4 counts as 1 here and is never asked (R64). -/
def Ty.bytes (t : Ty) : Nat := if t.bits ≤ 8 then 1 else t.bits / 8

/-- Lanes per octet (R135). -/
def Ty.lanes (t : Ty) : Nat := 256 / t.bits

/-- The pairs of source and destination type of VCVT (R257). -/
def vcvtPair (dt st : Ty) : Bool :=
  dt ≠ st && dt.movable && st.movable && dt.bits = st.bits

/-- The pairs of VCVTW (R257). -/
def vcvtwPair (dt st : Ty) : Bool :=
  match st with
  | .e4m3 => dt = .fp16 || dt = .bf16 || dt = .fp32
  | .e5m2 => dt = .fp16 || dt = .bf16 || dt = .fp32
  | .int8 => dt = .fp16 || dt = .bf16 || dt = .fp32 || dt = .int32
  | .uint8 => dt = .fp16 || dt = .bf16 || dt = .fp32 || dt = .int32
  | .bf16 => dt = .fp32
  | .fp16 => dt = .fp32
  | .fp32 => false
  | .int32 => false
  | .ex4 => false
  | .ue8 => false

/-- The pairs of VCVTN (R257). -/
def vcvtnPair (dt st : Ty) : Bool :=
  match st with
  | .fp32 => dt = .bf16 || dt = .fp16 || dt.bits = 8 && dt ≠ .ue8
  | .int32 => dt = .bf16 || dt = .fp16 || dt.bits = 8 && dt ≠ .ue8
  | .bf16 => dt.bits = 8 && dt ≠ .ue8
  | .fp16 => dt.bits = 8 && dt ≠ .ue8
  | .e4m3 => false
  | .e5m2 => false
  | .int8 => false
  | .uint8 => false
  | .ex4 => false
  | .ue8 => false

/-- Sources of VQNT (R258). -/
def vqntSource (t : Ty) : Bool :=
  t.laneFloat || t = .e4m3 || t = .e5m2

/-- An octet group of n octets starts at a multiple of n (R247). -/
def octAligned (n : Nat) (o : Oct) : Bool := o.toNat % n = 0

/-- A stream octet: w32.8, w40.8, w48.8 or w56.8 (R137). -/
def streamOctet (r : Reg) : Bool := r = 32 || r = 40 || r = 48 || r = 56

/-- Rounding fields: any code for a floating type, 0 for an integer type (R248). -/
def roundingOk (anyFloat : Bool) (r : Rc) : Bool := anyFloat || r = .dyn

def chk3 (w : Width) (d a b : Reg) : Option Reject :=
  needs (aligned w d && aligned w a && aligned w b) .widthOrGroup none

def chkSp3 (w : Width) (d a b : Reg) : Option Reject :=
  needs w.sp .widthOrGroup (chk3 w d a b)

def chkShift (w : Width) (d a : Reg) : Option Reject :=
  needs (w.sp && aligned w d && aligned w a) .widthOrGroup none

def chkLoad (w : Width) (d a : Reg) : Option Reject :=
  needs (even a && aligned w d) .widthOrGroup none

def chkAtom (w : Width) (d a b : Reg) : Option Reject :=
  needs (w.sp && even a && aligned w d && aligned w b) .widthOrGroup none

def chkEven (a : Reg) : Option Reject := needs (even a) .widthOrGroup none

def chkEven2 (a b : Reg) : Option Reject := needs (even a && even b) .widthOrGroup none

def chkOct (r : Reg) : Option Reject := needs (aligned .octet r) .widthOrGroup none

def chkArith (t : Ty) (r : Rc) : Option Reject :=
  needs t.laneArith .unassignedFunction (needs (roundingOk t.laneFloat r) .rounding none)

def chkTy (ok : Bool) : Option Reject := needs ok .unassignedFunction none

def chkNotM0 (d : MReg) : Option Reject := needs (d ≠ 0) .widthOrGroup none

def chkBf (p l : BitVec 5) : Option Reject :=
  needs (p.toNat + l.toNat + 1 ≤ 32) .immediate none

/-- The checks of R150 on the values of an instruction's operands: none where the encoding is an instruction. -/
def Instr.check : Instr → Option Reject
  | .add w d a b => chkSp3 w d a b
  | .sub w d a b => chkSp3 w d a b
  | .mul _ _ _ => none
  | .mulh _ _ _ => none
  | .mulhu _ _ _ => none
  | .div _ _ _ => none
  | .divu _ _ _ => none
  | .rem _ _ _ => none
  | .remu _ _ _ => none
  | .and w d a b => chk3 w d a b
  | .or w d a b => chk3 w d a b
  | .xor w d a b => chk3 w d a b
  | .andn w d a b => chk3 w d a b
  | .min _ _ _ => none
  | .max _ _ _ => none
  | .minu _ _ _ => none
  | .maxu _ _ _ => none
  | .shl w d a _ => chkShift w d a
  | .shr w d a _ => chkShift w d a
  | .sha w d a _ => chkShift w d a
  | .rot w d a _ => chkShift w d a
  | .clz _ _ => none
  | .ctz _ _ => none
  | .popc _ _ => none
  | .brev _ _ => none
  | .sext w d _ _ => needs (w.sp && aligned w d) .widthOrGroup none
  | .zext w d _ _ => needs (w.sp && aligned w d) .widthOrGroup none
  | .mov w d a => needs (aligned w d && aligned w a) .widthOrGroup none
  | .sel w d a b => chkSp3 w d a b
  | .setCc _ w _ a b => needs (w.sp && aligned w a && aligned w b) .widthOrGroup none
  | .addi _ _ _ => none
  | .andi _ _ _ => none
  | .ori _ _ _ => none
  | .xori _ _ _ => none
  | .shli _ _ _ => none
  | .shri _ _ _ => none
  | .shai _ _ _ => none
  | .roti _ _ _ => none
  | .bfx _ _ p l => chkBf p l
  | .bfi _ _ p l => chkBf p l
  | .movi _ _ => none
  | .movhi _ _ => none
  | .lea d a _ => chkEven2 d a
  | .beq _ _ _ => none
  | .bne _ _ _ => none
  | .blt _ _ _ => none
  | .bge _ _ _ => none
  | .bltu _ _ _ => none
  | .bgeu _ _ _ => none
  | .briEq _ _ _ => none
  | .briNe _ _ _ => none
  | .briLt _ _ _ => none
  | .briGe _ _ _ => none
  | .briLtu _ _ _ => none
  | .briGeu _ _ _ => none
  | .j _ => none
  | .jl _ => none
  | .jlr d a => chkEven2 d a
  | .loop _ o => needs (o ≠ 0) .immediate none
  | .loopi _ o => needs (o ≠ 0) .immediate none
  | .nop => none
  | .yield => none
  | .halt => none
  | .lexit => none
  | .mfs d sr => needs (!sr.wide || even d) .widthOrGroup none
  | .mts sr a => needs (!sr.wide || even a) .widthOrGroup none
  | .trap _ => none
  | .rft => none
  | .bkpt => none
  | .svc n => chkOct n
  | .ldbH _ d a _ => chkLoad .single d a
  | .ldbuH _ d a _ => chkLoad .single d a
  | .ldhH _ d a _ => chkLoad .single d a
  | .ldhuH _ d a _ => chkLoad .single d a
  | .ldwH _ d a _ => chkLoad .single d a
  | .lddH _ d a _ => chkLoad .pair d a
  | .ldqH _ d a _ => chkLoad .quad d a
  | .ldoH _ d a _ => chkLoad .octet d a
  | .ldbG _ d a _ => chkLoad .single d a
  | .ldbuG _ d a _ => chkLoad .single d a
  | .ldhG _ d a _ => chkLoad .single d a
  | .ldhuG _ d a _ => chkLoad .single d a
  | .ldwG _ d a _ => chkLoad .single d a
  | .lddG _ d a _ => chkLoad .pair d a
  | .ldqG _ d a _ => chkLoad .quad d a
  | .ldoG _ d a _ => chkLoad .octet d a
  | .stb _ d a _ => chkLoad .single d a
  | .sth _ d a _ => chkLoad .single d a
  | .stw _ d a _ => chkLoad .single d a
  | .std _ d a _ => chkLoad .pair d a
  | .stq _ d a _ => chkLoad .quad d a
  | .sto _ d a _ => chkLoad .octet d a
  | .ldl w d _ _ => needs (aligned w d) .widthOrGroup none
  | .stl w d _ _ => needs (aligned w d) .widthOrGroup none
  | .atomAdd _ w d a b => chkAtom w d a b
  | .atomMin _ w d a b => chkAtom w d a b
  | .atomMax _ w d a b => chkAtom w d a b
  | .atomMinu _ w d a b => chkAtom w d a b
  | .atomMaxu _ w d a b => chkAtom w d a b
  | .atomAnd _ w d a b => chkAtom w d a b
  | .atomOr _ w d a b => chkAtom w d a b
  | .atomXor _ w d a b => chkAtom w d a b
  | .atomSwap _ w d a b => chkAtom w d a b
  | .atomCas _ w d a b => chkAtom w d a b
  | .fence _ => none
  | .fenceP a b => needs (a ≠ b) .immediate none
  | .rwb a _ => chkEven a
  | .rinv a _ => chkEven a
  | .clean a _ => chkEven a
  | .pull a b _ => chkEven2 a b
  | .pulld a b _ => chkEven2 a b
  | .pullc a b _ => chkEven2 a b
  | .stream b p _ => needs (even b) .widthOrGroup (needs (streamOctet p) .immediate none)
  | .tagwaitAny _ a => chkEven a
  | .tagwaitAll a => chkEven a
  | .tagff _ a => chkEven a
  | .tagclr a => chkEven a
  | .tagtst _ _ => none
  | .sclose a => needs (streamOctet a) .widthOrGroup none
  | .mma a b _ => chkEven2 a b
  | .mmas a b _ => chkEven2 a b
  | .msend a b _ => chkEven2 a b
  | .mdrain a _ => chkEven a
  | .mzero a _ => chkEven a
  | .plane b s => needs (even b && aligned .octet s) .widthOrGroup none
  | .tidset _ _ => none
  | .tidclr _ => none
  | .pub a b => chkEven2 a b
  | .pubi a i => needs (even a) .widthOrGroup (needs (i ≠ 0) .immediate none)
  | .unwatch _ _ => none
  | .bar a => chkEven a
  | .bara _ a => chkEven a
  | .barw a _ => chkEven a
  | .convoy _ => none
  | .cjoin => none
  | .cleave => none
  | .watch a _ => chkEven a
  | .send s _ => chkOct s
  | .sendt _ s _ => chkOct s
  | .recv d => chkOct d
  | .recvt d _ => chkOct d
  | .enq _ _ => none
  | .enqt _ _ _ => none
  | .lease a _ => chkEven a
  | .coll a _ => chkEven a
  | .leaseq _ _ => none
  | .leaserel _ _ _ => none
  | .deadq _ _ => none
  | .vadd t r _ _ _ _ => chkArith t r
  | .vsub t r _ _ _ _ => chkArith t r
  | .vmul t r _ _ _ _ => chkArith t r
  | .vfma t _ _ _ _ _ => chkTy t.laneFloat
  | .vfms t _ _ _ _ _ => chkTy t.laneFloat
  | .vfnma t _ _ _ _ _ => chkTy t.laneFloat
  | .vmax t _ _ _ _ => chkTy t.laneArith
  | .vmin t _ _ _ _ => chkTy t.laneArith
  | .vabs t _ _ _ => chkTy t.laneArith
  | .vneg t _ _ _ => chkTy t.laneArith
  | .vdot t r _ _ _ _ => needs (t = .bf16 || t = .fp16 || t = .int8 || t = .uint8) .unassignedFunction (needs (roundingOk t.laneFloat r) .rounding none)
  | .vrcp t _ _ _ _ => chkTy t.laneFloat
  | .vrsq t _ _ _ _ => chkTy t.laneFloat
  | .vexp2 t _ _ _ _ => chkTy t.laneFloat
  | .vcvt t st r _ _ _ => needs (vcvtPair t st) .unassignedFunction (needs (roundingOk (!t.isInt || !st.isInt) r) .rounding none)
  | .vcvtw t st d _ _ => needs (vcvtwPair t st) .unassignedFunction (needs (octAligned (t.bytes / st.bytes) d) .widthOrGroup none)
  | .vcvtn t st r _ a _ => needs (vcvtnPair t st) .unassignedFunction (needs (roundingOk (!t.isInt || !st.isInt) r) .rounding (needs (octAligned (st.bytes / t.bytes) a) .widthOrGroup none))
  | .vqnt st _ a => needs (vqntSource st) .unassignedFunction (needs (octAligned st.bytes a) .widthOrGroup none)
  | .vdq t _ d _ _ => needs (vqntSource t) .unassignedFunction (needs (octAligned t.bytes d) .widthOrGroup none)
  | .vcmpCc c t d _ _ _ => needs (t.movable && (c ≠ .un || !t.isInt)) .unassignedFunction (chkNotM0 d)
  | .vsel t _ _ _ _ => chkTy t.movable
  | .vperm t _ _ _ _ => chkTy t.movable
  | .vbcast t _ _ _ => chkTy t.movable
  | .vins t _ _ idx => needs t.movable .unassignedFunction (needs (idx.toNat < t.lanes) .immediate none)
  | .vext t _ _ idx => needs t.movable .unassignedFunction (needs (idx.toNat < t.lanes) .immediate none)
  | .viota t _ _ => chkTy t.laneArith
  | .vredSum t r _ _ _ => needs (t.laneFloat || t = .int32) .unassignedFunction (needs (roundingOk t.laneFloat r) .rounding none)
  | .vredMax t _ _ _ => chkTy t.laneArith
  | .vredMin t _ _ _ => chkTy t.laneArith
  | .vtbl t _ _ _ _ _ => chkTy t.laneFloat
  | .vtbld _ _ => none
  | .mand d _ _ => chkNotM0 d
  | .mor d _ _ => chkNotM0 d
  | .mxor d _ _ => chkNotM0 d
  | .mnot d _ => chkNotM0 d
  | .mpop _ _ => none
  | .addi16Pos d i => needs (!(d = 0 && i = 0)) .alwaysIllegal none
  | .add16 _ _ => none
  | .sub16 _ _ => none
  | .and16 _ _ => none
  | .or16 _ _ => none
  | .xor16 _ _ => none
  | .mov16 _ _ => none
  | .movi16 _ _ => none
  | .shli16 _ _ => none
  | .shri16 _ _ => none
  | .shai16 _ _ => none
  | .mul16 _ _ => none
  | .min16 _ _ => none
  | .max16 _ _ => none
  | .andi16 _ _ => none
  | .addi16Neg _ _ => none
  | .powerGood => none
  | .romMeasured => none
  | .phaseTimeout => none
  | .firstSramFetch => none
  | .ceHash => none
  | .ceVerifyEcdsa => none
  | .ceVerifyLms => none
  | .ceCommandDone => none
  | .meExtend => none
  | .meSpdmMeas => none
  | .meCommandDone => none
  | .mctpRequest => none
  | .mbTxlen => none
  | .mbTransmitDone => none
  | .mbRxdone => none
  | .bootStatWrite => none
  | .fuStateWrite => none
  | .configRequest => none
  | .trainStart => none
  | .calDone => none
  | .rttDone => none
  | .keysDone => none
  | .keyUpdate => none
  | .ksCreate => none
  | .ksImport => none
  | .ksExport => none
  | .ksOffer => none
  | .ksAccept => none
  | .ksAcceptDrained => none
  | .ksErase => none
  | .ksEraseDrained => none
  | .ksSimport => none
  | .ksSerase => none
  | .ksSeraseDrained => none
  | .clusterFnWrite => none
  | .queueFnWrite => none
  | .registerWrite => none
  | .qProdWrite => none
  | .queueCreate => none
  | .queueDestroy => none
  | .queueResume => none
  | .svcCtlWrite => none
  | .bstCtlWrite => none
  | .recordRead => none
  | .recordArrival => none
  | .enqRequest => none
  | .dependenceSatisfied => none
  | .teamPlace => none
  | .launchBlocking => none
  | .basteStart => none
  | .basteAdopt => none
  | .basteRevalidated => none
  | .basteCommitted => none
  | .basteClaimed => none
  | .basteUnpick => none
  | .basteLifeExpiry => none
  | .quantumExpiry => none
  | .fetchLineArrival => none
  | .breakpointMatch => none
  | .teamStall => none
  | .tableWalkRead => none
  | .tuRetry => none
  | .tuFail => none
  | .tuAnswer => none
  | .tuInvPage => none
  | .tuInvSpace => none
  | .tuInvAll => none
  | .tuInvDone => none
  | .loadReply => none
  | .atomReply => none
  | .l1Eviction => none
  | .read => none
  | .readReply => none
  | .pullReq => none
  | .pullData => none
  | .pullComplete => none
  | .watchReq => none
  | .watchPoll => none
  | .watchDone => none
  | .msg => none
  | .msgAnswer => none
  | .enqAnswer => none
  | .unwatchAnswer => none
  | .fabricQueryAnswer => none
  | .matrixAccept => none
  | .bFetchDone => none
  | .matrixStepStart => none
  | .matrixStepDone => none
  | .vtbldDone => none
  | .flitSend => none
  | .data => none
  | .ack => none
  | .nak => none
  | .idle => none
  | .echo => none
  | .ackTimer => none
  | .retransmitTimeout => none
  | .idleTimer => none
  | .colourRecalibrated => none
  | .laneRetuned => none
  | .leaseReq => none
  | .leaseAnswer => none
  | .leaseWaitExpiry => none
  | .termEnd => none
  | .genReq => none
  | .genReply => none
  | .state => none
  | .error => none
  | .deadPeerDeclare => none
  | .collStart => none
  | .collWatchMet => none
  | .collPullLanded => none
  | .tnodeExpiry => none
  | .tlimExpiry => none
  | .preSave => none
  | .saveDrained => none
  | .redirectCompletion => none
  | .preResume => none
  | .resumePlace => none
  | .preDrop => none
  | .dbgRead => none
  | .dbgWrite => none
  | .teamRetire => none
  | .teamRetireDone => none
  | .quiescenceWave => none
  | .functionLevelReset => none
  | .conventionalReset => none
  | .correctedError => none
  | .uncorrectableError => none
  | .parityError => none
  | .hbmLinkTagFail => none
  | .snapQuiesce => none
  | .quiesceDone => none
  | .snapCopy => none
  | .copyDone => none
  | .snapRestore => none
  | .restoreDone => none
  | .snapRelease => none
  | .telemetryUpdate => none
  | .powerRemoved => none
  | .perstDeasserted => none
  | .storePerformed => none
  | .completionTimeout => none

/-! ### Decoding bytes -/

/-- A 32-bit encoding (R150). -/
def decode32 (w : BitVec 32) : Except Reject Instr :=
  if w = 0xFFFFFFFF#32 then .error .alwaysIllegal
  else
    match decodeMajor w with
    | .error r => .error r
    | .ok i =>
      match i.check with
      | some r => .error r
      | none => .ok i

/-- A 16-bit encoding (R143, R145). -/
def decode16 (h : BitVec 16) : Except Reject Instr :=
  if h = 0#16 then .error .alwaysIllegal
  else
    match (decodeForm h).check with
    | some r => .error r
    | none => .ok (decodeForm h)

/-- A little-endian halfword at the head of a byte list (R6). -/
def halfOf (lo hi : Byte) : BitVec 16 := hi ++ lo

/-- Decode the instruction at the head of a list of bytes: the instruction and its length in bytes, by the length
bit of R141. -/
def decode : List Byte → Except Reject (Instr × Nat)
  | b0 :: b1 :: rest =>
    if b0.getLsbD 0 then
      match rest with
      | b2 :: b3 :: _ => (decode32 (halfOf b2 b3 ++ halfOf b0 b1)).map (fun i => (i, 4))
      | _ => .error .truncated
    else (decode16 (halfOf b0 b1)).map (fun i => (i, 2))
  | _ => .error .truncated

/-! ### Encoding -/

/-- What an instruction is encoded as: nothing for an event, a halfword, or a word. -/
inductive Encoding where
  | none
  | half (h : BitVec 16)
  | word (w : BitVec 32)
  deriving DecidableEq, Repr

/-- The encoding of an instruction (R144 to R152 and the entries). -/
def encode : Instr → Encoding
  | .powerGood => .none
  | .romMeasured => .none
  | .phaseTimeout => .none
  | .firstSramFetch => .none
  | .ceHash => .none
  | .ceVerifyEcdsa => .none
  | .ceVerifyLms => .none
  | .ceCommandDone => .none
  | .meExtend => .none
  | .meSpdmMeas => .none
  | .meCommandDone => .none
  | .mctpRequest => .none
  | .mbTxlen => .none
  | .mbTransmitDone => .none
  | .mbRxdone => .none
  | .bootStatWrite => .none
  | .fuStateWrite => .none
  | .configRequest => .none
  | .trainStart => .none
  | .calDone => .none
  | .rttDone => .none
  | .keysDone => .none
  | .keyUpdate => .none
  | .ksCreate => .none
  | .ksImport => .none
  | .ksExport => .none
  | .ksOffer => .none
  | .ksAccept => .none
  | .ksAcceptDrained => .none
  | .ksErase => .none
  | .ksEraseDrained => .none
  | .ksSimport => .none
  | .ksSerase => .none
  | .ksSeraseDrained => .none
  | .clusterFnWrite => .none
  | .queueFnWrite => .none
  | .registerWrite => .none
  | .qProdWrite => .none
  | .queueCreate => .none
  | .queueDestroy => .none
  | .queueResume => .none
  | .svcCtlWrite => .none
  | .bstCtlWrite => .none
  | .recordRead => .none
  | .recordArrival => .none
  | .enqRequest => .none
  | .dependenceSatisfied => .none
  | .teamPlace => .none
  | .launchBlocking => .none
  | .basteStart => .none
  | .basteAdopt => .none
  | .basteRevalidated => .none
  | .basteCommitted => .none
  | .basteClaimed => .none
  | .basteUnpick => .none
  | .basteLifeExpiry => .none
  | .quantumExpiry => .none
  | .fetchLineArrival => .none
  | .breakpointMatch => .none
  | .teamStall => .none
  | .tableWalkRead => .none
  | .tuRetry => .none
  | .tuFail => .none
  | .tuAnswer => .none
  | .tuInvPage => .none
  | .tuInvSpace => .none
  | .tuInvAll => .none
  | .tuInvDone => .none
  | .loadReply => .none
  | .atomReply => .none
  | .l1Eviction => .none
  | .read => .none
  | .readReply => .none
  | .pullReq => .none
  | .pullData => .none
  | .pullComplete => .none
  | .watchReq => .none
  | .watchPoll => .none
  | .watchDone => .none
  | .msg => .none
  | .msgAnswer => .none
  | .enqAnswer => .none
  | .unwatchAnswer => .none
  | .fabricQueryAnswer => .none
  | .matrixAccept => .none
  | .bFetchDone => .none
  | .matrixStepStart => .none
  | .matrixStepDone => .none
  | .vtbldDone => .none
  | .flitSend => .none
  | .data => .none
  | .ack => .none
  | .nak => .none
  | .idle => .none
  | .echo => .none
  | .ackTimer => .none
  | .retransmitTimeout => .none
  | .idleTimer => .none
  | .colourRecalibrated => .none
  | .laneRetuned => .none
  | .leaseReq => .none
  | .leaseAnswer => .none
  | .leaseWaitExpiry => .none
  | .termEnd => .none
  | .genReq => .none
  | .genReply => .none
  | .state => .none
  | .error => .none
  | .deadPeerDeclare => .none
  | .collStart => .none
  | .collWatchMet => .none
  | .collPullLanded => .none
  | .tnodeExpiry => .none
  | .tlimExpiry => .none
  | .preSave => .none
  | .saveDrained => .none
  | .redirectCompletion => .none
  | .preResume => .none
  | .resumePlace => .none
  | .preDrop => .none
  | .dbgRead => .none
  | .dbgWrite => .none
  | .teamRetire => .none
  | .teamRetireDone => .none
  | .quiescenceWave => .none
  | .functionLevelReset => .none
  | .conventionalReset => .none
  | .correctedError => .none
  | .uncorrectableError => .none
  | .parityError => .none
  | .hbmLinkTagFail => .none
  | .snapQuiesce => .none
  | .quiesceDone => .none
  | .snapCopy => .none
  | .copyDone => .none
  | .snapRestore => .none
  | .restoreDone => .none
  | .snapRelease => .none
  | .telemetryUpdate => .none
  | .powerRemoved => .none
  | .perstDeasserted => .none
  | .storePerformed => .none
  | .completionTimeout => .none
  | .add w d a b => .word (encR b a d w.code 0x0 0x1)
  | .sub w d a b => .word (encR b a d w.code 0x1 0x1)
  | .mul d a b => .word (encR b a d 0 0x2 0x1)
  | .mulh d a b => .word (encR b a d 0 0x3 0x1)
  | .mulhu d a b => .word (encR b a d 0 0x4 0x1)
  | .div d a b => .word (encR b a d 0 0x5 0x1)
  | .divu d a b => .word (encR b a d 0 0x6 0x1)
  | .rem d a b => .word (encR b a d 0 0x7 0x1)
  | .remu d a b => .word (encR b a d 0 0x8 0x1)
  | .and w d a b => .word (encR b a d w.code 0x9 0x1)
  | .or w d a b => .word (encR b a d w.code 0xa 0x1)
  | .xor w d a b => .word (encR b a d w.code 0xb 0x1)
  | .andn w d a b => .word (encR b a d w.code 0xc 0x1)
  | .min d a b => .word (encR b a d 0 0xd 0x1)
  | .max d a b => .word (encR b a d 0 0xe 0x1)
  | .minu d a b => .word (encR b a d 0 0xf 0x1)
  | .maxu d a b => .word (encR b a d 0 0x0 0x2)
  | .shl w d a b => .word (encR b a d w.code 0x1 0x2)
  | .shr w d a b => .word (encR b a d w.code 0x2 0x2)
  | .sha w d a b => .word (encR b a d w.code 0x3 0x2)
  | .rot w d a b => .word (encR b a d w.code 0x4 0x2)
  | .clz d a => .word (encR 0 a d 0 0x5 0x2)
  | .ctz d a => .word (encR 0 a d 0 0x6 0x2)
  | .popc d a => .word (encR 0 a d 0 0x7 0x2)
  | .brev d a => .word (encR 0 a d 0 0x8 0x2)
  | .sext w d a n => .word (encR (0#1 ++ n) a d w.code 0x9 0x2)
  | .zext w d a n => .word (encR (0#1 ++ n) a d w.code 0xa 0x2)
  | .mov w d a => .word (encR 0 a d w.code 0xb 0x2)
  | .sel w d a b => .word (encR b a d w.code 0xc 0x2)
  | .setCc c w d a b => .word (encR b a d w.code c.code 0x3)
  | .addi d a i => .word (encI i a d 0x4)
  | .andi d a i => .word (encI i a d 0x5)
  | .ori d a i => .word (encI i a d 0x6)
  | .xori d a i => .word (encI i a d 0x7)
  | .shli d a k => .word (encI (0#2 ++ 0#5 ++ k) a d 0x8)
  | .shri d a k => .word (encI (1#2 ++ 0#5 ++ k) a d 0x8)
  | .shai d a k => .word (encI (2#2 ++ 0#5 ++ k) a d 0x8)
  | .roti d a k => .word (encI (3#2 ++ 0#5 ++ k) a d 0x8)
  | .bfx d a p l => .word (encI (0#2 ++ p ++ l) a d 0x9)
  | .bfi d a p l => .word (encI (0#2 ++ p ++ l) a d 0xa)
  | .movi d i => .word (enc18 i d 0xb)
  | .movhi d i => .word (enc18 i d 0xc)
  | .lea d a i => .word (encI i a d 0xd)
  | .beq a b o => .word (encI o a b 0x10)
  | .bne a b o => .word (encI o a b 0x11)
  | .blt a b o => .word (encI o a b 0x12)
  | .bge a b o => .word (encI o a b 0x13)
  | .bltu a b o => .word (encI o a b 0x14)
  | .bgeu a b o => .word (encI o a b 0x15)
  | .briEq a i o => .word (encI o a i 0x16)
  | .briNe a i o => .word (encI o a i 0x17)
  | .briLt a i o => .word (encI o a i 0x18)
  | .briGe a i o => .word (encI o a i 0x19)
  | .briLtu a i o => .word (encI o a i 0x1a)
  | .briGeu a i o => .word (encI o a i 0x1b)
  | .j o => .word (encJ o 0x1c)
  | .jl o => .word (encJ o 0x1d)
  | .jlr d a => .word (encR 0 a d 1 0x0 0x20)
  | .nop => .word (encR 0 0 0 0 0x1 0x20)
  | .yield => .word (encR 0 0 0 0 0x2 0x20)
  | .halt => .word (encR 0 0 0 0 0x3 0x20)
  | .lexit => .word (encR 0 0 0 0 0x4 0x20)
  | .loop a o => .word (encI o a 0 0x1e)
  | .loopi c o => .word (encCount o c 0x1f)
  | .mfs d sr => .word (encI sr.code 0 d 0x21)
  | .mts sr a => .word (encI sr.code a 0 0x22)
  | .trap c => .word (encR 0 c 0 0 0x0 0x23)
  | .rft => .word (encR 0 0 0 0 0x1 0x23)
  | .bkpt => .word (encR 0 0 0 0 0x2 0x23)
  | .svc n => .word (encR 0 n 0 3 0x3 0x23)
  | .ldbH o d a i => .word (encI (o.code ++ i) a d 0x30)
  | .ldbuH o d a i => .word (encI (o.code ++ i) a d 0x31)
  | .ldhH o d a i => .word (encI (o.code ++ i) a d 0x32)
  | .ldhuH o d a i => .word (encI (o.code ++ i) a d 0x33)
  | .ldwH o d a i => .word (encI (o.code ++ i) a d 0x34)
  | .lddH o d a i => .word (encI (o.code ++ i) a d 0x35)
  | .ldqH o d a i => .word (encI (o.code ++ i) a d 0x36)
  | .ldoH o d a i => .word (encI (o.code ++ i) a d 0x37)
  | .ldbG o d a i => .word (encI (o.code ++ i) a d 0x38)
  | .ldbuG o d a i => .word (encI (o.code ++ i) a d 0x39)
  | .ldhG o d a i => .word (encI (o.code ++ i) a d 0x3a)
  | .ldhuG o d a i => .word (encI (o.code ++ i) a d 0x3b)
  | .ldwG o d a i => .word (encI (o.code ++ i) a d 0x3c)
  | .lddG o d a i => .word (encI (o.code ++ i) a d 0x3d)
  | .ldqG o d a i => .word (encI (o.code ++ i) a d 0x3e)
  | .ldoG o d a i => .word (encI (o.code ++ i) a d 0x3f)
  | .stb o d a i => .word (encI (o.code ++ i) a d 0x40)
  | .sth o d a i => .word (encI (o.code ++ i) a d 0x41)
  | .stw o d a i => .word (encI (o.code ++ i) a d 0x42)
  | .std o d a i => .word (encI (o.code ++ i) a d 0x43)
  | .stq o d a i => .word (encI (o.code ++ i) a d 0x44)
  | .sto o d a i => .word (encI (o.code ++ i) a d 0x45)
  | .ldl w d a i => .word (encI (w.code ++ i) a d 0x46)
  | .stl w d a i => .word (encI (w.code ++ i) a d 0x47)
  | .atomAdd o w d a b => .word (encR b a d w.code 0x0 (0b10010#5 ++ o.code))
  | .atomMin o w d a b => .word (encR b a d w.code 0x1 (0b10010#5 ++ o.code))
  | .atomMax o w d a b => .word (encR b a d w.code 0x2 (0b10010#5 ++ o.code))
  | .atomMinu o w d a b => .word (encR b a d w.code 0x3 (0b10010#5 ++ o.code))
  | .atomMaxu o w d a b => .word (encR b a d w.code 0x4 (0b10010#5 ++ o.code))
  | .atomAnd o w d a b => .word (encR b a d w.code 0x5 (0b10010#5 ++ o.code))
  | .atomOr o w d a b => .word (encR b a d w.code 0x6 (0b10010#5 ++ o.code))
  | .atomXor o w d a b => .word (encR b a d w.code 0x7 (0b10010#5 ++ o.code))
  | .atomSwap o w d a b => .word (encR b a d w.code 0x8 (0b10010#5 ++ o.code))
  | .atomCas o w d a b => .word (encR b a d w.code 0x9 (0b10010#5 ++ o.code))
  | .fence sc => .word (encR sc.code 0 0 0 0x0 0x4c)
  | .fenceP a b => .word (encR b.code a.code 0 0 0x1 0x4c)
  | .rwb a b => .word (encR b a 0 0 0x2 0x4c)
  | .rinv a b => .word (encR b a 0 0 0x3 0x4c)
  | .clean a b => .word (encR b a 0 0 0x4 0x4c)
  | .pull a b t => .word (encX a b t 0x0 0x50)
  | .pulld a b t => .word (encX a b t 0x1 0x50)
  | .pullc a b t => .word (encX a b t 0x2 0x50)
  | .stream b p t => .word (encX p b t 0x3 0x50)
  | .tagwaitAny d a => .word (encR 0 a d 1 0x0 0x51)
  | .tagwaitAll a => .word (encR 0 a 0 1 0x1 0x51)
  | .tagff d a => .word (encR 0 a d 1 0x2 0x51)
  | .tagclr a => .word (encR 0 a 0 1 0x3 0x51)
  | .tagtst d t => .word (encR 0 t d 0 0x4 0x51)
  | .sclose a => .word (encR 0 a 0 3 0x5 0x51)
  | .mma a b t => .word (encX a b t 0x0 0x52)
  | .mmas a b t => .word (encX a b t 0x1 0x52)
  | .msend a b t => .word (encX a b t 0x2 0x52)
  | .mdrain a t => .word (encX a 0 t 0x3 0x52)
  | .mzero a t => .word (encX a 0 t 0x4 0x52)
  | .plane b s => .word (encX s b 0 0x5 0x52)
  | .tidset a b => .word (encR b a 0 0 0x0 0x53)
  | .tidclr a => .word (encR 0 a 0 0 0x1 0x53)
  | .pub a b => .word (encR b a 0 1 0x0 0x54)
  | .unwatch d t => .word (encR 0 t d 0 0x1 0x54)
  | .bar a => .word (encR 0 a 0 0 0x2 0x54)
  | .bara d a => .word (encR 0 a d 0 0x3 0x54)
  | .barw a b => .word (encR b a 0 0 0x4 0x54)
  | .convoy m => .word (encR 0 m 0 0 0x5 0x54)
  | .cjoin => .word (encR 0 0 0 0 0x6 0x54)
  | .cleave => .word (encR 0 0 0 0 0x7 0x54)
  | .pubi a i => .word (encI i a 0 0x55)
  | .watch a t => .word (encX a 0 t 0x0 0x56)
  | .send s t => .word (encR t s 0 3 0x0 0x57)
  | .sendt d s t => .word (encR t s d 3 0x1 0x57)
  | .recv d => .word (encR 0 0 d 3 0x2 0x57)
  | .recvt d s => .word (encR s 0 d 3 0x3 0x57)
  | .enq s q => .word (encR q s 0 0 0x4 0x57)
  | .enqt d s q => .word (encR q s d 0 0x5 0x57)
  | .lease a t => .word (encX a 0 t 0x0 0x58)
  | .coll a t => .word (encX a 0 t 0x1 0x58)
  | .leaseq d p => .word (encR 0 p d 0 0x0 0x59)
  | .leaserel d p n => .word (encR n p d 0 0x1 0x59)
  | .deadq d p => .word (encR 0 p d 0 0x2 0x59)
  | .vadd t r d a b m => .word (encV b a d m t.code r.code 0x0 0x60)
  | .vsub t r d a b m => .word (encV b a d m t.code r.code 0x1 0x60)
  | .vmul t r d a b m => .word (encV b a d m t.code r.code 0x2 0x60)
  | .vfma t r d a b m => .word (encV b a d m t.code r.code 0x3 0x60)
  | .vfms t r d a b m => .word (encV b a d m t.code r.code 0x4 0x60)
  | .vfnma t r d a b m => .word (encV b a d m t.code r.code 0x5 0x60)
  | .vmax t d a b m => .word (encV b a d m t.code 0 0x6 0x60)
  | .vmin t d a b m => .word (encV b a d m t.code 0 0x7 0x60)
  | .vabs t d a m => .word (encV 0 a d m t.code 0 0x8 0x60)
  | .vneg t d a m => .word (encV 0 a d m t.code 0 0x9 0x60)
  | .vdot t r d a b m => .word (encV b a d m t.code r.code 0xa 0x60)
  | .vrcp t r d a m => .word (encV 0 a d m t.code r.code 0x0 0x61)
  | .vrsq t r d a m => .word (encV 0 a d m t.code r.code 0x1 0x61)
  | .vexp2 t r d a m => .word (encV 0 a d m t.code r.code 0x2 0x61)
  | .vcvt t st r d a m => .word (encV (st.code.extractLsb' 0 3) a d m t.code r.code 0x0 0x62)
  | .vcvtw t st d a m => .word (encV (st.code.extractLsb' 0 3) a d m t.code 0 0x1 0x62)
  | .vcvtn t st r d a m => .word (encV (st.code.extractLsb' 0 3) a d m t.code r.code 0x2 0x62)
  | .vqnt st d a => .word (encV (st.code.extractLsb' 0 3) a d 0 0x8 0 0x3 0x62)
  | .vdq t r d a m => .word (encV 0 a d m t.code r.code 0x4 0x62)
  | .vcmpCc c t d a b m => .word (encV b a d m t.code c.code 0x0 0x63)
  | .vsel t d a b m => .word (encV b a d m t.code 0 0x0 0x64)
  | .vperm t d a b m => .word (encV b a d m t.code 0 0x1 0x64)
  | .vbcast t d s m => .word (encVw s d m t.code 0 0x2 0x64)
  | .vins t d s idx => .word (encVw s d (0#2 ++ idx.extractLsb' 4 1) t.code (idx.extractLsb' 0 4) 0x3 0x64)
  | .vext t d v idx => .word (encVw d v (0#2 ++ idx.extractLsb' 4 1) t.code (idx.extractLsb' 0 4) 0x4 0x64)
  | .viota t d m => .word (encV 0 0 d m t.code 0 0x5 0x64)
  | .vredSum t r d a m => .word (encV 0 a d m t.code r.code 0x0 0x65)
  | .vredMax t d a m => .word (encV 0 a d m t.code 0 0x1 0x65)
  | .vredMin t d a m => .word (encV 0 a d m t.code 0 0x2 0x65)
  | .vtbl t r d a slot m => .word (encV (0#1 ++ slot) a d m t.code r.code 0x0 0x66)
  | .vtbld slot s => .word (encVw s (0#1 ++ slot) 0 0 0 0x1 0x66)
  | .mand d a b => .word (encR (0#3 ++ b) (0#3 ++ a) (0#3 ++ d) 0 0x0 0x67)
  | .mor d a b => .word (encR (0#3 ++ b) (0#3 ++ a) (0#3 ++ d) 0 0x1 0x67)
  | .mxor d a b => .word (encR (0#3 ++ b) (0#3 ++ a) (0#3 ++ d) 0 0x2 0x67)
  | .mnot d a => .word (encR 0 (0#3 ++ a) (0#3 ++ d) 0 0x3 0x67)
  | .mpop d a => .word (encR 0 (0#3 ++ a) d 0 0x4 0x67)
  | .addi16Pos d i => .half (enc16 i d 0x0)
  | .add16 d s => .half (enc16 s d 0x1)
  | .sub16 d s => .half (enc16 s d 0x2)
  | .and16 d s => .half (enc16 s d 0x3)
  | .or16 d s => .half (enc16 s d 0x4)
  | .xor16 d s => .half (enc16 s d 0x5)
  | .mov16 d s => .half (enc16 s d 0x6)
  | .movi16 d i => .half (enc16 i d 0x7)
  | .shli16 d k => .half (enc16 k d 0x8)
  | .shri16 d k => .half (enc16 k d 0x9)
  | .shai16 d k => .half (enc16 k d 0xa)
  | .mul16 d s => .half (enc16 s d 0xb)
  | .min16 d s => .half (enc16 s d 0xc)
  | .max16 d s => .half (enc16 s d 0xd)
  | .andi16 d i => .half (enc16 i d 0xe)
  | .addi16Neg d i => .half (enc16 i d 0xf)

/-- Whether the row is an event, which has no encoding. -/
def Instr.isEvent (i : Instr) : Bool := encode i = .none

/-- The bytes of an encoding, little-endian by halfword (R6). -/
def Encoding.bytes : Encoding → List Byte
  | .none => []
  | .half h => [h.extractLsb' 0 8, h.extractLsb' 8 8]
  | .word w => [w.extractLsb' 0 8, w.extractLsb' 8 8, w.extractLsb' 16 8, w.extractLsb' 24 8]

/-- The low n bytes of w, least significant first. -/
def bytesLE (n : Nat) (w : Nat) : List Byte :=
  (List.range n).map (fun k => BitVec.ofNat 8 (w / 2 ^ (8 * k)))

/-- The instruction the decoder reads from bits numbered as spec/opcode_table.json numbers them. A row without an
encoding has no bits. -/
def decodeTableWord (nbits w : Nat) : Option Instr :=
  if nbits = 0 then none
  else
    match decode (bytesLE 4 (w % 2 ^ nbits)) with
    | .ok (i, _) => some i
    | .error _ => none

end Sys2Proof
end

