-- ==== Sys2Proof/Machine/Sha.lean ====
section
/-! DEFINITION. SHA-384 and SHA-256 (FIPS 180-4), HMAC and HKDF over SHA-384, as R15, R17, R47, R292 and R384 name them. -/

namespace Sys2Proof.Machine

/-- n bytes of a number, most significant first. -/
def beBytes (n v : Nat) : List Byte := (List.range n).map (fun k => BitVec.ofNat 8 (v / 256 ^ (n - 1 - k)))

/-- The number that bytes write, most significant first. -/
def beNat (l : List Byte) : Nat := l.foldl (fun v b => v * 256 + b.toNat) 0

/-- n bytes of a number, least significant first. -/
def leBytes (n v : Nat) : List Byte := (List.range n).map (fun k => BitVec.ofNat 8 (v / 256 ^ k))

/-- Exclusive or of two byte strings, as long as the shorter. -/
def xorBytes (a b : List Byte) : List Byte := List.zipWith (· ^^^ ·) a b

/-- The bytes of an ASCII string. -/
def ascii (s : String) : List Byte := s.toList.map (fun c => BitVec.ofNat 8 c.toNat)

/-- The integer e-th root of n, found from bit k - 1 down, from r on. -/
def rootBits (e n : Nat) : Nat → Nat → Nat
  | 0, r => r
  | k + 1, r => rootBits e n k (if (r + 2 ^ k) ^ e ≤ n then r + 2 ^ k else r)

/-- The first 80 primes. -/
def shaPrimes : List Nat := (List.range 410).filter (fun n => 2 ≤ n && (List.range n).all (fun d => d < 2 || n % d ≠ 0))

/-- The first 64 bits of the fractional part of the e-th root of p. -/
def rootFrac (e p : Nat) : Nat := rootBits e (p * 2 ^ (64 * e)) 70 0 % 2 ^ 64

/-- What tells the two functions apart: rounds, and the distances of the two sums and of the two schedule functions, whose last is a
shift. -/
structure ShaVar where
  rounds : Nat
  sum0 : Nat × Nat × Nat
  sum1 : Nat × Nat × Nat
  sched0 : Nat × Nat × Nat
  sched1 : Nat × Nat × Nat

def sha512Var : ShaVar := ⟨80, (28, 34, 39), (14, 18, 41), (1, 8, 7), (19, 61, 6)⟩
def sha256Var : ShaVar := ⟨64, (2, 13, 22), (6, 11, 25), (7, 18, 3), (17, 19, 10)⟩

/-- Three rotations added without carry. -/
def shaSum {w : Nat} (d : Nat × Nat × Nat) (x : BitVec w) : BitVec w := x.rotateRight d.1 ^^^ x.rotateRight d.2.1 ^^^ x.rotateRight d.2.2

/-- Two rotations and a shift added without carry. -/
def shaMix {w : Nat} (d : Nat × Nat × Nat) (x : BitVec w) : BitVec w := x.rotateRight d.1 ^^^ x.rotateRight d.2.1 ^^^ x >>> d.2.2

/-- n more words of the message schedule, newest first. -/
def shaSchedule {w : Nat} (v : ShaVar) : Nat → List (BitVec w) → List (BitVec w)
  | 0, l => l
  | n + 1, l => shaSchedule v n ((shaMix v.sched1 (l.getD 1 0) + l.getD 6 0 + shaMix v.sched0 (l.getD 14 0) + l.getD 15 0) :: l)

/-- One round on the eight working words. -/
def shaRound {w : Nat} (v : ShaVar) (h : List (BitVec w)) (k x : BitVec w) : List (BitVec w) :=
  let a := h.getD 0 0
  let b := h.getD 1 0
  let c := h.getD 2 0
  let e := h.getD 4 0
  let t1 := h.getD 7 0 + shaSum v.sum1 e + ((e &&& h.getD 5 0) ^^^ (~~~e &&& h.getD 6 0)) + k + x
  let t2 := shaSum v.sum0 a + ((a &&& b) ^^^ (a &&& c) ^^^ (b &&& c))
  [t1 + t2, a, b, c, h.getD 3 0 + t1, e, h.getD 5 0, h.getD 6 0]

/-- One block of 16 words. -/
def shaBlock {w : Nat} (v : ShaVar) (ks : List (BitVec w)) (h : List (BitVec w)) (block : List (BitVec w)) : List (BitVec w) :=
  let ws := (shaSchedule v (v.rounds - 16) block.reverse).reverse
  List.zipWith (· + ·) h ((ks.zip ws).foldl (fun a e => shaRound v a e.1 e.2) h)

/-- A list cut into n pieces of k. -/
def pieces {α : Type} (k : Nat) : Nat → List α → List (List α)
  | 0, _ => []
  | n + 1, l => l.take k :: pieces k n (l.drop k)

/-- A message padded to whole blocks of 16 words of w bits. -/
def shaPad (w : Nat) (l : List Byte) : List Byte :=
  let block := 2 * w
  let tail := w / 4
  let z := (block - (l.length + 1 + tail) % block) % block
  l ++ [0x80#8] ++ List.replicate z 0 ++ beBytes tail (8 * l.length)

/-- The digest words of a message from initial words h on. -/
def shaWords {w : Nat} (v : ShaVar) (ks h : List (BitVec w)) (l : List Byte) : List (BitVec w) :=
  let p := shaPad w l
  (pieces (2 * w) (p.length / (2 * w)) p).foldl (fun h b =>
    shaBlock v ks h ((pieces (w / 8) 16 b).map (fun x => BitVec.ofNat w (beNat x)))) h

/-- SHA-384. -/
def sha384 (l : List Byte) : List Byte :=
  (((shaWords sha512Var (shaPrimes.map (fun p => BitVec.ofNat 64 (rootFrac 3 p))) (((shaPrimes.drop 8).take 8).map (fun p => BitVec.ofNat 64 (rootFrac 2 p))) l).take 6).flatMap
    (fun x => beBytes 8 x.toNat))

/-- SHA-256. -/
def sha256 (l : List Byte) : List Byte :=
  (shaWords sha256Var ((shaPrimes.take 64).map (fun p => BitVec.ofNat 32 (rootFrac 3 p / 2 ^ 32))) ((shaPrimes.take 8).map (fun p => BitVec.ofNat 32 (rootFrac 2 p / 2 ^ 32))) l).flatMap
    (fun x => beBytes 4 x.toNat)

/-- HMAC over SHA-384, for keys of at most 128 bytes. -/
def hmac384 (key msg : List Byte) : List Byte :=
  let k := key ++ List.replicate (128 - key.length) 0
  sha384 (k.map (· ^^^ 0x5C#8) ++ sha384 (k.map (· ^^^ 0x36#8) ++ msg))

/-- HKDF-SHA-384 with an empty salt and a 32-byte output (R47, R292, R384). -/
def hkdf (ikm info : List Byte) : List Byte := (hmac384 (hmac384 (List.replicate 48 0) ikm) (info ++ [1#8])).take 32

end Sys2Proof.Machine
end

