-- ==== Sys2Proof/Machine/Aes.lean ====
section
/-! DEFINITION. AES-256 (FIPS 197) and its modes: key wrap with padding (SP 800-38F; R47, R292), XTS (IEEE 1619; R44, R293) and GCM
(SP 800-38D; R293, R331, R384). -/

namespace Sys2Proof.Machine

/-! ### The cipher -/

/-- Multiplication by x in the field of AES. -/
def gfDouble (a : Byte) : Byte := (a <<< 1) ^^^ (if a.getLsbD 7 then 0x1B#8 else 0#8)

/-- The product in the field of AES, over n bits of the second factor. -/
def gfMul : Nat → Byte → Byte → Byte
  | 0, _, _ => 0
  | n + 1, a, b => (if b.getLsbD 0 then a else 0#8) ^^^ gfMul n (gfDouble a) (b >>> 1)

/-- a to the power n. -/
def gfPow (a : Byte) : Nat → Byte
  | 0 => 1
  | n + 1 => gfMul 8 a (gfPow a n)

/-- The S-box at a byte: the inverse, then the affine map. -/
def sboxAt (a : Byte) : Byte :=
  let b := gfPow a 254
  b ^^^ b.rotateLeft 1 ^^^ b.rotateLeft 2 ^^^ b.rotateLeft 3 ^^^ b.rotateLeft 4 ^^^ 0x63#8

def sboxTable : List Byte := (List.range 256).map (fun n => sboxAt (BitVec.ofNat 8 n))
def sbox (a : Byte) : Byte := sboxTable.getD a.toNat 0
def invSboxTable : List Byte := (List.range 256).map (fun n => BitVec.ofNat 8 (sboxTable.idxOf (BitVec.ofNat 8 n)))
def invSbox (a : Byte) : Byte := invSboxTable.getD a.toNat 0

/-- The schedule words of a 32-byte key, newest first: n more of them, i counting from 8. -/
def aesExpand : Nat → Nat → Byte → List (List Byte) → List (List Byte)
  | 0, _, _, l => l
  | n + 1, i, rc, l =>
    let p := l.getD 0 []
    let t := if i % 8 = 0 then xorBytes ((p.drop 1 ++ p.take 1).map sbox) [rc, 0, 0, 0] else if i % 8 = 4 then p.map sbox else p
    aesExpand n (i + 1) (if i % 8 = 0 then gfDouble rc else rc) (xorBytes (l.getD 7 []) t :: l)

/-- The 15 round keys of 16 bytes. -/
def aesKeys (key : List Byte) : List (List Byte) :=
  pieces 16 15 ((aesExpand 52 8 1 (pieces 4 8 key).reverse).reverse.flatMap id)

def aesShift (k : Nat) (l : List Byte) : List Byte := (List.range 16).map (fun i => l.getD (i * k % 16) 0)

/-- Each column times the circulant matrix whose first row is m. -/
def aesMix (m : List Byte) (l : List Byte) : List Byte :=
  (List.range 16).map (fun i => (List.range 4).foldl (fun v j => v ^^^ gfMul 8 (m.getD ((j + 4 - i % 4) % 4) 0) (l.getD (i / 4 * 4 + j) 0)) 0)

/-- AES-256 of a 16-byte block. -/
def aesEnc (key block : List Byte) : List Byte :=
  let ks := aesKeys key
  let mid := ((ks.drop 1).take 13).foldl (fun s k => xorBytes (aesMix [2, 3, 1, 1] (aesShift 5 (s.map sbox))) k) (xorBytes block (ks.getD 0 []))
  xorBytes (aesShift 5 (mid.map sbox)) (ks.getD 14 [])

/-- The inverse of AES-256. -/
def aesDec (key block : List Byte) : List Byte :=
  let ks := aesKeys key
  let top := (aesShift 13 (xorBytes block (ks.getD 14 []))).map invSbox
  let mid := (((ks.drop 1).take 13).reverse).foldl (fun s k => (aesShift 13 (aesMix [14, 11, 13, 9] (xorBytes s k))).map invSbox) top
  xorBytes mid (ks.getD 0 [])

/-! ### Key wrap with padding -/

/-- One step of the wrap: the block A ‖ R_i through the cipher, the counter added into A, R rotated. -/
def wrapStep (key : List Byte) (a : List Byte × List (List Byte)) (t : Nat) : List Byte × List (List Byte) :=
  let b := aesEnc key (a.1 ++ a.2.getD 0 [])
  (xorBytes (b.take 8) (beBytes 8 t), a.2.drop 1 ++ [b.drop 8])

/-- AES-256-KWP of more than 8 bytes. -/
def kwpWrap (key l : List Byte) : List Byte :=
  let n := (l.length + 7) / 8
  let p := l ++ List.replicate (8 * n - l.length) 0
  let r := (List.range (6 * n)).foldl (fun a t => wrapStep key a (t + 1)) ([0xA6#8, 0x59#8, 0x59#8, 0xA6#8] ++ beBytes 4 l.length, pieces 8 n p)
  r.1 ++ r.2.flatMap id

/-- The step undone. -/
def unwrapStep (key : List Byte) (a : List Byte × List (List Byte)) (t : Nat) : List Byte × List (List Byte) :=
  let b := aesDec key (xorBytes a.1 (beBytes 8 t) ++ a.2.getLastD [])
  (b.take 8, b.drop 8 :: a.2.dropLast)

/-- What a wrapping of at least three semiblocks holds; nothing where its check fails. -/
def kwpUnwrap (key l : List Byte) : Option (List Byte) :=
  let n := l.length / 8 - 1
  let r := (List.range (6 * n)).foldl (fun a t => unwrapStep key a (6 * n - t)) (l.take 8, pieces 8 n (l.drop 8))
  let len := beNat (r.1.drop 4)
  let p := r.2.flatMap id
  if l.length % 8 = 0 && 2 ≤ n && r.1.take 4 = [0xA6#8, 0x59#8, 0x59#8, 0xA6#8] && 8 * (n - 1) < len && len ≤ 8 * n && (p.drop len).all (· = 0)
  then some (p.take len) else none

/-! ### XTS -/

/-- The 16-byte mask of block j of a data unit under the tweak key. -/
def xtsMask (key2 : List Byte) (tweak j : Nat) : List Byte :=
  let t := (aesEnc key2 (leBytes 16 tweak)).reverse
  leBytes 16 ((List.range j).foldl (fun v _ => if v / 2 ^ 127 % 2 = 1 then (2 * v % 2 ^ 128) ^^^ 0x87 else 2 * v) (beNat t))

/-- Block j of a data unit encrypted under a 64-byte key pair. -/
def xtsEnc (key : List Byte) (tweak j : Nat) (l : List Byte) : List Byte :=
  let t := xtsMask (key.drop 32) tweak j
  xorBytes (aesEnc (key.take 32) (xorBytes l t)) t

/-- Block j of a data unit decrypted. -/
def xtsDec (key : List Byte) (tweak j : Nat) (l : List Byte) : List Byte :=
  let t := xtsMask (key.drop 32) tweak j
  xorBytes (aesDec (key.take 32) (xorBytes l t)) t

/-- A data unit of n blocks decrypted. -/
def xtsUnit (key : List Byte) (tweak n : Nat) (l : List Byte) : List Byte :=
  (List.range n).flatMap (fun j => xtsDec key tweak j ((l.drop (16 * j)).take 16))

/-! ### GCM -/

/-- The product in the field of GCM: bit 127 of a number is the coefficient of 1. -/
def ghashMul (x y : Nat) : Nat :=
  ((List.range 128).foldl (fun a i => (if x / 2 ^ (127 - i) % 2 = 1 then a.1 ^^^ a.2 else a.1, if a.2 % 2 = 1 then (a.2 / 2) ^^^ (0xE1 * 2 ^ 120) else a.2 / 2)) (0, y)).1

/-- Bytes padded to whole blocks of 16. -/
def pad16 (l : List Byte) : List Byte := l ++ List.replicate ((16 - l.length % 16) % 16) 0

def ghash (h : Nat) (l : List Byte) : Nat := (pieces 16 (l.length / 16) l).foldl (fun y b => ghashMul (y ^^^ beNat b) h) 0

/-- The key stream of a 96-bit IV from counter 2 on, over a text. -/
def gcmCtr (key iv l : List Byte) : List Byte :=
  xorBytes l ((List.range ((l.length + 15) / 16)).flatMap (fun k => aesEnc key (iv ++ beBytes 4 (k + 2))))

/-- The 128-bit tag over additional data and cipher text. -/
def gcmTag (key iv aad c : List Byte) : List Byte :=
  let h := beNat (aesEnc key (List.replicate 16 0))
  xorBytes (beBytes 16 (ghash h (pad16 aad ++ pad16 c ++ beBytes 8 (8 * aad.length) ++ beBytes 8 (8 * c.length)))) (aesEnc key (iv ++ beBytes 4 1))

/-- AES-256-GCM: cipher text and tag. -/
def gcmSeal (key iv aad p : List Byte) : List Byte × List Byte :=
  let c := gcmCtr key iv p
  (c, gcmTag key iv aad c)

/-- The plain text, where the tag is right. -/
def gcmOpen (key iv aad c tag : List Byte) : Option (List Byte) := if gcmTag key iv aad c = tag then some (gcmCtr key iv c) else none

end Sys2Proof.Machine
end

