-- ==== Sys2Proof/Machine/Inputs.lean ====
section
/-! DEFINITION. What an event of the operations table carries: the items of the fabric, messages, answers, records,
and Inp, the latch the step fills before it runs an event. -/

namespace Sys2Proof.Machine

/-- A context position: cluster, core in the cluster, context in the core (R113). -/
structure Pos where
  clus : Nat
  core : Nat
  ctx : Nat
  deriving DecidableEq, Repr

/-- The register space a REGISTER_WRITE names: BAR0, BAR2, the management core's map of R14, or the SR-IOV control of the
physical function's configuration space (R25, R26). -/
inductive Bar where
  | bar0 | bar2 | mgmt | config
  deriving DecidableEq, Repr

/-- What the four reads of a record return (R96): its bytes, the placement map and the image of R57,
or the first 64-byte unit whose read failed. -/
structure RecordInput where
  record : List Byte
  map : Option (List Byte)
  img : Option (List Byte)
  fail : Option Nat
  deriving DecidableEq, Repr

/-- How the watch of a dependence ends (R58). -/
inductive DepResult where
  | met (stamp : Nat)
  | failed (code : Byte)
  deriving DecidableEq, Repr

/-- A READ or PULL_REQ item that reaches an owner port of this package (R334); core and ctx are the requester of a READ, 0 where no context reads. -/
structure ReadItem where
  opkg : Nat
  oclus : Nat
  fn : Nat
  req : Nat
  key : Nat
  pa : Nat
  len : Nat
  core : Nat := 0
  ctx : Nat := 0
  deriving DecidableEq, Repr

/-- A READ_REPLY for the request req of this package (R334): a status, 0 for none, the stamp, the write generation of the
page (R106) and the data. -/
structure ReplyItem where
  req : Nat
  status : Byte
  stamp : Nat
  gen : Nat
  bytes : List Byte
  deriving DecidableEq, Repr

/-- A watch request (R303): the requester's package, cluster, function, core and tag, the word and the threshold. -/
structure WatchItem where
  opkg : Nat
  oclus : Nat
  fn : Nat
  core : Nat
  tag : Nat
  pa : Nat
  key : Nat
  thr : DWord
  op : Nat
  deriving DecidableEq, Repr

/-- A watch completion (R304): the watcher, the owner, the value, the stamp, the error code, 0 for none, the identity of the watch, the
address of its word and the write generation of its page (R106). -/
structure DoneItem where
  clus : Nat
  core : Nat
  tag : Nat
  opkg : Nat
  oclus : Nat
  value : DWord
  stamp : Nat
  status : Byte
  op : Nat
  pa : Nat
  gen : Nat
  deriving DecidableEq, Repr

/-- A message on its way (R309): the sender, the number that its answer names, the sender's launch, whether it joins the FULL list, the destination word, 8 words. -/
structure MsgItem where
  opkg : Nat
  src : Pos
  num : Nat
  launch : Word
  listed : Bool
  dest : Word
  body : List Word
  deriving DecidableEq, Repr

/-- The answers of R309 and R311. -/
inductive MsgAns where
  | accept | full | refuse | dead | notify
  deriving DecidableEq, Repr

/-- A route (R327): a transmit lane, a wavelength, and the receive lane of the destination package that it joins. -/
structure Route where
  lane : Nat
  wave : Nat
  rx : Nat
  deriving DecidableEq, Repr

/-- A lease request that reaches this package's port with its candidate lanes (R342, R344); anew says that the grant of a former answer could
not be taken up. -/
structure LeaseItem where
  opkg : Nat
  fn : Nat
  req : Nat
  nwant : Nat
  nmin : Nat
  term : Nat
  prio : Nat
  anew : Bool
  lanes : List Route
  deriving DecidableEq, Repr

/-- The answer to a lease request (R344): the lanes paired with receive lanes and wavelengths and the term end, or a refusal WHY. -/
inductive LeaseAns where
  | grant (lanes : List Route) (tend : DWord)
  | refuse (why : Nat)
  | dead
  deriving DecidableEq, Repr

/-- The body of a fabric item, by ITYPE (R334). -/
inductive ItemBody where
  | read (it : ReadItem)
  | readReply (it : ReplyItem)
  | pullReq (it : ReadItem)
  | pullData (it : ReplyItem) (ofs : Nat)
  | watchReq (it : WatchItem)
  | watchDone (it : DoneItem)
  | msg (it : MsgItem)
  | msgAnswer (p : Pos) (num : Nat) (ans : MsgAns)
  | leaseReq (it : LeaseItem)
  | leaseAnswer (id : Nat) (ans : LeaseAns)
  | genReq (q : Nat) (pages : List Nat)
  | genReply (q : Nat) (gens : List (Nat × Nat))
  | state (dead up : List Nat)
  /-- the ITYPE and the number of the request that failed, and the fault code -/
  | error (kind req : Nat) (code : Byte)
  /-- ITYPE 0xE, or 0xF where odd, with any body: discarded on receipt -/
  | unassigned (odd : Bool) (body : List Byte)
  deriving DecidableEq, Repr

/-- An item (R334). -/
structure Item where
  opkg : Nat
  dpkg : Nat
  oclus : Nat
  dclus : Nat
  fseq : Nat
  body : ItemBody
  deriving DecidableEq, Repr

/-- A flit as it arrives (R330): its 256 bytes, and the items that its payload holds. -/
structure Flit where
  bytes : List Byte
  items : List Item
  deriving DecidableEq, Repr

/-- A completion that belongs to a saved team (R381). -/
inductive Completion where
  | landing (core addr : Nat) (bytes : List Byte)
  | tag (core tag : Nat) (err : Byte)
  | message (p : Pos) (body : List Word)
  | answer (p : Pos) (ans : MsgAns)
  | enqStatus (p : Pos) (status : Nat)
  | svcReply (p : Pos) (value : Word)
  | svcFail (p : Pos) (code : Byte)
  | lease (p : Pos) (st : Word)
  | refill (p : Pos) (octet n : Nat)
  deriving DecidableEq, Repr

/-- Where a parity error strikes (R398). -/
inductive ParityAt where
  | regs (p : Pos)
  | tags (c core : Nat)
  | watch (c : Nat) (i : Nat)
  | tlb (c : Nat) (i : Nat)
  deriving DecidableEq, Repr

/-- The part of an event's input that is a structured item. -/
inductive Payload where
  | none
  | record (r : RecordInput)
  | dep (r : DepResult)
  | read (it : ReadItem)
  | reply (it : ReplyItem)
  | watch (it : WatchItem)
  | done (it : DoneItem)
  | msg (it : MsgItem)
  | msgAns (a : MsgAns)
  | flit (f : Flit)
  | lease (it : LeaseItem)
  | leaseAns (a : LeaseAns)
  | completion (e : Completion)
  | parity (w : ParityAt)
  | lines (l : List (List Byte))
  deriving DecidableEq, Repr

/-- The input latch of an event: who asks (the function fn), where (cluster, core, context position), which numbered
thing (id, slot, n, ofs), and with which value. Each event's meaning says which fields it reads. -/
structure Inp where
  fn : Nat := 0
  clus : Nat := 0
  core : Nat := 0
  slot : Nat := 0
  id : Nat := 0
  n : Nat := 0
  ofs : Nat := 0
  val : DWord := 0
  flag : Bool := false
  bar : Bar := .bar0
  pos : Pos := ⟨0, 0, 0⟩
  bytes : List Byte := []
  nats : List Nat := []
  pairs : List (Nat × Nat) := []
  routes : List (Nat × Route) := []
  relays : List (Nat × Nat × Nat) := []
  load : Payload := .none
  deriving DecidableEq, Repr

/-- One entry of the schedule: the instruction at a context's pc, or an event with its input. -/
inductive Sched where
  | run (p : Pos)
  | event (i : Instr) (inp : Inp)
  deriving DecidableEq, Repr

end Sys2Proof.Machine
end

