-- ==== Sys2Proof/Machine/StateCtx.lean ====
section
/-! DEFINITION. The state of a context, a core and a tile: registers (R135 to R139, R192), loop stack (R184), trap
bits (R364), streams (R238), tags (R243), mailbox (R309), L1 and store buffer (R198). -/

namespace Sys2Proof.Machine

/-- Which access a translation is for: the ACC codes 0 to 10 of R372. -/
inductive AccKind where
  | load | store | atomic | fetch | pullSrc | pullDst | stamp | watch | matrixB | collective | front
  deriving DecidableEq, Repr

/-- The two translated spaces of R34. -/
inductive Space where
  | read | home
  deriving DecidableEq, Repr

/-- A load that has left its core and waits for LOAD_REPLY (R206): destination, width in words, extension, address. -/
structure LoadReq where
  dst : Reg
  words : Nat
  size : Nat
  signed : Bool
  ord : LdOrd
  pa : Nat
  key : Nat
  swm : Bool
  xaddr : DWord
  len : Nat
  deriving DecidableEq, Repr

/-- The answers a context can await (R311, R315, R370; the ANS codes of R380). -/
inductive AnsKind where
  | send | sendt | enq | enqt | svc
  deriving DecidableEq, Repr

/-- The queries of the fabric port (R339, R345, R346): the package they name. -/
inductive Query where
  | dead (pkg : Nat)
  | lease (pkg : Nat)
  | release (pkg n : Nat)
  deriving DecidableEq, Repr

/-- Why a context is BLOCKED (R120). -/
inductive Wait where
  /-- a table walk or a page-fault reply; the instruction runs again -/
  | xlate
  | load (r : LoadReq)
  /-- an answer register; the instruction runs again -/
  | result
  /-- an engine resource; the instruction runs again -/
  | resource
  /-- a store that finds the store buffer full (R198); it runs again -/
  | buffer
  /-- an instruction that keeps the turn (R120, R122) and runs again: COLL that reads its group table, PUB and PUBI behind effects that the front end
  still replays for their context -/
  | behind
  | tagAny (mask : DWord) (dst : Reg)
  | tagAll (mask : DWord)
  | recv
  /-- BAR, BARW: the barrier word, its key slot and the generation waited out -/
  | bar (pa key : Nat) (gen : Word)
  | barw (pa key : Nat) (gen : Word)
  | convoy
  | cjoin
  | answer (k : AnsKind)
  | unwatch (tag : Nat) (dst : Reg)
  | query (q : Query) (dst : Reg)
  /-- VTBLD's load of its table: the slot and the image the engine read -/
  | table (slot : Nat) (img : List Byte)
  | fetchLine
  /-- a basting context held at an instruction (R105) -/
  | held
  /-- a leader with a full forward queue, a follower with an empty one (R125, R126) -/
  | forward
  deriving DecidableEq, Repr

/-- The states of R119; ISSUING is the context that cur names. -/
inductive CtxSt where
  | free | ready | blocked (w : Wait) | halted
  deriving DecidableEq, Repr

/-- A stream (R238 to R242): its descriptor, pop index, refill progress and tag. -/
structure Stream where
  rf : Bool
  adv : Nat
  npop : Nat
  s1 : Int
  e0 : Nat
  base : Nat
  logr : Nat
  pd : Nat
  pop : Nat
  tag : Nat
  /-- bytes of the flattened refill stream that have landed -/
  landed : Nat
  err : Byte
  pull : Nat
  /-- the bytes of the STREAM descriptor and of the refill descriptor, as an image keeps them (R380) -/
  desc : List Byte
  rdesc : List Byte
  deriving DecidableEq, Repr

/-- One forwarded instruction of a convoy (R125): its address, bits, length and the leader's next PC. -/
structure Fwd where
  pc : DWord
  bits : Word
  len : Nat
  npc : DWord
  deriving DecidableEq, Repr

/-- A context's participation in a convoy (R124 to R129). -/
structure Convoy where
  id : Nat
  leader : Bool
  /-- following: receives instructions from the leader -/
  inside : Bool
  queue : List Fwd
  deriving DecidableEq, Repr

/-- A register whose value is on its way: of an ATOM or BARA (val known), or of SENDT and ENQT. -/
structure Unready where
  dst : Reg
  words : Nat
  val : Option (List Word)
  deriving DecidableEq, Repr

/-- A trap pending in a restored image (R380: PEV). -/
structure PendTrap where
  code : Byte
  xaddr : DWord
  xinfo : Word
  deriving DecidableEq, Repr

/-- A pull descriptor (R226). Strides and displacements are integers. -/
structure PullDesc where
  src : Nat
  dst : Nat
  stv : DWord
  stofs : Nat
  blkb : Nat
  ndcm : Nat
  cfirst : Nat
  ext : List Nat
  dstr : List Int
  sstr : List Int
  deriving DecidableEq, Repr

/-- A submission under way (R228): the bytes of a STREAM's descriptor and of its refill descriptor, the pull descriptor, and the pages
translated so far (page, frame, key slot) of the source, of the destination and of the stamp. -/
structure PullSub where
  words : List Byte
  rdesc : List Byte
  desc : PullDesc
  src : List (Nat × Nat × Nat)
  dst : List (Nat × Nat × Nat)
  stamp : List (Nat × Nat × Nat)
  deriving DecidableEq, Repr

/-- A context. -/
structure Ctx where
  w : Vector Word 64
  m : Vector Word 7
  pc : DWord
  tvec : DWord
  xpc : DWord
  xaddr : DWord
  xcause : Word
  xinfo : Word
  lcnt : Vector Word 3
  ls : Vector DWord 3
  le : Vector DWord 3
  depth : Nat
  rmode : Word
  seed : Word
  bpa : Vector DWord 4
  retc : DWord
  team : Word
  teamn : Word
  lnch : Word
  capt : DWord
  leasest : Word
  intrap : Bool
  skipbp : Bool
  st : CtxSt
  /-- the team slot that holds the position; none for FREE and for the service context -/
  slot : Option Nat
  aspc : Nat
  cbase : Nat
  cpages : Nat
  sys : Bool
  debug : Bool
  basting : Bool
  pend : Option (DWord × Word)
  ans : Option (AnsKind × Reg)
  /-- the number of the message, request or service message whose answer ans awaits -/
  ansId : Nat
  /-- registers of ENQTs whose status is awaited, oldest first, with the numbers of their requests (R315) -/
  enqts : List (Reg × Nat)
  /-- the package that the awaited answer comes from -/
  ansPkg : Nat
  /-- a full target has answered; its notification is awaited (R309, R315) -/
  full : Bool
  /-- halted at an instruction boundary for a save, an abort or a claim (R108, R377): it issues nothing -/
  stop : Bool
  /-- a store that waits for the store buffer at a halt: it completes, then the context stops (R378) -/
  last : Bool
  pdbg : Bool
  ptrap : Option PendTrap
  streams : Vector (Option Stream) 4
  convoy : Option Convoy
  convoyWait : Option Word
  unready : List Unready
  /-- the bits and the length of the instruction last issued -/
  ibits : Word
  ilen : Nat
  /-- a leader has already forwarded the instruction it waits at (R125) -/
  fwded : Bool
  /-- stream octets the instruction pops when it completes (R240) -/
  spop : List Nat
  /-- operations whose tags the context has found DONE (R220, R300) -/
  seen : List Nat
  /-- the submission that a page of the context's PULL, PULLD, PULLC or STREAM holds up (R228) -/
  sub : Option PullSub
  /-- pages that the context's RWB, RINV or CLEAN skips: their walks have failed (R222) -/
  skips : List Nat
  deriving DecidableEq, Repr

/-- The operation a BUSY tag stands for. -/
inductive TagOp where
  | none
  | pull (id : Nat)
  | stream (ctx : Nat) (oct : Nat)
  /-- a watch; the address of its block and the owner's package -/
  | watch (id : Nat) (block pkg : Nat)
  | matrix
  | coll
  | lease (ctx : Nat)
  deriving DecidableEq, Repr

/-- The three tag states (R243). -/
inductive TagSt where
  | free
  | busy (op : TagOp)
  | done
  deriving DecidableEq, Repr

/-- A tag: its state, error code, the team slot and context that issued it, and the identity of its last operation. -/
structure TagRec where
  st : TagSt
  err : Byte
  team : Nat
  ctx : Nat
  op : Nat
  deriving DecidableEq, Repr

/-- A message held in a mailbox (R309): the context addressed and 8 words. -/
structure Msg where
  ctx : Nat
  body : List Word
  deriving DecidableEq, Repr

/-- An L1 line (R198): its line number (physical address / 64), the key slot it was reached under, the 64 bytes, the
valid and dirty byte masks, and the stamp of a foreign fill. -/
structure L1Line where
  line : Nat
  foreign : Bool
  swm : Bool
  key : Nat
  valid : BitVec 64
  dirty : BitVec 64
  bytes : List Byte
  deriving DecidableEq, Repr

/-- A store-buffer entry (R198): the context of its first store, the line, the key slot, and the bytes by physical address. -/
structure SbEntry where
  ctx : Nat
  line : Nat
  key : Nat
  cells : List (Nat × Byte)
  deriving DecidableEq, Repr

/-- The page types of R37. -/
inductive PageType where
  | normal | swm | sealed | device
  deriving DecidableEq, Repr

/-- A TLB entry: one successful translation, tagged with its address space and table (R371). base and frame are the
first addresses of the page, size its length in bytes. bast is the queue of the basting launch whose walk filled it: as long as the A
and D bits that the walk set stand in shadow lines only, the entry serves that launch alone (R105, R110). -/
structure TlbEntry where
  aspc : Nat
  space : Space
  base : Nat
  size : Nat
  frame : Nat
  key : Nat
  type : PageType
  p1 : Bool
  p0 : Bool
  d : Bool
  bast : Option Nat
  deriving DecidableEq, Repr

/-- A core. -/
structure Core where
  tags : Vector TagRec 64
  mail : List Msg
  senders : List MsgItem
  /-- the last context to issue, and whether its turn goes on (R121) -/
  turn : Nat
  turnOn : Bool
  /-- CLK at the first issue of the turn, and whether the quantum of R122 has run out -/
  turnAt : DWord
  qexp : Bool
  /-- messages the core's contexts have had accepted, and messages they have taken (R311) -/
  accepted : Nat
  taken : Nat
  redirect : List Nat
  l1 : List L1Line
  sb : List SbEntry
  /-- a team that left while another shared the core asked for zeroing (R68) -/
  zpend : Bool
  /-- 32-byte code units the core has fetched: unit address, key slot, bytes (R55, R120) -/
  code : List (Nat × Nat × List Byte)
  /-- the first-level TLB, 64 entries (R371) -/
  tlb : List TlbEntry
  deriving DecidableEq, Repr

def TagRec.reset : TagRec := ⟨.free, 0, 0, 0, 0⟩

def Core.reset : Core where
  tags := Vector.replicate 64 TagRec.reset
  mail := []
  senders := []
  turn := 0
  turnOn := false
  turnAt := 0
  qexp := false
  accepted := 0
  taken := 0
  redirect := []
  l1 := []
  sb := []
  zpend := false
  code := []
  tlb := []

/-- A position no team holds: zeroed register state (R68), RMODE at its reset value. -/
def Ctx.reset : Ctx where
  w := Vector.replicate 64 0
  m := Vector.replicate 7 0
  pc := 0
  tvec := 0
  xpc := 0
  xaddr := 0
  xcause := 0
  xinfo := 0
  lcnt := Vector.replicate 3 0
  ls := Vector.replicate 3 0
  le := Vector.replicate 3 0
  depth := 0
  rmode := 1
  seed := 0
  bpa := Vector.replicate 4 0
  retc := 0
  team := 0
  teamn := 0
  lnch := 0
  capt := 0
  leasest := 0
  intrap := false
  skipbp := false
  st := .free
  slot := none
  aspc := 0
  cbase := 0
  cpages := 0
  sys := false
  debug := false
  basting := false
  pend := none
  ans := none
  enqts := []
  ansId := 0
  ansPkg := 0
  full := false
  stop := false
  last := false
  pdbg := false
  ptrap := none
  streams := Vector.replicate 4 none
  convoy := none
  convoyWait := none
  unready := []
  ibits := 0
  ilen := 4
  fwded := false
  spop := []
  seen := []
  sub := none
  skips := []

end Sys2Proof.Machine
end

