-- ==== Sys2Proof/Machine/StateMem.lean ====
section
/-! DEFINITION. The state of a cluster's memory side: translation (R35 to R42, R371 to R375), reader cache and floors
(R202, R203), watch table (R303), pulls in progress (R225 to R234), team slots and table banks (R62, R65). -/

namespace Sys2Proof.Machine

/-- A finite map kept as a list of pairs, one per key. -/
abbrev Assoc (κ α : Type) := List (κ × α)

/-- Who waits for a walk that makes no page-fault message: a page of RWB, RINV or CLEAN (R222), the debug window of a cluster (R386), the
snapshot milestone of a function (R400), the predictor for a queue (R103). -/
inductive Quiet where
  | page (p : Pos) (page : Nat)
  | dbg (c : Nat)
  | snap (fn : Nat)
  | baste (q : Nat)
  deriving DecidableEq, Repr

/-- Who waits for a walk or a page-fault reply. -/
inductive Requester where
  | ctx (p : Pos)
  | engine (p : Pos) (tag : Nat)
  | front (q n : Nat)
  | quiet (w : Quiet)
  deriving DecidableEq, Repr

/-- A walk: the level about to be read and the table page that holds its entry; bast is the queue of the basting launch it is made for. The
first four of a cluster stand in its walkers, the others wait for one (R371). -/
structure Walk where
  id : Nat
  aspc : Nat
  space : Space
  addr : Nat
  acc : AccKind
  reqs : List Requester
  level : Nat
  table : Nat
  tkey : Nat
  bast : Option Nat
  deriving DecidableEq, Repr

/-- The kinds of message R372 posts. -/
inductive FaultKind where
  | pageFault | service | doubleTrap
  deriving DecidableEq, Repr

/-- A page-fault or service message outstanding: its token, its page and its requesters. -/
structure Token where
  token : Nat
  kind : FaultKind
  aspc : Nat
  space : Space
  page : Nat
  /-- the requesters, each with its address and kind of access -/
  reqs : List (Requester × Nat × AccKind)
  /-- the words of the message, its TOKEN field 0 -/
  body : List Word
  /-- the number of an SVC, which its answer finds its context by -/
  num : Nat := 0
  deriving DecidableEq, Repr

/-- A reader-cache line (R202). olds lists what it held, since it was first filled, before it was filled anew: an .INV load may
still return that (R208, R326). -/
structure RcLine where
  line : Nat
  key : Nat
  owner : Nat
  stamp : Nat
  bytes : List Byte
  olds : List (List Byte)
  deriving DecidableEq, Repr

/-- An engine landing not yet ordered for other paths (R220, R235): the unit's address, the bytes of it that the landing wrote and nothing but
later landings has overwritten, the unit before it, the path it was made on, the operation, the paths that may still read it as before, the
observers that have seen it, its number and the step of the landing. -/
structure Unfenced where
  unit : Nat
  mask : BitVec 32
  old : List Byte
  path : Path
  op : Nat
  stale : List Path
  seenBy : List Nat
  id : Nat
  at_ : Nat
  deriving DecidableEq, Repr

/-- A watch-table entry, or a polled watch (R303). -/
structure WatchEntry where
  id : Nat
  opkg : Nat
  oclus : Nat
  core : Nat
  tag : Nat
  pa : Nat
  key : Nat
  thr : DWord
  op : Nat
  deriving DecidableEq, Repr

/-- A table bank (R62): the launch that holds it and its 256 entries of 64 bytes, none for an invalid one. -/
structure Bank where
  launch : Nat × Nat
  entries : Assoc Nat (List Byte)
  deriving DecidableEq, Repr

/-- The counters of R390 for one launch. -/
structure Counters where
  miss : Nat := 0
  mans : Nat := 0
  eiss : Nat := 0
  eans : Nat := 0
  prog : Nat := 0
  deriving DecidableEq, Repr

/-- A running TU_INV command (R374). -/
structure TuInv where
  cmd : Nat
  aspc : Nat
  space : Space
  page : Nat
  walks : List Nat
  deriving DecidableEq, Repr

/-- A pin of the page-lock table (R225): the page, and how many operations hold it. -/
structure Pin where
  aspc : Nat
  space : Space
  page : Nat
  count : Nat
  deriving DecidableEq, Repr

/-- An operation of a saved team that was outstanding at the save: core, tag, identity, context, the block of a watch or a
lease in the core store, and the package a watch waits for. -/
structure SavedOp where
  core : Nat
  tag : Nat
  op : Nat
  ctx : Nat
  blk : Nat
  pkg : Option Nat
  deriving DecidableEq, Repr

/-- An answer that a saved context awaits: core, context, kind (the ANS codes of R380), the package it comes from, the register it
goes to, the number of the request, and the stream octets that the instruction pops when it completes (R240). -/
structure SavedAnswer where
  core : Nat
  ctx : Nat
  kind : Nat
  pkg : Nat
  reg : Reg
  num : Nat
  pops : List Nat
  deriving DecidableEq, Repr

/-- What a context's record has no room for: the operations it has found DONE (R220, R235) and the identity of its convoy (R128). -/
structure SavedCtx where
  core : Nat
  ctx : Nat
  seen : List Nat
  convoy : Option Nat
  deriving DecidableEq, Repr

/-- A message or a request of a launch that its cluster's router has sent and whose answer it awaits (R390): the launch, the package that
answers, and the sender. -/
structure OutMsg where
  launch : Nat × Nat
  pkg : Nat
  pos : Pos
  deriving DecidableEq, Repr

/-- A saved team (R377 to R383) as the package keeps it: its redirect entries, its image (a cluster offset) and key slot, whether
it is settled, OUT, its launch and index, positions in the order of R61, plane arrays and table slots (tile, slot), the tags that were not FREE at
the save, the refills of its streams (core, context, octet, operation), the operations that were outstanding, the answers awaited, oldest
first, core and context of the messages its mailboxes hold, and what its contexts keep besides their records. -/
structure Saved where
  slot : Nat
  img : Nat
  key : Nat
  settled : Bool
  out : Nat
  launch : Nat × Nat
  team : Nat
  positions : List (Nat × Nat)
  planes : List Nat
  tables : List (Nat × Nat)
  tags : List (Nat × Nat × TagRec)
  refills : List (Nat × Nat × Nat × Nat)
  owned : List SavedOp
  awaits : List SavedAnswer
  mail : List (Nat × Nat)
  kept : List SavedCtx
  deriving DecidableEq, Repr

/-- PRE_STAT (R376), the command that runs (1 halting, 2 saving, 5 restoring, 0 none), CLK when the last context halted, and slot and image of
the last saved team, which OUT counts for. -/
structure Pre where
  run : Nat := 0
  clkh : DWord := 0
  out : Nat := 0
  err : Nat := 0
  slot : Nat := 0
  state : Nat := 0
  img : Nat := 0
  key : Nat := 0
  last : Nat × Nat := (0, 0)
  deriving DecidableEq, Repr

/-- The debug window (R386); cmd is a command whose walk runs: a WRITE, by which function, and DBG_CTL as written. -/
structure Dbg where
  cmd : Option (Bool × Nat × DWord) := none
  data : DWord := 0
  busy : Bool := false
  done : Bool := false
  err : Bool := false
  code : Byte := 0
  deriving DecidableEq, Repr

/-- A cluster. -/
structure Clus where
  fn : Nat
  keyBits : BitVec 4096
  sealRefuse : List Nat
  rroot : Vector DWord 16
  hroot : Vector DWord 16
  tlb : List TlbEntry
  walks : List Walk
  pins : List Pin
  tuInv : List TuInv
  tuDone : Bool
  tokens : List Token
  /-- messages of R372 that wait in the translation unit for room in the mailbox -/
  waitMsgs : List (List Word)
  /-- faults that wait for a free token -/
  waitFaults : List Token
  /-- walks of engines and of the front end that ended with a code -/
  xfails : List (Requester × Byte)
  /-- shadow lines of the basting launch that reserves the cluster: line, key slot, bytes (R105) -/
  shadow : List (Nat × Nat × List Byte)
  /-- basting store lines taken by deferred effects -/
  deferredLines : Nat
  rcache : List RcLine
  floors : Assoc Nat Nat
  pub : Nat
  unfenced : List Unfenced
  watches : List WatchEntry
  polls : List WatchEntry
  /-- watches of the cluster or of the front end that have gone to other packages -/
  asked : List WatchEntry
  banks : Vector (Option Bank) 8
  slotCount : Assoc Nat Nat
  counters : Assoc (Nat × Nat) Counters
  outMsgs : Assoc Nat OutMsg
  svcCtl : DWord
  svcEnt : DWord
  svcStat : Nat
  pre : Pre
  saved : List Saved
  dbg : Dbg
  deriving DecidableEq, Repr

def Clus.reset : Clus where
  fn := 0
  keyBits := 0
  sealRefuse := []
  rroot := Vector.replicate 16 0
  hroot := Vector.replicate 16 0
  tlb := []
  walks := []
  pins := []
  tuInv := []
  tuDone := false
  tokens := []
  waitMsgs := []
  waitFaults := []
  xfails := []
  shadow := []
  deferredLines := 0
  rcache := []
  floors := []
  pub := 0
  unfenced := []
  watches := []
  polls := []
  asked := []
  banks := Vector.replicate 8 none
  slotCount := []
  counters := []
  outMsgs := []
  svcCtl := 0
  svcEnt := 0
  svcStat := 0
  pre := {}
  saved := []
  dbg := {}

/-- One byte of a pull (R227): where it comes from and goes to, each with a key slot, and the unit it lands with: the
aligned 32 bytes of its destination, or for a refill the chunk of 32 of the flattened stream. -/
structure PByte where
  src : Nat
  skey : Nat
  dst : Nat
  dkey : Nat
  unit : Nat
  deriving DecidableEq, Repr

/-- A pull in progress (R228 to R234): the bytes not yet landed, the source units already read, the stamp of PULLC
(address, key slot, value), the pages it pins, its error; for the refill of a stream, the octet. -/
structure Pull where
  clus : Nat
  core : Nat
  ctx : Nat
  tag : Nat
  bast : Option Nat
  bytes : List PByte
  got : Assoc Nat (List Byte)
  stamp : Option (Nat × Nat × DWord)
  pins : List (Nat × Space × Nat)
  err : Byte
  stream : Option Nat
  deriving DecidableEq, Repr

/-- A read this package has sent to another and that waits for its reply (R334): who waits and for what. -/
inductive ReadFor where
  | load (p : Pos)
  | walk (c id : Nat)
  | pull (id unit : Nat)
  | poll (c id : Nat)
  | fetch (p : Pos) (pa key : Nat)
  | matrix (c tile id unit : Nat)
  /-- COLL reads the group table at issue; the sequencer reads its own source, as pull 0, and what its pulls bring -/
  | group (p : Pos) (unit : Nat)
  | coll (c id num unit : Nat)
  /-- the debug window of a cluster -/
  | dbg (c : Nat)
  /-- the front end's reading of a queue's record, or the predictor's, by its number -/
  | front (q rid unit : Nat)
  deriving DecidableEq, Repr

/-- An effect of a basting launch that waits for its claim (R105): a milestone advance, a message, an enqueue. -/
inductive Deferred where
  | pub (p : Pos) (pa key : Nat) (value : DWord)
  | msg (it : MsgItem)
  | enq (p : Pos) (q : Word) (record : List Byte)
  deriving DecidableEq, Repr

structure OutRead where
  req : Nat
  pkg : Nat
  pa : Nat
  len : Nat
  who : ReadFor
  deriving DecidableEq, Repr

end Sys2Proof.Machine
end

