-- ==== Sys2Proof/Machine/StateKeys.lean ====
section
/-! DEFINITION. The state of the key store (R43 to R49, R291 to R295). -/

namespace Sys2Proof.Machine

/-- The states of an allocation slot (R43) and of a sealed slot (R291). -/
inductive SlotSt where
  | empty | held | offered
  deriving DecidableEq, Repr

/-- An allocation record (R43): KEY is the 64 bytes of an XTS-AES-256 key pair, zeros in an EMPTY slot (R48). -/
structure KeySlot where
  st : SlotSt := .empty
  key : List Byte := List.replicate 64 0
  fn : Nat := 0
  dest : Nat := 0
  deriving DecidableEq, Repr

/-- A key-store command that waits: its code and the registers it was started with. -/
structure KsCmd where
  code : Nat
  slot : Nat
  arg : Nat
  deriving DecidableEq, Repr

/-- The key-store window of one function (R46); run is the command that keeps BUSY. -/
structure KsWin where
  slot : DWord := 0
  arg : DWord := 0
  addr : DWord := 0
  run : Option KsCmd := none
  done : Bool := false
  err : Bool := false
  deriving DecidableEq, Repr

/-- What the package sends to the host or the board (MODEL: the surroundings see it): a write of host memory for a function (R47),
a line of cipher text as stored (R400), an MSI-X interrupt by function and vector (R59, R95), or that a function's reset is done (R394). -/
inductive HostOut where
  | write (fn : Nat) (addr : DWord) (bytes : List Byte)
  | stored (fn : Nat) (addr : DWord) (line : List Byte)
  | msix (fn vec : Nat)
  | resetDone (fn : Nat)
  deriving DecidableEq, Repr

end Sys2Proof.Machine
end

