-- ==== Sys2Proof/Machine/StateTile.lean ====
section
/-! DEFINITION. The state of a tile: its table engine (R265) and its plane array (R270). -/

namespace Sys2Proof.Machine

/-- A table slot (R265, R266): its holder, none for FREE, a team slot or none for the service context inside; the origin, the
reciprocal of the width, and value and slope of each interval; VTBLDs still in progress. -/
structure TableSlot where
  holder : Option (Option Nat) := none
  x0 : Word := 0
  rh : Word := 0
  vs : List (Word × Word) := []
  loading : Nat := 0
  deriving DecidableEq, Repr

/-- A block in plane form (R84): the NaN flag, the exponent and the 32 integers. -/
structure PlaneBlk where
  nan : Bool
  exp : Int
  q : List Int
  deriving DecidableEq, Repr

/-- The identity of a B block (R283): bank, TIDB, I2, I3, K block, column, precision. -/
structure BlkId where
  bank : Nat
  tid : Nat
  i2 : Nat
  i3 : Nat
  kb : Nat
  col : Nat
  prec : Nat
  deriving DecidableEq, Repr

/-- A resident block of the operand buffer, and the sealed slot it was decrypted under. -/
structure Resident where
  id : BlkId
  blk : PlaneBlk
  sealed : Option Nat
  deriving DecidableEq, Repr

/-- What a matrix command does (R276, R287, R288). -/
inductive MatKind where
  | mma (tid kb nc mr : Nat) (breuse acc : Bool) (bank aprec a0 i2 i3 kb0 n0 : Nat) (taken : List Nat)
  | drain (fmt : Ty) (rnd : Rc) (sat clr : Bool) (bank nc mr dstr d0 : Nat) (alpha : Word)
  | zero (banks : List Nat)
  deriving DecidableEq, Repr

/-- How far a command has come (R280, R284). -/
inductive MatPhase where
  | queued | fetching | ready | running
  deriving DecidableEq, Repr

/-- A command in a plane array's queue: the issuer, its tag, CAPT, whether a basting launch sent it, what it does, how far it
is, its A blocks by K block and row, the bytes of B it has read by 32-byte unit of global virtual address, the units still to
read, whether its entry is sealed and under which slot, and its entry's 64 bytes. -/
structure MatCmd where
  id : Nat
  pos : Pos
  tag : Nat
  aspc : Nat
  lnch : Word
  capt : DWord
  bast : Option Nat
  kind : MatKind
  phase : MatPhase
  ablk : Assoc (Nat × Nat) PlaneBlk
  bblk : Assoc (Nat × Nat) PlaneBlk
  units : List Nat
  got : Assoc Nat (List Byte)
  /-- translations of B's pages: page, frame, key slot -/
  pages : List (Nat × Nat × Nat)
  slot : Option Nat
  entry : List Byte
  deriving DecidableEq, Repr

/-- A tile (R265, R270). The holder is the team slot that commands the plane array; the banks list the accumulator elements
that are not +0, by bank, row and column. -/
structure Tile where
  tables : Vector TableSlot 4
  holder : Option Nat
  acc : Assoc (Nat × Nat × Nat) Word
  buf : List Resident
  cmds : List MatCmd
  deriving DecidableEq, Repr

def Tile.reset : Tile where
  tables := Vector.replicate 4 {}
  holder := none
  acc := []
  buf := []
  cmds := []

end Sys2Proof.Machine
end

