-- ==== Sys2Proof/Machine/StateFront.lean ====
section
/-! DEFINITION. The state of the front end: queues (R91 to R97), launches (R53 to R61), placed teams (R113 to R118), basting
launches (R102 to R112), counters and registers of R104, R391 and R399 to R401. -/

namespace Sys2Proof.Machine

/-- Q_STAT.STATE (R92). -/
inductive QState where
  | absent | active | error | draining
  deriving DecidableEq, Repr

/-- A queue (R91 to R102). hist holds the records of the history, oldest first; ring the records in a device queue's slots; head
the sequence number of the record being read; aborting and fromErr belong to a destroy; failed says that the queue stopped
because the record at Q_CONS failed its check or could not be read (R93); enqs are the contexts that wait for room (R315). rid numbers the
reading of a record or of what a predicted record names, got holds what other packages have answered it, by 64-byte unit, with the stamp; trying says
that the predictor reads. -/
structure Queue where
  fn : Nat := 0
  cfg : DWord := 0xE00#64
  base : DWord := 0
  prod : Nat := 0
  cons : Nat := 0
  st : QState := .absent
  nlive : Nat := 0
  ncomp : Bool := false
  nprod : Bool := false
  nreg : Bool := false
  cerr : Bool := false
  err0 : DWord := 0
  err1 : DWord := 0
  hist : List (List Byte) := []
  histNew : Bool := false
  ring : Assoc Nat (List Byte) := []
  head : Option Nat := none
  aborting : Bool := false
  fromErr : Bool := false
  failed : Bool := false
  enqs : List Pos := []
  rid : Nat := 0
  got : Assoc Nat (Nat × List Byte) := []
  trying : Bool := false
  deriving DecidableEq, Repr

/-- A launch (R53, R56). dep lists the satisfied dependences, each with its owner and
stamp; watching those whose watch is out, each with its identity and owner; teams is the
launch's team count, placed and retired count teams; last is the cluster of its previous team; wave the sums of the last wave
(R392); ref what has stood still and the clock of the wave since which it has (R393); began the clock at which its
wait for a team began (R99). -/
structure Launch where
  q : Nat
  seq : Nat
  rcd : List Byte
  img : List Byte
  map : Option (List Byte)
  dep : Assoc Nat (Nat × Nat) := []
  watching : List (Nat × Nat × Nat) := []
  teams : Nat
  placed : Nat := 0
  retired : Nat := 0
  last : Option Nat := none
  abandoned : Bool := false
  aborted : Bool := false
  blocking : Bool := false
  began : Option DWord := none
  wave : Option (List Nat) := none
  ref : Option (List Nat × DWord) := none
  stalled : Bool := false
  deriving DecidableEq, Repr

/-- A placed team (R113): its launch, its index, its positions, the tiles of its plane arrays, whether it is basting, how far its
retirement has come (R388), and the cycles it has been seen stalled with the clock of the last look and the operations of its tags
then (R133). -/
structure Team where
  launch : Nat × Nat
  index : Nat
  pos : List (Nat × Nat)
  planes : List Nat
  bast : Bool
  retiring : Bool := false
  stallRef : Option (Nat × DWord × List Nat) := none
  deriving DecidableEq, Repr

/-- The states of R112. -/
inductive BastSt where
  | running | revalidating | committing | unpicking
  deriving DecidableEq, Repr

/-- A basting launch of a queue (R103 to R112): the predicted record and image, its sequence number, the clusters reserved, the
clock at its start, the clusters by team, the stamps of its dependences, the order of its start, whether a matching record waits (R107), the
pages whose generations are still awaited (R108), every core it has occupied, and whether something has unpicked it (R110). -/
structure Basting where
  st : BastSt
  rcd : List Byte
  img : List Byte
  seq : Nat
  clusters : List Nat
  teamClus : List Nat
  start : DWord
  order : Nat
  deps : List (Nat × Nat) := []
  matched : Bool := false
  awaiting : List Nat := []
  cores : List (Nat × Nat) := []
  doomed : Bool := false
  deriving DecidableEq, Repr

/-- BST_CTL and the counters of R104. -/
structure Bst where
  ctl : DWord := 0x8004#64
  starts : DWord := 0
  claims : DWord := 0
  unpicks : DWord := 0
  deriving DecidableEq, Repr

/-- A snapshot window (R399); late says that the running COPY or RESTORE has moved its lines and its milestone is being translated. -/
structure Snap where
  ms : DWord := 0
  src : DWord := 0
  dst : DWord := 0
  len : DWord := 0
  busy : Bool := false
  done : Bool := false
  err : Bool := false
  quiet : Bool := false
  quiescing : Bool := false
  late : Bool := false
  code : Byte := 0
  cmd : Nat := 0
  /-- SNAP_SRC, SNAP_DST and SNAP_LEN as the command found them -/
  srcAt : DWord := 0
  dstAt : DWord := 0
  lenAt : DWord := 0
  deriving DecidableEq, Repr

/-- A sealed key slot (R291): keys by identity. -/
structure SealSlot where
  held : Bool := false
  fn : Nat := 0
  xk : List Byte := List.replicate 64 0
  gk : List Byte := List.replicate 32 0
  rbase : Nat := 0
  rlen : Nat := 0
  deriving DecidableEq, Repr

end Sys2Proof.Machine
end

