-- ==== Sys2Proof/Machine/StateBoot.lean ====
section
/-! DEFINITION. The state of the I/O die's management side (R12 to R26): boot status, crypto engine, measurement block, mailbox,
SRAM and flash; and of the package's PCIe function side (R23, R26, R399 to R401). -/

namespace Sys2Proof.Machine

/-- DEV_STATE.STATE (R23, R24). -/
inductive DevState where
  | rom | firmware | localInit | ready | failed
  deriving DecidableEq, Repr

/-- A command of the crypto engine or of the measurement block, with the registers it was started with. -/
structure MgmtCmd where
  code : Nat
  src : Nat
  len : Nat
  sig : Nat
  deriving DecidableEq, Repr

/-- CE_STAT or ME_STAT and the running command (R15 to R17). -/
structure MgmtStat where
  done : Bool := false
  pass : Bool := false
  err : Bool := false
  run : Option MgmtCmd := none
  deriving DecidableEq, Repr

/-- Where the boot program of R20 stands: not released, waiting for the digest, for the two verdicts, for the extension of MEAS1, for the
transmitter, for a MEASUREMENTS response, in its halt loop, at its jump, and past it, where the firmware runs. -/
inductive RomSt where
  | off | hash | ecdsa | lms | extend | serve | meas | halted | jump | firmware
  deriving DecidableEq, Repr

/-- The management side. romB says that the boot program tries slot B. began is the clock at the start of the running phase; perst the clock of the last PERST# deassertion;
ups counts the power-ups before this one;
svn is FU_SVN and flashA and flashB are the slots: the spec gives neither the fused value nor what flash holds when power first comes, the
model holds 0 and nothing, and no event writes them (R19, R20; DESIGN CHOICE, log entry 14); sent is what the mailbox transmitted; answered counts configuration requests answered. -/
structure Boot where
  ups : Nat := 0
  dev : DevState := .rom
  bootStat : Byte := 1
  timedOut : Bool := false
  powered : Bool := false
  phase : Nat := 1
  began : Option DWord := some 0
  released : Bool := false
  rom : RomSt := .off
  romB : Bool := false
  perst : Option DWord := none
  answered : Nat := 0
  ceSrc : DWord := 0
  ceLen : DWord := 0
  ceSig : DWord := 0
  ceDigest : List Byte := List.replicate 48 0
  ce : MgmtStat := {}
  meIdx : DWord := 0
  meSrc : DWord := 0
  meRlen : DWord := 0
  me : MgmtStat := {}
  meas : List (List Byte) := List.replicate 16 (List.replicate 48 0)
  mbRx : List Byte := []
  mbTx : List Byte := []
  rxv : Bool := false
  txb : Bool := false
  sent : List (List Byte) := []
  svn : DWord := 0
  sram : List Host.Cell := []
  flashA : List Host.Cell := []
  flashB : List Host.Cell := []
  deriving DecidableEq, Repr

end Sys2Proof.Machine
end

