-- ==== Sys2Proof/Machine/StateFabric.lean ====
section
/-! DEFINITION. The state of the fabric port (R27 to R29, R327 to R347) and of the collective sequencers (R348 to R361). -/

namespace Sys2Proof.Machine

/-- Training states (R27). -/
inductive Train where
  | down | cal | rtt | keys | windows | up
  deriving DecidableEq, Repr

/-- The kinds of flit (R330). -/
inductive FlitKind where
  | data | ack | nak | idle | echo
  deriving DecidableEq, Repr

/-- A flit this package has put on a lane: its fields, the items of its payload, and its 256 bytes. -/
structure SentFlit where
  lane : Nat
  dest : Nat
  kind : FlitKind
  seq : Nat
  aseq : Nat
  acol : Nat
  items : List Item
  bytes : List Byte
  deriving DecidableEq, Repr

/-- A partner (R27): the routes to it of the colour plan, the usable ones with their round trips in ns, the packages that the route
plan reaches through it with the number of relays, its eight group keys, those before the last KEY_UPDATE, the clock since which the
keys are in use and how many flits each has sealed here (R331), the clock of its last failure, the clock of the last flit accepted
from it and since when every colour to it has been dark, and its receive buffer of flits whose items still wait for their place in a
flow. -/
structure Partner where
  st : Train := .down
  routes : List Route := []
  usable : List (Route × Nat) := []
  relays : List (Nat × Nat) := []
  keys : List (List Byte) := []
  oldKeys : List (List Byte) := []
  keyed : DWord := 0
  sealedBy : Assoc Nat Nat := []
  failedAt : Option DWord := none
  heard : DWord := 0
  darkSince : Option DWord := none
  buffer : List (List Item) := []
  deriving DecidableEq, Repr

/-- A colour: a transmit lane tuned to a route (R327 to R333). on says that the package holds it; grant names the lease it belongs
to, none for a floor colour; closing that its grant has ended and its lane waits for acknowledgement; flits are those from UNA on. -/
structure Colour where
  route : Route := ⟨0, 0, 0⟩
  rtt : Nat := 0
  window : Nat := 0
  on : Bool := false
  tuning : Bool := false
  dark : Bool := false
  closing : Bool := false
  grant : Option Nat := none
  next : Nat := 0
  una : Nat := 0
  flits : List SentFlit := []
  resends : Nat := 0
  moved : DWord := 0
  sentAt : DWord := 0
  deriving DecidableEq, Repr

/-- The receiving end of a colour (R332): EXP, acceptances not yet acknowledged with the clock of the oldest, and the number and
clock of the last NAK. -/
structure RxColour where
  exp : Nat := 0
  unacked : Nat := 0
  since : DWord := 0
  naked : Option (Nat × DWord) := none
  deriving DecidableEq, Repr

/-- A grant (R341): destination, function, lanes, term in µs, the clock at which the term ends; revoked says that it does not
renew; began orders grants by when they began. -/
structure Grant where
  dest : Nat
  fn : Nat
  lanes : List Nat
  term : Nat
  tend : DWord
  revoked : Bool
  began : Nat
  deriving DecidableEq, Repr

/-- A lease request of this package (R344). -/
structure Lease where
  pos : Pos
  tag : Nat
  addr : Nat
  fn : Nat
  dest : Nat
  nwant : Nat
  nmin : Nat
  term : Nat
  prio : Nat
  waitt : Nat
  asked : DWord
  deriving DecidableEq, Repr

/-- A lease request that waits at this package's port as its destination (R342). -/
structure PortReq where
  item : LeaseItem
  came : DWord
  deriving DecidableEq, Repr

/-- A grant that lands on this package's receive lanes, newest last: holder, request, function, routes. -/
structure Inbound where
  opkg : Nat
  req : Nat
  fn : Nat
  lanes : List Route
  revoked : Bool
  deriving DecidableEq, Repr

/-- The fabric port. causes holds CAUSE of R339; long the class of each lane that has carried a colour (R328); rx the receiving ends by
partner and its transmit lane; rxFloor the receive lanes that the floor colours of partners land on, as partner, its lane, receive
lane; refused the routes, by destination, that its port has not paired for the floor; flowTx and flowRx the flow sequences of R334. -/
structure Fabric where
  ctl : DWord := 0x03E800000001#64
  quota : Assoc Nat Nat := []
  partners : Assoc Nat Partner := []
  causes : Assoc Nat Nat := []
  colours : Assoc (Nat × Nat) Colour := []
  long : Assoc Nat Bool := []
  rx : Assoc (Nat × Nat) RxColour := []
  rxFloor : List (Nat × Nat × Nat) := []
  refused : List (Nat × Route) := []
  flowTx : Assoc (Nat × Nat × Nat) Nat := []
  flowRx : Assoc (Nat × Nat × Nat) Nat := []
  sent : List SentFlit := []
  grants : Assoc Nat Grant := []
  leases : Assoc Nat Lease := []
  waiting : List PortReq := []
  inbound : List Inbound := []
  deriving DecidableEq, Repr

/-- The exchanges of R350. -/
inductive Exchange where
  | none | allReduce | reduceScatter | allGather | allToAll
  deriving DecidableEq, Repr

/-- How far a rank's collective is (R354, R359, R360). -/
inductive CollPhase where
  | queued | reading | running | finishing
  deriving DecidableEq, Repr

/-- What a sequencer pulls: a child's partial, a raw contribution, a root's result, the elements of a member. -/
inductive CollPull where
  | partial_ | raw | result | slice
  deriving DecidableEq, Repr

/-- A pull of the sequencer: its number, what it brings, of which part, from which group index, the 32-byte units of the read space that it
reads, and those that have come. -/
structure CollGet where
  num : Nat
  what : CollPull
  part : Nat
  j : Nat
  units : List Nat
  got : Assoc Nat (List Byte) := []
  deriving DecidableEq, Repr

/-- A watch of the sequencer (R354, R360): a member's milestone for the low byte, or the abort milestone. -/
inductive CollWatch where
  | member (j low : Nat)
  | abort
  deriving DecidableEq, Repr

/-- An entry of the group table (R348): package, panel, campus, and the addresses of area and source. -/
structure GroupRank where
  pkg : Nat
  panel : Nat
  campus : Nat
  areav : Nat
  srcv : Nat
  deriving DecidableEq, Repr

/-- A collective (R352 to R360): its descriptor's words, its tensor entries, the group table, the physical pages of area and destination
(page, frame, key), the pages of the read space translated so far, the source's units, the contribution in FP32 by element, what its
trees have received (part, group index, values, contributors), the raw contributions it has pulled, the elements it has
pulled from the group index of each source, the low byte of the milestone it has seen of each group index, the pulls and watches that are out, whether the abort milestone is
watched, ranks done, and its status. -/
structure Coll where
  id : Nat
  core : Nat
  ctx : Nat
  tag : Nat
  addr : Nat
  aspc : Nat
  issued : DWord
  words : List DWord
  src : List Byte
  dst : List Byte
  group : List GroupRank
  rank : Nat
  areaPages : List (Nat × Nat × Nat)
  dstPages : List (Nat × Nat × Nat)
  kind : Exchange
  phase : CollPhase := .queued
  started : DWord := 0
  pages : List (Nat × Nat × Nat) := []
  got : Assoc Nat (List Byte) := []
  own : List Word := []
  arrived : List (Nat × Nat × List Word × List Nat) := []
  seen : Assoc Nat Nat := []
  pulls : List CollGet := []
  nextPull : Nat := 1
  watches : List (Nat × CollWatch) := []
  abortAsked : Bool := false
  timedOut : Bool := false
  published : Bool := false
  rooted : Bool := false
  direct : Nat := 0
  doneRanks : List Nat := []
  raws : List (Nat × Nat × List Word) := []
  slices : List (Nat × List (List Byte)) := []
  status : Byte := 0
  deriving DecidableEq, Repr

end Sys2Proof.Machine
end

