-- ==== Sys2Proof/Machine/State.lean ====
section
/-! DEFINITION. The state of the machine, its faults and refusals, and the state after reset. -/

namespace Sys2Proof.Machine

/-- Why a run stops. -/
inductive Fault where
  /-- Raised by the home path when a physical address lies in a hole of R32. No translation yields one (R33), so only
  a state that no run reaches raises it. Safe: the spec gives the address no memory. -/
  | hole
  deriving DecidableEq, Repr

/-- What the model does not do. -/
inductive Refusal where
  /-- Raised by exec for an instruction without a meaning yet. Safe: nothing is claimed of it. -/
  | notModelled (mnemonic : String)
  deriving DecidableEq, Repr

structure State where
  cur : Pos
  ctxs : Assoc Pos Ctx
  cores : Assoc (Nat × Nat) Core
  clusters : Assoc Nat Clus
  tiles : Assoc (Nat × Nat) Tile
  queues : Assoc Nat Queue
  launches : Assoc (Nat × Nat) Launch
  teams : Assoc (Nat × Nat) Team
  bastings : Assoc Nat Basting
  bst : Bst
  servedQ : Assoc Nat Nat
  sealedSlots : Assoc Nat SealSlot
  boot : Boot
  telemetry : Assoc Nat DWord
  fabric : Fabric
  colls : Assoc Nat (List Coll)
  groupReads : Assoc (Pos × Nat) (List Byte)
  mem : List Host.Cell
  hbmKey : Assoc Nat (Option (List Byte))
  poison : List Nat
  keySlots : Assoc Nat KeySlot
  ksWins : Assoc Nat KsWin
  nextKey : Nat
  host : List HostOut
  sriov : Bool
  resetting : List Nat
  lqCtl : DWord
  waveAt : DWord
  wavePos : Nat
  waveSums : Assoc (Nat × Nat) (List Nat)
  snaps : Assoc Nat Snap
  gens : Assoc Nat Nat
  readSets : Assoc Nat (List (Nat × Nat × Nat))
  pulls : Assoc Nat Pull
  outReads : List OutRead
  items : List Item
  deferred : List (Nat × Deferred)
  replay : List ((Nat × Nat) × Deferred)
  dead : BitVec 4096
  clk : DWord
  steps : Nat
  freeCtr : Nat
  nextId : Nat
  pkg : Nat
  inp : Inp
  agenda : List Sched
  pending : List Sched
  deriving DecidableEq, Repr

def State.reset : State where
  cur := ⟨0, 0, 0⟩
  ctxs := []
  cores := []
  clusters := []
  tiles := []
  queues := []
  launches := []
  teams := []
  bastings := []
  bst := {}
  servedQ := []
  sealedSlots := []
  boot := {}
  telemetry := []
  fabric := {}
  colls := []
  groupReads := []
  mem := []
  hbmKey := []
  poison := []
  keySlots := []
  ksWins := []
  nextKey := 1
  host := []
  sriov := false
  resetting := []
  lqCtl := 0x08000C
  waveAt := 0
  wavePos := 0
  waveSums := []
  snaps := []
  gens := []
  readSets := []
  pulls := []
  outReads := []
  items := []
  deferred := []
  replay := []
  dead := BitVec.allOnes 4096 <<< 1
  clk := 0
  steps := 0
  freeCtr := 0
  nextId := 1
  pkg := 0
  inp := {}
  agenda := []
  pending := []

end Sys2Proof.Machine
end

