-- ==== Sys2Proof/Machine/Ops.lean ====
section
/-! DEFINITION. The named operations every meaning is written over: maps, registers, completing an instruction (R186,
R193), blocking (R120), taking a trap (R364, R365) and returning from one (R368), halting (R119), physical memory (R31,
R32, R44), and the posting of messages to the service context (R372). -/

namespace Sys2Proof.Machine

/-! ### Maps -/

/-- The value of a key, or the default. -/
def Assoc.get {κ α : Type} [DecidableEq κ] (d : α) (k : κ) : Assoc κ α → α
  | [] => d
  | (k', v) :: t => if k' = k then v else Assoc.get d k t

/-- Whether the key is listed. -/
def Assoc.has {κ α : Type} [DecidableEq κ] (k : κ) : Assoc κ α → Bool
  | [] => false
  | (k', _) :: t => if k' = k then true else Assoc.has k t

/-- Set the value of a key. -/
def Assoc.put {κ α : Type} [DecidableEq κ] (k : κ) (v : α) : Assoc κ α → Assoc κ α
  | [] => [(k, v)]
  | (k', v') :: t => if k' = k then (k, v) :: t else (k', v') :: Assoc.put k v t

/-- Remove a key. -/
def Assoc.del {κ α : Type} [DecidableEq κ] (k : κ) (m : Assoc κ α) : Assoc κ α :=
  m.filter (fun e => e.1 ≠ k)

/-! ### Parts of the state -/

def State.ctx (s : State) (p : Pos) : Ctx := Assoc.get Ctx.reset p s.ctxs
def State.setCtx (s : State) (p : Pos) (c : Ctx) : State := { s with ctxs := Assoc.put p c s.ctxs }
def State.modCtx (s : State) (p : Pos) (f : Ctx → Ctx) : State := s.setCtx p (f (s.ctx p))

/-- The context whose instruction runs. -/
def State.me (s : State) : Ctx := s.ctx s.cur
def State.setMe (s : State) (c : Ctx) : State := s.setCtx s.cur c
def State.modMe (s : State) (f : Ctx → Ctx) : State := s.modCtx s.cur f

def State.core (s : State) (c n : Nat) : Core := Assoc.get Core.reset (c, n) s.cores
def State.setCore (s : State) (c n : Nat) (k : Core) : State := { s with cores := Assoc.put (c, n) k s.cores }
def State.modCore (s : State) (c n : Nat) (f : Core → Core) : State := s.setCore c n (f (s.core c n))
/-- The core of the context whose instruction runs. -/
def State.myCore (s : State) : Core := s.core s.cur.clus s.cur.core
def State.modMyCore (s : State) (f : Core → Core) : State := s.modCore s.cur.clus s.cur.core f

def State.clus (s : State) (c : Nat) : Clus := Assoc.get Clus.reset c s.clusters
def State.setClus (s : State) (c : Nat) (k : Clus) : State := { s with clusters := Assoc.put c k s.clusters }
def State.modClus (s : State) (c : Nat) (f : Clus → Clus) : State := s.setClus c (f (s.clus c))
def State.myClus (s : State) : Clus := s.clus s.cur.clus

/-- A tile of a cluster. -/
def State.tile (s : State) (c n : Nat) : Tile := Assoc.get Tile.reset (c, n) s.tiles
def State.setTile (s : State) (c n : Nat) (t : Tile) : State := { s with tiles := Assoc.put (c, n) t s.tiles }
def State.modTile (s : State) (c n : Nat) (f : Tile → Tile) : State := s.setTile c n (f (s.tile c n))

/-- Queue a follow-up event. -/
def State.post (s : State) (i : Instr) (inp : Inp) : State :=
  { s with pending := s.pending ++ [.event i inp] }

/-- A fresh operation identity. -/
def State.fresh (s : State) : Nat × State := (s.nextId, { s with nextId := s.nextId + 1 })

/-- Advance the counter of free values (log entry 6). -/
def State.drew (s : State) : State := { s with freeCtr := s.freeCtr + 1 }

/-! ### Registers (R135, R138) -/

def Ctx.reg (c : Ctx) (r : Reg) : Word := c.w[r.toNat]
def Ctx.setReg (c : Ctx) (r : Reg) (v : Word) : Ctx := { c with w := c.w.set r.toNat v }

/-- The value of a pair, the even register least significant. -/
def Ctx.pair (c : Ctx) (r : Reg) : DWord := c.reg (r + 1) ++ c.reg r
def Ctx.setPair (c : Ctx) (r : Reg) (v : DWord) : Ctx :=
  (c.setReg r (v.extractLsb' 0 32)).setReg (r + 1) (v.extractLsb' 32 32)

/-- The words of the group of n registers at r. -/
def Ctx.group (c : Ctx) (r : Reg) : Nat → List Word
  | 0 => []
  | n + 1 => c.reg r :: c.group (r + 1) n

/-- Write the words of a group from r on. -/
def Ctx.setGroup (c : Ctx) (r : Reg) : List Word → Ctx
  | [] => c
  | v :: vs => (c.setReg r v).setGroup (r + 1) vs

/-- A mask register; m0 always reads all ones (R138). -/
def Ctx.mask (c : Ctx) (r : MReg) : Word :=
  if r = 0 then 0xFFFFFFFF#32 else c.m.toList.getD (r.toNat - 1) 0

/-- Write a mask register; m0 keeps its ones. -/
def Ctx.setMask (c : Ctx) (r : MReg) (v : Word) : Ctx :=
  if h : 0 < r.toNat ∧ r.toNat - 1 < 7 then { c with m := c.m.set (r.toNat - 1) v h.2 } else c

/-- The bytes of words, least significant first (R6). -/
def wordBytes (v : Word) : List Byte :=
  [v.extractLsb' 0 8, v.extractLsb' 8 8, v.extractLsb' 16 8, v.extractLsb' 24 8]

def wordsBytes : List Word → List Byte
  | [] => []
  | v :: vs => wordBytes v ++ wordsBytes vs

/-- The word at the head of a byte list. -/
def bytesWord (l : List Byte) : Word := l.getD 3 0 ++ l.getD 2 0 ++ l.getD 1 0 ++ l.getD 0 0

def bytesDWord (l : List Byte) : DWord := bytesWord (l.drop 4) ++ bytesWord l

/-- n words from a byte list. -/
def bytesWords : Nat → List Byte → List Word
  | 0, _ => []
  | n + 1, l => bytesWord l :: bytesWords n (l.drop 4)

def dwordBytes (v : DWord) : List Byte :=
  wordBytes (v.extractLsb' 0 32) ++ wordBytes (v.extractLsb' 32 32)

/-! ### Instruction addresses -/

/-- The bits of an instruction, a halfword zero-extended (R151). -/
def Instr.bits (i : Instr) : Word :=
  match encode i with
  | .none => 0
  | .half h => h.setWidth 32
  | .word w => w

/-- Length in bytes (R141). -/
def Instr.len (i : Instr) : Nat :=
  match encode i with
  | .none => 0
  | .half _ => 2
  | .word _ => 4

/-- Bits [47:1] of a code address (R140, R192). -/
def codeAddr (a : DWord) : DWord := a &&& 0x0000FFFFFFFFFFFE#64

/-! ### Loops (R184, R186) -/

def Ctx.loopCnt (c : Ctx) (i : Nat) : Word := c.lcnt.toList.getD i 0
def Ctx.loopStart (c : Ctx) (i : Nat) : DWord := c.ls.toList.getD i 0
def Ctx.loopEnd (c : Ctx) (i : Nat) : DWord := c.le.toList.getD i 0

def Ctx.setLoopCnt (c : Ctx) (i : Nat) (v : Word) : Ctx :=
  if h : i < 3 then { c with lcnt := c.lcnt.set i v h } else c

/-- Push a level (R185). -/
def Ctx.pushLoop (c : Ctx) (s e : DWord) (n : Word) : Ctx :=
  if h : c.depth < 3 then
    { c with ls := c.ls.set c.depth s h, le := c.le.set c.depth e h, lcnt := c.lcnt.set c.depth n h,
             depth := c.depth + 1 }
  else c

/-- end_of_body of R186, by the number of active levels left to examine. -/
def endOfBody (pc npc : DWord) : Nat → Ctx → Ctx × DWord
  | 0, c => (c, npc)
  | i + 1, c =>
    if !(c.loopStart i ≤ pc && pc < c.loopEnd i) || npc ≠ c.loopEnd i then (c, npc)
    else if 1 < (c.loopCnt i).toNat then (c.setLoopCnt i (c.loopCnt i - 1), c.loopStart i)
    else endOfBody pc npc i { c.setLoopCnt i 0 with depth := i }

/-! ### Blocking and waking (R119, R120) -/

/-- A wait in which a context keeps its core's turn: for a resource, for its own instruction's completion (R122), and for the walk of an
access that ends no turn. A register of SENDT or ENQT and a window not yet landed are waited for as a load is (R240, R311, R315). -/
def Wait.keepsTurn : Wait → Bool
  | .resource => true
  | .buffer => true
  | .behind => true
  | .result => false
  | .table _ _ => true
  | .xlate => true
  | .load _ => false
  | .tagAny _ _ => false
  | .tagAll _ => false
  | .recv => false
  | .bar _ _ _ => false
  | .barw _ _ _ => false
  | .convoy => false
  | .cjoin => false
  | .answer _ => false
  | .unwatch _ _ => false
  | .query _ _ => false
  | .fetchLine => false
  | .held => false
  | .forward => false

/-- The turn of a core ends, where the context at p holds it (R121). -/
def State.endTurn (s : State) (p : Pos) : State :=
  s.modCore p.clus p.core (fun k => if k.turn = p.ctx then { k with turnOn := false } else k)

/-- Make a context BLOCKED; an off-core reference ends its turn (R120, R122). -/
def State.block (s : State) (p : Pos) (w : Wait) : State :=
  (if w.keepsTurn then s else s.endTurn p).modCtx p (fun c => { c with st := .blocked w })

/-- A context that a save has halted: what it waits for is waited for anew on resumption (R378). -/
def Ctx.parked (c : Ctx) : Bool := c.stop && !c.basting

/-- Make a BLOCKED context READY. -/
def Ctx.woken (c : Ctx) : Ctx :=
  match c.st with
  | .blocked _ => if c.parked then c else { c with st := .ready }
  | .free => c
  | .ready => c
  | .halted => c

def State.wake (s : State) (p : Pos) : State := s.modCtx p Ctx.woken

/-- Wake every context that waits for what q accepts. -/
def State.wakeAll (s : State) (q : Pos → Wait → Bool) : State :=
  { s with ctxs := s.ctxs.map (fun e =>
      match e.2.st with
      | .blocked w => if q e.1 w then (e.1, e.2.woken) else e
      | .free => e
      | .ready => e
      | .halted => e) }

/-! ### Convoys (R124 to R128) -/

/-- Whether the two contexts are of one convoy on one tile. -/
def sameConvoy (id : Nat) (p q : Pos) (c : Ctx) : Bool :=
  q.clus = p.clus && q.core / 8 = p.core / 8 &&
    (match c.convoy with
     | some v => v.id = id
     | none => false)

/-- A member that waits for its queue, empty or full, looks again. -/
def Ctx.fed (c : Ctx) : Ctx := if c.st = .blocked .forward then { c with st := .ready } else c

/-- The members of a convoy that wait for a queue look again (R125, R126). -/
def feedConvoy (s : State) (p : Pos) (id : Nat) : State :=
  { s with ctxs := s.ctxs.map (fun e => if sameConvoy id p e.1 e.2 then (e.1, e.2.fed) else e) }

/-- A leader's instruction goes to the queue of every follower inside the convoy (R125). -/
def forwardTo (s : State) (p : Pos) (id : Nat) (f : Fwd) : State :=
  { s with ctxs := s.ctxs.map (fun e =>
      if sameConvoy id p e.1 e.2 && e.1 ≠ p then
        (match e.2.convoy with
         | some v => if v.inside && !v.leader then
             (e.1, { e.2 with convoy := some { v with queue := v.queue ++ [f] }, st := e.2.fed.st }) else e
         | none => e)
      else e) }

/-- A participant that waits in CJOIN looks again. -/
def Ctx.rejoined (c : Ctx) : Ctx := if c.st = .blocked .cjoin then { c with st := .ready } else c

/-- The convoy dissolves (R128): no context is a participant any more, and one that waits in CJOIN goes on. Followers keep what their
queues hold. -/
def dissolve (s : State) (p : Pos) (id : Nat) : State :=
  { s with ctxs := s.ctxs.map (fun e =>
      if sameConvoy id p e.1 e.2 then
        (match e.2.convoy with
         | some v =>
           if v.queue = [] then (e.1, { e.2.fed.rejoined with convoy := none })
           else (e.1, { e.2.fed with convoy := some { v with leader := false, inside := true, id := 0 } })
         | none => e)
      else e) }

/-- A member leaves by a trap (R127, R128): the leader's convoy dissolves, a follower only stops following. -/
def leaveByTrap (s : State) (p : Pos) : State :=
  match (s.ctx p).convoy with
  | some v =>
    if v.leader && v.inside then dissolve (s.modCtx p (fun c => { c with convoy := none })) p v.id
    else feedConvoy (s.modCtx p (fun c => { c with convoy := if v.id = 0 then none else some { v with inside := false, queue := [] } })) p v.id
  | none => s

/-! ### Completing an instruction -/

/-- The registers a completed instruction leaves: pc through end_of_body, RETC one more, SKIPBP clear, READY (R186, R193,
R364). eob is false for RFT, whose next PC takes no decision (R368). A halted context's last instruction stops it (R378). -/
def Ctx.completed (c : Ctx) (npc : DWord) (eob : Bool) : Ctx :=
  let r := if eob then endOfBody c.pc npc c.depth c else (c, npc)
  { r.1 with pc := r.2, retc := c.retc + 1, skipbp := false, st := .ready, stop := c.stop || c.last, last := false }

/-- What the convoy does with a completed instruction of the context at p: a leader forwards it, a follower takes it off
its queue and departs where its next PC is not the leader's (R125, R127). pc0 is the instruction's address. -/
def convoyStep (s : State) (p : Pos) (pc0 : DWord) : State :=
  let c := s.ctx p
  match c.convoy with
  | none => s
  | some v =>
    if v.leader then
      if c.fwded then s.setCtx p { c with fwded := false } else forwardTo s p v.id ⟨pc0, c.ibits, c.ilen, c.pc⟩
    else
      match v.queue with
      | [] => s
      | f :: q =>
        if f.npc ≠ c.pc then feedConvoy (s.setCtx p { c with convoy := if v.id = 0 then none else some { v with inside := false, queue := [] } }) p v.id
        else if q = [] && v.id = 0 then s.setCtx p { c with convoy := none }
        else feedConvoy (s.setCtx p { c with convoy := some { v with queue := q } }) p v.id

/-- A leader that waits at an instruction forwards it once, with the next PC it will have (R125). -/
def forwardEarly (s : State) (p : Pos) : State :=
  let c := s.ctx p
  match c.convoy with
  | none => s
  | some v =>
    if v.leader && !c.fwded then
      (forwardTo s p v.id ⟨c.pc, c.ibits, c.ilen, (endOfBody c.pc (c.pc + BitVec.ofNat 64 c.ilen) c.depth c).2⟩).modCtx p (fun c => { c with fwded := true })
    else s

/-- The instruction of the context at p completes and its next PC is npc; its streams have popped. -/
def State.advanceAt (s : State) (p : Pos) (npc : DWord) (eob : Bool) : State :=
  let pc0 := (s.ctx p).pc
  convoyStep (s.modCtx p (fun c => c.completed npc eob)) p pc0

/-! ### Physical memory (R31, R32) -/

/-- The regions of R32. -/
inductive Region where
  | core (n : Nat) | vault | baste | hbm | reserve | device | hole
  deriving DecidableEq, Repr

/-- The region of a cluster offset. -/
def region (ofs : Nat) : Region :=
  if ofs < 0x400000 then .core (ofs / 0x8000)
  else if ofs < 0x1000000 then .hole
  else if ofs < 0x1780000 then .vault
  else if ofs < 0x1800000 then .baste
  else if ofs < 0x100000000 then .hole
  else if ofs < 0x1FF000000 then .hbm
  else if ofs < 0x200000000 then .reserve
  else if ofs < 0x800000000 then .hole
  else if ofs < 0x801000000 then .device
  else .hole

def paOfs (pa : Nat) : Nat := pa % 2 ^ 45
def paClus (pa : Nat) : Nat := pa / 2 ^ 45 % 128
def paPkg (pa : Nat) : Nat := pa / 2 ^ 52
/-- Package and cluster of an address, as one number. -/
def paOwner (pa : Nat) : Nat := pa / 2 ^ 45
def mkPa (pkg c ofs : Nat) : Nat := pkg * 2 ^ 52 + c * 2 ^ 45 + ofs
def paRegion (pa : Nat) : Region := region (paOfs pa)

def Region.isHbm : Region → Bool
  | .hbm => true
  | .reserve => true
  | .core _ => false
  | .vault => false
  | .baste => false
  | .device => false
  | .hole => false

def Region.isCore : Region → Bool
  | .core _ => true
  | .hbm => false
  | .reserve => false
  | .vault => false
  | .baste => false
  | .device => false
  | .hole => false

/-- The listed byte at an address, or 0 (R25: core stores and vaults are zeroed). -/
def memGet : List Host.Cell → Nat → Byte
  | [], _ => 0
  | (b, v) :: t, a => if b = a then v else if a < b then 0 else memGet t a

/-- Write a byte and keep the canonical form: addresses rise, no entry holds 0. -/
def memPut : List Host.Cell → Nat → Byte → List Host.Cell
  | [], a, v => if v = 0 then [] else [(a, v)]
  | (b, u) :: t, a, v =>
    if b = a then (if v = 0 then t else (a, v) :: t)
    else if a < b then (if v = 0 then (b, u) :: t else (a, v) :: (b, u) :: t)
    else (b, u) :: memPut t a v

/-- The canonical form of a memory: strictly rising addresses, no entry 0. -/
def memWf : List Host.Cell → Bool
  | [] => true
  | [(_, v)] => v ≠ 0
  | (a, v) :: (b, u) :: t => v ≠ 0 && a < b && memWf ((b, u) :: t)

/-- The key that a slot holds. -/
def State.keyOf (s : State) (slot : Nat) : List Byte := (Assoc.get ({} : KeySlot) slot s.keySlots).key

/-- The 16 listed bytes of a block. -/
def State.heldBlock (s : State) (block : Nat) : List Byte := (List.range 16).map (fun k => memGet s.mem (16 * block + k))

/-- The key under which the listed bytes of a block are its plain text; none where they are its cipher text or are not there. XTS works
on blocks of 16 bytes, so each block keeps the key it was last encrypted under (R44). -/
def State.blockKey (s : State) (block : Nat) : Option (List Byte) := Assoc.get none block s.hbmKey

/-- The cipher text of a 16-byte block as the stack stores it. The tweak is the line's address shifted right by 6 (R44). -/
def State.cipherBlock (s : State) (block : Nat) : List Byte :=
  match s.blockKey block with
  | some k => xtsEnc k (block / 4) (block % 4) (s.heldBlock block)
  | none =>
    if Assoc.has block s.hbmKey then s.heldBlock block
    else (List.range 16).map (fun k => Config.hbmInit s.boot.ups (16 * block + k))

/-- One byte as the home memory gives it under a key slot (R44). -/
def State.byteAt (s : State) (pa key : Nat) : Byte :=
  if (paRegion pa).isHbm then
    if s.blockKey (pa / 16) = some (s.keyOf key) then memGet s.mem pa
    else (xtsDec (s.keyOf key) (pa / 64) (pa / 16 % 4) (s.cipherBlock (pa / 16))).getD (pa % 16) 0
  else memGet s.mem pa

def State.bytesAt (s : State) (pa key : Nat) : Nat → List Byte
  | 0 => []
  | n + 1 => s.byteAt pa key :: s.bytesAt (pa + 1) key n

/-- Put bytes into listed memory from an address on. -/
def memPutList : List Host.Cell → Nat → List Byte → List Host.Cell
  | m, _, [] => m
  | m, a, v :: vs => memPutList (memPut m a v) (a + 1) vs

/-- Bring a block of HBM under the key of a slot: the read-modify-write of R44. A block whose bytes do not change keeps its cipher
text, whatever slot writes its line. -/
def State.rekey (s : State) (block key : Nat) : State :=
  { s with mem := memPutList s.mem (16 * block) (s.bytesAt (16 * block) key 16),
           hbmKey := Assoc.put block (some (s.keyOf key)) s.hbmKey }

/-- Write one byte of home memory under a key slot (R44). -/
def State.putByte (s : State) (pa key : Nat) (v : Byte) : State :=
  if (paRegion pa).isHbm then
    if s.blockKey (pa / 16) = some (s.keyOf key) then
      { s with mem := memPut s.mem pa v }
    else
      let t := s.rekey (pa / 16) key
      { t with mem := memPut t.mem pa v }
  else { s with mem := memPut s.mem pa v }

def State.putBytes (s : State) (pa key : Nat) : List Byte → State
  | [] => s
  | v :: vs => (s.putByte pa key v).putBytes (pa + 1) key vs

/-- The physical address of a byte of a core's store (R32). -/
def corePa (pkg c core a : Nat) : Nat := mkPa pkg c (core * 0x8000 + a)

/-! ### Reads on a path (R3, R220, R235, R319; log entry 10) -/

/-- The number of a context as an observer. -/
def Pos.observer (p : Pos) : Nat := 4 * p.core + p.ctx

/-- The number of a tile's engine on a path as an observer; the sequencer counts as tile 0's. -/
def engineObserver (path : Path) (tile : Nat) : Nat := 512 + 16 * path.code.toNat + tile

/-- Whether an observer on a path still reads a unit as it was before a landing. Once it has seen the landing it goes on seeing it. -/
def Unfenced.hidden (u : Unfenced) (path : Path) (who now : Nat) : Bool :=
  u.stale.contains path && !u.seenBy.contains who && now < u.at_ + Config.landDelay u.id who

/-- The latest of landings, newest first, that an observer has seen ends the list: the landing whose old bytes it reads is the last before
that, and none where it sees the newest (R319, R321). -/
def oldestHidden (path : Path) (who now : Nat) : List Unfenced → Option Unfenced
  | [] => none
  | u :: us => if u.hidden path who now then some ((oldestHidden path who now us).getD u) else none

/-- A byte as an observer on a path of the cluster reads it at home: of the engine landings on it the newest that nothing orders before the
path's reads may still be hidden. -/
def State.pathByte (s : State) (c : Nat) (path : Path) (who pa key : Nat) : Byte :=
  match oldestHidden path who s.steps ((s.clus c).unfenced.filter (fun u => u.unit = pa / 32 && u.mask.getLsbD (pa % 32))).reverse with
  | some u => u.old.getD (pa % 32) 0
  | none => s.byteAt pa key

/-- n bytes as an observer on a path reads them. -/
def State.pathRead (s : State) (c : Nat) (path : Path) (who pa key n : Nat) : List Byte :=
  (List.range n).map (fun k => s.pathByte c path who (pa + k) key)

/-- Bytes as the context at p reads them at home, on path C. -/
def State.homeRead (s : State) (p : Pos) (pa key n : Nat) : List Byte := s.pathRead p.clus .c p.observer pa key n

/-- n bytes of the store of the current core, as an instruction reads its descriptor, block or record (R3). -/
def State.coreBytes (s : State) (a n : Nat) : List Byte := s.homeRead s.cur (corePa s.pkg s.cur.clus s.cur.core a) 0 n

/-! ### Items and requests to other packages (R334) -/

/-- Whether an item travels in its flow's order. -/
def ItemBody.ordered : ItemBody → Bool
  | .pullData _ _ => false
  | .unassigned _ _ => false
  | _ => true

/-- An item of this package enters its flow and waits for a colour (R334). -/
def State.queueItem (s : State) (dpkg oclus dclus : Nat) (body : ItemBody) : State :=
  let f := (oclus, dpkg, dclus)
  let n := Assoc.get 0 f s.fabric.flowTx
  if body.ordered then
    { s with items := s.items ++ [⟨s.pkg, dpkg, oclus, dclus, n, body⟩],
             fabric := { s.fabric with flowTx := Assoc.put f ((n + 1) % 65536) s.fabric.flowTx } }
  else { s with items := s.items ++ [⟨s.pkg, dpkg, oclus, dclus, 0, body⟩] }

/-- The core and the context that a read is made for (R334). -/
def ReadFor.from (w : ReadFor) : Nat × Nat :=
  match w with
  | .load p => (p.core, p.ctx)
  | .fetch p _ _ => (p.core, p.ctx)
  | .group p _ => (p.core, p.ctx)
  | _ => (0, 0)

/-- A read request of a cluster to another package's owner port, unless the same reader waits for one already (R334, R336). -/
def State.askPkg (s : State) (c pa key len : Nat) (who : ReadFor) : State :=
  if s.outReads.any (fun o => o.who = who) then s
  else
    let s1 : State := { s with nextId := s.nextId + 1, outReads := s.outReads ++ [⟨s.nextId, paPkg pa, pa, len, who⟩] }
    s1.queueItem (paPkg pa) c (paClus pa) (.read ⟨s.pkg, c, (s.clus c).fn, s.nextId, key, pa, len, who.from.1, who.from.2⟩)

/-- A pull asks another package's owner port for n source units from unit on, of one page, unless a request for it is out (R230, R334). -/
def State.askPull (s : State) (c id unit key n : Nat) : State :=
  if s.outReads.any (fun o => match o.who with | .pull i _ => i = id && o.pa ≤ 32 * unit && 32 * unit < o.pa + o.len | _ => false) then s
  else
    let pa := 32 * unit
    let s1 : State := { s with nextId := s.nextId + 1, outReads := s.outReads ++ [⟨s.nextId, paPkg pa, pa, 32 * n, .pull id unit⟩] }
    s1.queueItem (paPkg pa) c (paClus pa) (.pullReq ⟨s.pkg, c, (s.clus c).fn, s.nextId, key, pa, 32 * n, 0, 0⟩)

/-! ### Tags (R243) -/

def Core.tag (k : Core) (t : Nat) : TagRec := k.tags.toList.getD t TagRec.reset
def Core.setTag (k : Core) (t : Nat) (r : TagRec) : Core :=
  if h : t < 64 then { k with tags := k.tags.set t r h } else k

def TagSt.isFree : TagSt → Bool
  | .free => true
  | .busy _ => false
  | .done => false
def TagSt.isBusy : TagSt → Bool
  | .free => false
  | .busy _ => true
  | .done => false
def TagSt.isDone : TagSt → Bool
  | .free => false
  | .busy _ => false
  | .done => true

/-- The TAGS bitmap. -/
def Core.tagBits (k : Core) : DWord :=
  (List.range 64).foldl (fun v t => if (k.tag t).st.isDone then v ||| (1#64 <<< t) else v) 0
/-- The TAGERR bitmap. -/
def Core.tagErrBits (k : Core) : DWord :=
  (List.range 64).foldl (fun v t => if (k.tag t).st.isDone && (k.tag t).err ≠ 0 then v ||| (1#64 <<< t) else v) 0

/-- The lowest tag of a mask that p accepts, else 64. -/
def lowestTag (mask : DWord) (q : Nat → Bool) : Nat :=
  ((List.range 64).find? (fun t => mask.getLsbD t && q t)).getD 64

/-- The operations whose tags of a mask are DONE: what a context learns by finding them set (R220). -/
def Core.doneOps (k : Core) (mask : DWord) : List Nat :=
  ((List.range 64).filter (fun t => mask.getLsbD t && (k.tag t).st.isDone)).map (fun t => (k.tag t).op)

/-! ### Stream pops and tag completion (R240, R241, R243, R244) -/

def Ctx.stream (c : Ctx) (k : Nat) : Option Stream := c.streams.toList.getD k none
def Ctx.setStream (c : Ctx) (k : Nat) (v : Option Stream) : Ctx :=
  if h : k < 4 then { c with streams := c.streams.set k v h } else c

/-- The first register of stream octet k. -/
def streamReg (k : Nat) : Reg := BitVec.ofNat 6 (32 + 8 * k)

/-- A tag becomes DONE with an error code. -/
def State.setDone (s : State) (c core tag : Nat) (err : Byte) : State :=
  s.modCore c core (fun k => k.setTag tag { k.tag tag with st := .done, err := err })

/-- A tag is BUSY with the stream of an octet of a context. -/
def Core.streamsOn (k : Core) (tag x oct : Nat) : Bool := (k.tag tag).st = .busy (.stream x oct)

/-- The streams of octets ks of the context at p pop once; the last pop ends the stream's tag by fin. A refill may fill the room that
the pop made. -/
def State.popWith (fin : State → Nat → State) (s : State) (p : Pos) : List Nat → State
  | [] => s
  | k :: ks =>
    let s1 := match (s.ctx p).stream k with
      | some t =>
        let u1 := s.modCtx p (fun c => c.setStream k (some { t with pop := t.pop + 1 }))
        let u2 := if t.pop + 1 = t.npop && (u1.core p.clus p.core).streamsOn t.tag p.ctx k then fin u1 t.tag else u1
        if t.rf then u2.post .pullData { id := t.pull } else u2
      | none => s
    s1.popWith fin p ks

/-- A TAGWAIT of the context at p completes: d receives the tag found, the streams it read pop, and the context goes on. -/
def State.tagMet (fin : State → Nat → State) (s : State) (p : Pos) (d : Option Reg) (m : DWord) : State :=
  let k := s.core p.clus p.core
  let c := s.ctx p
  let v := BitVec.ofNat 32 (lowestTag m (fun t => (k.tag t).st.isDone))
  let s1 := s.modCtx p (fun c => { (match d with | some r => c.setReg r v | none => c) with seen := k.doneOps m ++ c.seen, spop := [] })
  (s1.popWith fin p c.spop).advanceAt p (c.pc + 4) true

/-- A tag becomes DONE, and the TAGWAITs of its core that it satisfies complete in the same step (R244). A stream that such a TAGWAIT
read may end its own tag by the pop; n bounds how often, once for each context of the core. -/
def State.tagDoneN : Nat → State → Nat → Nat → Nat → Byte → State
  | 0, s, c, core, tag, err => s.setDone c core tag err
  | n + 1, s, c, core, tag, err =>
    [0, 1, 2, 3].foldl (fun u x =>
      let p : Pos := ⟨c, core, x⟩
      let k := u.core c core
      if (u.ctx p).parked then u else
      match (u.ctx p).st with
      | .blocked (.tagAny m d) =>
        if m.getLsbD tag then u.tagMet (fun v t => v.tagDoneN n c core t 0) p (some d) m else u
      | .blocked (.tagAll m) =>
        if lowestTag m (fun t => !(k.tag t).st.isDone) = 64 then u.tagMet (fun v t => v.tagDoneN n c core t 0) p none m else u
      | _ => u) (s.setDone c core tag err)

/-- A tag becomes DONE with an error code (0 for none), and TAGWAITs it satisfies complete in the same step (R244). -/
def State.tagDone (s : State) (c core tag : Nat) (err : Byte) : State := s.tagDoneN 4 c core tag err

/-- The streams the instruction read pop once; the tag is DONE when the last pop completes. -/
def State.streamPop (s : State) (p : Pos) (ks : List Nat) : State := s.popWith (fun u t => u.tagDone p.clus p.core t 0) p ks

/-- The instruction of the context at p completes and its next PC is npc: its streams pop, then it advances. -/
def State.completeAt (s : State) (p : Pos) (npc : DWord) (eob : Bool) : State :=
  ((s.streamPop p (s.ctx p).spop).modCtx p (fun c => { c with spop := [] })).advanceAt p npc eob

/-- The registers of stream octets as they stood, after an instruction that saw windows in them. -/
def Ctx.restore (old : Ctx) : List Nat → Ctx → Ctx
  | [], c => c
  | k :: ks, c => Ctx.restore old ks (c.setGroup (streamReg k) (old.group (streamReg k) 8))

/-- A team's stall count starts again: one of its contexts issues, or a message comes for it (R133). -/
def State.unstall (s : State) (p : Pos) : State :=
  match (s.ctx p).slot with
  | some n => { s with teams := s.teams.map (fun e => if e.1 = (p.clus, n) then (e.1, { e.2 with stallRef := none }) else e) }
  | none => s

/-! ### Messages to the service context (R372) -/

/-- The position of a cluster's service context (R130). -/
def svcPos (c : Nat) : Pos := ⟨c, 0, 3⟩

/-- SVC_STAT.STATE is RUNNING (R130). -/
def Clus.svcRunning (k : Clus) : Bool := k.svcStat = 1

/-- Deliver a message to the service mailbox; where it is full the message waits (R372). -/
def State.postSvc (s : State) (c : Nat) (body : List Word) : State :=
  if (s.core c 0).mail.length < 16 && (s.clus c).waitMsgs = [] then
    let t := s.modCore c 0 (fun k => { k with mail := k.mail ++ [⟨3, body⟩] })
    match (t.ctx (svcPos c)).st with
    | .blocked .recv => t.wake (svcPos c)
    | _ => t
  else s.modClus c (fun k => { k with waitMsgs := k.waitMsgs ++ [body] })

def FaultKind.code : FaultKind → Nat
  | .pageFault => 1
  | .service => 2
  | .doubleTrap => 3

def AccKind.code : AccKind → Nat
  | .load => 0
  | .store => 1
  | .atomic => 2
  | .fetch => 3
  | .pullSrc => 4
  | .pullDst => 5
  | .stamp => 6
  | .watch => 7
  | .matrixB => 8
  | .collective => 9
  | .front => 10

/-- The eight words of a message of R372. -/
def svcMessage (kind : FaultKind) (reason aspc : Nat) (sp : Space) (level : Nat) (acc : AccKind) (token : Nat)
    (who : Requester) (addr eaddr eval : DWord) : List Word :=
  let core := match who with | .ctx p => p.core | .engine p _ => p.core | .front _ _ => 0 | .quiet _ => 0
  let ctx := match who with | .ctx p => p.ctx | .engine p _ => p.ctx | .front _ _ => 0 | .quiet _ => 0
  let eng := match who with | .ctx _ => 0 | .engine _ _ => 1 | .front _ _ => 0 | .quiet _ => 0
  let tag := match who with | .ctx _ => 0 | .engine _ t => t | .front _ _ => 0 | .quiet _ => 0
  let tbl := match sp with | .read => 0 | .home => 1
  let h : DWord := BitVec.ofNat 64 (kind.code * 2 ^ 56 + reason * 2 ^ 48 + aspc * 2 ^ 44 + tbl * 2 ^ 43 + level * 2 ^ 41 +
    acc.code * 2 ^ 36 + token % 2 ^ 16 * 2 ^ 16 + core * 2 ^ 9 + ctx * 2 ^ 7 + eng * 2 ^ 6 + tag)
  bytesWords 8 (dwordBytes h ++ dwordBytes addr ++ dwordBytes eaddr ++ dwordBytes eval)

/-! ### Halting and traps -/

/-- HALT of the context at p (R119, R128, R131): a leader's convoy dissolves; a service context reads HALTED. -/
def State.halt (s : State) (p : Pos) : State :=
  let s1 := match (s.ctx p).convoy with
    | some v => if v.leader && v.inside then dissolve (s.modCtx p (fun c => { c with convoy := none })) p v.id else s
    | none => s
  let s2 := s1.modCtx p (fun c => { c with st := .halted })
  let s3 := s2.wakeAll (fun _ w => w = .cjoin || w = .convoy)
  match (s.ctx p).slot with
  | none => s3.modClus p.clus (fun k => { k with svcStat := if p = svcPos p.clus then 2 else k.svcStat })
  | some t => s3.post .teamRetire { clus := p.clus, slot := t }

/-- double_trap of R365. -/
def State.doubleTrap (s : State) (p : Pos) (code : Byte) (xpc : DWord) : State :=
  let t := s.halt p
  if (s.clus p.clus).svcRunning && p ≠ svcPos p.clus then
    t.postSvc p.clus (svcMessage .doubleTrap 0 (s.ctx p).aspc .read 0 .load 0 (.ctx p) xpc
      (BitVec.ofNat 64 ((((s.ctx p).slot).getD 0) * 2 ^ 16 + code.toNat)) 0)
  else t

/-- A submission of a context ends: the pages it pinned are free, and who waits for them looks again (R225, R374). -/
def State.subGone (s : State) (p : Pos) : State :=
  if (s.ctx p).sub.isSome then
    ((s.modCtx p (fun c => { c with sub := none })).wakeAll (fun q w => q.clus = p.clus && w = .resource)).post .tuInvDone { clus := p.clus }
  else s

/-- A context of a team being saved halts: CLKH is CLK of the last (R379). -/
def State.haltedAt (s : State) (p : Pos) : State :=
  if (s.ctx p).parked && !(s.ctx p).last then s.modClus p.clus (fun k => { k with pre := { k.pre with clkh := s.clk } }) else s

/-- take_trap of R364, in a state in which the instruction has had no effect. A basting context holds at the instruction
instead (R105, R366); in one halted for a save the trap becomes pending (R378). -/
def State.takeTrap (s0 : State) (p : Pos) (code : Byte) (xaddr : DWord) (xinfo : Word) (xpc : DWord) : State :=
  if (s0.ctx p).basting then s0.block p .held
  else
    let s := s0.subGone p
    if (s.ctx p).stop || (s.ctx p).last then
      (s.modCtx p (fun c => { c with ptrap := some ⟨code, xaddr, xinfo⟩, st := .ready, skips := [], stop := true, last := false })).haltedAt p
    else if (s.ctx p).intrap then (leaveByTrap s p).doubleTrap p code xpc
    else
      (leaveByTrap s p).modCtx p (fun c =>
        { c with xpc := codeAddr xpc, xcause := code.setWidth 32, xaddr := xaddr, xinfo := xinfo, intrap := true,
                 skipbp := false, pc := c.tvec, st := .ready, fwded := false, spop := [], sub := none, skips := [] })

/-- The return of R368: the next PC is XPC, INTRAP clears and SKIPBP is set. -/
def Ctx.returned (c : Ctx) : Ctx :=
  { c with pc := c.xpc, intrap := false, skipbp := true, retc := c.retc + 1, st := .ready }

/-- The first test of a list that fails gives its offset. -/
def firstBad : List (Bool × Nat) → Option Nat
  | [] => none
  | (bad, ofs) :: t => if bad then some ofs else firstBad t

/-! ### Fault codes (R362) -/

def cILLEGAL : Byte := 0x01
def cPRIV : Byte := 0x02
def cFETCH_BOUND : Byte := 0x03
def cLOOP_DEPTH : Byte := 0x04
def cBKPT : Byte := 0x05
def cTRAP : Byte := 0x06
def cALIGN : Byte := 0x10
def cPERM : Byte := 0x11
def cHOME_FOREIGN : Byte := 0x12
def cDEVICE_ACCESS : Byte := 0x13
def cMILESTONE_REGRESS : Byte := 0x14
def cTAG_BUSY : Byte := 0x20
def cPULL_DESC : Byte := 0x21
def cCAP_DENIED : Byte := 0x22
def cTID_BAD : Byte := 0x23
def cSTREAM_OVER : Byte := 0x24
def cCVT_OVERFLOW : Byte := 0x30
def cDIV_ZERO : Byte := 0x31
def cSEALED_LOAD : Byte := 0x40
def cSEALED_PULL : Byte := 0x41
def cSEALED_DEBUG : Byte := 0x42
def cSEALED_KEY : Byte := 0x43
def cSEALED_INTEGRITY : Byte := 0x44
def cSEALED_WRITE : Byte := 0x45
def cDEAD_PEER : Byte := 0x50
def cLEASE_DENIED : Byte := 0x51
def cCOLL_ABORT : Byte := 0x52
def cLINK_TIMEOUT : Byte := 0x53
def cTEAM_STALL : Byte := 0x60

end Sys2Proof.Machine
end

