-- ==== Sys2Proof/Machine/Operands.lean ====
section
/-! DEFINITION. Operands: the register groups each instruction reads and writes, the windows of stream-mode octets
(R239, R240), and runInstr, which every meaning of an encoded instruction goes through. -/

namespace Sys2Proof.Machine

/-- First register of an octet number of the V format (R146). -/
def oct (o : Oct) : Reg := o ++ 0#3
/-- The register a 5-bit field names (R144). -/
def reg5 (s : BitVec 5) : Reg := s.setWidth 6

/-- The register groups an instruction reads: first register and number of words. -/
def Instr.reads : Instr → List (Reg × Nat)
  | .add w _ a b => [(a, w.words), (b, w.words)]
  | .sub w _ a b => [(a, w.words), (b, w.words)]
  | .mul _ a b => [(a, 1), (b, 1)]
  | .mulh _ a b => [(a, 1), (b, 1)]
  | .mulhu _ a b => [(a, 1), (b, 1)]
  | .div _ a b => [(a, 1), (b, 1)]
  | .divu _ a b => [(a, 1), (b, 1)]
  | .rem _ a b => [(a, 1), (b, 1)]
  | .remu _ a b => [(a, 1), (b, 1)]
  | .and w _ a b => [(a, w.words), (b, w.words)]
  | .or w _ a b => [(a, w.words), (b, w.words)]
  | .xor w _ a b => [(a, w.words), (b, w.words)]
  | .andn w _ a b => [(a, w.words), (b, w.words)]
  | .min _ a b => [(a, 1), (b, 1)]
  | .max _ a b => [(a, 1), (b, 1)]
  | .minu _ a b => [(a, 1), (b, 1)]
  | .maxu _ a b => [(a, 1), (b, 1)]
  | .shl w _ a b => [(a, w.words), (b, 1)]
  | .shr w _ a b => [(a, w.words), (b, 1)]
  | .sha w _ a b => [(a, w.words), (b, 1)]
  | .rot w _ a b => [(a, w.words), (b, 1)]
  | .clz _ a => [(a, 1)]
  | .ctz _ a => [(a, 1)]
  | .popc _ a => [(a, 1)]
  | .brev _ a => [(a, 1)]
  | .sext _ _ a _ => [(a, 1)]
  | .zext _ _ a _ => [(a, 1)]
  | .mov w _ a => [(a, w.words)]
  | .sel w d a b => [(d, w.words), (a, w.words), (b, w.words)]
  | .setCc _ w _ a b => [(a, w.words), (b, w.words)]
  | .addi _ a _ => [(a, 1)]
  | .andi _ a _ => [(a, 1)]
  | .ori _ a _ => [(a, 1)]
  | .xori _ a _ => [(a, 1)]
  | .shli _ a _ => [(a, 1)]
  | .shri _ a _ => [(a, 1)]
  | .shai _ a _ => [(a, 1)]
  | .roti _ a _ => [(a, 1)]
  | .bfx _ a _ _ => [(a, 1)]
  | .bfi d a _ _ => [(d, 1), (a, 1)]
  | .movi _ _ => []
  | .movhi d _ => [(d, 1)]
  | .lea _ a _ => [(a, 2)]
  | .beq a b _ => [(a, 1), (b, 1)]
  | .bne a b _ => [(a, 1), (b, 1)]
  | .blt a b _ => [(a, 1), (b, 1)]
  | .bge a b _ => [(a, 1), (b, 1)]
  | .bltu a b _ => [(a, 1), (b, 1)]
  | .bgeu a b _ => [(a, 1), (b, 1)]
  | .briEq a _ _ => [(a, 1)]
  | .briNe a _ _ => [(a, 1)]
  | .briLt a _ _ => [(a, 1)]
  | .briGe a _ _ => [(a, 1)]
  | .briLtu a _ _ => [(a, 1)]
  | .briGeu a _ _ => [(a, 1)]
  | .j _ => []
  | .jl _ => []
  | .jlr _ a => [(a, 2)]
  | .loop a _ => [(a, 1)]
  | .loopi _ _ => []
  | .nop => []
  | .yield => []
  | .halt => []
  | .lexit => []
  | .mfs _ _ => []
  | .mts sr a => [(a, if sr.wide then 2 else 1)]
  | .trap _ => []
  | .rft => []
  | .bkpt => []
  | .svc n => [(n, 8)]
  | .ldbH _ _ a _ => [(a, 2)]
  | .ldbuH _ _ a _ => [(a, 2)]
  | .ldhH _ _ a _ => [(a, 2)]
  | .ldhuH _ _ a _ => [(a, 2)]
  | .ldwH _ _ a _ => [(a, 2)]
  | .lddH _ _ a _ => [(a, 2)]
  | .ldqH _ _ a _ => [(a, 2)]
  | .ldoH _ _ a _ => [(a, 2)]
  | .ldbG _ _ a _ => [(a, 2)]
  | .ldbuG _ _ a _ => [(a, 2)]
  | .ldhG _ _ a _ => [(a, 2)]
  | .ldhuG _ _ a _ => [(a, 2)]
  | .ldwG _ _ a _ => [(a, 2)]
  | .lddG _ _ a _ => [(a, 2)]
  | .ldqG _ _ a _ => [(a, 2)]
  | .ldoG _ _ a _ => [(a, 2)]
  | .stb _ d a _ => [(a, 2), (d, 1)]
  | .sth _ d a _ => [(a, 2), (d, 1)]
  | .stw _ d a _ => [(a, 2), (d, 1)]
  | .std _ d a _ => [(a, 2), (d, 2)]
  | .stq _ d a _ => [(a, 2), (d, 4)]
  | .sto _ d a _ => [(a, 2), (d, 8)]
  | .ldl _ _ a _ => [(a, 1)]
  | .stl w d a _ => [(a, 1), (d, w.words)]
  | .atomAdd _ w _ a b => [(a, 2), (b, w.words)]
  | .atomMin _ w _ a b => [(a, 2), (b, w.words)]
  | .atomMax _ w _ a b => [(a, 2), (b, w.words)]
  | .atomMinu _ w _ a b => [(a, 2), (b, w.words)]
  | .atomMaxu _ w _ a b => [(a, 2), (b, w.words)]
  | .atomAnd _ w _ a b => [(a, 2), (b, w.words)]
  | .atomOr _ w _ a b => [(a, 2), (b, w.words)]
  | .atomXor _ w _ a b => [(a, 2), (b, w.words)]
  | .atomSwap _ w _ a b => [(a, 2), (b, w.words)]
  | .atomCas _ w d a b => [(a, 2), (b, w.words), (d, w.words)]
  | .fence _ => []
  | .fenceP _ _ => []
  | .rwb a b => [(a, 2), (b, 1)]
  | .rinv a b => [(a, 2), (b, 1)]
  | .clean a b => [(a, 2), (b, 1)]
  | .pull a b _ => [(a, 2), (b, 2)]
  | .pulld a b _ => [(a, 2), (b, 2)]
  | .pullc a b _ => [(a, 2), (b, 2)]
  | .stream b _ _ => [(b, 1)]
  | .tagwaitAny _ a => [(a, 2)]
  | .tagwaitAll a => [(a, 2)]
  | .tagff _ a => [(a, 2)]
  | .tagclr a => [(a, 2)]
  | .tagtst _ _ => []
  | .sclose _ => []
  | .mma a b _ => [(a, 2), (b, 2)]
  | .mmas a b _ => [(a, 2), (b, 2)]
  | .msend a b _ => [(a, 2), (b, 2)]
  | .mdrain a _ => [(a, 2)]
  | .mzero a _ => [(a, 2)]
  | .plane b s => [(b, 2), (s, 1)]
  | .tidset a b => [(a, 1), (b, 1)]
  | .tidclr a => [(a, 1)]
  | .pub a b => [(a, 2), (b, 2)]
  | .pubi a _ => [(a, 2)]
  | .unwatch _ _ => []
  | .bar a => [(a, 2)]
  | .bara _ a => [(a, 2)]
  | .barw a b => [(a, 2), (b, 1)]
  | .convoy m => [(m, 1)]
  | .cjoin => []
  | .cleave => []
  | .watch a _ => [(a, 2)]
  | .send s t => [(s, 8), (t, 1)]
  | .sendt _ s t => [(s, 8), (t, 1)]
  | .recv _ => []
  | .recvt _ _ => []
  | .enq s q => [(s, 1), (q, 1)]
  | .enqt _ s q => [(s, 1), (q, 1)]
  | .lease a _ => [(a, 2)]
  | .coll a _ => [(a, 2)]
  | .leaseq _ p => [(p, 1)]
  | .leaserel _ p n => [(p, 1), (n, 1)]
  | .deadq _ p => [(p, 1)]
  | .vadd _ _ _ a b _ => [(oct a, 8), (oct b, 8)]
  | .vsub _ _ _ a b _ => [(oct a, 8), (oct b, 8)]
  | .vmul _ _ _ a b _ => [(oct a, 8), (oct b, 8)]
  | .vfma _ _ d a b _ => [(oct a, 8), (oct b, 8), (oct d, 8)]
  | .vfms _ _ d a b _ => [(oct a, 8), (oct b, 8), (oct d, 8)]
  | .vfnma _ _ d a b _ => [(oct a, 8), (oct b, 8), (oct d, 8)]
  | .vmax _ _ a b _ => [(oct a, 8), (oct b, 8)]
  | .vmin _ _ a b _ => [(oct a, 8), (oct b, 8)]
  | .vabs _ _ a _ => [(oct a, 8)]
  | .vneg _ _ a _ => [(oct a, 8)]
  | .vdot _ _ d a b _ => [(oct a, 8), (oct b, 8), (oct d, 8)]
  | .vrcp _ _ _ a _ => [(oct a, 8)]
  | .vrsq _ _ _ a _ => [(oct a, 8)]
  | .vexp2 _ _ _ a _ => [(oct a, 8)]
  | .vcvt _ _ _ _ a _ => [(oct a, 8)]
  | .vcvtw _ _ _ a _ => [(oct a, 8)]
  | .vcvtn t st _ _ a _ => [(oct a, 8 * (st.bytes / t.bytes))]
  | .vqnt st _ a => [(oct a, 8 * st.bytes)]
  | .vdq _ _ _ a _ => [(oct a, 8)]
  | .vcmpCc _ _ _ a b _ => [(oct a, 8), (oct b, 8)]
  | .vsel _ _ a b _ => [(oct a, 8), (oct b, 8)]
  | .vperm _ _ a b _ => [(oct a, 8), (oct b, 8)]
  | .vbcast _ _ s _ => [(s, 1)]
  | .vins _ _ s _ => [(s, 1)]
  | .vext _ _ v _ => [(oct v, 8)]
  | .viota _ _ _ => []
  | .vredSum _ _ _ a _ => [(oct a, 8)]
  | .vredMax _ _ a _ => [(oct a, 8)]
  | .vredMin _ _ a _ => [(oct a, 8)]
  | .vtbl _ _ _ a _ _ => [(oct a, 8)]
  | .vtbld _ s => [(s, 1)]
  | .mand _ _ _ => []
  | .mor _ _ _ => []
  | .mxor _ _ _ => []
  | .mnot _ _ => []
  | .mpop _ _ => []
  | .addi16Pos d _ => [(d, 1)]
  | .add16 d s => [(d, 1), (reg5 s, 1)]
  | .sub16 d s => [(d, 1), (reg5 s, 1)]
  | .and16 d s => [(d, 1), (reg5 s, 1)]
  | .or16 d s => [(d, 1), (reg5 s, 1)]
  | .xor16 d s => [(d, 1), (reg5 s, 1)]
  | .mov16 _ s => [(reg5 s, 1)]
  | .movi16 _ _ => []
  | .shli16 d _ => [(d, 1)]
  | .shri16 d _ => [(d, 1)]
  | .shai16 d _ => [(d, 1)]
  | .mul16 d s => [(d, 1), (reg5 s, 1)]
  | .min16 d s => [(d, 1), (reg5 s, 1)]
  | .max16 d s => [(d, 1), (reg5 s, 1)]
  | .andi16 d _ => [(d, 1)]
  | .addi16Neg d _ => [(d, 1)]
  | .powerGood => []
  | .romMeasured => []
  | .phaseTimeout => []
  | .firstSramFetch => []
  | .ceHash => []
  | .ceVerifyEcdsa => []
  | .ceVerifyLms => []
  | .ceCommandDone => []
  | .meExtend => []
  | .meSpdmMeas => []
  | .meCommandDone => []
  | .mctpRequest => []
  | .mbTxlen => []
  | .mbTransmitDone => []
  | .mbRxdone => []
  | .bootStatWrite => []
  | .fuStateWrite => []
  | .configRequest => []
  | .trainStart => []
  | .calDone => []
  | .rttDone => []
  | .keysDone => []
  | .keyUpdate => []
  | .ksCreate => []
  | .ksImport => []
  | .ksExport => []
  | .ksOffer => []
  | .ksAccept => []
  | .ksAcceptDrained => []
  | .ksErase => []
  | .ksEraseDrained => []
  | .ksSimport => []
  | .ksSerase => []
  | .ksSeraseDrained => []
  | .clusterFnWrite => []
  | .queueFnWrite => []
  | .registerWrite => []
  | .qProdWrite => []
  | .queueCreate => []
  | .queueDestroy => []
  | .queueResume => []
  | .svcCtlWrite => []
  | .bstCtlWrite => []
  | .recordRead => []
  | .recordArrival => []
  | .enqRequest => []
  | .dependenceSatisfied => []
  | .teamPlace => []
  | .launchBlocking => []
  | .basteStart => []
  | .basteAdopt => []
  | .basteRevalidated => []
  | .basteCommitted => []
  | .basteClaimed => []
  | .basteUnpick => []
  | .basteLifeExpiry => []
  | .quantumExpiry => []
  | .fetchLineArrival => []
  | .breakpointMatch => []
  | .teamStall => []
  | .tableWalkRead => []
  | .tuRetry => []
  | .tuFail => []
  | .tuAnswer => []
  | .tuInvPage => []
  | .tuInvSpace => []
  | .tuInvAll => []
  | .tuInvDone => []
  | .loadReply => []
  | .atomReply => []
  | .l1Eviction => []
  | .read => []
  | .readReply => []
  | .pullReq => []
  | .pullData => []
  | .pullComplete => []
  | .watchReq => []
  | .watchPoll => []
  | .watchDone => []
  | .msg => []
  | .msgAnswer => []
  | .enqAnswer => []
  | .unwatchAnswer => []
  | .fabricQueryAnswer => []
  | .matrixAccept => []
  | .bFetchDone => []
  | .matrixStepStart => []
  | .matrixStepDone => []
  | .vtbldDone => []
  | .flitSend => []
  | .data => []
  | .ack => []
  | .nak => []
  | .idle => []
  | .echo => []
  | .ackTimer => []
  | .retransmitTimeout => []
  | .idleTimer => []
  | .colourRecalibrated => []
  | .laneRetuned => []
  | .leaseReq => []
  | .leaseAnswer => []
  | .leaseWaitExpiry => []
  | .termEnd => []
  | .genReq => []
  | .genReply => []
  | .state => []
  | .error => []
  | .deadPeerDeclare => []
  | .collStart => []
  | .collWatchMet => []
  | .collPullLanded => []
  | .tnodeExpiry => []
  | .tlimExpiry => []
  | .preSave => []
  | .saveDrained => []
  | .redirectCompletion => []
  | .preResume => []
  | .resumePlace => []
  | .preDrop => []
  | .dbgRead => []
  | .dbgWrite => []
  | .teamRetire => []
  | .teamRetireDone => []
  | .quiescenceWave => []
  | .functionLevelReset => []
  | .conventionalReset => []
  | .correctedError => []
  | .uncorrectableError => []
  | .parityError => []
  | .hbmLinkTagFail => []
  | .snapQuiesce => []
  | .quiesceDone => []
  | .snapCopy => []
  | .copyDone => []
  | .snapRestore => []
  | .restoreDone => []
  | .snapRelease => []
  | .telemetryUpdate => []
  | .powerRemoved => []
  | .perstDeasserted => []
  | .storePerformed => []
  | .completionTimeout => []

/-- The register groups an instruction writes. -/
def Instr.writes : Instr → List (Reg × Nat)
  | .add w d _ _ => [(d, w.words)]
  | .sub w d _ _ => [(d, w.words)]
  | .mul d _ _ => [(d, 1)]
  | .mulh d _ _ => [(d, 1)]
  | .mulhu d _ _ => [(d, 1)]
  | .div d _ _ => [(d, 1)]
  | .divu d _ _ => [(d, 1)]
  | .rem d _ _ => [(d, 1)]
  | .remu d _ _ => [(d, 1)]
  | .and w d _ _ => [(d, w.words)]
  | .or w d _ _ => [(d, w.words)]
  | .xor w d _ _ => [(d, w.words)]
  | .andn w d _ _ => [(d, w.words)]
  | .min d _ _ => [(d, 1)]
  | .max d _ _ => [(d, 1)]
  | .minu d _ _ => [(d, 1)]
  | .maxu d _ _ => [(d, 1)]
  | .shl w d _ _ => [(d, w.words)]
  | .shr w d _ _ => [(d, w.words)]
  | .sha w d _ _ => [(d, w.words)]
  | .rot w d _ _ => [(d, w.words)]
  | .clz d _ => [(d, 1)]
  | .ctz d _ => [(d, 1)]
  | .popc d _ => [(d, 1)]
  | .brev d _ => [(d, 1)]
  | .sext w d _ _ => [(d, w.words)]
  | .zext w d _ _ => [(d, w.words)]
  | .mov w d _ => [(d, w.words)]
  | .sel w d _ _ => [(d, w.words)]
  | .setCc _ _ d _ _ => [(d, 1)]
  | .addi d _ _ => [(d, 1)]
  | .andi d _ _ => [(d, 1)]
  | .ori d _ _ => [(d, 1)]
  | .xori d _ _ => [(d, 1)]
  | .shli d _ _ => [(d, 1)]
  | .shri d _ _ => [(d, 1)]
  | .shai d _ _ => [(d, 1)]
  | .roti d _ _ => [(d, 1)]
  | .bfx d _ _ _ => [(d, 1)]
  | .bfi d _ _ _ => [(d, 1)]
  | .movi d _ => [(d, 1)]
  | .movhi d _ => [(d, 1)]
  | .lea d _ _ => [(d, 2)]
  | .beq _ _ _ => []
  | .bne _ _ _ => []
  | .blt _ _ _ => []
  | .bge _ _ _ => []
  | .bltu _ _ _ => []
  | .bgeu _ _ _ => []
  | .briEq _ _ _ => []
  | .briNe _ _ _ => []
  | .briLt _ _ _ => []
  | .briGe _ _ _ => []
  | .briLtu _ _ _ => []
  | .briGeu _ _ _ => []
  | .j _ => []
  | .jl _ => [(62, 2)]
  | .jlr d _ => [(d, 2)]
  | .loop _ _ => []
  | .loopi _ _ => []
  | .nop => []
  | .yield => []
  | .halt => []
  | .lexit => []
  | .mfs d sr => [(d, if sr.wide then 2 else 1)]
  | .mts _ _ => []
  | .trap _ => []
  | .rft => []
  | .bkpt => []
  | .svc n => [(n, 1)]
  | .ldbH _ d _ _ => [(d, 1)]
  | .ldbuH _ d _ _ => [(d, 1)]
  | .ldhH _ d _ _ => [(d, 1)]
  | .ldhuH _ d _ _ => [(d, 1)]
  | .ldwH _ d _ _ => [(d, 1)]
  | .lddH _ d _ _ => [(d, 2)]
  | .ldqH _ d _ _ => [(d, 4)]
  | .ldoH _ d _ _ => [(d, 8)]
  | .ldbG _ d _ _ => [(d, 1)]
  | .ldbuG _ d _ _ => [(d, 1)]
  | .ldhG _ d _ _ => [(d, 1)]
  | .ldhuG _ d _ _ => [(d, 1)]
  | .ldwG _ d _ _ => [(d, 1)]
  | .lddG _ d _ _ => [(d, 2)]
  | .ldqG _ d _ _ => [(d, 4)]
  | .ldoG _ d _ _ => [(d, 8)]
  | .stb _ _ _ _ => []
  | .sth _ _ _ _ => []
  | .stw _ _ _ _ => []
  | .std _ _ _ _ => []
  | .stq _ _ _ _ => []
  | .sto _ _ _ _ => []
  | .ldl w d _ _ => [(d, w.words)]
  | .stl _ _ _ _ => []
  | .atomAdd _ w d _ _ => [(d, w.words)]
  | .atomMin _ w d _ _ => [(d, w.words)]
  | .atomMax _ w d _ _ => [(d, w.words)]
  | .atomMinu _ w d _ _ => [(d, w.words)]
  | .atomMaxu _ w d _ _ => [(d, w.words)]
  | .atomAnd _ w d _ _ => [(d, w.words)]
  | .atomOr _ w d _ _ => [(d, w.words)]
  | .atomXor _ w d _ _ => [(d, w.words)]
  | .atomSwap _ w d _ _ => [(d, w.words)]
  | .atomCas _ w d _ _ => [(d, w.words)]
  | .fence _ => []
  | .fenceP _ _ => []
  | .rwb _ _ => []
  | .rinv _ _ => []
  | .clean _ _ => []
  | .pull _ _ _ => []
  | .pulld _ _ _ => []
  | .pullc _ _ _ => []
  | .stream _ _ _ => []
  | .tagwaitAny d _ => [(d, 1)]
  | .tagwaitAll _ => []
  | .tagff d _ => [(d, 1)]
  | .tagclr _ => []
  | .tagtst d _ => [(d, 1)]
  | .sclose _ => []
  | .mma _ _ _ => []
  | .mmas _ _ _ => []
  | .msend _ _ _ => []
  | .mdrain _ _ => []
  | .mzero _ _ => []
  | .plane _ _ => []
  | .tidset _ _ => []
  | .tidclr _ => []
  | .pub _ _ => []
  | .pubi _ _ => []
  | .unwatch d _ => [(d, 1)]
  | .bar _ => []
  | .bara d _ => [(d, 1)]
  | .barw _ _ => []
  | .convoy _ => []
  | .cjoin => []
  | .cleave => []
  | .watch _ _ => []
  | .send _ _ => []
  | .sendt d _ _ => [(d, 1)]
  | .recv d => [(d, 8)]
  | .recvt d s => [(d, 8), (s, 1)]
  | .enq _ _ => []
  | .enqt d _ _ => [(d, 1)]
  | .lease _ _ => []
  | .coll _ _ => []
  | .leaseq d _ => [(d, 1)]
  | .leaserel d _ _ => [(d, 1)]
  | .deadq d _ => [(d, 1)]
  | .vadd _ _ d _ _ _ => [(oct d, 8)]
  | .vsub _ _ d _ _ _ => [(oct d, 8)]
  | .vmul _ _ d _ _ _ => [(oct d, 8)]
  | .vfma _ _ d _ _ _ => [(oct d, 8)]
  | .vfms _ _ d _ _ _ => [(oct d, 8)]
  | .vfnma _ _ d _ _ _ => [(oct d, 8)]
  | .vmax _ d _ _ _ => [(oct d, 8)]
  | .vmin _ d _ _ _ => [(oct d, 8)]
  | .vabs _ d _ _ => [(oct d, 8)]
  | .vneg _ d _ _ => [(oct d, 8)]
  | .vdot _ _ d _ _ _ => [(oct d, 8)]
  | .vrcp _ _ d _ _ => [(oct d, 8)]
  | .vrsq _ _ d _ _ => [(oct d, 8)]
  | .vexp2 _ _ d _ _ => [(oct d, 8)]
  | .vcvt _ _ _ d _ _ => [(oct d, 8)]
  | .vcvtw t st d _ _ => [(oct d, 8 * (t.bytes / st.bytes))]
  | .vcvtn _ _ _ d _ _ => [(oct d, 8)]
  | .vqnt _ d _ => [(oct d, 8)]
  | .vdq t _ d _ _ => [(oct d, 8 * t.bytes)]
  | .vcmpCc _ _ _ _ _ _ => []
  | .vsel _ d _ _ _ => [(oct d, 8)]
  | .vperm _ d _ _ _ => [(oct d, 8)]
  | .vbcast _ d _ _ => [(oct d, 8)]
  | .vins _ d _ _ => [(oct d, 8)]
  | .vext _ d _ _ => [(d, 1)]
  | .viota _ d _ => [(oct d, 8)]
  | .vredSum _ _ d _ _ => [(oct d, 8)]
  | .vredMax _ d _ _ => [(oct d, 8)]
  | .vredMin _ d _ _ => [(oct d, 8)]
  | .vtbl _ _ d _ _ _ => [(oct d, 8)]
  | .vtbld _ _ => []
  | .mand _ _ _ => []
  | .mor _ _ _ => []
  | .mxor _ _ _ => []
  | .mnot _ _ => []
  | .mpop d _ => [(d, 1)]
  | .addi16Pos d _ => [(d, 1)]
  | .add16 d _ => [(d, 1)]
  | .sub16 d _ => [(d, 1)]
  | .and16 d _ => [(d, 1)]
  | .or16 d _ => [(d, 1)]
  | .xor16 d _ => [(d, 1)]
  | .mov16 d _ => [(d, 1)]
  | .movi16 d _ => [(d, 1)]
  | .shli16 d _ => [(d, 1)]
  | .shri16 d _ => [(d, 1)]
  | .shai16 d _ => [(d, 1)]
  | .mul16 d _ => [(d, 1)]
  | .min16 d _ => [(d, 1)]
  | .max16 d _ => [(d, 1)]
  | .andi16 d _ => [(d, 1)]
  | .addi16Neg d _ => [(d, 1)]
  | .powerGood => []
  | .romMeasured => []
  | .phaseTimeout => []
  | .firstSramFetch => []
  | .ceHash => []
  | .ceVerifyEcdsa => []
  | .ceVerifyLms => []
  | .ceCommandDone => []
  | .meExtend => []
  | .meSpdmMeas => []
  | .meCommandDone => []
  | .mctpRequest => []
  | .mbTxlen => []
  | .mbTransmitDone => []
  | .mbRxdone => []
  | .bootStatWrite => []
  | .fuStateWrite => []
  | .configRequest => []
  | .trainStart => []
  | .calDone => []
  | .rttDone => []
  | .keysDone => []
  | .keyUpdate => []
  | .ksCreate => []
  | .ksImport => []
  | .ksExport => []
  | .ksOffer => []
  | .ksAccept => []
  | .ksAcceptDrained => []
  | .ksErase => []
  | .ksEraseDrained => []
  | .ksSimport => []
  | .ksSerase => []
  | .ksSeraseDrained => []
  | .clusterFnWrite => []
  | .queueFnWrite => []
  | .registerWrite => []
  | .qProdWrite => []
  | .queueCreate => []
  | .queueDestroy => []
  | .queueResume => []
  | .svcCtlWrite => []
  | .bstCtlWrite => []
  | .recordRead => []
  | .recordArrival => []
  | .enqRequest => []
  | .dependenceSatisfied => []
  | .teamPlace => []
  | .launchBlocking => []
  | .basteStart => []
  | .basteAdopt => []
  | .basteRevalidated => []
  | .basteCommitted => []
  | .basteClaimed => []
  | .basteUnpick => []
  | .basteLifeExpiry => []
  | .quantumExpiry => []
  | .fetchLineArrival => []
  | .breakpointMatch => []
  | .teamStall => []
  | .tableWalkRead => []
  | .tuRetry => []
  | .tuFail => []
  | .tuAnswer => []
  | .tuInvPage => []
  | .tuInvSpace => []
  | .tuInvAll => []
  | .tuInvDone => []
  | .loadReply => []
  | .atomReply => []
  | .l1Eviction => []
  | .read => []
  | .readReply => []
  | .pullReq => []
  | .pullData => []
  | .pullComplete => []
  | .watchReq => []
  | .watchPoll => []
  | .watchDone => []
  | .msg => []
  | .msgAnswer => []
  | .enqAnswer => []
  | .unwatchAnswer => []
  | .fabricQueryAnswer => []
  | .matrixAccept => []
  | .bFetchDone => []
  | .matrixStepStart => []
  | .matrixStepDone => []
  | .vtbldDone => []
  | .flitSend => []
  | .data => []
  | .ack => []
  | .nak => []
  | .idle => []
  | .echo => []
  | .ackTimer => []
  | .retransmitTimeout => []
  | .idleTimer => []
  | .colourRecalibrated => []
  | .laneRetuned => []
  | .leaseReq => []
  | .leaseAnswer => []
  | .leaseWaitExpiry => []
  | .termEnd => []
  | .genReq => []
  | .genReply => []
  | .state => []
  | .error => []
  | .deadPeerDeclare => []
  | .collStart => []
  | .collWatchMet => []
  | .collPullLanded => []
  | .tnodeExpiry => []
  | .tlimExpiry => []
  | .preSave => []
  | .saveDrained => []
  | .redirectCompletion => []
  | .preResume => []
  | .resumePlace => []
  | .preDrop => []
  | .dbgRead => []
  | .dbgWrite => []
  | .teamRetire => []
  | .teamRetireDone => []
  | .quiescenceWave => []
  | .functionLevelReset => []
  | .conventionalReset => []
  | .correctedError => []
  | .uncorrectableError => []
  | .parityError => []
  | .hbmLinkTagFail => []
  | .snapQuiesce => []
  | .quiesceDone => []
  | .snapCopy => []
  | .copyDone => []
  | .snapRestore => []
  | .restoreDone => []
  | .snapRelease => []
  | .telemetryUpdate => []
  | .powerRemoved => []
  | .perstDeasserted => []
  | .storePerformed => []
  | .completionTimeout => []

/-! ### Streams -/

/-- Whether a group has a register of the octet w(32 + 8k).8. -/
def touches (g : Reg × Nat) (k : Nat) : Bool :=
  g.1.toNat < 40 + 8 * k && 32 + 8 * k < g.1.toNat + g.2

/-- Start of the window of the next pop, modulo the core store (R239). -/
def Stream.start (t : Stream) : Nat :=
  if t.rf then t.base + (t.pop * t.adv) % 2 ^ t.logr
  else ((((t.base + (t.pop % t.e0) * t.adv : Nat) : Int) + ((t.pop / t.e0 : Nat) : Int) * t.s1) % 0x8000).toNat

/-- Core-store address of byte k of the window (R239). -/
def Stream.addr (t : Stream) (k : Nat) : Nat :=
  if t.rf then t.base + (t.pop * t.adv + k) % 2 ^ t.logr else (t.start + k) % 0x8000

/-- The 32 bytes of the window of the stream of a context's octet, read on path P (R3). -/
def State.window (s : State) (p : Pos) (t : Stream) : List Byte :=
  (List.range 32).map (fun k => s.pathByte p.clus .p (engineObserver .p (p.core / 8)) (corePa s.pkg p.clus p.core (t.addr k)) 0)

/-- Whether a poisoned line lies under the window of an octet of the current context (R398). -/
def State.windowPoison (s : State) (k : Nat) : Bool :=
  match s.me.stream k with
  | some t => (List.range 32).any (fun j => s.poison.contains (corePa s.pkg s.cur.clus s.cur.core (t.addr j) / 64))
  | none => false

/-- Whether the window has wholly landed (R240). -/
def Stream.landedAll (t : Stream) : Bool := !t.rf || t.pop * t.adv + 32 ≤ t.landed

/-- What reading a stream-mode octet meets first: STREAM_OVER or a wait (R240). -/
inductive StreamCheck where
  | ok | trap (xinfo : Word) | wait
  deriving DecidableEq, Repr

def Stream.readCheck (t : Stream) : StreamCheck :=
  if t.npop ≤ t.pop then .trap 1
  else if t.landedAll then .ok
  else if t.err ≠ 0 then .trap (4 ||| (t.err.setWidth 32 <<< 8))
  else .wait

/-- The octets in stream mode that some group touches, lowest first. -/
def Ctx.streamsOf (c : Ctx) (gs : List (Reg × Nat)) : List Nat :=
  [0, 1, 2, 3].filter (fun k => (c.stream k).isSome && gs.any (fun g => touches g k))

/-- The stream checks of an instruction: its reads, lowest octet first, then its writes (R240). The address is the
start of the window. -/
def Ctx.streamCheck (c : Ctx) (rd wr : List (Reg × Nat)) : StreamCheck × Nat :=
  match (c.streamsOf rd).findSome? (fun k =>
      match c.stream k with
      | some t => (match t.readCheck with
        | .ok => none
        | .trap x => some (StreamCheck.trap x, t.start)
        | .wait => some (StreamCheck.wait, t.start))
      | none => none) with
  | some r => r
  | none =>
    match (c.streamsOf wr).findSome? (fun k => c.stream k) with
    | some t => (.trap 2, t.start)
    | none => (.ok, 0)

/-- A context as an instruction sees it: the windows stand in the registers of the octets it reads. -/
def State.streamView (s : State) (p : Pos) (ks : List Nat) : State :=
  ks.foldl (fun u k =>
    match (u.ctx p).stream k with
    | some t => u.modCtx p (fun c => c.setGroup (streamReg k) (bytesWords 8 (s.window p t)))
    | none => u) s

/-! ### Registers on their way (R218, R311, R315) -/

def Unready.overlaps (u : Unready) (g : Reg × Nat) : Bool :=
  g.1.toNat < u.dst.toNat + u.words && u.dst.toNat < g.1.toNat + g.2

/-- Deliver every value that is known (log entry 16). -/
def Ctx.deliver (c : Ctx) : Ctx :=
  c.unready.foldl (fun c u =>
    match u.val with
    | some ws => { c.setGroup u.dst ws with unready := c.unready.filter (fun x => x ≠ u) }
    | none => c) c

/-- Whether an operand of the instruction still waits for an answer. -/
def Ctx.waitsFor (c : Ctx) (gs : List (Reg × Nat)) : Bool :=
  c.unready.any (fun u => u.val = none && gs.any (fun g => u.overlaps g))

/-! ### Running an instruction -/

/-- What an instruction does: it completes and goes on behind itself or at another PC, returns (RFT), traps with XPC at
itself or at an address of its own, waits, has already brought the state to its end (final), or stops. -/
inductive Eff where
  | done (t : State)
  | jump (t : State) (npc : DWord)
  | ret (t : State)
  | trap (code : Byte) (xaddr : DWord) (xinfo : Word)
  | trapTo (code : Byte) (xaddr : DWord) (xinfo : Word) (xpc : DWord)
  | wait (t : State) (w : Wait)
  | final (t : State)
  | stop (f : Fault)

abbrev Out := Host.Outcome State Fault Refusal

/-- ILLEGAL and PRIV hold the instruction's bits in XINFO (R151). -/
def illegal (i : Instr) : Eff := .trap cILLEGAL 0 (Instr.bits i)
def priv (i : Instr) : Eff := .trap cPRIV 0 (Instr.bits i)

/-- The address behind an instruction at pc. -/
def nextPc (i : Instr) (pc : DWord) : DWord := pc + BitVec.ofNat 64 (Instr.len i)

/-- A wait of an instruction that has issued: its leader forwards it (R125). One that waits to issue, or for a page, has not. -/
def Wait.issued : Wait → Bool
  | .xlate => false
  | .resource => false
  | .buffer => false
  | .behind => false
  | .result => false
  | .held => false
  | .fetchLine => false
  | .forward => false
  | .load _ => true
  | .tagAny _ _ => true
  | .tagAll _ => true
  | .recv => true
  | .bar _ _ _ => true
  | .barw _ _ _ => true
  | .convoy => true
  | .cjoin => true
  | .answer _ => true
  | .unwatch _ _ => true
  | .query _ _ => true
  | .table _ _ => true

/-- Bring an effect to the state it leaves: s is the state before, with values on their way delivered; ks are the stream
octets read. A trap has no other effect (R10). A context held by the basting rules waits (R105). -/
def finish (i : Instr) (s : State) (ks : List Nat) : Eff → Out
  | .done t => .next ((t.modCtx s.cur (s.me.restore ks)).completeAt s.cur (nextPc i s.me.pc) true)
  | .jump t npc => .next ((t.modCtx s.cur (s.me.restore ks)).completeAt s.cur npc true)
  | .ret t => .next (convoyStep (t.modCtx s.cur Ctx.returned) s.cur s.me.pc)
  | .trap code xaddr xinfo => .next (s.takeTrap s.cur code xaddr xinfo s.me.pc)
  | .trapTo code xaddr xinfo xpc => .next (s.takeTrap s.cur code xaddr xinfo xpc)
  | .wait t w =>
    let u := t.modCtx s.cur (s.me.restore ks)
    .next ((if w.issued then forwardEarly u s.cur else u).block s.cur w)
  | .final t => .next t
  | .stop f => .fault f

/-- Run an instruction that reads the register groups rd: registers on their way, stream windows, then its own effect. -/
def runReading (i : Instr) (rd : List (Reg × Nat)) (s0 : State) (body : State → Eff) : Out :=
  let s := s0.modMe (fun c => { c.deliver with ibits := Instr.bits i, ilen := Instr.len i })
  if s.me.waitsFor (rd ++ Instr.writes i) then .next (s.block s.cur .result)
  else
    match s.me.streamCheck rd (Instr.writes i) with
    | (.trap x, a) => .next (s.takeTrap s.cur cSTREAM_OVER (BitVec.ofNat 64 a) x s.me.pc)
    | (.wait, _) => .next (s.block s.cur .result)
    | (.ok, _) =>
      let ks := s.me.streamsOf rd
      let s1 := s.modMe (fun c => { c with spop := ks })
      match ks.find? (fun k => s.windowPoison k) with
      | some k => .next (s.takeTrap s.cur cDEAD_PEER (BitVec.ofNat 64 (((s.me.stream k).map Stream.start).getD 0)) 0 s.me.pc)
      | none => finish i s1 ks (body (s1.streamView s1.cur ks))

/-- Run an instruction of the current context on the operands its encoding names. -/
def runInstr (i : Instr) (s0 : State) (body : State → Eff) : Out := runReading i (Instr.reads i) s0 body

end Sys2Proof.Machine
end

