-- ==== Sys2Proof/Machine/Xlate.lean ====
section
/-! DEFINITION. Translation: the two spaces of R34, walks and entries (R35 to R42), the TLB (R371), page-fault messages and
their tokens (R132, R372, R373). -/

namespace Sys2Proof.Machine

/-! ### Table entries (R37) -/

def entV (e : DWord) : Bool := e.getLsbD 0
def entL (e : DWord) : Bool := e.getLsbD 1
def entA (e : DWord) : Bool := e.getLsbD 2
def entD (e : DWord) : Bool := e.getLsbD 3
def entP0 (e : DWord) : Bool := e.getLsbD 4
def entP1 (e : DWord) : Bool := e.getLsbD 5
def entC (e : DWord) : Bool := e.getLsbD 6
def entKey (e : DWord) : Nat := (e.extractLsb' 9 12).toNat
/-- Physical address the entry names: PKG, CLUS and FRAME << 12. -/
def entFrame (e : DWord) : Nat := mkPa (e.extractLsb' 52 12).toNat (e.extractLsb' 45 7).toNat ((e.extractLsb' 21 24).toNat * 4096)
def entType (e : DWord) : PageType :=
  match (e.extractLsb' 7 2).toNat with
  | 0 => .normal
  | 1 => .swm
  | 2 => .sealed
  | _ => .device

/-- Level of the topmost table (R36). -/
def topLevel : Space → Nat
  | .read => 3
  | .home => 2

/-- Index of an address at a level (R36): 9 bits each, 6 at the top of the home table. -/
def tableIndex (sp : Space) (level addr : Nat) : Nat :=
  addr / 2 ^ (12 + 9 * level) % (if sp = .home && level = 2 then 64 else 512)

/-- Page size of a leaf (R36, R39). -/
def leafSize (level : Nat) (c : Bool) : Nat :=
  if level = 0 then (if c then 0x10000 else 0x1000) else 2 ^ (12 + 9 * level)

/-- A page of the vault or of HBM: where tables may lie. -/
def tablePage (pa : Nat) : Bool :=
  match paRegion pa with
  | .vault => true
  | .hbm => true
  | .core _ => false
  | .baste => false
  | .reserve => false
  | .device => false
  | .hole => false

/-- The page [pa, pa + size) lies wholly inside one mappable region of R32. -/
def pageInside (pa size : Nat) : Bool :=
  match paRegion pa, paRegion (pa + size - 1) with
  | .core _, .core _ => true
  | .vault, .vault => true
  | .hbm, .hbm => true
  | .device, .device => true
  | _, _ => false

/-- Whether the access needs P1; otherwise it needs P0 (R37). -/
def needsP1 (sp : Space) (acc : AccKind) : Bool :=
  match sp with
  | .home => acc ≠ .load
  | .read => acc = .fetch

/-- Home-path writes set D (R37). -/
def setsD (sp : Space) (acc : AccKind) : Bool := sp = .home && acc ≠ .load

/-- How a walk goes on from an entry (R38). -/
inductive WalkOut where
  | fault (reason : Nat)
  | trap (code : Byte)
  | down (table : Nat)
  | leaf (t : TlbEntry)
  deriving DecidableEq, Repr

/-- Whether the translation unit may use a key slot for its function (R43). -/
def Clus.holdsKey (k : Clus) (key : Nat) : Bool := k.keyBits.getLsbD key

/-- The key check of R38 and R43 for a frame. -/
def State.keyOk (s : State) (c pa key : Nat) : Bool :=
  !((paRegion pa).isHbm && paPkg pa = s.pkg) || (s.clus c).holdsKey key

/-- Whether a running ERASE or ACCEPT has cleared a slot's bit in a function's translation units (R48, R49). -/
def State.keyCleared (s : State) (fn slot : Nat) : Bool :=
  s.ksWins.any (fun e => match e.2.run with
    | some r => r.slot = slot && ((r.code = 6 && e.1 = fn) || (r.code = 5 && r.arg = fn))
    | none => false)

/-- Whether the key store holds a slot for a function, its bit not cleared by a running command (R43, R48, R336). -/
def State.slotHeld (s : State) (slot fn : Nat) : Bool :=
  let k := Assoc.get ({} : KeySlot) slot s.keySlots
  k.st ≠ .empty && k.fn = fn && !s.keyCleared fn slot

/-- The conditions of R38 for one entry, in their order. Of a 64 KiB group whose entries differ the entry that the address indexes is used, and
the translation covers the group (R39 allows any; DESIGN CHOICE, log entry 39). -/
def State.walkEntry (s : State) (c : Nat) (w : Walk) (e : DWord) : WalkOut :=
  let f := entFrame e
  let size := leafSize w.level (entC e)
  if !entV e then .fault 1
  else if !entL e && ((e.extractLsb' 2 19) ≠ 0 || !tablePage f) then .fault 2
  else if w.space = .home && paOwner f ≠ paOwner (mkPa s.pkg c 0) then .trap cHOME_FOREIGN
  else if !entL e && w.level = 0 || entL e && w.level = 3 || entL e && w.level ≠ 0 && entC e then .fault 2
  else if !entL e then .down f
  else if f % size ≠ 0 || !pageInside f size then .fault 2
  else if (entType e = .device) ≠ (paRegion f = .device) || w.space = .read && entType e = .device then .fault 2
  else if !s.keyOk c f (entKey e) then .trap cPERM
  else if !(if needsP1 w.space w.acc then entP1 e else entP0 e) then .trap cPERM
  else .leaf ⟨w.aspc, w.space, w.addr / size * size, size, f, if (paRegion f).isHbm then entKey e else 0, entType e, entP1 e, entP0 e,
    entD e || setsD w.space w.acc, w.bast⟩

/-! ### Lookups -/

/-- A translation, a miss, or a trap. -/
inductive XRes where
  | ok (pa : Nat) (t : TlbEntry)
  | miss
  | trap (code : Byte)
  deriving DecidableEq, Repr

/-- The address lies in its space (R34). -/
def inSpace : Space → DWord → Bool
  | .read, a => a.toNat < 2 ^ 48
  | .home, a => a.toNat < 2 ^ 36

def TlbEntry.covers (t : TlbEntry) (aspc : Nat) (sp : Space) (a : Nat) : Bool :=
  t.aspc = aspc && t.space = sp && t.base ≤ a && a < t.base + t.size

/-- The queue of a basting context's launch. -/
def Ctx.bast (c : Ctx) : Option Nat := if c.basting then some (c.lnch.extractLsb' 24 8).toNat else none

/-- The basting launch a requester belongs to, as long as its home-path writes go to shadow lines (R105, R108). -/
def State.reqBast (s : State) (r : Requester) : Option Nat :=
  let b := match r with
    | .ctx p => (s.ctx p).bast
    | .engine p _ => (s.ctx p).bast
    | .front _ _ => none
    | .quiet (.page p _) => (s.ctx p).bast
    | .quiet _ => none
  b.filter (fun q => s.bastings.any (fun e => e.1 = q && e.2.st ≠ .committing))

/-- The entries a requester's lookup sees: those of its core, where a context asks, then the cluster's (R371). -/
def State.tlbFor (s : State) (c : Nat) : Requester → List TlbEntry
  | .ctx p => (s.core c p.core).tlb ++ (s.clus c).tlb
  | .engine _ _ => (s.clus c).tlb
  | .front _ _ => (s.clus c).tlb
  | .quiet (.page p _) => (s.core c p.core).tlb ++ (s.clus c).tlb
  | .quiet _ => (s.clus c).tlb

/-- Translate an address for an access of a requester: range (R34), a TLB entry (one whose D is clear makes a home-path write walk), then
the key check against the current bitmap (R43) and the permission (R38). -/
def State.translate (s : State) (c : Nat) (r : Requester) (aspc : Nat) (sp : Space) (a : DWord) (acc : AccKind) : XRes :=
  if !inSpace sp a then .trap cPERM
  else
    match (s.tlbFor c r).find? (fun t => t.covers aspc sp a.toNat && (t.d || !setsD sp acc) && (t.bast = none || t.bast = s.reqBast r)) with
    | none => .miss
    | some t =>
      let pa := t.frame + (a.toNat - t.base)
      if !s.keyOk c pa t.key then .trap cPERM
      else if !(if needsP1 sp acc then t.p1 else t.p0) then .trap cPERM
      else .ok pa t

/-! ### Page faults (R132, R372) -/

/-- XINFO[5:4] of a fault on an access (R210, R228). -/
def AccKind.xinfo : AccKind → Word
  | .load => 0
  | .store => 0x10
  | .atomic => 0x20
  | .fetch => 0
  | .pullSrc => 0
  | .pullDst => 0x10
  | .stamp => 0x20
  | .watch => 0
  | .matrixB => 0
  | .collective => 0
  | .front => 0

/-- A requester's access fails with a code: a context that waits takes the trap at its instruction, an engine or the
front end finds the code. -/
def State.failReq (s : State) (c : Nat) (code : Byte) (addr : Nat) (xinfo : Word) : Requester → State
  | .ctx p => if (s.ctx p).st = .blocked .xlate then s.takeTrap p code (BitVec.ofNat 64 addr) xinfo (s.ctx p).pc else s
  | .engine p t => s.modClus c (fun k => { k with xfails := k.xfails ++ [(.engine p t, code)] })
  | .front q n => s.modClus c (fun k => { k with xfails := k.xfails ++ [(.front q n, code)] })
  | .quiet (.page p g) => if (s.ctx p).st = .blocked .xlate then s.modCtx p (fun x => { x with skips := x.skips ++ [g] }) else s
  | .quiet w => s.modClus c (fun k => { k with xfails := k.xfails ++ [(.quiet w, code)] })

/-- Whether a requester's walks make no message. -/
def Requester.isQuiet : Requester → Bool
  | .ctx _ => false
  | .engine _ _ => false
  | .front _ _ => false
  | .quiet _ => true

/-- The follow-up of an engine or of the front end once its page is there or its walk has failed. -/
def State.wakeReq (s : State) (c : Nat) : Requester → State
  | .ctx p => if (s.ctx p).st = .blocked .xlate then s.wake p else s
  | .engine p _ => (s.post .bFetchDone { clus := c, core := p.core }).post .collStart { clus := c }
  | .front q n => s.post .dependenceSatisfied { id := q, n := n }
  | .quiet (.page p _) => if (s.ctx p).st = .blocked .xlate then s.wake p else s
  | .quiet (.dbg k) =>
    (match (s.clus k).dbg.cmd with
     | some (true, _, _) => s.post .dbgWrite { clus := k, flag := true }
     | some (false, _, _) => s.post .dbgRead { clus := k, flag := true }
     | none => s)
  | .quiet (.snap fn) =>
    let w : Snap := Assoc.get {} fn s.snaps
    if w.quiescing then s.post .quiesceDone { fn := fn }
    else if w.late then (if w.cmd = 2 then s.post .copyDone { fn := fn } else s.post .restoreDone { fn := fn })
    else s
  | .quiet (.baste q) => s.post .basteStart { id := q }

/-- Put a token number into a message's TOKEN field (R372). -/
def withToken (token : Nat) : List Word → List Word
  | [] => []
  | v :: vs => (v ||| BitVec.ofNat 32 (token * 2 ^ 16)) :: vs

/-- The lowest token number that is free, of 1 to 64, or 0: a double trap's message carries 0, so that no reply to it names another's token
(R373; DESIGN CHOICE, log entry 27). -/
def freeToken (ts : List Token) : Nat := (((List.range 64).map (· + 1)).find? (fun n => ts.all (fun t => t.token ≠ n))).getD 0

/-- Post a message with a token of its own, or let it wait for one (R372). -/
def State.postToken (s : State) (c : Nat) (t : Token) : State :=
  let n := freeToken (s.clus c).tokens
  if 1 ≤ n then
    (s.modClus c (fun k => { k with tokens := k.tokens ++ [{ t with token := n }] })).postSvc c (withToken n t.body)
  else s.modClus c (fun k => { k with waitFaults := k.waitFaults ++ [t] })

/-- A context that awaits a page-fault reply gives up its turn (R120). -/
def State.awaitReply (s : State) : Requester → State
  | .ctx p => s.endTurn p
  | .engine _ _ => s
  | .front _ _ => s
  | .quiet _ => s

/-- A message, posted or waiting, for a walk's page, table and address space (R372). -/
def Token.isOn (t : Token) (w : Walk) : Bool := t.kind = .pageFault && t.aspc = w.aspc && t.space = w.space && t.page = w.addr / 4096

/-- A requester's fault on the page of a message joins it. -/
def Token.joined (t : Token) (w : Walk) (r : Requester) : Token := if t.isOn w then { t with reqs := t.reqs ++ [(r, w.addr, w.acc)] } else t

/-- A page fault of one requester: no message for one that never makes any; in a basting launch the context holds, or the engine's command waits for
the claim (R105); the PERM of R132 without a service context; or the message of R372. -/
def State.pageFault (s : State) (c : Nat) (w : Walk) (level reason : Nat) (eaddr eval : DWord) (r : Requester) : State :=
  let k := s.clus c
  let bast := match r with | .ctx p => (s.ctx p).basting | .engine p _ => (s.ctx p).basting | .front _ _ => false | .quiet _ => false
  if r.isQuiet then (s.failReq c cPERM w.addr 0 r).wakeReq c r
  else if bast then
    match r with
    | .ctx p => s.block p .held
    | _ => s
  else if !(k.svcStat = 1 || k.svcStat = 2) || r = .ctx (svcPos c) then
    (s.failReq c cPERM w.addr (w.acc.xinfo ||| BitVec.ofNat 32 reason) r).wakeReq c r
  else if (k.tokens ++ k.waitFaults).any (fun t => t.isOn w) then
    (s.awaitReply r).modClus c (fun k => { k with
      tokens := k.tokens.map (fun t => t.joined w r), waitFaults := k.waitFaults.map (fun t => t.joined w r) })
  else
    (s.awaitReply r).postToken c ⟨0, .pageFault, w.aspc, w.space, w.addr / 4096, [(r, w.addr, w.acc)],
      svcMessage .pageFault reason w.aspc w.space level w.acc 0 r (BitVec.ofNat 64 w.addr) eaddr eval, 0⟩

/-! ### Home writes -/

/-- The write generation of a 4 KiB page advances (R106). -/
def State.bumpGen (s : State) (pa : Nat) : State :=
  { s with gens := Assoc.put (pa / 4096) ((Assoc.get 0 (pa / 4096) s.gens + 1) % 2 ^ 32) s.gens }

/-- Put bytes at addresses under a key slot. -/
def State.putCells (s : State) (key : Nat) : List (Nat × Byte) → State
  | [] => s
  | (a, v) :: t => (s.putByte a key v).putCells key t

/-- The cells of bytes from an address on. -/
def cellsAt (a : Nat) : List Byte → List (Nat × Byte)
  | [] => []
  | v :: vs => (a, v) :: cellsAt (a + 1) vs

/-- Every home NORMAL copy of the line in another core's L1 is invalidated (R199). -/
def State.invalidate (s : State) (c : Nat) (except : Option Nat) (line : Nat) : State :=
  { s with cores := s.cores.map (fun e =>
      if e.1.1 = c && some e.1.2 ≠ except then
        (e.1, { e.2 with l1 := e.2.l1.filter (fun l => l.foreign || l.swm || l.line ≠ line) })
      else e) }

/-- The bytes of a unit that cells lie on. -/
def unitMask (unit : Nat) (cells : List (Nat × Byte)) : BitVec 32 :=
  cells.foldl (fun m e => if e.1 / 32 = unit then m ||| BitVec.ofNat 32 (2 ^ (e.1 % 32)) else m) 0

/-- A write is later than the landings on its bytes: nobody reads them as they were before those any more (R319). -/
def Clus.overwritten (k : Clus) (cells : List (Nat × Byte)) : Clus :=
  if k.unfenced = [] then k
  else { k with unfenced := (k.unfenced.map (fun u => { u with mask := u.mask &&& ~~~(unitMask u.unit cells) })).filter (fun u => u.mask ≠ 0) }

/-- Whether a poisoned line lies under n bytes at an address (R398). -/
def State.poisoned (s : State) (pa n : Nat) : Bool := s.poison.any (fun l => pa / 64 ≤ l && l ≤ (pa + n - 1) / 64)

/-- A write takes its place in home order: cells of one line, under a key slot; the writing core's L1 copy is its own. A write of the
whole line clears its poison (R398). -/
def State.performWrite (s : State) (c : Nat) (except : Option Nat) (key : Nat) (cells : List (Nat × Byte)) : State :=
  match cells with
  | [] => s
  | (a, _) :: _ =>
    let s1 := (((s.invalidate c except (a / 64)).putCells key cells).bumpGen a).modClus c (fun k => k.overwritten cells)
    if 64 ≤ cells.length && (List.range 64).all (fun j => cells.any (fun e => e.1 % 64 = j)) then { s1 with poison := s1.poison.filter (· ≠ a / 64) } else s1

/-- Whether a core is one that a basting launch has occupied and that it has not yet committed (R105). -/
def State.bastCore (s : State) (c n : Nat) : Bool := s.bastings.any (fun e => e.2.cores.contains (c, n) && e.2.st ≠ .committing)

/-- A basting launch is to be unpicked (R110): from here on it cannot commit. -/
def State.doom (s : State) (q : Nat) : State :=
  ({ s with bastings := s.bastings.map (fun e => if e.1 = q then (e.1, { e.2 with doomed := true }) else e) } : State).post .basteUnpick { id := q }

/-- An uncorrectable error that a basting launch sees unpicks it (R398). -/
def State.sawPoison (s : State) (bast : Option Nat) : State :=
  match bast with
  | some q => s.doom q
  | none => s

/-- Replace bytes of a line by cells. -/
def patchLine (line : Nat) (bytes : List Byte) (cells : List (Nat × Byte)) : List Byte :=
  cells.foldl (fun l e => if e.1 / 64 = line then l.set (e.1 % 64) e.2 else l) bytes

/-- A basting launch's home-path write: the line's shadow, copied at the first write (R105). More than 8,192 lines in a
cluster unpick the launch (R110). -/
def State.shadowWrite (s : State) (c q key : Nat) (cells : List (Nat × Byte)) : State :=
  match cells with
  | [] => s
  | (a, _) :: _ =>
    let line := a / 64
    match (s.clus c).shadow.find? (fun l => l.1 = line) with
    | some l => s.modClus c (fun k => { k with shadow := k.shadow.map (fun x =>
        if x.1 = line then (line, key, patchLine line l.2.2 cells) else x) })
    | none =>
      if s.poison.contains line then s.sawPoison (some q)
      else if (s.clus c).shadow.length + (s.clus c).deferredLines < 8192 then
        s.modClus c (fun k => { k with shadow := k.shadow ++ [(line, key, patchLine line (s.bytesAt (64 * line) key 64) cells)] })
      else s.doom q

/-- The basting launch of a queue is past the commit of its shadow lines: its writes go home, its reads enter no read set (R108). -/
def State.committing (s : State) (q : Nat) : Bool := s.bastings.any (fun e => e.1 = q && e.2.st = .committing)

/-- A home-path write of the cluster's contexts or engines (R30). bast is the queue of the basting launch it is made for. -/
def State.homeWrite (s : State) (c : Nat) (bast : Option Nat) (except : Option Nat) (key : Nat) (cells : List (Nat × Byte)) : State :=
  match bast, cells with
  | some q, (a, _) :: _ =>
    if s.committing q then s.performWrite c except key cells
    else (match paRegion a with
     | .core n => if s.bastCore c n then s.performWrite c except key cells else s.shadowWrite c q key cells
     | _ => s.shadowWrite c q key cells)
  | _, _ => s.performWrite c except key cells

/-- A read by a basting launch enters the read set: owner, page, generation; a second generation of one page, or more than
4,096 entries, unpicks (R106, R110). -/
def State.noteGen (s : State) (bast : Option Nat) (pa g : Nat) : State :=
  match bast with
  | none => s
  | some q =>
    if s.committing q then s else
    let l := Assoc.get [] q s.readSets
    match l.find? (fun e => e.1 = paOwner pa && e.2.1 = pa / 4096) with
    | some e => if e.2.2 = g then s else s.doom q
    | none =>
      if l.length < 4096 then { s with readSets := Assoc.put q (l ++ [(paOwner pa, pa / 4096, g)]) s.readSets }
      else s.doom q

/-- A read at home by a basting launch, or one whose reply has brought the page's generation. -/
def State.noteRead (s : State) (bast : Option Nat) (pa : Nat) : State := s.noteGen bast pa (Assoc.get 0 (pa / 4096) s.gens)

/-- Whether an owner port of this package refuses a cluster of function fn (R52). -/
def State.ownerRefuses (s : State) (fn pa : Nat) : Bool :=
  (s.clus (paClus pa)).fn ≠ fn && !((paRegion pa).isHbm)

/-! ### Pages a submission has pinned (R228, R229) -/

/-- The pages that a context's submission has translated so far and so pins. -/
def Ctx.subPages (c : Ctx) : List (Nat × Space × Nat) :=
  match c.sub with
  | none => []
  | some u => (u.src.map (fun e => (c.aspc, Space.read, e.1))) ++ ((u.dst ++ u.stamp).map (fun e => (c.aspc, Space.home, e.1))).eraseDups

/-- The pages that submissions under way in a cluster pin. -/
def State.subPins (s : State) (c : Nat) : List Pin :=
  (s.ctxs.filter (fun e => e.1.clus = c)).flatMap (fun e => e.2.subPages.map (fun x => ⟨x.1, x.2.1, x.2.2, 1⟩))

/-- The pages that a cluster's page-lock table pins: those of operations in progress, and those of submissions under way. -/
def State.pinned (s : State) (c : Nat) : List Pin := (s.clus c).pins ++ s.subPins c

/-! ### Walks -/

/-- Begin a walk for a requester. -/
def State.startWalk (s : State) (c aspc : Nat) (sp : Space) (a : DWord) (acc : AccKind) (r : Requester) : State :=
  let s1 := { s with nextId := s.nextId + 1 }
  (s1.modClus c (fun k => { k with walks := k.walks ++
      [⟨s.nextId, aspc, sp, a.toNat, acc, [r], topLevel sp + 1, 0, 0, s.reqBast r⟩] })).post .tableWalkRead { clus := c, id := s.nextId }

/-- Begin a walk for a requester that has none under way. -/
def State.quietWalk (s : State) (c aspc : Nat) (sp : Space) (a : DWord) (acc : AccKind) (w : Quiet) : State :=
  if (s.clus c).walks.any (fun x => x.reqs.contains (.quiet w)) then s else s.startWalk c aspc sp a acc (.quiet w)

/-- How an access that makes no page-fault message is translated: to an address, not yet, or not at all, with the walk's code. -/
inductive QuietRes where
  | ok (pa : Nat) (t : TlbEntry)
  | wait (s : State)
  | fail (s : State) (code : Byte)
  deriving DecidableEq, Repr

/-- Translate without a message: a miss starts a walk, and what the requester's failed walk left is taken. -/
def State.quiet (s : State) (c aspc : Nat) (sp : Space) (a : DWord) (acc : AccKind) (w : Quiet) : QuietRes :=
  match (s.clus c).xfails.find? (fun x => x.1 = .quiet w) with
  | some x => .fail (s.modClus c (fun k => { k with xfails := k.xfails.filter (fun y => y.1 ≠ .quiet w) })) x.2
  | none =>
    match s.translate c (.quiet w) aspc sp a acc with
    | .trap code => .fail s code
    | .miss => .wait (s.quietWalk c aspc sp a acc w)
    | .ok pa t => .ok pa t

/-- A walk stands in one of the cluster's four walkers (R371). -/
def Clus.inWalker (k : Clus) (id : Nat) : Bool := (k.walks.take 4).any (fun w => w.id = id)

/-- A walk ends: it leaves its walker to the next that waits for one, and a TU_INV that waits for it hears so. -/
def State.endWalk (s : State) (c id : Nat) : State :=
  let s1 := s.modClus c (fun k => { k with walks := k.walks.filter (fun w => w.id ≠ id) })
  let s2 := match (s.clus c).walks[4]? with
    | some n => if (s.clus c).inWalker id then s1.post .tableWalkRead { clus := c, id := n.id } else s1
    | none => s1
  if (s2.clus c).tuInv = [] then s2 else s2.post .tuInvDone { clus := c }

/-- Whether a TU_INV command names the page of an entry (R374). -/
def TuInv.covers (v : TuInv) (t : TlbEntry) : Bool :=
  v.cmd = 3 || (v.cmd = 2 && t.aspc = v.aspc) ||
    (v.cmd = 1 && t.aspc = v.aspc && t.space = v.space && t.base ≤ v.page * 4096 && v.page * 4096 < t.base + t.size)

/-- The basting launch a walk is made for, as long as its writes go to shadow lines (R108). -/
def State.walkBast (s : State) (w : Walk) : Option Nat := w.bast.filter (fun q => s.bastings.any (fun e => e.1 = q && e.2.st ≠ .committing))

/-- A translation enters a TLB of n entries in place of the one it had for the page; of a full TLB the oldest leaves (R371; log entry 9). -/
def tlbFill (n : Nat) (l : List TlbEntry) (t : TlbEntry) : List TlbEntry :=
  let r := l.filter (fun x => x.base ≠ t.base || x.space ≠ t.space || x.aspc ≠ t.aspc)
  (if r.length < n then r else r.drop 1) ++ [t]

/-- A walk's translation enters the cluster's 4,096 entries, and the 64 of a core for whose context it was made (R371). -/
def State.fillTlb (s : State) (c : Nat) (t : TlbEntry) (reqs : List Requester) : State :=
  (reqs.foldl (fun u r => match r with
    | .ctx p => u.modCore c p.core (fun k => { k with tlb := tlbFill 64 k.tlb t })
    | _ => u) s).modClus c (fun k => { k with tlb := tlbFill 4096 k.tlb t })

/-- One entry examined: go down, fill the TLB and wake, trap, or fault (R38). eaddr is the entry's address. -/
def State.walkOn (s : State) (c : Nat) (w : Walk) (eaddr : Nat) (e : DWord) : State :=
  match s.walkEntry c w e with
  | .down t =>
    (s.modClus c (fun k => { k with walks := k.walks.map (fun x =>
      if x.id = w.id then { x with level := w.level - 1, table := t } else x) })).post .tableWalkRead { clus := c, id := w.id }
  | .leaf t =>
    let e' := e ||| 4#64 ||| (if setsD w.space w.acc then 8#64 else 0#64)
    let s1 := if e' ≠ e && paOwner eaddr = paOwner (mkPa s.pkg c 0) then s.homeWrite c (s.walkBast w) none w.tkey (cellsAt eaddr (dwordBytes e')) else s
    let stale := (s.clus c).tuInv.any (fun v => v.walks.contains w.id && v.covers t)
    let s2 := (if stale then s1 else s1.fillTlb c { t with bast := s.walkBast w } w.reqs).endWalk c w.id
    w.reqs.foldl (fun u r => u.wakeReq c r) s2
  | .trap code =>
    w.reqs.foldl (fun u r => (u.failReq c code w.addr w.acc.xinfo r).wakeReq c r) (s.endWalk c w.id)
  | .fault reason =>
    w.reqs.foldl (fun u r => u.pageFault c w w.level reason (BitVec.ofNat 64 eaddr) e r) (s.endWalk c w.id)

/-- A walk that ends with a code that is no entry's: a dead owner, a refusal, a poisoned table line (R38). -/
def State.walkFail (s : State) (c : Nat) (w : Walk) (code : Byte) : State :=
  w.reqs.foldl (fun u r => (u.failReq c code w.addr w.acc.xinfo r).wakeReq c r) (s.endWalk c w.id)

/-- The root as an entry above the top level (R35, R38). A fault that the root decides reports the top level, EADDR 0 and the root as EVAL: the
spec gives LEVEL for BASE 0 only, and no EADDR (DESIGN CHOICE, log entry 23). -/
def State.walkRoot (s : State) (c : Nat) (w : Walk) : State :=
  let k := s.clus c
  let root : DWord := match w.space with
    | .read => k.rroot.toList.getD w.aspc 0
    | .home => k.hroot.toList.getD w.aspc 0
  let base := root.toNat / 4096 * 4096
  if base = 0 then
    w.reqs.foldl (fun u r => u.pageFault c w (topLevel w.space) 1 0 root r) (s.endWalk c w.id)
  else if !tablePage base then
    w.reqs.foldl (fun u r => u.pageFault c w (topLevel w.space) 2 0 root r) (s.endWalk c w.id)
  else if w.space = .home && paOwner base ≠ paOwner (mkPa s.pkg c 0) then s.walkFail c w cHOME_FOREIGN
  else
    (s.modClus c (fun k => { k with walks := k.walks.map (fun x =>
      if x.id = w.id then { x with level := topLevel w.space, table := base, tkey := root.toNat % 4096 } else x) })).post .tableWalkRead { clus := c, id := w.id }

/-- The address of the entry a walk reads next. -/
def Walk.entryAddr (w : Walk) : Nat := w.table + 8 * tableIndex w.space w.level w.addr

/-- One read of a walk: the root, an entry of this package, or a request to another package's owner port, once (R29). -/
def State.walkRead (s : State) (c : Nat) (w : Walk) : State :=
  if w.level = topLevel w.space + 1 then s.walkRoot c w
  else
    let a := w.entryAddr
    if s.outReads.any (fun o => o.who = .walk c w.id) then s
    else if s.dead.getLsbD (paPkg a) then s.walkFail c w cDEAD_PEER
    else if paPkg a ≠ s.pkg then
      s.askPkg c a w.tkey 8 (.walk c w.id)
    else if s.ownerRefuses (s.clus c).fn a || !s.keyOk c a w.tkey then s.walkFail c w cPERM
    else if s.poison.contains (a / 64) then (s.sawPoison (s.walkBast w)).walkFail c w cDEAD_PEER
    else (s.noteRead (s.walkBast w) a).walkOn c w a (bytesDWord (s.bytesAt a w.tkey 8))

end Sys2Proof.Machine
end

