-- ==== Sys2Proof/Machine/Memory.lean ====
section
/-! DEFINITION. Memory as a cluster's contexts and engines reach it: the home path and home order (R30, R199, R214), the
store buffer and the L1 (R198 to R200), owner ports, the reader cache and its floors (R201 to R204), the checks of R210,
and the shadow lines of a basting launch (R105, R106). -/

namespace Sys2Proof.Machine

/-- What an instruction of the current context does that reads a poisoned line: DEAD_PEER; a basting launch is unpicked (R398). -/
def poisonEff (t : State) (xaddr : DWord) (xinfo : Word) : Eff :=
  match t.me.bast with
  | some q => .wait (t.sawPoison (some q)) .held
  | none => .trap cDEAD_PEER xaddr xinfo

/-- Whether a poisoned line lies under n bytes of the current core's store. -/
def State.blockPoison (t : State) (a n : Nat) : Bool := t.poisoned (corePa t.pkg t.cur.clus t.cur.core a) n

/-! ### Reads at the home (R214) -/

/-- The shadow line a basting launch reads, where it has one. -/
def State.shadowOf (s : State) (c : Nat) (bast : Option Nat) (pa : Nat) : Option (List Byte) :=
  match bast with
  | none => none
  | some _ => ((s.clus c).shadow.find? (fun l => l.1 = pa / 64)).map (fun l => l.2.2)

/-- Landings on a path whose operations q accepts become ordered before reads on another path (R220). -/
def Clus.orderPath (k : Clus) (src dst : Path) (q : Nat → Bool) : Clus :=
  { k with unfenced := (k.unfenced.map (fun u => if u.path = src && q u.op then { u with stale := u.stale.filter (· ≠ dst) } else u)).filter (fun u => u.stale ≠ []) }

/-- The other paths that may read a landing late (R235). -/
def otherPaths (p : Path) : List Path := [Path.c, Path.p, Path.m, Path.t, Path.x].filter (· ≠ p)

/-- Remember an engine's landing of bytes of a unit: what the unit held, and who may still read it so. before lists what was remembered
before the landing. -/
def Clus.landed (k : Clus) (before : List Unfenced) (unit : Nat) (mask : BitVec 32) (old : List Byte) (path : Path) (op id now : Nat) : Clus :=
  { k with unfenced := before ++ [⟨unit, mask, old, path, op, otherPaths path, [], id, now⟩] }

/-- The context at p has read the unit of an address past every landing: it does not go back behind them (R319). -/
def State.sees (s : State) (p : Pos) (pa : Nat) : State :=
  s.modClus p.clus (fun k => if k.unfenced = [] then k else
    { k with unfenced := k.unfenced.map (fun u => if u.unit = pa / 32 then { u with seenBy := u.seenBy ++ [p.observer] } else u) })

/-- An engine's landing of bytes inside one 32-byte unit: a home write, remembered until a fence orders it (R235). -/
def State.land (s : State) (c : Nat) (bast : Option Nat) (path : Path) (op pa key : Nat) (bytes : List Byte) : State :=
  let u := pa / 32
  let old := s.bytesAt (32 * u) key 32
  let s1 := s.homeWrite c bast none key (cellsAt pa bytes)
  s1.drew.modClus c (fun k => k.landed (s.clus c).unfenced u (unitMask u (cellsAt pa bytes)) old path op s.freeCtr s.steps)

/-- Engine landings that an acquire orders before later reads on path C (R235, R308, R321; log entry 10). -/
def Clus.acquired (k : Clus) : Clus :=
  [Path.p, Path.m, Path.t, Path.x].foldl (fun k a => k.orderPath a .c (fun _ => true)) k

/-! ### L1 (R198 to R200) -/

/-- The mask of n bytes from offset k of a line. -/
def byteMask (k n : Nat) : BitVec 64 := BitVec.ofNat 64 ((2 ^ n - 1) * 2 ^ k)

def Core.l1Find (k : Core) (line key : Nat) : Option L1Line := k.l1.find? (fun l => l.line = line && l.key = key)

/-- Dirty bytes of a line go home, merged under the mask (R199). -/
def State.writeBack (s : State) (c core : Nat) (l : L1Line) : State :=
  let cells := ((List.range 64).filter (fun k => l.dirty.getLsbD k)).map (fun k => (64 * l.line + k, l.bytes.getD k 0))
  let s1 := s.performWrite c (some core) l.key cells
  s1.modCore c core (fun k => { k with l1 := k.l1.map (fun x => if x.line = l.line && x.key = l.key then { x with dirty := 0 } else x) })

/-- A line leaves the L1, written back first where it is dirty. -/
def State.evictLine (s : State) (c core : Nat) (l : L1Line) : State :=
  let s1 := if l.dirty = 0 then s else s.writeBack c core l
  s1.modCore c core (fun k => { k with l1 := k.l1.filter (fun x => !(x.line = l.line && x.key = l.key)) })

/-- Make room for one line: 64 lines, the oldest leaves (R195; log entry 9). -/
def State.l1Room (s : State) (c core : Nat) : State :=
  match (s.core c core).l1 with
  | [] => s
  | l :: _ => if (s.core c core).l1.length < 64 then s else s.evictLine c core l

/-- Fill a line: clean bytes take the fetched values, dirty bytes keep theirs (R198). -/
def State.l1Fill (s : State) (c core : Nat) (n : L1Line) : State :=
  match (s.core c core).l1.find? (fun l => l.line = n.line) with
  | some l =>
    if l.key = n.key then
      s.modCore c core (fun k => { k with l1 := k.l1.map (fun x => if x.line = n.line then
        { n with swm := n.swm || l.dirty ≠ 0, dirty := l.dirty, bytes := (List.range 64).map (fun j => if l.dirty.getLsbD j then l.bytes.getD j 0 else n.bytes.getD j 0) } else x) })
    else (s.evictLine c core l).modCore c core (fun k => { k with l1 := k.l1 ++ [n] })
  | none => (s.l1Room c core).modCore c core (fun k => { k with l1 := k.l1 ++ [n] })

/-- Write back and empty a core's L1 (R200). -/
def State.flushL1 (s : State) (c core : Nat) : State :=
  (s.core c core).l1.foldl (fun u l => u.evictLine c core l) s

/-- Write back and discard a line before the atomic unit acts on it (R217, R299). -/
def State.dropLine (s : State) (c core line : Nat) : State :=
  ((s.core c core).l1.filter (fun l => l.line = line)).foldl (fun u l => u.evictLine c core l) s

/-! ### Store buffer (R198) -/

/-- The oldest entry of a core's store buffer is performed. -/
def State.performOldest (s : State) (c core : Nat) : State :=
  match (s.core c core).sb with
  | [] => s
  | e :: t =>
    let s1 := s.modCore c core (fun k => { k with sb := t })
    let s2 := s1.performWrite c (some core) e.key e.cells
    s2.wakeAll (fun p w => p.clus = c && p.core = core && w = .buffer)

/-- Perform n entries. -/
def State.performN (s : State) (c core : Nat) : Nat → State
  | 0 => s
  | n + 1 => (s.performOldest c core).performN c core n

/-- Every earlier store of the core's contexts is performed: what a release or a fence waits for (R213, R219). -/
def State.drain (s : State) (c core : Nat) : State := s.performN c core (s.core c core).sb.length

/-- Whether a store merges into the youngest entry of a core's buffer: the same line under the same key (R198; log entry 30). -/
def Core.merges (k : Core) (line key : Nat) : Bool :=
  match k.sb.getLast? with
  | some e => e.line = line && e.key = key
  | none => false

/-- A buffer with a store of context x entered or merged. -/
def pushStore (l : List SbEntry) (merge : Bool) (x line key : Nat) (cells : List (Nat × Byte)) : List SbEntry :=
  match l.getLast?, merge with
  | some e, true => l.dropLast ++ [{ e with cells := e.cells ++ cells }]
  | _, _ => l ++ [⟨x, line, key, cells⟩]

/-- A store to a home NORMAL line: any L1 copy is updated and the store enters the buffer (R198). -/
def State.bufferStore (s : State) (p : Pos) (pa key : Nat) (bytes : List Byte) : State :=
  let s1 := s.modCore p.clus p.core (fun k => { k with
    l1 := k.l1.map (fun l => if l.line = pa / 64 && !l.foreign then { l with bytes := patchLine l.line l.bytes (cellsAt pa bytes) } else l),
    sb := pushStore k.sb (k.merges (pa / 64) key) p.ctx (pa / 64) key (cellsAt pa bytes) })
  s1.post .storePerformed { clus := p.clus, core := p.core }

/-- A store to a home SWM line: the bytes become valid and dirty in the L1 (R198). -/
def State.swmStore (s : State) (p : Pos) (pa key : Nat) (bytes : List Byte) : State :=
  let m := byteMask (pa % 64) bytes.length
  match (s.core p.clus p.core).l1Find (pa / 64) key with
  | some _ =>
    s.modCore p.clus p.core (fun k => { k with l1 := k.l1.map (fun l =>
      if l.line = pa / 64 && l.key = key then
        { l with swm := true, valid := l.valid ||| m, dirty := l.dirty ||| m, bytes := patchLine l.line l.bytes (cellsAt pa bytes) } else l) })
  | none =>
    ((s.dropLine p.clus p.core (pa / 64)).l1Room p.clus p.core).modCore p.clus p.core (fun k => { k with l1 := k.l1 ++
      [⟨pa / 64, false, true, key, m, m, patchLine (pa / 64) (List.replicate 64 0) (cellsAt pa bytes)⟩] })

/-! ### Floors and the reader cache (R201 to R204) -/

def Clus.floor (k : Clus) (owner : Nat) : Nat := Assoc.get 0 owner k.floors

/-- An owner's floor rises to a stamp; it never falls. A 513th owner evicts the oldest entry, with its lines (R203). -/
def Clus.raiseFloor (k : Clus) (owner stamp : Nat) : Clus :=
  if Assoc.has owner k.floors then { k with floors := Assoc.put owner (max (k.floor owner) stamp) k.floors }
  else
    match k.floors with
    | [] => { k with floors := [(owner, stamp)] }
    | (o, v) :: t =>
      if k.floors.length < 512 then { k with floors := (o, v) :: t ++ [(owner, stamp)] }
      else { k with floors := t ++ [(owner, stamp)], rcache := k.rcache.filter (fun l => l.owner ≠ o) }

/-- What a line that is filled anew with new bytes held before (R208). -/
def RcLine.past (x : RcLine) (bytes : List Byte) : List (List Byte) :=
  if x.bytes = bytes then x.olds else x.bytes :: x.olds.filter (· ≠ x.bytes)

/-- Put a line into the reader cache: 16,384 lines, the oldest leaves (R195; log entry 9). Its owner gets a floor entry. -/
def Clus.rcFill (k : Clus) (l : RcLine) : Clus :=
  let k1 := if Assoc.has l.owner k.floors then k else k.raiseFloor l.owner 0
  let same (x : RcLine) : Bool := x.line = l.line && x.key = l.key
  let olds := match k1.rcache.find? same with | some x => x.past l.bytes | none => l.olds
  let r := k1.rcache.filter (fun x => !same x)
  { k1 with rcache := (if r.length < 16384 then r else r.drop 1) ++ [{ l with olds := olds }] }

/-- The bytes a load reads from a line it hits. An .INV load of a line that changed after it was first filled reads any of the
values it has held: which one is a free value, drawn anew at each load (R208, R326; log entry 11). -/
def RcLine.read (l : RcLine) (inv : Bool) (draw : Nat) : List Byte :=
  if inv then (l.bytes :: l.olds).getD ((Config.freeWord draw).toNat % (l.olds.length + 1)) l.bytes else l.bytes

/-- The line a load may use: stamp at least the floor for a plain load, any stamp for an .INV load, which may so return an older
value after a newer one (R202, R208, R326). -/
def Clus.rcHit (k : Clus) (line key : Nat) (inv : Bool) : Option RcLine :=
  k.rcache.find? (fun l => l.line = line && l.key = key && (inv || k.floor l.owner ≤ l.stamp))

/-- owner_read of a line of this package: its bytes and the owner's count (R201). A foreign read of a core store that a
basting launch occupies returns zeros (R105). -/
def State.ownerRead (s : State) (pa key n : Nat) : List Byte × Nat :=
  let z := match paRegion pa with | .core m => s.bastCore (paClus pa) m | _ => false
  (if z then List.replicate n 0 else s.bytesAt pa key n, (s.clus (paClus pa)).pub)

/-! ### The checks of R210 -/

/-- What the checks of an access give. -/
inductive Acc where
  | ok (pa : Nat) (t : TlbEntry)
  | eff (e : Eff)

/-- Checks 1 to 7 of R210 for an access of the current context. devOk says that the access is one a DEVICE page takes. -/
def State.access (s : State) (sp : Space) (ea : DWord) (size : Nat) (acc : AccKind) (devOk : Bool) : Acc :=
  if ea.toNat % size ≠ 0 then .eff (.trap cALIGN ea acc.xinfo)
  else
    match s.translate s.cur.clus (.ctx s.cur) s.me.aspc sp ea acc with
    | .trap code => .eff (.trap code ea acc.xinfo)
    | .miss =>
      let t := s.startWalk s.cur.clus s.me.aspc sp ea acc (.ctx s.cur)
      .eff (.wait (if acc = .load then t.endTurn s.cur else t) .xlate)
    | .ok pa t =>
      if t.type = .sealed then .eff (.trap (if acc = .load then cSEALED_LOAD else cSEALED_WRITE) ea acc.xinfo)
      else if t.type = .device && !s.me.sys then .eff (.trap cPRIV ea acc.xinfo)
      else if t.type = .device && !devOk then .eff (.trap cDEVICE_ACCESS ea acc.xinfo)
      else if s.dead.getLsbD (paPkg pa) then .eff (.trap cDEAD_PEER ea acc.xinfo)
      else if acc = .atomic && s.poison.contains (pa / 64) && (s.shadowOf s.cur.clus s.me.bast pa).isNone then .eff (poisonEff s ea acc.xinfo)
      else .ok pa t

/-- Whether a physical address lies in a cluster of this package. -/
def State.isHome (s : State) (c pa : Nat) : Bool := paOwner pa = paOwner (mkPa s.pkg c 0)

/-- A release waits for every earlier store of the context (R300): the core's buffer drains. -/
def State.release (s : State) : State := s.drain s.cur.clus s.cur.core

end Sys2Proof.Machine
end

