-- ==== Sys2Proof/Machine/Tag.lean ====
section
/-! DEFINITION. Tags (R243, R244). -/

namespace Sys2Proof.Machine

/-- TAG_BUSY on a tag (R243). -/
def tagBusy (t : Nat) : Eff := .trap cTAG_BUSY 0 (BitVec.ofNat 32 t)

/-- Issue an operation on a tag for the current context: FREE becomes BUSY (R243). -/
def State.issueTag (s : State) (tag : Tag) (op : TagOp) (id : Nat) : State :=
  s.modMyCore (fun k => k.setTag tag.toNat ⟨.busy op, 0, (s.me.slot).getD 512, s.cur.ctx, id⟩)

/-- Continue where the tag is FREE (R228, R243). -/
def needFree (t : State) (tag : Tag) (k : Eff) : Eff := if (t.myCore.tag tag.toNat).st.isFree then k else tagBusy tag.toNat

def execTagwaitAny (d a : Reg) (s : State) : Out :=
  runInstr (.tagwaitAny d a) s (fun t =>
    let m := t.me.pair a
    let k := t.myCore
    let v := lowestTag m (fun i => (k.tag i).st.isDone)
    if m ≠ 0 && v = 64 then .wait t (.tagAny m d)
    else .done (t.modMe (fun c => { c.setReg d (BitVec.ofNat 32 v) with seen := k.doneOps m ++ c.seen })))

def execTagwaitAll (a : Reg) (s : State) : Out :=
  runInstr (.tagwaitAll a) s (fun t =>
    let m := t.me.pair a
    let k := t.myCore
    if lowestTag m (fun i => !(k.tag i).st.isDone) = 64 then .done (t.modMe (fun c => { c with seen := k.doneOps m ++ c.seen }))
    else .wait t (.tagAll m))

def execTagff (d a : Reg) (s : State) : Out :=
  runInstr (.tagff d a) s (fun t =>
    let m := t.me.pair a
    let k := t.myCore
    .done (t.modMe (fun c => { c.setReg d (BitVec.ofNat 32 (lowestTag m (fun i => (k.tag i).st.isDone))) with seen := k.doneOps m ++ c.seen })))

/-- Every DONE tag of a mask becomes FREE. -/
def Core.clearTags (k : Core) (m : DWord) : Core :=
  (List.range 64).foldl (fun k i => if m.getLsbD i && (k.tag i).st.isDone then k.setTag i { k.tag i with st := .free, err := 0 } else k) k

def execTagclr (a : Reg) (s : State) : Out :=
  runInstr (.tagclr a) s (fun t =>
    let m := t.me.pair a
    let b := lowestTag m (fun i => (t.myCore.tag i).st.isBusy)
    if b < 64 then tagBusy b else .done (t.modMyCore (fun k => k.clearTags m)))

/-- The status word of TAGTST (R244). -/
def TagRec.status (r : TagRec) : Word :=
  match r.st with
  | .free => 0
  | .busy _ => 2
  | .done => (r.err.setWidth 32 <<< 8) ||| (if r.err = 0 then 1 else 5)

def execTagtst (d : Reg) (tag : Tag) (s : State) : Out :=
  runInstr (.tagtst d tag) s (fun t =>
    let r := t.myCore.tag tag.toNat
    .done (t.modMe (fun c => { c.setReg d r.status with seen := (if r.st.isDone then [r.op] else []) ++ c.seen })))

end Sys2Proof.Machine
end

