-- ==== Sys2Proof/Machine/Redirect.lean ====
section
/-! DEFINITION. Images of saved teams (R379, R380): context records and where they lie, and the completions that a redirect entry
sends to an image (R381, R312). -/

namespace Sys2Proof.Machine

/-! ### Bytes of an image -/

def zeros (n : Nat) : List Byte := List.replicate n 0

/-- A list cut or filled with zeros to n bytes. -/
def padTo (n : Nat) (l : List Byte) : List Byte := (l.take n) ++ zeros (n - l.length)

/-- Write bytes through a cluster's home path under a key slot, one line after another. n bounds the number of lines. -/
def State.homeBytes (s : State) (c key pa : Nat) (l : List Byte) : Nat → State
  | 0 => s
  | n + 1 =>
    if l = [] then s
    else
      let k := 64 - pa % 64
      (s.performWrite c none key (cellsAt pa (l.take k))).homeBytes c key (pa + k) (l.drop k) n

def State.writeImg (s : State) (c key pa : Nat) (l : List Byte) : State := s.homeBytes c key pa l (l.length / 64 + 2)

/-! ### Context records (R380) -/

/-- The state of one stream in 384 bytes: the two descriptors, the pop index, the refill count and the tag; bit 63 of the tag's
word says that the octet is in stream mode, and its bits [15:8] hold the code of a refill that has failed (R380 gives the contents, not where they
lie; DESIGN CHOICE, log entry 29). -/
def encodeStream : Option Stream → List Byte
  | none => zeros 384
  | some x => padTo 384 (padTo 32 x.desc ++ padTo 128 x.rdesc ++ dwordBytes (BitVec.ofNat 64 x.pop) ++ dwordBytes (BitVec.ofNat 64 x.landed) ++
      dwordBytes (BitVec.ofNat 64 (2 ^ 63 + x.err.toNat * 256 + x.tag)))

def decodeStream (l : List Byte) : Option Stream :=
  let w0 := bytesDWord l
  let w1 := bytesDWord (l.drop 8)
  let w2 := bytesDWord (l.drop 0x10)
  let tg := bytesDWord (l.drop 0xB0)
  if !tg.getLsbD 63 then none
  else some
    { rf := w0.getLsbD 63, adv := 4 * 2 ^ (w0.extractLsb' 32 2).toNat, npop := (w0.extractLsb' 0 32).toNat,
      s1 := (w1.extractLsb' 32 32).toInt, e0 := (w1.extractLsb' 16 16).toNat, base := (w1.extractLsb' 0 15).toNat,
      logr := (w2.extractLsb' 20 4).toNat, pd := (w2.extractLsb' 0 15).toNat, pop := (bytesDWord (l.drop 0xA0)).toNat,
      tag := (tg.extractLsb' 0 6).toNat, landed := (bytesDWord (l.drop 0xA8)).toNat, err := tg.extractLsb' 8 8, pull := 0,
      desc := l.take 32, rdesc := (l.drop 32).take 128 }

def AnsKind.code : AnsKind → Nat
  | .send => 1
  | .sendt => 2
  | .enq => 3
  | .enqt => 4
  | .svc => 5

def AnsKind.ofCode : Nat → Option AnsKind
  | 1 => some .send
  | 2 => some .sendt
  | 3 => some .enq
  | 4 => some .enqt
  | 5 => some .svc
  | _ => none

/-- CST (R380). -/
def CtxSt.cst : CtxSt → Nat
  | .free => 0
  | .ready => 2
  | .blocked _ => 3
  | .halted => 4

/-- The word at 0x11C. -/
def Ctx.cstWord (c : Ctx) : Word :=
  BitVec.ofNat 32 (c.depth * 256 + c.st.cst * 16 + (if c.pdbg then 8 else 0) + (if c.ptrap.isSome then 4 else 0) + (if c.skipbp then 2 else 0) + (if c.intrap then 1 else 0))

/-- CONV: participation, and the ordinal of the leader's core. -/
def convWord (leader : Nat) : Option Convoy → Word
  | none => 0
  | some v => if v.id = 0 then 0 else BitVec.ofNat 32 (0x80 + (if v.leader then 0x40 else 0) + leader % 8)

/-- The answer a context awaits, or the oldest status of its ENQTs. -/
def Ctx.awaited (c : Ctx) : Option (AnsKind × Reg) :=
  match c.ans with
  | some a => some a
  | none => c.enqts.head?.map (fun r => (.enqt, r.1))

/-- ANS: the kind of answer awaited; the package keeps the register it goes to (R380). -/
def ansWord : Option (AnsKind × Reg) → DWord
  | none => 0
  | some a => BitVec.ofNat 64 a.1.code

/-- A context record: 2,048 bytes. -/
def encodeCtx (c : Ctx) (leader : Nat) : List Byte :=
  let d := fun (l : List DWord) => l.flatMap dwordBytes
  let pend := match c.pend with
    | none => zeros 16
    | some p => dwordBytes p.1 ++ dwordBytes (p.2.setWidth 64)
  let pev := match c.ptrap with
    | none => zeros 24
    | some t => dwordBytes (t.code.setWidth 64) ++ dwordBytes t.xaddr ++ dwordBytes (t.xinfo.setWidth 64)
  padTo 0x200
    (wordsBytes c.w.toList ++ wordsBytes c.m.toList ++ wordBytes c.cstWord ++
      d ([c.pc, c.xpc, c.tvec, c.xaddr] ++ c.bpa.toList ++ [c.retc]) ++
      wordsBytes ([c.xcause, c.xinfo, c.rmode, c.seed] ++ c.lcnt.toList) ++ zeros 4 ++ d (c.ls.toList ++ c.le.toList) ++ pend ++
      dwordBytes (ansWord c.awaited) ++ pev ++ wordBytes (convWord leader c.convoy) ++ wordBytes c.leasest) ++
    c.streams.toList.flatMap encodeStream

/-- Words and double words of a record at an offset. -/
def recW (l : List Byte) (ofs : Nat) : Word := bytesWord (l.drop ofs)
def recD (l : List Byte) (ofs : Nat) : DWord := bytesDWord (l.drop ofs)

/-- The context a record holds, over one that holds its position's registers. A member of a convoy has no queue (R128); conv is
the identity of its convoy. The register of the awaited answer is the package's (awaited). RMODE comes back as the record holds it: where
somebody has written RSV bits or a MODE that R74 does not allow into the image, which R74 and R380 do not speak of, an MFS reads them and such a
MODE rounds as RNE (DESIGN CHOICE, log entry 28). -/
def decodeCtx (l : List Byte) (b : Ctx) (conv : Nat) (awaited : Reg) : Ctx :=
  let f := recW l 0x11C
  let cst := (f.extractLsb' 4 4).toNat
  let cv := recW l 0x1E8
  let an := recD l 0x1C8
  let ans := (AnsKind.ofCode (an.extractLsb' 0 4).toNat).map (fun k => (k, awaited))
  let at_ := match ans with
    | some (.send, _) => CtxSt.blocked (.answer .send)
    | some (.enq, _) => .blocked (.answer .enq)
    | some (.svc, _) => .blocked (.answer .svc)
    | some (.sendt, _) => if cst = 3 then .blocked .result else .ready
    | some (.enqt, _) => if cst = 3 then .blocked .result else .ready
    | none => if cst = 3 then .blocked .result else .ready
  { b with
    w := Vector.ofFn (fun (i : Fin 64) => recW l (4 * i.val)),
    m := Vector.ofFn (fun (i : Fin 7) => recW l (0x100 + 4 * i.val)),
    depth := (f.extractLsb' 8 2).toNat,
    st := if cst = 4 then .halted else at_,
    pdbg := f.getLsbD 3,
    ptrap := if f.getLsbD 2 then some ⟨(recD l 0x1D0).setWidth 8, recD l 0x1D8, (recD l 0x1E0).setWidth 32⟩ else none,
    skipbp := f.getLsbD 1, intrap := f.getLsbD 0,
    pc := recD l 0x120, xpc := recD l 0x128, tvec := recD l 0x130, xaddr := recD l 0x138,
    bpa := Vector.ofFn (fun (i : Fin 4) => recD l (0x140 + 8 * i.val)),
    retc := recD l 0x160,
    xcause := recW l 0x168, xinfo := recW l 0x16C, rmode := recW l 0x170, seed := recW l 0x174,
    lcnt := Vector.ofFn (fun (i : Fin 3) => recW l (0x178 + 4 * i.val)),
    ls := Vector.ofFn (fun (i : Fin 3) => recD l (0x188 + 8 * i.val)),
    le := Vector.ofFn (fun (i : Fin 3) => recD l (0x1A0 + 8 * i.val)),
    pend := if recD l 0x1B8 = 0 && recD l 0x1C0 = 0 then none else some (recD l 0x1B8, (recD l 0x1C0).setWidth 32),
    ans := if ans.map (·.1) = some .enqt then none else ans,
    enqts := (match ans with
      | some (.enqt, r) => [(r, 0)]
      | _ => []),
    unready := (match ans with
      | some (.sendt, r) => [⟨r, 1, none⟩]
      | some (.enqt, r) => [⟨r, 1, none⟩]
      | _ => []),
    convoy := if cv.getLsbD 7 then some ⟨conv, cv.getLsbD 6, false, []⟩ else none,
    leasest := recW l 0x1EC,
    streams := Vector.ofFn (fun (i : Fin 4) => decodeStream ((l.drop (0x200 + 384 * i.val)).take 384)) }

/-! ### Where the sections lie (R379) -/

/-- The cores a team occupies, ascending. -/
def teamCores (pos : List (Nat × Nat)) : List Nat := (List.range 128).filter (fun n => pos.any (fun p => p.1 = n))

/-- The physical address of an image. -/
def Saved.base (v : Saved) (pkg c : Nat) : Nat := mkPa pkg c v.img

/-- Offset of the context record of index i, of the record of the core of ordinal j, and of what follows. -/
def Saved.ctxOfs (i : Nat) : Nat := 0x100 + 0x800 * i
def Saved.coreOfs (v : Saved) (j : Nat) : Nat := 0x100 + 0x800 * v.positions.length + 0x8400 * j

/-- Offset of the record of a core or of a context of the team. -/
def Saved.coreRec (v : Saved) (core : Nat) : Option Nat := ((teamCores v.positions).idxOf? core).map v.coreOfs
def Saved.ctxRec (v : Saved) (core ctx : Nat) : Option Nat := (v.positions.idxOf? (core, ctx)).map Saved.ctxOfs

/-- The saved team that awaits the answer of a number. -/
def Clus.savedAwaits (k : Clus) (num : Nat) : Option Saved := k.saved.find? (fun v => v.awaits.any (fun a => a.num = num))

/-- The saved team that an operation belongs to (R381), and what is known of the operation. -/
def Clus.savedOp (k : Clus) (op : Nat) : Option Saved := k.saved.find? (fun v => v.owned.any (fun e => e.op = op))
def Saved.opOf (v : Saved) (op : Nat) : Option SavedOp := v.owned.find? (fun e => e.op = op)

/-- Change a saved team; its image tells it from others. -/
def State.modSaved (s : State) (c : Nat) (v : Saved) (f : Saved → Saved) : State :=
  s.modClus c (fun k => { k with saved := k.saved.map (fun x => if x.slot = v.slot && x.img = v.img then f x else x) })

/-- Write bytes at an offset of a team's image; under a key slot that the cluster's function no longer holds nothing is written (R43). -/
def State.toImg (s : State) (c : Nat) (v : Saved) (ofs : Nat) (l : List Byte) : State :=
  if (s.clus c).holdsKey v.key then s.writeImg c v.key (v.base s.pkg c + ofs) l else s

/-- Bytes at an offset of a team's image. -/
def State.fromImg (s : State) (c : Nat) (v : Saved) (ofs n : Nat) : List Byte := s.bytesAt (v.base s.pkg c + ofs) v.key n

/-- OUT falls by one, in the header and, for the last saved team, in PRE_STAT; at 0 the image is SETTLED, and PRE_STAT.STATE where it still
reports that save (R376, R377). -/
def State.outDown (s : State) (c : Nat) (v : Saved) : State :=
  let n := v.out - 1
  let s1 := (s.modSaved c v (fun v => { v with out := n, settled := n = 0 })).toImg c v 0x18 (wordBytes (BitVec.ofNat 32 n))
  let s2 := if n = 0 then s1.toImg c v 0 [3] else s1
  s2.modClus c (fun k =>
    if k.pre.last = (v.slot, v.img) then { k with pre := { k.pre with out := n, state := if n = 0 && k.pre.state = 3 && k.pre.slot = v.slot then 4 else k.pre.state } } else k)

/-- A tag word of a core record (R380); each takes 8 bytes (R379, R425). -/
def tagWord (r : TagRec) (owned : Bool) : DWord :=
  if !owned then 0
  else
    let st := match r.st with | .free => 0 | .busy _ => 1 | .done => 2
    BitVec.ofNat 64 (2 ^ 16 + r.err.toNat * 256 + st)

/-- The registers that ENQTs of a saved context still go to, oldest first, with the numbers of their requests. -/
def Saved.enqts (v : Saved) (core ctx : Nat) : List (Reg × Nat) :=
  (v.awaits.filter (fun a => a.core = core && a.ctx = ctx && a.kind = 4)).map (fun a => (a.reg, a.num))

/-- The answer that a saved context awaits besides those of its ENQTs, or the oldest of these. -/
def Saved.awaited (v : Saved) (core ctx : Nat) : Option SavedAnswer :=
  match v.awaits.find? (fun a => a.core = core && a.ctx = ctx && a.kind ≠ 4) with
  | some a => some a
  | none => v.awaits.find? (fun a => a.core = core && a.ctx = ctx)

/-- The context at a position of an image, and its writing back. -/
def State.imgCtx (s : State) (c : Nat) (v : Saved) (ofs : Nat) (awaited : Reg) : Ctx := decodeCtx (s.fromImg c v ofs 0x800) Ctx.reset 8 awaited
def State.setImgCtx (s : State) (c : Nat) (v : Saved) (ofs : Nat) (x : Ctx) (leader : Nat) : State := s.toImg c v ofs (encodeCtx x leader)

/-- Change the context record of a position of a saved team. -/
def State.modImgCtx (s : State) (c : Nat) (v : Saved) (p : Pos) (f : Ctx → Ctx) : State :=
  match v.ctxRec p.core p.ctx with
  | some ofs => s.setImgCtx c v ofs (f { s.imgCtx c v ofs (((v.awaited p.core p.ctx).map (·.reg)).getD 0) with enqts := v.enqts p.core p.ctx })
      ((s.fromImg c v (ofs + 0x1E8) 1).headD 0).toNat
  | none => s

/-- Drop the first awaited answer that q accepts. -/
def dropAwait (q : SavedAnswer → Bool) : List SavedAnswer → List SavedAnswer
  | [] => []
  | a :: as => if q a then as else a :: dropAwait q as

/-- An awaited answer of one of the kinds has come. -/
def State.awaitEnds (s : State) (c : Nat) (v : Saved) (p : Pos) (kinds : List Nat) : State :=
  ((s.modSaved c v (fun v => { v with awaits := dropAwait (fun a => a.core = p.core && a.ctx = p.ctx && kinds.contains a.kind) v.awaits })).outDown c v)

/-- The streams of octets pop once (R240). -/
def Ctx.popped (c : Ctx) (ks : List Nat) : Ctx :=
  ks.foldl (fun x k => match x.stream k with | some t => x.setStream k (some { t with pop := t.pop + 1 }) | none => x) c

/-- The saved instruction completes in the image and pops the streams of the octets it read (R240, R312, R370). -/
def Ctx.imgDone (c : Ctx) (ks : List Nat) : Ctx := { (c.popped ks).completed (c.pc + 4) true with ans := none }
def Ctx.imgTrap (c : Ctx) (code : Byte) (xinfo : Word) : Ctx := { c with ans := none, ptrap := some ⟨code, 0, xinfo⟩, st := .ready }
def Ctx.imgStatus (c : Ctx) (r : Reg) (v : Word) : Ctx := { c.setReg r v with ans := none }

/-- The answer to SEND or SENDT at the saved context (R312). -/
def Ctx.imgAnswer (c : Ctx) (ks : List Nat) (a : MsgAns) : Ctx :=
  match c.ans with
  | some (.send, _) =>
    (match a with
     | .accept => c.imgDone ks
     | .full => { c with ans := none, st := .ready }
     | .notify => c
     | .refuse => c.imgTrap cPERM 0x32
     | .dead => c.imgTrap cDEAD_PEER 0)
  | some (.sendt, r) =>
    (match a with
     | .accept => c.imgStatus r 0
     | .full => c.imgStatus r 1
     | .refuse => c.imgStatus r 2
     | .dead => c.imgStatus r 3
     | .notify => c)
  | _ => c

/-- The status of the oldest ENQT or of ENQ at the saved context. -/
def Ctx.imgEnq (c : Ctx) (ks : List Nat) (status : Nat) : Ctx :=
  match c.enqts with
  | r :: rs => { c.setReg r.1 (BitVec.ofNat 32 status) with enqts := rs }
  | [] =>
    if c.ans.map (·.1) ≠ some .enq then c
    else if status = 0 then c.imgDone ks else if status = 1 then { c with ans := none, st := .ready } else c.imgTrap cPERM (BitVec.ofNat 32 (0x30 + status))

/-- Messages that a core record of the team holds. -/
def Saved.mailCount (v : Saved) (core : Nat) : Nat := (v.mail.filter (fun m => m.1 = core)).length

/-- The stream octets that a saved context's awaited instruction pops as it completes. -/
def Saved.pops (v : Saved) (p : Pos) : List Nat := ((v.awaited p.core p.ctx).map (·.pops)).getD []

/-- The streams of a saved context have popped: the last pop ends the stream's tag in the image, and a refill may fill the room (R239 to R241). -/
def State.imgPopped (s : State) (c : Nat) (v : Saved) (p : Pos) : List Nat → State
  | [] => s
  | k :: ks =>
    let s1 := match (v.ctxRec p.core p.ctx).bind (fun ofs => (s.imgCtx c v ofs 0).stream k), v.coreRec p.core with
      | some t, some o =>
        let w := recD (s.fromImg c v (o + 0x8200 + 8 * t.tag) 8) 0
        let u := if t.pop = t.npop && w.extractLsb' 0 2 = 1#2 then s.toImg c v (o + 0x8200 + 8 * t.tag) (dwordBytes (tagWord ⟨.done, 0, 0, 0, 0⟩ true)) else s
        (match v.refills.find? (fun (e : Nat × Nat × Nat × Nat) => e.1 = p.core && e.2.1 = p.ctx && e.2.2.1 = k) with
         | some e => u.post .pullData { id := e.2.2.2 }
         | none => u)
      | _, _ => s
    s1.imgPopped c v p ks

/-- A completion of a saved team is applied to its image (R381). -/
def State.applyCompletion (s : State) (c : Nat) (v : Saved) : Completion → State
  | .landing core a l =>
    (match v.coreRec core with
     | some o => s.toImg c v (o + a) l
     | none => s)
  | .tag core tag err =>
    (match v.coreRec core with
     | some o =>
       let s1 := s.toImg c v (o + 0x8200 + 8 * tag) (dwordBytes (tagWord ⟨.done, err, 0, 0, 0⟩ true))
       if v.owned.any (fun e => e.core = core && e.tag = tag) then
         (s1.modSaved c v (fun v => { v with owned := v.owned.filter (fun e => !(e.core = core && e.tag = tag)) })).outDown c v
       else s1
     | none => s)
  | .message p body =>
    (match v.coreRec p.core with
     | some o =>
       (s.toImg c v (o + 0x8000 + 32 * v.mailCount p.core) (wordsBytes (body.take 8))).modSaved c v (fun v => { v with mail := v.mail ++ [(p.core, p.ctx)] })
     | none => s)
  | .answer p a => if a = .notify then s else (let u := s.modImgCtx c v p (fun x => x.imgAnswer (v.pops p) a)
    if a = .accept then u.imgPopped c v p (v.pops p) else u).awaitEnds c v p [1, 2]
  | .enqStatus p st => if st = 4 then s else (let u := s.modImgCtx c v p (fun x => x.imgEnq (v.pops p) st)
    if st = 0 && (v.enqts p.core p.ctx).isEmpty then u.imgPopped c v p (v.pops p) else u).awaitEnds c v p (if (v.enqts p.core p.ctx).isEmpty then [3] else [4])
  | .svcReply p val =>
    ((s.modImgCtx c v p (fun x => match x.ans with
      | some (.svc, r) => (x.setReg r val).imgDone (v.pops p)
      | _ => x)).imgPopped c v p (v.pops p)).awaitEnds c v p [5]
  | .svcFail p code =>
    (s.modImgCtx c v p (fun x => match x.ans with
      | some (.svc, _) => x.imgTrap code 0
      | _ => x)).awaitEnds c v p [5]
  | .lease p st => s.modImgCtx c v p (fun x => { x with leasest := st })
  | .refill p k n =>
    s.modImgCtx c v p (fun x => match x.stream k with
      | some t => x.setStream k (some { t with landed := t.landed + n })
      | none => x)

/-- A tag's operation ends: on the live core, or in the image of the saved team it belongs to; with neither, nobody hears (R381,
R389). -/
def State.endOp (s : State) (c core tag op : Nat) (err : Byte) : State :=
  if ((s.core c core).tag tag).op = op && ((s.core c core).tag tag).st.isBusy then s.tagDone c core tag err
  else
    match (s.clus c).savedOp op with
    | some v => s.applyCompletion c v (.tag core tag err)
    | none => s

/-- Where a landing of an operation goes: addresses in the store of a core that the operation's saved team occupied lie in its
image (R381). -/
def State.landAddr (s : State) (v : Saved) (c a : Nat) : Nat :=
  if s.isHome c a then
    match paRegion a with
    | .core n => (match v.coreRec n with | some o => v.base s.pkg c + o + (paOfs a) % 0x8000 | none => a)
    | _ => a
  else a

/-- Cells and key slot of a landing, redirected for a saved team's operation. -/
def State.redirectCells (s : State) (c op key : Nat) (cells : List (Nat × Byte)) : Nat × List (Nat × Byte) :=
  match cells with
  | [] => (key, [])
  | (a, _) :: _ =>
    match (s.clus c).savedOp op with
    | none => (key, cells)
    | some v => if s.landAddr v c a = a then (key, cells) else (v.key, cells.map (fun e => (s.landAddr v c e.1, e.2)))

/-- The event REDIRECT_COMPLETION: a completion for the saved team of slot inp.slot of cluster inp.clus, whose image
lies at offset inp.id where that is not 0. -/
def execRedirectCompletion (s : State) : Out :=
  match (s.clus s.inp.clus).saved.find? (fun v => v.slot = s.inp.slot && (s.inp.id = 0 || v.img = s.inp.id)), s.inp.load with
  | some v, .completion e => .next (s.applyCompletion s.inp.clus v e)
  | _, _ => .next s

end Sys2Proof.Machine
end

