-- ==== Sys2Proof/Machine/Device.lean ====
section
/-! DEFINITION. The device-register window of a cluster: the roots (R35), TU_REPLY, TU_INV and TU_INVST (R373, R374), and
the service registers (R130, R131). -/

namespace Sys2Proof.Machine

/-! ### TU_REPLY (R373) -/

/-- A freed token goes to the oldest fault that waits for one. -/
def State.pumpFaults (s : State) (c : Nat) : State :=
  match (s.clus c).waitFaults with
  | [] => s
  | t :: ts => (s.modClus c (fun k => { k with waitFaults := ts })).postToken c t

/-- Free space in the service mailbox goes to the oldest message that waits (R372). -/
def State.pumpMsgs (s : State) (c : Nat) : State :=
  match (s.clus c).waitMsgs with
  | [] => s
  | m :: ms =>
    if (s.core c 0).mail.length < 16 then (s.modClus c (fun k => { k with waitMsgs := ms })).modCore c 0 (fun k => { k with mail := k.mail ++ [⟨3, m⟩] })
    else s

/-- The code FAIL delivers (R373). -/
def failCode (code : Byte) : Byte :=
  if (0x10#8 ≤ code && code ≤ 0x1F#8) || (0x40#8 ≤ code && code ≤ 0x45#8) then code else cPERM

/-- The token a reply names. -/
def Clus.tokenOf (k : Clus) (v : DWord) : Option Token := k.tokens.find? (fun t => t.token = (v.extractLsb' 48 16).toNat)

def State.dropToken (s : State) (c : Nat) (t : Token) : State :=
  s.modClus c (fun k => { k with tokens := k.tokens.filter (fun x => x.token ≠ t.token) })

/-- RETRY: every requester walks again; a SERVICE message is posted again. -/
def State.tuRetry (s : State) (c : Nat) (v : DWord) : State :=
  match (s.clus c).tokenOf v with
  | none => s
  | some t =>
    let s1 := (s.dropToken c t).pumpFaults c
    if t.kind = .service then s1.postToken c t
    else t.reqs.foldl (fun u r => u.wakeReq c r.1) s1

/-- FAIL: a context takes the code as a trap, an engine completes with it. -/
def State.tuFail (s : State) (c : Nat) (v : DWord) : State :=
  match (s.clus c).tokenOf v with
  | none => s
  | some t =>
    let code := failCode (v.extractLsb' 32 8)
    let s1 := (s.dropToken c t).pumpFaults c
    t.reqs.foldl (fun u r =>
      if t.kind = .service then
        match r.1 with
        | .ctx p =>
          if (u.ctx p).st = .blocked (.answer .svc) && (u.ctx p).ansId = t.num then
            (u.modCtx p (fun cx => { cx with ans := none })).takeTrap p code 0 0 (u.ctx p).pc
          else
            match (u.clus c).savedAwaits t.num with
            | some w => u.applyCompletion c w (.svcFail p code)
            | none => u
        | .engine _ _ => u
        | .front _ _ => u
        | .quiet _ => u
      else (u.failReq c code r.2.1 r.2.2.xinfo r.1).wakeReq c r.1) s1

/-- ANSWER: the SVC ends with VALUE in w(n); for a page fault it acts as RETRY. -/
def State.tuAnswer (s : State) (c : Nat) (v : DWord) : State :=
  match (s.clus c).tokenOf v with
  | none => s
  | some t =>
    if t.kind = .service then
      let s1 := (s.dropToken c t).pumpFaults c
      t.reqs.foldl (fun u r =>
        match r.1 with
        | .ctx p =>
          if (u.ctx p).st = .blocked (.answer .svc) && (u.ctx p).ansId = t.num then
            let d := match (u.ctx p).ans with | some a => a.2 | none => 0
            (u.modCtx p (fun cx => { cx.setReg d (v.extractLsb' 0 32) with ans := none })).completeAt p ((u.ctx p).pc + 4) true
          else
            match (u.clus c).savedAwaits t.num with
            | some w => u.applyCompletion c w (.svcReply p (v.extractLsb' 0 32))
            | none => u
        | .engine _ _ => u
        | .front _ _ => u
        | .quiet _ => u) s1
    else s.tuRetry c v

/-- A write of TU_REPLY, by its ACTION; an ACTION above 2 names none and does nothing. -/
def State.tuReply (s : State) (c : Nat) (v : DWord) : State :=
  let action := (v.extractLsb' 40 8).toNat
  if action = 0 then s.tuRetry c v else if action = 1 then s.tuFail c v else if action = 2 then s.tuAnswer c v else s

/-! ### TU_INV (R374) -/

/-- Whether a command names the page of a pin. -/
def TuInv.pins (v : TuInv) (p : Pin) : Bool :=
  v.cmd = 3 || (v.cmd = 2 && p.aspc = v.aspc) || (v.cmd = 1 && p.aspc = v.aspc && p.space = v.space && p.page = v.page)

/-- Pins still held on pages that running commands match. -/
def State.invPins (s : State) (c : Nat) : Nat :=
  ((s.pinned c).filter (fun p => (s.clus c).tuInv.any (fun v => v.pins p))).foldl (fun n p => n + p.count) 0

/-- A command whose earlier walks have ended and whose pages nothing pins is done. -/
def State.invStep (s : State) (c : Nat) : State :=
  let k := s.clus c
  let still := k.tuInv.filter (fun v => v.walks.any (fun i => k.walks.any (fun w => w.id = i)) || (s.pinned c).any (fun p => v.pins p))
  s.setClus c (if k.tuInv ≠ [] && still = [] then { k with tuInv := [], tuDone := true } else { k with tuInv := still })

/-- The command a write of TU_INV starts, or none. -/
def Clus.tuInvOf (k : Clus) (v : DWord) : Option TuInv :=
  let cmd := (v.extractLsb' 60 4).toNat
  if cmd = 0 || 4 ≤ cmd then none
  else some ⟨cmd, (v.extractLsb' 56 4).toNat, if v.getLsbD 55 then .home else .read, (v.extractLsb' 12 36).toNat, k.walks.map (·.id)⟩

/-- Whether a command may name pages of an address space's read table: what holds a translation of one takes it anew. -/
def TuInv.reads (v : TuInv) (aspc : Nat) : Bool := v.cmd = 3 || (v.aspc = aspc && (v.cmd = 2 || v.space = .read))

/-- A collective forgets the translations that a command may name. -/
def Coll.unpaged (c : Coll) (v : TuInv) : Coll :=
  { c with pages := if v.reads c.aspc then [] else c.pages, dstPages := if v.reads c.aspc then [] else c.dstPages,
           areaPages := if v.cmd = 3 || (v.aspc = c.aspc && (v.cmd = 2 || v.space = .home)) then [] else c.areaPages }

/-- A write of TU_INV: every matching entry leaves every TLB of the cluster, and what engines hold of such pages besides the pins of R229;
then the command waits (R374). -/
def State.tuInvWrite (s : State) (c : Nat) (v : DWord) : State :=
  match (s.clus c).tuInvOf v with
  | none => s
  | some n =>
    let s1 : State := { s with
      cores := s.cores.map (fun e => if e.1.1 = c then (e.1, { e.2 with tlb := e.2.tlb.filter (fun t => !n.covers t) }) else e),
      tiles := s.tiles.map (fun e => if e.1.1 = c then (e.1, { e.2 with cmds := e.2.cmds.map (fun m => if n.reads m.aspc then { m with pages := [] } else m) }) else e),
      colls := s.colls.map (fun e => if e.1 = c then (e.1, e.2.map (fun x => x.unpaged n)) else e) }
    (s1.modClus c (fun k => { k with tlb := k.tlb.filter (fun t => !n.covers t), tuInv := k.tuInv ++ [n], tuDone := false })).invStep c

/-- TU_INVST. -/
def State.tuInvst (s : State) (c : Nat) : DWord :=
  let k := s.clus c
  BitVec.ofNat 64 (s.invPins c * 2 ^ 32 + (if k.tuDone then 2 else 0) + (if k.tuInv = [] then 0 else 1))

/-! ### The service context (R130, R131) -/

/-- Whether the cluster holds no placed team and no basting launch, which a write to the service registers asks. -/
def State.noTeam (s : State) (c : Nat) : Bool :=
  s.ctxs.all (fun e => e.1.clus ≠ c || e.2.slot = none) && s.bastings.all (fun e => !e.2.clusters.contains c)

/-- RSV bits of SVC_CTL stay 0. -/
def svcCtlMask (v : DWord) : DWord := v &&& 0x800FFFFFFFFFFFFF#64

/-- Whether R131 refuses a service program: the registers it is started with. -/
def Clus.svcBad (k : Clus) (ctl ent : DWord) : Bool :=
  let pages := (ctl.extractLsb' 0 12).toNat
  let eofs := (ent.extractLsb' 0 32).toNat
  let tveco := (ent.extractLsb' 32 32).toNat
  let aspc := (ctl.extractLsb' 48 4).toNat
  pages = 0 || eofs % 2 = 1 || tveco % 2 = 1 || pages * 4096 ≤ eofs || pages * 4096 ≤ tveco ||
    (k.rroot.toList.getD aspc 0).toNat / 4096 = 0

/-- The state a service context starts in (R61, R131). -/
def svcStart (ctl ent : DWord) : Ctx :=
  let base := (ctl.extractLsb' 12 36).toNat * 4096
  { Ctx.reset with
    pc := BitVec.ofNat 64 (base + (ent.extractLsb' 0 32).toNat), tvec := codeAddr (BitVec.ofNat 64 (base + (ent.extractLsb' 32 32).toNat)),
    seed := 1, lnch := 0xFFFFFFFF, st := .ready, aspc := (ctl.extractLsb' 48 4).toNat, cbase := base,
    cpages := (ctl.extractLsb' 0 12).toNat, sys := true }

/-- The tags of a core that a team slot owns, or with 512 the service context, become FREE; what they stood for is no longer heard. -/
def Core.dropTags (k : Core) (team : Nat) : Core :=
  { k with tags := k.tags.map (fun r => if r.team = team && !r.st.isFree then TagRec.reset else r) }

/-- What a context waits for is forgotten: its walk, its page-fault reply, its load (R394). A SERVICE message keeps its sender: the answer finds
a saved context by its number, and no other (R381). -/
def State.cancelWaits (s : State) (p : Pos) : State :=
  let mine : Requester → Bool := fun r => match r with
    | .ctx q => q = p
    | .engine q _ => q = p
    | .front _ _ => false
    | .quiet (.page q _) => q = p
    | .quiet _ => false
  ({ s with
      outReads := s.outReads.filter (fun o => !(o.who = .load p) && (match o.who with | .fetch q _ _ => q ≠ p | .group q _ => q ≠ p | _ => true)),
      queues := s.queues.map (fun e => (e.1, { e.2 with enqs := e.2.enqs.filter (· ≠ p) })) } : State).modClus p.clus (fun k =>
    { k with walks := k.walks.map (fun w => { w with reqs := w.reqs.filter (fun r => !mine r) }),
             tokens := k.tokens.map (fun t => if t.kind = .service then t else { t with reqs := t.reqs.filter (fun r => !mine r.1) }),
             xfails := k.xfails.filter (fun x => !mine x.1) })

/-- The service program's run is over: what it waits for, its submission and its tags are forgotten, and the context is FREE (R131, R61). -/
def State.svcGone (s : State) (c : Nat) : State :=
  ((((s.cancelWaits (svcPos c)).subGone (svcPos c)).modCore c 0 (fun x => x.dropTags 512)).setCtx (svcPos c) Ctx.reset)

/-- An accepted write of SVC_CTL: EN starts or refuses the context, a clear EN frees it; the run of a former program leaves nothing (R131, R61). Setting EN again while it
stands changes the register only. -/
def State.svcCtlWrite (s : State) (c : Nat) (v : DWord) : State :=
  if !s.noTeam c then s
  else
    let k := s.clus c
    let ctl := svcCtlMask v
    let s1 := s.modClus c (fun k => { k with svcCtl := ctl })
    if !ctl.getLsbD 63 then (s1.modClus c (fun k => { k with svcStat := 0 })).svcGone c
    else if k.svcCtl.getLsbD 63 then s1
    else if k.svcBad ctl k.svcEnt then (s1.svcGone c).modClus c (fun k => { k with svcStat := 3 })
    else ((s1.svcGone c).modClus c (fun k => { k with svcStat := 1 })).setCtx (svcPos c) (svcStart ctl k.svcEnt)

/-! ### Registers by offset -/

/-- Offset of a register of the window that a read may name: 8 bytes at a multiple of 8; one the spec does not list reads 0
(log entry 20). -/
def State.devRead (s : State) (c ofs : Nat) : DWord :=
  let k := s.clus c
  let r := ofs / 8 * 8
  if r < 0x100 then
    (if r % 16 = 0 then k.rroot.toList.getD (r / 16) 0 else k.hroot.toList.getD (r / 16) 0)
  else if r = 0x110 then s.tuInvst c
  else if r = 0x1000 then k.svcCtl
  else if r = 0x1008 then k.svcEnt
  else if r = 0x1010 then BitVec.ofNat 64 k.svcStat
  else if r = 0x1108 then
    BitVec.ofNat 64 (k.pre.out % 2 ^ 32 * 2 ^ 32 + k.pre.err % 256 * 2 ^ 16 + k.pre.slot % 256 * 2 ^ 8 + k.pre.state % 256)
  else if r = 0x1208 then k.dbg.data
  else if r = 0x1210 then
    BitVec.ofNat 64 (k.dbg.code.toNat * 256 + (if k.dbg.err then 8 else 0) + (if k.dbg.done then 2 else 0) + (if k.dbg.busy then 1 else 0))
  else 0

def Clus.setRoot (k : Clus) (r : Nat) (v : DWord) : Clus :=
  if h : r / 16 < 16 then
    if r % 16 = 0 then { k with rroot := k.rroot.set (r / 16) v h } else { k with hroot := k.hroot.set (r / 16) v h }
  else k

/-- A refused command sets STATE to 0xFF and ERR, and changes nothing else. -/
def State.preRefuse (s : State) (c err : Nat) : State := s.modClus c (fun k => { k with pre := { k.pre with state := 0xFF, err := err } })

/-- A write of the 8 bytes of a register that is no command of R376 or R386. -/
def State.devWritePlain (s : State) (c ofs : Nat) (v : DWord) : State :=
  let r := ofs / 8 * 8
  if r < 0x100 then s.modClus c (fun k => k.setRoot r v)
  else if r = 0x100 then s.tuReply c v
  else if r = 0x108 then s.tuInvWrite c v
  else if r = 0x1000 then s.svcCtlWrite c v
  else if r = 0x1008 then (if s.noTeam c then s.modClus c (fun k => { k with svcEnt := v }) else s)
  else if r = 0x1208 then s.modClus c (fun k => { k with dbg := { k.dbg with data := v } })
  else s

end Sys2Proof.Machine
end

