-- ==== Sys2Proof/Machine/Flags.lean ====
section
/-! DEFINITION. Conditions and modes: the integer conditions of R153, rounding control (R74, R75), the generator of R77.
The machine has no arithmetic status flags (R164). -/

namespace Sys2Proof.Machine

/-- An integer condition over two values of n bits (R153). -/
def Cc.holds {n : Nat} (c : Cc) (a b : BitVec n) : Bool :=
  match c with
  | .eq => a == b
  | .ne => a != b
  | .lt => a.slt b
  | .ge => !(a.slt b)
  | .ltu => a.ult b
  | .geu => !(a.ult b)

/-- RMODE.DZE: integer division by zero traps (R74). -/
def Ctx.dze (c : Ctx) : Bool := c.rmode.getLsbD 8
/-- RMODE.SATC: a conversion overflow saturates (R74). -/
def Ctx.satc (c : Ctx) : Bool := c.rmode.getLsbD 9

/-- The five rounding modes of R74. -/
inductive RMode where
  | rne | rtz | rdn | rup | rsto
  deriving DecidableEq, Repr

/-- RMODE.MODE. R74 lets MTS write none of the three values that name no mode, but a resumed image's RMODE word comes back as it stands, RSV bits
and all, since R380 and R382 name no check of it: a MODE that names no mode then acts as RNE (DESIGN CHOICE, log entry 28). -/
def Ctx.dynMode (c : Ctx) : RMode :=
  match (c.rmode.extractLsb' 0 3).toNat with
  | 2 => .rtz
  | 3 => .rdn
  | 4 => .rup
  | 5 => .rsto
  | _ => .rne

/-- The mode a rounding code selects (R75). -/
def Ctx.rmodeOf (c : Ctx) : Rc → RMode
  | .dyn => c.dynMode
  | .rne => .rne
  | .rtz => .rtz
  | .rdn => .rdn
  | .rup => .rup
  | .rsto => .rsto

/-- Whether MTS may set RMODE to a value (R74). -/
def rmodeLegal (v : Word) : Bool :=
  let m := v.extractLsb' 0 3
  m ≠ 0 && m ≠ 6 && m ≠ 7

/-- One step of the generator of R77. -/
def xsStep (seed : Word) : Word :=
  let x := seed ^^^ (seed <<< 13)
  let y := x ^^^ (x >>> 17)
  y ^^^ (y <<< 5)

end Sys2Proof.Machine
end

