-- ==== Sys2Proof/Machine/LoadStore.lean ====
section
/-! DEFINITION. Loads, stores, LDL and STL (R205 to R215), and what LOAD_REPLY and READ_REPLY do for a load. -/

namespace Sys2Proof.Machine

/-- The words a load writes: sign or zero extension for 1 and 2 bytes (R205). -/
def loadWords (size words : Nat) (signed : Bool) (l : List Byte) : List Word :=
  if size = 1 then [if signed then (l.getD 0 0).signExtend 32 else (l.getD 0 0).setWidth 32]
  else if size = 2 then
    let h : BitVec 16 := l.getD 1 0 ++ l.getD 0 0
    [if signed then h.signExtend 32 else h.setWidth 32]
  else bytesWords words l

/-- Bytes k to k + n - 1 of a line. -/
def sliceLine (l : List Byte) (k n : Nat) : List Byte := (l.drop k).take n

/-- The L1 line a load may hit: home lines and foreign SWM lines, with every byte valid (R206). -/
def State.l1Load (s : State) (p : Pos) (r : LoadReq) : Option L1Line :=
  match (s.core p.clus p.core).l1Find (r.pa / 64) r.key with
  | none => none
  | some l =>
    let m := byteMask (r.pa % 64) r.size
    if l.valid &&& m ≠ m then none
    else if l.foreign then (if r.swm && r.ord ≠ .acq then some l else none)
    else some l

/-- Write a load's result into its destination. -/
def Ctx.loaded (c : Ctx) (r : LoadReq) (l : List Byte) : Ctx := c.setGroup r.dst (loadWords r.size r.words r.signed l)

/-- A load that has passed its checks: an L1 hit ends at once, anything else is an off-core reference (R206). -/
def loadAt (t : State) (r : LoadReq) : Eff :=
  let hit := if t.me.basting || (paRegion r.pa).isCore || paRegion r.pa = .device then none else t.l1Load t.cur r
  match hit with
  | some l =>
    let t1 := if r.ord = .acq then t.modClus t.cur.clus Clus.acquired else t
    .done (t1.modMe (fun c => c.loaded r (sliceLine l.bytes (r.pa % 64) r.size)))
  | none => .wait (t.post .loadReply { pos := t.cur }) (.load r)

/-- A load of a size from a space (R206). -/
def load (i : Instr) (sp : Space) (size words : Nat) (signed : Bool) (o : LdOrd) (d a : Reg) (off : BitVec 10) (s : State) : Out :=
  runInstr i s (fun t =>
    let ea := t.me.pair a + off.signExtend 64 * BitVec.ofNat 64 size
    match t.access sp ea size .load (o = .plain && (size = 4 || size = 8)) with
    | .eff e => e
    | .ok pa x => loadAt t ⟨d, words, size, signed, o, pa, x.key, x.type = .swm, ea, Instr.len i⟩)

def execLdbH (o : LdOrd) (d a : Reg) (i : BitVec 10) (s : State) : Out := load (.ldbH o d a i) .home 1 1 true o d a i s
def execLdbuH (o : LdOrd) (d a : Reg) (i : BitVec 10) (s : State) : Out := load (.ldbuH o d a i) .home 1 1 false o d a i s
def execLdhH (o : LdOrd) (d a : Reg) (i : BitVec 10) (s : State) : Out := load (.ldhH o d a i) .home 2 1 true o d a i s
def execLdhuH (o : LdOrd) (d a : Reg) (i : BitVec 10) (s : State) : Out := load (.ldhuH o d a i) .home 2 1 false o d a i s
def execLdwH (o : LdOrd) (d a : Reg) (i : BitVec 10) (s : State) : Out := load (.ldwH o d a i) .home 4 1 false o d a i s
def execLddH (o : LdOrd) (d a : Reg) (i : BitVec 10) (s : State) : Out := load (.lddH o d a i) .home 8 2 false o d a i s
def execLdqH (o : LdOrd) (d a : Reg) (i : BitVec 10) (s : State) : Out := load (.ldqH o d a i) .home 16 4 false o d a i s
def execLdoH (o : LdOrd) (d a : Reg) (i : BitVec 10) (s : State) : Out := load (.ldoH o d a i) .home 32 8 false o d a i s
def execLdbG (o : LdOrd) (d a : Reg) (i : BitVec 10) (s : State) : Out := load (.ldbG o d a i) .read 1 1 true o d a i s
def execLdbuG (o : LdOrd) (d a : Reg) (i : BitVec 10) (s : State) : Out := load (.ldbuG o d a i) .read 1 1 false o d a i s
def execLdhG (o : LdOrd) (d a : Reg) (i : BitVec 10) (s : State) : Out := load (.ldhG o d a i) .read 2 1 true o d a i s
def execLdhuG (o : LdOrd) (d a : Reg) (i : BitVec 10) (s : State) : Out := load (.ldhuG o d a i) .read 2 1 false o d a i s
def execLdwG (o : LdOrd) (d a : Reg) (i : BitVec 10) (s : State) : Out := load (.ldwG o d a i) .read 4 1 false o d a i s
def execLddG (o : LdOrd) (d a : Reg) (i : BitVec 10) (s : State) : Out := load (.lddG o d a i) .read 8 2 false o d a i s
def execLdqG (o : LdOrd) (d a : Reg) (i : BitVec 10) (s : State) : Out := load (.ldqG o d a i) .read 16 4 false o d a i s
def execLdoG (o : LdOrd) (d a : Reg) (i : BitVec 10) (s : State) : Out := load (.ldoG o d a i) .read 32 8 false o d a i s

/-! ### Replies to loads -/

/-- A load ends with data (R206). -/
def State.loadDone (s : State) (p : Pos) (r : LoadReq) (l : List Byte) : State :=
  ((s.modCtx p (fun c => c.loaded r l)).completeAt p ((s.ctx p).pc + BitVec.ofNat 64 r.len) true).haltedAt p

/-- A load ends in a trap (checks 8 and 9 of R210). In a context that a save has halted the trap becomes pending and the PC follows the load, as
where it completes (R378). -/
def State.loadTrap (s : State) (p : Pos) (r : LoadReq) (code : Byte) : State :=
  if (s.ctx p).parked then
    (s.takeTrap p code r.xaddr 0 (s.ctx p).pc).modCtx p (fun c => { c.completed (c.pc + BitVec.ofNat 64 r.len) true with retc := c.retc })
  else s.takeTrap p code r.xaddr 0 (s.ctx p).pc

/-- Whether some byte of the line is still an unfenced landing. -/
def Clus.lineUnfenced (k : Clus) (line : Nat) : Bool := k.unfenced.any (fun u => u.unit / 2 = line && u.stale.contains .c)

/-- The device register bytes a load of a window address reads (R212). -/
def State.devBytes (s : State) (c pa n : Nat) : List Byte :=
  ((dwordBytes (s.devRead c (paOfs pa - 0x800000000))).drop (pa % 8)).take n

/-- A load of the cluster's own memory (R206): the core's stores drain, bytes the L1 holds win, the line is filled. -/
def State.homeLoad (s0 : State) (p : Pos) (r : LoadReq) : State :=
  let s := s0.drain p.clus p.core
  let c := s.ctx p
  match s.shadowOf p.clus c.bast r.pa with
  | some l => (if r.ord = .acq then s.modClus p.clus Clus.acquired else s).loadDone p r (sliceLine l (r.pa % 64) r.size)
  | none =>
    if s.poison.contains (r.pa / 64) then (s.sawPoison c.bast).loadTrap p r cDEAD_PEER
    else if paRegion r.pa = .device then s.loadDone p r (s.devBytes p.clus r.pa r.size)
    else
      let s1 := s.noteRead c.bast r.pa
      let k := s1.core p.clus p.core
      let home := s1.homeRead p r.pa r.key r.size
      let l1 := if c.basting then none else k.l1.find? (fun l => l.line = r.pa / 64 && l.key = r.key && !l.foreign)
      let data := (List.range r.size).map (fun j =>
        match l1 with
        | some l => if l.dirty.getLsbD (r.pa % 64 + j) then l.bytes.getD (r.pa % 64 + j) 0 else home.getD j 0
        | none => home.getD j 0)
      let s2 := if (s1.clus p.clus).lineUnfenced (r.pa / 64) || c.basting || (paRegion r.pa).isCore then s1
        else s1.l1Fill p.clus p.core ⟨r.pa / 64, false, r.swm, r.key, BitVec.allOnes 64, 0, s1.bytesAt (r.pa / 64 * 64) r.key 64⟩
      let s3 := if r.ord = .acq then s2.modClus p.clus Clus.acquired else s2
      s3.loadDone p r data

/-- A load of another cluster's memory, from a line and the stamp of the reply that brought it (R204, R206). -/
def State.foreignLoad (s : State) (p : Pos) (r : LoadReq) (line : List Byte) (stamp : Nat) (fresh : Bool) : State :=
  let c := s.ctx p
  let owner := paOwner r.pa
  let cached := !c.basting && !((paRegion r.pa).isCore)
  let s1 := if cached && fresh then s.modClus p.clus (fun k => k.rcFill ⟨r.pa / 64, r.key, owner, stamp, line, []⟩) else s
  let s2 := if cached && r.swm then s1.l1Fill p.clus p.core ⟨r.pa / 64, true, true, r.key, BitVec.allOnes 64, 0, line⟩ else s1
  let s3 := if r.ord = .acq then s2.modClus p.clus (fun k => (k.raiseFloor owner stamp).acquired) else s2
  s3.loadDone p r (sliceLine line (r.pa % 64) r.size)

/-- LOAD_REPLY for a context whose load waits: own memory, the reader cache, an owner port of this package, or a request to
another package. -/
def State.loadReply (s : State) (p : Pos) (r : LoadReq) : State :=
  let c := s.ctx p
  if s.isHome p.clus r.pa then s.homeLoad p r
  else
    let inv := r.ord = .inv && !r.swm
    match (if c.basting || r.ord = .acq then none else (s.clus p.clus).rcHit (r.pa / 64) r.key inv) with
    | some l => (if inv then s.drew else s).foreignLoad p r (l.read inv s.freeCtr) l.stamp false
    | none =>
      if paPkg r.pa ≠ s.pkg then
        s.askPkg p.clus (r.pa / 64 * 64) r.key 64 (.load p)
      else if s.ownerRefuses (s.clus p.clus).fn r.pa then s.loadTrap p r cPERM
      else if s.poison.contains (r.pa / 64) then (s.sawPoison c.bast).loadTrap p r cDEAD_PEER
      else
        let x := s.ownerRead (r.pa / 64 * 64) r.key 64
        (s.noteRead c.bast r.pa).foreignLoad p r x.1 x.2 true

/-- The event LOAD_REPLY: without a load outstanding for the context it has no effect. -/
def execLoadReply (s : State) : Out :=
  match (s.ctx s.inp.pos).st with
  | .blocked (.load r) => .next (s.loadReply s.inp.pos r)
  | _ => .next s

/-! ### Stores (R211 to R213) -/

/-- A write of a device register by a context: 8 bytes, or the 4 bytes of a half; a half of a register with a WO field is
ignored (R212). -/
def State.devStore (s : State) (c pa : Nat) (bytes : List Byte) : State :=
  let ofs := paOfs pa - 0x800000000
  let r := ofs / 8 * 8
  let wo := r = 0x100 || r = 0x108 || r = 0x1100 || r = 0x1200
  if bytes.length = 8 then
    let v := bytesDWord bytes
    let fn := (s.clus c).fn
    if r = 0x1100 then
      let cmd := (v.extractLsb' 60 4).toNat
      if cmd = 1 then s.post .preSave { fn := fn, clus := c, val := v }
      else if cmd = 2 then s.post .preResume { fn := fn, clus := c, val := v }
      else if cmd = 3 then s.post .preDrop { fn := fn, clus := c, val := v }
      else if (s.clus c).pre.run ≠ 0 then s.preRefuse c 6
      else s
    else if r = 0x1200 then
      if (v.extractLsb' 60 4).toNat = 1 then s.post .dbgRead { fn := fn, clus := c, val := v }
      else if (v.extractLsb' 60 4).toNat = 2 then s.post .dbgWrite { fn := fn, clus := c, val := v }
      else s
    else s.devWritePlain c r v
  else if wo then s
  else
    let old := dwordBytes (s.devRead c r)
    s.devWritePlain c r (bytesDWord (if ofs % 8 < 4 then bytes ++ old.drop 4 else old.take 4 ++ bytes))

/-- A store that has passed its checks (R212). A service program that clears its own EN is FREE and does not go on (R131). -/
def storeAt (t : State) (pa : Nat) (x : TlbEntry) (bytes : List Byte) : Eff :=
  let p := t.cur
  if x.type = .device then
    let u := t.devStore p.clus pa bytes
    if u.me.st = .free then .final u else .done u
  else if t.me.basting then .done (t.homeWrite p.clus t.me.bast (some p.core) x.key (cellsAt pa bytes))
  else if (paRegion pa).isCore then .done ((t.drain p.clus p.core).homeWrite p.clus none none x.key (cellsAt pa bytes))
  else if paRegion pa = .hole then .stop .hole
  else if x.type = .swm then .done (t.swmStore p pa x.key bytes)
  else if 8 ≤ t.myCore.sb.length && !t.myCore.merges (pa / 64) x.key then .wait (t.post .storePerformed { clus := p.clus, core := p.core }) .buffer
  else .done (t.bufferStore p pa x.key bytes)

/-- A store of a size (R212). -/
def store (i : Instr) (size words : Nat) (o : StOrd) (d a : Reg) (off : BitVec 10) (s : State) : Out :=
  runInstr i s (fun t =>
    let ea := t.me.pair a + off.signExtend 64 * BitVec.ofNat 64 size
    match t.access .home ea size .store (size = 4 || size = 8) with
    | .eff e => e
    | .ok pa x => storeAt (if o = .rel then t.release else t) pa x ((wordsBytes (t.me.group d words)).take size))

def execStb (o : StOrd) (d a : Reg) (i : BitVec 10) (s : State) : Out := store (.stb o d a i) 1 1 o d a i s
def execSth (o : StOrd) (d a : Reg) (i : BitVec 10) (s : State) : Out := store (.sth o d a i) 2 1 o d a i s
def execStw (o : StOrd) (d a : Reg) (i : BitVec 10) (s : State) : Out := store (.stw o d a i) 4 1 o d a i s
def execStd (o : StOrd) (d a : Reg) (i : BitVec 10) (s : State) : Out := store (.std o d a i) 8 2 o d a i s
def execStq (o : StOrd) (d a : Reg) (i : BitVec 10) (s : State) : Out := store (.stq o d a i) 16 4 o d a i s
def execSto (o : StOrd) (d a : Reg) (i : BitVec 10) (s : State) : Out := store (.sto o d a i) 32 8 o d a i s

/-- The event STORE_PERFORMED: the oldest store of a core's buffer takes its place in home order (R198, R212). -/
def execStorePerformed (s : State) : Out := .next (s.performOldest s.inp.clus s.inp.core)

/-- The event L1_EVICTION: a core's L1 gives up a line, dirty bytes first written back (R199). -/
def execL1Eviction (s : State) : Out :=
  .next (((s.core s.inp.clus s.inp.core).l1.filter (fun l => l.line = s.inp.n)).foldl (fun u l => u.evictLine s.inp.clus s.inp.core l) s)

/-! ### LDL and STL (R215) -/

/-- The core-store address and its checks; XINFO[5:4] gives the kind. -/
def coreAccess (t : State) (w : Width) (a : Reg) (off : BitVec 10) (kind : Word) (k : Nat → Eff) : Eff :=
  let n := 4 * w.words
  let ea := t.me.reg a + off.signExtend 32 * 4
  if ea.toNat % n ≠ 0 then .trap cALIGN (ea.setWidth 64) kind
  else if 0x8000 ≤ ea.toNat then .trap cPERM (ea.setWidth 64) kind
  else k ea.toNat

def execLdl (w : Width) (d a : Reg) (i : BitVec 10) (s : State) : Out :=
  runInstr (.ldl w d a i) s (fun t =>
    coreAccess t w a i 0 (fun ea =>
      let pa := corePa t.pkg t.cur.clus t.cur.core ea
      if t.poison.contains (pa / 64) then poisonEff t (BitVec.ofNat 64 ea) 0 else
      let l := t.homeRead t.cur pa 0 (4 * w.words)
      .done (t.modMe (fun c => c.setGroup d (bytesWords w.words l)))))

def execStl (w : Width) (d a : Reg) (i : BitVec 10) (s : State) : Out :=
  runInstr (.stl w d a i) s (fun t =>
    coreAccess t w a i 0x10 (fun ea =>
      .done (t.performWrite t.cur.clus none 0 (cellsAt (corePa t.pkg t.cur.clus t.cur.core ea) (wordsBytes (t.me.group d w.words))))))

end Sys2Proof.Machine
end

