-- ==== Sys2Proof/Machine/Atomic.lean ====
section
/-! DEFINITION. ATOM (R216 to R218), the fences (R219, R220), RWB, RINV and CLEAN (R221 to R223). -/

namespace Sys2Proof.Machine

/-! ### ATOM -/

/-- The bytes at an address as the atomic unit sees them for a context: the shadow line of a basting launch, else home. -/
def State.unitRead (s : State) (c : Nat) (bast : Option Nat) (pa key n : Nat) : List Byte :=
  match s.shadowOf c bast pa with
  | some l => sliceLine l (pa % 64) n
  | none => s.bytesAt pa key n

/-- One indivisible read-modify-write of the atomic unit at home: f gives the new bytes, nothing where it writes nothing.
The core's own line goes home first (R217, R299). -/
def State.unitWrite (s : State) (p : Pos) (bast : Option Nat) (pa key : Nat) (new : Option (List Byte)) : State :=
  match new with
  | none => s
  | some l => s.homeWrite p.clus bast none key (cellsAt pa l)

/-- Before the atomic unit acts for the current context: its stores are performed, its L1's copy of the line goes home. -/
def State.unitReady (s : State) (pa : Nat) : State :=
  let t := s.drain s.cur.clus s.cur.core
  if s.me.basting then t else t.dropLine s.cur.clus s.cur.core (pa / 64)

/-- ATOM with an operation at 4 and 8 bytes (R217): old value, operand, value of d before. The result reaches d later
(R218). -/
def atom (i : Instr) (f1 : Word → Word → Word → Word) (f2 : DWord → DWord → DWord → DWord) (o : AtOrd) (w : Width)
    (d a b : Reg) (s : State) : Out :=
  runInstr i s (fun t =>
    let n := 4 * w.words
    let ea := t.me.pair a
    match t.access .home ea n .atomic false with
    | .eff e => e
    | .ok pa x =>
      let c := t.me
      let t1 := t.unitReady pa
      let old := t1.unitRead t.cur.clus c.bast pa x.key n
      let new := if w = .pair then dwordBytes (f2 (bytesDWord old) (c.pair b) (c.pair d))
        else wordBytes (f1 (bytesWord old) (c.reg b) (c.reg d))
      let t2 := (t1.noteRead c.bast pa).sees t.cur pa
      let t3 := t2.unitWrite t.cur c.bast pa x.key (if new = old then none else some new)
      let t4 := if o = .acq || o = .ar then t3.modClus t.cur.clus Clus.acquired else t3
      .done ((t4.modMe (fun c => { c with unready := c.unready ++ [⟨d, w.words, some (bytesWords w.words old)⟩] })).post .atomReply { pos := t.cur }))

def min2 {n : Nat} (a b : BitVec n) : BitVec n := if b.slt a then b else a
def max2 {n : Nat} (a b : BitVec n) : BitVec n := if a.slt b then b else a
def minu2 {n : Nat} (a b : BitVec n) : BitVec n := if b.ult a then b else a
def maxu2 {n : Nat} (a b : BitVec n) : BitVec n := if a.ult b then b else a
def cas2 {n : Nat} (old b d : BitVec n) : BitVec n := if old = d then b else old

def execAtomAdd (o : AtOrd) (w : Width) (d a b : Reg) (s : State) : Out := atom (.atomAdd o w d a b) (fun x y _ => x + y) (fun x y _ => x + y) o w d a b s
def execAtomMin (o : AtOrd) (w : Width) (d a b : Reg) (s : State) : Out := atom (.atomMin o w d a b) (fun x y _ => min2 x y) (fun x y _ => min2 x y) o w d a b s
def execAtomMax (o : AtOrd) (w : Width) (d a b : Reg) (s : State) : Out := atom (.atomMax o w d a b) (fun x y _ => max2 x y) (fun x y _ => max2 x y) o w d a b s
def execAtomMinu (o : AtOrd) (w : Width) (d a b : Reg) (s : State) : Out := atom (.atomMinu o w d a b) (fun x y _ => minu2 x y) (fun x y _ => minu2 x y) o w d a b s
def execAtomMaxu (o : AtOrd) (w : Width) (d a b : Reg) (s : State) : Out := atom (.atomMaxu o w d a b) (fun x y _ => maxu2 x y) (fun x y _ => maxu2 x y) o w d a b s
def execAtomAnd (o : AtOrd) (w : Width) (d a b : Reg) (s : State) : Out := atom (.atomAnd o w d a b) (fun x y _ => x &&& y) (fun x y _ => x &&& y) o w d a b s
def execAtomOr (o : AtOrd) (w : Width) (d a b : Reg) (s : State) : Out := atom (.atomOr o w d a b) (fun x y _ => x ||| y) (fun x y _ => x ||| y) o w d a b s
def execAtomXor (o : AtOrd) (w : Width) (d a b : Reg) (s : State) : Out := atom (.atomXor o w d a b) (fun x y _ => x ^^^ y) (fun x y _ => x ^^^ y) o w d a b s
def execAtomSwap (o : AtOrd) (w : Width) (d a b : Reg) (s : State) : Out := atom (.atomSwap o w d a b) (fun _ y _ => y) (fun _ y _ => y) o w d a b s
def execAtomCas (o : AtOrd) (w : Width) (d a b : Reg) (s : State) : Out := atom (.atomCas o w d a b) cas2 cas2 o w d a b s

/-- The event ATOM_REPLY: values on their way reach the registers of the context (R218, R307). -/
def execAtomReply (s : State) : Out := .next (s.modCtx s.inp.pos Ctx.deliver)

/-! ### Fences (R219, R220) -/

/-- FENCE: every earlier store of the context is performed. FENCE.CORE waits for accesses to the core's own store and L1 only, which are
never in the buffer (R219). -/
def execFence (sc : Scope) (s : State) : Out := runInstr (.fence sc) s (fun t => .done (if sc = .core then t else t.release))

/-- Clean SWM lines leave the core's L1 (R220). -/
def Core.dropCleanSwm (k : Core) : Core := { k with l1 := k.l1.filter (fun l => !(l.swm && l.dirty = 0)) }

/-- FENCE.P a, b (R220). -/
def execFenceP (a b : Path) (s : State) : Out :=
  runInstr (.fenceP a b) s (fun t =>
    let t1 := if a = .c then t.release
      else t.modClus t.cur.clus (fun k => k.orderPath a b (fun op => t.me.seen.contains op))
    .done (if b = .c then t1.modMyCore Core.dropCleanSwm else t1))

/-! ### RWB, RINV and CLEAN (R221, R222) -/

/-- Physical lines that the part of [a, a + len) in one page overlaps, the page's address being pa. -/
def pageLines (a len page pa : Nat) : List Nat :=
  let lo := max a (4096 * page)
  let hi := min (a + len) (4096 * page + 4096)
  (List.range ((hi - 1) / 64 - lo / 64 + 1)).map (fun j => (pa + (lo / 64 * 64 - 4096 * page)) / 64 + j)

/-- Physical lines that a range overlaps, page by page; a page that would fault is skipped. R222 names no permission that RWB, RINV and CLEAN need:
their translation asks for a load's (DESIGN CHOICE, log entry 51). Or the state in which the walk of the first
page not yet translated runs. -/
def State.rangePages (s : State) (sp : Space) (a len : Nat) : List Nat → Except State (List Nat)
  | [] => .ok []
  | g :: gs =>
    match s.translate s.cur.clus (.quiet (.page s.cur g)) s.me.aspc sp (BitVec.ofNat 64 (4096 * g)) .load with
    | .trap _ => s.rangePages sp a len gs
    | .miss =>
      if s.me.skips.contains g then s.rangePages sp a len gs
      else .error (s.startWalk s.cur.clus s.me.aspc sp (BitVec.ofNat 64 (4096 * g)) .load (.quiet (.page s.cur g)))
    | .ok pa _ =>
      match s.rangePages sp a len gs with
      | .ok l => .ok (pageLines a len g pa ++ l)
      | .error t => .error t

/-- RWB, RINV or CLEAN of a range: once its pages are translated, the effect on the lines it overlaps. -/
def State.onRange (s : State) (sp : Space) (a len : Nat) (f : State → List Nat → State) : Eff :=
  match s.rangePages sp a len ((List.range ((a + len - 1) / 4096 - a / 4096 + 1)).map (fun k => a / 4096 + k)) with
  | .error t => .wait t .xlate
  | .ok ls => .done (f (s.modMe (fun c => { c with skips := [] })) ls)

/-- Write back the dirty lines of the core's L1 that q accepts. -/
def State.cleanL1 (s : State) (q : L1Line → Bool) : State :=
  (s.myCore.l1.filter (fun l => q l && l.dirty ≠ 0)).foldl (fun u l => u.writeBack s.cur.clus s.cur.core l) s

/-- Discard the lines of the core's L1 that q accepts, dirty bytes first written back. -/
def State.discardL1 (s : State) (q : L1Line → Bool) : State :=
  (s.myCore.l1.filter q).foldl (fun u l => u.evictLine s.cur.clus s.cur.core l) s

def execRwb (a b : Reg) (s : State) : Out :=
  runInstr (.rwb a b) s (fun t =>
    let len := (t.me.reg b).toNat
    if len = 0 then .done (t.cleanL1 (fun _ => true))
    else t.onRange .home (t.me.pair a).toNat len (fun u ls => u.cleanL1 (fun l => ls.contains l.line)))

def execRinv (a b : Reg) (s : State) : Out :=
  runInstr (.rinv a b) s (fun t =>
    let len := (t.me.reg b).toNat
    if len = 0 then .done (t.discardL1 (fun _ => true))
    else t.onRange .read (t.me.pair a).toNat len (fun u ls => u.discardL1 (fun l => ls.contains l.line)))

def execClean (a b : Reg) (s : State) : Out :=
  runInstr (.clean a b) s (fun t =>
    let len := (t.me.reg b).toNat
    if len = 0 then
      .done ((t.discardL1 (fun l => l.foreign)).modClus t.cur.clus (fun k => { k with rcache := [] }))
    else t.onRange .read (t.me.pair a).toNat len (fun u ls =>
      (u.discardL1 (fun l => ls.contains l.line)).modClus u.cur.clus (fun k => { k with rcache := k.rcache.filter (fun l => !ls.contains l.line) })))

end Sys2Proof.Machine
end

