-- ==== Sys2Proof/Machine/Curve.lean ====
section
/-! DEFINITION. The curve P-384 and ECDSA over it (FIPS 186; R15, R292), and the one LMS parameter set of R15 (RFC 8554). -/

namespace Sys2Proof.Machine

/-! ### P-384 -/

def p384 : Nat := 2 ^ 384 - 2 ^ 128 - 2 ^ 96 + 2 ^ 32 - 1
def p384B : Nat := 0xb3312fa7e23ee7e4988e056be3f82d19181d9c6efe8141120314088f5013875ac656398d8a2ed19d2a85c8edd3ec2aef
/-- The order of the base point. -/
def p384N : Nat := 0xffffffffffffffffffffffffffffffffffffffffffffffffc7634d81f4372ddf581a0db248b0a77aecec196accc52973

/-- A point of the curve; none is the point at infinity. -/
abbrev Point := Option (Nat × Nat)

def p384G : Point := some (0xaa87ca22be8b05378eb1c71ef320ad746e1d3b628ba79b9859f741e082542a385502f25dbf55296c3a545e3872760ab7,
  0x3617de4a96262c6f5d9e98bf9292dc29f8f41dbd289a147ce9da3113b5f0b8c00a60b1ce1d7e819d7a431d7c90ea0e5f)

/-- b to the power e modulo m, over k bits of e. -/
def powMod (m : Nat) : Nat → Nat → Nat → Nat
  | 0, _, _ => 1 % m
  | k + 1, b, e => (if e % 2 = 1 then b else 1) * powMod m k (b * b % m) (e / 2) % m

/-- The inverse modulo a prime of at most 384 bits. -/
def invMod (m a : Nat) : Nat := powMod m 384 (a % m) (m - 2)

/-- Whether a pair is a point of the curve. -/
def onCurve (x y : Nat) : Bool := x < p384 && y < p384 && y * y % p384 = (x * x * x + (p384 - 3) * x + p384B) % p384

/-- The sum of two points. -/
def pointAdd : Point → Point → Point
  | none, q => q
  | p, none => p
  | some (x1, y1), some (x2, y2) =>
    if x1 = x2 && (y1 + y2) % p384 = 0 then none
    else
      let s := if x1 = x2 then (3 * x1 * x1 + (p384 - 3)) * invMod p384 (2 * y1) % p384
        else (y2 + (p384 - y1)) * invMod p384 (x2 + (p384 - x1)) % p384
      let x := (s * s + (p384 - x1) + (p384 - x2)) % p384
      some (x, (s * (x1 + (p384 - x)) + (p384 - y1)) % p384)

/-- A multiple of a point, over n bits of k. -/
def pointMul : Nat → Nat → Point → Point
  | 0, _, _ => none
  | n + 1, k, p =>
    let r := pointMul n (k / 2) (pointAdd p p)
    if k % 2 = 1 then pointAdd p r else r

/-- A public key or a point as 96 bytes, x then y, big-endian. -/
def pointOf (l : List Byte) : Option (Nat × Nat) :=
  let x := beNat (l.take 48)
  let y := beNat ((l.drop 48).take 48)
  if onCurve x y then some (x, y) else none

/-- The x-coordinate of the ECDH product of a private key and a point. -/
def ecdh (d : Nat) (q : Nat × Nat) : Option (List Byte) := (pointMul 384 d (some q)).map (fun r => beBytes 48 r.1)

/-- Whether the two integers of an ECDSA signature are in range (log entry 7). -/
def ecdsaFormed (sig : List Byte) : Bool :=
  let r := beNat (sig.take 48)
  let s := beNat (sig.drop 48)
  1 ≤ r && r < p384N && 1 ≤ s && s < p384N

/-- Verification of an ECDSA P-384 signature over a message (R15). -/
def ecdsaVerify (key msg sig : List Byte) : Bool :=
  let r := beNat (sig.take 48)
  let s := beNat (sig.drop 48)
  let w := invMod p384N s
  let e := beNat (sha384 msg)
  match pointAdd (pointMul 384 (e * w % p384N) p384G) (pointMul 384 (r * w % p384N) (pointOf key)) with
  | some q => q.1 % p384N = r
  | none => false

/-- An ECDSA P-384 signature over a message with a nonce (R17). -/
def ecdsaSign (d k : Nat) (msg : List Byte) : List Byte :=
  match pointMul 384 k p384G with
  | some q =>
    let r := q.1 % p384N
    beBytes 48 r ++ beBytes 48 (invMod p384N k * (beNat (sha384 msg) + r * d) % p384N)
  | none => []

/-! ### LMS: LMS_SHA256_M32_H15 with LMOTS_SHA256_N32_W4 -/

/-- The type codes and the leaf number of a 2,668-byte signature are right. -/
def lmsFormed (sig : List Byte) : Bool :=
  beNat (sig.take 4) < 2 ^ 15 && beNat ((sig.drop 4).take 4) = 3 && beNat ((sig.drop 2184).take 4) = 7

/-- The nibbles of bytes, high first. -/
def nibbles (l : List Byte) : List Nat := l.flatMap (fun b => [b.toNat / 16, b.toNat % 16])

/-- The chain of a one-time signature's element i from a on, with n hashes left. -/
def lmotsChain (pre : List Byte) (i : Nat) : Nat → Nat → List Byte → List Byte
  | 0, _, t => t
  | n + 1, a, t => lmotsChain pre i n (a + 1) (sha256 (pre ++ beBytes 2 i ++ beBytes 1 a ++ t))

/-- The candidate root from a node up its path. -/
def lmsPath (ident : List Byte) : Nat → List Byte → List (List Byte) → List Byte
  | _, t, [] => t
  | node, t, p :: ps =>
    lmsPath ident (node / 2) (sha256 (ident ++ beBytes 4 (node / 2) ++ beBytes 2 0x8383 ++ (if node % 2 = 1 then p ++ t else t ++ p))) ps

/-- Verification of an LMS signature over a message; the key is the identifier of 16 bytes and the root of 32 (R15). -/
def lmsVerify (key msg sig : List Byte) : Bool :=
  let ident := key.take 16
  let q := beNat (sig.take 4)
  let pre := ident ++ beBytes 4 q
  let d := nibbles (sha256 (pre ++ beBytes 2 0x8181 ++ (sig.drop 8).take 32 ++ msg))
  let sum := d.foldl (fun v x => v + (15 - x)) 0
  let y := pieces 32 67 (sig.drop 40)
  let z := ((d ++ (nibbles (beBytes 2 (sum * 16))).take 3).zip y).zipIdx.flatMap (fun e => lmotsChain pre e.2 (15 - e.1.1) e.1.1 e.1.2)
  let leaf := sha256 (ident ++ beBytes 4 (2 ^ 15 + q) ++ beBytes 2 0x8282 ++ sha256 (pre ++ beBytes 2 0x8080 ++ z))
  lmsPath ident (2 ^ 15 + q) leaf (pieces 32 15 (sig.drop 2188)) = (key.drop 16).take 32

end Sys2Proof.Machine
end

