-- ==== Sys2Proof/Machine/Pull.lean ====
section
/-! DEFINITION. Pulls (R225 to R237) and streams (R238 to R242). -/

namespace Sys2Proof.Machine

/-- The three pulls, and the refill of a stream. -/
inductive PullKind where
  | pull | pulld | pullc | refill
  deriving DecidableEq, Repr

/-- Word at an offset of a descriptor in the current core's store. -/
def State.descWord (s : State) (a ofs : Nat) : DWord := bytesDWord (s.coreBytes (a + ofs) 8)

/-- The descriptor at an address, NDIM dimensions of it. -/
def State.readDesc (s : State) (a : Nat) : PullDesc :=
  let w0 := s.descWord a 0
  let w1 := s.descWord a 8
  let w4 := s.descWord a 0x20
  let n := (w0.extractLsb' 56 4).toNat
  { src := (w0.extractLsb' 0 48).toNat, dst := (w1.extractLsb' 0 36).toNat, stv := s.descWord a 0x10,
    stofs := ((s.descWord a 0x18).extractLsb' 0 36).toNat, blkb := (w4.extractLsb' 16 16).toNat,
    ndcm := (w4.extractLsb' 8 7).toNat, cfirst := (w4.extractLsb' 0 7).toNat,
    ext := (List.range n).map (fun k => ((s.descWord a (0x40 + 16 * k)).extractLsb' 32 32).toNat),
    dstr := (List.range n).map (fun k => ((s.descWord a (0x40 + 16 * k)).extractLsb' 0 32).toInt),
    sstr := (List.range n).map (fun k => ((s.descWord a (0x48 + 16 * k)).extractLsb' 0 48).toInt) }

/-- The tests of R226 on the descriptor at a, with the offset of the word each one names. -/
def State.descBad (s : State) (a : Nat) (kind : PullKind) : Option Nat :=
  let w0 := s.descWord a 0
  let n := (w0.extractLsb' 56 4).toNat
  let w1 := s.descWord a 8
  let w2 := s.descWord a 0x10
  let w3 := s.descWord a 0x18
  let w4 := s.descWord a 0x20
  if a % 32 ≠ 0 || 0x8000 < a + 0x40 then some 0
  else if n = 0 || 12 < n || 0x8000 < a + 0x40 + 16 * n then some 0
  else
    let d := s.readDesc a
    let dist := kind = .pulld
    let bytes := d.ext.foldl (· * ·) 1
    firstBad ([
      (w0.extractLsb' 60 4 ≠ 0 || w0.extractLsb' 48 8 ≠ 0 || w0.extractLsb' 0 2 ≠ 0, 0x00),
      (w1.extractLsb' 36 28 ≠ 0 || w1.extractLsb' 0 2 ≠ 0 || (dist && w1.extractLsb' 15 21 ≠ 0) || (kind = .refill && w1 ≠ 0), 0x08),
      (kind ≠ .pullc && w2 ≠ 0, 0x10),
      (w3.extractLsb' 36 28 ≠ 0 || (kind ≠ .pullc && w3 ≠ 0) || w3.extractLsb' 0 3 ≠ 0, 0x18),
      (w4.extractLsb' 32 32 ≠ 0 || w4.getLsbD 15 || w4.getLsbD 7 || (!dist && w4 ≠ 0) ||
        (dist && (d.blkb = 0 || d.blkb % 32 ≠ 0 || 32768 < d.blkb || 127 < d.cfirst + d.ndcm)), 0x20),
      (decide (s.descWord a 0x28 ≠ 0), 0x28), (decide (s.descWord a 0x30 ≠ 0), 0x30), (decide (s.descWord a 0x38 ≠ 0), 0x38)] ++
      (List.range n).flatMap (fun k =>
        let x := s.descWord a (0x40 + 16 * k)
        let y := s.descWord a (0x48 + 16 * k)
        [(decide (x.extractLsb' 32 32 = 0) || (k = 0 && (x.extractLsb' 32 2 ≠ 0 || x.extractLsb' 0 32 ≠ 0)) || x.extractLsb' 0 2 ≠ 0 ||
            ((dist || kind = .refill) && x.extractLsb' 0 32 ≠ 0), 0x40 + 16 * k),
         (y.extractLsb' 48 16 ≠ 0 || y.extractLsb' 0 2 ≠ 0 || (k = 0 && y ≠ 0), 0x48 + 16 * k)]) ++
      [(decide (2 ^ 32 < bytes), 0x40)])

/-- The offsets (source, destination) of every run of dimension 0, dimension 1 fastest (R227). -/
def runOffsets : List Nat → List Int → List Int → List (Int × Int)
  | [], _, _ => [(0, 0)]
  | e :: es, ds, ss =>
    (runOffsets es (ds.drop 1) (ss.drop 1)).flatMap (fun o =>
      (List.range e).map (fun (i : Nat) => (o.1 + (i : Int) * ss.getD 0 0, o.2 + (i : Int) * ds.getD 0 0)))

/-- pull_bytes of R227: the source address, and the destination (a home offset, or core and address for PULLD), of byte f
of the flattened stream; sd and dd are the displacements. -/
def PullDesc.pullBytes (d : PullDesc) (dist : Bool) (sd : Int) (dd : Nat) : List (DWord × Nat × DWord) :=
  let runs := runOffsets (d.ext.drop 1) (d.dstr.drop 1) (d.sstr.drop 1)
  let e0 := d.ext.getD 0 0
  runs.zipIdx.flatMap (fun r =>
    (List.range e0).map (fun (b : Nat) =>
      let f := r.2 * e0 + b
      let sa : DWord := BitVec.ofInt 64 ((d.src : Int) + sd + (b : Int) + r.1.1)
      if dist then
        let j := f / d.blkb
        (sa, d.cfirst + j % (d.ndcm + 1), BitVec.ofNat 64 (d.dst % 2 ^ 15 + dd + j / (d.ndcm + 1) * d.blkb + f % d.blkb))
      else (sa, 0, BitVec.ofInt 64 ((d.dst : Int) + (dd : Int) + (b : Int) + r.1.2))))

/-- A list without repeats, in the order of first touch. -/
def firstTouch (l : List (DWord)) : List DWord :=
  l.foldl (fun acc a => if acc.any (fun x => x.toNat / 4096 = a.toNat / 4096) then acc else acc ++ [a]) []

/-- Translations taken at submission, by page. -/
abbrev PageMap := List (Nat × Nat × Nat)

/-- The physical address and key slot of an address under taken translations. -/
def PageMap.at (m : PageMap) (a : DWord) : Nat × Nat :=
  match m.find? (fun e => e.1 = a.toNat / 4096) with
  | some e => (e.2.1 + a.toNat % 4096, e.2.2)
  | none => (0, 0)

/-- What a submission finds when it goes through its pages: all of them translated, a check that fails at an address, or an address
whose walk is to be waited for, with the pages translated before it. -/
inductive Taken where
  | all (m : PageMap)
  | bad (code : Byte) (a : DWord)
  | walk (m : PageMap) (a : DWord)

/-- Translate and check pages in order (checks 3 and 4 of R228); those of the map were translated before (R228). -/
def State.takePages (s : State) (sp : Space) (acc : AccKind) : List DWord → PageMap → Taken
  | [], m => .all m
  | a :: as, m =>
    if m.any (fun e => e.1 = a.toNat / 4096) then s.takePages sp acc as m
    else
      match s.translate s.cur.clus (.ctx s.cur) s.me.aspc sp a acc with
      | .trap code => .bad code a
      | .miss => .walk m a
      | .ok pa t =>
        if sp = .read && s.dead.getLsbD (paPkg pa) then .bad cDEAD_PEER a
        else if t.type = .sealed then .bad (if sp = .read then cSEALED_PULL else cSEALED_WRITE) a
        else if t.type = .device then .bad cDEVICE_ACCESS a
        else s.takePages sp acc as (m ++ [(a.toNat / 4096, pa - a.toNat % 4096, t.key)])

/-- A submission waits for the walk of an address; what it has translated stays pinned, and it resumes at the same page (R228, R229). -/
def State.waitPage (s : State) (sub : PullSub) (sp : Space) (acc : AccKind) (a : DWord) : Eff :=
  .wait ((s.startWalk s.cur.clus s.me.aspc sp a acc (.ctx s.cur)).modMe (fun c => { c with sub := some sub })) .xlate

/-- Checks 3 and 4 of R228 over source pages, destination pages and the stamp's page. -/
def State.takeAll (s : State) (sub : PullSub) (srcs dsts stamp : List DWord) : Except Eff PullSub :=
  match s.takePages .read .pullSrc srcs sub.src with
  | .bad code a => .error (.trap code a AccKind.pullSrc.xinfo)
  | .walk m a => .error (s.waitPage { sub with src := m } .read .pullSrc a)
  | .all sm =>
    match s.takePages .home .pullDst dsts sub.dst with
    | .bad code a => .error (.trap code a AccKind.pullDst.xinfo)
    | .walk m a => .error (s.waitPage { sub with src := sm, dst := m } .home .pullDst a)
    | .all dm =>
      match s.takePages .home .stamp stamp sub.stamp with
      | .bad code a => .error (.trap code a AccKind.stamp.xinfo)
      | .walk m a => .error (s.waitPage { sub with src := sm, dst := dm, stamp := m } .home .stamp a)
      | .all tm => .ok { sub with src := sm, dst := dm, stamp := tm }

/-- Count pins up for pages an operation takes (R225). -/
def Clus.pin (k : Clus) (l : List (Nat × Space × Nat)) : Clus :=
  l.foldl (fun k e =>
    if k.pins.any (fun p => p.aspc = e.1 && p.space = e.2.1 && p.page = e.2.2) then
      { k with pins := k.pins.map (fun p => if p.aspc = e.1 && p.space = e.2.1 && p.page = e.2.2 then { p with count := p.count + 1 } else p) }
    else { k with pins := k.pins ++ [⟨e.1, e.2.1, e.2.2, 1⟩] }) k

/-- Release pins; pages that nothing pins leave the page-lock table (R229). -/
def Clus.unpin (k : Clus) (l : List (Nat × Space × Nat)) : Clus :=
  l.foldl (fun k e =>
    { k with pins := (k.pins.map (fun p => if p.aspc = e.1 && p.space = e.2.1 && p.page = e.2.2 then { p with count := p.count - 1 } else p)).filter (fun p => p.count ≠ 0) }) k

/-- Operations of the pull engine of a tile (R225). -/
def State.engineLoad (s : State) (c tile : Nat) : Nat :=
  (s.pulls.filter (fun e => e.2.clus = c && e.2.core / 8 = tile)).length

/-- Source units of a pull's bytes, in order of first use. -/
def sourceUnits (l : List PByte) : List Nat :=
  l.foldl (fun acc b => if acc.contains (b.src / 32) then acc else acc ++ [b.src / 32]) []

/-- PULL_DESC for the word at an offset (R228). -/
def pullDesc (a ofs : Nat) : Eff := .trap cPULL_DESC (BitVec.ofNat 64 a) (BitVec.ofNat 32 ofs)

/-- Whether the engine and the page-lock table have room (R225); what the context's own submission pins already is among the pages. -/
def State.pullRoom (s : State) (pages : List (Nat × Space × Nat)) : Bool :=
  s.engineLoad s.cur.clus (s.cur.core / 8) < 32 &&
    s.myClus.pins.length + ((((s.subPins s.cur.clus).map (fun p => (p.aspc, p.space, p.page)) ++ pages).eraseDups).filter (fun e =>
      !s.myClus.pins.any (fun p => p.aspc = e.1 && p.space = e.2.1 && p.page = e.2.2))).length ≤ 4096

/-- Enter a pull and send its requests (R230). -/
def State.enterPull (s : State) (id : Nat) (p : Pull) : State :=
  let s1 := { s with pulls := Assoc.put id p s.pulls }
  let s2 := s1.modClus p.clus (fun k => k.pin p.pins)
  (sourceUnits p.bytes).foldl (fun u n => u.post .pullReq { id := id, n := n }) s2

/-- The bytes that pull_bytes names for a pull of the current context with displacements sd and dd. -/
def PullKind.bytes (kind : PullKind) (d : PullDesc) (sd : Int) (dd : Nat) : List (DWord × Nat × DWord) :=
  d.pullBytes (kind = .pulld) sd dd

/-- The destination pages a pull touches, in the order of first touch; PULLD's landings count none (R228). -/
def PullKind.dstPages (kind : PullKind) (l : List (DWord × Nat × DWord)) : List DWord :=
  if kind = .pulld then [] else firstTouch (l.map (·.2.2))

/-- The stamp's address (R237). -/
def PullKind.stampAt (kind : PullKind) (d : PullDesc) : List DWord :=
  if kind = .pullc then [BitVec.ofNat 64 d.stofs] else []

/-- The pages a pull pins, counted as R228 says. -/
def PullKind.pages (kind : PullKind) (aspc : Nat) (d : PullDesc) (l : List (DWord × Nat × DWord)) : List (Nat × Space × Nat) :=
  (firstTouch (l.map (·.1))).map (fun x => (aspc, Space.read, x.toNat / 4096)) ++
    (firstTouch (kind.dstPages l ++ kind.stampAt d)).map (fun x => (aspc, Space.home, x.toNat / 4096))

/-- Submission of a pull that has passed checks 1 and 2 of R228: it waits for room (R225), takes its pages, and issues. -/
def pullSubmit (kind : PullKind) (sub : PullSub) (sd : Int) (dd : Nat) (tag : Tag) (t : State) : Eff :=
  let p := t.cur
  let d := sub.desc
  let l := kind.bytes d sd dd
  let pins := kind.pages t.me.aspc d l
  if !t.pullRoom pins then .wait (t.modMe (fun c => { c with sub := some sub })) .resource
  else
    match t.takeAll sub (firstTouch (l.map (·.1))) (kind.dstPages l) (kind.stampAt d) with
    | .error e => e
    | .ok u =>
      let id := t.nextId
      let bytes := l.map (fun e =>
        let sa := PageMap.at u.src e.1
        let da := if kind = .pulld then (corePa t.pkg p.clus e.2.1 e.2.2.toNat, 0) else PageMap.at u.dst e.2.2
        (⟨sa.1, sa.2, da.1, da.2, da.1 / 32⟩ : PByte))
      let st := match kind.stampAt d with
        | [] => none
        | x :: _ => some ((PageMap.at u.stamp x).1, (PageMap.at u.stamp x).2, d.stv)
      let v := { t with nextId := t.nextId + 1 }
      .done (((v.issueTag tag (.pull id) id).enterPull id
        ⟨p.clus, p.core, p.ctx, tag.toNat, t.me.bast, bytes, [], st, pins, 0, none⟩).modMe (fun c => { c with sub := none }))

/-- PULL, PULLD and PULLC (R228, R237). -/
def pullBody (kind : PullKind) (a b : Reg) (tag : Tag) (t : State) : Eff :=
  let addr := (t.me.reg a).toNat
  let dd := (t.me.reg (a + 1)).toNat
  let sd := (t.me.pair b).toInt
  let p := t.cur
  needFree t tag (
    match t.me.sub with
    | some sub => pullSubmit kind sub sd dd tag t
    | none =>
      match t.descBad addr kind with
      | some ofs => pullDesc addr ofs
      | none =>
        if t.blockPoison addr 128 then poisonEff t (BitVec.ofNat 64 addr) 0 else
        let d := t.readDesc addr
        let l := kind.bytes d sd dd
        if 1024 < (kind.pages t.me.aspc d l).length then pullDesc addr 0x40
        else if kind = .pulld && (List.range (d.ndcm + 1)).any (fun j =>
            !List.any [0, 1, 2, 3] (fun x => (t.ctx ⟨p.clus, d.cfirst + j, x⟩).slot = t.me.slot && t.me.slot.isSome)) then pullDesc addr 0x20
        else if kind = .pulld && l.any (fun e => 0x8000 ≤ e.2.2.toNat) then pullDesc addr 0x08
        else pullSubmit kind ⟨[], [], d, [], [], []⟩ sd dd tag t)

def execPull (a b : Reg) (tag : Tag) (s : State) : Out := runInstr (.pull a b tag) s (pullBody .pull a b tag)
def execPulld (a b : Reg) (tag : Tag) (s : State) : Out := runInstr (.pulld a b tag) s (pullBody .pulld a b tag)
def execPullc (a b : Reg) (tag : Tag) (s : State) : Out := runInstr (.pullc a b tag) s (pullBody .pullc a b tag)

/-! ### Transfer and completion (R230 to R235) -/

def State.pull? (s : State) (id : Nat) : Option Pull := (s.pulls.find? (fun e => e.1 = id)).map (·.2)

/-- A pull meets an error: it completes with the code (R230). -/
def State.pullErr (s : State) (id : Nat) (p : Pull) (code : Byte) : State :=
  ({ s with pulls := Assoc.put id { p with err := code } s.pulls }).post .pullComplete { id := id }

/-- Units all of whose source bytes are there. -/
def Pull.ready (p : Pull) (u : Nat) : Bool :=
  p.bytes.any (fun b => b.unit = u) && p.bytes.all (fun b => b.unit ≠ u || Assoc.has (b.src / 32) p.got)

/-- A source unit has arrived. -/
def State.pullGot (s : State) (id : Nat) (p : Pull) (unit : Nat) (l : List Byte) : State :=
  let p1 := { p with got := Assoc.put unit l p.got }
  let s1 := { s with pulls := Assoc.put id p1 s.pulls }
  let us := (p1.bytes.filter (fun b => b.src / 32 = unit)).map (·.unit)
  (us.eraseDups).foldl (fun u n => if p1.ready n then u.post .pullData { id := id, n := n } else u) s1

/-- How many units from unit on a pull still needs in a row, in one page under one key slot: what one request asks for. -/
def Pull.stretch (p : Pull) (unit key : Nat) : Nat :=
  ((List.range (128 - unit % 128)).takeWhile (fun k =>
    p.bytes.any (fun b => b.src / 32 = unit + k && b.skey = key) && !Assoc.has (unit + k) p.got)).length

/-- A pull asks the owner port for a source unit, once, under the rules of a load (R230, R231). -/
def State.pullAsk (s : State) (id : Nat) (p : Pull) (unit : Nat) : State :=
  match p.bytes.find? (fun b => b.src / 32 = unit) with
  | none => s
  | some b =>
    if Assoc.has unit p.got || p.err ≠ 0 then s
    else if paPkg b.src ≠ s.pkg then s.askPull p.clus id unit b.skey (p.stretch unit b.skey)
    else if s.ownerRefuses (s.clus p.clus).fn b.src || !s.keyOk p.clus b.src b.skey then s.pullErr id p cPERM
    else if s.poison.contains (unit / 2) then (s.sawPoison p.bast).pullErr id p cDEAD_PEER
    else
      let l := match (if s.isHome p.clus b.src then s.shadowOf p.clus p.bast b.src else none) with
        | some x => (x.drop (32 * unit % 64)).take 32
        | none => if s.isHome p.clus b.src then s.pathRead p.clus .p (engineObserver .p (p.core / 8)) (32 * unit) b.skey 32
          else (s.ownerRead (32 * unit) b.skey 32).1
      (s.noteRead p.bast b.src).pullGot id p unit l

/-- The owner port's refusal of a READ or a PULL_REQ of another package: 0 for none (R52, R336). -/
def State.readStatus (s : State) (it : ReadItem) : Byte :=
  if paPkg it.pa ≠ s.pkg then cDEAD_PEER
  else if s.ownerRefuses it.fn it.pa || ((paRegion it.pa).isHbm && !s.slotHeld it.key it.fn) then cPERM
  else if (List.range ((it.pa % 64 + it.len + 63) / 64)).any (fun k => s.poison.contains (it.pa / 64 + k)) then cDEAD_PEER
  else 0

/-- The owner port answers a PULL_REQ of another package: PULL_DATA items of up to 192 bytes, or one with the status of a refusal (R334). -/
def State.pullAnswer (s : State) (it : ReadItem) : State :=
  let st := s.readStatus it
  let gen := Assoc.get 0 (it.pa / 4096) s.gens
  let send := fun (u : State) (o : Nat) (l : List Byte) => u.queueItem it.opkg (paClus it.pa) it.oclus (.pullData ⟨it.req, st, 0, gen, l⟩ o)
  if st ≠ 0 then send s 0 []
  else
    let l := (s.ownerRead it.pa it.key it.len).1
    (List.range ((it.len + 191) / 192)).foldl (fun u k => send u (192 * k) ((l.drop (192 * k)).take 192)) s

/-- The event PULL_REQ: a pull of this package asks for a source unit, or the request of another package's pull has come to this owner
port. -/
def execPullReq (s : State) : Out :=
  match s.inp.load with
  | .read it => .next (s.pullAnswer it)
  | _ =>
    match s.pull? s.inp.id with
    | none => .next s
    | some p => .next (s.pullAsk s.inp.id p s.inp.n)

/-- Bytes of a unit as the pull will write them: the landing cells. -/
def Pull.cells (p : Pull) (u : Nat) : List (Nat × Byte) :=
  (p.bytes.filter (fun b => b.unit = u)).map (fun b => (b.dst, (Assoc.get [] (b.src / 32) p.got).getD (b.src % 32) 0))

/-- Land cells of one 32-byte unit (R232); those of a saved team's operation in its core store land in its image (R381). -/
def State.landCells (s : State) (c : Nat) (bast : Option Nat) (path : Path) (op key0 : Nat) (cells0 : List (Nat × Byte)) : State :=
  let r := s.redirectCells c op key0 cells0
  match r.2 with
  | [] => s
  | (a, _) :: _ =>
    let u := a / 32
    let old := s.bytesAt (32 * u) r.1 32
    (s.homeWrite c bast none r.1 r.2).drew.modClus c (fun k => k.landed (s.clus c).unfenced u (unitMask u r.2) old path op s.freeCtr s.steps)

/-- The stream a refill serves: the context's, or the one in its image (R381). -/
def State.refillStream (s : State) (id : Nat) (p : Pull) (k : Nat) : Option Stream :=
  match (s.clus p.clus).savedOp id with
  | some v => (v.ctxRec p.core p.ctx).bind (fun ofs => (s.imgCtx p.clus v ofs 0).stream k)
  | none => (s.ctx ⟨p.clus, p.core, p.ctx⟩).stream k

/-- The lowest chunk of a refill that has not landed and whether the ring has room for it (R239). -/
def State.refillChunk (s : State) (id : Nat) (p : Pull) (k : Nat) : Option Nat :=
  match s.refillStream id p k, p.bytes with
  | some t, b :: _ => if 32 * b.unit + 31 < t.pop * t.adv + 2 ^ t.logr then some b.unit else none
  | _, _ => none

/-- The key slot of the page that a unit of a pull lands in may no longer be used (R43, R230). -/
def State.unitRefused (s : State) (p : Pull) (u : Nat) : Bool :=
  p.bytes.any (fun b => b.unit = u && !s.keyOk p.clus b.dst b.dkey)

/-- A unit lands: its bytes leave the pull; the last one completes it. -/
def State.landUnit (s : State) (id : Nat) (p : Pull) (u : Nat) : State :=
  if s.unitRefused p u then s.pullErr id p cPERM else
  let p1 := { p with bytes := p.bytes.filter (fun b => b.unit ≠ u) }
  let key := match p.bytes.find? (fun b => b.unit = u) with | some b => b.dkey | none => 0
  let s1 := (s.landCells p.clus p.bast .p id key (p.cells u))
  let s2 := { s1 with pulls := Assoc.put id p1 s1.pulls }
  let s3 := match p.stream with
    | none => s2
    | some k =>
      let q : Pos := ⟨p.clus, p.core, p.ctx⟩
      let n := (p.bytes.filter (fun b => b.unit = u)).length
      let s4 : State := match (s2.clus p.clus).savedOp id with
        | some v => s2.applyCompletion p.clus v (.refill q k n)
        | none => s2.modCtx q (fun c => match c.stream k with
          | some t => c.setStream k (some { t with landed := t.landed + n })
          | none => c)
      let s5 := if (s4.ctx q).st = .blocked .result then s4.wake q else s4
      s5.post .pullData { id := id }
  if p1.bytes = [] then s3.post .pullComplete { id := id } else s3

/-- A PULL_DATA item of another package (R334): a part of what a request asked for, known by request number and offset. The part at the end
carries the generation of the page (R106); the request is over when every part has come, or at a refusal. -/
def State.pullPart (s : State) (r : ReplyItem) (ofs : Nat) : State :=
  match s.outReads.find? (fun o => o.req = r.req) with
  | none => s
  | some o =>
    match o.who with
    | .pull id _ =>
      let s0 : State := { s with outReads := s.outReads.filter (fun x => x.req ≠ r.req) }
      (match s.pull? id with
       | none => s0
       | some p =>
         if r.status ≠ 0 then s0.pullErr id p r.status
         else
           let s1 := if ofs + r.bytes.length = o.len then { s with gens := Assoc.put (o.pa / 4096) r.gen s.gens }.noteRead p.bast o.pa else s
           let s2 := (List.range (r.bytes.length / 32)).foldl (fun u k =>
             match u.pull? id with
             | some q => if Assoc.has ((o.pa + ofs) / 32 + k) q.got then u else u.pullGot id q ((o.pa + ofs) / 32 + k) ((r.bytes.drop (32 * k)).take 32)
             | none => u) s1
           match s2.pull? id with
           | some q => if (List.range (o.len / 32)).all (fun k => Assoc.has (o.pa / 32 + k) q.got) then
               { s2 with outReads := s2.outReads.filter (fun x => x.req ≠ r.req) } else s2
           | none => s2)
    | _ => s

/-- The event PULL_DATA: a part comes from another package; or one destination unit becomes entirely new (R232); a refill lands its next chunk
where the ring has room (R239). -/
def execPullData (s : State) : Out :=
  match s.inp.load with
  | .reply r => .next (s.pullPart r s.inp.ofs)
  | _ =>
  match s.pull? s.inp.id with
  | none => .next s
  | some p =>
    match p.stream with
    | some k =>
      (match s.refillChunk s.inp.id p k with
       | some u => if p.ready u && p.err = 0 then .next (s.landUnit s.inp.id p u) else .next s
       | none => .next s)
    | none => if p.ready s.inp.n && p.err = 0 then .next (s.landUnit s.inp.id p s.inp.n) else .next s

/-- A tag of a saved team was BUSY with an operation at the save. -/
def Saved.busyWith (v : Saved) (core tag op : Nat) : Bool :=
  v.tags.any (fun e => e.1 = core && e.2.1 = tag && e.2.2.op = op && e.2.2.st.isBusy)

/-- The event PULL_COMPLETE: the stamp, on path P (R3), the tag, the pins, in the order of R234; a refill's error closes its tag (R241). -/
def execPullComplete (s : State) : Out :=
  match s.pull? s.inp.id with
  | none => .next s
  | some p0 =>
    if p0.bytes ≠ [] && p0.err = 0 then .next s
    else
      let p := match p0.stamp with
        | some (pa, key, _) => if p0.err = 0 && !s.keyOk p0.clus pa key then { p0 with err := cPERM } else p0
        | none => p0
      let s1 := match p.stamp with
        | some (pa, key, v) =>
          if p.err = 0 then s.landCells p.clus p.bast .p s.inp.id key (cellsAt pa (dwordBytes v)) else s
        | none => s
      let s2 := match p.stream with
        | none => s1.endOp p.clus p.core p.tag s.inp.id p.err
        | some k =>
          let q : Pos := ⟨p.clus, p.core, p.ctx⟩
          let saved := (s1.clus p.clus).savedOp s.inp.id
          if p.err = 0 || (match saved with | some v => !v.busyWith p.core p.tag s.inp.id | none => false) then
            (match saved with
             | some v => (s1.modSaved p.clus v (fun v => { v with owned := v.owned.filter (fun e => e.op ≠ s.inp.id) })).outDown p.clus v
             | none => s1)
          else if saved.isSome then s1.endOp p.clus p.core p.tag s.inp.id p.err
          else
            let s3 := s1.modCtx q (fun c => match c.stream k with
              | some t => c.setStream k (some { t with err := p.err })
              | none => c)
            let s4 := if (s3.core p.clus p.core).streamsOn p.tag p.ctx k then s3.tagDone p.clus p.core p.tag p.err else s3
            if (s4.ctx q).st = CtxSt.blocked Wait.result then s4.wake q else s4
      let s5 := (s2.modClus p.clus (fun k => k.unpin p.pins))
      let s6 := { s5 with pulls := Assoc.del s.inp.id s5.pulls }
      .next ((s6.wakeAll (fun q w => q.clus = p.clus && w = .resource)).post .tuInvDone { clus := p.clus })

/-! ### Streams (R238, R241, R242) -/

/-- The tests of R238 on the stream descriptor at a, and in refill mode of R241. -/
def State.streamBad (s : State) (a : Nat) : Option Nat :=
  let w0 := s.descWord a 0
  let w1 := s.descWord a 8
  let w2 := s.descWord a 0x10
  let rf := w0.getLsbD 63
  let npop := (w0.extractLsb' 0 32).toNat
  let base := (w1.extractLsb' 0 15).toNat
  let logr := (w2.extractLsb' 20 4).toNat
  let adv := 4 * 2 ^ (w0.extractLsb' 32 2).toNat
  if a % 32 ≠ 0 || 0x8000 < a + 32 then some 0
  else
    match firstBad [
      (w0.extractLsb' 34 29 ≠ 0 || npop = 0, 0x00),
      (w1.getLsbD 15 || base % 4 ≠ 0 || (rf && (base % 32 ≠ 0 || w1.extractLsb' 16 48 ≠ 0)) ||
        (!rf && (w1.extractLsb' 32 2 ≠ 0 || w1.extractLsb' 16 16 = 0)), 0x08),
      (w2.extractLsb' 24 40 ≠ 0 || w2.extractLsb' 15 5 ≠ 0 || (rf && (logr < 6 || 14 < logr)) || (!rf && w2 ≠ 0), 0x10),
      (decide (s.descWord a 0x18 ≠ 0), 0x18),
      (rf && 0x8000 < base + 2 ^ logr, 0x08)] with
    | some o => some o
    | none =>
      if !rf then none
      else
        let pd := (w2.extractLsb' 0 15).toNat
        match s.descBad pd .refill with
        | some _ => some 0x10
        | none => if (s.readDesc pd).ext.foldl (· * ·) 1 < (npop - 1) * adv + 32 then some 0x00 else none

/-- The octet index of a stream octet register. -/
def streamIndex (r : Reg) : Nat := (r.toNat - 32) / 8

/-- The stream that the 32 bytes of a descriptor set up on a tag, its refill named by a pull identity (R238). -/
def newStream (words rdesc : List Byte) (id : Nat) (tag : Tag) : Stream :=
  let w0 := bytesDWord words
  let w1 := bytesDWord (words.drop 8)
  let w2 := bytesDWord (words.drop 0x10)
  { rf := w0.getLsbD 63, adv := 4 * 2 ^ (w0.extractLsb' 32 2).toNat, npop := (w0.extractLsb' 0 32).toNat,
    s1 := (w1.extractLsb' 32 32).toInt, e0 := (w1.extractLsb' 16 16).toNat, base := (w1.extractLsb' 0 15).toNat,
    logr := (w2.extractLsb' 20 4).toNat, pd := (w2.extractLsb' 0 15).toNat, pop := 0, tag := tag.toNat, landed := 0, err := 0, pull := id,
    desc := words, rdesc := rdesc }

/-- Submission of a refill that has passed checks 1 to 3 of R241: it waits for room (R225), takes its source pages, and the octet enters
stream mode. -/
def streamSubmit (k : Nat) (tag : Tag) (sub : PullSub) (t : State) : Eff :=
  let id := t.nextId
  let x := newStream sub.words sub.rdesc id tag
  let l := sub.desc.pullBytes false 0 0
  let srcs := firstTouch (l.map (·.1))
  let pins := srcs.map (fun y => (t.me.aspc, Space.read, y.toNat / 4096))
  if !t.pullRoom pins then .wait (t.modMe (fun c => { c with sub := some sub })) .resource
  else
    match t.takeAll sub srcs [] [] with
    | .error e => e
    | .ok u =>
      let v := { t with nextId := t.nextId + 1 }
      let bytes := l.zipIdx.map (fun e =>
        let sa := PageMap.at u.src e.1.1
        (⟨sa.1, sa.2, corePa t.pkg t.cur.clus t.cur.core (x.base + e.2 % 2 ^ x.logr), 0, e.2 / 32⟩ : PByte))
      .done (((v.issueTag tag (.stream t.cur.ctx k) id).modMe (fun c => { c.setStream k (some x) with sub := none })).enterPull id
        ⟨t.cur.clus, t.cur.core, t.cur.ctx, tag.toNat, t.me.bast, bytes, [], none, pins, 0, some k⟩)

def execStream (b p : Reg) (tag : Tag) (s : State) : Out :=
  runInstr (.stream b p tag) s (fun t =>
    let a := (t.me.reg b).toNat
    let k := streamIndex p
    needFree t tag (
      match t.me.stream k with
      | some x => .trap cSTREAM_OVER (BitVec.ofNat 64 x.start) 3
      | none =>
        match t.me.sub with
        | some sub => streamSubmit k tag sub t
        | none =>
          match t.streamBad a with
          | some ofs => pullDesc a ofs
          | none =>
            if t.blockPoison a 32 then poisonEff t (BitVec.ofNat 64 a) 0 else
            let words := t.coreBytes a 32
            let pd := ((bytesDWord (words.drop 0x10)).extractLsb' 0 15).toNat
            if (bytesDWord words).getLsbD 63 then
              if t.blockPoison pd 128 then poisonEff t (BitVec.ofNat 64 pd) 0
              else streamSubmit k tag ⟨words, t.coreBytes pd 128, t.readDesc pd, [], [], []⟩ t
            else
              let v := { t with nextId := t.nextId + 1 }
              .done ((v.issueTag tag (.stream t.cur.ctx k) t.nextId).modMe (fun c => c.setStream k (some (newStream words [] t.nextId tag))))))

/-- Close a stream of a context: the refill stops, its pins go, a BUSY tag becomes DONE, the octet reads 0 (R242). -/
def State.closeStream (s : State) (p : Pos) (k : Nat) : State :=
  match (s.ctx p).stream k with
  | none => s
  | some x =>
    let s1 := match s.pull? x.pull with
      | some pl => ({ s with pulls := Assoc.del x.pull s.pulls }).modClus p.clus (fun c => c.unpin pl.pins)
      | none => s
    let s2 := (s1.modCtx p (fun c => (c.setStream k none).setGroup (streamReg k) (List.replicate 8 0))).wakeAll
      (fun q w => q.clus = p.clus && w = .resource)
    if (s2.core p.clus p.core).streamsOn x.tag p.ctx k then s2.tagDone p.clus p.core x.tag 0 else s2

def execSclose (a : Reg) (s : State) : Out := runInstr (.sclose a) s (fun t => .done (t.closeStream t.cur (streamIndex a)))

end Sys2Proof.Machine
end

