-- ==== Sys2Proof/Machine/Sync.lean ====
section
/-! DEFINITION. Milestones (R298 to R300), watches (R301 to R305), barriers (R306 to R308) and convoys (R124 to R129, R313,
R314). -/

namespace Sys2Proof.Machine

/-! ### Milestones -/

/-- Send a watch completion to its watcher: an event of this package or an item to another (R304). -/
def State.sendDone (s : State) (opkg : Nat) (it : DoneItem) : State :=
  if opkg = s.pkg then s.post .watchDone { load := .done it }
  else s.queueItem opkg it.oclus it.clus (.watchDone it)

/-- A completion of a watch at its owner: value, stamp, status, and the generation of the word's page. -/
def State.doneOf (s : State) (w : WatchEntry) (value : DWord) (stamp : Nat) (status : Byte) : DoneItem :=
  ⟨w.oclus, w.core, w.tag, paPkg w.pa, paClus w.pa, value, stamp, status, w.op, w.pa, Assoc.get 0 (w.pa / 4096) s.gens⟩

/-- A milestone of a cluster has a new value: the count, and every watch entry that the value meets (R298). -/
def State.published (s : State) (c : Nat) (pa : Nat) (new : DWord) : State :=
  let s1 := s.modClus c (fun k => { k with pub := k.pub + 1 })
  let k := s1.clus c
  let met := k.watches.filter (fun w => w.pa = pa && w.thr.toNat ≤ new.toNat)
  let s2 := s1.modClus c (fun k => { k with watches := k.watches.filter (fun w => !(w.pa = pa && w.thr.toNat ≤ new.toNat)) })
  met.foldl (fun u w => u.sendDone w.opkg (s1.doneOf w new k.pub 0)) s2

/-- A milestone advance (R298): the write, the count and the watches, in one step. -/
def State.advance (s : State) (c : Nat) (pa key : Nat) (new : DWord) : State :=
  (s.homeWrite c none none key (cellsAt pa (dwordBytes new))).published c pa new

/-- Whether a basting launch's cluster has room for lines of deferred effects (R105, R110). -/
def State.deferRoom (s : State) (c lines : Nat) : Bool := (s.clus c).shadow.length + (s.clus c).deferredLines + lines ≤ 8192

/-- Defer an effect of the current context's basting launch; without room the launch is unpicked (R105, R110). -/
def State.defer (s : State) (q lines : Nat) (e : Deferred) : State :=
  let c := s.cur.clus
  if s.deferRoom c lines then
    { s.modClus c (fun k => { k with deferredLines := k.deferredLines + lines }) with deferred := s.deferred ++ [(q, e)] }
  else s.doom q

/-- The context an effect of the deferred log belongs to. -/
def Deferred.src : Deferred → Pos
  | .pub p _ _ _ => p
  | .msg it => it.src
  | .enq p _ _ => p

/-- Effects of a context that the front end still replays: what it does next is ordered after them (R108). -/
def State.replaying (s : State) (p : Pos) : Bool := s.replay.any (fun e => e.2.src = p)

/-- PUB and PUBI at an address with the new value as a function of the old (R299). -/
def publish (ea : DWord) (new : Nat → Nat) (t : State) : Eff :=
  if t.replaying t.cur then .wait t .behind
  else match t.access .home ea 8 .atomic false with
  | .eff e => e
  | .ok pa x =>
    let t1 := (t.unitReady pa).sees t.cur pa
    let old := (bytesDWord (t1.unitRead t.cur.clus t.me.bast pa x.key 8)).toNat
    let n := new old
    if n ≤ old || 2 ^ 64 ≤ n then .trap cMILESTONE_REGRESS ea 0
    else
      match t.me.bast with
      | some q =>
        .done (((t1.noteRead (some q) pa).homeWrite t.cur.clus (some q) none x.key (cellsAt pa (dwordBytes (BitVec.ofNat 64 n)))).defer q 1
          (.pub t.cur pa x.key (BitVec.ofNat 64 n)))
      | none => .done (t1.advance t.cur.clus pa x.key (BitVec.ofNat 64 n))

def execPub (a b : Reg) (s : State) : Out := runInstr (.pub a b) s (fun t => publish (t.me.pair a) (fun _ => (t.me.pair b).toNat) t)
def execPubi (a : Reg) (i : BitVec 12) (s : State) : Out := runInstr (.pubi a i) s (fun t => publish (t.me.pair a) (fun o => o + i.toNat) t)

/-! ### Watches -/

/-- The entry of a watch. -/
def WatchItem.entry (it : WatchItem) (id : Nat) : WatchEntry := ⟨id, it.opkg, it.oclus, it.core, it.tag, it.pa, it.key, it.thr, it.op⟩

/-- A watch goes to its owner port, in this package or in another (R302, R303). -/
def State.sendWatch (s : State) (it : WatchItem) : State :=
  if paPkg it.pa = s.pkg then s.post .watchReq { load := .watch it }
  else (s.modClus it.oclus (fun k => { k with asked := k.asked ++ [it.entry it.op] })).queueItem (paPkg it.pa) it.oclus (paClus it.pa) (.watchReq it)

/-- WATCH (R302). -/
def execWatch (a : Reg) (tag : Tag) (s : State) : Out :=
  runInstr (.watch a tag) s (fun t =>
    let blk := (t.me.reg a).toNat
    needFree t tag (
      if blk % 32 ≠ 0 || 0x8000 < blk + 32 || (t.descWord blk 0).extractLsb' 48 16 ≠ 0 then .trap cPULL_DESC (BitVec.ofNat 64 blk) 0
      else if t.blockPoison blk 16 then poisonEff t (BitVec.ofNat 64 blk) 0
      else
        let addr := t.descWord blk 0
        let thr := t.descWord blk 8
        if addr.toNat % 8 ≠ 0 then .trap cALIGN addr 0
        else
          match t.translate t.cur.clus (.ctx t.cur) t.me.aspc .read addr .watch with
          | .trap code => .trap code addr 0
          | .miss => .wait (t.startWalk t.cur.clus t.me.aspc .read addr .watch (.ctx t.cur)) .xlate
          | .ok pa x =>
            if t.dead.getLsbD (paPkg pa) then .trap cDEAD_PEER addr 0
            else if x.type = .sealed then .trap cSEALED_LOAD addr 0
            else if x.type = .device then .trap cDEVICE_ACCESS addr 0
            else
              let p := t.cur
              let it : WatchItem := ⟨t.pkg, p.clus, t.myClus.fn, p.core, tag.toNat, pa, x.key, thr, t.nextId⟩
              let u := { t with nextId := t.nextId + 1 }.issueTag tag (.watch t.nextId blk (paPkg pa)) t.nextId
              .done (u.sendWatch it)))

/-- A watched word as its owner port reads it; for a watcher of another cluster the store of a core that a basting launch occupies holds zeros
(R105). -/
def State.watchedWord (s : State) (own : Bool) (pa key : Nat) : DWord :=
  if own then bytesDWord (s.bytesAt pa key 8) else bytesDWord (s.ownerRead pa key 8).1

/-- A watch request at the owner port of a cluster of this package (R303), refused by the owner or for its key slot (R52, R43, R336). A
requester of another package hears of a full table by the status 0xFF. -/
def State.watchReq (s : State) (it : WatchItem) : State :=
  let c := paClus it.pa
  let k := s.clus c
  let done (value : DWord) (stamp : Nat) (status : Byte) : State := s.sendDone it.opkg (s.doneOf (it.entry 0) value stamp status)
  if s.ownerRefuses it.fn it.pa || (if it.opkg = s.pkg then !s.keyOk it.oclus it.pa it.key else (paRegion it.pa).isHbm && !s.slotHeld it.key it.fn) then
    done 0 0 cPERM
  else if s.poison.contains (it.pa / 64) then done 0 0 cDEAD_PEER
  else
    let v := s.watchedWord (it.opkg = s.pkg && it.oclus = c) it.pa it.key
    if it.thr.toNat ≤ v.toNat then done v k.pub 0
    else
      let e := it.entry s.nextId
      let s1 := { s with nextId := s.nextId + 1 }
      if k.watches.length < 1024 then s1.modClus c (fun k => { k with watches := k.watches ++ [e] })
      else if it.opkg = s.pkg then (s1.modClus it.oclus (fun k => { k with polls := k.polls ++ [e] })).post .watchPoll { clus := it.oclus, id := e.id }
      else done 0 0 0xFF

def execWatchReq (s : State) : Out :=
  match s.inp.load with
  | .watch it => if paPkg it.pa = s.pkg then .next (s.watchReq it) else .next s
  | _ => .next s

/-- The event WATCH_POLL: one read of a polled word, for a watcher of this package (R303). A word of another package is read
through its owner port by an item. -/
def execWatchPoll (s : State) : Out :=
  match (s.clus s.inp.clus).polls.find? (fun w => w.id = s.inp.id) with
  | none => .next s
  | some w =>
    let ends := fun (it : DoneItem) => (s.modClus s.inp.clus (fun k => { k with polls := k.polls.filter (fun x => x.id ≠ w.id) })).sendDone s.pkg it
    if s.dead.getLsbD (paPkg w.pa) then .next (ends (s.doneOf w 0 0 cDEAD_PEER))
    else if paPkg w.pa ≠ s.pkg then .next (s.askPkg s.inp.clus w.pa w.key 8 (.poll s.inp.clus w.id))
    else if s.ownerRefuses (s.clus w.oclus).fn w.pa || !s.keyOk w.oclus w.pa w.key then .next (ends (s.doneOf w 0 0 cPERM))
    else if s.poison.contains (w.pa / 64) then .next (ends (s.doneOf w 0 0 cDEAD_PEER))
    else
      let v := s.watchedWord (w.oclus = paClus w.pa) w.pa w.key
      if w.thr.toNat ≤ v.toNat then .next (ends (s.doneOf w v (s.clus (paClus w.pa)).pub 0)) else .next s

/-- Whether a tag of a core is BUSY with a watch: its identity and block. -/
def Core.watchBlock (k : Core) (tag : Nat) : Option (Nat × Nat) :=
  match (k.tag tag).st with
  | .busy (.watch i b _) => some (i, b)
  | _ => none

/-- The block of a watch: of the live tag, or of the saved team it belongs to (R381). -/
def State.watchBlk (s : State) (it : DoneItem) : Option Nat :=
  match (s.core it.clus it.core).watchBlock it.tag with
  | some w => if w.1 = it.op then some w.2 else (((s.clus it.clus).savedOp it.op).bind (fun v => v.opOf it.op)).map (·.blk)
  | none => (((s.clus it.clus).savedOp it.op).bind (fun v => v.opOf it.op)).map (·.blk)

/-- An UNWATCH that waits on a core for what becomes of a tag's watch looks again (R305). -/
def State.hearUnwatch (s : State) (c core tag : Nat) : State :=
  [0, 1, 2, 3].foldl (fun u x =>
    match (u.ctx ⟨c, core, x⟩).st with
    | .blocked (.unwatch tg _) => if tg = tag then u.post .unwatchAnswer { pos := ⟨c, core, x⟩ } else u
    | _ => u) s

/-- The basting launch for which a watch reads its word. -/
def State.watchBast (s : State) (it : DoneItem) : Option Nat :=
  let r := (s.core it.clus it.core).tag it.tag
  if r.op = it.op then (s.ctx ⟨it.clus, it.core, r.ctx⟩).bast else none

/-- A watch completion at its watcher: floor, VALUE, tag, in this order (R304). A basting launch's read set lists the word's page (R106); an
uncorrectable error unpicks it (R398). An UNWATCH that waits for it hears. -/
def State.watchDone (s : State) (it : DoneItem) : State :=
  match s.watchBlk it with
  | none => s
  | some blk =>
    let s1 :=
      if it.status ≠ 0 then (if it.status = cDEAD_PEER && !s.dead.getLsbD it.opkg then s.sawPoison (s.watchBast it) else s).endOp it.clus it.core it.tag it.op it.status
      else
        let owner := it.opkg * 128 + it.oclus
        let s2 := if it.opkg = s.pkg && it.oclus = it.clus then s else s.modClus it.clus (fun k => (k.raiseFloor owner it.stamp))
        let r := s2.redirectCells it.clus it.op 0 (cellsAt (corePa s.pkg it.clus it.core (blk + 0x10)) (dwordBytes it.value))
        let s3 := (s2.noteGen (s.watchBast it) it.pa it.gen).performWrite it.clus none r.1 r.2
        (s3.modClus it.clus Clus.acquired).endOp it.clus it.core it.tag it.op 0
    s1.hearUnwatch it.clus it.core it.tag

/-- The core number that stands for the front end, which watches dependences (R58). -/
def frontCore : Nat := 200

/-- The core number that stands for a cluster's sequencer, which watches milestones of other ranks and the abort milestone (R354, R360). -/
def seqCore : Nat := 201

/-- A watch that the full table of another package refused is polled from now on (R303). -/
def State.pollAsked (s : State) (c op : Nat) : State :=
  match (s.clus c).asked.find? (fun w => w.op = op) with
  | none => s
  | some w => (s.modClus c (fun k => { k with asked := k.asked.filter (fun x => x.op ≠ op), polls := k.polls ++ [w] })).post .watchPoll { clus := c, id := w.id }

/-- The event WATCH_DONE: a completion at its watcher, or at the front end, which watches dependences. -/
def execWatchDone (s0 : State) : Out :=
  match s0.inp.load with
  | .done it =>
    if it.status = 0xFF then .next (s0.pollAsked it.clus it.op)
    else
    let s := s0.modClus it.clus (fun k => { k with asked := k.asked.filter (fun x => x.op ≠ it.op) })
    if it.core = frontCore then
      .next (s.post .dependenceSatisfied { id := it.op, load := .dep (if it.status = 0 then .met it.stamp else .failed it.status) })
    else if it.core = seqCore then .next (s.post .collWatchMet { clus := it.clus, id := it.op, load := .done it })
    else .next (s.watchDone it)
  | _ => .next s0

/-- UNWATCH (R305): a tag without a watch is answered at once (log entry 17). -/
def execUnwatch (d : Reg) (tag : Tag) (s : State) : Out :=
  runInstr (.unwatch d tag) s (fun t =>
    match (t.myCore.tag tag.toNat).st with
    | .free => .done (t.modMe (fun c => c.setReg d 2))
    | .done => .done (t.modMe (fun c => c.setReg d 2))
    | .busy (.watch _ _ _) => .wait (t.post .unwatchAnswer { pos := t.cur }) (.unwatch tag.toNat d)
    | .busy _ => tagBusy tag.toNat)

/-- Remove the standing entry or poll of a watch, in this package. -/
def State.dropWatch (s : State) (op : Nat) : State :=
  { s with clusters := s.clusters.map (fun e =>
      (e.1, { e.2 with watches := e.2.watches.filter (fun w => !(w.opkg = s.pkg && w.op = op)),
                       polls := e.2.polls.filter (fun w => w.op ≠ op), asked := e.2.asked.filter (fun w => w.op ≠ op) })) }

/-- Whether an entry or a poll of a watch stands in this package. -/
def State.watchStands (s : State) (op : Nat) : Bool :=
  s.clusters.any (fun e => e.2.watches.any (fun w => w.opkg = s.pkg && w.op = op) ||
    e.2.polls.any (fun w => w.op = op))

/-- Whether a poll's read of a watch is on its way. -/
def State.pollOut (s : State) (op : Nat) : Bool :=
  s.outReads.any (fun o => match o.who with
    | .poll c id => (s.clus c).polls.any (fun w => w.id = id && w.op = op)
    | _ => false)

/-- A watch stands at an owner in another package, which has not completed it here. -/
def State.watchAway (s : State) (op : Nat) : Bool := s.clusters.any (fun e => e.2.asked.any (fun w => w.op = op))

/-- The event UNWATCH_ANSWER (R305): a poll's read on its way is awaited first. For an entry in another package, which R334 gives no item to ask,
the event's flag says that its owner removed it; a watch of this package whose completion is on its way waits for it whatever the flag. -/
def execUnwatchAnswer (s : State) : Out :=
  let p := s.inp.pos
  match (s.ctx p).st with
  | .blocked (.unwatch tag d) =>
    let done (u : State) (v : Word) : Out := .next ((u.modCtx p (fun c => c.setReg d v)).completeAt p ((s.ctx p).pc + 4) true)
    match (s.core p.clus p.core).watchBlock tag with
    | some w =>
      if s.pollOut w.1 then .next s
      else if s.watchStands w.1 || (s.inp.flag && s.watchAway w.1) then
        done ((s.dropWatch w.1).modCore p.clus p.core (fun k => k.setTag tag { k.tag tag with st := .free, err := 0 })) 1
      else .next s
    | none => done s 0
  | _ => .next s

/-! ### Barriers -/

/-- Contexts of the team at a position (R306). -/
def State.teamSize (s : State) (p : Pos) : Nat :=
  (s.ctxs.filter (fun e => e.1.clus = p.clus && e.2.slot = (s.ctx p).slot && e.2.slot.isSome)).length

/-- The generation of a barrier word. -/
def barGen (w : DWord) : Word := w.extractLsb' 32 32

/-- bar_arrive of R307: the generation before, and the word after. -/
def barArrive (w : DWord) (team : Nat) : Word × DWord :=
  let n := (w.extractLsb' 16 16).toNat
  let m := if n = 0 then team else n
  let c := (w.extractLsb' 0 16).toNat + 1
  (barGen w, if m ≤ c then (barGen w + 1) ++ (w.extractLsb' 16 16 ++ 0#16) else w.extractLsb' 16 48 ++ BitVec.ofNat 16 c)

/-- A context that waits at the barrier word of an address. -/
def Wait.atWord (pa : Nat) : Wait → Bool
  | .bar a _ _ => a = pa
  | .barw a _ _ => a = pa
  | _ => false

/-- Whether a barrier word has waiting contexts of another team (R308). -/
def State.barForeign (s : State) (pa : Nat) : Bool :=
  s.ctxs.any (fun e => e.1.clus = s.cur.clus && (match (s.ctx e.1).st with | .blocked w => w.atWord pa | _ => false) && (s.ctx e.1).slot ≠ s.me.slot)

/-- The barrier word that a context of a cluster waits at has another generation than the one it waits out (R307). -/
def State.genMoved (s : State) (p : Pos) : Bool :=
  match (s.ctx p).st with
  | .blocked (.bar pa key g) => barGen (bytesDWord (s.unitRead p.clus (s.ctx p).bast pa key 8)) ≠ g
  | .blocked (.barw pa key g) => barGen (bytesDWord (s.unitRead p.clus (s.ctx p).bast pa key 8)) ≠ g
  | _ => false

/-- An arrival at the word (R307): waiters wake when the generation changes. -/
def State.arrive (s : State) (pa key : Nat) : Word × State :=
  let w := bytesDWord (s.unitRead s.cur.clus s.me.bast pa key 8)
  let r := barArrive w (s.teamSize s.cur)
  let s1 := (s.sees s.cur pa).homeWrite s.cur.clus s.me.bast none key (cellsAt pa (dwordBytes r.2))
  if barGen r.2 = r.1 then (r.1, s1)
  else
    (r.1, s1.wakeAll (fun p x => p.clus = s.cur.clus && x.atWord pa))

/-- The context's PEND names the barrier word of a register: its arrival has been made (R307). -/
def Ctx.hasArrived (c : Ctx) (a : Reg) : Bool :=
  match c.pend with
  | some (e, _) => e = c.pair a
  | none => false

/-- The address of a barrier, checked as for an ATOM, and, for an arrival or a BARW, not another team's (R308). -/
def atBarrier (a : Reg) (arrives : Bool) (t : State) (k : Nat → Nat → Eff) : Eff :=
  let ea := t.me.pair a
  match t.access .home ea 8 .atomic false with
  | .eff e => e
  | .ok pa x => if arrives && t.barForeign pa then .trap cPERM ea 0x20 else k pa x.key

/-- Wait at a barrier word while its generation is g; a completion acquires (R308, R320). -/
def waitGen (t : State) (pa key : Nat) (g : Word) (w : Wait) : Eff :=
  if barGen (bytesDWord (t.unitRead t.cur.clus t.me.bast pa key 8)) ≠ g then
    .done ((t.modMe (fun c => { c with pend := none })).modClus t.cur.clus Clus.acquired)
  else .wait t w

def execBar (a : Reg) (s : State) : Out :=
  runInstr (.bar a) s (fun t =>
    atBarrier a (!t.me.hasArrived a) t (fun pa key =>
      let ea := t.me.pair a
      match t.me.pend with
      | some (e, g0) => if e = ea then waitGen t pa key g0 (.bar pa key g0) else go t pa key ea
      | none => go t pa key ea))
where
  go (t : State) (pa key : Nat) (ea : DWord) : Eff :=
    let r := t.release.arrive pa key
    waitGen (r.2.modMe (fun c => { c with pend := some (ea, r.1) })) pa key r.1 (.bar pa key r.1)

def execBara (d a : Reg) (s : State) : Out :=
  runInstr (.bara d a) s (fun t =>
    atBarrier a true t (fun pa key =>
      let r := t.release.arrive pa key
      .done ((r.2.modMe (fun c => { c with unready := c.unready ++ [⟨d, 1, some [r.1]⟩] })).post .atomReply { pos := t.cur })))

def execBarw (a b : Reg) (s : State) : Out :=
  runInstr (.barw a b) s (fun t => atBarrier a true t (fun pa key =>
    if barGen (bytesDWord (t.unitRead t.cur.clus t.me.bast pa key 8)) ≠ t.me.reg b then .done (t.modClus t.cur.clus Clus.acquired)
    else .wait t (.barw pa key (t.me.reg b))))

/-! ### Convoys (R313, R314) -/

/-- The positions a CONVOY operand names on the issuer's tile. -/
def convoyNamed (p : Pos) (w : Word) : List Pos :=
  ((List.range 8).filter (fun k => w.getLsbD k)).map (fun k => ⟨p.clus, p.core / 8 * 8 + k, (w.extractLsb' 8 2).toNat⟩)

/-- Complete a waiting member behind its instruction, outside any convoy. -/
def State.release1 (s : State) (p : Pos) : State :=
  (s.modCtx p (fun c => { c with convoy := none, convoyWait := none, fwded := false })).completeAt p ((s.ctx p).pc + 4) true

/-- Form a convoy of the arrived positions: the leader, and as followers those at its address (R313, R129); without a
follower none forms. A follower whose own end-of-body decision goes elsewhere departs at once and stays a participant (R127). -/
def State.form (s : State) (leader : Pos) (arrived : List Pos) : State :=
  let pc := (s.ctx leader).pc
  let fol := arrived.filter (fun q => q ≠ leader && (s.ctx q).pc = pc)
  let s1 := arrived.foldl (fun u q => u.release1 q) s
  if fol = [] then s1
  else
    let id := s1.nextId
    let s2 := { s1 with nextId := id + 1 }
    fol.foldl (fun u q => u.modCtx q (fun c => { c with convoy := some ⟨id, false, c.pc = (s1.ctx leader).pc, []⟩ }))
      (s2.modCtx leader (fun c => { c with convoy := some ⟨id, true, true, []⟩ }))

/-- The first of a list of positions at the lowest address, lowest core first. -/
def State.lowestAt (s : State) (l : List Pos) : Option Pos :=
  l.foldl (fun acc q =>
    match acc with
    | none => some q
    | some b => if (s.ctx q).pc < (s.ctx b).pc then some q else some b) none

def CtxSt.isHalted : CtxSt → Bool
  | .halted => true
  | .free => false
  | .ready => false
  | .blocked _ => false

/-- A member of a convoy; a follower that only drains what a dissolved convoy left in its queue is none (R128). -/
def Ctx.member (c : Ctx) : Bool :=
  match c.convoy with
  | some v => v.id ≠ 0
  | none => false

def execConvoy (m : Reg) (s : State) : Out :=
  runInstr (.convoy m) s (fun t =>
    let w := (t.me.reg m) &&& 0x3FF
    let named := convoyNamed t.cur w
    if named.length < 2 then .trap cPERM 0 0x31
    else if !named.contains t.cur then .trap cPERM 0 0x32
    else if named.any (fun q => (t.ctx q).slot ≠ t.me.slot || (t.ctx q).slot = none) then .trap cPERM 0 0x33
    else if named.any (fun q => (t.ctx q).member) then .trap cPERM 0 0x34
    else
      let t1 := t.modMe (fun c => { c with convoyWait := some w })
      let arrivedQ := fun q => q = t.cur || ((t1.ctx q).st = .blocked .convoy && (t1.ctx q).convoyWait = some w)
      if named.all (fun q => arrivedQ q || (t1.ctx q).st.isHalted) then
        let arrived := named.filter arrivedQ
        match t1.lowestAt arrived with
        | some leader => .final (t1.form leader arrived)
        | none => .done t1
      else .wait t1 .convoy)

/-- The participants of the convoy of a context. -/
def State.participants (s : State) (p : Pos) (id : Nat) : List Pos :=
  (List.range 8).flatMap (fun k => [0, 1, 2, 3].filterMap (fun x =>
    let q : Pos := ⟨p.clus, p.core / 8 * 8 + k, x⟩
    match (s.ctx q).convoy with
    | some v => if v.id = id then some q else none
    | none => none))

/-- CJOIN: a barrier among the participants, after which the convoy forms again (R129); a NOP outside a convoy. -/
def execCjoin (s : State) : Out :=
  runInstr .cjoin s (fun t =>
    match t.me.convoy with
    | none => .done t
    | some v =>
      if v.id = 0 then .done t
      else
        let ps := t.participants t.cur v.id
        let arrivedQ := fun q => q = t.cur || (t.ctx q).st = .blocked .cjoin
        if ps.all (fun q => arrivedQ q || (t.ctx q).st.isHalted) then
          let arrived := ps.filter arrivedQ
          let old := ps.find? (fun q => match (t.ctx q).convoy with | some x => x.leader | none => false)
          let leader := match old with
            | some q => if arrived.contains q then q else arrived.headD t.cur
            | none => arrived.headD t.cur
          .final (t.form leader arrived)
        else .wait t .cjoin)

/-- CLEAVE: the leader's convoy dissolves, a follower leaves for good (R127, R128); a NOP outside a convoy. What CLEAVE or a trap does to the
convoy in a leader that has departed by pre-emption and has not reached the next CJOIN the spec does not say: such a leader counts as a departed
follower, and the convoy does not dissolve (DESIGN CHOICE, log entry 50). -/
def execCleave (s : State) : Out :=
  runInstr .cleave s (fun t =>
    match t.me.convoy with
    | none => .done t
    | some v =>
      let t1 := t.modMe (fun c => { c with convoy := none })
      let t2 := if v.leader && v.inside then dissolve t1 t.cur v.id else feedConvoy t1 t.cur v.id
      .done (t2.wakeAll (fun q w => q.clus = t.cur.clus && w = .cjoin)))

end Sys2Proof.Machine
end

