-- ==== Sys2Proof/Machine/Message.lean ====
section
/-! DEFINITION. Messages (R309 to R312) and the context's side of ENQ and ENQT (R315), with the counters of R390. -/

namespace Sys2Proof.Machine

/-- Queue and sequence number of LNCH (R61). -/
def launchId (lnch : Word) : Nat × Nat := ((lnch.extractLsb' 24 8).toNat, (lnch.extractLsb' 0 24).toNat)

/-- Change a launch's counters in a cluster's router (R390). -/
def State.count (s : State) (c : Nat) (lnch : Word) (f : Counters → Counters) : State :=
  s.modClus c (fun k => { k with counters := Assoc.put (launchId lnch) (f (Assoc.get {} (launchId lnch) k.counters)) k.counters })

/-- A message or a request of a context leaves for a package under a number, counted for its launch by f (R390). -/
def State.sends (s : State) (p : Pos) (num : Nat) (lnch : Word) (pkg : Nat) (f : Counters → Counters) : State :=
  (s.count p.clus lnch f).modClus p.clus (fun k => { k with outMsgs := Assoc.put num ⟨launchId lnch, pkg, p⟩ k.outMsgs })

/-- What the router of a cluster awaits under a number. -/
def Clus.outMsg (k : Clus) (num : Nat) : Option OutMsg := (k.outMsgs.find? (fun e => e.1 = num)).map (·.2)

/-- The answer to a number has come and is counted for its launch by f, whoever holds the sender's position by now; a launch that the router
counts no more is not counted again (R390). -/
def State.answered (s : State) (c num : Nat) (f : Counters → Counters) : State :=
  match (s.clus c).outMsg num with
  | none => s
  | some o => s.modClus c (fun k => { k with
      outMsgs := Assoc.del num k.outMsgs,
      counters := if Assoc.has o.launch k.counters then Assoc.put o.launch (f (Assoc.get {} o.launch k.counters)) k.counters else k.counters })

/-- The fields of a destination word (R309). -/
def destPkg (w : Word) : Nat := (w.extractLsb' 20 12).toNat
def destPos (w : Word) : Pos := ⟨(w.extractLsb' 13 7).toNat, (w.extractLsb' 6 7).toNat, (w.extractLsb' 0 2).toNat⟩

/-- Send a message towards its router: an event of this package or an item (R309). -/
def State.sendMsg (s : State) (it : MsgItem) : State :=
  let d := destPos it.dest
  if destPkg it.dest = s.pkg then s.post .msg { load := .msg it }
  else s.queueItem (destPkg it.dest) it.src.clus d.clus (.msg it)

/-- The answer goes to the sender (R309). -/
def State.answerMsg (s : State) (it : MsgItem) (core : Nat) (a : MsgAns) : State :=
  if it.opkg = s.pkg then s.post .msgAnswer { pos := it.src, id := it.num, load := .msgAns a }
  else s.queueItem it.opkg core it.src.clus (.msgAnswer it.src it.num a)

/-- SEND and SENDT up to the wait: an answer still awaited, the dead-peer bit, deferral in a basting launch, the release,
the message (R311). -/
def sendBody (listed : Bool) (d : Option Reg) (src : Reg) (dst : Reg) (t : State) : Eff :=
  if t.me.ans.isSome || t.replaying t.cur then .wait t .result  -- a SENDT's answer (R311)
  else
    let w := t.me.reg dst
    if t.dead.getLsbD (destPkg w) then .trap cDEAD_PEER 0 0
    else
      let it : MsgItem := ⟨t.pkg, t.cur, t.nextId, t.me.lnch, listed, w, t.me.group src 8⟩
      let t1 : State := { t with nextId := t.nextId + 1 }
      match t.me.bast with
      | some q =>
        let u := t1.defer q 1 (.msg it)
        (match d with
         | some r => .done (u.modMe (fun c => c.setReg r 0))
         | none => .done u)
      | none =>
        let u := (t1.release.sends t.cur it.num t.me.lnch (destPkg w) (fun k => { k with miss := k.miss + 1 })).sendMsg it
        match d with
        | some r => .done (u.modMe (fun c => { c with ans := some (.sendt, r), ansId := it.num, ansPkg := destPkg w, unready := c.unready ++ [⟨r, 1, none⟩] }))
        | none => .wait (u.modMe (fun c => { c with ans := some (.send, 0), ansId := it.num, ansPkg := destPkg w })) (.answer .send)

def execSend (src t : Reg) (s : State) : Out := runInstr (.send src t) s (sendBody true none src t)
def execSendt (d src t : Reg) (s : State) : Out := runInstr (.sendt d src t) s (sendBody false (some d) src t)

/-- A slot of a mailbox frees: the first sender of the list is notified, or a waiting message of the translation unit comes
in (R309, R372). -/
def State.mailFreed (s : State) (c core : Nat) : State :=
  let s0 := if core = 0 then s.pumpMsgs c else s
  match (s0.core c core).senders with
  | [] => s0
  | it :: rest =>
    if (s0.core c core).mail.length < 16 then
      (s0.modCore c core (fun k => { k with senders := rest })).answerMsg it c .notify
    else s0

/-- Take the oldest message held for a context. -/
def takeMail (x : Nat) : List Msg → Option (Msg × List Msg)
  | [] => none
  | m :: ms => if m.ctx = x then some (m, ms) else (takeMail x ms).map (fun r => (r.1, m :: r.2))

def execRecv (d : Reg) (s : State) : Out :=
  runInstr (.recv d) s (fun t =>
    match takeMail t.cur.ctx t.myCore.mail with
    | none => .wait t .recv
    | some r =>
      .done (((t.modMyCore (fun k => { k with mail := r.2, taken := k.taken + 1 })).modMe (fun c => c.setGroup d (r.1.body.take 8))).mailFreed t.cur.clus t.cur.core))

def execRecvt (d st : Reg) (s : State) : Out :=
  runInstr (.recvt d st) s (fun t =>
    match takeMail t.cur.ctx t.myCore.mail with
    | none => .done (t.modMe (fun c => c.setReg st 0))
    | some r =>
      .done (((t.modMyCore (fun k => { k with mail := r.2, taken := k.taken + 1 })).modMe (fun c => (c.setGroup d (r.1.body.take 8)).setReg st 1)).mailFreed t.cur.clus t.cur.core))

/-- Put a message into a mailbox and wake its context (R120). -/
def State.deliverMsg (s : State) (q : Pos) (body : List Word) : State :=
  let s1 := s.modCore q.clus q.core (fun k => { k with mail := k.mail ++ [⟨q.ctx, body⟩] })
  if (s1.ctx q).st = .blocked .recv then s1.wake q else s1

/-- A message for one of a core's contexts: the stall counts of the teams on the core start again (R133). -/
def State.unstallCore (s : State) (c n : Nat) : State := [0, 1, 2, 3].foldl (fun u x => u.unstall ⟨c, n, x⟩) s

/-- A message at the target's router (R309): accepted, full (a SEND joins the list), or refused. One for a saved team goes to
its image (R381). -/
def State.msgArrive (s0 : State) (it : MsgItem) : State :=
  let q := destPos it.dest
  let s := s0.unstallCore q.clus q.core
  let list := fun (u : State) => if it.listed then u.modCore q.clus q.core (fun k => { k with senders := k.senders ++ [it] }) else u
  let c := s.ctx q
  let saved := (s.clus q.clus).saved.find? (fun v => v.launch = launchId it.launch && v.positions.contains (q.core, q.ctx))
  if c.slot.isSome && c.lnch = it.launch then
    if (s.core q.clus q.core).mail.length < 16 then (s.deliverMsg q it.body).answerMsg it q.clus .accept
    else
      (list s).answerMsg it q.clus .full
  else
    match saved with
    | some v =>
      if v.mailCount q.core < 16 then (s.applyCompletion q.clus v (.message q it.body)).answerMsg it q.clus .accept
      else (list s).answerMsg it q.clus .full
    | none => s.answerMsg it q.clus .refuse

def execMsg (s : State) : Out :=
  match s.inp.load with
  | .msg it => if destPkg it.dest = s.pkg then .next (s.msgArrive it) else .next s
  | _ => .next s

/-- The register that receives the status of a SENDT or ENQT, and the wake of whoever waits for it. -/
def State.statusTo (s : State) (p : Pos) (r : Reg) (v : Word) : State :=
  let s1 := s.modCtx p (fun c => { c.setReg r v with unready := c.unready.filter (fun u => u.val.isSome || u.dst ≠ r) })
  if (s1.ctx p).st = .blocked .result then s1.wake p else s1

/-- The answer at the sender (R311): ACCEPT completes a SEND, FULL keeps it, a notification sends again, REFUSE and a dead peer trap; SENDT
receives 0 to 3. A context that awaits another number, or none, is not concerned. -/
def State.liveAnswer (s : State) (p : Pos) (num : Nat) (a : MsgAns) : State :=
  let c := s.ctx p
  if c.ansId ≠ num then s
  else
  match c.ans with
  | some (.send, _) =>
    let free := s.modCtx p (fun c => { c with ans := none, full := false })
    (match a with
     | .accept => free.completeAt p (c.pc + 4) true
     | .full => s.modCtx p (fun c => { c with full := true })
     | .notify => if c.full then free.wake p else s
     | .refuse => free.takeTrap p cPERM 0 0x32 c.pc
     | .dead => free.takeTrap p cDEAD_PEER 0 0 c.pc)
  | some (.sendt, r) =>
    let free := s.modCtx p (fun c => { c with ans := none })
    (match a with
     | .accept => free.statusTo p r 0
     | .full => free.statusTo p r 1
     | .refuse => free.statusTo p r 2
     | .dead => free.statusTo p r 3
     | .notify => s)
  | _ => s

/-- The word LNCH of a launch (R61). -/
def lnchWord (k : Nat × Nat) : Word := BitVec.ofNat 32 (k.1 % 256 * 2 ^ 24 + k.2 % 2 ^ 24)

/-- An answer reaches the sender's router: it is counted (R390), an ACCEPT also at the sender's core (R311), and goes to the context, or to the
image of the saved team that awaits its number (R312). A context number of 8 and more stands for the front end, which replays an effect of the
context 8 below (R108). -/
def State.msgAnswer (s0 : State) (p : Pos) (num : Nat) (a : MsgAns) : State :=
  let s1 := if a = .notify then s0 else s0.answered p.clus num (fun k => { k with mans := k.mans + 1 })
  let s := if a = .accept then s1.modCore p.clus p.core (fun k => { k with accepted := k.accepted + 1 }) else s1
  if a ≠ .notify && ((s0.clus p.clus).outMsg num).isNone then s0
  else if 8 ≤ p.ctx then s.post .basteCommitted { pos := p, id := num, flag := true, load := .msgAns a }
  else match (if a = .notify then none else (s.clus p.clus).savedAwaits num) with
  | some v => s.applyCompletion p.clus v (.answer p a)
  | none => s.liveAnswer p num a

def execMsgAnswer (s : State) : Out :=
  match s.inp.load with
  | .msgAns a => .next (s.msgAnswer s.inp.pos s.inp.id a)
  | _ => .next s

/-! ### ENQ and ENQT (R315) -/

/-- What ENQ and ENQT read: with GROW = 1 the address is not read. -/
def enqReads (i : Instr) (src q : Reg) (s : State) : List (Reg × Nat) :=
  let t := s.modMe Ctx.deliver
  if ((t.streamView t.cur (t.me.streamsOf [(q, 1)])).me.reg q).getLsbD 31 then [(q, 1)] else [(src, 1), (q, 1)]

/-- ENQ and ENQT up to the wait: the record's address, deferral, the release, the request. ENQT does not wait for an earlier status; ENQ,
which keeps its context until its own, waits for an outstanding answer first. -/
def enqBody (d : Option Reg) (src q : Reg) (t : State) : Eff :=
  if (d.isNone && t.me.ans.isSome) || t.replaying t.cur then .wait t .result
  else
    let w := t.me.reg q
    let a := (t.me.reg src).toNat
    let grow := w.getLsbD 31
    if !grow && a % 64 ≠ 0 then .trap cALIGN (BitVec.ofNat 64 a) 0
    else if !grow && 0x8000 < a + 256 then .trap cPERM (BitVec.ofNat 64 a) 0x3F
    else if !grow && t.blockPoison a 256 then poisonEff t (BitVec.ofNat 64 a) 0
    else
      let rec_ := if grow then [] else t.coreBytes a 256
      match t.me.bast with
      | some qq =>
        let u := t.defer qq (if grow then 1 else 5) (.enq t.cur w rec_)
        (match d with
         | some r => .done (u.modMe (fun c => c.setReg r 0))
         | none => .done u)
      | none =>
        let num := t.nextId
        let u := (({ t with nextId := num + 1 } : State).release.sends t.cur num t.me.lnch t.pkg (fun k => { k with eiss := k.eiss + 1 })).post .enqRequest
          { pos := t.cur, id := num, val := w.setWidth 64, bytes := rec_, flag := d.isNone }
        match d with
        | some r => .done (u.modMe (fun c => { c with enqts := c.enqts ++ [(r, num)], unready := c.unready ++ [⟨r, 1, none⟩] }))
        | none => .wait (u.modMe (fun c => { c with ans := some (.enq, 0), ansId := num })) (.answer .enq)

def execEnq (src q : Reg) (s : State) : Out := runReading (.enq src q) (enqReads (.enq src q) src q s) s (enqBody none src q)
def execEnqt (d src q : Reg) (s : State) : Out := runReading (.enqt d src q) (enqReads (.enqt d src q) src q s) s (enqBody (some d) src q)

/-- The front end's status at the context (R315), for its ENQT or its ENQ of the number; 4 stands for the notification that a slot has freed. -/
def State.liveEnq (s : State) (p : Pos) (num status : Nat) : State :=
  let c := s.ctx p
  match (if status = 4 then none else c.enqts.find? (fun e => e.2 = num)), c.ans with
  | some r, _ => (s.modCtx p (fun c => { c with enqts := c.enqts.filter (fun e => e.2 ≠ num) })).statusTo p r.1 (BitVec.ofNat 32 status)
  | none, some (.enq, _) =>
    let free := s.modCtx p (fun c => { c with ans := none, full := false })
    if status = 4 then (if c.full then free.wake p else s)
    else if c.ansId ≠ num then s
    else if status = 0 then free.completeAt p (c.pc + 4) true
    else if status = 1 then s.modCtx p (fun c => { c with full := true })
    else free.takeTrap p cPERM 0 (BitVec.ofNat 32 (0x30 + status)) c.pc
  | none, _ => s

/-- A status reaches the sender's router, which counts it (R390), and goes to its context, or to the image of the saved team that awaits its
number. -/
def State.enqAnswer (s0 : State) (p : Pos) (num status : Nat) : State :=
  let s := if status = 4 then s0 else s0.answered p.clus num (fun k => { k with eans := k.eans + 1 })
  if status ≠ 4 && ((s0.clus p.clus).outMsg num).isNone then s0
  else if 8 ≤ p.ctx then s.post .basteCommitted { pos := p, id := num, flag := true, load := .msgAns .notify }
  else match (if status = 4 then none else (s.clus p.clus).savedAwaits num) with
  | some v => s.applyCompletion p.clus v (.enqStatus p status)
  | none => s.liveEnq p num status

def execEnqAnswer (s : State) : Out := .next (s.enqAnswer s.inp.pos s.inp.id s.inp.n)

end Sys2Proof.Machine
end

