-- ==== Sys2Proof/Machine/Float.lean ====
section
/-! DEFINITION. Numbers: the formats of R69 to R73 as exact values, rounding (R76, R77), conversion (R80), arithmetic results
(R79), plane form (R84), the quantiser (R86) and the sums of R87 and R88. -/

namespace Sys2Proof.Machine

/-! ### Formats (R69, R71) -/

/-- Fraction bits of a floating format. -/
def fracBits : Ty → Nat
  | .fp32 => 23
  | .bf16 => 7
  | .fp16 => 10
  | .e4m3 => 3
  | .e5m2 => 2
  | _ => 0

/-- Exponent bits of a floating format. -/
def expBits : Ty → Nat
  | .fp32 => 8
  | .bf16 => 8
  | .fp16 => 5
  | .e4m3 => 4
  | .e5m2 => 5
  | _ => 0

/-- The bias of a floating format. -/
def tyBias (t : Ty) : Nat := 2 ^ (expBits t - 1) - 1

/-- The canonical NaN (R69). -/
def canonNan : Ty → Word
  | .fp32 => 0x7FC00000#32
  | .bf16 => 0x7FC0#32
  | .fp16 => 0x7E00#32
  | .e4m3 => 0x7F#32
  | .e5m2 => 0x7E#32
  | _ => 0

/-- The largest finite magnitude's encoding (R69). -/
def maxFinite : Ty → Nat
  | .fp32 => 0x7F7FFFFF
  | .bf16 => 0x7F7F
  | .fp16 => 0x7BFF
  | .e4m3 => 0x7E
  | .e5m2 => 0x7B
  | _ => 0

/-- The sign bit's place. -/
def signBit (t : Ty) : Nat := fracBits t + expBits t

/-- An exact value: not a number, an infinity, or (-1)^neg times mag times 2^exp. -/
inductive Fl where
  | nan
  | inf (neg : Bool)
  | fin (neg : Bool) (mag : Nat) (exp : Int)
  deriving DecidableEq, Repr

/-- The value of an encoding of a floating format (R70). -/
def flOf (t : Ty) (v : Word) : Fl :=
  let f := fracBits t
  let neg := v.getLsbD (signBit t)
  let e := v.toNat / 2 ^ f % 2 ^ expBits t
  let m := v.toNat % 2 ^ f
  if t = .e4m3 then
    if e = 15 && m = 7 then .nan
    else if e = 0 then .fin neg m (1 - 7 - 3) else .fin neg (m + 8) ((e : Int) - 7 - 3)
  else if e = 2 ^ expBits t - 1 then (if m = 0 then .inf neg else .nan)
  else if e = 0 then .fin neg m (1 - (tyBias t : Int) - f)
  else .fin neg (m + 2 ^ f) ((e : Int) - tyBias t - f)

/-- The value of an integer. -/
def flInt (n : Int) : Fl := .fin (decide (n < 0)) n.natAbs 0

/-- The exact value of a lane of a type (R70, R71). -/
def laneVal (t : Ty) (v : Word) : Fl :=
  match t with
  | .int32 => flInt v.toInt
  | .int8 => flInt (v.setWidth 8).toInt
  | .uint8 => flInt ((v.setWidth 8).toNat : Int)
  | _ => flOf t v

/-! ### Rounding (R76, R77) -/

/-- floor(log2 mag) + 1. -/
def bitLen (mag : Nat) : Nat := if mag = 0 then 0 else Nat.log2 mag + 1

/-- Round the magnitude mag times 2^exp, and a little more where sticky, to a multiple of 2^q: the multiple. step is the
generator step RSTO uses (R77). -/
def roundAt (mode : RMode) (step : Word) (neg : Bool) (mag : Nat) (exp : Int) (sticky : Bool) (q : Int) : Nat :=
  if q ≤ exp then mag * 2 ^ (exp - q).toNat
  else
    let sh := (q - exp).toNat
    let t := mag / 2 ^ sh
    let r := mag % 2 ^ sh
    let up : Bool :=
      match mode with
      | .rne => 2 ^ sh < 2 * r || (2 * r = 2 ^ sh && (sticky || t % 2 = 1))
      | .rtz => false
      | .rdn => neg && (r ≠ 0 || sticky)
      | .rup => !neg && (r ≠ 0 || sticky)
      | .rsto => (step >>> 8).toNat < r * 2 ^ 24 / 2 ^ sh
    if up then t + 1 else t

/-- The exponent of the last place of a value of a floating format: subnormals below, unbounded above (R76). -/
def lastPlace (t : Ty) (mag : Nat) (exp : Int) : Int :=
  max (exp + (bitLen mag : Int) - 1) (1 - (tyBias t : Int)) - fracBits t

/-- The encoding of n times 2^q without its sign, q a last place of the format and n below 2^(f + 1) + 1; it exceeds maxFinite
where the value does. -/
def encodeMag (t : Ty) (n : Nat) (q : Int) : Nat :=
  let f := fracBits t
  if n < 2 ^ f then n
  else
    let e := (q + f + tyBias t).toNat
    e * 2 ^ f + (n - 2 ^ f)

/-- A rounded magnitude: its encoding, whose excess over maxFinite is an overflow. -/
def roundMag (t : Ty) (mode : RMode) (step : Word) (neg : Bool) (mag : Nat) (exp : Int) (sticky : Bool) : Nat :=
  let q := lastPlace t mag exp
  encodeMag t (roundAt mode step neg mag exp sticky q) q

/-- The sign bit of a format, or 0. -/
def signOf (t : Ty) (neg : Bool) : Word := if neg then 1#32 <<< signBit t else 0

/-- The infinity of a format that has one. -/
def infOf (t : Ty) (neg : Bool) : Word := signOf t neg ||| BitVec.ofNat 32 ((2 ^ expBits t - 1) * 2 ^ fracBits t)

/-- The result of an arithmetic overflow (R76). -/
def overflowTo (t : Ty) (mode : RMode) (neg : Bool) : Word :=
  let big := signOf t neg ||| BitVec.ofNat 32 (maxFinite t)
  match mode with
  | .rne => infOf t neg
  | .rsto => infOf t neg
  | .rtz => big
  | .rup => if neg then big else infOf t neg
  | .rdn => if neg then infOf t neg else big

/-- round_fmt of an exact value with a sticky remainder, in arithmetic (R76, R79). -/
def roundFl (t : Ty) (mode : RMode) (step : Word) (sticky : Bool) : Fl → Word
  | .nan => canonNan t
  | .inf neg => infOf t neg
  | .fin neg mag exp =>
    let n := roundMag t mode step neg mag exp sticky
    if maxFinite t < n then overflowTo t mode neg else signOf t neg ||| BitVec.ofNat 32 n

/-- round_int of a value (R76). -/
def roundInt (mode : RMode) (step : Word) (neg : Bool) (mag : Nat) (exp : Int) : Int :=
  let n := roundAt mode step neg mag exp false 0
  if neg then -(n : Int) else n

/-! ### Conversions (R80) -/

/-- A conversion: its result, or an overflow with the saturated result, special where the source is a NaN or an infinity. -/
inductive Conv where
  | ok (v : Word)
  | over (special : Bool) (sat : Word)
  deriving DecidableEq, Repr

/-- Smallest and largest value of an integer type. -/
def intRange : Ty → Int × Int
  | .int8 => (-128, 127)
  | .uint8 => (0, 255)
  | _ => (-2147483648, 2147483647)

/-- An integer as a lane of a type, modulo its width. -/
def intLane (t : Ty) (n : Int) : Word :=
  match t with
  | .int32 => BitVec.ofInt 32 n
  | _ => (BitVec.ofInt 8 n).setWidth 32

/-- The conversion of an exact value to a type (R80). -/
def convertFl (t : Ty) (mode : RMode) (step : Word) (v : Fl) : Conv :=
  if t.isInt then
    let r := intRange t
    match v with
    | .nan => .over true 0
    | .inf neg => .over true (intLane t (if neg then r.1 else r.2))
    | .fin neg mag exp =>
      let n := roundInt mode step neg mag exp
      if n < r.1 then .over false (intLane t r.1) else if r.2 < n then .over false (intLane t r.2) else .ok (intLane t n)
  else
    match v with
    | .nan => .ok (canonNan t)
    | .inf neg => if t = .e4m3 then .over true (signOf t neg ||| BitVec.ofNat 32 (maxFinite t)) else .ok (infOf t neg)
    | .fin neg mag exp =>
      let n := roundMag t mode step neg mag exp false
      if maxFinite t < n then .over false (signOf t neg ||| BitVec.ofNat 32 (maxFinite t)) else .ok (signOf t neg ||| BitVec.ofNat 32 n)

/-! ### Exact arithmetic (R79) -/

def Fl.neg : Fl → Fl
  | .nan => .nan
  | .inf n => .inf (!n)
  | .fin n m e => .fin (!n) m e

/-- The exact product; 0 times an infinity is no number. -/
def Fl.mul : Fl → Fl → Fl
  | .nan, _ => .nan
  | _, .nan => .nan
  | .inf a, .inf b => .inf (a ^^ b)
  | .inf a, .fin b m _ => if m = 0 then .nan else .inf (a ^^ b)
  | .fin a m _, .inf b => if m = 0 then .nan else .inf (a ^^ b)
  | .fin a m e, .fin b n f => .fin (a ^^ b) (m * n) (e + f)

/-- A value times a power of two. -/
def Fl.scale (k : Int) : Fl → Fl
  | .nan => .nan
  | .inf n => .inf n
  | .fin n m e => .fin n m (e + k)

def Fl.isNan : Fl → Bool
  | .nan => true
  | .inf _ => false
  | .fin _ _ _ => false

/-- Not a number or an infinity. -/
def Fl.special : Fl → Bool
  | .nan => true
  | .inf _ => true
  | .fin _ _ _ => false

def Fl.isInf (neg : Bool) : Fl → Bool
  | .nan => false
  | .inf n => n == neg
  | .fin _ _ _ => false

def Fl.isZero : Fl → Bool
  | .nan => false
  | .inf _ => false
  | .fin _ m _ => m = 0

def Fl.sign : Fl → Bool
  | .nan => false
  | .inf n => n
  | .fin n _ _ => n

/-- The exponent of a finite value, or the bound. -/
def Fl.expOr (d : Int) : Fl → Int
  | .nan => d
  | .inf _ => d
  | .fin _ _ e => e

/-- The signed integer of a finite value in units of 2^q, q at most its exponent. -/
def Fl.units (q : Int) : Fl → Int
  | .nan => 0
  | .inf _ => 0
  | .fin n m e => (if n then -1 else 1) * ((m * 2 ^ (e - q).toNat : Nat) : Int)

/-- The exact sum of terms (R79, R254): an exact zero keeps the sign of terms that are all zeros of one sign, and is else +0,
or -0 under RDN. -/
def flSum (mode : RMode) (l : List Fl) : Fl :=
  if l.any Fl.isNan || (l.any (Fl.isInf true) && l.any (Fl.isInf false)) then .nan
  else if l.any (Fl.isInf true) then .inf true
  else if l.any (Fl.isInf false) then .inf false
  else
    let q := l.foldl (fun m x => min m (x.expOr m)) ((l.headD .nan).expOr 0)
    let n : Int := l.foldl (fun a x => a + x.units q) 0
    if n = 0 then
      if l.all (fun x => x.isZero && x.sign) then .fin true 0 0
      else if l.all (fun x => x.isZero && !x.sign) then .fin false 0 0
      else .fin (mode = .rdn) 0 0
    else .fin (decide (n < 0)) n.natAbs q

/-- Less than, for values that are numbers; zeros are equal. -/
def Fl.lt (a b : Fl) : Bool :=
  match a, b with
  | .nan, _ => false
  | _, .nan => false
  | .inf x, .inf y => x && !y
  | .inf x, .fin _ _ _ => x
  | .fin _ _ _, .inf y => !y
  | .fin x m e, .fin y n f => (Fl.fin x m e).units (min e f) < (Fl.fin y n f).units (min e f)

def Fl.eq (a b : Fl) : Bool := !a.isNan && !b.isNan && !a.lt b && !b.lt a

/-! ### Reciprocal, square root, power (R255; log entry 13) -/

/-- The greatest r below 2^k with r * r at most n, found bit by bit. -/
def isqrt (n : Nat) : Nat → Nat → Nat
  | 0, r => r
  | k + 1, r => isqrt n k (if (r + 2 ^ k) * (r + 2 ^ k) ≤ n then r + 2 ^ k else r)

/-- 1 / a: value and whether a remainder was cut off. -/
def flRcp : Fl → Fl × Bool
  | .nan => (.nan, false)
  | .inf n => (.fin n 0 0, false)
  | .fin n m e =>
    if m = 0 then (.inf n, false)
    else
      let k := bitLen m + 64
      (.fin n (2 ^ k / m) (-(k : Int) - e), 2 ^ k % m ≠ 0)

/-- 1 / sqrt a. -/
def flRsq : Fl → Fl × Bool
  | .nan => (.nan, false)
  | .inf n => (if n then .nan else .fin false 0 0, false)
  | .fin n m e =>
    if m = 0 then (.inf n, false)
    else if n then (.nan, false)
    else
      let m' := if e % 2 = 0 then m else 2 * m
      let h := (if e % 2 = 0 then e else e - 1) / 2
      let k := bitLen m' + 64
      let r := isqrt (2 ^ (2 * k) / m') (k + 1) 0
      (.fin false r (-(k : Int) - h), r * r * m' ≠ 2 ^ (2 * k))

/-- ln 2 times 2^200, rounded down. -/
def ln2Fixed : Nat := 1113844574712631719546256151097547306333272293549090750737802

/-- The terms of the power series of 2^f at 200 fraction bits, from the term t of index i on. -/
def exp2Series (f : Nat) : Nat → Nat → Nat → Nat
  | 0, _, _ => 0
  | n + 1, i, t => t + exp2Series f n (i + 1) (t * (f * ln2Fixed / 2 ^ 200) / 2 ^ 200 / (i + 1))

/-- 2^a: exact for an integer, else 128 fraction bits and a remainder. -/
def flExp2 : Fl → Fl × Bool
  | .nan => (.nan, false)
  | .inf n => (if n then .fin false 0 0 else .inf false, false)
  | .fin n m e =>
    let a := (Fl.fin n m e).units (min e 0)
    let k := (-(min e 0)).toNat
    let w := a / (2 ^ k : Nat)
    let f := (a % (2 ^ k : Nat)).toNat * 2 ^ 200 / 2 ^ k
    if 1000 < w then (.fin false 1 1000, false)
    else if w < -1000 then (.fin false 1 (-1000), true)
    else if f = 0 then (.fin false 1 w, false)
    else (.fin false (exp2Series f 60 0 (2 ^ 200) / 2 ^ 72) (w - 128), true)

/-! ### EX4 (R73) -/

/-- The eight magnitudes of E2M1 in halves. -/
def e2m1Halves (c : Nat) : Nat := [0, 1, 2, 3, 4, 6, 8, 12].getD (c % 8) 0

/-- ex4_value of R73. -/
def ex4Value (code scale spare : Nat) : Fl :=
  if scale = 255 then .nan
  else if code = 8 then .fin (spare % 16 ≠ 0 && 128 ≤ spare) (spare % 16) ((scale : Int) - 128)
  else .fin (decide (8 ≤ code)) (e2m1Halves code) ((scale : Int) - 128)

/-- The signed halves of an EX4 element, its scale apart (R84). -/
def ex4Halves (code spare : Nat) : Int :=
  if code = 8 then (if 128 ≤ spare then -((spare % 16 : Nat) : Int) else (spare % 16 : Nat))
  else if 8 ≤ code then -(e2m1Halves code : Int) else e2m1Halves code

/-- Code i of a block's element bytes. -/
def ex4Code (l : List Byte) (i : Nat) : Nat :=
  let b := (l.getD (i / 2) 0).toNat
  if i % 2 = 0 then b % 16 else b / 16

/-! ### Plane form (R84) -/

def PlaneBlk.zero (nan : Bool) : PlaneBlk := ⟨nan, 0, List.replicate 32 0⟩

/-- One step of the generator for each rounding under RSTO (R77). -/
def stepIf (mode : RMode) (seed : Word) : Word := if mode = .rsto then xsStep seed else seed

/-- floor(log2 |x|) of a finite value that is not zero. -/
def Fl.log2 : Fl → Int
  | .nan => 0
  | .inf _ => 0
  | .fin _ m e => e + (bitLen m : Int) - 1

/-- Round elements to multiples of 2^b in p bits, ascending, with the generator (R84). -/
def planeInts (mode : RMode) (p : Nat) (b : Int) : List Fl → Word → List Int × Word
  | [], seed => ([], seed)
  | x :: xs, seed =>
    let s := stepIf mode seed
    let n := match x with
      | .fin neg m e => roundInt mode s neg m (e - b)
      | .inf _ => 0
      | .nan => 0
    let r := planeInts mode p b xs s
    ((if n = 2 ^ (p - 1) then 2 ^ (p - 1) - 1 else n) :: r.1, r.2)

/-- plane_block of R84, and the generator behind it. -/
def planeBlock (mode : RMode) (p : Nat) (l : List Fl) (seed : Word) : PlaneBlk × Word :=
  if l.any Fl.special then (PlaneBlk.zero true, seed)
  else if l.all Fl.isZero then (PlaneBlk.zero false, seed)
  else
    let nz := l.filter (fun x => !x.isZero)
    let emax := nz.foldl (fun m x => max m x.log2) ((nz.headD .nan).log2)
    let b := emax + 2 - (p : Int)
    let r := planeInts mode p b l seed
    (⟨false, b, r.1⟩, r.2)

/-- The EX4 case of R84. -/
def planeEx4 (l : List Byte) (scale spare : Nat) : PlaneBlk :=
  if scale = 255 then PlaneBlk.zero true
  else ⟨false, (scale : Int) - 128, (List.range 32).map (fun i => ex4Halves (ex4Code l i) spare)⟩

/-- Default precision of a format in plane form (R83). -/
def defaultPrec : Ty → Nat
  | .fp32 => 16
  | .bf16 => 12
  | .fp16 => 14
  | .e4m3 => 8
  | .e5m2 => 8
  | .int8 => 8
  | .uint8 => 9
  | .ex4 => 5
  | _ => 0

/-- Whether R83 allows an explicit precision. -/
def precAllowed (t : Ty) (p : Nat) : Bool :=
  match t with
  | .fp32 => 2 ≤ p && p ≤ 16
  | .bf16 => 2 ≤ p && p ≤ 16
  | .fp16 => 2 ≤ p && p ≤ 16
  | .e4m3 => 2 ≤ p && p ≤ 16
  | .e5m2 => 2 ≤ p && p ≤ 16
  | .int8 => p = 8
  | .uint8 => p = 9
  | .ex4 => p = 5
  | _ => false

/-- One K block added into an accumulator (R85). -/
def accumulate (acc : Word) (a b : PlaneBlk) : Word :=
  if a.nan || b.nan then canonNan .fp32
  else
    let s := (List.zipWith (· * ·) a.q b.q).foldl (· + ·) 0
    if s = 0 then acc
    else roundFl .fp32 .rne 0 false (flSum .rne [flOf .fp32 acc, (flInt s).scale (a.exp + b.exp)])

/-! ### The quantiser (R86) -/

/-- |y - c| of two finite values, in units of 2^q. -/
def distance (q : Int) (y c : Fl) : Nat := (y.units q - c.units q).natAbs

/-- nearest of R86: the codes in the order of its ties, E2M1 codes with bit 0 clear first, the spare last. -/
def nearestCode (y : Fl) (spare : Nat) : Nat :=
  let q := min (y.expOr 0) (-1)
  let codes := [0, 2, 4, 6, 10, 12, 14, 1, 3, 5, 7, 9, 11, 13, 15] ++ (if spare % 16 = 0 then [] else [8])
  codes.foldl (fun best c =>
    if distance q y (ex4Value c 127 spare) < distance q y (ex4Value best 127 spare) then c else best) 0

/-- A chosen block: exponent, spare, codes, error. -/
structure Quant where
  k : Int
  spare : Nat
  codes : List Nat
  err : Word
  deriving DecidableEq, Repr

/-- The spare byte for elements already divided by the scale (R86). -/
def chooseSpare (y : List Fl) : Nat :=
  let rep := fun (v : Fl) => (List.range 8).any (fun c => Fl.eq (match v with | .fin _ m e => .fin false m e | .inf _ => .nan | .nan => .nan) (ex4Value c 127 0))
  let un := y.filter (fun v => !rep v)
  let ab := fun (v : Fl) => match v with | .fin _ m e => Fl.fin false m e | .inf _ => Fl.nan | .nan => Fl.nan
  match un with
  | [] => 0
  | u :: us =>
    let w := us.foldl (fun b v => if (ab b).lt (ab v) then v else b) u
    match w with
    | .fin n m e =>
      let h := roundAt .rne 0 false m (e + 1) false 0
      if h = 0 then 0 else (if n then 128 else 0) + min h 15
    | .inf _ => 0
    | .nan => 0

/-- FP32 round to nearest of an exact sum. -/
def addFp32 (l : List Fl) : Word := roundFl .fp32 .rne 0 false (flSum .rne l)

/-- The block for one exponent k. -/
def quantWith (x : List Fl) (k : Int) : Quant :=
  let y := x.map (Fl.scale (-k))
  let spare := chooseSpare y
  let codes := y.map (fun v => nearestCode v spare)
  let err := (List.zip x codes).foldl (fun (e : Word) p =>
    let d := addFp32 [p.1, (ex4Value p.2 (k + 127).toNat spare).neg]
    let dd := roundFl .fp32 .rne 0 false ((flOf .fp32 d).mul (flOf .fp32 d))
    addFp32 [flOf .fp32 e, flOf .fp32 dd]) 0
  ⟨k, spare, codes, err⟩

/-- quantise of R86: the scale byte, the spare byte and the codes. -/
def quantise (x : List Fl) : Nat × Nat × List Nat :=
  let nz := x.filter (fun v => !v.isZero)
  match nz with
  | [] => (0x7F, 0, List.replicate 32 0)
  | u :: us =>
    let e := us.foldl (fun m v => max m v.log2) u.log2 - 2
    let clampK := fun (n : Int) => max (-127) (min 127 n)
    let cands := [clampK (e - 1), clampK e, clampK (e + 1)].eraseDups
    match cands.map (quantWith x) with
    | [] => (0x7F, 0, List.replicate 32 0)
    | b :: bs =>
      let best := bs.foldl (fun b c => if (flOf .fp32 b.err).lt (flOf .fp32 c.err) then b else c) b
      ((best.k + 127).toNat, best.spare, best.codes)

/-! ### Sums (R87, R88) -/

/-- Flushing at ingress: a subnormal becomes a zero of its sign (R88). The value is FP32. -/
def flush32 (v : Word) : Word := if v.toNat / 2 ^ 23 % 256 = 0 then v &&& 0x80000000#32 else v

/-- One addition of a sum reduction: a zero is -0 only where both operands are -0 (R88). -/
def redAdd (a b : Word) : Word :=
  let r := flSum .rne [flOf .fp32 a, flOf .fp32 b]
  roundFl .fp32 .rne 0 false r

/-- One level of the pairwise tree (R87). -/
def pairLevel : List (Option Word) → List (Option Word)
  | a :: b :: t =>
    (match a, b with
     | some x, some y => some (redAdd x y)
     | some x, none => some x
     | none, some y => some y
     | none, none => none) :: pairLevel t
  | l => l

/-- The tree over n levels (R87): nothing where nothing contributes. -/
def pairTree : Nat → List (Option Word) → Option Word
  | 0, l => l.headD none
  | n + 1, l => pairTree n (pairLevel l)

end Sys2Proof.Machine
end

