-- ==== Sys2Proof/Machine/Scalar.lean ====
section
/-! DEFINITION. The integer and address instructions of R166 to R177 and the sixteen 16-bit forms of R145. -/

namespace Sys2Proof.Machine

/-! ### Shared computations -/

/-- Write a single register or a pair from the same operation at the two widths. -/
def Ctx.bin (c : Ctx) (w : Width) (d a b : Reg) (f1 : Word → Word → Word) (f2 : DWord → DWord → DWord) : Ctx :=
  if w = .pair then c.setPair d (f2 (c.pair a) (c.pair b)) else c.setReg d (f1 (c.reg a) (c.reg b))

/-- A bitwise operation over the whole group (R166). -/
def Ctx.bitwise (c : Ctx) (w : Width) (d a b : Reg) (f : Word → Word → Word) : Ctx :=
  c.setGroup d (List.zipWith f (c.group a w.words) (c.group b w.words))

/-- A shift: the amount is bits [4:0] of b, [5:0] at pair width (R167). -/
def Ctx.shift (c : Ctx) (w : Width) (d a b : Reg) (f1 : Word → Nat → Word) (f2 : DWord → Nat → DWord) : Ctx :=
  if w = .pair then c.setPair d (f2 (c.pair a) ((c.reg b).extractLsb' 0 6).toNat)
  else c.setReg d (f1 (c.reg a) ((c.reg b).extractLsb' 0 5).toNat)

def mulh (a b : Word) : Word := (a.signExtend 64 * b.signExtend 64).extractLsb' 32 32
def mulhu (a b : Word) : Word := (a.setWidth 64 * b.setWidth 64).extractLsb' 32 32

/-- The quotients and remainders of R168, for a divisor that does not trap. -/
def divS (a b : Word) : Word := if b = 0 then 0xFFFFFFFF#32 else a.sdiv b
def divU (a b : Word) : Word := if b = 0 then 0xFFFFFFFF#32 else a / b
def remS (a b : Word) : Word := if b = 0 then a else a.srem b
def remU (a b : Word) : Word := if b = 0 then a else a % b

def minS (a b : Word) : Word := if b.slt a then b else a
def maxS (a b : Word) : Word := if a.slt b then b else a
def minU (a b : Word) : Word := if b.ult a then b else a
def maxU (a b : Word) : Word := if a.ult b then b else a

/-- Leading zero bits, 32 for 0 (R169). -/
def clz (a : Word) : Word := BitVec.ofNat 32 (((List.range 32).find? (fun k => a.getLsbD (31 - k))).getD 32)
/-- Trailing zero bits, 32 for 0 (R169). -/
def ctz (a : Word) : Word := BitVec.ofNat 32 (((List.range 32).find? (fun k => a.getLsbD k)).getD 32)
/-- Number of 1 bits (R169). -/
def popc (a : Word) : Word := BitVec.ofNat 32 ((List.range 32).countP (fun k => a.getLsbD k))
/-- Bit i of the result is bit 31 - i (R169). -/
def brev (a : Word) : Word := a.reverse

/-- The low n + 1 bits, sign-extended (R170). -/
def sextLow (a : Word) (n : BitVec 5) : Word := (a <<< (31 - n.toNat)).sshiftRight (31 - n.toNat)
/-- The low n + 1 bits, zero-extended (R170). -/
def zextLow (a : Word) (n : BitVec 5) : Word := (a <<< (31 - n.toNat)) >>> (31 - n.toNat)

/-- BFX of R175; l is the length minus 1. -/
def bfx (a : Word) (p l : BitVec 5) : Word := zextLow (a >>> p.toNat) l
/-- BFI of R175: the low l + 1 bits of a replace those of d at p. -/
def bfi (d a : Word) (p l : BitVec 5) : Word :=
  (d &&& ~~~(zextLow 0xFFFFFFFF#32 l <<< p.toNat)) ||| (zextLow a l <<< p.toNat)

/-- An instruction that only changes registers. -/
def pureRegs (i : Instr) (s : State) (f : Ctx → Ctx) : Out := runInstr i s (fun t => .done (t.modMe f))

/-- A division: DIV_ZERO where RMODE.DZE is 1 and the divisor 0 (R168). -/
def divide (i : Instr) (d a b : Reg) (f : Word → Word → Word) (s : State) : Out :=
  runInstr i s (fun t =>
    if t.me.reg b = 0 && t.me.dze then .trap cDIV_ZERO 0 0
    else .done (t.modMe (fun c => c.setReg d (f (c.reg a) (c.reg b)))))

/-! ### Integer group A (R166) -/

def execAdd (w : Width) (d a b : Reg) (s : State) : Out := pureRegs (.add w d a b) s (fun c => c.bin w d a b (· + ·) (· + ·))
def execSub (w : Width) (d a b : Reg) (s : State) : Out := pureRegs (.sub w d a b) s (fun c => c.bin w d a b (· - ·) (· - ·))
def execMul (d a b : Reg) (s : State) : Out := pureRegs (.mul d a b) s (fun c => c.setReg d (c.reg a * c.reg b))
def execMulh (d a b : Reg) (s : State) : Out := pureRegs (.mulh d a b) s (fun c => c.setReg d (mulh (c.reg a) (c.reg b)))
def execMulhu (d a b : Reg) (s : State) : Out := pureRegs (.mulhu d a b) s (fun c => c.setReg d (mulhu (c.reg a) (c.reg b)))
def execDiv (d a b : Reg) (s : State) : Out := divide (.div d a b) d a b divS s
def execDivu (d a b : Reg) (s : State) : Out := divide (.divu d a b) d a b divU s
def execRem (d a b : Reg) (s : State) : Out := divide (.rem d a b) d a b remS s
def execRemu (d a b : Reg) (s : State) : Out := divide (.remu d a b) d a b remU s
def execAnd (w : Width) (d a b : Reg) (s : State) : Out := pureRegs (.and w d a b) s (fun c => c.bitwise w d a b (· &&& ·))
def execOr (w : Width) (d a b : Reg) (s : State) : Out := pureRegs (.or w d a b) s (fun c => c.bitwise w d a b (· ||| ·))
def execXor (w : Width) (d a b : Reg) (s : State) : Out := pureRegs (.xor w d a b) s (fun c => c.bitwise w d a b (· ^^^ ·))
def execAndn (w : Width) (d a b : Reg) (s : State) : Out := pureRegs (.andn w d a b) s (fun c => c.bitwise w d a b (fun x y => x &&& ~~~y))
def execMin (d a b : Reg) (s : State) : Out := pureRegs (.min d a b) s (fun c => c.setReg d (minS (c.reg a) (c.reg b)))
def execMax (d a b : Reg) (s : State) : Out := pureRegs (.max d a b) s (fun c => c.setReg d (maxS (c.reg a) (c.reg b)))
def execMinu (d a b : Reg) (s : State) : Out := pureRegs (.minu d a b) s (fun c => c.setReg d (minU (c.reg a) (c.reg b)))

/-! ### Integer group B (R166 to R171) -/

def execMaxu (d a b : Reg) (s : State) : Out := pureRegs (.maxu d a b) s (fun c => c.setReg d (maxU (c.reg a) (c.reg b)))
def execShl (w : Width) (d a b : Reg) (s : State) : Out := pureRegs (.shl w d a b) s (fun c => c.shift w d a b (· <<< ·) (· <<< ·))
def execShr (w : Width) (d a b : Reg) (s : State) : Out := pureRegs (.shr w d a b) s (fun c => c.shift w d a b (· >>> ·) (· >>> ·))
def execSha (w : Width) (d a b : Reg) (s : State) : Out := pureRegs (.sha w d a b) s (fun c => c.shift w d a b BitVec.sshiftRight BitVec.sshiftRight)
def execRot (w : Width) (d a b : Reg) (s : State) : Out := pureRegs (.rot w d a b) s (fun c => c.shift w d a b BitVec.rotateRight BitVec.rotateRight)
def execClz (d a : Reg) (s : State) : Out := pureRegs (.clz d a) s (fun c => c.setReg d (clz (c.reg a)))
def execCtz (d a : Reg) (s : State) : Out := pureRegs (.ctz d a) s (fun c => c.setReg d (ctz (c.reg a)))
def execPopc (d a : Reg) (s : State) : Out := pureRegs (.popc d a) s (fun c => c.setReg d (popc (c.reg a)))
def execBrev (d a : Reg) (s : State) : Out := pureRegs (.brev d a) s (fun c => c.setReg d (brev (c.reg a)))
def execSext (w : Width) (d a : Reg) (n : BitVec 5) (s : State) : Out :=
  pureRegs (.sext w d a n) s (fun c => if w = .pair then c.setPair d ((sextLow (c.reg a) n).signExtend 64) else c.setReg d (sextLow (c.reg a) n))
def execZext (w : Width) (d a : Reg) (n : BitVec 5) (s : State) : Out :=
  pureRegs (.zext w d a n) s (fun c => if w = .pair then c.setPair d ((zextLow (c.reg a) n).setWidth 64) else c.setReg d (zextLow (c.reg a) n))
def execMov (w : Width) (d a : Reg) (s : State) : Out := pureRegs (.mov w d a) s (fun c => c.setGroup d (c.group a w.words))
def execSel (w : Width) (d a b : Reg) (s : State) : Out :=
  pureRegs (.sel w d a b) s (fun c =>
    if w = .pair then c.setPair d (if c.pair d ≠ 0 then c.pair a else c.pair b)
    else c.setReg d (if c.reg d ≠ 0 then c.reg a else c.reg b))
def execSetCc (cc : Cc) (w : Width) (d a b : Reg) (s : State) : Out :=
  pureRegs (.setCc cc w d a b) s (fun c =>
    c.setReg d (if (if w = .pair then Cc.holds cc (c.pair a) (c.pair b) else Cc.holds cc (c.reg a) (c.reg b)) then 1 else 0))

/-! ### Immediates (R173 to R177) -/

def execAddi (d a : Reg) (i : BitVec 12) (s : State) : Out := pureRegs (.addi d a i) s (fun c => c.setReg d (c.reg a + i.signExtend 32))
def execAndi (d a : Reg) (i : BitVec 12) (s : State) : Out := pureRegs (.andi d a i) s (fun c => c.setReg d (c.reg a &&& i.signExtend 32))
def execOri (d a : Reg) (i : BitVec 12) (s : State) : Out := pureRegs (.ori d a i) s (fun c => c.setReg d (c.reg a ||| i.signExtend 32))
def execXori (d a : Reg) (i : BitVec 12) (s : State) : Out := pureRegs (.xori d a i) s (fun c => c.setReg d (c.reg a ^^^ i.signExtend 32))
def execShli (d a : Reg) (k : BitVec 5) (s : State) : Out := pureRegs (.shli d a k) s (fun c => c.setReg d (c.reg a <<< k.toNat))
def execShri (d a : Reg) (k : BitVec 5) (s : State) : Out := pureRegs (.shri d a k) s (fun c => c.setReg d (c.reg a >>> k.toNat))
def execShai (d a : Reg) (k : BitVec 5) (s : State) : Out := pureRegs (.shai d a k) s (fun c => c.setReg d ((c.reg a).sshiftRight k.toNat))
def execRoti (d a : Reg) (k : BitVec 5) (s : State) : Out := pureRegs (.roti d a k) s (fun c => c.setReg d ((c.reg a).rotateRight k.toNat))
def execBfx (d a : Reg) (p l : BitVec 5) (s : State) : Out := pureRegs (.bfx d a p l) s (fun c => c.setReg d (bfx (c.reg a) p l))
def execBfi (d a : Reg) (p l : BitVec 5) (s : State) : Out := pureRegs (.bfi d a p l) s (fun c => c.setReg d (bfi (c.reg d) (c.reg a) p l))
def execMovi (d : Reg) (i : BitVec 18) (s : State) : Out := pureRegs (.movi d i) s (fun c => c.setReg d (i.signExtend 32))
def execMovhi (d : Reg) (i : BitVec 18) (s : State) : Out := pureRegs (.movhi d i) s (fun c => c.setReg d (i ++ (c.reg d).extractLsb' 0 14))
def execLea (d a : Reg) (i : BitVec 12) (s : State) : Out := pureRegs (.lea d a i) s (fun c => c.setPair d (c.pair a + i.signExtend 64))

/-! ### The 16-bit forms (R145) -/

def execAddi16Pos (d : Reg) (i : BitVec 5) (s : State) : Out := pureRegs (.addi16Pos d i) s (fun c => c.setReg d (c.reg d + i.setWidth 32))
def execAddi16Neg (d : Reg) (i : BitVec 5) (s : State) : Out := pureRegs (.addi16Neg d i) s (fun c => c.setReg d (c.reg d + (i.setWidth 32 - 32)))
def execAdd16 (d : Reg) (b : BitVec 5) (s : State) : Out := pureRegs (.add16 d b) s (fun c => c.setReg d (c.reg d + c.reg (reg5 b)))
def execSub16 (d : Reg) (b : BitVec 5) (s : State) : Out := pureRegs (.sub16 d b) s (fun c => c.setReg d (c.reg d - c.reg (reg5 b)))
def execAnd16 (d : Reg) (b : BitVec 5) (s : State) : Out := pureRegs (.and16 d b) s (fun c => c.setReg d (c.reg d &&& c.reg (reg5 b)))
def execOr16 (d : Reg) (b : BitVec 5) (s : State) : Out := pureRegs (.or16 d b) s (fun c => c.setReg d (c.reg d ||| c.reg (reg5 b)))
def execXor16 (d : Reg) (b : BitVec 5) (s : State) : Out := pureRegs (.xor16 d b) s (fun c => c.setReg d (c.reg d ^^^ c.reg (reg5 b)))
def execMov16 (d : Reg) (b : BitVec 5) (s : State) : Out := pureRegs (.mov16 d b) s (fun c => c.setReg d (c.reg (reg5 b)))
def execMovi16 (d : Reg) (i : BitVec 5) (s : State) : Out := pureRegs (.movi16 d i) s (fun c => c.setReg d (i.signExtend 32))
def execShli16 (d : Reg) (k : BitVec 5) (s : State) : Out := pureRegs (.shli16 d k) s (fun c => c.setReg d (c.reg d <<< k.toNat))
def execShri16 (d : Reg) (k : BitVec 5) (s : State) : Out := pureRegs (.shri16 d k) s (fun c => c.setReg d (c.reg d >>> k.toNat))
def execShai16 (d : Reg) (k : BitVec 5) (s : State) : Out := pureRegs (.shai16 d k) s (fun c => c.setReg d ((c.reg d).sshiftRight k.toNat))
def execMul16 (d : Reg) (b : BitVec 5) (s : State) : Out := pureRegs (.mul16 d b) s (fun c => c.setReg d (c.reg d * c.reg (reg5 b)))
def execMin16 (d : Reg) (b : BitVec 5) (s : State) : Out := pureRegs (.min16 d b) s (fun c => c.setReg d (minS (c.reg d) (c.reg (reg5 b))))
def execMax16 (d : Reg) (b : BitVec 5) (s : State) : Out := pureRegs (.max16 d b) s (fun c => c.setReg d (maxS (c.reg d) (c.reg (reg5 b))))
def execAndi16 (d : Reg) (i : BitVec 5) (s : State) : Out := pureRegs (.andi16 d i) s (fun c => c.setReg d (c.reg d &&& i.setWidth 32))

end Sys2Proof.Machine
end

