-- ==== Sys2Proof/Machine/Lane.lean ====
section
/-! DEFINITION. Lanes (R245 to R248), their arithmetic (R251 to R255), comparisons and moves (R260 to R262), reductions (R263)
and the mask instructions (R264). -/

namespace Sys2Proof.Machine

/-! ### Lanes of a group (R246, R247) -/

/-- The lanes of b bytes in a word. -/
def splitWord (b : Nat) (v : Word) : List Word :=
  if b = 4 then [v]
  else if b = 2 then [v &&& 0xFFFF#32, v >>> 16]
  else [v &&& 0xFF#32, (v >>> 8) &&& 0xFF#32, (v >>> 16) &&& 0xFF#32, v >>> 24]

/-- Pairs of 16-bit lanes as words. -/
def joinHalves : List Word → List Word
  | x :: y :: t => (x ||| (y <<< 16)) :: joinHalves t
  | _ => []

/-- Fours of 8-bit lanes as words. -/
def joinBytes : List Word → List Word
  | x :: y :: z :: u :: t => (x ||| (y <<< 8) ||| (z <<< 16) ||| (u <<< 24)) :: joinBytes t
  | _ => []

/-- The words of lanes of b bytes. -/
def joinLanes (b : Nat) (l : List Word) : List Word := if b = 4 then l else if b = 2 then joinHalves l else joinBytes l

/-- The lanes of b bytes of the group of r octets at o. -/
def Ctx.lanes (c : Ctx) (b : Nat) (o : Oct) (r : Nat) : List Word := (c.group (oct o) (8 * r)).flatMap (splitWord b)

/-- Run the enabled lanes in ascending order, one generator step each where the mode is RSTO: the lanes and the generator, or
the first lane that overflows (R77, R81, R248). -/
def laneLoop (mk : Word) (mode : RMode) (satc : Bool) (f : Nat → Word → Conv) : List Word → Nat → Word → Except (Nat × Bool) (List Word × Word)
  | [], _, seed => .ok ([], seed)
  | v :: vs, j, seed =>
    if mk.getLsbD j then
      let s := stepIf mode seed
      match f j s with
      | .ok w => (laneLoop mk mode satc f vs (j + 1) s).map (fun r => (w :: r.1, r.2))
      | .over sp sat =>
        if satc then (laneLoop mk mode satc f vs (j + 1) s).map (fun r => (sat :: r.1, r.2)) else .error (j, sp)
    else (laneLoop mk mode satc f vs (j + 1) seed).map (fun r => (v :: r.1, r.2))

/-- CVT_OVERFLOW of a lane (R81). -/
def cvtOverflow (j : Nat) (special : Bool) : Eff := .trap cCVT_OVERFLOW 0 (BitVec.ofNat 32 (j + (if special then 256 else 0)))

/-- Write the enabled lanes of the group of r octets of b-byte lanes at d. -/
def writeLanes (d : Oct) (b r : Nat) (m : MReg) (mode : RMode) (f : Ctx → Nat → Word → Conv) (t : State) : Eff :=
  let c := t.me
  match laneLoop (c.mask m) mode c.satc (f c) (c.lanes b d r) 0 c.seed with
  | .ok x => .done (t.modMe (fun c => { c.setGroup (oct d) (joinLanes b x.1) with seed := x.2 }))
  | .error e => cvtOverflow e.1 e.2

/-- Lane j of a list. -/
def laneAt (l : List Word) (j : Nat) : Word := l.getD j 0

/-- The integer in a lane of an integer type (R71). -/
def laneInt (t : Ty) (v : Word) : Int :=
  match t with
  | .int32 => v.toInt
  | .int8 => (v.setWidth 8).toInt
  | _ => ((v.setWidth 8).toNat : Int)

/-! ### Arithmetic (R252 to R254) -/

/-- An operation of the type on lanes a, b and d: floating values rounded once, integers modulo their width. -/
def arith (i : Instr) (t : Ty) (rc : Rc) (d a b : Oct) (m : MReg) (f : Fl → Fl → Fl → List Fl) (g : Int → Int → Int) (s : State) : Out :=
  runInstr i s (fun u =>
    let mode := u.me.rmodeOf rc
    writeLanes d t.bytes 1 m (if t.isInt then .rne else mode) (fun c j step =>
      let x := laneAt (c.lanes t.bytes a 1) j
      let y := laneAt (c.lanes t.bytes b 1) j
      let z := laneAt (c.lanes t.bytes d 1) j
      if t.isInt then .ok (intLane t (g (laneInt t x) (laneInt t y)))
      else .ok (roundFl t mode step false (flSum mode (f (flOf t x) (flOf t y) (flOf t z))))) u)

def execVadd (t : Ty) (r : Rc) (d a b : Oct) (m : MReg) (s : State) : Out := arith (.vadd t r d a b m) t r d a b m (fun x y _ => [x, y]) (· + ·) s
def execVsub (t : Ty) (r : Rc) (d a b : Oct) (m : MReg) (s : State) : Out := arith (.vsub t r d a b m) t r d a b m (fun x y _ => [x, y.neg]) (· - ·) s
def execVmul (t : Ty) (r : Rc) (d a b : Oct) (m : MReg) (s : State) : Out := arith (.vmul t r d a b m) t r d a b m (fun x y _ => [x.mul y]) (· * ·) s
def execVfma (t : Ty) (r : Rc) (d a b : Oct) (m : MReg) (s : State) : Out := arith (.vfma t r d a b m) t r d a b m (fun x y z => [x.mul y, z]) (· + ·) s
def execVfms (t : Ty) (r : Rc) (d a b : Oct) (m : MReg) (s : State) : Out := arith (.vfms t r d a b m) t r d a b m (fun x y z => [x.mul y, z.neg]) (· + ·) s
def execVfnma (t : Ty) (r : Rc) (d a b : Oct) (m : MReg) (s : State) : Out := arith (.vfnma t r d a b m) t r d a b m (fun x y z => [(x.mul y).neg, z]) (· + ·) s

/-- The larger or the smaller of two lanes (R253): -0 orders below +0, a NaN gives the canonical NaN. -/
def pickLane (t : Ty) (larger : Bool) (x y : Word) : Word :=
  let a := laneVal t x
  let b := laneVal t y
  if a.isNan || b.isNan then canonNan t
  else if a.lt b then (if larger then y else x)
  else if b.lt a then (if larger then x else y)
  else if !t.isInt && x.getLsbD (signBit t) then (if larger then y else x)
  else (if larger then x else y)

/-- |a| under R253. -/
def absLane (t : Ty) (x : Word) : Word :=
  if t.isInt then intLane t ((laneInt t x).natAbs : Int)
  else if (flOf t x).isNan then canonNan t else x &&& ~~~(1#32 <<< signBit t)

/-- -a under R253. -/
def negLane (t : Ty) (x : Word) : Word :=
  if t.isInt then intLane t (-(laneInt t x))
  else if (flOf t x).isNan then canonNan t else x ^^^ (1#32 <<< signBit t)

/-- A lane instruction that does not round. -/
def lanewise (i : Instr) (b r : Nat) (d : Oct) (m : MReg) (f : Ctx → Nat → Word) (s : State) : Out :=
  runInstr i s (writeLanes d b r m .rne (fun c j _ => .ok (f c j)))

def execVmax (t : Ty) (d a b : Oct) (m : MReg) (s : State) : Out :=
  lanewise (.vmax t d a b m) t.bytes 1 d m (fun c j => pickLane t true (laneAt (c.lanes t.bytes a 1) j) (laneAt (c.lanes t.bytes b 1) j)) s
def execVmin (t : Ty) (d a b : Oct) (m : MReg) (s : State) : Out :=
  lanewise (.vmin t d a b m) t.bytes 1 d m (fun c j => pickLane t false (laneAt (c.lanes t.bytes a 1) j) (laneAt (c.lanes t.bytes b 1) j)) s
def execVabs (t : Ty) (d a : Oct) (m : MReg) (s : State) : Out :=
  lanewise (.vabs t d a m) t.bytes 1 d m (fun c j => absLane t (laneAt (c.lanes t.bytes a 1) j)) s
def execVneg (t : Ty) (d a : Oct) (m : MReg) (s : State) : Out :=
  lanewise (.vneg t d a m) t.bytes 1 d m (fun c j => negLane t (laneAt (c.lanes t.bytes a 1) j)) s

/-- The products of a short dot product's lane (R254). -/
def dotTerms (t : Ty) (k j : Nat) (a b : List Word) : List Fl :=
  (List.range k).map (fun n => (laneVal t (laneAt a (k * j + n))).mul (laneVal t (laneAt b (k * j + n))))

def execVdot (t : Ty) (r : Rc) (d a b : Oct) (m : MReg) (s : State) : Out :=
  runInstr (.vdot t r d a b m) s (fun u =>
    let mode := if t.isInt then .rne else u.me.rmodeOf r
    let k := 4 / t.bytes
    writeLanes d 4 1 m mode (fun c j step =>
      let z := laneAt (c.lanes 4 d 1) j
      let ps := dotTerms t k j (c.lanes t.bytes a 1) (c.lanes t.bytes b 1)
      if t.isInt then .ok (BitVec.ofInt 32 (z.toInt + (ps.map (Fl.units 0)).foldl (· + ·) 0))
      else .ok (roundFl .fp32 mode step false (flSum mode (flOf .fp32 z :: ps)))) u)

/-- A function of one lane, correctly rounded (R255). -/
def unaryFl (i : Instr) (t : Ty) (r : Rc) (d a : Oct) (m : MReg) (f : Fl → Fl × Bool) (s : State) : Out :=
  runInstr i s (fun u =>
    let mode := u.me.rmodeOf r
    writeLanes d t.bytes 1 m mode (fun c j step =>
      let v := f (flOf t (laneAt (c.lanes t.bytes a 1) j))
      .ok (roundFl t mode step v.2 v.1)) u)

def execVrcp (t : Ty) (r : Rc) (d a : Oct) (m : MReg) (s : State) : Out := unaryFl (.vrcp t r d a m) t r d a m flRcp s
def execVrsq (t : Ty) (r : Rc) (d a : Oct) (m : MReg) (s : State) : Out := unaryFl (.vrsq t r d a m) t r d a m flRsq s
def execVexp2 (t : Ty) (r : Rc) (d a : Oct) (m : MReg) (s : State) : Out := unaryFl (.vexp2 t r d a m) t r d a m flExp2 s

/-! ### Comparing and moving (R260 to R262) -/

/-- A lane condition over two values (R154, R260). -/
def VCond.holds (c : VCond) (a b : Fl) : Bool :=
  let num := !a.isNan && !b.isNan
  match c with
  | .eq => a.eq b
  | .ne => !(a.eq b)
  | .lt => a.lt b
  | .le => num && !(b.lt a)
  | .gt => b.lt a
  | .ge => num && !(a.lt b)
  | .un => !num

/-- The word whose bit j is p j. -/
def maskOf (p : Nat → Bool) : Word := (List.range 32).foldl (fun v j => if p j then v ||| (1#32 <<< j) else v) 0

def execVcmpCc (cc : VCond) (t : Ty) (d : MReg) (a b : Oct) (m : MReg) (s : State) : Out :=
  pureRegs (.vcmpCc cc t d a b m) s (fun c =>
    let x := c.lanes t.bytes a 1
    let y := c.lanes t.bytes b 1
    c.setMask d (maskOf (fun j => j < 32 / t.bytes && (c.mask m).getLsbD j && VCond.holds cc (laneVal t (laneAt x j)) (laneVal t (laneAt y j)))))

def execVsel (t : Ty) (d a b : Oct) (m : MReg) (s : State) : Out :=
  lanewise (.vsel t d a b m) t.bytes 1 d 0 (fun c j =>
    if (c.mask m).getLsbD j then laneAt (c.lanes t.bytes a 1) j else laneAt (c.lanes t.bytes b 1) j) s
def execVperm (t : Ty) (d a b : Oct) (m : MReg) (s : State) : Out :=
  lanewise (.vperm t d a b m) t.bytes 1 d m (fun c j => laneAt (c.lanes t.bytes a 1) ((laneAt (c.lanes t.bytes b 1) j).toNat % (32 / t.bytes))) s
def execVbcast (t : Ty) (d : Oct) (r : Reg) (m : MReg) (s : State) : Out :=
  lanewise (.vbcast t d r m) t.bytes 1 d m (fun c _ => laneAt (splitWord t.bytes (c.reg r)) 0) s
def execVins (t : Ty) (d : Oct) (r : Reg) (n : BitVec 5) (s : State) : Out :=
  lanewise (.vins t d r n) t.bytes 1 d 0 (fun c j => if j = n.toNat then laneAt (splitWord t.bytes (c.reg r)) 0 else laneAt (c.lanes t.bytes d 1) j) s
def execVext (t : Ty) (d : Reg) (v : Oct) (n : BitVec 5) (s : State) : Out :=
  pureRegs (.vext t d v n) s (fun c =>
    let x := laneAt (c.lanes t.bytes v 1) n.toNat
    c.setReg d (if t = .int8 then (x.setWidth 8).signExtend 32 else x))
def execViota (t : Ty) (d : Oct) (m : MReg) (s : State) : Out :=
  lanewise (.viota t d m) t.bytes 1 d m (fun _ j => if t.isInt then intLane t (j : Int) else roundFl t .rne 0 false (flInt (j : Int))) s

/-! ### Reductions (R263, R87, R88) -/

/-- The contributions: lanes in order, disabled ones absent. -/
def Ctx.contribs (c : Ctx) (b : Nat) (a : Oct) (m : MReg) : List (Option Word) :=
  (c.lanes b a 1).zipIdx.map (fun e => if (c.mask m).getLsbD e.2 then some e.1 else none)

/-- Lane 0 of d takes a conversion's result. -/
def laneZero (d : Oct) (b : Nat) (v : Conv) (seed : Word) (t : State) : Eff :=
  let put := fun (w : Word) => Eff.done (t.modMe (fun c => { c.setGroup (oct d) (joinLanes b ((c.lanes b d 1).set 0 w)) with seed := seed }))
  match v with
  | .ok w => put w
  | .over sp sat => if t.me.satc then put sat else cvtOverflow 0 sp

/-- Levels of the tree over the lanes of a type. -/
def treeLevels (b : Nat) : Nat := if b = 4 then 3 else if b = 2 then 4 else 5

def execVredSum (t : Ty) (r : Rc) (d a : Oct) (m : MReg) (s : State) : Out :=
  runInstr (.vredSum t r d a m) s (fun u =>
    let c := u.me
    let l := c.contribs t.bytes a m
    if t = .int32 then laneZero d 4 (.ok ((l.filterMap id).foldl (· + ·) 0)) c.seed u
    else
      let wide := l.map (Option.map (fun v => flush32 (roundFl .fp32 .rne 0 false (flOf t v))))
      let sum := (pairTree (treeLevels t.bytes) wide).getD 0
      if t = .fp32 then laneZero d 4 (.ok (roundFl .fp32 .rne 0 false (flOf .fp32 sum))) c.seed u
      else
        let mode := c.rmodeOf r
        let seed := stepIf mode c.seed
        laneZero d t.bytes (convertFl t mode seed (flOf .fp32 sum)) seed u)

/-- The result of a maximum or minimum with no contributions (R263). -/
def emptyPick (t : Ty) (larger : Bool) : Word :=
  if t.isInt then intLane t (if larger then (intRange t).1 else (intRange t).2) else infOf t larger

/-- VRED.MAX and VRED.MIN. -/
def redPick (i : Instr) (t : Ty) (larger : Bool) (d a : Oct) (m : MReg) (s : State) : Out :=
  runInstr i s (fun u =>
    let v := match (u.me.contribs t.bytes a m).filterMap id with
      | [] => emptyPick t larger
      | x :: xs => xs.foldl (pickLane t larger) (pickLane t larger x x)
    laneZero d t.bytes (.ok v) u.me.seed u)

def execVredMax (t : Ty) (d a : Oct) (m : MReg) (s : State) : Out := redPick (.vredMax t d a m) t true d a m s
def execVredMin (t : Ty) (d a : Oct) (m : MReg) (s : State) : Out := redPick (.vredMin t d a m) t false d a m s

/-! ### Masks (R264) -/

def execMand (d a b : MReg) (s : State) : Out := pureRegs (.mand d a b) s (fun c => c.setMask d (c.mask a &&& c.mask b))
def execMor (d a b : MReg) (s : State) : Out := pureRegs (.mor d a b) s (fun c => c.setMask d (c.mask a ||| c.mask b))
def execMxor (d a b : MReg) (s : State) : Out := pureRegs (.mxor d a b) s (fun c => c.setMask d (c.mask a ^^^ c.mask b))
def execMnot (d a : MReg) (s : State) : Out := pureRegs (.mnot d a) s (fun c => c.setMask d (~~~(c.mask a)))
def execMpop (d : Reg) (a : MReg) (s : State) : Out := pureRegs (.mpop d a) s (fun c => c.setReg d (popc (c.mask a)))

end Sys2Proof.Machine
end

