-- ==== Sys2Proof/Machine/Tid.lean ====
section
/-! DEFINITION. Tensor identifier entries (R63, R64), plane records (R272) and B blocks (R281). -/

namespace Sys2Proof.Machine

/-! ### Entries (R63) -/

/-- The 8-byte word k of an entry. -/
def tidWord (l : List Byte) (k : Nat) : DWord := bytesDWord (l.drop (8 * k))
def tidV (l : List Byte) : Bool := (tidWord l 0).getLsbD 63
def tidSeal (l : List Byte) : Bool := (tidWord l 0).getLsbD 62
/-- Number of dimensions minus 1. -/
def tidNdim (l : List Byte) : Nat := ((tidWord l 0).extractLsb' 60 2).toNat
def tidFmt (l : List Byte) : Option Ty := Ty.ofCode ((tidWord l 0).extractLsb' 56 4)
def tidSkh (l : List Byte) : Nat := ((tidWord l 0).extractLsb' 48 8).toNat
def tidBase (l : List Byte) : Nat := ((tidWord l 0).extractLsb' 0 48).toNat
def tidPrec (l : List Byte) : Nat := ((tidWord l 1).extractLsb' 58 5).toNat
def tidBlk (l : List Byte) : Nat := ((tidWord l 1).extractLsb' 48 2).toNat
def tidSbase (l : List Byte) : Nat := ((tidWord l 1).extractLsb' 0 48).toNat
/-- EXT0 to EXT3. -/
def tidExt (l : List Byte) (k : Nat) : Nat := ((tidWord l (2 + k / 2)).extractLsb' (32 * (k % 2)) 32).toNat
/-- STRIDE1 to STRIDE3. -/
def tidStride (l : List Byte) (k : Nat) : Int := ((tidWord l (3 + k)).extractLsb' 0 48).toInt

/-- Elements of a scale block. -/
def blkSize (b : Nat) : Nat := 8 * 2 ^ b

/-- PREC allowed for a format (R64). -/
def precOk (t : Ty) (p : Nat) : Bool :=
  p = 0 || (match t with
    | .fp32 => precAllowed .fp32 p
    | .bf16 => precAllowed .bf16 p
    | .fp16 => precAllowed .fp16 p
    | .e4m3 => precAllowed .e4m3 p
    | .e5m2 => precAllowed .e5m2 p
    | .int8 => false
    | .uint8 => false
    | .int32 => false
    | .ex4 => false
    | .ue8 => false)

/-- BLK allowed for a format (R64). -/
def blkOk (t : Ty) (b : Nat) : Bool :=
  match t with
  | .fp32 => b = 0
  | .int32 => b = 0
  | .ue8 => b = 0
  | .ex4 => b = 2
  | .bf16 => true
  | .fp16 => true
  | .e4m3 => true
  | .e5m2 => true
  | .int8 => true
  | .uint8 => true

/-- The conditions of R63 on an entry with V = 1: the byte offset of the first word that fails. -/
def tidBad (l : List Byte) : Option Nat :=
  match tidFmt l with
  | none => some 0
  | some t =>
    let n := tidNdim l
    let w := tidWord l
    firstBad [
      (tidBase l % 32 ≠ 0, 0x00),
      ((w 1).getLsbD 63 || (w 1).extractLsb' 50 8 ≠ 0 || !precOk t (tidPrec l) || !blkOk t (tidBlk l) ||
        (tidSbase l ≠ 0) ≠ (tidBlk l ≠ 0), 0x08),
      (tidExt l 0 = 0 || (if 1 ≤ n then tidExt l 1 = 0 else tidExt l 1 ≠ 0) ||
        (tidBlk l ≠ 0 && tidExt l 0 % blkSize (tidBlk l) ≠ 0), 0x10),
      ((if 2 ≤ n then tidExt l 2 = 0 else tidExt l 2 ≠ 0) || (if 3 ≤ n then tidExt l 3 = 0 else tidExt l 3 ≠ 0), 0x18),
      ((w 4).extractLsb' 48 16 ≠ 0 || (w 4).extractLsb' 0 5 ≠ 0 || (n < 1 && w 4 ≠ 0), 0x20),
      ((w 5).extractLsb' 48 16 ≠ 0 || (w 5).extractLsb' 0 5 ≠ 0 || (n < 2 && w 5 ≠ 0), 0x28),
      ((w 6).extractLsb' 48 16 ≠ 0 || (w 6).extractLsb' 0 5 ≠ 0 || (n < 3 && w 6 ≠ 0), 0x30),
      (decide (w 7 ≠ 0), 0x38)]

/-! ### Plane records (R272) -/

/-- Plane j of 32 integers: bit i is bit j of the two's complement of q[i]. -/
def planeWord (q : List Int) (j : Nat) : Word := maskOf (fun i => (BitVec.ofInt 32 (q.getD i 0)).getLsbD j)

/-- The record of a block at precision p. -/
def recordBytes (p : Nat) (b : PlaneBlk) : List Byte :=
  let h : Word := (if b.nan then 0x80000000#32 else 0) ||| (BitVec.ofNat 32 p <<< 16) ||| (BitVec.ofInt 16 b.exp).setWidth 32
  wordsBytes (h :: (List.range p).map (planeWord b.q))

/-- The header of a record breaks the checks of R280 for precision p. -/
def recordBad (p : Nat) (l : List Byte) : Bool :=
  let h := bytesWord l
  h.extractLsb' 21 10 ≠ 0 || (h.extractLsb' 16 5).toNat ≠ p

/-- The block a record holds. -/
def recordBlk (p : Nat) (l : List Byte) : PlaneBlk :=
  let h := bytesWord l
  let pl := bytesWords p (l.drop 4)
  ⟨h.getLsbD 31, (h.extractLsb' 0 16).toInt, (List.range 32).map (fun i =>
    (List.range p).foldl (fun (v : Int) j => if (pl.getD j 0).getLsbD i then (if j + 1 = p then v - 2 ^ j else v + 2 ^ j) else v) 0)⟩

/-! ### B blocks (R64, R281) -/

/-- Which B block: the K block, the column, and dimensions 2 and 3. -/
structure BSel where
  kb : Nat
  col : Nat
  i2 : Nat
  i3 : Nat

/-- The address of the first byte of element i0 of a block's column (R64). -/
def elemAddr (l : List Byte) (t : Ty) (b : BSel) (i0 : Nat) : Nat :=
  let o : Int := (tidBase l : Int) + ((if t = .ex4 then i0 / 2 else i0 * t.bytes : Nat) : Int) + (b.col : Int) * tidStride l 1 +
    (b.i2 : Int) * tidStride l 2 + (b.i3 : Int) * tidStride l 3
  (BitVec.ofInt 64 o).toNat

/-- The address of the scale of element i0 (R64). -/
def scaleAddr (l : List Byte) (t : Ty) (b : BSel) (i0 : Nat) : Nat :=
  let sz := blkSize (tidBlk l)
  let q := i0 / sz + tidExt l 0 / sz * (b.col + tidExt l 1 * (b.i2 + tidExt l 2 * b.i3))
  tidSbase l + (if t = .ex4 then 2 * q else q)

/-- The element indices of a block that lie inside the tensor. -/
def blockElems (l : List Byte) (b : BSel) : List Nat := ((List.range 32).map (fun i => 32 * b.kb + i)).filter (fun i => i < tidExt l 0)

/-- The addresses of the bytes a block needs: elements, scales and spares. -/
def blockBytes (l : List Byte) (t : Ty) (b : BSel) : List Nat :=
  let es := blockElems l b
  (es.flatMap (fun i => (List.range t.bytes).map (fun k => elemAddr l t b i + k))) ++
    (if tidBlk l = 0 then [] else
      es.flatMap (fun i => scaleAddr l t b i :: (if t = .ex4 then [scaleAddr l t b i + 1] else [])))

/-- Precision of B (R83). -/
def tidPlanes (l : List Byte) (t : Ty) : Nat := if tidPrec l = 0 then defaultPrec t else tidPrec l

/-- The lane value of the bytes of an element. -/
def elemVal (t : Ty) (rd : Nat → Byte) (a : Nat) : Fl :=
  laneVal t (BitVec.ofNat 32 ((List.range t.bytes).foldl (fun n k => n + (rd (a + k)).toNat * 256 ^ k) 0))

/-- A B block in plane form from the bytes rd gives (R84, R281). -/
def bBlock (l : List Byte) (t : Ty) (b : BSel) (rd : Nat → Byte) : PlaneBlk :=
  let p := tidPlanes l t
  let i0 := 32 * b.kb
  if t = .ex4 then
    let s := scaleAddr l t b i0
    planeEx4 ((List.range 16).map (fun k => rd (elemAddr l t b i0 + k))) (rd s).toNat (rd (s + 1)).toNat
  else if t.isInt then
    let s := if tidBlk l = 0 then 127 else (rd (scaleAddr l t b i0)).toNat
    if s = 255 then PlaneBlk.zero true
    else ⟨false, (s : Int) - 127, (List.range 32).map (fun i =>
      if i0 + i < tidExt l 0 then (elemVal t rd (elemAddr l t b (i0 + i))).units 0 else 0)⟩
  else
    (planeBlock .rne p ((List.range 32).map (fun i =>
      if i0 + i < tidExt l 0 then
        let s := if tidBlk l = 0 then 127 else (rd (scaleAddr l t b (i0 + i))).toNat
        if s = 255 then .nan else (elemVal t rd (elemAddr l t b (i0 + i))).scale ((s : Int) - 127)
      else .fin false 0 0)) 0).1

end Sys2Proof.Machine
end

