-- ==== Sys2Proof/Machine/Plane.lean ====
section
/-! DEFINITION. PLANE (R273, R274), TIDSET and TIDCLR (R275), and the matrix commands: their checks at issue (R276 to R279, R287
to R289), acceptance, fetch and steps (R280 to R289, R294). -/

namespace Sys2Proof.Machine

/-! ### PLANE (R273, R274) -/

/-- Octets of PLANE's source group. -/
def planeOctets (t : Ty) : Nat := if t = .fp32 then 4 else if t.bytes = 2 then 2 else 1

/-- The format PLANE's control word names, where R273 lists it. -/
def planeFmt (ctl : Word) : Option Ty :=
  match Ty.ofCode (ctl.extractLsb' 8 4) with
  | some .int32 => none
  | some .ue8 => none
  | x => x

/-- The block PLANE makes of its source lanes, and the generator behind it. -/
def planeOf (t : Ty) (p scl : Nat) (mode : RMode) (l : List Word) (bytes : List Byte) (seed : Word) : PlaneBlk × Word :=
  if t = .ex4 then (planeEx4 bytes (bytes.getD 16 0).toNat (bytes.getD 17 0).toNat, seed)
  else if t.isInt then
    (if scl = 255 then PlaneBlk.zero true else ⟨false, (scl : Int) - 127, l.map (laneInt t)⟩, seed)
  else planeBlock mode p (l.map (fun v => if scl = 255 then .nan else (flOf t v).scale ((scl : Int) - 127))) seed

/-- Whether PLANE's control word or the place of its source group makes it ILLEGAL (R274). -/
def planeIllegal (ctl : Word) (src : Reg) : Bool :=
  match planeFmt ctl, Rc.ofCode (ctl.extractLsb' 0 4) with
  | some t, some _ =>
    ctl.extractLsb' 21 3 ≠ 0 || ctl.extractLsb' 12 4 ≠ 0 || ctl.extractLsb' 4 4 ≠ 0 ||
      !((ctl.extractLsb' 16 5).toNat = 0 || precAllowed t (ctl.extractLsb' 16 5).toNat) || src.toNat % (8 * planeOctets t) ≠ 0
  | _, _ => true

/-- PLANE once its operands stand. -/
def planeBody (i : Instr) (b src : Reg) (u : State) : Eff :=
  let a := (u.me.reg b).toNat
  let ctl := u.me.reg (b + 1)
  let scl := (ctl.extractLsb' 24 8).toNat
  let pr := (ctl.extractLsb' 16 5).toNat
  if planeIllegal ctl src then illegal i
  else match planeFmt ctl, Rc.ofCode (ctl.extractLsb' 0 4) with
  | some t, some rc =>
      let p := if pr = 0 then defaultPrec t else pr
      if a % 4 ≠ 0 then .trap cALIGN (BitVec.ofNat 64 a) 0x10
      else if 0x8000 < a + 4 * (p + 1) then .trap cPERM (BitVec.ofNat 64 a) 0x10
      else
        let ws := u.me.group src (8 * planeOctets t)
        let r := planeOf t p scl (u.me.rmodeOf rc) (ws.flatMap (splitWord t.bytes)) (wordsBytes ws) u.me.seed
        .done ((u.modMe (fun c => { c with seed := r.2 })).writeImg u.cur.clus 0 (corePa u.pkg u.cur.clus u.cur.core a) (recordBytes p r.1))
  | _, _ => illegal i

/-- The register groups PLANE reads: its pair, and as many octets as its control word asks; its pair alone where that word makes it
ILLEGAL. -/
def planeReads (b src : Reg) (s0 : State) : List (Reg × Nat) :=
  let s := s0.modMe Ctx.deliver
  let v := (s.streamView s.cur (s.me.streamsOf [(b, 2)])).me.reg (b + 1)
  if planeIllegal v src then [(b, 2)]
  else
    let n := match planeFmt v with | some t => planeOctets t | none => 1
    [(b, 2), (src, 8 * n)]

def execPlane (b src : Reg) (s : State) : Out :=
  runReading (.plane b src) (planeReads b src s) s (planeBody (.plane b src) b src)

/-! ### TIDSET and TIDCLR (R275) -/

/-- The number of the table bank a launch holds in a cluster (R62). -/
def Clus.bankOf (k : Clus) (launch : Nat × Nat) : Option Nat :=
  (List.range 8).find? (fun n => match k.banks.toList.getD n none with | some b => b.launch = launch | none => false)

/-- The bank of the current context: none for the service context (R131). -/
def State.myBank (s : State) : Option Nat := if s.me.slot.isSome then s.myClus.bankOf (launchId s.me.lnch) else none

/-- Change an entry of a bank: none marks it invalid. -/
def Clus.setEntry (k : Clus) (bank id : Nat) (e : Option (List Byte)) : Clus :=
  if h : bank < 8 then
    { k with banks := k.banks.set bank ((k.banks[bank]).map (fun b =>
        { b with entries := match e with | some l => Assoc.put id l b.entries | none => Assoc.del id b.entries })) h }
  else k

/-- Discard the operand-buffer blocks that q accepts in every plane array of a cluster. -/
def State.discardBlocks (s : State) (c : Nat) (q : Resident → Bool) : State :=
  { s with tiles := s.tiles.map (fun e => if e.1.1 = c then (e.1, { e.2 with buf := e.2.buf.filter (fun r => !q r) }) else e) }

/-- Write an entry of the current launch's bank, and discard the blocks fetched through it. -/
def State.writeEntry (s : State) (bank id : Nat) (e : Option (List Byte)) : State :=
  (s.modClus s.cur.clus (fun k => k.setEntry bank id e)).discardBlocks s.cur.clus (fun r => r.id.bank = bank && r.id.tid = id)

def execTidset (a b : Reg) (s : State) : Out :=
  runInstr (.tidset a b) s (fun t =>
    match t.myBank with
    | none => .trap cTID_BAD 0 0
    | some bank =>
      let addr := (t.me.reg a).toNat
      let id := (t.me.reg b).toNat % 256
      if addr % 32 ≠ 0 then .trap cALIGN (BitVec.ofNat 64 addr) 0
      else if 0x8000 < addr + 64 then .trap cPERM (BitVec.ofNat 64 addr) 0
      else if t.blockPoison addr 64 then poisonEff t (BitVec.ofNat 64 addr) 0
      else
        let e := t.coreBytes addr 64
        match (if tidV e then tidBad e else none) with
        | some ofs => .trap cTID_BAD (BitVec.ofNat 64 addr) (BitVec.ofNat 32 (ofs + id * 256))
        | none => .done (t.writeEntry bank id (some e)))

def execTidclr (a : Reg) (s : State) : Out :=
  runInstr (.tidclr a) s (fun t =>
    match t.myBank with
    | none => .trap cTID_BAD 0 0
    | some bank => .done (t.writeEntry bank ((t.me.reg a).toNat % 256) none))

/-! ### Sending a command (R276 to R279, R287 to R289) -/

/-- The first trap a list of tests gives for a descriptor. -/
def descTests (addr : Nat) (l : List (Bool × Nat)) (k : Eff) : Eff :=
  match firstBad l with
  | some o => pullDesc addr o
  | none => k

/-- Append a command to a plane array's queue on a tag, or wait for room (checks 7 and 8 of R278). -/
def sendCmd (t : State) (tag : Tag) (tile : Nat) (kind : MatKind) : Eff :=
  let p := t.cur
  if 16 ≤ ((t.tile p.clus tile).cmds.filter (fun m => m.phase = .queued)).length then .wait t .resource
  else
    let c := t.me
    let u := { t with nextId := t.nextId + 1 }
    let cmd : MatCmd := ⟨t.nextId, p, tag.toNat, c.aspc, c.lnch, c.capt, c.bast, kind, .queued, [], [], [], [], [], c.slot, []⟩
    .done (((u.issueTag tag .matrix t.nextId).modTile p.clus tile (fun tl => { tl with cmds := tl.cmds ++ [cmd] })).post
      .matrixAccept { clus := p.clus, slot := tile })

/-- The walk of a skip list's 16 entries (R279): the K blocks taken, or the entry where it passes KB. -/
def skipWalk (kb : Nat) (l : List Byte) : Nat → Nat → Nat → List Nat → Except Nat (List Nat)
  | 0, _, _, taken => .ok taken
  | n + 1, e, pos, taken =>
    let skip := (l.getD (2 * e + 1) 0).toNat
    let take := (l.getD (2 * e) 0).toNat
    if skip = 0 && take = 0 then .ok taken
    else
      let p := pos + skip
      if kb < p + take then .error e
      else skipWalk kb l n (e + 1) (p + take) (taken ++ (List.range take).map (fun k => p + k))

/-- MMA, MMAS and MSEND: stream says that a skip-list stream is required, send that TT and any SKS are allowed. -/
def mmaBody (stream send : Bool) (a b : Reg) (tag : Tag) (t : State) : Eff :=
  match t.myBank with
  | none => .trap cTID_BAD 0 0
  | some _ => needFree t tag (
      let addr := (t.me.reg a).toNat
      if addr % 32 ≠ 0 || 0x8000 < addr + 32 then pullDesc addr 0
      else if t.blockPoison addr 32 then poisonEff t (BitVec.ofNat 64 addr) 0
      else
        let w := t.descWord addr 0
        let w1 := t.descWord addr 8
        let kb := (w.extractLsb' 48 8).toNat
        let nc := (w.extractLsb' 40 7).toNat
        let mr := (w.extractLsb' 32 7).toNat
        let sks := (w.extractLsb' 20 3).toNat
        let tt := (w.extractLsb' 24 4).toNat
        let aprec := (w.extractLsb' 15 5).toNat
        let a0 := (w.extractLsb' 0 15).toNat + (t.me.reg (a + 1)).toNat
        descTests addr [
          (w.getLsbD 47 || w.getLsbD 39 || w.getLsbD 29 || w.getLsbD 23 || kb = 0 || nc = 0 || 64 < nc || mr = 0 || 64 < mr ||
            aprec < 2 || 16 < aprec || 5 ≤ sks || (!send && (sks ≠ 0) ≠ stream) || (!send && tt ≠ 0) ||
            a0 % 4 ≠ 0 || 0x8000 < a0 + kb * mr * 4 * (aprec + 1), 0x00),
          (decide (t.descWord addr 0x10 ≠ 0), 0x10), (decide (t.descWord addr 0x18 ≠ 0), 0x18)] (
          let kind := fun (taken : List Nat) => MatKind.mma (w.extractLsb' 56 8).toNat kb nc mr (w.getLsbD 31) (w.getLsbD 30)
            (if w.getLsbD 28 then 1 else 0) aprec a0 (w1.extractLsb' 0 32).toNat (w1.extractLsb' 32 32).toNat
            (t.me.reg b).toNat (t.me.reg (b + 1)).toNat taken
          let tile := if send then tt else t.cur.core / 8
          if sks = 0 then sendCmd t tag tile (kind (List.range kb))
          else
            match t.me.stream (sks - 1) with
            | none => .trap cSTREAM_OVER 0 5
            | some x =>
              match x.readCheck with
              | .trap i => .trap cSTREAM_OVER (BitVec.ofNat 64 x.start) i
              | .wait => .wait t .result
              | .ok =>
                if t.windowPoison (sks - 1) then poisonEff t (BitVec.ofNat 64 x.start) 0 else
                match skipWalk kb (t.window t.cur x) 16 0 0 [] with
                | .error e => pullDesc addr (0x40 + e)
                | .ok taken =>
                  sendCmd (t.modMe (fun c => if c.spop.contains (sks - 1) then c else { c with spop := c.spop ++ [sks - 1] })) tag tile (kind taken)))

def execMma (a b : Reg) (tag : Tag) (s : State) : Out := runInstr (.mma a b tag) s (mmaBody false false a b tag)
def execMmas (a b : Reg) (tag : Tag) (s : State) : Out := runInstr (.mmas a b tag) s (mmaBody true false a b tag)
def execMsend (a b : Reg) (tag : Tag) (s : State) : Out := runInstr (.msend a b tag) s (mmaBody false true a b tag)

/-- MZERO (R287). -/
def execMzero (a : Reg) (tag : Tag) (s : State) : Out :=
  runInstr (.mzero a tag) s (fun t => needFree t tag (
    let w := t.me.reg a
    sendCmd t tag (w.extractLsb' 4 4).toNat (.zero (if w.getLsbD 1 then [0, 1] else if w.getLsbD 0 then [1] else [0]))))

/-- MDRAIN (R288, R289). -/
def execMdrain (a : Reg) (tag : Tag) (s : State) : Out :=
  runInstr (.mdrain a tag) s (fun t => needFree t tag (
    let addr := (t.me.reg a).toNat
    if addr % 32 ≠ 0 || 0x8000 < addr + 32 then pullDesc addr 0
    else if t.blockPoison addr 32 then poisonEff t (BitVec.ofNat 64 addr) 0
    else
      let w := t.descWord addr 0
      let w1 := t.descWord addr 8
      let rc := (w.extractLsb' 56 4).toNat
      let nc := (w.extractLsb' 40 7).toNat
      let mr := (w.extractLsb' 32 7).toNat
      let dstr := (w.extractLsb' 16 16).toNat
      let dbase := (w.extractLsb' 0 15).toNat
      let d0 := dbase + (t.me.reg (a + 1)).toNat
      match Ty.ofCode (w.extractLsb' 60 4), Rc.ofCode (w.extractLsb' 56 4) with
      | some fmt, some rnd =>
        let size := fmt.bytes
        descTests addr [
          (w.getLsbD 63 || w.getLsbD 53 || w.getLsbD 47 || w.getLsbD 39 || w.getLsbD 15 || rc = 0 || 4 < rc || nc = 0 || 64 < nc ||
            mr = 0 || 64 < mr || dstr % 4 ≠ 0 || dstr < nc * size || dbase % 4 ≠ 0 || nc * size % 4 ≠ 0 ||
            0x8000 < d0 + (mr - 1) * dstr + nc * size, 0x00),
          (w1.extractLsb' 32 32 ≠ 0, 0x08), (decide (t.descWord addr 0x10 ≠ 0), 0x10), (decide (t.descWord addr 0x18 ≠ 0), 0x18)]
          (sendCmd t tag (w.extractLsb' 48 4).toNat
            (.drain fmt rnd (w.getLsbD 55) (w.getLsbD 54) (if w.getLsbD 52 then 1 else 0) nc mr dstr d0 (w1.extractLsb' 0 32)))
      | _, _ => pullDesc addr 0))

/-! ### Acceptance (R280) -/

/-- Change a command of a plane array. -/
def Tile.modCmd (t : Tile) (id : Nat) (f : MatCmd → MatCmd) : Tile :=
  { t with cmds := t.cmds.map (fun c => if c.id = id then f c else c) }

/-- A fetch has ended: an erase of a sealed slot that waits for it looks again (R295). -/
def State.sealDrain (s : State) (c : Nat) : State := (s.clus c).sealRefuse.foldl (fun u k => u.post .ksSeraseDrained { id := k }) s

/-- A command leaves its plane array, its tag DONE with a code; whoever waits for room wakes, and the next step may start. -/
def State.cmdEnds (s : State) (c tile : Nat) (m : MatCmd) (code : Byte) : State :=
  let s1 := s.modTile c tile (fun t => { t with cmds := t.cmds.filter (fun x => x.id ≠ m.id) })
  let s2 := if ((s1.core c m.pos.core).tag m.tag).op = m.id then s1.tagDone c m.pos.core m.tag code else s1
  ((s2.wakeAll (fun q w => q.clus = c && w = .resource)).post .matrixStepStart { clus := c, slot := tile }).sealDrain c

/-- The fields of a capability (R65). -/
def capTiles (v : DWord) (n : Nat) : Bool := v.getLsbD (48 + n)
def capBank (v : DWord) : Nat := (v.extractLsb' 45 3).toNat
def capSlot (v : DWord) : Nat := (v.extractLsb' 36 9).toNat

/-- The check of R66. -/
def State.capOk (s : State) (c tile : Nat) (v : DWord) : Bool :=
  v.extractLsb' 0 32 = Config.chk s.boot.ups (v.extractLsb' 32 32) (Assoc.get 0 (capSlot v) (s.clus c).slotCount) c && capTiles v tile &&
    (s.tile c tile).holder = some (capSlot v)

/-- The entry a command names, 64 bytes; an invalid one reads as zeros. -/
def State.cmdEntry (s : State) (c : Nat) (v : DWord) (tid : Nat) : List Byte :=
  match (s.clus c).banks.toList.getD (capBank v) none with
  | some b => Assoc.get (List.replicate 64 0) tid b.entries
  | none => List.replicate 64 0

/-- Row 2 of R280: whether the entry cannot serve the command. -/
def tidUnfit (e : List Byte) (kb kb0 nc n0 i2 i3 : Nat) : Bool :=
  let n := tidNdim e
  !tidV e || tidFmt e = none || tidFmt e = some .int32 || tidFmt e = some .ue8 || n = 0 ||
    tidExt e 0 ≤ 32 * (kb0 + kb - 1) || tidExt e 1 < n0 + nc ||
    (if 2 ≤ n then tidExt e 2 ≤ i2 else i2 ≠ 0) || (if 3 ≤ n then tidExt e 3 ≤ i3 else i3 ≠ 0) ||
    ((tidFmt e = some .int8 || tidFmt e = some .uint8) && tidBlk e = 1)

/-- The record of row m and K block kb (R272), read on path M. -/
def State.aRecord (s : State) (p : Pos) (a0 mr aprec kb m : Nat) : List Byte :=
  s.pathRead p.clus .m (engineObserver .m (p.core / 8)) (corePa s.pkg p.clus p.core (a0 + (kb * mr + m) * 4 * (aprec + 1))) 0 (4 * (aprec + 1))

/-- The launch of a command's team. -/
def State.launchOf (s : State) (lnch : Word) : Option Launch :=
  (s.launches.find? (fun e => e.1 = launchId lnch)).map (·.2)

/-- SV and SSLOT of a launch record (R56). -/
def recSv (l : List Byte) : Bool := (bytesDWord (l.drop 0x28)).getLsbD 15
def recSslot (l : List Byte) : Nat := ((bytesDWord (l.drop 0x28)).extractLsb' 0 8).toNat

/-- The record of the launch or the basting launch a context belongs to. -/
def State.recordOf (s : State) (lnch : Word) : List Byte :=
  match s.launchOf lnch with
  | some l => l.rcd
  | none =>
    match s.bastings.find? (fun e => e.1 = (launchId lnch).1) with
    | some b => b.2.rcd
    | none => []

/-- The sealed slot checks of R294 before any page is touched. -/
def State.sealBad (s : State) (c : Nat) (lnch : Word) (e : List Byte) (bytes : List Nat) : Bool :=
  let r := s.recordOf lnch
  let k := Assoc.get ({} : SealSlot) (tidSkh e) s.sealedSlots
  tidSeal e && (!recSv r || tidSkh e ≠ recSslot r || !k.held || k.fn ≠ (s.clus c).fn || (s.clus c).sealRefuse.contains (tidSkh e) ||
    bytes.any (fun a => a < k.rbase || k.rbase + k.rlen ≤ a))

/-- The identity of a command's block (R283). -/
def MatCmd.ident (m : MatCmd) (e : List Byte) (kb n : Nat) : Option BlkId :=
  match m.kind, tidFmt e with
  | .mma tid _ _ _ _ _ _ _ _ i2 i3 kb0 n0 _, some t => some ⟨capBank m.capt, tid, i2, i3, kb0 + kb, n0 + n, tidPlanes e t⟩
  | _, _ => none

/-- The resident blocks a command uses in place of fetching them, by K block and column (R283). -/
def State.reusedBlocks (s : State) (c tile : Nat) (m : MatCmd) (e : List Byte) : Assoc (Nat × Nat) PlaneBlk :=
  match m.kind with
  | .mma _ _ nc _ breuse _ _ _ _ _ _ _ _ taken =>
    if breuse then
      (List.range nc).flatMap (fun n => taken.filterMap (fun kb =>
        ((s.tile c tile).buf.find? (fun r => some r.id = m.ident e kb n)).map (fun r => ((kb, n), r.blk))))
    else []
  | .drain _ _ _ _ _ _ _ _ _ _ => []
  | .zero _ => []

/-- The blocks a command fetches: those it does not already hold. -/
def MatCmd.needBlocks (m : MatCmd) : List (Nat × Nat) :=
  match m.kind with
  | .mma _ _ nc _ _ _ _ _ _ _ _ _ _ taken =>
    (List.range nc).flatMap (fun n => (taken.map (fun kb => (kb, n))).filter (fun b => !Assoc.has b m.bblk))
  | .drain _ _ _ _ _ _ _ _ _ _ => []
  | .zero _ => []

/-- The selection of a command's block. -/
def MatCmd.sel (m : MatCmd) (kb n : Nat) : BSel :=
  match m.kind with
  | .mma _ _ _ _ _ _ _ _ _ i2 i3 kb0 n0 _ => ⟨kb0 + kb, n0 + n, i2, i3⟩
  | .drain _ _ _ _ _ _ _ _ _ _ => ⟨kb, n, 0, 0⟩
  | .zero _ => ⟨kb, n, 0, 0⟩

/-- A list without repeats, in order of first use. -/
def firstUse (l : List Nat) : List Nat := l.foldl (fun acc a => if acc.contains a then acc else acc ++ [a]) []

/-- The 32-byte units a sealed command reads: every touched chunk whole, and its tag (R294). -/
def sealedUnits (k : SealSlot) (bytes : List Nat) : List Nat :=
  (firstUse (bytes.map (fun a => (a - k.rbase) / 65536))).flatMap (fun c =>
    (List.range 2048).map (fun j => (k.rbase + 65536 * c) / 32 + j) ++ [(k.rbase + k.rlen + 16 * c) / 32])

/-- Rows 1 to 4 of R280 for a command: the code it fails with, or the command with its entry, its A blocks and the units of B it
reads. -/
def State.acceptCmd (s : State) (c tile : Nat) (m : MatCmd) : Except Byte MatCmd :=
  if !s.capOk c tile m.capt then .error cCAP_DENIED
  else
    match m.kind with
    | .mma tid kb nc mr _ _ _ aprec a0 i2 i3 kb0 n0 taken =>
      let e := s.cmdEntry c m.capt tid
      if tidUnfit e kb kb0 nc n0 i2 i3 then .error cTID_BAD
      else
        match tidFmt e with
        | none => .error cTID_BAD
        | some t =>
          let recs := taken.flatMap (fun k => (List.range mr).map (fun r => ((k, r), s.aRecord m.pos a0 mr aprec k r)))
          let size := 4 * (aprec + 1)
          if taken.any (fun k => s.poisoned (corePa s.pkg m.pos.clus m.pos.core (a0 + k * mr * size)) (mr * size)) then .error cDEAD_PEER
          else if recs.any (fun x => recordBad aprec x.2) || 131072 < nc * taken.length * 4 * (tidPlanes e t + 1) then .error cPULL_DESC
          else
            let m1 := { m with bblk := s.reusedBlocks c tile m e }
            let bytes := m1.needBlocks.flatMap (fun b => blockBytes e t (m.sel b.1 b.2))
            if s.sealBad c m.lnch e bytes then .error cSEALED_KEY
            else
              let units := if tidSeal e then sealedUnits (Assoc.get {} (tidSkh e) s.sealedSlots) bytes else firstUse (bytes.map (· / 32))
              .ok { m1 with phase := .fetching, entry := e, ablk := recs.map (fun x => (x.1, recordBlk aprec x.2)), units := units }
    | .drain _ _ _ _ _ _ _ _ _ _ => .ok { m with phase := .ready }
    | .zero _ => .ok { m with phase := .ready }

/-! ### The fetch of B (R280, R285, R294) -/

/-- The code that an engine's walk or page fault ended with, taken off the list. -/
def Clus.takeFail (k : Clus) (p : Pos) (tag : Nat) : Option Byte × Clus :=
  match k.xfails.find? (fun e => e.1 = .engine p tag) with
  | some e => (some e.2, { k with xfails := k.xfails.filter (fun x => x.1 ≠ .engine p tag) })
  | none => (none, k)

/-- Whether a walk or a message for the requester is under way. -/
def Clus.walking (k : Clus) (r : Requester) : Bool :=
  k.walks.any (fun w => w.reqs.contains r) || k.tokens.any (fun t => t.reqs.any (fun e => e.1 = r)) ||
    k.waitFaults.any (fun t => t.reqs.any (fun e => e.1 = r))

/-- How a fetch goes on. -/
inductive FetchOut where
  | fail (s : State) (code : Byte)
  | wait (s : State) (m : MatCmd)
  | have_ (s : State) (m : MatCmd)

/-- The translation of a page of B and the checks on it (row 5 of R280). -/
def State.fetchPage (s : State) (c : Nat) (m : MatCmd) (v : Nat) : FetchOut :=
  let r : Requester := .engine m.pos m.tag
  if m.pages.any (fun e => e.1 = v) then .have_ s m
  else
    let a : DWord := BitVec.ofNat 64 (4096 * v)
    match s.translate c r m.aspc .read a .matrixB with
    | .trap code => .fail s code
    | .miss => .wait (if (s.clus c).walking r then s else s.startWalk c m.aspc .read a .matrixB r) m
    | .ok pa t =>
      if s.dead.getLsbD (paPkg pa) then .fail s cDEAD_PEER
      else if t.type = .device then .fail s cDEVICE_ACCESS
      else if (t.type = .sealed) ≠ tidSeal m.entry then .fail s cSEALED_KEY
      else if paPkg pa = s.pkg && s.ownerRefuses (s.clus c).fn pa then .fail s cPERM
      else .have_ s { m with pages := m.pages ++ [(v, pa, t.key)] }

/-- A 32-byte unit of B at a home, read on path M (R285); a basting launch reads its shadow. -/
def State.readB (s : State) (c tile : Nat) (bast : Option Nat) (pa key : Nat) : List Byte :=
  if s.isHome c pa then
    match s.shadowOf c bast pa with
    | some x => (x.drop (pa % 64)).take 32
    | none => s.pathRead c .m (engineObserver .m tile) pa key 32
  else (s.ownerRead pa key 32).1

/-- The units of one page read through owner ports, each once; one of another package needs a request and its reply. all lists the
page's units. -/
def State.fetchUnits (s : State) (c tile : Nat) (m : MatCmd) (all : List Nat) : List Nat → FetchOut
  | [] => if all.all (fun u => Assoc.has u m.got) then .have_ s m else .wait s m
  | u :: us =>
    if Assoc.has u m.got then s.fetchUnits c tile m all us
    else
      let e := (m.pages.find? (fun e => e.1 = u / 128)).getD (0, 0, 0)
      let pa := e.2.1 + 32 * (u % 128)
      if paPkg pa ≠ s.pkg then
        (s.askPkg c pa e.2.2 32 (.matrix c tile m.id u)).fetchUnits c tile m all us
      else if !s.keyOk c pa e.2.2 then .fail s cPERM
      else if s.poison.contains (pa / 64) then .fail (s.sawPoison m.bast) cDEAD_PEER
      else (s.noteRead m.bast pa).fetchUnits c tile { m with got := Assoc.put u (s.readB c tile m.bast pa e.2.2) m.got } all us

/-- The pages of B in order of first touch, each translated, checked and read before the next (row 5 of R280). -/
def State.fetchPages (s : State) (c tile : Nat) (m : MatCmd) : List Nat → FetchOut
  | [] => .have_ s m
  | v :: vs =>
    let us := m.units.filter (fun u => u / 128 = v)
    if us.all (fun u => Assoc.has u m.got) then s.fetchPages c tile m vs
    else
      match s.fetchPage c m v with
      | .fail s1 code => .fail s1 code
      | .wait s1 m1 => .wait s1 m1
      | .have_ s1 m1 =>
        match s1.fetchUnits c tile m1 us us with
        | .fail s2 code => .fail s2 code
        | .wait s2 m2 => .wait s2 m2
        | .have_ s2 m2 => s2.fetchPages c tile m2 vs

/-- A byte a command has read. -/
def MatCmd.byte (m : MatCmd) (a : Nat) : Byte := (Assoc.get [] (a / 32) m.got).getD (a % 32) 0

/-- n bytes a command has read. -/
def MatCmd.bytesFrom (m : MatCmd) (a n : Nat) : List Byte := (List.range n).map (fun k => m.byte (a + k))

/-- Whether the GMAC of every chunk that a sealed command read is its tag (R293, R294). -/
def MatCmd.verified (m : MatCmd) (k : SealSlot) : Bool :=
  (firstUse ((m.units.filter (fun u => 32 * u < k.rbase + k.rlen)).map (fun u => (32 * u - k.rbase) / 65536))).all (fun c =>
    gcmTag k.gk (leBytes 8 c ++ List.replicate 4 0) (m.bytesFrom (k.rbase + 65536 * c) 65536) [] = m.bytesFrom (k.rbase + k.rlen + 16 * c) 16)

/-- The byte the operand path sees: of a sealed command, plain text under XK in data units of 64 bytes (R293). -/
def State.operandByte (s : State) (m : MatCmd) (a : Nat) : Byte :=
  if tidSeal m.entry then
    let k := Assoc.get ({} : SealSlot) (tidSkh m.entry) s.sealedSlots
    let d := (a - k.rbase) / 64
    (xtsUnit k.xk d 4 (m.bytesFrom (k.rbase + 64 * d) 64)).getD ((a - k.rbase) % 64) 0
  else m.byte a

/-- The bytes a block takes in the operand buffer: its record (R272). -/
def Resident.size (r : Resident) : Nat := 4 * (r.id.prec + 1)

/-- What stays resident of blocks, oldest first, in a buffer of so many bytes (R270, R283; log entry 31). -/
def fitBuffer (room : Nat) (l : List Resident) : List Resident :=
  (l.foldr (fun r acc => if acc.2 + r.size ≤ room then (r :: acc.1, acc.2 + r.size) else (acc.1, room)) (([] : List Resident), 0)).1

/-- The fetched blocks enter the 128 KiB operand buffer and the command is ready. -/
def State.convertB (s : State) (c tile : Nat) (m : MatCmd) : State :=
  match tidFmt m.entry with
  | some t =>
    let fresh : List ((Nat × Nat) × Resident) := m.needBlocks.filterMap (fun b => (m.ident m.entry b.1 b.2).map (fun i =>
      (b, (⟨i, bBlock m.entry t (m.sel b.1 b.2) (s.operandByte m), if tidSeal m.entry then some (tidSkh m.entry) else none⟩ : Resident))))
    let old := (s.tile c tile).buf.filter (fun r => !fresh.any (fun f => f.2.id = r.id))
    ((s.modTile c tile (fun tl => { tl with buf := fitBuffer 131072 (old ++ fresh.map Prod.snd) }.modCmd m.id (fun _ =>
      { m with phase := .ready, bblk := m.bblk ++ fresh.map (fun f : (Nat × Nat) × Resident => (f.1, f.2.blk)), got := [], units := [], pages := [] }))).post
        .matrixStepStart { clus := c, slot := tile }).sealDrain c
  | none => s.modTile c tile (fun tl => tl.modCmd m.id (fun x => { x with phase := .ready }))

/-- A fetching command goes on as far as it can (rows 5 and 6 of R280). -/
def State.fetchCmd (s : State) (c tile : Nat) (m : MatCmd) : State :=
  let r := (s.clus c).takeFail m.pos m.tag
  match r.1 with
  | some code => (s.setClus c r.2).cmdEnds c tile m code
  | none =>
    match s.fetchPages c tile m (firstUse (m.units.map (· / 128))) with
    | .fail s1 code => s1.cmdEnds c tile m code
    | .wait s1 m1 => s1.modTile c tile (fun tl => tl.modCmd m.id (fun _ => m1))
    | .have_ s1 m1 =>
      if tidSeal m1.entry && !m1.verified (Assoc.get {} (tidSkh m1.entry) s1.sealedSlots) then s1.cmdEnds c tile m cSEALED_INTEGRITY
      else s1.convertB c tile m1

/-- The event MATRIX_ACCEPT: the plane array of tile inp.slot takes the oldest command of its queue (R280). -/
def execMatrixAccept (s : State) : Out :=
  let c := s.inp.clus
  let tile := s.inp.slot
  match (s.tile c tile).cmds.find? (fun m => m.phase = .queued) with
  | none => .next s
  | some m =>
    let s1 := s.wakeAll (fun q w => q.clus = c && w = .resource)
    match s.acceptCmd c tile m with
    | .error code => .next ((if code = cDEAD_PEER then s1.sawPoison m.bast else s1).cmdEnds c tile m code)
    | .ok m1 => .next ((s1.modTile c tile (fun tl => tl.modCmd m.id (fun _ => m1))).post
        (if m1.phase = .ready then .matrixStepStart else .bFetchDone) { clus := c, slot := tile, core := m.pos.core })

/-- The event B_FETCH_DONE: every fetching command of the cluster goes on; one whose units are all there is verified, decrypted
and converted (R294). -/
def execBFetchDone (s : State) : Out :=
  .next ((List.range 16).foldl (fun u tile =>
    ((u.tile s.inp.clus tile).cmds.filter (fun m => m.phase = .fetching)).foldl (fun v m => v.fetchCmd s.inp.clus tile m) u) s)

/-! ### Steps (R281, R284, R285, R289) -/

/-- The event MATRIX_STEP_START: the oldest accepted command begins its step once it is ready and no other runs (R284). -/
def execMatrixStepStart (s : State) : Out :=
  let c := s.inp.clus
  let tile := s.inp.slot
  match (s.tile c tile).cmds with
  | m :: _ =>
    if m.phase = .ready then
      .next ((s.modTile c tile (fun tl => tl.modCmd m.id (fun x => { x with phase := .running }))).post .matrixStepDone { clus := c, slot := tile })
    else .next s
  | [] => .next s

def Tile.accAt (t : Tile) (bank m n : Nat) : Word := Assoc.get 0 (bank, m, n) t.acc
/-- Set an accumulator element; +0 is not listed. -/
def Tile.setAcc (t : Tile) (bank m n : Nat) (v : Word) : Tile :=
  { t with acc := if v = 0 then Assoc.del (bank, m, n) t.acc else Assoc.put (bank, m, n) v t.acc }

/-- The elements of a region, row by row. -/
def region2 (mr nc : Nat) : List (Nat × Nat) := (List.range mr).flatMap (fun m => (List.range nc).map (fun n => (m, n)))

/-- The product of a command added into its bank (R281, R85). -/
def Tile.multiply (t : Tile) (m : MatCmd) (nc mr : Nat) (acc : Bool) (bank : Nat) (taken : List Nat) : Tile :=
  (region2 mr nc).foldl (fun u e =>
    let v0 := if acc then t.accAt bank e.1 e.2 else 0
    u.setAcc bank e.1 e.2 (taken.foldl (fun v kb =>
      accumulate v (Assoc.get (PlaneBlk.zero false) (kb, e.1) m.ablk) (Assoc.get (PlaneBlk.zero false) (kb, e.2) m.bblk)) v0)) t

/-- The rounding mode a rounding code names outright. -/
def rcMode : Rc → RMode
  | .dyn => .rne
  | .rne => .rne
  | .rtz => .rtz
  | .rdn => .rdn
  | .rup => .rup
  | .rsto => .rsto

/-- An element as a drain writes it, and whether it overflowed (R289). -/
def drainVal (fmt : Ty) (rnd : Rc) (alpha v : Word) : Word × Bool :=
  match convertFl fmt (rcMode rnd) 0 ((flOf .fp32 v).mul (flOf .fp32 alpha)) with
  | .ok w => (w, false)
  | .over _ w => (w, true)

/-- Land cells that lie in several 32-byte units, unit by unit (R285). -/
def State.landAll (s : State) (c : Nat) (bast : Option Nat) (path : Path) (op key : Nat) (cells : List (Nat × Byte)) : State :=
  (firstUse (cells.map (fun e => e.1 / 32))).foldl (fun u x => u.landCells c bast path op key (cells.filter (fun e => e.1 / 32 = x))) s

/-- The step of a command: its effect, and the code its tag receives. -/
def State.cmdStep (s : State) (c tile : Nat) (m : MatCmd) : State × Byte :=
  match m.kind with
  | .mma _ _ nc mr _ acc bank _ _ _ _ _ _ taken => (s.modTile c tile (fun t => t.multiply m nc mr acc bank taken), 0)
  | .zero banks => (s.modTile c tile (fun t => { t with acc := t.acc.filter (fun e => !banks.contains e.1.1) }), 0)
  | .drain fmt rnd sat clr bank nc mr dstr d0 alpha =>
    let t := s.tile c tile
    let out := (region2 mr nc).map (fun e => (e, drainVal fmt rnd alpha (t.accAt bank e.1 e.2)))
    let cells := out.flatMap (fun e => cellsAt (corePa s.pkg c m.pos.core (d0 + e.1.1 * dstr + e.1.2 * fmt.bytes)) ((wordBytes e.2.1).take fmt.bytes))
    let s1 := s.landAll c m.bast .m m.id 0 cells
    let s2 := if clr then s1.modTile c tile (fun t => (region2 mr nc).foldl (fun u e => u.setAcc bank e.1 e.2 0) t) else s1
    (s2, if !sat && out.any (fun e => e.2.2) then cCVT_OVERFLOW else 0)

/-- The event MATRIX_STEP_DONE: the running step's effect takes place whole and the command's tag becomes DONE (R284, R286). -/
def execMatrixStepDone (s : State) : Out :=
  let c := s.inp.clus
  let tile := s.inp.slot
  match (s.tile c tile).cmds.find? (fun m => m.phase = .running) with
  | none => .next s
  | some m =>
    let r := s.cmdStep c tile m
    .next (r.1.cmdEnds c tile m r.2)

end Sys2Proof.Machine
end

