-- ==== Sys2Proof/Machine/Record.lean ====
section
/-! DEFINITION. The fields of a launch record (R56), its checks (R60), and the fields of Q_CFG (R92). -/

namespace Sys2Proof.Machine

/-- The word of a record at an offset. -/
def recWord (l : List Byte) (ofs : Nat) : DWord := bytesDWord (l.drop ofs)

def recVer (l : List Byte) : Nat := ((recWord l 0).extractLsb' 56 8).toNat
def recAspc (l : List Byte) : Nat := ((recWord l 0).extractLsb' 52 4).toNat
def recPrio (l : List Byte) : Nat := ((recWord l 0).extractLsb' 49 3).toNat
def recSys (l : List Byte) : Bool := (recWord l 0).getLsbD 48
def recPreempt (l : List Byte) : Bool := (recWord l 0).getLsbD 47
def recDebug (l : List Byte) : Bool := (recWord l 0).getLsbD 46
def recBok (l : List Byte) : Bool := (recWord l 0).getLsbD 45
def recBhist (l : List Byte) : Bool := (recWord l 0).getLsbD 44
def recNeedpa (l : List Byte) : Bool := (recWord l 0).getLsbD 43
def recZcore (l : List Byte) : Bool := (recWord l 0).getLsbD 42
def recPstrict (l : List Byte) : Bool := (recWord l 0).getLsbD 41
def recNdep (l : List Byte) : Nat := ((recWord l 0).extractLsb' 38 3).toNat
def recStallk (l : List Byte) : Nat := ((recWord l 0).extractLsb' 32 6).toNat
def recCpages (l : List Byte) : Nat := ((recWord l 8).extractLsb' 48 16).toNat
def recCbase (l : List Byte) : Nat := ((recWord l 8).extractLsb' 0 48).toNat
def recTveco (l : List Byte) : Nat := ((recWord l 0x10).extractLsb' 32 32).toNat
def recEofs (l : List Byte) : Nat := ((recWord l 0x10).extractLsb' 0 32).toNat
def recMaxteams (l : List Byte) : Nat := ((recWord l 0x18).extractLsb' 48 16).toNat
def recTeams (l : List Byte) : Nat := ((recWord l 0x18).extractLsb' 32 16).toNat
def recNtile (l : List Byte) : Nat := ((recWord l 0x18).extractLsb' 8 5).toNat
def recNcore (l : List Byte) : Nat := ((recWord l 0x18).extractLsb' 4 4).toNat
def recNctx (l : List Byte) : Nat := ((recWord l 0x18).extractLsb' 0 3).toNat
def recPmap (l : List Byte) : Nat := ((recWord l 0x20).extractLsb' 0 48).toNat
def recTidn (l : List Byte) : Nat := ((recWord l 0x30).extractLsb' 48 9).toNat
def recTida (l : List Byte) : Nat := ((recWord l 0x30).extractLsb' 0 48).toNat
def recCen (l : List Byte) : Bool := (recWord l 0x38).getLsbD 63
def recCclus (l : List Byte) : Nat := ((recWord l 0x38).extractLsb' 56 7).toNat
def recChofs (l : List Byte) : Nat := ((recWord l 0x38).extractLsb' 0 36).toNat
def recCval (l : List Byte) : DWord := recWord l 0x40
def recMen (l : List Byte) : Bool := (recWord l 0x48).getLsbD 63
def recMvec (l : List Byte) : Nat := ((recWord l 0x48).extractLsb' 0 11).toNat
def recSeedv (l : List Byte) : Word := (recWord l 0x50).extractLsb' 0 32
def recDepa (l : List Byte) (i : Nat) : DWord := (recWord l (0x60 + 16 * i)).extractLsb' 0 48 |>.setWidth 64
def recDept (l : List Byte) (i : Nat) : DWord := recWord l (0x68 + 16 * i)
def recArg (l : List Byte) (j : Nat) : DWord := recWord l (0xA0 + 8 * j)

/-- The first word of a record that has a RSV bit set (R56, R60 row 2). -/
def recReserved (l : List Byte) : Option Nat :=
  let w := recWord l
  firstBad (([
    ((w 0).extractLsb' 0 32 ≠ 0, 0), ((w 0x18).extractLsb' 13 19 ≠ 0 || (w 0x18).getLsbD 3, 0x18), ((w 0x20).extractLsb' 48 16 ≠ 0, 0x20),
    ((w 0x28).extractLsb' 16 48 ≠ 0 || (w 0x28).extractLsb' 8 7 ≠ 0, 0x28), ((w 0x30).extractLsb' 57 7 ≠ 0, 0x30),
    ((w 0x38).extractLsb' 36 20 ≠ 0, 0x38), ((w 0x48).extractLsb' 11 52 ≠ 0, 0x48), ((w 0x50).extractLsb' 32 32 ≠ 0, 0x50),
    (decide (w 0x58 ≠ 0), 0x58)] : List (Bool × Nat)) ++
    (List.range 4).flatMap (fun i =>
      [((if i < recNdep l then decide ((w (0x60 + 16 * i)).extractLsb' 48 16 ≠ 0) else decide (w (0x60 + 16 * i) ≠ 0)), 0x60 + 16 * i),
       (!(i < recNdep l) && decide (w (0x68 + 16 * i) ≠ 0), 0x68 + 16 * i)]) ++
    (List.range 4).map (fun k => (decide (w (0xE0 + 8 * k) ≠ 0), 0xE0 + 8 * k)))

/-- A failed check: the reason, the word's offset, and the entry index of reason 0x0A. -/
structure RecBad where
  reason : Nat
  wofs : Nat
  tidx : Nat := 0
  deriving DecidableEq, Repr

/-- The entries of an image, 64 bytes each. -/
def imgEntry (img : List Byte) (i : Nat) : List Byte := (img.drop (64 * i)).take 64

/-- The first entry of an image that fails R63. -/
def imgBad (img : List Byte) (n : Nat) : Option Nat :=
  (List.range n).find? (fun i => tidV (imgEntry img i) && (tidBad (imgEntry img i)).isSome)

/-- Whether a cluster belongs to a function. -/
def State.clusOf (s : State) (fn c : Nat) : Bool := c < 128 && (s.clus c).fn = fn

/-- The checks of R60, in their order, on a record read for a queue of function fn, with its map and image where they could be
read. Where several terms of row 5 or of row 6 fail in different words, WOFS names 0x08 before 0x10 and 0x18 before 0x00: R60 says only 'the
offending word' (DESIGN CHOICE, log entry 46). -/
def State.recordBad (s : State) (fn : Nat) (l : List Byte) (map img : Option (List Byte)) : Option RecBad :=
  let cs := (List.range 128).filter (fun c => s.clusOf fn c)
  let window := recCpages l * 4096
  if recVer l ≠ 1 then some ⟨1, 0, 0⟩
  else
    match recReserved l with
    | some o => some ⟨2, o, 0⟩
    | none =>
      if cs.any (fun c => ((s.clus c).rroot.toList.getD (recAspc l) 0).toNat / 4096 = 0) then some ⟨3, 0, 0⟩
      else if recSys l && fn ≠ 0 then some ⟨4, 0, 0⟩
      else if recCpages l = 0 || 4096 < recCpages l || recCbase l % 4096 ≠ 0 then some ⟨5, 8, 0⟩
      else if recEofs l % 2 = 1 || recTveco l % 2 = 1 || window ≤ recEofs l || window ≤ recTveco l then some ⟨5, 0x10, 0⟩
      else if recNtile l = 0 || recNcore l = 0 || recNctx l = 0 || recTeams l = 0 || 16 < recNtile l || 8 < recNcore l || 4 < recNctx l ||
        recMaxteams l < recTeams l then some ⟨6, 0x18, 0⟩
      else if recStallk l ≠ 0 && (recStallk l < 16 || 40 < recStallk l) then some ⟨6, 0, 0⟩
      else if recPmap l ≠ 0 && (match map with
          | some m => m.any (fun b => b ≠ 0xFF && !s.clusOf fn b.toNat)
          | none => true) then some ⟨7, 0x20, 0⟩
      else if 4 < recNdep l then some ⟨8, 0, 0⟩
      else
        match (List.range (recNdep l)).find? (fun i => (recDepa l i).toNat % 8 ≠ 0) with
        | some i => some ⟨8, 0x60 + 16 * i, 0⟩
        | none =>
          let k : SealSlot := Assoc.get {} (recSslot l) s.sealedSlots
          if recSv l && !(k.held && k.fn = fn) then some ⟨9, 0x28, 0⟩
          else if 256 < recTidn l || recTida l % 64 ≠ 0 then some ⟨10, 0x30, 0⟩
          else
            match (if recTidn l = 0 then some [] else img) with
            | none => some ⟨10, 0x30, 0⟩
            | some im =>
              match imgBad im (recTidn l) with
              | some i => some ⟨10, 0x30, i⟩
              | none => if recCen l && (!s.clusOf fn (recCclus l) || recChofs l % 8 ≠ 0) then some ⟨11, 0x38, 0⟩ else none

/-! ### Q_CFG (R92) -/

def Queue.een (q : Queue) : Bool := q.cfg.getLsbD 31
def Queue.evec (q : Queue) : Nat := (q.cfg.extractLsb' 20 11).toNat
def Queue.baste (q : Queue) : Bool := q.cfg.getLsbD 12
def Queue.maxp (q : Queue) : Nat := (q.cfg.extractLsb' 9 3).toNat
def Queue.device (q : Queue) : Bool := q.cfg.getLsbD 8
def Queue.logn (q : Queue) : Nat := (q.cfg.extractLsb' 0 5).toNat
/-- LOGN is valid for KIND. -/
def Queue.lognOk (q : Queue) : Bool := if q.device then 3 ≤ q.logn && q.logn ≤ 6 else 4 ≤ q.logn && q.logn ≤ 16

def State.queue (s : State) (q : Nat) : Queue := Assoc.get {} q s.queues
def State.modQueue (s : State) (q : Nat) (f : Queue → Queue) : State := { s with queues := Assoc.put q (f (s.queue q)) s.queues }
def State.modLaunch (s : State) (k : Nat × Nat) (f : Launch → Launch) : State :=
  { s with launches := s.launches.map (fun e => if e.1 = k then (e.1, f e.2) else e) }

/-- The key a launch is kept under: its queue and the low bits of its sequence number, as in LNCH. -/
def launchKey (q seq : Nat) : Nat × Nat := (q, seq % 2 ^ 24)

/-- An MSI-X message of a function; a virtual function has 64 vectors (R26). -/
def State.sendMsix (s : State) (fn vec : Nat) : State := if fn = 0 || vec < 64 then { s with host := s.host ++ [.msix fn vec] } else s

/-- A launch's effective priority (R99). -/
def State.effPrio (s : State) (q : Nat) (rcd : List Byte) : Nat := min (recPrio rcd) (s.queue q).maxp

end Sys2Proof.Machine
end

