-- ==== Sys2Proof/Machine/Keys.lean ====
section
/-! DEFINITION. The key store: the window of R46, allocation slots (R43, R47 to R49), sealed slots (R291, R292, R295), and the moving
of a cluster to another function (R50). -/

namespace Sys2Proof.Machine

/-! ### The window (R46) -/

/-- Whether a function's BARs answer: virtual functions only while SR-IOV is enabled (R25, R395), none while it is being reset (R394). -/
def State.fnLive (s : State) (fn : Nat) : Bool := (fn = 0 || (fn ≤ 16 && s.sriov)) && !s.resetting.contains fn

def State.ksWin (s : State) (fn : Nat) : KsWin := Assoc.get {} fn s.ksWins
def State.setKsWin (s : State) (fn : Nat) (w : KsWin) : State := { s with ksWins := Assoc.put fn w s.ksWins }
def KsWin.slotNo (w : KsWin) : Nat := (w.slot.extractLsb' 0 12).toNat
def KsWin.argNo (w : KsWin) : Nat := (w.arg.extractLsb' 0 5).toNat

/-- A function's command ends: DONE, and ERR where it failed (R16). -/
def State.ksEnd (s : State) (fn : Nat) (err : Bool) : State :=
  s.setKsWin fn { s.ksWin fn with run := none, done := true, err := err }

/-- A write of KS_CMD: ignored while BUSY; a command in the stated state has its effect, any other sets ERR (R16, R47). -/
def State.ksCommand (s : State) (fn : Nat) (ok : KsWin → Bool) (effect : KsWin → State → State) : State :=
  let w := s.ksWin fn
  match w.run with
  | some _ => s
  | none => if !s.fnLive fn then s else if ok w then effect w s else s.ksEnd fn true

/-! ### Allocation slots (R43) -/

def State.keySlot (s : State) (k : Nat) : KeySlot := Assoc.get {} k s.keySlots
def State.setKeySlot (s : State) (k : Nat) (r : KeySlot) : State := { s with keySlots := Assoc.put k r s.keySlots }

/-- The key store sets or clears a slot's bit in every translation unit of a function (R43). -/
def State.keyBit (s : State) (fn slot : Nat) (on : Bool) : State :=
  (List.range 128).foldl (fun (u : State) c =>
    if (u.clus c).fn = fn && (u.clus c).holdsKey slot ≠ on then
      u.modClus c (fun k => { k with keyBits := if on then k.keyBits ||| (1#4096 <<< slot) else k.keyBits &&& ~~~(1#4096 <<< slot) })
    else u) s

/-- The bitmap of a function: the slots it holds, but those whose bit a running command has cleared (R43). -/
def State.fnKeys (s : State) (fn : Nat) : BitVec 4096 :=
  s.keySlots.foldl (fun b e => if e.2.st ≠ .empty && e.2.fn = fn && !s.keyCleared fn e.1 then b ||| (1#4096 <<< e.1) else b) 0

/-- An address of this package's HBM. -/
def State.ownHbm (s : State) (pa : Nat) : Bool := (paRegion pa).isHbm && paPkg pa = s.pkg

/-- What the clusters of a function have cached of other clusters' memory under a slot is gone, so that their first reads see what the
slot's last holder has stored (R49). -/
def State.uncacheKey (s : State) (slot fn : Nat) : State :=
  { s with
    clusters := s.clusters.map (fun e => if e.2.fn = fn then (e.1, { e.2 with rcache := e.2.rcache.filter (fun l => !(l.key = slot && s.ownHbm (64 * l.line))) }) else e),
    cores := s.cores.map (fun e => if (s.clus e.1.1).fn = fn then (e.1, { e.2 with
      l1 := e.2.l1.filter (fun l => !(l.foreign && l.key = slot && s.ownHbm (64 * l.line))),
      code := e.2.code.filter (fun u => !(u.2.1 = slot && s.ownHbm (32 * u.1))) }) else e) }

/-- A slot becomes HELD by a function with a key, and its bit is set. -/
def State.grantKey (s : State) (slot fn : Nat) (key : List Byte) : State :=
  ((s.uncacheKey slot fn).setKeySlot slot ⟨.held, key, fn, 0⟩).keyBit fn slot true

/-- A function holds a slot (R43). -/
def State.holdsSlot (s : State) (slot fn : Nat) : Bool := (s.keySlot slot).st ≠ .empty && (s.keySlot slot).fn = fn

/-- A fetch of code of this package's HBM, its check passed, that has not arrived: by a cluster of the function, under the slot. -/
def State.fetchInUse (s : State) (fn slot : Nat) : Sched → Bool
  | .event .fetchLineArrival i => (s.clus i.pos.clus).fn = fn && i.id = slot && s.ownHbm (32 * i.n)
  | _ => false

/-- Whether a HBM access of a cluster of the function under the slot, its check passed, has not completed (R48): a buffered store, a
load or a code fetch on its way, a line that a basting launch has written and not committed, a milestone that its commit replays. Engines, sequencers
and saves read and write in the step that checks, and dirty L1 lines go home at step 1. -/
def State.keyInUse (s : State) (fn slot : Nat) : Bool :=
  s.cores.any (fun e => (s.clus e.1.1).fn = fn && e.2.sb.any (fun x => x.key = slot && s.ownHbm (64 * x.line))) ||
  s.ctxs.any (fun e => (s.clus e.1.clus).fn = fn &&
    (match e.2.st with
     | .blocked (.load r) => r.key = slot && s.ownHbm r.pa
     | _ => false)) ||
  (s.agenda ++ s.pending).any (s.fetchInUse fn slot) ||
  s.clusters.any (fun e => e.2.fn = fn && e.2.shadow.any (fun l => l.2.1 = slot && s.ownHbm (64 * l.1))) ||
  s.replay.any (fun e => match e.2 with
    | .pub p pa key _ => (s.clus p.clus).fn = fn && key = slot && s.ownHbm pa
    | .msg _ => false
    | .enq _ _ _ => false)

/-- The dirty SWM lines that the function's cores hold under a slot leave their L1s, and so go home: stores issued before the bit is cleared (R48,
R49, R199). -/
def State.cleanSlot (s : State) (fn slot : Nat) : State :=
  s.cores.foldl (fun u e =>
    if (s.clus e.1.1).fn = fn then
      (e.2.l1.filter (fun l => l.key = slot && l.dirty ≠ 0 && s.ownHbm (64 * l.line))).foldl (fun v l => v.evictLine e.1.1 e.1.2 l) u
    else u) s

/-! ### Commands (R47) -/

/-- The n-th draw of the random-number generator as a key pair. -/
def randomKey (n : Nat) : List Byte := (List.range 64).map (Config.random n)

/-- The wrapping key of a function (R47). -/
def wrapKey (fn : Nat) : List Byte := hkdf Config.deviceSecret (ascii "G9 wrap" ++ [BitVec.ofNat 8 fn])

/-- The key pair that a 72-byte buffer wraps for a function (R47). -/
def unwrapFor (fn : Nat) (buf : List Byte) : Option (List Byte) :=
  (kwpUnwrap (wrapKey fn) (buf.take 72)).filter (fun k => k.length = 64)

/-- CREATE: a new key. -/
def State.ksCreate (s : State) (fn : Nat) : State :=
  s.ksCommand fn (fun w => (s.keySlot w.slotNo).st = .empty)
    (fun w t => (({ t with nextKey := t.nextKey + 1 } : State).grantKey w.slotNo fn (randomKey t.nextKey)).ksEnd fn false)

/-- IMPORT of a 72-byte buffer. -/
def State.ksImport (s : State) (fn : Nat) (buf : List Byte) : State :=
  s.ksCommand fn (fun w => (s.keySlot w.slotNo).st = .empty && (unwrapFor fn buf).isSome)
    (fun w t => (t.grantKey w.slotNo fn ((unwrapFor fn buf).getD [])).ksEnd fn false)

/-- EXPORT: the wrapped key goes to host memory at KS_ADDR. -/
def State.ksExport (s : State) (fn : Nat) : State :=
  s.ksCommand fn (fun w => s.holdsSlot w.slotNo fn)
    (fun w t => ({ t with host := t.host ++ [.write fn w.addr (kwpWrap (wrapKey fn) (t.keySlot w.slotNo).key)] } : State).ksEnd fn false)

/-- OFFER to the function in KS_ARG. -/
def State.ksOffer (s : State) (fn : Nat) : State :=
  s.ksCommand fn (fun w => s.holdsSlot w.slotNo fn && w.argNo ≤ 16)
    (fun w t => (t.setKeySlot w.slotNo { t.keySlot w.slotNo with st := .offered, dest := w.argNo }).ksEnd fn false)

/-- ACCEPT of what the function in KS_ARG offers: step 1 of R49; the rest waits. -/
def State.ksAccept (s : State) (fn : Nat) : State :=
  s.ksCommand fn (fun w => w.argNo ≤ 16 && (s.keySlot w.slotNo).st = .offered && (s.keySlot w.slotNo).fn = w.argNo && (s.keySlot w.slotNo).dest = fn)
    (fun w t => (((t.cleanSlot w.argNo w.slotNo).keyBit w.argNo w.slotNo false).setKsWin fn { w with run := some ⟨5, w.slotNo, w.argNo⟩, done := false, err := false }).post
      .ksAcceptDrained { fn := fn })

/-- ERASE: step 1 of R48; the rest waits. -/
def State.ksErase (s : State) (fn : Nat) : State :=
  s.ksCommand fn (fun w => s.holdsSlot w.slotNo fn)
    (fun w t => (((t.cleanSlot fn w.slotNo).keyBit fn w.slotNo false).setKsWin fn { w with run := some ⟨6, w.slotNo, 0⟩, done := false, err := false }).post
      .ksEraseDrained { fn := fn })

/-- The event KS_CREATE, of function inp.fn. -/
def execKsCreate (s : State) : Out := .next (s.ksCreate s.inp.fn)
/-- The event KS_IMPORT; inp.bytes is the buffer at KS_ADDR. -/
def execKsImport (s : State) : Out := .next (s.ksImport s.inp.fn s.inp.bytes)
/-- The event KS_EXPORT. -/
def execKsExport (s : State) : Out := .next (s.ksExport s.inp.fn)
/-- The event KS_OFFER. -/
def execKsOffer (s : State) : Out := .next (s.ksOffer s.inp.fn)
/-- The event KS_ACCEPT. -/
def execKsAccept (s : State) : Out := .next (s.ksAccept s.inp.fn)
/-- The event KS_ERASE. -/
def execKsErase (s : State) : Out := .next (s.ksErase s.inp.fn)

/-- A command of function inp.fn that waits for accesses: while one is out it looks again later (R48, R49). -/
def State.ksDrained (s : State) (code : Nat) (ev : Instr) (holder : KsCmd → Nat) (effect : KsCmd → State → State) : State :=
  match (s.ksWin s.inp.fn).run with
  | some r =>
    if r.code ≠ code then s
    else if s.keyInUse (holder r) r.slot then s.post ev s.inp
    else effect r s
  | none => s

/-- The event KS_ACCEPT_DRAINED: steps 3 to 5 of R49. A slot that is no longer on offer (its holder erased it meanwhile) sets ERR. -/
def execKsAcceptDrained (s : State) : Out :=
  .next (s.ksDrained 5 .ksAcceptDrained (fun r => r.arg) (fun r t =>
    let k := t.keySlot r.slot
    if k.st = .offered && k.fn = r.arg && k.dest = t.inp.fn then (t.grantKey r.slot t.inp.fn k.key).ksEnd t.inp.fn false
    else t.ksEnd t.inp.fn true))

/-- The event KS_ERASE_DRAINED: step 3 of R48. -/
def execKsEraseDrained (s : State) : Out :=
  .next (s.ksDrained 6 .ksEraseDrained (fun _ => s.inp.fn) (fun r t =>
    if t.holdsSlot r.slot t.inp.fn then (t.setKeySlot r.slot {}).ksEnd t.inp.fn false else t.ksEnd t.inp.fn true))

/-! ### Sealed slots (R291, R292, R295) -/

def State.sealSlot (s : State) (k : Nat) : SealSlot := Assoc.get {} k s.sealedSlots

/-- The wrapping key of SIMPORT into a slot: the ECDH product of the attestation key and the owner's point (R292). -/
def State.sealWrapKey (s : State) (slot : Nat) (buf : List Byte) : Option (List Byte) :=
  (pointOf buf).bind (fun q => (ecdh (Config.attestKey (s.boot.meas.getD 0 [])) q).map (fun z => hkdf z (ascii "G9 seal" ++ [BitVec.ofNat 8 slot])))

/-- The 160-byte body that a SIMPORT buffer wraps; nothing where the point is off the curve or the unwrap fails (R292). -/
def State.sealBody (s : State) (slot : Nat) (buf : List Byte) : Option (List Byte) :=
  (s.sealWrapKey slot buf).bind (fun k => (kwpUnwrap k ((buf.drop 0x60).take 168)).filter (fun b => b.length = 160))

/-- The record that a SIMPORT buffer gives a slot, where nothing in R292 refuses it. -/
def State.sealRecord (s : State) (fn slot : Nat) (buf : List Byte) : Option SealSlot :=
  match s.sealBody slot buf with
  | none => none
  | some b =>
    let rbase := (bytesDWord (b.drop 96)).toNat
    let rlen := (bytesDWord (b.drop 104)).toNat
    if (b.drop 112).any (fun x => x ≠ 0) || rbase % 65536 ≠ 0 || rlen % 65536 ≠ 0 || rlen < 65536 || 2 ^ 40 < rlen ||
        2 ^ 48 < rbase + rlen + rlen / 4096 then none
    else some ⟨true, fn, b.take 64, (b.drop 64).take 32, rbase, rlen⟩

/-- SIMPORT of a 264-byte buffer. -/
def State.ksSimport (s : State) (fn : Nat) (buf : List Byte) : State :=
  s.ksCommand fn (fun w => w.slotNo ≤ 0xFF && !(s.sealSlot w.slotNo).held && (s.sealRecord fn w.slotNo buf).isSome)
    (fun w t => ({ t with sealedSlots := Assoc.put w.slotNo ((s.sealRecord fn w.slotNo buf).getD {}) t.sealedSlots } : State).ksEnd fn false)

/-- Every plane array of a function refuses new sealed fetches under a slot, or does so no more (R295). -/
def State.sealRefusal (s : State) (fn slot : Nat) (on : Bool) : State :=
  (List.range 128).foldl (fun (u : State) c =>
    if (u.clus c).fn = fn && (u.clus c).sealRefuse.contains slot ≠ on then
      u.modClus c (fun k => { k with sealRefuse := if on then k.sealRefuse ++ [slot] else k.sealRefuse.filter (· ≠ slot) })
    else u) s

/-- SERASE: step 1 of R295; the rest waits. -/
def State.ksSerase (s : State) (fn : Nat) : State :=
  s.ksCommand fn (fun w => w.slotNo ≤ 0xFF && (s.sealSlot w.slotNo).held && (s.sealSlot w.slotNo).fn = fn)
    (fun w t => ((t.sealRefusal fn w.slotNo true).setKsWin fn { w with run := some ⟨8, w.slotNo, 0⟩, done := false, err := false }).post
      .ksSeraseDrained { id := w.slotNo })

/-- Whether a sealed fetch under a slot is in progress in a function's clusters. -/
def State.sealInUse (s : State) (fn slot : Nat) : Bool :=
  s.tiles.any (fun e => (s.clus e.1.1).fn = fn && e.2.cmds.any (fun m => m.phase = .fetching && tidSeal m.entry && tidSkh m.entry = slot))

/-- The blocks of a command whose B is sealed under a slot are zeroed. -/
def MatCmd.zeroSealed (m : MatCmd) (slot : Nat) : MatCmd :=
  if tidSeal m.entry && tidSkh m.entry = slot then { m with bblk := m.bblk.map (fun b => (b.1, PlaneBlk.zero false)) } else m

/-- The operand-buffer blocks decrypted under a slot are zeroed and discarded, those of commands not yet computed among them. -/
def Tile.zeroSealed (t : Tile) (slot : Nat) : Tile :=
  { t with buf := t.buf.filter (fun r => r.sealed ≠ some slot), cmds := t.cmds.map (fun m => m.zeroSealed slot) }

/-- Steps 3 and 4 of R295: the blocks decrypted under the slot are zeroed, the keys are gone. -/
def State.sealErase (s : State) (fn slot : Nat) : State :=
  ({ s with
      tiles := s.tiles.map (fun e => if (s.clus e.1.1).fn = fn then (e.1, e.2.zeroSealed slot) else e),
      sealedSlots := Assoc.put slot {} s.sealedSlots } : State).sealRefusal fn slot false

/-- The event KS_SIMPORT; inp.bytes is the buffer at KS_ADDR. -/
def execKsSimport (s : State) : Out := .next (s.ksSimport s.inp.fn s.inp.bytes)
/-- The event KS_SERASE. -/
def execKsSerase (s : State) : Out := .next (s.ksSerase s.inp.fn)

/-- The event KS_SERASE_DRAINED, for sealed slot inp.id: while a fetch is in progress its end raises the event again. -/
def execKsSeraseDrained (s : State) : Out :=
  let k := s.sealSlot s.inp.id
  match (s.ksWin k.fn).run with
  | some r =>
    if !(k.held && r.code = 8 && r.slot = s.inp.id) || s.sealInUse k.fn s.inp.id then .next s
    else .next ((s.sealErase k.fn s.inp.id).ksEnd k.fn false)
  | none => .next s

/-! ### Moving a cluster (R50) -/

/-- The cluster is idle: no placed team, basting launch, pending pull or watch, or saved team. -/
def State.clusIdle (s : State) (c : Nat) : Bool :=
  s.teams.all (fun e => e.1.1 ≠ c) && s.bastings.all (fun e => !e.2.clusters.contains c) && s.pulls.all (fun e => e.2.clus ≠ c) &&
    (s.clus c).watches = [] && (s.clus c).polls = [] && (s.clus c).saved = [] &&
    s.cores.all (fun e => e.1.1 ≠ c || (e.2.redirect = [] && (List.range 64).all (fun n =>
      match (e.2.tag n).st with
      | .busy (.watch _ _ _) => false
      | _ => true)))

/-- Remove the core stores and the vault of a cluster from memory: they read as 0, poisoned or not (R25, R50). -/
def State.zeroStores (s : State) (c : Nat) : State :=
  { s with mem := s.mem.filter (fun e =>
      !(paOwner e.1 = paOwner (mkPa s.pkg c 0) && (paOfs e.1 < 0x400000 || (0x1000000 ≤ paOfs e.1 && paOfs e.1 < 0x1780000)))),
           poison := s.poison.filter (fun l =>
      !(paOwner (64 * l) = paOwner (mkPa s.pkg c 0) && (paOfs (64 * l) < 0x400000 || (0x1000000 ≤ paOfs (64 * l) && paOfs (64 * l) < 0x1780000)))) }

/-- Caches, operand buffers and accumulators of a cluster are zeroed; cached translations go with the caches. -/
def State.zeroCaches (s : State) (c : Nat) : State :=
  ({ s with
      cores := s.cores.map (fun e => if e.1.1 = c then (e.1, { e.2 with l1 := [], sb := [], code := [], tlb := [] }) else e),
      tiles := s.tiles.map (fun e => if e.1.1 = c then (e.1, { e.2 with acc := [], buf := [] }) else e) } : State).modClus c
    (fun k => { k with tlb := [], rcache := [], unfenced := [] })

/-- The four steps of R50; with the stores goes what is remembered of landings in them. -/
def State.moveClus (s : State) (c fn : Nat) : State :=
  (((s.zeroStores c).zeroCaches c).modClus c (fun k =>
    { k with rroot := Vector.replicate 16 0, hroot := Vector.replicate 16 0, keyBits := s.fnKeys fn, sealRefuse := [], fn := fn }))

/-- A write of CLUSTER_FNc. -/
def State.clusterFnWrite (s : State) (c : Nat) (v : DWord) : State :=
  let fn := (v.extractLsb' 0 5).toNat
  if 128 ≤ c || 16 < fn || !s.clusIdle c || fn = (s.clus c).fn then s else s.moveClus c fn

/-- The event CLUSTER_FN_WRITE: the physical function writes inp.val to the register of cluster inp.clus. -/
def execClusterFnWrite (s : State) : Out := .next (if s.inp.fn = 0 then s.clusterFnWrite s.inp.clus s.inp.val else s)

end Sys2Proof.Machine
end

