-- ==== Sys2Proof/Machine/Boot.lean ====
section
/-! DEFINITION. Power-up, the crypto engine, the measurement block, the mailbox and the boot status (R12 to R26). The management
core's accesses to its blocks are the events. -/

namespace Sys2Proof.Machine

/-! ### Time -/

/-- Clock cycles of microseconds and of nanoseconds at 2.1 GHz (R193). -/
def usCycles (n : Nat) : Nat := 2100 * n
def nsCycles (n : Nat) : Nat := 21 * n / 10

/-- Cycles passed since a clock value. -/
def State.since (s : State) (t : DWord) : Nat := (s.clk - t).toNat

def State.modBoot (s : State) (f : Boot → Boot) : State := { s with boot := f s.boot }

/-! ### Phases (R12, R24) -/

/-- The limit of a phase in cycles (R12). -/
def phaseLimit (n : Nat) : Nat :=
  if n = 1 then usCycles 50000 else if n = 2 then usCycles 2000 else if n = 3 then usCycles 400000 else usCycles 1500000

/-- The running phase has exceeded its limit. -/
def State.overdue (s : State) : Bool :=
  match s.boot.began with
  | some t => 1 ≤ s.boot.phase && s.boot.phase ≤ 4 && s.boot.dev ≠ .failed && phaseLimit s.boot.phase < s.since t
  | none => false

/-- Power-up ends in FAILED with the phase's timeout value (R12, R19). -/
def State.timeOut (s : State) : State :=
  s.modBoot (fun b => { b with bootStat := BitVec.ofNat 8 (0xF0 + b.phase), timedOut := true, dev := .failed, began := none })

/-- The event PHASE_TIMEOUT. -/
def execPhaseTimeout (s : State) : Out := .next (if s.overdue then s.timeOut else s)

/-- The event POWER_GOOD: phase 1 ends and phase 2 begins in the ROM state; past the limit power-up has failed. -/
def execPowerGood (s : State) : Out :=
  if s.boot.phase = 1 && !s.boot.powered && s.boot.dev = .rom then
    .next (if s.overdue then s.timeOut
      else (s.modBoot (fun b => { b with powered := true, phase := 2, began := some s.clk, bootStat := 1 })).post .romMeasured {})
  else .next s

/-- MEASi := SHA-384(MEASi ‖ bytes) (R17). -/
def Boot.extend (b : Boot) (i : Nat) (l : List Byte) : Boot :=
  { b with meas := b.meas.set i (sha384 (b.meas.getD i [] ++ l)) }

/-- A little-endian number at an address of a list of cells. -/
def cellsNat (m : List Host.Cell) (a n : Nat) : Nat := (List.range n).foldl (fun v k => v + (memGet m (a + k)).toNat * 256 ^ k) 0

/-- The checks the boot program makes on the header in SRAM (R20): magic, header version, security version, body length. -/
def Boot.headerOk (b : Boot) : Bool :=
  cellsNat b.sram 0 4 = 0x57463947 && cellsNat b.sram 4 4 = 1 && b.svn.toNat ≤ cellsNat b.sram 8 4 &&
    cellsNat b.sram 12 4 ≠ 0 && cellsNat b.sram 12 4 % 8 = 0 && cellsNat b.sram 12 4 ≤ 0x6FFC0

/-- The package as R25 says it is when READY is first set. -/
def State.readyState (s : State) : State :=
  { s with queues := [], launches := [], teams := [], bastings := [], keySlots := [], sealedSlots := [],
           mem := [], hbmKey := [], poison := [],
           clusters := s.clusters.map (fun e => (e.1, { e.2 with
             rroot := Vector.replicate 16 0, hroot := Vector.replicate 16 0, pub := 0, rcache := [], unfenced := [], tlb := [], keyBits := 0, sealRefuse := [] })),
           cores := s.cores.map (fun e => (e.1, { e.2 with l1 := [], sb := [], code := [], tlb := [] })),
           tiles := s.tiles.map (fun e => (e.1, { e.2 with acc := [], buf := [] })),
           dead := ~~~(1#4096 <<< s.pkg) }

/-! ### The firmware's plans of the fabric (R27, R335) -/

def State.modFab (s : State) (f : Fabric → Fabric) : State := { s with fabric := f s.fabric }
def Fabric.partner (f : Fabric) (p : Nat) : Partner := Assoc.get {} p f.partners
def Fabric.modPartner (f : Fabric) (p : Nat) (g : Partner → Partner) : Fabric := { f with partners := Assoc.put p (g (f.partner p)) f.partners }

/-- A package that the colour plan joins to this one (R27). -/
def Fabric.isPartner (f : Fabric) (p : Nat) : Bool := f.partners.any (fun e => e.1 = p && e.2.routes ≠ [])

/-- The firmware has its colour plan and its route plan (R27): inp.routes lists partners with routes, on lanes up to 1,023, and
inp.relays packages with the relay partner and the number of relays, at most three (R335). -/
def State.loadPlan (s : State) : State :=
  let rs := s.inp.routes.filter (fun e => e.1 ≠ s.pkg && e.2.lane < 1024 && e.2.rx < 1024)
  let s1 := rs.foldl (fun u e => u.modFab (fun f => f.modPartner e.1 (fun x => { x with routes := x.routes ++ [e.2] }))) s
  (s.inp.relays.filter (fun e => 1 ≤ e.2.2 && e.2.2 ≤ 3 && s1.fabric.isPartner e.2.1 && !s1.fabric.isPartner e.1)).foldl
    (fun u e => u.modFab (fun f => f.modPartner e.2.1 (fun x => { x with relays := x.relays ++ [(e.1, e.2.2)] }))) s1

/-- A write of FU_STATE: the steps R24 allows. One that would end phase 4 past its limit finds power-up failed (R12). At READY
the firmware has its plans of the fabric, from which training starts (R27). -/
def State.fuStateWrite (s : State) (v : Nat) : State :=
  match s.boot.dev with
  | .firmware =>
    if v = 3 then s.modBoot (fun b => { b with dev := .localInit, phase := 4, began := some s.clk })
    else if v = 0xFF then s.modBoot (fun b => { b with dev := .failed, began := none })
    else s
  | .localInit =>
    if s.overdue then s.timeOut
    else if v = 4 then (s.readyState.modBoot (fun b => { b with dev := .ready, phase := 6, began := none })).loadPlan
    else if v = 0xFF then s.modBoot (fun b => { b with dev := .failed, began := none })
    else s
  | .rom => s
  | .ready => s
  | .failed => s

/-- The management firmware runs: the boot program has made its jump (R20, R21). -/
def Boot.firmware (b : Boot) : Bool := b.rom = .firmware

/-- What an access of the management firmware does; while the boot ROM runs there is none. -/
def State.byFirmware (s : State) (f : State → State) : Out := .next (if s.boot.firmware then f s else s)

/-- The event FU_STATE_WRITE, of the management firmware. -/
def execFuStateWrite (s : State) : Out := s.byFirmware (fun t => t.fuStateWrite t.inp.val.toNat)

/-- A write of BOOT_STAT: ignored once a timeout value stands, which the phase's limit has written before a write that comes past it (R12);
0xEF sets FAILED in the same cycle (R19, R21). The register keeps the low 8 bits of the store (log entry 32). -/
def State.bootStatWrite (s : State) (v : Byte) : State :=
  if s.boot.timedOut then s
  else if s.overdue then s.timeOut
  else s.modBoot (fun b => if v = 0xEF && b.dev ≠ .ready then { b with bootStat := v, dev := .failed, began := none } else { b with bootStat := v })

/-- The event BOOT_STAT_WRITE, of the management firmware. -/
def execBootStatWrite (s : State) : Out := s.byFirmware (fun t => t.bootStatWrite (t.inp.val.setWidth 8))

/-- The value of DEV_STATE.STATE (R23). -/
def DevState.code : DevState → Nat
  | .rom => 1
  | .firmware => 2
  | .localInit => 3
  | .ready => 4
  | .failed => 0xFF

/-- DEV_STATE (R23). -/
def Boot.devState (b : Boot) : DWord := BitVec.ofNat 64 (b.bootStat.toNat * 256 + b.dev.code)

/-! ### Commands of the two blocks (R15 to R17) -/

/-- A byte of SRAM, flash or the last digest, as the engines address it; nothing elsewhere (R14). -/
def Boot.byte? (b : Boot) (digest : Bool) (a : Nat) : Option Byte :=
  if 0x10000000 ≤ a && a < 0x10080000 then some (memGet b.sram (a - 0x10000000))
  else if 0x40000000 ≤ a && a < 0x41000000 then some (memGet b.flashA (a - 0x40000000))
  else if 0x41000000 ≤ a && a < 0x42000000 then some (memGet b.flashB (a - 0x41000000))
  else if digest && 0x20000040 ≤ a && a < 0x20000070 then b.ceDigest[a - 0x20000040]?
  else none

/-- n bytes from an address on, where all of them are there. -/
def Boot.bytes? (b : Boot) (digest : Bool) (a n : Nat) : Option (List Byte) := (List.range n).mapM (fun k => b.byte? digest (a + k))

/-- A write of a command: ignored while one runs, else DONE, PASS and ERR clear and it starts (R16). -/
def MgmtStat.start (m : MgmtStat) (c : MgmtCmd) : MgmtStat :=
  match m.run with
  | some _ => m
  | none => { done := false, pass := false, err := false, run := some c }

/-- A write of CE_CMD. -/
def State.ceStart (s : State) (code : Nat) : State :=
  (s.modBoot (fun b => { b with ce := b.ce.start ⟨code, b.ceSrc.toNat, b.ceLen.toNat, b.ceSig.toNat⟩ })).post .ceCommandDone {}

/-- The event CE_HASH: the firmware writes 1 to CE_CMD. -/
def execCeHash (s : State) : Out := s.byFirmware (fun t => t.ceStart 1)
/-- The event CE_VERIFY_ECDSA: command 2. -/
def execCeVerifyEcdsa (s : State) : Out := s.byFirmware (fun t => t.ceStart 2)
/-- The event CE_VERIFY_LMS: command 3. -/
def execCeVerifyLms (s : State) : Out := s.byFirmware (fun t => t.ceStart 3)

/-- The outcome of a command of the crypto engine. -/
def Boot.ceEnd (b : Boot) (c : MgmtCmd) : Boot :=
  let fail : Boot := { b with ce := { done := true, pass := false, err := true, run := none } }
  let verdict (ok : Bool) : Boot := { b with ce := { done := true, pass := ok, err := false, run := none } }
  if c.code = 1 then
    if c.len = 0 || 0x1000000 < c.len then fail
    else
      match b.bytes? false c.src c.len with
      | some l => { verdict false with ceDigest := sha384 l }
      | none => fail
  else if c.code = 2 then
    match b.bytes? false c.sig 96 with
    | some l => if ecdsaFormed l then verdict (ecdsaVerify Config.ecdsaKey b.ceDigest l) else fail
    | none => fail
  else if c.code = 3 then
    match b.bytes? false c.sig 2672 with
    | some l => if l.take 4 = [0, 0, 0, 0] && lmsFormed (l.drop 4) then verdict (lmsVerify Config.lmsKey b.ceDigest (l.drop 4)) else fail
    | none => fail
  else fail

/-- A write of ME_CMD. -/
def State.meStart (s : State) (code : Nat) : State :=
  (s.modBoot (fun b => { b with me := b.me.start ⟨code, b.meSrc.toNat, b.meIdx.toNat, 0⟩ })).post .meCommandDone {}

/-- The event ME_EXTEND: the firmware writes 1 to ME_CMD. -/
def execMeExtend (s : State) : Out := s.byFirmware (fun t => t.meStart 1)
/-- The event ME_SPDM_MEAS: command 2. -/
def execMeSpdmMeas (s : State) : Out := s.byFirmware (fun t => t.meStart 2)

/-! ### SPDM (R17, R18; log entry 19) -/

/-- A GET_MEASUREMENTS of SPDM 1.3 as the engine parses it: whether it asks for a signature, and the indices it asks for; nothing where
it is malformed. -/
def parseMeas (l : List Byte) : Option (Bool × List Nat) :=
  let sig := (l.getD 2 0).getLsbD 0
  let op := (l.getD 3 0).toNat
  if l.getD 0 0 ≠ 0x13 || l.getD 1 0 ≠ 0xE0 || l.length < (if sig then 45 else 12) then none
  else if op = 0 then some (sig, [])
  else if op = 0xFF then some (sig, (List.range 16).map (· + 1))
  else if op ≤ 16 then some (sig, [op])
  else none

/-- The DMTF measurement block of index i + 1 for MEASi: a digest of 48 bytes. -/
def measBlock (meas : List (List Byte)) (i : Nat) : List Byte :=
  let v := meas.getD (i - 1) []
  [BitVec.ofNat 8 i, 1] ++ leBytes 2 (3 + v.length) ++ [if i = 1 then 0 else 1] ++ leBytes 2 v.length ++ v

/-- The MEASUREMENTS response to a request: one block for each index asked, and the attestation key's signature where the request asks
for it; n numbers its draws. The signature covers the request and the response before it: R17 says only that the block signs the response, so
the bytes that the signature covers, and their order, are the model's choice (DESIGN CHOICE, log entry 19). -/
def measResponse (meas : List (List Byte)) (n : Nat) (req : List Byte) (sig : Bool) (idx : List Nat) : List Byte :=
  let body0 := idx.flatMap (measBlock meas)
  let body := [0x13#8, 0x60#8, if idx = [] then 16 else 0, (if sig then req.getD 36 0 else 0) &&& 0x0F, BitVec.ofNat 8 idx.length] ++ leBytes 3 body0.length ++ body0 ++
    (List.range 32).map (Config.random n) ++ [0, 0] ++ (req.drop (if sig then 37 else 4)).take 8
  body ++ (if sig then ecdsaSign (Config.attestKey (meas.getD 0 [])) (beNat ((List.range 48).map (fun k => Config.random n (32 + k))) % p384N) (req ++ body) else [])

/-- What the mailbox answers itself: VERSION names SPDM 1.3; ALGORITHMS select SHA-384, ECDSA P-384 and AES-256-GCM. -/
def mailboxAnswer (req : List Byte) : List Byte :=
  let code := req.getD 1 0
  if code = 0x84 then [0x10, 0x04, 0, 0, 0, 1, 0x00, 0x13]
  else if code = 0xE3 then
    [0x13#8, 0x63#8, 1, 0] ++ leBytes 2 40 ++ [1, 0] ++ leBytes 4 4 ++ leBytes 4 0x80 ++ leBytes 4 2 ++ List.replicate 12 0 ++ [0, 0, 0, 0] ++ [3, 0x20] ++ leBytes 2 2
  else [0x13#8, code &&& 0x7F] ++ Config.spdmBody req

/-- The request codes the mailbox answers itself: GET_VERSION, GET_CAPABILITIES, NEGOTIATE_ALGORITHMS, GET_DIGESTS and
GET_CERTIFICATE, under their SPDM numbers. -/
def mailboxAnswers : List Byte := [0x84, 0xE1, 0xE3, 0x81, 0x82]

/-- The outcome of a command of the measurement block; EXTEND's index stands in len, n numbers the draws. A response takes the whole transmit
buffer: the bytes after it become 0, of which R17 says nothing (DESIGN CHOICE, log entry 19). -/
def Boot.meEnd (b : Boot) (n : Nat) (c : MgmtCmd) : Boot :=
  let fail : Boot := { b with me := { done := true, pass := false, err := true, run := none } }
  let good : Boot := { b with me := { done := true, pass := false, err := false, run := none } }
  if c.code = 1 then
    if c.len = 0 || 16 ≤ c.len then fail
    else
      match b.bytes? true c.src 48 with
      | some l => good.extend c.len l
      | none => fail
  else if c.code = 2 then
    match parseMeas b.mbRx with
    | some q =>
      let r := measResponse b.meas n b.mbRx q.1 q.2
      { good with mbTx := r, meRlen := BitVec.ofNat 64 r.length }
    | none => fail
  else fail

/-! ### The mailbox (R18) -/

/-- The event MCTP_REQUEST with the request in inp.bytes. A request that finds the receive buffer taken is not placed; of one longer than the
2,048 bytes of the buffer the first 2,048 are placed and RXV is set (R18 says neither; DESIGN CHOICE, log entry 19). -/
def execMctpRequest (s : State) : Out :=
  let l := s.inp.bytes
  if mailboxAnswers.contains (l.getD 1 0) then .next (s.modBoot (fun b => { b with sent := b.sent ++ [mailboxAnswer l] }))
  else if s.boot.rxv then .next s
  else .next (s.modBoot (fun b => { b with mbRx := l.take 2048, rxv := true }))

/-- A write of MB_TXLEN: that many bytes of the 2 KiB transmit buffer go out, at once even while TXB is 1 (log entry 32). -/
def State.transmit (s : State) (n : Nat) : State :=
  (s.modBoot (fun b => { b with sent := b.sent ++ [(List.range (min n 2048)).map (fun k => b.mbTx.getD k 0)], txb := true })).post .mbTransmitDone {}

/-- The event MB_TXLEN: the firmware transmits inp.val bytes. -/
def execMbTxlen (s : State) : Out := s.byFirmware (fun t => t.transmit t.inp.val.toNat)

/-- The event MB_RXDONE: writing 1 releases the receive buffer. -/
def execMbRxdone (s : State) : Out := s.byFirmware (fun t => if t.inp.val = 1 then t.modBoot (fun b => { b with rxv := false }) else t)

/-! ### The boot program (R20, R21) -/

/-- Where the program stands. -/
def State.romAt (s : State) (r : RomSt) : State := s.modBoot (fun b => { b with rom := r })

/-- The address of the slot that is tried. -/
def Boot.romSlot (b : Boot) : Nat := if b.romB then 0x41000000 else 0x40000000

/-- n bytes from an offset of flash replace the first n bytes of SRAM. -/
def copyCells (sram flash : List Host.Cell) (ofs n : Nat) : List Host.Cell :=
  ((flash.filter (fun e => ofs ≤ e.1 && e.1 < ofs + n)).map (fun e => (e.1 - ofs, e.2))) ++ sram.filter (fun e => n ≤ e.1)

/-- The program copies n bytes of the slot's header and body to SRAM. -/
def State.romCopy (s : State) (n : Nat) : State :=
  s.modBoot (fun b => { b with sram := copyCells b.sram (if b.romB then b.flashB else b.flashA) 0x1000 n })

/-- No image is accepted: BOOT_STAT 0xEF and the halt loop (R21). -/
def State.romDead (s : State) : State := (s.bootStatWrite 0xEF).romAt .halted

/-- The program tries a slot: the header's copy and checks, the body's copy, the hash; fail is what it does on a bad header. -/
def State.romTry (s : State) (fail : State → State) : State :=
  let t := s.romCopy 64
  if !t.boot.headerOk then fail t
  else
    let n := 64 + cellsNat t.boot.sram 12 4
    (((t.romCopy n).modBoot (fun b => { b with ceSrc := 0x10000000, ceLen := BitVec.ofNat 64 n })).ceStart 1).romAt .hash

/-- A slot is rejected: slot B is tried only after slot A. -/
def State.romFail (s : State) : State :=
  if s.boot.romB then s.romDead
  else ((s.bootStatWrite 0xE1).modBoot (fun b => { b with romB := true })).romTry State.romDead

/-- The program's start: BOOT_STAT 0x01, then slot A. -/
def State.romStart (s : State) : State := ((s.bootStatWrite 1).modBoot (fun b => { b with romB := false })).romTry State.romFail

/-- The program jumps to 0x1000_0040. -/
def State.romJump (s : State) : State := (s.romAt .jump).post .firstSramFetch {}

/-- The program answers a waiting request with bytes of its own or of the measurement block, releases the receive buffer, and goes on. -/
def State.romSend (s : State) (n : Nat) : State := ((s.transmit n).modBoot (fun b => { b with rxv := false })).romJump

/-- The ERROR response the program writes. -/
def State.romError (s : State) (code data : Byte) : State :=
  (s.modBoot (fun b => { b with mbTx := [0x13, 0x7F, code, data] ++ b.mbTx.drop 4 })).romSend 4

/-- The program serves the mailbox: it waits for the transmitter, has GET_MEASUREMENTS answered, and refuses every other request. -/
def State.romServe (s : State) : State :=
  if !s.boot.rxv then s.romJump
  else if s.boot.txb then s.romAt .serve
  else if s.boot.mbRx.getD 1 0 = 0xE0 then (s.meStart 2).romAt .meas
  else s.romError 7 (s.boot.mbRx.getD 1 0)

/-- The program after a command of the crypto engine. -/
def State.romCe (s : State) : State :=
  let b := s.boot
  match b.rom with
  | .hash => if b.ce.err then s.romFail else ((s.modBoot (fun b => { b with ceSig := BitVec.ofNat 64 b.romSlot })).ceStart 2).romAt .ecdsa
  | .ecdsa =>
    if b.ce.pass && !b.ce.err then ((s.modBoot (fun b => { b with ceSig := BitVec.ofNat 64 (b.romSlot + 0x100) })).ceStart 3).romAt .lms else s.romFail
  | .lms =>
    if b.ce.pass && !b.ce.err then ((s.modBoot (fun b => { b with meIdx := 1, meSrc := 0x20000040 })).meStart 1).romAt .extend else s.romFail
  | _ => s

/-- The program after a command of the measurement block. -/
def State.romMe (s : State) : State :=
  let b := s.boot
  match b.rom with
  | .extend => if b.me.err then s.romDead else (s.bootStatWrite (if b.romB then 3 else 2)).romServe
  | .meas => if b.me.err then s.romError 1 0 else s.romSend b.meRlen.toNat
  | _ => s

/-- The event ROM_MEASURED: MEAS0 takes the ROM's digest, the management core is released and the boot program runs. -/
def execRomMeasured (s : State) : Out :=
  if s.boot.phase = 2 && s.boot.powered && s.boot.dev = .rom then
    .next (if s.overdue then s.timeOut
      else (s.modBoot (fun b => { b.extend 0 (sha384 Config.bootRom) with phase := 3, began := some s.clk, released := true })).romStart)
  else .next s

/-- The event CE_COMMAND_DONE: the running command ends. -/
def execCeCommandDone (s : State) : Out :=
  match s.boot.ce.run with
  | some c => .next ((s.modBoot (fun b => b.ceEnd c)).romCe)
  | none => .next s

/-- The event ME_COMMAND_DONE: the running command ends. -/
def execMeCommandDone (s : State) : Out :=
  match s.boot.me.run with
  | some c => .next ((s.drew.modBoot (fun b => b.meEnd s.freeCtr c)).romMe)
  | none => .next s

/-- The event MB_TRANSMIT_DONE. -/
def execMbTransmitDone (s : State) : Out :=
  let t := s.modBoot (fun b => { b with txb := false })
  .next (if s.boot.rom = .serve then t.romServe else t)

/-- The event FIRST_SRAM_FETCH, which follows the jump of R20: the firmware runs and the state is FIRMWARE, or FAILED past the limit of
phase 3. -/
def execFirstSramFetch (s : State) : Out :=
  if s.boot.rom = .jump then
    let t := s.romAt .firmware
    .next (if s.boot.dev ≠ .rom then t
      else if s.overdue then t.timeOut
      else t.modBoot (fun b => { b with dev := .firmware, began := none }))
  else .next s

/-! ### PERST#, configuration and power (R21, R26) -/

/-- The event PERST_DEASSERTED. -/
def execPerstDeasserted (s : State) : Out := .next (s.modBoot (fun b => { b with perst := some s.clk }))

/-- Configuration requests are answered: 100 ms have passed since the deassertion of PERST# (R26). -/
def State.configLive (s : State) : Bool :=
  match s.boot.perst with
  | some t => usCycles 100000 ≤ s.since t
  | none => false

/-- The event CONFIG_REQUEST: answered from 100 ms after the deassertion of PERST#, in every phase. -/
def execConfigRequest (s : State) : Out :=
  .next (if s.configLive then s.modBoot (fun b => { b with answered := b.answered + 1 }) else s)

/-- The event POWER_REMOVED: everything goes back to power-on but flash, the fuses, the package's number and the schedule. -/
def execPowerRemoved (s : State) : Out :=
  .next { State.reset with
    pkg := s.pkg, dead := ~~~(1#4096 <<< s.pkg), agenda := s.agenda, steps := s.steps, freeCtr := s.freeCtr, nextKey := s.nextKey,
    boot := { ups := s.boot.ups + 1, flashA := s.boot.flashA, flashB := s.boot.flashB, svn := s.boot.svn } }

end Sys2Proof.Machine
end

