-- ==== Sys2Proof/Machine/Fabric.lean ====
section
/-! DEFINITION. Partners and their training (R27 to R29), colours and floors (R327, R328, R340), flits, their sealing and their
retransmission (R330 to R333), items, flows and relays (R334, R335). -/

namespace Sys2Proof.Machine

/-! ### Parts of the fabric port -/

def Fabric.colour (f : Fabric) (lane dest : Nat) : Colour := Assoc.get {} (lane, dest) f.colours
def Fabric.modColour (f : Fabric) (lane dest : Nat) (g : Colour → Colour) : Fabric :=
  { f with colours := Assoc.put (lane, dest) (g (f.colour lane dest)) f.colours }

/-- DTMIN in µs and FLOOR, at most 8 (R329). -/
def Fabric.dtmin (f : Fabric) : Nat := (f.ctl.extractLsb' 32 16).toNat
def Fabric.floor (f : Fabric) : Nat := min 8 (f.ctl.extractLsb' 0 4).toNat

/-- The lanes of the colours the package holds towards a destination: one that the destination's port has not paired yet is not held (R340). -/
def Fabric.heldLanes (f : Fabric) (dest : Nat) : List Nat := (f.colours.filter (fun e => e.1.2 = dest && e.2.on && !e.2.tuning)).map (fun e => e.1.1)

/-- HELD (R340). -/
def Fabric.held (f : Fabric) (dest : Nat) : Nat := (f.heldLanes dest).length

/-- A transmit lane that carries no colour (R327). -/
def Fabric.laneDark (f : Fabric) (lane : Nat) : Bool := !f.colours.any (fun e => e.1.1 = lane && e.2.on)

/-- Routes with no two on one transmit lane or one receive lane, the first of each kept. -/
def oneEach (l : List Route) : List Route :=
  l.foldl (fun a r => if a.any (fun x => x.lane = r.lane || x.rx = r.rx) then a else a ++ [r]) []

/-- The usable routes towards a destination whose lanes are dark now. -/
def Fabric.freeRoutes (f : Fabric) (dest : Nat) : List Route := ((f.partner dest).usable.map (·.1)).filter (fun r => f.laneDark r.lane)

/-- The transmit lanes with a usable route to a destination. -/
def Fabric.lanesTo (f : Fabric) (dest : Nat) : List Nat := ((f.partner dest).usable.map (fun u => u.1.lane)).eraseDups

/-- The next hop of the plans towards a package: itself for a partner, else the relay partner (R335). -/
def Fabric.hop (f : Fabric) (dest : Nat) : Option Nat :=
  if f.isPartner dest then some dest
  else (f.partners.find? (fun e => e.2.relays.any (fun r => r.1 = dest))).map (·.1)

/-- The next hop towards a package as things stand: the partner is UP and the package not declared dead. -/
def State.way (s : State) (dest : Nat) : Option Nat :=
  match s.fabric.hop dest with
  | some p => if (s.fabric.partner p).st = .up && !s.dead.getLsbD dest then some p else none
  | none => none

/-- The packages reached through a partner. -/
def Fabric.behind (f : Fabric) (p : Nat) : List Nat := (f.partner p).relays.map (·.1)

/-! ### Windows and floors (R28, R328, R340) -/

/-- The retry window of a colour, in flits (R28). -/
def windowFlits (rtt : Nat) : Nat := ((rtt + 15) / 16 + 64 + 63) / 64 * 64

/-- Long-haul class (R28). -/
def longHaul (rtt : Nat) : Bool := 20000 < rtt

/-- The bytes of the HBM retransmit reserve and of the window store (R28, R328). -/
def reserveBytes : Nat := 2147483648
def storeBytes : Nat := 50331648

/-- Bytes of the windows of a list of routes. -/
def windowBytes (l : List (Route × Nat)) : Nat := (l.map (fun u => 256 * windowFlits u.2)).foldl (· + ·) 0

/-- The routes whose windows other partners hold. -/
def Fabric.windowed (f : Fabric) (p : Nat) : List (Route × Nat) :=
  (f.partners.filter (fun e => e.1 ≠ p && (e.2.st = .up || e.2.st = .windows))).flatMap (fun e => e.2.usable)

/-- The usable routes of a partner whose windows fit (R28, R328): long-haul ones on at most 64 lanes of the package and in the reserve,
none at all where they would overflow it; panel ones in the 48 MiB store and then in what the reserve has left, each that does not fit
left out. -/
def Fabric.admitted (f : Fabric) (p : Nat) : Option (List (Route × Nat)) :=
  let held := f.windowed p
  let us := (f.partner p).usable
  let longs := (us.filter (fun u => longHaul u.2)).foldl (fun a u =>
    if (((held.filter (fun x => longHaul x.2)) ++ a ++ [u]).map (fun x => x.1.lane)).eraseDups.length ≤ 64 then a ++ [u] else a) []
  let long := windowBytes (held.filter (fun u => longHaul u.2) ++ longs)
  let panel := windowBytes (held.filter (fun u => !longHaul u.2))
  if reserveBytes < long + (panel - storeBytes) then none
  else
    let l := longs ++ (us.filter (fun u => !longHaul u.2)).foldl (fun a u => if panel + windowBytes (a ++ [u]) ≤ storeBytes + (reserveBytes - long) then a ++ [u] else a) []
    if l = [] then none else some l

/-- A lane takes up a route towards a destination, for the floor or for a grant. Its class is the route's. -/
def Fabric.light (f : Fabric) (r : Route) (dest : Nat) (grant : Option Nat) (tuning : Bool) (clk : DWord) : Fabric :=
  let rtt := ((f.partner dest).usable.find? (fun u => u.1 = r)).elim 0 (·.2)
  { f with long := Assoc.put r.lane (longHaul rtt) f.long }.modColour r.lane dest (fun c =>
    { c with route := r, rtt := rtt, window := windowFlits rtt, on := true, tuning := tuning, dark := false, closing := false,
             grant := grant, resends := 0, moved := clk, sentAt := clk })

/-- A lease moves no lane from one class to the other (R328). -/
def Fabric.sameClass (f : Fabric) (dest : Nat) (r : Route) : Bool :=
  match f.long.find? (fun e => e.1 = r.lane), (f.partner dest).usable.find? (fun u => u.1 = r) with
  | some e, some u => e.2 = longHaul u.2
  | _, _ => true

/-- The free routes to a destination that its port has not refused to pair for the floor since lanes last went dark. -/
def Fabric.hopeful (f : Fabric) (dest : Nat) : List Route := (f.freeRoutes dest).filter (fun r => !f.refused.contains (dest, r))

/-- Floor routes still to be taken up in one fibre group. -/
def Fabric.floorRoutes (f : Fabric) (dest g : Nat) : List Route :=
  let have_ := (f.colours.filter (fun e => e.1.2 = dest && e.2.on && e.2.grant = none && !e.2.closing && e.1.1 / 128 = g)).length
  (oneEach ((f.hopeful dest).filter (fun r => r.lane / 128 = g))).take (f.floor - have_)

/-- Meet a destination's floor from dark lanes: FLOOR colours in each fibre group, and at least the standing colour (R327, R340). -/
def Fabric.meetFloor (f : Fabric) (dest : Nat) (clk : DWord) : Fabric :=
  if (f.partner dest).st ≠ .up then f
  else
    let ls := (List.range 8).flatMap (f.floorRoutes dest)
    let ls' := if ls = [] && f.colours.all (fun e => e.1.2 ≠ dest || !e.2.on) then (f.hopeful dest).take 1 else ls
    ls'.foldl (fun g r => g.light r dest none true clk) f

/-- Every floor is met as far as dark lanes allow (R327, R340). A new colour carries traffic when LANE_RETUNED says that its lane is tuned
and that the destination's port has paired it. -/
def State.meetFloors (s : State) : State :=
  let f := s.fabric.partners.foldl (fun g e => g.meetFloor e.1 s.clk) s.fabric
  let fresh := f.colours.filter (fun e => e.2.on && e.2.tuning && !(s.fabric.colour e.1.1 e.1.2).on)
  fresh.foldl (fun u e => u.post .laneRetuned { n := e.1.1, id := e.1.2 }) { s with fabric := f }

/-! ### Offers of lanes for lease requests (R340 to R342) -/

/-- The routes that the source's port can offer for a request: lanes dark now, of the right class. -/
def Fabric.offered (f : Fabric) (dest : Nat) : List Route := (f.freeRoutes dest).filter (f.sameClass dest)

/-- Send a request with its candidate lanes to the destination's port. -/
def State.offerLanes (s : State) (id : Nat) (l : Lease) (anew : Bool) : State :=
  s.queueItem l.dest l.pos.clus 0 (.leaseReq ⟨s.pkg, l.fn, id, l.nwant, l.nmin, l.term, l.prio, anew, s.fabric.offered l.dest⟩)

/-- Requests in the order of R342: those that have waited longer than 8 of their terms, oldest first; then by priority, oldest first. -/
def r342Order {α : Type} (long : α → Bool) (prio : α → Nat) (l : List α) : List α :=
  l.filter long ++ (List.range 8).flatMap (fun k => l.filter (fun r => !long r && prio r = 7 - k))

/-- Lanes have gone dark: floors take them first, then the requests that wait and can use one are offered anew, in the order of R342. -/
def State.lanesFreed (s : State) (lanes : List Nat) : State :=
  let s1 := (s.modFab (fun f => { f with refused := [] })).meetFloors
  (r342Order (fun e => usCycles (8 * e.2.term) < s1.since e.2.asked) (fun e => e.2.prio)
      (s1.fabric.leases.filter (fun e => (s1.fabric.offered e.2.dest).any (fun r => lanes.contains r.lane)))).foldl (fun u e => u.offerLanes e.1 e.2 false) s1

/-! ### Training (R27) -/

/-- Training fails: back to DOWN, with the clock of the failure and CAUSE 4. -/
def State.trainFail (s : State) (p : Nat) : State :=
  s.modFab (fun f => { f.modPartner p (fun x => { x with st := .down, usable := [], failedAt := some s.clk }) with causes := Assoc.put p 4 f.causes })

/-- The event TRAIN_START for partner inp.id of the colour plan. -/
def execTrainStart (s : State) : Out :=
  let p := s.inp.id
  let x := s.fabric.partner p
  let waited := match x.failedAt with | some t => usCycles 1000000 ≤ s.since t | none => true
  if s.boot.dev = .ready && x.st = .down && waited && s.fabric.isPartner p then
    .next (s.modFab (fun f => f.modPartner p (fun x => { x with st := .cal })))
  else .next s

/-- An echo flit, before there are keys: its payload and GTAG are 0 (log entry 42). -/
def echoFlit (lane dest : Nat) : SentFlit := ⟨lane, dest, .echo, 0, 0, 0, [], leBytes 8 0x500 ++ List.replicate 248 0⟩

/-- The event CAL_DONE: inp.nats are the places, in the partner's list, of the routes whose bit-error rate is at most 10^-12. With one,
RTT begins: 16 echo flits go out on each usable colour. -/
def execCalDone (s : State) : Out :=
  let p := s.inp.id
  let x := s.fabric.partner p
  if x.st ≠ .cal then .next s
  else
    let ok := (x.routes.zipIdx.filter (fun e => s.inp.nats.contains e.2)).map (·.1)
    if ok = [] then .next (s.trainFail p)
    else
      .next (s.modFab (fun f => { f.modPartner p (fun x => { x with st := .rtt, usable := ok.map (fun r => (r, 0)) }) with
        sent := f.sent ++ ok.flatMap (fun r => List.replicate 16 (echoFlit r.lane p)) }))

/-- A colour whose round trip is over 2 ms fails its partner as a whole: the spec does not say whether the colour or the partner fails (DESIGN CHOICE,
log entry 41).
The event RTT_DONE: inp.pairs gives the median round trip in ns of each usable route, by its place. -/
def execRttDone (s : State) : Out :=
  let p := s.inp.id
  let x := s.fabric.partner p
  if x.st ≠ .rtt then .next s
  else
    let us := x.usable.zipIdx.map (fun u => (u.1.1, (s.inp.pairs.find? (fun e => e.1 = u.2)).elim 0 (·.2)))
    if us.any (fun u => 2000000 < u.2) then .next (s.trainFail p)
    else .next (s.modFab (fun f => f.modPartner p (fun x => { x with st := .keys, usable := us })))

/-- The SPDM requester of the session with a partner is the lower package number (R27). -/
def State.requester (s : State) (p : Nat) : Bool := s.pkg < p

/-- The eight group keys, derived from the session's export master secret (R27). -/
def groupKeys (secret : List Byte) : List (List Byte) :=
  (List.range 8).map (fun g => hkdf secret (ascii "G9 colour group" ++ [BitVec.ofNat 8 g]))

/-- New group keys are in use from now on; those before stay for flits sealed under them (R331). -/
def State.newKeys (s : State) (p : Nat) (secret : List Byte) : State :=
  s.modFab (fun f => f.modPartner p (fun x => { x with keys := groupKeys secret, oldKeys := x.keys, keyed := s.clk, sealedBy := [] }))

/-- Flows to and from a package begin at 0 again, as do the sequences of the colours when a partner comes UP (log entry 43). -/
def State.resetFlows (s : State) (p : Nat) : State :=
  s.modFab (fun f => { f with flowTx := f.flowTx.filter (fun e => e.1.2.1 ≠ p), flowRx := f.flowRx.filter (fun e => e.1.1 ≠ p) })

/-- A package's bit in the dead-peer bitmap clears. -/
def State.undead (s : State) (p : Nat) : State := { s with dead := s.dead &&& ~~~(1#4096 <<< p) }.resetFlows p

/-- The STATE items by which this package, as a relay, reports packages dead or UP to its other partners that are UP (R335, R337). -/
def State.reportState (s : State) (p : Nat) (dead up : List Nat) : State :=
  (s.fabric.partners.filter (fun e => e.1 ≠ p && e.2.st = .up)).foldl (fun u e => u.queueItem e.1 0 0 (.state dead up)) s

/-- WINDOWS and UP (R27, R28, R328): long-haul windows that would overflow the reserve send the partner to DOWN; routes whose windows
fit nowhere become unusable; else its bit clears and its floor is met. -/
def State.partnerUp (s : State) (p : Nat) : State :=
  let s1 := s.modFab (fun f => f.modPartner p (fun x => { x with st := .windows }))
  match s1.fabric.admitted p with
  | none => s1.trainFail p
  | some us =>
    let s2 := s1.modFab (fun f => { f.modPartner p (fun x => { x with st := .up, usable := us, heard := s.clk, darkSince := none }) with
      colours := f.colours.filter (fun e => e.1.2 ≠ p), rx := f.rx.filter (fun e => e.1.1 ≠ p) })
    ((s2.undead p).reportState p [] [p]).meetFloors

/-- The event KEYS_DONE: inp.flag says that the mutually authenticated session stands, inp.bytes is its export master secret. -/
def execKeysDone (s : State) : Out :=
  let p := s.inp.id
  if (s.fabric.partner p).st ≠ .keys then .next s
  else if s.inp.flag then .next ((s.newKeys p s.inp.bytes).partnerUp p)
  else .next (s.trainFail p)

/-- The event KEY_UPDATE: new group keys for partner inp.id from the new secret inp.bytes (R331). -/
def execKeyUpdate (s : State) : Out := if (s.fabric.partner s.inp.id).st = .up then .next (s.newKeys s.inp.id s.inp.bytes) else .next s

/-! ### The bytes of items and flits (R330, R331, R334) -/

/-- Whole 8-byte units. -/
def pad8 (l : List Byte) : List Byte := l ++ List.replicate ((8 - l.length % 8) % 8) 0

def MsgAns.code : MsgAns → Nat
  | .accept => 0
  | .full => 1
  | .refuse => 2
  | .notify => 3
  | .dead => 4

/-- ITYPE (R334). -/
def ItemBody.itype : ItemBody → Nat
  | .read _ => 0
  | .readReply _ => 1
  | .pullReq _ => 2
  | .pullData _ _ => 3
  | .watchReq _ => 4
  | .watchDone _ => 5
  | .msg _ => 6
  | .msgAnswer _ _ _ => 7
  | .leaseReq _ => 8
  | .leaseAnswer _ _ => 9
  | .genReq _ _ => 10
  | .genReply _ _ => 11
  | .state _ _ => 12
  | .error _ _ _ => 13
  | .unassigned odd _ => if odd then 15 else 14

/-- The bytes of an item's body: the fields R334 lists, packed into 8-byte units, lists last. The spec gives no layout of bodies, and no way
to part a list that is longer than 27 units (DESIGN CHOICE, log entry 42). -/
def ItemBody.bytes (b : ItemBody) : List Byte :=
  let u := leBytes 8
  let pos := fun (p : Pos) => p.clus * 65536 + p.core * 256 + p.ctx
  let route := fun (r : Route) => u (r.lane * 2 ^ 48 + r.rx * 2 ^ 32 + r.wave)
  (match b with
   | .read r => u r.pa ++ u (r.key * 2 ^ 48 + r.fn * 2 ^ 32 + r.len) ++ u (r.req * 2 ^ 16 + r.core * 256 + r.ctx)
   | .readReply r => u (r.req * 256 + r.status.toNat) ++ u r.stamp ++ u r.gen ++ pad8 r.bytes
   | .pullReq r => u r.pa ++ u (r.key * 2 ^ 48 + r.fn * 2 ^ 32 + r.len) ++ u r.req
   | .pullData r o => u (r.req * 2 ^ 24 + o * 256 + r.status.toNat) ++ u r.gen ++ pad8 r.bytes
   | .watchReq w => u w.pa ++ u w.thr.toNat ++ u (w.op * 2 ^ 16 + w.core * 256 + w.tag) ++ u (w.key * 2 ^ 32 + w.fn)
   | .watchDone d => u (d.op * 2 ^ 24 + d.core * 2 ^ 16 + d.tag * 256 + d.status.toNat) ++ u d.value.toNat ++ u d.stamp ++ u d.gen
   | .msg m => u (m.launch.toNat * 2 ^ 32 + m.dest.toNat) ++ u (m.num * 2 ^ 32 + pos m.src * 2 + m.listed.toNat) ++ m.body.flatMap (fun (w : Word) => leBytes 4 w.toNat)
   | .msgAnswer p n a => u (n * 2 ^ 32 + pos p * 16 + a.code)
   | .leaseReq l => u (l.req * 2 ^ 32 + l.nwant * 2 ^ 16 + l.nmin) ++ u (l.fn * 2 ^ 32 + l.anew.toNat * 2 ^ 24 + l.prio * 2 ^ 16 + l.term) ++ l.lanes.flatMap route
   | .leaseAnswer id a =>
     u id ++ (match a with
       | .grant ls t => u t.toNat ++ ls.flatMap route
       | .refuse why => u why
       | .dead => u 0xFF)
   | .genReq q l => u q ++ l.flatMap u
   | .genReply q l => u q ++ l.flatMap (fun (e : Nat × Nat) => u e.1 ++ u e.2)
   | .state d l => u (d.length * 2 ^ 32 + l.length) ++ d.flatMap u ++ l.flatMap u
   | .error k r c => u (r * 2 ^ 16 + k * 256 + c.toNat)
   | .unassigned _ l => pad8 l).take 216

/-- An item's bytes: its header and its body (R334). -/
def Item.bytes (it : Item) : List Byte :=
  let b := it.body.bytes
  leBytes 8 (it.opkg * 2 ^ 52 + it.dpkg * 2 ^ 40 + it.oclus * 2 ^ 33 + it.dclus * 2 ^ 26 + it.fseq * 2 ^ 10 + it.body.itype * 2 ^ 6 + b.length / 8) ++ b

/-- The 224 bytes of a payload. -/
def payloadBytes (l : List Item) : List Byte := let b := l.flatMap Item.bytes; b ++ List.replicate (224 - b.length) 0

/-- KIND (R330). -/
def FlitKind.code : FlitKind → Nat
  | .data => 1
  | .ack => 2
  | .nak => 3
  | .idle => 4
  | .echo => 5

/-- The first 16 bytes of a flit (R330). -/
def flitHeader (seq kind nitem aseq acol : Nat) : List Byte := leBytes 8 (seq * 2 ^ 16 + kind * 2 ^ 8 + nitem) ++ leBytes 8 (aseq * 2 ^ 16 + acol)

/-- The IV of a flit, most significant byte first (R331): responder says that the sender was not the SPDM requester. -/
def flitIv (seq lane : Nat) (responder : Bool) : List Byte := beBytes 12 (seq * 2 ^ 48 + lane * 2 ^ 38 + responder.toNat * 2 ^ 37)

/-- A flit sealed under the key of the fibre group of its transmit lane (R331). -/
def State.sealFlit (s : State) (p lane : Nat) (kind : FlitKind) (seq aseq acol : Nat) (items : List Item) : SentFlit :=
  let hdr := flitHeader seq kind.code items.length aseq acol
  let c := gcmSeal ((s.fabric.partner p).keys.getD (lane / 128) []) (flitIv seq lane (!s.requester p)) hdr (payloadBytes items)
  ⟨lane, p, kind, seq, aseq, acol, items, hdr ++ c.1 ++ c.2⟩

/-- The group key of a lane may seal one more flit: fewer than 2^40 so far, in use for less than an hour (R331). A port whose key has run
out waits for KEY_UPDATE. -/
def State.keyFresh (s : State) (p lane : Nat) : Bool :=
  Assoc.get 0 (lane / 128) (s.fabric.partner p).sealedBy < 2 ^ 40 && s.since (s.fabric.partner p).keyed < usCycles 3600000000

/-- A flit goes out on a lane: counted for its key, and the lane has sent. -/
def State.emit (s : State) (x : SentFlit) : State :=
  s.modFab (fun f => { (f.modColour x.lane x.dest (fun c => { c with sentAt := s.clk })).modPartner x.dest (fun y =>
      { y with sealedBy := Assoc.put (x.lane / 128) (Assoc.get 0 (x.lane / 128) y.sealedBy + 1) y.sealedBy }) with sent := f.sent ++ [x] })

/-- The fields of a received flit's first 16 bytes, where its RSV bits are 0: SEQ, KIND, NITEM, ASEQ, ACOL. -/
def flitFields (l : List Byte) : Option (Nat × Nat × Nat × Nat × Nat) :=
  let a := (bytesDWord l).toNat
  let b := (bytesDWord (l.drop 8)).toNat
  if l.length ≠ 256 || b / 1024 % 64 ≠ 0 then none else some (a / 2 ^ 16, a / 256 % 256, a % 256, b / 2 ^ 16, b % 1024)

/-- The payload of a flit from lane of partner p, under the old group key and else under the new one (R331). -/
def State.openFlit (s : State) (p lane seq : Nat) (l : List Byte) : Option (List Byte) :=
  let x := s.fabric.partner p
  let try_ := fun (keys : List (List Byte)) =>
    match keys[lane / 128]? with
    | some k => gcmOpen k (flitIv seq lane (s.requester p)) (l.take 16) ((l.drop 16).take 224) (l.drop 240)
    | none => none
  match try_ x.oldKeys with
  | some b => some b
  | none => try_ x.keys

/-! ### Sending (R332) -/

/-- What a flit to a partner acknowledges: one of its colours and EXP there. -/
def Fabric.ackFor (f : Fabric) (p : Nat) : Nat × Nat :=
  match f.rx.find? (fun e => e.1.1 = p && e.2.unacked ≠ 0) with
  | some e => (e.1.2, e.2.exp)
  | none =>
    match f.rx.find? (fun e => e.1.1 = p) with
    | some e => (e.1.2, e.2.exp)
    | none => (0, 0)

/-- A colour that can carry flits. -/
def Colour.lit (c : Colour) : Bool := c.on && !c.tuning && !c.dark

/-- Put a flit without items on a colour towards a partner: its first lit one, or the lane named. -/
def State.sendCtl (s : State) (p : Nat) (kind : FlitKind) (lane : Option Nat) (acol aseq : Nat) : State :=
  match s.fabric.colours.find? (fun e => e.1.2 = p && e.2.lit && s.keyFresh p e.1.1 && (lane = none || lane = some e.1.1)) with
  | some e => s.emit (s.sealFlit p e.1.1 kind e.2.next aseq acol [])
  | none => s

/-- Send an ACK for a colour of a partner. -/
def State.sendAck (s : State) (p lane : Nat) : State :=
  let r : RxColour := Assoc.get {} (p, lane) s.fabric.rx
  (s.sendCtl p .ack none lane r.exp).modFab (fun f => { f with rx := Assoc.put (p, lane) { r with unacked := 0 } f.rx })

/-- Two items of one flow. -/
def Item.sameFlow (a b : Item) : Bool := a.body.ordered && b.body.ordered && a.opkg = b.opkg && a.oclus = b.oclus && a.dpkg = b.dpkg && a.dclus = b.dclus

/-- Items of one flow that wait for acknowledgement (R334). -/
def Fabric.flowOut (f : Fabric) (it : Item) : Nat :=
  (f.colours.map (fun e => (e.2.flits.map (fun x => (x.items.filter (fun y => y.sameFlow it)).length)).foldl (· + ·) 0)).foldl (· + ·) 0

/-- Items for one flit to a partner, in their order: at most n, in at most 224 bytes, of no flow more than 32,768 outstanding (R330,
R334). -/
def State.batch (s : State) (p : Nat) : Nat → List Item → List Item → List Item
  | _, l, [] => l
  | n, l, it :: rest =>
    if s.way it.dpkg = some p && l.length < n && ((l ++ [it]).flatMap Item.bytes).length ≤ 224 &&
        s.fabric.flowOut it + (l.filter (fun x => x.sameFlow it)).length < 32768 then s.batch p n (l ++ [it]) rest
    else s.batch p n l rest

/-- Take items out of the list of those waiting, once each. -/
def takeItems (l waiting : List Item) : List Item := l.foldl (fun w it => w.erase it) waiting

/-- The event FLIT_SEND: the colour of lane inp.n towards inp.id sends a DATA flit with up to inp.ofs waiting items, at most 28. -/
def execFlitSend (s : State) : Out :=
  let p := s.inp.id
  let lane := s.inp.n
  let c := s.fabric.colour lane p
  let l := s.batch p (min 28 (max 1 s.inp.ofs)) [] s.items
  if !c.lit || c.closing || c.window ≤ c.flits.length || !s.keyFresh p lane || l = [] then .next s
  else
    let a := s.fabric.ackFor p
    let x := s.sealFlit p lane .data c.next a.2 a.1 l
    .next (({ s with items := takeItems l s.items }.emit x).modFab (fun f => f.modColour lane p (fun c =>
      { c with next := (c.next + 1) % 2 ^ 48, flits := c.flits ++ [x], moved := if c.flits = [] then s.clk else c.moved })))

/-- Resend the flits of a colour from UNA on, in order and bit for bit (R331, R332). -/
def State.resend (s : State) (lane p : Nat) : State :=
  s.modFab (fun f => { f.modColour lane p (fun c => { c with sentAt := s.clk, moved := s.clk, resends := c.resends + 1 }) with
    sent := f.sent ++ (f.colour lane p).flits })

/-- Colours of a partner have changed: since when none of them is lit (R337). -/
def State.seeDark (s : State) (p : Nat) : State :=
  s.modFab (fun f => f.modPartner p (fun x => { x with darkSince := if f.colours.any (fun e => e.1.2 = p && e.2.lit) then none else some (x.darkSince.getD s.clk) }))

/-- A colour goes dark: its items are sent again on other colours, and its lane is recalibrated (R333). -/
def State.darken (s : State) (lane p : Nat) : State :=
  let c := s.fabric.colour lane p
  ({ s with items := c.flits.flatMap (fun (x : SentFlit) => x.items) ++ s.items }.modFab (fun f => f.modColour lane p (fun c => { c with dark := true }))).seeDark p

/-- Resend; the sixteenth time from one UNA the colour goes dark (R333). -/
def State.resendOrDark (s : State) (lane p : Nat) : State :=
  let t := s.resend lane p
  if 16 ≤ (t.fabric.colour lane p).resends then t.darken lane p else t

/-- A lane whose grant has ended goes dark once its last flit is acknowledged (R341); floors and requests take dark lanes. -/
def State.closeLane (s : State) (lane p : Nat) : State :=
  let c := s.fabric.colour lane p
  if c.on && c.closing && c.flits = [] then
    ((s.modFab (fun f => f.modColour lane p (fun c => { c with on := false, closing := false, grant := none }))).seeDark p).lanesFreed [lane]
  else s

/-- An acknowledgement of a colour: UNA moves forward within the window (R332). -/
def State.acked (s : State) (p lane n : Nat) : State :=
  let c := s.fabric.colour lane p
  let k := (n + 2 ^ 48 - c.una) % 2 ^ 48
  if !c.on || k = 0 || c.flits.length < k then s
  else
    (s.modFab (fun f => f.modColour lane p (fun c => { c with una := n, flits := c.flits.drop k, resends := 0, moved := s.clk }))).closeLane lane p

/-- A NAK: UNA moves to the missing number and everything from there is sent again (R332), unless the colour is dark: its items have gone
elsewhere (R333). -/
def State.naked (s : State) (p lane n : Nat) : State :=
  let c := s.fabric.colour lane p
  let k := (n + 2 ^ 48 - c.una) % 2 ^ 48
  let t := s.acked p lane n
  if !c.lit || c.flits.length < k || (t.fabric.colour lane p).flits = [] then t else t.resendOrDark lane p

/-- The event RETRANSMIT_TIMEOUT for lane inp.n towards inp.id. -/
def execRetransmitTimeout (s : State) : Out :=
  let c := s.fabric.colour s.inp.n s.inp.id
  if c.lit && c.flits ≠ [] && nsCycles (2 * c.rtt) + usCycles 2 ≤ s.since c.moved then .next (s.resendOrDark s.inp.n s.inp.id) else .next s

/-- The event IDLE_TIMER for lane inp.n towards inp.id: nothing sent for 2 µs. -/
def execIdleTimer (s : State) : Out :=
  let c := s.fabric.colour s.inp.n s.inp.id
  if c.lit && usCycles 2 ≤ s.since c.sentAt then
    let a := s.fabric.ackFor s.inp.id
    .next (s.sendCtl s.inp.id .idle (some s.inp.n) a.1 a.2)
  else .next s

/-- The event ACK_TIMER for lane inp.n of partner inp.id: 1 µs since the oldest acceptance not acknowledged. -/
def execAckTimer (s : State) : Out :=
  let r : RxColour := Assoc.get {} (s.inp.id, s.inp.n) s.fabric.rx
  if r.unacked ≠ 0 && usCycles 1 ≤ s.since r.since then .next (s.sendAck s.inp.id s.inp.n) else .next s

/-- The event COLOUR_RECALIBRATED: the dark lane inp.n passes and its colour returns (R333). -/
def execColourRecalibrated (s : State) : Out :=
  let c := s.fabric.colour s.inp.n s.inp.id
  if c.on && c.dark then
    .next ((s.modFab (fun f => f.modColour s.inp.n s.inp.id (fun c => { c with dark := false, resends := 0, moved := s.clk, sentAt := s.clk }))).seeDark s.inp.id)
  else .next s

/-- Colours on which this package receives from a partner: of its floor and of its grants here. -/
def Fabric.hears (f : Fabric) (p : Nat) : Nat :=
  (f.rxFloor.filter (fun e => e.1 = p)).length + ((f.inbound.filter (fun g => g.opkg = p)).map (fun g => g.lanes.length)).foldl (· + ·) 0

/-- A receive lane of this package on which no colour lands. -/
def Fabric.rxDark (f : Fabric) (rx : Nat) : Bool :=
  !f.rxFloor.any (fun e => e.2.2 = rx) && !f.inbound.any (fun g => g.lanes.any (fun r => r.rx = rx))

/-! ### Receiving (R332 to R335) -/

/-- An item of this package becomes the event it stands for. -/
def State.deliverItem (s : State) (it : Item) : State :=
  match it.body with
  | .read r => s.post .read { load := .read r }
  | .readReply r => s.post .readReply { load := .reply r }
  | .pullReq r => s.post .pullReq { load := .read r }
  | .pullData r o => s.post .pullData { load := .reply r, ofs := o }
  | .watchReq w => s.post .watchReq { load := .watch w }
  | .watchDone d => s.post .watchDone { load := .done d }
  | .msg m => s.post .msg { load := .msg m }
  | .msgAnswer p n a => s.post .msgAnswer { pos := p, id := n, load := .msgAns a }
  | .leaseReq l => s.post .leaseReq { load := .lease l }
  | .leaseAnswer id a => s.post .leaseAnswer { id := id, load := .leaseAns a }
  | .genReq q pages => s.post .genReq { id := it.opkg, clus := it.oclus, core := it.dclus, n := q, nats := pages }
  | .genReply q gens => s.post .genReply { id := q, n := it.opkg, pairs := gens }
  | .state dead up => s.post .state { id := it.opkg, nats := dead, pairs := up.map (fun p => (p, 0)) }
  | .error kind req code => s.post .error { id := req, n := code.toNat, ofs := kind }
  | .unassigned _ _ => s

/-- An item that reaches its flow's place is delivered; one already delivered is discarded; a later one waits (R334). -/
def State.inFlow (s : State) (it : Item) : State × Bool :=
  if !it.body.ordered then (s.deliverItem it, true)
  else
    let k := (it.opkg, it.oclus, it.dclus)
    let n := Assoc.get 0 k s.fabric.flowRx
    if it.fseq = n then ((s.modFab (fun f => { f with flowRx := Assoc.put k ((n + 1) % 65536) f.flowRx })).deliverItem it, true)
    else if 32768 ≤ (it.fseq + 65536 - n) % 65536 then (s, true)
    else (s, false)

/-- The request number of a message: its sender's position and the number that its answer names. -/
def Pos.number (p : Pos) (num : Nat) : Nat := num * 2 ^ 24 + p.clus * 65536 + p.core * 256 + p.ctx
def posOf (n : Nat) : Pos := ⟨n / 65536 % 256, n / 256 % 256, n % 256⟩
def numOf (n : Nat) : Nat := n / 2 ^ 24

/-- The request number an item carries, where it carries one. -/
def ItemBody.req : ItemBody → Nat
  | .read r => r.req
  | .readReply r => r.req
  | .pullReq r => r.req
  | .pullData r _ => r.req
  | .watchReq w => w.op
  | .watchDone d => d.op
  | .msg m => m.src.number m.num
  | .msgAnswer p n _ => p.number n
  | .leaseReq l => l.req
  | .leaseAnswer id _ => id
  | .genReq q _ => q
  | .genReply q _ => q
  | .state _ _ => 0
  | .error _ r _ => r
  | .unassigned _ _ => 0

/-- An item that can go no further is dropped; an ERROR item goes back to its origin (R335). -/
def State.bounce (s : State) (it : Item) : State :=
  if it.opkg = s.pkg then s else s.queueItem it.opkg 0 it.oclus (.error it.body.itype it.body.req cDEAD_PEER)

/-- The items of a flit: one for another package goes on towards it or bounces (R335); the others enter their flows. Gives the items
that must wait. -/
def State.takeFlit (s : State) : List Item → State × List Item
  | [] => (s, [])
  | it :: rest =>
    if it.dpkg ≠ s.pkg then
      let s1 := match s.way it.dpkg with
        | some _ => { s with items := s.items ++ [it] }
        | none => s.bounce it
      s1.takeFlit rest
    else
      let r := s.inFlow it
      let t := r.1.takeFlit rest
      (t.1, if r.2 then t.2 else it :: t.2)

/-- Waiting items that have come into their place, as often as one pass delivers some. -/
def State.drainBuffer (s : State) (p : Nat) : Nat → State
  | 0 => s
  | n + 1 =>
    let r := (s.fabric.partner p).buffer.foldl (fun (a : State × List (List Item)) l =>
      let x := a.1.takeFlit l
      (x.1, if x.2 = [] then a.2 else a.2 ++ [x.2])) (s, [])
    (r.1.modFab (fun f => f.modPartner p (fun x => { x with buffer := r.2 }))).drainBuffer p n

/-- A flit that has come, its fields known. -/
structure HeardFlit where
  seq : Nat
  aseq : Nat
  acol : Nat
  items : List Item
  deriving DecidableEq, Repr

/-- The flit from lane of partner p, where it is accepted (R330, R331): of this KIND, RSV bits 0, its tag right, and the items are what its
payload holds. -/
def State.heard? (s : State) (p lane kind : Nat) (x : Flit) : Option HeardFlit :=
  match flitFields x.bytes with
  | none => none
  | some (seq, k, nitem, aseq, acol) =>
    if k = kind && nitem = x.items.length && (k = 1 || nitem = 0) && s.openFlit p lane seq x.bytes = some (payloadBytes x.items) then
      some ⟨seq, aseq, acol, x.items⟩
    else none

/-- A flit from partner p on its lane, tag checked: it keeps the partner alive and acknowledges. -/
def State.heardFlit (s : State) (p : Nat) (x : HeardFlit) : State :=
  (s.modFab (fun f => f.modPartner p (fun y => { y with heard := s.clk }))).acked p x.acol x.aseq

/-- A flit is accepted from partner inp.id, whose transmit lane is inp.n, as the colour plan and the pairings tell; others are discarded
(R331). -/
def withFlit (s : State) (kind : FlitKind) (k : Nat → Nat → HeardFlit → Out) : Out :=
  match s.inp.load with
  | .flit x =>
    if (s.fabric.partner s.inp.id).st = .up then
      match s.heard? s.inp.id s.inp.n kind.code x with
      | some h => k s.inp.id s.inp.n h
      | none => .next s
    else .next s
  | _ => .next s

/-- The event DATA (R332). -/
def execData (s : State) : Out :=
  withFlit s .data (fun p lane x =>
    let s1 := s.heardFlit p x
    let r : RxColour := Assoc.get {} (p, lane) s1.fabric.rx
    let room := (s1.fabric.partner p).buffer.length < 512
    let setRx (u : State) (r : RxColour) : State := u.modFab (fun f => { f with rx := Assoc.put (p, lane) r f.rx })
    if x.seq = r.exp && room then
      let r1 : RxColour := { r with exp := (r.exp + 1) % 2 ^ 48, unacked := r.unacked + 1, since := if r.unacked = 0 then s.clk else r.since, naked := none }
      let t := (setRx s1 r1).takeFlit x.items
      let s2 := if t.2 = [] then t.1 else t.1.modFab (fun f => f.modPartner p (fun y => { y with buffer := y.buffer ++ [t.2] }))
      let s3 := s2.drainBuffer p ((s2.fabric.partner p).buffer.length)
      .next (if 64 ≤ r1.unacked then s3.sendAck p lane else s3)
    else if 2 ^ 47 ≤ (x.seq + 2 ^ 48 - r.exp) % 2 ^ 48 then .next (s1.sendAck p lane)
    else
      let rtt := (s1.fabric.colours.filter (fun e => e.1.2 = p && e.2.on)).foldl (fun m e => max m e.2.rtt) 0
      let again := match r.naked with | some n => n.1 ≠ r.exp || nsCycles rtt ≤ s.since n.2 | none => true
      if again then .next (setRx (s1.sendCtl p .nak none lane r.exp) { r with naked := some (r.exp, s.clk) }) else .next s1)

/-- The event ACK (R332). -/
def execAck (s : State) : Out := withFlit s .ack (fun p _ x => .next (s.heardFlit p x))

/-- The event NAK (R332). -/
def execNak (s : State) : Out :=
  withFlit s .nak (fun p _ x => .next ((s.modFab (fun f => f.modPartner p (fun y => { y with heard := s.clk }))).naked p x.acol x.aseq))

/-- The event IDLE (R332). -/
def execIdle (s : State) : Out := withFlit s .idle (fun p _ x => .next (s.heardFlit p x))

/-- The event ECHO: an echo flit of partner inp.id in training is returned on its lane (R27). -/
def execEcho (s : State) : Out :=
  if (s.fabric.partner s.inp.id).st = .rtt then .next (s.modFab (fun f => { f with sent := f.sent ++ [echoFlit s.inp.n s.inp.id] }))
  else .next s

end Sys2Proof.Machine
end

