-- ==== Sys2Proof/Machine/Coll.lean ====
section
/-! DEFINITION. Collectives (R348 to R361): layouts and exchanges, COLL, and the events of a cluster's sequencer, which watches the
milestones of other ranks and pulls from their areas and sources. -/

namespace Sys2Proof.Machine

/-! ### Layouts (R349, R350) -/

/-- The axis that splits dimension d, 7 for none. -/
def layAx (l d : Nat) : Nat := l / 2 ^ (3 * d) % 8
/-- Partial sums over axis a. -/
def layPart (l a : Nat) : Bool := l.testBit (12 + a)
/-- The dimension an axis splits. -/
def layDim (l a : Nat) : Option Nat := (List.range 4).find? (fun d => layAx l d = a)

/-- A layout is legal (R349), with naxes axes and ndims dimensions. -/
def layLegal (l naxes ndims : Nat) : Bool :=
  (List.range 4).all (fun d => layAx l d = 7 || (layAx l d < naxes && d < ndims)) &&
    (List.range 4).all (fun a => (!layPart l a || (a < naxes && layDim l a = none)) &&
      ((List.range 4).filter (fun d => layAx l d = a)).length ≤ 1)

/-- The axes partial in the source and not in the destination. -/
def layA (s d : Nat) : List Nat := (List.range 4).filter (fun a => layPart s a && !layPart d a)

/-- An axis splits the same dimension in both layouts, or none in the source. -/
def laySame (s d a : Nat) : Bool := layDim s a = none || layDim s a = layDim d a

/-- The exchange of two legal layouts with its axes; none where no row or two rows of R350 fit. With A not empty the rows look at the axes of
A only. -/
def exchange (s d : Nat) : Option (Exchange × List Nat) :=
  let A := layA s d
  let moved := (List.range 4).filter (fun a => !laySame s d a)
  let lost := moved.filter (fun a => layDim d a = none)
  if (List.range 4).any (fun a => layPart d a && !layPart s a) then none
  else if (List.range 4).any (fun k => layAx s k ≠ 7 && layAx d k ≠ 7 && layAx s k ≠ layAx d k) then none
  else if A = [] then
    if moved = [] then some (.none, [])
    else if lost = moved then some (.allGather, lost)
    else if lost = [] && moved.length = 1 then some (.allToAll, moved)
    else none
  else if A.all (fun a => layDim d a = none) then some (.allReduce, A)
  else match A with
    | [a] => some (.reduceScatter, [a])
    | _ => none

def Exchange.code : Exchange → Nat
  | .none => 0
  | .allReduce => 1
  | .reduceScatter => 2
  | .allGather => 3
  | .allToAll => 4

def Exchange.reduces : Exchange → Bool
  | .allReduce => true
  | .reduceScatter => true
  | .none => false
  | .allGather => false
  | .allToAll => false

/-! ### The fields of a collective (R352) -/

def Coll.w (c : Coll) (k : Nat) : DWord := c.words.getD k 0
def Coll.naxes (c : Coll) : Nat := ((c.w 0).extractLsb' 44 2).toNat + 1
def Coll.fanin (c : Coll) : Nat := ((c.w 0).extractLsb' 40 4).toNat
def Coll.op (c : Coll) : Nat := ((c.w 0).extractLsb' 46 2).toNat
def Coll.layd (c : Coll) : Nat := ((c.w 0).extractLsb' 16 16).toNat
def Coll.lays (c : Coll) : Nat := ((c.w 0).extractLsb' 0 16).toNat
def Coll.ext (c : Coll) (a : Nat) : Nat := ((c.w 1).extractLsb' (16 * a) 16).toNat
def Coll.groupa (c : Coll) : Nat := ((c.w 2).extractLsb' 0 48).toNat
def Coll.area (c : Coll) : Nat := ((c.w 3).extractLsb' 0 36).toNat
def Coll.apages (c : Coll) : Nat := ((c.w 4).extractLsb' 0 32).toNat
def Coll.abaddr (c : Coll) : Nat := ((c.w 5).extractLsb' 0 48).toNat
def Coll.abthr (c : Coll) : Nat := (c.w 6).toNat
def Coll.seqn (c : Coll) : Nat := ((c.w 7).extractLsb' 40 24).toNat
def Coll.tnode (c : Coll) : Nat := ((c.w 7).extractLsb' 20 20).toNat
def Coll.tlim (c : Coll) : Nat := ((c.w 7).extractLsb' 0 20).toNat
/-- SEQN × 256. -/
def Coll.base (c : Coll) : Nat := c.seqn * 256

/-- Ranks of the mesh. -/
def Coll.ranks (c : Coll) : Nat := c.ext 0 * c.ext 1 * c.ext 2 * c.ext 3
/-- The coordinate of a rank on an axis (R348). -/
def Coll.coord (c : Coll) (r a : Nat) : Nat := r / ((List.range a).foldl (fun n k => n * c.ext k) 1) % c.ext a
/-- The axes of the exchange. -/
def Coll.axes (c : Coll) : List Nat := match exchange c.lays c.layd with | some e => e.2 | none => []
/-- The group of the exchange, in ascending group index (R350). -/
def Coll.members (c : Coll) : List Nat :=
  (List.range c.ranks).filter (fun r => (List.range 4).all (fun a => c.axes.contains a || c.coord r a = c.coord c.rank a))
/-- This rank's group index. -/
def Coll.me (c : Coll) : Nat := c.members.idxOf c.rank
def Coll.gx (c : Coll) : Nat := c.members.length

/-! ### Shards -/

/-- Local extent of dimension d of a tensor entry; 1 beyond its dimensions. -/
def shardExt (e : List Byte) (d : Nat) : Nat := if d ≤ tidNdim e then tidExt e d else 1
def shardSize (e : List Byte) : Nat := shardExt e 0 * shardExt e 1 * shardExt e 2 * shardExt e 3
/-- The index in dimension d of the element at a flat index, dimension 0 fastest. -/
def shardIdx (e : List Byte) (flat d : Nat) : Nat := flat / ((List.range d).foldl (fun n k => n * shardExt e k) 1) % shardExt e d
/-- The flat index of four indices. -/
def shardFlat (e : List Byte) (i : Nat → Nat) : Nat :=
  i 0 + shardExt e 0 * (i 1 + shardExt e 1 * (i 2 + shardExt e 2 * i 3))

/-- The address of a shard's element (R64). -/
def shardAddr (e : List Byte) (t : Ty) (flat : Nat) : Nat :=
  elemAddr e t ⟨0, shardIdx e flat 1, shardIdx e flat 2, shardIdx e flat 3⟩ (shardIdx e flat 0)

/-- Global extents of the two tensors agree (R352). -/
def Coll.shapesAgree (c : Coll) : Bool :=
  (List.range 4).all (fun d =>
    let f := fun (l : Nat) (e : List Byte) => shardExt e d * (if layAx l d = 7 then 1 else c.ext (layAx l d))
    f c.lays c.src = f c.layd c.dst)

/-- The rank that holds the value of this rank's destination element, and the element's flat index in that rank's source. -/
def Coll.locate (c : Coll) (flat : Nat) : Nat × Nat :=
  let g := fun d => (if layAx c.layd d = 7 then 0 else c.coord c.rank (layAx c.layd d) * shardExt c.dst d) + shardIdx c.dst flat d
  let i := fun d => if layAx c.lays d = 7 then g d else g d % shardExt c.src d
  let x := fun a => match layDim c.lays a with
    | some d => if laySame c.lays c.layd a && layDim c.layd a = layDim c.lays a then c.coord c.rank a else g d / shardExt c.src d
    | none => c.coord c.rank a
  (x 0 + c.ext 0 * (x 1 + c.ext 1 * (x 2 + c.ext 2 * x 3)), shardFlat c.src i)

/-- S of R351. -/
def Coll.areaS (c : Coll) : Nat := (4 * max (shardSize c.src) (shardSize c.dst) + 4095) / 4096 * 4096

/-! ### Trees (R355) -/

/-- The parts that are reduced, by the group index of their root. -/
def Coll.parts (c : Coll) : List Nat := if c.kind = .allReduce then [0] else if c.kind = .reduceScatter then List.range c.gx else []

/-- The flat source indices of a part: all of them, or the slice of the scattered dimension. -/
def Coll.partElems (c : Coll) (k : Nat) : List Nat :=
  match c.kind, c.axes with
  | .reduceScatter, a :: _ =>
    let d := (layDim c.layd a).getD 0
    let n := shardExt c.src d / c.ext a
    (List.range (shardSize c.src)).filter (fun e => shardIdx c.src e d / n = k)
  | _, _ => List.range (shardSize c.src)

/-- The tree node of a group index for a root. -/
def Coll.node (c : Coll) (j root : Nat) : Nat := (j + c.gx - root) % c.gx
/-- The group index of a node. -/
def Coll.ofNode (c : Coll) (t root : Nat) : Nat := (t + root) % c.gx
/-- Children of this rank for a root, in ascending node. -/
def Coll.children (c : Coll) (root : Nat) : List Nat :=
  ((List.range c.fanin).map (fun k => c.fanin * c.node c.me root + 1 + k)).filter (fun t => t < c.gx) |>.map (fun t => c.ofNode t root)
/-- The parent's group index. -/
def Coll.parent (c : Coll) (root : Nat) : Nat := c.ofNode ((c.node c.me root - 1) / c.fanin) root
/-- The parts of which this rank is no root. -/
def Coll.forwards (c : Coll) : List Nat := c.parts.filter (fun k => k ≠ c.me)

/-! ### The forms of a hop (R357) -/

/-- The form between two group members. -/
inductive HopForm where
  | full | e4m3 | ex4
  deriving DecidableEq, Repr

def Coll.form (c : Coll) (i j : Nat) : HopForm :=
  let a := c.group.getD (c.members.getD i 0) ⟨0, 0, 0, 0, 0⟩
  let b := c.group.getD (c.members.getD j 0) ⟨0, 0, 0, 0, 0⟩
  if a.panel = b.panel && a.campus = b.campus then .full else if a.campus = b.campus then .e4m3 else .ex4

/-- Lists of 32; the last one may be shorter. -/
def blocks32 : Nat → List Word → List (List Word)
  | 0, _ => []
  | n + 1, l => l.take 32 :: blocks32 n (l.drop 32)

def blocksOf (l : List Word) : List (List Word) := blocks32 ((l.length + 31) / 32) l

/-- One block in the E4M3 form: a code for each element, and the scale. R357 gives the scale 0xFF to a NaN, and to infinities where it speaks of the
quantiser; in this form too an infinity gives it, with codes of zero (DESIGN CHOICE, log entry 47). -/
def e4m3Block (l : List Word) : List Byte :=
  let v := l.map (flOf .fp32)
  if v.any Fl.special then List.replicate v.length 0 ++ [0xFF]
  else
    match v.filter (fun x => !x.isZero) with
    | [] => List.replicate v.length 0 ++ [0x7F]
    | u :: us =>
      let k : Int := max (-127) (min 127 (us.foldl (fun m x => max m x.log2) u.log2 - 7))
      v.map (fun x => match convertFl .e4m3 .rne 0 (x.scale (-k)) with | .ok w => w.setWidth 8 | .over _ w => w.setWidth 8) ++ [BitVec.ofInt 8 (k + 127)]

/-- A value decoded to FP32 by the sequencer: a conversion that rounds by RNE and saturates (R80, R82). -/
def saturated (v : Fl) : Word :=
  match convertFl .fp32 .rne 0 v with
  | .ok w => w
  | .over _ w => w

/-- The n values of an E4M3 block. -/
def e4m3Values (n : Nat) (l : List Byte) : List Word :=
  let s := (l.getD n 0).toNat
  (l.take n).map (fun b => if s = 255 then canonNan .fp32 else saturated ((flOf .e4m3 (b.setWidth 32)).scale ((s : Int) - 127)))

/-- Two codes to a byte, the even one low. -/
def packGroup : List Nat → List Byte
  | a :: b :: t => BitVec.ofNat 8 (a % 16 + b % 16 * 16) :: packGroup t
  | _ => []

/-- One block in the EX4 form: codes, two to a byte, and the two bytes of the scale (R86); of a block shorter than 32 elements the codes that are
missing are not kept. -/
def ex4Block (l : List Word) : List Byte :=
  let v := (l ++ List.replicate 32 0).take 32 |>.map (flOf .fp32)
  let n := (l.length + 1) / 2
  if v.any Fl.special then List.replicate n 0 ++ [0xFF, 0]
  else
    let q := quantise v
    (packGroup q.2.2).take n ++ [BitVec.ofNat 8 q.1, BitVec.ofNat 8 q.2.1]

/-- The n values of an EX4 block. -/
def ex4Values (n : Nat) (l : List Byte) : List Word :=
  (List.range n).map (fun i => saturated (ex4Value (ex4Code l i) (l.getD ((n + 1) / 2) 0).toNat (l.getD ((n + 1) / 2 + 1) 0).toNat))

/-- Values in a form without residual. -/
def encodeForm (f : HopForm) (l : List Word) : List Byte :=
  match f with
  | .full => wordsBytes l
  | .e4m3 => (blocksOf l).flatMap e4m3Block
  | .ex4 => (blocksOf l).flatMap ex4Block

/-- m values from blocks, each of width bytes of its number of values. -/
def decodeBlocks (width : Nat → Nat) (val : Nat → List Byte → List Word) : Nat → Nat → List Byte → List Word
  | 0, _, _ => []
  | k + 1, m, l => let n := min m 32; val n (l.take (width n)) ++ decodeBlocks width val k (m - n) (l.drop (width n))

/-- m values from a form. -/
def decodeForm (f : HopForm) (m : Nat) (l : List Byte) : List Word :=
  match f with
  | .full => bytesWords m l
  | .e4m3 => decodeBlocks (fun n => n + 1) e4m3Values ((m + 31) / 32) m l
  | .ex4 => decodeBlocks (fun n => (n + 1) / 2 + 2) ex4Values ((m + 31) / 32) m l

/-! ### Memory on path X -/

/-- Write bytes at addresses of taken pages, unit by unit (R232, R359). -/
def State.collWrite (s : State) (c id : Nat) (pages : PageMap) (cells : List (Nat × Byte)) : State :=
  (firstUse (cells.map (fun e => e.1 / 32))).foldl (fun u x =>
    let l := cells.filter (fun e => e.1 / 32 = x)
    let a := PageMap.at pages (BitVec.ofNat 64 (32 * x))
    u.landCells c none .x id a.2 (l.map (fun e => (a.1 + e.1 % 32, e.2)))) s

/-- Bytes of the collective's area from an offset on. -/
def State.areaBytes (s : State) (cl : Nat) (c : Coll) (ofs n : Nat) : List Byte :=
  (List.range n).map (fun k =>
    let a := PageMap.at c.areaPages (BitVec.ofNat 64 (c.area + ofs + k))
    s.pathByte cl .x (engineObserver .x 0) a.1 a.2)

def State.areaWrite (s : State) (cl : Nat) (c : Coll) (ofs : Nat) (l : List Byte) : State :=
  s.collWrite cl c.id c.areaPages (cellsAt (c.area + ofs) l)

/-- Advance MS through the home path (R354), where its page is translated and its key slot may be used (R43). -/
def State.collMs (s : State) (cl : Nat) (c : Coll) (low : Nat) : State :=
  match c.areaPages.find? (fun e => e.1 = c.area / 4096) with
  | none => s
  | some e =>
    if s.keyOk cl e.2.1 e.2.2 && (bytesDWord (s.bytesAt e.2.1 e.2.2 8)).toNat < c.base + low then s.advance cl e.2.1 e.2.2 (BitVec.ofNat 64 (c.base + low)) else s

/-- The collectives of a cluster, the one that runs first. -/
def State.collsOf (s : State) (cl : Nat) : List Coll := Assoc.get [] cl s.colls
def State.setColl (s : State) (cl : Nat) (c : Coll) : State :=
  { s with colls := Assoc.put cl ((s.collsOf cl).map (fun x => if x.id = c.id then c else x)) s.colls }

/-! ### COLL (R353) -/

/-- The descriptor's own checks of R352, with the offset of the word each names. -/
def Coll.descBad (c : Coll) : Option Nat :=
  let nd := fun (e : List Byte) => tidNdim e + 1
  let fl := fun (e : List Byte) => tidBlk e = 0 && (tidFmt e = some .fp32 || tidFmt e = some .bf16 || tidFmt e = some .fp16 ||
    tidFmt e = some .e4m3 || tidFmt e = some .e5m2)
  firstBad [
    (c.op = 3 || (c.w 0).extractLsb' 32 8 ≠ 0 || c.fanin < 2 || 8 < c.fanin, 0x00),
    ((List.range 4).any (fun a => c.ext a = 0 || 4096 < c.ext a || (c.naxes ≤ a && c.ext a ≠ 1)) || 4096 < c.ranks, 0x08),
    ((c.w 2).extractLsb' 48 16 ≠ 0 || c.groupa % 32 ≠ 0, 0x10), ((c.w 3).extractLsb' 36 28 ≠ 0 || c.area % 4096 ≠ 0, 0x18),
    ((c.w 4).extractLsb' 48 16 ≠ 0 || c.ranks ≤ c.rank, 0x20), ((c.w 5).extractLsb' 48 16 ≠ 0 || c.abaddr % 8 ≠ 0, 0x28),
    (c.seqn = 0, 0x38),
    (!layLegal c.lays c.naxes (nd c.src) || !layLegal c.layd c.naxes (nd c.dst) || (exchange c.lays c.layd).isNone || !c.shapesAgree ||
      (if c.kind.reduces then !(fl c.src && fl c.dst)
       else tidFmt c.src ≠ tidFmt c.dst || tidFmt c.src = some .ex4 || tidFmt c.src = some .ue8 || tidFmt c.src = none), 0x00),
    (c.apages * 4096 < 0x2000 + 3 * c.areaS, 0x20)]

/-- What a page of a collective must be (row 5 of R353): one of the group table, an area page, NORMAL in a frame of the issuing cluster, or a
destination page, NORMAL or SWM there. -/
inductive CollPage where
  | table | area | dest
  deriving DecidableEq, Repr

/-- The current context's COLL has already asked for units of a page of its group table: it has read the dead-peer bit for it (R29). -/
def State.tableAsked (s : State) (v : Nat) : Bool :=
  s.groupReads.any (fun e => e.1.1 = s.cur && e.1.2 / 128 = v) ||
    s.outReads.any (fun o => match o.who with | .group p u => p = s.cur && u / 128 = v | _ => false)

/-- Translations of pages for a collective, in order (row 5 of R353). -/
def State.collPages (s : State) (sp : Space) (what : CollPage) : List Nat → PageMap → Except Eff PageMap
  | [], m => .ok m
  | v :: vs, m =>
    let a : DWord := BitVec.ofNat 64 (4096 * v)
    match s.translate s.cur.clus (.ctx s.cur) s.me.aspc sp a .collective with
    | .trap code => .error (.trap code a 0)
    | .miss => .error (.wait (s.startWalk s.cur.clus s.me.aspc sp a .collective (.ctx s.cur)) .xlate)
    | .ok pa t =>
      if what ≠ .table && !s.isHome s.cur.clus pa then .error (.trap cHOME_FOREIGN a 0)
      else if t.type = .sealed || t.type = .device || (what = .area && t.type = .swm) then .error (.trap cPERM a 0)
      else if s.dead.getLsbD (paPkg pa) && !(what = .table && s.tableAsked v) then .error (.trap cDEAD_PEER a 0)
      else s.collPages sp what vs (m ++ [(v, pa, t.key)])

/-- What the reading of the group table gives. -/
inductive TableRead where
  | ok (l : List (List Byte))
  | wait (s : State)
  | trap (code : Byte)

/-- The group table's entries: each one unit, of this package or asked for. -/
def State.groupTable (s : State) (m : PageMap) : List Nat → List (List Byte) → TableRead
  | [], acc => .ok acc
  | a :: as, acc =>
    let x := PageMap.at m (BitVec.ofNat 64 a)
    if paPkg x.1 ≠ s.pkg then
      if Assoc.has (s.cur, a / 32) s.groupReads then s.groupTable m as (acc ++ [Assoc.get [] (s.cur, a / 32) s.groupReads])
      else .wait (s.askPkg s.cur.clus x.1 x.2 32 (.group s.cur (a / 32)))
    else if !s.isHome s.cur.clus x.1 && s.ownerRefuses s.myClus.fn x.1 then .trap cPERM
    else if s.poison.contains (x.1 / 64) then .trap cDEAD_PEER
    else s.groupTable m as (acc ++ [if s.isHome s.cur.clus x.1 then s.pathRead s.cur.clus .x (engineObserver .x 0) x.1 x.2 32 else (s.ownerRead x.1 x.2 32).1])

/-- Pages of a tensor's bytes. -/
def shardPages (e : List Byte) (t : Ty) : List Nat :=
  firstUse ((List.range (shardSize e)).flatMap (fun i => [shardAddr e t i / 4096, (shardAddr e t i + t.bytes - 1) / 4096]))

/-- The collective that a descriptor describes, before its table is read. -/
def State.collOf (t : State) (addr : Nat) (tag : Tag) (bank : Nat) : Coll :=
  let ws := (List.range 8).map (fun k => t.descWord addr (8 * k))
  let w0 := ws.getD 0 0
  let entry := fun (id : Nat) => match t.myClus.banks.toList.getD bank none with
    | some b => Assoc.get (List.replicate 64 0) id b.entries
    | none => List.replicate 64 0
  { id := t.nextId, core := t.cur.core, ctx := t.cur.ctx, tag := tag.toNat, addr := addr, aspc := t.me.aspc, issued := t.clk, words := ws,
    src := entry (w0.extractLsb' 56 8).toNat, dst := entry (w0.extractLsb' 48 8).toNat, group := [], rank := ((ws.getD 4 0).extractLsb' 32 16).toNat,
    areaPages := [], dstPages := [], kind := match exchange (w0.extractLsb' 0 16).toNat (w0.extractLsb' 16 16).toNat with | some e => e.1 | none => .none }

/-- An entry of the group table (R348). RSV bits are not looked at: R353 names no fault for them (DESIGN CHOICE, log entry 37). -/
def groupRank (e : List Byte) : GroupRank :=
  let w := bytesDWord e
  ⟨(w.extractLsb' 0 12).toNat, (w.extractLsb' 16 12).toNat, (w.extractLsb' 32 8).toNat,
    ((bytesDWord (e.drop 8)).extractLsb' 0 48).toNat, ((bytesDWord (e.drop 16)).extractLsb' 0 48).toNat⟩

/-- Rows 5 to 8 of R353. -/
def collIssue (t : State) (tag : Tag) (c : Coll) : Eff :=
  let table := (List.range c.ranks).map (fun r => c.groupa + 32 * r)
  match tidFmt c.dst with
  | none => .trap cTID_BAD 0 0
  | some fmt =>
    match t.collPages .read .table (firstUse (table.map (· / 4096))) [] with
    | .error e => e
    | .ok gm =>
      match t.collPages .home .area ((List.range c.apages).map (fun k => c.area / 4096 + k)) [] with
      | .error e => e
      | .ok am =>
        match t.collPages .read .dest (shardPages c.dst fmt) [] with
        | .error e => e
        | .ok dm =>
          match t.groupTable gm table [] with
          | .trap code => .trap code (BitVec.ofNat 64 c.groupa) 0
          | .wait u => .wait u .behind
          | .ok es =>
            let c1 := { c with group := es.map groupRank, areaPages := am, dstPages := dm }
            let msAt := PageMap.at am (BitVec.ofNat 64 c.area)
            if (List.range c1.gx).any (fun j => t.dead.getLsbD (c1.group.getD (c1.members.getD j 0) ⟨0, 0, 0, 0, 0⟩).pkg) then .trap cDEAD_PEER 0 0
            else if c.base + 1 ≤ (bytesDWord (t.bytesAt msAt.1 msAt.2 8)).toNat then .trap cMILESTONE_REGRESS (BitVec.ofNat 64 c.area) 0
            else
              let u := { t with nextId := t.nextId + 1, groupReads := t.groupReads.filter (fun e => e.1.1 ≠ t.cur) }.issueTag tag .coll t.nextId
              .done ({ u with colls := Assoc.put t.cur.clus (u.collsOf t.cur.clus ++ [c1]) u.colls }.post .collStart { clus := t.cur.clus })

/-- The last check of row 3 of R353: the group table's entry RANK names this package. What keeps the entry from being read is an outcome of
row 5, which comes after row 4. -/
def collRank (t : State) (c : Coll) (k : Eff) : Eff :=
  let a := c.groupa + 32 * c.rank
  match t.collPages .read .table [a / 4096] [] with
  | .error (.wait u w) => .wait u w
  | .error _ => k
  | .ok m =>
    match t.groupTable m [a] [] with
    | .wait u => .wait u .behind
    | .trap _ => k
    | .ok l => if (groupRank (l.getD 0 [])).pkg ≠ t.pkg then pullDesc c.addr 0x20 else k

def execColl (a : Reg) (tag : Tag) (s : State) : Out :=
  runInstr (.coll a tag) s (fun t =>
    if t.me.basting then .wait t .held
    else needFree t tag (
      match t.myBank with
      | none => .trap cTID_BAD 0 0
      | some bank =>
        let addr := (t.me.reg a).toNat
        if addr % 32 ≠ 0 || 0x8000 < addr + 80 then pullDesc addr 0
        else if t.blockPoison addr 80 then poisonEff t (BitVec.ofNat 64 addr) 0
        else
          let c := t.collOf addr tag bank
          if !tidV c.src || !tidV c.dst || (tidBad c.src).isSome || (tidBad c.dst).isSome then .trap cTID_BAD 0 0
          else
            match c.descBad with
            | some ofs => pullDesc addr ofs
            | none => collRank t c (if tidSeal c.src || tidSeal c.dst then .trap cSEALED_PULL 0 0 else collIssue t tag c)))

/-! ### A rank's steps (R354 to R360) -/

/-- The destination bytes of values in the destination's format: each element converted by RNE, saturating (R355). -/
def Coll.dstBytes (c : Coll) (l : List Word) : List (List Byte) :=
  match tidFmt c.dst with
  | none => []
  | some t => l.map (fun v => (wordBytes (match convertFl t .rne 0 (flOf .fp32 v) with | .ok w => w | .over _ w => w)).take t.bytes)

/-- Land destination elements, given by the rank and the flat source index that holds each. -/
def State.collLand (s : State) (cl : Nat) (c : Coll) (value : Nat → Nat → Option (List Byte)) : State :=
  match tidFmt c.dst with
  | none => s
  | some t =>
    s.collWrite cl c.id c.dstPages ((List.range (shardSize c.dst)).flatMap (fun e =>
      let x := c.locate e
      match value x.1 x.2 with
      | some l => cellsAt (shardAddr c.dst t e) l
      | none => []))

/-- The value of this rank's own source element in its format. -/
def Coll.ownBytes (c : Coll) (flat : Nat) : List Byte :=
  match tidFmt c.src with
  | none => []
  | some t => (List.range t.bytes).map (fun k =>
      let a := shardAddr c.src t flat + k
      (Assoc.get [] (a / 32) c.got).getD (a % 32) 0)

/-- One operation of a reduction (R88, R253, R355). -/
def Coll.combine (c : Coll) (a b : Word) : Word :=
  if c.op = 0 then redAdd a b else pickLane .fp32 (c.op = 1) a b

/-- This rank's contribution to a part. -/
def Coll.contribution (c : Coll) (k : Nat) : List Word := (c.partElems k).map (fun e => c.own.getD e 0)

/-- Group index i lies below group index j in the tree of a part, or is j. -/
def Coll.below (c : Coll) (root j i : Nat) : Bool := aux c.fanin (c.node j root) (c.node i root) 13
where
  aux (fanin target : Nat) : Nat → Nat → Bool
  | _, 0 => false
  | t, n + 1 => t = target || (t ≠ 0 && aux fanin target ((t - 1) / fanin) n)

/-- What a child's slot has brought for a part: the values and the contributors. -/
def Coll.arrival (c : Coll) (k j : Nat) : Option (List Word × List Nat) :=
  (c.arrived.find? (fun e => e.1 = k && e.2.1 = j)).map (·.2.2)

/-- The contributors of a part among u: this rank, and those of each arrived child none of whose contributors lies outside u. -/
def Coll.contributors (c : Coll) (u : List Nat) (k : Nat) : List Nat :=
  c.me :: (c.children k).flatMap (fun j => match c.arrival k j with | some a => if a.2.all (fun i => u.contains i) then a.2 else [] | none => [])

/-- The contributors that a REDUCE-SCATTER's one bitmap can name: those that are in every forwarded part above which they stand, so that bitmap
and tree give each part's contributions exactly (R351, R356; log entry 26). -/
def Coll.common (c : Coll) : Nat → List Nat → List Nat
  | 0, u => u
  | n + 1, u =>
    let v := u.filter (fun i => c.forwards.all (fun k => !c.below k c.me i || (c.contributors u k).contains i))
    if v = u then u else c.common n v

/-- The contributors a node may add up in a part it forwards; a root adds all. -/
def Coll.allowed (c : Coll) (k : Nat) : List Nat :=
  if c.kind = .reduceScatter && k ≠ c.me then c.common c.gx (List.range c.gx) else List.range c.gx

/-- The partial of a part: the own contribution, then each arrived child's in ascending node (R355). -/
def Coll.partialOf (c : Coll) (k : Nat) : List Word × List Nat :=
  let u := c.allowed k
  (c.children k).foldl (fun acc j =>
    match c.arrival k j with
    | some a => if a.2.all (fun i => u.contains i) then ((List.zip acc.1 a.1).map (fun p => c.combine p.1 p.2), acc.2 ++ a.2) else acc
    | none => acc) (c.contribution k, [c.me])

/-- Whether every child of a part has arrived. -/
def Coll.complete (c : Coll) (k : Nat) : Bool := (c.children k).all (fun j => (c.arrival k j).isSome)

/-- Offset of a part's region in the slot and among the raw contributions: no form of a part takes more than 4 bytes an element (log entry 26). -/
def Coll.partOfs (c : Coll) (k : Nat) : Nat := if c.kind = .reduceScatter then k * 4 * (c.partElems k).length else 0

/-- A partial in the form of its hop to the parent, written into the slot; EX4 keeps the residual (R357). -/
def State.writePartial (s : State) (cl : Nat) (c : Coll) (k : Nat) : State :=
  let p := (c.partialOf k).1
  match c.form c.me (c.parent k) with
  | .ex4 =>
    let ro := 0x2000 + 2 * c.areaS + c.partOfs k
    let e := bytesWords p.length (s.areaBytes cl c ro (4 * p.length))
    let y := (List.zip p e).map (fun x => addFp32 [flOf .fp32 x.1, flOf .fp32 x.2])
    let bytes := encodeForm .ex4 y
    let back := decodeForm .ex4 p.length bytes
    let r := (List.zip y back).map (fun x => addFp32 [flOf .fp32 x.1, (flOf .fp32 x.2).neg])
    (s.areaWrite cl c (0x2000 + c.partOfs k) bytes).areaWrite cl c ro (wordsBytes r)
  | f => s.areaWrite cl c (0x2000 + c.partOfs k) (encodeForm f p)

/-- The bitmap of contributors (R351). -/
def bitmapBytes (l : List Nat) : List Byte :=
  (List.range 512).map (fun k => (List.range 8).foldl (fun (b : Byte) i => if l.contains (8 * k + i) then b ||| (1#8 <<< i) else b) 0)

/-- The contributors that a bitmap names. -/
def bitmapList (n : Nat) (l : List Byte) : List Nat := (List.range n).filter (fun j => (l.getD (j / 8) 0).getLsbD (j % 8))

/-- Publish the partials of every part this rank forwards (R355, R356). -/
def State.collPublish (s : State) (cl : Nat) (c : Coll) : State :=
  let s1 := c.forwards.foldl (fun u k => u.writePartial cl c k) s
  let all := c.forwards.flatMap (fun k => (c.partialOf k).2)
  (s1.areaWrite cl c 0x1000 (bitmapBytes all)).collMs cl c 2

/-- Contributors missing at a root, in ascending group index (R356). -/
def Coll.missing (c : Coll) : List Nat := let have_ := (c.partialOf c.me).2; (List.range c.gx).filter (fun j => !have_.contains j)

/-- The raw contribution of a group index to the part of which this rank is the root. -/
def Coll.raw (c : Coll) (j : Nat) : Option (List Word) := (c.raws.find? (fun e => e.1 = c.me && e.2.1 = j)).map (·.2.2)

/-- The root's result: the tree partials, then the raw contributions in ascending index; convert, land, publish (R355, R356). Elements of the
destination that no rank of the group holds do not move (log entry 26). -/
def State.collRoot (s : State) (cl : Nat) (c : Coll) : State :=
  let sum := c.missing.foldl (fun acc j =>
    match c.raw j with
    | some v => (List.zip acc v).map (fun p => c.combine p.1 p.2)
    | none => acc) (c.partialOf c.me).1
  let bytes := c.dstBytes sum
  let elems := c.partElems c.me
  let s1 := s.collLand cl c (fun r e => if c.members.contains r then (elems.idxOf? e).bind (fun n => bytes[n]?) else none)
  (s1.areaWrite cl c (0x2000 + c.partOfs c.me) bytes.flatten).collMs cl c 3

/-- The elements of a member's source that this rank's destination takes. -/
def Coll.sliceElems (c : Coll) (j : Nat) : List Nat :=
  let r := c.members.getD j 0
  (List.range (shardSize c.dst)).filterMap (fun e => let x := c.locate e; if x.1 = r then some x.2 else none)

/-- An element as its rank's source holds it: this rank's own, or what has been pulled (R358). All of the destination lands at the end, so that
every unit of it is old or new at an abort (R360). -/
def Coll.sliced (c : Coll) (r e : Nat) : Option (List Byte) :=
  if r = c.rank then some (c.ownBytes e)
  else (c.slices.find? (fun x => c.members.getD x.1 0 = r)).bind (fun x => ((c.sliceElems x.1).idxOf? e).bind (fun m => x.2[m]?))

/-- Requests of a collective that are out are cancelled. -/
def State.collCancel (s : State) (cl : Nat) (c : Coll) : State :=
  let s1 := c.watches.foldl (fun u w => u.dropWatch w.1) s
  { s1 with outReads := s1.outReads.filter (fun o => match o.who with | .coll x id _ _ => !(x = cl && id = c.id) | _ => true) }

/-- A rank ends its work with a status: its requests are cancelled, and the wait for the other members follows (R359, R360). -/
def State.collEnd (s : State) (cl : Nat) (c : Coll) (low : Nat) (code : Byte) : State :=
  ((s.collCancel cl c).collMs cl c low).setColl cl { c with phase := .finishing, pulls := [], watches := [], status := code }

/-- The collective of a cluster that runs or is next. -/
def State.collHead (s : State) (cl id : Nat) : Bool := ((s.collsOf cl).head?.map (·.id)) = some id

/-- The rank aborts with what it observed first (R360); one that has not come to its turn, or whose area is being translated anew, does so then. -/
def State.collAbort (s : State) (cl : Nat) (c : Coll) (code : Byte) : State :=
  let d := if c.status = 0 then { c with status := code } else c
  if c.phase = .finishing then s
  else if s.collHead cl c.id && c.areaPages ≠ [] then s.collEnd cl d 0xFF d.status
  else s.setColl cl d

/-- The same for a collective by its number. -/
def State.collFail (s : State) (cl id : Nat) (code : Byte) : State :=
  match (s.collsOf cl).find? (fun x => x.id = id) with
  | some c => (s.collAbort cl c code).post .collStart { clus := cl }
  | none => s

/-- Word 0x40 and the tag (R352, R359); the next collective of the cluster starts. -/
def State.collDone (s : State) (cl : Nat) (c : Coll) : State :=
  let w : DWord := BitVec.ofNat 64 (c.direct * 2 ^ 32 + c.kind.code * 256 + c.status.toNat)
  let s1 := (s.collCancel cl c).landCells cl none .x c.id 0 (cellsAt (corePa s.pkg cl c.core (c.addr + 0x40)) (dwordBytes w))
  let s2 := s1.endOp cl c.core c.tag c.id c.status
  { s2 with colls := Assoc.put cl ((s2.collsOf cl).filter (fun x => x.id ≠ c.id)) s2.colls }.post .collStart { clus := cl }

/-- What this rank has seen of a member's milestone: its low byte. -/
def Coll.low (c : Coll) (j : Nat) : Nat := Assoc.get 0 j c.seen

/-! ### What the sequencer waits for (R354 to R359) -/

/-- The root adds raw contributions: its children have come, or TNODE has expired. -/
def Coll.collects (c : Coll) : Bool := c.parts.contains c.me && !c.rooted && (c.timedOut || c.complete c.me)

/-- A part whose children this rank still waits for. -/
def Coll.gathers (c : Coll) (k : Nat) : Bool := !c.timedOut && (if k = c.me then !c.rooted else !c.published)

/-- The members' milestones that a rank waits for, with the low byte it waits for. -/
def Coll.waits (c : Coll) : List (Nat × Nat) :=
  match c.phase with
  | .queued => []
  | .reading => []
  | .finishing => (((List.range c.gx).filter (fun j => j ≠ c.me && !c.doneRanks.contains j)).map (fun j => (j, 0xF0)))
  | .running =>
    if !c.kind.reduces then ((List.range c.gx).filter (fun j => j ≠ c.me && c.low j < 1)).map (fun j => (j, 1))
    else
      (c.parts.filter c.gathers).flatMap (fun k => ((c.children k).filter (fun j => c.low j < 2)).map (fun j => (j, 2))) ++
      (if c.collects then (c.missing.filter (fun j => c.low j < 1)).map (fun j => (j, 1)) else []) ++
      (if c.kind = .allReduce && c.me ≠ 0 && c.published && c.low 0 < 3 then [(0, 3)] else [])

/-- The pulls that what has been seen allows and that have not landed: what, part, group index (R355, R356, R358). -/
def Coll.wants (c : Coll) : List (CollPull × Nat × Nat) :=
  if c.phase ≠ .running then []
  else if !c.kind.reduces then ((List.range c.gx).filter (fun j => j ≠ c.me && 1 ≤ c.low j && c.slices.all (fun x => x.1 ≠ j))).map (fun j => (.slice, 0, j))
  else
    (c.parts.filter c.gathers).flatMap (fun k => ((c.children k).filter (fun j => 2 ≤ c.low j && (c.arrival k j).isNone)).map (fun j => (.partial_, k, j))) ++
    (if c.collects then (c.missing.filter (fun j => 1 ≤ c.low j && (c.raw j).isNone)).map (fun j => (.raw, c.me, j)) else []) ++
    (if c.kind = .allReduce && c.me ≠ 0 && c.published && 3 ≤ c.low 0 then [(.result, 0, 0)] else [])

/-- A member's entry of the group table. -/
def Coll.entry (c : Coll) (j : Nat) : GroupRank := c.group.getD (c.members.getD j 0) ⟨0, 0, 0, 0, 0⟩

/-- Bytes of a form for n values. -/
def HopForm.size (f : HopForm) (n : Nat) : Nat :=
  match f with
  | .full => 4 * n
  | .e4m3 => n + (n + 31) / 32
  | .ex4 => (n + 1) / 2 + 2 * ((n + 31) / 32)

/-- The address in the read space of an element of a member's source: under R64 with the member's SRCV as BASE (R358). -/
def Coll.srcvAddr (c : Coll) (j : Nat) (t : Ty) (flat : Nat) : Nat :=
  (BitVec.ofInt 64 ((shardAddr c.src t flat : Int) - (tidBase c.src : Int) + ((c.entry j).srcv : Int))).toNat

/-- Where a pull's values stand, as address and length in the read space: in the member's area (R351), or its source elements. -/
def Coll.spans (c : Coll) (w : CollPull) (k j : Nat) : List (Nat × Nat) :=
  let area := (c.entry j).areav
  let len := (c.partElems k).length
  match w with
  | .partial_ => [(area + 0x2000 + c.partOfs k, (c.form c.me j).size len), (area + 0x1000, 512)]
  | .raw => [(area + 0x2000 + c.areaS + c.partOfs k, (c.form c.me j).size len)]
  | .result => [(area + 0x2000, match tidFmt c.dst with | some t => t.bytes * len | none => 0)]
  | .slice => match tidFmt c.src with
    | some t => (c.sliceElems j).map (fun e => (c.srcvAddr j t e, t.bytes))
    | none => []

/-- The 32-byte units of spans. -/
def spanUnits (l : List (Nat × Nat)) : List Nat := firstUse (l.flatMap (fun e => (List.range ((e.1 % 32 + e.2 + 31) / 32)).map (fun k => e.1 / 32 + k)))

/-- Bytes that a pull has brought. -/
def CollGet.bytes (g : CollGet) (a n : Nat) : List Byte := (List.range n).map (fun k => (Assoc.get [] ((a + k) / 32) g.got).getD ((a + k) % 32) 0)

/-- A pull goes out; COLL_PULL_LANDED reads its units. -/
def State.collAsk (s : State) (cl : Nat) (c : Coll) (w : CollPull × Nat × Nat) : State × Coll :=
  if c.pulls.any (fun g => g.what = w.1 && g.part = w.2.1 && g.j = w.2.2) then (s, c)
  else
    (s.post .collPullLanded { clus := cl, id := c.nextPull },
     { c with pulls := c.pulls ++ [{ num := c.nextPull, what := w.1, part := w.2.1, j := w.2.2, units := spanUnits (c.spans w.1 w.2.1 w.2.2) }], nextPull := c.nextPull + 1 })

/-! ### Reading -/

/-- How the reading of pages and units goes on. -/
inductive SrcRead where
  | fail (s : State) (code : Byte)
  | wait (s : State) (c : Coll)
  | have_ (s : State) (c : Coll)

/-- Translations that a running collective needs. -/
inductive SeqPages where
  | ok (m : PageMap)
  | wait (s : State)
  | fail (s : State) (code : Byte)

/-- A miss of the sequencer's: its walk, one at a time. -/
def State.seqWalk (s : State) (cl : Nat) (c : Coll) (sp : Space) (a : DWord) : State :=
  let r : Requester := .engine ⟨cl, c.core, c.ctx⟩ c.tag
  if (s.clus cl).walking r then s else s.startWalk cl c.aspc sp a .collective r

/-- The pages of the collective's area or destination, those that a TU_INV has taken away translated anew (R374), each under a key slot that may be
used now (R43). -/
def State.seqPages (s : State) (cl : Nat) (c : Coll) (sp : Space) (what : CollPage) : List Nat → PageMap → SeqPages
  | [], m => .ok m
  | v :: vs, m =>
    match m.find? (fun e => e.1 = v) with
    | some e => if s.keyOk cl e.2.1 e.2.2 then s.seqPages cl c sp what vs m else .fail s cPERM
    | none =>
      let a : DWord := BitVec.ofNat 64 (4096 * v)
      match s.translate cl (.engine ⟨cl, c.core, c.ctx⟩ c.tag) c.aspc sp a .collective with
      | .trap code => .fail s code
      | .miss => .wait (s.seqWalk cl c sp a)
      | .ok pa t =>
        if !s.isHome cl pa then .fail s cHOME_FOREIGN
        else if t.type = .sealed || t.type = .device || (what = .area && t.type = .swm) then .fail s cPERM
        else s.seqPages cl c sp what vs (m ++ [(v, pa, t.key)])

/-- Area and destination of a collective, translated and permitted. -/
def State.collMaps (s : State) (cl : Nat) (c : Coll) : SrcRead :=
  match s.seqPages cl c .home .area ((List.range c.apages).map (fun k => c.area / 4096 + k)) c.areaPages with
  | .fail t code => .fail t code
  | .wait t => .wait t c
  | .ok am =>
    match s.seqPages cl c .read .dest (match tidFmt c.dst with | some t => shardPages c.dst t | none => []) c.dstPages with
    | .fail t code => .fail t code
    | .wait t => .wait t { c with areaPages := am }
    | .ok dm => .have_ s { c with areaPages := am, dstPages := dm }

/-- Translations of pages of the read space, in order. -/
def State.srcPages (s : State) (cl : Nat) (c : Coll) : List Nat → SrcRead
  | [] => .have_ s c
  | v :: vs =>
    if c.pages.any (fun e => e.1 = v) then s.srcPages cl c vs
    else
      let a : DWord := BitVec.ofNat 64 (4096 * v)
      match s.translate cl (.engine ⟨cl, c.core, c.ctx⟩ c.tag) c.aspc .read a .collective with
      | .trap code => .fail s code
      | .miss => .wait (s.seqWalk cl c .read a) c
      | .ok pa t =>
        if s.dead.getLsbD (paPkg pa) then .fail s cDEAD_PEER
        else if t.type = .sealed then .fail s cSEALED_PULL
        else if t.type = .device then .fail s cDEVICE_ACCESS
        else if paPkg pa = s.pkg && !s.isHome cl pa && s.ownerRefuses (s.clus cl).fn pa then .fail s cPERM
        else s.srcPages cl { c with pages := c.pages ++ [(v, pa, t.key)] } vs

/-- A unit that a pull has, the source's units being pull 0. -/
def Coll.unit? (c : Coll) (num unit : Nat) : Bool :=
  if num = 0 then Assoc.has unit c.got else c.pulls.any (fun g => g.num = num && Assoc.has unit g.got)

/-- A unit arrives for a pull. -/
def Coll.putUnit (c : Coll) (num unit : Nat) (l : List Byte) : Coll :=
  if num = 0 then { c with got := Assoc.put unit l c.got }
  else { c with pulls := c.pulls.map (fun g => if g.num = num then { g with got := Assoc.put unit l g.got } else g) }

/-- The units of a pull, each read once on path X; the key slot is checked at each (R43). -/
def State.srcUnits (s : State) (cl : Nat) (c : Coll) (num : Nat) : List Nat → SrcRead
  | [] => .have_ s c
  | u :: us =>
    if c.unit? num u then s.srcUnits cl c num us
    else
      let a := PageMap.at c.pages (BitVec.ofNat 64 (32 * u))
      if paPkg a.1 ≠ s.pkg then
        match (s.askPkg cl a.1 a.2 32 (.coll cl c.id num u)).srcUnits cl c num us with
        | .have_ t d => .wait t d
        | r => r
      else if !s.keyOk cl a.1 a.2 then .fail s cPERM
      else if s.poison.contains (a.1 / 64) then .fail s cDEAD_PEER
      else s.srcUnits cl (c.putUnit num u (if s.isHome cl a.1 then s.pathRead cl .x (engineObserver .x 0) a.1 a.2 32 else (s.ownerRead a.1 a.2 32).1)) num us

/-- Translations and then units of a pull. -/
def State.seqRead (s : State) (cl : Nat) (c : Coll) (num : Nat) (units : List Nat) : SrcRead :=
  match s.srcPages cl c (firstUse (units.map (· / 128))) with
  | .have_ t d => t.srcUnits cl d num units
  | r => r

/-- A unit from another package arrives for a pull of a collective. -/
def State.collUnit (s : State) (cl id num unit : Nat) (l : List Byte) : State :=
  match (s.collsOf cl).find? (fun x => x.id = id) with
  | some c =>
    let s1 := s.setColl cl (c.putUnit num unit l)
    if num = 0 then s1.post .collStart { clus := cl } else s1.post .collPullLanded { clus := cl, id := num }
  | none => s

/-- A watch of the sequencer goes out on a word of the read space (R303, R354, R360). The dead-peer bit is read at its issue (R29). -/
def State.seqWatch (s : State) (cl : Nat) (c : Coll) (a thr : Nat) (w : CollWatch) : SrcRead :=
  match s.srcPages cl c [a / 4096] with
  | .have_ t d =>
    let x := PageMap.at d.pages (BitVec.ofNat 64 a)
    let it : WatchItem := ⟨t.pkg, cl, (t.clus cl).fn, seqCore, 0, x.1, x.2, BitVec.ofNat 64 thr, t.nextId⟩
    let t1 := { t with nextId := t.nextId + 1 }
    let e : Coll := { d with watches := d.watches ++ [(it.op, w)] }
    if t.dead.getLsbD (paPkg x.1) then .have_ (t1.post .watchDone { load := .done (t1.doneOf (it.entry it.op) 0 0 cDEAD_PEER) }) e
    else .have_ (t1.sendWatch it) e
  | r => r

/-- The watches that a rank still has to send. -/
def State.seqWatches (s : State) (cl : Nat) (c : Coll) : List (Nat × Nat) → SrcRead
  | [] => .have_ s c
  | (j, low) :: l =>
    if c.watches.any (fun w => w.2 = .member j low) then s.seqWatches cl c l
    else
      match s.seqWatch cl c (c.entry j).areav (c.base + low) (.member j low) with
      | .have_ t d => t.seqWatches cl d l
      | .wait t d => .wait t d
      -- a member whose milestone can no longer be watched counts as done in the wait of R359
      | .fail t code => if c.phase = .finishing then t.seqWatches cl { c with doneRanks := c.doneRanks ++ [j] } l else .fail t code

/-! ### Going on -/

/-- What a rank does next by itself: forward its partials, form the result, finish (R355, R356, R358). -/
def State.collAct (s : State) (cl : Nat) (c : Coll) : State :=
  if c.phase ≠ .running then s.setColl cl c
  else if !c.kind.reduces then
    if (List.range c.gx).all (fun j => j = c.me || c.slices.any (fun x => x.1 = j)) then (s.collLand cl c c.sliced).collEnd cl c 0xF0 0 else s.setColl cl c
  else
    let forwardNow := !c.published && c.forwards ≠ [] && (c.timedOut || c.forwards.all c.complete)
    let s1 := if forwardNow then s.collPublish cl c else s
    let c1 := if forwardNow then { c with published := true } else c
    if c1.collects && (c1.forwards = [] || c1.published) && c1.missing.all (fun j => (c1.raw j).isSome) then
      (s1.collRoot cl c1).collEnd cl { c1 with rooted := true, direct := c1.missing.length } 0xF0 0
    else s1.setColl cl c1

/-- The collective that runs or ends at a cluster: the first of its queue. -/
def State.collRunning (s : State) (cl : Nat) : Option Coll :=
  match s.collsOf cl with
  | c :: _ => if c.phase = .running || c.phase = .finishing then some c else none
  | [] => none

/-- The running collective goes on as far as it can: it acts, sends the watches and pulls it now needs, and completes once every member is
done (R354 to R359). -/
def State.collOn (s : State) (cl : Nat) (c0 : Coll) : State :=
  let s1 := s.collAct cl c0
  match s1.collRunning cl with
  | none => s1
  | some c =>
    match s1.seqWatches cl c c.waits with
    | .fail t code => (t.collAbort cl c code).post .collStart { clus := cl }
    | .wait t d => t.setColl cl d
    | .have_ t d =>
      let r := d.wants.foldl (fun (a : State × Coll) w => a.1.collAsk cl a.2 w) (t, d)
      if d.phase = .finishing && (List.range d.gx).all (fun j => j = d.me || d.doneRanks.contains j) then r.1.collDone cl r.2
      else r.1.setColl cl r.2

/-- The running collective goes on once area and destination stand translated. -/
def State.collGo (s : State) (cl : Nat) (c : Coll) : State :=
  if c.phase = .finishing then s.collOn cl c
  else
    match s.collMaps cl c with
    | .fail t code => (t.collAbort cl c code).post .collStart { clus := cl }
    | .wait t d => t.setColl cl d
    | .have_ t d => t.collOn cl d

/-- A collective whose status is set ends, its milestone's page translated first. -/
def State.collStop (s : State) (cl : Nat) (c : Coll) : State :=
  match s.seqPages cl c .home .area [c.area / 4096] c.areaPages with
  | .wait t => t
  | .fail t _ => (t.collEnd cl c 0xFF c.status).post .collStart { clus := cl }
  | .ok m => (s.collEnd cl { c with areaPages := m } 0xFF c.status).post .collStart { clus := cl }

/-- The units of a shard. -/
def shardUnits (e : List Byte) : List Nat :=
  match tidFmt e with
  | none => []
  | some t => firstUse ((List.range (shardSize e)).flatMap (fun i => (List.range t.bytes).map (fun k => (shardAddr e t i + k) / 32)))

/-- The source is read: contributions widened and flushed whatever OP is, as R355 says of every contribution (R88 speaks of sums; DEDUCED,
log entry 38); the raw contribution written, MS at +1. -/
def State.collBegin (s : State) (cl : Nat) (c0 : Coll) : State :=
  let rd := fun a => (Assoc.get [] (a / 32) c0.got).getD (a % 32) 0
  let own := match tidFmt c0.src with
    | none => []
    | some t => (List.range (shardSize c0.src)).map (fun e => flush32 (roundFl .fp32 .rne 0 false (elemVal t rd (shardAddr c0.src t e))))
  let c := { c0 with own := if c0.kind.reduces then own else [], phase := .running, started := s.clk }
  let s1 := c.parts.foldl (fun u k => u.areaWrite cl c (0x2000 + c.areaS + c.partOfs k) (encodeForm (c.form c.me k) (c.contribution k))) s
  ((s1.collMs cl c 1).setColl cl c).collGo cl c

/-- The abort watch of a collective, from its issue on (R360); and the end of one whose walk has failed. -/
def State.collWatchAbort (s : State) (cl id : Nat) : State :=
  match (s.collsOf cl).find? (fun x => x.id = id) with
  | none => s
  | some c =>
    let f := (s.clus cl).takeFail ⟨cl, c.core, c.ctx⟩ c.tag
    match f.1 with
    | some code =>
      let t := s.setClus cl f.2
      -- a member whose milestone can no longer be watched counts as done in the wait of R359
      if c.phase = .finishing then t.setColl cl { c with doneRanks := c.doneRanks ++
        (((c.waits.filter (fun w => c.watches.all (fun x => x.2 ≠ .member w.1 w.2))).map (·.1)).take 1) }
      else if c.status ≠ 0 && s.collHead cl id then t.collEnd cl c 0xFF c.status
      else t.collAbort cl c code
    | none =>
      if c.abortAsked || c.abaddr = 0 || c.phase = .finishing then s
      else
        match s.seqWatch cl c c.abaddr c.abthr .abort with
        | .have_ t d => t.setColl cl { d with abortAsked := true }
        | .wait t d => t.setColl cl d
        | .fail t code => t.collAbort cl c code

/-- The event COLL_START: the sequencer of cluster inp.clus watches the abort milestones of its queue, takes its next collective, or goes on
with the one it has, whose pages or units have come. -/
def execCollStart (s : State) : Out :=
  let cl := s.inp.clus
  let s1 := (s.collsOf cl).foldl (fun u c => u.collWatchAbort cl c.id) s
  match s1.collsOf cl with
  | [] => .next s1
  | c :: _ =>
    if c.phase ≠ .finishing && c.status ≠ 0 then .next (s1.collStop cl c)
    else if c.phase = .running || c.phase = .finishing then
      .next (c.pulls.foldl (fun u g => u.post .collPullLanded { clus := cl, id := g.num }) (s1.collGo cl c))
    else
      match s1.seqRead cl { c with phase := .reading } 0 (shardUnits c.src) with
      | .fail t code => .next ((t.collAbort cl c code).post .collStart { clus := cl })
      | .wait t d => .next (t.setColl cl d)
      | .have_ t d =>
        match t.collMaps cl d with
        | .fail u code => .next ((u.collAbort cl d code).post .collStart { clus := cl })
        | .wait u e => .next (u.setColl cl e)
        | .have_ u e => .next (u.collBegin cl e)

/-- The low byte of a member's milestone as this collective sees it: a later collective's value says that the member is done with this one. -/
def Coll.lowOf (c : Coll) (v : Nat) : Nat := if c.base + 0x100 ≤ v then 0xF0 else if c.base ≤ v then v - c.base else 0

/-- A watch of a collective completes with value v, or with an error code (R354, R359, R360). -/
def State.collHears (s : State) (cl : Nat) (c0 : Coll) (op : Nat) (w : CollWatch) (v : Nat) (code : Byte) : State :=
  let c := { c0 with watches := c0.watches.filter (fun x => x.1 ≠ op) }
  match w with
  | .abort => if c.phase = .finishing then s.setColl cl c else (s.collAbort cl c (if code = 0 then cCOLL_ABORT else code)).post .collStart { clus := cl }
  | .member j _ =>
    let c1 := { c with seen := Assoc.put j (max (c.low j) (c.lowOf v)) c.seen,
                       doneRanks := if code ≠ 0 || 0xF0 ≤ c.lowOf v then c.doneRanks ++ [j] else c.doneRanks }
    if c.phase = .running && code ≠ 0 then (s.collAbort cl c1 code).post .collStart { clus := cl }
    else if c.phase = .running && c.lowOf v = 0xFF then (s.collAbort cl c1 cCOLL_ABORT).post .collStart { clus := cl }
    else s.collGo cl c1

/-- The event COLL_WATCH_MET for cluster inp.clus: the sequencer's watch inp.id has completed with inp.load. -/
def execCollWatchMet (s : State) : Out :=
  let cl := s.inp.clus
  match s.inp.load, (s.collsOf cl).find? (fun c => c.watches.any (fun w => w.1 = s.inp.id)) with
  | .done it, some c =>
    (match c.watches.find? (fun w => w.1 = s.inp.id) with
     | some w => .next (s.collHears cl c w.1 w.2 it.value.toNat it.status)
     | none => .next s)
  | _, _ => .next s

/-- What a pull that has all its units brings (R355, R356, R358). -/
def State.collTake (s : State) (cl : Nat) (c0 : Coll) (g : CollGet) : State :=
  let c := { c0 with pulls := c0.pulls.filter (fun x => x.num ≠ g.num) }
  let l := (c.spans g.what g.part g.j).map (fun e => g.bytes e.1 e.2)
  let len := (c.partElems g.part).length
  match g.what with
  | .partial_ =>
    let who := (bitmapList c.gx (l.getD 1 [])).filter (fun i => c.below g.part g.j i)
    s.collGo cl { c with arrived := c.arrived ++ [(g.part, g.j, decodeForm (c.form c.me g.j) len (l.getD 0 []), who)] }
  | .raw => s.collGo cl { c with raws := c.raws ++ [(g.part, g.j, decodeForm (c.form c.me g.j) len (l.getD 0 []))] }
  | .result =>
    let n := match tidFmt c.dst with | some t => t.bytes | none => 1
    let s1 := s.collLand cl c (fun r e => if c.members.contains r then some (((l.getD 0 []).drop (n * e)).take n) else none)
    (s1.collEnd cl c 0xF0 0).post .collStart { clus := cl }
  | .slice => s.collGo cl { c with slices := c.slices ++ [(g.j, l)] }

/-- The event COLL_PULL_LANDED for cluster inp.clus: the sequencer's pull inp.id reads what it lacks, and lands when its units have come. -/
def execCollPullLanded (s : State) : Out :=
  let cl := s.inp.clus
  match s.collRunning cl with
  | none => .next s
  | some c =>
    match c.pulls.find? (fun g => g.num = s.inp.id) with
    | none => .next s
    | some g =>
      match s.seqRead cl c g.num g.units with
      | .fail t code => .next ((t.collAbort cl c code).post .collStart { clus := cl })
      | .wait t d => .next (t.setColl cl d)
      | .have_ t d =>
        match t.collMaps cl d with
        | .fail u code => .next ((u.collAbort cl d code).post .collStart { clus := cl })
        | .wait u e => .next (u.setColl cl e)
        | .have_ u e =>
          match e.pulls.find? (fun x => x.num = g.num) with
          | some h => .next (u.collTake cl e h)
          | none => .next u

/-- The event TNODE_EXPIRY for cluster inp.clus (R356). -/
def execTnodeExpiry (s : State) : Out :=
  match s.collRunning s.inp.clus with
  | some c =>
    if c.phase = .running && c.kind.reduces && !c.timedOut && c.tnode ≠ 0 && usCycles c.tnode ≤ s.since c.started then
      .next (s.collGo s.inp.clus { c with timedOut := true, pulls := c.pulls.filter (fun g => g.what ≠ .partial_) })
    else .next s
  | none => .next s

/-- The event TLIM_EXPIRY for cluster inp.clus: the oldest collective there that has not ended within its limit, counted from its issue, aborts
(R360). -/
def execTlimExpiry (s : State) : Out :=
  match (s.collsOf s.inp.clus).find? (fun c => c.phase ≠ .finishing && c.status = 0 && c.tlim ≠ 0 && usCycles (1000 * c.tlim) ≤ s.since c.issued) with
  | some c => .next ((s.collAbort s.inp.clus c cLINK_TIMEOUT).post .collStart { clus := s.inp.clus })
  | none => .next s

end Sys2Proof.Machine
end

