-- ==== Sys2Proof/Machine/Fetch.lean ====
section
/-! DEFINITION. What comes before an instruction's own effect (R363): fetch (R54, R55, R141), a trap or breakpoint pending
from an image (R382), a breakpoint match (R369), and decoding (R150); and the choice of the next context (R121, R122). -/

namespace Sys2Proof.Machine

/-! ### Fetch -/

/-- The code window of a context (R54). -/
def Ctx.inWindow (c : Ctx) (a : DWord) : Bool := c.cbase ≤ a.toNat && a.toNat < c.cbase + c.cpages * 4096

/-- What the fetch of a halfword gives. -/
inductive Fetched where
  | half (lo hi : Byte)
  | wait (s : State) (w : Wait)
  | trap (code : Byte) (xaddr : DWord)

/-- Fetch of one halfword for the context at p: window, translation, page type, and the code unit the core holds (R54,
R55, R141). -/
def State.fetchHalf (s : State) (p : Pos) (a : DWord) : Fetched :=
  let c := s.ctx p
  if !c.inWindow a then .trap cFETCH_BOUND a
  else
    match s.translate p.clus (.ctx p) c.aspc .read a .fetch with
    | .trap code => .trap code a
    | .miss => .wait ((s.startWalk p.clus c.aspc .read a .fetch (.ctx p)).endTurn p) .xlate
    | .ok pa t =>
      if t.type = .sealed then .trap cSEALED_LOAD a
      else
        match (s.core p.clus p.core).code.find? (fun u => u.1 = pa / 32 && u.2.1 = t.key) with
        | some u => .half (u.2.2.getD (pa % 32) 0) (u.2.2.getD (pa % 32 + 1) 0)
        | none =>
          if s.dead.getLsbD (paPkg pa) then .trap cDEAD_PEER a
          else .wait (s.post .fetchLineArrival { pos := p, n := pa / 32, id := t.key }) .fetchLine

/-- A code unit arrives at a core (R120). -/
def State.codeArrives (s : State) (p : Pos) (unit key : Nat) (l : List Byte) : State :=
  (s.modCore p.clus p.core (fun k => { k with code := k.code.filter (fun u => !(u.1 = unit && u.2.1 = key)) ++ [(unit, key, l)] })).wakeAll
    (fun q w => q.clus = p.clus && q.core = p.core && w = .fetchLine)

/-- The event FETCH_LINE_ARRIVAL: the unit inp.n under key slot inp.id reaches the core of inp.pos (R55, R120). An owner port
that refuses, or a poisoned line, ends the fetch in a trap. -/
def execFetchLineArrival (s : State) : Out :=
  let p := s.inp.pos
  let pa := 32 * s.inp.n
  let c := s.ctx p
  if c.st ≠ .blocked .fetchLine then .next s
  else if paPkg pa ≠ s.pkg then
    .next (s.askPkg p.clus pa s.inp.id 32 (.fetch p pa s.inp.id))
  else if !s.isHome p.clus pa && s.ownerRefuses (s.clus p.clus).fn pa then .next (s.takeTrap p cPERM c.pc 0 c.pc)
  else if s.poison.contains (pa / 64) then .next ((s.sawPoison c.bast).takeTrap p cDEAD_PEER c.pc 0 c.pc)
  else
    let l := match (if s.isHome p.clus pa then s.shadowOf p.clus c.bast pa else none) with
      | some x => (x.drop (pa % 64)).take 32
      | none => if s.isHome p.clus pa then s.bytesAt pa s.inp.id 32 else (s.ownerRead pa s.inp.id 32).1
    .next ((s.noteRead c.bast pa).codeArrives p s.inp.n s.inp.id l)

/-- The instruction at the pc of a context: its bytes, or what stops the fetch. -/
inductive FetchedInstr where
  | bytes (l : List Byte)
  | wait (s : State) (w : Wait)
  | trap (code : Byte) (xaddr : DWord)

def State.fetchInstr (s : State) (p : Pos) : FetchedInstr :=
  let pc := (s.ctx p).pc
  match s.fetchHalf p pc with
  | .trap code a => .trap code a
  | .wait t w => .wait t w
  | .half b0 b1 =>
    if !b0.getLsbD 0 then .bytes [b0, b1]
    else
      match s.fetchHalf p (pc + 2) with
      | .trap code a => .trap code a
      | .wait t w => .wait t w
      | .half b2 b3 => .bytes [b0, b1, b2, b3]

/-- The bits of fetched bytes (R151). -/
def bytesBits (l : List Byte) : Word := bytesWord (l ++ [0, 0])

/-! ### Breakpoints (R369) -/

/-- The lowest breakpoint register that matches the pc. -/
def Ctx.bpMatch (c : Ctx) : Option Nat :=
  if (c.debug || c.sys) && !c.skipbp then (List.range 4).find? (fun i => c.bpa.toList.getD i 0 ≠ 0 && c.bpa.toList.getD i 0 = c.pc)
  else none

def CtxSt.isReady : CtxSt → Bool
  | .ready => true
  | .free => false
  | .halted => false
  | .blocked _ => false

/-- A context that may issue: READY, and not halted at a boundary (R377, R108). -/
def Ctx.runnable (c : Ctx) : Bool := c.st.isReady && !c.stop

/-- A context that may issue, or that waits at a barrier whose generation has changed: its instruction runs again and completes (R307). -/
def State.canRun (s : State) (p : Pos) : Bool := (s.ctx p).runnable || (s.genMoved p && !(s.ctx p).stop)

/-! ### What a context does next (R363) -/

/-- The context at p is about to execute: something else happens first, or this instruction runs. -/
inductive Ready where
  | other (s : State)
  | instr (i : Instr)

/-- Whether some follower's forward queue is full (R126). -/
def State.queueFull (s : State) (p : Pos) : Bool :=
  match (s.ctx p).convoy with
  | some v => v.leader && s.ctxs.any (fun e => sameConvoy v.id p e.1 e.2 &&
      (match e.2.convoy with | some x => x.inside && !x.leader && 16 ≤ x.queue.length | none => false))
  | none => false

/-- Decode bytes, or take ILLEGAL with the bits in XINFO (R150, R151). -/
def State.decodeAt (s : State) (p : Pos) (l : List Byte) : Ready :=
  match decode l with
  | .ok r => .instr r.1
  | .error _ => .other (s.takeTrap p cILLEGAL 0 (bytesBits l) (s.ctx p).pc)

/-- Pending traps and breakpoints, then decoding. -/
def State.afterFetch (s : State) (p : Pos) (l : List Byte) : Ready :=
  let c := s.ctx p
  match c.ptrap with
  | some t => .other ((s.setCtx p { c with ptrap := none }).takeTrap p t.code t.xaddr t.xinfo c.pc)
  | none =>
    if c.pdbg then .other ((s.setCtx p { c with pdbg := false }).takeTrap p cBKPT 0 0 c.pc)
    else
      match c.bpMatch with
      | some i => .other (s.takeTrap p cBKPT 0 (BitVec.ofNat 32 (1 + 2 * i)) c.pc)
      | none => s.decodeAt p l

/-- A follower's next instruction: the head of its queue (R125). -/
def Ctx.forwarded (c : Ctx) : Option Fwd :=
  match c.convoy with
  | some v => if v.inside && !v.leader then v.queue.head? else none
  | none => none

/-- A follower inside a convoy waits for its leader while its queue is empty (R125). -/
def Ctx.starved (c : Ctx) : Bool :=
  match c.convoy with
  | some v => v.inside && !v.leader && v.queue = []
  | none => false

def State.prepare (s : State) (p : Pos) : Ready :=
  let c := s.ctx p
  if s.queueFull p then .other (s.block p .forward)
  else if c.starved then .other (s.block p .forward)
  else
    match c.forwarded with
    | some f => s.afterFetch p (wordBytes f.bits |>.take f.len)
    | none =>
      match s.fetchInstr p with
      | .trap code a => .other (s.takeTrap p code a 0 c.pc)
      | .wait t w => .other (t.block p w)
      | .bytes l => s.afterFetch p l

/-- The event BREAKPOINT_MATCH: a READY context whose pc matches takes BKPT before the instruction, unless its fetch or what is pending from an
image comes first (R363). -/
def execBreakpointMatch (s : State) : Out :=
  let c := s.ctx s.inp.pos
  if !c.runnable || c.bpMatch.isNone then .next s
  else
    match s.prepare s.inp.pos with
    | .other t => .next t
    | .instr _ => .next s

/-! ### Turns (R121, R122) -/

/-- A wait that keeps the turn of its core (R122). -/
def CtxSt.keepsTurn : CtxSt → Bool
  | .blocked w => w.keepsTurn
  | .free => false
  | .ready => false
  | .halted => false

/-- The quantum of a core's turn has run out: 2^14 cycles since its first issue (R122). -/
def State.quantumOver (s : State) (c n : Nat) : Bool := (s.core c n).qexp || 2 ^ 14 ≤ (s.clk - (s.core c n).turnAt).toNat

/-- The context of a core that issues next: the turn goes on, and a wait may keep it, unless its quantum has run out and another context
is READY; else ring order from it (R121, R122). -/
def State.nextOn (s : State) (c n : Nat) : Option Pos :=
  let k := s.core c n
  let rdy := fun x => s.canRun ⟨c, n, x % 4⟩
  let x := k.turn
  let holder := s.ctx ⟨c, n, x % 4⟩
  if k.turnOn && (rdy x || (holder.st.keepsTurn && !holder.stop)) &&
      !((rdy (x + 1) || rdy (x + 2) || rdy (x + 3)) && s.quantumOver c n) then
    (if rdy x then some ⟨c, n, x % 4⟩ else none)
  else ([1, 2, 3, 4].find? (fun j => rdy (x + j))).map (fun j => ⟨c, n, (x + j) % 4⟩)

/-- The context that runs where the schedule names none: the current core goes on, else the first core that can issue. -/
def State.nextReady (s : State) : Option Pos :=
  match s.nextOn s.cur.clus s.cur.core with
  | some p => some p
  | none => s.ctxs.findSome? (fun e => if s.canRun e.1 then s.nextOn e.1.clus e.1.core else none)

/-- A context takes or keeps its core's turn; one that issues its last instruction before a save halts at this CLK (R379). -/
def State.issue (s : State) (p : Pos) : State :=
  let t := ({ s.unstall p with cur := p } : State).modCore p.clus p.core (fun k =>
    if k.turn = p.ctx && k.turnOn then k else { k with turn := p.ctx, turnOn := true, turnAt := s.clk, qexp := false })
  if (s.ctx p).last then t.modClus p.clus (fun k => { k with pre := { k.pre with clkh := s.clk } }) else t

/-- The event QUANTUM_EXPIRY: the quantum of a core's turn has run out; before its 2^14 cycles it has no effect (R122). -/
def execQuantumExpiry (s : State) : Out :=
  .next (s.modCore s.inp.clus s.inp.core (fun k => { k with qexp := k.turnOn && (k.qexp || 2 ^ 14 ≤ (s.clk - k.turnAt).toNat) }))

end Sys2Proof.Machine
end

