-- ==== Sys2Proof/Machine/Lease.lean ====
section
/-! DEFINITION. Leases (R340 to R347): LEASE, LEASEQ, LEASEREL, DEADQ and the events of requests, answers, waits and terms. -/

namespace Sys2Proof.Machine

/-! ### Grants and revocation (R341) -/

/-- Colours attributed to a function (R340). -/
def Fabric.attributed (f : Fabric) (fn : Nat) : Nat := (f.grants.filter (fun e => e.2.fn = fn)).foldl (fun n e => n + e.2.lanes.length) 0

/-- FAB_QUOTAf.QUOTA. -/
def Fabric.quotaOf (f : Fabric) (fn : Nat) : Nat := Assoc.get 0 fn f.quota

/-- Colours of a destination's floor: FLOOR in each fibre group that has a lane routed to it (R340). -/
def Fabric.floorSize (f : Fabric) (dest : Nat) : Nat :=
  ((List.range 8).filter (fun g => (f.lanesTo dest).any (fun l => l / 128 = g))).length * f.floor

/-- Leased colours towards a destination. -/
def Fabric.leased (f : Fabric) (dest : Nat) : Nat := ((f.grants.filter (fun e => e.2.dest = dest)).map (fun e => e.2.lanes.length)).foldl (· + ·) 0

/-- Leased colours towards a destination that are already revoked. -/
def Fabric.revokedTo (f : Fabric) (dest : Nat) : Nat :=
  ((f.grants.filter (fun e => e.2.dest = dest && e.2.revoked)).map (fun e => e.2.lanes.length)).foldl (· + ·) 0

/-- Colours towards a destination whose grants have ended and whose lanes only wait for acknowledgement. -/
def Fabric.closingTo (f : Fabric) (dest : Nat) : Nat := (f.colours.filter (fun e => e.1.2 = dest && e.2.on && e.2.closing)).length

/-- Whether items wait for a destination or flits to it are unacknowledged (R341). -/
def State.queued (s : State) (dest : Nat) : Bool :=
  s.items.any (fun it => s.fabric.hop it.dpkg = some dest) || s.fabric.colours.any (fun e => e.1.2 = dest && e.2.flits ≠ [])

/-- A grant may be revoked without taking its destination below its floor or its standing colour, once the grants already revoked have
ended (R341). -/
def State.revocable (s : State) (g : Grant) : Bool :=
  let left := s.fabric.held g.dest - (s.fabric.closingTo g.dest + s.fabric.revokedTo g.dest + g.lanes.length)
  !g.revoked && 1 ≤ left && (!s.queued g.dest || s.fabric.floorSize g.dest ≤ left)

/-- The first of a list that none is better than. -/
def pickBest {α : Type} (better : α → α → Bool) : List α → Option α
  | [] => none
  | a :: l => some (l.foldl (fun b x => if better x b then x else b) a)

/-- The grant R341 revokes first: of the destination with most leased colours, then the lower package, then the newer. -/
def State.victim (s : State) (lanes : List Nat) : Option (Nat × Grant) :=
  pickBest (fun a b =>
      let x := s.fabric.leased a.2.dest
      let y := s.fabric.leased b.2.dest
      y < x || (x = y && (a.2.dest < b.2.dest || (a.2.dest = b.2.dest && b.2.began < a.2.began))))
    (s.fabric.grants.filter (fun e => s.revocable e.2 && e.2.lanes.any (fun l => lanes.contains l)))

/-- Mark grants revoked until their lanes among those wanted make up what is missing. -/
def State.revoke (s : State) (lanes : List Nat) (missing : Nat) : Nat → State
  | 0 => s
  | n + 1 =>
    if missing = 0 then s
    else
      match s.victim lanes with
      | none => s
      | some e =>
        (s.modFab (fun f => { f with grants := Assoc.put e.1 { e.2 with revoked := true } f.grants })).revoke lanes
          (missing - (e.2.lanes.filter (fun l => lanes.contains l)).length) n

/-- Lanes among those wanted whose grants are revoked already and have not ended. -/
def Fabric.coming (f : Fabric) (lanes : List Nat) : Nat :=
  ((f.grants.filter (fun e => e.2.revoked)).map (fun e => (e.2.lanes.filter (fun l => lanes.contains l)).length)).foldl (· + ·) 0

/-- A grant ends: its lanes take no new flits and go dark once acknowledged (R341). -/
def State.endGrant (s : State) (id : Nat) (g : Grant) : State :=
  let s1 := s.modFab (fun f => { g.lanes.foldl (fun f l => f.modColour l g.dest (fun c => { c with closing := true })) f with grants := Assoc.del id f.grants })
  g.lanes.foldl (fun u l => u.closeLane l g.dest) s1

/-! ### LEASE (R343, R344) -/

/-- LEASEST (R192). -/
def leasestWord (pend : Bool) (dest held : Nat) : Word := BitVec.ofNat 32 ((if pend then 2 ^ 31 else 0) + dest % 4096 * 65536 + min 255 held)

/-- Where the dark lanes cannot meet a waiting request, grants are marked revoked for it (R341). -/
def State.revokeFor (s : State) (l : Lease) : State :=
  let lanes := s.fabric.lanesTo l.dest
  let have_ := (oneEach (s.fabric.offered l.dest)).length + s.fabric.coming lanes
  if have_ < l.nmin then s.revoke lanes (l.nmin - have_) s.fabric.grants.length else s

/-- Before a term ends the requests that still wait mark grants again, in the order of R342: what protected one may be gone (R341). -/
def State.revokeWaiting (s : State) : State :=
  (r342Order (fun (e : Nat × Lease) => usCycles (8 * e.2.term) < s.since e.2.asked) (fun e => e.2.prio) s.fabric.leases).foldl (fun u e => u.revokeFor e.2) s

/-- A request issues (R341, R344): quota and impossibility are decided at once; grants are marked revoked where dark lanes cannot meet it,
and the request goes to the destination's port with the lanes that are dark now. It is offered again as lanes go dark. -/
def State.sendLease (s : State) (id : Nat) (l : Lease) : State :=
  let f := s.fabric
  let others := ((f.partners.filter (fun e => e.1 ≠ l.dest && e.2.st = .up)).map (fun e => f.floorSize e.1)).foldl (· + ·) 0
  let lanes := f.lanesTo l.dest
  let s1 := s.modFab (fun f => { f with leases := Assoc.put id l f.leases })
  if f.quotaOf l.fn < f.attributed l.fn + l.nmin then s1.post .leaseAnswer { id := id, load := .leaseAns (.refuse 1) }
  else if lanes.length - others < l.nmin then s1.post .leaseAnswer { id := id, load := .leaseAns (.refuse 2) }
  else (s1.revokeFor l).offerLanes id l false

def execLease (a : Reg) (tag : Tag) (s : State) : Out :=
  runInstr (.lease a tag) s (fun t =>
    if t.me.basting then .wait t .held
    else needFree t tag (
      let addr := (t.me.reg a).toNat
      if addr % 32 ≠ 0 || 0x8000 < addr + 32 then pullDesc addr 0
      else if t.blockPoison addr 16 then poisonEff t (BitVec.ofNat 64 addr) 0
      else
        let w := t.descWord addr 0
        let w8 := t.descWord addr 8
        let dest := (w.extractLsb' 52 12).toNat
        let term := (w.extractLsb' 32 16).toNat
        let nwant := (w.extractLsb' 16 11).toNat
        let nmin := (w.extractLsb' 0 11).toNat
        if w.extractLsb' 48 4 ≠ 0 || w.extractLsb' 27 5 ≠ 0 || w.extractLsb' 11 5 ≠ 0 || term = 0 || nwant = 0 || 1024 < nwant || nmin = 0 ||
          nwant < nmin || dest = t.pkg then pullDesc addr 0
        else if w8.extractLsb' 32 32 ≠ 0 then pullDesc addr 8
        else if t.dead.getLsbD dest then .trap cDEAD_PEER 0 0
        else if !t.fabric.isPartner dest then .trap cLEASE_DENIED 0 1
        else
          let l : Lease := ⟨t.cur, tag.toNat, addr, t.myClus.fn, dest, nwant, nmin, term,
            t.effPrio (launchId t.me.lnch).1 (t.recordOf t.me.lnch), (w8.extractLsb' 0 32).toNat, t.clk⟩
          let u := { t with nextId := t.nextId + 1 }.issueTag tag (.lease t.cur.ctx) t.nextId
          .done ((u.modMe (fun c => { c with leasest := c.leasest ||| 0x80000000#32 })).sendLease t.nextId l)))

/-! ### Completion (R344) -/

/-- A lease request completes: GOT and WHY, TEND, LEASEST, the tag, in this order. -/
def State.leaseEnd (s : State) (id : Nat) (l : Lease) (got why : Nat) (tend : DWord) (err : Byte) : State :=
  let p := l.pos
  let pa := corePa s.pkg p.clus p.core l.addr
  let s0 := s.modFab (fun f => { f with leases := Assoc.del id f.leases })
  let st := leasestWord false l.dest (s.fabric.held l.dest)
  let write := fun (u : State) (a : Nat) (v : DWord) =>
    let r := u.redirectCells p.clus id 0 (cellsAt a (dwordBytes v))
    u.performWrite p.clus none r.1 r.2
  match (s.clus p.clus).savedOp id with
  | some v =>
    let s2 := write (write s0 (pa + 0x10) (BitVec.ofNat 64 (why * 2 ^ 56 + got))) (pa + 0x18) tend
    (s2.applyCompletion p.clus v (.lease p st)).endOp p.clus p.core l.tag id err
  | none =>
    if ((s.core p.clus p.core).tag l.tag).op ≠ id then s0
    else
      let s2 := write (write s0 (pa + 0x10) (BitVec.ofNat 64 (why * 2 ^ 56 + got))) (pa + 0x18) tend
      let s3 := if (s.ctx p).st = .free then s2 else s2.modCtx p (fun c => { c with leasest := st })
      s3.endOp p.clus p.core l.tag id err

/-- The event LEASE_ANSWER for request inp.id: the grant's lanes carry traffic from here on, within NWANT and the function's quota; where too
few of them are still dark, the request is offered again; or a refusal, or the partner is dead. -/
def execLeaseAnswer (s : State) : Out :=
  match s.fabric.leases.find? (fun e => e.1 = s.inp.id), s.inp.load with
  | some e, .leaseAns a =>
    let l := e.2
    (match a with
     | .dead => .next (s.leaseEnd e.1 l 0 0 0 cDEAD_PEER)
     | .refuse why => .next (s.leaseEnd e.1 l 0 why 0 cLEASE_DENIED)
     | .grant lanes _ =>
       let room := s.fabric.quotaOf l.fn - s.fabric.attributed l.fn
       let ls := (oneEach (lanes.filter (fun r => (s.fabric.offered l.dest).contains r))).take (min l.nwant room)
       if room < l.nmin then .next (s.leaseEnd e.1 l 0 1 0 cLEASE_DENIED)
       else if ls.length < l.nmin then .next (s.offerLanes e.1 l true)
       else
         let tend := s.clk + BitVec.ofNat 64 (usCycles l.term)
         let s1 := ({ s with nextId := s.nextId + 1 } : State).modFab (fun f => { ls.foldl (fun f r => f.light r l.dest (some e.1) false s.clk) f with
           grants := Assoc.put e.1 ⟨l.dest, l.fn, ls.map (·.lane), l.term, tend, false, s.nextId⟩ f.grants })
         .next ((s1.seeDark l.dest).leaseEnd e.1 l ls.length 0 tend 0))
  | _, _ => .next s

/-- The event LEASE_WAIT_EXPIRY for request inp.id. -/
def execLeaseWaitExpiry (s : State) : Out :=
  match s.fabric.leases.find? (fun e => e.1 = s.inp.id) with
  | some e => if e.2.waitt ≠ 0 && usCycles e.2.waitt ≤ s.since e.2.asked then .next (s.leaseEnd e.1 e.2 0 3 0 cLEASE_DENIED) else .next s
  | none => .next s

/-! ### This package as the destination (R342) -/

/-- The candidates of a request that can be paired here: their receive lanes carry no colour of a grant or of a partner's floor. -/
def Fabric.pairable (f : Fabric) (l : LeaseItem) : List Route := oneEach (l.lanes.filter (fun r => f.rxDark r.rx))

/-- Serve one request where at least NMIN lanes can be paired. -/
def State.serveReq (s : State) (l : LeaseItem) : Option State :=
  let ok := s.fabric.pairable l
  if ok.length < l.nmin then none
  else
    let got := ok.take l.nwant
    some ((s.modFab (fun f => { f with inbound := f.inbound ++ [⟨l.opkg, l.req, l.fn, got, false⟩] })).queueItem l.opkg 0 0
      (.leaseAnswer l.req (.grant got (s.clk + BitVec.ofNat 64 (usCycles l.term)))))

/-- Serve every waiting request that can be, in the order of R342. -/
def State.serveWaiting (s : State) : State :=
  (r342Order (fun (r : PortReq) => usCycles (8 * r.item.term) < s.since r.came) (fun r => r.item.prio) s.fabric.waiting).foldl (fun u r =>
    match u.serveReq r.item with
    | some v => v.modFab (fun f => { f with waiting := f.waiting.erase r })
    | none => u) s

/-- Leased colours that a holder has towards this package. -/
def Fabric.inboundOf (f : Fabric) (p : Nat) : Nat := ((f.inbound.filter (fun g => g.opkg = p)).map (fun g => g.lanes.length)).foldl (· + ·) 0

/-- A grant that lands here may be revoked: the colours left from its holder, once those already revoked have ended, are at least one and at
least FLOOR in each fibre group that joins the two (R341). What waits at the holder is not known here: it counts as queued traffic. -/
def Fabric.revocableIn (f : Fabric) (g : Inbound) : Bool :=
  let gone := ((f.inbound.filter (fun x => x.opkg = g.opkg && x.revoked)).map (fun x => x.lanes.length)).foldl (· + ·) 0
  let left := f.hears g.opkg - (gone + g.lanes.length)
  !g.revoked && 1 ≤ left && f.floorSize g.opkg ≤ left

/-- Mark grants that land here revoked: of the holder with most leased colours, then the newer (R341). -/
def Fabric.revokeIn (f : Fabric) (lanes : List Nat) (missing : Nat) : Nat → Fabric
  | 0 => f
  | n + 1 =>
    if missing = 0 then f
    else
      match pickBest (fun a b => f.inboundOf b.1.opkg < f.inboundOf a.1.opkg || (f.inboundOf b.1.opkg = f.inboundOf a.1.opkg && b.2 < a.2))
          (f.inbound.zipIdx.filter (fun g => f.revocableIn g.1 && g.1.lanes.any (fun x => lanes.contains x.rx))) with
      | none => f
      | some g =>
        ({ f with inbound := f.inbound.map (fun (x : Inbound) => if x.opkg = g.1.opkg && x.req = g.1.req then { x with revoked := true } else x) } : Fabric).revokeIn lanes
          (missing - (g.1.lanes.filter (fun x => lanes.contains x.rx)).length) n

/-- Whether a waiting request is the one that an item brings. -/
def PortReq.of (l : LeaseItem) (r : PortReq) : Bool := r.item.opkg = l.opkg && r.item.req = l.req

/-- A request comes, or comes again: it keeps its place in the order, oldest first, and one whose grant could not be taken up loses the grant. -/
def State.requestCame (s : State) (l : LeaseItem) : State :=
  s.modFab (fun f => { f with waiting := if f.waiting.any (PortReq.of l) then f.waiting.map (fun r => if PortReq.of l r then { r with item := l } else r)
                                         else f.waiting ++ [⟨l, s.clk⟩],
                              inbound := f.inbound.filter (fun g => !(g.opkg = l.opkg && g.req = l.req)) })

/-- The event LEASE_REQ: this package's port takes the request into its order and serves what it can; where lanes are missing it marks
grants revoked. A request with fewer candidates than NMIN waits for the source's next offer; an offer that crossed with the grant says
nothing new. -/
def execLeaseReq (s : State) : Out :=
  match s.inp.load with
  | .lease l =>
    if !l.anew && s.fabric.inbound.any (fun g => g.opkg = l.opkg && g.req = l.req) then .next s
    else
    let t := (s.requestCame l).serveWaiting
    if t.fabric.waiting.any (fun x => x.item.opkg = l.opkg && x.item.req = l.req) && l.nmin ≤ (oneEach l.lanes).length then
      let short := l.nmin - (t.fabric.pairable l).length
      let coming := (((t.fabric.inbound.filter (fun g => g.revoked)).flatMap (·.lanes)).filter (fun x => l.lanes.any (fun y => y.rx = x.rx))).length
      .next (t.modFab (fun f => f.revokeIn (l.lanes.map (·.rx)) (short - coming) f.inbound.length))
    else .next t
  | _ => .next s

/-- The event LANE_RETUNED (R327, R340): lane inp.n may send towards inp.id, or with inp.flag the destination's port has not paired it and it
stays dark, and the floor takes the next. With inp.slot = 1 this package is the destination: the partner inp.id asks for receive lane inp.ofs for a floor colour of its
lane inp.n, and this port pairs them where no colour lands there; with inp.slot = 2 that colour has gone dark, which the last one received
from a partner never does. -/
def execLaneRetuned (s : State) : Out :=
  let p := s.inp.id
  if s.inp.slot = 1 then
    if s.inp.ofs < 1024 && s.fabric.isPartner p && s.fabric.rxDark s.inp.ofs then
      .next (s.modFab (fun f => { f with rxFloor := f.rxFloor ++ [(p, s.inp.n, s.inp.ofs)] }))
    else .next s
  else if s.inp.slot = 2 then
    if 1 < s.fabric.hears p && s.fabric.rxFloor.contains (p, s.inp.n, s.inp.ofs) then
      .next (s.modFab (fun f => { f with rxFloor := f.rxFloor.erase (p, s.inp.n, s.inp.ofs) })).serveWaiting
    else .next s
  else if !((s.fabric.colour s.inp.n p).on && (s.fabric.colour s.inp.n p).tuning) then .next s
  else if s.inp.flag then
    .next ((s.modFab (fun f => { f.modColour s.inp.n p (fun c => { c with on := false, tuning := false }) with
      refused := f.refused ++ [(p, (f.colour s.inp.n p).route)] })).meetFloors)
  else .next ((s.modFab (fun f => f.modColour s.inp.n p (fun c => { c with tuning := false, sentAt := s.clk }))).seeDark p)

/-- The newest grants of a function end until its attributed total is within its quota (R341). -/
def State.quotaEnd (s : State) (fn : Nat) : Nat → State
  | 0 => s
  | n + 1 =>
    if s.fabric.attributed fn ≤ s.fabric.quotaOf fn then s
    else
      match pickBest (fun a b => b.2.began < a.2.began) (s.fabric.grants.filter (fun e => e.2.fn = fn)) with
      | some e => (s.endGrant e.1 e.2).quotaEnd fn n
      | none => s

/-- Colours of a floor above FLOOR go when a term ends (R329, R342). -/
def State.lowerFloors (s : State) : State :=
  s.fabric.partners.foldl (fun u e =>
    let extra := (List.range 8).flatMap (fun g =>
      ((u.fabric.colours.filter (fun x => x.1.2 = e.1 && x.2.on && x.2.grant = none && x.1.1 / 128 = g)).drop u.fabric.floor).map (fun x => x.1.1))
    let spare := if extra.length = u.fabric.held e.1 then extra.drop 1 else extra
    (spare.foldl (fun v l => (v.modFab (fun f => f.modColour l e.1 (fun c => { c with closing := true }))).closeLane l e.1)) u) s

/-- The event TERM_END: of this package's grant inp.id, which ends where it is revoked here or, with inp.slot = 1, by the destination's port; or with
inp.flag of the grant inp.n that partner inp.id holds here, which ends where this port has revoked it or, with inp.slot = 1, its holder has ended it. No
item of R334 carries what one port tells the other of a term's end: it comes with the event (log entry 52). -/
def execTermEnd (s : State) : Out :=
  if s.inp.flag then
    let g := s.fabric.inbound.find? (fun g => g.opkg = s.inp.id && g.req = s.inp.n)
    match g with
    | some g =>
      if g.revoked || s.inp.slot = 1 then
        .next (s.modFab (fun f => { f with inbound := f.inbound.filter (fun x => !(x.opkg = g.opkg && x.req = g.req)) })).serveWaiting
      else .next s
    | none => .next s
  else
    let s := s.revokeWaiting
    match s.fabric.grants.find? (fun e => e.1 = s.inp.id) with
    | some e =>
      if (s.clk - e.2.tend).toNat < 2 ^ 63 then
        if e.2.revoked || s.inp.slot = 1 then .next (s.endGrant e.1 e.2).lowerFloors
        else if s.fabric.quotaOf e.2.fn < s.fabric.attributed e.2.fn then
          let s1 := s.quotaEnd e.2.fn s.fabric.grants.length
          .next (s1.modFab (fun f => { f with grants := f.grants.map (fun x =>
            if x.1 = e.1 then (x.1, { x.2 with tend := x.2.tend + BitVec.ofNat 64 (usCycles x.2.term) }) else x) })).lowerFloors
        else
          .next (s.modFab (fun f => { f with grants := Assoc.put e.1 { e.2 with tend := e.2.tend + BitVec.ofNat 64 (usCycles e.2.term) } f.grants })).lowerFloors
      else .next s
    | none => .next s

/-! ### Queries (R339, R345, R346) -/

/-- An off-core query of the fabric port: held in a basting launch (R105, R347), else answered by FABRIC_QUERY_ANSWER. -/
def fabricQuery (q : Query) (d : Reg) (t : State) : Eff :=
  if t.me.basting then .wait t .held else .wait (t.post .fabricQueryAnswer { pos := t.cur }) (.query q d)

def pkgOf (w : Word) : Nat := (w.extractLsb' 0 12).toNat

def execDeadq (d p : Reg) (s : State) : Out := runInstr (.deadq d p) s (fun t => fabricQuery (.dead (pkgOf (t.me.reg p))) d t)
def execLeaseq (d p : Reg) (s : State) : Out := runInstr (.leaseq d p) s (fun t => fabricQuery (.lease (pkgOf (t.me.reg p))) d t)
def execLeaserel (d p n : Reg) (s : State) : Out :=
  runInstr (.leaserel d p n) s (fun t => fabricQuery (.release (pkgOf (t.me.reg p)) ((t.me.reg n).extractLsb' 0 11).toNat) d t)

def Train.code : Train → Nat
  | .down => 0
  | .cal => 1
  | .rtt => 2
  | .keys => 3
  | .windows => 4
  | .up => 5

/-- The word of DEADQ (R339). -/
def State.deadWord (s : State) (p : Nat) : Word :=
  if p = s.pkg then BitVec.ofNat 32 (5 * 2 ^ 28 + p * 2 ^ 16)
  else
    let f := s.fabric
    let st := match f.hop p with
      | some h => if h = p then ((f.partner p).st.code, p) else (6, h)
      | none => (7, 0)
    BitVec.ofNat 32 ((if s.dead.getLsbD p then 2 ^ 31 else 0) + st.1 * 2 ^ 28 + st.2 * 2 ^ 16 + Assoc.get 0 p f.causes * 2 ^ 12 + min 2047 (f.held p))

/-- The word of LEASEQ (R345). -/
def State.leaseWord (s : State) (fn p : Nat) : Word :=
  let gs := s.fabric.grants.filter (fun e => e.2.dest = p && e.2.fn = fn)
  let left := gs.map (fun e => if (s.clk - e.2.tend).toNat < 2 ^ 63 then 0 else (e.2.tend - s.clk).toNat / 2100)
  let tleft := match left with | [] => 0 | x :: xs => min 4095 (xs.foldl min x)
  BitVec.ofNat 32 ((if s.fabric.leases.any (fun e => e.2.dest = p && e.2.fn = fn) then 2 ^ 31 else 0) + tleft * 2 ^ 16 + min 2047 (s.fabric.held p))

/-- Split a grant so that n of its lanes stay. -/
def State.trimGrant (s : State) (id : Nat) (g : Grant) (n : Nat) : State :=
  if n = 0 then s.endGrant id g
  else
    let s1 := s.modFab (fun f => { (g.lanes.drop n).foldl (fun f l => f.modColour l g.dest (fun c => { c with closing := true })) f with
      grants := Assoc.put id { g with lanes := g.lanes.take n } f.grants })
    (g.lanes.drop n).foldl (fun u l => u.closeLane l g.dest) s1

/-- End grants of a function towards a package, newest first, until n colours are released; 0 releases all (R346). -/
def State.releaseLeases (s : State) (fn p : Nat) (all : Bool) : Nat → Nat → State × Nat
  | 0, _ => (s, 0)
  | k + 1, n =>
    if n = 0 && !all then (s, 0)
    else
      match pickBest (fun a b => b.2.began < a.2.began) (s.fabric.grants.filter (fun e => e.2.fn = fn && e.2.dest = p)) with
      | none => (s, 0)
      | some e =>
        let m := if all then e.2.lanes.length else min n e.2.lanes.length
        let r := (s.trimGrant e.1 e.2 (e.2.lanes.length - m)).releaseLeases fn p all k (n - m)
        (r.1, r.2 + m)

/-- The event FABRIC_QUERY_ANSWER for the context at inp.pos. -/
def execFabricQueryAnswer (s : State) : Out :=
  let p := s.inp.pos
  match (s.ctx p).st with
  | .blocked (.query q d) =>
    let fn := (s.clus p.clus).fn
    let r := match q with
      | .dead x => (s, s.deadWord x)
      | .lease x => (s, s.leaseWord fn x)
      | .release x n =>
        let y := s.releaseLeases fn x (n = 0) s.fabric.grants.length n
        (y.1, BitVec.ofNat 32 y.2)
    .next (((r.1.modCtx p (fun c => c.setReg d r.2)).completeAt p ((s.ctx p).pc + 4) true).haltedAt p)
  | _ => .next s

end Sys2Proof.Machine
end

