-- ==== Sys2Proof/Machine/Owner.lean ====
section
/-! DEFINITION. The owner port and its replies between packages (READ, READ_REPLY, ERROR, R334, R336), the reports of relays and the
declaration of a dead peer (R337), and requests for write generations (R108). -/

namespace Sys2Proof.Machine

/-! ### READ (R334, R336) -/

/-- The event READ: the owner port answers with owner_read data and the publication stamp, or with a status. -/
def execRead (s : State) : Out :=
  match s.inp.load with
  | .read it =>
    let st := s.readStatus it
    let r := if st = 0 then s.ownerRead it.pa it.key it.len else ([], 0)
    .next (s.queueItem it.opkg (paClus it.pa) it.oclus (.readReply ⟨it.req, st, r.2, Assoc.get 0 (it.pa / 4096) s.gens, r.1⟩))
  | _ => .next s

/-! ### READ_REPLY and ERROR -/

/-- Who reads for a basting launch. -/
def State.readerBast (s : State) : ReadFor → Option Nat
  | .load p => (s.ctx p).bast
  | .fetch p _ _ => (s.ctx p).bast
  | .pull id _ => (s.pull? id).bind (·.bast)
  | .matrix c tile id _ => ((s.tile c tile).cmds.find? (fun m => m.id = id)).bind (·.bast)
  | .walk c id => ((s.clus c).walks.find? (fun w => w.id = id)).bind s.walkBast
  | .poll _ _ => none
  | .group _ _ => none
  | .coll _ _ _ _ => none
  | .dbg _ => none
  | .front _ _ _ => none

/-- The end of a debug access (R386). -/
def State.dbgEnd (s : State) (c : Nat) (code : Byte) (data : Option DWord) : State :=
  s.modClus c (fun k => { k with dbg := { cmd := none, data := data.getD k.dbg.data, busy := false, done := true, err := code ≠ 0, code := code } })

/-- A unit that the front end reads for a queue has come, empty where its read failed: the reading goes on (R96, R103). -/
def State.frontGot (s : State) (q rid unit stamp : Nat) (l : List Byte) : State :=
  if (s.queue q).rid ≠ rid then s
  else
    let s1 := s.modQueue q (fun k => { k with got := Assoc.put unit (stamp, l) k.got })
    if (s1.queue q).trying then s1.post .basteStart { id := q } else s1.post .recordArrival { id := q }

/-- The reader has its data. -/
def State.readDone (s : State) (o : OutRead) (r : ReplyItem) : State :=
  match o.who with
  | .load p =>
    (match (s.ctx p).st with
     | .blocked (.load q) => s.foreignLoad p q r.bytes r.stamp true
     | _ => s)
  | .walk c id =>
    (match (s.clus c).walks.find? (fun w => w.id = id) with
     | some w => s.walkOn c w o.pa (bytesDWord r.bytes)
     | none => s)
  | .pull id unit =>
    (match s.pull? id with
     | some p => s.pullGot id p unit r.bytes
     | none => s)
  | .poll c id =>
    (match (s.clus c).polls.find? (fun w => w.id = id) with
     | some w =>
       let v := bytesDWord r.bytes
       if w.thr.toNat ≤ v.toNat then
         (s.modClus c (fun k => { k with polls := k.polls.filter (fun x => x.id ≠ id) })).sendDone s.pkg (s.doneOf w v r.stamp 0)
       else s.hearUnwatch w.oclus w.core w.tag
     | none => s)
  | .fetch p pa key => if (s.ctx p).st = .blocked .fetchLine then s.codeArrives p (pa / 32) key r.bytes else s
  | .matrix c tile id unit =>
    (s.modTile c tile (fun t => t.modCmd id (fun m => { m with got := Assoc.put unit r.bytes m.got }))).post .bFetchDone { clus := c }
  | .group p unit =>
    let s1 := { s with groupReads := Assoc.put (p, unit) r.bytes s.groupReads }
    if (s1.ctx p).st = .blocked .behind then s1.wake p else s1
  | .coll c id num unit => s.collUnit c id num unit r.bytes
  | .dbg c => s.dbgEnd c 0 (some (bytesDWord r.bytes))
  | .front q rid unit => s.frontGot q rid unit r.stamp r.bytes

/-- The reader's request ends with a code (R210 row 8, R230, R304, R336). -/
def State.readFail (s : State) (o : OutRead) (code : Byte) : State :=
  match o.who with
  | .load p =>
    (match (s.ctx p).st with
     | .blocked (.load q) => s.loadTrap p q code
     | _ => s)
  | .walk c id =>
    (match (s.clus c).walks.find? (fun w => w.id = id) with
     | some w => s.walkFail c w code
     | none => s)
  | .pull id _ =>
    (match s.pull? id with
     | some p => s.pullErr id p code
     | none => s)
  | .poll c id =>
    (match (s.clus c).polls.find? (fun w => w.id = id) with
     | some w => (s.modClus c (fun k => { k with polls := k.polls.filter (fun x => x.id ≠ id) })).sendDone s.pkg (s.doneOf w 0 0 code)
     | none => s)
  | .fetch p _ _ => if (s.ctx p).st = .blocked .fetchLine then s.takeTrap p code (s.ctx p).pc 0 (s.ctx p).pc else s
  | .matrix c tile id _ =>
    (match (s.tile c tile).cmds.find? (fun m => m.id = id) with
     | some m => s.cmdEnds c tile m code
     | none => s)
  | .group p _ => if (s.ctx p).st = .blocked .behind then s.takeTrap p code 0 0 (s.ctx p).pc else s
  | .coll c id _ _ => s.collFail c id code
  | .dbg c => s.dbgEnd c code none
  | .front q rid unit => s.frontGot q rid unit 0 []

/-- A request leaves the list of those outstanding. -/
def State.dropRead (s : State) (req : Nat) : State := { s with outReads := s.outReads.filter (fun o => o.req ≠ req) }

/-- The event READ_REPLY: status, stamp and data for an outstanding request. An owner answers DEAD_PEER for a poisoned line, which unpicks a basting
reader (R398). -/
def execReadReply (s : State) : Out :=
  match s.inp.load with
  | .reply r =>
    (match s.outReads.find? (fun o => o.req = r.req) with
     | none => .next s
     | some o =>
       let s1 := s.dropRead r.req
       if r.status ≠ 0 then .next ((if r.status = cDEAD_PEER then s1.sawPoison (s1.readerBast o.who) else s1).readFail o r.status)
       else
         let s2 := ({ s1 with gens := Assoc.put (o.pa / 4096) r.gen s1.gens }).noteRead (s1.readerBast o.who) o.pa
         .next (s2.readDone o r))
  | _ => .next s

/-- The request of an ITYPE and number ends with a code (R335): a read or a pull's read, a watch, a message, a lease request, a request for generations. An
item that is no request ends nothing. -/
def State.requestError (s : State) (kind req : Nat) (code : Byte) : State :=
  if kind = 4 then
    match s.clusters.findSome? (fun e => e.2.asked.find? (fun w => w.op = req)) with
    | some w => s.sendDone s.pkg (s.doneOf w 0 0 code)
    | none => s
  else if kind = 6 then s.post .msgAnswer { pos := posOf req, id := numOf req, load := .msgAns .dead }
  else if kind = 8 then
    match s.fabric.leases.find? (fun e => e.1 = req) with
    | some e => s.leaseEnd e.1 e.2 0 0 0 code
    | none => s
  else if kind = 10 then s.doom req
  else if kind ≠ 0 && kind ≠ 2 then s
  else
    match s.outReads.find? (fun o => o.req = req) with
    | some o => (s.dropRead req).readFail o code
    | none => s

/-- The event ERROR: the request of ITYPE inp.ofs with number inp.id ends with code inp.n (R335). -/
def execError (s : State) : Out := .next (s.requestError s.inp.ofs s.inp.id (BitVec.ofNat 8 s.inp.n))

/-! ### Dead peers (R337) -/

/-- Positions of a core's tags that await a watch of a package. -/
def Core.watchTags (k : Core) (gone : Nat → Bool) : List (Nat × Nat × Nat) :=
  (List.range 64).filterMap (fun t =>
    match (k.tag t).st with
    | .busy (.watch i _ p) => if gone p then some (t, p, i) else none
    | _ => none)

/-- Every request that awaits a reply of one of the packages completes with DEAD_PEER (step 3). -/
def State.failPending (s : State) (gone : Nat → Bool) : State :=
  let s1 := (s.outReads.filter (fun o => gone o.pkg)).foldl (fun u o => (u.dropRead o.req).readFail o cDEAD_PEER) s
  let s2 := s1.cores.foldl (fun u e => (e.2.watchTags gone).foldl (fun v t =>
    v.watchDone ⟨e.1.1, e.1.2, t.1, t.2.1, 0, 0, 0, cDEAD_PEER, t.2.2, 0, 0⟩) u) s1
  let s2 := s2.clusters.foldl (fun u e =>
    let lost := (e.2.asked ++ e.2.polls).filter (fun w => gone (paPkg w.pa))
    (lost.filter (fun w => w.core = frontCore || w.core = seqCore)).foldl (fun v w => v.post .watchDone { load := .done (v.doneOf w 0 0 cDEAD_PEER) })
      (u.modClus e.1 (fun k => { k with asked := k.asked.filter (fun w => !gone (paPkg w.pa)), polls := k.polls.filter (fun w => !gone (paPkg w.pa)) }))) s2
  let s2 := (s2.pulls.filter (fun e => e.2.err = 0 && e.2.bytes.any (fun b => gone (paPkg b.src) && !Assoc.has (b.src / 32) e.2.got))).foldl
    (fun u e => u.pullErr e.1 e.2 cDEAD_PEER) s2
  let s2 := s2.ctxs.foldl (fun u e =>
    match e.2.st with
    | .blocked (.load r) => if gone (paPkg r.pa) && (u.ctx e.1).st = e.2.st then u.loadTrap e.1 r cDEAD_PEER else u
    | _ => u) s2
  let s2 := (s2.bastings.filter (fun e => e.2.awaiting.any (fun g => gone (paPkg (4096 * g))))).foldl (fun u e => u.doom e.1) s2
  let s3 := s2.clusters.foldl (fun u e => (e.2.outMsgs.filter (fun o => gone o.2.pkg)).foldl (fun v o => v.msgAnswer o.2.pos o.1 .dead) u) s2
  let s3 := s3.ctxs.foldl (fun u e =>
    match e.2.ans with
    | some (.send, _) => if e.2.full && gone e.2.ansPkg then u.liveAnswer e.1 e.2.ansId .dead else u
    | _ => u) s3
  let s3 := s3.replay.foldl (fun u e =>
    match e.2 with
    | .msg it => if gone (destPkg it.dest) then u.post .basteCommitted { pos := { it.src with ctx := it.src.ctx + 8 }, id := it.num, flag := true, load := .msgAns .dead } else u
    | _ => u) s3
  let s4 := s3.fabric.leases.foldl (fun u e => if gone e.2.dest then u.leaseEnd e.1 e.2 0 0 0 cDEAD_PEER else u) s3
  s4.clusters.foldl (fun u e => e.2.saved.foldl (fun v t =>
    (t.owned.filter (fun o => match o.pkg with | some p => gone p | none => false)).foldl (fun x o =>
      x.watchDone ⟨e.1, o.core, o.tag, o.pkg.getD 0, 0, 0, 0, cDEAD_PEER, o.op, 0, 0⟩) v) u) s4

/-- Entries and answers held for the packages are dropped, and what waits to go to them (step 4); what was on its way through this package
bounces (R335). -/
def State.dropFor (s : State) (gone : Nat → Bool) : State :=
  let s1 : State :=
    { s with clusters := s.clusters.map (fun e => (e.1, { e.2 with watches := e.2.watches.filter (fun w => !gone w.opkg) })),
             cores := s.cores.map (fun e => (e.1, { e.2 with senders := e.2.senders.filter (fun m => !gone m.opkg) })),
             items := s.items.filter (fun it => !gone it.dpkg) }
  (s.items.filter (fun it => gone it.dpkg)).foldl State.bounce s1

/-- Leases towards a package end at once and its lanes go dark (step 2). -/
def State.dropLeases (s : State) (p : Nat) : State :=
  ((s.modFab (fun f => { f with
    grants := f.grants.filter (fun e => e.2.dest ≠ p),
    colours := f.colours.map (fun e => if e.1.2 = p then (e.1, { e.2 with on := false, dark := false, closing := false, grant := none, flits := [], una := e.2.next, resends := 0 }) else e),
    waiting := f.waiting.filter (fun r => r.item.opkg ≠ p), inbound := f.inbound.filter (fun g => g.opkg ≠ p),
    rxFloor := f.rxFloor.filter (fun e => e.1 ≠ p) })).lanesFreed ((s.fabric.colours.filter (fun e => e.1.2 = p && e.2.on)).map (fun e => e.1.1))).serveWaiting

/-- A package is declared dead with a CAUSE (R337, R339). Packages that this one relays for hear of it by STATE items. -/
def State.declareDead (s : State) (p cause : Nat) : State :=
  let relayed := s.fabric.behind p
  let gone := fun x => x = p || relayed.contains x
  let s1 := (p :: relayed).foldl (fun u x => { u with dead := u.dead ||| (1#4096 <<< x) }.modFab (fun f => { f with causes := Assoc.put x cause f.causes })) s
  let s2 := s1.modFab (fun f => if (f.partner p).routes = [] then f else
    { f.modPartner p (fun x => { x with st := .down, usable := [], failedAt := some s.clk, buffer := [] }) with refused := f.refused.filter (fun e => e.1 ≠ p) })
  (((s2.dropLeases p).failPending gone).dropFor gone).reportState p (p :: relayed) []

/-- Cycles without a flit after which a partner is dead: DT (R337). -/
def Fabric.deadTime (f : Fabric) (p : Nat) : Nat :=
  let rtt := (f.colours.filter (fun e => e.1.2 = p && e.2.on)).foldl (fun m e => max m e.2.rtt) 0
  max (usCycles f.dtmin) (nsCycles (4 * rtt) + usCycles 100)

/-- The event DEAD_PEER_DECLARE: partner inp.id has given no flit for DT, or every colour to it has been dark for DTMIN. -/
def execDeadPeerDeclare (s : State) : Out :=
  let p := s.inp.id
  let x := s.fabric.partner p
  if x.st ≠ .up then .next s
  else if s.fabric.deadTime p ≤ s.since x.heard then .next (s.declareDead p 1)
  else
    match x.darkSince with
    | some t => if usCycles s.fabric.dtmin ≤ s.since t then .next (s.declareDead p 2) else .next s
    | none => .next s

/-- The event STATE: relay partner inp.id reports inp.nats dead and the packages of inp.pairs UP. -/
def execState (s : State) : Out :=
  let r := s.fabric.behind s.inp.id
  let s1 := (s.inp.nats.filter (fun p => r.contains p)).foldl (fun u p => u.declareDead p 3) s
  .next ((s.inp.pairs.filter (fun e => r.contains e.1)).foldl (fun u e => (u.undead e.1).reportState s.inp.id [] [e.1]) s1)

/-! ### Write generations (R108) -/

/-- The event GEN_REQ: the generations of the pages inp.nats go to package inp.id. -/
def execGenReq (s : State) : Out :=
  .next (s.queueItem s.inp.id s.inp.core s.inp.clus (.genReply s.inp.n (s.inp.nats.map (fun g => (g, Assoc.get 0 g s.gens)))))

end Sys2Proof.Machine
end

