-- ==== Sys2Proof/Machine/Retire.lean ====
section
/-! DEFINITION. The end of a team: retirement (R388, R389), scrubbing (R68), the cancelling of operations (R383, R394), and the
dropping of a team without an image. -/

namespace Sys2Proof.Machine

def State.team? (s : State) (c slot : Nat) : Option Team := (s.teams.find? (fun e => e.1 = (c, slot))).map (·.2)
def State.modTeam (s : State) (c slot : Nat) (f : Team → Team) : State :=
  { s with teams := s.teams.map (fun e => if e.1 = (c, slot) then (e.1, f e.2) else e) }

/-- The positions of a team, as positions of its cluster. -/
def Team.at (t : Team) (c : Nat) : List Pos := t.pos.map (fun p => ⟨c, p.1, p.2⟩)

/-- The launch record of a team. -/
def State.teamRecord (s : State) (t : Team) : List Byte := s.recordOf (lnchWord t.launch)

/-- Every context of the team is HALTED. -/
def State.teamHalted (s : State) (c : Nat) (t : Team) : Bool := (t.at c).all (fun p => (s.ctx p).st.isHalted)

/-- The tags of a team's cores that the team owns (R380): core, number and record. -/
def State.ownTags (s : State) (c slot : Nat) (t : Team) : List (Nat × Nat × TagRec) :=
  (teamCores t.pos).flatMap (fun n => (List.range 64).filterMap (fun i =>
    let r := (s.core c n).tag i
    if r.team = slot && !r.st.isFree then some (n, i, r) else none))

/-! ### Cancelling -/

/-- Engine slots, pins or places in a queue of the clusters are free again: whoever waits for one looks again (R225, R278), and so do a TU_INV that
waits for pins (R374) and a SERASE that waits for sealed fetches (R295). -/
def State.roomFreed (s : State) (cs : List Nat) : State :=
  if cs = [] then s
  else
    let s1 := s.wakeAll (fun p w => cs.contains p.clus && w = .resource)
    let s2 := cs.foldl (fun u c => if (u.clus c).tuInv = [] then u else u.post .tuInvDone { clus := c }) s1
    (s2.ksWins.filterMap (fun e => e.2.run.bind (fun r => if r.code = 8 then some r.slot else none))).foldl (fun u n => u.post .ksSeraseDrained { id := n }) s2

/-- An operation is cancelled wherever it stands: nobody hears of it any more (R394). -/
def State.cancelOp (s : State) (op : Nat) : State :=
  let pins := (s.pulls.filter (fun e => e.1 = op)).map (fun e => (e.2.clus, e.2.pins))
  let s1 := pins.foldl (fun (u : State) p => u.modClus p.1 (fun k => k.unpin p.2)) s
  let gone := (s1.colls.flatMap (fun e => e.2.filter (fun x => x.id = op))).flatMap (fun x => x.watches.map (·.1))
  let s2 : State := { gone.foldl State.dropWatch (s1.dropWatch op) with
    pulls := Assoc.del op s1.pulls,
    colls := s1.colls.map (fun e => (e.1, e.2.filter (fun x => x.id ≠ op))),
    outReads := s1.outReads.filter (fun o =>
      (match o.who with
       | .pull id _ => id ≠ op
       | .matrix _ _ id _ => id ≠ op
       | .coll _ id _ _ => id ≠ op
       | .poll _ _ => true
       | .load _ => true
       | .walk _ _ => true
       | .fetch _ _ _ => true
       | .group _ _ => true
       | .dbg _ => true
       | .front _ _ _ => true)),
    tiles := s1.tiles.map (fun e => if e.2.cmds.any (fun m => m.id = op) then (e.1, { e.2 with cmds := e.2.cmds.filter (fun m => m.id ≠ op) }) else e) }
  (s2.modFab (fun f => { f with leases := Assoc.del op f.leases })).roomFreed (pins.map (·.1) ++ (s1.tiles.filter (fun e => e.2.cmds.any (fun m => m.id = op))).map (fun e => e.1.1))

/-- Every operation and wait of a team is cancelled, and every context halts. -/
def State.cancelTeam (s : State) (c slot : Nat) (t : Team) : State :=
  let s1 := (s.ownTags c slot t).foldl (fun u e => if e.2.2.st.isBusy then u.cancelOp e.2.2.op else u) s
  (t.at c).foldl (fun u p => (u.cancelWaits p).modCtx p (fun x => { x with st := .halted, ans := none, enqts := [], unready := [], full := false })) s1

/-! ### Scrubbing (R68) -/

/-- Whether a context of another team holds a position on a core. -/
def State.coreShared (s : State) (c n slot : Nat) : Bool :=
  [0, 1, 2, 3].any (fun x => match (s.ctx ⟨c, n, x⟩).slot with | some k => k ≠ slot | none => false)

/-- A core store is zeroed; its pages' write generations advance (R106). -/
def State.zeroCore (s : State) (c n : Nat) : State :=
  let a := corePa s.pkg c n 0
  let s1 : State := { s with mem := s.mem.filter (fun e => !(a ≤ e.1 && e.1 < a + 0x8000)), poison := s.poison.filter (fun l => !(a ≤ 64 * l && 64 * l < a + 0x8000)) }
  ((List.range 8).foldl (fun u k => u.bumpGen (a + 4096 * k)) s1).modClus c (fun k =>
    { k with unfenced := k.unfenced.filter (fun u => !(a ≤ 32 * u.unit && 32 * u.unit < a + 0x8000)) })

/-- What happens to the store of a core that a team leaves (step 4 of R68, step 4 of R377). -/
def State.leaveCore (s : State) (c n slot : Nat) (zero : Bool) : State :=
  if s.coreShared c n slot then s.modCore c n (fun k => { k with zpend := k.zpend || zero })
  else
    let s1 := if zero || (s.core c n).zpend then s.zeroCore c n else s
    s1.modCore c n (fun k => { k with zpend := false, code := [] })

/-- Tags and messages of a team leave a live core, and freed mailbox slots are told (R68, R377). -/
def State.clearCore (s : State) (c n slot : Nat) (t : Team) : State :=
  let gone := (s.core c n).mail.filter (fun m => t.pos.contains (n, m.ctx))
  let s1 := s.modCore c n (fun k => { k with
    mail := k.mail.filter (fun m => !t.pos.contains (n, m.ctx)),
    tags := Vector.ofFn (fun (i : Fin 64) => let r := k.tags[i.val]; if r.team = slot && !r.st.isFree then TagRec.reset else r) })
  gone.foldl (fun u _ => u.mailFreed c n) s1

/-- A plane array is zeroed and released; a table slot is zeroed and freed (R68, R265). Commands of others still stand in the array's queue and end
when they are accepted (R280). -/
def Tile.released (t : Tile) (slot : Nat) (mine : List Pos) : Tile :=
  { t with
    holder := if t.holder = some slot then none else t.holder,
    acc := if t.holder = some slot then [] else t.acc,
    buf := if t.holder = some slot then [] else t.buf,
    cmds := if t.holder = some slot then t.cmds.filter (fun m => m.phase = .queued && !mine.contains m.pos) else t.cmds,
    tables := t.tables.map (fun x => if x.holder = some (some slot) then {} else x) }

/-- A team gives up its positions, tags, messages, tables and plane arrays; zero says whether it asks for its core stores to be
zeroed. -/
def State.vacate (s : State) (c slot : Nat) (t : Team) (zero : Bool) : State :=
  let s1 := (teamCores t.pos).foldl (fun u n => u.clearCore c n slot t) s
  let s2 := (t.at c).foldl (fun u p => u.setCtx p Ctx.reset) s1
  let s3 := (teamCores t.pos).foldl (fun u n => u.leaveCore c n slot zero) s2
  let gone := s3.tiles.any (fun e => e.1.1 = c && e.2.holder = some slot)
  let s4 := if gone then ((s3.tiles.filter (fun e => e.1.1 = c && e.2.holder = some slot && e.2.cmds ≠ [])).foldl (fun (u : State) e => u.post .matrixAccept { clus := c, slot := e.1.2 }) s3).roomFreed [c] else s3
  { s4 with tiles := s4.tiles.map (fun e => if e.1.1 = c then (e.1, e.2.released slot (t.at c)) else e),
            teams := s4.teams.filter (fun e => e.1 ≠ (c, slot)) }

/-- The placement count of a team slot advances (R65, R68). -/
def State.countSlot (s : State) (c slot : Nat) : State :=
  s.modClus c (fun k => { k with slotCount := Assoc.put slot ((Assoc.get 0 slot k.slotCount + 1) % 2 ^ 32) k.slotCount })

/-- The bank of a launch is freed when its last team on the cluster, placed or saved, has gone (R62, R68). -/
def State.freeBank (s : State) (c : Nat) (l : Nat × Nat) : State :=
  if s.teams.any (fun e => e.1.1 = c && e.2.launch = l) || (s.clus c).saved.any (fun v => v.launch = l) then s
  else s.modClus c (fun k => { k with banks := k.banks.map (fun b => match b with
    | some x => if x.launch = l then none else b
    | none => none) })

/-- Instructions retired by contexts that leave are kept in PROG, with the retirement itself (R390). -/
def State.countRetired (s : State) (c : Nat) (l : Nat × Nat) (retc teams : Nat) : State :=
  s.count c (lnchWord l) (fun k => { k with prog := k.prog + retc + teams })

/-- The sum of RETC of a team's contexts. -/
def State.teamRetc (s : State) (c : Nat) (t : Team) : Nat := (t.at c).foldl (fun n p => n + (s.ctx p).retc.toNat) 0

/-- The cores of a team write their L1s back and empty them, after their buffered stores (R200). -/
def State.flushTeam (s : State) (c : Nat) (t : Team) : State := (teamCores t.pos).foldl (fun u n => (u.drain c n).flushL1 c n) s

/-- With the last team of a basting launch the launch ends: the deferred end takes one line of the basting store there; without room the launch
is unpicked (R105, R110). -/
def State.deferEnd (s : State) (c : Nat) (t : Team) : State :=
  if t.bast && !s.committing t.launch.1 && s.teams.all (fun e => e.2.launch ≠ t.launch) then
    if (s.clus c).shadow.length + (s.clus c).deferredLines < 8192 then s.modClus c (fun k => { k with deferredLines := k.deferredLines + 1 })
    else s.doom t.launch.1
  else s

/-- Steps 3 to 5 of R388: the team is gone, its launch counts it, and placement looks again. -/
def State.endTeam (s : State) (c slot : Nat) (t : Team) (zero : Bool) : State :=
  let n := s.teamRetc c t
  let s1 := (((s.flushTeam c t).vacate c slot t zero).countSlot c slot).deferEnd c t
  let s2 := (s1.countRetired c t.launch n 1).modLaunch t.launch (fun l => { l with retired := l.retired + 1 })
  (s2.freeBank c t.launch).post .teamPlace {}

/-! ### Retirement (R388) -/

/-- Step 1: streams close, watches and leases are cancelled. -/
def State.closeTeam (s : State) (c slot : Nat) (t : Team) : State :=
  let s1 := (t.at c).foldl (fun u p => [0, 1, 2, 3].foldl (fun v k => v.closeStream p k) u) s
  (s1.ownTags c slot t).foldl (fun u e =>
    match e.2.2.st with
    | .busy (.watch id _ _) => (u.dropWatch id).modCore c e.1 (fun k => k.setTag e.2.1 { k.tag e.2.1 with st := .free, err := 0 })
    | .busy (.lease _) =>
      (match u.fabric.leases.find? (fun l => l.1 = e.2.2.op) with
       | some l => u.leaseEnd l.1 l.2 0 4 0 cLEASE_DENIED
       | none => u)
    | _ => u) s1

/-- The event TEAM_RETIRE for the team of slot inp.slot of cluster inp.clus. -/
def execTeamRetire (s : State) : Out :=
  let c := s.inp.clus
  match s.team? c s.inp.slot with
  | none => .next s
  | some t =>
    if t.retiring || !s.teamHalted c t then .next s
    else .next (((s.closeTeam c s.inp.slot t).modTeam c s.inp.slot (fun t => { t with retiring := true })).post .teamRetireDone s.inp)

/-- Step 2 of R388 holds: no tag the team owns is BUSY and no answer is awaited. -/
def State.teamDrained (s : State) (c slot : Nat) (t : Team) : Bool :=
  (s.ownTags c slot t).all (fun e => !e.2.2.st.isBusy) && (t.at c).all (fun p => (s.ctx p).ans.isNone && (s.ctx p).enqts.isEmpty)

/-- The event TEAM_RETIRE_DONE: while step 2 waits, it looks again later. -/
def execTeamRetireDone (s : State) : Out :=
  let c := s.inp.clus
  match s.team? c s.inp.slot with
  | none => .next s
  | some t =>
    if !t.retiring then .next s
    else if !s.teamDrained c s.inp.slot t then .next (s.post .teamRetireDone s.inp)
    else .next (s.endTeam c s.inp.slot t (recZcore (s.teamRecord t)))

/-! ### Teams that are stopped from outside (R97, R383, R394, R398) -/

/-- A placed team is halted and ends as if dropped: its operations are cancelled. -/
def State.abortTeam (s : State) (c slot : Nat) : State :=
  match s.team? c slot with
  | none => s
  | some t => (s.cancelTeam c slot t).endTeam c slot t (recZcore (s.teamRecord t))

/-- A saved team ends: its operations are cancelled, its redirect entries go, its image reads DROPPED (R383). Its slot's placement count
advanced when it was saved. -/
def State.dropSaved (s : State) (c : Nat) (v : Saved) : State :=
  let s1 := v.owned.foldl (fun u o => u.cancelOp o.op) s
  let s2 := (s1.toImg c v 0 [5]).modClus c (fun k => { k with saved := k.saved.filter (fun x => !(x.slot = v.slot && x.img = v.img)) })
  let s3 := (teamCores v.positions).foldl (fun u n => u.modCore c n (fun k => { k with redirect := k.redirect.erase v.slot })) s2
  let s4 := (s3.countRetired c v.launch 0 1).modLaunch v.launch (fun l => { l with retired := l.retired + 1 })
  (s4.freeBank c v.launch).post .teamPlace {}

/-! ### Unpicking (R110) -/

/-- The basting launch of a queue. -/
def State.basting? (s : State) (q : Nat) : Option Basting := (s.bastings.find? (fun e => e.1 = q)).map (·.2)

/-- A basting team that is still placed goes, without trace. -/
def State.unpickTeam (s : State) (c slot : Nat) : State :=
  match s.team? c slot with
  | none => s
  | some t =>
    let s1 := s.cancelTeam c slot t
    let s2 := (teamCores t.pos).foldl (fun u n => u.modCore c n (fun k => { k with sb := k.sb.filter (fun e => !t.pos.contains (n, e.ctx)) })) s1
    ((s2.vacate c slot t true).countSlot c slot).freeBank c t.launch

/-- The walks that a basting launch has under way end without effect, and the translations whose A and D bits stand in its shadow lines only are
forgotten (R110). -/
def State.dropXlate (s : State) (q : Nat) : State :=
  let mine := s.clusters.flatMap (fun e => (e.2.walks.filter (fun w => w.bast = some q)).map (fun w => (e.1, w.id)))
  let s1 := mine.foldl (fun (u : State) w => u.endWalk w.1 w.2) s
  { s1 with
    outReads := s1.outReads.filter (fun o => match o.who with | .walk c id => !mine.contains (c, id) | _ => true),
    clusters := s1.clusters.map (fun e => (e.1, { e.2 with tlb := e.2.tlb.filter (fun t => t.bast ≠ some q) })),
    cores := s1.cores.map (fun e => (e.1, { e.2 with tlb := e.2.tlb.filter (fun t => t.bast ≠ some q) })) }

/-- The four steps of R110. -/
def State.unpick (s : State) (q : Nat) (b : Basting) : State :=
  let k := launchKey q b.seq
  let live := s.teams.filter (fun e => e.2.launch = k && e.2.bast)
  let s1 := (live.foldl (fun u e => u.unpickTeam e.1.1 e.1.2) s).dropXlate q
  let s2 := b.cores.foldl (fun u e => u.zeroCore e.1 e.2) s1
  let s3 := b.clusters.foldl (fun u c => u.modClus c (fun x => { x with shadow := [], deferredLines := 0, counters := Assoc.del k x.counters })) s2
  let s4 : State := { s3 with deferred := s3.deferred.filter (fun e => e.1 ≠ q), readSets := Assoc.del q s3.readSets, bastings := Assoc.del q s3.bastings,
                              bst := { s3.bst with unpicks := s3.bst.unpicks + 1 } }
  (s4.modLaunch k (fun l => { l with retired := 0, placed := 0 })).post .teamPlace {}

/-- The basting launch of a queue is unpicked; once it commits nothing unpicks it (R110, R111). -/
def State.unpickQ (s : State) (q : Nat) : State :=
  match s.basting? q with
  | none => s
  | some b => if b.st = .committing then s else s.unpick q b

end Sys2Proof.Machine
end

