-- ==== Sys2Proof/Machine/Front.lean ====
section
/-! DEFINITION. The front end: queues (R91 to R97), reading and accepting records (R96, R57, R60), dependences (R58), device
submission (R100, R315), and the end of a launch (R59, R391 to R393). -/

namespace Sys2Proof.Machine

/-! ### Queue registers -/

/-- The front end honours queue registers once the package is READY (R25). -/
def State.ready (s : State) : Bool := s.boot.dev = .ready

/-- A function reaches a queue's window (R91). -/
def State.qReach (s : State) (fn q : Nat) : Bool := s.ready && s.fnLive fn && q < 256 && (fn = 0 || (s.queue q).fn = fn)

/-- A write of QUEUE_FNq. -/
def State.queueFnWrite (s : State) (q : Nat) (v : DWord) : State :=
  let fn := (v.extractLsb' 0 5).toNat
  if !s.ready || 256 ≤ q || 16 < fn || (s.queue q).st ≠ .absent then s else s.modQueue q (fun k => { k with fn := fn })

/-- The event QUEUE_FN_WRITE: the physical function writes inp.val to the register of queue inp.id. -/
def execQueueFnWrite (s : State) : Out := .next (if s.inp.fn = 0 then s.queueFnWrite s.inp.id s.inp.val else s)

/-- The word Q_ERR0 of a reason. -/
def err0Word (reason seq wofs tidx : Nat) : DWord :=
  BitVec.ofNat 64 (seq % 2 ^ 32 * 2 ^ 32 + wofs % 256 * 2 ^ 16 + tidx % 256 * 2 ^ 8 + reason % 256)

/-- A note is written while STATE is not ERROR, and not in a destroy that began from ERROR (R95). -/
def Queue.note (k : Queue) (e0 e1 : DWord) : Queue :=
  match k.st with
  | .active => { k with err0 := e0, err1 := e1 }
  | .draining => if k.fromErr then k else { k with err0 := e0, err1 := e1 }
  | .error => k
  | .absent => k

/-- A stopping reason (R95): an ACTIVE queue enters ERROR, sends EVEC and loses its basting launch; otherwise it counts as a note. -/
def State.stopQueue (s : State) (q : Nat) (e0 e1 : DWord) (failed : Bool) : State :=
  let k := s.queue q
  if k.st = .active then
    let s1 := s.modQueue q (fun k => { k with st := .error, err0 := e0, err1 := e1, failed := failed, head := none })
    let s2 : State := if k.een then s1.sendMsix k.fn k.evec else s1
    s2.unpickQ q
  else s.modQueue q (fun k => k.note e0 e1)

/-- Q_PROD (R94). -/
def State.prodWrite (s : State) (q : Nat) (v : Nat) : State :=
  let k := s.queue q
  if k.device || k.st = .absent || k.st = .draining then s
  else if v < k.prod then s.modQueue q (fun k => { k.note (err0Word 0x15 k.prod 0 0) 0 with nprod := true })
  else if k.cons + 2 ^ k.logn < v then s.stopQueue q (err0Word 0x11 k.cons 0 0) 0 false
  else (s.modQueue q (fun k => { k with prod := v })).post .recordRead { id := q }

/-- The event Q_PROD_WRITE: function inp.fn writes inp.val to Q_PROD of queue inp.id. -/
def execQProdWrite (s : State) : Out :=
  .next (if s.qReach s.inp.fn s.inp.id then s.prodWrite s.inp.id s.inp.val.toNat else s)

/-! ### Launches that leave (R97, R58) -/

/-- A DRAINING queue without live launches becomes ABSENT, its history emptied (step 6 of R97). -/
def Queue.settle (k : Queue) : Queue :=
  if k.st = .draining && k.nlive = 0 then { k with st := .absent, hist := [], histNew := false, head := none, ring := [] } else k

/-- A launch leaves the machine and NLIVE decreases. -/
def State.launchGone (s : State) (l : Launch) : State :=
  let s1 := l.watching.foldl (fun u w => u.dropWatch w.2.1) s
  let s2 : State := { s1 with launches := s1.launches.filter (fun e => e.1 ≠ launchKey l.q l.seq) }
  ((s2.modQueue l.q (fun k => ({ k with nlive := k.nlive - 1 } : Queue).settle)).post .recordRead { id := l.q }).post .teamPlace {}

/-! ### Commands (R93) -/

/-- CREATE. -/
def State.queueCreate (s : State) (q : Nat) : State :=
  let k := s.queue q
  if k.st = .absent && k.lognOk then
    s.modQueue q (fun k => { k with prod := 0, cons := 0, hist := [], histNew := false, err0 := 0, err1 := 0, ncomp := false, nprod := false,
                                    nreg := false, st := .active, cerr := false, ring := [], head := none, failed := false, fromErr := false, aborting := false })
  else s.modQueue q (fun k => { k with cerr := true })

/-- The launches of a queue, oldest first. -/
def State.launchesOf (s : State) (q : Nat) : List Launch := (s.launches.filter (fun e => e.1.1 = q)).map (·.2)

/-- DESTROY (R97). While the queue's basting launch commits, the destroy is deferred until it is an ordinary launch (R111, R112). -/
def State.queueDestroy (s : State) (q : Nat) (abort : Bool) : State :=
  let k := s.queue q
  if s.committing q then s.post .queueDestroy { id := q, flag := abort }
  else if k.st = .active || k.st = .error then
    let s1 := s.modQueue q (fun k => { k with st := .draining, fromErr := k.st = .error, aborting := abort, head := none, cerr := false })
    let s2 := (s1.launchesOf q).foldl (fun u l => if l.placed = 0 then u.launchGone l else u) s1
    let s3 := s2.unpickQ q
    let s4 :=
      if abort then
        let s5 := (s3.launchesOf q).foldl (fun u l => u.modLaunch (launchKey l.q l.seq) (fun l => { l with abandoned := true, aborted := true })) s3
        let live := s5.teams.filter (fun e => e.2.launch.1 = q && !e.2.bast)
        let s6 := live.foldl (fun u e => u.abortTeam e.1.1 e.1.2) s5
        s6.clusters.foldl (fun u e => (e.2.saved.filter (fun v => v.launch.1 = q)).foldl (fun w v => w.dropSaved e.1 v) u) s6
      else s3
    s4.modQueue q (fun k => k.settle)
  else s.modQueue q (fun k => { k with cerr := true })

/-- The first ENQ that waits for room is told when Q_CONS passes a slot (R315). -/
def State.slotPassed (s : State) (q : Nat) : State :=
  match (s.queue q).enqs with
  | [] => s
  | p :: ps => (s.modQueue q (fun k => { k with enqs := ps })).post .enqAnswer { pos := p, n := 4 }

/-- RESUME. -/
def State.queueResume (s : State) (q : Nat) (skip : Bool) : State :=
  let k := s.queue q
  if k.st = .error then
    let s1 := s.modQueue q (fun k => { k with st := .active, cerr := false, failed := false, cons := if k.failed && skip then k.cons + 1 else k.cons })
    (if k.failed && skip then s1.slotPassed q else s1).post .recordRead { id := q }
  else s.modQueue q (fun k => { k with cerr := true })

/-- A command in the window of a queue that the function reaches. -/
def State.qCommand (s : State) (f : Nat → State) : Out := .next (if s.qReach s.inp.fn s.inp.id then f s.inp.id else s)

/-- The event QUEUE_CREATE by function inp.fn for queue inp.id. -/
def execQueueCreate (s : State) : Out := s.qCommand (fun q => s.queueCreate q)
/-- The event QUEUE_DESTROY; inp.flag is ARG. -/
def execQueueDestroy (s : State) : Out := s.qCommand (fun q => s.queueDestroy q s.inp.flag)
/-- The event QUEUE_RESUME; inp.flag is ARG. -/
def execQueueResume (s : State) : Out := s.qCommand (fun q => s.queueResume q s.inp.flag)

/-! ### Reading records (R96) -/

/-- The lowest-numbered cluster of a function. -/
def State.firstClus (s : State) (fn : Nat) : Option Nat := (List.range 128).find? (fun c => s.clusOf fn c)

/-- The requester number of a front-end walk: the launch's sequence number and what is read (0 to 3 a dependence, 8 a record's
map, 9 a completion milestone, 10 a record's image). -/
def frontNo (seq what : Nat) : Nat := seq * 16 + what

/-- The event RECORD_READ for queue inp.id: the reads begin; a device queue's record is at hand. -/
def execRecordRead (s : State) : Out :=
  let q := s.inp.id
  let k := s.queue q
  if s.ready && k.st = .active && k.head.isNone && k.cons < k.prod && k.nlive < 16 then
    let no := frontNo (k.cons % 2 ^ 24) 8
    let s1 : State := ({ s with nextId := s.nextId + 1, clusters := s.clusters.map (fun e =>
      (e.1, { e.2 with xfails := e.2.xfails.filter (fun x => x.1 ≠ .front q no && x.1 ≠ .front q (no + 2)) })) } : State).modQueue q
        (fun k => { k with head := some k.cons, rid := s.nextId, got := [], trying := false })
    .next (if k.device then s1.post .recordArrival { id := q } else s1)
  else .next s

/-- The bus address of record n of a host queue. -/
def Queue.slotAddr (k : Queue) (n : Nat) : DWord := (k.base &&& 0xFFFFFFFFFFFFFF00#64) + BitVec.ofNat 64 (256 * (n % 2 ^ k.logn))

/-- FETCH_FAULT at the first failing read (R95, R96). -/
def State.fetchFault (s : State) (q n wofs : Nat) : State :=
  (s.modQueue q (fun k => { k with head := none })).stopQueue q (err0Word 0x10 n wofs 0) ((s.queue q).slotAddr n + BitVec.ofNat 64 wofs) true

/-- The event COMPLETION_TIMEOUT: a read of queue inp.id at offset inp.ofs of the record has had no completion. -/
def execCompletionTimeout (s : State) : Out :=
  let k := s.queue s.inp.id
  match k.head with
  | some n => if k.st = .active && !k.device then .next (s.fetchFault s.inp.id n (s.inp.ofs / 64 % 4 * 64)) else .next s
  | none => .next s

/-- A translation for the front end: of a record's reading or a dependence, which may make a page-fault message, or of the predictor, which
makes none. -/
def State.frontX (s : State) (c aspc q no : Nat) (a : DWord) : QuietRes :=
  if (s.queue q).trying then s.quiet c aspc .read a .front (.baste q)
  else
    match (s.clus c).xfails.find? (fun x => x.1 = .front q no) with
    | some x => .fail (s.modClus c (fun k => { k with xfails := k.xfails.filter (fun y => y.1 ≠ .front q no) })) x.2
    | none =>
      match s.translate c (.front q no) aspc .read a .front with
      | .trap code => .fail s code
      | .miss => .wait (s.startWalk c aspc .read a .front (.front q no))
      | .ok pa t => .ok pa t

/-- What a read through the read table gives the front end: the stamp and the bytes, a wait, or a failure. -/
inductive SpanRead where
  | ok (owner stamp : Nat) (l : List Byte)
  | wait (s : State)
  | fail (s : State)
  deriving DecidableEq, Repr

/-- The 64-byte unit at an address, under checks 4 to 7 of R302; one that lies in another package is asked for, and the dead-peer bit read then (R29). -/
def State.frontUnit (s : State) (c aspc q no : Nat) (a : DWord) : SpanRead :=
  match s.frontX c aspc q no a with
  | .fail t _ => .fail t
  | .wait t => .wait t
  | .ok pa t =>
    if t.type = .sealed || t.type = .device then .fail s
    else if paPkg pa ≠ s.pkg then
      match ((s.queue q).got.find? (fun e => e.1 = pa / 64)).map (·.2) with
      | some (_, []) => .fail s
      | some (stamp, l) => .ok (paOwner pa) stamp l
      | none =>
        let who := ReadFor.front q (s.queue q).rid (pa / 64)
        if s.outReads.any (fun o => o.who = who) then .wait s
        else if s.dead.getLsbD (paPkg pa) then .fail s
        else .wait (s.askPkg c (pa / 64 * 64) t.key 64 who)
    else if s.ownerRefuses (s.clus c).fn pa || s.poison.contains (pa / 64) then .fail s
    else
      let r := s.ownerRead (pa / 64 * 64) t.key 64
      .ok (paOwner pa) r.2 r.1

/-- A span read in 64-byte units. -/
def State.frontSpan (s : State) (c aspc q no : Nat) (a : Nat) : Nat → SpanRead
  | 0 => .ok 0 0 []
  | n + 1 =>
    match s.frontUnit c aspc q no (BitVec.ofNat 64 a) with
    | .ok o st x =>
      (match s.frontSpan c aspc q no (a + 64) n with
       | .ok _ _ l => .ok o st (x ++ l)
       | e => e)
    | e => e

/-- The map or the image that a record of a device queue, or a predicted one, names: len bytes at an address, none where they cannot be
read. -/
def State.frontBytes (s : State) (q fn aspc no a len : Nat) : Except State (State × Option (List Byte)) :=
  match s.firstClus fn with
  | none => .ok (s, none)
  | some c =>
    match s.frontSpan c aspc q no (a / 64 * 64) ((a % 64 + len + 63) / 64) with
    | .ok _ _ l => .ok (s, some ((l.drop (a % 64)).take len))
    | .wait t => .error t
    | .fail t => .ok (t, none)

/-- The placement map of a record read through the read table. -/
def State.frontMap (s : State) (q fn no : Nat) (rcd : List Byte) : Except State (State × Option (List Byte)) :=
  if recPmap rcd = 0 then .ok (s, none) else s.frontBytes q fn (recAspc rcd) no (recPmap rcd) (recTeams rcd)

/-- The tensor identifier image of a record read through the read table. -/
def State.frontImage (s : State) (q fn no : Nat) (rcd : List Byte) : Except State (State × Option (List Byte)) :=
  if recTidn rcd = 0 then .ok (s, some []) else s.frontBytes q fn (recAspc rcd) no (recTida rcd) (64 * min 256 (recTidn rcd))

/-! ### Acceptance (R60, R96, R102, R107) -/

/-- A record enters the history of 24 if BHIST is 1 (R102). -/
def Queue.remember (k : Queue) (rcd : List Byte) : Queue :=
  if recBhist rcd then { k with hist := (k.hist ++ [rcd]).drop (k.hist.length + 1 - 24), histNew := true } else k

/-- A record matches a basting launch (R107). -/
def Basting.matches (b : Basting) (n : Nat) (rcd img : List Byte) (map : Option (List Byte)) : Bool :=
  decide (b.st = BastSt.running) && b.seq = n && b.rcd = rcd && b.img = img &&
    (!(recPmap rcd ≠ 0 && recPstrict rcd) ||
      (match map with
       | some m => (List.zip m b.teamClus).all (fun e => e.1 = 0xFF || e.1.toNat = e.2)
       | none => false))

/-- The watch of dependence i of a launch goes out, or the dependence fails (R58). -/
inductive DepStep where
  | none
  | state (s : State)
  | fail (s : State)

def State.depStep (s : State) (l : Launch) (i : Nat) : DepStep :=
  if Assoc.has i l.dep || l.watching.any (fun w => w.1 = i) then .none
  else
    match s.firstClus (s.queue l.q).fn with
    | none => .fail s
    | some c =>
      let no := frontNo (l.seq % 2 ^ 24) i
      let a := recDepa l.rcd i
      match s.frontX c (recAspc l.rcd) l.q no a with
      | .fail t _ => .fail t
      | .wait t => .state t
      | .ok pa t =>
        if s.dead.getLsbD (paPkg pa) || t.type = .sealed || t.type = .device then .fail s
        else
          let it : WatchItem := ⟨s.pkg, c, (s.clus c).fn, frontCore, i, pa, t.key, recDept l.rcd i, s.nextId⟩
          let s1 : State := ({ s with nextId := s.nextId + 1 } : State).modLaunch (launchKey l.q l.seq)
            (fun l => { l with watching := l.watching ++ [(i, s.nextId, paOwner pa)] })
          .state (s1.sendWatch it)

/-- A dependence fails: the launch is dropped and the queue stops with DEPENDENCE (R58). -/
def State.depFail (s : State) (l : Launch) (i : Nat) : State :=
  let s1 := s.stopQueue l.q (err0Word 0x08 l.seq (0x60 + 16 * i) 0) (recDepa l.rcd i) false
  let s2 := if s1.bastings.any (fun e => e.1 = l.q && e.2.matched) then s1.unpickQ l.q else s1
  s2.launchGone l

/-- Every dependence that is not yet watched is tried. -/
def State.tryDeps (s : State) (k : Nat × Nat) : State :=
  (List.range 4).foldl (fun u i =>
    match (u.launches.find? (fun e => e.1 = k)).map (·.2) with
    | none => u
    | some l =>
      if i < recNdep l.rcd then
        match u.depStep l i with
        | .none => u
        | .state t => t
        | .fail t => t.depFail l i
      else u) s

/-- A launch is ready (R98). -/
def Launch.ready (l : Launch) : Bool := (List.range (recNdep l.rcd)).all (fun i => Assoc.has i l.dep)

/-- Once a launch is ready it is offered, or adopted by the basting launch it matches (R98, R107). -/
def State.offer (s : State) (k : Nat × Nat) : State :=
  match (s.launches.find? (fun e => e.1 = k)).map (·.2) with
  | none => s
  | some l =>
    if !l.ready then s
    else if s.bastings.any (fun e => e.1 = l.q && e.2.matched && e.2.seq = l.seq) then s.post .basteAdopt { id := l.q }
    else s.post .teamPlace {}

/-- A whole record n of queue q, with its map and image where they could be read: accepted, or the queue stops (R60, R96). -/
def State.acceptRecord (s : State) (q n : Nat) (rcd : List Byte) (map img : Option (List Byte)) : State :=
  let s0 := s.modQueue q (fun k => { k with head := none })
  match s0.recordBad (s0.queue q).fn rcd map img with
  | some b => s0.stopQueue q (err0Word b.reason n b.wofs b.tidx) 0 true
  | none =>
    let image := if recTidn rcd = 0 then [] else img.getD []
    let l : Launch := { q := q, seq := n, rcd := rcd, img := image, map := if recPmap rcd = 0 then none else map, teams := recTeams rcd }
    let s1 := (s0.modQueue q (fun k => { k.remember rcd with cons := n + 1, nlive := k.nlive + 1 })).slotPassed q
    let s2 : State := { s1 with launches := s1.launches ++ [(launchKey q n, l)] }
    let s3 := match (s2.bastings.find? (fun e => e.1 = q)).map (·.2) with
      | some b =>
        if b.matches n rcd image map then { s2 with bastings := Assoc.put q { b with matched := true } s2.bastings }
        else if b.st = BastSt.running then s2.unpickQ q else s2
      | none => s2
    ((s3.tryDeps (launchKey q n)).offer (launchKey q n)).post .recordRead { id := q }

/-- A record fails one of the first checks of R60, up to a reason. -/
def State.badBy (s : State) (reason fn : Nat) (rcd : List Byte) (map img : Option (List Byte)) : Bool :=
  match s.recordBad fn rcd map img with
  | some b => b.reason ≤ reason
  | none => false

/-- The event RECORD_ARRIVAL for queue inp.id: a host record comes with the event, a device record lies in its slot and its map and
image are read through the read table, each once the checks before it have passed (R60). -/
def execRecordArrival (s : State) : Out :=
  let q := s.inp.id
  let k := s.queue q
  match k.head with
  | none => .next s
  | some n =>
    if k.st ≠ .active then .next (s.modQueue q (fun k => { k with head := none }))
    else if !k.device then
      match s.inp.load with
      | .record r =>
        (match r.fail with
         | some u => .next (s.fetchFault q n (64 * (u % 4)))
         | none => .next (s.acceptRecord q n (padTo 256 r.record) (r.map.map (fun m => m.take (recTeams r.record))) (r.img.map (fun m => padTo (64 * recTidn r.record) m))))
      | _ => .next s
    else
      let rcd := Assoc.get (zeros 256) (n % 2 ^ k.logn) k.ring
      let no := frontNo (n % 2 ^ 24) 8
      .next (
        if s.badBy 6 k.fn rcd (some []) (some []) then s.acceptRecord q n rcd (some []) (some [])
        else
          match s.frontMap q k.fn no rcd with
          | .error t => t
          | .ok (s1, map) =>
            if s1.badBy 10 k.fn rcd map (some []) then s1.acceptRecord q n rcd map (some [])
            else
              match s1.frontImage q k.fn (no + 2) rcd with
              | .error t => t
              | .ok (s2, img) => s2.acceptRecord q n rcd map img)

/-- The event DEPENDENCE_SATISFIED: the watch inp.id has completed; or, without a result, the walk that request inp.n of queue inp.id
waited for has ended and the front end goes on. -/
def execDependenceSatisfied (s : State) : Out :=
  match s.inp.load with
  | .dep r =>
    (match (s.launches.find? (fun e => e.2.watching.any (fun w => w.2.1 = s.inp.id))).map (·.2) with
     | none => .next s
     | some l =>
       match l.watching.find? (fun w => w.2.1 = s.inp.id) with
       | none => .next s
       | some w =>
         let k := launchKey l.q l.seq
         match r with
         | .met stamp =>
           .next ((s.modLaunch k (fun l => { l with watching := l.watching.filter (fun x => x.2.1 ≠ s.inp.id), dep := Assoc.put w.1 (w.2.2, stamp) l.dep })).offer k)
         | .failed _ => .next (s.depFail l w.1))
  | _ =>
    if s.inp.n % 16 = 8 || s.inp.n % 16 = 10 then .next (s.post .recordArrival { id := s.inp.id })
    else if s.inp.n % 16 = 9 then .next s
    else .next ((s.tryDeps (s.inp.id, s.inp.n / 16)).offer (s.inp.id, s.inp.n / 16))

/-! ### ENQ (R100, R315) -/

/-- The answer of a status to a context. -/
def State.enqStatus (s : State) (p : Pos) (num v : Nat) : State := s.post .enqAnswer { pos := p, id := num, n := v }

/-- Place a record in a device queue for a function: the status. -/
def State.enqRecord (s : State) (fn q : Nat) (rcd : List Byte) : State × Nat :=
  let k := s.queue q
  if !k.device || k.fn ≠ fn || k.st ≠ .active then (s, 2)
  else if k.prod - k.cons = 2 ^ k.logn then (s, 1)
  else ((s.modQueue q (fun k => { k with ring := Assoc.put (k.prod % 2 ^ k.logn) rcd k.ring, prod := k.prod + 1 })).post .recordRead { id := q }, 0)

/-- Add teams to a launch: the status. -/
def State.grow (s : State) (k : Nat × Nat) (n : Nat) : State × Nat :=
  match (s.launches.find? (fun e => e.1 = k)).map (·.2) with
  | none => (s, 3)
  | some l =>
    if n = 0 || l.abandoned || recMaxteams l.rcd < l.teams + n then (s, 3)
    else ((s.modLaunch k (fun l => { l with teams := l.teams + n })).post .teamPlace {}, 0)

/-- A request of ENQ or ENQT: its effect and its status. -/
def State.enqServe (s : State) (p : Pos) (lnch : Word) (w : DWord) (rcd : List Byte) : State × Nat :=
  if w.getLsbD 31 then s.grow (launchId lnch) (w.extractLsb' 0 16).toNat
  else s.enqRecord (s.clus p.clus).fn (w.extractLsb' 0 8).toNat (padTo 256 rcd)

/-- The event ENQ_REQUEST inp.id of the context at inp.pos: w(wq) in inp.val, the record in inp.bytes, the flag for an ENQ,
which joins the list of a full queue. A request that its router no longer counts came from a function that has been reset: nothing happens
(R396). -/
def execEnqRequest (s : State) : Out :=
  let p := s.inp.pos
  match (s.clus p.clus).outMsg s.inp.id with
  | none => .next s
  | some o =>
  let r := s.enqServe p (lnchWord o.launch) s.inp.val s.inp.bytes
  let isEnq := s.inp.flag && (s.ctx p).ansId = s.inp.id && (match (s.ctx p).ans with | some (.enq, _) => true | _ => false)
  let s1 := if r.2 = 1 && isEnq then r.1.modQueue (s.inp.val.extractLsb' 0 8).toNat (fun k => { k with enqs := k.enqs ++ [p] }) else r.1
  .next (s1.enqStatus p s.inp.id r.2)

/-! ### The end of a launch (R59, R391 to R393) -/

/-- How the advance of a completion milestone goes (R59): done, waiting for a walk, refused, or not above the word. -/
inductive CompStep where
  | done (s : State)
  | wait (s : State)
  | fail (s : State)
  | regress (s : State)

def State.completion (s : State) (l : Launch) : CompStep :=
  let c := recCclus l.rcd
  let no := frontNo (l.seq % 2 ^ 24) 9
  if (s.clus c).xfails.any (fun x => x.1 = .front l.q no) then
    .fail (s.modClus c (fun k => { k with xfails := k.xfails.filter (fun x => x.1 ≠ .front l.q no) }))
  else
    match s.translate c (.front l.q no) (recAspc l.rcd) .home (BitVec.ofNat 64 (recChofs l.rcd)) .atomic with
    | .trap _ => .fail s
    | .miss => .wait (s.startWalk c (recAspc l.rcd) .home (BitVec.ofNat 64 (recChofs l.rcd)) .atomic (.front l.q no))
    | .ok pa t =>
      if t.type = .sealed || t.type = .device || s.poison.contains (pa / 64) then .fail s
      else
        let old := bytesDWord (s.bytesAt pa t.key 8)
        if old.toNat < (recCval l.rcd).toNat then .done (s.advance c pa t.key (recCval l.rcd)) else .regress s

/-- The word Q_ERR1 of the notes of a completion (R95). -/
def compErr1 (rcd : List Byte) : DWord := recWord rcd 0x38 &&& 0x7FFFFFFFFFFFFFFF#64

/-- Step 2 of R59, and the launch is gone. -/
def State.launchEnded (s : State) (l : Launch) : State :=
  let s1 : State := if recMen l.rcd && !l.abandoned then s.sendMsix (s.queue l.q).fn (recMvec l.rcd) else s
  let s2 : State := { s1 with clusters := s1.clusters.map (fun e => (e.1, { e.2 with counters := Assoc.del (launchKey l.q l.seq) e.2.counters })) }
  s2.launchGone l

/-- R59. An abandoned launch advances no milestone and sends no message (R117, R97). -/
def State.endLaunch (s : State) (l : Launch) : State :=
  if l.abandoned || !recCen l.rcd then s.launchEnded l
  else
    match s.completion l with
    | .wait t => t
    | .done t => t.launchEnded l
    | .fail t => (t.modQueue l.q (fun k => { k.note (err0Word 0x14 l.seq 0x38 0) (compErr1 l.rcd) with ncomp := true })).launchEnded l
    | .regress t => (t.modQueue l.q (fun k => { k.note (err0Word 0x13 l.seq 0x38 0) (compErr1 l.rcd) with nreg := true })).launchEnded l

/-- The five 64-bit counters of a launch, summed over the routers of clusters a to b - 1 (R390, R391): PROG also counts what its live contexts
have retired. -/
def State.sumsOn (s : State) (k : Nat × Nat) (a b : Nat) : List Nat :=
  let cs := (s.clusters.filter (fun e => a ≤ e.1 && e.1 < b)).map (fun e => Assoc.get ({} : Counters) k e.2.counters)
  let sum := fun (f : Counters → Nat) => cs.foldl (fun n c => n + f c) 0
  let live := s.ctxs.foldl (fun n e => if a ≤ e.1.clus && e.1.clus < b && e.2.slot.isSome && launchId e.2.lnch = k then n + e.2.retc.toNat else n) 0
  [sum (·.miss), sum (·.mans), sum (·.eiss), sum (·.eans), sum (·.prog) + live].map (· % 2 ^ 64)

/-- The five sums of a launch over the package, as they stand now. -/
def State.sums (s : State) (k : Nat × Nat) : List Nat := s.sumsOn k 0 128

/-- What a wave has read of a launch before the routers from a to b - 1, and those routers' counters. -/
def State.sumsUpTo (s : State) (k : Nat × Nat) (a b : Nat) : List Nat :=
  (List.range 5).map (fun j => ((Assoc.get [] k s.waveSums).getD j 0 + (s.sumsOn k a b).getD j 0) % 2 ^ 64)

/-- R392, with the sums of this wave and of the one before. -/
def Launch.over (l : Launch) (now : List Nat) : Bool :=
  (recTeams l.rcd ≤ l.placed || l.abandoned) && (l.placed = l.teams || l.abandoned) && l.retired = l.placed &&
    l.wave = some now && now.getD 0 0 = now.getD 1 0 && now.getD 2 0 = now.getD 3 0

/-- Whether a context waits in a way that R393 counts, and for what: the targets whose standing still counts too. -/
def State.stuckCtx (s : State) (p : Pos) (c : Ctx) : Bool :=
  match c.st with
  | .halted => true
  | .blocked .recv => true
  | .blocked (.bar _ _ _) => true
  | .blocked (.barw _ _ _) => true
  | .blocked .cjoin => true
  | .blocked .convoy => true
  | .blocked (.tagAny m _) => (List.range 64).all (fun i => !(m.getLsbD i && ((s.core p.clus p.core).tag i).st.isBusy))
  | .blocked (.tagAll m) => (List.range 64).all (fun i => !(m.getLsbD i && ((s.core p.clus p.core).tag i).st.isBusy))
  | .blocked (.answer .send) => c.full
  | .blocked (.answer .enq) => c.full
  | _ => false

/-- What must stand still for the launches that a launch's contexts wait on: PROG of the target's launch for a SEND, Q_CONS and the
PROG of every launch of the queue for an ENQ (R393). The counters of another package are out of this one's reach (log entry 1). -/
def State.targets (s : State) (c : Ctx) : List Nat :=
  match c.st with
  | .blocked (.answer .send) =>
    let r : Reg := (c.ibits.extractLsb' 26 6)
    let d := destPos (c.reg r)
    if destPkg (c.reg r) = s.pkg then [(s.sums (launchId (s.ctx d).lnch)).getD 4 0] else []
  | .blocked (.answer .enq) =>
    let q := ((c.reg (c.ibits.extractLsb' 26 6)).extractLsb' 0 8).toNat
    (s.queue q).cons :: (s.launchesOf q).map (fun l => (s.sums (launchKey l.q l.seq)).getD 4 0)
  | _ => []

/-- The launch's contexts, placed in this package. -/
def State.launchCtxs (s : State) (k : Nat × Nat) : List (Pos × Ctx) := s.ctxs.filter (fun e => e.2.slot.isSome && launchId e.2.lnch = k)

/-- STW in cycles; 0 disables LAUNCH_STALL (R391). -/
def State.stallWindow (s : State) : Nat := (s.lqCtl.extractLsb' 16 8).toNat * 2 ^ 20
/-- Cycles between waves. -/
def State.wavePeriod (s : State) : Nat :=
  let w := (s.lqCtl.extractLsb' 0 5).toNat
  2 ^ (if 10 ≤ w && w ≤ 20 then w else 12)

/-- The stall check of one launch in a wave (R393). -/
def State.stallCheck (s : State) (l : Launch) (now : List Nat) : State :=
  let k := launchKey l.q l.seq
  let cs := s.launchCtxs k
  if s.stallWindow ≠ 0 && s.clusters.all (fun e => e.2.saved.all (fun v => v.launch ≠ k)) && cs.any (fun e => !e.2.st.isHalted) && cs.all (fun e => s.stuckCtx e.1 e.2) then
    let mark := now.getD 4 0 :: cs.flatMap (fun e => s.targets e.2)
    match l.ref with
    | some r =>
      if r.1 = mark then
        if s.stallWindow ≤ s.since r.2 && !l.stalled then
          (s.modLaunch k (fun l => { l with stalled := true })).stopQueue l.q (err0Word 0x12 l.seq 0 0) 0 false
        else s
      else s.modLaunch k (fun l => { l with ref := some (mark, s.clk) })
    | none => s.modLaunch k (fun l => { l with ref := some (mark, s.clk) })
  else s.modLaunch k (fun l => { l with ref := none, stalled := false })

/-- A wave has every router's counters: each launch ends, or is looked at for a stall (R392, R393). -/
def State.waveEnd (s : State) (sums : Assoc (Nat × Nat) (List Nat)) : State :=
  sums.foldl (fun (u : State) e =>
    match (u.launches.find? (fun x => x.1 = e.1)).map (·.2) with
    | none => u
    | some l =>
      if l.over e.2 && u.replay.all (fun x => x.1 ≠ e.1) then u.endLaunch l
      else (u.modLaunch e.1 (fun l => { l with wave := some e.2 })).stallCheck l e.2) s

/-- The event QUIESCENCE_WAVE: a wave starts, once its period has passed since the one before, or goes on. It reads the routers up to that of
cluster inp.id, or all that are left where that is 0: the sums of one wave need not be taken at one instant (R391). -/
def execQuiescenceWave (s : State) : Out :=
  if s.wavePos = 0 && s.since s.waveAt < s.wavePeriod then .next s
  else
    let b := if s.inp.id = 0 || 128 ≤ s.inp.id then 128 else s.inp.id
    let sums := s.launches.map (fun e => (e.1, s.sumsUpTo e.1 s.wavePos b))
    let s1 : State := if s.wavePos = 0 then { s with waveAt := s.clk } else s
    if b < 128 then .next (({ s1 with wavePos := max s.wavePos b, waveSums := sums } : State).post .quiescenceWave {})
    else .next (({ s1 with wavePos := 0, waveSums := [] } : State).waveEnd sums)

end Sys2Proof.Machine
end

