-- ==== Sys2Proof/Machine/Placing.lean ====
section
/-! DEFINITION. Placement: where a team fits (R113, R115), which cluster it takes (R116, R117), the order of launches (R98, R99), the state
its contexts start in (R61, R62, R65, R316); and team stall detection (R133, R134). -/

namespace Sys2Proof.Machine

/-! ### Fit (R113, R115) -/

/-- Context 3 of core 0 is the service context's (R132). -/
def Clus.svcReserved (k : Clus) : Bool := k.svcCtl.getLsbD 63 && (k.svcStat = 1 || k.svcStat = 2)

/-- A position no team holds. -/
def State.posFree (s : State) (c n x : Nat) : Bool :=
  let p := s.ctx ⟨c, n, x⟩
  decide (p.st = CtxSt.free) && p.slot.isNone && !((s.clus c).svcReserved && n = 0 && x = 3)

/-- Positions and tiles that a geometry takes by the rule of R113, given which positions and plane arrays are free. -/
def fitWith (free : Nat → Nat → Bool) (plane : Nat → Bool) (ntile ncore nctx : Nat) : Option (List (Nat × Nat) × List Nat) :=
  let ctxs := fun n => (List.range 4).filter (fun x => free n x)
  let cores := fun t => ((List.range 8).map (fun k => 8 * t + k)).filter (fun n => nctx ≤ (ctxs n).length)
  let tiles := (List.range 16).filter (fun t => ncore ≤ (cores t).length && plane t)
  if tiles.length < ntile then none
  else some ((tiles.take ntile).flatMap (fun t => ((cores t).take ncore).flatMap (fun n => ((ctxs n).take nctx).map (fun x => (n, x)))), tiles.take ntile)

/-- The lowest free team slot of a cluster, or 512. -/
def State.freeSlot (s : State) (c : Nat) : Nat := ((List.range 512).find? (fun k => s.teams.all (fun e => e.1 ≠ (c, k)))).getD 512

/-- A launch holds a table bank on a cluster, or one is free (R62). -/
def Clus.bankFor (k : Clus) (l : Nat × Nat) : Option Nat :=
  match (List.range 8).find? (fun i => match k.banks.toList.getD i none with | some b => b.launch = l | none => false) with
  | some i => some i
  | none => (List.range 8).find? (fun i => (k.banks.toList.getD i none).isNone)

/-- What a cluster gives a team: slot, bank, positions and tiles. -/
structure Fit where
  slot : Nat
  bank : Nat
  pos : List (Nat × Nat)
  tiles : List Nat
  deriving DecidableEq, Repr

/-- A cluster of the function takes a team of a launch now, reservations apart (R115). -/
def State.fit (s : State) (fn c : Nat) (l : Nat × Nat) (rcd : List Byte) : Option Fit :=
  if !s.clusOf fn c || 512 ≤ s.freeSlot c then none
  else
    match (s.clus c).bankFor l, fitWith (s.posFree c) (fun t => !recNeedpa rcd || (s.tile c t).holder.isNone) (recNtile rcd) (recNcore rcd) (recNctx rcd) with
    | some b, some p => some ⟨s.freeSlot c, b, p.1, p.2⟩
    | _, _ => none

/-- The team would fit on the cluster if it were empty (R117). -/
def State.fitsEmpty (s : State) (fn c : Nat) (rcd : List Byte) : Bool :=
  s.clusOf fn c && (fitWith (fun n x => !((s.clus c).svcReserved && n = 0 && x = 3)) (fun _ => true) (recNtile rcd) (recNcore rcd) (recNctx rcd)).isSome

/-! ### The start of a team (R61, R62, R65) -/

/-- The capability of a team (R65). -/
def State.capability (s : State) (c slot bank : Nat) (tiles : List Nat) : DWord :=
  let hi : Word := BitVec.ofNat 32 (tiles.foldl (fun v t => v + 2 ^ (t + 16)) 0 + bank % 8 * 2 ^ 13 + slot % 512 * 2 ^ 4)
  hi ++ Config.chk s.boot.ups hi (Assoc.get 0 slot (s.clus c).slotCount) c

/-- SEED of the context of index c in its launch (R61). -/
def startSeed (seedv : Word) (c : Nat) : Word :=
  let v := seedv ^^^ BitVec.ofNat 32 (c * 0x9E3779B9)
  if v = 0 then 1 else v

/-- The state of R61, for the i-th context of a team. -/
def startCtx (rcd : List Byte) (l : Nat × Nat) (index teamn slot i : Nat) (capt : DWord) (bast : Bool) : Ctx :=
  let size := recNtile rcd * recNcore rcd * recNctx rcd
  { Ctx.reset with
    w := Vector.ofFn (fun (k : Fin 64) => if k.val < 16 then bytesWord (rcd.drop (0xA0 + 4 * k.val)) else 0),
    pc := BitVec.ofNat 64 (recCbase rcd + recEofs rcd), tvec := BitVec.ofNat 64 (recCbase rcd + recTveco rcd),
    seed := startSeed (recSeedv rcd) (index * size + i), team := BitVec.ofNat 32 index, teamn := BitVec.ofNat 32 teamn, lnch := lnchWord l,
    capt := capt, st := .ready, slot := some slot, aspc := recAspc rcd, cbase := recCbase rcd, cpages := recCpages rcd,
    sys := recSys rcd, debug := recDebug rcd, basting := bast }

/-- The bank of a launch with the entries of its image (R62). -/
def freshBank (l : Nat × Nat) (rcd img : List Byte) : Bank := ⟨l, (List.range (recTidn rcd)).map (fun i => (i, imgEntry img i))⟩

/-- The cluster takes a bank for the launch, unless it holds one. -/
def Clus.takeBank (k : Clus) (l : Nat × Nat) (bank : Nat) (rcd img : List Byte) : Clus :=
  match k.banks.toList.getD bank none with
  | some _ => k
  | none => if h : bank < 8 then { k with banks := k.banks.set bank (some (freshBank l rcd img)) h } else k

/-- A team is placed in one step (R118). Tags of its cores that other teams hold stay as they are, so TAGS and TAGERR show them, though R61 says
0 (R139, R243; DESIGN CHOICE, log entry 40). Bank, floors of the launch's dependences (R316), plane arrays, contexts, PROG. -/
def State.placeTeam (s : State) (c : Nat) (f : Fit) (l : Nat × Nat) (rcd img : List Byte) (index teamn : Nat) (deps : List (Nat × Nat)) (bast : Bool) : State :=
  let tiles := if recNeedpa rcd then f.tiles else []
  let capt := s.capability c f.slot f.bank tiles
  let s1 := s.modClus c (fun k => deps.foldl (fun k d => if d.1 = paOwner (mkPa s.pkg c 0) then k else k.raiseFloor d.1 d.2) (k.takeBank l f.bank rcd img).acquired)
  let s2 := tiles.foldl (fun u t => u.modTile c t (fun x => { x with holder := some f.slot })) s1
  let s3 := (teamCores f.pos).foldl (fun u n => u.modCore c n (fun k => { k with code := [] })) s2
  let s4 := (f.pos.zipIdx).foldl (fun u e => u.setCtx ⟨c, e.1.1, e.1.2⟩ (startCtx rcd l index teamn f.slot e.2 capt bast)) s3
  let s5 : State := { s4 with teams := s4.teams ++ [((c, f.slot), ({ launch := l, index := index, pos := f.pos, planes := tiles, bast := bast } : Team))] }
  s5.countRetired c l 0 1

/-! ### Clusters in order (R116) -/

/-- The queue of the basting launch that reserves a cluster. -/
def State.reservedBy (s : State) (c : Nat) : Option Nat := (s.bastings.find? (fun e => e.2.clusters.contains c)).map (·.1)

/-- A function's clusters from one on, wrapping. -/
def State.clusRing (s : State) (fn : Nat) (after : Option Nat) : List Nat :=
  let cs := (List.range 128).filter (fun c => s.clusOf fn c)
  match after with
  | none => cs
  | some a => cs.filter (fun c => a < c) ++ cs.filter (fun c => c ≤ a)

/-- The clusters tried for team t of a launch. -/
def State.candidates (s : State) (fn : Nat) (rcd : List Byte) (map : Option (List Byte)) (t : Nat) (last : Option Nat) : List Nat :=
  let b := match map with
    | some m => if t < recTeams rcd then (m.getD t 0xFF).toNat else 0xFF
    | none => 0xFF
  if b = 0xFF then s.clusRing fn last else if recPstrict rcd then [b] else b :: s.clusRing fn last

/-- What the choice of a cluster gives: a place, a basting launch to unpick, or nothing. -/
inductive Choice where
  | place (c : Nat) (f : Fit)
  | unpick (q : Nat)
  | none
  deriving DecidableEq, Repr

def State.choose (s : State) (l : Launch) : Choice :=
  let fn := (s.queue l.q).fn
  let k := launchKey l.q l.seq
  let cs := s.candidates fn l.rcd l.map l.placed l.last
  match cs.findSome? (fun c => if (s.reservedBy c).isSome then none else (s.fit fn c k l.rcd).map (fun f => (c, f))) with
  | some r => .place r.1 r.2
  | none =>
    match cs.findSome? (fun c => match s.reservedBy c with
      | some q => if s.fitsEmpty fn c l.rcd && s.bastings.any (fun e => e.1 = q && (e.2.st = .running || e.2.st = .revalidating)) then some q else none
      | none => none) with
    | some q => .unpick q
    | none => .none

/-! ### Launches in order (R98, R99) -/

/-- The function places no team: a snapshot holds it quiet (R400). -/
def State.quietFn (s : State) (fn : Nat) : Bool :=
  let w : Snap := Assoc.get {} fn s.snaps
  w.quiet || w.quiescing

/-- What queue q offers: its oldest launch whose initial teams are not all placed, once it is ready, and growth. R99 orders queues; of one queue's
offers at equal priority growth goes first, the oldest launch's before others' (DESIGN CHOICE, log entry 49). -/
def State.offersOf (s : State) (q : Nat) : List Launch :=
  if s.quietFn (s.queue q).fn then []
  else
    let ls := (s.launchesOf q).filter (fun l => !l.abandoned)
    let grown := ls.filter (fun l => recTeams l.rcd ≤ l.placed && l.placed < l.teams)
    match ls.find? (fun l => l.placed < recTeams l.rcd) with
    | some l =>
      let waits := s.bastings.any (fun e => e.1 = q && e.2.matched && e.2.seq = l.seq)
      if l.ready && !waits then grown ++ [l] else grown
    | none => grown

/-- Insert by a strict order, behind equals. -/
def insertBy {α : Type} (before : α → α → Bool) (x : α) : List α → List α
  | [] => [x]
  | y :: ys => if before x y then x :: y :: ys else y :: insertBy before x ys

/-- Offered launches by priority and queue (R99). -/
def State.allOffers (s : State) : List Launch :=
  let all := (List.range 256).flatMap (fun q => if Assoc.has q s.queues then s.offersOf q else [])
  let prio := fun (l : Launch) => s.effPrio l.q l.rcd
  let dist := fun (l : Launch) => (l.q + 255 - Assoc.get 255 (prio l) s.servedQ) % 256
  all.foldl (fun acc l => insertBy (fun a b => prio b < prio a || (prio a = prio b && dist a < dist b)) l acc) []

/-- Offered launches that may receive a team, in the order of R99: while some are blocking the others of their priority and below wait. -/
def State.offers (s : State) : List Launch :=
  let prio := fun (l : Launch) => s.effPrio l.q l.rcd
  let sorted := s.allOffers
  match (sorted.filter (·.blocking)).map prio with
  | [] => sorted
  | p :: ps =>
    let top := ps.foldl max p
    sorted.filter (fun l => top < prio l || (l.blocking && prio l = top))

/-- The queue stops with GEOMETRY, and the launch is dropped or places no further team (R117). -/
def State.geometryStop (s : State) (l : Launch) : State :=
  let s1 := s.stopQueue l.q (err0Word 0x06 l.seq 0x18 0) 0 false
  if l.placed = 0 then s1.launchGone l else s1.modLaunch (launchKey l.q l.seq) (fun l => { l with abandoned := true })

/-- A launch receives its next team (R99). -/
def State.giveTeam (s : State) (l : Launch) (c : Nat) (f : Fit) : State :=
  let k := launchKey l.q l.seq
  let s1 := s.placeTeam c f k l.rcd l.img l.placed l.teams (l.dep.map (·.2)) false
  let s2 := s1.modLaunch k (fun l => { l with placed := l.placed + 1, last := some c, began := if l.placed + 1 < l.teams then some s.clk else none, blocking := false })
  ({ s2 with servedQ := Assoc.put (s.effPrio l.q l.rcd) l.q s2.servedQ } : State).post .teamPlace {}

/-! ### Resuming teams (R118, R382) -/

/-- Everything a saved team needs is free at once, and no snapshot holds its function quiet (R400). -/
def State.resumeFits (s : State) (c : Nat) (v : Saved) : Bool :=
  !s.quietFn (s.clus c).fn && s.teams.all (fun e => e.1 ≠ (c, v.slot)) && v.positions.all (fun p => s.posFree c p.1 p.2) &&
    (teamCores v.positions).all (fun n => [0, 1, 2, 3].all (fun x => (s.ctx ⟨c, n, x⟩).slot.isNone)) &&
    v.planes.all (fun t => (s.tile c t).holder.isNone) &&
    v.tables.all (fun t => ((s.tile c t.1).tables.toList.getD t.2 {}).holder.isNone) &&
    (teamCores v.positions).all (fun n => (List.range 64).all (fun i =>
      ((s.core c n).tag i).st.isFree || !(recD (s.fromImg c v ((v.coreRec n).getD 0 + 0x8200 + 8 * i) 8) 0).getLsbD 16))

/-- The saved team that a cluster's RESUME restores. -/
def Clus.resuming (k : Clus) : Option Saved := if k.pre.run = 5 then k.saved.find? (fun v => v.slot = k.pre.slot && v.img = k.pre.img) else none

/-- A resuming team of a priority at least p that fits: it goes ahead of a new team (R118). -/
def State.resumeFirst (s : State) (p : Nat) : Option Nat :=
  (s.clusters.find? (fun e => match e.2.resuming with
    | some v => p ≤ s.effPrio v.launch.1 (s.recordOf (lnchWord v.launch)) && s.resumeFits e.1 v
    | none => false)).map (·.1)

/-! ### The events -/

/-- Launches offered for the first time begin to count (R99). -/
def State.beginOffers (s : State) (l : List Launch) : State :=
  l.foldl (fun u x => if x.began.isNone then u.modLaunch (launchKey x.q x.seq) (fun y => { y with began := some s.clk }) else u) s

/-- The first offered launch that can receive a team does. -/
def State.placeFirst (s : State) : List Launch → State
  | [] => s
  | l :: ls =>
    let fn := (s.queue l.q).fn
    if (s.candidates fn l.rcd l.map l.placed l.last).all (fun c => !s.fitsEmpty fn c l.rcd) then (s.geometryStop l).post .teamPlace {}
    else
      match s.choose l with
      | .place c f =>
        (match s.resumeFirst (s.effPrio l.q l.rcd) with
         | some r => (s.post .resumePlace { clus := r }).post .teamPlace {}
         | none => s.giveTeam l c f)
      | .unpick q => (s.unpickQ q).post .teamPlace {}
      | .none => s.placeFirst ls

/-- The event TEAM_PLACE. -/
def execTeamPlace (s : State) : Out :=
  .next ((s.beginOffers s.allOffers).placeFirst s.offers)

/-- The event LAUNCH_BLOCKING for the launch of queue inp.id with sequence number inp.n. -/
def execLaunchBlocking (s : State) : Out :=
  match (s.launches.find? (fun e => e.1 = launchKey s.inp.id s.inp.n)).map (·.2) with
  | some l =>
    (match l.began with
     | some t =>
       if 2 ^ 20 ≤ s.since t && (s.offersOf l.q).any (fun x => x.seq = l.seq) then
         .next (s.modLaunch (launchKey l.q l.seq) (fun l => { l with blocking := true }))
       else .next s
     | none => .next s)
  | none => .next s

/-! ### Team stall detection (R133, R134) -/

/-- The kind of wait of R134, and 0 for a context that is no ground for a stall. -/
def State.stallKind (s : State) (p : Pos) : Nat :=
  let k := s.core p.clus p.core
  match (s.ctx p).st with
  | .blocked .recv => 1
  | .blocked (.bar _ _ _) => 2
  | .blocked (.barw _ _ _) => 3
  | .blocked .cjoin => 4
  | .blocked .convoy => 4
  | .blocked (.tagAny m _) => if (List.range 64).all (fun i => !(m.getLsbD i && (k.tag i).st.isBusy)) then 5 else 0
  | .blocked (.tagAll m) => if (List.range 64).all (fun i => !(m.getLsbD i && (k.tag i).st.isBusy)) then 5 else 0
  | _ => 0

/-- No message for a core of the team is in flight in this package, as a follow-up or in a receive buffer of the fabric (R133). -/
def State.noMessageFor (s : State) (c : Nat) (t : Team) : Bool :=
  s.pending.all (fun e => match e with
    | .event i inp => (match i, inp.load with
      | .msg, .msg it => !((destPos it.dest).clus = c && t.pos.any (fun p => p.1 = (destPos it.dest).core))
      | _, _ => true)
    | .run _ => true) &&
  s.fabric.partners.all (fun e => e.2.buffer.all (fun l => l.all (fun x => match x.body with
    | .msg it => !((destPos it.dest).clus = c && t.pos.any (fun p => p.1 = (destPos it.dest).core))
    | _ => true)))

/-- The operations of the tags of a team's cores. -/
def State.tagOps (s : State) (c : Nat) (t : Team) : List Nat := (teamCores t.pos).flatMap (fun n => (List.range 64).map (fun i => ((s.core c n).tag i).op))

/-- The event TEAM_STALL for the team of slot inp.slot of cluster inp.clus: a look at the condition of R133, which fires once the looks
that found it span 2^STALLK cycles. -/
def execTeamStall (s : State) : Out :=
  let c := s.inp.clus
  match s.team? c s.inp.slot with
  | none => .next s
  | some t =>
    let k := recStallk (s.teamRecord t)
    let live := (t.at c).filter (fun p => !(s.ctx p).st.isHalted)
    let set := fun (u : State) r => u.modTeam c s.inp.slot (fun t => { t with stallRef := r })
    if k = 0 || t.bast then .next s
    else if live.any (fun p => decide ((s.ctx p).st = .blocked .xlate)) then
      .next (set s (t.stallRef.map (fun r => (r.1, s.clk, r.2.2))))
    else if live = [] || live.any (fun p => s.stallKind p = 0) || !s.noMessageFor c t then .next (set s none)
    else
      match t.stallRef with
      | none => .next (set s (some (0, s.clk, s.tagOps c t)))
      | some r =>
        if r.2.2 ≠ s.tagOps c t then .next (set s (some (0, s.clk, s.tagOps c t)))
        else
          let n := r.1 + s.since r.2.1
          if n < 2 ^ k then .next (set s (some (n, s.clk, r.2.2)))
          else .next (live.foldl (fun u p => (u.modCtx p (fun x => { x with convoyWait := none })).takeTrap p cTEAM_STALL 0 (BitVec.ofNat 32 (s.stallKind p)) (s.ctx p).pc) (set s none))

end Sys2Proof.Machine
end

