-- ==== Sys2Proof/Machine/Basting.lean ====
section
/-! DEFINITION. The basting predictor and basting launches (R102 to R112). -/

namespace Sys2Proof.Machine

/-! ### History and prediction (R102) -/

/-- The stride words of a record, by word number: CVAL, DEPT0 to DEPT3, ARG0 to ARG7. -/
def strideWord (i : Nat) : Bool := i = 8 || i = 13 || i = 15 || i = 17 || i = 19 || (20 ≤ i && i < 28)

/-- The words of a record that are no stride words. -/
def signature (l : List Byte) : List DWord := ((List.range 32).filter (fun i => !strideWord i)).map (fun i => recWord l (8 * i))

/-- The smallest period of a history. -/
def period (h : List (List Byte)) : Option Nat :=
  let n := h.length
  let sg := fun i => signature (h.getD i [])
  [1, 2, 3, 4, 5, 6, 7, 8].find? (fun p => 2 * p ≤ n && (List.range p).all (fun i => sg (n - 1 - i) = sg (n - 1 - i - p)))

/-- A predicted stride word. -/
def predictWord (x1 x2 : DWord) (x3 : Option DWord) : Option DWord :=
  match x3 with
  | some x => if x1 - x2 = x2 - x then some (x1 + (x1 - x2)) else if x1 = x2 then some x1 else none
  | none => if x1 = x2 then some x1 else none

/-- The predicted words from word i on. -/
def predictFrom (e1 e2 : List Byte) (e3 : Option (List Byte)) : Nat → List Nat → Option (List Byte)
  | _, [] => some []
  | k, i :: is =>
    let w := if strideWord i then predictWord (recWord e1 (8 * i)) (recWord e2 (8 * i)) (e3.map (fun e => recWord e (8 * i))) else some (recWord e1 (8 * i))
    match w, predictFrom e1 e2 e3 k is with
    | some v, some l => some (dwordBytes v ++ l)
    | _, _ => none

/-- The predicted record of a history. -/
def predict (h : List (List Byte)) : Option (List Byte) :=
  match period h with
  | none => none
  | some p =>
    let n := h.length
    predictFrom (h.getD (n - p) []) (h.getD (n - 2 * p) []) (if 3 * p ≤ n then some (h.getD (n - 3 * p) []) else none) 0 (List.range 32)

/-! ### BST_CTL (R104) -/

/-- Basting launches allowed at once. -/
def Bst.maxb (b : Bst) : Nat := min 4 (b.ctl.extractLsb' 0 3).toNat
/-- LIFE in cycles. -/
def Bst.life (b : Bst) : Nat := (b.ctl.extractLsb' 8 8).toNat * 2 ^ 16

/-- A write of BST_CTL: the launches that it leaves too many, newest first, and those that are too old are unpicked. -/
def State.bstCtlWrite (s : State) (v : DWord) : State :=
  let s1 : State := { s with bst := { s.bst with ctl := v &&& 0xFF07#64 } }
  s1.bastings.foldl (fun u e =>
    let older := (s1.bastings.filter (fun x => x.2.order < e.2.order)).length
    if s1.bst.maxb ≤ older || s1.bst.life = 0 || s1.bst.life < s1.since e.2.start then u.unpickQ e.1 else u) s1

/-- The event BST_CTL_WRITE: the physical function writes inp.val. -/
def execBstCtlWrite (s : State) : Out := .next (if s.inp.fn = 0 then s.bstCtlWrite s.inp.val else s)

/-! ### Starting (R103) -/

/-- The queue has nothing left to start. -/
def State.queueIdle (s : State) (q : Nat) : Bool :=
  let k := s.queue q
  decide (k.st = QState.active) && k.baste && k.prod = k.cons && k.histNew && (s.launchesOf q).all (fun l => recTeams l.rcd ≤ l.placed) && !Assoc.has q s.bastings

/-- Whether predicted dependence i holds already, with its owner and stamp: none where it does not, or cannot be read (R103). -/
def State.depHolds (s : State) (c q : Nat) (rcd : List Byte) (i : Nat) : Except State (State × Option (Nat × Nat)) :=
  match s.frontUnit c (recAspc rcd) q 0 (recDepa rcd i) with
  | .wait t => .error t
  | .fail t => .ok (t, none)
  | .ok o stamp l =>
    .ok (s, if (recDept rcd i).toNat ≤ (bytesDWord (l.drop ((recDepa rcd i).toNat % 64))).toNat then some (o, stamp) else none)

/-- The predicted dependences of a list: their owners and stamps where every one holds. -/
def State.depsHold (s : State) (c q : Nat) (rcd : List Byte) : List Nat → Except State (State × Option (List (Nat × Nat)))
  | [] => .ok (s, some [])
  | i :: is =>
    match s.depHolds c q rcd i with
    | .error t => .error t
    | .ok (t, none) => .ok (t, none)
    | .ok (t, some d) =>
      match t.depsHold c q rcd is with
      | .ok (u, some l) => .ok (u, some (d :: l))
      | r => r

/-- Place the teams of a basting launch one after another on allowed clusters; nothing where one does not fit. -/
def State.basteTeams (s : State) (fn : Nat) (l : Nat × Nat) (rcd img : List Byte) (map : Option (List Byte)) (ok : List Nat) (deps : List (Nat × Nat)) :
    Nat → Nat → Option Nat → Option (State × List Nat × List (Nat × Nat))
  | 0, _, _ => some (s, [], [])
  | n + 1, t, last =>
    match ((s.candidates fn rcd map t last).filter (fun c => ok.contains c)).findSome? (fun c => (s.fit fn c l rcd).map (fun f => (c, f))) with
    | none => none
    | some r =>
      match (s.placeTeam r.1 r.2 l rcd img t (recTeams rcd) deps true).basteTeams fn l rcd img map ok deps n (t + 1) (some r.1) with
      | none => none
      | some x => some (x.1, r.1 :: x.2.1, (teamCores r.2.pos).map (fun m => (r.1, m)) ++ x.2.2)

/-- A launch that is offered, or a RESUME, has a placement pending on a cluster (R103). -/
def State.placementPending (s : State) (c : Nat) : Bool :=
  decide ((s.clus c).pre.run = 5) ||
    s.offers.any (fun l => (s.candidates (s.queue l.q).fn l.rcd l.map l.placed l.last).contains c && s.fitsEmpty (s.queue l.q).fn c l.rcd)

/-- A predicted record is started where every condition of R103 holds, its dependences among them. -/
def State.basteTry (s : State) (q : Nat) (rcd : List Byte) (map img : Option (List Byte)) (deps : List (Nat × Nat)) : Option State :=
  let k := s.queue q
  if !(recBok rcd) || recSys rcd || recDebug rcd || (s.recordBad k.fn rcd map img).isSome then none
  else
    let ok := (List.range 128).filter (fun c => s.clusOf k.fn c && s.teams.all (fun e => e.1.1 ≠ c) && (s.reservedBy c).isNone && !s.placementPending c)
    let image := if recTidn rcd = 0 then [] else img.getD []
    let l := launchKey q k.prod
    match s.basteTeams k.fn l rcd image (if recPmap rcd = 0 then none else map) ok deps (recTeams rcd) 0 none with
    | none => none
    | some r =>
      let b : Basting := { st := .running, rcd := rcd, img := image, seq := k.prod, clusters := firstUse r.2.1, teamClus := r.2.1, start := s.clk,
                           order := s.nextId, deps := deps, cores := r.2.2.eraseDups }
      some ({ r.1 with readSets := Assoc.del q r.1.readSets, bastings := Assoc.put q b r.1.bastings, bst := { r.1.bst with starts := r.1.bst.starts + 1 }, nextId := s.nextId + 1 } : State)

/-- The predictor is done with a queue's history. -/
def State.baste0 (s : State) (q : Nat) : State := s.modQueue q (fun k => { k with histNew := false, trying := false })

/-- The predictor has read what a predicted record names, given its map and image: it starts the launch, or drops the record without trace
until the queue's history changes. -/
def State.basteGo (s : State) (q : Nat) (rcd : List Byte) (map img : Option (List Byte)) : State :=
  match s.firstClus (s.queue q).fn with
  | none => s.baste0 q
  | some c =>
    match s.depsHold c q rcd (List.range (min 4 (recNdep rcd))) with
    | .error t => t
    | .ok (t, none) => t.baste0 q
    | .ok (t, some deps) => ((t.basteTry q rcd map img deps).getD t).baste0 q

/-- The predictor begins to read for a queue. -/
def State.basteReads (s : State) (q : Nat) : State :=
  if (s.queue q).trying then s
  else ({ s with nextId := s.nextId + 1, clusters := s.clusters.map (fun e => (e.1, { e.2 with xfails := e.2.xfails.filter (fun x => x.1 ≠ .quiet (.baste q)) })) } : State).modQueue
    q (fun k => { k with rid := s.nextId, got := [], trying := true })

/-- The event BASTE_START for queue inp.id. The map and the image of a host queue come with the event; a device queue's are read through the
read table. -/
def execBasteStart (s : State) : Out :=
  let q := s.inp.id
  if !(s.ready && s.queueIdle q && s.bastings.length < s.bst.maxb && s.bst.life ≠ 0) || s.quietFn (s.queue q).fn then .next s
  else
    match predict (s.queue q).hist with
    | none => .next s
    | some rcd =>
      let k := s.queue q
      let s0 := s.basteReads q
      .next (
        if !k.device then
          let given := match s.inp.load with | .record r => (r.map, r.img) | _ => (none, none)
          s0.basteGo q rcd (given.1.map (fun m => m.take (recTeams rcd))) (given.2.map (fun m => padTo (64 * recTidn rcd) m))
        else if s0.badBy 6 k.fn rcd (some []) (some []) then s0.basteGo q rcd none none
        else
          match s0.frontMap q k.fn 0 rcd with
          | .error t => t
          | .ok (s1, map) =>
            match s1.frontImage q k.fn 0 rcd with
            | .error t => t
            | .ok (s2, img) => s2.basteGo q rcd map img)

/-! ### Claiming (R108) -/

def State.setBasting (s : State) (q : Nat) (b : Basting) : State := { s with bastings := Assoc.put q b s.bastings }

/-- The contexts of a basting launch. -/
def State.bastCtxs (s : State) (q : Nat) : List Pos := (s.ctxs.filter (fun e => e.2.bast = some q)).map (·.1)

/-- The event BASTE_ADOPT for queue inp.id: its contexts halt at a boundary and the owners of other packages are asked. -/
def execBasteAdopt (s : State) : Out :=
  let q := s.inp.id
  match s.basting? q with
  | none => .next s
  | some b =>
    match (s.launches.find? (fun e => e.1 = launchKey q b.seq)).map (·.2) with
    | none => .next s
    | some l =>
      if !(decide (b.st = BastSt.running) && b.matched && l.ready) then .next s
      else
        let s1 := (s.bastCtxs q).foldl (fun u p => u.modCtx p (fun c => { c with stop := true })) s
        let set := Assoc.get [] q s1.readSets
        let pages := (set.filter (fun e => paPkg (4096 * e.2.1) ≠ s.pkg)).map (·.2.1)
        let s2 := s1.setBasting q { b with st := .revalidating, awaiting := pages }
        if pages.any (fun g => s.dead.getLsbD (paPkg (4096 * g))) then .next (s2.unpickQ q)
        else
          let s3 := (firstUse (pages.map (fun g => paPkg (4096 * g)))).foldl (fun u x => u.queueItem x 0 0 (.genReq q (pages.filter (fun g => paPkg (4096 * g) = x)))) s2
          .next (if pages = [] then s3.post .basteRevalidated { id := q } else s3)

/-- The event GEN_REPLY: generations, by page, for the basting launch of queue inp.id (R334). -/
def execGenReply (s : State) : Out :=
  let q := s.inp.id
  match s.basting? q with
  | none => .next s
  | some b =>
    if b.st ≠ .revalidating then .next s
    else
      let set := Assoc.get [] q s.readSets
      let bad := s.inp.pairs.any (fun g => b.awaiting.contains g.1 && set.any (fun e => e.2.1 = g.1 && e.2.2 ≠ g.2))
      let left := b.awaiting.filter (fun g => !s.inp.pairs.any (fun x => x.1 = g))
      let s1 := s.setBasting q { b with awaiting := left }
      .next (if bad then s1.unpickQ q else if left = [] then s1.post .basteRevalidated { id := q } else s1)

/-- A shadow line goes home whole (step 3 of R108). -/
def State.commitLine (s : State) (c : Nat) (l : Nat × Nat × List Byte) : State := s.performWrite c none l.2.1 (cellsAt (64 * l.1) l.2.2)

/-- Step 3: every shadow line is written home and shadowing ends; with the lines the A and D bits that the launch's walks have set. -/
def State.commit (s : State) (q : Nat) (b : Basting) : State :=
  let s1 := b.clusters.foldl (fun u c => ((u.clus c).shadow.foldl (fun v l => v.commitLine c l) u).modClus c (fun k => { k with shadow := [], deferredLines := 0 })) s
  let s2 : State := { s1 with
    pulls := s1.pulls.map (fun e => if e.2.bast = some q then (e.1, { e.2 with bast := none }) else e),
    tiles := s1.tiles.map (fun e => (e.1, { e.2 with cmds := e.2.cmds.map (fun m => if m.bast = some q then { m with bast := none } else m) })),
    clusters := s1.clusters.map (fun e => (e.1, { e.2 with
      tlb := e.2.tlb.map (fun t => if t.bast = some q then { t with bast := none } else t),
      walks := e.2.walks.map (fun w => if w.bast = some q then { w with bast := none } else w) })),
    cores := s1.cores.map (fun e => (e.1, { e.2 with tlb := e.2.tlb.map (fun t => if t.bast = some q then { t with bast := none } else t) })),
    readSets := Assoc.del q s1.readSets }
  s2.setBasting q { b with st := .committing }

/-- A pull of a basting launch has bytes left for shadow lines (step 3 of R108); the refill of a stream lands in its core's store. -/
def State.bastLanding (s : State) (q : Nat) (b : Basting) : Bool :=
  s.pulls.any (fun e => e.2.bast = some q && e.2.err = 0 && e.2.bytes.any (fun x => match paRegion x.dst with
    | .core n => !b.cores.contains (paClus x.dst, n)
    | _ => true))

/-- The event BASTE_REVALIDATED for queue inp.id: every entry of the read set must stand (step 2 of R108), and the launch's pulls must
have landed in its shadow lines; while one has not it looks again later. -/
def execBasteRevalidated (s : State) : Out :=
  let q := s.inp.id
  match s.basting? q with
  | none => .next s
  | some b =>
    if b.st ≠ .revalidating || b.awaiting ≠ [] || b.doomed then .next s
    else if (Assoc.get [] q s.readSets).any (fun e => paPkg (4096 * e.2.1) = s.pkg && Assoc.get 0 e.2.1 s.gens ≠ e.2.2) then
      .next (s.unpickQ q)
    else if s.bastLanding q b then .next (s.post .basteRevalidated s.inp)
    else .next ((s.commit q b).post .basteCommitted { id := q })

/-- The sender that stands for the front end's replay of a context's message. -/
def replayPos (p : Pos) : Pos := ⟨p.clus, p.core, p.ctx + 8⟩

/-- Drop the first effect that a launch still replays; contexts that were ordered after it go on. -/
def dropFirst (k : Nat × Nat) : List ((Nat × Nat) × Deferred) → List ((Nat × Nat) × Deferred)
  | [] => []
  | e :: es => if e.1 = k then es else e :: dropFirst k es

def State.replayed (s : State) (k : Nat × Nat) (e : Deferred) : State :=
  let s1 : State := { s with replay := dropFirst k s.replay }
  if (s1.ctx e.src).st = .blocked .result || (s1.ctx e.src).st = .blocked .behind then s1.wake e.src else s1

/-- The first effect that a launch still replays is this from now on. -/
def setFirst (k : Nat × Nat) (d : Deferred) : List ((Nat × Nat) × Deferred) → List ((Nat × Nat) × Deferred)
  | [] => []
  | e :: es => if e.1 = k then (k, d) :: es else e :: setFirst k d es

/-- The front end sends a message of the launch, or sends it again, under a new number. -/
def State.replaySend (s : State) (k : Nat × Nat) (it : MsgItem) : State :=
  let m := { it with num := s.nextId }
  let s1 : State := { s with nextId := s.nextId + 1, replay := setFirst k (.msg m) s.replay }
  (s1.sends (replayPos it.src) m.num (lnchWord k) (destPkg it.dest) (fun c => c)).sendMsg { m with src := replayPos it.src, listed := true }

/-- The replay of a launch goes on until an effect has to wait for an answer or for room (step 4 of R108). n bounds the effects. Step 3 has written the
milestone's line home as the launch left it, so that a replayed PUB only publishes its value; what the launch stored there later stays (R109). -/
def State.replayOn (s : State) (k : Nat × Nat) : Nat → State
  | 0 => s
  | n + 1 =>
    match s.replay.find? (fun e => e.1 = k) with
    | none => s
    | some (_, e) =>
      match e with
      | .pub p pa _ v => ((s.published p.clus pa v).replayed k e).replayOn k n
      | .msg it => s.replaySend k it
      | .enq p w rcd =>
        let r := s.enqServe p (lnchWord k) (w.setWidth 64) rcd
        let s1 := r.1.count p.clus (lnchWord k) (fun c => { c with eans := c.eans + 1 })
        if r.2 = 1 then s1.modQueue (w.extractLsb' 0 8).toNat (fun c => { c with enqs := c.enqs ++ [replayPos p] })
        else (s1.replayed k e).replayOn k n

/-- Count a deferred effect as one that is to be sent, or sent again (R390, R392). -/
def State.countReplay (s : State) (k : Nat × Nat) : Deferred → State
  | .pub _ _ _ _ => s
  | .msg it => s.count it.src.clus (lnchWord k) (fun c => { c with miss := c.miss + 1 })
  | .enq p _ _ => s.count p.clus (lnchWord k) (fun c => { c with eiss := c.eiss + 1 })

/-- Whether an answer to a number, or a notification that an ENQ may be made again, is for an effect being replayed. -/
def Deferred.hears (e : Deferred) (p : Pos) (num : Nat) (a : MsgAns) : Bool :=
  replayPos e.src = p &&
    (match e with
     | .pub _ _ _ _ => false
     | .msg it => it.num = num
     | .enq _ _ _ => a = .notify)

/-- The front end hears of the message or the request it replays for a context. One that is refused, or whose package is dead, has no context to trap:
it is dropped and the replay goes on, as after an ENQ answered 2 or 3 (the spec speaks of full targets only; DESIGN CHOICE, log entry 48). -/
def State.replayAnswer (s : State) (p : Pos) (num : Nat) (a : MsgAns) : State :=
  match s.replay.find? (fun e => e.2.hears p num a) with
  | none => s
  | some (k, e) =>
    match a with
    | .full => s
    | .notify => (s.countReplay k e).replayOn k s.replay.length
    | .accept => (s.replayed k e).replayOn k s.replay.length
    | .refuse => (s.replayed k e).replayOn k s.replay.length
    | .dead => (s.replayed k e).replayOn k s.replay.length

/-- The event BASTE_COMMITTED: every line of queue inp.id is home and the replay begins; or, with the flag, the answer to what it
replays for the context at inp.pos. -/
def execBasteCommitted (s : State) : Out :=
  if s.inp.flag then
    match s.inp.load with
    | .msgAns a => .next (s.replayAnswer s.inp.pos s.inp.id a)
    | _ => .next s
  else
    let q := s.inp.id
    match s.basting? q with
    | none => .next s
    | some b =>
      if b.st ≠ .committing || (s.deferred.filter (fun e => e.1 = q) = [] && s.replay.any (fun e => e.1 = launchKey q b.seq)) then .next s
      else
        let k := launchKey q b.seq
        let mine := (s.deferred.filter (fun e => e.1 = q)).map (·.2)
        let s1 : State := { s with deferred := s.deferred.filter (fun e => e.1 ≠ q), replay := s.replay ++ mine.map (fun e => (k, e)) }
        let s2 := mine.foldl (fun u e => u.countReplay k e) s1
        .next ((s2.replayOn k mine.length).post .basteClaimed { id := q })

/-- The event BASTE_CLAIMED for queue inp.id: the launch is an ordinary one from here on (step 5 of R108). -/
def execBasteClaimed (s : State) : Out :=
  let q := s.inp.id
  match s.basting? q with
  | none => .next s
  | some b =>
    if b.st ≠ .committing || s.deferred.any (fun e => e.1 = q) then .next s
    else
      let k := launchKey q b.seq
      let left := (s.teams.filter (fun e => e.2.launch = k)).length
      let s1 := (s.bastCtxs q).foldl (fun u p => u.modCtx p (fun c =>
        { c with basting := false, stop := false, st := if c.st = .blocked .held then .ready else c.st })) s
      let s2 := s1.modLaunch k (fun l => { l with placed := recTeams l.rcd, retired := recTeams l.rcd - left, last := b.teamClus.getLast? })
      let s3 : State := { s2 with teams := s2.teams.map (fun e => if e.2.launch = k then (e.1, { e.2 with bast := false }) else e),
                                  bastings := Assoc.del q s2.bastings, bst := { s2.bst with claims := s2.bst.claims + 1 } }
      let own := fun (u : State) c => u.modClus c (fun x => b.deps.foldl (fun x d => if d.1 = paOwner (mkPa s.pkg c 0) then x else x.raiseFloor d.1 d.2) x)
      .next ((b.clusters.foldl (fun u c => (own u c).post .bFetchDone { clus := c }) s3).post .teamPlace {})

/-! ### Unpicking (R110) -/

/-- The event BASTE_UNPICK of the basting launch of queue inp.id: what R110 lists unpicks a launch in REVALIDATING too, also the expiry of
LIFE, an ERROR of its queue and a change of BST_CTL, which R112 does not list for that state (DESIGN CHOICE, log entry 34). -/
def execBasteUnpick (s : State) : Out := .next (s.unpickQ s.inp.id)

/-- The event BASTE_LIFE_EXPIRY for queue inp.id. -/
def execBasteLifeExpiry (s : State) : Out :=
  match s.basting? s.inp.id with
  | none => .next s
  | some b => if s.bst.life ≤ s.since b.start then .next (s.unpickQ s.inp.id) else .next s

end Sys2Proof.Machine
end

