-- ==== Sys2Proof/Machine/Control.lean ====
section
/-! DEFINITION. Branches, jumps, loops and turns (R179 to R189), special registers (R190 to R193), and TRAP, RFT, BKPT and
SVC (R367 to R370). -/

namespace Sys2Proof.Machine

/-! ### Branches and jumps -/

/-- 2 times a signed halfword offset from the instruction (R149). -/
def target {n : Nat} (pc : DWord) (o : BitVec n) : DWord := pc + (o.signExtend 64 <<< 1)

/-- A conditional branch: to its target where the condition of its operands holds, else past itself. -/
def branch (i : Instr) (o : BitVec 12) (cond : Ctx → Bool) (s : State) : Out :=
  runInstr i s (fun t => if cond t.me then .jump t (target t.me.pc o) else .done t)

def execBeq (a b : Reg) (o : BitVec 12) (s : State) : Out := branch (.beq a b o) o (fun c => Cc.holds .eq (c.reg a) (c.reg b)) s
def execBne (a b : Reg) (o : BitVec 12) (s : State) : Out := branch (.bne a b o) o (fun c => Cc.holds .ne (c.reg a) (c.reg b)) s
def execBlt (a b : Reg) (o : BitVec 12) (s : State) : Out := branch (.blt a b o) o (fun c => Cc.holds .lt (c.reg a) (c.reg b)) s
def execBge (a b : Reg) (o : BitVec 12) (s : State) : Out := branch (.bge a b o) o (fun c => Cc.holds .ge (c.reg a) (c.reg b)) s
def execBltu (a b : Reg) (o : BitVec 12) (s : State) : Out := branch (.bltu a b o) o (fun c => Cc.holds .ltu (c.reg a) (c.reg b)) s
def execBgeu (a b : Reg) (o : BitVec 12) (s : State) : Out := branch (.bgeu a b o) o (fun c => Cc.holds .geu (c.reg a) (c.reg b)) s

def execBriEq (a : Reg) (i : BitVec 6) (o : BitVec 12) (s : State) : Out := branch (.briEq a i o) o (fun c => Cc.holds .eq (c.reg a) (i.signExtend 32)) s
def execBriNe (a : Reg) (i : BitVec 6) (o : BitVec 12) (s : State) : Out := branch (.briNe a i o) o (fun c => Cc.holds .ne (c.reg a) (i.signExtend 32)) s
def execBriLt (a : Reg) (i : BitVec 6) (o : BitVec 12) (s : State) : Out := branch (.briLt a i o) o (fun c => Cc.holds .lt (c.reg a) (i.signExtend 32)) s
def execBriGe (a : Reg) (i : BitVec 6) (o : BitVec 12) (s : State) : Out := branch (.briGe a i o) o (fun c => Cc.holds .ge (c.reg a) (i.signExtend 32)) s
def execBriLtu (a : Reg) (i : BitVec 6) (o : BitVec 12) (s : State) : Out := branch (.briLtu a i o) o (fun c => Cc.holds .ltu (c.reg a) (i.setWidth 32)) s
def execBriGeu (a : Reg) (i : BitVec 6) (o : BitVec 12) (s : State) : Out := branch (.briGeu a i o) o (fun c => Cc.holds .geu (c.reg a) (i.setWidth 32)) s

def execJ (o : BitVec 24) (s : State) : Out := runInstr (.j o) s (fun t => .jump t (target t.me.pc o))
def execJl (o : BitVec 24) (s : State) : Out :=
  runInstr (.jl o) s (fun t => .jump (t.modMe (fun c => c.setPair 62 (c.pc + 4))) (target t.me.pc o))
def execJlr (d a : Reg) (s : State) : Out :=
  runInstr (.jlr d a) s (fun t => .jump (t.modMe (fun c => c.setPair d (c.pc + 4))) (t.me.pair a &&& ~~~1#64))

/-! ### Loops (R184 to R187) -/

/-- LOOP and LOOPI with a count and an end offset in halfwords (R185). -/
def loopBy (n : Ctx → Word) (o : BitVec 12) (t : State) : Eff :=
  let pc := t.me.pc
  let e := pc + (o.setWidth 64 <<< 1)
  if o.toNat ≤ 2 then .jump t (pc + 4)
  else if n t.me = 0 then .jump t e
  else if 3 ≤ t.me.depth then .trap cLOOP_DEPTH 0 (BitVec.ofNat 32 t.me.depth)
  else .jump (t.modMe (fun c => c.pushLoop (c.pc + 4) e (n t.me))) (pc + 4)

def execLoop (a : Reg) (o : BitVec 12) (s : State) : Out := runInstr (.loop a o) s (loopBy (fun c => c.reg a) o)
def execLoopi (c o : BitVec 12) (s : State) : Out := runInstr (.loopi c o) s (loopBy (fun _ => c.setWidth 32) o)

def execLexit (s : State) : Out :=
  runInstr .lexit s (fun t =>
    if t.me.depth = 0 then .trap cLOOP_DEPTH 0 0
    else .done (t.modMe (fun c => { c.setLoopCnt (c.depth - 1) 0 with depth := c.depth - 1 })))

/-! ### Turns and halting (R189) -/

def execNop (s : State) : Out := runInstr .nop s (fun t => .done t)

/-- YIELD: the context stays READY and gives up its turn (R120). -/
def execYield (s : State) : Out := runInstr .yield s (fun t => .done (t.modMyCore (fun k => { k with turnOn := false })))

/-- HALT: the pc keeps the address of the HALT; it counts in RETC (R189, R193). -/
def execHalt (s : State) : Out :=
  .next (((s.modMe (fun c => { c.deliver with retc := c.retc + 1, skipbp := false, ibits := Instr.bits .halt, ilen := 4 })).modMyCore
    (fun k => { k with turnOn := false })).halt s.cur)

/-! ### Special registers (R139, R190 to R193) -/

/-- MAILST (R192). -/
def Core.mailst (k : Core) (x : Nat) : Word :=
  BitVec.ofNat 32 (k.mail.length % 32 * 2 ^ 16 + (k.mail.filter (fun m => m.ctx = x)).length % 32 * 2 ^ 8 +
    (if 16 ≤ k.mail.length then 1 else 0))

/-- The value of a special register for the current context, zero-extended. -/
def State.sregRead (s : State) (r : SReg) : DWord :=
  let c := s.me
  match r with
  | .tags => s.myCore.tagBits
  | .tagerr => s.myCore.tagErrBits
  | .lcnt i => (c.lcnt[i.val]).setWidth 64
  | .xpc => c.xpc
  | .xcause => c.xcause.setWidth 64
  | .xaddr => c.xaddr
  | .xinfo => c.xinfo.setWidth 64
  | .tvec => c.tvec
  | .rmode => c.rmode.setWidth 64
  | .seed => c.seed.setWidth 64
  | .ctx => BitVec.ofNat 64 s.cur.ctx
  | .core => BitVec.ofNat 64 s.cur.core
  | .tile => BitVec.ofNat 64 (s.cur.core / 8)
  | .clus => BitVec.ofNat 64 s.cur.clus
  | .pkg => BitVec.ofNat 64 s.pkg
  | .team => c.team.setWidth 64
  | .teamn => c.teamn.setWidth 64
  | .lnch => c.lnch.setWidth 64
  | .capt => c.capt
  | .clk => s.clk
  | .retc => c.retc
  | .mailst => (s.myCore.mailst s.cur.ctx).setWidth 64
  | .leasest => c.leasest.setWidth 64
  | .bpa i => c.bpa.toList.getD i.toNat 0
  | .deadw i => (s.dead.extractLsb' (32 * i.toNat) 32).setWidth 64

/-- MFS (R190). Reading TAGS finds the tags that are DONE (R235). -/
def execMfs (d : Reg) (sr : SReg) (s : State) : Out :=
  runInstr (.mfs d sr) s (fun t =>
    let v := t.sregRead sr
    let found := if sr = .tags then t.myCore.doneOps (~~~0#64) else []
    .done (t.modMe (fun c => { (if sr.wide then c.setPair d v else c.setReg d (v.setWidth 32)) with seen := found ++ c.seen })))

/-- What MTS does: PRIV for a register that may not be written, ILLEGAL for a refused RMODE, else the write (R191). -/
inductive SrWrite where
  | priv | illegal | set (c : Ctx)

/-- The write of a special register (R139, R140, R191, R192; RMODE R74, SEED R77). -/
def Ctx.sregWrite (c : Ctx) (r : SReg) (v : DWord) : SrWrite :=
  let w := v.setWidth 32
  match r with
  | .tags => .priv
  | .tagerr => .priv
  | .lcnt i => .set { c with lcnt := c.lcnt.set i.val w }
  | .xpc => .set { c with xpc := codeAddr v }
  | .xcause => .set { c with xcause := w &&& 0xFF }
  | .xaddr => .set { c with xaddr := v }
  | .xinfo => .set { c with xinfo := w }
  | .tvec => .set { c with tvec := codeAddr v }
  | .rmode => if rmodeLegal w then .set { c with rmode := w &&& 0x307 } else .illegal
  | .seed => .set { c with seed := if w = 0 then 1 else w }
  | .ctx => .priv
  | .core => .priv
  | .tile => .priv
  | .clus => .priv
  | .pkg => .priv
  | .team => .priv
  | .teamn => .priv
  | .lnch => .priv
  | .capt => if c.sys then .set { c with capt := v &&& ~~~(0xF#64 <<< 32) } else .priv
  | .clk => .priv
  | .retc => .priv
  | .mailst => .priv
  | .leasest => .priv
  | .bpa i => if c.debug || c.sys then .set { c with bpa := c.bpa.set i.toNat (codeAddr v) } else .priv
  | .deadw _ => .priv

/-- Whether MTS to a register traps PRIV, whatever the value (R139, R150). -/
def Ctx.mtsPriv (c : Ctx) (r : SReg) : Bool :=
  match c.sregWrite r 1 with
  | .priv => true
  | .illegal => false
  | .set _ => false

/-- MTS (R191). The privilege is checked before the operand is read (R150). -/
def execMts (sr : SReg) (a : Reg) (s : State) : Out :=
  runReading (.mts sr a) (if s.me.mtsPriv sr then [] else Instr.reads (.mts sr a)) s (fun t =>
    match t.me.sregWrite sr (if sr.wide then t.me.pair a else (t.me.reg a).setWidth 64) with
    | .priv => priv (.mts sr a)
    | .illegal => illegal (.mts sr a)
    | .set c => .done (t.setMe c))

/-! ### System instructions (R367 to R370) -/

def execTrap (code : BitVec 6) (s : State) : Out :=
  runInstr (.trap code) s (fun t => .trapTo cTRAP 0 (code.setWidth 32) (t.me.pc + 4))
def execBkpt (s : State) : Out := runInstr .bkpt s (fun _ => .trap cBKPT 0 0)
/-- RFT; in a basting launch it is held (R368). -/
def execRft (s : State) : Out := runInstr .rft s (fun t => if t.me.basting then .wait t .held else .ret t)

/-- SVC (R370): PERM without a running service context or from it, the release, the SERVICE message, then the wait for its
answer; a SENDT's answer comes first. In a basting launch it is held (R105). -/
def execSvc (n : Reg) (s : State) : Out :=
  runInstr (.svc n) s (fun t =>
    if t.me.basting then .wait t .held
    else if t.me.ans.isSome then .wait t .result
    else if !t.myClus.svcRunning || t.cur = svcPos t.cur.clus then .trap cPERM 0 0x34
    else
      let p := t.cur
      let g := t.me.group n 6
      let body := svcMessage .service 0 t.me.aspc .read 0 .load 0 (.ctx p)
        (g.getD 1 0 ++ g.getD 0 0) (g.getD 3 0 ++ g.getD 2 0) (g.getD 5 0 ++ g.getD 4 0)
      let r := t.release
      let t1 := ({ r with nextId := r.nextId + 1 } : State).postToken p.clus ⟨0, .service, t.me.aspc, .read, 0, [(.ctx p, 0, .load)], body, r.nextId⟩
      .wait (t1.modMe (fun c => { c with ans := some (.svc, n), ansId := r.nextId })) (.answer .svc))

end Sys2Proof.Machine
end

