-- ==== Sys2Proof/Machine/Convert.lean ====
section
/-! DEFINITION. The conversions of R256 to R259. -/

namespace Sys2Proof.Machine

/-- Destination lane j is the conversion of source lane j, over groups of r destination and q source octets. -/
def convertLanes (i : Instr) (dt st : Ty) (mode : Ctx → RMode) (d a : Oct) (r q : Nat) (m : MReg) (s : State) : Out :=
  runInstr i s (fun u =>
    writeLanes d dt.bytes r m (mode u.me) (fun c j step => convertFl dt (mode c) step (laneVal st (laneAt (c.lanes st.bytes a q) j))) u)

/-- A conversion between two integer types takes no rounding (R248). -/
def cvtMode (dt st : Ty) (r : Rc) (c : Ctx) : RMode := if dt.isInt && st.isInt then .rne else c.rmodeOf r

def execVcvt (t st : Ty) (r : Rc) (d a : Oct) (m : MReg) (s : State) : Out :=
  convertLanes (.vcvt t st r d a m) t st (cvtMode t st r) d a 1 1 m s
def execVcvtw (t st : Ty) (d a : Oct) (m : MReg) (s : State) : Out :=
  convertLanes (.vcvtw t st d a m) t st (fun _ => .rne) d a (t.bytes / st.bytes) 1 m s
def execVcvtn (t st : Ty) (r : Rc) (d a : Oct) (m : MReg) (s : State) : Out :=
  convertLanes (.vcvtn t st r d a m) t st (cvtMode t st r) d a 1 (st.bytes / t.bytes) m s

/-- Two codes a byte. -/
def packCodes : List Nat → List Byte
  | x :: y :: t => BitVec.ofNat 8 (x + 16 * y) :: packCodes t
  | _ => []

/-- VQNT (R258, R86). -/
def execVqnt (st : Ty) (d a : Oct) (s : State) : Out :=
  runInstr (.vqnt st d a) s (fun u =>
    let l := (u.me.lanes st.bytes a st.bytes).map (flOf st)
    match l.findIdx? Fl.special with
    | some j => cvtOverflow j true
    | none =>
      let q := quantise l
      let bytes := packCodes q.2.2 ++ [BitVec.ofNat 8 q.1, BitVec.ofNat 8 q.2.1] ++ List.replicate 14 0
      .done (u.modMe (fun c => c.setGroup (oct d) (bytesWords 8 bytes))))

/-- VDQ (R259, R73). -/
def execVdq (t : Ty) (r : Rc) (d a : Oct) (m : MReg) (s : State) : Out :=
  runInstr (.vdq t r d a m) s (fun u =>
    let mode := u.me.rmodeOf r
    writeLanes d t.bytes t.bytes m mode (fun c j step =>
      let l := wordsBytes (c.group (oct a) 8)
      convertFl t mode step (ex4Value (ex4Code l j) (l.getD 16 0).toNat (l.getD 17 0).toNat)) u)

end Sys2Proof.Machine
end

