-- ==== Sys2Proof/Machine/Service.lean ====
section
/-! DEFINITION. The events of a cluster's device-register window as the host writes it through BAR2 (R51): walks (R38), TU_REPLY and TU_INV
(R373, R374), SVC_CTL (R130, R131), and the debug window (R386). -/

namespace Sys2Proof.Machine

/-- A function reaches a cluster's window (R51). -/
def State.clusReach (s : State) (fn c : Nat) : Bool := s.fnLive fn && c < 128 && (fn = 0 || (s.clus c).fn = fn)

/-- The event TABLE_WALK_READ: walk inp.id of cluster inp.clus examines its next entry, once it stands in a walker. -/
def execTableWalkRead (s : State) : Out :=
  match (s.clus s.inp.clus).walks.find? (fun w => w.id = s.inp.id) with
  | some w => .next (if (s.clus s.inp.clus).inWalker w.id then s.walkRead s.inp.clus w else s)
  | none => .next s

/-- The event TU_RETRY: TU_REPLY with ACTION 0, its other fields in inp.val. -/
def execTuRetry (s : State) : Out := .next (if s.clusReach s.inp.fn s.inp.clus then s.tuRetry s.inp.clus s.inp.val else s)
/-- The event TU_FAIL: ACTION 1. -/
def execTuFail (s : State) : Out := .next (if s.clusReach s.inp.fn s.inp.clus then s.tuFail s.inp.clus s.inp.val else s)
/-- The event TU_ANSWER: ACTION 2. -/
def execTuAnswer (s : State) : Out := .next (if s.clusReach s.inp.fn s.inp.clus then s.tuAnswer s.inp.clus s.inp.val else s)

/-- TU_INV with a command, its other fields in inp.val. -/
def State.tuInvCmd (s : State) (cmd : Nat) : State :=
  if s.clusReach s.inp.fn s.inp.clus then
    s.tuInvWrite s.inp.clus ((s.inp.val &&& 0x0FFFFFFFFFFFFFFF#64) ||| BitVec.ofNat 64 (cmd * 2 ^ 60))
  else s

/-- The event TU_INV_PAGE. -/
def execTuInvPage (s : State) : Out := .next (s.tuInvCmd 1)
/-- The event TU_INV_SPACE. -/
def execTuInvSpace (s : State) : Out := .next (s.tuInvCmd 2)
/-- The event TU_INV_ALL. -/
def execTuInvAll (s : State) : Out := .next (s.tuInvCmd 3)
/-- The event TU_INV_DONE for cluster inp.clus: commands whose walks and pins have gone end. -/
def execTuInvDone (s : State) : Out := .next (s.invStep s.inp.clus)

/-- The event SVC_CTL_WRITE: the physical function writes inp.val for cluster inp.clus (R130). -/
def execSvcCtlWrite (s : State) : Out :=
  .next (if s.inp.fn = 0 && s.inp.clus < 128 then (s.svcCtlWrite s.inp.clus s.inp.val).post .teamPlace {} else s)

/-! ### The debug window (R386) -/

/-- The window stays BUSY. -/
def State.dbgBusy (s : State) (c : Nat) (cmd : Option (Bool × Nat × DWord)) : State :=
  s.modClus c (fun k => { k with dbg := { k.dbg with cmd := cmd, busy := true, done := false, err := false, code := 0 } })

/-- A debug access once it may be translated: a refusal by its code, or an owner_read of 8 bytes, or a home_write of DBG_DATA; a DEVICE page
takes a write as a register write (R386). A walk that would fault gives PERM, and makes no message. -/
def State.dbgAccess (s : State) (write : Bool) (fn c : Nat) (v : DWord) : State :=
  let a := v &&& 0x0000FFFFFFFFFFFF#64
  if a.toNat % 8 ≠ 0 then s.dbgEnd c cALIGN none
  else
    match s.quiet c (v.extractLsb' 48 4).toNat (if write then .home else .read) a (if write then .store else .load) (.dbg c) with
    | .wait t => t.dbgBusy c (some (write, fn, v))
    | .fail t code => t.dbgEnd c (if code = cDEAD_PEER then cDEAD_PEER else cPERM) none
    | .ok pa x =>
      if x.type = .sealed then s.dbgEnd c cSEALED_DEBUG none
      else if x.type = .device && fn ≠ 0 then s.dbgEnd c cPRIV none
      else if s.dead.getLsbD (paPkg pa) then s.dbgEnd c cDEAD_PEER none
      else if write then
        (if x.type = .device then
           ((let r := paOfs pa - 0x800000000
             if r = 0x1100 || r = 0x1200 then
               s.post .registerWrite { fn := 0, bar := .bar2, ofs := c * 0x1000000 + r, val := (s.clus c).dbg.data }
             else s.devWritePlain c r (s.clus c).dbg.data).dbgEnd c 0 none)
         else (s.performWrite c none x.key (cellsAt pa (dwordBytes (s.clus c).dbg.data))).dbgEnd c 0 none)
      else if paPkg pa ≠ s.pkg then (s.dbgBusy c none).askPkg c pa x.key 8 (.dbg c)
      else if s.ownerRefuses (s.clus c).fn pa then s.dbgEnd c cPERM none
      else if s.poison.contains (pa / 64) then s.dbgEnd c cDEAD_PEER none
      else s.dbgEnd c 0 (some (bytesDWord (s.ownerRead pa x.key 8).1))

/-- No debug access reaches a team while it halts or saves (R385): the command stays BUSY and looks again later (the spec says no more of it; DESIGN
CHOICE, log entry 29). -/
def State.dbgRun (s : State) (write : Bool) (fn c : Nat) (v : DWord) : State :=
  if (s.clus c).pre.run = 1 || (s.clus c).pre.run = 2 then
    (s.dbgBusy c (some (write, fn, v))).post (if write then .dbgWrite else .dbgRead) { clus := c, flag := true }
  else s.dbgAccess write fn c v

/-- A write of DBG_CTL starts nothing while BUSY is 1. -/
def State.dbgStart (s : State) (write : Bool) (fn c : Nat) (v : DWord) : State :=
  if s.clusReach fn c && !(s.clus c).dbg.busy then s.dbgRun write fn c v else s

/-- The command whose walk, or the save before it, has ended goes on. -/
def State.dbgGoOn (s : State) (write : Bool) (c : Nat) : State :=
  match (s.clus c).dbg.cmd with
  | some (w, fn, v) => if w = write then s.dbgRun w fn c v else s
  | none => s

/-- The event DBG_READ: function inp.fn writes DBG_CTL of cluster inp.clus with command 1, ASPC and ADDR in inp.val; with the flag the walk of
the running command has ended. -/
def execDbgRead (s : State) : Out :=
  .next (if s.inp.flag then s.dbgGoOn false s.inp.clus else s.dbgStart false s.inp.fn s.inp.clus s.inp.val)
/-- The event DBG_WRITE: command 2. -/
def execDbgWrite (s : State) : Out :=
  .next (if s.inp.flag then s.dbgGoOn true s.inp.clus else s.dbgStart true s.inp.fn s.inp.clus s.inp.val)

end Sys2Proof.Machine
end

