-- ==== Sys2Proof/Machine/Table.lean ====
section
/-! DEFINITION. The table engine (R265 to R269). -/

namespace Sys2Proof.Machine

def Tile.table (t : Tile) (k : Nat) : TableSlot := t.tables.toList.getD k {}
def Tile.setTable (t : Tile) (k : Nat) (v : TableSlot) : Tile :=
  if h : k < 4 then { t with tables := t.tables.set k v h } else t

/-- CAP_DENIED naming a table slot (R265). -/
def tableDenied (k : Nat) : Eff := .trap cCAP_DENIED 0 (BitVec.ofNat 32 k)

/-- floor(u) of an FP32 value, held between 0 and 255 (R268). -/
def tableIndexOf : Fl → Nat
  | .nan => 0
  | .inf n => if n then 0 else 255
  | .fin n m e => if n then 0 else min 255 (if 0 ≤ e then m * 2 ^ e.toNat else m / 2 ^ (-e).toNat)

/-- table_lookup of R268 on an FP32 value. -/
def TableSlot.lookup (t : TableSlot) (x : Word) : Word :=
  let fx := flOf .fp32 x
  if fx.isNan then canonNan .fp32
  else
    let d := addFp32 [fx, (flOf .fp32 t.x0).neg]
    let u := flOf .fp32 (roundFl .fp32 .rne 0 false ((flOf .fp32 d).mul (flOf .fp32 t.rh)))
    if u.isNan then canonNan .fp32
    else
      let i := tableIndexOf u
      let dd := addFp32 [u, (flInt (i : Int)).neg]
      let e := t.vs.getD i (0, 0)
      addFp32 [flOf .fp32 e.1, (flOf .fp32 e.2).mul (flOf .fp32 dd)]

/-- VTBL (R268, R269). -/
def execVtbl (t : Ty) (r : Rc) (d a : Oct) (k : BitVec 2) (m : MReg) (s : State) : Out :=
  runInstr (.vtbl t r d a k m) s (fun u =>
    let slot := (u.tile u.cur.clus (u.cur.core / 8)).table k.toNat
    if slot.holder ≠ some u.me.slot then tableDenied k.toNat
    else if slot.loading ≠ 0 then .wait u .resource
    else
      let mode := if t = .fp32 then .rne else u.me.rmodeOf r
      writeLanes d t.bytes 1 m mode (fun c j step =>
        let v := slot.lookup (roundFl .fp32 .rne 0 false (flOf t (laneAt (c.lanes t.bytes a 1) j)))
        if t = .fp32 then .ok v else convertFl t mode step (flOf .fp32 v)) u)

/-- The offset of the first word of an image that breaks R266, 4-byte words. -/
def imageBad (l : List Byte) : Option Nat :=
  let w := fun (o : Nat) => bytesWord (l.drop o)
  let rh := flOf .fp32 (w 4)
  if (flOf .fp32 (w 0)).special then some 0
  else if rh.special || rh.isZero || rh.sign then some 4
  else [8, 12, 16, 20, 24, 28].find? (fun o => w o ≠ 0)

/-- The 256 pairs of value and slope of an image. -/
def imagePairs (l : List Byte) : List (Word × Word) :=
  (List.range 256).map (fun k => (bytesWord (l.drop (0x20 + 8 * k)), bytesWord (l.drop (0x24 + 8 * k))))

/-- VTBLD (R267): the engine reads the image on path T; the table replaces the old one when VTBLD_DONE comes. -/
def execVtbld (k : BitVec 2) (a : Reg) (s : State) : Out :=
  runInstr (.vtbld k a) s (fun u =>
    let addr := (u.me.reg a).toNat
    let p := u.cur
    let bad := fun (o : Nat) => Eff.trap cPULL_DESC (BitVec.ofNat 64 addr) (BitVec.ofNat 32 o)
    if addr % 32 ≠ 0 || 0x8000 < addr + 2080 then bad 0
    else
      let pa := corePa u.pkg p.clus p.core addr
      if u.poisoned pa 2080 then poisonEff u (BitVec.ofNat 64 addr) 0 else
      let l := u.pathRead p.clus .t (engineObserver .t (p.core / 8)) pa 0 2080
      match imageBad l with
      | some o => bad o
      | none =>
        let tl := u.tile p.clus (p.core / 8)
        let slot := tl.table k.toNat
        if slot.holder ≠ none && slot.holder ≠ some u.me.slot then tableDenied k.toNat
        else
          let u2 := u.modTile p.clus (p.core / 8) (fun tl => tl.setTable k.toNat { slot with holder := some u.me.slot, loading := slot.loading + 1 })
          .wait (u2.post .vtbldDone { pos := p }) (.table k.toNat l))

/-- The event VTBLD_DONE: the new table replaces the old one whole (R267). -/
def execVtbldDone (s : State) : Out :=
  let p := s.inp.pos
  match (s.ctx p).st with
  | .blocked (.table k l) =>
    let s1 := s.modTile p.clus (p.core / 8) (fun tl =>
      tl.setTable k { tl.table k with x0 := bytesWord l, rh := bytesWord (l.drop 4), vs := imagePairs l, loading := (tl.table k).loading - 1 })
    .next (((s1.completeAt p ((s.ctx p).pc + 4) true).haltedAt p).wakeAll (fun q w => q.clus = p.clus && q.core / 8 = p.core / 8 && w = .resource))
  | _ => .next s

end Sys2Proof.Machine
end

