-- ==== Sys2Proof/Machine/Preempt.lean ====
section
/-! DEFINITION. Pre-emption: PRE_CTL (R376), SAVE (R377 to R381, R384), RESUME (R382) and DROP (R383). -/

namespace Sys2Proof.Machine

/-! ### PRE_CTL (R376) -/

def preSlot (v : DWord) : Nat := (v.extractLsb' 48 9).toNat
def preImg (v : DWord) : Nat := (v.extractLsb' 12 33).toNat * 4096
def preKey (v : DWord) : Nat := (v.extractLsb' 0 12).toNat

/-- An accepted command: the phase it enters, its slot, image and key. -/
def State.preAccept (s : State) (c : Nat) (v : DWord) (state run : Nat) : State :=
  s.modClus c (fun k => { k with pre := { k.pre with run := run, err := 0, slot := preSlot v, state := state, img := preImg v, key := preKey v } })

/-- The bytes of an image, a multiple of 4 KiB (R379); a plane array's two banks take 0x8000 bytes each (R379, R425). -/
def imageSize (ctxs cores planes tables : Nat) : Nat :=
  (0x100 + 0x800 * ctxs + 0x8400 * cores + 0x10000 * planes + 2080 * tables + 4095) / 4096 * 4096

/-- The table slots that a team holds, by tile and slot (R265). -/
def State.teamTables (s : State) (c slot : Nat) : List (Nat × Nat) :=
  (List.range 16).flatMap (fun t => ((List.range 4).filter (fun k => ((s.tile c t).tables.toList.getD k {}).holder = some (some slot))).map (fun k => (t, k)))

/-- A team's image of a size lies inside the mappable HBM slice (R379). -/
def imageInside (img size : Nat) : Bool := 0x100000000 ≤ img && img + size ≤ 0x1FF000000

/-- Why a SAVE is refused, 0 for nothing. R381 says that a core holds at most four redirect entries and gives no code for a fifth: it is refused as
busy (DESIGN CHOICE, log entry 29). -/
def State.saveErr (s : State) (c : Nat) (v : DWord) : Nat :=
  match s.team? c (preSlot v) with
  | none => 1
  | some t =>
    if t.retiring then 1
    else if t.bast then 3
    else if !recPreempt (s.teamRecord t) then 2
    else if !imageInside (preImg v) (imageSize t.pos.length (teamCores t.pos).length t.planes.length (s.teamTables c (preSlot v)).length) then 4
    else if !(s.clus c).holdsKey (preKey v) then 5
    else if (teamCores t.pos).any (fun n => 4 ≤ (s.core c n).redirect.length) then 6
    else 0

/-- A write of PRE_CTL by a function: refused while a command runs. -/
def State.preWrite (s : State) (fn c : Nat) (f : State → State) : State :=
  if !s.clusReach fn c then s else if (s.clus c).pre.run ≠ 0 then s.preRefuse c 6 else f s

/-- A breakpoint or a BKPT is due at the boundary at which a context halts (R385). -/
def State.breakDue (s : State) (p : Pos) : Bool :=
  let c := s.ctx p
  c.runnable && c.ptrap.isNone &&
    (match s.fetchInstr p with
     | .bytes l => c.pdbg || c.bpMatch.isSome || (match decode l with | .ok r => r.1 = .bkpt | .error _ => false)
     | .wait _ _ => c.pdbg
     | .trap _ _ => false)

/-- A context halts for a save (R378): a store that waits for the store buffer completes first, and so does a load, a query or a VTBLD that has
issued; one that awaits an answer stays at its instruction; anything else has not executed, and its walk or page-fault reply finds it no more. -/
def State.haltFor (s : State) (p : Pos) : State :=
  match (s.ctx p).st with
  | .blocked .buffer => s.modCtx p (fun x => { x with last := true })
  | .blocked (.load _) => s.modCtx p (fun x => { x with stop := true })
  | .blocked (.query _ _) => s.modCtx p (fun x => { x with stop := true })
  | .blocked (.table _ _) => s.modCtx p (fun x => { x with stop := true })
  | .blocked (.answer _) => (s.modCtx p (fun x => { x with stop := true })).haltedAt p
  | _ =>
    let due := s.breakDue p
    (((s.cancelWaits p).subGone p).modCtx p (fun x => { x with stop := true, last := false, pdbg := x.pdbg || due, skips := [] })).haltedAt p

/-- SAVE: the contexts halt at an instruction boundary and the drain begins. -/
def State.preSave (s : State) (fn c : Nat) (v : DWord) : State :=
  s.preWrite fn c (fun t =>
    if t.saveErr c v ≠ 0 then t.preRefuse c (t.saveErr c v)
    else
      match t.team? c (preSlot v) with
      | none => t
      | some tm => (((tm.at c).foldl (fun u p => u.haltFor p) t).preAccept c v 1 1).post .saveDrained { clus := c })

/-- The event PRE_SAVE: function inp.fn writes PRE_CTL of cluster inp.clus, its fields in inp.val. -/
def execPreSave (s : State) : Out := .next (s.preSave s.inp.fn s.inp.clus s.inp.val)

/-! ### The save (R377 to R381) -/

/-- An instruction that has issued and completes before the save: a load on its way, a query, a VTBLD (R378). -/
def CtxSt.inFlight : CtxSt → Bool
  | .blocked (.load _) => true
  | .blocked (.query _ _) => true
  | .blocked (.table _ _) => true
  | _ => false

/-- Every context of a team has halted. -/
def State.teamStopped (s : State) (c : Nat) (t : Team) : Bool := (t.at c).all (fun p => !(s.ctx p).st.inFlight && !(s.ctx p).last)

/-- The drain of R377 has ended: nothing in flight, no command of the team in a plane array. -/
def State.saveReady (s : State) (c : Nat) (t : Team) : Bool :=
  s.teamStopped c t && s.tiles.all (fun e => e.1.1 ≠ c || e.2.cmds.all (fun m => !t.pos.contains (m.pos.core, m.pos.ctx)))

/-- Streams of a team whose refill goes on: core, tag, operation, context and octet. -/
def State.openRefills (s : State) (c : Nat) (t : Team) : List (SavedOp × Nat) :=
  (t.at c).flatMap (fun p => [0, 1, 2, 3].filterMap (fun k =>
    match (s.ctx p).stream k with
    | some x => if x.rf && Assoc.has x.pull s.pulls then some (⟨p.core, x.tag, x.pull, p.ctx, 0, none⟩, k) else none
    | none => none))

/-- What is kept of the outstanding operation of a tag; a stream's refill is kept with the stream (R381). -/
def State.savedOpOf (s : State) (e : Nat × Nat × TagRec) : Option SavedOp :=
  let r := e.2.2
  match r.st with
  | .busy (.pull _) => some ⟨e.1, e.2.1, r.op, r.ctx, 0, none⟩
  | .busy (.stream _ _) => none
  | .busy (.watch _ b p) => some ⟨e.1, e.2.1, r.op, r.ctx, b, some p⟩
  | .busy .coll => some ⟨e.1, e.2.1, r.op, r.ctx, 0, none⟩
  | .busy (.lease _) => some ⟨e.1, e.2.1, r.op, r.ctx, ((s.fabric.leases.find? (fun l => l.1 = r.op)).map (fun l => l.2.addr)).getD 0, none⟩
  | .busy .matrix => none
  | .busy .none => none
  | .free => none
  | .done => none

/-- The context as its record holds it: values that are known are delivered, a full target is asked again, a follower leaves its
convoy and keeps its participation (R378, R312, R128). -/
def Ctx.forImage (c : Ctx) : Ctx :=
  let d := c.deliver
  { d with stop := false, last := false, sub := none, skips := [], ans := if c.full then none else d.ans,
           convoy := d.convoy.bind (fun v => if v.id = 0 then none else some { v with inside := false, queue := [] }) }

/-- The core ordinal of the leader of a context's convoy. -/
def State.leaderOf (s : State) (p : Pos) : Nat :=
  match (s.ctx p).convoy with
  | none => 0
  | some v => ((s.participants p v.id).find? (fun q => match (s.ctx q).convoy with | some x => x.leader | none => false)).elim 0 (fun q => q.core % 8)

/-- The mailbox messages of a team on a core, oldest first. -/
def State.teamMail (s : State) (c n : Nat) (t : Team) : List Msg := (s.core c n).mail.filter (fun m => t.pos.contains (n, m.ctx))

/-- A core record: 0x8400 bytes (R380). -/
def State.coreRecord (s : State) (c n slot : Nat) (t : Team) : List Byte :=
  s.bytesAt (corePa s.pkg c n 0) 0 0x8000 ++ padTo 0x200 ((s.teamMail c n t).flatMap (fun m => wordsBytes (m.body.take 8))) ++
    (List.range 64).flatMap (fun i => let r := (s.core c n).tag i; dwordBytes (tagWord r (r.team = slot && !r.st.isFree)))

/-- The two banks of a plane array, 0x8000 bytes each: 4,096 elements of 4 bytes, and zeros up to the 0x8000 bytes that R379 and R425 give a
bank (DESIGN CHOICE, log entry 29). -/
def Tile.bankBytes (t : Tile) : List Byte :=
  (List.range 2).flatMap (fun b => padTo 0x8000 ((List.range 64).flatMap (fun m => (List.range 64).flatMap (fun n => wordBytes (Assoc.get 0 (b, m, n) t.acc)))))

/-- A table in the form of R266, 2,080 bytes. -/
def TableSlot.bytes (t : TableSlot) : List Byte :=
  padTo 2080 (padTo 32 (wordBytes t.x0 ++ wordBytes t.rh) ++ t.vs.flatMap (fun v => wordBytes v.1 ++ wordBytes v.2))

/-- Bits of a list of numbers. -/
def bitsOf (l : List Nat) : DWord := l.foldl (fun v k => v ||| (1#64 <<< k)) 0

/-- The header but for STATE, OUT and GTAG (R379). -/
def State.imgHeader (s : State) (t : Team) (slot : Nat) (tables : List (Nat × Nat)) (teamn : Word) (clkh nonce : DWord) : List Byte :=
  let r := s.teamRecord t
  let d := fun (n : Nat) => dwordBytes (BitVec.ofNat 64 n)
  padTo 0x100 (d (0x4739494D * 2 ^ 32 + 1 * 2 ^ 24 + 1 * 2 ^ 16 + 1) ++ d (slot * 2 ^ 48 + (lnchWord t.launch).toNat) ++
    d (t.index * 2 ^ 32 + recNtile r * 2 ^ 8 + recNcore r * 2 ^ 4 + recNctx r) ++ d (teamn.toNat * 2 ^ 32) ++
    d ((bitsOf t.planes).toNat % 2 ^ 16 * 2 ^ 48 + (if recSv r then 1 else 0)) ++ dwordBytes (bitsOf (tables.map (fun e => 4 * e.1 + e.2))) ++
    dwordBytes (bitsOf ((teamCores t.pos).filter (· < 64))) ++ dwordBytes (bitsOf (((teamCores t.pos).filter (64 ≤ ·)).map (· - 64))) ++
    dwordBytes clkh ++ d 0 ++ dwordBytes nonce ++ d 0)

/-- The saved team that a save makes. -/
def State.savedOf (s : State) (c slot : Nat) (t : Team) (pre : Pre) : Saved :=
  let own := s.ownTags c slot t
  let fills := s.openRefills c t
  let ops := own.filterMap (fun e => s.savedOpOf e) ++ fills.map (·.1)
  let awaits := (t.at c).flatMap (fun p =>
    let x := s.ctx p
    x.enqts.map (fun r => (⟨p.core, p.ctx, 4, s.pkg, r.1, r.2, []⟩ : SavedAnswer)) ++
      (match x.ans with
       | some a => if x.full then [] else [⟨p.core, p.ctx, a.1.code, x.ansPkg, a.2, x.ansId, if a.1 = .sendt then [] else x.spop⟩]
       | none => []))
  { slot := slot, img := pre.img, key := pre.key, settled := ops.length + awaits.length = 0, out := ops.length + awaits.length, launch := t.launch,
    team := t.index, positions := t.pos, planes := t.planes, tables := s.teamTables c slot, tags := own,
    refills := fills.map (fun e => (e.1.core, e.1.ctx, e.2, e.1.op)), owned := ops,
    awaits := awaits, mail := (teamCores t.pos).flatMap (fun n => (s.teamMail c n t).map (fun m => (n, m.ctx))),
    kept := (t.at c).map (fun p => ⟨p.core, p.ctx, (s.ctx p).seen, (s.ctx p).convoy.map (·.id)⟩) }

/-- A context that a full target has answered leaves the lists it stands on: its instruction is issued again on resumption (R312). -/
def State.unlist (s : State) (p : Pos) : State :=
  { s with cores := s.cores.map (fun e => (e.1, { e.2 with senders := e.2.senders.filter (fun it => !(it.opkg = s.pkg && it.src = p)) })),
           queues := s.queues.map (fun e => (e.1, { e.2 with enqs := e.2.enqs.filter (· ≠ p) })) }

/-- The key of R384 for an image of a cluster under a sealed slot. -/
def State.imageKey (s : State) (c slot : Nat) (nonce : DWord) : List Byte :=
  hkdf (Config.imageRoot s.boot.ups ++ (s.sealSlot slot).gk) (ascii "G9 image" ++ leBytes 2 s.pkg ++ leBytes 1 c ++ leBytes 1 slot ++ dwordBytes nonce)

/-- The IV of R384. -/
def imageIv (nonce : DWord) : List Byte := dwordBytes nonce ++ zeros 4

/-- The banks' section: sealed under the key of R384 for a sealed team, its tag apart. -/
def State.bankSection (s : State) (c : Nat) (t : Team) (nonce : DWord) (header : List Byte) : List Byte × List Byte :=
  let r := s.teamRecord t
  let banks := t.planes.flatMap (fun k => (s.tile c k).bankBytes)
  if recSv r then
    gcmSeal (s.imageKey c (recSslot r) nonce) (imageIv nonce) (header.take 0x60) banks
  else (banks, zeros 16)

/-- Steps 2 to 5 of R377 for the team of a slot. -/
def State.saveTeam (s0 : State) (c slot : Nat) (t : Team) (pre : Pre) : State :=
  let s := s0.flushTeam c t
  let v := s.savedOf c slot t pre
  let nonce := Config.freeDWord s.freeCtr
  let teamn := (s.ctx ((t.at c).headD ⟨c, 0, 0⟩)).teamn
  let header := s.imgHeader t slot v.tables teamn pre.clkh nonce
  let banks := s.bankSection c t nonce header
  let ctxs := (t.at c).flatMap (fun p => encodeCtx (s.ctx p).forImage (s.leaderOf p))
  let cores := (teamCores t.pos).flatMap (fun n => s.coreRecord c n slot t)
  let tables := v.tables.flatMap (fun e => ((s.tile c e.1).tables.toList.getD e.2 {}).bytes)
  let image := header.take 0x60 ++ banks.2 ++ header.drop 0x70 ++ ctxs ++ cores ++ banks.1 ++ tables
  let s1 := (s.drew.writeImg c pre.key (v.base s.pkg c) image).toImg c v 0x18 (wordBytes (BitVec.ofNat 32 v.out))
  let s2 := (teamCores t.pos).foldl (fun u n => u.modCore c n (fun k => { k with redirect := k.redirect ++ [slot] })) s1
  let s3 := (t.at c).foldl (fun u p => (u.cancelWaits p).unlist p) s2
  let s4 := (s3.countRetired c t.launch (s.teamRetc c t) 0).vacate c slot t (recZcore (s.teamRecord t))
  let s5 := ((s4.countSlot c slot).modClus c (fun k => { k with saved := k.saved ++ [v] })).toImg c v 0 [if v.out = 0 then 3 else 2]
  (s5.modClus c (fun k => { k with pre := { k.pre with run := 0, state := if v.out = 0 then 4 else 3, out := v.out, last := (slot, pre.img) } })).post .teamPlace {}

/-- A context that a save had halted goes on: what it waited for is waited for anew. -/
def Ctx.resumed (c : Ctx) : Ctx :=
  let d := { c with stop := false, last := false }
  match d.st with
  | .blocked (.answer _) => d
  | .blocked _ => { d with st := .ready }
  | _ => d

/-- A save whose image's key has been taken away before the image is written ends refused with ERR 5, and the team goes on (R43 lets no access
use the slot; R376 names no moment for the code; DESIGN CHOICE, log entry 29). -/
def State.saveLost (s : State) (c : Nat) (t : Team) : State :=
  ((t.at c).foldl (fun u p => u.modCtx p Ctx.resumed) s).modClus c (fun k => { k with pre := { k.pre with run := 0, state := 0xFF, err := 5 } })

/-- The event SAVE_DRAINED of cluster inp.clus: while the drain of R377 goes on it looks again later. -/
def execSaveDrained (s : State) : Out :=
  let c := s.inp.clus
  let pre := (s.clus c).pre
  if pre.run ≠ 1 && pre.run ≠ 2 then .next s
  else
    match s.team? c pre.slot with
    | none => .next (s.modClus c (fun k => { k with pre := { k.pre with run := 0, state := 0 } }))
    | some t =>
      if s.saveReady c t then
        .next (if (s.clus c).holdsKey pre.key then s.saveTeam c pre.slot t pre else s.saveLost c t)
      else
        let u := (t.at c).foldl (fun u p => if (u.ctx p).last && (u.ctx p).st ≠ .blocked .buffer && !(u.ctx p).st.isReady then u.haltFor p else u) s
        .next ((u.modClus c (fun k => { k with pre := { k.pre with run := 2, state := 2 } })).post .saveDrained s.inp)

/-! ### RESUME and DROP (R382, R383) -/

/-- The saved team that a command names, read under the command's key. -/
def State.savedFor (s : State) (c : Nat) (v : DWord) : Option Saved :=
  ((s.clus c).saved.find? (fun x => x.slot = preSlot v && x.img = preImg v)).map (fun x => { x with key := preKey v })

/-- The header at the offset and under the key of a command is that of a SAVED or SETTLED team of the slot. Its RSV bits are not looked at: R382
names no check of them (DESIGN CHOICE, log entry 36). -/
def State.headerGood (s : State) (c : Nat) (v : DWord) : Bool :=
  let a := mkPa s.pkg c (preImg v)
  let h := recD (s.bytesAt a (preKey v) 8) 0
  let st := h.extractLsb' 0 8
  h.extractLsb' 32 32 = 0x4739494D#32 && h.extractLsb' 24 8 = 1#8 && (st = 2#8 || st = 3#8) &&
    ((recD (s.bytesAt (a + 8) (preKey v) 8) 0).extractLsb' 48 9).toNat = preSlot v

/-- Why a RESUME or a DROP is refused, 0 for nothing: an image outside the mappable HBM slice, a key not held, a bad header, one that names no
saved team of the cluster (R376, R382, R383). -/
def State.savedErr (s : State) (c : Nat) (v : DWord) : Nat :=
  if !imageInside (preImg v) 0x1000 then 4
  else if !(s.clus c).holdsKey (preKey v) then 5
  else if !s.headerGood c v then 7
  else if (s.savedFor c v).isNone then 1
  else 0

/-- RESUME: the team is offered for placement. -/
def State.preResume (s : State) (fn c : Nat) (v : DWord) : State :=
  s.preWrite fn c (fun t => if t.savedErr c v ≠ 0 then t.preRefuse c (t.savedErr c v) else (t.preAccept c v 5 5).post .resumePlace { clus := c })

/-- DROP: the team ends as if it had retired. -/
def State.preDrop (s : State) (fn c : Nat) (v : DWord) : State :=
  s.preWrite fn c (fun t =>
    if t.savedErr c v ≠ 0 then t.preRefuse c (t.savedErr c v)
    else
      match t.savedFor c v with
      | none => t
      | some x => (t.preAccept c v 7 0).dropSaved c x)

/-- The event PRE_RESUME: function inp.fn writes PRE_CTL of cluster inp.clus, its fields in inp.val. -/
def execPreResume (s : State) : Out := .next (s.preResume s.inp.fn s.inp.clus s.inp.val)
/-- The event PRE_DROP. -/
def execPreDrop (s : State) : Out := .next (s.preDrop s.inp.fn s.inp.clus s.inp.val)

/-- The tag a tag word stands for; a BUSY one is the operation that was outstanding at the save. -/
def tagOfWord (w : DWord) (slot : Nat) (live : Option TagRec) : TagRec :=
  if !w.getLsbD 16 then TagRec.reset
  else if (w.extractLsb' 0 2).toNat = 2 then ⟨.done, w.extractLsb' 8 8, slot, (live.map (·.ctx)).getD 0, (live.map (·.op)).getD 0⟩
  else match live with
    | some r => if r.st.isBusy then { r with team := slot } else TagRec.reset
    | none => TagRec.reset

/-- One atomic-unit step per core: store, messages and tags come back and the redirect entry goes (R381). -/
def State.restoreCore (s : State) (c : Nat) (v : Saved) (n : Nat) : State :=
  let o := (v.coreRec n).getD 0
  let s1 := s.writeImg c 0 (corePa s.pkg c n 0) (s.fromImg c v o 0x8000)
  let boxes := ((v.mail.filter (fun m => m.1 = n)).zipIdx).map (fun e => (⟨e.1.2, bytesWords 8 (s.fromImg c v (o + 0x8000 + 32 * e.2) 32)⟩ : Msg))
  let words := s.fromImg c v (o + 0x8200) 0x200
  s1.modCore c n (fun k => { k with
    mail := k.mail ++ boxes, redirect := k.redirect.erase v.slot,
    tags := Vector.ofFn (fun (i : Fin 64) =>
      let w := recD words (8 * i.val)
      if w.getLsbD 16 then tagOfWord w v.slot ((v.tags.find? (fun e => e.1 = n && e.2.1 = i.val)).map (·.2.2)) else k.tags[i.val]) })

/-- Elements of the banks of one plane array that are not +0. -/
def bankElems (l : List Byte) : Assoc (Nat × Nat × Nat) Word :=
  (List.range 8192).filterMap (fun k =>
    let w := bytesWord (l.drop (0x8000 * (k / 4096) + 4 * (k % 4096)))
    if w = 0 then none else some ((k / 4096, k / 64 % 64, k % 64), w))

/-- The header bytes that R384 authenticates, with the two fields that change after the save, STATE and OUT, as they stood at the
encryption. -/
def sealedHeader (l : List Byte) : List Byte := 1 :: (l.drop 1).take 0x17 ++ zeros 4 ++ l.drop 0x1C

/-- The banks of an image, and the code its contexts take where a sealed team's cannot be opened (R384). -/
def State.openBanks (s : State) (c : Nat) (v : Saved) (rcd : List Byte) : List Byte × Option Byte :=
  let n := 0x10000 * v.planes.length
  let l := s.fromImg c v (v.coreOfs (teamCores v.positions).length) n
  if !recSv rcd then (l, none)
  else
    let k := s.sealSlot (recSslot rcd)
    if !(k.held && k.fn = (s.clus c).fn) then (zeros n, some cSEALED_KEY)
    else
      let nonce := recD (s.fromImg c v 0x50 8) 0
      match gcmOpen (s.imageKey c (recSslot rcd) nonce) (imageIv nonce) (sealedHeader (s.fromImg c v 0 0x60)) l (s.fromImg c v 0x60 16) with
      | some b => (b, none)
      | none => (zeros n, some cSEALED_INTEGRITY)

/-- A stream of a restored context finds its refill again, and the error of a refill that has failed: the record's, or that of its tag (R240). -/
def State.relink (s : State) (c : Nat) (v : Saved) (core ctx k : Nat) (x : Stream) : Stream :=
  let r := (s.core c core).tag x.tag
  { x with err := if x.err = 0 && r.st.isDone then r.err else x.err,
           pull := ((v.refills.find? (fun e => e.1 = core && e.2.1 = ctx && e.2.2.1 = k)).map (·.2.2.2)).getD 0 }

/-- The restored context of index i (R380, R382). -/
def State.restoredCtx (s : State) (c : Nat) (v : Saved) (rcd : List Byte) (capt : DWord) (teamn : Word) (fault : Option Byte) (core ctx : Nat) : Ctx :=
  let b := startCtx rcd v.launch v.team 0 v.slot 0 capt false
  let kept := v.kept.find? (fun e => e.core = core && e.ctx = ctx)
  let own := v.awaits.find? (fun a => a.core = core && a.ctx = ctx && a.kind ≠ 4)
  let d := decodeCtx (s.fromImg c v ((v.ctxRec core ctx).getD 0) 0x800) { b with teamn := teamn } ((kept.bind (·.convoy)).getD 0) ((own.map (·.reg)).getD 0)
  let qs := v.enqts core ctx
  let d1 := Ctx.resumed { d with
    streams := Vector.ofFn (fun (k : Fin 4) => (d.streams[k.val]).map (fun x => s.relink c v core ctx k.val x)),
    ans := if own.isNone then none else d.ans, ansId := (own.map (·.num)).getD 0, ansPkg := (own.map (·.pkg)).getD 0, spop := (own.map (·.pops)).getD [],
    enqts := qs, unready := (d.unready.filter (fun u => own.isSome && !qs.any (fun q => q.1 = u.dst))) ++ qs.map (fun r => ⟨r.1, 1, none⟩),
    seen := (kept.map (·.seen)).getD [] }
  match fault with
  | some code => { d1 with ptrap := some ⟨code, 0, 0⟩, st := if d1.st.isHalted then .halted else .ready }
  | none => d1

/-- A team comes back: core records, banks, tables, contexts, in this order (R382). -/
def State.resumeTeam (s : State) (c : Nat) (v0 : Saved) (key : Nat) : State :=
  let v := { v0 with key := key }
  let rcd := s.recordOf (lnchWord v.launch)
  let s1 := (teamCores v.positions).foldl (fun u n => u.restoreCore c v n) s
  let banks := s.openBanks c v rcd
  let s2 := (v.planes.zipIdx).foldl (fun u e => u.modTile c e.1 (fun t => { t with holder := some v.slot, acc := bankElems ((banks.1.drop (0x10000 * e.2)).take 0x10000), buf := [] })) s1
  let o := v.coreOfs (teamCores v.positions).length + 0x10000 * v.planes.length
  let s3 := (v.tables.zipIdx).foldl (fun u e => u.modTile c e.1.1 (fun t =>
    let l := s.fromImg c v (o + 2080 * e.2) 2080
    t.setTable e.1.2 { holder := some (some v.slot), x0 := bytesWord l, rh := bytesWord (l.drop 4), vs := imagePairs l, loading := 0 })) s2
  let capt := s3.capability c v.slot (((s3.clus c).bankFor v.launch).getD 0) v.planes
  let teamn := recW (s.fromImg c v 0x18 8) 4
  let s4 := v.positions.foldl (fun u p => u.setCtx ⟨c, p.1, p.2⟩ (s3.restoredCtx c v rcd capt teamn banks.2 p.1 p.2)) s3
  let t : Team := { launch := v.launch, index := v.team, pos := v.positions, planes := v.planes, bast := false }
  let s5 : State := { s4 with teams := s4.teams ++ [((c, v.slot), t)] }
  let retc := s5.teamRetc c t
  let s6 := s5.count c (lnchWord v.launch) (fun k => { k with prog := k.prog - retc })
  let s7 := (s6.modClus c (fun k => { k with
    saved := k.saved.filter (fun x => !(x.slot = v.slot && x.img = v.img)), pre := { k.pre with run := 0, state := 6 } })).toImg c v 0 [4]
  s7.post .teamRetire { clus := c, slot := v.slot }

/-- The event RESUME_PLACE of cluster inp.clus: while something the team needs is taken it looks again later. A key that has been taken away
meanwhile ends the command with ERR 5 (R43). -/
def execResumePlace (s : State) : Out :=
  let c := s.inp.clus
  match (s.clus c).resuming with
  | none => .next s
  | some v => .next (
      if !(s.clus c).holdsKey (s.clus c).pre.key then s.modClus c (fun k => { k with pre := { k.pre with run := 0, state := 0xFF, err := 5 } })
      else if s.resumeFits c v then s.resumeTeam c v (s.clus c).pre.key else s.post .resumePlace s.inp)

end Sys2Proof.Machine
end

