-- ==== Sys2Proof/Machine/Reset.lean ====
section
/-! DEFINITION. Function-level and conventional reset (R394 to R396), soft errors (R45, R397, R398) and telemetry (R401). -/

namespace Sys2Proof.Machine

/-! ### Function-level reset (R394) -/

/-- The clusters and the queues of a function. -/
def State.fnClus (s : State) (f : Nat) : List Nat := (List.range 128).filter (fun c => (s.clus c).fn = f)
def State.fnQueues (s : State) (f : Nat) : List Nat := (List.range 256).filter (fun q => (s.queue q).fn = f)

/-- Step 1: queues read no more, basting launches go, commit and replay stop where they stand (R111). -/
def State.resetQueues (s : State) (qs : List Nat) : State :=
  let s1 := qs.foldl (fun u q => if Assoc.has q u.queues then u.modQueue q (fun k => { k with head := none }) else u) s
  let s2 := qs.foldl (fun u q =>
    match u.basting? q with
    | some b => if b.st = .committing then ({ u with bastings := Assoc.del q u.bastings } : State) else u.unpick q b
    | none => u) s1
  { s2 with deferred := s2.deferred.filter (fun e => !qs.contains e.1), replay := s2.replay.filter (fun e => !qs.contains e.1.1) }

/-- Step 2: teams end as by pre-emption without an image; saves are abandoned, saved teams dropped. -/
def State.resetTeams (s : State) (cs : List Nat) : State :=
  let s1 := (s.teams.filter (fun e => cs.contains e.1.1)).foldl (fun u e => u.abortTeam e.1.1 e.1.2) s
  cs.foldl (fun u c => ((u.clus c).saved.foldl (fun v x => v.dropSaved c x) u).modClus c (fun k => { k with pre := { k.pre with run := 0, state := 0 } })) s1

/-- An item that a cluster has issued as a request and that still waits to be sent. -/
def ItemBody.isRequest : ItemBody → Bool
  | .read _ => true
  | .readReply _ => false
  | .pullReq _ => true
  | .pullData _ _ => false
  | .watchReq _ => true
  | .watchDone _ => false
  | .msg _ => true
  | .msgAnswer _ _ _ => false
  | .leaseReq _ => true
  | .leaseAnswer _ _ => false
  | .genReq _ _ => true
  | .genReply _ _ => false
  | .state _ _ => false
  | .error _ _ _ => false
  | .unassigned _ _ => false

/-- A follow-up event that carries a request of one of the clusters, or an answer that one of them awaits. -/
def Sched.requestOf (pkg : Nat) (cs : List Nat) : Sched → Bool
  | .run _ => false
  | .event .enqRequest inp => cs.contains inp.pos.clus
  | .event .msgAnswer inp => cs.contains inp.pos.clus
  | .event .enqAnswer inp => cs.contains inp.pos.clus
  | .event _ inp =>
    match inp.load with
    | .msg it => it.opkg = pkg && cs.contains it.src.clus
    | .watch it => it.opkg = pkg && cs.contains it.oclus && it.core ≠ frontCore
    | _ => false

/-- The cluster a read of another package belongs to. -/
def ReadFor.clus (s : State) : ReadFor → Option Nat
  | .load p => some p.clus
  | .walk c _ => some c
  | .pull id _ => (s.pull? id).map (·.clus)
  | .poll c _ => some c
  | .fetch p _ _ => some p.clus
  | .matrix c _ _ _ => some c
  | .group p _ => some p.clus
  | .coll c _ _ _ => some c
  | .dbg c => some c
  | .front _ _ _ => none

/-- Step 3: what is left of the function's operations is cancelled; watches that others hold here end with PERM, but a launch that
depends on a milestone here goes on waiting (R396). -/
def State.resetOps (s : State) (f : Nat) (cs : List Nat) : State :=
  let s1 := cs.foldl (fun u c =>
    ((u.clus c).watches.filter (fun w => w.core ≠ frontCore && !(w.opkg = s.pkg && cs.contains w.oclus))).foldl (fun v w =>
      v.sendDone w.opkg (v.doneOf w 0 0 cPERM)) u) s
  let s2 := cs.foldl (fun u c => u.modClus c (fun k =>
    { k with watches := k.watches.filter (fun w => w.core = frontCore), polls := [], asked := k.asked.filter (fun w => w.core = frontCore), walks := [], tokens := [], waitMsgs := [], waitFaults := [], xfails := [], pins := [], tuInv := [],
             outMsgs := [], unfenced := [], dbg := { k.dbg with busy := false, cmd := none } })) s1
  let s3 : State := { s2 with
    clusters := s2.clusters.map (fun e => if cs.contains e.1 then e else
      (e.1, { e.2 with watches := e.2.watches.filter (fun w => !(w.opkg = s.pkg && cs.contains w.oclus && w.core ≠ frontCore)) })),
    outReads := s2.outReads.filter (fun o => match o.who.clus s2 with | some c => !cs.contains c | none => true),
    pulls := s2.pulls.filter (fun e => !cs.contains e.2.clus), colls := s2.colls.filter (fun e => !cs.contains e.1),
    groupReads := s2.groupReads.filter (fun e => !cs.contains e.1.1.clus),
    items := s2.items.map (fun (it : Item) => if it.body.isRequest && cs.contains it.oclus then { it with body := .state [] [] } else it),
    pending := s2.pending.filter (fun e => !e.requestOf s.pkg cs) }
  s3.modFab (fun x => { x with
    leases := x.leases.filter (fun e => e.2.fn ≠ f),
    grants := x.grants.map (fun e => if e.2.fn = f then (e.1, { e.2 with revoked := true }) else e) })

/-- The basting stores of a cluster read as 0 too. -/
def State.zeroBaste (s : State) (c : Nat) : State :=
  { s with mem := s.mem.filter (fun e => !(paOwner e.1 = paOwner (mkPa s.pkg c 0) && 0x1780000 ≤ paOfs e.1 && paOfs e.1 < 0x1800000)),
           poison := s.poison.filter (fun l => !(paOwner (64 * l) = paOwner (mkPa s.pkg c 0) && paOfs (64 * l) < 0x1800000)) }

/-- Every sender that waits for room in a mailbox of the cluster is told; none finds its target again (R396). -/
def State.freeSenders (s : State) (c : Nat) : State :=
  (s.cores.filter (fun e => e.1.1 = c)).foldl (fun u e => e.2.senders.foldl (fun v _ => v.mailFreed c e.1.2) u) s

/-- Step 4: a cluster is scrubbed. Write generations are kept. -/
def State.scrubClus (s : State) (c : Nat) : State :=
  let s1 : State := { s with cores := s.cores.map (fun e => if e.1.1 = c then (e.1, { e.2 with mail := [] }) else e) }
  let s2 := (((s1.freeSenders c).zeroStores c).zeroBaste c).zeroCaches c
  let s3 : State := { s2 with
    ctxs := s2.ctxs.filter (fun e => e.1.clus ≠ c),
    cores := s2.cores.map (fun e => if e.1.1 = c then (e.1, { Core.reset with senders := e.2.senders }) else e),
    tiles := s2.tiles.filter (fun e => e.1.1 ≠ c) }
  s3.modClus c (fun k => { k with shadow := [], deferredLines := 0, banks := Vector.replicate 8 none, counters := [] })

/-- Step 5: every slot of the function is erased; offers that it has made go with the slots. An ACCEPT that it had begun is undone: the
offer stays pending and the offering function reads and writes the buffer again (R49). -/
def State.resetKeys (s : State) (f : Nat) : State :=
  let s1 := (s.keySlots.filter (fun e => e.2.st ≠ .empty && e.2.fn = f)).foldl (fun u e => (u.keyBit f e.1 false).setKeySlot e.1 {}) s
  let s2 := (s1.sealedSlots.filter (fun e => e.2.held && e.2.fn = f)).foldl (fun u e => u.sealErase f e.1) s1
  let s3 := match (s2.ksWin f).run with
    | some r => if r.code = 5 && (s2.keySlot r.slot).st = SlotSt.offered && (s2.keySlot r.slot).fn = r.arg then s2.keyBit r.arg r.slot true else s2
    | none => s2
  s3.setKsWin f { s3.ksWin f with run := none }

/-- Step 6: roots, TLBs and the service context of a cluster. -/
def State.resetXlate (s : State) (c : Nat) : State :=
  s.modClus c (fun k => { k with rroot := Vector.replicate 16 0, hroot := Vector.replicate 16 0, tlb := [],
                                 svcCtl := k.svcCtl &&& 0x7FFFFFFFFFFFFFFF#64, svcStat := 0 })

/-- Step 6: a queue becomes ABSENT, its history emptied, its launches gone. -/
def State.resetQueue (s : State) (q : Nat) : State :=
  let s1 := (s.launchesOf q).foldl (fun u l => u.launchGone l) s
  if Assoc.has q s1.queues then s1.modQueue q (fun k => { k with st := .absent, nlive := 0, hist := [], histNew := false, head := none, ring := [], enqs := [] }) else s1

/-- The seven steps of R394 for one function. -/
def State.resetFn (s : State) (f : Nat) : State :=
  let cs := s.fnClus f
  let qs := s.fnQueues f
  let s1 := ((s.resetQueues qs).resetTeams cs).resetOps f cs
  let s2 := (cs.foldl (fun u c => u.scrubClus c) s1).resetKeys f
  let s3 := qs.foldl (fun u q => u.resetQueue q) (cs.foldl (fun u c => u.resetXlate c) s2)
  { s3 with snaps := s3.snaps.map (fun e => if e.1 = f then (e.1, { e.2 with busy := false, quiescing := false }) else e) }

/-- A reset of the physical function or of the host link (R395). -/
def State.resetAll (s : State) : State :=
  let s1 := if s.sriov then ((List.range 16).map (· + 1)).foldl (fun u f => u.resetFn f) s else s
  ({ s1 with sriov := false } : State).resetFn 0

/-- Step 7 of R394: the function reports that its reset is done, and its BARs answer again. -/
def State.resetDone (s : State) (f : Nat) : State :=
  if s.resetting.contains f then { s with resetting := s.resetting.filter (· ≠ f), host := s.host ++ [.resetDone f] } else s

/-- The reset of functions under way: steps 1 to 6 are one step of the model; until step 7, which follows, their BARs read 0 and ignore writes. -/
def State.resets (s : State) (fs : List Nat) : State :=
  fs.foldl (fun (u : State) f => u.post .functionLevelReset { fn := f, flag := true }) { s with resetting := s.resetting ++ fs }

/-- The functions that a reset of the physical function or of the host link resets. -/
def State.allFns (s : State) : List Nat := if s.sriov then List.range 17 else [0]

/-- The event FUNCTION_LEVEL_RESET of function inp.fn; with inp.flag its step 7. -/
def execFunctionLevelReset (s : State) : Out :=
  .next (if s.inp.flag then s.resetDone s.inp.fn
         else if s.inp.fn = 0 then s.resetAll.resets s.allFns
         else if s.fnLive s.inp.fn then (s.resetFn s.inp.fn).resets [s.inp.fn] else s)

/-- The event CONVENTIONAL_RESET. -/
def execConventionalReset (s : State) : Out := .next (s.resetAll.resets s.allFns)

/-! ### Soft errors (R45, R397, R398) -/

/-- A telemetry register: dies 0 to 4, laser banks 5 to 12 (R401). -/
def State.tel (s : State) (k : Nat) : DWord := Assoc.get 0x0000FFFFFF000000#64 k s.telemetry

/-- The event CORRECTED_ERROR on die inp.n: it is counted, saturating. -/
def execCorrectedError (s : State) : Out :=
  if 5 ≤ s.inp.n then .next s
  else
    let v := s.tel s.inp.n
    let n := (v.extractLsb' 48 16).toNat
    .next { s with telemetry := Assoc.put s.inp.n (BitVec.ofNat 16 (min 0xFFFF (n + 1)) ++ v.extractLsb' 0 48) s.telemetry }

/-- Whether memory of this package lies at an address. -/
def State.hasMemory (s : State) (pa : Nat) : Bool :=
  paPkg pa = s.pkg &&
    (match paRegion pa with
     | .core _ => true
     | .vault => true
     | .baste => true
     | .hbm => true
     | .reserve => true
     | .device => false
     | .hole => false)

/-- A line is marked as poisoned. -/
def State.markPoison (s : State) (line : Nat) : State :=
  if s.hasMemory (64 * line) && !s.poison.contains line then { s with poison := s.poison ++ [line] } else s

/-- The event UNCORRECTABLE_ERROR in the memory line inp.n. -/
def execUncorrectableError (s : State) : Out := .next (s.markPoison s.inp.n)

/-- The event HBM_LINK_TAG_FAIL for the line inp.n: with inp.flag the retry has failed too (R45). -/
def execHbmLinkTagFail (s : State) : Out :=
  .next (if s.inp.flag && (paRegion (64 * s.inp.n)).isHbm then s.markPoison s.inp.n else s)

/-- A team is halted and dropped, its queue stops; a basting one that does not commit yet is unpicked (R110, R111, R398). -/
def State.parityDrop (s : State) (c slot : Nat) : State :=
  match s.team? c slot with
  | none => s
  | some t =>
    if t.bast && !s.committing t.launch.1 then s.unpickQ t.launch.1
    else
      let seq := match (s.launches.find? (fun e => e.1 = t.launch)).map (·.2) with | some l => l.seq | none => t.launch.2
      (s.abortTeam c slot).stopQueue t.launch.1 (err0Word 0x16 seq 0 0) 0 false

/-- Team slots with a position on a core. -/
def State.slotsOn (s : State) (c n : Nat) : List Nat := firstUse ([0, 1, 2, 3].filterMap (fun x => (s.ctx ⟨c, n, x⟩).slot))

/-- Element i leaves a list. -/
def without {α : Type} (l : List α) (i : Nat) : List α := l.take i ++ l.drop (i + 1)

/-- The event PARITY_ERROR. -/
def execParityError (s : State) : Out :=
  match s.inp.load with
  | .parity (.regs p) =>
    (match (s.ctx p).slot with
     | some n => .next (s.parityDrop p.clus n)
     | none => .next s)
  | .parity (.tags c n) => .next ((s.slotsOn c n).foldl (fun u k => u.parityDrop c k) s)
  | .parity (.watch c i) =>
    (match (s.clus c).watches[i]? with
     | some w => .next ((s.modClus c (fun k => { k with watches := without k.watches i })).sendDone w.opkg (s.doneOf w 0 0 cDEAD_PEER))
     | none => .next s)
  | .parity (.tlb c i) => .next (s.modClus c (fun k => { k with tlb := without k.tlb i }))
  | _ => .next s

/-! ### Telemetry (R401) -/

/-- The event TELEMETRY_UPDATE: register inp.n takes RUL, WEAR and TEMP from inp.val; WARN follows from RUL, CECNT is kept. -/
def execTelemetryUpdate (s : State) : Out :=
  if 13 ≤ s.inp.n then .next s
  else
    let v := s.inp.val
    let rul := v.extractLsb' 24 24
    let wear := min 100 (v.extractLsb' 16 8).toNat
    let w : DWord := (s.tel s.inp.n).extractLsb' 48 16 ++ rul ++ BitVec.ofNat 8 wear ++ v.extractLsb' 8 8 ++ (if rul.toNat < 2000 then 1#8 else 0#8)
    .next { s with telemetry := Assoc.put s.inp.n w s.telemetry }

end Sys2Proof.Machine
end

