-- ==== Sys2Proof/Machine/Snap.lean ====
section
/-! DEFINITION. Snapshots (R399, R400). -/

namespace Sys2Proof.Machine

def State.snap (s : State) (fn : Nat) : Snap := Assoc.get {} fn s.snaps
def State.setSnap (s : State) (fn : Nat) (w : Snap) : State := { s with snaps := Assoc.put fn w s.snaps }

/-- A command ends: DONE, and with a code ERR (R16, R399). -/
def State.snapEnd (s : State) (fn : Nat) (err : Bool) (code : Byte) : State :=
  s.setSnap fn { s.snap fn with busy := false, done := true, err := err, code := code, quiescing := false, late := false }

/-- A write of SNAP_CMD: ignored while BUSY; where its condition fails it sets ERR and changes nothing. -/
def State.snapCommand (s : State) (fn : Nat) (ok : Snap → Bool) (effect : State → State) : State :=
  let w := s.snap fn
  if w.busy || !s.fnLive fn then s
  else if ok w then effect (s.setSnap fn { w with busy := true, done := false, err := false, code := 0 })
  else s.snapEnd fn true 0

/-- The snapshot milestone advances by 1, as PUBI would: its cluster, its home offset in address space 0, under the home table. Where it
cannot, it stays (the spec gives no code for it; DESIGN CHOICE, log entry 35). Or the state in which its walk runs. -/
def State.snapAdvance (s : State) (fn : Nat) : Except State State :=
  let c := ((s.snap fn).ms.extractLsb' 56 7).toNat
  let a := (s.snap fn).ms &&& 0xFFFFFFFF8#64
  if (s.clus c).fn ≠ fn then .ok s
  else
    match s.quiet c 0 .home a .atomic (.snap fn) with
    | .wait t => .error t
    | .fail t _ => .ok t
    | .ok pa t =>
      let old := bytesDWord (s.bytesAt pa t.key 8)
      if t.type = .sealed || t.type = .device || old = BitVec.allOnes 64 || s.poison.contains (pa / 64) then .ok s
      else .ok (s.advance c pa t.key (old + 1))

/-- A COPY or a RESTORE has moved its lines: the milestone advances and the command ends. -/
def State.snapFinish (s : State) (fn : Nat) : State :=
  match s.snapAdvance fn with
  | .error t => t.setSnap fn { t.snap fn with late := true }
  | .ok t => t.snapEnd fn false 0

/-- Every team of a function has retired, or is SAVED with OUT 0. -/
def State.fnQuiet (s : State) (fn : Nat) : Bool :=
  s.teams.all (fun e => (s.clus e.1.1).fn ≠ fn) && s.clusters.all (fun e => e.2.fn ≠ fn || e.2.saved.all (fun v => v.out = 0))

/-- QUIESCE. -/
def State.snapQuiesce (s : State) (fn : Nat) : State :=
  s.snapCommand fn (fun w => !w.quiet) (fun t =>
    let t1 := t.setSnap fn { t.snap fn with quiescing := true }
    (t1.bastings.foldl (fun u e => if (u.queue e.1).fn = fn then u.unpickQ e.1 else u) t1).post .quiesceDone { fn := fn })

/-- The event SNAP_QUIESCE, of function inp.fn. -/
def execSnapQuiesce (s : State) : Out := .next (s.snapQuiesce s.inp.fn)

/-- The event QUIESCE_DONE of function inp.fn: while a team runs it looks again later. -/
def execQuiesceDone (s : State) : Out :=
  let f := s.inp.fn
  if !(s.snap f).quiescing then .next s
  else if s.fnQuiet f then
    match s.snapAdvance f with
    | .error t => .next t
    | .ok t =>
      let u := t.snapEnd f false 0
      .next (u.setSnap f { u.snap f with quiet := true })
  else .next (s.post .quiesceDone s.inp)

/-- The range of SNAP_SRC and SNAP_LEN lies in the mappable HBM region of one cluster of the function (R32). -/
def State.snapRange (s : State) (fn : Nat) : Bool :=
  let a := (s.snap fn).src.toNat
  let n := (s.snap fn).len.toNat
  a % 4096 = 0 && n % 4096 = 0 && 4096 ≤ n && n ≤ 2 ^ 32 && paPkg a = s.pkg && (s.clus (paClus a)).fn = fn &&
    0x100000000 ≤ paOfs a && paOfs a + n ≤ 0x1FF000000

/-- COPY and RESTORE move the range that they find at their start. -/
def State.snapMove (s : State) (fn cmd : Nat) : State :=
  s.setSnap fn { s.snap fn with cmd := cmd, srcAt := (s.snap fn).src, dstAt := (s.snap fn).dst, lenAt := (s.snap fn).len }

/-- COPY. -/
def State.snapCopy (s : State) (fn : Nat) : State :=
  s.snapCommand fn (fun w => w.quiet && s.snapRange fn) (fun t => (t.snapMove fn 2).post .copyDone { fn := fn })

/-- The event SNAP_COPY. -/
def execSnapCopy (s : State) : Out := .next (s.snapCopy s.inp.fn)

/-- A line as stored: its four blocks of cipher text. -/
def State.storedLine (s : State) (line : Nat) : List Byte := (List.range 4).flatMap (fun j => s.cipherBlock (4 * line + j))

/-- The lines of a range up to the first poisoned one, written to board memory as stored. -/
def State.copyLines (s : State) (fn : Nat) (dst : DWord) (line : Nat) : Nat → State × Bool
  | 0 => (s, true)
  | n + 1 =>
    if s.poison.contains line then (s, false)
    else ({ s with host := s.host ++ [.stored fn dst (s.storedLine line)] } : State).copyLines fn (dst + 64) (line + 1) n

/-- The event COPY_DONE of function inp.fn; inp.flag says that PCIe reported an error, after inp.n lines had been written. -/
def execCopyDone (s : State) : Out :=
  let f := s.inp.fn
  let w := s.snap f
  if !(w.busy && w.cmd = 2) then .next s
  else if w.late then .next (s.snapFinish f)
  else
    let r := s.copyLines f w.dstAt (w.srcAt.toNat / 64) (if s.inp.flag then min s.inp.n (w.lenAt.toNat / 64) else w.lenAt.toNat / 64)
    if !r.2 then .next (r.1.snapEnd f true cDEAD_PEER)
    else if s.inp.flag then .next (r.1.snapEnd f true cPERM)
    else .next (r.1.snapFinish f)

/-- RESTORE. -/
def State.snapRestore (s : State) (fn : Nat) : State :=
  s.snapCommand fn (fun w => w.quiet) (fun t => (t.snapMove fn 3).post .restoreDone { fn := fn })

/-- The event SNAP_RESTORE. -/
def execSnapRestore (s : State) : Out := .next (s.snapRestore s.inp.fn)

/-- Put a line as stored: its blocks hold cipher text, whatever key it was made under (R44, R400). -/
def State.putStored (s : State) (line : Nat) (x : List Byte) : State :=
  { s with mem := memPutList s.mem (64 * line) ((List.range 64).map (fun k => x.getD k 0)),
           hbmKey := (List.range 4).foldl (fun m j => Assoc.put (4 * line + j) none m) s.hbmKey,
           poison := s.poison.filter (· ≠ line) }

/-- A line lies in the mappable HBM region of a cluster of the function (R32, R399). -/
def State.snapLine (s : State) (fn line : Nat) : Bool :=
  paPkg (64 * line) = s.pkg && (s.clus (paClus (64 * line))).fn = fn && paRegion (64 * line) = .hbm

/-- Lines read from board memory go home as stored; each is a write for R106 and R199. R400 names no test of RESTORE's range: a line that is not
in the HBM slice of a cluster of the function, as R399 wants it, is not written (DESIGN CHOICE, log entry 35). -/
def State.restoreLines (s : State) (fn line : Nat) : List (List Byte) → State
  | [] => s
  | x :: xs =>
    (if s.snapLine fn line then ((s.invalidate (paClus (64 * line)) none line).putStored line x).bumpGen (64 * line) else s).restoreLines fn (line + 1) xs

/-- The event RESTORE_DONE of function inp.fn, with the lines that board memory holds from SNAP_DST on; or with inp.flag a PCIe
error after those lines. -/
def execRestoreDone (s : State) : Out :=
  let f := s.inp.fn
  let w := s.snap f
  if !(w.busy && w.cmd = 3) then .next s
  else if w.late then .next (s.snapFinish f)
  else
    match s.inp.load with
    | .lines l =>
      let u := s.restoreLines f (w.srcAt.toNat / 64) (l.take (w.lenAt.toNat / 64))
      .next (if s.inp.flag then u.snapEnd f true cPERM else u.snapFinish f)
    | _ => .next (if s.inp.flag then s.snapEnd f true cPERM else s)

/-- RELEASE. -/
def State.snapRelease (s : State) (f : Nat) : State :=
  s.snapCommand f (fun w => w.quiet) (fun t => ((t.setSnap f { t.snap f with quiet := false }).snapEnd f false 0).post .teamPlace {})

/-- The event SNAP_RELEASE. -/
def execSnapRelease (s : State) : Out := .next (s.snapRelease s.inp.fn)

end Sys2Proof.Machine
end

