-- ==== Sys2Proof/Machine/Regs.lean ====
section
/-! DEFINITION. Device registers by address (R8, R14, R25, R46, R50, R51, R91, R92, R104, R329, R391, R399, R401): what a write of 8 bytes does
and what a read gives. A write of a register with an event of its own does what that event does. -/

namespace Sys2Proof.Machine

/-! ### BAR0 -/

/-- A write of KS_CMD; a code that names no command sets ERR (R16, R46). buf is what lies at KS_ADDR. -/
def State.ksCmdWrite (s : State) (fn code : Nat) (buf : List Byte) : State :=
  if code = 1 then s.ksCreate fn
  else if code = 2 then s.ksImport fn buf
  else if code = 3 then s.ksExport fn
  else if code = 4 then s.ksOffer fn
  else if code = 5 then s.ksAccept fn
  else if code = 6 then s.ksErase fn
  else if code = 7 then s.ksSimport fn buf
  else if code = 8 then s.ksSerase fn
  else s.ksCommand fn (fun _ => false) (fun _ t => t)

/-- A write in the key-store window (R46). -/
def State.ksWrite (s : State) (fn r : Nat) (v : DWord) (buf : List Byte) : State :=
  let w := s.ksWin fn
  if r = 0x00 then s.setKsWin fn { w with slot := v &&& 0xFFF#64 }
  else if r = 0x08 then s.setKsWin fn { w with arg := v &&& 0x1F#64 }
  else if r = 0x10 then s.setKsWin fn { w with addr := v }
  else if r = 0x18 then s.ksCmdWrite fn v.toNat buf
  else s

/-- A write in the snapshot window (R399). -/
def State.snapWrite (s : State) (fn r : Nat) (v : DWord) : State :=
  let w := s.snap fn
  if r = 0x00 then
    (if v = 1 then s.snapQuiesce fn
     else if v = 2 then s.snapCopy fn
     else if v = 3 then s.snapRestore fn
     else if v = 4 then s.snapRelease fn
     else s.snapCommand fn (fun _ => false) id)
  else if r = 0x08 then s.setSnap fn { w with ms := v &&& 0x7F00000FFFFFFFFF#64 }
  else if r = 0x10 then s.setSnap fn { w with src := v }
  else if r = 0x18 then s.setSnap fn { w with dst := v }
  else if r = 0x20 then s.setSnap fn { w with len := v }
  else s

/-- A write of Q_CMD: CODE and ARG (R93). -/
def State.qCmdWrite (s : State) (q : Nat) (v : DWord) : State :=
  let code := (v.extractLsb' 0 8).toNat
  if code = 1 then s.queueCreate q
  else if code = 2 then s.queueDestroy q (v.getLsbD 8)
  else if code = 3 then s.queueResume q (v.getLsbD 8)
  else s.modQueue q (fun k => { k with cerr := true })

/-- A write in a queue's window (R92). -/
def State.queueWrite (s : State) (q r : Nat) (v : DWord) : State :=
  if r = 0x00 then (if (s.queue q).st = .absent then s.modQueue q (fun k => { k with cfg := v &&& 0xFFF01F1F#64 }) else s)
  else if r = 0x08 then s.modQueue q (fun k => { k with base := v &&& 0xFFFFFFFFFFFFFF00#64 })
  else if r = 0x10 then s.prodWrite q v.toNat
  else if r = 0x20 then
    s.modQueue q (fun k => { k with ncomp := k.ncomp && !v.getLsbD 26, nprod := k.nprod && !v.getLsbD 25, nreg := k.nreg && !v.getLsbD 24 })
  else if r = 0x38 then s.qCmdWrite q v
  else s

/-- A write of a register that only the physical function reaches. -/
def State.pfWrite (s : State) (r : Nat) (v : DWord) : State :=
  if r = 0x40 then s.bstCtlWrite v
  else if r = 0x60 then { s with lqCtl := v &&& 0xFF001F#64 }
  else if r = 0x100 then s.modFab (fun f => { f with ctl := v &&& 0xFFFF0000000F#64 })
  else if 0x200 ≤ r && r < 0x288 then s.modFab (fun f => { f with quota := Assoc.put ((r - 0x200) / 8) (v.extractLsb' 0 11).toNat f.quota })
  else if 0x1000 ≤ r && r < 0x1400 then s.clusterFnWrite ((r - 0x1000) / 8) v
  else if 0x1800 ≤ r && r < 0x2000 then s.queueFnWrite ((r - 0x1800) / 8) v
  else s

/-- A write at an offset of a function's BAR0; holes, RO registers and other functions' registers take none. An offset that is no multiple
of 8 names the register it lies in (log entry 33). -/
def State.bar0Write (s : State) (fn ofs : Nat) (v : DWord) (buf : List Byte) : State :=
  let r := ofs / 8 * 8
  if 0x2000 ≤ r && r < 0x2028 then s.ksWrite fn (r - 0x2000) v buf
  else if 0x2100 ≤ r && r < 0x2130 then s.snapWrite fn (r - 0x2100) v
  else if 0x10000 ≤ r && r < 0x14000 then
    (if s.qReach fn ((r - 0x10000) / 64) then s.queueWrite ((r - 0x10000) / 64) (r % 64) v else s)
  else if fn = 0 then s.pfWrite r v
  else s

/-! ### BAR2 (R51) -/

/-- A write at an offset of a cluster's device-register window by a function. -/
def State.windowWrite (s : State) (fn c ofs : Nat) (v : DWord) : State :=
  let r := ofs / 8 * 8
  let cmd := (v.extractLsb' 60 4).toNat
  if r = 0x1100 then
    (if cmd = 1 then s.preSave fn c v else if cmd = 2 then s.preResume fn c v else if cmd = 3 then s.preDrop fn c v
     else if (s.clus c).pre.run ≠ 0 then s.preRefuse c 6 else s)
  else if r = 0x1200 then (if cmd = 1 then s.dbgStart false fn c v else if cmd = 2 then s.dbgStart true fn c v else s)
  else if r = 0x1000 then (if fn = 0 then (s.svcCtlWrite c v).post .teamPlace {} else s)
  else if r = 0x1008 then (if fn = 0 then s.devWritePlain c r v else s)
  else s.devWritePlain c r v

/-- A write at an offset of a function's BAR2; windows of other functions' clusters take none. An offset that is no multiple of 8 names
the register it lies in (log entry 33). -/
def State.bar2Write (s : State) (fn ofs : Nat) (v : DWord) : State :=
  let c := ofs / 0x1000000
  if s.clusReach fn c then s.windowWrite fn c (ofs % 0x1000000) v else s

/-! ### The management core's map (R14 to R19) -/

/-- Put bytes into a list of bytes at an offset. -/
def putAt (l : List Byte) (ofs : Nat) (bytes : List Byte) : List Byte :=
  (List.range (max l.length (ofs + bytes.length))).map (fun k => if ofs ≤ k && k < ofs + bytes.length then bytes.getD (k - ofs) 0 else l.getD k 0)

/-- A store of the management firmware: bytes in SRAM or the transmit buffer, else the 8 bytes of a register. A store to the receive
buffer has no effect (log entry 32). -/
def State.mgmtWrite (s : State) (a : Nat) (v : DWord) (bytes : List Byte) : State :=
  if 0x10000000 ≤ a && a + bytes.length ≤ 0x10080000 then s.modBoot (fun b => { b with sram := memPutList b.sram (a - 0x10000000) bytes })
  else if 0x20003800 ≤ a && a + bytes.length ≤ 0x20004000 then s.modBoot (fun b => { b with mbTx := putAt b.mbTx (a - 0x20003800) bytes })
  else if a = 0x20000000 then s.modBoot (fun b => { b with ceSrc := v })
  else if a = 0x20000008 then s.modBoot (fun b => { b with ceLen := v })
  else if a = 0x20000010 then s.modBoot (fun b => { b with ceSig := v })
  else if a = 0x20000018 then s.ceStart v.toNat
  else if a = 0x20001000 then s.modBoot (fun b => { b with meIdx := v })
  else if a = 0x20001008 then s.modBoot (fun b => { b with meSrc := v })
  else if a = 0x20001010 then s.meStart v.toNat
  else if a = 0x20002010 then s.transmit v.toNat
  else if a = 0x20002018 then (if v = 1 then s.modBoot (fun b => { b with rxv := false }) else s)
  else if a = 0x20004008 then s.bootStatWrite (v.setWidth 8)
  else if a = 0x20004010 then s.fuStateWrite v.toNat
  else s

/-! ### The event -/

/-- The host writes the VF Enable bit of the physical function's SR-IOV capability (R25, R26): clearing it resets every virtual
function (R395). -/
def State.sriovWrite (s : State) (fn : Nat) (v : DWord) : State :=
  if fn ≠ 0 then s
  else if v.getLsbD 0 then { s with sriov := true }
  else if s.sriov then { ((List.range 16).map (· + 1)).foldl (fun u f => u.resetFn f) s with sriov := false }
  else s

/-- The event REGISTER_WRITE: function inp.fn writes inp.val at offset inp.ofs of inp.bar; for the management core inp.bytes are the bytes
of a store to a buffer; for KS_CMD they are what lies at KS_ADDR. -/
def execRegisterWrite (s : State) : Out :=
  .next (match s.inp.bar with
    | .bar0 => if s.fnLive s.inp.fn then s.bar0Write s.inp.fn s.inp.ofs s.inp.val s.inp.bytes else s
    | .bar2 => s.bar2Write s.inp.fn s.inp.ofs s.inp.val
    | .mgmt => if s.boot.firmware then s.mgmtWrite s.inp.ofs s.inp.val s.inp.bytes else s
    | .config => if s.configLive then s.sriovWrite s.inp.fn s.inp.val else s)

/-! ### What registers read -/

def flagBit (b : Bool) (n : Nat) : Nat := if b then 2 ^ n else 0

/-- KS_STAT, and the status words that share its layout (R16, R46, R399). -/
def statWord (busy done err : Bool) : Nat := flagBit busy 0 + flagBit done 1 + flagBit err 3

def QState.code : QState → Nat
  | .absent => 0
  | .active => 1
  | .error => 2
  | .draining => 3

/-- Q_STAT (R92). -/
def Queue.stat (k : Queue) : DWord :=
  BitVec.ofNat 64 (flagBit k.ncomp 26 + flagBit k.nprod 25 + flagBit k.nreg 24 + k.nlive % 256 * 2 ^ 16 + flagBit k.cerr 7 +
    flagBit (k.st = .draining) 6 + k.st.code)

/-- A register of a queue's window. -/
def Queue.read (k : Queue) (r : Nat) : DWord :=
  if r = 0x00 then k.cfg
  else if r = 0x08 then k.base
  else if r = 0x10 then BitVec.ofNat 64 k.prod
  else if r = 0x18 then BitVec.ofNat 64 k.cons
  else if r = 0x20 then k.stat
  else if r = 0x28 then k.err0
  else if r = 0x30 then k.err1
  else 0

/-- A read at an offset of a function's BAR0. Until READY all but DEV_STATE read 0 (R26). -/
def State.bar0Read (s : State) (fn ofs : Nat) : DWord :=
  let r := ofs / 8 * 8
  let w := s.ksWin fn
  let n := s.snap fn
  if fn = 0 && r = 0 then s.boot.devState
  else if !s.ready || !s.fnLive fn then 0
  else if r = 0x2000 then w.slot
  else if r = 0x2008 then w.arg
  else if r = 0x2010 then w.addr
  else if r = 0x2020 then BitVec.ofNat 64 (statWord w.run.isSome w.done w.err)
  else if r = 0x2108 then n.ms
  else if r = 0x2110 then n.src
  else if r = 0x2118 then n.dst
  else if r = 0x2120 then n.len
  else if r = 0x2128 then BitVec.ofNat 64 (n.code.toNat * 256 + flagBit n.quiet 4 + statWord n.busy n.done n.err)
  else if 0x10000 ≤ r && r < 0x14000 then
    (if s.qReach fn ((r - 0x10000) / 64) then (s.queue ((r - 0x10000) / 64)).read (r % 64) else 0)
  else if fn ≠ 0 then 0
  else if r = 0x40 then s.bst.ctl
  else if r = 0x48 then s.bst.starts
  else if r = 0x50 then s.bst.claims
  else if r = 0x58 then s.bst.unpicks
  else if r = 0x60 then s.lqCtl
  else if r = 0x100 then s.fabric.ctl
  else if 0x200 ≤ r && r < 0x288 then BitVec.ofNat 64 (s.fabric.quotaOf ((r - 0x200) / 8))
  else if 0x1000 ≤ r && r < 0x1400 then BitVec.ofNat 64 (s.clus ((r - 0x1000) / 8)).fn
  else if 0x1800 ≤ r && r < 0x2000 then BitVec.ofNat 64 (s.queue ((r - 0x1800) / 8)).fn
  else if 0x3000 ≤ r && r < 0x3028 then s.tel ((r - 0x3000) / 8)
  else if 0x3040 ≤ r && r < 0x3080 then s.tel (5 + (r - 0x3040) / 8)
  else 0

/-- A read at an offset of a function's BAR2 (R51). -/
def State.bar2Read (s : State) (fn ofs : Nat) : DWord :=
  if s.ready && s.clusReach fn (ofs / 0x1000000) then s.devRead (ofs / 0x1000000) (ofs % 0x1000000) else 0

/-- CE_STAT and ME_STAT (R15 to R17). -/
def MgmtStat.read (m : MgmtStat) : DWord := BitVec.ofNat 64 (statWord m.run.isSome m.done m.err + flagBit m.pass 2)

/-- A load of a register or of 8 bytes of a buffer by the management core. -/
def State.mgmtRead (s : State) (a : Nat) : DWord :=
  let b := s.boot
  if a < 0x10000 then bytesDWord (Config.bootRom.drop a)
  else if 0x10000000 ≤ a && a < 0x10080000 then bytesDWord ((List.range 8).map (fun k => memGet b.sram (a - 0x10000000 + k)))
  else if 0x40000000 ≤ a && a < 0x41000000 then bytesDWord ((List.range 8).map (fun k => memGet b.flashA (a - 0x40000000 + k)))
  else if 0x41000000 ≤ a && a < 0x42000000 then bytesDWord ((List.range 8).map (fun k => memGet b.flashB (a - 0x41000000 + k)))
  else if a = 0x20000000 then b.ceSrc
  else if a = 0x20000008 then b.ceLen
  else if a = 0x20000010 then b.ceSig
  else if a = 0x20000020 then b.ce.read
  else if 0x20000040 ≤ a && a < 0x20000070 then bytesDWord (b.ceDigest.drop (a - 0x20000040))
  else if a = 0x20001000 then b.meIdx
  else if a = 0x20001008 then b.meSrc
  else if a = 0x20001018 then b.me.read
  else if a = 0x20001020 then b.meRlen
  else if 0x20001100 ≤ a && a < 0x20001400 then bytesDWord ((b.meas.flatten).drop (a - 0x20001100))
  else if a = 0x20002000 then BitVec.ofNat 64 (flagBit b.rxv 0 + flagBit b.txb 1)
  else if 0x20003000 ≤ a && a < 0x20003800 then bytesDWord (b.mbRx.drop (a - 0x20003000))
  else if 0x20003800 ≤ a && a < 0x20004000 then bytesDWord (b.mbTx.drop (a - 0x20003800))
  else if a = 0x20004000 then b.svn
  else if a = 0x20004008 then BitVec.ofNat 64 b.bootStat.toNat
  else 0

end Sys2Proof.Machine
end

