-- ==== Sys2Proof/Machine/Dispatch.lean ====
section
/-! DEFINITION. One arm per instruction and event: each a direct call of its meaning. -/

namespace Sys2Proof.Machine

def exec (i : Instr) (s : State) : Host.Outcome State Fault Refusal :=
  match i with
  | .add w d a b => Sys2Proof.Machine.execAdd w d a b s
  | .sub w d a b => Sys2Proof.Machine.execSub w d a b s
  | .mul d a b => Sys2Proof.Machine.execMul d a b s
  | .mulh d a b => Sys2Proof.Machine.execMulh d a b s
  | .mulhu d a b => Sys2Proof.Machine.execMulhu d a b s
  | .div d a b => Sys2Proof.Machine.execDiv d a b s
  | .divu d a b => Sys2Proof.Machine.execDivu d a b s
  | .rem d a b => Sys2Proof.Machine.execRem d a b s
  | .remu d a b => Sys2Proof.Machine.execRemu d a b s
  | .and w d a b => Sys2Proof.Machine.execAnd w d a b s
  | .or w d a b => Sys2Proof.Machine.execOr w d a b s
  | .xor w d a b => Sys2Proof.Machine.execXor w d a b s
  | .andn w d a b => Sys2Proof.Machine.execAndn w d a b s
  | .min d a b => Sys2Proof.Machine.execMin d a b s
  | .max d a b => Sys2Proof.Machine.execMax d a b s
  | .minu d a b => Sys2Proof.Machine.execMinu d a b s
  | .maxu d a b => Sys2Proof.Machine.execMaxu d a b s
  | .shl w d a b => Sys2Proof.Machine.execShl w d a b s
  | .shr w d a b => Sys2Proof.Machine.execShr w d a b s
  | .sha w d a b => Sys2Proof.Machine.execSha w d a b s
  | .rot w d a b => Sys2Proof.Machine.execRot w d a b s
  | .clz d a => Sys2Proof.Machine.execClz d a s
  | .ctz d a => Sys2Proof.Machine.execCtz d a s
  | .popc d a => Sys2Proof.Machine.execPopc d a s
  | .brev d a => Sys2Proof.Machine.execBrev d a s
  | .sext w d a n => Sys2Proof.Machine.execSext w d a n s
  | .zext w d a n => Sys2Proof.Machine.execZext w d a n s
  | .mov w d a => Sys2Proof.Machine.execMov w d a s
  | .sel w d a b => Sys2Proof.Machine.execSel w d a b s
  | .setCc c w d a b => Sys2Proof.Machine.execSetCc c w d a b s
  | .addi d a i1 => Sys2Proof.Machine.execAddi d a i1 s
  | .andi d a i1 => Sys2Proof.Machine.execAndi d a i1 s
  | .ori d a i1 => Sys2Proof.Machine.execOri d a i1 s
  | .xori d a i1 => Sys2Proof.Machine.execXori d a i1 s
  | .shli d a k => Sys2Proof.Machine.execShli d a k s
  | .shri d a k => Sys2Proof.Machine.execShri d a k s
  | .shai d a k => Sys2Proof.Machine.execShai d a k s
  | .roti d a k => Sys2Proof.Machine.execRoti d a k s
  | .bfx d a p l => Sys2Proof.Machine.execBfx d a p l s
  | .bfi d a p l => Sys2Proof.Machine.execBfi d a p l s
  | .movi d i1 => Sys2Proof.Machine.execMovi d i1 s
  | .movhi d i1 => Sys2Proof.Machine.execMovhi d i1 s
  | .lea d a i1 => Sys2Proof.Machine.execLea d a i1 s
  | .beq a b o => Sys2Proof.Machine.execBeq a b o s
  | .bne a b o => Sys2Proof.Machine.execBne a b o s
  | .blt a b o => Sys2Proof.Machine.execBlt a b o s
  | .bge a b o => Sys2Proof.Machine.execBge a b o s
  | .bltu a b o => Sys2Proof.Machine.execBltu a b o s
  | .bgeu a b o => Sys2Proof.Machine.execBgeu a b o s
  | .briEq a i1 o => Sys2Proof.Machine.execBriEq a i1 o s
  | .briNe a i1 o => Sys2Proof.Machine.execBriNe a i1 o s
  | .briLt a i1 o => Sys2Proof.Machine.execBriLt a i1 o s
  | .briGe a i1 o => Sys2Proof.Machine.execBriGe a i1 o s
  | .briLtu a i1 o => Sys2Proof.Machine.execBriLtu a i1 o s
  | .briGeu a i1 o => Sys2Proof.Machine.execBriGeu a i1 o s
  | .j o => Sys2Proof.Machine.execJ o s
  | .jl o => Sys2Proof.Machine.execJl o s
  | .jlr d a => Sys2Proof.Machine.execJlr d a s
  | .loop a o => Sys2Proof.Machine.execLoop a o s
  | .loopi c o => Sys2Proof.Machine.execLoopi c o s
  | .nop => Sys2Proof.Machine.execNop s
  | .yield => Sys2Proof.Machine.execYield s
  | .halt => Sys2Proof.Machine.execHalt s
  | .lexit => Sys2Proof.Machine.execLexit s
  | .mfs d sr => Sys2Proof.Machine.execMfs d sr s
  | .mts sr a => Sys2Proof.Machine.execMts sr a s
  | .trap c => Sys2Proof.Machine.execTrap c s
  | .rft => Sys2Proof.Machine.execRft s
  | .bkpt => Sys2Proof.Machine.execBkpt s
  | .svc n => Sys2Proof.Machine.execSvc n s
  | .ldbH o d a i1 => Sys2Proof.Machine.execLdbH o d a i1 s
  | .ldbuH o d a i1 => Sys2Proof.Machine.execLdbuH o d a i1 s
  | .ldhH o d a i1 => Sys2Proof.Machine.execLdhH o d a i1 s
  | .ldhuH o d a i1 => Sys2Proof.Machine.execLdhuH o d a i1 s
  | .ldwH o d a i1 => Sys2Proof.Machine.execLdwH o d a i1 s
  | .lddH o d a i1 => Sys2Proof.Machine.execLddH o d a i1 s
  | .ldqH o d a i1 => Sys2Proof.Machine.execLdqH o d a i1 s
  | .ldoH o d a i1 => Sys2Proof.Machine.execLdoH o d a i1 s
  | .ldbG o d a i1 => Sys2Proof.Machine.execLdbG o d a i1 s
  | .ldbuG o d a i1 => Sys2Proof.Machine.execLdbuG o d a i1 s
  | .ldhG o d a i1 => Sys2Proof.Machine.execLdhG o d a i1 s
  | .ldhuG o d a i1 => Sys2Proof.Machine.execLdhuG o d a i1 s
  | .ldwG o d a i1 => Sys2Proof.Machine.execLdwG o d a i1 s
  | .lddG o d a i1 => Sys2Proof.Machine.execLddG o d a i1 s
  | .ldqG o d a i1 => Sys2Proof.Machine.execLdqG o d a i1 s
  | .ldoG o d a i1 => Sys2Proof.Machine.execLdoG o d a i1 s
  | .stb o d a i1 => Sys2Proof.Machine.execStb o d a i1 s
  | .sth o d a i1 => Sys2Proof.Machine.execSth o d a i1 s
  | .stw o d a i1 => Sys2Proof.Machine.execStw o d a i1 s
  | .std o d a i1 => Sys2Proof.Machine.execStd o d a i1 s
  | .stq o d a i1 => Sys2Proof.Machine.execStq o d a i1 s
  | .sto o d a i1 => Sys2Proof.Machine.execSto o d a i1 s
  | .ldl w d a i1 => Sys2Proof.Machine.execLdl w d a i1 s
  | .stl w d a i1 => Sys2Proof.Machine.execStl w d a i1 s
  | .atomAdd o w d a b => Sys2Proof.Machine.execAtomAdd o w d a b s
  | .atomMin o w d a b => Sys2Proof.Machine.execAtomMin o w d a b s
  | .atomMax o w d a b => Sys2Proof.Machine.execAtomMax o w d a b s
  | .atomMinu o w d a b => Sys2Proof.Machine.execAtomMinu o w d a b s
  | .atomMaxu o w d a b => Sys2Proof.Machine.execAtomMaxu o w d a b s
  | .atomAnd o w d a b => Sys2Proof.Machine.execAtomAnd o w d a b s
  | .atomOr o w d a b => Sys2Proof.Machine.execAtomOr o w d a b s
  | .atomXor o w d a b => Sys2Proof.Machine.execAtomXor o w d a b s
  | .atomSwap o w d a b => Sys2Proof.Machine.execAtomSwap o w d a b s
  | .atomCas o w d a b => Sys2Proof.Machine.execAtomCas o w d a b s
  | .fence sc => Sys2Proof.Machine.execFence sc s
  | .fenceP a b => Sys2Proof.Machine.execFenceP a b s
  | .rwb a b => Sys2Proof.Machine.execRwb a b s
  | .rinv a b => Sys2Proof.Machine.execRinv a b s
  | .clean a b => Sys2Proof.Machine.execClean a b s
  | .pull a b t => Sys2Proof.Machine.execPull a b t s
  | .pulld a b t => Sys2Proof.Machine.execPulld a b t s
  | .pullc a b t => Sys2Proof.Machine.execPullc a b t s
  | .stream b p t => Sys2Proof.Machine.execStream b p t s
  | .tagwaitAny d a => Sys2Proof.Machine.execTagwaitAny d a s
  | .tagwaitAll a => Sys2Proof.Machine.execTagwaitAll a s
  | .tagff d a => Sys2Proof.Machine.execTagff d a s
  | .tagclr a => Sys2Proof.Machine.execTagclr a s
  | .tagtst d t => Sys2Proof.Machine.execTagtst d t s
  | .sclose a => Sys2Proof.Machine.execSclose a s
  | .mma a b t => Sys2Proof.Machine.execMma a b t s
  | .mmas a b t => Sys2Proof.Machine.execMmas a b t s
  | .msend a b t => Sys2Proof.Machine.execMsend a b t s
  | .mdrain a t => Sys2Proof.Machine.execMdrain a t s
  | .mzero a t => Sys2Proof.Machine.execMzero a t s
  | .plane b sr_ => Sys2Proof.Machine.execPlane b sr_ s
  | .tidset a b => Sys2Proof.Machine.execTidset a b s
  | .tidclr a => Sys2Proof.Machine.execTidclr a s
  | .pub a b => Sys2Proof.Machine.execPub a b s
  | .pubi a i1 => Sys2Proof.Machine.execPubi a i1 s
  | .unwatch d t => Sys2Proof.Machine.execUnwatch d t s
  | .bar a => Sys2Proof.Machine.execBar a s
  | .bara d a => Sys2Proof.Machine.execBara d a s
  | .barw a b => Sys2Proof.Machine.execBarw a b s
  | .convoy m => Sys2Proof.Machine.execConvoy m s
  | .cjoin => Sys2Proof.Machine.execCjoin s
  | .cleave => Sys2Proof.Machine.execCleave s
  | .watch a t => Sys2Proof.Machine.execWatch a t s
  | .send sr_ t => Sys2Proof.Machine.execSend sr_ t s
  | .sendt d sr_ t => Sys2Proof.Machine.execSendt d sr_ t s
  | .recv d => Sys2Proof.Machine.execRecv d s
  | .recvt d sr_ => Sys2Proof.Machine.execRecvt d sr_ s
  | .enq sr_ q => Sys2Proof.Machine.execEnq sr_ q s
  | .enqt d sr_ q => Sys2Proof.Machine.execEnqt d sr_ q s
  | .lease a t => Sys2Proof.Machine.execLease a t s
  | .coll a t => Sys2Proof.Machine.execColl a t s
  | .leaseq d p => Sys2Proof.Machine.execLeaseq d p s
  | .leaserel d p n => Sys2Proof.Machine.execLeaserel d p n s
  | .deadq d p => Sys2Proof.Machine.execDeadq d p s
  | .vadd t r d a b m => Sys2Proof.Machine.execVadd t r d a b m s
  | .vsub t r d a b m => Sys2Proof.Machine.execVsub t r d a b m s
  | .vmul t r d a b m => Sys2Proof.Machine.execVmul t r d a b m s
  | .vfma t r d a b m => Sys2Proof.Machine.execVfma t r d a b m s
  | .vfms t r d a b m => Sys2Proof.Machine.execVfms t r d a b m s
  | .vfnma t r d a b m => Sys2Proof.Machine.execVfnma t r d a b m s
  | .vmax t d a b m => Sys2Proof.Machine.execVmax t d a b m s
  | .vmin t d a b m => Sys2Proof.Machine.execVmin t d a b m s
  | .vabs t d a m => Sys2Proof.Machine.execVabs t d a m s
  | .vneg t d a m => Sys2Proof.Machine.execVneg t d a m s
  | .vdot t r d a b m => Sys2Proof.Machine.execVdot t r d a b m s
  | .vrcp t r d a m => Sys2Proof.Machine.execVrcp t r d a m s
  | .vrsq t r d a m => Sys2Proof.Machine.execVrsq t r d a m s
  | .vexp2 t r d a m => Sys2Proof.Machine.execVexp2 t r d a m s
  | .vcvt t st r d a m => Sys2Proof.Machine.execVcvt t st r d a m s
  | .vcvtw t st d a m => Sys2Proof.Machine.execVcvtw t st d a m s
  | .vcvtn t st r d a m => Sys2Proof.Machine.execVcvtn t st r d a m s
  | .vqnt st d a => Sys2Proof.Machine.execVqnt st d a s
  | .vdq t r d a m => Sys2Proof.Machine.execVdq t r d a m s
  | .vcmpCc c t d a b m => Sys2Proof.Machine.execVcmpCc c t d a b m s
  | .vsel t d a b m => Sys2Proof.Machine.execVsel t d a b m s
  | .vperm t d a b m => Sys2Proof.Machine.execVperm t d a b m s
  | .vbcast t d sr_ m => Sys2Proof.Machine.execVbcast t d sr_ m s
  | .vins t d sr_ idx => Sys2Proof.Machine.execVins t d sr_ idx s
  | .vext t d v idx => Sys2Proof.Machine.execVext t d v idx s
  | .viota t d m => Sys2Proof.Machine.execViota t d m s
  | .vredSum t r d a m => Sys2Proof.Machine.execVredSum t r d a m s
  | .vredMax t d a m => Sys2Proof.Machine.execVredMax t d a m s
  | .vredMin t d a m => Sys2Proof.Machine.execVredMin t d a m s
  | .vtbl t r d a slot m => Sys2Proof.Machine.execVtbl t r d a slot m s
  | .vtbld slot sr_ => Sys2Proof.Machine.execVtbld slot sr_ s
  | .mand d a b => Sys2Proof.Machine.execMand d a b s
  | .mor d a b => Sys2Proof.Machine.execMor d a b s
  | .mxor d a b => Sys2Proof.Machine.execMxor d a b s
  | .mnot d a => Sys2Proof.Machine.execMnot d a s
  | .mpop d a => Sys2Proof.Machine.execMpop d a s
  | .addi16Pos d i1 => Sys2Proof.Machine.execAddi16Pos d i1 s
  | .add16 d sr_ => Sys2Proof.Machine.execAdd16 d sr_ s
  | .sub16 d sr_ => Sys2Proof.Machine.execSub16 d sr_ s
  | .and16 d sr_ => Sys2Proof.Machine.execAnd16 d sr_ s
  | .or16 d sr_ => Sys2Proof.Machine.execOr16 d sr_ s
  | .xor16 d sr_ => Sys2Proof.Machine.execXor16 d sr_ s
  | .mov16 d sr_ => Sys2Proof.Machine.execMov16 d sr_ s
  | .movi16 d i1 => Sys2Proof.Machine.execMovi16 d i1 s
  | .shli16 d k => Sys2Proof.Machine.execShli16 d k s
  | .shri16 d k => Sys2Proof.Machine.execShri16 d k s
  | .shai16 d k => Sys2Proof.Machine.execShai16 d k s
  | .mul16 d sr_ => Sys2Proof.Machine.execMul16 d sr_ s
  | .min16 d sr_ => Sys2Proof.Machine.execMin16 d sr_ s
  | .max16 d sr_ => Sys2Proof.Machine.execMax16 d sr_ s
  | .andi16 d i1 => Sys2Proof.Machine.execAndi16 d i1 s
  | .addi16Neg d i1 => Sys2Proof.Machine.execAddi16Neg d i1 s
  | .powerGood => Sys2Proof.Machine.execPowerGood s
  | .romMeasured => Sys2Proof.Machine.execRomMeasured s
  | .phaseTimeout => Sys2Proof.Machine.execPhaseTimeout s
  | .firstSramFetch => Sys2Proof.Machine.execFirstSramFetch s
  | .ceHash => Sys2Proof.Machine.execCeHash s
  | .ceVerifyEcdsa => Sys2Proof.Machine.execCeVerifyEcdsa s
  | .ceVerifyLms => Sys2Proof.Machine.execCeVerifyLms s
  | .ceCommandDone => Sys2Proof.Machine.execCeCommandDone s
  | .meExtend => Sys2Proof.Machine.execMeExtend s
  | .meSpdmMeas => Sys2Proof.Machine.execMeSpdmMeas s
  | .meCommandDone => Sys2Proof.Machine.execMeCommandDone s
  | .mctpRequest => Sys2Proof.Machine.execMctpRequest s
  | .mbTxlen => Sys2Proof.Machine.execMbTxlen s
  | .mbTransmitDone => Sys2Proof.Machine.execMbTransmitDone s
  | .mbRxdone => Sys2Proof.Machine.execMbRxdone s
  | .bootStatWrite => Sys2Proof.Machine.execBootStatWrite s
  | .fuStateWrite => Sys2Proof.Machine.execFuStateWrite s
  | .configRequest => Sys2Proof.Machine.execConfigRequest s
  | .trainStart => Sys2Proof.Machine.execTrainStart s
  | .calDone => Sys2Proof.Machine.execCalDone s
  | .rttDone => Sys2Proof.Machine.execRttDone s
  | .keysDone => Sys2Proof.Machine.execKeysDone s
  | .keyUpdate => Sys2Proof.Machine.execKeyUpdate s
  | .ksCreate => Sys2Proof.Machine.execKsCreate s
  | .ksImport => Sys2Proof.Machine.execKsImport s
  | .ksExport => Sys2Proof.Machine.execKsExport s
  | .ksOffer => Sys2Proof.Machine.execKsOffer s
  | .ksAccept => Sys2Proof.Machine.execKsAccept s
  | .ksAcceptDrained => Sys2Proof.Machine.execKsAcceptDrained s
  | .ksErase => Sys2Proof.Machine.execKsErase s
  | .ksEraseDrained => Sys2Proof.Machine.execKsEraseDrained s
  | .ksSimport => Sys2Proof.Machine.execKsSimport s
  | .ksSerase => Sys2Proof.Machine.execKsSerase s
  | .ksSeraseDrained => Sys2Proof.Machine.execKsSeraseDrained s
  | .clusterFnWrite => Sys2Proof.Machine.execClusterFnWrite s
  | .queueFnWrite => Sys2Proof.Machine.execQueueFnWrite s
  | .registerWrite => Sys2Proof.Machine.execRegisterWrite s
  | .qProdWrite => Sys2Proof.Machine.execQProdWrite s
  | .queueCreate => Sys2Proof.Machine.execQueueCreate s
  | .queueDestroy => Sys2Proof.Machine.execQueueDestroy s
  | .queueResume => Sys2Proof.Machine.execQueueResume s
  | .svcCtlWrite => Sys2Proof.Machine.execSvcCtlWrite s
  | .bstCtlWrite => Sys2Proof.Machine.execBstCtlWrite s
  | .recordRead => Sys2Proof.Machine.execRecordRead s
  | .recordArrival => Sys2Proof.Machine.execRecordArrival s
  | .enqRequest => Sys2Proof.Machine.execEnqRequest s
  | .dependenceSatisfied => Sys2Proof.Machine.execDependenceSatisfied s
  | .teamPlace => Sys2Proof.Machine.execTeamPlace s
  | .launchBlocking => Sys2Proof.Machine.execLaunchBlocking s
  | .basteStart => Sys2Proof.Machine.execBasteStart s
  | .basteAdopt => Sys2Proof.Machine.execBasteAdopt s
  | .basteRevalidated => Sys2Proof.Machine.execBasteRevalidated s
  | .basteCommitted => Sys2Proof.Machine.execBasteCommitted s
  | .basteClaimed => Sys2Proof.Machine.execBasteClaimed s
  | .basteUnpick => Sys2Proof.Machine.execBasteUnpick s
  | .basteLifeExpiry => Sys2Proof.Machine.execBasteLifeExpiry s
  | .quantumExpiry => Sys2Proof.Machine.execQuantumExpiry s
  | .fetchLineArrival => Sys2Proof.Machine.execFetchLineArrival s
  | .breakpointMatch => Sys2Proof.Machine.execBreakpointMatch s
  | .teamStall => Sys2Proof.Machine.execTeamStall s
  | .tableWalkRead => Sys2Proof.Machine.execTableWalkRead s
  | .tuRetry => Sys2Proof.Machine.execTuRetry s
  | .tuFail => Sys2Proof.Machine.execTuFail s
  | .tuAnswer => Sys2Proof.Machine.execTuAnswer s
  | .tuInvPage => Sys2Proof.Machine.execTuInvPage s
  | .tuInvSpace => Sys2Proof.Machine.execTuInvSpace s
  | .tuInvAll => Sys2Proof.Machine.execTuInvAll s
  | .tuInvDone => Sys2Proof.Machine.execTuInvDone s
  | .loadReply => Sys2Proof.Machine.execLoadReply s
  | .atomReply => Sys2Proof.Machine.execAtomReply s
  | .l1Eviction => Sys2Proof.Machine.execL1Eviction s
  | .read => Sys2Proof.Machine.execRead s
  | .readReply => Sys2Proof.Machine.execReadReply s
  | .pullReq => Sys2Proof.Machine.execPullReq s
  | .pullData => Sys2Proof.Machine.execPullData s
  | .pullComplete => Sys2Proof.Machine.execPullComplete s
  | .watchReq => Sys2Proof.Machine.execWatchReq s
  | .watchPoll => Sys2Proof.Machine.execWatchPoll s
  | .watchDone => Sys2Proof.Machine.execWatchDone s
  | .msg => Sys2Proof.Machine.execMsg s
  | .msgAnswer => Sys2Proof.Machine.execMsgAnswer s
  | .enqAnswer => Sys2Proof.Machine.execEnqAnswer s
  | .unwatchAnswer => Sys2Proof.Machine.execUnwatchAnswer s
  | .fabricQueryAnswer => Sys2Proof.Machine.execFabricQueryAnswer s
  | .matrixAccept => Sys2Proof.Machine.execMatrixAccept s
  | .bFetchDone => Sys2Proof.Machine.execBFetchDone s
  | .matrixStepStart => Sys2Proof.Machine.execMatrixStepStart s
  | .matrixStepDone => Sys2Proof.Machine.execMatrixStepDone s
  | .vtbldDone => Sys2Proof.Machine.execVtbldDone s
  | .flitSend => Sys2Proof.Machine.execFlitSend s
  | .data => Sys2Proof.Machine.execData s
  | .ack => Sys2Proof.Machine.execAck s
  | .nak => Sys2Proof.Machine.execNak s
  | .idle => Sys2Proof.Machine.execIdle s
  | .echo => Sys2Proof.Machine.execEcho s
  | .ackTimer => Sys2Proof.Machine.execAckTimer s
  | .retransmitTimeout => Sys2Proof.Machine.execRetransmitTimeout s
  | .idleTimer => Sys2Proof.Machine.execIdleTimer s
  | .colourRecalibrated => Sys2Proof.Machine.execColourRecalibrated s
  | .laneRetuned => Sys2Proof.Machine.execLaneRetuned s
  | .leaseReq => Sys2Proof.Machine.execLeaseReq s
  | .leaseAnswer => Sys2Proof.Machine.execLeaseAnswer s
  | .leaseWaitExpiry => Sys2Proof.Machine.execLeaseWaitExpiry s
  | .termEnd => Sys2Proof.Machine.execTermEnd s
  | .genReq => Sys2Proof.Machine.execGenReq s
  | .genReply => Sys2Proof.Machine.execGenReply s
  | .state => Sys2Proof.Machine.execState s
  | .error => Sys2Proof.Machine.execError s
  | .deadPeerDeclare => Sys2Proof.Machine.execDeadPeerDeclare s
  | .collStart => Sys2Proof.Machine.execCollStart s
  | .collWatchMet => Sys2Proof.Machine.execCollWatchMet s
  | .collPullLanded => Sys2Proof.Machine.execCollPullLanded s
  | .tnodeExpiry => Sys2Proof.Machine.execTnodeExpiry s
  | .tlimExpiry => Sys2Proof.Machine.execTlimExpiry s
  | .preSave => Sys2Proof.Machine.execPreSave s
  | .saveDrained => Sys2Proof.Machine.execSaveDrained s
  | .redirectCompletion => Sys2Proof.Machine.execRedirectCompletion s
  | .preResume => Sys2Proof.Machine.execPreResume s
  | .resumePlace => Sys2Proof.Machine.execResumePlace s
  | .preDrop => Sys2Proof.Machine.execPreDrop s
  | .dbgRead => Sys2Proof.Machine.execDbgRead s
  | .dbgWrite => Sys2Proof.Machine.execDbgWrite s
  | .teamRetire => Sys2Proof.Machine.execTeamRetire s
  | .teamRetireDone => Sys2Proof.Machine.execTeamRetireDone s
  | .quiescenceWave => Sys2Proof.Machine.execQuiescenceWave s
  | .functionLevelReset => Sys2Proof.Machine.execFunctionLevelReset s
  | .conventionalReset => Sys2Proof.Machine.execConventionalReset s
  | .correctedError => Sys2Proof.Machine.execCorrectedError s
  | .uncorrectableError => Sys2Proof.Machine.execUncorrectableError s
  | .parityError => Sys2Proof.Machine.execParityError s
  | .hbmLinkTagFail => Sys2Proof.Machine.execHbmLinkTagFail s
  | .snapQuiesce => Sys2Proof.Machine.execSnapQuiesce s
  | .quiesceDone => Sys2Proof.Machine.execQuiesceDone s
  | .snapCopy => Sys2Proof.Machine.execSnapCopy s
  | .copyDone => Sys2Proof.Machine.execCopyDone s
  | .snapRestore => Sys2Proof.Machine.execSnapRestore s
  | .restoreDone => Sys2Proof.Machine.execRestoreDone s
  | .snapRelease => Sys2Proof.Machine.execSnapRelease s
  | .telemetryUpdate => Sys2Proof.Machine.execTelemetryUpdate s
  | .powerRemoved => Sys2Proof.Machine.execPowerRemoved s
  | .perstDeasserted => Sys2Proof.Machine.execPerstDeasserted s
  | .storePerformed => Sys2Proof.Machine.execStorePerformed s
  | .completionTimeout => Sys2Proof.Machine.execCompletionTimeout s

end Sys2Proof.Machine
end

