-- ==== Sys2Proof/Machine/Place.lean ====
section
/-! DEFINITION. A program placed by hand for withFetchWord (log entry 18). -/

namespace Sys2Proof.Machine

/-- Where the placed code lies: the start of the current cluster's vault, mapped at its own offset. -/
def fetchBase : Nat := 0x1000000

/-- A READY context at the current position with 32 bytes of code at its pc, a window of one page, its page in the TLB and
the unit in the core's fetched code. -/
def State.placeFetch (s : State) (l : List Byte) : State :=
  let p := s.cur
  let pa := mkPa s.pkg p.clus fetchBase
  let s1 := { s with agenda := [], mem := memPutList s.mem pa l }
  let s3 := s1.modCore p.clus p.core (fun k => { k with
    tlb := ⟨(s.ctx p).aspc, .read, fetchBase, 4096, pa, 0, .normal, true, true, true, none⟩ :: k.tlb, code := (pa / 32, 0, l) :: k.code, turn := p.ctx, turnOn := true, qexp := false })
  s3.modCtx p (fun c => { c with pc := BitVec.ofNat 64 fetchBase, st := .ready, slot := some 0, cbase := fetchBase, cpages := 1,
                                 skipbp := true, convoy := none, ptrap := none, pdbg := false, stop := false, unready := [] })

end Sys2Proof.Machine
end

