-- ==== Sys2Proof/Machine/Step.lean ====
section
/-! DEFINITION. One step: the schedule's next entry, else a READY context, else the oldest follow-up event, else nothing
(log entry 4); and withFetchWord. -/

namespace Sys2Proof.Machine

/-- CLK and the step counter advance (R193; log entry 5). -/
def State.tick (s : State) : State :=
  { s with clk := s.clk + BitVec.ofNat 64 (1 + Config.elapsed s.steps), steps := s.steps + 1 }

/-- The context at p executes one instruction, or what comes before it. -/
def runCtx (s : State) (p : Pos) : Host.Outcome State Fault Refusal :=
  match (s.issue p).prepare p with
  | .other t => .next t
  | .instr i => exec i (s.issue p)

/-- An event runs with its input in the latch; an encoded instruction is no event. -/
def runEvent (s : State) (i : Instr) (inp : Inp) : Host.Outcome State Fault Refusal :=
  if i.isEvent then exec i { s with inp := inp } else .next s

def runSched (s : State) : Sched → Host.Outcome State Fault Refusal
  | .run p => if s.nextOn p.clus p.core = some p then runCtx s p else .next s
  | .event i inp => runEvent s i inp

def step (s0 : State) : Host.Outcome State Fault Refusal :=
  let s := s0.tick
  match s.agenda with
  | e :: es => runSched { s with agenda := es } e
  | [] =>
    match s.nextReady with
    | some p => runCtx s p
    | none =>
      match s.pending with
      | e :: es => runSched { s with pending := es } e
      | [] => .next s

/-- The state with an instruction stored where step fetches next: a placed context of the current position, its code window
and translation, the instruction's bytes in the vault and in the core's fetched unit, and an empty agenda (log entry 18). -/
def State.withFetchWord (s : State) (nbits w : Nat) : State := s.placeFetch (bytesLE 32 (w % 2 ^ nbits))

end Sys2Proof.Machine
end

