-- ==== Sys2Proof/WellFormed.lean ====
section
/-! DEFINITION. Well-formed instructions: those whose encoded fields break no rule of R135, R141, R146 to R151 and of the
instruction's own entry. What a term breaks is named by Instr.check, which the decoder uses too. -/

namespace Sys2Proof

/-- The instruction breaks no rule of its encoding. -/
def Instr.wf (i : Instr) : Bool := (Instr.check i).isNone

end Sys2Proof
end

