-- ==== Sys2Proof/Safety.lean ====
section
/-! DEFINITION. What claims are stated in: when an instruction goes on to its own effect, what the current context is as the
instruction sees it, what completing leaves, and which states are sound. -/

namespace Sys2Proof.Machine

/-- A step answers a next state. -/
def State.goes (s : State) : Prop := ∃ t, step s = .next t

/-- The memories of the package and of the management core are in canonical form. -/
def State.memSound (s : State) : Prop :=
  memWf s.mem = true ∧ memWf s.boot.sram = true ∧ memWf s.boot.flashA = true ∧ memWf s.boot.flashB = true

/-- Two states hold the same byte at every address under every key slot. -/
def State.sameMem (s t : State) : Prop := ∀ pa key, t.byteAt pa key = s.byteAt pa key

/-! ### An instruction about to run -/

/-- The state in which the instruction starts: values on their way have arrived (R218) and its bits and length are noted. -/
def State.start (s : State) (i : Instr) : State :=
  s.modMe (fun c => { c.deliver with ibits := Instr.bits i, ilen := Instr.len i })

/-- The stream-mode octets the instruction reads (R240). -/
def State.octets (s : State) (i : Instr) : List Nat := (s.start i).me.streamsOf (Instr.reads i)

/-- The state as the instruction sees it: windows stand in the registers of the stream-mode octets it reads (R239, R240). -/
def State.view (s : State) (i : Instr) : State :=
  ((s.start i).modMe (fun c => { c with spop := s.octets i })).streamView s.cur (s.octets i)

/-- The current context as the instruction sees it. -/
def State.seen (s : State) (i : Instr) : Ctx := (s.view i).me

/-- The instruction goes on to its own effect: its context is READY, no operand still waits for an answer (R218, R311, R315), no stream
check stops it (R240), and no window it reads lies on a poisoned line (R398). -/
structure State.Issues (s : State) (i : Instr) : Prop where
  ready : s.me.st = .ready
  answered : (s.start i).me.waitsFor (Instr.reads i ++ Instr.writes i) = false
  streams : ((s.start i).me.streamCheck (Instr.reads i) (Instr.writes i)).1 = .ok
  clean : (s.octets i).find? (fun k => (s.start i).windowPoison k) = none

/-! ### After an instruction -/

/-- Two contexts hold the same in every field but the stream positions, the convoy's bookkeeping and the pop list. -/
def Ctx.Keeps (c c' : Ctx) : Prop :=
  c' = { c with streams := c'.streams, convoy := c'.convoy, fwded := c'.fwded, spop := c'.spop }

/-- t is the state after the current context completed an instruction whose next PC is npc and whose own effect left the state u: the
context is u's, completed (R186, R193), no byte of memory changes, and where the instruction read no stream only contexts change at all,
the others only in what a convoy forwards to them (R125). -/
structure State.Completes (s : State) (i : Instr) (u : State) (npc : DWord) (t : State) : Prop where
  cur : t.cur = s.cur
  self : Ctx.Keeps (((s.start i).me.restore (s.octets i) u.me).completed npc true) t.me
  mem : u.sameMem t
  rest : s.octets i = [] → t = { u with ctxs := t.ctxs }
  others : s.octets i = [] → ∀ q, q ≠ s.cur → (t.ctx q).w = (u.ctx q).w ∧ (t.ctx q).m = (u.ctx q).m ∧ (t.ctx q).pc = (u.ctx q).pc

/-- t is the state after a jump-free instruction whose only effect on the machine is to change its own context to c. -/
def State.CompletesAs (s : State) (i : Instr) (c : Ctx) (t : State) : Prop :=
  s.Completes i ((s.view i).setCtx s.cur c) (nextPc i s.me.pc) t

end Sys2Proof.Machine
end

