-- ==== Sys2Proof/Certificates/Slice0/Obligations.lean ====
section
/-! DEFINITION. The statements for the provers. Helpers stand in Sys2Proof.Claims; each says again, from the rules, what an instruction
computes. -/

namespace Sys2Proof.Claims

open Sys2Proof Sys2Proof.Machine

/-! ### Encoding and the step -/

/-- Words written out from the encoding tables of the spec, with the instruction each stands for (R144 to R152 and the entries). -/
def decodeSamples : List (List Byte × Instr × Nat) :=
  [ ([0x03, 0x90, 0xA2, 0x38], .add .pair 10 10 14, 4)
  , ([0x41, 0x01, 0x00, 0x00], .nop, 4)
  , ([0x41, 0x02, 0x00, 0x00], .yield, 4)
  , ([0x41, 0x03, 0x00, 0x00], .halt, 4)
  , ([0x17, 0x02, 0x40, 0x00], .movi 2 0x100, 4)
  , ([0x3F, 0x03, 0x80, 0x00], .loopi 3 8, 4)
  , ([0x8D, 0x83, 0x00, 0x00], .ldl .single 3 2 0, 4)
  , ([0x3D, 0xC0, 0x30, 0x00], .loop 3 3, 4)
  , ([0x2E, 0x00], .movi16 1 0, 2)
  , ([0x40, 0x20], .addi16Pos 2 4, 2)
  , ([0x22, 0x18], .add16 1 3, 2) ]

/-- The READY context at p is the next to issue, nothing is scheduled before it, it is in no convoy, no trap or breakpoint is pending for it,
and l are the bytes its fetch gives at its PC. -/
structure Fetches (s : State) (p : Pos) (l : List Byte) : Prop where
  agenda : s.tick.agenda = []
  next : s.tick.nextReady = some p
  convoy : ((s.tick.issue p).ctx p).convoy = none
  trap : ((s.tick.issue p).ctx p).ptrap = none
  debug : ((s.tick.issue p).ctx p).pdbg = false
  breakpoint : ((s.tick.issue p).ctx p).bpMatch = none
  bytes : (s.tick.issue p).fetchInstr p = .bytes l

/-! ### Values -/

/-- The unsigned value of a group of n registers, the first register least significant (R135). -/
def val (c : Ctx) (r : Reg) : Nat → Nat
  | 0 => 0
  | n + 1 => (c.reg r).toNat + 2 ^ 32 * val c (r + 1) n

/-- The signed value of a group of n registers. -/
def sval (c : Ctx) (r : Reg) (n : Nat) : Int :=
  if val c r n < 2 ^ (32 * n - 1) then val c r n else (val c r n : Int) - 2 ^ (32 * n)

/-- The n words of a value modulo 2^(32 n). -/
def words (n : Nat) (v : Int) : List Word := (List.range n).map (fun k => BitVec.ofInt 32 (v / 2 ^ (32 * k)))

/-- What an integer instruction leaves in its destination: first register, number of words, value. -/
abbrev Res := Option (Reg × Nat × Int)

/-- The condition of R153 over groups of n registers. -/
def ccHolds (cc : Cc) (c : Ctx) (a b : Reg) (n : Nat) : Bool :=
  match cc with
  | .eq => val c a n = val c b n
  | .ne => val c a n ≠ val c b n
  | .lt => sval c a n < sval c b n
  | .ge => sval c b n ≤ sval c a n
  | .ltu => val c a n < val c b n
  | .geu => val c b n ≤ val c a n

/-- Arithmetic and logic of R166. -/
def arithRes (c : Ctx) : Instr → Res
  | .add w d a b => some (d, w.words, val c a w.words + val c b w.words)
  | .sub w d a b => some (d, w.words, (val c a w.words : Int) - val c b w.words)
  | .mul d a b => some (d, 1, val c a 1 * val c b 1)
  | .mulh d a b => some (d, 1, sval c a 1 * sval c b 1 / 2 ^ 32)
  | .mulhu d a b => some (d, 1, (val c a 1 : Int) * val c b 1 / 2 ^ 32)
  | .and w d a b => some (d, w.words, (val c a w.words &&& val c b w.words : Nat))
  | .or w d a b => some (d, w.words, (val c a w.words ||| val c b w.words : Nat))
  | .xor w d a b => some (d, w.words, (val c a w.words ^^^ val c b w.words : Nat))
  | .andn w d a b => some (d, w.words, (val c a w.words : Int) - (val c a w.words &&& val c b w.words : Nat))
  | .min d a b => some (d, 1, min (sval c a 1) (sval c b 1))
  | .max d a b => some (d, 1, max (sval c a 1) (sval c b 1))
  | .minu d a b => some (d, 1, (min (val c a 1) (val c b 1) : Nat))
  | .maxu d a b => some (d, 1, (max (val c a 1) (val c b 1) : Nat))
  | _ => none

/-- The number of bits of a word, from the top, before its first 1. -/
def leading (a : Nat) : Nat := if a = 0 then 32 else 31 - Nat.log2 a

/-- The number of bits of a word, from the bottom, before its first 1. -/
def trailing (a : Nat) : Nat := ((List.range 32).takeWhile (fun k => !a.testBit k)).length

/-- Shifts, counts, extensions, moves and selections of R166, R167 and R169 to R172. -/
def shiftRes (c : Ctx) : Instr → Res
  | .shl w d a b => some (d, w.words, (val c a w.words * 2 ^ (val c b 1 % (32 * w.words)) : Nat))
  | .shr w d a b => some (d, w.words, (val c a w.words / 2 ^ (val c b 1 % (32 * w.words)) : Nat))
  | .sha w d a b => some (d, w.words, sval c a w.words / 2 ^ (val c b 1 % (32 * w.words)))
  | .rot w d a b =>
    let n := val c b 1 % (32 * w.words)
    some (d, w.words, (val c a w.words / 2 ^ n + val c a w.words % 2 ^ n * 2 ^ (32 * w.words - n) : Nat))
  | .clz d a => some (d, 1, leading (val c a 1))
  | .ctz d a => some (d, 1, trailing (val c a 1))
  | .popc d a => some (d, 1, ((List.range 32).filter (fun k => (val c a 1).testBit k)).length)
  | .brev d a => some (d, 1, ((List.range 32).map (fun k => if (val c a 1).testBit (31 - k) then 2 ^ k else 0)).sum)
  | .sext w d a n =>
    let x := val c a 1 % 2 ^ (n.toNat + 1)
    some (d, w.words, if x < 2 ^ n.toNat then x else (x : Int) - 2 ^ (n.toNat + 1))
  | .zext w d a n => some (d, w.words, (val c a 1 % 2 ^ (n.toNat + 1) : Nat))
  | .mov w d a => some (d, w.words, val c a w.words)
  | .sel w d a b => some (d, w.words, if val c d w.words ≠ 0 then val c a w.words else val c b w.words)
  | .setCc cc w d a b => some (d, 1, if ccHolds cc c a b w.words then 1 else 0)
  | _ => none

/-- The immediate instructions of R173 to R177. -/
def immRes (c : Ctx) : Instr → Res
  | .addi d a i => some (d, 1, val c a 1 + i.toInt)
  | .andi d a i => some (d, 1, (val c a 1 &&& (i.signExtend 32).toNat : Nat))
  | .ori d a i => some (d, 1, (val c a 1 ||| (i.signExtend 32).toNat : Nat))
  | .xori d a i => some (d, 1, (val c a 1 ^^^ (i.signExtend 32).toNat : Nat))
  | .shli d a k => some (d, 1, (val c a 1 * 2 ^ k.toNat : Nat))
  | .shri d a k => some (d, 1, (val c a 1 / 2 ^ k.toNat : Nat))
  | .shai d a k => some (d, 1, sval c a 1 / 2 ^ k.toNat)
  | .roti d a k => some (d, 1, (val c a 1 / 2 ^ k.toNat + val c a 1 % 2 ^ k.toNat * 2 ^ (32 - k.toNat) : Nat))
  | .bfx d a p l => some (d, 1, (val c a 1 / 2 ^ p.toNat % 2 ^ (l.toNat + 1) : Nat))
  | .bfi d a p l =>
    some (d, 1, (val c d 1 % 2 ^ p.toNat + val c a 1 % 2 ^ (l.toNat + 1) * 2 ^ p.toNat +
      val c d 1 / 2 ^ (p.toNat + l.toNat + 1) * 2 ^ (p.toNat + l.toNat + 1) : Nat))
  | .movi d i => some (d, 1, i.toInt)
  | .movhi d i => some (d, 1, (i.toNat * 2 ^ 14 + val c d 1 % 2 ^ 14 : Nat))
  | .lea d a i => some (d, 2, val c a 2 + i.toInt)
  | _ => none

/-- The sixteen 16-bit forms of R145; src2 of the register forms is w0 to w31. -/
def halfRes (c : Ctx) : Instr → Res
  | .addi16Pos d i => some (d, 1, val c d 1 + i.toNat)
  | .addi16Neg d i => some (d, 1, val c d 1 + (i.toNat : Int) - 32)
  | .add16 d b => some (d, 1, val c d 1 + val c (0#1 ++ b) 1)
  | .sub16 d b => some (d, 1, (val c d 1 : Int) - val c (0#1 ++ b) 1)
  | .and16 d b => some (d, 1, (val c d 1 &&& val c (0#1 ++ b) 1 : Nat))
  | .or16 d b => some (d, 1, (val c d 1 ||| val c (0#1 ++ b) 1 : Nat))
  | .xor16 d b => some (d, 1, (val c d 1 ^^^ val c (0#1 ++ b) 1 : Nat))
  | .mov16 d b => some (d, 1, val c (0#1 ++ b) 1)
  | .movi16 d i => some (d, 1, i.toInt)
  | .shli16 d k => some (d, 1, (val c d 1 * 2 ^ k.toNat : Nat))
  | .shri16 d k => some (d, 1, (val c d 1 / 2 ^ k.toNat : Nat))
  | .shai16 d k => some (d, 1, sval c d 1 / 2 ^ k.toNat)
  | .mul16 d b => some (d, 1, val c d 1 * val c (0#1 ++ b) 1)
  | .min16 d b => some (d, 1, min (sval c d 1) (sval c (0#1 ++ b) 1))
  | .max16 d b => some (d, 1, max (sval c d 1) (sval c (0#1 ++ b) 1))
  | .andi16 d i => some (d, 1, (val c d 1 &&& i.toNat : Nat))
  | _ => none

/-- DIV, DIVU, REM and REMU: destination, divisor and value of R168. -/
def divRes (c : Ctx) : Instr → Option (Reg × Reg × Int)
  | .div d a b => some (d, b, if val c b 1 = 0 then 2 ^ 32 - 1 else Int.tdiv (sval c a 1) (sval c b 1))
  | .divu d a b => some (d, b, if val c b 1 = 0 then 2 ^ 32 - 1 else (val c a 1 / val c b 1 : Nat))
  | .rem d a b => some (d, b, if val c b 1 = 0 then val c a 1 else Int.tmod (sval c a 1) (sval c b 1))
  | .remu d a b => some (d, b, if val c b 1 = 0 then val c a 1 else (val c a 1 % val c b 1 : Nat))
  | _ => none

/-- The instruction completes with this result and changes nothing else but what completing changes. -/
def Gives (i : Instr) (r : Reg) (n : Nat) (v : Int) (s : State) : Prop :=
  ∃ t, exec i s = .next t ∧ s.CompletesAs i ((s.seen i).setGroup r (words n v)) t

/-! ### Traps -/

/-- The context takes the precise trap of R364: nothing of the instruction has happened; XPC, XCAUSE, XADDR and XINFO are written, INTRAP
is set, SKIPBP clear, and the pc is TVEC. A submission of its own ends, which is an event to others; without one no event is posted. -/
structure Traps (s : State) (i : Instr) (code : Byte) (xaddr : DWord) (xinfo : Word) (xpc : DWord) (t : State) : Prop where
  cur : t.cur = s.cur
  self : Ctx.Keeps { (s.start i).me with
    xpc := codeAddr xpc, xcause := code.setWidth 32, xaddr := xaddr, xinfo := xinfo, intrap := true, skipbp := false,
    pc := s.me.tvec, st := .ready, sub := none, skips := [] } t.me
  rest : t = { s with ctxs := t.ctxs, pending := t.pending }
  noEvent : s.me.sub = none → t.pending = s.pending
  others : ∀ q, q ≠ s.cur → (t.ctx q).w = (s.ctx q).w ∧ (t.ctx q).m = (s.ctx q).m ∧ (t.ctx q).pc = (s.ctx q).pc

/-- A context that a trap enters its handler from: not in a handler, not basting, not stopped for a save. -/
structure CanTrap (s : State) : Prop where
  intrap : s.me.intrap = false
  basting : s.me.basting = false
  stop : s.me.stop = false
  last : s.me.last = false

/-- A context keeps its registers and its PC. -/
def Still (s t : State) (p : Pos) : Prop := (t.ctx p).w = (s.ctx p).w ∧ (t.ctx p).m = (s.ctx p).m ∧ (t.ctx p).pc = (s.ctx p).pc

end Sys2Proof.Claims
open Sys2Proof Sys2Proof.Machine Sys2Proof.Claims

/-- O1. Words written out from the spec's encodings decode to the instructions they stand for. R143. The halfword 0x0000 and the word 0xFFFF_FFFF are never instructions. -/
def Obligations.DecodeSamples : Prop :=
  (∀ e ∈ decodeSamples, decode e.1 = .ok (e.2.1, e.2.2)) ∧
  (∀ rest : List Byte, decode (0x00#8 :: 0x00#8 :: rest) = .error .alwaysIllegal ∧
     decode (0xFF#8 :: 0xFF#8 :: 0xFF#8 :: 0xFF#8 :: rest) = .error .alwaysIllegal)

/-- O2. Decoding the bytes of a well-formed instruction's encoding, whatever stands behind them, gives it back, with its length. -/
def Obligations.RoundTrip : Prop :=
  ∀ (i : Instr) (rest : List Byte), i.isEvent = false → i.wf = true → decode ((encode i).bytes ++ rest) = .ok (i, Instr.len i)

/-- R8, R150, R151. What decodes is the encoding of what it decodes to, bit for bit, whatever stands behind it: a word with a reserved field that is not zero, or with an
unassigned code, decodes to nothing. No event comes out of the decoder, and what comes out is well formed. -/
def Obligations.DecodeExact : Prop :=
  ∀ (l : List Byte) (i : Instr) (n : Nat), decode l = .ok (i, n) →
    i.isEvent = false ∧ i.wf = true ∧ n = Instr.len i ∧ (encode i).bytes = l.take n

/-- When the bytes at the PC of the context that issues decode to an instruction, the step is exec of that instruction, in the state in which
CLK and the step count have advanced and the context issues; when they decode to none, the step takes ILLEGAL with the bits in XINFO. -/
def Obligations.StepRunsDecoded : Prop :=
  ∀ (s : State) (p : Pos) (l : List Byte), Fetches s p l →
    (∀ i n, decode l = .ok (i, n) → i.wf = true ∧ step s = exec i (s.tick.issue p)) ∧
    (∀ r, decode l = .error r → step s = .next ((s.tick.issue p).takeTrap p 0x01 0 (bytesBits l) ((s.tick.issue p).ctx p).pc))

/-- R164, R166. Arithmetic and logic: the result modulo 2^n in the destination group, nothing else but what completing changes. R166, R167, R169 to R172. Shifts, counts, extensions, moves and selections. R173 to R177. The immediate instructions. R145. The sixteen 16-bit forms. -/
def Obligations.IntegerResults : Prop :=
  (∀ (s : State) (i : Instr) (d : Reg) (n : Nat) (v : Int), s.Issues i → i.wf = true → arithRes (s.seen i) i = some (d, n, v) → Gives i d n v s) ∧
  (∀ (s : State) (i : Instr) (d : Reg) (n : Nat) (v : Int), s.Issues i → i.wf = true → shiftRes (s.seen i) i = some (d, n, v) → Gives i d n v s) ∧
  (∀ (s : State) (i : Instr) (d : Reg) (n : Nat) (v : Int), s.Issues i → i.wf = true → immRes (s.seen i) i = some (d, n, v) → Gives i d n v s) ∧
  (∀ (s : State) (i : Instr) (d : Reg) (n : Nat) (v : Int), s.Issues i → halfRes (s.seen i) i = some (d, n, v) → Gives i d n v s)

/-- R168. Division: the listed results, truncation towards zero, and the trap DIV_ZERO where RMODE.DZE is 1 and the divisor 0. -/
def Obligations.DivisionResults : Prop :=
  ∀ (s : State) (i : Instr) (d b : Reg) (v : Int), s.Issues i → divRes (s.seen i) i = some (d, b, v) →
    (((s.seen i).reg b ≠ 0 ∨ s.me.rmode.getLsbD 8 = false) → Gives i d 1 v s) ∧
    ((s.seen i).reg b = 0 → s.me.rmode.getLsbD 8 = true → CanTrap s → ∃ t, exec i s = .next t ∧ Traps s i 0x31 0 0 s.me.pc t)

namespace Sys2Proof.Claims

/-- A PC plus a signed number of bytes. -/
def pcAdd (pc : DWord) (k : Int) : DWord := BitVec.ofInt 64 (pc.toNat + k)

/-- The conditional branches of R179 and R180: whether the condition holds, and the offset in halfwords. -/
def branchRes (c : Ctx) : Instr → Option (Bool × Int)
  | .beq a b o => some (ccHolds .eq c a b 1, o.toInt)
  | .bne a b o => some (ccHolds .ne c a b 1, o.toInt)
  | .blt a b o => some (ccHolds .lt c a b 1, o.toInt)
  | .bge a b o => some (ccHolds .ge c a b 1, o.toInt)
  | .bltu a b o => some (ccHolds .ltu c a b 1, o.toInt)
  | .bgeu a b o => some (ccHolds .geu c a b 1, o.toInt)
  | .briEq a i o => some (sval c a 1 = i.toInt, o.toInt)
  | .briNe a i o => some (sval c a 1 ≠ i.toInt, o.toInt)
  | .briLt a i o => some (sval c a 1 < i.toInt, o.toInt)
  | .briGe a i o => some (i.toInt ≤ sval c a 1, o.toInt)
  | .briLtu a i o => some (val c a 1 < i.toNat, o.toInt)
  | .briGeu a i o => some (i.toNat ≤ val c a 1, o.toInt)
  | _ => none

/-- The unconditional jumps of R181 and R182: the link register, if any, and the next PC. -/
def jumpRes (c : Ctx) : Instr → Option (Option Reg × DWord)
  | .j o => some (none, pcAdd c.pc (2 * o.toInt))
  | .jl o => some (some 62, pcAdd c.pc (2 * o.toInt))
  | .jlr d a => some (some d, BitVec.ofNat 64 (val c a 2 / 2 * 2))
  | _ => none

/-- The count and the end offset of a loop instruction (R185). -/
def loopRes (c : Ctx) : Instr → Option (Nat × Nat)
  | .loop a o => some (val c a 1, o.toNat)
  | .loopi n o => some (n.toNat, o.toNat)
  | _ => none

/-- The special registers of R139 and where each is read from, as a value: the context, its core, the cluster or the package. -/
def special (s : State) (c : Ctx) : SReg → Nat
  | .tags => (s.core s.cur.clus s.cur.core).tagBits.toNat
  | .tagerr => (s.core s.cur.clus s.cur.core).tagErrBits.toNat
  | .lcnt i => (c.loopCnt i.val).toNat
  | .xpc => c.xpc.toNat
  | .xcause => c.xcause.toNat
  | .xaddr => c.xaddr.toNat
  | .xinfo => c.xinfo.toNat
  | .tvec => c.tvec.toNat
  | .rmode => c.rmode.toNat
  | .seed => c.seed.toNat
  | .ctx => s.cur.ctx % 2 ^ 32
  | .core => s.cur.core % 2 ^ 32
  | .tile => s.cur.core / 8 % 2 ^ 32
  | .clus => s.cur.clus % 2 ^ 32
  | .pkg => s.pkg % 2 ^ 32
  | .team => c.team.toNat
  | .teamn => c.teamn.toNat
  | .lnch => c.lnch.toNat
  | .capt => c.capt.toNat
  | .clk => s.clk.toNat
  | .retc => c.retc.toNat
  | .mailst =>
    let k := s.core s.cur.clus s.cur.core
    k.mail.length % 32 * 2 ^ 16 + (k.mail.filter (fun m => m.ctx = s.cur.ctx)).length % 32 * 2 ^ 8 + (if 16 ≤ k.mail.length then 1 else 0)
  | .leasest => c.leasest.toNat
  | .bpa i => (c.bpa.toList.getD i.toNat 0).toNat
  | .deadw i => s.dead.toNat / 2 ^ (32 * i.toNat) % 2 ^ 32

/-- What a write of a special register does (R191): the context it leaves, or the code of the trap. -/
inductive Write where
  | to (c : Ctx)
  | trap (code : Byte)

/-- Bits [47:1] of a code address. -/
def codeBits (v : Nat) : DWord := BitVec.ofNat 64 (v % 2 ^ 48 / 2 * 2)

/-- The writable special registers and their masks (R139, R140, R74, R77, R192); every other write traps PRIV, an RMODE of a reserved mode ILLEGAL. -/
def specialWrite (c : Ctx) (v : Nat) : SReg → Write
  | .lcnt i => .to { c with lcnt := c.lcnt.set i.val (BitVec.ofNat 32 v) }
  | .xpc => .to { c with xpc := codeBits v }
  | .xcause => .to { c with xcause := BitVec.ofNat 32 (v % 256) }
  | .xaddr => .to { c with xaddr := BitVec.ofNat 64 v }
  | .xinfo => .to { c with xinfo := BitVec.ofNat 32 v }
  | .tvec => .to { c with tvec := codeBits v }
  | .rmode =>
    if v % 8 = 0 ∨ v % 8 = 6 ∨ v % 8 = 7 then .trap 0x01 else .to { c with rmode := BitVec.ofNat 32 (v % 8 + v / 256 % 4 * 256) }
  | .seed => .to { c with seed := if v = 0 then 1 else BitVec.ofNat 32 v }
  | .capt => if c.sys then .to { c with capt := BitVec.ofNat 64 (v - v / 2 ^ 32 % 16 * 2 ^ 32) } else .trap 0x02
  | .bpa i => if c.debug || c.sys then .to { c with bpa := c.bpa.set i.toNat (codeBits v) } else .trap 0x02
  | _ => .trap 0x02

/-- The context is HALTED (R119): its PC stays, the HALT counts in RETC, registers stay. -/
def Halts (s t : State) : Prop :=
  t.cur = s.cur ∧ t.me.st = .halted ∧ t.me.pc = s.me.pc ∧ t.me.retc = s.me.retc + 1 ∧ t.me.w = s.me.deliver.w ∧ t.me.m = s.me.m

end Sys2Proof.Claims

/-- R179, R180. A conditional branch goes to its target where its condition holds and past itself otherwise, and changes nothing else. R181, R182. J, JL and JLR: the link is written after the address is read, then the jump is made.
R189. NOP only advances; YIELD also ends the turn; HALT leaves the context HALTED with its PC at the HALT. -/
def Obligations.BranchesAndJumps : Prop :=
  (∀ (s : State) (i : Instr) (b : Bool) (o : Int), s.Issues i → branchRes (s.seen i) i = some (b, o) →
     ∃ t, exec i s = .next t ∧ s.Completes i (s.view i) (pcAdd s.me.pc (if b then 2 * o else 4)) t) ∧
  (∀ (s : State) (i : Instr) (l : Option Reg) (npc : DWord), s.Issues i → i.wf = true → jumpRes (s.seen i) i = some (l, npc) →
     ∃ t, exec i s = .next t ∧
       s.Completes i (match l with
         | some d => (s.view i).setCtx s.cur ((s.seen i).setGroup d (words 2 (s.me.pc.toNat + 4)))
         | none => s.view i) npc t) ∧
  (∀ s : State,
    (s.Issues .nop → ∃ t, exec .nop s = .next t ∧ s.CompletesAs .nop (s.seen .nop) t) ∧
    (s.Issues .yield → ∃ t, exec .yield s = .next t ∧
      s.Completes .yield ((s.view .yield).modCore s.cur.clus s.cur.core (fun k => { k with turnOn := false })) (pcAdd s.me.pc 4) t ∧
      t.me.st = .ready ∧ (t.core s.cur.clus s.cur.core).turnOn = false) ∧
    (∃ t, exec .halt s = .next t ∧ Halts s t ∧ t.mem = s.mem ∧ t.hbmKey = s.hbmKey))

/-- R185. LOOP and LOOPI: an empty body, a zero trip, the push of a level, and LOOP_DEPTH with three levels active. R187. LEXIT ends the innermost level; with none active it takes LOOP_DEPTH.
R186. The end-of-body decision of a context that completes an instruction at pc with next PC npc: none outside the innermost body or with
another next PC; another pass while the count is above 1; otherwise the level ends and the next one out is examined. -/
def Obligations.Loops : Prop :=
  (∀ (s : State) (i : Instr) (n off : Nat), s.Issues i → s.me.depth ≤ 3 → loopRes (s.seen i) i = some (n, off) →
     (off ≤ 2 → ∃ t, exec i s = .next t ∧ s.Completes i (s.view i) (pcAdd s.me.pc 4) t) ∧
     (2 < off → n = 0 → ∃ t, exec i s = .next t ∧ s.Completes i (s.view i) (pcAdd s.me.pc (2 * off)) t) ∧
     (2 < off → n ≠ 0 → s.me.depth < 3 → ∃ t c, exec i s = .next t ∧ s.Completes i ((s.view i).setCtx s.cur c) (pcAdd s.me.pc 4) t ∧
       c.depth = s.me.depth + 1 ∧ c.loopStart s.me.depth = pcAdd s.me.pc 4 ∧ c.loopEnd s.me.depth = pcAdd s.me.pc (2 * off) ∧
       c.loopCnt s.me.depth = BitVec.ofNat 32 n ∧
       (∀ k, k < s.me.depth → c.loopStart k = s.me.loopStart k ∧ c.loopEnd k = s.me.loopEnd k ∧ c.loopCnt k = s.me.loopCnt k) ∧
       c = { s.seen i with ls := c.ls, le := c.le, lcnt := c.lcnt, depth := c.depth }) ∧
     (2 < off → n ≠ 0 → s.me.depth = 3 → CanTrap s → ∃ t, exec i s = .next t ∧ Traps s i 0x04 0 3 s.me.pc t)) ∧
  (∀ (s : State), s.Issues .lexit → s.me.depth ≤ 3 →
     (0 < s.me.depth → ∃ t c, exec .lexit s = .next t ∧ s.CompletesAs .lexit c t ∧ c.depth = s.me.depth - 1 ∧
       c.loopCnt (s.me.depth - 1) = 0 ∧ (∀ k, k ≠ s.me.depth - 1 → c.loopCnt k = s.me.loopCnt k) ∧
       c = { s.seen .lexit with lcnt := c.lcnt, depth := c.depth }) ∧
     (s.me.depth = 0 → CanTrap s → ∃ t, exec .lexit s = .next t ∧ Traps s .lexit 0x04 0 0 s.me.pc t)) ∧
  (∀ (c : Ctx) (pc npc : DWord) (i : Nat), i < 3 →
    (endOfBody pc npc 0 c = (c, npc)) ∧
    ((pc < c.loopStart i ∨ c.loopEnd i ≤ pc ∨ npc ≠ c.loopEnd i) → endOfBody pc npc (i + 1) c = (c, npc)) ∧
    (c.loopStart i ≤ pc → pc < c.loopEnd i → npc = c.loopEnd i →
      (1 < (c.loopCnt i).toNat → ∃ c', endOfBody pc npc (i + 1) c = (c', c.loopStart i) ∧ c'.loopCnt i = c.loopCnt i - 1 ∧
        c'.depth = c.depth ∧ (∀ k, k ≠ i → c'.loopCnt k = c.loopCnt k) ∧ c'.w = c.w ∧ c'.m = c.m) ∧
      ((c.loopCnt i).toNat ≤ 1 → ∃ c', endOfBody pc npc (i + 1) c = endOfBody pc npc i c' ∧ c'.loopCnt i = 0 ∧ c'.depth = i ∧
        (∀ k, k ≠ i → c'.loopCnt k = c.loopCnt k) ∧ c'.ls = c.ls ∧ c'.le = c.le ∧ c'.w = c.w ∧ c'.m = c.m)))

/-- R139, R190, R192. MFS reads every special register, a 64-bit one into a pair; bit i of TAGS and of TAGERR stands for tag i. -/
def Obligations.SpecialReads : Prop :=
  (∀ (s : State) (d : Reg) (sr : SReg), s.Issues (.mfs d sr) → (Instr.mfs d sr).wf = true →
    ∃ t c, exec (.mfs d sr) s = .next t ∧ s.CompletesAs (.mfs d sr) c t ∧
      c = { (s.seen (.mfs d sr)).setGroup d (words (if sr.wide then 2 else 1) (special (s.view (.mfs d sr)) (s.seen (.mfs d sr)) sr)) with
        seen := c.seen } ∧
      (sr ≠ .tags → c.seen = (s.seen (.mfs d sr)).seen)) ∧
  (∀ (k : Core) (n : Nat), n < 64 → k.tagBits.getLsbD n = (k.tag n).st.isDone ∧
    k.tagErrBits.getLsbD n = ((k.tag n).st.isDone && (k.tag n).err ≠ 0))

/-- R139, R140, R191, R74, R77. MTS: writes by the register's rule, PRIV where it may not be written, ILLEGAL for a reserved RMODE.MODE. -/
def Obligations.SpecialWrites : Prop :=
  ∀ (s : State) (sr : SReg) (a : Reg), s.Issues (.mts sr a) → (Instr.mts sr a).wf = true →
    let r := specialWrite (s.seen (.mts sr a)) (val (s.seen (.mts sr a)) a (if sr.wide then 2 else 1)) sr
    (∀ c, r = .to c → ∃ t, exec (.mts sr a) s = .next t ∧ s.CompletesAs (.mts sr a) c t) ∧
    (∀ code, r = .trap code → CanTrap s → ∃ t, exec (.mts sr a) s = .next t ∧ Traps s (.mts sr a) code 0 (Instr.bits (.mts sr a)) s.me.pc t)

/-- R367, R368. TRAP resumes past itself and passes its code; BKPT names itself. R364, R365. A trap taken while INTRAP is 1 is a double trap: the context is HALTED and XPC, XCAUSE, XADDR and XINFO keep the first trap's
values. R368, R364. RFT jumps to XPC, clears INTRAP and sets SKIPBP; no end-of-body decision is taken, and no register changes. -/
def Obligations.TrapsAndReturn : Prop :=
  (∀ (s : State), CanTrap s →
     (∀ code, s.Issues (.trap code) → ∃ t, exec (.trap code) s = .next t ∧ Traps s (.trap code) 0x06 0 (code.setWidth 32) (pcAdd s.me.pc 4) t) ∧
     (s.Issues .bkpt → ∃ t, exec .bkpt s = .next t ∧ Traps s .bkpt 0x05 0 0 s.me.pc t)) ∧
  (∀ (s : State) (code : Byte) (xaddr xpc : DWord) (xinfo : Word), s.me.intrap = true → s.me.basting = false → s.me.stop = false → s.me.last = false →
     (s.takeTrap s.cur code xaddr xinfo xpc).me.st = .halted ∧
     (s.takeTrap s.cur code xaddr xinfo xpc).me.xpc = s.me.xpc ∧ (s.takeTrap s.cur code xaddr xinfo xpc).me.xcause = s.me.xcause ∧
     (s.takeTrap s.cur code xaddr xinfo xpc).me.xaddr = s.me.xaddr ∧ (s.takeTrap s.cur code xaddr xinfo xpc).me.xinfo = s.me.xinfo) ∧
  (∀ (s : State), s.Issues .rft → s.me.basting = false → ∃ t, exec .rft s = .next t ∧ t.cur = s.cur ∧
     Ctx.Keeps { (s.start .rft).me with pc := s.me.xpc, intrap := false, skipbp := true, retc := s.me.retc + 1, st := .ready } t.me ∧
     t = { s with ctxs := t.ctxs })

/-- R370, R372. SVC posts the SERVICE message with w(n) to w(n+5) and waits for its answer; without a running service context, or from it, it
takes PERM with XINFO 0x34. -/
def Obligations.ServiceCall : Prop :=
  ∀ (s : State) (n : Reg), s.Issues (.svc n) → s.me.basting = false → s.me.ans = none → s.me.aspc < 16 → s.cur.core < 128 → s.cur.ctx < 4 →
    ((s.clus s.cur.clus).svcStat = 1 → s.cur ≠ svcPos s.cur.clus → (s.clus s.cur.clus).waitMsgs = [] → 0 < freeToken (s.clus s.cur.clus).tokens →
      (s.core s.cur.clus s.cur.core).sb = [] → (s.core s.cur.clus 0).mail.length < 16 →
      ∃ t m, exec (.svc n) s = .next t ∧ t.cur = s.cur ∧ t.me.st = .blocked (.answer .svc) ∧ t.me.ans = some (.svc, n) ∧ t.me.pc = s.me.pc ∧
        (t.core s.cur.clus 0).mail = (s.core s.cur.clus 0).mail ++ [⟨3, m⟩] ∧
        m.length = 8 ∧ m.drop 2 = (s.seen (.svc n)).group n 6 ∧ (m.getD 1 0).toNat / 2 ^ 24 = 2 ∧
        (m.getD 0 0).toNat / 2 ^ 16 = freeToken (s.clus s.cur.clus).tokens) ∧
    (((s.clus s.cur.clus).svcStat ≠ 1 ∨ s.cur = svcPos s.cur.clus) → CanTrap s →
      ∃ t, exec (.svc n) s = .next t ∧ Traps s (.svc n) 0x11 0 0x34 s.me.pc t)

namespace Sys2Proof.Claims

/-- An integer instruction, with what it reads and writes in registers only. -/
def isInteger (c : Ctx) (i : Instr) : Bool :=
  (arithRes c i).isSome || (shiftRes c i).isSome || (immRes c i).isSome || (halfRes c i).isSome

/-- The unsigned value of bytes, least significant first (R6). -/
def bytesVal : List Byte → Nat
  | [] => 0
  | b :: bs => b.toNat + 256 * bytesVal bs

/-- The low n bytes of a value. -/
def lowBytes (n v : Nat) : List Byte := (List.range n).map (fun k => BitVec.ofNat 8 (v / 256 ^ k))

/-- A load (R205, R206): space, size in bytes, sign extension, ordering, destination, base, offset. -/
structure LoadForm where
  space : Space
  size : Nat
  signed : Bool
  ord : LdOrd
  dst : Reg
  base : Reg
  off : BitVec 10
  deriving DecidableEq

def loadForm : Instr → Option LoadForm
  | .ldbH o d a i => some ⟨.home, 1, true, o, d, a, i⟩
  | .ldbuH o d a i => some ⟨.home, 1, false, o, d, a, i⟩
  | .ldhH o d a i => some ⟨.home, 2, true, o, d, a, i⟩
  | .ldhuH o d a i => some ⟨.home, 2, false, o, d, a, i⟩
  | .ldwH o d a i => some ⟨.home, 4, false, o, d, a, i⟩
  | .lddH o d a i => some ⟨.home, 8, false, o, d, a, i⟩
  | .ldqH o d a i => some ⟨.home, 16, false, o, d, a, i⟩
  | .ldoH o d a i => some ⟨.home, 32, false, o, d, a, i⟩
  | .ldbG o d a i => some ⟨.read, 1, true, o, d, a, i⟩
  | .ldbuG o d a i => some ⟨.read, 1, false, o, d, a, i⟩
  | .ldhG o d a i => some ⟨.read, 2, true, o, d, a, i⟩
  | .ldhuG o d a i => some ⟨.read, 2, false, o, d, a, i⟩
  | .ldwG o d a i => some ⟨.read, 4, false, o, d, a, i⟩
  | .lddG o d a i => some ⟨.read, 8, false, o, d, a, i⟩
  | .ldqG o d a i => some ⟨.read, 16, false, o, d, a, i⟩
  | .ldoG o d a i => some ⟨.read, 32, false, o, d, a, i⟩
  | _ => none

/-- A store (R211, R212): size in bytes, ordering, source group, base, offset. -/
structure StoreForm where
  size : Nat
  ord : StOrd
  src : Reg
  base : Reg
  off : BitVec 10
  deriving DecidableEq

def storeForm : Instr → Option StoreForm
  | .stb o d a i => some ⟨1, o, d, a, i⟩
  | .sth o d a i => some ⟨2, o, d, a, i⟩
  | .stw o d a i => some ⟨4, o, d, a, i⟩
  | .std o d a i => some ⟨8, o, d, a, i⟩
  | .stq o d a i => some ⟨16, o, d, a, i⟩
  | .sto o d a i => some ⟨32, o, d, a, i⟩
  | _ => none

/-- The effective address: the pair plus the offset times the size, modulo 2^64 (R205). -/
def ea (c : Ctx) (a : Reg) (off : BitVec 10) (size : Nat) : DWord := BitVec.ofInt 64 (val c a 2 + off.toInt * size)

/-- The words a load of those bytes leaves: 1 and 2 bytes extended to a word. -/
def loadedWords (size : Nat) (signed : Bool) (l : List Byte) : List Word :=
  words ((size + 3) / 4)
    (if signed && 2 ^ (8 * size - 1) ≤ bytesVal l then (bytesVal l : Int) - 2 ^ (8 * size) else bytesVal l)

/-- The access of a context passes the checks of R210: aligned, translated, neither SEALED nor DEVICE, its package not dead, and no poisoned
line for an atomic. -/
structure Reaches (s : State) (sp : Space) (a : DWord) (size : Nat) (acc : AccKind) (pa : Nat) (x : TlbEntry) : Prop where
  aligned : a.toNat % size = 0
  mapped : s.translate s.cur.clus (.ctx s.cur) s.me.aspc sp a acc = .ok pa x
  open' : x.type = .normal ∨ x.type = .swm
  alive : s.dead.getLsbD (paPkg pa) = false
  clean : s.poison.contains (pa / 64) = false

/-- Under the key of a slot the bytes at [pa, pa + l.length) become l and every other byte stays; under every key the bytes of other lines,
and of memory outside HBM, stay. -/
structure Wrote (s t : State) (key pa : Nat) (l : List Byte) : Prop where
  new : t.bytesAt pa key l.length = l
  old : ∀ a, (a < pa ∨ pa + l.length ≤ a) → t.byteAt a key = s.byteAt a key
  lines : ∀ a k, a / 64 ≠ pa / 64 → t.byteAt a k = s.byteAt a k
  plain : (paRegion pa).isHbm = false → ∀ a k, (a < pa ∨ pa + l.length ≤ a) → t.byteAt a k = s.byteAt a k

/-- An atomic instruction: its operands and the new value, from the old one, the operand and d before, at n bytes (R217). -/
def atomForm : Instr → Option (AtOrd × Width × Reg × Reg × Reg × (Nat → Int → Int → Int → Int → Int → Int → Int))
  | .atomAdd o w d a b => some (o, w, d, a, b, fun _ x y _ _ _ _ => x + y)
  | .atomMin o w d a b => some (o, w, d, a, b, fun _ _ _ _ sx sy _ => min sx sy)
  | .atomMax o w d a b => some (o, w, d, a, b, fun _ _ _ _ sx sy _ => max sx sy)
  | .atomMinu o w d a b => some (o, w, d, a, b, fun _ x y _ _ _ _ => min x y)
  | .atomMaxu o w d a b => some (o, w, d, a, b, fun _ x y _ _ _ _ => max x y)
  | .atomAnd o w d a b => some (o, w, d, a, b, fun _ x y _ _ _ _ => (x.toNat &&& y.toNat : Nat))
  | .atomOr o w d a b => some (o, w, d, a, b, fun _ x y _ _ _ _ => (x.toNat ||| y.toNat : Nat))
  | .atomXor o w d a b => some (o, w, d, a, b, fun _ x y _ _ _ _ => (x.toNat ^^^ y.toNat : Nat))
  | .atomSwap o w d a b => some (o, w, d, a, b, fun _ _ y _ _ _ _ => y)
  | .atomCas o w d a b => some (o, w, d, a, b, fun _ x y z _ _ _ => if x = z then y else x)
  | _ => none

/-- A value of n bytes read as signed. -/
def signed (n v : Nat) : Int := if v < 2 ^ (8 * n - 1) then v else (v : Int) - 2 ^ (8 * n)

end Sys2Proof.Claims

/-- R240. A stream-mode octet that an integer instruction reads shows the window of the next pop; past the last pop, over a failed refill and as a
destination it takes STREAM_OVER with XADDR at the window; while a refill has not landed the context waits. R240. An integer instruction that reads a stream-mode octet pops its stream once when it completes, and the last pop makes the stream's BUSY tag
DONE without error.
R218, R311, R315. An instruction with an operand whose answer has not come waits for it: nothing else happens. -/
def Obligations.StreamOperands : Prop :=
  (∀ (s : State) (i : Instr) (k : Nat) (x : Stream), s.me.st = .ready → isInteger (s.seen i) i = true → i.wf = true →
     (s.start i).me.waitsFor (Instr.reads i ++ Instr.writes i) = false → (s.start i).me.stream k = some x →
     (s.octets i = [k] →
       (x.npop ≤ x.pop → CanTrap s → ∃ t, exec i s = .next t ∧ Traps s i 0x24 (BitVec.ofNat 64 x.start) 1 s.me.pc t) ∧
       (x.pop < x.npop → x.rf = true → x.landed < x.pop * x.adv + 32 → x.err ≠ 0 → CanTrap s →
         ∃ t, exec i s = .next t ∧ Traps s i 0x24 (BitVec.ofNat 64 x.start) (4 + x.err.setWidth 32 * 256) s.me.pc t) ∧
       (x.pop < x.npop → x.rf = true → x.landed < x.pop * x.adv + 32 → x.err = 0 →
         ∃ t, exec i s = .next t ∧ t.me.st = .blocked .result ∧ t.me.pc = s.me.pc ∧ t.me.w = (s.start i).me.w) ∧
       (∀ j : Nat, j < 8 → ((s.seen i).reg (BitVec.ofNat 6 (32 + 8 * k + j))).toNat =
         bytesVal (((s.start i).window s.cur x).drop (4 * j) |>.take 4))) ∧
     (s.octets i = [] → (∃ g ∈ Instr.writes i, touches g k = true) → (∀ j, j < k → (s.start i).me.stream j = none) → CanTrap s →
       ∃ t, exec i s = .next t ∧ Traps s i 0x24 (BitVec.ofNat 64 x.start) 2 s.me.pc t)) ∧
  (∀ (s : State) (i : Instr) (k : Nat) (x : Stream), s.Issues i → isInteger (s.seen i) i = true → i.wf = true → s.octets i = [k] →
     (s.start i).me.stream k = some x →
     ∃ t, exec i s = .next t ∧ t.me.stream k = some { x with pop := x.pop + 1 } ∧
       (x.pop + 1 = x.npop → x.tag < 64 → ((s.core s.cur.clus s.cur.core).tag x.tag).st = .busy (.stream s.cur.ctx k) →
         ((t.core s.cur.clus s.cur.core).tag x.tag).st = .done ∧ ((t.core s.cur.clus s.cur.core).tag x.tag).err = 0)) ∧
  (∀ (s : State) (i : Instr), isInteger (s.seen i) i = true → (s.start i).me.waitsFor (Instr.reads i ++ Instr.writes i) = true →
    ∃ t, exec i s = .next t ∧ t.me.st = .blocked .result ∧ t.me.pc = s.me.pc ∧ t.me.w = (s.start i).me.w ∧
      t = { s with ctxs := t.ctxs, cores := t.cores } ∧ (∀ c n, t.core c n = if (c, n) = (s.cur.clus, s.cur.core) then
        { s.core c n with turnOn := (s.core c n).turnOn && (s.core c n).turn ≠ s.cur.ctx } else s.core c n))

/-- R205, R206, R209. A load of bytes that the core's L1 holds completes with them, extended as its form says; nothing else changes. R120, R206. A load that the L1 does not serve leaves the core: its context is BLOCKED at the load until LOAD_REPLY.
R206, R210, R214. LOAD_REPLY for a load of its own cluster's memory, with no store waiting, ends the load with the bytes home memory holds;
a poisoned line is DEAD_PEER at the load. Without a load outstanding it has no effect. -/
def Obligations.LoadsComplete : Prop :=
  (∀ (s : State) (i : Instr) (f : LoadForm) (pa : Nat) (x : TlbEntry) (l : L1Line), s.Issues i → i.wf = true → loadForm i = some f →
     Reaches (s.view i) f.space (ea (s.seen i) f.base f.off f.size) f.size .load pa x → s.me.basting = false →
     paRegion pa ≠ .device → (paRegion pa).isCore = false →
     (s.core s.cur.clus s.cur.core).l1.find? (fun l => l.line = pa / 64 && l.key = x.key) = some l →
     (∀ k, k < f.size → l.valid.getLsbD (pa % 64 + k) = true) → pa % 64 + f.size ≤ 64 → l.bytes.length = 64 →
     (l.foreign = false ∨ (x.type = .swm ∧ f.ord ≠ .acq)) →
     ∃ t, exec i s = .next t ∧
       s.Completes i ((if f.ord = .acq then (s.view i).modClus s.cur.clus Clus.acquired else s.view i).setCtx s.cur
         ((s.seen i).setGroup f.dst (loadedWords f.size f.signed ((l.bytes.drop (pa % 64)).take f.size)))) (nextPc i s.me.pc) t) ∧
  (∀ (s : State) (i : Instr) (f : LoadForm) (pa : Nat) (x : TlbEntry), s.Issues i → i.wf = true → loadForm i = some f →
     Reaches (s.view i) f.space (ea (s.seen i) f.base f.off f.size) f.size .load pa x →
     (s.core s.cur.clus s.cur.core).l1 = [] →
     ∃ t r, exec i s = .next t ∧ t.me.st = .blocked (.load r) ∧ r.pa = pa ∧ r.dst = f.dst ∧ r.size = f.size ∧ r.signed = f.signed ∧ r.key = x.key ∧
       t.me.pc = s.me.pc ∧ t.me.w = (s.start i).me.w ∧ s.sameMem t ∧ Sched.event .loadReply { pos := s.cur } ∈ t.pending) ∧
  (∀ (s : State) (r : LoadReq) (size : Nat), (s.ctx s.inp.pos).st = .blocked (.load r) → s.isHome s.inp.pos.clus r.pa = true →
    (s.core s.inp.pos.clus s.inp.pos.core).sb = [] → (s.core s.inp.pos.clus s.inp.pos.core).l1 = [] → (s.clus s.inp.pos.clus).unfenced = [] →
    (s.ctx s.inp.pos).basting = false → (s.ctx s.inp.pos).bast = none → (s.ctx s.inp.pos).spop = [] → (s.ctx s.inp.pos).convoy = none → (s.ctx s.inp.pos).depth = 0 →
    paRegion r.pa ≠ .device → size = r.size → (size = 1 ∨ size = 2 ∨ size = 4 * r.words) → (2 < size → r.signed = false) → r.words ≤ 8 →
    (s.poison.contains (r.pa / 64) = false → ∃ t, exec .loadReply s = .next t ∧
      (t.ctx s.inp.pos).w = ((s.ctx s.inp.pos).setGroup r.dst (loadedWords size r.signed (s.bytesAt r.pa r.key size))).w ∧
      (t.ctx s.inp.pos).pc = pcAdd (s.ctx s.inp.pos).pc r.len ∧ (t.ctx s.inp.pos).st = .ready ∧ s.sameMem t) ∧
    (s.poison.contains (r.pa / 64) = true → (s.ctx s.inp.pos).stop = false → (s.ctx s.inp.pos).last = false → (s.ctx s.inp.pos).intrap = false → ∃ t, exec .loadReply s = .next t ∧
      (t.ctx s.inp.pos).xcause = 0x50 ∧ (t.ctx s.inp.pos).xaddr = r.xaddr ∧ (t.ctx s.inp.pos).xpc = codeAddr (s.ctx s.inp.pos).pc ∧
      (t.ctx s.inp.pos).pc = (s.ctx s.inp.pos).tvec ∧ (t.ctx s.inp.pos).w = (s.ctx s.inp.pos).w)) ∧
  (∀ s : State, (∀ r, (s.ctx s.inp.pos).st ≠ .blocked (.load r)) → exec .loadReply s = .next s)

/-- R210, R48, R54. The first failing check of a load or store decides: ALIGN, then translation, SEALED_LOAD or SEALED_WRITE, PRIV for a DEVICE page
without SYS, DEVICE_ACCESS for a form a DEVICE page does not take, DEAD_PEER; XADDR is the address, XINFO[5:4] 1 for a store. -/
def Obligations.AccessChecks : Prop :=
  ∀ (s : State) (i : Instr) (sp : Space) (a : DWord) (size : Nat) (acc : AccKind) (devOk : Bool), s.Issues i → CanTrap s →
    ((∃ f, loadForm i = some f ∧ sp = f.space ∧ a = ea (s.seen i) f.base f.off f.size ∧ size = f.size ∧ acc = .load ∧
        devOk = (f.ord = .plain && (f.size = 4 || f.size = 8))) ∨
     (∃ f, storeForm i = some f ∧ sp = .home ∧ a = ea (s.seen i) f.base f.off f.size ∧ size = f.size ∧ acc = .store ∧ devOk = (f.size = 4 || f.size = 8))) →
    (a.toNat % size ≠ 0 → ∃ t, exec i s = .next t ∧ Traps s i 0x10 a acc.xinfo s.me.pc t) ∧
    (a.toNat % size = 0 →
      (inSpace sp a = false → ∃ t, exec i s = .next t ∧ Traps s i 0x11 a acc.xinfo s.me.pc t) ∧
      (∀ pa x, (s.view i).translate s.cur.clus (.ctx s.cur) s.me.aspc sp a acc = .ok pa x →
        (x.type = .sealed → ∃ t, exec i s = .next t ∧ Traps s i (if acc = .load then 0x40 else 0x45) a acc.xinfo s.me.pc t) ∧
        (x.type = .device → s.me.sys = false → ∃ t, exec i s = .next t ∧ Traps s i 0x02 a acc.xinfo s.me.pc t) ∧
        (x.type = .device → s.me.sys = true → devOk = false → ∃ t, exec i s = .next t ∧ Traps s i 0x13 a acc.xinfo s.me.pc t) ∧
        (x.type = .normal ∨ x.type = .swm → s.dead.getLsbD (paPkg pa) = true → ∃ t, exec i s = .next t ∧ Traps s i 0x50 a acc.xinfo s.me.pc t)))

/-- R198, R211 to R213. A store to a NORMAL page of its cluster's vault or HBM completes: its bytes enter the core's store buffer, into the youngest
entry where that is of the same line and key and as a new entry otherwise (the merging is the model's choice, log entry 30); no byte of memory changes
yet. A full buffer makes it wait. A store with .REL first performs what the buffer holds. A store to an SWM page makes its bytes valid and dirty in the
L1; a store of 4 or 8 bytes to a DEVICE page by a context with SYS reaches the register,
and a service program that so clears its own EN is FREE (R131); a store through the home path to a core's store is
performed at once.
R198, R199, R212, R214. STORE_PERFORMED takes the oldest entry of the named core's buffer into memory: its bytes and no others change. With an
empty buffer it has no effect. R199. L1_EVICTION writes a line's dirty bytes back and drops the line from the named core's L1; a clean line is only
dropped, and where the L1 has no line of that address it has no effect. -/
def Obligations.Stores : Prop :=
  (∀ (s : State) (i : Instr) (f : StoreForm) (pa : Nat) (x : TlbEntry), s.Issues i → i.wf = true → storeForm i = some f →
    Reaches (s.view i) .home (ea (s.seen i) f.base f.off f.size) f.size .store pa x → s.me.basting = false → s.me.bast = none →
    let l := lowBytes f.size (val (s.seen i) f.src ((f.size + 3) / 4))
    let u := if f.ord = .rel then (s.view i).drain s.cur.clus s.cur.core else s.view i
    let k := u.core s.cur.clus s.cur.core
    (x.type = .normal → (paRegion pa = .vault ∨ paRegion pa = .hbm) → (k.sb.length < 8 ∨ k.merges (pa / 64) x.key = true) →
      ∃ t, exec i s = .next t ∧ s.Completes i (u.bufferStore s.cur pa x.key l) (nextPc i s.me.pc) t ∧ u.sameMem t ∧
        (s.octets i = [] → (∀ e es, k.sb = es ++ [e] → e.line = pa / 64 → e.key = x.key →
            (t.core s.cur.clus s.cur.core).sb = es ++ [{ e with cells := e.cells ++ cellsAt pa l }]) ∧
          ((∀ e es, k.sb = es ++ [e] → ¬ (e.line = pa / 64 ∧ e.key = x.key)) →
            (t.core s.cur.clus s.cur.core).sb = k.sb ++ [⟨s.cur.ctx, pa / 64, x.key, cellsAt pa l⟩]))) ∧
    (x.type = .normal → (paRegion pa = .vault ∨ paRegion pa = .hbm) → 8 ≤ k.sb.length → k.merges (pa / 64) x.key = false →
      ∃ t, exec i s = .next t ∧ t.me.st = .blocked .buffer ∧ t.me.pc = s.me.pc ∧ u.sameMem t) ∧
    (x.type = .swm → (paRegion pa = .vault ∨ paRegion pa = .hbm) → k.l1 = [] →
      ∃ t, exec i s = .next t ∧ s.Completes i (u.swmStore s.cur pa x.key l) (nextPc i s.me.pc) t ∧ u.sameMem t ∧
        (s.octets i = [] → ∃ n, (t.core s.cur.clus s.cur.core).l1 = [n] ∧ n.line = pa / 64 ∧ n.key = x.key ∧ n.swm = true ∧ n.foreign = false ∧
          (∀ j, j < 64 → n.valid.getLsbD j = decide (pa % 64 ≤ j ∧ j < pa % 64 + f.size) ∧ n.dirty.getLsbD j = n.valid.getLsbD j) ∧
          (∀ j, j < f.size → n.bytes.getD (pa % 64 + j) 0 = l.getD j 0))) ∧
    ((paRegion pa).isCore = true →
      ∃ t, exec i s = .next t ∧ s.Completes i ((u.drain s.cur.clus s.cur.core).performWrite s.cur.clus none x.key (cellsAt pa l)) (nextPc i s.me.pc) t)) ∧
  (∀ (s : State) (i : Instr) (f : StoreForm) (pa : Nat) (x : TlbEntry), s.Issues i → i.wf = true → storeForm i = some f →
    let a := ea (s.seen i) f.base f.off f.size
    a.toNat % f.size = 0 → (f.size = 4 ∨ f.size = 8) → (s.view i).translate s.cur.clus (.ctx s.cur) s.me.aspc .home a .store = .ok pa x → x.type = .device →
    s.me.sys = true → s.dead.getLsbD (paPkg pa) = false →
    let u := (if f.ord = .rel then (s.view i).drain s.cur.clus s.cur.core else s.view i).devStore s.cur.clus pa
      (lowBytes f.size (val (s.seen i) f.src ((f.size + 3) / 4)))
    (u.me.st = .free → exec i s = .next u) ∧
    (u.me.st ≠ .free → ∃ t, exec i s = .next t ∧ s.Completes i u (nextPc i s.me.pc) t)) ∧
  (∀ (s : State), memWf s.mem = true →
     (∀ e l, (s.core s.inp.clus s.inp.core).sb = e :: l → (∀ c ∈ e.cells, c.1 / 64 = e.line) →
       ∃ t, exec .storePerformed s = .next t ∧ (t.core s.inp.clus s.inp.core).sb = l ∧
         (∀ a, t.byteAt a e.key = ((e.cells.reverse.find? (fun c => c.1 = a)).map (·.2)).getD (s.byteAt a e.key)) ∧
         (∀ a k, a / 64 ≠ e.line → t.byteAt a k = s.byteAt a k)) ∧
     ((s.core s.inp.clus s.inp.core).sb = [] → exec .storePerformed s = .next s)) ∧
  (∀ (s : State), memWf s.mem = true → (∀ l ∈ (s.core s.inp.clus s.inp.core).l1, l.line ≠ s.inp.n) → exec .l1Eviction s = .next s) ∧
  (∀ (s : State) (l : L1Line), memWf s.mem = true → (s.core s.inp.clus s.inp.core).l1 = [l] → l.line = s.inp.n →
     ∃ t, exec .l1Eviction s = .next t ∧ (t.core s.inp.clus s.inp.core).l1 = [] ∧
       (l.dirty = 0 → s.sameMem t) ∧
       (∀ a k, a / 64 ≠ l.line → t.byteAt a k = s.byteAt a k) ∧
       (∀ k, k < 64 → t.byteAt (64 * l.line + k) l.key = if l.dirty.getLsbD k then l.bytes.getD k 0 else s.byteAt (64 * l.line + k) l.key))

/-- R215. LDL reads the core store at 4 times the offset above its base; STL writes it; both check alignment, then the 32 KiB bound. No other byte of
memory changes. -/
def Obligations.CoreStoreAccess : Prop :=
  ∀ (s : State) (w : Width) (d a : Reg) (off : BitVec 10) (e : Nat), memWf s.mem = true →
    (s.Issues (.ldl w d a off) → (Instr.ldl w d a off).wf = true → e = ((val (s.seen (.ldl w d a off)) a 1 + off.toInt * 4) % 2 ^ 32).toNat →
      (e % (4 * w.words) = 0 → e < 0x8000 → s.poison.contains (corePa s.pkg s.cur.clus s.cur.core e / 64) = true → s.me.bast = none → CanTrap s →
        ∃ t, exec (.ldl w d a off) s = .next t ∧ Traps s (.ldl w d a off) 0x50 (BitVec.ofNat 64 e) 0 s.me.pc t) ∧
      (e % (4 * w.words) = 0 → e < 0x8000 → s.poison.contains (corePa s.pkg s.cur.clus s.cur.core e / 64) = false → (s.clus s.cur.clus).unfenced = [] →
        ∃ t, exec (.ldl w d a off) s = .next t ∧ s.CompletesAs (.ldl w d a off) ((s.seen (.ldl w d a off)).setGroup d
          (words w.words (bytesVal (s.bytesAt (corePa s.pkg s.cur.clus s.cur.core e) 0 (4 * w.words))))) t) ∧
      (e % (4 * w.words) ≠ 0 → CanTrap s → ∃ t, exec (.ldl w d a off) s = .next t ∧ Traps s (.ldl w d a off) 0x10 (BitVec.ofNat 64 e) 0 s.me.pc t) ∧
      (e % (4 * w.words) = 0 → 0x8000 ≤ e → CanTrap s → ∃ t, exec (.ldl w d a off) s = .next t ∧ Traps s (.ldl w d a off) 0x11 (BitVec.ofNat 64 e) 0 s.me.pc t)) ∧
    (s.Issues (.stl w d a off) → (Instr.stl w d a off).wf = true → e = ((val (s.seen (.stl w d a off)) a 1 + off.toInt * 4) % 2 ^ 32).toNat →
      (e % (4 * w.words) = 0 → e < 0x8000 → s.cur.core < 128 →
        ∃ t, exec (.stl w d a off) s = .next t ∧ t.me.pc = (endOfBody s.me.pc (pcAdd s.me.pc 4) s.me.depth (s.start (.stl w d a off)).me).2 ∧
          t.me.w = (s.start (.stl w d a off)).me.w ∧ t.me.m = s.me.m ∧
          Wrote s t 0 (corePa s.pkg s.cur.clus s.cur.core e) (lowBytes (4 * w.words) (val (s.seen (.stl w d a off)) d w.words))) ∧
      (e % (4 * w.words) ≠ 0 → CanTrap s → ∃ t, exec (.stl w d a off) s = .next t ∧ Traps s (.stl w d a off) 0x10 (BitVec.ofNat 64 e) 0x10 s.me.pc t) ∧
      (e % (4 * w.words) = 0 → 0x8000 ≤ e → CanTrap s → ∃ t, exec (.stl w d a off) s = .next t ∧ Traps s (.stl w d a off) 0x11 (BitVec.ofNat 64 e) 0x10 s.me.pc t))

/-- R216 to R218. ATOM reads 4 or 8 bytes, writes the operation's result and leaves the old value to reach d before any later instruction that names
it; no other byte of memory changes. R218, R307. ATOM_REPLY delivers the value on its way: afterwards the register group holds it and nothing waits for it. -/
def Obligations.Atomics : Prop :=
  (∀ (s : State) (i : Instr) (o : AtOrd) (w : Width) (d a b : Reg) (op : Nat → Int → Int → Int → Int → Int → Int → Int) (pa : Nat) (x : TlbEntry),
     s.Issues i → i.wf = true → atomForm i = some (o, w, d, a, b, op) → memWf s.mem = true →
     Reaches (s.view i) .home (BitVec.ofNat 64 (val (s.seen i) a 2)) (4 * w.words) .atomic pa x → s.me.basting = false → s.me.bast = none →
     (s.core s.cur.clus s.cur.core).sb = [] → (s.core s.cur.clus s.cur.core).l1 = [] → s.octets i = [] → pa % 64 + 4 * w.words ≤ 64 →
     let n := 4 * w.words
     let old := bytesVal (s.bytesAt pa x.key n)
     let y := val (s.seen i) b w.words
     let z := val (s.seen i) d w.words
     ∃ t, exec i s = .next t ∧
       Wrote s t x.key pa (lowBytes n (op n old y z (signed n old) (signed n y) (signed n z) % 2 ^ (8 * n)).toNat) ∧
       t.me.unready = (s.start i).me.unready ++ [⟨d, w.words, some (words w.words old)⟩] ∧ t.me.w = (s.start i).me.w ∧ t.me.st = .ready ∧
       Sched.event .atomReply { pos := s.cur } ∈ t.pending) ∧
  (∀ (s : State) (d : Reg) (l : List Word), (s.ctx s.inp.pos).unready = [⟨d, l.length, some l⟩] →
     ∃ t, exec .atomReply s = .next t ∧ (t.ctx s.inp.pos).w = ((s.ctx s.inp.pos).setGroup d l).w ∧ (t.ctx s.inp.pos).unready = [] ∧
       t = { s with ctxs := t.ctxs } ∧ ∀ q, q ≠ s.inp.pos → t.ctx q = s.ctx q)

/-- R219, R220. FENCE of a scope above CORE completes once every store the core's buffer held is performed; FENCE.CORE waits for nothing. FENCE.P from
path C does as FENCE, from an engine path it orders that path's landings of the operations whose tags the context has found set, and no others, and towards path C it drops clean SWM lines. R221, R222. RWB, RINV and CLEAN with
length 0 act on the core's whole L1: RWB leaves every line clean, RINV leaves none, CLEAN leaves no foreign line and empties the cluster's reader cache; dirty bytes of the lines they act on go home first.
With a length inside one translated page they act on the lines the range overlaps and on no others; a page that would fault is skipped. -/
def Obligations.FencesAndCaches : Prop :=
  (∀ (s : State),
     (∀ sc, s.Issues (.fence sc) → ∃ t, exec (.fence sc) s = .next t ∧
       s.Completes (.fence sc) (if sc = .core then s.view (.fence sc) else (s.view (.fence sc)).drain s.cur.clus s.cur.core) (pcAdd s.me.pc 4) t ∧
       (sc ≠ .core → (t.core s.cur.clus s.cur.core).sb = [])) ∧
     (∀ a b, s.Issues (.fenceP a b) → ∃ t u, exec (.fenceP a b) s = .next t ∧ s.Completes (.fenceP a b) u (pcAdd s.me.pc 4) t ∧
       (a = .c → (t.core s.cur.clus s.cur.core).sb = []) ∧
       (a ≠ .c → b ≠ .c → u = (s.view (.fenceP a b)).modClus s.cur.clus (fun k => k.orderPath a b (fun op => s.me.seen.contains op))) ∧
       (a ≠ .c → (∀ v ∈ (t.clus s.cur.clus).unfenced, v.path = a → v.op ∈ s.me.seen → b ∉ v.stale) ∧
         (∀ v ∈ (s.clus s.cur.clus).unfenced, v.stale ≠ [] → ¬ (v.path = a ∧ v.op ∈ s.me.seen) → v ∈ (t.clus s.cur.clus).unfenced)) ∧
       (b = .c → ∀ l ∈ (t.core s.cur.clus s.cur.core).l1, l.swm = true → l.dirty ≠ 0))) ∧
  (∀ (s : State) (a b : Reg),
     (s.Issues (.rwb a b) → (s.seen (.rwb a b)).reg b = 0 →
       ∃ t, exec (.rwb a b) s = .next t ∧ (∀ l ∈ (t.core s.cur.clus s.cur.core).l1, l.dirty = 0) ∧ t.me.w = (s.start (.rwb a b)).me.w ∧
         (∀ l, memWf s.mem = true → (s.core s.cur.clus s.cur.core).l1 = [l] → ∀ k, k < 64 → l.dirty.getLsbD k = true →
           t.byteAt (64 * l.line + k) l.key = l.bytes.getD k 0)) ∧
     (s.Issues (.rinv a b) → (s.seen (.rinv a b)).reg b = 0 →
       ∃ t, exec (.rinv a b) s = .next t ∧ (t.core s.cur.clus s.cur.core).l1 = [] ∧ t.me.w = (s.start (.rinv a b)).me.w ∧
         (∀ l, memWf s.mem = true → (s.core s.cur.clus s.cur.core).l1 = [l] → ∀ k, k < 64 → l.dirty.getLsbD k = true →
           t.byteAt (64 * l.line + k) l.key = l.bytes.getD k 0)) ∧
     (s.Issues (.clean a b) → (s.seen (.clean a b)).reg b = 0 →
       ∃ t, exec (.clean a b) s = .next t ∧ (∀ l ∈ (t.core s.cur.clus s.cur.core).l1, l.foreign = false) ∧ (t.clus s.cur.clus).rcache = [] ∧
         t.me.w = (s.start (.clean a b)).me.w)) ∧
  (∀ (s : State) (i : Instr) (sp : Space) (a b : Reg),
     (i = .rwb a b ∧ sp = .home ∨ i = .rinv a b ∧ sp = .read ∨ i = .clean a b ∧ sp = .read) → s.Issues i →
     let v := val (s.seen i) a 2
     let len := val (s.seen i) b 1
     let inside (line pa : Nat) : Prop := pa + v % 4096 < 64 * line + 64 ∧ 64 * line < pa + v % 4096 + len
     0 < len → v % 4096 + len ≤ 4096 →
     (∀ pa x, (s.view i).translate s.cur.clus (.quiet (.page s.cur (v / 4096))) s.me.aspc sp (BitVec.ofNat 64 (v / 4096 * 4096)) .load = .ok pa x → pa % 4096 = 0 →
       ∃ t, exec i s = .next t ∧ t.me.w = (s.start i).me.w ∧
         (∀ l ∈ (s.core s.cur.clus s.cur.core).l1, ¬ inside l.line pa → l ∈ (t.core s.cur.clus s.cur.core).l1) ∧
         (∀ l ∈ (t.core s.cur.clus s.cur.core).l1, inside l.line pa → i = .rwb a b ∧ l.dirty = 0) ∧
         (∀ l, memWf s.mem = true → (s.core s.cur.clus s.cur.core).l1 = [l] → inside l.line pa → ∀ k, k < 64 → l.dirty.getLsbD k = true →
           t.byteAt (64 * l.line + k) l.key = l.bytes.getD k 0) ∧
         (i = .clean a b → ∀ l ∈ (t.clus s.cur.clus).rcache, ¬ inside l.line pa)) ∧
     (∀ code, (s.view i).translate s.cur.clus (.quiet (.page s.cur (v / 4096))) s.me.aspc sp (BitVec.ofNat 64 (v / 4096 * 4096)) .load = .trap code →
       ∃ t, exec i s = .next t ∧ t.me.w = (s.start i).me.w ∧ (t.core s.cur.clus s.cur.core).l1 = (s.core s.cur.clus s.cur.core).l1 ∧
         (t.clus s.cur.clus).rcache = (s.clus s.cur.clus).rcache ∧ s.sameMem t))

namespace Sys2Proof.Claims

/-- The tag n of the current core. -/
def tagOf (s : State) (n : Nat) : TagRec := (s.core s.cur.clus s.cur.core).tag n

/-- Tag n is the lowest of the mask m that is in a state q accepts. -/
def Lowest (s : State) (m : Nat) (q : TagSt → Bool) (n : Nat) : Prop :=
  n < 64 ∧ m.testBit n = true ∧ q (tagOf s n).st = true ∧ ∀ k, k < n → m.testBit k = true → q (tagOf s k).st = false

/-- No tag of the mask is in a state q accepts. -/
def NoTag (s : State) (m : Nat) (q : TagSt → Bool) : Prop := ∀ k, k < 64 → m.testBit k = true → q (tagOf s k).st = false

/-- The instruction waits at itself: nothing of it has happened. -/
def Waits (s t : State) (i : Instr) (w : Wait) : Prop :=
  t.cur = s.cur ∧ t.me.st = .blocked w ∧ t.me.pc = s.me.pc ∧ t.me.w = (s.start i).me.w ∧ t.me.m = s.me.m ∧ s.sameMem t

/-- A pull instruction: its kind and operands (R237). -/
def pullForm : Instr → Option (PullKind × Reg × Reg × Tag)
  | .pull a b g => some (.pull, a, b, g)
  | .pulld a b g => some (.pulld, a, b, g)
  | .pullc a b g => some (.pullc, a, b, g)
  | _ => none

/-- The indices (i1, i2, …) of a number, the first fastest. -/
def digits : List Nat → Nat → List Nat
  | [], _ => []
  | e :: es, q => q % e :: digits es (q / e)

/-- The sum of indices times strides, from a dimension on. -/
def strided (st : List Int) : Nat → List Nat → Int
  | _, [] => 0
  | k, i :: is => i * st.getD k 0 + strided st (k + 1) is

/-- The page a of a table is mapped for an access as R228 asks: NORMAL or SWM, and for a source in a package that is not dead. -/
def PageOk (s : State) (sp : Space) (acc : AccKind) (a : DWord) : Prop :=
  ∃ pa x, s.translate s.cur.clus (.ctx s.cur) s.me.aspc sp a acc = .ok pa x ∧ (x.type = .normal ∨ x.type = .swm) ∧ (sp = .read → s.dead.getLsbD (paPkg pa) = false)

/-- The physical address pa' under key slot k is what the translation of a's page gives for a. -/
def Lands (s : State) (sp : Space) (acc : AccKind) (a : DWord) (pa' k : Nat) : Prop :=
  ∃ b pa x, b.toNat / 4096 = a.toNat / 4096 ∧ s.translate s.cur.clus (.ctx s.cur) s.me.aspc sp b acc = .ok pa x ∧
    pa' = pa - b.toNat % 4096 + a.toNat % 4096 ∧ k = x.key

/-- Bits [hi:lo] of a word of a descriptor. -/
def fld (v : DWord) (hi lo : Nat) : Nat := v.toNat / 2 ^ lo % 2 ^ (hi + 1 - lo)

/-- Rows of a descriptor or a record, each a condition and the offset it is reported at: the first row whose condition does not hold. -/
def firstFault : List (Bool × Nat) → Option Nat
  | [] => none
  | (ok, ofs) :: l => if ok then firstFault l else some ofs

/-- R226, R228. The offset that PULL_DESC reports for a descriptor at addr whose word at an offset is w, none where it is well formed. A refill uses neither DST nor the
destination strides (R241). Where several words fail the lowest is reported, a product of extents above 2^32 last (the spec says only 'the offending
word'; the model's choice, log entry 46). -/
def pullFault (w : Nat → DWord) (addr : Nat) (kind : PullKind) : Option Nat :=
  let n := fld (w 0) 59 56
  if addr % 32 ≠ 0 ∨ 0x8000 < addr + 0x40 ∨ n < 1 ∨ 12 < n ∨ 0x8000 < addr + 0x40 + 16 * n then some 0
  else firstFault (([
    (fld (w 0) 63 60 = 0 ∧ fld (w 0) 55 48 = 0 ∧ fld (w 0) 47 0 % 4 = 0, 0x00),
    (if kind = .refill then w 8 = 0 else if kind = .pulld then fld (w 8) 63 15 = 0 ∧ fld (w 8) 14 0 % 4 = 0 else fld (w 8) 63 36 = 0 ∧ fld (w 8) 35 0 % 4 = 0, 0x08),
    (kind = .pullc ∨ w 0x10 = 0, 0x10),
    (if kind = .pullc then fld (w 0x18) 63 36 = 0 ∧ fld (w 0x18) 35 0 % 8 = 0 else w 0x18 = 0, 0x18),
    (if kind = .pulld then fld (w 0x20) 63 32 = 0 ∧ fld (w 0x20) 15 15 = 0 ∧ fld (w 0x20) 7 7 = 0 ∧ 32 ≤ fld (w 0x20) 31 16 ∧ fld (w 0x20) 31 16 ≤ 32768 ∧
        fld (w 0x20) 31 16 % 32 = 0 ∧ fld (w 0x20) 6 0 + fld (w 0x20) 14 8 ≤ 127
      else w 0x20 = 0, 0x20),
    (w 0x28 = 0, 0x28), (w 0x30 = 0, 0x30), (w 0x38 = 0, 0x38)] : List (Bool × Nat)) ++
    (List.range n).flatMap (fun k => ([
      (1 ≤ fld (w (0x40 + 16 * k)) 63 32 ∧ (k = 0 → fld (w (0x40 + 16 * k)) 63 32 % 4 = 0 ∧ fld (w (0x40 + 16 * k)) 31 0 = 0) ∧
        fld (w (0x40 + 16 * k)) 31 0 % 4 = 0 ∧ (kind = .pulld ∨ kind = .refill → fld (w (0x40 + 16 * k)) 31 0 = 0), 0x40 + 16 * k),
      (fld (w (0x48 + 16 * k)) 63 48 = 0 ∧ fld (w (0x48 + 16 * k)) 47 0 % 4 = 0 ∧ (k = 0 → w (0x48 + 16 * k) = 0), 0x48 + 16 * k)] : List (Bool × Nat))) ++
    ([(((List.range n).map (fun k => fld (w (0x40 + 16 * k)) 63 32)).foldl (· * ·) 1 ≤ 2 ^ 32, 0x40)] : List (Bool × Nat)))

/-- R238, R241. The offset that PULL_DESC reports for a stream descriptor at addr whose word at an offset is w; pd gives the words of the pull descriptor
that a refill names. -/
def streamFault (w pd : Nat → DWord) (addr : Nat) : Option Nat :=
  if addr % 32 ≠ 0 ∨ 0x8000 < addr + 32 then some 0
  else if fld (w 0) 63 63 = 0 then
    firstFault [
      (fld (w 0) 62 34 = 0 ∧ 1 ≤ fld (w 0) 31 0, 0x00),
      (fld (w 8) 63 32 % 4 = 0 ∧ 1 ≤ fld (w 8) 31 16 ∧ fld (w 8) 15 15 = 0 ∧ fld (w 8) 14 0 % 4 = 0, 0x08), (w 0x10 = 0, 0x10), (w 0x18 = 0, 0x18)]
  else
    firstFault [
      (fld (w 0) 62 34 = 0 ∧ 1 ≤ fld (w 0) 31 0, 0x00), (fld (w 8) 63 15 = 0 ∧ fld (w 8) 14 0 % 32 = 0, 0x08),
      (fld (w 0x10) 63 24 = 0 ∧ fld (w 0x10) 19 15 = 0 ∧ 6 ≤ fld (w 0x10) 23 20 ∧ fld (w 0x10) 23 20 ≤ 14, 0x10), (w 0x18 = 0, 0x18),
      (fld (w 8) 14 0 + 2 ^ fld (w 0x10) 23 20 ≤ 0x8000, 0x08), (pullFault pd (fld (w 0x10) 14 0) .refill = none, 0x10),
      ((fld (w 0) 31 0 - 1) * (4 * 2 ^ fld (w 0) 33 32) + 32 ≤ ((List.range (fld (pd 0) 59 56)).map (fun k => fld (pd (0x40 + 16 * k)) 63 32)).foldl (· * ·) 1, 0x00)]

/-- The pull a descriptor asks for passes every check of R228 up to the translations. -/
structure PullFits (s : State) (kind : PullKind) (d : PullDesc) (addr : Nat) (l : List (DWord × Nat × DWord)) (pages : List (Nat × Space × Nat)) : Prop where
  wellFormed : pullFault (s.descWord addr) addr kind = none
  clean : s.blockPoison addr 128 = false
  few : pages.length ≤ 1024
  targets : kind = .pulld → ∀ j, j ≤ d.ndcm → ∃ x, x < 4 ∧ s.me.slot.isSome = true ∧ (s.ctx ⟨s.cur.clus, d.cfirst + j, x⟩).slot = s.me.slot
  below : kind = .pulld → ∀ e ∈ l, e.2.2.toNat < 0x8000

end Sys2Proof.Claims

/-- R244, R243. TAGWAIT.ANY and TAGFF give the lowest DONE tag of the mask, 64 where there is none (TAGWAIT.ANY only for an empty mask);
TAGWAIT.ALL completes when all are DONE; until then a TAGWAIT waits. TAGCLR frees DONE tags or takes TAG_BUSY. TAGTST reads one tag. R244, R243. The completion of a tag ends the TAGWAITs of its core that it satisfies, each with the lowest DONE tag of its mask; a context whose
mask does not name the tag waits on. -/
def Obligations.Tags : Prop :=
  (∀ (s : State) (d a : Reg) (g : Tag),
     (s.Issues (.tagwaitAny d a) → (Instr.tagwaitAny d a).wf = true → ∀ m, m = val (s.seen (.tagwaitAny d a)) a 2 →
       (∀ n, (m = 0 ∧ n = 64) ∨ Lowest s m TagSt.isDone n →
         ∃ t c, exec (.tagwaitAny d a) s = .next t ∧ s.CompletesAs (.tagwaitAny d a) c t ∧
           c = { (s.seen (.tagwaitAny d a)).setReg d (BitVec.ofNat 32 n) with seen := c.seen }) ∧
       (m ≠ 0 → NoTag s m TagSt.isDone → ∃ t, exec (.tagwaitAny d a) s = .next t ∧ Waits s t (.tagwaitAny d a) (.tagAny (BitVec.ofNat 64 m) d))) ∧
     (s.Issues (.tagwaitAll a) → (Instr.tagwaitAll a).wf = true → ∀ m, m = val (s.seen (.tagwaitAll a)) a 2 →
       ((∀ k, k < 64 → m.testBit k = true → (tagOf s k).st.isDone = true) →
         ∃ t c, exec (.tagwaitAll a) s = .next t ∧ s.CompletesAs (.tagwaitAll a) c t ∧ c = { s.seen (.tagwaitAll a) with seen := c.seen }) ∧
       (∀ k, k < 64 → m.testBit k = true → (tagOf s k).st.isDone = false →
         ∃ t, exec (.tagwaitAll a) s = .next t ∧ Waits s t (.tagwaitAll a) (.tagAll (BitVec.ofNat 64 m)))) ∧
     (s.Issues (.tagff d a) → (Instr.tagff d a).wf = true → ∀ m n, m = val (s.seen (.tagff d a)) a 2 →
       (NoTag s m TagSt.isDone ∧ n = 64) ∨ Lowest s m TagSt.isDone n →
       ∃ t c, exec (.tagff d a) s = .next t ∧ s.CompletesAs (.tagff d a) c t ∧ c = { (s.seen (.tagff d a)).setReg d (BitVec.ofNat 32 n) with seen := c.seen }) ∧
     (s.Issues (.tagclr a) → (Instr.tagclr a).wf = true → ∀ m, m = val (s.seen (.tagclr a)) a 2 →
       (NoTag s m TagSt.isBusy → ∃ t u, exec (.tagclr a) s = .next t ∧ s.Completes (.tagclr a) u (pcAdd s.me.pc 4) t ∧ u = { s.view (.tagclr a) with cores := u.cores } ∧
         ∀ k, k < 64 → if m.testBit k = true ∧ (tagOf s k).st.isDone = true then (tagOf u k).st = .free ∧ (tagOf u k).err = 0 else tagOf u k = tagOf s k) ∧
       (∀ n, Lowest s m TagSt.isBusy n → CanTrap s → ∃ t, exec (.tagclr a) s = .next t ∧ Traps s (.tagclr a) 0x20 0 (BitVec.ofNat 32 n) s.me.pc t)) ∧
     (s.Issues (.tagtst d g) → ∃ t c, exec (.tagtst d g) s = .next t ∧ s.CompletesAs (.tagtst d g) c t ∧
       c = { (s.seen (.tagtst d g)).setReg d (BitVec.ofNat 32 (match (tagOf s g.toNat).st with
         | .free => 0
         | .busy _ => 2
         | .done => if (tagOf s g.toNat).err = 0 then 1 else 5 + 256 * (tagOf s g.toNat).err.toNat)) with seen := c.seen })) ∧
  (∀ (s : State) (c k n x : Nat) (err : Byte) (m : DWord), x < 4 → n < 64 → (s.ctx ⟨c, k, x⟩).convoy = none → (s.ctx ⟨c, k, x⟩).stop = false → (s.ctx ⟨c, k, x⟩).depth = 0 →
     (∀ y, (s.ctx ⟨c, k, y⟩).spop = []) →
     let t := s.tagDone c k n err
     (t.core c k).tag n = { (s.core c k).tag n with st := .done, err := err } ∧
     (∀ j, j ≠ n → (t.core c k).tag j = (s.core c k).tag j) ∧
     (∀ d v, (s.ctx ⟨c, k, x⟩).st = .blocked (.tagAny m d) → m.getLsbD n = true → v < 64 → m.getLsbD v = true → ((t.core c k).tag v).st = .done →
       (∀ j, j < v → m.getLsbD j = true → ((t.core c k).tag j).st ≠ .done) →
       (t.ctx ⟨c, k, x⟩).st = .ready ∧ (t.ctx ⟨c, k, x⟩).w = ((s.ctx ⟨c, k, x⟩).setReg d (BitVec.ofNat 32 v)).w ∧ (t.ctx ⟨c, k, x⟩).pc = pcAdd (s.ctx ⟨c, k, x⟩).pc 4) ∧
     (∀ d, (s.ctx ⟨c, k, x⟩).st = .blocked (.tagAny m d) → m.getLsbD n = false → t.ctx ⟨c, k, x⟩ = s.ctx ⟨c, k, x⟩) ∧
     ((s.ctx ⟨c, k, x⟩).st = .blocked (.tagAll m) → (∀ j, j < 64 → m.getLsbD j = true → ((t.core c k).tag j).st = .done) →
       (t.ctx ⟨c, k, x⟩).st = .ready ∧ (t.ctx ⟨c, k, x⟩).w = (s.ctx ⟨c, k, x⟩).w ∧ (t.ctx ⟨c, k, x⟩).pc = pcAdd (s.ctx ⟨c, k, x⟩).pc 4) ∧
     (∀ j, (s.ctx ⟨c, k, x⟩).st = .blocked (.tagAll m) → j < 64 → m.getLsbD j = true → ((t.core c k).tag j).st ≠ .done → t.ctx ⟨c, k, x⟩ = s.ctx ⟨c, k, x⟩))

/-- R227. Byte f of the flattened stream: its source address, and its home offset or its core and core-store address, from the indices
of f, dimension 1 fastest. -/
def Obligations.PullAddresses : Prop :=
  ∀ (d : PullDesc) (dist : Bool) (sd : Int) (dd e0 f : Nat) (es : List Nat), d.ext = e0 :: es → (∀ e ∈ d.ext, 0 < e) → f < d.ext.foldl (· * ·) 1 →
    (d.pullBytes dist sd dd).length = d.ext.foldl (· * ·) 1 ∧
    (d.pullBytes dist sd dd)[f]? = some
      (let i := digits es (f / e0)
       let b := f % e0
       (BitVec.ofInt 64 ((d.src : Int) + sd + (b : Int) + strided d.sstr 1 i),
        if dist then
          let j := f / d.blkb
          (d.cfirst + j % (d.ndcm + 1), BitVec.ofNat 64 (d.dst % 2 ^ 15 + dd + j / (d.ndcm + 1) * d.blkb + f % d.blkb))
        else (0, BitVec.ofInt 64 ((d.dst : Int) + (dd : Int) + (b : Int) + strided d.dstr 1 i))))

/-- R228, R225, R229, R243. PULL, PULLD and PULLC: TAG_BUSY, then PULL_DESC for a descriptor that R226 does not call well formed (of several failing words the lowest, the model's choice, log entry 46), then a wait for room; where every page is mapped for its access the pull is
submitted: the tag is BUSY, the pages are pinned, each byte has its translated source and destination, and every source unit is asked for. -/
def Obligations.PullsIssue : Prop :=
  ∀ (s : State) (i : Instr) (kind : PullKind) (a b : Reg) (g : Tag), s.Issues i → i.wf = true → pullForm i = some (kind, a, b, g) → s.me.sub = none →
    let v := s.view i
    let addr := val (s.seen i) a 1
    let d := v.readDesc addr
    let l := d.pullBytes (kind = .pulld) (sval (s.seen i) b 2) (val (s.seen i) (a + 1) 1)
    let srcs := firstTouch (l.map (·.1))
    let dsts := if kind = .pulld then [] else firstTouch (l.map (·.2.2))
    let stamp : List DWord := if kind = .pullc then [BitVec.ofNat 64 d.stofs] else []
    let pages := srcs.map (fun x => (s.me.aspc, Space.read, x.toNat / 4096)) ++ (firstTouch (dsts ++ stamp)).map (fun x => (s.me.aspc, Space.home, x.toNat / 4096))
    ((tagOf s g.toNat).st.isFree = false → CanTrap s → ∃ t, exec i s = .next t ∧ Traps s i 0x20 0 (BitVec.ofNat 32 g.toNat) s.me.pc t) ∧
    ((tagOf s g.toNat).st.isFree = true → ∀ o, pullFault (v.descWord addr) addr kind = some o → CanTrap s →
      ∃ t, exec i s = .next t ∧ Traps s i 0x21 (BitVec.ofNat 64 addr) (BitVec.ofNat 32 o) s.me.pc t) ∧
    ((tagOf s g.toNat).st.isFree = true → PullFits v kind d addr l pages → v.pullRoom pages = false →
      ∃ t, exec i s = .next t ∧ Waits s t i .resource) ∧
    ((tagOf s g.toNat).st.isFree = true → PullFits v kind d addr l pages → v.pullRoom pages = true →
      (∀ x ∈ srcs, PageOk v .read .pullSrc x) → (∀ x ∈ dsts, PageOk v .home .pullDst x) → (∀ x ∈ stamp, PageOk v .home .stamp x) →
      ∃ (t u : State) (p : Pull), exec i s = .next t ∧ s.Completes i u (pcAdd s.me.pc 4) t ∧
        u = { s.view i with cores := u.cores, clusters := u.clusters, pulls := Assoc.put s.nextId p s.pulls, pending := u.pending, nextId := s.nextId + 1 } ∧
        tagOf u g.toNat = ⟨.busy (.pull s.nextId), 0, s.me.slot.getD 512, s.cur.ctx, s.nextId⟩ ∧
        u.clus s.cur.clus = (s.clus s.cur.clus).pin pages ∧
        p.clus = s.cur.clus ∧ p.core = s.cur.core ∧ p.ctx = s.cur.ctx ∧ p.tag = g.toNat ∧ p.got = [] ∧ p.err = 0 ∧ p.stream = none ∧ p.pins = pages ∧
        (p.stamp = none ↔ kind ≠ .pullc) ∧ (∀ x : Nat × Nat × DWord, p.stamp = some x → Lands v .home .stamp (BitVec.ofNat 64 d.stofs) x.1 x.2.1 ∧ x.2.2 = d.stv) ∧
        p.bytes.length = l.length ∧
        (∀ (n : Nat) (e : DWord × Nat × DWord) (x : PByte), l[n]? = some e → p.bytes[n]? = some x →
          Lands v .read .pullSrc e.1 x.src x.skey ∧ x.unit = x.dst / 32 ∧
          (kind = .pulld → x.dst = corePa s.pkg s.cur.clus e.2.1 e.2.2.toNat ∧ x.dkey = 0) ∧
          (kind ≠ .pulld → Lands v .home .pullDst e.2.2 x.dst x.dkey)) ∧
        (∀ x ∈ p.bytes, Sched.event .pullReq { id := s.nextId, n := x.src / 32 } ∈ u.pending))

/-- R230, R231, R201. PULL_REQ reads a source unit of this package once, under the rules of a load, and a refusal ends the pull with PERM, a
poisoned line with DEAD_PEER. Without the pull, or with the unit read already, it has no effect. R232, R234, R243. PULL_DATA makes one destination unit entirely new and no other byte of memory; a destination whose key slot may no longer be used ends the pull with PERM;
the last unit asks for the completion.
PULL_COMPLETE writes the stamp of a PULLC without error, then makes the tag DONE with the error code, and releases the pins. -/
def Obligations.PullRequestsAndLandings : Prop :=
  (∀ (s : State) (p : Pull) (b : PByte), (∀ it, s.inp.load ≠ .read it) →
     (s.pull? s.inp.id = none → exec .pullReq s = .next s) ∧
     (s.pull? s.inp.id = some p → p.bytes.find? (fun x => x.src / 32 = s.inp.n) = some b → p.err = 0 →
       (Assoc.has s.inp.n p.got = true → exec .pullReq s = .next s) ∧
       (Assoc.has s.inp.n p.got = false → paPkg b.src = s.pkg →
         (s.ownerRefuses (s.clus p.clus).fn b.src = true ∨ s.keyOk p.clus b.src b.skey = false →
           ∃ t, exec .pullReq s = .next t ∧ t.pull? s.inp.id = some { p with err := 0x11 } ∧
             Sched.event .pullComplete { id := s.inp.id } ∈ t.pending ∧ s.sameMem t) ∧
         (s.ownerRefuses (s.clus p.clus).fn b.src = false → s.keyOk p.clus b.src b.skey = true → p.bast = none →
           (s.poison.contains (s.inp.n / 2) = true →
             ∃ t, exec .pullReq s = .next t ∧ t.pull? s.inp.id = some { p with err := 0x50 } ∧
               Sched.event .pullComplete { id := s.inp.id } ∈ t.pending ∧ s.sameMem t) ∧
           (s.poison.contains (s.inp.n / 2) = false → (paRegion (32 * s.inp.n)).isCore = false → (s.clus p.clus).unfenced = [] →
             ∃ t, exec .pullReq s = .next t ∧ s.sameMem t ∧
               t.pull? s.inp.id = some { p with got := Assoc.put s.inp.n (s.bytesAt (32 * s.inp.n) b.skey 32) p.got } ∧
               t = { s with pulls := t.pulls, pending := t.pending }))))) ∧
  (∀ (s : State) (p : Pull), memWf s.mem = true → (∀ r, s.inp.load ≠ .reply r) → s.pull? s.inp.id = some p → p.stream = none → p.bast = none → (s.clus p.clus).saved = [] →
     (p.err = 0 → p.ready s.inp.n = true → (∃ x ∈ p.bytes, x.unit = s.inp.n ∧ s.keyOk p.clus x.dst x.dkey = false) →
       ∃ t, exec .pullData s = .next t ∧ t.pull? s.inp.id = some { p with err := 0x11 } ∧ s.sameMem t) ∧
     (∀ k, p.err = 0 → p.ready s.inp.n = true → (∀ x ∈ p.bytes, x.unit = s.inp.n → s.keyOk p.clus x.dst x.dkey = true) → (∀ x ∈ p.bytes, x.unit = s.inp.n → x.dst / 32 = s.inp.n ∧ x.dkey = k) →
       ∃ t, exec .pullData s = .next t ∧
         (∀ x ∈ p.bytes, x.unit = s.inp.n → (∀ y ∈ p.bytes, y.unit = s.inp.n → y.dst = x.dst → y.src = x.src) →
           t.byteAt x.dst k = (Assoc.get [] (x.src / 32) p.got).getD (x.src % 32) 0) ∧
         (∀ a, (∀ x ∈ p.bytes, x.unit = s.inp.n → x.dst ≠ a) → t.byteAt a k = s.byteAt a k) ∧
         t.pull? s.inp.id = some { p with bytes := p.bytes.filter (fun x => x.unit ≠ s.inp.n) } ∧
         ((∀ x ∈ p.bytes, x.unit = s.inp.n) → Sched.event .pullComplete { id := s.inp.id } ∈ t.pending)) ∧
     (p.err = 0 → p.ready s.inp.n = false → exec .pullData s = .next s) ∧
     (p.bytes ≠ [] → p.err = 0 → exec .pullComplete s = .next s) ∧
     (p.bytes = [] ∨ p.err ≠ 0 → p.tag < 64 → ((s.core p.clus p.core).tag p.tag).op = s.inp.id → ((s.core p.clus p.core).tag p.tag).st.isBusy = true →
       (∀ pa k w, p.stamp = some (pa, k, w) → s.keyOk p.clus pa k = true) →
       ∃ t, exec .pullComplete s = .next t ∧
         ((t.core p.clus p.core).tag p.tag).st = .done ∧ ((t.core p.clus p.core).tag p.tag).err = p.err ∧
         t.pull? s.inp.id = none ∧ (t.clus p.clus).pins = ((s.clus p.clus).unpin p.pins).pins ∧
         (p.stamp = none ∨ p.err ≠ 0 → s.sameMem t) ∧
         (∀ pa k w, p.stamp = some (pa, k, w) → p.err = 0 → pa % 8 = 0 → Wrote s t k pa (dwordBytes w))))

/-- R238, R239, R241, R242. STREAM: TAG_BUSY, STREAM_OVER on an octet in stream mode, PULL_DESC for a descriptor outside R238 or a refill outside R241 (of several failing words one as log entry 46 says); in affine mode it starts the stream at pop 0 with the
fields of its descriptor and makes the tag BUSY; in refill mode it also submits the refill, whose byte n lands at byte n of the ring. Window bytes lie where R239 says. SCLOSE ends a stream, a BUSY tag DONE without error, and the octet reads
0; without a stream it is a NOP. -/
def Obligations.StreamLifecycle : Prop :=
  (∀ (s : State) (b p : Reg) (g : Tag) (k : Nat), s.Issues (.stream b p g) → (Instr.stream b p g).wf = true → p.toNat = 32 + 8 * k → s.me.sub = none →
    let i := Instr.stream b p g
    let v := s.view i
    let addr := val (s.seen i) b 1
    let pd := (v.descWord addr 0x10).toNat % 2 ^ 15
    ((tagOf s g.toNat).st.isFree = false → CanTrap s → ∃ t, exec i s = .next t ∧ Traps s i 0x20 0 (BitVec.ofNat 32 g.toNat) s.me.pc t) ∧
    ((tagOf s g.toNat).st.isFree = true →
      (∀ x, s.me.stream k = some x → CanTrap s → ∃ t, exec i s = .next t ∧ Traps s i 0x24 (BitVec.ofNat 64 x.start) 3 s.me.pc t) ∧
      (s.me.stream k = none →
        (∀ o, streamFault (v.descWord addr) (v.descWord pd) addr = some o → CanTrap s → ∃ t, exec i s = .next t ∧ Traps s i 0x21 (BitVec.ofNat 64 addr) (BitVec.ofNat 32 o) s.me.pc t) ∧
        (streamFault (v.descWord addr) (v.descWord pd) addr = none → v.blockPoison addr 32 = false → (v.descWord addr 0).getLsbD 63 = false →
          ∃ t u x, exec i s = .next t ∧ s.Completes i u (pcAdd s.me.pc 4) t ∧ tagOf u g.toNat = ⟨.busy (.stream s.cur.ctx k), 0, s.me.slot.getD 512, s.cur.ctx, s.nextId⟩ ∧
            u.me = (s.seen i).setStream k (some x) ∧ u = { v with ctxs := u.ctxs, cores := u.cores, nextId := s.nextId + 1 } ∧
            x.rf = false ∧ x.pop = 0 ∧ x.tag = g.toNat ∧ x.npop = (v.descWord addr 0).toNat % 2 ^ 32 ∧ x.adv = 4 * 2 ^ ((v.descWord addr 0).toNat / 2 ^ 32 % 4) ∧
            x.base = (v.descWord addr 8).toNat % 2 ^ 15 ∧ x.e0 = (v.descWord addr 8).toNat / 2 ^ 16 % 2 ^ 16 ∧
            x.s1 = (if (v.descWord addr 8).toNat / 2 ^ 32 < 2 ^ 31 then ((v.descWord addr 8).toNat / 2 ^ 32 : Int) else (v.descWord addr 8).toNat / 2 ^ 32 - 2 ^ 32)) ∧
        (streamFault (v.descWord addr) (v.descWord pd) addr = none → v.blockPoison addr 32 = false → (v.descWord addr 0).getLsbD 63 = true →
          let l := (v.readDesc pd).pullBytes false 0 0
          let srcs := firstTouch (l.map (·.1))
          let pins := srcs.map (fun x => (s.me.aspc, Space.read, x.toNat / 4096))
          v.blockPoison pd 128 = false → v.pullRoom pins = true → (∀ x ∈ srcs, PageOk v .read .pullSrc x) →
          ∃ (t u : State) (x : Stream) (p : Pull), exec i s = .next t ∧ s.Completes i u (pcAdd s.me.pc 4) t ∧
            tagOf u g.toNat = ⟨.busy (.stream s.cur.ctx k), 0, s.me.slot.getD 512, s.cur.ctx, s.nextId⟩ ∧
            u.me = (s.seen i).setStream k (some x) ∧
            x.rf = true ∧ x.pop = 0 ∧ x.landed = 0 ∧ x.err = 0 ∧ x.tag = g.toNat ∧ x.pull = s.nextId ∧ x.npop = (v.descWord addr 0).toNat % 2 ^ 32 ∧
            x.adv = 4 * 2 ^ ((v.descWord addr 0).toNat / 2 ^ 32 % 4) ∧ x.base = (v.descWord addr 8).toNat % 2 ^ 15 ∧
            x.logr = (v.descWord addr 0x10).toNat / 2 ^ 20 % 16 ∧
            u.pull? s.nextId = some p ∧ p.clus = s.cur.clus ∧ p.core = s.cur.core ∧ p.ctx = s.cur.ctx ∧ p.tag = g.toNat ∧ p.stream = some k ∧
            p.got = [] ∧ p.err = 0 ∧ p.stamp = none ∧ p.pins = pins ∧ u.clus s.cur.clus = (s.clus s.cur.clus).pin pins ∧ p.bytes.length = l.length ∧
            (∀ (n : Nat) (e : DWord × Nat × DWord) (y : PByte), l[n]? = some e → p.bytes[n]? = some y →
              Lands v .read .pullSrc e.1 y.src y.skey ∧ y.dst = corePa s.pkg s.cur.clus s.cur.core (x.base + n % 2 ^ x.logr) ∧ y.unit = n / 32))))) ∧
  (∀ (s : State) (p : Pos) (x : Stream) (j : Nat), j < 32 → (∀ u ∈ (s.clus p.clus).unfenced, u.stale.contains .p = false) →
    (s.window p x)[j]? = some (s.byteAt (corePa s.pkg p.clus p.core (
      if x.rf then x.base + (x.pop * x.adv + j) % 2 ^ x.logr
      else (((x.base : Int) + (x.pop % x.e0 : Nat) * (x.adv : Int) + (x.pop / x.e0 : Nat) * x.s1 + (j : Int)) % 0x8000).toNat)) 0)) ∧
  (∀ (s : State) (a : Reg) (k : Nat), s.Issues (.sclose a) → (Instr.sclose a).wf = true → a.toNat = 32 + 8 * k →
    (s.me.stream k = none → ∃ t, exec (.sclose a) s = .next t ∧ s.CompletesAs (.sclose a) (s.seen (.sclose a)) t) ∧
    (∀ x, s.me.stream k = some x → x.tag < 64 →
      ∃ t u, exec (.sclose a) s = .next t ∧ s.Completes (.sclose a) u (pcAdd s.me.pc 4) t ∧ s.sameMem t ∧
        Ctx.Keeps (((s.seen (.sclose a)).setStream k none).setGroup a (List.replicate 8 0)) u.me ∧ u.me.stream k = none ∧ u.pull? x.pull = none ∧
        (if (tagOf s x.tag).st = .busy (.stream s.cur.ctx k) then (tagOf u x.tag).st = .done ∧ (tagOf u x.tag).err = 0 else tagOf u x.tag = tagOf s x.tag)))

namespace Sys2Proof.Claims

/-- An entry of a table bank. -/
def bankEntry (s : State) (c n id : Nat) : Option (List Byte) :=
  match (s.clus c).banks.toList.getD n none with
  | some b => if Assoc.has id b.entries then some (Assoc.get [] id b.entries) else none
  | none => none

/-- MMA, MMAS and MSEND: whether a skip list is required, whether any tile may be named, and the operands (R277). -/
def mmaForm : Instr → Option (Bool × Bool × Reg × Reg × Tag)
  | .mma a b g => some (false, false, a, b, g)
  | .mmas a b g => some (true, false, a, b, g)
  | .msend a b g => some (false, true, a, b, g)
  | _ => none

/-- The descriptor of R276 at an address of the current core's store, with its displacement, passes check 3 of R278. -/
structure MmaFits (s : State) (stream send : Bool) (addr disp : Nat) : Prop where
  aligned : addr % 32 = 0
  inside : addr + 32 ≤ 0x8000
  clean : s.blockPoison addr 32 = false
  reserved : fld (s.descWord addr 0) 47 47 = 0 ∧ fld (s.descWord addr 0) 39 39 = 0 ∧ fld (s.descWord addr 0) 29 29 = 0 ∧ fld (s.descWord addr 0) 23 23 = 0 ∧
    s.descWord addr 0x10 = 0 ∧ s.descWord addr 0x18 = 0
  sizes : 1 ≤ fld (s.descWord addr 0) 55 48 ∧ 1 ≤ fld (s.descWord addr 0) 46 40 ∧ fld (s.descWord addr 0) 46 40 ≤ 64 ∧
    1 ≤ fld (s.descWord addr 0) 38 32 ∧ fld (s.descWord addr 0) 38 32 ≤ 64 ∧ 2 ≤ fld (s.descWord addr 0) 19 15 ∧ fld (s.descWord addr 0) 19 15 ≤ 16
  skip : fld (s.descWord addr 0) 22 20 ≤ 4 ∧ (send = false → (fld (s.descWord addr 0) 22 20 ≠ 0 ↔ stream = true) ∧ fld (s.descWord addr 0) 27 24 = 0)
  abase : (fld (s.descWord addr 0) 14 0 + disp) % 4 = 0
  afits : fld (s.descWord addr 0) 14 0 + disp + fld (s.descWord addr 0) 55 48 * fld (s.descWord addr 0) 38 32 * 4 * (fld (s.descWord addr 0) 19 15 + 1) ≤ 0x8000

/-- The offset that check 3 of R278 reports: of the words of a descriptor that break it, the lowest (log entry 46); 0 for its address. -/
def mmaFault (s : State) (stream send : Bool) (addr disp : Nat) : Option Nat :=
  let w := s.descWord addr 0
  let f := fld w
  if addr % 32 ≠ 0 ∨ 0x8000 < addr + 32 then some 0
  else if f 47 47 ≠ 0 ∨ f 39 39 ≠ 0 ∨ f 29 29 ≠ 0 ∨ f 23 23 ≠ 0 then some 0
  else if f 55 48 = 0 ∨ f 46 40 = 0 ∨ 64 < f 46 40 ∨ f 38 32 = 0 ∨ 64 < f 38 32 ∨ f 19 15 < 2 ∨ 16 < f 19 15 then some 0
  else if 4 < f 22 20 ∨ (send = false ∧ (stream = true ∧ f 22 20 = 0 ∨ stream = false ∧ f 22 20 ≠ 0 ∨ f 27 24 ≠ 0)) then some 0
  else if (f 14 0 + disp) % 4 ≠ 0 ∨ 0x8000 < f 14 0 + disp + f 55 48 * f 38 32 * 4 * (f 19 15 + 1) then some 0
  else if s.descWord addr 0x10 ≠ 0 then some 0x10
  else if s.descWord addr 0x18 ≠ 0 then some 0x18
  else none

/-- What the descriptor asks of the plane array, with the first K block and column and the K blocks taken. -/
def mmaKind (s : State) (addr disp kb0 n0 : Nat) (taken : List Nat) : MatKind :=
  let w := s.descWord addr 0
  .mma (fld w 63 56) (fld w 55 48) (fld w 46 40) (fld w 38 32) (fld w 31 31 = 1) (fld w 30 30 = 1) (fld w 28 28) (fld w 19 15)
    (fld w 14 0 + disp) (fld (s.descWord addr 8) 31 0) (fld (s.descWord addr 8) 63 32) kb0 n0 taken

/-- The walk of R279: the K blocks a list of (SKIP, TAKE) entries takes from a position on. -/
def takenBlocks : List (Nat × Nat) → Nat → List Nat
  | [], _ => []
  | (k, n) :: es, pos => if k = 0 ∧ n = 0 then [] else (List.range n).map (fun j => pos + k + j) ++ takenBlocks es (pos + k + n)

/-- The walk of R279 stays within KB. -/
def walkFits (kb : Nat) : List (Nat × Nat) → Nat → Prop
  | [], _ => True
  | (k, n) :: es, pos => if k = 0 ∧ n = 0 then True else pos + k + n ≤ kb ∧ walkFits kb es (pos + k + n)

/-- The entry at which the walk of R279, at a position and an entry, passes KB. -/
def walkFailsAt (kb : Nat) : List (Nat × Nat) → Nat → Nat → Option Nat
  | [], _, _ => none
  | (k, n) :: es, pos, e => if k = 0 ∧ n = 0 then none else if kb < pos + k + n then some e else walkFailsAt kb es (pos + k + n) (e + 1)

/-- The 16 entries of a skip-list window. -/
def skipEntries (l : List Byte) : List (Nat × Nat) := (List.range 16).map (fun e => ((l.getD (2 * e + 1) 0).toNat, (l.getD (2 * e) 0).toNat))

/-- The command that row 8 of R278 sends: it stands last in the queue of the tile, its tag is BUSY, and the plane array is to accept. -/
structure Sent (s u : State) (g : Tag) (tile : Nat) (kind : MatKind) : Prop where
  cmd : ∃ m : MatCmd, (u.tile s.cur.clus tile).cmds = (s.tile s.cur.clus tile).cmds ++ [m] ∧ m.id = s.nextId ∧ m.pos = s.cur ∧ m.tag = g.toNat ∧
    m.capt = s.me.capt ∧ m.lnch = s.me.lnch ∧ m.aspc = s.me.aspc ∧ m.kind = kind ∧ m.phase = .queued
  busy : tagOf u g.toNat = ⟨.busy .matrix, 0, s.me.slot.getD 512, s.cur.ctx, s.nextId⟩
  accept : Sched.event .matrixAccept { clus := s.cur.clus, slot := tile } ∈ u.pending
  acc : (u.tile s.cur.clus tile).acc = (s.tile s.cur.clus tile).acc

/-- The queue of a plane array has room (R270). -/
def QueueRoom (s : State) (tile : Nat) : Prop := ((s.tile s.cur.clus tile).cmds.filter (fun m => m.phase = .queued)).length < 16

/-- The offset that the PULL_DESC check of R289 reports: of the words of a drain descriptor that break it, the lowest (log entry 46); 0 for its address. -/
def drainFault (s : State) (addr disp : Nat) : Option Nat :=
  let f := fld (s.descWord addr 0)
  let size := match f 63 60 with
    | 0 => 4 | 1 => 2 | 2 => 2 | 7 => 4 | _ => 1
  if addr % 32 ≠ 0 ∨ 0x8000 < addr + 32 then some 0
  else if 8 ≤ f 63 60 ∨ f 59 56 = 0 ∨ 4 < f 59 56 ∨ f 53 53 ≠ 0 ∨ f 47 47 ≠ 0 ∨ f 39 39 ≠ 0 ∨ f 15 15 ≠ 0 then some 0
  else if f 46 40 = 0 ∨ 64 < f 46 40 ∨ f 38 32 = 0 ∨ 64 < f 38 32 ∨ f 14 0 % 4 ≠ 0 then some 0
  else if f 31 16 % 4 ≠ 0 ∨ f 31 16 < f 46 40 * size ∨ f 46 40 * size % 4 ≠ 0 then some 0
  else if 0x8000 < f 14 0 + disp + (f 38 32 - 1) * f 31 16 + f 46 40 * size then some 0
  else if fld (s.descWord addr 8) 63 32 ≠ 0 then some 8
  else if s.descWord addr 0x10 ≠ 0 then some 0x10
  else if s.descWord addr 0x18 ≠ 0 then some 0x18
  else none

/-- The drain descriptor of R288 at an address, with its displacement, passes the checks of R289. -/
structure DrainFits (s : State) (addr disp : Nat) (fmt : Ty) (rnd : Rc) : Prop where
  aligned : addr % 32 = 0
  inside : addr + 32 ≤ 0x8000
  clean : s.blockPoison addr 32 = false
  format : Ty.ofCode (BitVec.ofNat 4 (fld (s.descWord addr 0) 63 60)) = some fmt ∧ fld (s.descWord addr 0) 63 60 < 8
  rounding : Rc.ofCode (BitVec.ofNat 4 (fld (s.descWord addr 0) 59 56)) = some rnd ∧ 1 ≤ fld (s.descWord addr 0) 59 56 ∧ fld (s.descWord addr 0) 59 56 ≤ 4
  reserved : fld (s.descWord addr 0) 53 53 = 0 ∧ fld (s.descWord addr 0) 47 47 = 0 ∧ fld (s.descWord addr 0) 39 39 = 0 ∧ fld (s.descWord addr 0) 15 15 = 0 ∧
    fld (s.descWord addr 8) 63 32 = 0 ∧ s.descWord addr 0x10 = 0 ∧ s.descWord addr 0x18 = 0
  sizes : 1 ≤ fld (s.descWord addr 0) 46 40 ∧ fld (s.descWord addr 0) 46 40 ≤ 64 ∧ 1 ≤ fld (s.descWord addr 0) 38 32 ∧ fld (s.descWord addr 0) 38 32 ≤ 64
  rows : fld (s.descWord addr 0) 31 16 % 4 = 0 ∧ fld (s.descWord addr 0) 46 40 * fmt.bytes ≤ fld (s.descWord addr 0) 31 16 ∧
    fld (s.descWord addr 0) 46 40 * fmt.bytes % 4 = 0 ∧ fld (s.descWord addr 0) 14 0 % 4 = 0
  below : fld (s.descWord addr 0) 14 0 + disp + (fld (s.descWord addr 0) 38 32 - 1) * fld (s.descWord addr 0) 31 16 + fld (s.descWord addr 0) 46 40 * fmt.bytes ≤ 0x8000

end Sys2Proof.Claims

/-- R275. TIDSET writes an entry of the launch's bank from 64 bytes of the core store, or takes TID_BAD, ALIGN or PERM; TIDCLR makes one invalid. Both discard
the operand-buffer blocks fetched through it; no other entry changes. -/
def Obligations.TableEntries : Prop :=
  ∀ (s : State) (a b : Reg),
    (∀ n, s.Issues (.tidset a b) → (s.view (.tidset a b)).myBank = some n → (s.clus s.cur.clus).unfenced = [] →
      let i := Instr.tidset a b
      let addr := val (s.seen i) a 1
      let id := val (s.seen i) b 1 % 256
      let e := s.bytesAt (corePa s.pkg s.cur.clus s.cur.core addr) 0 64
      (addr % 32 = 0 → addr + 64 ≤ 0x8000 → (s.view i).blockPoison addr 64 = false →
        (tidV e = false ∨ tidBad e = none →
          ∃ t u, exec i s = .next t ∧ s.Completes i u (pcAdd s.me.pc 4) t ∧ u = { s.view i with clusters := u.clusters, tiles := u.tiles } ∧
            bankEntry u s.cur.clus n id = some e ∧ (∀ n' id', (n', id') ≠ (n, id) → bankEntry u s.cur.clus n' id' = bankEntry s s.cur.clus n' id') ∧
            (∀ k, ∀ r ∈ (u.tile s.cur.clus k).buf, r ∈ (s.tile s.cur.clus k).buf ∧ ¬ (r.id.bank = n ∧ r.id.tid = id))) ∧
        (∀ o, tidV e = true → tidBad e = some o → CanTrap s →
          ∃ t, exec i s = .next t ∧ Traps s i 0x23 (BitVec.ofNat 64 addr) (BitVec.ofNat 32 (o + 256 * id)) s.me.pc t)) ∧
      (addr % 32 ≠ 0 → CanTrap s → ∃ t, exec i s = .next t ∧ Traps s i 0x10 (BitVec.ofNat 64 addr) 0 s.me.pc t) ∧
      (addr % 32 = 0 → 0x8000 < addr + 64 → CanTrap s → ∃ t, exec i s = .next t ∧ Traps s i 0x11 (BitVec.ofNat 64 addr) 0 s.me.pc t)) ∧
    (∀ n, s.Issues (.tidclr a) → (s.view (.tidclr a)).myBank = some n →
      ∃ t u, exec (.tidclr a) s = .next t ∧ s.Completes (.tidclr a) u (pcAdd s.me.pc 4) t ∧
        u = { s.view (.tidclr a) with clusters := u.clusters, tiles := u.tiles } ∧
        bankEntry u s.cur.clus n (val (s.seen (.tidclr a)) a 1 % 256) = none ∧
        (∀ n' id', (n', id') ≠ (n, val (s.seen (.tidclr a)) a 1 % 256) → bankEntry u s.cur.clus n' id' = bankEntry s s.cur.clus n' id') ∧
        (∀ k, ∀ r ∈ (u.tile s.cur.clus k).buf, r ∈ (s.tile s.cur.clus k).buf ∧ ¬ (r.id.bank = n ∧ r.id.tid = val (s.seen (.tidclr a)) a 1 % 256))) ∧
    (CanTrap s →
      (s.Issues (.tidset a b) → (s.view (.tidset a b)).myBank = none → ∃ t, exec (.tidset a b) s = .next t ∧ Traps s (.tidset a b) 0x23 0 0 s.me.pc t) ∧
      (s.Issues (.tidclr a) → (s.view (.tidclr a)).myBank = none → ∃ t, exec (.tidclr a) s = .next t ∧ Traps s (.tidclr a) 0x23 0 0 s.me.pc t))

/-- R272 to R274. PLANE writes the record of its block: NaN flag, precision and exponent in the header, bit i of plane word j is bit j of q[i]; no other byte of
memory changes, and the seed register takes the generator's new state. -/
def Obligations.PlaneRecords : Prop :=
  ∀ (s : State) (src b : Reg) (fmt : Ty) (rc : Rc) (p addr : Nat) (ctl : Word), memWf s.mem = true → s.me.st = .ready →
    s.me.unready = [] → (∀ k, s.me.stream k = none) → s.cur.core < 128 → (Instr.plane b src).wf = true →
    addr = val s.me b 1 → ctl = s.me.reg (b + 1) →
    planeFmt ctl = some fmt → Rc.ofCode (BitVec.ofNat 4 ctl.toNat) = some rc →
    ctl.toNat / 2 ^ 21 % 8 = 0 → ctl.toNat / 2 ^ 12 % 16 = 0 → ctl.toNat / 2 ^ 4 % 16 = 0 →
    ((ctl.toNat / 2 ^ 16 % 32 = 0 ∧ p = defaultPrec fmt) ∨ (ctl.toNat / 2 ^ 16 % 32 = p ∧ p ≠ 0 ∧ precAllowed fmt p = true)) →
    src.toNat % (8 * planeOctets fmt) = 0 →
    (addr % 4 = 0 → addr + 4 * (p + 1) ≤ 0x8000 →
      let ws := s.me.group src (8 * planeOctets fmt)
      let r := planeOf fmt p (ctl.toNat / 2 ^ 24) (s.me.rmodeOf rc) (ws.flatMap (splitWord fmt.bytes)) (wordsBytes ws) s.me.seed
      let pa := corePa s.pkg s.cur.clus s.cur.core addr
      ∃ t, exec (.plane b src) s = .next t ∧ t.me.pc = (endOfBody s.me.pc (pcAdd s.me.pc 4) s.me.depth s.me).2 ∧ t.me.st = .ready ∧
        t.me.w = s.me.w ∧ t.me.m = s.me.m ∧ t.me.seed = r.2 ∧
        (∀ k, (k < pa ∨ pa + 4 * (p + 1) ≤ k) → ∀ key, t.byteAt k key = s.byteAt k key) ∧
        bytesVal (t.bytesAt pa 0 4) = (if r.1.nan then 2 ^ 31 else 0) + p * 2 ^ 16 + (r.1.exp % 2 ^ 16).toNat ∧
        (∀ j k, j < p → k < 32 → (bytesVal (t.bytesAt (pa + 4 + 4 * j) 0 4)).testBit k = (BitVec.ofInt 32 (r.1.q.getD k 0)).getLsbD j)) ∧
    (addr % 4 ≠ 0 → CanTrap s → ∃ t, exec (.plane b src) s = .next t ∧ Traps s (.plane b src) 0x10 (BitVec.ofNat 64 addr) 0x10 s.me.pc t) ∧
    (addr % 4 = 0 → 0x8000 < addr + 4 * (p + 1) → CanTrap s →
      ∃ t, exec (.plane b src) s = .next t ∧ Traps s (.plane b src) 0x11 (BitVec.ofNat 64 addr) 0x10 s.me.pc t)

/-- R276 to R279. MMA, MMAS and MSEND: TID_BAD without a bank, TAG_BUSY, PULL_DESC with the offset of the word that breaks R276 to R278 (of several the lowest, log entry 46),
STREAM_OVER for an octet not in stream mode, past the last pop or over a failed refill, a wait for a window not landed, PULL_DESC for a skip list that passes KB, a wait for room; else the command
is sent with the K blocks its skip list takes, and the list's stream pops. R287 to R289. MZERO and MDRAIN: TAG_BUSY, PULL_DESC with the offset of the word that breaks R288 or R289, a wait for
room; else the command is sent. -/
def Obligations.PlaneCommands : Prop :=
  (∀ (s : State) (i : Instr) (stream send : Bool) (a b : Reg) (g : Tag), s.Issues i → i.wf = true → mmaForm i = some (stream, send, a, b, g) →
     let v := s.view i
     let addr := val (s.seen i) a 1
     let disp := val (s.seen i) (a + 1) 1
     let w := v.descWord addr 0
     let tile := if send then fld w 27 24 else s.cur.core / 8
     let sks := fld w 22 20
     let kb0 := val (s.seen i) b 1
     let n0 := val (s.seen i) (b + 1) 1
     (v.myBank = none → CanTrap s → ∃ t, exec i s = .next t ∧ Traps s i 0x23 0 0 s.me.pc t) ∧
     (v.myBank.isSome = true →
       ((tagOf s g.toNat).st.isFree = false → CanTrap s → ∃ t, exec i s = .next t ∧ Traps s i 0x20 0 (BitVec.ofNat 32 g.toNat) s.me.pc t) ∧
       (∀ o, (tagOf s g.toNat).st.isFree = true → mmaFault v stream send addr disp = some o →
         (addr % 32 = 0 → addr + 32 ≤ 0x8000 → v.blockPoison addr 32 = false) → CanTrap s →
         ∃ t, exec i s = .next t ∧ Traps s i 0x21 (BitVec.ofNat 64 addr) (BitVec.ofNat 32 o) s.me.pc t) ∧
       ((tagOf s g.toNat).st.isFree = true → MmaFits v stream send addr disp →
         (sks = 0 → QueueRoom s tile →
           ∃ t u, exec i s = .next t ∧ s.Completes i u (pcAdd s.me.pc 4) t ∧ Sent s u g tile (mmaKind v addr disp kb0 n0 (List.range (fld w 55 48))) ∧
             u = { v with cores := u.cores, tiles := u.tiles, pending := u.pending, nextId := s.nextId + 1 }) ∧
         (sks = 0 → ¬ QueueRoom s tile → ∃ t, exec i s = .next t ∧ Waits s t i .resource) ∧
         (sks ≠ 0 → s.me.stream (sks - 1) = none → CanTrap s → ∃ t, exec i s = .next t ∧ Traps s i 0x24 0 5 s.me.pc t) ∧
         (∀ x, sks ≠ 0 → s.me.stream (sks - 1) = some x →
           (x.npop ≤ x.pop → CanTrap s → ∃ t, exec i s = .next t ∧ Traps s i 0x24 (BitVec.ofNat 64 x.start) 1 s.me.pc t) ∧
           (x.pop < x.npop → x.rf = true → x.landed < x.pop * x.adv + 32 →
             (x.err ≠ 0 → CanTrap s → ∃ t, exec i s = .next t ∧ Traps s i 0x24 (BitVec.ofNat 64 x.start) (4 + x.err.setWidth 32 * 256) s.me.pc t) ∧
             (x.err = 0 → ∃ t, exec i s = .next t ∧ Waits s t i .result)) ∧
           (∀ e, x.pop < x.npop → (x.rf = false ∨ x.pop * x.adv + 32 ≤ x.landed) → v.windowPoison (sks - 1) = false →
             walkFailsAt (fld w 55 48) (skipEntries (v.window s.cur x)) 0 0 = some e → CanTrap s →
             ∃ t, exec i s = .next t ∧ Traps s i 0x21 (BitVec.ofNat 64 addr) (BitVec.ofNat 32 (0x40 + e)) s.me.pc t)) ∧
         (∀ x, sks ≠ 0 → s.octets i = [] → s.me.stream (sks - 1) = some x → x.pop < x.npop → (x.rf = false ∨ x.pop * x.adv + 32 ≤ x.landed) →
           v.windowPoison (sks - 1) = false →
           walkFits (fld w 55 48) (skipEntries (v.window s.cur x)) 0 → QueueRoom s tile →
           ∃ t, exec i s = .next t ∧ t.me.stream (sks - 1) = some { x with pop := x.pop + 1 } ∧ t.me.w = (s.start i).me.w ∧ t.me.st = .ready ∧
             t.me.pc = (endOfBody s.me.pc (pcAdd s.me.pc 4) s.me.depth s.me).2 ∧ s.sameMem t ∧
             ∃ m, (t.tile s.cur.clus tile).cmds = (s.tile s.cur.clus tile).cmds ++ [m] ∧
               m.kind = mmaKind v addr disp kb0 n0 (takenBlocks (skipEntries (v.window s.cur x)) 0))))) ∧
  (∀ (s : State) (a : Reg) (g : Tag),
     (s.Issues (.mzero a g) →
       let w := val (s.seen (.mzero a g)) a 1
       let tile := w / 16 % 16
       ((tagOf s g.toNat).st.isFree = false → CanTrap s → ∃ t, exec (.mzero a g) s = .next t ∧ Traps s (.mzero a g) 0x20 0 (BitVec.ofNat 32 g.toNat) s.me.pc t) ∧
       ((tagOf s g.toNat).st.isFree = true → QueueRoom s tile → ∃ t u, exec (.mzero a g) s = .next t ∧ s.Completes (.mzero a g) u (pcAdd s.me.pc 4) t ∧
         Sent s u g tile (.zero (if w.testBit 1 then [0, 1] else [w % 2]))) ∧
       ((tagOf s g.toNat).st.isFree = true → ¬ QueueRoom s tile → ∃ t, exec (.mzero a g) s = .next t ∧ Waits s t (.mzero a g) .resource)) ∧
     (s.Issues (.mdrain a g) → (Instr.mdrain a g).wf = true →
       let v := s.view (.mdrain a g)
       let addr := val (s.seen (.mdrain a g)) a 1
       let disp := val (s.seen (.mdrain a g)) (a + 1) 1
       let w := v.descWord addr 0
       ((tagOf s g.toNat).st.isFree = false → CanTrap s → ∃ t, exec (.mdrain a g) s = .next t ∧ Traps s (.mdrain a g) 0x20 0 (BitVec.ofNat 32 g.toNat) s.me.pc t) ∧
       ((tagOf s g.toNat).st.isFree = true →
         (∀ o, drainFault v addr disp = some o → (addr % 32 = 0 → addr + 32 ≤ 0x8000 → v.blockPoison addr 32 = false) → CanTrap s →
           ∃ t, exec (.mdrain a g) s = .next t ∧ Traps s (.mdrain a g) 0x21 (BitVec.ofNat 64 addr) (BitVec.ofNat 32 o) s.me.pc t) ∧
         (∀ fmt rnd, DrainFits v addr disp fmt rnd → ¬ QueueRoom s (fld w 51 48) → ∃ t, exec (.mdrain a g) s = .next t ∧ Waits s t (.mdrain a g) .resource) ∧
         (∀ fmt rnd, DrainFits v addr disp fmt rnd → QueueRoom s (fld w 51 48) →
           ∃ t u, exec (.mdrain a g) s = .next t ∧ s.Completes (.mdrain a g) u (pcAdd s.me.pc 4) t ∧
             Sent s u g (fld w 51 48) (.drain fmt rnd (fld w 55 55 = 1) (fld w 54 54 = 1) (fld w 52 52) (fld w 46 40) (fld w 38 32) (fld w 31 16)
               (fld w 14 0 + disp) (BitVec.ofNat 32 (fld (v.descWord addr 8) 31 0)))))))

/-- R280, R281, R284, R66. MATRIX_ACCEPT takes the oldest queued command: CAP_DENIED or TID_BAD complete its tag with that code and the command is gone; a drain or a zero
is ready at once; an MMA holds its A blocks and fetches B. MATRIX_STEP_START runs the oldest accepted command once it is ready. R281, R284 to R287, R289. B_FETCH_DONE makes a command whose units are all read ready, its B blocks in plane form. MATRIX_STEP_DONE applies the running step whole:
the product into its region, zeros, or the drained bytes; nothing else of the bank or of memory changes; the tag becomes DONE. -/
def Obligations.PlaneSteps : Prop :=
  (∀ (s : State) (m : MatCmd),
     ((∀ x ∈ (s.tile s.inp.clus s.inp.slot).cmds, x.phase ≠ .queued) → exec .matrixAccept s = .next s) ∧
     ((s.tile s.inp.clus s.inp.slot).cmds.find? (fun x => x.phase = .queued) = some m → (∀ x ∈ (s.tile s.inp.clus s.inp.slot).cmds, x.id = m.id → x = m) →
       m.tag < 64 → ((s.core s.inp.clus m.pos.core).tag m.tag).op = m.id →
       (s.capOk s.inp.clus s.inp.slot m.capt = false →
         ∃ t, exec .matrixAccept s = .next t ∧ ((t.core s.inp.clus m.pos.core).tag m.tag).st = .done ∧ ((t.core s.inp.clus m.pos.core).tag m.tag).err = 0x22 ∧
           m ∉ (t.tile s.inp.clus s.inp.slot).cmds ∧ (t.tile s.inp.clus s.inp.slot).acc = (s.tile s.inp.clus s.inp.slot).acc ∧ s.sameMem t) ∧
       (s.capOk s.inp.clus s.inp.slot m.capt = true →
         (((∃ f r x y z n k d o q, m.kind = .drain f r x y z n k d o q) ∨ (∃ l, m.kind = .zero l)) →
           ∃ t, exec .matrixAccept s = .next t ∧ { m with phase := .ready } ∈ (t.tile s.inp.clus s.inp.slot).cmds ∧
             Sched.event .matrixStepStart { clus := s.inp.clus, slot := s.inp.slot, core := m.pos.core } ∈ t.pending ∧ s.sameMem t) ∧
         (∀ tid kb nc mr breuse acc bank aprec a0 i2 i3 kb0 n0 taken, m.kind = .mma tid kb nc mr breuse acc bank aprec a0 i2 i3 kb0 n0 taken →
           (tidUnfit (s.cmdEntry s.inp.clus m.capt tid) kb kb0 nc n0 i2 i3 = true →
             ∃ t, exec .matrixAccept s = .next t ∧ ((t.core s.inp.clus m.pos.core).tag m.tag).st = .done ∧ ((t.core s.inp.clus m.pos.core).tag m.tag).err = 0x23 ∧
               (t.tile s.inp.clus s.inp.slot).acc = (s.tile s.inp.clus s.inp.slot).acc) ∧
           (∀ m', s.acceptCmd s.inp.clus s.inp.slot m = .ok m' →
             ∃ t, exec .matrixAccept s = .next t ∧ m' ∈ (t.tile s.inp.clus s.inp.slot).cmds ∧ m'.phase = .fetching ∧ m'.entry = s.cmdEntry s.inp.clus m.capt tid ∧
               (∀ k r, k ∈ taken → r < mr → Assoc.get (PlaneBlk.zero false) (k, r) m'.ablk =
                 recordBlk aprec (s.pathRead m.pos.clus .m (engineObserver .m (m.pos.core / 8)) (corePa s.pkg m.pos.clus m.pos.core (a0 + (k * mr + r) * 4 * (aprec + 1))) 0 (4 * (aprec + 1)))) ∧
               Sched.event .bFetchDone { clus := s.inp.clus, slot := s.inp.slot, core := m.pos.core } ∈ t.pending ∧ s.sameMem t)))) ∧
     (∀ l, (s.tile s.inp.clus s.inp.slot).cmds = m :: l → (∀ x ∈ l, x.id ≠ m.id) →
       (m.phase = .ready → ∃ t, exec .matrixStepStart s = .next t ∧ (t.tile s.inp.clus s.inp.slot).cmds = { m with phase := .running } :: l ∧
         Sched.event .matrixStepDone { clus := s.inp.clus, slot := s.inp.slot } ∈ t.pending ∧ s.sameMem t) ∧
       (m.phase ≠ .ready → exec .matrixStepStart s = .next s))) ∧
  ((∀ (s : State) (m : MatCmd) (n : Nat) (fmt : Ty), n < 16 → (s.tile s.inp.clus n).cmds = [m] → m.phase = .fetching →
     (∀ k, k < 16 → k ≠ n → (s.tile s.inp.clus k).cmds = []) → (s.clus s.inp.clus).xfails = [] → tidSeal m.entry = false → tidFmt m.entry = some fmt →
     (∀ u ∈ m.units, Assoc.has u m.got = true) → (∀ u ∈ m.units, ∃ e ∈ m.pages, e.1 = u / 128) →
     ∃ t m', exec .bFetchDone s = .next t ∧ (t.tile s.inp.clus n).cmds = [m'] ∧ m'.phase = .ready ∧ m'.ablk = m.ablk ∧ m'.kind = m.kind ∧
       (∀ kb k, (kb, k) ∈ m.needBlocks → (m.ident m.entry kb k).isSome = true → Assoc.has (kb, k) m.bblk = false →
         Assoc.get (PlaneBlk.zero false) (kb, k) m'.bblk = bBlock m.entry fmt (m.sel kb k) (fun a => (Assoc.get [] (a / 32) m.got).getD (a % 32) 0)) ∧
       Sched.event .matrixStepStart { clus := s.inp.clus, slot := n } ∈ t.pending ∧ s.sameMem t) ∧
   (∀ (s : State) (m : MatCmd), memWf s.mem = true → (s.tile s.inp.clus s.inp.slot).cmds.find? (fun x => x.phase = .running) = some m →
     m.tag < 64 → ((s.core s.inp.clus m.pos.core).tag m.tag).op = m.id →
     let x := s.tile s.inp.clus s.inp.slot
     (∀ tid kb nc mr breuse acc bank aprec a0 i2 i3 kb0 n0 taken, m.kind = .mma tid kb nc mr breuse acc bank aprec a0 i2 i3 kb0 n0 taken →
       ∃ t, exec .matrixStepDone s = .next t ∧ ((t.core s.inp.clus m.pos.core).tag m.tag).st = .done ∧ ((t.core s.inp.clus m.pos.core).tag m.tag).err = 0 ∧
         (∀ r k, r < mr → k < nc → (t.tile s.inp.clus s.inp.slot).accAt bank r k = taken.foldl (fun v kb =>
           accumulate v (Assoc.get (PlaneBlk.zero false) (kb, r) m.ablk) (Assoc.get (PlaneBlk.zero false) (kb, k) m.bblk)) (if acc then x.accAt bank r k else 0)) ∧
         (∀ b r k, (b ≠ bank ∨ mr ≤ r ∨ nc ≤ k) → (t.tile s.inp.clus s.inp.slot).accAt b r k = x.accAt b r k) ∧ s.sameMem t) ∧
     (∀ banks, m.kind = .zero banks →
       ∃ t, exec .matrixStepDone s = .next t ∧ ((t.core s.inp.clus m.pos.core).tag m.tag).st = .done ∧ ((t.core s.inp.clus m.pos.core).tag m.tag).err = 0 ∧
         (∀ b r k, (t.tile s.inp.clus s.inp.slot).accAt b r k = if b ∈ banks then 0 else x.accAt b r k) ∧ s.sameMem t) ∧
     (∀ fmt rnd sat clr bank nc mr dstr d0 alpha, m.kind = .drain fmt rnd sat clr bank nc mr dstr d0 alpha → m.bast = none →
       (s.clus s.inp.clus).saved = [] → m.pos.core < 128 → nc * fmt.bytes ≤ dstr → d0 + (mr - 1) * dstr + nc * fmt.bytes ≤ 0x8000 →
       ∃ t, exec .matrixStepDone s = .next t ∧ ((t.core s.inp.clus m.pos.core).tag m.tag).st = .done ∧
         (∀ r k, sat = false → r < mr → k < nc → (drainVal fmt rnd alpha (x.accAt bank r k)).2 = true → ((t.core s.inp.clus m.pos.core).tag m.tag).err = 0x30) ∧
         ((sat = true ∨ ∀ r k, r < mr → k < nc → (drainVal fmt rnd alpha (x.accAt bank r k)).2 = false) → ((t.core s.inp.clus m.pos.core).tag m.tag).err = 0) ∧
         (∀ r k j, r < mr → k < nc → j < fmt.bytes →
           t.byteAt (corePa s.pkg s.inp.clus m.pos.core (d0 + r * dstr + k * fmt.bytes + j)) 0 = (wordBytes (drainVal fmt rnd alpha (x.accAt bank r k)).1).getD j 0) ∧
         (∀ a key, (∀ r k j, r < mr → k < nc → j < fmt.bytes → a ≠ corePa s.pkg s.inp.clus m.pos.core (d0 + r * dstr + k * fmt.bytes + j)) →
           t.byteAt a key = s.byteAt a key) ∧
         (∀ b r k, (t.tile s.inp.clus s.inp.slot).accAt b r k = if clr = true ∧ b = bank ∧ r < mr ∧ k < nc then 0 else x.accAt b r k))))


namespace Sys2Proof.Claims

/-- The advance an instruction makes: the pair that holds its address and the new value from the old (R299). -/
def advanceForm (c : Ctx) : Instr → Option (Reg × (Nat → Nat))
  | .pub a b => some (a, fun _ => val c b 2)
  | .pubi a k => some (a, fun old => old + k.toNat)
  | _ => none

/-- The context acts through its atomic unit with nothing of its core on the way: the core's store buffer and L1 are empty, it reads no stream,
does not baste, and no effect of it is being replayed. -/
structure Direct (s : State) (i : Instr) : Prop where
  issues : s.Issues i
  wf : i.wf = true
  mem : memWf s.mem = true
  buffer : (s.core s.cur.clus s.cur.core).sb = []
  l1 : (s.core s.cur.clus s.cur.core).l1 = []
  plain : s.me.basting = false
  real : s.me.bast = none
  streams : s.octets i = []
  replayed : (s.view i).replaying s.cur = false

/-- The context has completed at the instruction after it: its masks stay, and its registers are c's. -/
structure GoesOn (s t : State) (c : Ctx) : Prop where
  cur : t.cur = s.cur
  st : t.me.st = .ready
  pc : t.me.pc = (endOfBody s.me.pc (pcAdd s.me.pc 4) s.me.depth s.me).2
  retc : t.me.retc = s.me.retc + 1
  w : t.me.w = c.w
  m : t.me.m = s.me.m

/-- The word a barrier arrival leaves (R307): g generation, n the count wanted, c the arrivals with this one. -/
def arrived (w n : Nat) : Nat :=
  if (if w / 2 ^ 16 % 2 ^ 16 = 0 then n else w / 2 ^ 16 % 2 ^ 16) ≤ w % 2 ^ 16 + 1
  then (w / 2 ^ 32 + 1) % 2 ^ 32 * 2 ^ 32 + w / 2 ^ 16 % 2 ^ 16 * 2 ^ 16
  else w / 2 ^ 16 * 2 ^ 16 + (w % 2 ^ 16 + 1)

/-- What a watcher is told of a watch (R304): value, stamp and status, with the page's generation as the owner holds it. -/
def doneItem (s : State) (w : WatchEntry) (value : DWord) (stamp : Nat) (status : Byte) : DoneItem :=
  { clus := w.oclus, core := w.core, tag := w.tag, opkg := paPkg w.pa, oclus := paClus w.pa, value := value, stamp := stamp, status := status,
    op := w.op, pa := w.pa, gen := Assoc.get 0 (w.pa / 4096) s.gens }

/-- A function holds a key slot: the slot names it, and no running ERASE of it or ACCEPT from it has cleared the slot's bit (R43, R48, R49, R336). -/
def HoldsSlot (s : State) (key fn : Nat) : Prop :=
  (s.keySlot key).st ≠ .empty ∧ (s.keySlot key).fn = fn ∧ ∀ e ∈ s.ksWins, ∀ r, e.2.run = some r → r.slot = key → ¬ (r.code = 6 ∧ e.1 = fn ∨ r.code = 5 ∧ r.arg = fn)

/-- The contexts of the team of a position. -/
def teamCount (s : State) (p : Pos) : Nat := (s.ctxs.filter (fun e => e.1.clus = p.clus && e.2.slot = (s.ctx p).slot && e.2.slot.isSome)).length

end Sys2Proof.Claims

/-- R298, R299, R303. PUB and PUBI raise the milestone: the word, the owner's publication count, and every watch entry the new value meets, which leaves the table
with the value and the count. A value not above the old one, or of 2^64 and more, takes MILESTONE_REGRESS, a misaligned word ALIGN. -/
def Obligations.Milestones : Prop :=
  ∀ (s : State) (i : Instr) (a : Reg) (f : Nat → Nat) (pa : Nat) (x : TlbEntry), Direct s i → advanceForm (s.seen i) i = some (a, f) →
    let ea := val (s.seen i) a 2
    let c := s.cur.clus
    (ea % 8 ≠ 0 → CanTrap s → ∃ t, exec i s = .next t ∧ Traps s i 0x10 (BitVec.ofNat 64 ea) AccKind.atomic.xinfo s.me.pc t) ∧
    (Reaches (s.view i) .home (BitVec.ofNat 64 ea) 8 .atomic pa x → pa % 8 = 0 →
      let old := bytesVal (s.bytesAt pa x.key 8)
      (old < f old → f old < 2 ^ 64 →
        ∃ t, exec i s = .next t ∧ GoesOn s t (s.start i).me ∧ Wrote s t x.key pa (lowBytes 8 (f old)) ∧ (t.clus c).pub = (s.clus c).pub + 1 ∧
          (∀ w ∈ (t.clus c).watches, w ∈ (s.clus c).watches ∧ ¬ (w.pa = pa ∧ w.thr.toNat ≤ f old)) ∧
          (∀ w ∈ (s.clus c).watches, (w.pa = pa ∧ w.thr.toNat ≤ f old) ∨ w ∈ (t.clus c).watches) ∧
          (∀ w ∈ (s.clus c).watches, w.pa = pa → w.thr.toNat ≤ f old → w.opkg = s.pkg →
            Sched.event .watchDone { load := .done (doneItem t w (BitVec.ofNat 64 (f old)) ((s.clus c).pub + 1) 0) } ∈ t.pending)) ∧
      ((f old ≤ old ∨ 2 ^ 64 ≤ f old) → CanTrap s → ∃ t, exec i s = .next t ∧ Traps s i 0x14 (BitVec.ofNat 64 ea) 0 s.me.pc t))

/-- R301, R302, R305. WATCH: TAG_BUSY, PULL_DESC, ALIGN, DEAD_PEER, SEALED_LOAD, DEVICE_ACCESS; else the tag is BUSY and the request goes to the owner port. UNWATCH gives 2 for
a tag with nothing under way, waits for the answer of a watch, and takes TAG_BUSY for any other operation. R303, R304, R305. WATCH_REQ at an owner port: PERM where the port refuses, completion at once where the word has reached the threshold, else an entry, or a poll of the
watcher's port when the table is full; a watcher of another package hears of a full table by the status 0xFF (the model's choice, log entry 44). WATCH_POLL completes a met poll. WATCH_DONE raises the floor, writes VALUE and makes the tag DONE, or gives it the error. UNWATCH_ANSWER removes a standing
entry, frees the tag and gives 1; with the tag DONE it gives 0. -/
def Obligations.Watches : Prop :=
  (∀ (s : State) (a : Reg) (g : Tag), s.Issues (.watch a g) → (Instr.watch a g).wf = true →
    let i := Instr.watch a g
    let v := s.view i
    let blk := val (s.seen i) a 1
    let addr := v.descWord blk 0
    ((tagOf s g.toNat).st.isFree = false → CanTrap s → ∃ t, exec i s = .next t ∧ Traps s i 0x20 0 (BitVec.ofNat 32 g.toNat) s.me.pc t) ∧
    ((tagOf s g.toNat).st.isFree = true →
      ((blk % 32 ≠ 0 ∨ 0x8000 < blk + 32 ∨ 2 ^ 48 ≤ addr.toNat) → CanTrap s →
        ∃ t, exec i s = .next t ∧ Traps s i 0x21 (BitVec.ofNat 64 blk) 0 s.me.pc t) ∧
      (blk % 32 = 0 → blk + 32 ≤ 0x8000 → addr.toNat < 2 ^ 48 → v.blockPoison blk 16 = false →
        (addr.toNat % 8 ≠ 0 → CanTrap s → ∃ t, exec i s = .next t ∧ Traps s i 0x10 addr 0 s.me.pc t) ∧
        (∀ pa x, addr.toNat % 8 = 0 → v.translate s.cur.clus (.ctx s.cur) s.me.aspc .read addr .watch = .ok pa x →
          (s.dead.getLsbD (paPkg pa) = true → CanTrap s → ∃ t, exec i s = .next t ∧ Traps s i 0x50 addr 0 s.me.pc t) ∧
          (s.dead.getLsbD (paPkg pa) = false →
            (x.type = .sealed → CanTrap s → ∃ t, exec i s = .next t ∧ Traps s i 0x40 addr 0 s.me.pc t) ∧
            (x.type = .device → CanTrap s → ∃ t, exec i s = .next t ∧ Traps s i 0x13 addr 0 s.me.pc t) ∧
            ((x.type = .normal ∨ x.type = .swm) → s.me.basting = false →
              ∃ t u, exec i s = .next t ∧ s.Completes i u (pcAdd s.me.pc 4) t ∧
                tagOf u g.toNat = ⟨.busy (.watch s.nextId blk (paPkg pa)), 0, s.me.slot.getD 512, s.cur.ctx, s.nextId⟩ ∧
                (paPkg pa = s.pkg → Sched.event .watchReq { load := .watch ⟨s.pkg, s.cur.clus, (s.clus s.cur.clus).fn, s.cur.core, g.toNat, pa, x.key,
                  v.descWord blk 8, s.nextId⟩ } ∈ u.pending))))))) ∧
  (∀ (s : State) (d : Reg) (g : Tag), s.Issues (.unwatch d g) →
    let i := Instr.unwatch d g
    (((tagOf s g.toNat).st = .free ∨ (tagOf s g.toNat).st = .done) → ∃ t, exec i s = .next t ∧ s.CompletesAs i ((s.seen i).setReg d 2) t) ∧
    (∀ n b p, (tagOf s g.toNat).st = .busy (.watch n b p) →
      ∃ t, exec i s = .next t ∧ Waits s t i (.unwatch g.toNat d) ∧ Sched.event .unwatchAnswer { pos := s.cur } ∈ t.pending) ∧
    (∀ op, (tagOf s g.toNat).st = .busy op → (∀ n b p, op ≠ .watch n b p) → CanTrap s →
      ∃ t, exec i s = .next t ∧ Traps s i 0x20 0 (BitVec.ofNat 32 g.toNat) s.me.pc t)) ∧
  (∀ (s : State) (it : WatchItem), s.inp.load = .watch it → paPkg it.pa = s.pkg →
    let c := paClus it.pa
    let v := bytesVal (s.bytesAt it.pa it.key 8)
    let w : WatchEntry := ⟨0, it.opkg, it.oclus, it.core, it.tag, it.pa, it.key, it.thr, it.op⟩
    (it.opkg = s.pkg →
      let good := s.ownerRefuses it.fn it.pa = false ∧ s.keyOk it.oclus it.pa it.key = true
      (¬ good → ∃ t, exec .watchReq s = .next t ∧ t = { s with pending := s.pending ++ [.event .watchDone { load := .done (doneItem s w 0 0 0x11) }] }) ∧
      (good → s.poison.contains (it.pa / 64) = true → ∃ t, exec .watchReq s = .next t ∧
        t = { s with pending := s.pending ++ [.event .watchDone { load := .done (doneItem s w 0 0 0x50) }] }) ∧
      (good → s.poison.contains (it.pa / 64) = false →
        (it.thr.toNat ≤ v → ∃ t, exec .watchReq s = .next t ∧
          t = { s with pending := s.pending ++ [.event .watchDone { load := .done (doneItem s w (BitVec.ofNat 64 v) (s.clus c).pub 0) }] }) ∧
        (v < it.thr.toNat → (s.clus c).watches.length < 1024 → ∃ t, exec .watchReq s = .next t ∧
          (t.clus c).watches = (s.clus c).watches ++ [{ w with id := s.nextId }] ∧ s.sameMem t) ∧
        (v < it.thr.toNat → 1024 ≤ (s.clus c).watches.length → ∃ t, exec .watchReq s = .next t ∧
          (t.clus it.oclus).polls = (s.clus it.oclus).polls ++ [{ w with id := s.nextId }] ∧
          Sched.event .watchPoll { clus := it.oclus, id := s.nextId } ∈ t.pending))) ∧
    (it.opkg ≠ s.pkg → (s.ownerRefuses it.fn it.pa = true ∨ ((paRegion it.pa).isHbm = true ∧ ¬ HoldsSlot s it.key it.fn)) →
      ∃ t n, exec .watchReq s = .next t ∧ t.items = s.items ++ [⟨s.pkg, it.opkg, c, it.oclus, n, .watchDone (doneItem s w 0 0 0x11)⟩])) ∧
  (∀ (s : State) (w : WatchEntry), (s.clus s.inp.clus).polls.find? (fun w => w.id = s.inp.id) = some w → paPkg w.pa = s.pkg → s.dead.getLsbD s.pkg = false →
    let v := bytesVal (s.bytesAt w.pa w.key 8)
    let good := s.ownerRefuses (s.clus w.oclus).fn w.pa = false ∧ s.keyOk w.oclus w.pa w.key = true
    (¬ good → ∃ t, exec .watchPoll s = .next t ∧ (∀ x ∈ (t.clus s.inp.clus).polls, x.id ≠ w.id) ∧
      Sched.event .watchDone { load := .done (doneItem s w 0 0 0x11) } ∈ t.pending) ∧
    (good → s.poison.contains (w.pa / 64) = false →
      (w.thr.toNat ≤ v → ∃ t, exec .watchPoll s = .next t ∧ (∀ x ∈ (t.clus s.inp.clus).polls, x.id ≠ w.id) ∧
        Sched.event .watchDone { load := .done (doneItem s w (BitVec.ofNat 64 v) (s.clus (paClus w.pa)).pub 0) } ∈ t.pending) ∧
      (v < w.thr.toNat → exec .watchPoll s = .next s))) ∧
  (∀ (s : State) (it : DoneItem) (w : WatchEntry), s.inp.load = .done it → it.status = 0xFF → (s.clus it.clus).asked.find? (fun w => w.op = it.op) = some w →
    ∃ t, exec .watchDone s = .next t ∧ (t.clus it.clus).polls = (s.clus it.clus).polls ++ [w] ∧
      Sched.event .watchPoll { clus := it.clus, id := w.id } ∈ t.pending ∧ s.sameMem t) ∧
  (∀ (s : State) (it : DoneItem) (blk p : Nat), s.inp.load = .done it → it.core < 128 → it.tag < 64 → memWf s.mem = true → blk % 32 = 0 → blk + 32 ≤ 0x8000 →
    let g := (s.core it.clus it.core).tag it.tag
    (s.clus it.clus).saved = [] → (s.ctx ⟨it.clus, it.core, g.ctx⟩).bast = none → g.st = .busy (.watch it.op blk p) → g.op = it.op →
    (it.status = 0 → ∃ t, exec .watchDone s = .next t ∧ ((t.core it.clus it.core).tag it.tag).st = .done ∧ ((t.core it.clus it.core).tag it.tag).err = 0 ∧
      Wrote s t 0 (corePa s.pkg it.clus it.core (blk + 0x10)) (dwordBytes it.value) ∧
      ((it.opkg ≠ s.pkg ∨ it.oclus ≠ it.clus) → it.stamp ≤ (t.clus it.clus).floor (it.opkg * 128 + it.oclus))) ∧
    (it.status ≠ 0 → it.status ≠ 0xFF → ∃ t, exec .watchDone s = .next t ∧ ((t.core it.clus it.core).tag it.tag).st = .done ∧
      ((t.core it.clus it.core).tag it.tag).err = it.status ∧ s.sameMem t ∧ (t.clus it.clus).floors = (s.clus it.clus).floors)) ∧
  (∀ (s : State) (g : Nat) (d : Reg), g < 64 → (s.ctx s.inp.pos).st = .blocked (.unwatch g d) → (s.ctx s.inp.pos).spop = [] → (s.ctx s.inp.pos).depth = 0 →
    let k := s.core s.inp.pos.clus s.inp.pos.core
    (∀ n b p, (k.tag g).st = .busy (.watch n b p) → s.watchStands n = true → s.pollOut n = false →
      ∃ t, exec .unwatchAnswer s = .next t ∧ ((t.core s.inp.pos.clus s.inp.pos.core).tag g).st = .free ∧ (t.ctx s.inp.pos).w = ((s.ctx s.inp.pos).setReg d 1).w ∧
        (t.ctx s.inp.pos).st = .ready ∧ (t.ctx s.inp.pos).pc = pcAdd (s.ctx s.inp.pos).pc 4 ∧ t.watchStands n = false) ∧
    ((k.tag g).st = .done → ∃ t, exec .unwatchAnswer s = .next t ∧ (t.core s.inp.pos.clus s.inp.pos.core).tag g = k.tag g ∧
      (t.ctx s.inp.pos).w = ((s.ctx s.inp.pos).setReg d 0).w ∧ (t.ctx s.inp.pos).st = .ready ∧ (t.ctx s.inp.pos).pc = pcAdd (s.ctx s.inp.pos).pc 4))

/-- R306 to R308. BAR and BARA arrive at a barrier word; the last arrival advances the generation and wakes its waiters. BAR waits for the generation after its arrival, and does not arrive
again where PEND names the word; BARW waits for another generation than its operand. A word with waiters of another team takes PERM and keeps its value. -/
def Obligations.Barriers : Prop :=
  ∀ (s : State) (i : Instr) (a : Reg) (pa : Nat) (x : TlbEntry), Direct s i → pa % 8 = 0 → teamCount s s.cur ≤ 512 →
    (i = .bar a ∨ (∃ d, i = .bara d a) ∨ (∃ b, i = .barw a b)) →
    Reaches (s.view i) .home (BitVec.ofNat 64 (val (s.seen i) a 2)) 8 .atomic pa x →
    let w := bytesVal (s.bytesAt pa x.key 8)
    let w' := arrived w (teamCount s s.cur)
    let ea := BitVec.ofNat 64 (val (s.seen i) a 2)
    let wakes := fun (t : State) => ∀ q k g, q.clus = s.cur.clus → (s.ctx q).stop = false →
      (s.ctx q).st = .blocked (.bar pa k g) ∨ (s.ctx q).st = .blocked (.barw pa k g) → (t.ctx q).st = .ready
    ((s.view i).barForeign pa = true → (i = .bar a → ∀ g, s.me.pend ≠ some (ea, g)) → CanTrap s → ∃ t, exec i s = .next t ∧ Traps s i 0x11 ea 0x20 s.me.pc t) ∧
    (∀ g, i = .bar a → s.me.pend = some (ea, g) →
      (w / 2 ^ 32 ≠ g.toNat → ∃ t, exec i s = .next t ∧ GoesOn s t (s.start i).me ∧ t.me.pend = none ∧ s.sameMem t) ∧
      (w / 2 ^ 32 = g.toNat → ∃ t, exec i s = .next t ∧ Waits s t i (.bar pa x.key g))) ∧
    ((s.view i).barForeign pa = false →
      (i = .bar a → (∀ g, s.me.pend ≠ some (ea, g)) → w' / 2 ^ 32 ≠ w / 2 ^ 32 →
        ∃ t, exec i s = .next t ∧ GoesOn s t (s.start i).me ∧ t.me.pend = none ∧ Wrote s t x.key pa (lowBytes 8 w') ∧ wakes t) ∧
      (i = .bar a → (∀ g, s.me.pend ≠ some (ea, g)) → w' / 2 ^ 32 = w / 2 ^ 32 →
        ∃ t, exec i s = .next t ∧ t.cur = s.cur ∧ t.me.st = .blocked (.bar pa x.key (BitVec.ofNat 32 (w / 2 ^ 32))) ∧ t.me.pc = s.me.pc ∧ t.me.w = (s.start i).me.w ∧
          t.me.pend = some (ea, BitVec.ofNat 32 (w / 2 ^ 32)) ∧ Wrote s t x.key pa (lowBytes 8 w')) ∧
      (∀ d, i = .bara d a → ∃ t, exec i s = .next t ∧ GoesOn s t (s.start i).me ∧ Wrote s t x.key pa (lowBytes 8 w') ∧ (w' / 2 ^ 32 ≠ w / 2 ^ 32 → wakes t) ∧
        t.me.unready = (s.start i).me.unready ++ [⟨d, 1, some [BitVec.ofNat 32 (w / 2 ^ 32)]⟩]) ∧
      (∀ b, i = .barw a b →
        (w / 2 ^ 32 ≠ val (s.seen i) b 1 → ∃ t, exec i s = .next t ∧ GoesOn s t (s.start i).me ∧ s.sameMem t) ∧
        (w / 2 ^ 32 = val (s.seen i) b 1 → ∃ t, exec i s = .next t ∧ Waits s t i (.barw pa x.key ((s.seen i).reg b)))))

/-- R313, R314, R124, R127 to R129. CONVOY: PERM with 0x31 to 0x34 for its operand; it waits for the others, and the last arrival forms the convoy under the lowest core of the
lowest address, every arrival going on behind its CONVOY. CJOIN waits for the other participants. Outside a convoy CJOIN and CLEAVE are NOPs; CLEAVE ends a context's participation. -/
def Obligations.Convoys : Prop :=
  (∀ (s : State) (m : Reg), s.Issues (.convoy m) →
    let i := Instr.convoy m
    let named := convoyNamed s.cur ((s.seen i).reg m)
    (CanTrap s →
      (named.length < 2 → ∃ t, exec i s = .next t ∧ Traps s i 0x11 0 0x31 s.me.pc t) ∧
      (2 ≤ named.length → s.cur ∉ named → ∃ t, exec i s = .next t ∧ Traps s i 0x11 0 0x32 s.me.pc t) ∧
      (2 ≤ named.length → s.cur ∈ named → (∃ q ∈ named, (s.ctx q).slot ≠ s.me.slot ∨ (s.ctx q).slot = none) → ∃ t, exec i s = .next t ∧ Traps s i 0x11 0 0x33 s.me.pc t) ∧
      (2 ≤ named.length → s.cur ∈ named → (∀ q ∈ named, (s.ctx q).slot = s.me.slot ∧ (s.ctx q).slot ≠ none) → (∃ q ∈ named, (s.ctx q).member = true) →
        ∃ t, exec i s = .next t ∧ Traps s i 0x11 0 0x34 s.me.pc t)) ∧
    (2 ≤ named.length → s.cur ∈ named → (∀ q ∈ named, (s.ctx q).slot = s.me.slot ∧ (s.ctx q).slot ≠ none ∧ (s.ctx q).member = false) → s.octets i = [] →
      ((∃ q ∈ named, q ≠ s.cur ∧ (s.ctx q).st ≠ .halted ∧ ¬ ((s.ctx q).st = .blocked .convoy ∧ (s.ctx q).convoyWait = some ((s.seen i).reg m &&& 0x3FF))) →
        ∃ t, exec i s = .next t ∧ Waits s t i .convoy) ∧
      (∀ l, l ∈ named → (∀ q ∈ named, q ≠ s.cur → (s.ctx q).st = .blocked .convoy ∧ (s.ctx q).convoyWait = some ((s.seen i).reg m &&& 0x3FF)) →
        (∀ q ∈ named, (s.ctx q).pc = s.me.pc) → (∀ q ∈ named, (s.ctx q).depth = 0 ∧ (s.ctx q).spop = []) → (∀ q ∈ named, l.core ≤ q.core) →
        ∃ t, exec i s = .next t ∧ (∀ q ∈ named, (t.ctx q).st = .ready ∧ (t.ctx q).pc = pcAdd s.me.pc 4) ∧
          (t.ctx l).convoy = some ⟨s.nextId, true, true, []⟩ ∧ (∀ q ∈ named, q ≠ l → (t.ctx q).convoy = some ⟨s.nextId, false, true, []⟩)))) ∧
  (∀ s : State, s.me.convoy = none →
    (s.Issues .cjoin → ∃ t, exec .cjoin s = .next t ∧ s.CompletesAs .cjoin (s.seen .cjoin) t) ∧
    (s.Issues .cleave → ∃ t, exec .cleave s = .next t ∧ s.CompletesAs .cleave (s.seen .cleave) t)) ∧
  (∀ (s : State) (v : Convoy), s.me.convoy = some v → v.id ≠ 0 →
    (s.Issues .cjoin → (∃ q, q ∈ s.participants s.cur v.id ∧ q ≠ s.cur ∧ (s.ctx q).st ≠ .halted ∧ (s.ctx q).st ≠ .blocked .cjoin) →
      ∃ t, exec .cjoin s = .next t ∧ Waits s t .cjoin .cjoin) ∧
    (s.Issues .cleave → s.me.depth = 0 → ∃ t, exec .cleave s = .next t ∧ t.me.convoy = none ∧ t.me.st = .ready ∧ t.me.pc = pcAdd s.me.pc 4 ∧ t.me.w = (s.start .cleave).me.w ∧
      (v.leader = true → v.inside = true → ∀ q, q ∈ s.participants s.cur v.id → (∀ y, (s.ctx q).convoy = some y → y.queue = []) → (t.ctx q).convoy = none) ∧ s.sameMem t))

/-- R309 to R311. SEND and SENDT release, then send: SEND waits for its answer, SENDT completes and its register waits. The dead-peer bit takes DEAD_PEER, an answer still awaited makes both wait.
RECV and RECVT take the oldest message addressed to the context; without one RECV waits and RECVT gives 0. R309, R311, R390. MSG at the router of this package: ACCEPT into the mailbox of a context of the sender's launch, FULL with 16 messages held, a SEND then listed, REFUSE otherwise. MSG_ANSWER, counted for its launch,
completes the SEND of its number, keeps it waiting, or takes PERM or DEAD_PEER; a SENDT gets 0 to 3. -/
def Obligations.Messages : Prop :=
  (∀ (s : State) (src dst d : Reg),
    let i := Instr.send src dst
    let j := Instr.sendt d src dst
    let msg := fun (k : Instr) (listed : Bool) => (⟨s.pkg, s.cur, s.nextId, s.me.lnch, listed, (s.seen k).reg dst, (s.seen k).group src 8⟩ : MsgItem)
    let counted := fun (t : State) => (t.clus s.cur.clus).outMsg s.nextId = some ⟨launchId s.me.lnch, s.pkg, s.cur⟩ ∧
      (Assoc.get ({} : Counters) (launchId s.me.lnch) (t.clus s.cur.clus).counters).miss = (Assoc.get ({} : Counters) (launchId s.me.lnch) (s.clus s.cur.clus).counters).miss + 1
    (s.Issues i → (s.me.ans ≠ none ∨ (s.view i).replaying s.cur = true) → ∃ t, exec i s = .next t ∧ Waits s t i .result) ∧
    (s.Issues i → s.me.ans = none → (s.view i).replaying s.cur = false → s.dead.getLsbD (val (s.seen i) dst 1 / 2 ^ 20) = true → CanTrap s →
      ∃ t, exec i s = .next t ∧ Traps s i 0x50 0 0 s.me.pc t) ∧
    (Direct s i → s.me.ans = none → s.dead.getLsbD (val (s.seen i) dst 1 / 2 ^ 20) = false → val (s.seen i) dst 1 / 2 ^ 20 = s.pkg →
      ∃ t, exec i s = .next t ∧ Waits s t i (.answer .send) ∧ t.me.ans = some (.send, 0) ∧ t.me.ansId = s.nextId ∧ counted t ∧ Sched.event .msg { load := .msg (msg i true) } ∈ t.pending) ∧
    (s.Issues j → s.me.ans = none → (s.view j).replaying s.cur = false → s.dead.getLsbD (val (s.seen j) dst 1 / 2 ^ 20) = true → CanTrap s →
      ∃ t, exec j s = .next t ∧ Traps s j 0x50 0 0 s.me.pc t) ∧
    (Direct s j → s.me.ans = none → s.dead.getLsbD (val (s.seen j) dst 1 / 2 ^ 20) = false → val (s.seen j) dst 1 / 2 ^ 20 = s.pkg →
      ∃ t, exec j s = .next t ∧ GoesOn s t (s.start j).me ∧ t.me.ans = some (.sendt, d) ∧ t.me.ansId = s.nextId ∧ counted t ∧ t.me.unready = (s.start j).me.unready ++ [⟨d, 1, none⟩] ∧
        Sched.event .msg { load := .msg (msg j false) } ∈ t.pending ∧ s.sameMem t)) ∧
  (∀ (s : State) (d r : Reg) (l1 l2 : List Msg) (m : Msg), (s.core s.cur.clus s.cur.core).mail = l1 ++ m :: l2 → (∀ x ∈ l1, x.ctx ≠ s.cur.ctx) → m.ctx = s.cur.ctx →
    m.body.length = 8 → (s.core s.cur.clus s.cur.core).senders = [] → (s.clus s.cur.clus).waitMsgs = [] →
    (s.Issues (.recv d) → (Instr.recv d).wf = true → ∃ t u, exec (.recv d) s = .next t ∧ s.Completes (.recv d) u (pcAdd s.me.pc 4) t ∧
      u.me = (s.seen (.recv d)).setGroup d m.body ∧ (u.core s.cur.clus s.cur.core).mail = l1 ++ l2 ∧ s.sameMem t) ∧
    (s.Issues (.recvt d r) → (Instr.recvt d r).wf = true → ∃ t u, exec (.recvt d r) s = .next t ∧ s.Completes (.recvt d r) u (pcAdd s.me.pc 4) t ∧
      u.me = ((s.seen (.recvt d r)).setGroup d m.body).setReg r 1 ∧ (u.core s.cur.clus s.cur.core).mail = l1 ++ l2 ∧ s.sameMem t)) ∧
  (∀ (s : State) (d r : Reg), (∀ x ∈ (s.core s.cur.clus s.cur.core).mail, x.ctx ≠ s.cur.ctx) →
    (s.Issues (.recv d) → ∃ t, exec (.recv d) s = .next t ∧ Waits s t (.recv d) .recv) ∧
    (s.Issues (.recvt d r) → ∃ t, exec (.recvt d r) s = .next t ∧ s.CompletesAs (.recvt d r) ((s.seen (.recvt d r)).setReg r 0) t)) ∧
  (∀ (s : State) (it : MsgItem), s.inp.load = .msg it → destPkg it.dest = s.pkg → it.opkg = s.pkg →
    let q := destPos it.dest
    let k := s.core q.clus q.core
    let answer := fun (a : MsgAns) => Sched.event .msgAnswer { pos := it.src, id := it.num, load := .msgAns a }
    ((s.ctx q).slot ≠ none → (s.ctx q).lnch = it.launch → k.mail.length < 16 →
      ∃ t, exec .msg s = .next t ∧ (t.core q.clus q.core).mail = k.mail ++ [⟨q.ctx, it.body⟩] ∧ t.pending = s.pending ++ [answer .accept] ∧
        ((s.ctx q).st = .blocked .recv → (t.ctx q).st = .ready) ∧ s.sameMem t) ∧
    ((s.ctx q).slot ≠ none → (s.ctx q).lnch = it.launch → 16 ≤ k.mail.length →
      ∃ t, exec .msg s = .next t ∧ (t.core q.clus q.core).mail = k.mail ∧ t.pending = s.pending ++ [answer .full] ∧
        (t.core q.clus q.core).senders = (if it.listed then k.senders ++ [it] else k.senders)) ∧
    (((s.ctx q).slot = none ∨ (s.ctx q).lnch ≠ it.launch) → (s.clus q.clus).saved = [] →
      ∃ t, exec .msg s = .next t ∧ t = { s with teams := t.teams, pending := s.pending ++ [answer .refuse] })) ∧
  (∀ (s : State) (a : MsgAns), s.inp.load = .msgAns a → s.inp.pos.ctx < 8 → (s.clus s.inp.pos.clus).saved = [] →
    (a ≠ .notify → (s.clus s.inp.pos.clus).outMsg s.inp.id ≠ none) →
    let p := s.inp.pos
    let c := s.ctx p
    (∀ o, a ≠ .notify → (s.clus p.clus).outMsg s.inp.id = some o → Assoc.has o.launch (s.clus p.clus).counters = true →
      ∃ t, exec .msgAnswer s = .next t ∧ (t.clus p.clus).outMsg s.inp.id = none ∧
        (Assoc.get ({} : Counters) o.launch (t.clus p.clus).counters).mans = (Assoc.get ({} : Counters) o.launch (s.clus p.clus).counters).mans + 1) ∧
    (c.ansId ≠ s.inp.id → ∃ t, exec .msgAnswer s = .next t ∧ t.ctxs = s.ctxs) ∧
    (c.ansId = s.inp.id →
    (∀ r, c.ans = some (.send, r) → c.st = .blocked (.answer .send) → c.spop = [] → c.depth = 0 →
      (a = .accept → ∃ t, exec .msgAnswer s = .next t ∧ (t.ctx p).st = .ready ∧ (t.ctx p).pc = pcAdd c.pc 4 ∧ (t.ctx p).w = c.w ∧ (t.ctx p).ans = none ∧
        (t.core p.clus p.core).accepted = (s.core p.clus p.core).accepted + 1) ∧
      (a = .full → ∃ t, exec .msgAnswer s = .next t ∧ (t.ctx p).st = .blocked (.answer .send) ∧ (t.ctx p).ans = some (.send, r) ∧ (t.ctx p).full = true ∧ (t.ctx p).pc = c.pc) ∧
      (a = .notify → c.full = true → c.stop = false → ∃ t, exec .msgAnswer s = .next t ∧ (t.ctx p).st = .ready ∧ (t.ctx p).ans = none ∧ (t.ctx p).pc = c.pc) ∧
      (a = .notify → c.full = false → exec .msgAnswer s = .next s) ∧
      (a = .refuse → c.basting = false → c.stop = false → c.last = false → c.intrap = false →
        ∃ t, exec .msgAnswer s = .next t ∧ (t.ctx p).xcause = 0x11 ∧ (t.ctx p).xinfo = 0x32 ∧ (t.ctx p).xpc = codeAddr c.pc ∧ (t.ctx p).pc = c.tvec) ∧
      (a = .dead → c.basting = false → c.stop = false → c.last = false → c.intrap = false →
        ∃ t, exec .msgAnswer s = .next t ∧ (t.ctx p).xcause = 0x50 ∧ (t.ctx p).xpc = codeAddr c.pc ∧ (t.ctx p).pc = c.tvec)) ∧
    (∀ r (v : Word), c.ans = some (.sendt, r) → (a = .accept ∧ v = 0 ∨ a = .full ∧ v = 1 ∨ a = .refuse ∧ v = 2 ∨ a = .dead ∧ v = 3) →
      ∃ t, exec .msgAnswer s = .next t ∧ (t.ctx p).w = (c.setReg r v).w ∧ (t.ctx p).ans = none ∧ (t.ctx p).pc = c.pc ∧
        (∀ u ∈ (t.ctx p).unready, u.dst = r → u.val ≠ none) ∧ (c.st = .blocked .result → c.stop = false → (t.ctx p).st = .ready))))

/-- R315. ENQ and ENQT check the record's address, release, and ask the front end with the 256 bytes of the record; ENQ waits for its status, ENQT completes and its register waits. ENQ_ANSWER:
status 0 completes an ENQ, 1 keeps it until the front end notifies (4), 2 and 3 take PERM with the status; the ENQT of the answer's number receives its status. -/
def Obligations.Enqueueing : Prop :=
  (∀ (s : State) (i : Instr) (src q : Reg) (d : Option Reg), (i = .enq src q ∧ d = none ∨ ∃ r, i = .enqt r src q ∧ d = some r) →
    let a := val (s.seen i) src 1
    let w := val (s.seen i) q 1
    (s.Issues i → (d = none ∧ s.me.ans ≠ none) ∨ (s.view i).replaying s.cur = true → ∃ t, exec i s = .next t ∧ Waits s t i .result) ∧
    (s.Issues i → (d = none → s.me.ans = none) → (s.view i).replaying s.cur = false → w < 2 ^ 31 → CanTrap s →
      (a % 64 ≠ 0 → ∃ t, exec i s = .next t ∧ Traps s i 0x10 (BitVec.ofNat 64 a) 0 s.me.pc t) ∧
      (a % 64 = 0 → 0x8000 < a + 256 → ∃ t, exec i s = .next t ∧ Traps s i 0x11 (BitVec.ofNat 64 a) 0x3F s.me.pc t)) ∧
    (Direct s i → (d = none → s.me.ans = none) → (2 ^ 31 ≤ w ∨ (a % 64 = 0 ∧ a + 256 ≤ 0x8000 ∧ (s.view i).blockPoison a 256 = false)) →
      (s.clus s.cur.clus).unfenced = [] → ∃ t, exec i s = .next t ∧ s.sameMem t ∧
        (let bytes := if 2 ^ 31 ≤ w then [] else s.bytesAt (corePa s.pkg s.cur.clus s.cur.core a) 0 256
         Sched.event .enqRequest { pos := s.cur, id := s.nextId, val := BitVec.ofNat 64 w, bytes := bytes, flag := d.isNone } ∈ t.pending) ∧
        (t.clus s.cur.clus).outMsg s.nextId = some ⟨launchId s.me.lnch, s.pkg, s.cur⟩ ∧
        (Assoc.get ({} : Counters) (launchId s.me.lnch) (t.clus s.cur.clus).counters).eiss = (Assoc.get ({} : Counters) (launchId s.me.lnch) (s.clus s.cur.clus).counters).eiss + 1 ∧
        (d = none → Waits s t i (.answer .enq) ∧ t.me.ans = some (.enq, 0) ∧ t.me.ansId = s.nextId) ∧
        (∀ r, d = some r → GoesOn s t (s.start i).me ∧ t.me.enqts = s.me.enqts ++ [(r, s.nextId)] ∧ t.me.ans = s.me.ans ∧ t.me.unready = (s.start i).me.unready ++ [⟨r, 1, none⟩]))) ∧
  (∀ s : State, s.inp.pos.ctx < 8 → (s.clus s.inp.pos.clus).saved = [] → s.inp.n ≤ 4 →
    (s.inp.n ≠ 4 → (s.clus s.inp.pos.clus).outMsg s.inp.id ≠ none) →
    let p := s.inp.pos
    let c := s.ctx p
    (∀ o, s.inp.n ≠ 4 → (s.clus p.clus).outMsg s.inp.id = some o → Assoc.has o.launch (s.clus p.clus).counters = true →
      ∃ t, exec .enqAnswer s = .next t ∧ (t.clus p.clus).outMsg s.inp.id = none ∧
        (Assoc.get ({} : Counters) o.launch (t.clus p.clus).counters).eans = (Assoc.get ({} : Counters) o.launch (s.clus p.clus).counters).eans + 1) ∧
    (∀ r, c.ans = some (.enq, r) → (s.inp.n ≠ 4 → c.ansId = s.inp.id ∧ ∀ e ∈ c.enqts, e.2 ≠ s.inp.id) → c.st = .blocked (.answer .enq) → c.spop = [] → c.depth = 0 →
      (s.inp.n = 0 → ∃ t, exec .enqAnswer s = .next t ∧ (t.ctx p).st = .ready ∧ (t.ctx p).pc = pcAdd c.pc 4 ∧ (t.ctx p).w = c.w ∧ (t.ctx p).ans = none) ∧
      (s.inp.n = 1 → ∃ t, exec .enqAnswer s = .next t ∧ (t.ctx p).st = .blocked (.answer .enq) ∧ (t.ctx p).ans = some (.enq, r) ∧ (t.ctx p).full = true ∧ (t.ctx p).pc = c.pc) ∧
      (s.inp.n = 4 → c.full = true → c.stop = false → ∃ t, exec .enqAnswer s = .next t ∧ (t.ctx p).st = .ready ∧ (t.ctx p).ans = none ∧ (t.ctx p).pc = c.pc) ∧
      (2 ≤ s.inp.n → s.inp.n < 4 → c.basting = false → c.stop = false → c.last = false → c.intrap = false →
        ∃ t, exec .enqAnswer s = .next t ∧ (t.ctx p).xcause = 0x11 ∧ (t.ctx p).xinfo = BitVec.ofNat 32 (0x30 + s.inp.n) ∧ (t.ctx p).xpc = codeAddr c.pc ∧ (t.ctx p).pc = c.tvec)) ∧
    (∀ r, (r, s.inp.id) ∈ c.enqts → (∀ e ∈ c.enqts, e.2 = s.inp.id → e.1 = r) → s.inp.n < 4 → ∃ t, exec .enqAnswer s = .next t ∧
      (t.ctx p).w = (c.setReg r (BitVec.ofNat 32 s.inp.n)).w ∧ (t.ctx p).enqts = c.enqts.filter (fun e => e.2 ≠ s.inp.id) ∧ (t.ctx p).pc = c.pc ∧
      (∀ u ∈ (t.ctx p).unready, u.dst = r → u.val ≠ none)))

namespace Sys2Proof.Claims

/-- Lane j of the b-byte lanes from octet o on (R247). -/
def lane (c : Ctx) (b : Nat) (o : Oct) (j : Nat) : Word :=
  BitVec.ofNat 32 (val c (BitVec.ofNat 6 (8 * o.toNat + j * b / 4)) 1 / 2 ^ (8 * (j * b % 4)) % 2 ^ (8 * b))

/-- An integer as a lane of a type, modulo 2^s (R252). -/
def toLane (t : Ty) (n : Int) : Word := BitVec.ofInt 32 (n % 2 ^ (8 * t.bytes))

/-- The generator after the steps of n enabled lanes from lane 0 on (R77, R248). -/
def seedAfter (mode : RMode) (mk : Word) : Nat → Word → Word
  | 0, x => x
  | n + 1, x =>
    let y := seedAfter mode mk n x
    if mode = .rsto ∧ mk.getLsbD n = true then xsStep y else y

/-- A lane instruction: destination octet, lane bytes, number of octets, mask, rounding code where it rounds, and the value of a lane from the
registers before, the mode, the lane's generator step and its index. -/
structure LaneOp where
  d : Oct
  b : Nat
  r : Nat
  m : MReg
  rc : Option Rc
  value : Ctx → RMode → Word → Nat → Conv

/-- Arithmetic of R252: integers wrap, floating values are rounded once. -/
def arithLane (t : Ty) (md : RMode) (st : Word) (n : Int) (l : List Fl) : Conv :=
  if t.isInt then .ok (toLane t n) else .ok (roundFl t md st false (flSum md l))

/-- x stands below y: by value, and -0 below +0 (R253). -/
def below (t : Ty) (x y : Word) : Bool :=
  (laneVal t x).lt (laneVal t y) || (!t.isInt && (laneVal t x).isZero && (laneVal t y).isZero && (laneVal t x).sign && !(laneVal t y).sign)

/-- VMAX and VMIN of R253. -/
def pick (t : Ty) (larger : Bool) (x y : Word) : Word :=
  if (laneVal t x).isNan || (laneVal t y).isNan then canonNan t else if below t x y = larger then y else x

/-- The lane instructions of R252 to R261 with a destination octet. -/
def laneOp : Instr → Option LaneOp
  | .vadd t r d a b m => some ⟨d, t.bytes, 1, m, if t.isInt then none else some r, fun c md st j =>
      let x := lane c t.bytes a j
      let y := lane c t.bytes b j
      arithLane t md st (laneInt t x + laneInt t y) [flOf t x, flOf t y]⟩
  | .vsub t r d a b m => some ⟨d, t.bytes, 1, m, if t.isInt then none else some r, fun c md st j =>
      let x := lane c t.bytes a j
      let y := lane c t.bytes b j
      arithLane t md st (laneInt t x - laneInt t y) [flOf t x, (flOf t y).neg]⟩
  | .vmul t r d a b m => some ⟨d, t.bytes, 1, m, if t.isInt then none else some r, fun c md st j =>
      let x := lane c t.bytes a j
      let y := lane c t.bytes b j
      arithLane t md st (laneInt t x * laneInt t y) [(flOf t x).mul (flOf t y)]⟩
  | .vfma t r d a b m => some ⟨d, t.bytes, 1, m, some r, fun c md st j =>
      arithLane t md st 0 [(flOf t (lane c t.bytes a j)).mul (flOf t (lane c t.bytes b j)), flOf t (lane c t.bytes d j)]⟩
  | .vfms t r d a b m => some ⟨d, t.bytes, 1, m, some r, fun c md st j =>
      arithLane t md st 0 [(flOf t (lane c t.bytes a j)).mul (flOf t (lane c t.bytes b j)), (flOf t (lane c t.bytes d j)).neg]⟩
  | .vfnma t r d a b m => some ⟨d, t.bytes, 1, m, some r, fun c md st j =>
      arithLane t md st 0 [((flOf t (lane c t.bytes a j)).mul (flOf t (lane c t.bytes b j))).neg, flOf t (lane c t.bytes d j)]⟩
  | .vmax t d a b m => some ⟨d, t.bytes, 1, m, none, fun c _ _ j => .ok (pick t true (lane c t.bytes a j) (lane c t.bytes b j))⟩
  | .vmin t d a b m => some ⟨d, t.bytes, 1, m, none, fun c _ _ j => .ok (pick t false (lane c t.bytes b j) (lane c t.bytes a j))⟩
  | .vabs t d a m => some ⟨d, t.bytes, 1, m, none, fun c _ _ j =>
      let x := lane c t.bytes a j
      .ok (if t.isInt then toLane t (laneInt t x).natAbs else if (flOf t x).isNan then canonNan t else BitVec.ofNat 32 (x.toNat % 2 ^ (8 * t.bytes - 1)))⟩
  | .vneg t d a m => some ⟨d, t.bytes, 1, m, none, fun c _ _ j =>
      let x := lane c t.bytes a j
      .ok (if t.isInt then toLane t (-(laneInt t x)) else if (flOf t x).isNan then canonNan t
        else if x.toNat < 2 ^ (8 * t.bytes - 1) then x + BitVec.ofNat 32 (2 ^ (8 * t.bytes - 1)) else x - BitVec.ofNat 32 (2 ^ (8 * t.bytes - 1)))⟩
  | .vdot t r d a b m => some ⟨d, 4, 1, m, if t.isInt then none else some r, fun c md st j =>
      let k := 4 / t.bytes
      let z := lane c 4 d j
      if t.isInt then
        .ok (BitVec.ofInt 32 (z.toInt + ((List.range k).map (fun n => laneInt t (lane c t.bytes a (k * j + n)) * laneInt t (lane c t.bytes b (k * j + n)))).sum))
      else
        .ok (roundFl .fp32 md st false (flSum md (flOf .fp32 z ::
          (List.range k).map (fun n => (flOf t (lane c t.bytes a (k * j + n))).mul (flOf t (lane c t.bytes b (k * j + n)))))))⟩
  | .vrcp t r d a m => some ⟨d, t.bytes, 1, m, some r, fun c md st j =>
      let v := flRcp (flOf t (lane c t.bytes a j))
      .ok (roundFl t md st v.2 v.1)⟩
  | .vrsq t r d a m => some ⟨d, t.bytes, 1, m, some r, fun c md st j =>
      let v := flRsq (flOf t (lane c t.bytes a j))
      .ok (roundFl t md st v.2 v.1)⟩
  | .vexp2 t r d a m => some ⟨d, t.bytes, 1, m, some r, fun c md st j =>
      let v := flExp2 (flOf t (lane c t.bytes a j))
      .ok (roundFl t md st v.2 v.1)⟩
  | .vcvt t st r d a m => some ⟨d, t.bytes, 1, m, if t.isInt && st.isInt then none else some r, fun c md x j =>
      convertFl t md x (laneVal st (lane c st.bytes a j))⟩
  | .vcvtw t st d a m => some ⟨d, t.bytes, t.bytes / st.bytes, m, none, fun c md x j => convertFl t md x (laneVal st (lane c st.bytes a j))⟩
  | .vcvtn t st r d a m => some ⟨d, t.bytes, 1, m, if t.isInt && st.isInt then none else some r, fun c md x j =>
      convertFl t md x (laneVal st (lane c st.bytes a j))⟩
  | .vdq t r d a m => some ⟨d, t.bytes, t.bytes, m, some r, fun c md x j =>
      convertFl t md x (ex4Value ((lane c 1 a (j / 2)).toNat / 16 ^ (j % 2) % 16) (lane c 1 a 16).toNat (lane c 1 a 17).toNat)⟩
  | .vsel t d a b m => some ⟨d, t.bytes, 1, 0, none, fun c _ _ j => .ok (if (c.mask m).getLsbD j then lane c t.bytes a j else lane c t.bytes b j)⟩
  | .vperm t d a b m => some ⟨d, t.bytes, 1, m, none, fun c _ _ j => .ok (lane c t.bytes a ((lane c t.bytes b j).toNat % (32 / t.bytes)))⟩
  | .vbcast t d a m => some ⟨d, t.bytes, 1, m, none, fun c _ _ _ => .ok (BitVec.ofNat 32 (val c a 1 % 2 ^ (8 * t.bytes)))⟩
  | .vins t d a n => some ⟨d, t.bytes, 1, 0, none, fun c _ _ j =>
      .ok (if j = n.toNat then BitVec.ofNat 32 (val c a 1 % 2 ^ (8 * t.bytes)) else lane c t.bytes d j)⟩
  | .viota t d m => some ⟨d, t.bytes, 1, m, none, fun _ _ _ j => .ok (if t.isInt then toLane t j else roundFl t .rne 0 false (.fin false j 0))⟩
  | _ => none

/-- What a lane instruction does: every enabled lane takes its value, saturated where it overflows and SATC is 1; every other lane and register
keeps its own; SEED takes the steps of the enabled lanes under RSTO. Where SATC is 0 the lowest overflowing lane takes CVT_OVERFLOW, and nothing
of the instruction happens (R81, R246, R248). -/
def LaneResult (s : State) (i : Instr) (o : LaneOp) : Prop :=
  let c := s.seen i
  let md := match o.rc with
    | some r => c.rmodeOf r
    | none => .rne
  let n := 32 * o.r / o.b
  let on := fun (j : Nat) => (c.mask o.m).getLsbD j
  let seed := fun (k : Nat) => seedAfter md (c.mask o.m) k c.seed
  let value := fun (j : Nat) => o.value c md (seed (j + 1)) j
  ((∀ j, j < n → on j = true → c.satc = true ∨ ∃ v, value j = .ok v) →
    ∃ t c', exec i s = .next t ∧ s.CompletesAs i c' t ∧ c' = { c with w := c'.w, seed := seed n } ∧
      (∀ j, j < n → lane c' o.b o.d j = if on j then (match value j with
        | .ok v => v
        | .over _ v => v) else lane c o.b o.d j) ∧
      (∀ r : Reg, r.toNat < 8 * o.d.toNat ∨ 8 * o.d.toNat + 8 * o.r ≤ r.toNat → c'.reg r = c.reg r)) ∧
  (∀ j sp v, j < n → on j = true → c.satc = false → value j = .over sp v → (∀ k, k < j → on k = true → ∃ w, value k = .ok w) → CanTrap s →
    ∃ t, exec i s = .next t ∧ Traps s i 0x30 0 (BitVec.ofNat 32 (j + if sp then 256 else 0)) s.me.pc t)

/-- The mask instructions of R264 and the comparison of R260: the mask written and its bits. -/
def maskRes (c : Ctx) : Instr → Option (MReg × (Nat → Bool))
  | .mand d a b => some (d, fun j => (c.mask a).getLsbD j && (c.mask b).getLsbD j)
  | .mor d a b => some (d, fun j => (c.mask a).getLsbD j || (c.mask b).getLsbD j)
  | .mxor d a b => some (d, fun j => (c.mask a).getLsbD j ^^ (c.mask b).getLsbD j)
  | .mnot d a => some (d, fun j => !(c.mask a).getLsbD j)
  | .vcmpCc cc t d a b m => some (d, fun j =>
      let x := laneVal t (lane c t.bytes a j)
      let y := laneVal t (lane c t.bytes b j)
      let num := !x.isNan && !y.isNan
      decide (j < 32 / t.bytes) && (c.mask m).getLsbD j && (match cc with
        | .eq => num && !x.lt y && !y.lt x
        | .ne => !(num && !x.lt y && !y.lt x)
        | .lt => num && x.lt y
        | .le => num && !y.lt x
        | .gt => num && y.lt x
        | .ge => num && !x.lt y
        | .un => !num))
  | _ => none

/-- The pairwise tree of R87: element k of level n. -/
def tree (f : Nat → Option Word) : Nat → Nat → Option Word
  | 0, k => f k
  | n + 1, k =>
    match tree f n (2 * k), tree f n (2 * k + 1) with
    | some x, some y => some (roundFl .fp32 .rne 0 false (flSum .rne [flOf .fp32 x, flOf .fp32 y]))
    | some x, none => some x
    | none, y => y

/-- A contribution of a lane sum, widened to FP32 and flushed (R87, R88). -/
def contribution (c : Ctx) (t : Ty) (a : Oct) (m : MReg) (j : Nat) : Option Word :=
  if (c.mask m).getLsbD j then
    let v := roundFl .fp32 .rne 0 false (flOf t (lane c t.bytes a j))
    some (if v.toNat / 2 ^ 23 % 256 = 0 then BitVec.ofNat 32 (v.toNat / 2 ^ 31 * 2 ^ 31) else v)
  else none

/-- VRED: source type, destination, source, mask, rounding code of a final conversion, and whether the result, a lane, is as R263 says. -/
def redForm (c : Ctx) : Instr → Option (Ty × Oct × Option Rc × (RMode → Word → Conv → Prop))
  | .vredSum t r d a m =>
    let n := 32 / t.bytes
    if t = .int32 then
      some (t, d, none, fun _ _ v => v = .ok (BitVec.ofInt 32 (((List.range n).filter (fun j => (c.mask m).getLsbD j)).map (fun j => (lane c 4 a j).toInt)).sum))
    else
      let x := (tree (contribution c t a m) (Nat.log2 n) 0).getD 0
      if t = .fp32 then some (t, d, none, fun _ _ v => v = .ok (roundFl .fp32 .rne 0 false (flOf .fp32 x)))
      else some (t, d, some r, fun md st v => v = convertFl t md st (flOf .fp32 x))
  | .vredMax t d a m => some (t, d, none, fun _ _ v => ∃ w, v = .ok w ∧ best c t true a m w)
  | .vredMin t d a m => some (t, d, none, fun _ _ v => ∃ w, v = .ok w ∧ best c t false a m w)
  | _ => none
where
  /-- The largest or smallest enabled lane (R263). -/
  best (c : Ctx) (t : Ty) (larger : Bool) (a : Oct) (m : MReg) (w : Word) : Prop :=
    let on := fun (j : Nat) => j < 32 / t.bytes ∧ (c.mask m).getLsbD j = true
    let isNan := fun (j : Nat) => (laneVal t (lane c t.bytes a j)).isNan = true
    ((∃ j, on j ∧ isNan j) → w = canonNan t) ∧
    ((∃ j, on j) → (∀ j, on j → ¬ isNan j) → (∃ j, on j ∧ w = lane c t.bytes a j) ∧
      ∀ j, on j → (if larger then below t w (lane c t.bytes a j) else below t (lane c t.bytes a j) w) = false) ∧
    ((∀ j, ¬ on j) → w = if t.isInt then toLane t (if larger then (intRange t).1 else (intRange t).2) else infOf t larger)

/-- The lookup of R268 in a table of value and slope pairs. -/
def lookup (x0 rh : Word) (vs : List (Word × Word)) (x : Word) : Word :=
  let rn := fun (l : List Fl) => roundFl .fp32 .rne 0 false (flSum .rne l)
  let u := rn [(flOf .fp32 (rn [flOf .fp32 x, (flOf .fp32 x0).neg])).mul (flOf .fp32 rh)]
  if (flOf .fp32 x).isNan || (flOf .fp32 u).isNan then canonNan .fp32
  else
    let i := match flOf .fp32 u with
      | .fin false m e => min 255 (m * 2 ^ e.toNat / 2 ^ (-e).toNat)
      | .inf false => 255
      | _ => 0
    rn [flOf .fp32 (vs.getD i (0, 0)).1, (flOf .fp32 (vs.getD i (0, 0)).2).mul (flOf .fp32 (rn [flOf .fp32 u, (flInt i).neg]))]

/-- A 4-byte word of the current core's store. -/
def coreWord (s : State) (o : Nat) : Word := BitVec.ofNat 32 (bytesVal (s.bytesAt (corePa s.pkg s.cur.clus s.cur.core o) 0 4))

/-- The first offset of a table image at an address whose word breaks R266, if any. -/
def imageFault (s : State) (addr : Nat) : Option Nat :=
  if addr % 32 ≠ 0 ∨ 0x8000 < addr + 2080 then some 0
  else if (flOf .fp32 (coreWord s addr)).special then some 0
  else if (flOf .fp32 (coreWord s (addr + 4))).special || (flOf .fp32 (coreWord s (addr + 4))).isZero || (flOf .fp32 (coreWord s (addr + 4))).sign then some 4
  else [8, 12, 16, 20, 24, 28].find? (fun o => coreWord s (addr + o) ≠ 0)

/-- R69. Of a floating format: its fraction bits, the exponent of its smallest subnormal, and its largest finite value as a number times a power of two. -/
def formatOf : Ty → Option (Nat × Int × Nat × Int)
  | .fp32 => some (23, -149, 2 ^ 24 - 1, 104)
  | .bf16 => some (7, -133, 255, 120)
  | .fp16 => some (10, -24, 2047, 5)
  | .e4m3 => some (3, -9, 14, 5)
  | .e5m2 => some (2, -16, 7, 13)
  | .int8 => none
  | .uint8 => none
  | .int32 => none
  | .ex4 => none
  | .ue8 => none

/-- y is the rounding of u by a mode and a generator step onto the numbers that G holds of, those of even last place being the even ones (R76, R77). -/
def Rounds (G even : Int → Prop) (mode : RMode) (step : Word) (u y : Int) : Prop :=
  G y ∧ (G u → y = u) ∧ (0 ≤ u → 0 ≤ y) ∧ (u ≤ 0 → y ≤ 0) ∧
  (mode = .rdn → y ≤ u ∧ ∀ g, G g → g ≤ u → g ≤ y) ∧
  (mode = .rup → u ≤ y ∧ ∀ g, G g → u ≤ g → y ≤ g) ∧
  (mode = .rtz → y.natAbs ≤ u.natAbs ∧ ∀ g, G g → g.natAbs ≤ u.natAbs → g.natAbs ≤ y.natAbs) ∧
  (mode = .rne → ∀ g, G g → (y - u).natAbs ≤ (g - u).natAbs ∧ ((y - u).natAbs = (g - u).natAbs → g ≠ y → even y)) ∧
  (mode = .rsto → ∃ a b : Nat, a ≤ u.natAbs ∧ u.natAbs < b ∧ G a ∧ G b ∧ (∀ g : Nat, G g → g ≤ a ∨ b ≤ g) ∧
    y.natAbs = if step.toNat / 2 ^ 8 < (u.natAbs - a) * 2 ^ 24 / (b - a) then b else a)

/-- A value of a floating format, its exponent unbounded above, with f fraction bits and 2^k0 the smallest step. -/
def onGrid (f k0 : Nat) (g : Int) : Prop := ∃ n k : Nat, n < 2 ^ (f + 1) ∧ k0 ≤ k ∧ g.natAbs = n * 2 ^ k

/-- Such a value whose least significant fraction bit is 0. -/
def evenGrid (f k0 : Nat) (g : Int) : Prop := ∃ n k : Nat, n < 2 ^ (f + 1) ∧ n % 2 = 0 ∧ (k = k0 ∧ n < 2 ^ f ∨ k0 ≤ k ∧ 2 ^ f ≤ n) ∧ g.natAbs = n * 2 ^ k

/-- An encoding stands for a finite value with a sign, in units of 2^q. -/
def Encodes (t : Ty) (q : Int) (w : Word) (neg : Bool) (y : Int) : Prop :=
  (flOf t w).special = false ∧ (flOf t w).sign = neg ∧ (flOf t w).units q = y ∧ w.toNat < 2 ^ (8 * t.bytes)

end Sys2Proof.Claims

/-- R76, R77, R79, R80. Arithmetic rounds an exact value to FP32, BF16 or FP16 by round_fmt, subnormals kept and the exponent unbounded above; a result beyond the largest finite
value is an infinity under RNE, RSTO and away from zero, and the largest finite value of its sign otherwise. A conversion to a floating format or an integer rounds the same way; beyond the destination's
range, at a NaN or at an infinity it has the row of R80's table, with the saturated result of SATC. -/
def Obligations.Rounding : Prop :=
  ∀ (mode : RMode) (step : Word) (neg : Bool) (m : Nat) (e : Int),
    let q := min e (-300)
    let v := Fl.fin neg m e
    let u := v.units q
    (∀ (t : Ty) (f : Nat) (low : Int) (big : Nat) (at_ : Int), formatOf t = some (f, low, big, at_) →
      let top : Int := big * 2 ^ (at_ - q).toNat
      ∃ y : Int, Rounds (onGrid f (low - q).toNat) (evenGrid f (low - q).toNat) mode step u y ∧
        (t = .fp32 ∨ t = .bf16 ∨ t = .fp16 →
          let r := roundFl t mode step false v
          (y.natAbs ≤ top → Encodes t q r neg y) ∧
          (top < y.natAbs → mode = .rne ∨ mode = .rsto ∨ (mode = .rup ∧ neg = false) ∨ (mode = .rdn ∧ neg = true) → flOf t r = .inf neg) ∧
          (top < y.natAbs → mode = .rtz ∨ (mode = .rup ∧ neg = true) ∨ (mode = .rdn ∧ neg = false) → Encodes t q r neg (if neg then -top else top))) ∧
        (y.natAbs ≤ top → ∃ w, convertFl t mode step v = .ok w ∧ Encodes t q w neg y) ∧
        (top < y.natAbs → ∃ w, convertFl t mode step v = .over false w ∧ Encodes t q w neg (if neg then -top else top)) ∧
        (convertFl t mode step .nan = .ok (canonNan t)) ∧
        (t ≠ .e4m3 → ∃ w, convertFl t mode step (.inf neg) = .ok w ∧ flOf t w = .inf neg) ∧
        (t = .e4m3 → ∃ w, convertFl t mode step (.inf neg) = .over true w ∧ Encodes t q w neg (if neg then -top else top))) ∧
    (∀ (t : Ty) (lo hi : Int), t = .int8 ∧ lo = -128 ∧ hi = 127 ∨ t = .uint8 ∧ lo = 0 ∧ hi = 255 ∨ t = .int32 ∧ lo = -2147483648 ∧ hi = 2147483647 →
      ∃ n : Int, Rounds (fun g => g % 2 ^ (-q).toNat = 0) (fun g => g % 2 ^ (1 + (-q).toNat) = 0) mode step u (n * 2 ^ (-q).toNat) ∧
        (lo ≤ n → n ≤ hi → convertFl t mode step v = .ok (toLane t n)) ∧
        (n < lo → convertFl t mode step v = .over false (toLane t lo)) ∧
        (hi < n → convertFl t mode step v = .over false (toLane t hi)) ∧
        convertFl t mode step .nan = .over true 0 ∧
        convertFl t mode step (.inf neg) = .over true (toLane t (if neg then lo else hi)))

/-- R246 to R248, R252 to R261. The lane instructions with a destination octet: arithmetic, functions, conversions, selections and moves. -/
def Obligations.LaneInstructions : Prop :=
  ∀ (s : State) (i : Instr) (o : LaneOp), s.Issues i → i.wf = true → laneOp i = some o → LaneResult s i o

/-- R260, R261, R263, R264, R87, R88. VCMP and the mask instructions write one mask whole; MPOP counts a mask and VEXT takes a lane; VRED writes lane 0 of its destination. -/
def Obligations.MasksAndReductions : Prop :=
  (∀ (s : State) (i : Instr) (d : MReg) (f : Nat → Bool), s.Issues i → i.wf = true → maskRes (s.seen i) i = some (d, f) →
    ∃ t c', exec i s = .next t ∧ s.CompletesAs i c' t ∧ c' = { s.seen i with m := c'.m } ∧ (∀ j, j < 32 → (c'.mask d).getLsbD j = f j) ∧
      ∀ k, k ≠ d → c'.mask k = (s.seen i).mask k) ∧
  (∀ (s : State) (d : Reg) (a : MReg), s.Issues (.mpop d a) →
    Gives (.mpop d a) d 1 ((List.range 32).filter (fun j => ((s.seen (.mpop d a)).mask a).getLsbD j)).length s) ∧
  (∀ (s : State) (t : Ty) (d : Reg) (a : Oct) (n : BitVec 5), s.Issues (.vext t d a n) → (Instr.vext t d a n).wf = true →
    Gives (.vext t d a n) d 1 (if t = .int8 then laneInt .int8 (lane (s.seen (.vext t d a n)) 1 a n.toNat) else (lane (s.seen (.vext t d a n)) t.bytes a n.toNat).toNat) s) ∧
  (∀ (s : State) (i : Instr) (t : Ty) (d : Oct) (rc : Option Rc) (p : RMode → Word → Conv → Prop), s.Issues i → i.wf = true → redForm (s.seen i) i = some (t, d, rc, p) →
    let c := s.seen i
    let md := match rc with
      | some r => c.rmodeOf r
      | none => .rne
    let seed := if md = .rsto then xsStep c.seed else c.seed
    ∃ v, p md seed v ∧
      (∀ w, (v = .ok w ∨ ∃ sp, v = .over sp w ∧ c.satc = true) → ∃ u c', exec i s = .next u ∧ s.CompletesAs i c' u ∧ c' = { c with w := c'.w, seed := seed } ∧
        lane c' t.bytes d 0 = w ∧ (∀ j, 0 < j → j < 32 / t.bytes → lane c' t.bytes d j = lane c t.bytes d j) ∧
        (∀ r : Reg, r.toNat < 8 * d.toNat ∨ 8 * d.toNat + 8 ≤ r.toNat → c'.reg r = c.reg r)) ∧
      (∀ sp w, v = .over sp w → c.satc = false → CanTrap s → ∃ u, exec i s = .next u ∧ Traps s i 0x30 0 (if sp then 256 else 0) s.me.pc u))

/-- R258, R86, R265 to R269. VQNT writes the block the quantiser chooses, or takes CVT_OVERFLOW. VTBL looks each enabled lane up in the slot its team holds; CAP_DENIED where it does
not, a wait while the slot is being loaded. VTBLD checks the image, then the holder, takes the slot and waits; VTBLD_DONE puts the new table in whole and the context goes on. -/
def Obligations.QuantiserAndTables : Prop :=
  (∀ (s : State) (st : Ty) (d a : Oct), s.Issues (.vqnt st d a) → (Instr.vqnt st d a).wf = true →
    let i := Instr.vqnt st d a
    let x := fun (j : Nat) => flOf st (lane (s.seen i) st.bytes a j)
    ((∀ j, j < 32 → (x j).special = false) →
      let b := quantise ((List.range 32).map x)
      ∃ t c', exec i s = .next t ∧ s.CompletesAs i c' t ∧ c' = { s.seen i with w := c'.w } ∧
        (∀ k, k < 16 → (lane c' 1 d k).toNat = (b.2.2.getD (2 * k) 0) % 16 + (b.2.2.getD (2 * k + 1) 0) % 16 * 16) ∧
        (lane c' 1 d 16).toNat = b.1 ∧ (lane c' 1 d 17).toNat = b.2.1 ∧ (∀ k, 18 ≤ k → k < 32 → lane c' 1 d k = 0) ∧
        (∀ r : Reg, r.toNat < 8 * d.toNat ∨ 8 * d.toNat + 8 ≤ r.toNat → c'.reg r = (s.seen i).reg r)) ∧
    (∀ j, j < 32 → (x j).special = true → (∀ k, k < j → (x k).special = false) → CanTrap s →
      ∃ t, exec i s = .next t ∧ Traps s i 0x30 0 (BitVec.ofNat 32 (j + 256)) s.me.pc t)) ∧
  (∀ (s : State) (t : Ty) (r : Rc) (d a : Oct) (k : BitVec 2) (m : MReg), s.Issues (.vtbl t r d a k m) → (Instr.vtbl t r d a k m).wf = true →
    let i := Instr.vtbl t r d a k m
    let slot := (s.tile s.cur.clus (s.cur.core / 8)).table k.toNat
    (slot.holder ≠ some s.me.slot → CanTrap s → ∃ u, exec i s = .next u ∧ Traps s i 0x22 0 (BitVec.ofNat 32 k.toNat) s.me.pc u) ∧
    (slot.holder = some s.me.slot → slot.loading ≠ 0 → ∃ u, exec i s = .next u ∧ Waits s u i .resource) ∧
    (slot.holder = some s.me.slot → slot.loading = 0 →
      LaneResult s i ⟨d, t.bytes, 1, m, if t = .fp32 then none else some r, fun c md st j =>
        let v := lookup slot.x0 slot.rh slot.vs (roundFl .fp32 .rne 0 false (flOf t (lane c t.bytes a j)))
        if t = .fp32 then .ok v else convertFl t md st (flOf .fp32 v)⟩)) ∧
  (∀ (s : State) (k : BitVec 2) (a : Reg), s.Issues (.vtbld k a) → (s.clus s.cur.clus).unfenced = [] →
    let i := Instr.vtbld k a
    let addr := val (s.seen i) a 1
    let slot := (s.tile s.cur.clus (s.cur.core / 8)).table k.toNat
    (∀ j, j < 33 → s.poison.contains (corePa s.pkg s.cur.clus s.cur.core addr / 64 + j) = false) →
    (∀ o, imageFault s addr = some o → CanTrap s → ∃ t, exec i s = .next t ∧ Traps s i 0x21 (BitVec.ofNat 64 addr) (BitVec.ofNat 32 o) s.me.pc t) ∧
    (imageFault s addr = none →
      (slot.holder ≠ none → slot.holder ≠ some s.me.slot → CanTrap s → ∃ t, exec i s = .next t ∧ Traps s i 0x22 0 (BitVec.ofNat 32 k.toNat) s.me.pc t) ∧
      (slot.holder = none ∨ slot.holder = some s.me.slot →
        ∃ t l, exec i s = .next t ∧ Waits s t i (.table k.toNat l) ∧ l = s.bytesAt (corePa s.pkg s.cur.clus s.cur.core addr) 0 2080 ∧
          Sched.event .vtbldDone { pos := s.cur } ∈ t.pending ∧
          (t.tile s.cur.clus (s.cur.core / 8)).table k.toNat = { slot with holder := some s.me.slot, loading := slot.loading + 1 }))) ∧
  (∀ (s : State) (k : Nat) (l : List Byte), (s.ctx s.inp.pos).st = .blocked (.table k l) → k < 4 → (s.ctx s.inp.pos).depth = 0 → (s.ctx s.inp.pos).spop = [] →
    let w := fun (o : Nat) => BitVec.ofNat 32 (bytesVal ((l.drop o).take 4))
    ∃ t, exec .vtbldDone s = .next t ∧ (t.ctx s.inp.pos).st = .ready ∧ (t.ctx s.inp.pos).pc = pcAdd (s.ctx s.inp.pos).pc 4 ∧ (t.ctx s.inp.pos).w = (s.ctx s.inp.pos).w ∧
      let x := (t.tile s.inp.pos.clus (s.inp.pos.core / 8)).table k
      x.x0 = w 0 ∧ x.rh = w 4 ∧ x.vs.length = 256 ∧ (∀ j, j < 256 → x.vs.getD j (0, 0) = (w (0x20 + 8 * j), w (0x24 + 8 * j))) ∧
      x.holder = ((s.tile s.inp.pos.clus (s.inp.pos.core / 8)).table k).holder ∧ s.sameMem t)

namespace Sys2Proof.Claims

/-- The limit of power-up phase n in cycles of 2.1 GHz (R12): 50 ms, 2 ms, 400 ms, 1.5 s. -/
def limitOf (n : Nat) : Nat := [0, 105000000, 4200000, 840000000, 3150000000].getD n 0

/-- STATE and BOOTSTAT of DEV_STATE (R23). -/
def devStatus (s : State) : Nat × Nat := (s.boot.devState.toNat % 256, s.boot.devState.toNat / 256 % 256)

/-- A byte the engines of the management side may read (R14, R15, R17): SRAM, a flash slot, and for EXTEND the last digest. -/
def mgmtByte (b : Boot) (digest : Bool) (a : Nat) : Option Byte :=
  if 0x10000000 ≤ a ∧ a < 0x10080000 then some (memGet b.sram (a - 0x10000000))
  else if 0x40000000 ≤ a ∧ a < 0x41000000 then some (memGet b.flashA (a - 0x40000000))
  else if 0x41000000 ≤ a ∧ a < 0x42000000 then some (memGet b.flashB (a - 0x41000000))
  else if digest = true ∧ 0x20000040 ≤ a ∧ a < 0x20000070 then b.ceDigest[a - 0x20000040]?
  else none

/-- l are the n bytes from a on. -/
def MgmtBytes (b : Boot) (digest : Bool) (a n : Nat) (l : List Byte) : Prop :=
  l.length = n ∧ ∀ k, k < n → mgmtByte b digest (a + k) = l[k]?

/-- Some of the n bytes from a on is not there. -/
def MgmtHole (b : Boot) (digest : Bool) (a n : Nat) : Prop := ∃ k, k < n ∧ mgmtByte b digest (a + k) = none

/-- A status: DONE, PASS, ERR, no command running. -/
def ended (pass err : Bool) : MgmtStat := { done := true, pass := pass, err := err, run := none }

/-- The running phase has exceeded its limit (R12). -/
def Late (s : State) : Prop := ∃ b, s.boot.began = some b ∧ limitOf s.boot.phase < (s.clk - b).toNat

/-- A little-endian number of a flash slot. -/
def flashNat (m : List Host.Cell) (a n : Nat) : Nat := bytesVal ((List.range n).map (fun k => memGet m (a + k)))

/-- The image header at offset 0x1000 of a flash slot passes the checks of R20. -/
def GoodHeader (m : List Host.Cell) (svn : Nat) : Prop :=
  flashNat m 0x1000 4 = 0x57463947 ∧ flashNat m 0x1004 4 = 1 ∧ svn ≤ flashNat m 0x1008 4 ∧
    flashNat m 0x100C 4 ≠ 0 ∧ flashNat m 0x100C 4 % 8 = 0 ∧ flashNat m 0x100C 4 ≤ 0x6FFC0

/-- The boot program hashes the header and body of a slot, which it has copied to SRAM (R20). -/
def Hashing (s t : State) (m : List Host.Cell) (second : Bool) : Prop :=
  t.boot.rom = .hash ∧ t.boot.romB = second ∧ t.boot.ce.run = some ⟨1, 0x10000000, 64 + flashNat m 0x100C 4, s.boot.ceSig.toNat⟩ ∧
    ∀ a, a < 64 + flashNat m 0x100C 4 → memGet t.boot.sram a = memGet m (0x1000 + a)

/-- The firmware has the core (R20): it, and no longer the boot program, makes the accesses. -/
def Runs (s : State) : Prop := s.boot.rom = .firmware

end Sys2Proof.Claims

/-- R12, R19 to R21, R24 to R26. Power-up: the phases, their limits, the boot program's search for an image, slot A before slot B, the steps of DEV_STATE.STATE and no others, what READY
leaves, what a write of BOOT_STAT does, when configuration requests are answered, and the loss of power. That READY loads the plans of the fabric is the model's choice (log entry 45). -/
def Obligations.PowerUp : Prop :=
  (∀ s : State, s.boot.phase = 1 → s.boot.powered = false → s.boot.dev = .rom →
    (¬ Late s → ∃ t, exec .powerGood s = .next t ∧ t = { s with boot := t.boot, pending := t.pending } ∧ t.boot.powered = true ∧ t.boot.phase = 2 ∧ devStatus t = (1, 1) ∧
      t.boot.meas = s.boot.meas ∧ Sched.event .romMeasured {} ∈ t.pending) ∧
    (Late s → ∃ t, exec .powerGood s = .next t ∧ devStatus t = (0xFF, 0xF1))) ∧
  (∀ s : State, s.boot.phase = 2 → s.boot.powered = true → s.boot.dev = .rom → s.boot.meas.length = 16 → s.boot.timedOut = false → s.boot.ce.run = none →
    memWf s.boot.sram = true → memWf s.boot.flashA = true → memWf s.boot.flashB = true →
    (Late s → ∃ t, exec .romMeasured s = .next t ∧ devStatus t = (0xFF, 0xF2)) ∧
    (¬ Late s → ∃ t, exec .romMeasured s = .next t ∧ t = { s with boot := t.boot, pending := t.pending } ∧ t.boot.phase = 3 ∧ t.boot.released = true ∧
      t.boot.meas = sha384 (s.boot.meas.getD 0 [] ++ sha384 Config.bootRom) :: s.boot.meas.tail ∧
      (GoodHeader s.boot.flashA s.boot.svn.toNat → Hashing s t s.boot.flashA false ∧ devStatus t = (1, 1)) ∧
      (¬ GoodHeader s.boot.flashA s.boot.svn.toNat → GoodHeader s.boot.flashB s.boot.svn.toNat → Hashing s t s.boot.flashB true ∧ devStatus t = (1, 0xE1)) ∧
      (¬ GoodHeader s.boot.flashA s.boot.svn.toNat → ¬ GoodHeader s.boot.flashB s.boot.svn.toNat → t.boot.rom = .halted ∧ devStatus t = (0xFF, 0xEF)))) ∧
  (∀ (s : State) (c : MgmtCmd) (l : List Byte), s.boot.ce.run = some c → s.boot.timedOut = false → s.boot.dev = .rom → ¬ Late s →
    (s.boot.rom = .ecdsa → c.code = 2 → MgmtBytes s.boot false c.sig 96 l → ecdsaFormed l = true →
      (ecdsaVerify Config.ecdsaKey s.boot.ceDigest l = true → ∃ t, exec .ceCommandDone s = .next t ∧ t.boot.rom = .lms ∧
        t.boot.ce.run = some ⟨3, s.boot.ceSrc.toNat, s.boot.ceLen.toNat, (if s.boot.romB = true then 0x41000100 else 0x40000100)⟩) ∧
      (ecdsaVerify Config.ecdsaKey s.boot.ceDigest l = false → s.boot.romB = true →
        ∃ t, exec .ceCommandDone s = .next t ∧ t.boot.rom = .halted ∧ devStatus t = (0xFF, 0xEF))) ∧
    (s.boot.rom = .lms → c.code = 3 → MgmtBytes s.boot false c.sig 2672 l → l.take 4 = [0, 0, 0, 0] → lmsFormed (l.drop 4) = true →
      (lmsVerify Config.lmsKey s.boot.ceDigest (l.drop 4) = true → s.boot.me.run = none → ∃ t, exec .ceCommandDone s = .next t ∧ t.boot.rom = .extend ∧
        t.boot.me.run = some ⟨1, 0x20000040, 1, 0⟩) ∧
      (lmsVerify Config.lmsKey s.boot.ceDigest (l.drop 4) = false → s.boot.romB = true →
        ∃ t, exec .ceCommandDone s = .next t ∧ t.boot.rom = .halted ∧ devStatus t = (0xFF, 0xEF)))) ∧
  (∀ (s : State) (c : MgmtCmd) (l : List Byte), s.boot.rom = .extend → s.boot.me.run = some c → c.code = 1 → c.len = 1 → s.boot.timedOut = false → s.boot.dev = .rom →
    s.boot.rxv = false → MgmtBytes s.boot true c.src 48 l →
    (Late s → s.boot.phase = 3 → ∃ t, exec .meCommandDone s = .next t ∧ devStatus t = (0xFF, 0xF3)) ∧
    (¬ Late s → ∃ t, exec .meCommandDone s = .next t ∧ t.boot.meas = s.boot.meas.set 1 (sha384 (s.boot.meas.getD 1 [] ++ l)) ∧ t.boot.rom = .jump ∧
      devStatus t = (1, if s.boot.romB = true then 3 else 2) ∧ Sched.event .firstSramFetch {} ∈ t.pending)) ∧
  (∀ (s : State) (n : Nat) (b : DWord), s.boot.phase = n → 1 ≤ n → n ≤ 4 → s.boot.began = some b → s.boot.dev ≠ .failed →
    (limitOf n < (s.clk - b).toNat → ∃ t, exec .phaseTimeout s = .next t ∧ t = { s with boot := t.boot } ∧ devStatus t = (0xFF, 0xF0 + n) ∧
      ∀ u : State, u.boot = t.boot → exec .bootStatWrite u = .next u ∧ exec .fuStateWrite u = .next u) ∧
    ((s.clk - b).toNat ≤ limitOf n → exec .phaseTimeout s = .next s)) ∧
  (∀ s : State, s.boot.rom = .jump → s.boot.dev = .rom → s.boot.phase = 3 →
    (¬ Late s → ∃ t, exec .firstSramFetch s = .next t ∧ t = { s with boot := t.boot } ∧ (devStatus t).1 = 2 ∧ t.boot.began = none ∧ Runs t) ∧
    (Late s → ∃ t, exec .firstSramFetch s = .next t ∧ devStatus t = (0xFF, 0xF3))) ∧
  (∀ s : State, s.boot.rom ≠ .jump → exec .firstSramFetch s = .next s) ∧
  (∀ s : State, Runs s →
    (s.boot.dev = .firmware → s.inp.val = 3 → ∃ t, exec .fuStateWrite s = .next t ∧ t = { s with boot := t.boot } ∧ (devStatus t).1 = 3 ∧ t.boot.phase = 4) ∧
    (s.boot.dev = .localInit → s.boot.phase = 4 → Late s → ∃ t, exec .fuStateWrite s = .next t ∧ devStatus t = (0xFF, 0xF4)) ∧
    (s.boot.dev = .localInit → s.boot.phase = 4 → ¬ Late s → s.inp.val = 4 → ∃ t, exec .fuStateWrite s = .next t ∧ (devStatus t).1 = 4 ∧ t.queues = [] ∧ t.launches = [] ∧
      t.keySlots = [] ∧ t.sealedSlots = [] ∧ t.mem = [] ∧ t.poison = [] ∧ (∀ p, t.dead.getLsbD p = decide (p < 4096 ∧ p ≠ s.pkg)) ∧
      (∀ e ∈ t.clusters, e.2.rroot = Vector.replicate 16 0 ∧ e.2.hroot = Vector.replicate 16 0 ∧ e.2.pub = 0 ∧ e.2.keyBits = 0)) ∧
    (s.boot.dev = .firmware ∨ (s.boot.dev = .localInit ∧ s.boot.phase = 4 ∧ ¬ Late s) → s.inp.val = 0xFF →
      ∃ t, exec .fuStateWrite s = .next t ∧ t = { s with boot := t.boot } ∧ (devStatus t).1 = 0xFF) ∧
    (¬ (s.boot.dev = .firmware ∧ (s.inp.val = 3 ∨ s.inp.val = 0xFF)) → ¬ (s.boot.dev = .localInit ∧ (s.inp.val = 4 ∨ s.inp.val = 0xFF ∨ Late s)) →
      exec .fuStateWrite s = .next s)) ∧
  (∀ s : State, Runs s → s.boot.timedOut = false → Late s → 1 ≤ s.boot.phase → s.boot.phase ≤ 4 → s.boot.dev ≠ .failed →
    ∃ t, exec .bootStatWrite s = .next t ∧ t = { s with boot := t.boot } ∧ devStatus t = (0xFF, 0xF0 + s.boot.phase)) ∧
  (∀ s : State, Runs s → s.boot.timedOut = false → ¬ Late s → ∃ t, exec .bootStatWrite s = .next t ∧ t = { s with boot := t.boot } ∧ (devStatus t).2 = s.inp.val.toNat % 256 ∧
    ((devStatus t).1 = if s.inp.val.toNat % 256 = 0xEF ∧ s.boot.dev ≠ .ready then 0xFF else (devStatus s).1)) ∧
  (∀ s : State, (∃ t, exec .perstDeasserted s = .next t ∧ t = { s with boot := { s.boot with perst := some s.clk } }) ∧
    (∀ b, s.boot.perst = some b → 210000000 ≤ (s.clk - b).toNat → ∃ t, exec .configRequest s = .next t ∧ t = { s with boot := { s.boot with answered := s.boot.answered + 1 } }) ∧
    (∀ b, s.boot.perst = some b → (s.clk - b).toNat < 210000000 → exec .configRequest s = .next s)) ∧
  (∀ s : State, ∃ t, exec .powerRemoved s = .next t ∧ t.mem = [] ∧ t.ctxs = [] ∧ t.queues = [] ∧ t.keySlots = [] ∧ t.boot.sram = [] ∧ t.boot.meas = List.replicate 16 (List.replicate 48 0) ∧
    t.boot.powered = false ∧ t.boot.flashA = s.boot.flashA ∧ t.boot.flashB = s.boot.flashB ∧ t.boot.svn = s.boot.svn ∧ t.pkg = s.pkg)

/-- R15 to R18. The crypto engine and the measurement block, as the firmware uses them: a command starts unless one runs, and ends with DONE and PASS or ERR; the measurements come as one block
for each register, numbered from 1; the mailbox answers the discovery requests itself, places every other request in a free receive buffer, cut to its 2,048 bytes, and none in a taken one (the model's choice, log entry 19), transmits, and releases the buffer. The layout of an SPDM
response is the family's (log entry 19), the rounds of the hash and of the signatures are the standards'. -/
def Obligations.ManagementBlocks : Prop :=
  (∀ (s : State) (i : Instr) (code : Nat), Runs s → (i = .ceHash ∧ code = 1 ∨ i = .ceVerifyEcdsa ∧ code = 2 ∨ i = .ceVerifyLms ∧ code = 3) →
    (s.boot.ce.run = none → ∃ t, exec i s = .next t ∧ Sched.event .ceCommandDone {} ∈ t.pending ∧
      t.boot = { s.boot with ce := { done := false, pass := false, err := false, run := some ⟨code, s.boot.ceSrc.toNat, s.boot.ceLen.toNat, s.boot.ceSig.toNat⟩ } }) ∧
    (∀ c, s.boot.ce.run = some c → ∃ t, exec i s = .next t ∧ t.boot = s.boot)) ∧
  (∀ (s : State) (i : Instr) (code : Nat), Runs s → (i = .meExtend ∧ code = 1 ∨ i = .meSpdmMeas ∧ code = 2) →
    (s.boot.me.run = none → ∃ t, exec i s = .next t ∧ Sched.event .meCommandDone {} ∈ t.pending ∧
      t.boot = { s.boot with me := { done := false, pass := false, err := false, run := some ⟨code, s.boot.meSrc.toNat, s.boot.meIdx.toNat, 0⟩ } }) ∧
    (∀ c, s.boot.me.run = some c → ∃ t, exec i s = .next t ∧ t.boot = s.boot)) ∧
  (∀ (s : State) (i : Instr), i ∈ [.ceHash, .ceVerifyEcdsa, .ceVerifyLms, .meExtend, .meSpdmMeas, .mbTxlen, .mbRxdone, .bootStatWrite, .fuStateWrite] → ¬ Runs s → exec i s = .next s) ∧
  (∀ (s : State) (c : MgmtCmd) (l : List Byte), Runs s → s.boot.ce.run = some c →
    (c.code = 1 → 1 ≤ c.len → c.len ≤ 0x1000000 → MgmtBytes s.boot false c.src c.len l →
      ∃ t, exec .ceCommandDone s = .next t ∧ t = { s with boot := { s.boot with ce := ended false false, ceDigest := sha384 l } }) ∧
    (c.code = 2 → MgmtBytes s.boot false c.sig 96 l → ecdsaFormed l = true →
      ∃ t, exec .ceCommandDone s = .next t ∧ t = { s with boot := { s.boot with ce := ended (ecdsaVerify Config.ecdsaKey s.boot.ceDigest l) false } }) ∧
    (c.code = 3 → MgmtBytes s.boot false c.sig 2672 l → l.take 4 = [0, 0, 0, 0] → lmsFormed (l.drop 4) = true →
      ∃ t, exec .ceCommandDone s = .next t ∧ t = { s with boot := { s.boot with ce := ended (lmsVerify Config.lmsKey s.boot.ceDigest (l.drop 4)) false } }) ∧
    ((c.code = 1 ∧ (c.len = 0 ∨ 0x1000000 < c.len ∨ MgmtHole s.boot false c.src c.len)) ∨
        (c.code = 2 ∧ (MgmtHole s.boot false c.sig 96 ∨ (MgmtBytes s.boot false c.sig 96 l ∧ ecdsaFormed l = false))) ∨
        (c.code = 3 ∧ (MgmtHole s.boot false c.sig 2672 ∨ (MgmtBytes s.boot false c.sig 2672 l ∧ (l.take 4 ≠ [0, 0, 0, 0] ∨ lmsFormed (l.drop 4) = false)))) ∨
        (c.code ≠ 1 ∧ c.code ≠ 2 ∧ c.code ≠ 3) →
      ∃ t, exec .ceCommandDone s = .next t ∧ t = { s with boot := { s.boot with ce := ended false true } })) ∧
  (∀ (s : State) (c : MgmtCmd) (l : List Byte), Runs s → s.boot.me.run = some c →
    (c.code = 1 → 1 ≤ c.len → c.len ≤ 15 → MgmtBytes s.boot true c.src 48 l →
      ∃ t, exec .meCommandDone s = .next t ∧
        t = { s with freeCtr := t.freeCtr, boot := { s.boot with me := ended false false, meas := s.boot.meas.set c.len (sha384 (s.boot.meas.getD c.len [] ++ l)) } }) ∧
    (c.code = 2 → ∀ q, parseMeas s.boot.mbRx = some q →
      ∃ t r, exec .meCommandDone s = .next t ∧
        t = { s with freeCtr := t.freeCtr, boot := { s.boot with me := ended false false, mbTx := r, meRlen := BitVec.ofNat 64 r.length } } ∧
        r.getD 4 0 = BitVec.ofNat 8 q.2.length ∧
        ((∀ m ∈ s.boot.meas, m.length = 48) → s.boot.meas.length = 16 → ∀ j i, q.2[j]? = some i → 1 ≤ i → i ≤ 16 →
          (r.drop (8 + 55 * j)).take 55 = [BitVec.ofNat 8 i, 1, 51, 0, if i = 1 then 0 else 1, 48, 0] ++ s.boot.meas.getD (i - 1) [])) ∧
    ((c.code = 1 ∧ (c.len = 0 ∨ 16 ≤ c.len ∨ MgmtHole s.boot true c.src 48)) ∨ (c.code = 2 ∧ parseMeas s.boot.mbRx = none) ∨ (c.code ≠ 1 ∧ c.code ≠ 2) →
      ∃ t, exec .meCommandDone s = .next t ∧ t = { s with freeCtr := t.freeCtr, boot := { s.boot with me := ended false true } })) ∧
  (∀ s : State, s.boot.ce.run = none → s.boot.me.run = none → exec .ceCommandDone s = .next s ∧ exec .meCommandDone s = .next s) ∧
  (∀ (s : State) (l : List Byte), s.inp.bytes = l →
    (l.getD 1 0 ∈ [0x84#8, 0xE1#8, 0xE3#8, 0x81#8, 0x82#8] →
      ∃ t, exec .mctpRequest s = .next t ∧ t = { s with boot := { s.boot with sent := s.boot.sent ++ [mailboxAnswer l] } }) ∧
    (l.getD 1 0 ∉ [0x84#8, 0xE1#8, 0xE3#8, 0x81#8, 0x82#8] → s.boot.rxv = false →
      ∃ t, exec .mctpRequest s = .next t ∧ t = { s with boot := { s.boot with mbRx := l.take 2048, rxv := true } }) ∧
    (l.getD 1 0 ∉ [0x84#8, 0xE1#8, 0xE3#8, 0x81#8, 0x82#8] → s.boot.rxv = true → exec .mctpRequest s = .next s)) ∧
  (∀ s : State, Runs s →
    (∃ t l, exec .mbTxlen s = .next t ∧ t.boot = { s.boot with sent := s.boot.sent ++ [l], txb := true } ∧ Sched.event .mbTransmitDone {} ∈ t.pending ∧
      l.length = min s.inp.val.toNat 2048 ∧ ∀ k, k < l.length → l.getD k 0 = s.boot.mbTx.getD k 0) ∧
    (∃ t, exec .mbTransmitDone s = .next t ∧ t = { s with boot := { s.boot with txb := false } }) ∧
    (s.inp.val = 1 → ∃ t, exec .mbRxdone s = .next t ∧ t = { s with boot := { s.boot with rxv := false } }))

namespace Sys2Proof.Claims

/-- The window of function f after a command that ended, with or without ERR (R16, R46). -/
def KsEnds (s t : State) (f : Nat) (err : Bool) : Prop := t.ksWin f = { s.ksWin f with run := none, done := true, err := err }

/-- A refused command: DONE and ERR, and nothing else changes (R47). -/
def KsRefused (s : State) (i : Instr) (f : Nat) : Prop := ∃ t, exec i s = .next t ∧ t = { s with ksWins := t.ksWins } ∧ KsEnds s t f true

/-- Slot n's bit in the translation units of function f is on or off; every other bit and every other cluster stay (R43). Of f's reader caches lines may go. -/
def KeyBit (s t : State) (f n : Nat) (on : Bool) : Prop :=
  ∀ c, c < 128 → if (s.clus c).fn = f then
    (t.clus c).holdsKey n = on ∧ (∀ k, k ≠ n → (t.clus c).holdsKey k = (s.clus c).holdsKey k) ∧ t.clus c = { s.clus c with keyBits := (t.clus c).keyBits, rcache := (t.clus c).rcache } ∧
      (∀ l ∈ (t.clus c).rcache, l ∈ (s.clus c).rcache)
  else t.clus c = s.clus c

/-- Only slot n of the key store changes. -/
def OnlySlot (s t : State) (n : Nat) : Prop := ∀ k, k ≠ n → t.keySlot k = s.keySlot k

/-- A byte of the core stores or of the vault of a cluster of this package. -/
def ownStore (s : State) (c pa : Nat) : Bool :=
  paPkg pa = s.pkg && paClus pa = c && (paOfs pa < 0x400000 || (0x1000000 ≤ paOfs pa && paOfs pa < 0x1780000))

end Sys2Proof.Claims

/-- R43, R46 to R49, R292, R295. The key store, for a live function whose window is not BUSY: each command in its stated state has its effect, any other sets ERR and changes nothing; a BUSY window
ignores commands. ACCEPT and ERASE first bring dirty L1 bytes home and clear the slot's bit, wait for the accesses that passed their check, then hand over or empty the slot; what the accepting function has cached under the slot is gone (R49); SERASE first refuses new sealed fetches. -/
def Obligations.KeyStore : Prop :=
  (∀ (s : State) (i : Instr) (r : KsCmd), i ∈ [.ksCreate, .ksImport, .ksExport, .ksOffer, .ksAccept, .ksErase, .ksSimport, .ksSerase] → (s.ksWin s.inp.fn).run = some r →
    exec i s = .next s) ∧
  (∀ (s : State) (f n a : Nat) (w : KsWin), f = s.inp.fn → s.fnLive f = true → w = s.ksWin f → w.run = none → n = w.slot.toNat % 4096 → a = w.arg.toNat % 32 →
    let k := s.keySlot n
    let empty := k.st = .empty
    let held := k.st ≠ .empty ∧ k.fn = f
    (empty → ∃ t, exec .ksCreate s = .next t ∧ t.keySlot n = ⟨.held, randomKey s.nextKey, f, 0⟩ ∧ t.nextKey = s.nextKey + 1 ∧ OnlySlot s t n ∧ KeyBit s t f n true ∧ KsEnds s t f false) ∧
    (¬ empty → KsRefused s .ksCreate f) ∧
    (∀ x, empty → kwpUnwrap (wrapKey f) (s.inp.bytes.take 72) = some x → x.length = 64 →
      ∃ t, exec .ksImport s = .next t ∧ t.keySlot n = ⟨.held, x, f, 0⟩ ∧ OnlySlot s t n ∧ KeyBit s t f n true ∧ KsEnds s t f false) ∧
    (¬ empty ∨ (∀ x, kwpUnwrap (wrapKey f) (s.inp.bytes.take 72) = some x → x.length ≠ 64) → KsRefused s .ksImport f) ∧
    (held → ∃ t, exec .ksExport s = .next t ∧ t = { s with host := s.host ++ [.write f w.addr (kwpWrap (wrapKey f) k.key)], ksWins := t.ksWins } ∧ KsEnds s t f false) ∧
    (¬ held → KsRefused s .ksExport f) ∧
    (held → a ≤ 16 → ∃ t, exec .ksOffer s = .next t ∧ t.keySlot n = ⟨.offered, k.key, f, a⟩ ∧ OnlySlot s t n ∧ t.clusters = s.clusters ∧ KsEnds s t f false) ∧
    (¬ held ∨ 16 < a → KsRefused s .ksOffer f) ∧
    (a ≤ 16 → k.st = .offered → k.fn = a → k.dest = f → (∀ e ∈ s.cores, e.2.l1 = []) → ∃ t, exec .ksAccept s = .next t ∧ t.keySlots = s.keySlots ∧ KeyBit s t a n false ∧
      t.ksWin f = { w with run := some ⟨5, n, a⟩, done := false, err := false } ∧ Sched.event .ksAcceptDrained { fn := f } ∈ t.pending) ∧
    (16 < a ∨ k.st ≠ .offered ∨ k.fn ≠ a ∨ k.dest ≠ f → KsRefused s .ksAccept f) ∧
    (held → (∀ e ∈ s.cores, e.2.l1 = []) → ∃ t, exec .ksErase s = .next t ∧ t.keySlots = s.keySlots ∧ KeyBit s t f n false ∧
      t.ksWin f = { w with run := some ⟨6, n, 0⟩, done := false, err := false } ∧ Sched.event .ksEraseDrained { fn := f } ∈ t.pending) ∧
    (∀ c m x l, held → memWf s.mem = true → s.cores = [((c, m), x)] → (s.clus c).fn = f → c < 128 → x.l1 = [l] → l.key = n → (paRegion (64 * l.line)).isHbm = true →
      paPkg (64 * l.line) = s.pkg → ∃ t, exec .ksErase s = .next t ∧ (t.clus c).holdsKey n = false ∧
        ∀ j, j < 64 → l.dirty.getLsbD j = true → t.byteAt (64 * l.line + j) n = l.bytes.getD j 0) ∧
    (¬ held → KsRefused s .ksErase f) ∧
    (∀ r, n ≤ 0xFF → (s.sealSlot n).held = false → s.sealRecord f n s.inp.bytes = some r →
      ∃ t, exec .ksSimport s = .next t ∧ t.sealSlot n = r ∧ r.held = true ∧ r.fn = f ∧ (∀ j, j ≠ n → t.sealSlot j = s.sealSlot j) ∧ KsEnds s t f false) ∧
    (0xFF < n ∨ (s.sealSlot n).held = true ∨ s.sealRecord f n s.inp.bytes = none → KsRefused s .ksSimport f) ∧
    (n ≤ 0xFF → (s.sealSlot n).held = true → (s.sealSlot n).fn = f → ∃ t, exec .ksSerase s = .next t ∧ t.sealedSlots = s.sealedSlots ∧
      (∀ c, c < 128 → (s.clus c).fn = f → n ∈ (t.clus c).sealRefuse) ∧ t.ksWin f = { w with run := some ⟨8, n, 0⟩, done := false, err := false } ∧
      Sched.event .ksSeraseDrained { id := n } ∈ t.pending) ∧
    (0xFF < n ∨ (s.sealSlot n).held = false ∨ (s.sealSlot n).fn ≠ f → KsRefused s .ksSerase f)) ∧
  (∀ (s : State) (f n a : Nat), f = s.inp.fn → (s.ksWin f).run = some ⟨5, n, a⟩ → n < 4096 →
    (s.keyInUse a n = true → ∃ t, exec .ksAcceptDrained s = .next t ∧ t = { s with pending := s.pending ++ [.event .ksAcceptDrained s.inp] }) ∧
    (s.keyInUse a n = false → (s.keySlot n).st = .offered → (s.keySlot n).fn = a → (s.keySlot n).dest = f →
      ∃ t, exec .ksAcceptDrained s = .next t ∧ t.keySlot n = ⟨.held, (s.keySlot n).key, f, 0⟩ ∧ OnlySlot s t n ∧ KeyBit s t f n true ∧ KsEnds s t f false ∧
        ∀ c, (s.clus c).fn = f → ∀ l ∈ (t.clus c).rcache, ¬ (l.key = n ∧ (paRegion (64 * l.line)).isHbm = true ∧ paPkg (64 * l.line) = s.pkg))) ∧
  (∀ (s : State) (f n a : Nat), f = s.inp.fn → (s.ksWin f).run = some ⟨6, n, a⟩ →
    (s.keyInUse f n = true → ∃ t, exec .ksEraseDrained s = .next t ∧ t = { s with pending := s.pending ++ [.event .ksEraseDrained s.inp] }) ∧
    (s.keyInUse f n = false → (s.keySlot n).st ≠ .empty → (s.keySlot n).fn = f →
      ∃ t, exec .ksEraseDrained s = .next t ∧ t.keySlot n = {} ∧ OnlySlot s t n ∧ t.clusters = s.clusters ∧ KsEnds s t f false)) ∧
  (∀ (s : State) (n f : Nat), n = s.inp.id → (s.sealSlot n).held = true → (s.sealSlot n).fn = f → (s.ksWin f).run = some ⟨8, n, 0⟩ →
    (s.sealInUse f n = true → exec .ksSeraseDrained s = .next s) ∧
    (s.sealInUse f n = false → ∃ t, exec .ksSeraseDrained s = .next t ∧ t.sealSlot n = {} ∧ (∀ j, j ≠ n → t.sealSlot j = s.sealSlot j) ∧
      (∀ c k, (s.clus c).fn = f → (∀ r ∈ (t.tile c k).buf, r ∈ (s.tile c k).buf ∧ r.sealed ≠ some n) ∧
        ∀ m ∈ (t.tile c k).cmds, tidSeal m.entry = true → tidSkh m.entry = n → ∀ b ∈ m.bblk, b.2 = PlaneBlk.zero false) ∧ KsEnds s t f false))

/-- R50. CLUSTER_FN: an idle cluster moves to another function with its core stores, vault, caches, operand buffers and accumulators zeroed, its roots cleared and its key bitmap replaced;
HBM is not scrubbed. Every other write is ignored. -/
def Obligations.ClusterMoves : Prop :=
  ∀ (s : State) (c fn : Nat), c = s.inp.clus → fn = s.inp.val.toNat % 32 →
    ((s.inp.fn ≠ 0 ∨ 128 ≤ c ∨ 16 < fn ∨ s.clusIdle c = false ∨ fn = (s.clus c).fn) → exec .clusterFnWrite s = .next s) ∧
    (s.inp.fn = 0 → c < 128 → fn ≤ 16 → s.clusIdle c = true → fn ≠ (s.clus c).fn → memWf s.mem = true → s.pkg < 4096 →
      ∃ t, exec .clusterFnWrite s = .next t ∧ (t.clus c).fn = fn ∧ (t.clus c).rroot = Vector.replicate 16 0 ∧ (t.clus c).hroot = Vector.replicate 16 0 ∧
        (t.clus c).tlb = [] ∧ (t.clus c).rcache = [] ∧ (t.clus c).unfenced = [] ∧ t.keySlots = s.keySlots ∧
        ((s.keySlots.map (·.1)).Nodup → ∀ k, k < 4096 → (t.clus c).holdsKey k = (s.holdsSlot k fn && !s.keyCleared fn k)) ∧
        (∀ pa key, ownStore s c pa = true → t.byteAt pa key = 0) ∧ (∀ pa key, ownStore s c pa = false → t.byteAt pa key = s.byteAt pa key) ∧
        (∀ n, (t.core c n).l1 = [] ∧ (t.core c n).sb = []) ∧ (∀ n, (t.tile c n).acc = [] ∧ (t.tile c n).buf = []) ∧
        (∀ d, d ≠ c → t.clus d = s.clus d ∧ ∀ n, t.core d n = s.core d n ∧ t.tile d n = s.tile d n))

namespace Sys2Proof.Claims

/-- Only queue q changes, to k. -/
def OnlyQueue (s t : State) (q : Nat) (k : Queue) : Prop := t.queue q = k ∧ (∀ r, r ≠ q → t.queue r = s.queue r) ∧ t = { s with queues := t.queues }

/-- The message a vector asks for: a virtual function has 64 vectors (R26). -/
def msixOf (fn vec : Nat) : List HostOut := if fn = 0 ∨ vec < 64 then [.msix fn vec] else []

/-- The queue stops with a reason (R95): ERROR, the reason recorded, EVEC sent where EEN is 1; launches already accepted stay. -/
def QueueStops (s t : State) (q : Nat) (e0 e1 : DWord) : Prop :=
  (t.queue q).st = .error ∧ (t.queue q).err0 = e0 ∧ (t.queue q).err1 = e1 ∧ (t.queue q).cons = (s.queue q).cons ∧ t.launches = s.launches ∧
    t.host = s.host ++ (if (s.queue q).een then msixOf (s.queue q).fn (s.queue q).evec else [])

/-- A launch with its queue and its sequence number is kept under them, and no other launch is kept there (R53). -/
def launchesKeyed (s : State) : Prop := (∀ e ∈ s.launches, e.1 = launchKey e.2.q e.2.seq) ∧ (s.launches.map (·.1)).Nodup

end Sys2Proof.Claims

/-- R91, R93, R94, R97. The queue registers, for a package that is READY and a function that reaches the queue's window: QUEUE_FN is accepted from the physical function while the queue is ABSENT; CREATE, DESTROY and RESUME in
their states have their effect and clear CERR, elsewhere they set CERR and change nothing; Q_PROD of a host queue. R92. Writes of Q_BASE, Q_CFG and of the W1C notes of Q_STAT by address. -/
def Obligations.QueueControl : Prop :=
  ∀ (s : State) (q : Nat), q = s.inp.id → q < 256 → s.ready = true →
    let k := s.queue q
    let f := s.inp.val.toNat % 32
    (s.inp.fn = 0 → k.st = .absent → f ≤ 16 → ∃ t, exec .queueFnWrite s = .next t ∧ OnlyQueue s t q { k with fn := f }) ∧
    (s.inp.fn ≠ 0 ∨ k.st ≠ .absent ∨ 16 < f → exec .queueFnWrite s = .next s) ∧
    (s.fnLive s.inp.fn = true → (s.inp.fn = 0 ∨ k.fn = s.inp.fn) →
      (k.st = .absent → k.lognOk = true → ∃ t, exec .queueCreate s = .next t ∧ t = { s with queues := t.queues } ∧ (∀ r, r ≠ q → t.queue r = s.queue r) ∧
        (let j := t.queue q
         j.st = .active ∧ j.prod = 0 ∧ j.cons = 0 ∧ j.hist = [] ∧ j.err0 = 0 ∧ j.err1 = 0 ∧ j.ncomp = false ∧ j.nprod = false ∧ j.nreg = false ∧ j.cerr = false ∧
         j.fn = k.fn ∧ j.cfg = k.cfg ∧ j.base = k.base ∧ j.nlive = k.nlive)) ∧
      (k.st ≠ .absent ∨ k.lognOk = false → ∃ t, exec .queueCreate s = .next t ∧ OnlyQueue s t q { k with cerr := true }) ∧
      (k.st ≠ .active → k.st ≠ .error → s.committing q = false → ∃ t, exec .queueDestroy s = .next t ∧ OnlyQueue s t q { k with cerr := true }) ∧
      (k.st = .active ∨ k.st = .error → s.inp.flag = false → s.bastings = [] → launchesKeyed s → ∃ t, exec .queueDestroy s = .next t ∧
        (t.queue q).st = (if (t.queue q).nlive = 0 then .absent else .draining) ∧ (t.queue q).cerr = false ∧ (t.queue q).head = none ∧
        ((t.queue q).st = .absent → (t.queue q).hist = []) ∧ t.teams = s.teams ∧ t.host = s.host ∧ s.sameMem t ∧
        (∀ e, e ∈ t.launches ↔ e ∈ s.launches ∧ (e.1.1 = q → e.2.placed ≠ 0))) ∧
      (k.st = .error → ∃ t, exec .queueResume s = .next t ∧ (t.queue q).st = .active ∧ (t.queue q).cerr = false ∧
        (t.queue q).cons = (if k.failed = true ∧ s.inp.flag = true then k.cons + 1 else k.cons) ∧ (t.queue q).prod = k.prod ∧
        (t.queue q).err0 = k.err0 ∧ (t.queue q).hist = k.hist ∧ t.launches = s.launches ∧ Sched.event .recordRead { id := q } ∈ t.pending) ∧
      (k.st ≠ .error → ∃ t, exec .queueResume s = .next t ∧ OnlyQueue s t q { k with cerr := true }) ∧
      (let v := s.inp.val.toNat
       (k.device = true ∨ k.st = .absent ∨ k.st = .draining → exec .qProdWrite s = .next s) ∧
       (k.device = false → k.st = .active ∨ k.st = .error →
        (k.prod ≤ v → v ≤ k.cons + 2 ^ k.logn → ∃ t, exec .qProdWrite s = .next t ∧ t.queue q = { k with prod := v } ∧ Sched.event .recordRead { id := q } ∈ t.pending) ∧
        (v < k.prod → ∃ t, exec .qProdWrite s = .next t ∧ (t.queue q).prod = k.prod ∧ (t.queue q).nprod = true ∧ (t.queue q).st = k.st ∧
          (k.st = .active → (t.queue q).err0 = err0Word 0x15 k.prod 0 0 ∧ (t.queue q).err1 = 0) ∧ (k.st = .error → (t.queue q).err0 = k.err0)) ∧
        (k.prod ≤ v → k.cons + 2 ^ k.logn < v → k.st = .error → ∃ t, exec .qProdWrite s = .next t ∧ OnlyQueue s t q k) ∧
        (k.prod ≤ v → k.cons + 2 ^ k.logn < v → k.st = .active → s.bastings = [] → ∃ t, exec .qProdWrite s = .next t ∧ (t.queue q).prod = k.prod ∧
          QueueStops s t q (err0Word 0x11 k.cons 0 0) 0)))) ∧
    (s.inp.bar = .bar0 → s.fnLive s.inp.fn = true → (s.inp.fn = 0 ∨ k.fn = s.inp.fn) →
      (s.inp.ofs = 0x10000 + 64 * q → k.st = .absent → ∃ t, exec .registerWrite s = .next t ∧ OnlyQueue s t q { k with cfg := s.inp.val &&& 0xFFF01F1F#64 }) ∧
      (s.inp.ofs = 0x10000 + 64 * q → k.st ≠ .absent → exec .registerWrite s = .next s) ∧
      (s.inp.ofs = 0x10000 + 64 * q + 8 → ∃ t, exec .registerWrite s = .next t ∧ OnlyQueue s t q { k with base := s.inp.val &&& 0xFFFFFFFFFFFFFF00#64 }) ∧
      (s.inp.ofs = 0x10000 + 64 * q + 0x20 → ∃ t, exec .registerWrite s = .next t ∧
        OnlyQueue s t q { k with ncomp := k.ncomp && !s.inp.val.getLsbD 26, nprod := k.nprod && !s.inp.val.getLsbD 25, nreg := k.nreg && !s.inp.val.getLsbD 24 }))

namespace Sys2Proof.Claims

/-- R56. The RSV bits of a record's word at an offset, with so many dependences. -/
def reservedBits (ndep ofs : Nat) : Nat :=
  if ofs = 0 then 0xFFFFFFFF
  else if ofs = 0x18 then 0xFFFFE008
  else if ofs = 0x20 then 0xFFFF000000000000
  else if ofs = 0x28 then 0xFFFFFFFFFFFF7F00
  else if ofs = 0x30 then 0xFE00000000000000
  else if ofs = 0x38 then 0x00FFFFF000000000
  else if ofs = 0x48 then 0x7FFFFFFFFFFFF800
  else if ofs = 0x50 then 0xFFFFFFFF00000000
  else if ofs = 0x58 ∨ 0xE0 ≤ ofs then 0xFFFFFFFFFFFFFFFF
  else if 0x60 ≤ ofs ∧ ofs < 0xA0 then
    (if (ofs - 0x60) / 16 < ndep then (if ofs % 16 = 0 then 0xFFFF000000000000 else 0) else 0xFFFFFFFFFFFFFFFF)
  else 0

/-- R60. The first check that a record fails, for a queue of function fn, with its map and image where they can be read: the reason code, the offset of the offending
word and, for an image entry, its index. Of several RSV words the lowest is named, of row 5 the word 0x08 before 0x10, of row 6 0x18 before 0x00 (the
model's choice, log entry 46). -/
def recordFault (s : State) (fn : Nat) (l : List Byte) (map img : Option (List Byte)) : Option (Nat × Nat × Nat) :=
  let w := fun (o : Nat) => recWord l o
  let mine := fun (c : Nat) => decide (c < 128 ∧ (s.clus c).fn = fn)
  let ndep := fld (w 0) 40 38
  let window := fld (w 8) 63 48 * 4096
  let tidn := fld (w 0x30) 56 48
  let slot : SealSlot := Assoc.get {} (fld (w 0x28) 7 0) s.sealedSlots
  if fld (w 0) 63 56 ≠ 1 then some (0x01, 0x00, 0)
  else match (List.range 32).find? (fun j => (w (8 * j)).toNat &&& reservedBits ndep (8 * j) ≠ 0) with
  | some j => some (0x02, 8 * j, 0)
  | none =>
    if ∃ c ∈ List.range 128, mine c = true ∧ ((s.clus c).rroot.toList.getD (fld (w 0) 55 52) 0).toNat / 4096 = 0 then some (0x03, 0x00, 0)
    else if fld (w 0) 48 48 = 1 ∧ fn ≠ 0 then some (0x04, 0x00, 0)
    else if fld (w 8) 63 48 < 1 ∨ 4096 < fld (w 8) 63 48 ∨ fld (w 8) 47 0 % 4096 ≠ 0 then some (0x05, 0x08, 0)
    else if fld (w 0x10) 31 0 % 2 = 1 ∨ fld (w 0x10) 63 32 % 2 = 1 ∨ window ≤ fld (w 0x10) 31 0 ∨ window ≤ fld (w 0x10) 63 32 then some (0x05, 0x10, 0)
    else if fld (w 0x18) 12 8 < 1 ∨ fld (w 0x18) 7 4 < 1 ∨ fld (w 0x18) 2 0 < 1 ∨ fld (w 0x18) 47 32 < 1 ∨ 16 < fld (w 0x18) 12 8 ∨ 8 < fld (w 0x18) 7 4 ∨
      4 < fld (w 0x18) 2 0 ∨ fld (w 0x18) 63 48 < fld (w 0x18) 47 32 then some (0x06, 0x18, 0)
    else if fld (w 0) 37 32 ≠ 0 ∧ ¬ (16 ≤ fld (w 0) 37 32 ∧ fld (w 0) 37 32 ≤ 40) then some (0x06, 0x00, 0)
    else if fld (w 0x20) 47 0 ≠ 0 ∧ (map = none ∨ ∃ b ∈ map.getD [], b ≠ 0xFF ∧ mine b.toNat = false) then some (0x07, 0x20, 0)
    else if 4 < ndep then some (0x08, 0x00, 0)
    else match (List.range ndep).find? (fun i => fld (w (0x60 + 16 * i)) 2 0 ≠ 0) with
    | some i => some (0x08, 0x60 + 16 * i, 0)
    | none =>
      if fld (w 0x28) 15 15 = 1 ∧ ¬ (slot.held = true ∧ slot.fn = fn) then some (0x09, 0x28, 0)
      else if 256 < tidn ∨ fld (w 0x30) 5 0 ≠ 0 ∨ (tidn ≠ 0 ∧ img = none) then some (0x0A, 0x30, 0)
      else match (List.range tidn).find? (fun i => tidV (((img.getD []).drop (64 * i)).take 64) && (tidBad (((img.getD []).drop (64 * i)).take 64)).isSome) with
      | some i => some (0x0A, 0x30, i)
      | none =>
        if fld (w 0x38) 63 63 = 1 ∧ (mine (fld (w 0x38) 62 56) = false ∨ fld (w 0x38) 2 0 ≠ 0) then some (0x0B, 0x38, 0) else none

/-- The launch that an accepted record makes. -/
def newLaunch (q n : Nat) (rcd img : List Byte) (map : Option (List Byte)) : Launch :=
  { q := q, seq := n, rcd := rcd, img := if recTidn rcd = 0 then [] else img, map := if recPmap rcd = 0 then none else map, teams := recTeams rcd }

/-- Record n, read whole with its map and image, is checked and accepted or rejected (R60, R96, R102); a queue without a basting launch and without waiting
ENQs, a record without dependences. -/
def Arrives (s : State) (q n : Nat) (rcd : List Byte) (map img : Option (List Byte)) : Prop :=
  (∀ code ofs ix, recordFault s (s.queue q).fn rcd map img = some (code, ofs, ix) → s.bastings = [] →
    ∃ t, exec .recordArrival s = .next t ∧ QueueStops s t q (err0Word code n ofs ix) 0 ∧ (t.queue q).failed = true ∧ (t.queue q).nlive = (s.queue q).nlive) ∧
  (recordFault s (s.queue q).fn rcd map img = none → recNdep rcd = 0 → s.bastings = [] → (s.queue q).enqs = [] → Assoc.has (launchKey q n) s.launches = false →
    ∃ t, exec .recordArrival s = .next t ∧ t.launches = s.launches ++ [(launchKey q n, newLaunch q n rcd (img.getD []) map)] ∧
      (t.queue q).cons = n + 1 ∧ (t.queue q).nlive = (s.queue q).nlive + 1 ∧ (t.queue q).st = .active ∧ (t.queue q).head = none ∧
      (t.queue q).hist = (if recBhist rcd then ((s.queue q).hist ++ [rcd]).drop ((s.queue q).hist.length + 1 - 24) else (s.queue q).hist) ∧
      Sched.event .teamPlace {} ∈ t.pending ∧ Sched.event .recordRead { id := q } ∈ t.pending ∧ t.teams = s.teams ∧ t.host = s.host ∧ s.sameMem t)

end Sys2Proof.Claims

/-- R96, R57, R60, R102. Reading records: the reads of the next record of an ACTIVE queue begin while Q_PROD is ahead and NLIVE is below 16. A record read whole is accepted or stops the queue with the
reason of the first failing check of R60 (of several failing words of one row one as log entry 46 says); a read that fails, or has no completion, is FETCH_FAULT and discards the record. -/
def Obligations.RecordReading : Prop :=
  (∀ (s : State) (q : Nat), q = s.inp.id →
    let k := s.queue q
    (s.ready = true → k.st = .active → k.head = none → k.cons < k.prod → k.nlive < 16 →
      ∃ t, exec .recordRead s = .next t ∧ t.queue q = { k with head := some k.cons, rid := s.nextId, got := [], trying := false } ∧ (k.device = true → Sched.event .recordArrival { id := q } ∈ t.pending)) ∧
    (k.st ≠ .active ∨ k.head ≠ none ∨ k.prod ≤ k.cons ∨ 16 ≤ k.nlive → exec .recordRead s = .next s)) ∧
  (∀ (s : State) (q n : Nat), q = s.inp.id → (s.queue q).head = some n → (s.queue q).st = .active →
    let k := s.queue q
    (∀ r : RecordInput, k.device = false → s.inp.load = .record r →
      (∀ u, r.fail = some u → u < 4 → s.bastings = [] → ∃ t, exec .recordArrival s = .next t ∧ (t.queue q).head = none ∧ (t.queue q).failed = true ∧
        QueueStops s t q (err0Word 0x10 n (64 * u) 0) ((k.base &&& 0xFFFFFFFFFFFFFF00#64) + BitVec.ofNat 64 (256 * (n % 2 ^ k.logn) + 64 * u))) ∧
      (r.fail = none → Arrives s q n (padTo 256 r.record) (r.map.map (fun m => m.take (recTeams r.record))) (r.img.map (fun m => padTo (64 * recTidn r.record) m)))) ∧
    (k.device = true → (let rcd := Assoc.get (zeros 256) (n % 2 ^ k.logn) k.ring
      recPmap rcd = 0 → recTidn rcd = 0 → Arrives s q n rcd none (some []))) ∧
    (k.device = false → s.inp.ofs < 256 → s.bastings = [] → ∃ t, exec .completionTimeout s = .next t ∧ (t.queue q).head = none ∧ (t.queue q).failed = true ∧
      QueueStops s t q (err0Word 0x10 n (s.inp.ofs / 64 * 64) 0) ((k.base &&& 0xFFFFFFFFFFFFFF00#64) + BitVec.ofNat 64 (256 * (n % 2 ^ k.logn) + s.inp.ofs / 64 * 64))))

namespace Sys2Proof.Claims

/-- The launch has left: its queue counts one less, and a MSI-X message is sent where asked (R59). -/
def LaunchEnds (s t : State) (k : Nat × Nat) (l : Launch) (msg : Bool) : Prop :=
  (∀ e ∈ t.launches, e.1 ≠ k) ∧ (t.queue l.q).nlive = (s.queue l.q).nlive - 1 ∧
    t.host = s.host ++ (if msg then msixOf (s.queue l.q).fn (recMvec l.rcd) else [])

end Sys2Proof.Claims

/-- R100, R315. ENQ_REQUEST: a record goes into a free slot of an ACTIVE device queue of the issuer's function and Q_PROD advances, status 0; a full queue gives 1, and an ENQ joins its list, any other queue 2; teams are added to the issuing launch within
MAXTEAMS, status 0, else 3. R58. DEPENDENCE_SATISFIED: a met dependence is noted, a failed one drops the launch and stops the queue with DEPENDENCE. R59, R391 to R393. QUIESCENCE_WAVE reads the routers in order, in one step or in several: a launch whose teams have all retired, with equal sums in two successive
waves, ends: its completion milestone rises to CVAL, or the note says why not, its message is sent; a launch that has stood still for STW stops its queue with LAUNCH_STALL. -/
def Obligations.LaunchEnd : Prop :=
  (∀ (s : State) (o : OutMsg), (s.clus s.inp.pos.clus).outMsg s.inp.id = some o → s.inp.val.getLsbD 31 = false →
    let q := s.inp.val.toNat % 256
    let k := s.queue q
    let answer := fun (v : Nat) => Sched.event .enqAnswer { pos := s.inp.pos, id := s.inp.id, n := v }
    let good := k.device = true ∧ k.fn = (s.clus s.inp.pos.clus).fn ∧ k.st = .active
    let listed := s.inp.flag = true ∧ (s.ctx s.inp.pos).ansId = s.inp.id ∧ ∃ r, (s.ctx s.inp.pos).ans = some (.enq, r)
    (good → k.cons ≤ k.prod → k.prod < k.cons + 2 ^ k.logn → ∃ t, exec .enqRequest s = .next t ∧
      t.queue q = { k with ring := Assoc.put (k.prod % 2 ^ k.logn) (padTo 256 s.inp.bytes) k.ring, prod := k.prod + 1 } ∧
      t.pending = s.pending ++ [.event .recordRead { id := q }, answer 0]) ∧
    (good → k.prod = k.cons + 2 ^ k.logn → ¬ listed → ∃ t, exec .enqRequest s = .next t ∧ t = { s with pending := s.pending ++ [answer 1] }) ∧
    (good → k.prod = k.cons + 2 ^ k.logn → listed → ∃ t, exec .enqRequest s = .next t ∧ t.queue q = { k with enqs := k.enqs ++ [s.inp.pos] } ∧
      t.pending = s.pending ++ [answer 1]) ∧
    (¬ good → ∃ t, exec .enqRequest s = .next t ∧ t = { s with pending := s.pending ++ [answer 2] })) ∧
  (∀ (s : State) (o : OutMsg) (l : Launch), (s.clus s.inp.pos.clus).outMsg s.inp.id = some o → s.inp.val.getLsbD 31 = true → o.launch.1 < 256 → o.launch.2 < 2 ^ 24 →
    let n := s.inp.val.toNat % 2 ^ 16
    let answer := fun (v : Nat) => Sched.event .enqAnswer { pos := s.inp.pos, id := s.inp.id, n := v }
    s.launches = [(o.launch, l)] →
    ((n = 0 ∨ l.abandoned = true ∨ recMaxteams l.rcd < l.teams + n) → ∃ t, exec .enqRequest s = .next t ∧ t = { s with pending := s.pending ++ [answer 3] }) ∧
    (0 < n → l.abandoned = false → l.teams + n ≤ recMaxteams l.rcd → ∃ t, exec .enqRequest s = .next t ∧ t.launches = [(o.launch, { l with teams := l.teams + n })] ∧
      t.pending = s.pending ++ [.event .teamPlace {}, answer 0])) ∧
  (∀ (s : State) (l : Launch) (w : Nat × Nat × Nat), s.launches = [(launchKey l.q l.seq, l)] → s.bastings = [] → l.watching = [w] → w.2.1 = s.inp.id →
    (∀ stamp, s.inp.load = .dep (.met stamp) → ∃ t l', exec .dependenceSatisfied s = .next t ∧ t.launches = [(launchKey l.q l.seq, l')] ∧
      l' = { l with watching := [], dep := Assoc.put w.1 (w.2.2, stamp) l.dep } ∧
      ((∀ i, i < recNdep l.rcd → Assoc.has i l'.dep = true) → Sched.event .teamPlace {} ∈ t.pending)) ∧
    (∀ code, s.inp.load = .dep (.failed code) → (s.queue l.q).st = .active → ∃ t, exec .dependenceSatisfied s = .next t ∧ t.launches = [] ∧
      (t.queue l.q).st = .error ∧ (t.queue l.q).err0 = err0Word 8 l.seq (0x60 + 16 * w.1) 0 ∧ (t.queue l.q).err1 = recDepa l.rcd w.1 ∧
      (t.queue l.q).nlive = (s.queue l.q).nlive - 1)) ∧
  (∀ (s : State) (l : Launch),
    let k := launchKey l.q l.seq
    let sums := s.sumsUpTo k s.wavePos 128
    s.launches = [(k, l)] → l.watching = [] → s.bastings = [] → (∀ x ∈ s.replay, x.1 ≠ k) →
    (s.wavePos = 0 → s.since s.waveAt < s.wavePeriod → exec .quiescenceWave s = .next s) ∧
    (0 < s.inp.id → s.inp.id < 128 → (s.wavePos = 0 → s.wavePeriod ≤ s.since s.waveAt) → ∃ t, exec .quiescenceWave s = .next t ∧
      t.wavePos = max s.wavePos s.inp.id ∧ t.waveSums = [(k, s.sumsUpTo k s.wavePos s.inp.id)] ∧ t.launches = s.launches ∧ t.queues = s.queues ∧
      s.sameMem t ∧ Sched.event .quiescenceWave {} ∈ t.pending) ∧
    (s.inp.id = 0 → (s.wavePos = 0 → s.wavePeriod ≤ s.since s.waveAt) →
      (l.abandoned = false → l.placed = l.teams → recTeams l.rcd ≤ l.teams → l.retired = l.teams → l.wave = some sums → sums.getD 0 0 = sums.getD 1 0 → sums.getD 2 0 = sums.getD 3 0 →
        (recCen l.rcd = false → ∃ t, exec .quiescenceWave s = .next t ∧ LaunchEnds s t k l (recMen l.rcd)) ∧
        (∀ pa x, recCen l.rcd = true → (s.clus (recCclus l.rcd)).xfails = [] → memWf s.mem = true → pa % 8 = 0 →
          s.translate (recCclus l.rcd) (.front l.q (frontNo (l.seq % 2 ^ 24) 9)) (recAspc l.rcd) .home (BitVec.ofNat 64 (recChofs l.rcd)) .atomic = .ok pa x → (x.type = .normal ∨ x.type = .swm) → s.poison.contains (pa / 64) = false →
          let old := bytesDWord (s.bytesAt pa x.key 8)
          (old.toNat < (recCval l.rcd).toNat → ∃ t, exec .quiescenceWave s = .next t ∧ LaunchEnds s t k l (recMen l.rcd) ∧ Wrote s t x.key pa (dwordBytes (recCval l.rcd))) ∧
          ((recCval l.rcd).toNat ≤ old.toNat → ∃ t, exec .quiescenceWave s = .next t ∧ LaunchEnds s t k l (recMen l.rcd) ∧ (t.queue l.q).nreg = true ∧ s.sameMem t))) ∧
      (l.retired ≠ l.placed → ∀ r, l.ref = some r → l.stalled = false →
        let cs := s.launchCtxs k
        s.stallWindow ≠ 0 → s.stallWindow ≤ s.since r.2 → (∀ e ∈ s.clusters, e.2.saved = []) → (∃ e ∈ cs, e.2.st ≠ .halted) → (∀ e ∈ cs, s.stuckCtx e.1 e.2 = true) →
        r.1 = sums.getD 4 0 :: cs.flatMap (fun e => s.targets e.2) → (s.queue l.q).st = .active →
        ∃ t, exec .quiescenceWave s = .next t ∧ (t.queue l.q).st = .error ∧ (t.queue l.q).err0 = err0Word 0x12 l.seq 0 0 ∧ (t.queue l.q).err1 = 0 ∧
          t.teams = s.teams ∧ t.ctxs = s.ctxs ∧ (t.queue l.q).nlive = (s.queue l.q).nlive)))

namespace Sys2Proof.Claims

/-- The state of R61 of a context of a team: its registers, its position in the code window and what of the record it holds. i is its index in the team. -/
structure Starts (c : Ctx) (rcd : List Byte) (l : Nat × Nat) (index teamn slot i : Nat) (capt : DWord) : Prop where
  st : c.st = .ready
  slot : c.slot = some slot
  args : ∀ k (h : k < 64), c.w[k] = if k < 16 then bytesWord (rcd.drop (0xA0 + 4 * k)) else 0
  masks : ∀ k (h : k < 7), c.m[k] = 0
  pc : c.pc = BitVec.ofNat 64 (recCbase rcd + recEofs rcd)
  tvec : c.tvec = BitVec.ofNat 64 (recCbase rcd + recTveco rcd)
  seed : c.seed = (let v := recSeedv rcd ^^^ BitVec.ofNat 32 ((index * (recNtile rcd * recNcore rcd * recNctx rcd) + i) * 0x9E3779B9); if v = 0 then 1 else v)
  team : c.team = BitVec.ofNat 32 index
  teamn : c.teamn = BitVec.ofNat 32 teamn
  lnch : c.lnch = BitVec.ofNat 32 (l.1 % 256 * 2 ^ 24 + l.2 % 2 ^ 24)
  capt : c.capt = capt
  zero : c.rmode = Ctx.reset.rmode ∧ c.xpc = 0 ∧ c.xcause = 0 ∧ c.xaddr = 0 ∧ c.xinfo = 0 ∧ c.retc = 0 ∧ c.depth = 0 ∧ c.leasest = 0 ∧ c.intrap = false ∧ c.skipbp = false ∧ c.pend = none ∧
    c.convoy = none ∧ c.ans = none
  powers : c.aspc = recAspc rcd ∧ c.cbase = recCbase rcd ∧ c.cpages = recCpages rcd ∧ c.sys = recSys rcd ∧ c.debug = recDebug rcd

/-- The tiles that fit (R113): at least ncore cores with nctx free contexts, and a free plane array. -/
def tileFits (free : Nat → Nat → Bool) (plane : Nat → Bool) (ncore nctx t : Nat) : Bool :=
  plane t && ncore ≤ ((List.range 8).filter (fun k => nctx ≤ ((List.range 4).filter (fun x => free (8 * t + k) x)).length)).length

end Sys2Proof.Claims

/-- R61, R65, R99, R113 to R118, R382. TEAM_PLACE: the first offered launch that a cluster takes receives its next team: slot, positions, plane arrays and table bank are taken in one step, and every context is READY in the state of R61; a team being resumed that fits and is of no lower priority goes first, and a cluster a basting launch reserves is freed by unpicking it; a launch
that no allowed cluster could ever take stops its queue with GEOMETRY. LAUNCH_BLOCKING after 2^20 cycles without a team. R130, R131. SVC_CTL_WRITE starts, refuses or frees the service context. R133, R134. TEAM_STALL: every blocked context of a team seen stalled for 2^STALLK cycles traps.
R113. A geometry takes the lowest-numbered tiles that fit, on each the lowest-numbered cores, on each core the lowest-numbered free contexts; the positions are distinct and were free. -/
def Obligations.Placement : Prop :=
  (∀ s : State, s.allOffers = [] → exec .teamPlace s = .next s) ∧
  (∀ (s : State) (l : Launch) (ls : List Launch) (c : Nat) (f : Fit), s.offers = l :: ls → s.choose l = .place c f → s.resumeFirst (s.effPrio l.q l.rcd) = none →
    let k := launchKey l.q l.seq
    let planes := if recNeedpa l.rcd then f.tiles else []
    ∃ t, exec .teamPlace s = .next t ∧ t.teams = s.teams ++ [((c, f.slot), ⟨k, l.placed, f.pos, planes, false, false, none⟩)] ∧
      (∀ i (h : i < f.pos.length), Starts (t.ctx ⟨c, f.pos[i].1, f.pos[i].2⟩) l.rcd k l.placed l.teams f.slot i (s.capability c f.slot f.bank planes)) ∧
      (∀ p : Pos, (p.clus ≠ c ∨ (p.core, p.ctx) ∉ f.pos) → t.ctx p = s.ctx p) ∧
      (∀ n ∈ planes, (t.tile c n).holder = some f.slot) ∧ (f.bank < 8 → ∃ b, (t.clus c).banks.toList.getD f.bank none = some b) ∧
      (∀ e ∈ s.launches, e.1 = k → (k, { e.2 with placed := e.2.placed + 1, last := some c, began := if e.2.placed + 1 < e.2.teams then some s.clk else none, blocking := false }) ∈ t.launches) ∧
      Sched.event .teamPlace {} ∈ t.pending ∧ s.sameMem t) ∧
  (∀ (s : State) (l : Launch) (ls : List Launch) (c r : Nat) (f : Fit), s.offers = l :: ls → s.choose l = .place c f → s.resumeFirst (s.effPrio l.q l.rcd) = some r →
    ∃ t, exec .teamPlace s = .next t ∧ t.teams = s.teams ∧ t.ctxs = s.ctxs ∧ t.pending = s.pending ++ [Sched.event .resumePlace { clus := r }, Sched.event .teamPlace {}]) ∧
  (∀ (s : State) (l : Launch) (ls : List Launch) (q : Nat), s.offers = l :: ls → s.choose l = .unpick q → (∀ e ∈ s.bastings, e.1 = q → e.2.st ≠ .committing) →
    ∃ t, exec .teamPlace s = .next t ∧ (∀ e ∈ t.bastings, e.1 ≠ q) ∧ Sched.event .teamPlace {} ∈ t.pending) ∧
  (∀ (s : State) (l : Launch) (ls : List Launch), s.offers = l :: ls → l.placed = 0 → (s.queue l.q).st = .active → s.basting? l.q = none →
    (∀ c ∈ s.candidates (s.queue l.q).fn l.rcd l.map 0 l.last, s.fitsEmpty (s.queue l.q).fn c l.rcd = false) →
    ∃ t, exec .teamPlace s = .next t ∧ (t.queue l.q).st = .error ∧ (t.queue l.q).err0 = err0Word 0x06 l.seq 0x18 0 ∧ (t.queue l.q).nlive = (s.queue l.q).nlive - 1 ∧
      (∀ e ∈ t.launches, e.1 ≠ launchKey l.q l.seq) ∧ t.teams = s.teams) ∧
  (∀ (s : State) (l : Launch) (b : DWord), s.launches = [(launchKey l.q l.seq, l)] → l.q = s.inp.id → l.seq = s.inp.n → l.began = some b → s.offersOf l.q = [l] →
    (2 ^ 20 ≤ s.since b → ∃ t, exec .launchBlocking s = .next t ∧ t = { s with launches := [(launchKey l.q l.seq, { l with blocking := true })] }) ∧
    (s.since b < 2 ^ 20 → exec .launchBlocking s = .next s)) ∧
  (∀ (s : State) (c : Nat), c = s.inp.clus → c < 128 →
    let v := s.inp.val &&& 0x800FFFFFFFFFFFFF#64
    let k := s.clus c
    let p : Pos := ⟨c, 0, 3⟩
    let base := (v.extractLsb' 12 36).toNat * 4096
    (s.inp.fn ≠ 0 → exec .svcCtlWrite s = .next s) ∧
    (s.inp.fn = 0 → s.noTeam c = false → ∃ t, exec .svcCtlWrite s = .next t ∧ t = { s with pending := t.pending }) ∧
    (s.inp.fn = 0 → s.noTeam c = true → ∃ t, exec .svcCtlWrite s = .next t ∧ (t.clus c).svcCtl = v ∧ (∀ q, q ≠ p → Still s t q) ∧ s.sameMem t ∧
      (v.getLsbD 63 = false → t.ctx p = Ctx.reset ∧ (t.clus c).svcStat = 0) ∧
      (v.getLsbD 63 = true → k.svcCtl.getLsbD 63 = false → k.svcBad v k.svcEnt = true → t.ctx p = Ctx.reset ∧ (t.clus c).svcStat = 3) ∧
      (v.getLsbD 63 = true → k.svcCtl.getLsbD 63 = true → t.ctx p = s.ctx p ∧ (t.clus c).svcStat = k.svcStat) ∧
      (v.getLsbD 63 = true → k.svcCtl.getLsbD 63 = false → k.svcBad v k.svcEnt = false → (t.clus c).svcStat = 1 ∧ (t.ctx p).st = .ready ∧ (t.ctx p).slot = none ∧
        (t.ctx p).pc = BitVec.ofNat 64 (base + (k.svcEnt.extractLsb' 0 32).toNat) ∧ (t.ctx p).w = Vector.replicate 64 0 ∧ (t.ctx p).seed = 1 ∧ (t.ctx p).lnch = 0xFFFFFFFF ∧
        (t.ctx p).team = 0 ∧ (t.ctx p).teamn = 0 ∧ (t.ctx p).capt = 0 ∧ (t.ctx p).sys = true ∧ (t.ctx p).debug = false ∧ (t.ctx p).aspc = (v.extractLsb' 48 4).toNat ∧
        (t.ctx p).cbase = base ∧ (t.ctx p).cpages = (v.extractLsb' 0 12).toNat))) ∧
  (∀ (s : State) (t : Team) (n : Nat) (b : DWord), s.team? s.inp.clus s.inp.slot = some t → t.pos.Nodup → t.bast = false → t.stallRef = some (n, b, s.tagOps s.inp.clus t) →
    s.noMessageFor s.inp.clus t = true →
    let k := recStallk (s.teamRecord t)
    let live := (t.at s.inp.clus).filter (fun p => !(s.ctx p).st.isHalted)
    k ≠ 0 → live ≠ [] → (∀ p ∈ live, s.stallKind p ≠ 0 ∧ (s.ctx p).basting = false ∧ (s.ctx p).stop = false ∧ (s.ctx p).last = false ∧ (s.ctx p).sub = none ∧ (s.ctx p).intrap = false) →
    (2 ^ k ≤ n + s.since b → ∃ u, exec .teamStall s = .next u ∧ s.sameMem u ∧ (∀ p, p ∉ live → (u.ctx p).w = (s.ctx p).w ∧ ((s.ctx p).convoy = none → u.ctx p = s.ctx p)) ∧
      ∀ p ∈ live, (u.ctx p).xcause = 0x60 ∧ (u.ctx p).xinfo = BitVec.ofNat 32 (s.stallKind p) ∧ (u.ctx p).xaddr = 0 ∧ (u.ctx p).xpc = codeAddr (s.ctx p).pc ∧ (u.ctx p).pc = (s.ctx p).tvec ∧
        (u.ctx p).intrap = true ∧ (u.ctx p).st = .ready ∧ (u.ctx p).w = (s.ctx p).w) ∧
    (n + s.since b < 2 ^ k → ∃ u, exec .teamStall s = .next u ∧ u = { s with teams := u.teams })) ∧
  (∀ (free : Nat → Nat → Bool) (plane : Nat → Bool) (nt nc nx : Nat),
    (fitWith free plane nt nc nx = none ↔ ((List.range 16).filter (tileFits free plane nc nx)).length < nt) ∧
    ∀ pos tiles, fitWith free plane nt nc nx = some (pos, tiles) →
      tiles = ((List.range 16).filter (tileFits free plane nc nx)).take nt ∧ tiles.length = nt ∧ pos.length = nt * nc * nx ∧ pos.Nodup ∧
      (∀ p ∈ pos, p.2 < 4 ∧ p.1 / 8 ∈ tiles ∧ free p.1 p.2 = true) ∧
      (0 < nx → ∀ p ∈ pos, ∀ n, n / 8 = p.1 / 8 → n < p.1 → nx ≤ ((List.range 4).filter (fun x => free n x)).length → ∃ q ∈ pos, q.1 = n) ∧
      (∀ p ∈ pos, ∀ x, x < p.2 → free p.1 x = true → (p.1, x) ∈ pos))

namespace Sys2Proof.Claims

/-- The words of a record that prediction may change (R102): CVAL, DEPT0 to DEPT3, ARG0 to ARG7, by byte offset. -/
def strideOffsets : List Nat := [0x40, 0x68, 0x78, 0x88, 0x98, 0xA0, 0xA8, 0xB0, 0xB8, 0xC0, 0xC8, 0xD0, 0xD8]

/-- Two records have the same signature (R102). -/
def sameSig (a b : List Byte) : Prop := ∀ k, k < 32 → 8 * k ∉ strideOffsets → recWord a (8 * k) = recWord b (8 * k)

/-- L is a period of a history of records, oldest first (R102). -/
def isPeriod (h : List (List Byte)) (L : Nat) : Prop :=
  1 ≤ L ∧ L ≤ 8 ∧ 2 * L ≤ h.length ∧ ∀ i, i < L → sameSig (h.getD (h.length - 1 - i) []) (h.getD (h.length - 1 - i - L) [])

/-- The basting launch of queue q is gone (R110): no team, no shadow line, no deferred effect, no read set; BST_UNPICKS has advanced and nothing outside has changed. -/
structure Unpicked (s t : State) (q : Nat) (b : Basting) : Prop where
  gone : t.basting? q = none
  teams : ∀ e ∈ t.teams, ¬ (e.2.launch = launchKey q b.seq ∧ e.2.bast = true)
  shadow : ∀ c ∈ b.clusters, (t.clus c).shadow = []
  deferred : ∀ e ∈ t.deferred, e.1 ≠ q
  reads : Assoc.has q t.readSets = false
  count : t.bst = { s.bst with unpicks := s.bst.unpicks + 1 }
  pubs : ∀ c, (t.clus c).pub = (s.clus c).pub
  host : t.host = s.host
  queues : ∀ r, t.queue r = { s.queue r with enqs := (t.queue r).enqs }
  mem : memWf s.mem = true → ∀ pa key, (∀ e ∈ b.cores, ¬ (corePa s.pkg e.1 e.2 0 ≤ pa ∧ pa < corePa s.pkg e.1 e.2 0 + 0x8000)) →
    (∀ x ∈ s.teams, ∀ p ∈ x.2.pos, ¬ (corePa s.pkg x.1.1 p.1 0 ≤ pa ∧ pa < corePa s.pkg x.1.1 p.1 0 + 0x8000)) → t.byteAt pa key = s.byteAt pa key

end Sys2Proof.Claims

/-- R102. Prediction: no record without a period; with the smallest period L the entry h - L, each stride word advanced by its stride where three entries agree on one, kept where the last two agree, and no prediction otherwise. -/
def Obligations.Prediction : Prop :=
  ∀ h : List (List Byte), (∀ r ∈ h, r.length = 256) →
    ((∀ L, ¬ isPeriod h L) → predict h = none) ∧
    (∀ L, isPeriod h L → (∀ K, isPeriod h K → L ≤ K) →
      let x := fun (j k : Nat) => recWord (h.getD (h.length - j * L) []) k
      let linear := fun (k : Nat) => 3 * L ≤ h.length ∧ x 1 k - x 2 k = x 2 k - x 3 k
      ((∃ k ∈ strideOffsets, ¬ linear k ∧ x 1 k ≠ x 2 k) → predict h = none) ∧
      ((∀ k ∈ strideOffsets, linear k ∨ x 1 k = x 2 k) → ∃ r, predict h = some r ∧ r.length = 256 ∧
        (∀ j, j < 32 → 8 * j ∉ strideOffsets → recWord r (8 * j) = x 1 (8 * j)) ∧
        ∀ k ∈ strideOffsets, (linear k → recWord r k = x 1 k + (x 1 k - x 2 k)) ∧ (¬ linear k → recWord r k = x 1 k)))

/-- R103 to R112. Basting: BST_CTL is written by the physical function and unpicks what it no longer allows; BASTE_START starts the predicted record where every condition holds; BASTE_ADOPT halts the contexts and asks foreign owners; GEN_REPLY and
BASTE_REVALIDATED compare every generation, and where one differs the launch is unpicked; the launch's pulls land in its shadow lines before these go home; BASTE_COMMITTED replays what was deferred; BASTE_CLAIMED makes the launch an ordinary one; BASTE_UNPICK leaves no trace, and nothing once the commit has begun; BASTE_LIFE_EXPIRY unpicks at LIFE. That a launch in REVALIDATING is unpicked at LIFE and by BST_CTL too is the model's choice (log entry 34). GEN_REQ gives the write generations of pages. -/
def Obligations.Bastings : Prop :=
  (∀ s : State, (s.inp.fn ≠ 0 → exec .bstCtlWrite s = .next s) ∧
    (s.inp.fn = 0 → (s.bastings.map (·.1)).Nodup → ∃ t, exec .bstCtlWrite s = .next t ∧ t.bst.ctl = s.inp.val &&& 0xFF07#64 ∧ (s.bastings = [] → t = { s with bst := { s.bst with ctl := s.inp.val &&& 0xFF07#64 } }) ∧
      ∀ q b, (q, b) ∈ s.bastings → (let life := (s.inp.val.extractLsb' 8 8).toNat * 2 ^ 16
        let out := min 4 (s.inp.val.extractLsb' 0 3).toNat ≤ (s.bastings.filter (fun x => x.2.order < b.order)).length ∨ life = 0 ∨ life < s.since b.start
        (out → b.st ≠ .committing → t.basting? q = none) ∧ (¬ out ∨ b.st = .committing → t.basting? q = some b)))) ∧
  (∀ (s : State) (q : Nat), q = s.inp.id →
    let k := s.queue q
    (s.ready = false ∨ k.st ≠ .active ∨ k.baste = false ∨ k.prod ≠ k.cons ∨ k.histNew = false ∨ (∃ l ∈ s.launchesOf q, l.placed < recTeams l.rcd) ∨ (∃ e ∈ s.bastings, e.1 = q) ∨
      min 4 (s.bst.ctl.extractLsb' 0 3).toNat ≤ s.bastings.length ∨ s.bst.ctl.extractLsb' 8 8 = 0 ∨ s.quietFn k.fn = true ∨ predict k.hist = none → exec .basteStart s = .next s) ∧
    (∀ rcd, predict k.hist = some rcd → (recBok rcd = false ∨ recSys rcd = true ∨ recDebug rcd = true) →
      ∃ t, exec .basteStart s = .next t ∧ t.bastings = s.bastings ∧ t.teams = s.teams ∧ t.bst = s.bst ∧ t.launches = s.launches ∧ (∀ p, (t.ctx p).slot = (s.ctx p).slot) ∧ s.sameMem t) ∧
    (∀ rcd c f, s.ready = true → k.st = .active → k.baste = true → k.device = false → k.prod = k.cons → k.histNew = true → s.launches = [] → s.bastings = [] → 0 < (s.bst.ctl.extractLsb' 0 3).toNat →
      s.bst.ctl.extractLsb' 8 8 ≠ 0 → s.quietFn k.fn = false → predict k.hist = some rcd → recBok rcd = true → recSys rcd = false → recDebug rcd = false → recNdep rcd = 0 → recPmap rcd = 0 → recTidn rcd = 0 → recTeams rcd = 1 →
      recordFault s k.fn rcd none none = none → s.inp.load = .none → s.teams = [] → (∀ n, (s.clus n).pre.run ≠ 5) → (s.clusRing k.fn none).findSome? (fun c => (s.fit k.fn c (launchKey q k.prod) rcd).map (fun f => (c, f))) = some (c, f) →
      ∃ t b, exec .basteStart s = .next t ∧ t.basting? q = some b ∧ b.st = .running ∧ b.rcd = rcd ∧ b.seq = k.prod ∧ b.clusters = [c] ∧ b.start = s.clk ∧ b.matched = false ∧ b.doomed = false ∧
        t.bst = { s.bst with starts := s.bst.starts + 1 } ∧ t.teams = [((c, f.slot), ⟨launchKey q k.prod, 0, f.pos, if recNeedpa rcd then f.tiles else [], true, false, none⟩)] ∧
        (∀ p ∈ f.pos, (t.ctx ⟨c, p.1, p.2⟩).st = .ready ∧ (t.ctx ⟨c, p.1, p.2⟩).basting = true ∧ (t.ctx ⟨c, p.1, p.2⟩).lnch = lnchWord (launchKey q k.prod)) ∧
        (t.queue q).cons = k.cons ∧ (t.queue q).histNew = false ∧ t.launches = [] ∧ t.host = s.host ∧ s.sameMem t)) ∧
  (∀ (s : State) (q : Nat) (b : Basting), q = s.inp.id → s.bastings = [(q, b)] →
    let pages := (Assoc.get [] q s.readSets)
    let foreign := (pages.filter (fun e => paPkg (4096 * e.2.1) ≠ s.pkg)).map (·.2.1)
    (b.st ≠ .running ∨ b.matched = false → exec .basteAdopt s = .next s) ∧
    (b.st = .running → b.matched = true → ∀ l, s.launches = [(launchKey q b.seq, l)] → (∀ i, i < recNdep l.rcd → Assoc.has i l.dep = true) →
      ((∃ g ∈ foreign, s.dead.getLsbD (paPkg (4096 * g)) = true) → ∃ t, exec .basteAdopt s = .next t ∧ t.basting? q = none) ∧
      ((∀ g ∈ foreign, s.dead.getLsbD (paPkg (4096 * g)) = false) → ∃ t, exec .basteAdopt s = .next t ∧ t.basting? q = some { b with st := .revalidating, awaiting := foreign } ∧
        (foreign = [] → Sched.event .basteRevalidated { id := q } ∈ t.pending) ∧
        (∀ g ∈ foreign, ∃ n, (⟨s.pkg, paPkg (4096 * g), 0, 0, n, .genReq q (foreign.filter (fun h => paPkg (4096 * h) = paPkg (4096 * g)))⟩ : Item) ∈ t.items) ∧
        (∀ p, (s.ctx p).bast = some q → Assoc.has p s.ctxs = true → (t.ctx p).stop = true) ∧ (∀ p, (t.ctx p).w = (s.ctx p).w ∧ (t.ctx p).pc = (s.ctx p).pc) ∧ s.sameMem t)) ∧
    (b.st ≠ .revalidating → exec .genReply s = .next s ∧ exec .basteRevalidated s = .next s) ∧
    (b.st = .revalidating →
      ((∃ g ∈ s.inp.pairs, g.1 ∈ b.awaiting ∧ ∃ e ∈ pages, e.2.1 = g.1 ∧ e.2.2 ≠ g.2) → ∃ t, exec .genReply s = .next t ∧ t.basting? q = none) ∧
      ((∀ g ∈ s.inp.pairs, g.1 ∈ b.awaiting → ∀ e ∈ pages, e.2.1 = g.1 → e.2.2 = g.2) → (∀ g ∈ b.awaiting, ∃ x ∈ s.inp.pairs, x.1 = g) →
        ∃ t, exec .genReply s = .next t ∧ t.basting? q = some { b with awaiting := [] } ∧ t.pending = s.pending ++ [.event .basteRevalidated { id := q }]) ∧
      (b.awaiting = [] → b.doomed = false → (∃ e ∈ pages, paPkg (4096 * e.2.1) = s.pkg ∧ Assoc.get 0 e.2.1 s.gens ≠ e.2.2) → ∃ t, exec .basteRevalidated s = .next t ∧ Unpicked s t q b) ∧
      (b.awaiting = [] → b.doomed = false → (∀ e ∈ pages, paPkg (4096 * e.2.1) = s.pkg → Assoc.get 0 e.2.1 s.gens = e.2.2) →
        (s.bastLanding q b = true → exec .basteRevalidated s = .next { s with pending := s.pending ++ [.event .basteRevalidated s.inp] }) ∧
        (s.bastLanding q b = false → memWf s.mem = true → b.clusters.Nodup → (∀ c ∈ b.clusters, ((s.clus c).shadow.map (·.1)).Nodup ∧
            ∀ x ∈ (s.clus c).shadow, x.2.2.length = 64) → (∀ c ∈ b.clusters, ∀ d ∈ b.clusters, c ≠ d → ∀ x ∈ (s.clus c).shadow, ∀ y ∈ (s.clus d).shadow, x.1 ≠ y.1) →
          ∃ t, exec .basteRevalidated s = .next t ∧ t.basting? q = some { b with st := .committing } ∧ Sched.event .basteCommitted { id := q } ∈ t.pending ∧
            (∀ c ∈ b.clusters, (t.clus c).shadow = [] ∧ ∀ x ∈ (s.clus c).shadow, t.bytesAt (64 * x.1) x.2.1 64 = x.2.2) ∧
            (∀ pa key, (∀ c ∈ b.clusters, ∀ x ∈ (s.clus c).shadow, pa / 64 ≠ x.1) → t.byteAt pa key = s.byteAt pa key) ∧ Assoc.has q t.readSets = false))) ∧
    (b.st = .committing → s.inp.flag = false → s.replay = [] → (∀ e ∈ s.deferred, e.1 ≠ q) → ∃ t, exec .basteCommitted s = .next t ∧ t = { s with pending := s.pending ++ [.event .basteClaimed { id := q }] }) ∧
    (∀ (it : MsgItem), b.st = .committing → s.inp.flag = false → s.replay = [] → s.deferred = [(q, .msg it)] → destPkg it.dest = s.pkg → ∃ t, exec .basteCommitted s = .next t ∧ t.deferred = [] ∧
      t.replay = [(launchKey q b.seq, .msg { it with num := s.nextId })] ∧ Sched.event .msg { load := .msg { it with num := s.nextId, src := ⟨it.src.clus, it.src.core, it.src.ctx + 8⟩, listed := true } } ∈ t.pending ∧ Sched.event .basteClaimed { id := q } ∈ t.pending) ∧
    (b.st = .committing → (∀ e ∈ s.deferred, e.1 ≠ q) → ∃ t, exec .basteClaimed s = .next t ∧ t.bastings = [] ∧ t.bst = { s.bst with claims := s.bst.claims + 1 } ∧
      (∀ p, (s.ctx p).bast = some q → Assoc.has p s.ctxs = true → (t.ctx p).basting = false ∧ (t.ctx p).stop = false ∧ (t.ctx p).st = (if (s.ctx p).st = .blocked .held then .ready else (s.ctx p).st)) ∧
      (∀ e ∈ t.teams, e.2.launch = launchKey q b.seq → e.2.bast = false) ∧ (∀ e ∈ s.launches, e.1 = launchKey q b.seq → ∃ l, (e.1, l) ∈ t.launches ∧ l.placed = recTeams e.2.rcd) ∧ s.sameMem t) ∧
    (b.st = .committing → exec .basteUnpick s = .next s) ∧
    (b.st ≠ .committing → ∃ t, exec .basteUnpick s = .next t ∧ Unpicked s t q b) ∧
    (s.bst.life ≤ s.since b.start → b.st ≠ .committing → ∃ t, exec .basteLifeExpiry s = .next t ∧ Unpicked s t q b) ∧
    (s.since b.start < s.bst.life ∨ b.st = .committing → exec .basteLifeExpiry s = .next s)) ∧
  (∀ s : State, ∃ t, exec .genReq s = .next t ∧ t = { s with items := t.items, fabric := { s.fabric with flowTx := t.fabric.flowTx } } ∧
    ∃ n, t.items = s.items ++ [⟨s.pkg, s.inp.id, s.inp.core, s.inp.clus, n, .genReply s.inp.n (s.inp.nats.map (fun p => (p, Assoc.get 0 p s.gens)))⟩])

namespace Sys2Proof.Claims

/-- A lease request has completed (R344): GOT and WHY, then TEND, stand in its block, LEASEST holds DPKG and HELD with PEND 0, and its tag is DONE with the error. -/
structure LeaseDone (s t : State) (id : Nat) (l : Lease) (got why : Nat) (tend : DWord) (err : Byte) : Prop where
  gone : Assoc.has id t.fabric.leases = false
  got : t.bytesAt (corePa s.pkg l.pos.clus l.pos.core l.addr + 0x10) 0 8 = dwordBytes (BitVec.ofNat 64 (why * 2 ^ 56 + got))
  tend : t.bytesAt (corePa s.pkg l.pos.clus l.pos.core l.addr + 0x18) 0 8 = dwordBytes tend
  st : (t.ctx l.pos).leasest = BitVec.ofNat 32 (l.dest * 2 ^ 16 + min 255 (t.fabric.held l.dest))
  tag : ((t.core l.pos.clus l.pos.core).tag l.tag).st = .done ∧ ((t.core l.pos.clus l.pos.core).tag l.tag).err = err

/-- Request id of this package, for one colour or more, waits for its answer: its block lies in its core's store, its tag is BUSY with it, its context is there and no team of the cluster is saved. -/
structure LeaseWaits (s : State) (id : Nat) (l : Lease) : Prop where
  listed : s.fabric.leases = [(id, l)]
  mem : memWf s.mem = true
  block : l.addr % 32 = 0 ∧ l.addr + 32 ≤ 0x8000 ∧ l.pos.core < 128 ∧ l.dest < 4096
  least : 1 ≤ l.nmin
  tag : l.tag < 64 ∧ ((s.core l.pos.clus l.pos.core).tag l.tag).op = id ∧ ((s.core l.pos.clus l.pos.core).tag l.tag).st.isBusy = true
  ctx : (s.ctx l.pos).st ≠ .free
  saved : (s.clus l.pos.clus).saved = []

/-- A query of the fabric port waits for its answer at a context. -/
structure QueryWaits (s : State) (q : Query) (d : Reg) : Prop where
  st : (s.ctx s.inp.pos).st = .blocked (.query q d)
  spop : (s.ctx s.inp.pos).spop = []
  depth : (s.ctx s.inp.pos).depth = 0
  stop : (s.ctx s.inp.pos).stop = false

/-- The query is answered with a word. -/
def Answered (s t : State) (d : Reg) (w : Word) : Prop :=
  (t.ctx s.inp.pos).st = .ready ∧ (t.ctx s.inp.pos).pc = pcAdd (s.ctx s.inp.pos).pc 4 ∧ (t.ctx s.inp.pos).w = ((s.ctx s.inp.pos).setReg d w).w ∧ s.sameMem t

end Sys2Proof.Claims

/-- R343, R344. LEASE: TAG_BUSY, PULL_DESC, DEAD_PEER, LEASE_DENIED; else PEND is set, the tag is BUSY, and a request within the quota goes to the destination's port. DEADQ, LEASEQ and LEASEREL wait for the port's answer. R339, R345, R346. FABRIC_QUERY_ANSWER gives the word of DEADQ or LEASEQ, or ends grants of the
function towards the package. LEASE_ANSWER and LEASE_WAIT_EXPIRY complete a request; a grant of lanes that have been lit meanwhile is asked for again; LEASE_REQ pairs lanes at this package's port, or makes the request wait; TERM_END renews a grant or ends a revoked one (R341, R342); what one port
tells the other of it comes with the event (the model's choice, log entry 52). -/
def Obligations.Leases : Prop :=
  (∀ (s : State) (a : Reg) (g : Tag), s.Issues (.lease a g) → s.me.basting = false →
    let i := Instr.lease a g
    let v := s.view i
    let blk := val (s.seen i) a 1
    let w := v.descWord blk 0
    let w8 := v.descWord blk 8
    let dest := (w.extractLsb' 52 12).toNat
    let term := (w.extractLsb' 32 16).toNat
    let nwant := (w.extractLsb' 16 11).toNat
    let nmin := (w.extractLsb' 0 11).toNat
    let fn := (s.clus s.cur.clus).fn
    let bad0 := w.extractLsb' 48 4 ≠ 0 ∨ w.extractLsb' 27 5 ≠ 0 ∨ w.extractLsb' 11 5 ≠ 0 ∨ term = 0 ∨ nwant = 0 ∨ 1024 < nwant ∨ nmin = 0 ∨ nwant < nmin ∨ dest = s.pkg
    ((tagOf s g.toNat).st.isFree = false → CanTrap s → ∃ t, exec i s = .next t ∧ Traps s i 0x20 0 (BitVec.ofNat 32 g.toNat) s.me.pc t) ∧
    ((tagOf s g.toNat).st.isFree = true →
      ((blk % 32 ≠ 0 ∨ 0x8000 < blk + 32) → CanTrap s → ∃ t, exec i s = .next t ∧ Traps s i 0x21 (BitVec.ofNat 64 blk) 0 s.me.pc t) ∧
      (blk % 32 = 0 → blk + 32 ≤ 0x8000 → v.blockPoison blk 16 = true → CanTrap s → ∃ t, exec i s = .next t ∧ Traps s i 0x50 (BitVec.ofNat 64 blk) 0 s.me.pc t) ∧
      (blk % 32 = 0 → blk + 32 ≤ 0x8000 → v.blockPoison blk 16 = false →
        (bad0 → CanTrap s → ∃ t, exec i s = .next t ∧ Traps s i 0x21 (BitVec.ofNat 64 blk) 0 s.me.pc t) ∧
        (¬ bad0 → w8.extractLsb' 32 32 ≠ 0 → CanTrap s → ∃ t, exec i s = .next t ∧ Traps s i 0x21 (BitVec.ofNat 64 blk) 8 s.me.pc t) ∧
        (¬ bad0 → w8.extractLsb' 32 32 = 0 →
          (s.dead.getLsbD dest = true → CanTrap s → ∃ t, exec i s = .next t ∧ Traps s i 0x50 0 0 s.me.pc t) ∧
          (s.dead.getLsbD dest = false → s.fabric.isPartner dest = false → CanTrap s → ∃ t, exec i s = .next t ∧ Traps s i 0x51 0 1 s.me.pc t) ∧
          (s.dead.getLsbD dest = false → s.fabric.isPartner dest = true →
            ∃ t u, exec i s = .next t ∧ s.Completes i u (pcAdd s.me.pc 4) t ∧ tagOf u g.toNat = ⟨.busy (.lease s.cur.ctx), 0, s.me.slot.getD 512, s.cur.ctx, s.nextId⟩ ∧
              u.me.leasest = s.me.leasest ||| 0x80000000#32 ∧
              (s.nextId, ⟨s.cur, g.toNat, blk, fn, dest, nwant, nmin, term, s.effPrio (launchId s.me.lnch).1 (s.recordOf s.me.lnch), (w8.extractLsb' 0 32).toNat, s.clk⟩) ∈ u.fabric.leases ∧
              (s.fabric.quotaOf fn < s.fabric.attributed fn + nmin → Sched.event .leaseAnswer { id := s.nextId, load := .leaseAns (.refuse 1) } ∈ u.pending) ∧
              (s.fabric.attributed fn + nmin ≤ s.fabric.quotaOf fn → s.fabric.partners = [(dest, s.fabric.partner dest)] →
                ((s.fabric.lanesTo dest).length < nmin → Sched.event .leaseAnswer { id := s.nextId, load := .leaseAns (.refuse 2) } ∈ u.pending) ∧
                (nmin ≤ (s.fabric.lanesTo dest).length → ∃ it ∈ u.items, it.dpkg = dest ∧ it.opkg = s.pkg ∧
                  it.body = .leaseReq ⟨s.pkg, fn, s.nextId, nwant, nmin, term, s.effPrio (launchId s.me.lnch).1 (s.recordOf s.me.lnch), false, s.fabric.offered dest⟩))))))) ∧
  (∀ (s : State) (i : Instr) (q : Query) (d p n : Reg), s.Issues i → s.me.basting = false →
    (i = .deadq d p ∧ q = .dead (val (s.seen i) p 1 % 4096) ∨ i = .leaseq d p ∧ q = .lease (val (s.seen i) p 1 % 4096) ∨
      i = .leaserel d p n ∧ q = .release (val (s.seen i) p 1 % 4096) (val (s.seen i) n 1 % 2048)) →
    ∃ t, exec i s = .next t ∧ Waits s t i (.query q d) ∧ Sched.event .fabricQueryAnswer { pos := s.cur } ∈ t.pending) ∧
  (∀ (s : State) (p : Nat) (d : Reg),
    let f := s.fabric
    let fn := (s.clus s.inp.pos.clus).fn
    (QueryWaits s (.dead p) d → ∃ t, exec .fabricQueryAnswer s = .next t ∧
      (p = s.pkg → Answered s t d (BitVec.ofNat 32 (5 * 2 ^ 28 + p * 2 ^ 16))) ∧
      (p ≠ s.pkg → f.hop p = some p → Answered s t d (BitVec.ofNat 32 ((if s.dead.getLsbD p then 2 ^ 31 else 0) + (f.partner p).st.code * 2 ^ 28 + p * 2 ^ 16 + Assoc.get 0 p f.causes * 2 ^ 12 + min 2047 (f.held p)))) ∧
      (p ≠ s.pkg → ∀ h, h ≠ p → f.hop p = some h → Answered s t d (BitVec.ofNat 32 ((if s.dead.getLsbD p then 2 ^ 31 else 0) + 6 * 2 ^ 28 + h * 2 ^ 16 + Assoc.get 0 p f.causes * 2 ^ 12 + min 2047 (f.held p)))) ∧
      (p ≠ s.pkg → f.hop p = none → Answered s t d (BitVec.ofNat 32 ((if s.dead.getLsbD p then 2 ^ 31 else 0) + 7 * 2 ^ 28 + Assoc.get 0 p f.causes * 2 ^ 12 + min 2047 (f.held p))))) ∧
    (QueryWaits s (.lease p) d → f.grants.filter (fun e => e.2.dest = p && e.2.fn = fn) = [] → ∃ t, exec .fabricQueryAnswer s = .next t ∧
      Answered s t d (BitVec.ofNat 32 ((if f.leases.any (fun e => e.2.dest = p && e.2.fn = fn) then 2 ^ 31 else 0) + min 2047 (f.held p)))) ∧
    (∀ id g, QueryWaits s (.lease p) d → f.grants = [(id, g)] → g.dest = p → g.fn = fn → (g.tend - s.clk).toNat < 2 ^ 63 → g.tend ≠ s.clk → ∃ t, exec .fabricQueryAnswer s = .next t ∧
      Answered s t d (BitVec.ofNat 32 ((if f.leases.any (fun e => e.2.dest = p && e.2.fn = fn) then 2 ^ 31 else 0) + min 4095 ((g.tend - s.clk).toNat / 2100) * 2 ^ 16 + min 2047 (f.held p)))) ∧
    (∀ n, QueryWaits s (.release p n) d → (∀ e ∈ f.grants, ¬ (e.2.dest = p ∧ e.2.fn = fn)) → ∃ t, exec .fabricQueryAnswer s = .next t ∧ Answered s t d 0 ∧ t.fabric = f) ∧
    (∀ id g, QueryWaits s (.release p 0) d → f.grants = [(id, g)] → g.dest = p → g.fn = fn → ∃ t, exec .fabricQueryAnswer s = .next t ∧ Answered s t d (BitVec.ofNat 32 g.lanes.length) ∧ t.fabric.grants = []) ∧
    (∀ id g n, QueryWaits s (.release p n) d → f.grants = [(id, g)] → g.dest = p → g.fn = fn → 0 < n → n < g.lanes.length → ∃ t, exec .fabricQueryAnswer s = .next t ∧ Answered s t d (BitVec.ofNat 32 n) ∧
      t.fabric.grants = [(id, { g with lanes := g.lanes.take (g.lanes.length - n) })])) ∧
  (∀ (s : State) (l : Lease), LeaseWaits s s.inp.id l →
    (∀ why, s.inp.load = .leaseAns (.refuse why) → why < 8 → ∃ t, exec .leaseAnswer s = .next t ∧ LeaseDone s t s.inp.id l 0 why 0 0x51) ∧
    (s.inp.load = .leaseAns .dead → ∃ t, exec .leaseAnswer s = .next t ∧ LeaseDone s t s.inp.id l 0 0 0 0x50) ∧
    (∀ lanes tend, s.inp.load = .leaseAns (.grant lanes tend) →
      (s.fabric.quotaOf l.fn < s.fabric.attributed l.fn + l.nmin → ∃ t, exec .leaseAnswer s = .next t ∧ LeaseDone s t s.inp.id l 0 1 0 0x51) ∧
      (s.fabric.attributed l.fn + l.nmin ≤ s.fabric.quotaOf l.fn →
        ((lanes.filter (fun r => (s.fabric.offered l.dest).contains r)).length < l.nmin → ∃ t, exec .leaseAnswer s = .next t ∧ t.fabric.leases = s.fabric.leases ∧
          ∃ it ∈ t.items, it.dpkg = l.dest ∧ it.body = .leaseReq ⟨s.pkg, l.fn, s.inp.id, l.nwant, l.nmin, l.term, l.prio, true, s.fabric.offered l.dest⟩) ∧
        ((lanes.map (·.lane)).Nodup → (lanes.map (·.rx)).Nodup → (∀ x ∈ lanes, x ∈ s.fabric.offered l.dest) → l.nmin ≤ lanes.length → lanes.length ≤ l.nwant → l.nwant ≤ 1024 →
          s.fabric.attributed l.fn + lanes.length ≤ s.fabric.quotaOf l.fn →
          ∃ t, exec .leaseAnswer s = .next t ∧ LeaseDone s t s.inp.id l lanes.length 0 (s.clk + BitVec.ofNat 64 (usCycles l.term)) 0 ∧
            (s.inp.id, ⟨l.dest, l.fn, lanes.map (·.lane), l.term, s.clk + BitVec.ofNat 64 (usCycles l.term), false, s.nextId⟩) ∈ t.fabric.grants ∧
            ∀ x ∈ lanes, (t.fabric.colour x.lane l.dest).on = true ∧ (t.fabric.colour x.lane l.dest).grant = some s.inp.id ∧ (t.fabric.colour x.lane l.dest).route = x))) ∧
    (l.waitt ≠ 0 → usCycles l.waitt ≤ s.since l.asked → ∃ t, exec .leaseWaitExpiry s = .next t ∧ LeaseDone s t s.inp.id l 0 3 0 0x51) ∧
    (l.waitt = 0 ∨ s.since l.asked < usCycles l.waitt → exec .leaseWaitExpiry s = .next s)) ∧
  (∀ (s : State) (l : LeaseItem), s.inp.load = .lease l →
    let ok := s.fabric.pairable l
    let known := ∃ g ∈ s.fabric.inbound, g.opkg = l.opkg ∧ g.req = l.req
    (known → l.anew = false → exec .leaseReq s = .next s) ∧
    (¬ known → s.fabric.waiting = [] → l.prio < 8 →
      (l.nmin ≤ ok.length → ∃ t, exec .leaseReq s = .next t ∧ t.fabric.waiting = [] ∧ t.fabric.inbound = s.fabric.inbound ++ [⟨l.opkg, l.req, l.fn, ok.take l.nwant, false⟩] ∧
        ∃ it ∈ t.items, it.dpkg = l.opkg ∧ it.body = .leaseAnswer l.req (.grant (ok.take l.nwant) (s.clk + BitVec.ofNat 64 (usCycles l.term)))) ∧
      (ok.length < l.nmin → ∃ t, exec .leaseReq s = .next t ∧ t.fabric.waiting = [⟨l, s.clk⟩] ∧ t.items = s.items ∧
        t.fabric.inbound.map (fun g => { g with revoked := false }) = s.fabric.inbound.map (fun g => { g with revoked := false })))) ∧
  (∀ (s : State) (g : Inbound), s.inp.flag = true → s.fabric.inbound = [g] → g.opkg = s.inp.id → g.req = s.inp.n → s.fabric.waiting = [] →
    (g.revoked = true ∨ s.inp.slot = 1 → ∃ t, exec .termEnd s = .next t ∧ t.fabric = { s.fabric with inbound := [] }) ∧ (g.revoked = false → s.inp.slot ≠ 1 → exec .termEnd s = .next s)) ∧
  (∀ (s : State) (g : Grant), s.inp.flag = false → s.fabric.grants = [(s.inp.id, g)] → (s.clk - g.tend).toNat < 2 ^ 63 →
    (g.revoked = true ∨ s.inp.slot = 1 → ∃ t, exec .termEnd s = .next t ∧ t.fabric.grants = []) ∧
    (g.revoked = false → s.inp.slot ≠ 1 → s.fabric.leases = [] → s.fabric.attributed g.fn ≤ s.fabric.quotaOf g.fn → ∃ t, exec .termEnd s = .next t ∧ t.fabric.grants = [(s.inp.id, { g with tend := g.tend + BitVec.ofNat 64 (usCycles g.term) })]))

namespace Sys2Proof.Claims

/-- Only partner p and its lanes' colours change in the fabric. -/
def training (s t : State) (p : Nat) : Prop := ∀ q, q ≠ p → t.fabric.partner q = s.fabric.partner q

/-- Flits put on lanes after those already sent. -/
def sends (s t : State) (l : List SentFlit) : Prop := t.fabric.sent = s.fabric.sent ++ l

/-- The group keys that an export master secret gives (R27). -/
def keysFrom (secret : List Byte) : List (List Byte) := (List.range 8).map (fun g => hkdf secret (ascii "G9 colour group" ++ [BitVec.ofNat 8 g]))

/-- The only colour towards a partner is that of one lane, and it can carry a flit. -/
def OneLit (s : State) (lane p : Nat) : Prop := s.fabric.colours = [((lane, p), s.fabric.colour lane p)] ∧ (s.fabric.colour lane p).lit = true ∧ s.keyFresh p lane = true

/-- The event that an item of this package stands for at its destination (R334). -/
def arrival (it : Item) : List Sched :=
  match it.body with
  | .read r => [.event .read { load := .read r }]
  | .readReply r => [.event .readReply { load := .reply r }]
  | .pullReq r => [.event .pullReq { load := .read r }]
  | .pullData r o => [.event .pullData { load := .reply r, ofs := o }]
  | .watchReq w => [.event .watchReq { load := .watch w }]
  | .watchDone d => [.event .watchDone { load := .done d }]
  | .msg m => [.event .msg { load := .msg m }]
  | .msgAnswer p n a => [.event .msgAnswer { pos := p, id := n, load := .msgAns a }]
  | .leaseReq l => [.event .leaseReq { load := .lease l }]
  | .leaseAnswer id a => [.event .leaseAnswer { id := id, load := .leaseAns a }]
  | .genReq q pages => [.event .genReq { id := it.opkg, clus := it.oclus, core := it.dclus, n := q, nats := pages }]
  | .genReply q gens => [.event .genReply { id := q, n := it.opkg, pairs := gens }]
  | .state dead up => [.event .state { id := it.opkg, nats := dead, pairs := up.map (fun p => (p, 0)) }]
  | .error kind req code => [.event .error { id := req, n := code.toNat, ofs := kind }]
  | .unassigned _ _ => []

/-- Every ordered item of a list is the next of its flow (R334), whose place a function gives. -/
def inTurn (place : Nat × Nat × Nat → Nat) : List Item → Prop
  | [] => True
  | it :: l =>
    if it.body.ordered then it.fseq = place (it.opkg, it.oclus, it.dclus) ∧ inTurn (fun w => if w = (it.opkg, it.oclus, it.dclus) then (it.fseq + 1) % 65536 else place w) l
    else inTurn place l

/-- An event of a received flit and the KIND it stands for (R330). -/
def flitEvents : List (Instr × Nat) := [(.data, 1), (.ack, 2), (.nak, 3), (.idle, 4)]

end Sys2Proof.Claims

/-- R27. Training goes DOWN, CAL, RTT, KEYS, WINDOWS, UP; a partner without a usable colour, a round trip above 2 ms (for the partner as a whole: the model's choice, log entry 41), a session that does not stand or windows that do not fit go back to DOWN with CAUSE 4; in RTT each usable colour sends 16 echo flits
(their bytes: the model's choice, log entry 42) and a partner's echo is returned; a partner that comes UP has its dead-peer bit cleared. R331. KEY_UPDATE draws new group keys, and what a group key seals it opens. R327, R333. Retuned and recalibrated lanes may send again, and a lane the destination does not pair stays dark;
as the destination this port pairs a floor colour where no colour lands, and lets all but the last go.
R332. Each event of the go-back table has the action of its row: FLIT_SEND within the window, DATA accepted with its items delivered in their flows' order, refused with NAK for a gap or for want of room, or acknowledged as a duplicate or as the 64th, ACK and NAK within the window, resends bit for bit after the timeout and darkness at the sixteenth, IDLE, and ACK after 1 µs. R335. An item for another package goes on, or
an ERROR item goes back. -/
def Obligations.Links : Prop :=
  (∀ (s : State) (p : Nat), p = s.inp.id →
    let x := s.fabric.partner p
    let rested := x.failedAt = none ∨ ∃ b, x.failedAt = some b ∧ usCycles 1000000 ≤ s.since b
    (s.boot.dev = .ready → x.st = .down → rested → s.fabric.isPartner p = true → ∃ t, exec .trainStart s = .next t ∧ t.fabric.partner p = { x with st := .cal } ∧ training s t p) ∧
    (s.boot.dev ≠ .ready ∨ x.st ≠ .down ∨ ¬ rested ∨ s.fabric.isPartner p = false → exec .trainStart s = .next s) ∧
    (x.st = .cal → ∀ ok, ok = (x.routes.zipIdx.filter (fun e => s.inp.nats.contains e.2)).map (·.1) →
      (ok ≠ [] → ∃ t, exec .calDone s = .next t ∧ t.fabric.partner p = { x with st := .rtt, usable := ok.map (fun r => (r, 0)) } ∧ training s t p ∧
        sends s t (ok.flatMap (fun r => List.replicate 16 (echoFlit r.lane p)))) ∧
      (ok = [] → ∃ t, exec .calDone s = .next t ∧ (t.fabric.partner p).st = .down ∧ (t.fabric.partner p).failedAt = some s.clk ∧ Assoc.get 0 p t.fabric.causes = 4)) ∧
    (x.st = .rtt →
      (∀ us, us = x.usable.zipIdx.map (fun u => (u.1.1, (s.inp.pairs.find? (fun e => e.1 = u.2)).elim 0 (·.2))) →
        ((∀ u ∈ us, u.2 ≤ 2000000) → ∃ t, exec .rttDone s = .next t ∧ t.fabric.partner p = { x with st := .keys, usable := us } ∧ training s t p) ∧
        ((∃ u ∈ us, 2000000 < u.2) → ∃ t, exec .rttDone s = .next t ∧ (t.fabric.partner p).st = .down ∧ Assoc.get 0 p t.fabric.causes = 4)) ∧
      (∃ t, exec .echo s = .next t ∧ t = { s with fabric := t.fabric } ∧ sends s t [echoFlit s.inp.n p])) ∧
    (x.st = .keys →
      (∀ us, s.inp.flag = true → s.fabric.admitted p = some us → ∃ t, exec .keysDone s = .next t ∧ (t.fabric.partner p).st = .up ∧ (t.fabric.partner p).usable = us ∧ (t.fabric.partner p).keys = keysFrom s.inp.bytes ∧
        (p < 4096 → t.dead.getLsbD p = false) ∧ (∀ q, q ≠ p → t.dead.getLsbD q = s.dead.getLsbD q)) ∧
      (s.inp.flag = false ∨ s.fabric.admitted p = none → ∃ t, exec .keysDone s = .next t ∧ (t.fabric.partner p).st = .down ∧ t.dead = s.dead ∧ Assoc.get 0 p t.fabric.causes = 4)) ∧
    (x.usable ≠ [] → (∀ u ∈ x.usable, u.2 ≤ 20000) → s.fabric.windowed p = [] → windowBytes x.usable ≤ 50331648 + 2147483648 → s.fabric.admitted p = some x.usable) ∧
    (x.st = .up → ∃ t, exec .keyUpdate s = .next t ∧ t.fabric.partner p = { x with keys := keysFrom s.inp.bytes, oldKeys := x.keys, keyed := s.clk, sealedBy := [] } ∧ t.fabric.colours = s.fabric.colours) ∧
    (x.st ≠ .up → exec .keyUpdate s = .next s)) ∧
  (∀ key iv aad l : List Byte, key.length = 32 → gcmOpen key iv aad (gcmSeal key iv aad l).1 (gcmSeal key iv aad l).2 = some l) ∧
  (∀ (s : State) (p lane : Nat), p = s.inp.id → lane = s.inp.n →
    let f := s.fabric
    let c := f.colour lane p
    let a := f.ackFor p
    (s.inp.slot = 0 → (c.on = true → c.tuning = true →
        (s.inp.flag = false → ∃ t, exec .laneRetuned s = .next t ∧ t.fabric.colour lane p = { c with tuning := false, sentAt := s.clk } ∧ t.items = s.items) ∧
        (s.inp.flag = true → (∀ u ∈ (f.partner p).usable, u.1.lane = lane → u.1 = c.route) → ∃ t, exec .laneRetuned s = .next t ∧ t.fabric.colour lane p = { c with tuning := false, on := false } ∧ t.items = s.items)) ∧
      (c.on = false ∨ c.tuning = false → exec .laneRetuned s = .next s)) ∧
    (s.inp.slot = 1 →
      let free := s.inp.ofs < 1024 ∧ f.isPartner p = true ∧ (∀ x ∈ f.rxFloor, x.2.2 ≠ s.inp.ofs) ∧ ∀ g ∈ f.inbound, ∀ x ∈ g.lanes, x.rx ≠ s.inp.ofs
      (free → exec .laneRetuned s = .next { s with fabric := { f with rxFloor := f.rxFloor ++ [(p, lane, s.inp.ofs)] } }) ∧ (¬ free → exec .laneRetuned s = .next s)) ∧
    (s.inp.slot = 2 →
      let heard := (f.rxFloor.filter (fun x => x.1 = p)).length + ((f.inbound.filter (fun g => g.opkg = p)).map (fun g => g.lanes.length)).sum
      (1 < heard → (p, lane, s.inp.ofs) ∈ f.rxFloor → f.waiting = [] → exec .laneRetuned s = .next { s with fabric := { f with rxFloor := f.rxFloor.erase (p, lane, s.inp.ofs) } }) ∧
      (heard ≤ 1 ∨ (p, lane, s.inp.ofs) ∉ f.rxFloor → exec .laneRetuned s = .next s)) ∧
    (c.on = true → c.dark = true → c.tuning = false → ∃ t, exec .colourRecalibrated s = .next t ∧ t.fabric.colour lane p = { c with dark := false, resends := 0, moved := s.clk, sentAt := s.clk } ∧ (t.fabric.partner p).darkSince = none) ∧
    (c.on = false ∨ c.dark = false → exec .colourRecalibrated s = .next s) ∧
    (∀ l, l = s.batch p (min 28 (max 1 s.inp.ofs)) [] s.items →
      (l.length ≤ 28 ∧ (l.flatMap Item.bytes).length ≤ 224 ∧ List.Sublist l s.items ∧ ∀ it ∈ l, s.way it.dpkg = some p) ∧
      (c.lit = true → c.closing = false → l ≠ [] → c.flits.length < c.window → s.keyFresh p lane = true → ∃ t x, exec .flitSend s = .next t ∧ x = s.sealFlit p lane .data c.next a.2 a.1 l ∧ sends s t [x] ∧
        x.bytes.take 8 = leBytes 8 (c.next * 2 ^ 16 + 256 + l.length) ∧
        (t.fabric.colour lane p).next = (c.next + 1) % 2 ^ 48 ∧ (t.fabric.colour lane p).flits = c.flits ++ [x] ∧ t.items.length + l.length = s.items.length) ∧
      (c.lit = false ∨ c.closing = true ∨ l = [] ∨ c.window ≤ c.flits.length ∨ s.keyFresh p lane = false → exec .flitSend s = .next s)) ∧
    (c.lit = true → c.flits ≠ [] → nsCycles (2 * c.rtt) + usCycles 2 ≤ s.since c.moved → ∃ t, exec .retransmitTimeout s = .next t ∧ sends s t c.flits ∧
      (c.resends < 15 → t.fabric.colour lane p = { c with sentAt := s.clk, moved := s.clk, resends := c.resends + 1 } ∧ t.items = s.items) ∧
      (15 ≤ c.resends → t.fabric.colour lane p = { c with sentAt := s.clk, moved := s.clk, resends := c.resends + 1, dark := true } ∧ t.items = c.flits.flatMap (·.items) ++ s.items)) ∧
    (c.lit = false ∨ c.flits = [] ∨ s.since c.moved < nsCycles (2 * c.rtt) + usCycles 2 → exec .retransmitTimeout s = .next s) ∧
    (OneLit s lane p → usCycles 2 ≤ s.since c.sentAt → ∃ t, exec .idleTimer s = .next t ∧ sends s t [s.sealFlit p lane .idle c.next a.2 a.1 []] ∧ t.fabric.colour lane p = { c with sentAt := s.clk }) ∧
    (c.lit = false ∨ s.since c.sentAt < usCycles 2 → exec .idleTimer s = .next s) ∧
    (∀ d, OneLit s d p →
      let r : RxColour := Assoc.get {} (p, lane) f.rx
      (r.unacked ≠ 0 → usCycles 1 ≤ s.since r.since → ∃ t, exec .ackTimer s = .next t ∧ sends s t [s.sealFlit p d .ack (f.colour d p).next r.exp lane []] ∧ (Assoc.get {} (p, lane) t.fabric.rx : RxColour).unacked = 0) ∧
      (r.unacked = 0 ∨ s.since r.since < usCycles 1 → exec .ackTimer s = .next s))) ∧
  (∀ (s : State) (x : Flit) (p lane : Nat), s.inp.load = .flit x → p = s.inp.id → lane = s.inp.n →
    let f := s.fabric
    let y := f.partner p
    (∀ e ∈ flitEvents, (s.heard? p lane e.2 x = none ∨ y.st ≠ .up) → exec e.1 s = .next s) ∧
    (∀ kind, x.bytes.length ≠ 256 ∨ (flitFields x.bytes).elim True (fun h => h.2.1 ≠ kind ∨ s.openFlit p lane h.1 x.bytes ≠ some (payloadBytes x.items)) → s.heard? p lane kind x = none) ∧
    (∀ kind h, y.st = .up → s.heard? p lane kind x = some h →
      let c := f.colour h.acol p
      let k := (h.aseq + 2 ^ 48 - c.una) % 2 ^ 48
      let r : RxColour := Assoc.get {} (p, lane) f.rx
      (∀ e ∈ flitEvents, e.2 = kind → kind ≠ 3 → ∃ t, exec e.1 s = .next t ∧ (t.fabric.partner p).heard = s.clk ∧ s.sameMem t ∧
        (c.on = true → 0 < k → k ≤ c.flits.length → c.closing = false → (t.fabric.colour h.acol p).una = h.aseq ∧ (t.fabric.colour h.acol p).flits = c.flits.drop k) ∧
        (c.flits.length < k → (t.fabric.colour h.acol p).una = c.una ∧ (t.fabric.colour h.acol p).flits = c.flits)) ∧
      (kind = 3 → ∃ t, exec .nak s = .next t ∧ (t.fabric.partner p).heard = s.clk ∧
        (c.lit = true → 0 < k → k ≤ c.flits.length → c.closing = false → (t.fabric.colour h.acol p).una = h.aseq ∧ (t.fabric.colour h.acol p).flits = c.flits.drop k ∧ sends s t (c.flits.drop k)) ∧
        (c.lit = true → k = 0 → sends s t c.flits) ∧
        (c.flits.length < k → t.fabric.colour h.acol p = c ∧ sends s t []) ∧ (c.lit = false → sends s t [])) ∧
      (kind = 1 → c.closing = false → r.exp < 2 ^ 48 →
        let exp := fun (t : State) => (Assoc.get {} (p, lane) t.fabric.rx : RxColour).exp
        let ahead := (h.seq + 2 ^ 48 - r.exp) % 2 ^ 48
        (h.seq = r.exp → y.buffer = [] → (∀ it ∈ h.items, it.dpkg = s.pkg) → inTurn (fun w => Assoc.get 0 w f.flowRx) h.items →
          ∃ t, exec .data s = .next t ∧ exp t = (r.exp + 1) % 2 ^ 48 ∧ t.pending = s.pending ++ h.items.flatMap arrival ∧
            (r.unacked < 63 → sends s t []) ∧
            (r.unacked = 63 → ∀ d, OneLit s d p → sends s t [s.sealFlit p d .ack (f.colour d p).next ((r.exp + 1) % 2 ^ 48) lane []] ∧ (Assoc.get {} (p, lane) t.fabric.rx : RxColour).unacked = 0)) ∧
        (h.seq = r.exp → y.buffer = [] → r.unacked < 63 → ∀ it, h.items = [it] →
          let place := (it.fseq + 65536 - Assoc.get 0 (it.opkg, it.oclus, it.dclus) f.flowRx) % 65536
          (it.dpkg = s.pkg → it.body.ordered = true → 0 < place → Assoc.get 0 (it.opkg, it.oclus, it.dclus) f.flowRx < 65536 → it.fseq < 65536 → ∃ t, exec .data s = .next t ∧ exp t = (r.exp + 1) % 2 ^ 48 ∧ t.pending = s.pending ∧
            t.fabric.flowRx = f.flowRx ∧ (t.fabric.partner p).buffer = if place < 32768 then [[it]] else []) ∧
          (it.dpkg ≠ s.pkg → ∃ t, exec .data s = .next t ∧ t.pending = s.pending ∧
            (s.way it.dpkg ≠ none → t.items = s.items ++ [it]) ∧
            (s.way it.dpkg = none → it.opkg = s.pkg → t.items = s.items) ∧
            (s.way it.dpkg = none → it.opkg ≠ s.pkg → ∃ n, t.items = s.items ++ [⟨s.pkg, it.opkg, 0, it.oclus, n, .error it.body.itype it.body.req 0x50⟩]))) ∧
        ((0 < ahead ∧ ahead < 2 ^ 47) ∨ (h.seq = r.exp ∧ 512 ≤ y.buffer.length) → r.naked = none → ∀ d, OneLit s d p →
          ∃ t, exec .data s = .next t ∧ sends s t [s.sealFlit p d .nak (f.colour d p).next r.exp lane []] ∧ exp t = r.exp ∧ t.pending = s.pending) ∧
        (2 ^ 47 ≤ ahead → ∀ d, OneLit s d p →
          ∃ t, exec .data s = .next t ∧ sends s t [s.sealFlit p d .ack (f.colour d p).next r.exp lane []] ∧ exp t = r.exp ∧ t.pending = s.pending))))

namespace Sys2Proof.Claims

/-- The context at p has taken a precise trap (R364). -/
def Took (s t : State) (p : Pos) (code : Byte) (xaddr : DWord) : Prop :=
  (t.ctx p).xcause = code.setWidth 32 ∧ (t.ctx p).xaddr = xaddr ∧ (t.ctx p).xpc = codeAddr (s.ctx p).pc ∧ (t.ctx p).pc = (s.ctx p).tvec ∧ (t.ctx p).intrap = true ∧ (t.ctx p).st = .ready ∧ (t.ctx p).w = (s.ctx p).w

/-- A context that a trap enters its handler from. -/
def MayTrap (s : State) (p : Pos) : Prop := (s.ctx p).basting = false ∧ (s.ctx p).stop = false ∧ (s.ctx p).last = false ∧ (s.ctx p).intrap = false

/-- Nothing in this package waits for package p but loads, p relays for no other, and no team bastes or is saved. -/
structure Alone (s : State) (p : Nat) : Prop where
  number : p < 4096 ∧ p ≠ s.pkg
  relays : (s.fabric.partner p).relays = []
  reads : ∀ o ∈ s.outReads, o.pkg ≠ p
  tags : ∀ e ∈ s.cores, ∀ n i b, n < 64 → (e.2.tag n).st ≠ .busy (.watch i b p)
  leases : ∀ e ∈ s.fabric.leases, e.2.dest ≠ p
  pulls : ∀ e ∈ s.pulls, ∀ b ∈ e.2.bytes, paPkg b.src ≠ p
  bastings : s.bastings = []
  saved : ∀ e ∈ s.clusters, e.2.saved = []
  items : ∀ it ∈ s.items, it.opkg ≠ p
  messages : ∀ e ∈ s.clusters, ∀ m ∈ e.2.outMsgs, m.2.pkg ≠ p
  senders : ∀ e ∈ s.ctxs, e.2.full = true → e.2.ansPkg ≠ p
  replay : s.replay = []
  ctxs : (s.ctxs.map (·.1)).Nodup

/-- A debug access of cluster c has ended (R386): DONE, with ERR and CODE where the code is not 0. -/
def DebugDone (s t : State) (c : Nat) (code : Byte) (data : DWord) : Prop :=
  (t.clus c).dbg = { cmd := none, data := data, busy := false, done := true, err := code ≠ 0, code := code } ∧ s.sameMem t

end Sys2Proof.Claims

/-- R334, R336. READ: the owner port answers with the bytes, the owner's publication count and the page's generation, with PERM where it refuses the function or the key slot is not held by it, with DEAD_PEER for a poisoned line. READ_REPLY ends the outstanding request of a load, of a plane-array command or of a debug
access: data, or the status. R335. ERROR ends the request that its ITYPE and number name: a read, a watch, a message, a lease request, a request for generations. R337. DEAD_PEER_DECLARE, after DT, the larger of DTMIN and 4 round trips
and 100 µs, without a flit, or after DTMIN of darkness: the dead-peer bit, every lease and lane towards the package, every watch entry and item for it, and the partner's state; what waits for the package ends with DEAD_PEER: loads, walks and debug accesses,
pulls, watches, messages and lease requests. STATE: what a relay reports of the packages it relays for, told on to the other partners. -/
def Obligations.OwnerPort : Prop :=
  (∀ (s : State) (it : ReadItem), s.inp.load = .read it →
    ∃ t n r, exec .read s = .next t ∧ t = { s with items := t.items, fabric := { s.fabric with flowTx := t.fabric.flowTx } } ∧
      t.items = s.items ++ [⟨s.pkg, it.opkg, paClus it.pa, it.oclus, n, .readReply r⟩] ∧ r.req = it.req ∧ r.gen = Assoc.get 0 (it.pa / 4096) s.gens ∧
      (paPkg it.pa ≠ s.pkg → r.status = 0x50 ∧ r.bytes = []) ∧
      (paPkg it.pa = s.pkg →
        let refused := (s.ownerRefuses it.fn it.pa = true) ∨ ((paRegion it.pa).isHbm = true ∧ ¬ HoldsSlot s it.key it.fn)
        let spoilt := ∃ l ∈ s.poison, it.pa / 64 ≤ l ∧ 64 * l < it.pa + it.len
        (refused → r.status = 0x11 ∧ r.bytes = []) ∧
        (¬ refused → spoilt → r.status = 0x50 ∧ r.bytes = []) ∧
        (¬ refused → ¬ spoilt → r.status = 0 ∧ r.stamp = (s.clus (paClus it.pa)).pub ∧
          ((∀ m, s.bastCore (paClus it.pa) m = false) → r.bytes = s.bytesAt it.pa it.key it.len)))) ∧
  (∀ (s : State) (r : ReplyItem) (o : OutRead) (p : Pos) (q : LoadReq), s.inp.load = .reply r → s.outReads = [o] → o.req = r.req → o.who = .load p → (s.ctx p).st = .blocked (.load q) →
    (s.ctx p).basting = false → (s.ctx p).spop = [] → (s.ctx p).convoy = none → (s.ctx p).depth = 0 → r.bytes.length = 64 → q.pa % 64 + q.size ≤ 64 →
    (q.size = 1 ∨ q.size = 2 ∨ q.size = 4 * q.words) → (2 < q.size → q.signed = false) → q.words ≤ 8 →
    (r.status = 0 → ∃ t, exec .readReply s = .next t ∧ t.outReads = [] ∧ (t.ctx p).w = ((s.ctx p).setGroup q.dst (loadedWords q.size q.signed ((r.bytes.drop (q.pa % 64)).take q.size))).w ∧
      (t.ctx p).st = .ready ∧ (t.ctx p).pc = pcAdd (s.ctx p).pc q.len ∧ (q.ord = .acq → r.stamp ≤ (t.clus p.clus).floor (paOwner q.pa)) ∧ (q.swm = false → s.sameMem t)) ∧
    (r.status ≠ 0 → MayTrap s p → ∃ t, exec .readReply s = .next t ∧ t.outReads = [] ∧ Took s t p r.status q.xaddr ∧ s.sameMem t)) ∧
  (∀ (s : State) (r : ReplyItem) (o : OutRead) (c tile id unit : Nat) (m : MatCmd), s.inp.load = .reply r → s.outReads = [o] → o.req = r.req → o.who = .matrix c tile id unit → r.status = 0 →
    (s.tile c tile).cmds = [m] → m.id = id → m.bast = none →
    ∃ t, exec .readReply s = .next t ∧ t.outReads = [] ∧ (t.tile c tile).cmds = [{ m with got := Assoc.put unit r.bytes m.got }] ∧ t.pending = s.pending ++ [.event .bFetchDone { clus := c }] ∧ s.sameMem t) ∧
  (∀ (s : State) (r : ReplyItem) (o : OutRead) (c : Nat), s.inp.load = .reply r → s.outReads = [o] → o.req = r.req → o.who = .dbg c →
    (r.status = 0 → ∃ t, exec .readReply s = .next t ∧ t.outReads = [] ∧ DebugDone s t c 0 (bytesDWord r.bytes)) ∧
    (r.status ≠ 0 → ∃ t, exec .readReply s = .next t ∧ t.outReads = [] ∧ DebugDone s t c r.status (s.clus c).dbg.data)) ∧
  (∀ (s : State), ((∀ r, s.inp.load ≠ .reply r) ∨ (∃ r, s.inp.load = .reply r ∧ ∀ o ∈ s.outReads, o.req ≠ r.req)) → exec .readReply s = .next s) ∧
  (∀ s : State,
    let code : Byte := BitVec.ofNat 8 s.inp.n
    (s.inp.ofs ∉ [0, 2, 4, 6, 8, 10] → exec .error s = .next s) ∧
    (s.inp.ofs = 0 ∨ s.inp.ofs = 2 → (∀ o ∈ s.outReads, o.req ≠ s.inp.id) → exec .error s = .next s) ∧
    (s.inp.ofs = 0 ∨ s.inp.ofs = 2 → ∀ o, s.outReads = [o] → o.req = s.inp.id →
      (∀ p q, o.who = .load p → (s.ctx p).st = .blocked (.load q) → MayTrap s p → ∃ t, exec .error s = .next t ∧ t.outReads = [] ∧ Took s t p code q.xaddr ∧ s.sameMem t) ∧
      (∀ c, o.who = .dbg c → ∃ t, exec .error s = .next t ∧ t.outReads = [] ∧ DebugDone s t c code (s.clus c).dbg.data)) ∧
    (s.inp.ofs = 4 → (∀ e ∈ s.clusters, ∀ w ∈ e.2.asked, w.op ≠ s.inp.id) → exec .error s = .next s) ∧
    (s.inp.ofs = 4 → ∀ c k w, s.clusters = [(c, k)] → k.asked = [w] → w.op = s.inp.id → ∃ t, exec .error s = .next t ∧ t = { s with pending := s.pending ++ [.event .watchDone { load := .done (doneItem s w 0 0 code) }] }) ∧
    (s.inp.ofs = 6 → ∃ t, exec .error s = .next t ∧
      t = { s with pending := s.pending ++ [.event .msgAnswer { pos := ⟨s.inp.id / 65536 % 256, s.inp.id / 256 % 256, s.inp.id % 256⟩, id := s.inp.id / 2 ^ 24, load := .msgAns .dead }] }) ∧
    (s.inp.ofs = 8 → (∀ e ∈ s.fabric.leases, e.1 ≠ s.inp.id) → exec .error s = .next s) ∧
    (s.inp.ofs = 8 → ∀ l, LeaseWaits s s.inp.id l → ∃ t, exec .error s = .next t ∧ LeaseDone s t s.inp.id l 0 0 0 code) ∧
    (s.inp.ofs = 10 → ∃ t, exec .error s = .next t ∧ t = { s with bastings := t.bastings, pending := s.pending ++ [.event .basteUnpick { id := s.inp.id }] } ∧
      t.bastings = s.bastings.map (fun e => if e.1 = s.inp.id then (e.1, { e.2 with doomed := true }) else e))) ∧
  (∀ (s : State) (p : Nat), p = s.inp.id →
    let x := s.fabric.partner p
    let dtmin := (s.fabric.ctl.extractLsb' 32 16).toNat
    let dark := ∃ b, x.darkSince = some b ∧ usCycles dtmin ≤ s.since b
    (x.st ≠ .up → exec .deadPeerDeclare s = .next s) ∧
    ∀ rtt, (∀ e ∈ s.fabric.colours, e.1.2 = p → e.2.on = true → e.2.rtt ≤ rtt) → (rtt = 0 ∨ ∃ e ∈ s.fabric.colours, e.1.2 = p ∧ e.2.on = true ∧ e.2.rtt = rtt) →
      let silent := usCycles dtmin ≤ s.since x.heard ∧ nsCycles (4 * rtt) + usCycles 100 ≤ s.since x.heard
      (¬ silent → ¬ dark → exec .deadPeerDeclare s = .next s) ∧
      (x.st = .up → silent → exec .deadPeerDeclare s = .next (s.declareDead p 1)) ∧
      (x.st = .up → ¬ silent → dark → exec .deadPeerDeclare s = .next (s.declareDead p 2))) ∧
  (∀ (s : State) (p cause : Nat),
    let x := s.fabric.partner p
    let t := s.declareDead p cause
    (Alone s p →
      t.dead.getLsbD p = true ∧ (∀ q, q ≠ p → t.dead.getLsbD q = s.dead.getLsbD q) ∧ Assoc.get 0 p t.fabric.causes = cause ∧
      (x.routes ≠ [] → (t.fabric.partner p).st = .down) ∧ (∀ e ∈ t.fabric.grants, e.2.dest ≠ p) ∧ (x.routes ≠ [] → t.fabric.held p = 0) ∧ (∀ it ∈ t.items, it.dpkg ≠ p) ∧ (∀ e ∈ t.clusters, ∀ w ∈ e.2.watches, w.opkg ≠ p) ∧ s.sameMem t ∧
      (∀ q r, Assoc.has q s.ctxs = true → (s.ctx q).st = .blocked (.load r) → paPkg r.pa = p → MayTrap s q → Took s t q 0x50 r.xaddr)) ∧
    (∀ o, s.outReads = [o] → o.pkg = p → Alone { s with outReads := [] } p →
      t.outReads = [] ∧
      (∀ c, o.who = .dbg c → DebugDone s t c 0x50 (s.clus c).dbg.data) ∧
      (∀ c id w q, o.who = .walk c id → (s.clus c).walks = [w] → w.id = id → w.reqs = [.ctx q] → (s.ctx q).st = .blocked .xlate → MayTrap s q →
        Took s t q 0x50 (BitVec.ofNat 64 w.addr) ∧ (t.clus c).walks = [] ∧ s.sameMem t)) ∧
    (∀ id pl, s.pulls = [(id, pl)] → pl.err = 0 → (∃ b ∈ pl.bytes, paPkg b.src = p ∧ Assoc.has (b.src / 32) pl.got = false) → Alone { s with pulls := [] } p →
      t.pull? id = some { pl with err := 0x50 } ∧ Sched.event .pullComplete { id := id } ∈ t.pending ∧ s.sameMem t) ∧
    (∀ c k K n i b, s.cores = [((c, k), K)] → n < 64 → (K.tag n).st = .busy (.watch i b p) → (K.tag n).op = i → (∀ j a d, j < 64 → j ≠ n → (K.tag j).st ≠ .busy (.watch a d p)) →
      (∀ q, (s.ctx q).spop = []) → Alone { s with cores := [] } p → ((t.core c k).tag n).st = .done ∧ ((t.core c k).tag n).err = 0x50 ∧ s.sameMem t) ∧
    (∀ c K n o, s.clusters = [(c, K)] → K.outMsgs = [(n, o)] → o.pkg = p → o.pos.clus = c → o.pos.ctx < 8 → (s.ctx o.pos).ansId = n → Alone { s with clusters := [(c, { K with outMsgs := [] })] } p →
      (∀ r, (s.ctx o.pos).ans = some (.send, r) → MayTrap s o.pos → Took s t o.pos 0x50 0) ∧
      (∀ r, (s.ctx o.pos).ans = some (.sendt, r) → (t.ctx o.pos).w = ((s.ctx o.pos).setReg r 3).w ∧ (t.ctx o.pos).ans = none)) ∧
    (∀ id l, LeaseWaits s id l → l.dest = p → Alone { s with fabric := { s.fabric with leases := [] } } p → LeaseDone s t id l 0 0 0 0x50)) ∧
  (∀ s : State, s.inp.nats = [] →
    let told := s.inp.pairs.filter (fun e => (s.fabric.behind s.inp.id).contains e.1)
    ∃ t, exec .state s = .next t ∧ t = { s with dead := t.dead, items := t.items, fabric := { s.fabric with flowTx := t.fabric.flowTx, flowRx := t.fabric.flowRx } } ∧
      (∀ q, q < 4096 → t.dead.getLsbD q = (s.dead.getLsbD q && !(told.any (fun e => e.1 = q)))) ∧
      ∀ e ∈ told, ∀ r ∈ s.fabric.partners, r.1 ≠ s.inp.id → r.2.st = .up → ∃ it ∈ t.items, it.dpkg = r.1 ∧ it.body = .state [] [e.1]) ∧
  (∀ (s : State) (p : Nat), s.inp.nats = [p] → s.inp.pairs = [] →
    (p ∈ s.fabric.behind s.inp.id → exec .state s = .next (s.declareDead p 3)) ∧ (p ∉ s.fabric.behind s.inp.id → exec .state s = .next s))

namespace Sys2Proof.Claims

/-- The only collective of a cluster's sequencer runs or ends. -/
structure CollRuns (s : State) (cl : Nat) (c : Coll) : Prop where
  only : s.collsOf cl = [c]
  phase : c.phase = .running ∨ c.phase = .finishing

/-- The word of the collective's milestone in its area (R351, R354). -/
def msOf (s : State) (c : Coll) : Nat :=
  let a := PageMap.at c.areaPages (BitVec.ofNat 64 c.area)
  (bytesDWord (s.bytesAt a.1 a.2 8)).toNat

/-- The collective has ended in a rank with a status: its milestone is raised to the value, and it waits for its group (R359, R360). -/
def Ended (s t : State) (cl : Nat) (c : Coll) (status : Byte) (ms : Nat) : Prop :=
  msOf t c = max (msOf s c) ms ∧ ∀ d ∈ t.collsOf cl, d.id = c.id → d.phase = .finishing ∧ d.status = status ∧ d.pulls = []

/-- The area's first page is an aligned page of the cluster's own memory, outside its core stores, and nothing watches the milestone. -/
def goodArea (s : State) (cl : Nat) (c : Coll) : Prop :=
  let a := PageMap.at c.areaPages (BitVec.ofNat 64 c.area)
  memWf s.mem = true ∧ a.1 % 4096 = 0 ∧ c.area % 4096 = 0 ∧ c.base + 256 < 2 ^ 64 ∧ (s.clus cl).watches = [] ∧ paOwner a.1 = paOwner (mkPa s.pkg cl 0) ∧ (paRegion a.1).isCore = false ∧
    (∃ e ∈ c.areaPages, e.1 = c.area / 4096) ∧ s.keyOk cl a.1 a.2 = true

/-- Area and destination of a collective stand translated, under key slots that may be used. -/
structure Mapped (s : State) (cl : Nat) (c : Coll) : Prop where
  area : ∀ v, v < c.apages → ∃ e ∈ c.areaPages, e.1 = c.area / 4096 + v
  dest : ∀ t, tidFmt c.dst = some t → ∀ v ∈ shardPages c.dst t, ∃ e ∈ c.dstPages, e.1 = v
  keys : ∀ e ∈ c.areaPages ++ c.dstPages, s.keyOk cl e.2.1 e.2.2 = true

/-- What a root forms of the values at one place, its own first and then by ascending group index (R88, R355): the FP32 additions of SUM under RNE, or the
largest or smallest of R253. -/
def combined (op : Nat) (first : Word) (l : List Word) : Word :=
  l.foldl (fun a b => if op = 0 then roundFl .fp32 .rne 0 false (flSum .rne [flOf .fp32 a, flOf .fp32 b]) else pick .fp32 (op = 1) a b) first

end Sys2Proof.Claims

/-- R349, R350. The exchange of a pair of layouts: an axis partial in the source only that splits nothing in the destination is an ALL-REDUCE, one that splits a dimension there a REDUCE-SCATTER, whatever the other axes do; without such axes, equal splits are NONE, axes that split in the source only an ALL-GATHER, one axis that
moves an ALL-TO-ALL. R353. COLL: TAG_BUSY, TID_BAD, PULL_DESC for a block outside the core store or a rank whose entry names another package, SEALED_PULL, MILESTONE_REGRESS; else the collective queues, whatever the RSV bits of the group table's entries hold (R353 names no fault for them: the model's choice, log entry 37). R354 to R356, R359, R360. COLL_START begins the next
collective, which raises MS to +1. COLL_WATCH_MET: a met abort milestone and a member's 0xFF abort with COLL_ABORT, a watch that ends with an error with that code, and a member's +1 lets its slice be pulled; COLL_PULL_LANDED that brings the last slice raises MS to 0xF0, and the one that brings a root its last child's partial lands the reduction, own contribution first and then the
children by ascending index; TNODE_EXPIRY stops waiting for children and pulls what is missing; TLIM_EXPIRY aborts with LINK_TIMEOUT; COLL_START completes a collective whose members are all done. -/
def Obligations.Collectives : Prop :=
  (∀ a b : Nat, layLegal a 4 4 = true → layLegal b 4 4 = true → a < 2 ^ 16 → b < 2 ^ 16 →
    let part := fun (l x : Nat) => l.testBit (12 + x)
    let splits := fun (l x d : Nat) => l / 2 ^ (3 * d) % 8 = x
    let some_ := fun (l x : Nat) => ∃ d, d < 4 ∧ splits l x d
    let same := fun (x : Nat) => ∀ d, d < 4 → (splits a x d ↔ splits b x d)
    (∀ x, x < 4 → part b x = true → part a x = true) →
    (∀ d, d < 4 → a / 2 ^ (3 * d) % 8 ≠ 7 → b / 2 ^ (3 * d) % 8 ≠ 7 → a / 2 ^ (3 * d) % 8 = b / 2 ^ (3 * d) % 8) →
    ((∀ x, x < 4 → part a x = true → part b x = true) → (∀ x, x < 4 → some_ a x → same x) → exchange a b = some (.none, [])) ∧
    (∀ x, x < 4 → part a x = true → part b x = false → (∀ y, y < 4 → y ≠ x → part a y = true → part b y = true) →
      (¬ some_ b x → exchange a b = some (.allReduce, [x])) ∧ (some_ b x → exchange a b = some (.reduceScatter, [x]))) ∧
    (∀ x, x < 4 → (∀ y, y < 4 → part a y = true → part b y = true) → some_ a x → ¬ same x → (∀ y, y < 4 → y ≠ x → some_ a y → same y) →
      (¬ some_ b x → exchange a b = some (.allGather, [x])) ∧ (some_ b x → exchange a b = some (.allToAll, [x])))) ∧
  (∀ (s : State) (a : Reg) (g : Tag), s.Issues (.coll a g) → s.me.basting = false →
    let i := Instr.coll a g
    let blk := val (s.seen i) a 1
    ((tagOf s g.toNat).st.isFree = false → CanTrap s → ∃ t, exec i s = .next t ∧ Traps s i 0x20 0 (BitVec.ofNat 32 g.toNat) s.me.pc t) ∧
    ((tagOf s g.toNat).st.isFree = true → (s.view i).myBank = none → CanTrap s → ∃ t, exec i s = .next t ∧ Traps s i 0x23 0 0 s.me.pc t) ∧
    (∀ bank, (tagOf s g.toNat).st.isFree = true → (s.view i).myBank = some bank → (blk % 32 ≠ 0 ∨ 0x8000 < blk + 80) → CanTrap s → ∃ t, exec i s = .next t ∧ Traps s i 0x21 (BitVec.ofNat 64 blk) 0 s.me.pc t) ∧
    (∀ bank, (tagOf s g.toNat).st.isFree = true → (s.view i).myBank = some bank → blk % 32 = 0 → blk + 80 ≤ 0x8000 → (s.view i).blockPoison blk 80 = true → CanTrap s →
      ∃ t, exec i s = .next t ∧ Traps s i 0x50 (BitVec.ofNat 64 blk) 0 s.me.pc t) ∧
    (∀ bank, let v := s.view i
      let c := v.collOf blk g bank
      let table := (List.range c.ranks).map (fun r => c.groupa + 32 * r)
      let mine := c.groupa + 32 * c.rank
      (tagOf s g.toNat).st.isFree = true → v.myBank = some bank → blk % 32 = 0 → blk + 80 ≤ 0x8000 → v.blockPoison blk 80 = false → tidV c.src = true → tidV c.dst = true → tidBad c.src = none → tidBad c.dst = none →
      c.descBad = none → ∀ m1 e1, v.collPages .read .table [mine / 4096] [] = .ok m1 → v.groupTable m1 [mine] [] = .ok [e1] →
      (((bytesDWord e1).extractLsb' 0 12).toNat ≠ s.pkg → CanTrap s → ∃ t, exec i s = .next t ∧ Traps s i 0x21 (BitVec.ofNat 64 blk) 0x20 s.me.pc t) ∧
      (((bytesDWord e1).extractLsb' 0 12).toNat = s.pkg → tidSeal c.src = true ∨ tidSeal c.dst = true → CanTrap s → ∃ t, exec i s = .next t ∧ Traps s i 0x41 0 0 s.me.pc t) ∧
      (((bytesDWord e1).extractLsb' 0 12).toNat = s.pkg → tidSeal c.src = false → tidSeal c.dst = false → ∀ fmt gm am dm es, tidFmt c.dst = some fmt →
        v.collPages .read .table (firstUse (table.map (· / 4096))) [] = .ok gm → v.collPages .home .area ((List.range c.apages).map (fun k => c.area / 4096 + k)) [] = .ok am →
        v.collPages .read .dest (shardPages c.dst fmt) [] = .ok dm → v.groupTable gm table [] = .ok es → (∀ e ∈ es, s.dead.getLsbD ((bytesDWord e).extractLsb' 0 12).toNat = false) → es.length = c.ranks →
        (c.base + 1 ≤ msOf v { c with areaPages := am } → CanTrap s → ∃ t, exec i s = .next t ∧ Traps s i 0x14 (BitVec.ofNat 64 c.area) 0 s.me.pc t) ∧
        (msOf v { c with areaPages := am } < c.base + 1 →
          ∃ t u, exec i s = .next t ∧ s.Completes i u (pcAdd s.me.pc 4) t ∧ tagOf u g.toNat = ⟨.busy .coll, 0, s.me.slot.getD 512, s.cur.ctx, s.nextId⟩ ∧
            (∃ d, u.collsOf s.cur.clus = s.collsOf s.cur.clus ++ [d] ∧ d.id = s.nextId ∧ d.tag = g.toNat ∧ d.addr = blk ∧ d.areaPages = am ∧ d.dstPages = dm ∧ d.phase = .queued ∧
              d.group = es.map (fun e => ⟨((bytesDWord e).extractLsb' 0 12).toNat, ((bytesDWord e).extractLsb' 16 12).toNat, ((bytesDWord e).extractLsb' 32 8).toNat,
                ((bytesDWord (e.drop 8)).extractLsb' 0 48).toNat, ((bytesDWord (e.drop 16)).extractLsb' 0 48).toNat⟩)) ∧
            Sched.event .collStart { clus := s.cur.clus } ∈ u.pending)))) ∧
  (∀ (s : State) (c : Coll) (it : DoneItem), CollRuns s s.inp.clus c → c.phase = .running → c.status = 0 → goodArea s s.inp.clus c → s.inp.load = .done it →
    ((∀ w ∈ c.watches, w.1 ≠ s.inp.id) → exec .collWatchMet s = .next s) ∧
    (c.watches.find? (fun w => w.1 = s.inp.id) = some (s.inp.id, .abort) → ∃ t, exec .collWatchMet s = .next t ∧ Ended s t s.inp.clus c (if it.status = 0 then 0x52 else it.status) (c.base + 0xFF)) ∧
    (∀ j low, c.watches.find? (fun w => w.1 = s.inp.id) = some (s.inp.id, .member j low) →
      (it.status ≠ 0 → ∃ t, exec .collWatchMet s = .next t ∧ Ended s t s.inp.clus c it.status (c.base + 0xFF)) ∧
      (it.status = 0 → it.value.toNat = c.base + 0xFF → ∃ t, exec .collWatchMet s = .next t ∧ Ended s t s.inp.clus c 0x52 (c.base + 0xFF)) ∧
      (it.status = 0 → it.value.toNat = c.base + 1 → c.kind = .allGather → j < c.gx → j ≠ c.me → (∀ x ∈ c.slices, x.1 ≠ j) → (∀ g ∈ c.pulls, g.j ≠ j) → (∀ k, k < c.gx → k = c.me ∨ k = j ∨ 1 ≤ c.low k) → Mapped s s.inp.clus c →
        ∃ t, exec .collWatchMet s = .next t ∧ s.sameMem t ∧ ∀ d ∈ t.collsOf s.inp.clus, d.phase = .running ∧ ∃ g ∈ d.pulls, g.what = .slice ∧ g.j = j ∧
          g.units = spanUnits (c.spans .slice 0 j) ∧ Sched.event .collPullLanded { clus := s.inp.clus, id := g.num } ∈ t.pending))) ∧
  (∀ (s : State) (c : Coll), CollRuns s s.inp.clus c → c.phase = .running → goodArea s s.inp.clus c →
    (c.status = 0 → c.tlim ≠ 0 → usCycles (1000 * c.tlim) ≤ s.since c.issued → ∃ t, exec .tlimExpiry s = .next t ∧ Ended s t s.inp.clus c 0x53 (c.base + 0xFF)) ∧
    (c.tlim = 0 ∨ s.since c.issued < usCycles (1000 * c.tlim) → exec .tlimExpiry s = .next s) ∧
    (c.tnode = 0 ∨ s.since c.started < usCycles c.tnode ∨ c.timedOut = true ∨ c.kind.reduces = false → exec .tnodeExpiry s = .next s) ∧
    (c.tnode ≠ 0 → usCycles c.tnode ≤ s.since c.started → c.kind = .allReduce → c.me = 0 → c.timedOut = false → c.rooted = false → c.missing ≠ [] → (∀ j ∈ c.missing, 1 ≤ c.low j ∧ c.raw j = none) → (∀ g ∈ c.pulls, g.what = .partial_) → Mapped s s.inp.clus c →
      ∃ t, exec .tnodeExpiry s = .next t ∧ s.sameMem t ∧ ∀ d ∈ t.collsOf s.inp.clus, d.timedOut = true ∧ d.phase = .running ∧ (∀ x ∈ d.pulls, x.what = .raw) ∧ ∀ j ∈ c.missing, ∃ g ∈ d.pulls, g.j = j ∧ g.part = 0)) ∧
  (∀ (s : State) (c : Coll) (g : CollGet), CollRuns s s.inp.clus c → c.phase = .running → goodArea s s.inp.clus c → c.kind = .allGather → c.core < 128 → c.addr + 80 ≤ 0x8000 → c.pulls = [g] → g.num = s.inp.id → g.num ≠ 0 → g.what = .slice → (∀ u ∈ g.units, Assoc.has u g.got = true ∧ ∃ x ∈ c.pages, x.1 = u / 128) →
    (∀ k, k < c.gx → k = c.me ∨ k = g.j ∨ ∃ x ∈ c.slices, x.1 = k) → (s.clus s.inp.clus).saved = [] → Mapped s s.inp.clus c →
    (∀ e ∈ c.dstPages, ∀ a ∈ c.areaPages, e.2.1 ≠ a.2.1) → (∀ e ∈ c.dstPages, e.2.1 % 4096 = 0) → (∀ e, e < shardSize c.dst → ∀ n, n < 16 → ∃ p ∈ c.dstPages, p.1 = (shardAddr c.dst ((tidFmt c.dst).getD .fp32) e + n) / 4096) →
    (∃ p ∈ c.areaPages, p.1 = c.area / 4096) → ∃ t, exec .collPullLanded s = .next t ∧ Ended s t s.inp.clus c 0 (c.base + 0xF0)) ∧
  (∀ (s : State) (c : Coll) (g : CollGet), CollRuns s s.inp.clus c → c.phase = .running → goodArea s s.inp.clus c → c.kind = .allReduce → c.me = 0 → c.gx ≤ c.fanin + 1 → c.timedOut = false → c.rooted = false →
    tidFmt c.dst = some .fp32 → c.own.length = shardSize c.src → c.pulls = [g] → g.num = s.inp.id → g.num ≠ 0 → g.what = .partial_ → g.part = 0 → 0 < g.j → g.j < c.gx → c.arrival 0 g.j = none → c.form 0 g.j = .full →
    (∀ j, 0 < j → j < c.gx → 2 ≤ c.low j) → (∀ j, 0 < j → j < c.gx → j ≠ g.j → ∃ v, c.arrival 0 j = some (v, [j]) ∧ v.length = shardSize c.src) → bitmapList c.gx (g.bytes ((c.entry g.j).areav + 0x1000) 512) = [g.j] →
    (∀ u ∈ g.units, Assoc.has u g.got = true ∧ ∃ x ∈ c.pages, x.1 = u / 128) → Mapped s s.inp.clus c → (s.clus s.inp.clus).saved = [] → c.core < 128 → c.addr + 80 ≤ 0x8000 →
    (∀ e ∈ c.dstPages, ∀ a ∈ c.areaPages, e.2.1 ≠ a.2.1) → (∀ e ∈ c.dstPages, e.2.1 % 4096 = 0 ∧ (paRegion e.2.1).isCore = false) → (c.dstPages.map (·.2.1)).Nodup → (c.dstPages.map (·.1)).Nodup →
    (∀ a, a < shardSize c.dst → shardAddr c.dst .fp32 a % 4 = 0 ∧ shardAddr c.dst .fp32 a < 2 ^ 48) → (∀ a b, a < shardSize c.dst → b < shardSize c.dst → a ≠ b → shardAddr c.dst .fp32 a + 4 ≤ shardAddr c.dst .fp32 b ∨ shardAddr c.dst .fp32 b + 4 ≤ shardAddr c.dst .fp32 a) →
    ∃ t, exec .collPullLanded s = .next t ∧ Ended s t s.inp.clus c 0 (c.base + 0xF0) ∧
      ∀ e, e < shardSize c.dst → (c.locate e).1 ∈ c.members → (c.locate e).2 < shardSize c.src →
        let part := fun (j : Nat) => if j = g.j then bytesWord (g.bytes ((c.entry g.j).areav + 0x2000 + 4 * (c.locate e).2) 4) else (((c.arrival 0 j).getD ([], [])).1).getD (c.locate e).2 0
        let a := PageMap.at c.dstPages (BitVec.ofNat 64 (shardAddr c.dst .fp32 e))
        let x := combined c.op (c.own.getD (c.locate e).2 0) ((List.range (c.gx - 1)).map (fun j => part (j + 1)))
        t.bytesAt a.1 a.2 4 = wordBytes x) ∧
  (∀ (s : State) (c : Coll) (l : List Coll), s.collsOf s.inp.clus = c :: l → c.phase = .queued ∨ c.phase = .reading → c.status = 0 → goodArea s s.inp.clus c → Mapped s s.inp.clus c →
    (∀ d ∈ c :: l, d.abaddr = 0 ∨ d.abortAsked = true) → (s.clus s.inp.clus).xfails = [] → (∀ u ∈ shardUnits c.src, Assoc.has u c.got = true ∧ ∃ x ∈ c.pages, x.1 = u / 128) → c.kind.reduces = false →
    (∀ e ∈ c.dstPages, ∀ a ∈ c.areaPages, e.2.1 ≠ a.2.1) → (∀ e ∈ c.dstPages, e.2.1 % 4096 = 0) → c.core < 128 → c.addr + 80 ≤ 0x8000 → c.addr % 32 = 0 → (s.clus s.inp.clus).saved = [] →
    ∃ t, exec .collStart s = .next t ∧ c.base + 1 ≤ msOf t c ∧ ∀ d ∈ t.collsOf s.inp.clus, d.id = c.id → (d.phase = .running ∧ d.started = s.clk) ∨ d.phase = .finishing) ∧
  (∀ s : State, ((∀ c ∈ s.collsOf s.inp.clus, c.phase ≠ .running ∧ c.phase ≠ .finishing) ∨ (∀ c ∈ s.collsOf s.inp.clus, ∀ g ∈ c.pulls, g.num ≠ s.inp.id)) → exec .collPullLanded s = .next s) ∧
  (∀ (s : State) (c : Coll), CollRuns s s.inp.clus c → c.phase = .finishing → (∀ j, j < c.gx → j = c.me ∨ j ∈ c.doneRanks) → c.tag < 64 → c.core < 128 → c.addr % 32 = 0 → c.addr + 80 ≤ 0x8000 → memWf s.mem = true → (s.clus s.inp.clus).saved = [] →
    (s.clus s.inp.clus).xfails = [] → ((s.core s.inp.clus c.core).tag c.tag).op = c.id → ((s.core s.inp.clus c.core).tag c.tag).st.isBusy = true →
    ∃ t, exec .collStart s = .next t ∧ t.collsOf s.inp.clus = [] ∧ ((t.core s.inp.clus c.core).tag c.tag).st = .done ∧ ((t.core s.inp.clus c.core).tag c.tag).err = c.status ∧
      t.bytesAt (corePa s.pkg s.inp.clus c.core (c.addr + 0x40)) 0 8 = dwordBytes (BitVec.ofNat 64 (c.direct * 2 ^ 32 + c.kind.code * 256 + c.status.toNat)))

namespace Sys2Proof.Claims

/-- The context at p takes a precise trap (R364): nothing else of it changes, and no byte of memory. -/
structure TrapsAt (s t : State) (p : Pos) (code : Byte) (xaddr : DWord) (xinfo : Word) : Prop where
  xpc : (t.ctx p).xpc = codeAddr (s.ctx p).pc
  xcause : (t.ctx p).xcause = code.setWidth 32
  xaddr : (t.ctx p).xaddr = xaddr
  xinfo : (t.ctx p).xinfo = xinfo
  flags : (t.ctx p).intrap = true ∧ (t.ctx p).skipbp = false
  pc : (t.ctx p).pc = (s.ctx p).tvec
  st : (t.ctx p).st = .ready
  keeps : (t.ctx p).w = (s.ctx p).w ∧ (t.ctx p).m = (s.ctx p).m ∧ (t.ctx p).retc = (s.ctx p).retc ∧ (t.ctx p).depth = (s.ctx p).depth
  mem : s.sameMem t

/-- A context that a trap enters its handler from. -/
def Traps1 (c : Ctx) : Prop := c.basting = false ∧ c.stop = false ∧ c.last = false ∧ c.intrap = false

/-- The frame an entry names (R37). -/
def frameOf (e : DWord) : Nat := (e.extractLsb' 52 12).toNat * 2 ^ 52 + (e.extractLsb' 45 7).toNat * 2 ^ 45 + (e.extractLsb' 21 24).toNat * 2 ^ 12

/-- A page-table page: in the vault or in HBM (R35, R36). -/
def holdsTable (pa : Nat) : Prop := paRegion pa = .vault ∨ paRegion pa = .hbm

/-- The top level of a table (R36). -/
def top : Space → Nat
  | .read => 3
  | .home => 2

/-- The address of the entry that a walk examines: its table page and the index bits of R36. -/
def entryAt (w : Walk) : Nat := w.table + 8 * (w.addr / 2 ^ (12 + 9 * w.level) % (if w.space = .home ∧ w.level = 2 then 64 else 512))

/-- The walk inp.id of cluster inp.clus stands in one of the four walkers (R371) and serves one context, BLOCKED for it. -/
structure Walks (s : State) (w : Walk) (p : Pos) : Prop where
  here : (s.clus s.inp.clus).walks.find? (fun x => x.id = s.inp.id) = some w
  walker : w ∈ (s.clus s.inp.clus).walks.take 4
  one : w.reqs = [.ctx p]
  ordinary : w.bast = none
  waits : (s.ctx p).st = .blocked .xlate
  traps : Traps1 (s.ctx p)

/-- The entry the walk examines can be read here: this package is alive, the owner port serves the cluster's function, the table's key is held, its line is
not poisoned. -/
structure EntryHere (s : State) (w : Walk) (e : DWord) : Prop where
  level : w.level ≤ top w.space
  here : paPkg (entryAt w) = s.pkg ∧ s.dead.getLsbD s.pkg = false
  owner : (s.clus (paClus (entryAt w))).fn = (s.clus s.inp.clus).fn
  key : (s.clus s.inp.clus).keyBits.getLsbD w.tkey = true
  clean : s.poison.contains (entryAt w / 64) = false
  value : bytesDWord (s.bytesAt (entryAt w) w.tkey 8) = e

/-- The page fault of a context's walk: without a service context the PERM of R132, with one the message of R372. -/
def Faulted (s t : State) (w : Walk) (p : Pos) (reason : Nat) (eaddr : Nat) (e : DWord) : Prop :=
  let k := s.clus s.inp.clus
  (k.svcStat ≠ 1 → k.svcStat ≠ 2 → TrapsAt s t p 0x11 (BitVec.ofNat 64 w.addr) (w.acc.xinfo ||| BitVec.ofNat 32 reason)) ∧
  (k.svcStat = 1 → p ≠ svcPos s.inp.clus → k.tokens = [] → k.waitFaults = [] → k.waitMsgs = [] → (s.core s.inp.clus 0).mail.length < 16 →
    let h := 2 ^ 16 + 2 ^ 56 + reason * 2 ^ 48 + w.aspc * 2 ^ 44 + (if w.space = .home then 2 ^ 43 else 0) + w.level * 2 ^ 41 + w.acc.code * 2 ^ 36 + p.core * 2 ^ 9 + p.ctx * 2 ^ 7
    (t.core s.inp.clus 0).mail = (s.core s.inp.clus 0).mail ++ [⟨3, bytesWords 8 (dwordBytes (BitVec.ofNat 64 h) ++ dwordBytes (BitVec.ofNat 64 w.addr) ++ dwordBytes (BitVec.ofNat 64 eaddr) ++ dwordBytes e)⟩] ∧
      (t.ctx p) = (s.ctx p) ∧ s.sameMem t)

/-- The TLB entries (and pins) a command of TU_INV names (R374). -/
def invNames (cmd aspc : Nat) (sp : Space) (page : Nat) (x : TlbEntry) : Prop :=
  cmd = 3 ∨ (cmd = 2 ∧ x.aspc = aspc) ∨ (cmd = 1 ∧ x.aspc = aspc ∧ x.space = sp ∧ x.base ≤ page * 4096 ∧ page * 4096 < x.base + x.size)

/-- Nothing pins a page of a cluster: no operation in progress, and no submission under way (R229, R374). -/
def NoPins (s : State) (c : Nat) : Prop := (s.clus c).pins = [] ∧ ∀ e ∈ s.ctxs, e.1.clus = c → e.2.sub = none

/-- A function may write the registers of a cluster's window (R51); while it is being reset it may not (R394). -/
def Writes (s : State) : Prop := s.inp.clus < 128 ∧ s.inp.fn ∉ s.resetting ∧ (s.inp.fn = 0 ∨ (s.inp.fn ≤ 16 ∧ s.sriov = true ∧ (s.clus s.inp.clus).fn = s.inp.fn))

end Sys2Proof.Claims

/-- R122. QUANTUM_EXPIRY: a turn whose quantum has run out ends where another context of the core is READY. R55, R120. FETCH_LINE_ARRIVAL brings a whole 32-byte unit to the core and ends the fetch's wait; a poisoned
unit is DEAD_PEER; a unit of another package is asked of its owner. R369. BREAKPOINT_MATCH: the lowest matching register is BKPT. R35 to R38, R43, R132, R372. TABLE_WALK_READ: one entry examined, the conditions of R38 in their order; an entry in another package is asked of its owner, a dead owner is DEAD_PEER.
What a message says of a fault the root decides is the model's choice (log entry 23). -/
def Obligations.Walking : Prop :=
  (∀ s : State, ∃ t, exec .quantumExpiry s = .next t ∧ t = { s with cores := t.cores } ∧
    t.core s.inp.clus s.inp.core = { s.core s.inp.clus s.inp.core with qexp :=
      (s.core s.inp.clus s.inp.core).turnOn && ((s.core s.inp.clus s.inp.core).qexp || 2 ^ 14 ≤ s.since (s.core s.inp.clus s.inp.core).turnAt) } ∧
    ∀ c n, (c, n) ≠ (s.inp.clus, s.inp.core) → t.core c n = s.core c n) ∧
  (∀ (s : State) (c n : Nat), (s.core c n).turn < 4 → (s.core c n).turnOn = true → s.canRun ⟨c, n, (s.core c n).turn⟩ = true →
    let past := (s.core c n).qexp = true ∨ 2 ^ 14 ≤ s.since (s.core c n).turnAt
    (¬ past ∨ (∀ j, 1 ≤ j → j ≤ 3 → s.canRun ⟨c, n, ((s.core c n).turn + j) % 4⟩ = false) → s.nextOn c n = some ⟨c, n, (s.core c n).turn⟩) ∧
    ∀ j, 1 ≤ j → j ≤ 3 → past → s.canRun ⟨c, n, ((s.core c n).turn + j) % 4⟩ = true →
      (∀ i, 1 ≤ i → i < j → s.canRun ⟨c, n, ((s.core c n).turn + i) % 4⟩ = false) → s.nextOn c n = some ⟨c, n, ((s.core c n).turn + j) % 4⟩) ∧
  (∀ s : State, let p := s.inp.pos
    let pa := 32 * s.inp.n
    ((s.ctx p).st ≠ .blocked .fetchLine → exec .fetchLineArrival s = .next s) ∧
    ((s.ctx p).st = .blocked .fetchLine → Traps1 (s.ctx p) → p.clus < 128 →
      (s.isHome p.clus pa = true → s.poison.contains (pa / 64) = false → ∃ t, exec .fetchLineArrival s = .next t ∧ s.sameMem t ∧
        (t.core p.clus p.core).code.find? (fun u => u.1 = s.inp.n && u.2.1 = s.inp.id) = some (s.inp.n, s.inp.id, s.bytesAt pa s.inp.id 32) ∧
        t.ctx p = { s.ctx p with st := .ready }) ∧
      (s.isHome p.clus pa = true → s.poison.contains (pa / 64) = true → ∃ t, exec .fetchLineArrival s = .next t ∧ TrapsAt s t p 0x50 (s.ctx p).pc 0) ∧
      (paPkg pa = s.pkg → s.isHome p.clus pa = false → s.ownerRefuses (s.clus p.clus).fn pa = true → ∃ t, exec .fetchLineArrival s = .next t ∧ TrapsAt s t p 0x11 (s.ctx p).pc 0) ∧
      (paPkg pa ≠ s.pkg → (∀ o ∈ s.outReads, o.who ≠ .fetch p pa s.inp.id) → ∃ t it r, exec .fetchLineArrival s = .next t ∧ t.ctx p = s.ctx p ∧ it ∈ t.items ∧
        it.dpkg = paPkg pa ∧ it.body = .read r ∧ r.pa = pa ∧ r.key = s.inp.id ∧ r.len = 32))) ∧
  (∀ (s : State) (l : List Byte), let c := s.ctx s.inp.pos
    let hit := fun (i : Nat) => c.bpa.toList.getD i 0 ≠ 0 ∧ c.bpa.toList.getD i 0 = c.pc
    (∀ x, c.ptrap = some x → c.st = .ready → Traps1 c → c.skipbp = false → (c.debug = true ∨ c.sys = true) → (∃ i, i < 4 ∧ hit i) → c.convoy = none → s.fetchInstr s.inp.pos = .bytes l →
      ∃ t, exec .breakpointMatch s = .next t ∧ TrapsAt s t s.inp.pos x.code x.xaddr x.xinfo) ∧
    (∀ i, i < 4 → c.st = .ready → Traps1 c → c.convoy = none → c.ptrap = none → c.pdbg = false → s.fetchInstr s.inp.pos = .bytes l → c.skipbp = false → (c.debug = true ∨ c.sys = true) → hit i → (∀ j, j < i → ¬ hit j) →
      ∃ t, exec .breakpointMatch s = .next t ∧ TrapsAt s t s.inp.pos 0x05 0 (BitVec.ofNat 32 (1 + 2 * i))) ∧
    (c.skipbp = true ∨ (c.debug = false ∧ c.sys = false) ∨ (∀ i, i < 4 → ¬ hit i) → exec .breakpointMatch s = .next s)) ∧
  (∀ (s : State) (c aspc : Nat) (r : Requester) (sp : Space) (a : DWord) (acc : AccKind), (match sp with | .read => 2 ^ 48 | .home => 2 ^ 36) ≤ a.toNat → s.translate c r aspc sp a acc = .trap 0x11) ∧
  (∀ (s : State) (w : Walk) (p : Pos), Walks s w p → w.level = top w.space + 1 →
    let k := s.clus s.inp.clus
    let word : DWord := match w.space with | .read => k.rroot.toList.getD w.aspc 0 | .home => k.hroot.toList.getD w.aspc 0
    let root := word.toNat
    let own := paOwner (root / 4096 * 4096) = paOwner (mkPa s.pkg s.inp.clus 0)
    (root < 4096 → ∃ t, exec .tableWalkRead s = .next t ∧ Faulted s t { w with level := top w.space } p 1 0 word) ∧
    (4096 ≤ root → ¬ holdsTable (root / 4096 * 4096) → ∃ t, exec .tableWalkRead s = .next t ∧ Faulted s t { w with level := top w.space } p 2 0 word) ∧
    (4096 ≤ root → holdsTable (root / 4096 * 4096) → w.space = .home → ¬ own → ∃ t, exec .tableWalkRead s = .next t ∧ TrapsAt s t p 0x12 (BitVec.ofNat 64 w.addr) w.acc.xinfo) ∧
    (4096 ≤ root → holdsTable (root / 4096 * 4096) → (w.space = .home → own) → ∃ t, exec .tableWalkRead s = .next t ∧ t.ctxs = s.ctxs ∧ s.sameMem t ∧
      Sched.event .tableWalkRead { clus := s.inp.clus, id := w.id } ∈ t.pending ∧
      (t.clus s.inp.clus).walks.find? (fun x => x.id = s.inp.id) = some { w with level := top w.space, table := root / 4096 * 4096, tkey := root % 4096 })) ∧
  (∀ (s : State) (w : Walk) (p : Pos), Walks s w p → w.level ≤ top w.space →
    (s.dead.getLsbD (paPkg (entryAt w)) = true → (∀ o ∈ s.outReads, o.who ≠ .walk s.inp.clus w.id) → ∃ t, exec .tableWalkRead s = .next t ∧ TrapsAt s t p 0x50 (BitVec.ofNat 64 w.addr) w.acc.xinfo) ∧
    (s.dead.getLsbD (paPkg (entryAt w)) = false → paPkg (entryAt w) ≠ s.pkg → (∀ o ∈ s.outReads, o.who ≠ .walk s.inp.clus w.id) → ∃ t it r, exec .tableWalkRead s = .next t ∧ t.ctxs = s.ctxs ∧ it ∈ t.items ∧
      it.dpkg = paPkg (entryAt w) ∧ it.body = .read r ∧ r.pa = entryAt w ∧ r.key = w.tkey ∧ r.len = 8)) ∧
  (∀ (s : State) (w : Walk) (p : Pos) (e : DWord), Walks s w p → EntryHere s w e →
    let f := frameOf e
    let size := if w.level = 0 then (if e.getLsbD 6 then 2 ^ 16 else 2 ^ 12) else 2 ^ (12 + 9 * w.level)
    let foreign := w.space = .home ∧ paOwner f ≠ paOwner (mkPa s.pkg s.inp.clus 0)
    let badPtr := e.getLsbD 1 = false ∧ (e.extractLsb' 2 19 ≠ 0 ∨ ¬ holdsTable f)
    let badLevel := (e.getLsbD 1 = false ∧ w.level = 0) ∨ (e.getLsbD 1 = true ∧ (w.level = 3 ∨ (w.level ≠ 0 ∧ e.getLsbD 6 = true)))
    let goodFrame := f % size = 0 ∧ ((paRegion f = .hbm ∧ paRegion (f + size - 1) = .hbm) ∨ (paRegion f = .vault ∧ paRegion (f + size - 1) = .vault))
    let noKey := paRegion f = .hbm ∧ paPkg f = s.pkg ∧ (s.clus s.inp.clus).keyBits.getLsbD (e.extractLsb' 9 12).toNat = false
    let may := if (w.space = .home ∧ w.acc ≠ .load) ∨ (w.space = .read ∧ w.acc = .fetch) then e.getLsbD 5 else e.getLsbD 4
    let dirties := w.space = .home ∧ w.acc ≠ .load
    (e.getLsbD 0 = false → ∃ t, exec .tableWalkRead s = .next t ∧ Faulted s t w p 1 (entryAt w) e) ∧
    (e.getLsbD 0 = true → badPtr → ∃ t, exec .tableWalkRead s = .next t ∧ Faulted s t w p 2 (entryAt w) e) ∧
    (e.getLsbD 0 = true → ¬ badPtr → foreign → ∃ t, exec .tableWalkRead s = .next t ∧ TrapsAt s t p 0x12 (BitVec.ofNat 64 w.addr) w.acc.xinfo ∧ (t.clus s.inp.clus).tlb = (s.clus s.inp.clus).tlb) ∧
    (e.getLsbD 0 = true → ¬ badPtr → ¬ foreign → badLevel → ∃ t, exec .tableWalkRead s = .next t ∧ Faulted s t w p 2 (entryAt w) e) ∧
    (e.getLsbD 0 = true → ¬ badPtr → ¬ foreign → ¬ badLevel → e.getLsbD 1 = false → ∃ t, exec .tableWalkRead s = .next t ∧ t.ctxs = s.ctxs ∧ s.sameMem t ∧
      Sched.event .tableWalkRead { clus := s.inp.clus, id := w.id } ∈ t.pending ∧
      (t.clus s.inp.clus).walks.find? (fun x => x.id = s.inp.id) = some { w with level := w.level - 1, table := f }) ∧
    (e.getLsbD 0 = true → ¬ foreign → ¬ badLevel → e.getLsbD 1 = true → (f % size ≠ 0 ∨ paRegion f = .reserve ∨ paRegion f = .baste ∨ paRegion f = .hole) →
      ∃ t, exec .tableWalkRead s = .next t ∧ Faulted s t w p 2 (entryAt w) e) ∧
    (e.getLsbD 0 = true → ¬ foreign → ¬ badLevel → e.getLsbD 1 = true → goodFrame → e.extractLsb' 7 2 = 3#2 → ∃ t, exec .tableWalkRead s = .next t ∧ Faulted s t w p 2 (entryAt w) e) ∧
    (e.getLsbD 0 = true → ¬ foreign → ¬ badLevel → e.getLsbD 1 = true → goodFrame → e.extractLsb' 7 2 ≠ 3#2 → (noKey ∨ may = false) →
      ∃ t, exec .tableWalkRead s = .next t ∧ TrapsAt s t p 0x11 (BitVec.ofNat 64 w.addr) w.acc.xinfo ∧ (t.clus s.inp.clus).tlb = (s.clus s.inp.clus).tlb) ∧
    (e.getLsbD 0 = true → ¬ foreign → ¬ badLevel → e.getLsbD 1 = true → goodFrame → e.extractLsb' 7 2 ≠ 3#2 → ¬ noKey → may = true → (s.clus s.inp.clus).tuInv = [] → memWf s.mem = true → (s.clus s.inp.clus).tlb.length < 4096 →
      ∃ t x, exec .tableWalkRead s = .next t ∧ t.ctx p = { s.ctx p with st := .ready } ∧ x ∈ (t.clus s.inp.clus).tlb ∧ (p.clus = s.inp.clus → x ∈ (t.core p.clus p.core).tlb) ∧ (∀ y ∈ (s.clus s.inp.clus).tlb, (y.aspc, y.space, y.base) ≠ (x.aspc, x.space, x.base) → y ∈ (t.clus s.inp.clus).tlb) ∧
        x.aspc = w.aspc ∧ x.space = w.space ∧ x.base = w.addr / size * size ∧ x.size = size ∧ x.frame = f ∧ x.key = (if paRegion f = .hbm then (e.extractLsb' 9 12).toNat else 0) ∧
        x.p1 = e.getLsbD 5 ∧ x.p0 = e.getLsbD 4 ∧ (x.d = true ↔ e.getLsbD 3 = true ∨ dirties) ∧ x.type = [PageType.normal, .swm, .sealed, .device].getD (e.extractLsb' 7 2).toNat .device ∧
        (∀ y ∈ (t.clus s.inp.clus).walks, y.id ≠ s.inp.id) ∧
        (paOwner (entryAt w) ≠ paOwner (mkPa s.pkg s.inp.clus 0) → s.sameMem t) ∧
        (paOwner (entryAt w) = paOwner (mkPa s.pkg s.inp.clus 0) → w.table % 4096 = 0 → Wrote s t w.tkey (entryAt w) (dwordBytes (e ||| 4#64 ||| (if w.space = .home && w.acc ≠ .load then 8#64 else 0#64)))))) ∧
  (∀ s : State, (∀ w ∈ (s.clus s.inp.clus).walks.take 4, w.id ≠ s.inp.id) → exec .tableWalkRead s = .next s)

/-- R373. TU_REPLY, by its action: RETRY makes the requester of a page fault READY and posts a service request again; FAIL is a trap with the code, or with PERM for a code outside its ranges; ANSWER ends the SVC with its value. R374. TU_INV removes every
matching entry and is BUSY until the walks before it have ended and no matching page is pinned; TU_INV_DONE then sets DONE. -/
def Obligations.TranslationRegisters : Prop :=
  (∀ (s : State) (k : Token) (p : Pos) (a : Nat) (acc : AccKind), Writes s → (s.clus s.inp.clus).tokens = [k] → (s.clus s.inp.clus).waitFaults = [] → (s.ctx p).stop = false → k.token = (s.inp.val.extractLsb' 48 16).toNat →
    k.reqs = [(.ctx p, a, acc)] →
    let cd := (s.inp.val.extractLsb' 32 8).toNat
    let code : Byte := if (0x10 ≤ cd ∧ cd ≤ 0x1F) ∨ (0x40 ≤ cd ∧ cd ≤ 0x45) then s.inp.val.extractLsb' 32 8 else 0x11
    (k.kind = .pageFault → (s.ctx p).st = .blocked .xlate →
      (∀ i ∈ [Instr.tuRetry, Instr.tuAnswer], ∃ t, exec i s = .next t ∧ t.ctx p = { s.ctx p with st := .ready } ∧ (t.clus s.inp.clus).tokens = [] ∧ s.sameMem t ∧ (∀ q, q ≠ p → t.ctx q = s.ctx q)) ∧
      (Traps1 (s.ctx p) → ∃ t, exec .tuFail s = .next t ∧ TrapsAt s t p code (BitVec.ofNat 64 a) acc.xinfo ∧ (t.clus s.inp.clus).tokens = [])) ∧
    (k.kind = .service → (s.ctx p).st = .blocked (.answer .svc) → (s.ctx p).ansId = k.num →
      ((s.clus s.inp.clus).waitMsgs = [] → (s.core s.inp.clus 0).mail.length < 16 → k.body ≠ [] → ∃ t, exec .tuRetry s = .next t ∧ (t.core s.inp.clus 0).mail = (s.core s.inp.clus 0).mail ++ [⟨3, (k.body.headD 0 ||| 0x10000) :: k.body.tail⟩] ∧
        (t.clus s.inp.clus).tokens = [{ k with token := 1 }] ∧ s.sameMem t ∧ (p ≠ svcPos s.inp.clus → t.ctx p = s.ctx p)) ∧
      (Traps1 (s.ctx p) → ∃ t, exec .tuFail s = .next t ∧ TrapsAt s t p code 0 0 ∧ (t.clus s.inp.clus).tokens = []) ∧
      (∀ d, (s.ctx p).ans = some (.svc, d) → (s.ctx p).spop = [] → (s.ctx p).convoy = none →
        ∃ t, exec .tuAnswer s = .next t ∧ t.ctx p = ({ (s.ctx p).setReg d (s.inp.val.extractLsb' 0 32) with ans := none } : Ctx).completed ((s.ctx p).pc + 4) true ∧
          (t.clus s.inp.clus).tokens = [] ∧ s.sameMem t ∧ (∀ q, q ≠ p → t.ctx q = s.ctx q)))) ∧
  (∀ (s : State) (i : Instr), i ∈ [Instr.tuRetry, .tuFail, .tuAnswer] → (¬ Writes s ∨ ∀ k ∈ (s.clus s.inp.clus).tokens, k.token ≠ (s.inp.val.extractLsb' 48 16).toNat) → exec i s = .next s) ∧
  (∀ (s : State) (cmd : Nat) (i : Instr), (cmd, i) ∈ [(1, Instr.tuInvPage), (2, .tuInvSpace), (3, .tuInvAll)] → Writes s →
    let c := s.inp.clus
    let aspc := (s.inp.val.extractLsb' 56 4).toNat
    let sp := if s.inp.val.getLsbD 55 then Space.home else Space.read
    let page := (s.inp.val.extractLsb' 12 36).toNat
    ∃ t, exec i s = .next t ∧ t = { s with clusters := t.clusters, cores := t.cores, tiles := t.tiles, colls := t.colls } ∧ (∀ n, n ≠ c → t.clus n = s.clus n) ∧
      (∀ x, x ∈ (t.clus c).tlb ↔ x ∈ (s.clus c).tlb ∧ ¬ invNames cmd aspc sp page x) ∧
      (∀ n x, x ∈ (t.core c n).tlb ↔ x ∈ (s.core c n).tlb ∧ ¬ invNames cmd aspc sp page x) ∧ (∀ k n, t.core k n = { s.core k n with tlb := (t.core k n).tlb }) ∧
      (∀ n m, m ∈ (t.tile c n).cmds → m.aspc = aspc → (cmd = 3 ∨ cmd = 2 ∨ sp = .read) → m.pages = []) ∧
      ((s.clus c).tuInv = [] → (s.clus c).walks = [] → NoPins s c → t.devRead c 0x110 = 2) ∧
      ((s.clus c).walks ≠ [] → (t.devRead c 0x110).getLsbD 0 = true ∧ (t.devRead c 0x110).getLsbD 1 = false) ∧
      (∀ q ∈ (s.clus c).pins, (cmd = 3 ∨ (cmd = 2 ∧ q.aspc = aspc) ∨ (cmd = 1 ∧ q.aspc = aspc ∧ q.space = sp ∧ q.page = page)) → (t.devRead c 0x110).getLsbD 0 = true ∧ (t.devRead c 0x110).getLsbD 1 = false)) ∧
  (∀ (s : State) (i : Instr), i ∈ [Instr.tuInvPage, .tuInvSpace, .tuInvAll] → ¬ Writes s → exec i s = .next s) ∧
  (∀ s : State, let k := s.clus s.inp.clus
    ∃ t, exec .tuInvDone s = .next t ∧ t = { s with clusters := t.clusters } ∧ (k.tuInv = [] → t.clus s.inp.clus = k) ∧
      (k.tuInv ≠ [] → NoPins s s.inp.clus → (∀ v ∈ k.tuInv, ∀ n ∈ v.walks, ∀ w ∈ k.walks, w.id ≠ n) → t.devRead s.inp.clus 0x110 = 2) ∧
      (∀ v ∈ k.tuInv, k.tuDone = false → (∃ n ∈ v.walks, ∃ w ∈ k.walks, w.id = n) → (t.devRead s.inp.clus 0x110).getLsbD 0 = true ∧ (t.devRead s.inp.clus 0x110).getLsbD 1 = false)) ∧
  (∀ (s : State) (w : Walk) (p : Pos) (e : DWord) (v : TuInv), Walks s w p → EntryHere s w e → v ∈ (s.clus s.inp.clus).tuInv → w.id ∈ v.walks → v.cmd = 3 →
    ∃ t, exec .tableWalkRead s = .next t ∧ (t.clus s.inp.clus).tlb = (s.clus s.inp.clus).tlb)

namespace Sys2Proof.Claims

/-- A command of PRE_CTL is refused: STATE 0xFF and the code, nothing else (R376). -/
structure Refused (s t : State) (err : Nat) : Prop where
  rest : t = { s with clusters := t.clusters }
  pre : t.clus s.inp.clus = { s.clus s.inp.clus with pre := { (s.clus s.inp.clus).pre with state := 0xFF, err := err } }
  others : ∀ n, n ≠ s.inp.clus → t.clus n = s.clus n

/-- The fields of PRE_CTL. -/
def ctlSlot (v : DWord) : Nat := (v.extractLsb' 48 9).toNat
def ctlImg (v : DWord) : Nat := (v.extractLsb' 12 33).toNat * 4096
def ctlKey (v : DWord) : Nat := (v.extractLsb' 0 12).toNat

/-- The bytes of an image (R379): header, contexts, cores, plane arrays of two banks of 0x8000 bytes, and tables, to a multiple of 4 KiB. -/
def imgSize (ctxs cores planes tables : Nat) : Nat := (256 + 2048 * ctxs + 0x8400 * cores + 0x10000 * planes + 2080 * tables + 4095) / 4096 * 4096

/-- Where the records of the i-th context and of the j-th core of an image lie. -/
def ctxAt (i : Nat) : Nat := 256 + 2048 * i
def coreAt (n j : Nat) : Nat := 256 + 2048 * n + 0x8400 * j

/-- The cores of a team, ascending. -/
def coresOf (pos : List (Nat × Nat)) : List Nat := (List.range 128).filter (fun n => pos.any (fun p => p.1 = n))

/-- The fields of a context record that hold registers (R380), as (offset, bytes). -/
def recordFields (c : Ctx) : List (Nat × List Byte) :=
  [(0, wordsBytes c.w.toList), (0x100, wordsBytes c.m.toList), (0x120, dwordBytes c.pc), (0x128, dwordBytes c.xpc), (0x130, dwordBytes c.tvec), (0x138, dwordBytes c.xaddr),
   (0x140, c.bpa.toList.flatMap dwordBytes), (0x160, dwordBytes c.retc), (0x168, wordBytes c.xcause), (0x16C, wordBytes c.xinfo), (0x170, wordBytes c.rmode), (0x174, wordBytes c.seed),
   (0x178, wordsBytes c.lcnt.toList), (0x188, c.ls.toList.flatMap dwordBytes), (0x1A0, c.le.toList.flatMap dwordBytes), (0x1EC, wordBytes c.leasest)]

/-- The state word of a context record: D, CST, and the bits PDBG, PTRAP, SKIPBP and INTRAP. -/
def stateWord (c : Ctx) : Nat :=
  c.depth * 256 + (match c.st with | .free => 0 | .ready => 2 | .blocked _ => 3 | .halted => 4) * 16 + c.pdbg.toNat * 8 + c.ptrap.isSome.toNat * 4 + c.skipbp.toNat * 2 + c.intrap.toNat

/-- A tag's operation that OUT counts (R381); a stream's refill counts with the stream. -/
def counts (r : TagRec) : Bool :=
  match r.st with
  | .busy (.pull _) => true
  | .busy (.watch _ _ _) => true
  | .busy .coll => true
  | .busy (.lease _) => true
  | _ => false

/-- The open refills of a context's streams and the answers it awaits (R377, R381). -/
def countsAt (s : State) (p : Pos) : Nat :=
  ((List.range 4).filter (fun k => match (s.ctx p).stream k with | some x => x.rf && s.pulls.any (fun e => e.1 = x.pull) | none => false)).length +
    (s.ctx p).enqts.length + (if (s.ctx p).ans.isSome then 1 else 0)

/-- The debug command that an event begins, or that its walk lets go on (R386): whether it writes, the function, and DBG_CTL. -/
def DebugRuns (s : State) (write : Bool) (fn : Nat) (v : DWord) : Prop :=
  (s.inp.flag = false ∧ Writes s ∧ (s.clus s.inp.clus).dbg.busy = false ∧ fn = s.inp.fn ∧ v = s.inp.val) ∨
  (s.inp.flag = true ∧ (s.clus s.inp.clus).dbg.cmd = some (write, fn, v))

/-- The team of a running SAVE, with nothing in flight, nothing buffered or cached on its cores and no command in its plane arrays (R377, R378). -/
structure SaveRuns (s : State) (c slot : Nat) (t : Team) : Prop where
  clus : c = s.inp.clus ∧ c < 128
  run : (s.clus c).pre.run = 1 ∨ (s.clus c).pre.run = 2
  slotHere : slot = (s.clus c).pre.slot ∧ slot < 512
  team : s.team? c slot = some t
  pos : t.pos.Nodup ∧ ∀ p ∈ t.pos, p.1 < 128 ∧ p.2 < 4
  quiet : ∀ p ∈ t.at c, (s.ctx p).last = false ∧ ∀ w, (s.ctx p).st = .blocked w → (∀ r, w ≠ .load r) ∧ (∀ q d, w ≠ .query q d) ∧ (∀ k l, w ≠ .table k l)
  known : ∀ p ∈ t.at c, (s.ctx p).unready = [] ∧ (s.ctx p).full = false
  cores : ∀ n, (s.core c n).sb = [] ∧ (s.core c n).l1 = []
  planes : ∀ e ∈ s.tiles, e.1.1 = c → e.2.cmds = []
  image : (s.clus c).pre.img % 4096 = 0 ∧ 0x100000000 ≤ (s.clus c).pre.img ∧
    (s.clus c).pre.img + imgSize t.pos.length (coresOf t.pos).length t.planes.length (s.teamTables c slot).length ≤ 0x1FF000000
  held : (s.clus c).keyBits.getLsbD (s.clus c).pre.key = true
  clear : recSv (s.teamRecord t) = false
  mem : memWf s.mem = true

/-- A saved team with its image in place. -/
structure SavedHere (s : State) (c : Nat) (v : Saved) : Prop where
  clus : c = s.inp.clus ∧ c < 128
  only : (s.clus c).saved = [v]
  image : v.img % 4096 = 0 ∧ 0x100000000 ≤ v.img ∧ v.img + imgSize v.positions.length (coresOf v.positions).length v.planes.length v.tables.length ≤ 0x1FF000000
  pos : v.positions.Nodup ∧ ∀ p ∈ v.positions, p.1 < 128 ∧ p.2 < 4
  mem : memWf s.mem = true

/-- n bytes at an offset of a saved team's image. -/
def imgBytes (t : State) (c : Nat) (v : Saved) (ofs n : Nat) : List Byte := t.bytesAt (mkPa t.pkg c v.img + ofs) v.key n

/-- Every byte outside a saved team's image stays. -/
def OnlyImage (s t : State) (c : Nat) (v : Saved) : Prop :=
  ∀ a k, (a < mkPa s.pkg c v.img ∨ mkPa s.pkg c v.img + imgSize v.positions.length (coresOf v.positions).length v.planes.length v.tables.length ≤ a) → t.byteAt a k = s.byteAt a k

end Sys2Proof.Claims

/-- R376, R377. SAVE: what refuses it (a core with four redirect entries: code 6, the model's choice, log entry 29), and what an accepted one does at once: a store that waits for the store buffer completes first, a load, a query or a VTBLD in flight ends, every other context
has halted, with PDBG set where a breakpoint is due (R378, R385). R377 to R381. SAVE_DRAINED looks again while something is in flight; then the image holds header, contexts, core stores and tags (a tag word takes 8 bytes, R425); the team leaves its positions, plane arrays and tables; its cores hold redirect entries. R381.
REDIRECT_COMPLETION reaches the image and counts OUT down. -/
def Obligations.Saving : Prop :=
  (∀ (s : State) (i : Instr), i ∈ [Instr.preSave, .preResume, .preDrop] → (¬ Writes s → exec i s = .next s) ∧
    (Writes s → (s.clus s.inp.clus).pre.run ≠ 0 → ∃ t, exec i s = .next t ∧ Refused s t 6)) ∧
  (∀ s : State, Writes s → (s.clus s.inp.clus).pre.run = 0 →
    let c := s.inp.clus
    let v := s.inp.val
    (s.team? c (ctlSlot v) = none → ∃ t, exec .preSave s = .next t ∧ Refused s t 1) ∧
    (∀ tm, s.team? c (ctlSlot v) = some tm → tm.retiring = true → ∃ t, exec .preSave s = .next t ∧ Refused s t 1) ∧
    ∀ tm, s.team? c (ctlSlot v) = some tm → tm.retiring = false →
      let fits := 0x100000000 ≤ ctlImg v ∧ ctlImg v + imgSize tm.pos.length (coresOf tm.pos).length tm.planes.length (s.teamTables c (ctlSlot v)).length ≤ 0x1FF000000
      (tm.bast = true → ∃ t, exec .preSave s = .next t ∧ Refused s t 3) ∧
      (tm.bast = false → recPreempt (s.teamRecord tm) = false → ∃ t, exec .preSave s = .next t ∧ Refused s t 2) ∧
      (tm.bast = false → recPreempt (s.teamRecord tm) = true → ¬ fits → ∃ t, exec .preSave s = .next t ∧ Refused s t 4) ∧
      (tm.bast = false → recPreempt (s.teamRecord tm) = true → fits → (s.clus c).keyBits.getLsbD (ctlKey v) = false → ∃ t, exec .preSave s = .next t ∧ Refused s t 5) ∧
      (tm.bast = false → recPreempt (s.teamRecord tm) = true → fits → (s.clus c).keyBits.getLsbD (ctlKey v) = true → (∃ n ∈ coresOf tm.pos, 4 ≤ (s.core c n).redirect.length) →
        ∃ t, exec .preSave s = .next t ∧ Refused s t 6) ∧
      (tm.bast = false → recPreempt (s.teamRecord tm) = true → fits → (s.clus c).keyBits.getLsbD (ctlKey v) = true → (∀ n ∈ coresOf tm.pos, (s.core c n).redirect.length < 4) → ∃ t, exec .preSave s = .next t ∧
        (t.clus c).pre.state = 1 ∧ (t.clus c).pre.err = 0 ∧ (t.clus c).pre.slot = ctlSlot v ∧ (t.clus c).pre.img = ctlImg v ∧ (t.clus c).pre.key = ctlKey v ∧
        Sched.event .saveDrained { clus := c } ∈ t.pending ∧ t.teams = s.teams ∧ s.sameMem t ∧
        (∀ p, Still s t p) ∧ (∀ p, p ∉ tm.at c → (t.ctx p).stop = (s.ctx p).stop) ∧
        (∀ p ∈ tm.at c, let x := s.ctx p
          let y := t.ctx p
          (x.st = .blocked .buffer → y.st = x.st ∧ y.last = true) ∧
          ((∃ r, x.st = .blocked (.load r)) ∨ (∃ q d, x.st = .blocked (.query q d)) ∨ (∃ k l, x.st = .blocked (.table k l)) → y = { x with stop := true }) ∧
          (x.st ≠ .blocked .buffer → y.stop = true) ∧ (x.st = .ready → y.last = false ∧ y.sub = none) ∧
          (x.st = .ready → x.stop = false → x.ptrap = none → (∃ l, s.fetchInstr p = .bytes l) → x.bpMatch.isSome = true → y.pdbg = true)))) ∧
  (∀ s : State, (s.clus s.inp.clus).pre.run = 0 → exec .saveDrained s = .next s) ∧
  (∀ (s : State) (tm : Team), ((s.clus s.inp.clus).pre.run = 1 ∨ (s.clus s.inp.clus).pre.run = 2) → s.team? s.inp.clus (s.clus s.inp.clus).pre.slot = some tm →
    ((∃ p ∈ tm.at s.inp.clus, (∃ r, (s.ctx p).st = .blocked (.load r)) ∨ (∃ q d, (s.ctx p).st = .blocked (.query q d)) ∨ (∃ k l, (s.ctx p).st = .blocked (.table k l)) ∨ (s.ctx p).last = true) ∨
      (∃ e ∈ s.tiles, e.1.1 = s.inp.clus ∧ ∃ m ∈ e.2.cmds, (m.pos.core, m.pos.ctx) ∈ tm.pos)) →
    ∃ t, exec .saveDrained s = .next t ∧ (t.clus s.inp.clus).pre.state = 2 ∧ Sched.event .saveDrained s.inp ∈ t.pending ∧ t.teams = s.teams ∧ s.sameMem t ∧ ∀ p, Still s t p) ∧
  (∀ (s : State) (c slot : Nat) (tm : Team), SaveRuns s c slot tm →
    let pre := (s.clus c).pre
    let cores := coresOf tm.pos
    let own := s.ownTags c slot tm
    let out := (own.filter (fun e => counts e.2.2)).length + ((tm.at c).map (countsAt s)).sum
    ∃ t, exec .saveDrained s = .next t ∧
      let im := fun (o n : Nat) => t.bytesAt (mkPa s.pkg c pre.img + o) pre.key n
      (t.clus c).pre.out = out ∧ (t.clus c).pre.state = (if out = 0 then 4 else 3) ∧
      im 0 8 = dwordBytes (BitVec.ofNat 64 (0x4739494D * 2 ^ 32 + 2 ^ 24 + 2 ^ 16 + (if out = 0 then 3 else 2))) ∧
      im 8 8 = dwordBytes (BitVec.ofNat 64 (slot * 2 ^ 48 + tm.launch.1 % 256 * 2 ^ 24 + tm.launch.2 % 2 ^ 24)) ∧ im 0x18 4 = wordBytes (BitVec.ofNat 32 out) ∧
      im 0x40 8 = dwordBytes pre.clkh ∧ im 0x60 16 = List.replicate 16 0 ∧
      (∀ j n, cores[j]? = some n → im (coreAt tm.pos.length j) 0x8000 = s.bytesAt (mkPa s.pkg c (n * 0x8000)) 0 0x8000 ∧ slot ∈ (t.core c n).redirect ∧
        ∀ k, k < 64 → let r := (s.core c n).tag k
          im (coreAt tm.pos.length j + 0x8200 + 8 * k) 8 =
            (if r.team = slot ∧ r.st.isFree = false then dwordBytes (BitVec.ofNat 64 (2 ^ 16 + r.err.toNat * 256 + (if r.st.isDone then 2 else 1))) else List.replicate 8 0)) ∧
      (∀ i p, tm.pos[i]? = some p → let x := s.ctx ⟨c, p.1, p.2⟩
        (∀ f ∈ recordFields x, im (ctxAt i + f.1) f.2.length = f.2) ∧ im (ctxAt i + 0x11C) 4 = wordBytes (BitVec.ofNat 32 (stateWord x)) ∧
        (x.pend = none → im (ctxAt i + 0x1B8) 16 = List.replicate 16 0) ∧ (∀ q, x.pend = some q → im (ctxAt i + 0x1B8) 16 = dwordBytes q.1 ++ dwordBytes (q.2.setWidth 64)) ∧
        (∀ k r, x.ans = some (k, r) → im (ctxAt i + 0x1C8) 8 = dwordBytes (match k with | .send => 1#64 | .sendt => 2#64 | .enq => 3#64 | .enqt => 4#64 | .svc => 5#64)) ∧ (x.ans = none → x.enqts = [] → im (ctxAt i + 0x1C8) 8 = List.replicate 8 0) ∧ (x.convoy = none → im (ctxAt i + 0x1E8) 4 = List.replicate 4 0)) ∧
      (∀ p ∈ tm.at c, t.ctx p = Ctx.reset) ∧ (∀ p, p ∉ tm.at c → Still s t p) ∧ t.teams = s.teams.filter (fun e => e.1 ≠ (c, slot)) ∧
      (∀ n, (t.tile c n).holder ≠ some slot ∧ ∀ k, k < 4 → ((t.tile c n).tables.toList.getD k {}).holder ≠ some (some slot)) ∧
      (∀ a k, (a < mkPa s.pkg c pre.img ∨ mkPa s.pkg c pre.img + imgSize tm.pos.length cores.length tm.planes.length (s.teamTables c slot).length ≤ a) →
        (∀ n ∈ cores, ¬ (mkPa s.pkg c (n * 0x8000) ≤ a ∧ a < mkPa s.pkg c (n * 0x8000) + 0x8000)) → t.byteAt a k = s.byteAt a k)) ∧
  (∀ (s : State) (c : Nat) (v : Saved), SavedHere s c v → s.inp.slot = v.slot → s.inp.id = v.img → (s.clus c).keyBits.getLsbD v.key = true →
    (∀ core a l j, s.inp.load = .completion (.landing core a l) → (coresOf v.positions)[j]? = some core → a + l.length ≤ 0x8000 → ∃ t, exec .redirectCompletion s = .next t ∧
      imgBytes t c v (coreAt v.positions.length j + a) l.length = l ∧ OnlyImage s t c v ∧ t.ctxs = s.ctxs) ∧
    (∀ core tag err j, s.inp.load = .completion (.tag core tag err) → (coresOf v.positions)[j]? = some core → tag < 64 → v.owned.any (fun e => e.core = core && e.tag = tag) = true → ∃ t, exec .redirectCompletion s = .next t ∧
      imgBytes t c v (coreAt v.positions.length j + 0x8200 + 8 * tag) 8 = dwordBytes (BitVec.ofNat 64 (2 ^ 16 + err.toNat * 256 + 2)) ∧ imgBytes t c v 0x18 4 = wordBytes (BitVec.ofNat 32 (v.out - 1)) ∧
      (v.out = 1 → imgBytes t c v 0 1 = [3]) ∧ (t.clus c).saved.map (·.out) = [v.out - 1] ∧ OnlyImage s t c v ∧ t.ctxs = s.ctxs ∧
      (∀ n k, (t.core c n).tag k = (s.core c n).tag k)) ∧
    (∀ p st i, s.inp.load = .completion (.lease p st) → v.positions[i]? = some (p.core, p.ctx) → p.clus = c → ∃ t, exec .redirectCompletion s = .next t ∧
      imgBytes t c v (ctxAt i + 0x1EC) 4 = wordBytes st ∧ OnlyImage s t c v ∧ t.ctxs = s.ctxs) ∧
    (∀ p body j, s.inp.load = .completion (.message p body) → (coresOf v.positions)[j]? = some p.core → body.length = 8 → (v.mail.filter (fun m => m.1 = p.core)).length < 16 → ∃ t, exec .redirectCompletion s = .next t ∧
      imgBytes t c v (coreAt v.positions.length j + 0x8000 + 32 * (v.mail.filter (fun m => m.1 = p.core)).length) 32 = wordsBytes body ∧ OnlyImage s t c v ∧ t.ctxs = s.ctxs)) ∧
  (∀ s : State, (∀ v ∈ (s.clus s.inp.clus).saved, v.slot ≠ s.inp.slot) → exec .redirectCompletion s = .next s)

/-- R382, R383. RESUME and DROP: refused with 4 for an image outside the slice, 5 for a key not held, 7 for a header that is not that of a SAVED or SETTLED team of the slot (its RSV bits are not looked at: the model's choice, log entry 36), 1 where the cluster
has no such saved team; their order is the model's choice (log entry 29), and so is ERR 5 for a key taken away before the placement. RESUME_PLACE places the team where everything it needs is free, with the image's registers, stores, messages and tags, and looks again while it is not; DROP ends the team.
R386. The debug window: refusals by code, a miss that walks without a message, a read of 8 bytes here or in another package, a write; while a team halts or saves the command waits (the model's choice, log entry 29). -/
def Obligations.Resuming : Prop :=
  (∀ s : State, Writes s → (s.clus s.inp.clus).pre.run = 0 →
    let c := s.inp.clus
    let v := s.inp.val
    let inside := 0x100000000 ≤ ctlImg v ∧ ctlImg v + 4096 ≤ 0x1FF000000
    let h := fun (o : Nat) => bytesDWord (s.bytesAt (mkPa s.pkg c (ctlImg v) + o) (ctlKey v) 8)
    let good := (h 0).extractLsb' 32 32 = 0x4739494D#32 ∧ (h 0).extractLsb' 24 8 = 1#8 ∧ ((h 0).extractLsb' 0 8 = 2#8 ∨ (h 0).extractLsb' 0 8 = 3#8) ∧ ((h 8).extractLsb' 48 9).toNat = ctlSlot v
    (∀ i ∈ [Instr.preResume, .preDrop],
      (¬ inside → ∃ t, exec i s = .next t ∧ Refused s t 4) ∧
      (inside → (s.clus c).keyBits.getLsbD (ctlKey v) = false → ∃ t, exec i s = .next t ∧ Refused s t 5) ∧
      (inside → (s.clus c).keyBits.getLsbD (ctlKey v) = true → ¬ good → ∃ t, exec i s = .next t ∧ Refused s t 7) ∧
      (inside → (s.clus c).keyBits.getLsbD (ctlKey v) = true → good → (∀ x ∈ (s.clus c).saved, x.slot = ctlSlot v → x.img ≠ ctlImg v) → ∃ t, exec i s = .next t ∧ Refused s t 1)) ∧
    (∀ x, SavedHere s c x → x.slot = ctlSlot v → x.img = ctlImg v →
      ((s.clus c).keyBits.getLsbD (ctlKey v) = true → good → ∃ t, exec .preResume s = .next t ∧ t = { s with clusters := t.clusters, pending := s.pending ++ [.event .resumePlace { clus := c }] } ∧
        (t.clus c).pre.state = 5 ∧ (t.clus c).saved = [x] ∧ (t.clus c).pre.key = ctlKey v) ∧
      ((s.clus c).keyBits.getLsbD (ctlKey v) = true → good → ∃ t, exec .preDrop s = .next t ∧ (t.clus c).pre.state = 7 ∧ (t.clus c).saved = [] ∧
        t.bytesAt (mkPa s.pkg c x.img) (ctlKey v) 1 = [5] ∧ (∀ o ∈ x.owned, ∀ e ∈ t.pulls, e.1 ≠ o.op) ∧ (∀ n ∈ coresOf x.positions, (t.core c n).redirect = (s.core c n).redirect.erase x.slot) ∧
        OnlyImage s t c x ∧ (∀ p, Still s t p) ∧ Sched.event .teamPlace {} ∈ t.pending))) ∧
  (∀ s : State, (s.clus s.inp.clus).pre.run ≠ 5 → exec .resumePlace s = .next s) ∧
  (∀ (s : State) (c : Nat) (v : Saved), SavedHere s c v → (s.clus c).pre.run = 5 → (s.clus c).pre.slot = v.slot → (s.clus c).pre.img = v.img →
    ((s.clus c).keyBits.getLsbD (s.clus c).pre.key = false → ∃ t, exec .resumePlace s = .next t ∧ t = { s with clusters := t.clusters } ∧ (t.clus c).pre.state = 0xFF ∧ (t.clus c).pre.err = 5 ∧ (t.clus c).saved = [v]) ∧
    ((s.clus c).keyBits.getLsbD (s.clus c).pre.key = true → s.resumeFits c v = false → ∃ t, exec .resumePlace s = .next t ∧ t = { s with pending := s.pending ++ [.event .resumePlace s.inp] }) ∧
    ((s.clus c).keyBits.getLsbD (s.clus c).pre.key = true → s.resumeFits c v = true → (s.clus c).pre.key = v.key → recSv (s.recordOf (lnchWord v.launch)) = false →
      let im := imgBytes s c v
      ∃ t, exec .resumePlace s = .next t ∧ (t.clus c).pre.state = 6 ∧ (t.clus c).saved = [] ∧ imgBytes t c v 0 1 = [4] ∧
        (∃ tm, t.team? c v.slot = some tm ∧ tm.pos = v.positions ∧ tm.launch = v.launch ∧ tm.index = v.team) ∧
        (∀ j n, (coresOf v.positions)[j]? = some n → t.bytesAt (mkPa s.pkg c (n * 0x8000)) 0 0x8000 = im (coreAt v.positions.length j) 0x8000 ∧ (t.core c n).redirect = (s.core c n).redirect.erase v.slot ∧
          (t.core c n).mail = (s.core c n).mail ++ ((v.mail.filter (fun m => m.1 = n)).zipIdx.map (fun e => ⟨e.1.2, bytesWords 8 (im (coreAt v.positions.length j + 0x8000 + 32 * e.2) 32)⟩)) ∧
          ∀ k, k < 64 → let w := bytesWord (im (coreAt v.positions.length j + 0x8200 + 8 * k) 4)
            (w.getLsbD 16 = true → w.extractLsb' 0 2 = 2#2 → ((t.core c n).tag k).st = .done ∧ ((t.core c n).tag k).err = w.extractLsb' 8 8 ∧ ((t.core c n).tag k).team = v.slot) ∧
            (w.getLsbD 16 = false → (t.core c n).tag k = (s.core c n).tag k)) ∧
        (∀ i p, v.positions[i]? = some p → let x := t.ctx ⟨c, p.1, p.2⟩
          (∀ f ∈ recordFields x, im (ctxAt i + f.1) f.2.length = f.2) ∧ x.slot = some v.slot ∧ x.team = BitVec.ofNat 32 v.team ∧ x.lnch = BitVec.ofNat 32 (v.launch.1 % 256 * 2 ^ 24 + v.launch.2 % 2 ^ 24) ∧
          x.teamn = bytesWord (im 0x1C 4) ∧ x.stop = false ∧ (x.st = .halted ↔ (bytesWord (im (ctxAt i + 0x11C) 4)).extractLsb' 4 4 = 4#4) ∧
          x.intrap = (bytesWord (im (ctxAt i + 0x11C) 4)).getLsbD 0 ∧ x.skipbp = (bytesWord (im (ctxAt i + 0x11C) 4)).getLsbD 1 ∧ (x.ptrap.isSome = (bytesWord (im (ctxAt i + 0x11C) 4)).getLsbD 2) ∧
          x.pdbg = (bytesWord (im (ctxAt i + 0x11C) 4)).getLsbD 3) ∧
        (∀ p : Pos, (p.clus ≠ c ∨ (p.core, p.ctx) ∉ v.positions) → t.ctx p = s.ctx p) ∧ (∀ n ∈ v.planes, (t.tile c n).holder = some v.slot))) ∧
  (∀ (s : State) (i : Instr), i ∈ [Instr.dbgRead, .dbgWrite] →
    (s.inp.flag = false → (¬ Writes s ∨ (s.clus s.inp.clus).dbg.busy = true) → exec i s = .next s) ∧ (s.inp.flag = true → (s.clus s.inp.clus).dbg.cmd = none → exec i s = .next s)) ∧
  (∀ (s : State) (i : Instr) (write : Bool) (sp : Space) (acc : AccKind) (fn : Nat) (v : DWord), (i, write, sp, acc) ∈ [(Instr.dbgRead, false, Space.read, AccKind.load), (.dbgWrite, true, .home, .store)] →
    DebugRuns s write fn v →
    (((s.clus s.inp.clus).pre.run = 1 ∨ (s.clus s.inp.clus).pre.run = 2) → ∃ t, exec i s = .next t ∧ (t.clus s.inp.clus).dbg.busy = true ∧ (t.clus s.inp.clus).dbg.done = false ∧ s.sameMem t ∧ ∀ p, t.ctx p = s.ctx p) ∧
    ((s.clus s.inp.clus).pre.run ≠ 1 → (s.clus s.inp.clus).pre.run ≠ 2 → (∀ x ∈ (s.clus s.inp.clus).xfails, x.1 ≠ .quiet (.dbg s.inp.clus)) →
    let c := s.inp.clus
    let k := (s.clus c).dbg
    let a : DWord := v &&& 0xFFFFFFFFFFFF#64
    let at_ := s.translate c (.quiet (.dbg c)) (v.extractLsb' 48 4).toNat sp a acc
    let fails := fun (code : Byte) => ∃ t, exec i s = .next t ∧ t = { s with clusters := t.clusters } ∧ DebugDone s t c code k.data
    (a.toNat % 8 ≠ 0 → fails 0x10) ∧
    (∀ code, a.toNat % 8 = 0 → at_ = .trap code → code ≠ 0x50 → fails 0x11) ∧
    (a.toNat % 8 = 0 → at_ = .miss → ∃ t, exec i s = .next t ∧ (t.clus c).dbg = { k with cmd := some (write, fn, v), busy := true, done := false, err := false, code := 0 } ∧
      (∃ w ∈ (t.clus c).walks, .quiet (.dbg c) ∈ w.reqs) ∧ s.sameMem t) ∧
    (∀ pa x, a.toNat % 8 = 0 → at_ = .ok pa x →
      (x.type = .sealed → fails 0x42) ∧
      (x.type = .device → fn ≠ 0 → fails 0x02) ∧
      (x.type ≠ .sealed → x.type ≠ .device → s.dead.getLsbD (paPkg pa) = true → fails 0x50) ∧
      (x.type ≠ .sealed → x.type ≠ .device → s.dead.getLsbD (paPkg pa) = false →
        (write = false → paPkg pa ≠ s.pkg → (∀ o ∈ s.outReads, o.who ≠ .dbg c) → ∃ t it r, exec i s = .next t ∧ (t.clus c).dbg.busy = true ∧ (t.clus c).dbg.done = false ∧ it ∈ t.items ∧ it.dpkg = paPkg pa ∧
          it.body = .read r ∧ r.pa = pa ∧ r.key = x.key ∧ r.len = 8 ∧ s.sameMem t) ∧
        (write = false → paPkg pa = s.pkg → s.ownerRefuses (s.clus c).fn pa = true → fails 0x11) ∧
        (write = false → paPkg pa = s.pkg → s.ownerRefuses (s.clus c).fn pa = false →
          (s.poison.contains (pa / 64) = true → fails 0x50) ∧
          (s.poison.contains (pa / 64) = false → (∀ m, s.bastCore (paClus pa) m = false) → ∃ t, exec i s = .next t ∧ DebugDone s t c 0 (bytesDWord (s.bytesAt pa x.key 8)))) ∧
        (write = true → pa % 8 = 0 → memWf s.mem = true → ∃ t, exec i s = .next t ∧ Wrote s t x.key pa (dwordBytes k.data) ∧
          (t.clus c).dbg = { cmd := none, data := k.data, busy := false, done := true, err := false, code := 0 })))))

namespace Sys2Proof.Claims

/-- A byte of the core stores, of the vault or of the basting stores of a cluster of this package (R32). -/
def ownStores (s : State) (c pa : Nat) : Prop :=
  paPkg pa = s.pkg ∧ paClus pa = c ∧ (paOfs pa < 0x400000 ∨ (0x1000000 ≤ paOfs pa ∧ paOfs pa < 0x1800000))

/-- The team of a slot, halted, on cores with nothing buffered or cached. -/
structure Halted (s : State) (c slot : Nat) (t : Team) : Prop where
  clus : c = s.inp.clus ∧ slot = s.inp.slot ∧ c < 128
  team : s.team? c slot = some t
  halted : ∀ p ∈ t.at c, (s.ctx p).st = .halted
  pos : ∀ p ∈ t.pos, p.1 < 128 ∧ p.2 < 4
  cores : ∀ n, (s.core c n).sb = [] ∧ (s.core c n).l1 = []
  mem : memWf s.mem = true

/-- What a reset of function f leaves (R394): no team and no context in its clusters, stores that read 0, no translation, no key, no queue. -/
structure ResetOf (s t : State) (f : Nat) : Prop where
  teams : ∀ e ∈ t.teams, (s.clus e.1.1).fn = f → 128 ≤ e.1.1
  ctxs : ∀ p : Pos, p.clus < 128 → (s.clus p.clus).fn = f → t.ctx p = Ctx.reset
  stores : ∀ c pa key, c < 128 → (s.clus c).fn = f → ownStores s c pa → t.byteAt pa key = 0
  cores : ∀ c n, c < 128 → (s.clus c).fn = f → (t.core c n).mail = [] ∧ (t.core c n).l1 = [] ∧ (t.core c n).sb = [] ∧ ∀ k, (t.core c n).tag k = TagRec.reset
  xlate : ∀ c, c < 128 → (s.clus c).fn = f → (t.clus c).fn = f ∧ (t.clus c).tlb = [] ∧ (t.clus c).walks = [] ∧ (t.clus c).rcache = [] ∧ (t.clus c).rroot = Vector.replicate 16 0 ∧ (t.clus c).hroot = Vector.replicate 16 0 ∧
    (t.clus c).svcStat = 0 ∧ (t.clus c).svcCtl.getLsbD 63 = false ∧ (t.clus c).banks = Vector.replicate 8 none
  tiles : ∀ c n, c < 128 → (s.clus c).fn = f → t.tile c n = Tile.reset
  pulls : ∀ e ∈ t.pulls, e.2.clus < 128 → (s.clus e.2.clus).fn ≠ f
  keys : (s.keySlots.map (·.1)).Nodup → ∀ n, ((s.keySlot n).st ≠ .empty ∧ (s.keySlot n).fn = f) → (t.keySlot n).st = .empty ∧ ∀ c, c < 128 → (s.clus c).fn = f → n < 4096 → (t.clus c).keyBits.getLsbD n = false
  queues : ∀ q, q < 256 → (s.queue q).fn = f → (t.queue q).st = .absent ∧ (t.queue q).fn = f

/-- A poisoned line is added, nothing else. -/
def Poisons (s t : State) (line : Nat) : Prop := t = { s with poison := t.poison } ∧ ∀ l, l ∈ t.poison ↔ l ∈ s.poison ∨ l = line

/-- The walk that the snapshot milestone of a function stands for (R399): its cluster, and what translating it gives. -/
def snapClus (s : State) (f : Nat) : Nat := ((s.snap f).ms.extractLsb' 56 7).toNat
def snapTranslate (s : State) (f : Nat) : QuietRes := s.quiet (snapClus s f) 0 .home ((s.snap f).ms &&& 0xFFFFFFFF8#64) .atomic (.snap f)

/-- The milestone can advance or be passed over: no walk has to run first. -/
def SnapReady (s : State) (f : Nat) : Prop := (s.clus (snapClus s f)).fn ≠ f ∨ ∀ u, snapTranslate s f ≠ .wait u

/-- A command of a function has ended: DONE, and with a code ERR. -/
def SnapEnded (s t : State) (f : Nat) (err : Bool) (code : Byte) : Prop :=
  t.snap f = { s.snap f with busy := false, done := true, err := err, code := code, quiescing := false, late := false }

/-- Memory of this package stands at an address (R32). -/
def isMemory (s : State) (pa : Nat) : Prop :=
  paPkg pa = s.pkg ∧ (paOfs pa < 0x400000 ∨ (0x1000000 ≤ paOfs pa ∧ paOfs pa < 0x1800000) ∨ (0x100000000 ≤ paOfs pa ∧ paOfs pa < 0x200000000))

end Sys2Proof.Claims

/-- R388 to R390. TEAM_RETIRE: a team whose contexts are all HALTED closes its streams and cancels its watches; TEAM_RETIRE_DONE waits while a tag it owns is BUSY or an answer is awaited, then releases it: positions, slot, plane arrays, tables, and core stores that it asks to have
zeroed. R394, R395. FUNCTION_LEVEL_RESET and CONVENTIONAL_RESET: steps 1 to 6 in one step of the model; until step 7, which reports that the reset is done, the function's BARs do not answer (log entry 52). -/
def Obligations.RetirementAndReset : Prop :=
  (∀ s : State, (∀ tm, s.team? s.inp.clus s.inp.slot = some tm → tm.retiring = true ∨ ∃ p ∈ tm.at s.inp.clus, (s.ctx p).st ≠ .halted) → exec .teamRetire s = .next s) ∧
  (∀ (s : State) (c slot : Nat) (tm : Team), Halted s c slot tm → tm.retiring = false → s.fabric.leases = [] →
    ∃ t, exec .teamRetire s = .next t ∧ t.team? c slot = some { tm with retiring := true } ∧ Sched.event .teamRetireDone s.inp ∈ t.pending ∧ s.sameMem t ∧
      (∀ p ∈ tm.at c, (t.ctx p).st = .halted ∧ ∀ k, k < 4 → (t.ctx p).stream k = none) ∧
      ((∀ p ∈ tm.at c, ∀ k, k < 4 → (s.ctx p).stream k = none) → ∀ n k id b pk, (n ∈ tm.pos.map (·.1)) → k < 64 → ((s.core c n).tag k).team = slot → ((s.core c n).tag k).st = .busy (.watch id b pk) →
        ((t.core c n).tag k).st = .free ∧ ∀ e ∈ t.clusters, (∀ w ∈ e.2.watches, w.opkg = s.pkg → w.op ≠ id) ∧ ∀ w ∈ e.2.polls ++ e.2.asked, w.op ≠ id)) ∧
  (∀ s : State, (∀ tm, s.team? s.inp.clus s.inp.slot = some tm → tm.retiring = false) → exec .teamRetireDone s = .next s) ∧
  (∀ (s : State) (c slot : Nat) (tm : Team), Halted s c slot tm → tm.retiring = true →
    let busy := (∃ n ∈ tm.pos.map (·.1), ∃ k, k < 64 ∧ ((s.core c n).tag k).team = slot ∧ ((s.core c n).tag k).st.isBusy = true) ∨ ∃ p ∈ tm.at c, (s.ctx p).ans.isSome = true ∨ (s.ctx p).enqts ≠ []
    let shared := fun (n : Nat) => ∃ x, x < 4 ∧ (n, x) ∉ tm.pos ∧ ∃ k, (s.ctx ⟨c, n, x⟩).slot = some k ∧ k ≠ slot
    let zero := recZcore (s.teamRecord tm)
    (busy → exec .teamRetireDone s = .next { s with pending := s.pending ++ [.event .teamRetireDone s.inp] }) ∧
    (¬ busy → ∃ t, exec .teamRetireDone s = .next t ∧ t.teams = s.teams.filter (fun e => e.1 ≠ (c, slot)) ∧ (∀ p ∈ tm.at c, t.ctx p = Ctx.reset) ∧ (∀ p, p ∉ tm.at c → Still s t p) ∧
      (∀ n, (t.tile c n).holder ≠ some slot ∧ ((s.tile c n).holder = some slot → (t.tile c n).acc = [] ∧ (t.tile c n).buf = []) ∧ ∀ k, k < 4 → ((t.tile c n).tables.toList.getD k {}).holder ≠ some (some slot)) ∧
      (∀ n k, n ∈ tm.pos.map (·.1) → k < 64 → ((s.core c n).tag k).team = slot → (t.core c n).tag k = TagRec.reset ∨ ((s.core c n).tag k).st.isFree = true) ∧
      (∀ a key, (∃ n ∈ tm.pos.map (·.1), ¬ shared n ∧ (zero = true ∨ (s.core c n).zpend = true) ∧ mkPa s.pkg c (n * 0x8000) ≤ a ∧ a < mkPa s.pkg c (n * 0x8000) + 0x8000) → t.byteAt a key = 0) ∧
      (∀ a key, (∀ n ∈ tm.pos.map (·.1), shared n ∨ (zero = false ∧ (s.core c n).zpend = false) ∨ a < mkPa s.pkg c (n * 0x8000) ∨ mkPa s.pkg c (n * 0x8000) + 0x8000 ≤ a) → t.byteAt a key = s.byteAt a key) ∧
      Assoc.get 0 slot (t.clus c).slotCount = (Assoc.get 0 slot (s.clus c).slotCount + 1) % 2 ^ 32 ∧
      (Assoc.get {} (tm.launch.1 % 256, tm.launch.2 % 2 ^ 24) (t.clus c).counters).prog =
        (Assoc.get {} (tm.launch.1 % 256, tm.launch.2 % 2 ^ 24) (s.clus c).counters).prog + ((tm.at c).map (fun p => (s.ctx p).retc.toNat)).sum + 1 ∧
      (∀ e ∈ s.launches, e.1 = tm.launch → (e.1, { e.2 with retired := e.2.retired + 1 }) ∈ t.launches) ∧ Sched.event .teamPlace {} ∈ t.pending)) ∧
  (∀ s : State, s.inp.fn ≠ 0 → s.inp.flag = false → (s.inp.fn ≤ 16 ∧ s.sriov = true ∧ s.inp.fn ∉ s.resetting → ∃ t, exec .functionLevelReset s = .next t ∧ ResetOf s t s.inp.fn ∧ t.sriov = true ∧ t.boot = s.boot ∧ s.inp.fn ∈ t.resetting ∧ Sched.event .functionLevelReset { fn := s.inp.fn, flag := true } ∈ t.pending ∧
      (memWf s.mem = true → (∀ e ∈ s.teams, (s.clus e.1.1).fn ≠ s.inp.fn) → (∀ c, (s.clus c).fn = s.inp.fn → (s.clus c).saved = []) → (∀ q b, s.basting? q = some b → (s.queue q).fn ≠ s.inp.fn) →
        t.hbmKey = s.hbmKey ∧ ∀ pa key, (paRegion pa).isHbm = false → (∀ c, c < 128 → (s.clus c).fn = s.inp.fn → ¬ ownStores s c pa) → t.byteAt pa key = s.byteAt pa key)) ∧
    (16 < s.inp.fn ∨ s.sriov = false ∨ s.inp.fn ∈ s.resetting → exec .functionLevelReset s = .next s)) ∧
  (∀ s : State, s.inp.flag = true → (s.inp.fn ∉ s.resetting → exec .functionLevelReset s = .next s) ∧
    (s.inp.fn ∈ s.resetting → exec .functionLevelReset s = .next { s with resetting := s.resetting.filter (· ≠ s.inp.fn), host := s.host ++ [.resetDone s.inp.fn] })) ∧
  (∀ s : State, ∃ t, exec .conventionalReset s = .next t ∧ ResetOf s t 0 ∧ t.sriov = false ∧ t.boot = s.boot ∧ 0 ∈ t.resetting ∧
    (s.sriov = true → ∀ f, 1 ≤ f → f ≤ 16 → (∀ p : Pos, p.clus < 128 → (s.clus p.clus).fn = f → t.ctx p = Ctx.reset) ∧ (∀ q, q < 256 → (s.queue q).fn = f → (t.queue q).st = .absent))) ∧
  (∀ s : State, s.inp.fn = 0 → s.inp.flag = false → exec .functionLevelReset s = exec .conventionalReset s)

/-- R45, R397, R398, R401. Soft errors and telemetry: a corrected error is counted, saturating, and has no other effect; an uncorrectable one poisons its line; a failed link tag after a retry poisons its HBM line; a parity error in a context's registers drops its team and stops its queue with UNCORRECTABLE, one in a
watch or TLB entry discards the entry. R399, R400. Snapshots: a milestone that cannot advance (of another function's cluster, or one that the home table does not give) stays and the command ends without ERR, and a line of RESTORE outside the HBM of the function's clusters is not written (the model's
choices, log entry 35). -/
def Obligations.ErrorsAndSnapshots : Prop :=
  (∀ s : State, (5 ≤ s.inp.n → exec .correctedError s = .next s) ∧
    (s.inp.n < 5 → ∃ t, exec .correctedError s = .next t ∧ t = { s with telemetry := t.telemetry } ∧ (∀ k, k ≠ s.inp.n → t.tel k = s.tel k) ∧
      (t.tel s.inp.n).extractLsb' 0 48 = (s.tel s.inp.n).extractLsb' 0 48 ∧ ((t.tel s.inp.n).extractLsb' 48 16).toNat = min 0xFFFF (((s.tel s.inp.n).extractLsb' 48 16).toNat + 1))) ∧
  (∀ s : State, (13 ≤ s.inp.n → exec .telemetryUpdate s = .next s) ∧
    (s.inp.n < 13 → ∃ t, exec .telemetryUpdate s = .next t ∧ t = { s with telemetry := t.telemetry } ∧ (∀ k, k ≠ s.inp.n → t.tel k = s.tel k) ∧
      let v := t.tel s.inp.n
      v.extractLsb' 48 16 = (s.tel s.inp.n).extractLsb' 48 16 ∧ v.extractLsb' 24 24 = s.inp.val.extractLsb' 24 24 ∧ (v.extractLsb' 16 8).toNat = min 100 (s.inp.val.extractLsb' 16 8).toNat ∧
        v.extractLsb' 8 8 = s.inp.val.extractLsb' 8 8 ∧ v.extractLsb' 1 7 = 0 ∧ (v.getLsbD 0 = true ↔ (s.inp.val.extractLsb' 24 24).toNat < 2000))) ∧
  (∀ s : State, (isMemory s (64 * s.inp.n) → ∃ t, exec .uncorrectableError s = .next t ∧ Poisons s t s.inp.n) ∧ (¬ isMemory s (64 * s.inp.n) → exec .uncorrectableError s = .next s)) ∧
  (∀ s : State, (s.inp.flag = true → isMemory s (64 * s.inp.n) → 0x100000000 ≤ paOfs (64 * s.inp.n) → ∃ t, exec .hbmLinkTagFail s = .next t ∧ Poisons s t s.inp.n) ∧ (s.inp.flag = false → exec .hbmLinkTagFail s = .next s)) ∧
  (∀ (s : State) (p : Pos) (slot : Nat) (tm : Team) (l : Launch), s.inp.load = .parity (.regs p) → (s.ctx p).slot = some slot → s.team? p.clus slot = some tm → tm.bast = false →
    s.launches.find? (fun e => e.1 = tm.launch) = some (tm.launch, l) → (s.queue tm.launch.1).st = .active → Assoc.has tm.launch.1 s.bastings = false →
    ∃ t, exec .parityError s = .next t ∧ t.teams = s.teams.filter (fun e => e.1 ≠ (p.clus, slot)) ∧ (∀ q ∈ tm.at p.clus, t.ctx q = Ctx.reset) ∧
      (t.queue tm.launch.1).st = .error ∧ (t.queue tm.launch.1).err0 = BitVec.ofNat 64 (l.seq % 2 ^ 32 * 2 ^ 32 + 0x16)) ∧
  (∀ (s : State) (p : Pos), s.inp.load = .parity (.regs p) → (s.ctx p).slot = none → exec .parityError s = .next s) ∧
  (∀ (s : State) (c i : Nat), s.inp.load = .parity (.tlb c i) → ∃ t, exec .parityError s = .next t ∧ t = { s with clusters := t.clusters } ∧ (t.clus c).tlb = (s.clus c).tlb.eraseIdx i ∧ ∀ n, n ≠ c → t.clus n = s.clus n) ∧
  (∀ (s : State) (c i : Nat) (w : WatchEntry), s.inp.load = .parity (.watch c i) → (s.clus c).watches[i]? = some w → w.opkg = s.pkg → ∃ t, exec .parityError s = .next t ∧ (t.clus c).watches = (s.clus c).watches.eraseIdx i ∧
    ∃ d : DoneItem, Sched.event .watchDone { load := .done d } ∈ t.pending ∧ d.clus = w.oclus ∧ d.core = w.core ∧ d.tag = w.tag ∧ d.status = 0x50 ∧ d.op = w.op) ∧
  (∀ (s : State) (i : Instr), i ∈ [Instr.snapQuiesce, .snapCopy, .snapRestore, .snapRelease] → let f := s.inp.fn
    let w := s.snap f
    let live := f ∉ s.resetting ∧ (f = 0 ∨ (f ≤ 16 ∧ s.sriov = true))
    let range := w.src.toNat % 4096 = 0 ∧ w.len.toNat % 4096 = 0 ∧ 4096 ≤ w.len.toNat ∧ w.len.toNat ≤ 2 ^ 32 ∧ paPkg w.src.toNat = s.pkg ∧ (s.clus (paClus w.src.toNat)).fn = f ∧
      0x100000000 ≤ paOfs w.src.toNat ∧ paOfs w.src.toNat + w.len.toNat ≤ 0x1FF000000
    let may := (i = .snapQuiesce ∧ w.quiet = false) ∨ (i = .snapCopy ∧ w.quiet = true ∧ range) ∨ (i = .snapRestore ∧ w.quiet = true) ∨ (i = .snapRelease ∧ w.quiet = true)
    ((w.busy = true ∨ ¬ live) → exec i s = .next s) ∧
    (w.busy = false → live → ¬ may → ∃ t, exec i s = .next t ∧ t = { s with snaps := t.snaps } ∧ SnapEnded s t f true 0) ∧
    (w.busy = false → live → may → ∃ t, exec i s = .next t ∧ (i ≠ .snapQuiesce ∨ (∀ e ∈ s.bastings, (s.queue e.1).fn ≠ f) → s.sameMem t ∧ t.ctxs = s.ctxs) ∧ (∀ g, g ≠ f → t.snap g = s.snap g) ∧
      (i = .snapRelease → t.snap f = { w with busy := false, done := true, err := false, code := 0, quiet := false, quiescing := false, late := false } ∧ Sched.event .teamPlace {} ∈ t.pending) ∧
      (i = .snapQuiesce → t.snap f = { w with busy := true, done := false, err := false, code := 0, quiescing := true } ∧ Sched.event .quiesceDone { fn := f } ∈ t.pending ∧
        ∀ q b, s.basting? q = some b → (s.queue q).fn = f → b.st ≠ .committing → t.basting? q = none) ∧
      (i = .snapCopy → t.snap f = { w with busy := true, done := false, err := false, code := 0, cmd := 2, srcAt := w.src, dstAt := w.dst, lenAt := w.len } ∧ Sched.event .copyDone { fn := f } ∈ t.pending) ∧
      (i = .snapRestore → t.snap f = { w with busy := true, done := false, err := false, code := 0, cmd := 3, srcAt := w.src, dstAt := w.dst, lenAt := w.len } ∧ Sched.event .restoreDone { fn := f } ∈ t.pending))) ∧
  (∀ s : State, let f := s.inp.fn
    let quiet := (∀ e ∈ s.teams, (s.clus e.1.1).fn ≠ f) ∧ ∀ e ∈ s.clusters, e.2.fn = f → ∀ v ∈ e.2.saved, v.out = 0
    ((s.snap f).quiescing = false → exec .quiesceDone s = .next s) ∧
    ((s.snap f).quiescing = true → ¬ quiet → exec .quiesceDone s = .next { s with pending := s.pending ++ [.event .quiesceDone s.inp] }) ∧
    ((s.snap f).quiescing = true → quiet →
      (SnapReady s f → ∃ t, exec .quiesceDone s = .next t ∧ t.snap f = { s.snap f with busy := false, done := true, err := false, code := 0, quiet := true, quiescing := false, late := false }) ∧
      ((s.clus (snapClus s f)).fn = f → (∀ u, snapTranslate s f = .wait u → exec .quiesceDone s = .next u) ∧
        ∀ pa e, snapTranslate s f = .ok pa e → e.type ∈ [PageType.normal, .swm] → memWf s.mem = true → pa % 8 = 0 → bytesDWord (s.bytesAt pa e.key 8) ≠ BitVec.allOnes 64 → s.poison.contains (pa / 64) = false →
          ∃ t, exec .quiesceDone s = .next t ∧ Wrote s t e.key pa (dwordBytes (bytesDWord (s.bytesAt pa e.key 8) + 1))))) ∧
  (∀ s : State, let f := s.inp.fn
    let w := s.snap f
    let n := w.lenAt.toNat / 64
    let line := w.srcAt.toNat / 64
    let copying := w.busy = true ∧ w.cmd = 2
    let restoring := w.busy = true ∧ w.cmd = 3
    let mine := fun (k : Nat) => paPkg (64 * k) = s.pkg ∧ (s.clus (paClus (64 * k))).fn = f ∧ paRegion (64 * k) = .hbm
    let clean := ∀ k, k < n → s.poison.contains (line + k) = false
    let copied := fun (t : State) => t.host.length = s.host.length + n ∧ ∀ k, k < n → t.host[s.host.length + k]? = some (.stored f (w.dstAt + BitVec.ofNat 64 (64 * k)) (s.storedLine (line + k)))
    (¬ copying → exec .copyDone s = .next s) ∧ (¬ restoring → exec .restoreDone s = .next s) ∧
    (copying → w.late = false → clean → s.inp.flag = false → ∃ t, exec .copyDone s = .next t ∧ copied t ∧ (SnapReady s f → SnapEnded s t f false 0) ∧ (¬ SnapReady s f → t.snap f = { w with late := true })) ∧
    (copying → w.late = true → SnapReady s f → ∃ t, exec .copyDone s = .next t ∧ t.host = s.host ∧ SnapEnded s t f false 0) ∧
    (copying → w.late = false → s.inp.flag = false → (∃ k, k < n ∧ s.poison.contains (line + k) = true) → ∃ t, exec .copyDone s = .next t ∧ SnapEnded s t f true 0x50) ∧
    (copying → w.late = false → clean → s.inp.flag = true → ∃ t, exec .copyDone s = .next t ∧ SnapEnded s t f true 0x11) ∧
    (restoring → w.late = false → s.inp.flag = true → ∃ t, exec .restoreDone s = .next t ∧ SnapEnded s t f true 0x11 ∧ ((∀ l, s.inp.load ≠ .lines l) → s.sameMem t)) ∧
    (∀ l : List (List Byte), restoring → w.late = false → s.inp.flag = false → s.inp.load = .lines l → l.length = n → memWf s.mem = true → (s.clus (snapClus s f)).fn ≠ f → ∃ t, exec .restoreDone s = .next t ∧ SnapEnded s t f false 0 ∧
      (∀ k x, l[k]? = some x → x.length = 64 → mine (line + k) → t.storedLine (line + k) = x ∧ (line + k) ∉ t.poison) ∧
      ∀ k, (k < line ∨ line + n ≤ k ∨ ¬ mine k) → t.storedLine k = s.storedLine k))


/-- R25. Reset: the package is at the very start of power-up, with no team, no context, no queue and nothing listed in memory; every peer is dead; TEL registers, LQ_CTL, BST_CTL and the queues' configuration hold their reset values. The values of registers the spec gives no reset value for, and PKG 0, are the model's choices (log entries 2 and 8). -/
def Obligations.ResetState : Prop :=
  State.reset.memSound ∧ (∀ pa key, (paRegion pa).isHbm = false → State.reset.byteAt pa key = 0) ∧ (∀ p, State.reset.ctx p = Ctx.reset) ∧
    (∀ r, Ctx.reset.reg r = 0) ∧ Ctx.reset.mask 0 = 0xFFFFFFFF#32 ∧ (∀ m, m ≠ 0 → Ctx.reset.mask m = 0) ∧ Ctx.reset.rmode = 1 ∧ Ctx.reset.st = .free ∧
    (∀ c n k, (State.reset.core c n).tag k = TagRec.reset) ∧ (∀ c, (State.reset.clus c).svcStat = 0 ∧ (State.reset.clus c).fn = 0 ∧ (State.reset.clus c).keyBits = 0 ∧ (State.reset.clus c).rroot = Vector.replicate 16 0) ∧
    (∀ q, (State.reset.queue q).st = .absent ∧ (State.reset.queue q).fn = 0 ∧ (State.reset.queue q).cfg = 0xE00) ∧
    (∀ k, State.reset.tel k = 0x0000FFFFFF000000#64) ∧ State.reset.lqCtl = 0x08000C ∧ State.reset.bst.ctl = 0x8004 ∧ State.reset.clk = 0 ∧
    (∀ n, n < 4096 → (State.reset.dead.getLsbD n = true ↔ n ≠ 0)) ∧ State.reset.teams = [] ∧ State.reset.nextReady = none

/-- Every memory stays in canonical form, addresses rising and no byte 0 listed, whatever the machine does: equal memories are equal data in every state a step reaches from a sound one. -/
def Obligations.StepsKeepMemorySound : Prop := ∀ s t : State, s.memSound → step s = .next t → t.memSound
end

