-- ==== Sys2Proof/Laws/State.lean ====
section
/-! SUPPORT. The fields of State under each of its named updates. -/

namespace Sys2Proof.Machine

@[simp] theorem State.setCtx_cur (s : State) (p : Pos) (c : Ctx) : (s.setCtx p c).cur = s.cur := rfl
@[simp] theorem State.setCtx_cores (s : State) (p : Pos) (c : Ctx) : (s.setCtx p c).cores = s.cores := rfl
@[simp] theorem State.setCtx_clusters (s : State) (p : Pos) (c : Ctx) : (s.setCtx p c).clusters = s.clusters := rfl
@[simp] theorem State.setCtx_tiles (s : State) (p : Pos) (c : Ctx) : (s.setCtx p c).tiles = s.tiles := rfl
@[simp] theorem State.setCtx_queues (s : State) (p : Pos) (c : Ctx) : (s.setCtx p c).queues = s.queues := rfl
@[simp] theorem State.setCtx_launches (s : State) (p : Pos) (c : Ctx) : (s.setCtx p c).launches = s.launches := rfl
@[simp] theorem State.setCtx_teams (s : State) (p : Pos) (c : Ctx) : (s.setCtx p c).teams = s.teams := rfl
@[simp] theorem State.setCtx_bastings (s : State) (p : Pos) (c : Ctx) : (s.setCtx p c).bastings = s.bastings := rfl
@[simp] theorem State.setCtx_bst (s : State) (p : Pos) (c : Ctx) : (s.setCtx p c).bst = s.bst := rfl
@[simp] theorem State.setCtx_servedQ (s : State) (p : Pos) (c : Ctx) : (s.setCtx p c).servedQ = s.servedQ := rfl
@[simp] theorem State.setCtx_sealedSlots (s : State) (p : Pos) (c : Ctx) : (s.setCtx p c).sealedSlots = s.sealedSlots := rfl
@[simp] theorem State.setCtx_boot (s : State) (p : Pos) (c : Ctx) : (s.setCtx p c).boot = s.boot := rfl
@[simp] theorem State.setCtx_telemetry (s : State) (p : Pos) (c : Ctx) : (s.setCtx p c).telemetry = s.telemetry := rfl
@[simp] theorem State.setCtx_fabric (s : State) (p : Pos) (c : Ctx) : (s.setCtx p c).fabric = s.fabric := rfl
@[simp] theorem State.setCtx_colls (s : State) (p : Pos) (c : Ctx) : (s.setCtx p c).colls = s.colls := rfl
@[simp] theorem State.setCtx_groupReads (s : State) (p : Pos) (c : Ctx) : (s.setCtx p c).groupReads = s.groupReads := rfl
@[simp] theorem State.setCtx_mem (s : State) (p : Pos) (c : Ctx) : (s.setCtx p c).mem = s.mem := rfl
@[simp] theorem State.setCtx_hbmKey (s : State) (p : Pos) (c : Ctx) : (s.setCtx p c).hbmKey = s.hbmKey := rfl
@[simp] theorem State.setCtx_poison (s : State) (p : Pos) (c : Ctx) : (s.setCtx p c).poison = s.poison := rfl
@[simp] theorem State.setCtx_keySlots (s : State) (p : Pos) (c : Ctx) : (s.setCtx p c).keySlots = s.keySlots := rfl
@[simp] theorem State.setCtx_ksWins (s : State) (p : Pos) (c : Ctx) : (s.setCtx p c).ksWins = s.ksWins := rfl
@[simp] theorem State.setCtx_nextKey (s : State) (p : Pos) (c : Ctx) : (s.setCtx p c).nextKey = s.nextKey := rfl
@[simp] theorem State.setCtx_host (s : State) (p : Pos) (c : Ctx) : (s.setCtx p c).host = s.host := rfl
@[simp] theorem State.setCtx_sriov (s : State) (p : Pos) (c : Ctx) : (s.setCtx p c).sriov = s.sriov := rfl
@[simp] theorem State.setCtx_resetting (s : State) (p : Pos) (c : Ctx) : (s.setCtx p c).resetting = s.resetting := rfl
@[simp] theorem State.setCtx_lqCtl (s : State) (p : Pos) (c : Ctx) : (s.setCtx p c).lqCtl = s.lqCtl := rfl
@[simp] theorem State.setCtx_waveAt (s : State) (p : Pos) (c : Ctx) : (s.setCtx p c).waveAt = s.waveAt := rfl
@[simp] theorem State.setCtx_wavePos (s : State) (p : Pos) (c : Ctx) : (s.setCtx p c).wavePos = s.wavePos := rfl
@[simp] theorem State.setCtx_waveSums (s : State) (p : Pos) (c : Ctx) : (s.setCtx p c).waveSums = s.waveSums := rfl
@[simp] theorem State.setCtx_snaps (s : State) (p : Pos) (c : Ctx) : (s.setCtx p c).snaps = s.snaps := rfl
@[simp] theorem State.setCtx_gens (s : State) (p : Pos) (c : Ctx) : (s.setCtx p c).gens = s.gens := rfl
@[simp] theorem State.setCtx_readSets (s : State) (p : Pos) (c : Ctx) : (s.setCtx p c).readSets = s.readSets := rfl
@[simp] theorem State.setCtx_pulls (s : State) (p : Pos) (c : Ctx) : (s.setCtx p c).pulls = s.pulls := rfl
@[simp] theorem State.setCtx_outReads (s : State) (p : Pos) (c : Ctx) : (s.setCtx p c).outReads = s.outReads := rfl
@[simp] theorem State.setCtx_items (s : State) (p : Pos) (c : Ctx) : (s.setCtx p c).items = s.items := rfl
@[simp] theorem State.setCtx_deferred (s : State) (p : Pos) (c : Ctx) : (s.setCtx p c).deferred = s.deferred := rfl
@[simp] theorem State.setCtx_replay (s : State) (p : Pos) (c : Ctx) : (s.setCtx p c).replay = s.replay := rfl
@[simp] theorem State.setCtx_dead (s : State) (p : Pos) (c : Ctx) : (s.setCtx p c).dead = s.dead := rfl
@[simp] theorem State.setCtx_clk (s : State) (p : Pos) (c : Ctx) : (s.setCtx p c).clk = s.clk := rfl
@[simp] theorem State.setCtx_steps (s : State) (p : Pos) (c : Ctx) : (s.setCtx p c).steps = s.steps := rfl
@[simp] theorem State.setCtx_freeCtr (s : State) (p : Pos) (c : Ctx) : (s.setCtx p c).freeCtr = s.freeCtr := rfl
@[simp] theorem State.setCtx_nextId (s : State) (p : Pos) (c : Ctx) : (s.setCtx p c).nextId = s.nextId := rfl
@[simp] theorem State.setCtx_pkg (s : State) (p : Pos) (c : Ctx) : (s.setCtx p c).pkg = s.pkg := rfl
@[simp] theorem State.setCtx_inp (s : State) (p : Pos) (c : Ctx) : (s.setCtx p c).inp = s.inp := rfl
@[simp] theorem State.setCtx_agenda (s : State) (p : Pos) (c : Ctx) : (s.setCtx p c).agenda = s.agenda := rfl
@[simp] theorem State.setCtx_pending (s : State) (p : Pos) (c : Ctx) : (s.setCtx p c).pending = s.pending := rfl

@[simp] theorem State.modCtx_cur (s : State) (p : Pos) (f : Ctx → Ctx) : (s.modCtx p f).cur = s.cur := rfl
@[simp] theorem State.modCtx_cores (s : State) (p : Pos) (f : Ctx → Ctx) : (s.modCtx p f).cores = s.cores := rfl
@[simp] theorem State.modCtx_clusters (s : State) (p : Pos) (f : Ctx → Ctx) : (s.modCtx p f).clusters = s.clusters := rfl
@[simp] theorem State.modCtx_tiles (s : State) (p : Pos) (f : Ctx → Ctx) : (s.modCtx p f).tiles = s.tiles := rfl
@[simp] theorem State.modCtx_queues (s : State) (p : Pos) (f : Ctx → Ctx) : (s.modCtx p f).queues = s.queues := rfl
@[simp] theorem State.modCtx_launches (s : State) (p : Pos) (f : Ctx → Ctx) : (s.modCtx p f).launches = s.launches := rfl
@[simp] theorem State.modCtx_teams (s : State) (p : Pos) (f : Ctx → Ctx) : (s.modCtx p f).teams = s.teams := rfl
@[simp] theorem State.modCtx_bastings (s : State) (p : Pos) (f : Ctx → Ctx) : (s.modCtx p f).bastings = s.bastings := rfl
@[simp] theorem State.modCtx_bst (s : State) (p : Pos) (f : Ctx → Ctx) : (s.modCtx p f).bst = s.bst := rfl
@[simp] theorem State.modCtx_servedQ (s : State) (p : Pos) (f : Ctx → Ctx) : (s.modCtx p f).servedQ = s.servedQ := rfl
@[simp] theorem State.modCtx_sealedSlots (s : State) (p : Pos) (f : Ctx → Ctx) : (s.modCtx p f).sealedSlots = s.sealedSlots := rfl
@[simp] theorem State.modCtx_boot (s : State) (p : Pos) (f : Ctx → Ctx) : (s.modCtx p f).boot = s.boot := rfl
@[simp] theorem State.modCtx_telemetry (s : State) (p : Pos) (f : Ctx → Ctx) : (s.modCtx p f).telemetry = s.telemetry := rfl
@[simp] theorem State.modCtx_fabric (s : State) (p : Pos) (f : Ctx → Ctx) : (s.modCtx p f).fabric = s.fabric := rfl
@[simp] theorem State.modCtx_colls (s : State) (p : Pos) (f : Ctx → Ctx) : (s.modCtx p f).colls = s.colls := rfl
@[simp] theorem State.modCtx_groupReads (s : State) (p : Pos) (f : Ctx → Ctx) : (s.modCtx p f).groupReads = s.groupReads := rfl
@[simp] theorem State.modCtx_mem (s : State) (p : Pos) (f : Ctx → Ctx) : (s.modCtx p f).mem = s.mem := rfl
@[simp] theorem State.modCtx_hbmKey (s : State) (p : Pos) (f : Ctx → Ctx) : (s.modCtx p f).hbmKey = s.hbmKey := rfl
@[simp] theorem State.modCtx_poison (s : State) (p : Pos) (f : Ctx → Ctx) : (s.modCtx p f).poison = s.poison := rfl
@[simp] theorem State.modCtx_keySlots (s : State) (p : Pos) (f : Ctx → Ctx) : (s.modCtx p f).keySlots = s.keySlots := rfl
@[simp] theorem State.modCtx_ksWins (s : State) (p : Pos) (f : Ctx → Ctx) : (s.modCtx p f).ksWins = s.ksWins := rfl
@[simp] theorem State.modCtx_nextKey (s : State) (p : Pos) (f : Ctx → Ctx) : (s.modCtx p f).nextKey = s.nextKey := rfl
@[simp] theorem State.modCtx_host (s : State) (p : Pos) (f : Ctx → Ctx) : (s.modCtx p f).host = s.host := rfl
@[simp] theorem State.modCtx_sriov (s : State) (p : Pos) (f : Ctx → Ctx) : (s.modCtx p f).sriov = s.sriov := rfl
@[simp] theorem State.modCtx_resetting (s : State) (p : Pos) (f : Ctx → Ctx) : (s.modCtx p f).resetting = s.resetting := rfl
@[simp] theorem State.modCtx_lqCtl (s : State) (p : Pos) (f : Ctx → Ctx) : (s.modCtx p f).lqCtl = s.lqCtl := rfl
@[simp] theorem State.modCtx_waveAt (s : State) (p : Pos) (f : Ctx → Ctx) : (s.modCtx p f).waveAt = s.waveAt := rfl
@[simp] theorem State.modCtx_wavePos (s : State) (p : Pos) (f : Ctx → Ctx) : (s.modCtx p f).wavePos = s.wavePos := rfl
@[simp] theorem State.modCtx_waveSums (s : State) (p : Pos) (f : Ctx → Ctx) : (s.modCtx p f).waveSums = s.waveSums := rfl
@[simp] theorem State.modCtx_snaps (s : State) (p : Pos) (f : Ctx → Ctx) : (s.modCtx p f).snaps = s.snaps := rfl
@[simp] theorem State.modCtx_gens (s : State) (p : Pos) (f : Ctx → Ctx) : (s.modCtx p f).gens = s.gens := rfl
@[simp] theorem State.modCtx_readSets (s : State) (p : Pos) (f : Ctx → Ctx) : (s.modCtx p f).readSets = s.readSets := rfl
@[simp] theorem State.modCtx_pulls (s : State) (p : Pos) (f : Ctx → Ctx) : (s.modCtx p f).pulls = s.pulls := rfl
@[simp] theorem State.modCtx_outReads (s : State) (p : Pos) (f : Ctx → Ctx) : (s.modCtx p f).outReads = s.outReads := rfl
@[simp] theorem State.modCtx_items (s : State) (p : Pos) (f : Ctx → Ctx) : (s.modCtx p f).items = s.items := rfl
@[simp] theorem State.modCtx_deferred (s : State) (p : Pos) (f : Ctx → Ctx) : (s.modCtx p f).deferred = s.deferred := rfl
@[simp] theorem State.modCtx_replay (s : State) (p : Pos) (f : Ctx → Ctx) : (s.modCtx p f).replay = s.replay := rfl
@[simp] theorem State.modCtx_dead (s : State) (p : Pos) (f : Ctx → Ctx) : (s.modCtx p f).dead = s.dead := rfl
@[simp] theorem State.modCtx_clk (s : State) (p : Pos) (f : Ctx → Ctx) : (s.modCtx p f).clk = s.clk := rfl
@[simp] theorem State.modCtx_steps (s : State) (p : Pos) (f : Ctx → Ctx) : (s.modCtx p f).steps = s.steps := rfl
@[simp] theorem State.modCtx_freeCtr (s : State) (p : Pos) (f : Ctx → Ctx) : (s.modCtx p f).freeCtr = s.freeCtr := rfl
@[simp] theorem State.modCtx_nextId (s : State) (p : Pos) (f : Ctx → Ctx) : (s.modCtx p f).nextId = s.nextId := rfl
@[simp] theorem State.modCtx_pkg (s : State) (p : Pos) (f : Ctx → Ctx) : (s.modCtx p f).pkg = s.pkg := rfl
@[simp] theorem State.modCtx_inp (s : State) (p : Pos) (f : Ctx → Ctx) : (s.modCtx p f).inp = s.inp := rfl
@[simp] theorem State.modCtx_agenda (s : State) (p : Pos) (f : Ctx → Ctx) : (s.modCtx p f).agenda = s.agenda := rfl
@[simp] theorem State.modCtx_pending (s : State) (p : Pos) (f : Ctx → Ctx) : (s.modCtx p f).pending = s.pending := rfl

@[simp] theorem State.modMe_cur (s : State) (f : Ctx → Ctx) : (s.modMe f).cur = s.cur := rfl
@[simp] theorem State.modMe_cores (s : State) (f : Ctx → Ctx) : (s.modMe f).cores = s.cores := rfl
@[simp] theorem State.modMe_clusters (s : State) (f : Ctx → Ctx) : (s.modMe f).clusters = s.clusters := rfl
@[simp] theorem State.modMe_tiles (s : State) (f : Ctx → Ctx) : (s.modMe f).tiles = s.tiles := rfl
@[simp] theorem State.modMe_queues (s : State) (f : Ctx → Ctx) : (s.modMe f).queues = s.queues := rfl
@[simp] theorem State.modMe_launches (s : State) (f : Ctx → Ctx) : (s.modMe f).launches = s.launches := rfl
@[simp] theorem State.modMe_teams (s : State) (f : Ctx → Ctx) : (s.modMe f).teams = s.teams := rfl
@[simp] theorem State.modMe_bastings (s : State) (f : Ctx → Ctx) : (s.modMe f).bastings = s.bastings := rfl
@[simp] theorem State.modMe_bst (s : State) (f : Ctx → Ctx) : (s.modMe f).bst = s.bst := rfl
@[simp] theorem State.modMe_servedQ (s : State) (f : Ctx → Ctx) : (s.modMe f).servedQ = s.servedQ := rfl
@[simp] theorem State.modMe_sealedSlots (s : State) (f : Ctx → Ctx) : (s.modMe f).sealedSlots = s.sealedSlots := rfl
@[simp] theorem State.modMe_boot (s : State) (f : Ctx → Ctx) : (s.modMe f).boot = s.boot := rfl
@[simp] theorem State.modMe_telemetry (s : State) (f : Ctx → Ctx) : (s.modMe f).telemetry = s.telemetry := rfl
@[simp] theorem State.modMe_fabric (s : State) (f : Ctx → Ctx) : (s.modMe f).fabric = s.fabric := rfl
@[simp] theorem State.modMe_colls (s : State) (f : Ctx → Ctx) : (s.modMe f).colls = s.colls := rfl
@[simp] theorem State.modMe_groupReads (s : State) (f : Ctx → Ctx) : (s.modMe f).groupReads = s.groupReads := rfl
@[simp] theorem State.modMe_mem (s : State) (f : Ctx → Ctx) : (s.modMe f).mem = s.mem := rfl
@[simp] theorem State.modMe_hbmKey (s : State) (f : Ctx → Ctx) : (s.modMe f).hbmKey = s.hbmKey := rfl
@[simp] theorem State.modMe_poison (s : State) (f : Ctx → Ctx) : (s.modMe f).poison = s.poison := rfl
@[simp] theorem State.modMe_keySlots (s : State) (f : Ctx → Ctx) : (s.modMe f).keySlots = s.keySlots := rfl
@[simp] theorem State.modMe_ksWins (s : State) (f : Ctx → Ctx) : (s.modMe f).ksWins = s.ksWins := rfl
@[simp] theorem State.modMe_nextKey (s : State) (f : Ctx → Ctx) : (s.modMe f).nextKey = s.nextKey := rfl
@[simp] theorem State.modMe_host (s : State) (f : Ctx → Ctx) : (s.modMe f).host = s.host := rfl
@[simp] theorem State.modMe_sriov (s : State) (f : Ctx → Ctx) : (s.modMe f).sriov = s.sriov := rfl
@[simp] theorem State.modMe_resetting (s : State) (f : Ctx → Ctx) : (s.modMe f).resetting = s.resetting := rfl
@[simp] theorem State.modMe_lqCtl (s : State) (f : Ctx → Ctx) : (s.modMe f).lqCtl = s.lqCtl := rfl
@[simp] theorem State.modMe_waveAt (s : State) (f : Ctx → Ctx) : (s.modMe f).waveAt = s.waveAt := rfl
@[simp] theorem State.modMe_wavePos (s : State) (f : Ctx → Ctx) : (s.modMe f).wavePos = s.wavePos := rfl
@[simp] theorem State.modMe_waveSums (s : State) (f : Ctx → Ctx) : (s.modMe f).waveSums = s.waveSums := rfl
@[simp] theorem State.modMe_snaps (s : State) (f : Ctx → Ctx) : (s.modMe f).snaps = s.snaps := rfl
@[simp] theorem State.modMe_gens (s : State) (f : Ctx → Ctx) : (s.modMe f).gens = s.gens := rfl
@[simp] theorem State.modMe_readSets (s : State) (f : Ctx → Ctx) : (s.modMe f).readSets = s.readSets := rfl
@[simp] theorem State.modMe_pulls (s : State) (f : Ctx → Ctx) : (s.modMe f).pulls = s.pulls := rfl
@[simp] theorem State.modMe_outReads (s : State) (f : Ctx → Ctx) : (s.modMe f).outReads = s.outReads := rfl
@[simp] theorem State.modMe_items (s : State) (f : Ctx → Ctx) : (s.modMe f).items = s.items := rfl
@[simp] theorem State.modMe_deferred (s : State) (f : Ctx → Ctx) : (s.modMe f).deferred = s.deferred := rfl
@[simp] theorem State.modMe_replay (s : State) (f : Ctx → Ctx) : (s.modMe f).replay = s.replay := rfl
@[simp] theorem State.modMe_dead (s : State) (f : Ctx → Ctx) : (s.modMe f).dead = s.dead := rfl
@[simp] theorem State.modMe_clk (s : State) (f : Ctx → Ctx) : (s.modMe f).clk = s.clk := rfl
@[simp] theorem State.modMe_steps (s : State) (f : Ctx → Ctx) : (s.modMe f).steps = s.steps := rfl
@[simp] theorem State.modMe_freeCtr (s : State) (f : Ctx → Ctx) : (s.modMe f).freeCtr = s.freeCtr := rfl
@[simp] theorem State.modMe_nextId (s : State) (f : Ctx → Ctx) : (s.modMe f).nextId = s.nextId := rfl
@[simp] theorem State.modMe_pkg (s : State) (f : Ctx → Ctx) : (s.modMe f).pkg = s.pkg := rfl
@[simp] theorem State.modMe_inp (s : State) (f : Ctx → Ctx) : (s.modMe f).inp = s.inp := rfl
@[simp] theorem State.modMe_agenda (s : State) (f : Ctx → Ctx) : (s.modMe f).agenda = s.agenda := rfl
@[simp] theorem State.modMe_pending (s : State) (f : Ctx → Ctx) : (s.modMe f).pending = s.pending := rfl

@[simp] theorem State.setCore_cur (s : State) (c n : Nat) (k : Core) : (s.setCore c n k).cur = s.cur := rfl
@[simp] theorem State.setCore_ctxs (s : State) (c n : Nat) (k : Core) : (s.setCore c n k).ctxs = s.ctxs := rfl
@[simp] theorem State.setCore_clusters (s : State) (c n : Nat) (k : Core) : (s.setCore c n k).clusters = s.clusters := rfl
@[simp] theorem State.setCore_tiles (s : State) (c n : Nat) (k : Core) : (s.setCore c n k).tiles = s.tiles := rfl
@[simp] theorem State.setCore_queues (s : State) (c n : Nat) (k : Core) : (s.setCore c n k).queues = s.queues := rfl
@[simp] theorem State.setCore_launches (s : State) (c n : Nat) (k : Core) : (s.setCore c n k).launches = s.launches := rfl
@[simp] theorem State.setCore_teams (s : State) (c n : Nat) (k : Core) : (s.setCore c n k).teams = s.teams := rfl
@[simp] theorem State.setCore_bastings (s : State) (c n : Nat) (k : Core) : (s.setCore c n k).bastings = s.bastings := rfl
@[simp] theorem State.setCore_bst (s : State) (c n : Nat) (k : Core) : (s.setCore c n k).bst = s.bst := rfl
@[simp] theorem State.setCore_servedQ (s : State) (c n : Nat) (k : Core) : (s.setCore c n k).servedQ = s.servedQ := rfl
@[simp] theorem State.setCore_sealedSlots (s : State) (c n : Nat) (k : Core) : (s.setCore c n k).sealedSlots = s.sealedSlots := rfl
@[simp] theorem State.setCore_boot (s : State) (c n : Nat) (k : Core) : (s.setCore c n k).boot = s.boot := rfl
@[simp] theorem State.setCore_telemetry (s : State) (c n : Nat) (k : Core) : (s.setCore c n k).telemetry = s.telemetry := rfl
@[simp] theorem State.setCore_fabric (s : State) (c n : Nat) (k : Core) : (s.setCore c n k).fabric = s.fabric := rfl
@[simp] theorem State.setCore_colls (s : State) (c n : Nat) (k : Core) : (s.setCore c n k).colls = s.colls := rfl
@[simp] theorem State.setCore_groupReads (s : State) (c n : Nat) (k : Core) : (s.setCore c n k).groupReads = s.groupReads := rfl
@[simp] theorem State.setCore_mem (s : State) (c n : Nat) (k : Core) : (s.setCore c n k).mem = s.mem := rfl
@[simp] theorem State.setCore_hbmKey (s : State) (c n : Nat) (k : Core) : (s.setCore c n k).hbmKey = s.hbmKey := rfl
@[simp] theorem State.setCore_poison (s : State) (c n : Nat) (k : Core) : (s.setCore c n k).poison = s.poison := rfl
@[simp] theorem State.setCore_keySlots (s : State) (c n : Nat) (k : Core) : (s.setCore c n k).keySlots = s.keySlots := rfl
@[simp] theorem State.setCore_ksWins (s : State) (c n : Nat) (k : Core) : (s.setCore c n k).ksWins = s.ksWins := rfl
@[simp] theorem State.setCore_nextKey (s : State) (c n : Nat) (k : Core) : (s.setCore c n k).nextKey = s.nextKey := rfl
@[simp] theorem State.setCore_host (s : State) (c n : Nat) (k : Core) : (s.setCore c n k).host = s.host := rfl
@[simp] theorem State.setCore_sriov (s : State) (c n : Nat) (k : Core) : (s.setCore c n k).sriov = s.sriov := rfl
@[simp] theorem State.setCore_resetting (s : State) (c n : Nat) (k : Core) : (s.setCore c n k).resetting = s.resetting := rfl
@[simp] theorem State.setCore_lqCtl (s : State) (c n : Nat) (k : Core) : (s.setCore c n k).lqCtl = s.lqCtl := rfl
@[simp] theorem State.setCore_waveAt (s : State) (c n : Nat) (k : Core) : (s.setCore c n k).waveAt = s.waveAt := rfl
@[simp] theorem State.setCore_wavePos (s : State) (c n : Nat) (k : Core) : (s.setCore c n k).wavePos = s.wavePos := rfl
@[simp] theorem State.setCore_waveSums (s : State) (c n : Nat) (k : Core) : (s.setCore c n k).waveSums = s.waveSums := rfl
@[simp] theorem State.setCore_snaps (s : State) (c n : Nat) (k : Core) : (s.setCore c n k).snaps = s.snaps := rfl
@[simp] theorem State.setCore_gens (s : State) (c n : Nat) (k : Core) : (s.setCore c n k).gens = s.gens := rfl
@[simp] theorem State.setCore_readSets (s : State) (c n : Nat) (k : Core) : (s.setCore c n k).readSets = s.readSets := rfl
@[simp] theorem State.setCore_pulls (s : State) (c n : Nat) (k : Core) : (s.setCore c n k).pulls = s.pulls := rfl
@[simp] theorem State.setCore_outReads (s : State) (c n : Nat) (k : Core) : (s.setCore c n k).outReads = s.outReads := rfl
@[simp] theorem State.setCore_items (s : State) (c n : Nat) (k : Core) : (s.setCore c n k).items = s.items := rfl
@[simp] theorem State.setCore_deferred (s : State) (c n : Nat) (k : Core) : (s.setCore c n k).deferred = s.deferred := rfl
@[simp] theorem State.setCore_replay (s : State) (c n : Nat) (k : Core) : (s.setCore c n k).replay = s.replay := rfl
@[simp] theorem State.setCore_dead (s : State) (c n : Nat) (k : Core) : (s.setCore c n k).dead = s.dead := rfl
@[simp] theorem State.setCore_clk (s : State) (c n : Nat) (k : Core) : (s.setCore c n k).clk = s.clk := rfl
@[simp] theorem State.setCore_steps (s : State) (c n : Nat) (k : Core) : (s.setCore c n k).steps = s.steps := rfl
@[simp] theorem State.setCore_freeCtr (s : State) (c n : Nat) (k : Core) : (s.setCore c n k).freeCtr = s.freeCtr := rfl
@[simp] theorem State.setCore_nextId (s : State) (c n : Nat) (k : Core) : (s.setCore c n k).nextId = s.nextId := rfl
@[simp] theorem State.setCore_pkg (s : State) (c n : Nat) (k : Core) : (s.setCore c n k).pkg = s.pkg := rfl
@[simp] theorem State.setCore_inp (s : State) (c n : Nat) (k : Core) : (s.setCore c n k).inp = s.inp := rfl
@[simp] theorem State.setCore_agenda (s : State) (c n : Nat) (k : Core) : (s.setCore c n k).agenda = s.agenda := rfl
@[simp] theorem State.setCore_pending (s : State) (c n : Nat) (k : Core) : (s.setCore c n k).pending = s.pending := rfl

@[simp] theorem State.modCore_cur (s : State) (c n : Nat) (f : Core → Core) : (s.modCore c n f).cur = s.cur := rfl
@[simp] theorem State.modCore_ctxs (s : State) (c n : Nat) (f : Core → Core) : (s.modCore c n f).ctxs = s.ctxs := rfl
@[simp] theorem State.modCore_clusters (s : State) (c n : Nat) (f : Core → Core) : (s.modCore c n f).clusters = s.clusters := rfl
@[simp] theorem State.modCore_tiles (s : State) (c n : Nat) (f : Core → Core) : (s.modCore c n f).tiles = s.tiles := rfl
@[simp] theorem State.modCore_queues (s : State) (c n : Nat) (f : Core → Core) : (s.modCore c n f).queues = s.queues := rfl
@[simp] theorem State.modCore_launches (s : State) (c n : Nat) (f : Core → Core) : (s.modCore c n f).launches = s.launches := rfl
@[simp] theorem State.modCore_teams (s : State) (c n : Nat) (f : Core → Core) : (s.modCore c n f).teams = s.teams := rfl
@[simp] theorem State.modCore_bastings (s : State) (c n : Nat) (f : Core → Core) : (s.modCore c n f).bastings = s.bastings := rfl
@[simp] theorem State.modCore_bst (s : State) (c n : Nat) (f : Core → Core) : (s.modCore c n f).bst = s.bst := rfl
@[simp] theorem State.modCore_servedQ (s : State) (c n : Nat) (f : Core → Core) : (s.modCore c n f).servedQ = s.servedQ := rfl
@[simp] theorem State.modCore_sealedSlots (s : State) (c n : Nat) (f : Core → Core) : (s.modCore c n f).sealedSlots = s.sealedSlots := rfl
@[simp] theorem State.modCore_boot (s : State) (c n : Nat) (f : Core → Core) : (s.modCore c n f).boot = s.boot := rfl
@[simp] theorem State.modCore_telemetry (s : State) (c n : Nat) (f : Core → Core) : (s.modCore c n f).telemetry = s.telemetry := rfl
@[simp] theorem State.modCore_fabric (s : State) (c n : Nat) (f : Core → Core) : (s.modCore c n f).fabric = s.fabric := rfl
@[simp] theorem State.modCore_colls (s : State) (c n : Nat) (f : Core → Core) : (s.modCore c n f).colls = s.colls := rfl
@[simp] theorem State.modCore_groupReads (s : State) (c n : Nat) (f : Core → Core) : (s.modCore c n f).groupReads = s.groupReads := rfl
@[simp] theorem State.modCore_mem (s : State) (c n : Nat) (f : Core → Core) : (s.modCore c n f).mem = s.mem := rfl
@[simp] theorem State.modCore_hbmKey (s : State) (c n : Nat) (f : Core → Core) : (s.modCore c n f).hbmKey = s.hbmKey := rfl
@[simp] theorem State.modCore_poison (s : State) (c n : Nat) (f : Core → Core) : (s.modCore c n f).poison = s.poison := rfl
@[simp] theorem State.modCore_keySlots (s : State) (c n : Nat) (f : Core → Core) : (s.modCore c n f).keySlots = s.keySlots := rfl
@[simp] theorem State.modCore_ksWins (s : State) (c n : Nat) (f : Core → Core) : (s.modCore c n f).ksWins = s.ksWins := rfl
@[simp] theorem State.modCore_nextKey (s : State) (c n : Nat) (f : Core → Core) : (s.modCore c n f).nextKey = s.nextKey := rfl
@[simp] theorem State.modCore_host (s : State) (c n : Nat) (f : Core → Core) : (s.modCore c n f).host = s.host := rfl
@[simp] theorem State.modCore_sriov (s : State) (c n : Nat) (f : Core → Core) : (s.modCore c n f).sriov = s.sriov := rfl
@[simp] theorem State.modCore_resetting (s : State) (c n : Nat) (f : Core → Core) : (s.modCore c n f).resetting = s.resetting := rfl
@[simp] theorem State.modCore_lqCtl (s : State) (c n : Nat) (f : Core → Core) : (s.modCore c n f).lqCtl = s.lqCtl := rfl
@[simp] theorem State.modCore_waveAt (s : State) (c n : Nat) (f : Core → Core) : (s.modCore c n f).waveAt = s.waveAt := rfl
@[simp] theorem State.modCore_wavePos (s : State) (c n : Nat) (f : Core → Core) : (s.modCore c n f).wavePos = s.wavePos := rfl
@[simp] theorem State.modCore_waveSums (s : State) (c n : Nat) (f : Core → Core) : (s.modCore c n f).waveSums = s.waveSums := rfl
@[simp] theorem State.modCore_snaps (s : State) (c n : Nat) (f : Core → Core) : (s.modCore c n f).snaps = s.snaps := rfl
@[simp] theorem State.modCore_gens (s : State) (c n : Nat) (f : Core → Core) : (s.modCore c n f).gens = s.gens := rfl
@[simp] theorem State.modCore_readSets (s : State) (c n : Nat) (f : Core → Core) : (s.modCore c n f).readSets = s.readSets := rfl
@[simp] theorem State.modCore_pulls (s : State) (c n : Nat) (f : Core → Core) : (s.modCore c n f).pulls = s.pulls := rfl
@[simp] theorem State.modCore_outReads (s : State) (c n : Nat) (f : Core → Core) : (s.modCore c n f).outReads = s.outReads := rfl
@[simp] theorem State.modCore_items (s : State) (c n : Nat) (f : Core → Core) : (s.modCore c n f).items = s.items := rfl
@[simp] theorem State.modCore_deferred (s : State) (c n : Nat) (f : Core → Core) : (s.modCore c n f).deferred = s.deferred := rfl
@[simp] theorem State.modCore_replay (s : State) (c n : Nat) (f : Core → Core) : (s.modCore c n f).replay = s.replay := rfl
@[simp] theorem State.modCore_dead (s : State) (c n : Nat) (f : Core → Core) : (s.modCore c n f).dead = s.dead := rfl
@[simp] theorem State.modCore_clk (s : State) (c n : Nat) (f : Core → Core) : (s.modCore c n f).clk = s.clk := rfl
@[simp] theorem State.modCore_steps (s : State) (c n : Nat) (f : Core → Core) : (s.modCore c n f).steps = s.steps := rfl
@[simp] theorem State.modCore_freeCtr (s : State) (c n : Nat) (f : Core → Core) : (s.modCore c n f).freeCtr = s.freeCtr := rfl
@[simp] theorem State.modCore_nextId (s : State) (c n : Nat) (f : Core → Core) : (s.modCore c n f).nextId = s.nextId := rfl
@[simp] theorem State.modCore_pkg (s : State) (c n : Nat) (f : Core → Core) : (s.modCore c n f).pkg = s.pkg := rfl
@[simp] theorem State.modCore_inp (s : State) (c n : Nat) (f : Core → Core) : (s.modCore c n f).inp = s.inp := rfl
@[simp] theorem State.modCore_agenda (s : State) (c n : Nat) (f : Core → Core) : (s.modCore c n f).agenda = s.agenda := rfl
@[simp] theorem State.modCore_pending (s : State) (c n : Nat) (f : Core → Core) : (s.modCore c n f).pending = s.pending := rfl

@[simp] theorem State.setClus_cur (s : State) (c : Nat) (k : Clus) : (s.setClus c k).cur = s.cur := rfl
@[simp] theorem State.setClus_ctxs (s : State) (c : Nat) (k : Clus) : (s.setClus c k).ctxs = s.ctxs := rfl
@[simp] theorem State.setClus_cores (s : State) (c : Nat) (k : Clus) : (s.setClus c k).cores = s.cores := rfl
@[simp] theorem State.setClus_tiles (s : State) (c : Nat) (k : Clus) : (s.setClus c k).tiles = s.tiles := rfl
@[simp] theorem State.setClus_queues (s : State) (c : Nat) (k : Clus) : (s.setClus c k).queues = s.queues := rfl
@[simp] theorem State.setClus_launches (s : State) (c : Nat) (k : Clus) : (s.setClus c k).launches = s.launches := rfl
@[simp] theorem State.setClus_teams (s : State) (c : Nat) (k : Clus) : (s.setClus c k).teams = s.teams := rfl
@[simp] theorem State.setClus_bastings (s : State) (c : Nat) (k : Clus) : (s.setClus c k).bastings = s.bastings := rfl
@[simp] theorem State.setClus_bst (s : State) (c : Nat) (k : Clus) : (s.setClus c k).bst = s.bst := rfl
@[simp] theorem State.setClus_servedQ (s : State) (c : Nat) (k : Clus) : (s.setClus c k).servedQ = s.servedQ := rfl
@[simp] theorem State.setClus_sealedSlots (s : State) (c : Nat) (k : Clus) : (s.setClus c k).sealedSlots = s.sealedSlots := rfl
@[simp] theorem State.setClus_boot (s : State) (c : Nat) (k : Clus) : (s.setClus c k).boot = s.boot := rfl
@[simp] theorem State.setClus_telemetry (s : State) (c : Nat) (k : Clus) : (s.setClus c k).telemetry = s.telemetry := rfl
@[simp] theorem State.setClus_fabric (s : State) (c : Nat) (k : Clus) : (s.setClus c k).fabric = s.fabric := rfl
@[simp] theorem State.setClus_colls (s : State) (c : Nat) (k : Clus) : (s.setClus c k).colls = s.colls := rfl
@[simp] theorem State.setClus_groupReads (s : State) (c : Nat) (k : Clus) : (s.setClus c k).groupReads = s.groupReads := rfl
@[simp] theorem State.setClus_mem (s : State) (c : Nat) (k : Clus) : (s.setClus c k).mem = s.mem := rfl
@[simp] theorem State.setClus_hbmKey (s : State) (c : Nat) (k : Clus) : (s.setClus c k).hbmKey = s.hbmKey := rfl
@[simp] theorem State.setClus_poison (s : State) (c : Nat) (k : Clus) : (s.setClus c k).poison = s.poison := rfl
@[simp] theorem State.setClus_keySlots (s : State) (c : Nat) (k : Clus) : (s.setClus c k).keySlots = s.keySlots := rfl
@[simp] theorem State.setClus_ksWins (s : State) (c : Nat) (k : Clus) : (s.setClus c k).ksWins = s.ksWins := rfl
@[simp] theorem State.setClus_nextKey (s : State) (c : Nat) (k : Clus) : (s.setClus c k).nextKey = s.nextKey := rfl
@[simp] theorem State.setClus_host (s : State) (c : Nat) (k : Clus) : (s.setClus c k).host = s.host := rfl
@[simp] theorem State.setClus_sriov (s : State) (c : Nat) (k : Clus) : (s.setClus c k).sriov = s.sriov := rfl
@[simp] theorem State.setClus_resetting (s : State) (c : Nat) (k : Clus) : (s.setClus c k).resetting = s.resetting := rfl
@[simp] theorem State.setClus_lqCtl (s : State) (c : Nat) (k : Clus) : (s.setClus c k).lqCtl = s.lqCtl := rfl
@[simp] theorem State.setClus_waveAt (s : State) (c : Nat) (k : Clus) : (s.setClus c k).waveAt = s.waveAt := rfl
@[simp] theorem State.setClus_wavePos (s : State) (c : Nat) (k : Clus) : (s.setClus c k).wavePos = s.wavePos := rfl
@[simp] theorem State.setClus_waveSums (s : State) (c : Nat) (k : Clus) : (s.setClus c k).waveSums = s.waveSums := rfl
@[simp] theorem State.setClus_snaps (s : State) (c : Nat) (k : Clus) : (s.setClus c k).snaps = s.snaps := rfl
@[simp] theorem State.setClus_gens (s : State) (c : Nat) (k : Clus) : (s.setClus c k).gens = s.gens := rfl
@[simp] theorem State.setClus_readSets (s : State) (c : Nat) (k : Clus) : (s.setClus c k).readSets = s.readSets := rfl
@[simp] theorem State.setClus_pulls (s : State) (c : Nat) (k : Clus) : (s.setClus c k).pulls = s.pulls := rfl
@[simp] theorem State.setClus_outReads (s : State) (c : Nat) (k : Clus) : (s.setClus c k).outReads = s.outReads := rfl
@[simp] theorem State.setClus_items (s : State) (c : Nat) (k : Clus) : (s.setClus c k).items = s.items := rfl
@[simp] theorem State.setClus_deferred (s : State) (c : Nat) (k : Clus) : (s.setClus c k).deferred = s.deferred := rfl
@[simp] theorem State.setClus_replay (s : State) (c : Nat) (k : Clus) : (s.setClus c k).replay = s.replay := rfl
@[simp] theorem State.setClus_dead (s : State) (c : Nat) (k : Clus) : (s.setClus c k).dead = s.dead := rfl
@[simp] theorem State.setClus_clk (s : State) (c : Nat) (k : Clus) : (s.setClus c k).clk = s.clk := rfl
@[simp] theorem State.setClus_steps (s : State) (c : Nat) (k : Clus) : (s.setClus c k).steps = s.steps := rfl
@[simp] theorem State.setClus_freeCtr (s : State) (c : Nat) (k : Clus) : (s.setClus c k).freeCtr = s.freeCtr := rfl
@[simp] theorem State.setClus_nextId (s : State) (c : Nat) (k : Clus) : (s.setClus c k).nextId = s.nextId := rfl
@[simp] theorem State.setClus_pkg (s : State) (c : Nat) (k : Clus) : (s.setClus c k).pkg = s.pkg := rfl
@[simp] theorem State.setClus_inp (s : State) (c : Nat) (k : Clus) : (s.setClus c k).inp = s.inp := rfl
@[simp] theorem State.setClus_agenda (s : State) (c : Nat) (k : Clus) : (s.setClus c k).agenda = s.agenda := rfl
@[simp] theorem State.setClus_pending (s : State) (c : Nat) (k : Clus) : (s.setClus c k).pending = s.pending := rfl

@[simp] theorem State.modClus_cur (s : State) (c : Nat) (f : Clus → Clus) : (s.modClus c f).cur = s.cur := rfl
@[simp] theorem State.modClus_ctxs (s : State) (c : Nat) (f : Clus → Clus) : (s.modClus c f).ctxs = s.ctxs := rfl
@[simp] theorem State.modClus_cores (s : State) (c : Nat) (f : Clus → Clus) : (s.modClus c f).cores = s.cores := rfl
@[simp] theorem State.modClus_tiles (s : State) (c : Nat) (f : Clus → Clus) : (s.modClus c f).tiles = s.tiles := rfl
@[simp] theorem State.modClus_queues (s : State) (c : Nat) (f : Clus → Clus) : (s.modClus c f).queues = s.queues := rfl
@[simp] theorem State.modClus_launches (s : State) (c : Nat) (f : Clus → Clus) : (s.modClus c f).launches = s.launches := rfl
@[simp] theorem State.modClus_teams (s : State) (c : Nat) (f : Clus → Clus) : (s.modClus c f).teams = s.teams := rfl
@[simp] theorem State.modClus_bastings (s : State) (c : Nat) (f : Clus → Clus) : (s.modClus c f).bastings = s.bastings := rfl
@[simp] theorem State.modClus_bst (s : State) (c : Nat) (f : Clus → Clus) : (s.modClus c f).bst = s.bst := rfl
@[simp] theorem State.modClus_servedQ (s : State) (c : Nat) (f : Clus → Clus) : (s.modClus c f).servedQ = s.servedQ := rfl
@[simp] theorem State.modClus_sealedSlots (s : State) (c : Nat) (f : Clus → Clus) : (s.modClus c f).sealedSlots = s.sealedSlots := rfl
@[simp] theorem State.modClus_boot (s : State) (c : Nat) (f : Clus → Clus) : (s.modClus c f).boot = s.boot := rfl
@[simp] theorem State.modClus_telemetry (s : State) (c : Nat) (f : Clus → Clus) : (s.modClus c f).telemetry = s.telemetry := rfl
@[simp] theorem State.modClus_fabric (s : State) (c : Nat) (f : Clus → Clus) : (s.modClus c f).fabric = s.fabric := rfl
@[simp] theorem State.modClus_colls (s : State) (c : Nat) (f : Clus → Clus) : (s.modClus c f).colls = s.colls := rfl
@[simp] theorem State.modClus_groupReads (s : State) (c : Nat) (f : Clus → Clus) : (s.modClus c f).groupReads = s.groupReads := rfl
@[simp] theorem State.modClus_mem (s : State) (c : Nat) (f : Clus → Clus) : (s.modClus c f).mem = s.mem := rfl
@[simp] theorem State.modClus_hbmKey (s : State) (c : Nat) (f : Clus → Clus) : (s.modClus c f).hbmKey = s.hbmKey := rfl
@[simp] theorem State.modClus_poison (s : State) (c : Nat) (f : Clus → Clus) : (s.modClus c f).poison = s.poison := rfl
@[simp] theorem State.modClus_keySlots (s : State) (c : Nat) (f : Clus → Clus) : (s.modClus c f).keySlots = s.keySlots := rfl
@[simp] theorem State.modClus_ksWins (s : State) (c : Nat) (f : Clus → Clus) : (s.modClus c f).ksWins = s.ksWins := rfl
@[simp] theorem State.modClus_nextKey (s : State) (c : Nat) (f : Clus → Clus) : (s.modClus c f).nextKey = s.nextKey := rfl
@[simp] theorem State.modClus_host (s : State) (c : Nat) (f : Clus → Clus) : (s.modClus c f).host = s.host := rfl
@[simp] theorem State.modClus_sriov (s : State) (c : Nat) (f : Clus → Clus) : (s.modClus c f).sriov = s.sriov := rfl
@[simp] theorem State.modClus_resetting (s : State) (c : Nat) (f : Clus → Clus) : (s.modClus c f).resetting = s.resetting := rfl
@[simp] theorem State.modClus_lqCtl (s : State) (c : Nat) (f : Clus → Clus) : (s.modClus c f).lqCtl = s.lqCtl := rfl
@[simp] theorem State.modClus_waveAt (s : State) (c : Nat) (f : Clus → Clus) : (s.modClus c f).waveAt = s.waveAt := rfl
@[simp] theorem State.modClus_wavePos (s : State) (c : Nat) (f : Clus → Clus) : (s.modClus c f).wavePos = s.wavePos := rfl
@[simp] theorem State.modClus_waveSums (s : State) (c : Nat) (f : Clus → Clus) : (s.modClus c f).waveSums = s.waveSums := rfl
@[simp] theorem State.modClus_snaps (s : State) (c : Nat) (f : Clus → Clus) : (s.modClus c f).snaps = s.snaps := rfl
@[simp] theorem State.modClus_gens (s : State) (c : Nat) (f : Clus → Clus) : (s.modClus c f).gens = s.gens := rfl
@[simp] theorem State.modClus_readSets (s : State) (c : Nat) (f : Clus → Clus) : (s.modClus c f).readSets = s.readSets := rfl
@[simp] theorem State.modClus_pulls (s : State) (c : Nat) (f : Clus → Clus) : (s.modClus c f).pulls = s.pulls := rfl
@[simp] theorem State.modClus_outReads (s : State) (c : Nat) (f : Clus → Clus) : (s.modClus c f).outReads = s.outReads := rfl
@[simp] theorem State.modClus_items (s : State) (c : Nat) (f : Clus → Clus) : (s.modClus c f).items = s.items := rfl
@[simp] theorem State.modClus_deferred (s : State) (c : Nat) (f : Clus → Clus) : (s.modClus c f).deferred = s.deferred := rfl
@[simp] theorem State.modClus_replay (s : State) (c : Nat) (f : Clus → Clus) : (s.modClus c f).replay = s.replay := rfl
@[simp] theorem State.modClus_dead (s : State) (c : Nat) (f : Clus → Clus) : (s.modClus c f).dead = s.dead := rfl
@[simp] theorem State.modClus_clk (s : State) (c : Nat) (f : Clus → Clus) : (s.modClus c f).clk = s.clk := rfl
@[simp] theorem State.modClus_steps (s : State) (c : Nat) (f : Clus → Clus) : (s.modClus c f).steps = s.steps := rfl
@[simp] theorem State.modClus_freeCtr (s : State) (c : Nat) (f : Clus → Clus) : (s.modClus c f).freeCtr = s.freeCtr := rfl
@[simp] theorem State.modClus_nextId (s : State) (c : Nat) (f : Clus → Clus) : (s.modClus c f).nextId = s.nextId := rfl
@[simp] theorem State.modClus_pkg (s : State) (c : Nat) (f : Clus → Clus) : (s.modClus c f).pkg = s.pkg := rfl
@[simp] theorem State.modClus_inp (s : State) (c : Nat) (f : Clus → Clus) : (s.modClus c f).inp = s.inp := rfl
@[simp] theorem State.modClus_agenda (s : State) (c : Nat) (f : Clus → Clus) : (s.modClus c f).agenda = s.agenda := rfl
@[simp] theorem State.modClus_pending (s : State) (c : Nat) (f : Clus → Clus) : (s.modClus c f).pending = s.pending := rfl

@[simp] theorem State.setTile_cur (s : State) (c n : Nat) (k : Tile) : (s.setTile c n k).cur = s.cur := rfl
@[simp] theorem State.setTile_ctxs (s : State) (c n : Nat) (k : Tile) : (s.setTile c n k).ctxs = s.ctxs := rfl
@[simp] theorem State.setTile_cores (s : State) (c n : Nat) (k : Tile) : (s.setTile c n k).cores = s.cores := rfl
@[simp] theorem State.setTile_clusters (s : State) (c n : Nat) (k : Tile) : (s.setTile c n k).clusters = s.clusters := rfl
@[simp] theorem State.setTile_queues (s : State) (c n : Nat) (k : Tile) : (s.setTile c n k).queues = s.queues := rfl
@[simp] theorem State.setTile_launches (s : State) (c n : Nat) (k : Tile) : (s.setTile c n k).launches = s.launches := rfl
@[simp] theorem State.setTile_teams (s : State) (c n : Nat) (k : Tile) : (s.setTile c n k).teams = s.teams := rfl
@[simp] theorem State.setTile_bastings (s : State) (c n : Nat) (k : Tile) : (s.setTile c n k).bastings = s.bastings := rfl
@[simp] theorem State.setTile_bst (s : State) (c n : Nat) (k : Tile) : (s.setTile c n k).bst = s.bst := rfl
@[simp] theorem State.setTile_servedQ (s : State) (c n : Nat) (k : Tile) : (s.setTile c n k).servedQ = s.servedQ := rfl
@[simp] theorem State.setTile_sealedSlots (s : State) (c n : Nat) (k : Tile) : (s.setTile c n k).sealedSlots = s.sealedSlots := rfl
@[simp] theorem State.setTile_boot (s : State) (c n : Nat) (k : Tile) : (s.setTile c n k).boot = s.boot := rfl
@[simp] theorem State.setTile_telemetry (s : State) (c n : Nat) (k : Tile) : (s.setTile c n k).telemetry = s.telemetry := rfl
@[simp] theorem State.setTile_fabric (s : State) (c n : Nat) (k : Tile) : (s.setTile c n k).fabric = s.fabric := rfl
@[simp] theorem State.setTile_colls (s : State) (c n : Nat) (k : Tile) : (s.setTile c n k).colls = s.colls := rfl
@[simp] theorem State.setTile_groupReads (s : State) (c n : Nat) (k : Tile) : (s.setTile c n k).groupReads = s.groupReads := rfl
@[simp] theorem State.setTile_mem (s : State) (c n : Nat) (k : Tile) : (s.setTile c n k).mem = s.mem := rfl
@[simp] theorem State.setTile_hbmKey (s : State) (c n : Nat) (k : Tile) : (s.setTile c n k).hbmKey = s.hbmKey := rfl
@[simp] theorem State.setTile_poison (s : State) (c n : Nat) (k : Tile) : (s.setTile c n k).poison = s.poison := rfl
@[simp] theorem State.setTile_keySlots (s : State) (c n : Nat) (k : Tile) : (s.setTile c n k).keySlots = s.keySlots := rfl
@[simp] theorem State.setTile_ksWins (s : State) (c n : Nat) (k : Tile) : (s.setTile c n k).ksWins = s.ksWins := rfl
@[simp] theorem State.setTile_nextKey (s : State) (c n : Nat) (k : Tile) : (s.setTile c n k).nextKey = s.nextKey := rfl
@[simp] theorem State.setTile_host (s : State) (c n : Nat) (k : Tile) : (s.setTile c n k).host = s.host := rfl
@[simp] theorem State.setTile_sriov (s : State) (c n : Nat) (k : Tile) : (s.setTile c n k).sriov = s.sriov := rfl
@[simp] theorem State.setTile_resetting (s : State) (c n : Nat) (k : Tile) : (s.setTile c n k).resetting = s.resetting := rfl
@[simp] theorem State.setTile_lqCtl (s : State) (c n : Nat) (k : Tile) : (s.setTile c n k).lqCtl = s.lqCtl := rfl
@[simp] theorem State.setTile_waveAt (s : State) (c n : Nat) (k : Tile) : (s.setTile c n k).waveAt = s.waveAt := rfl
@[simp] theorem State.setTile_wavePos (s : State) (c n : Nat) (k : Tile) : (s.setTile c n k).wavePos = s.wavePos := rfl
@[simp] theorem State.setTile_waveSums (s : State) (c n : Nat) (k : Tile) : (s.setTile c n k).waveSums = s.waveSums := rfl
@[simp] theorem State.setTile_snaps (s : State) (c n : Nat) (k : Tile) : (s.setTile c n k).snaps = s.snaps := rfl
@[simp] theorem State.setTile_gens (s : State) (c n : Nat) (k : Tile) : (s.setTile c n k).gens = s.gens := rfl
@[simp] theorem State.setTile_readSets (s : State) (c n : Nat) (k : Tile) : (s.setTile c n k).readSets = s.readSets := rfl
@[simp] theorem State.setTile_pulls (s : State) (c n : Nat) (k : Tile) : (s.setTile c n k).pulls = s.pulls := rfl
@[simp] theorem State.setTile_outReads (s : State) (c n : Nat) (k : Tile) : (s.setTile c n k).outReads = s.outReads := rfl
@[simp] theorem State.setTile_items (s : State) (c n : Nat) (k : Tile) : (s.setTile c n k).items = s.items := rfl
@[simp] theorem State.setTile_deferred (s : State) (c n : Nat) (k : Tile) : (s.setTile c n k).deferred = s.deferred := rfl
@[simp] theorem State.setTile_replay (s : State) (c n : Nat) (k : Tile) : (s.setTile c n k).replay = s.replay := rfl
@[simp] theorem State.setTile_dead (s : State) (c n : Nat) (k : Tile) : (s.setTile c n k).dead = s.dead := rfl
@[simp] theorem State.setTile_clk (s : State) (c n : Nat) (k : Tile) : (s.setTile c n k).clk = s.clk := rfl
@[simp] theorem State.setTile_steps (s : State) (c n : Nat) (k : Tile) : (s.setTile c n k).steps = s.steps := rfl
@[simp] theorem State.setTile_freeCtr (s : State) (c n : Nat) (k : Tile) : (s.setTile c n k).freeCtr = s.freeCtr := rfl
@[simp] theorem State.setTile_nextId (s : State) (c n : Nat) (k : Tile) : (s.setTile c n k).nextId = s.nextId := rfl
@[simp] theorem State.setTile_pkg (s : State) (c n : Nat) (k : Tile) : (s.setTile c n k).pkg = s.pkg := rfl
@[simp] theorem State.setTile_inp (s : State) (c n : Nat) (k : Tile) : (s.setTile c n k).inp = s.inp := rfl
@[simp] theorem State.setTile_agenda (s : State) (c n : Nat) (k : Tile) : (s.setTile c n k).agenda = s.agenda := rfl
@[simp] theorem State.setTile_pending (s : State) (c n : Nat) (k : Tile) : (s.setTile c n k).pending = s.pending := rfl

@[simp] theorem State.post_cur (s : State) (i : Instr) (inp : Inp) : (s.post i inp).cur = s.cur := rfl
@[simp] theorem State.post_ctxs (s : State) (i : Instr) (inp : Inp) : (s.post i inp).ctxs = s.ctxs := rfl
@[simp] theorem State.post_cores (s : State) (i : Instr) (inp : Inp) : (s.post i inp).cores = s.cores := rfl
@[simp] theorem State.post_clusters (s : State) (i : Instr) (inp : Inp) : (s.post i inp).clusters = s.clusters := rfl
@[simp] theorem State.post_tiles (s : State) (i : Instr) (inp : Inp) : (s.post i inp).tiles = s.tiles := rfl
@[simp] theorem State.post_queues (s : State) (i : Instr) (inp : Inp) : (s.post i inp).queues = s.queues := rfl
@[simp] theorem State.post_launches (s : State) (i : Instr) (inp : Inp) : (s.post i inp).launches = s.launches := rfl
@[simp] theorem State.post_teams (s : State) (i : Instr) (inp : Inp) : (s.post i inp).teams = s.teams := rfl
@[simp] theorem State.post_bastings (s : State) (i : Instr) (inp : Inp) : (s.post i inp).bastings = s.bastings := rfl
@[simp] theorem State.post_bst (s : State) (i : Instr) (inp : Inp) : (s.post i inp).bst = s.bst := rfl
@[simp] theorem State.post_servedQ (s : State) (i : Instr) (inp : Inp) : (s.post i inp).servedQ = s.servedQ := rfl
@[simp] theorem State.post_sealedSlots (s : State) (i : Instr) (inp : Inp) : (s.post i inp).sealedSlots = s.sealedSlots := rfl
@[simp] theorem State.post_boot (s : State) (i : Instr) (inp : Inp) : (s.post i inp).boot = s.boot := rfl
@[simp] theorem State.post_telemetry (s : State) (i : Instr) (inp : Inp) : (s.post i inp).telemetry = s.telemetry := rfl
@[simp] theorem State.post_fabric (s : State) (i : Instr) (inp : Inp) : (s.post i inp).fabric = s.fabric := rfl
@[simp] theorem State.post_colls (s : State) (i : Instr) (inp : Inp) : (s.post i inp).colls = s.colls := rfl
@[simp] theorem State.post_groupReads (s : State) (i : Instr) (inp : Inp) : (s.post i inp).groupReads = s.groupReads := rfl
@[simp] theorem State.post_mem (s : State) (i : Instr) (inp : Inp) : (s.post i inp).mem = s.mem := rfl
@[simp] theorem State.post_hbmKey (s : State) (i : Instr) (inp : Inp) : (s.post i inp).hbmKey = s.hbmKey := rfl
@[simp] theorem State.post_poison (s : State) (i : Instr) (inp : Inp) : (s.post i inp).poison = s.poison := rfl
@[simp] theorem State.post_keySlots (s : State) (i : Instr) (inp : Inp) : (s.post i inp).keySlots = s.keySlots := rfl
@[simp] theorem State.post_ksWins (s : State) (i : Instr) (inp : Inp) : (s.post i inp).ksWins = s.ksWins := rfl
@[simp] theorem State.post_nextKey (s : State) (i : Instr) (inp : Inp) : (s.post i inp).nextKey = s.nextKey := rfl
@[simp] theorem State.post_host (s : State) (i : Instr) (inp : Inp) : (s.post i inp).host = s.host := rfl
@[simp] theorem State.post_sriov (s : State) (i : Instr) (inp : Inp) : (s.post i inp).sriov = s.sriov := rfl
@[simp] theorem State.post_resetting (s : State) (i : Instr) (inp : Inp) : (s.post i inp).resetting = s.resetting := rfl
@[simp] theorem State.post_lqCtl (s : State) (i : Instr) (inp : Inp) : (s.post i inp).lqCtl = s.lqCtl := rfl
@[simp] theorem State.post_waveAt (s : State) (i : Instr) (inp : Inp) : (s.post i inp).waveAt = s.waveAt := rfl
@[simp] theorem State.post_wavePos (s : State) (i : Instr) (inp : Inp) : (s.post i inp).wavePos = s.wavePos := rfl
@[simp] theorem State.post_waveSums (s : State) (i : Instr) (inp : Inp) : (s.post i inp).waveSums = s.waveSums := rfl
@[simp] theorem State.post_snaps (s : State) (i : Instr) (inp : Inp) : (s.post i inp).snaps = s.snaps := rfl
@[simp] theorem State.post_gens (s : State) (i : Instr) (inp : Inp) : (s.post i inp).gens = s.gens := rfl
@[simp] theorem State.post_readSets (s : State) (i : Instr) (inp : Inp) : (s.post i inp).readSets = s.readSets := rfl
@[simp] theorem State.post_pulls (s : State) (i : Instr) (inp : Inp) : (s.post i inp).pulls = s.pulls := rfl
@[simp] theorem State.post_outReads (s : State) (i : Instr) (inp : Inp) : (s.post i inp).outReads = s.outReads := rfl
@[simp] theorem State.post_items (s : State) (i : Instr) (inp : Inp) : (s.post i inp).items = s.items := rfl
@[simp] theorem State.post_deferred (s : State) (i : Instr) (inp : Inp) : (s.post i inp).deferred = s.deferred := rfl
@[simp] theorem State.post_replay (s : State) (i : Instr) (inp : Inp) : (s.post i inp).replay = s.replay := rfl
@[simp] theorem State.post_dead (s : State) (i : Instr) (inp : Inp) : (s.post i inp).dead = s.dead := rfl
@[simp] theorem State.post_clk (s : State) (i : Instr) (inp : Inp) : (s.post i inp).clk = s.clk := rfl
@[simp] theorem State.post_steps (s : State) (i : Instr) (inp : Inp) : (s.post i inp).steps = s.steps := rfl
@[simp] theorem State.post_freeCtr (s : State) (i : Instr) (inp : Inp) : (s.post i inp).freeCtr = s.freeCtr := rfl
@[simp] theorem State.post_nextId (s : State) (i : Instr) (inp : Inp) : (s.post i inp).nextId = s.nextId := rfl
@[simp] theorem State.post_pkg (s : State) (i : Instr) (inp : Inp) : (s.post i inp).pkg = s.pkg := rfl
@[simp] theorem State.post_inp (s : State) (i : Instr) (inp : Inp) : (s.post i inp).inp = s.inp := rfl
@[simp] theorem State.post_agenda (s : State) (i : Instr) (inp : Inp) : (s.post i inp).agenda = s.agenda := rfl

@[simp] theorem State.drew_cur (s : State) : (s.drew).cur = s.cur := rfl
@[simp] theorem State.drew_ctxs (s : State) : (s.drew).ctxs = s.ctxs := rfl
@[simp] theorem State.drew_cores (s : State) : (s.drew).cores = s.cores := rfl
@[simp] theorem State.drew_clusters (s : State) : (s.drew).clusters = s.clusters := rfl
@[simp] theorem State.drew_tiles (s : State) : (s.drew).tiles = s.tiles := rfl
@[simp] theorem State.drew_queues (s : State) : (s.drew).queues = s.queues := rfl
@[simp] theorem State.drew_launches (s : State) : (s.drew).launches = s.launches := rfl
@[simp] theorem State.drew_teams (s : State) : (s.drew).teams = s.teams := rfl
@[simp] theorem State.drew_bastings (s : State) : (s.drew).bastings = s.bastings := rfl
@[simp] theorem State.drew_bst (s : State) : (s.drew).bst = s.bst := rfl
@[simp] theorem State.drew_servedQ (s : State) : (s.drew).servedQ = s.servedQ := rfl
@[simp] theorem State.drew_sealedSlots (s : State) : (s.drew).sealedSlots = s.sealedSlots := rfl
@[simp] theorem State.drew_boot (s : State) : (s.drew).boot = s.boot := rfl
@[simp] theorem State.drew_telemetry (s : State) : (s.drew).telemetry = s.telemetry := rfl
@[simp] theorem State.drew_fabric (s : State) : (s.drew).fabric = s.fabric := rfl
@[simp] theorem State.drew_colls (s : State) : (s.drew).colls = s.colls := rfl
@[simp] theorem State.drew_groupReads (s : State) : (s.drew).groupReads = s.groupReads := rfl
@[simp] theorem State.drew_mem (s : State) : (s.drew).mem = s.mem := rfl
@[simp] theorem State.drew_hbmKey (s : State) : (s.drew).hbmKey = s.hbmKey := rfl
@[simp] theorem State.drew_poison (s : State) : (s.drew).poison = s.poison := rfl
@[simp] theorem State.drew_keySlots (s : State) : (s.drew).keySlots = s.keySlots := rfl
@[simp] theorem State.drew_ksWins (s : State) : (s.drew).ksWins = s.ksWins := rfl
@[simp] theorem State.drew_nextKey (s : State) : (s.drew).nextKey = s.nextKey := rfl
@[simp] theorem State.drew_host (s : State) : (s.drew).host = s.host := rfl
@[simp] theorem State.drew_sriov (s : State) : (s.drew).sriov = s.sriov := rfl
@[simp] theorem State.drew_resetting (s : State) : (s.drew).resetting = s.resetting := rfl
@[simp] theorem State.drew_lqCtl (s : State) : (s.drew).lqCtl = s.lqCtl := rfl
@[simp] theorem State.drew_waveAt (s : State) : (s.drew).waveAt = s.waveAt := rfl
@[simp] theorem State.drew_wavePos (s : State) : (s.drew).wavePos = s.wavePos := rfl
@[simp] theorem State.drew_waveSums (s : State) : (s.drew).waveSums = s.waveSums := rfl
@[simp] theorem State.drew_snaps (s : State) : (s.drew).snaps = s.snaps := rfl
@[simp] theorem State.drew_gens (s : State) : (s.drew).gens = s.gens := rfl
@[simp] theorem State.drew_readSets (s : State) : (s.drew).readSets = s.readSets := rfl
@[simp] theorem State.drew_pulls (s : State) : (s.drew).pulls = s.pulls := rfl
@[simp] theorem State.drew_outReads (s : State) : (s.drew).outReads = s.outReads := rfl
@[simp] theorem State.drew_items (s : State) : (s.drew).items = s.items := rfl
@[simp] theorem State.drew_deferred (s : State) : (s.drew).deferred = s.deferred := rfl
@[simp] theorem State.drew_replay (s : State) : (s.drew).replay = s.replay := rfl
@[simp] theorem State.drew_dead (s : State) : (s.drew).dead = s.dead := rfl
@[simp] theorem State.drew_clk (s : State) : (s.drew).clk = s.clk := rfl
@[simp] theorem State.drew_steps (s : State) : (s.drew).steps = s.steps := rfl
@[simp] theorem State.drew_nextId (s : State) : (s.drew).nextId = s.nextId := rfl
@[simp] theorem State.drew_pkg (s : State) : (s.drew).pkg = s.pkg := rfl
@[simp] theorem State.drew_inp (s : State) : (s.drew).inp = s.inp := rfl
@[simp] theorem State.drew_agenda (s : State) : (s.drew).agenda = s.agenda := rfl
@[simp] theorem State.drew_pending (s : State) : (s.drew).pending = s.pending := rfl

@[simp] theorem State.endTurn_cur (s : State) (p : Pos) : (s.endTurn p).cur = s.cur := rfl
@[simp] theorem State.endTurn_ctxs (s : State) (p : Pos) : (s.endTurn p).ctxs = s.ctxs := rfl
@[simp] theorem State.endTurn_clusters (s : State) (p : Pos) : (s.endTurn p).clusters = s.clusters := rfl
@[simp] theorem State.endTurn_tiles (s : State) (p : Pos) : (s.endTurn p).tiles = s.tiles := rfl
@[simp] theorem State.endTurn_queues (s : State) (p : Pos) : (s.endTurn p).queues = s.queues := rfl
@[simp] theorem State.endTurn_launches (s : State) (p : Pos) : (s.endTurn p).launches = s.launches := rfl
@[simp] theorem State.endTurn_teams (s : State) (p : Pos) : (s.endTurn p).teams = s.teams := rfl
@[simp] theorem State.endTurn_bastings (s : State) (p : Pos) : (s.endTurn p).bastings = s.bastings := rfl
@[simp] theorem State.endTurn_bst (s : State) (p : Pos) : (s.endTurn p).bst = s.bst := rfl
@[simp] theorem State.endTurn_servedQ (s : State) (p : Pos) : (s.endTurn p).servedQ = s.servedQ := rfl
@[simp] theorem State.endTurn_sealedSlots (s : State) (p : Pos) : (s.endTurn p).sealedSlots = s.sealedSlots := rfl
@[simp] theorem State.endTurn_boot (s : State) (p : Pos) : (s.endTurn p).boot = s.boot := rfl
@[simp] theorem State.endTurn_telemetry (s : State) (p : Pos) : (s.endTurn p).telemetry = s.telemetry := rfl
@[simp] theorem State.endTurn_fabric (s : State) (p : Pos) : (s.endTurn p).fabric = s.fabric := rfl
@[simp] theorem State.endTurn_colls (s : State) (p : Pos) : (s.endTurn p).colls = s.colls := rfl
@[simp] theorem State.endTurn_groupReads (s : State) (p : Pos) : (s.endTurn p).groupReads = s.groupReads := rfl
@[simp] theorem State.endTurn_mem (s : State) (p : Pos) : (s.endTurn p).mem = s.mem := rfl
@[simp] theorem State.endTurn_hbmKey (s : State) (p : Pos) : (s.endTurn p).hbmKey = s.hbmKey := rfl
@[simp] theorem State.endTurn_poison (s : State) (p : Pos) : (s.endTurn p).poison = s.poison := rfl
@[simp] theorem State.endTurn_keySlots (s : State) (p : Pos) : (s.endTurn p).keySlots = s.keySlots := rfl
@[simp] theorem State.endTurn_ksWins (s : State) (p : Pos) : (s.endTurn p).ksWins = s.ksWins := rfl
@[simp] theorem State.endTurn_nextKey (s : State) (p : Pos) : (s.endTurn p).nextKey = s.nextKey := rfl
@[simp] theorem State.endTurn_host (s : State) (p : Pos) : (s.endTurn p).host = s.host := rfl
@[simp] theorem State.endTurn_sriov (s : State) (p : Pos) : (s.endTurn p).sriov = s.sriov := rfl
@[simp] theorem State.endTurn_resetting (s : State) (p : Pos) : (s.endTurn p).resetting = s.resetting := rfl
@[simp] theorem State.endTurn_lqCtl (s : State) (p : Pos) : (s.endTurn p).lqCtl = s.lqCtl := rfl
@[simp] theorem State.endTurn_waveAt (s : State) (p : Pos) : (s.endTurn p).waveAt = s.waveAt := rfl
@[simp] theorem State.endTurn_wavePos (s : State) (p : Pos) : (s.endTurn p).wavePos = s.wavePos := rfl
@[simp] theorem State.endTurn_waveSums (s : State) (p : Pos) : (s.endTurn p).waveSums = s.waveSums := rfl
@[simp] theorem State.endTurn_snaps (s : State) (p : Pos) : (s.endTurn p).snaps = s.snaps := rfl
@[simp] theorem State.endTurn_gens (s : State) (p : Pos) : (s.endTurn p).gens = s.gens := rfl
@[simp] theorem State.endTurn_readSets (s : State) (p : Pos) : (s.endTurn p).readSets = s.readSets := rfl
@[simp] theorem State.endTurn_pulls (s : State) (p : Pos) : (s.endTurn p).pulls = s.pulls := rfl
@[simp] theorem State.endTurn_outReads (s : State) (p : Pos) : (s.endTurn p).outReads = s.outReads := rfl
@[simp] theorem State.endTurn_items (s : State) (p : Pos) : (s.endTurn p).items = s.items := rfl
@[simp] theorem State.endTurn_deferred (s : State) (p : Pos) : (s.endTurn p).deferred = s.deferred := rfl
@[simp] theorem State.endTurn_replay (s : State) (p : Pos) : (s.endTurn p).replay = s.replay := rfl
@[simp] theorem State.endTurn_dead (s : State) (p : Pos) : (s.endTurn p).dead = s.dead := rfl
@[simp] theorem State.endTurn_clk (s : State) (p : Pos) : (s.endTurn p).clk = s.clk := rfl
@[simp] theorem State.endTurn_steps (s : State) (p : Pos) : (s.endTurn p).steps = s.steps := rfl
@[simp] theorem State.endTurn_freeCtr (s : State) (p : Pos) : (s.endTurn p).freeCtr = s.freeCtr := rfl
@[simp] theorem State.endTurn_nextId (s : State) (p : Pos) : (s.endTurn p).nextId = s.nextId := rfl
@[simp] theorem State.endTurn_pkg (s : State) (p : Pos) : (s.endTurn p).pkg = s.pkg := rfl
@[simp] theorem State.endTurn_inp (s : State) (p : Pos) : (s.endTurn p).inp = s.inp := rfl
@[simp] theorem State.endTurn_agenda (s : State) (p : Pos) : (s.endTurn p).agenda = s.agenda := rfl
@[simp] theorem State.endTurn_pending (s : State) (p : Pos) : (s.endTurn p).pending = s.pending := rfl

@[simp] theorem State.block_cur (s : State) (p : Pos) (w : Wait) : (s.block p w).cur = s.cur := by unfold State.block; split <;> rfl
@[simp] theorem State.block_clusters (s : State) (p : Pos) (w : Wait) : (s.block p w).clusters = s.clusters := by unfold State.block; split <;> rfl
@[simp] theorem State.block_tiles (s : State) (p : Pos) (w : Wait) : (s.block p w).tiles = s.tiles := by unfold State.block; split <;> rfl
@[simp] theorem State.block_queues (s : State) (p : Pos) (w : Wait) : (s.block p w).queues = s.queues := by unfold State.block; split <;> rfl
@[simp] theorem State.block_launches (s : State) (p : Pos) (w : Wait) : (s.block p w).launches = s.launches := by unfold State.block; split <;> rfl
@[simp] theorem State.block_teams (s : State) (p : Pos) (w : Wait) : (s.block p w).teams = s.teams := by unfold State.block; split <;> rfl
@[simp] theorem State.block_bastings (s : State) (p : Pos) (w : Wait) : (s.block p w).bastings = s.bastings := by unfold State.block; split <;> rfl
@[simp] theorem State.block_bst (s : State) (p : Pos) (w : Wait) : (s.block p w).bst = s.bst := by unfold State.block; split <;> rfl
@[simp] theorem State.block_servedQ (s : State) (p : Pos) (w : Wait) : (s.block p w).servedQ = s.servedQ := by unfold State.block; split <;> rfl
@[simp] theorem State.block_sealedSlots (s : State) (p : Pos) (w : Wait) : (s.block p w).sealedSlots = s.sealedSlots := by unfold State.block; split <;> rfl
@[simp] theorem State.block_boot (s : State) (p : Pos) (w : Wait) : (s.block p w).boot = s.boot := by unfold State.block; split <;> rfl
@[simp] theorem State.block_telemetry (s : State) (p : Pos) (w : Wait) : (s.block p w).telemetry = s.telemetry := by unfold State.block; split <;> rfl
@[simp] theorem State.block_fabric (s : State) (p : Pos) (w : Wait) : (s.block p w).fabric = s.fabric := by unfold State.block; split <;> rfl
@[simp] theorem State.block_colls (s : State) (p : Pos) (w : Wait) : (s.block p w).colls = s.colls := by unfold State.block; split <;> rfl
@[simp] theorem State.block_groupReads (s : State) (p : Pos) (w : Wait) : (s.block p w).groupReads = s.groupReads := by unfold State.block; split <;> rfl
@[simp] theorem State.block_mem (s : State) (p : Pos) (w : Wait) : (s.block p w).mem = s.mem := by unfold State.block; split <;> rfl
@[simp] theorem State.block_hbmKey (s : State) (p : Pos) (w : Wait) : (s.block p w).hbmKey = s.hbmKey := by unfold State.block; split <;> rfl
@[simp] theorem State.block_poison (s : State) (p : Pos) (w : Wait) : (s.block p w).poison = s.poison := by unfold State.block; split <;> rfl
@[simp] theorem State.block_keySlots (s : State) (p : Pos) (w : Wait) : (s.block p w).keySlots = s.keySlots := by unfold State.block; split <;> rfl
@[simp] theorem State.block_ksWins (s : State) (p : Pos) (w : Wait) : (s.block p w).ksWins = s.ksWins := by unfold State.block; split <;> rfl
@[simp] theorem State.block_nextKey (s : State) (p : Pos) (w : Wait) : (s.block p w).nextKey = s.nextKey := by unfold State.block; split <;> rfl
@[simp] theorem State.block_host (s : State) (p : Pos) (w : Wait) : (s.block p w).host = s.host := by unfold State.block; split <;> rfl
@[simp] theorem State.block_sriov (s : State) (p : Pos) (w : Wait) : (s.block p w).sriov = s.sriov := by unfold State.block; split <;> rfl
@[simp] theorem State.block_resetting (s : State) (p : Pos) (w : Wait) : (s.block p w).resetting = s.resetting := by unfold State.block; split <;> rfl
@[simp] theorem State.block_lqCtl (s : State) (p : Pos) (w : Wait) : (s.block p w).lqCtl = s.lqCtl := by unfold State.block; split <;> rfl
@[simp] theorem State.block_waveAt (s : State) (p : Pos) (w : Wait) : (s.block p w).waveAt = s.waveAt := by unfold State.block; split <;> rfl
@[simp] theorem State.block_wavePos (s : State) (p : Pos) (w : Wait) : (s.block p w).wavePos = s.wavePos := by unfold State.block; split <;> rfl
@[simp] theorem State.block_waveSums (s : State) (p : Pos) (w : Wait) : (s.block p w).waveSums = s.waveSums := by unfold State.block; split <;> rfl
@[simp] theorem State.block_snaps (s : State) (p : Pos) (w : Wait) : (s.block p w).snaps = s.snaps := by unfold State.block; split <;> rfl
@[simp] theorem State.block_gens (s : State) (p : Pos) (w : Wait) : (s.block p w).gens = s.gens := by unfold State.block; split <;> rfl
@[simp] theorem State.block_readSets (s : State) (p : Pos) (w : Wait) : (s.block p w).readSets = s.readSets := by unfold State.block; split <;> rfl
@[simp] theorem State.block_pulls (s : State) (p : Pos) (w : Wait) : (s.block p w).pulls = s.pulls := by unfold State.block; split <;> rfl
@[simp] theorem State.block_outReads (s : State) (p : Pos) (w : Wait) : (s.block p w).outReads = s.outReads := by unfold State.block; split <;> rfl
@[simp] theorem State.block_items (s : State) (p : Pos) (w : Wait) : (s.block p w).items = s.items := by unfold State.block; split <;> rfl
@[simp] theorem State.block_deferred (s : State) (p : Pos) (w : Wait) : (s.block p w).deferred = s.deferred := by unfold State.block; split <;> rfl
@[simp] theorem State.block_replay (s : State) (p : Pos) (w : Wait) : (s.block p w).replay = s.replay := by unfold State.block; split <;> rfl
@[simp] theorem State.block_dead (s : State) (p : Pos) (w : Wait) : (s.block p w).dead = s.dead := by unfold State.block; split <;> rfl
@[simp] theorem State.block_clk (s : State) (p : Pos) (w : Wait) : (s.block p w).clk = s.clk := by unfold State.block; split <;> rfl
@[simp] theorem State.block_steps (s : State) (p : Pos) (w : Wait) : (s.block p w).steps = s.steps := by unfold State.block; split <;> rfl
@[simp] theorem State.block_freeCtr (s : State) (p : Pos) (w : Wait) : (s.block p w).freeCtr = s.freeCtr := by unfold State.block; split <;> rfl
@[simp] theorem State.block_nextId (s : State) (p : Pos) (w : Wait) : (s.block p w).nextId = s.nextId := by unfold State.block; split <;> rfl
@[simp] theorem State.block_pkg (s : State) (p : Pos) (w : Wait) : (s.block p w).pkg = s.pkg := by unfold State.block; split <;> rfl
@[simp] theorem State.block_inp (s : State) (p : Pos) (w : Wait) : (s.block p w).inp = s.inp := by unfold State.block; split <;> rfl
@[simp] theorem State.block_agenda (s : State) (p : Pos) (w : Wait) : (s.block p w).agenda = s.agenda := by unfold State.block; split <;> rfl
@[simp] theorem State.block_pending (s : State) (p : Pos) (w : Wait) : (s.block p w).pending = s.pending := by unfold State.block; split <;> rfl

@[simp] theorem State.wake_cur (s : State) (p : Pos) : (s.wake p).cur = s.cur := rfl
@[simp] theorem State.wake_cores (s : State) (p : Pos) : (s.wake p).cores = s.cores := rfl
@[simp] theorem State.wake_clusters (s : State) (p : Pos) : (s.wake p).clusters = s.clusters := rfl
@[simp] theorem State.wake_tiles (s : State) (p : Pos) : (s.wake p).tiles = s.tiles := rfl
@[simp] theorem State.wake_queues (s : State) (p : Pos) : (s.wake p).queues = s.queues := rfl
@[simp] theorem State.wake_launches (s : State) (p : Pos) : (s.wake p).launches = s.launches := rfl
@[simp] theorem State.wake_teams (s : State) (p : Pos) : (s.wake p).teams = s.teams := rfl
@[simp] theorem State.wake_bastings (s : State) (p : Pos) : (s.wake p).bastings = s.bastings := rfl
@[simp] theorem State.wake_bst (s : State) (p : Pos) : (s.wake p).bst = s.bst := rfl
@[simp] theorem State.wake_servedQ (s : State) (p : Pos) : (s.wake p).servedQ = s.servedQ := rfl
@[simp] theorem State.wake_sealedSlots (s : State) (p : Pos) : (s.wake p).sealedSlots = s.sealedSlots := rfl
@[simp] theorem State.wake_boot (s : State) (p : Pos) : (s.wake p).boot = s.boot := rfl
@[simp] theorem State.wake_telemetry (s : State) (p : Pos) : (s.wake p).telemetry = s.telemetry := rfl
@[simp] theorem State.wake_fabric (s : State) (p : Pos) : (s.wake p).fabric = s.fabric := rfl
@[simp] theorem State.wake_colls (s : State) (p : Pos) : (s.wake p).colls = s.colls := rfl
@[simp] theorem State.wake_groupReads (s : State) (p : Pos) : (s.wake p).groupReads = s.groupReads := rfl
@[simp] theorem State.wake_mem (s : State) (p : Pos) : (s.wake p).mem = s.mem := rfl
@[simp] theorem State.wake_hbmKey (s : State) (p : Pos) : (s.wake p).hbmKey = s.hbmKey := rfl
@[simp] theorem State.wake_poison (s : State) (p : Pos) : (s.wake p).poison = s.poison := rfl
@[simp] theorem State.wake_keySlots (s : State) (p : Pos) : (s.wake p).keySlots = s.keySlots := rfl
@[simp] theorem State.wake_ksWins (s : State) (p : Pos) : (s.wake p).ksWins = s.ksWins := rfl
@[simp] theorem State.wake_nextKey (s : State) (p : Pos) : (s.wake p).nextKey = s.nextKey := rfl
@[simp] theorem State.wake_host (s : State) (p : Pos) : (s.wake p).host = s.host := rfl
@[simp] theorem State.wake_sriov (s : State) (p : Pos) : (s.wake p).sriov = s.sriov := rfl
@[simp] theorem State.wake_resetting (s : State) (p : Pos) : (s.wake p).resetting = s.resetting := rfl
@[simp] theorem State.wake_lqCtl (s : State) (p : Pos) : (s.wake p).lqCtl = s.lqCtl := rfl
@[simp] theorem State.wake_waveAt (s : State) (p : Pos) : (s.wake p).waveAt = s.waveAt := rfl
@[simp] theorem State.wake_wavePos (s : State) (p : Pos) : (s.wake p).wavePos = s.wavePos := rfl
@[simp] theorem State.wake_waveSums (s : State) (p : Pos) : (s.wake p).waveSums = s.waveSums := rfl
@[simp] theorem State.wake_snaps (s : State) (p : Pos) : (s.wake p).snaps = s.snaps := rfl
@[simp] theorem State.wake_gens (s : State) (p : Pos) : (s.wake p).gens = s.gens := rfl
@[simp] theorem State.wake_readSets (s : State) (p : Pos) : (s.wake p).readSets = s.readSets := rfl
@[simp] theorem State.wake_pulls (s : State) (p : Pos) : (s.wake p).pulls = s.pulls := rfl
@[simp] theorem State.wake_outReads (s : State) (p : Pos) : (s.wake p).outReads = s.outReads := rfl
@[simp] theorem State.wake_items (s : State) (p : Pos) : (s.wake p).items = s.items := rfl
@[simp] theorem State.wake_deferred (s : State) (p : Pos) : (s.wake p).deferred = s.deferred := rfl
@[simp] theorem State.wake_replay (s : State) (p : Pos) : (s.wake p).replay = s.replay := rfl
@[simp] theorem State.wake_dead (s : State) (p : Pos) : (s.wake p).dead = s.dead := rfl
@[simp] theorem State.wake_clk (s : State) (p : Pos) : (s.wake p).clk = s.clk := rfl
@[simp] theorem State.wake_steps (s : State) (p : Pos) : (s.wake p).steps = s.steps := rfl
@[simp] theorem State.wake_freeCtr (s : State) (p : Pos) : (s.wake p).freeCtr = s.freeCtr := rfl
@[simp] theorem State.wake_nextId (s : State) (p : Pos) : (s.wake p).nextId = s.nextId := rfl
@[simp] theorem State.wake_pkg (s : State) (p : Pos) : (s.wake p).pkg = s.pkg := rfl
@[simp] theorem State.wake_inp (s : State) (p : Pos) : (s.wake p).inp = s.inp := rfl
@[simp] theorem State.wake_agenda (s : State) (p : Pos) : (s.wake p).agenda = s.agenda := rfl
@[simp] theorem State.wake_pending (s : State) (p : Pos) : (s.wake p).pending = s.pending := rfl

@[simp] theorem State.wakeAll_cur (s : State) (q : Pos → Wait → Bool) : (s.wakeAll q).cur = s.cur := rfl
@[simp] theorem State.wakeAll_cores (s : State) (q : Pos → Wait → Bool) : (s.wakeAll q).cores = s.cores := rfl
@[simp] theorem State.wakeAll_clusters (s : State) (q : Pos → Wait → Bool) : (s.wakeAll q).clusters = s.clusters := rfl
@[simp] theorem State.wakeAll_tiles (s : State) (q : Pos → Wait → Bool) : (s.wakeAll q).tiles = s.tiles := rfl
@[simp] theorem State.wakeAll_queues (s : State) (q : Pos → Wait → Bool) : (s.wakeAll q).queues = s.queues := rfl
@[simp] theorem State.wakeAll_launches (s : State) (q : Pos → Wait → Bool) : (s.wakeAll q).launches = s.launches := rfl
@[simp] theorem State.wakeAll_teams (s : State) (q : Pos → Wait → Bool) : (s.wakeAll q).teams = s.teams := rfl
@[simp] theorem State.wakeAll_bastings (s : State) (q : Pos → Wait → Bool) : (s.wakeAll q).bastings = s.bastings := rfl
@[simp] theorem State.wakeAll_bst (s : State) (q : Pos → Wait → Bool) : (s.wakeAll q).bst = s.bst := rfl
@[simp] theorem State.wakeAll_servedQ (s : State) (q : Pos → Wait → Bool) : (s.wakeAll q).servedQ = s.servedQ := rfl
@[simp] theorem State.wakeAll_sealedSlots (s : State) (q : Pos → Wait → Bool) : (s.wakeAll q).sealedSlots = s.sealedSlots := rfl
@[simp] theorem State.wakeAll_boot (s : State) (q : Pos → Wait → Bool) : (s.wakeAll q).boot = s.boot := rfl
@[simp] theorem State.wakeAll_telemetry (s : State) (q : Pos → Wait → Bool) : (s.wakeAll q).telemetry = s.telemetry := rfl
@[simp] theorem State.wakeAll_fabric (s : State) (q : Pos → Wait → Bool) : (s.wakeAll q).fabric = s.fabric := rfl
@[simp] theorem State.wakeAll_colls (s : State) (q : Pos → Wait → Bool) : (s.wakeAll q).colls = s.colls := rfl
@[simp] theorem State.wakeAll_groupReads (s : State) (q : Pos → Wait → Bool) : (s.wakeAll q).groupReads = s.groupReads := rfl
@[simp] theorem State.wakeAll_mem (s : State) (q : Pos → Wait → Bool) : (s.wakeAll q).mem = s.mem := rfl
@[simp] theorem State.wakeAll_hbmKey (s : State) (q : Pos → Wait → Bool) : (s.wakeAll q).hbmKey = s.hbmKey := rfl
@[simp] theorem State.wakeAll_poison (s : State) (q : Pos → Wait → Bool) : (s.wakeAll q).poison = s.poison := rfl
@[simp] theorem State.wakeAll_keySlots (s : State) (q : Pos → Wait → Bool) : (s.wakeAll q).keySlots = s.keySlots := rfl
@[simp] theorem State.wakeAll_ksWins (s : State) (q : Pos → Wait → Bool) : (s.wakeAll q).ksWins = s.ksWins := rfl
@[simp] theorem State.wakeAll_nextKey (s : State) (q : Pos → Wait → Bool) : (s.wakeAll q).nextKey = s.nextKey := rfl
@[simp] theorem State.wakeAll_host (s : State) (q : Pos → Wait → Bool) : (s.wakeAll q).host = s.host := rfl
@[simp] theorem State.wakeAll_sriov (s : State) (q : Pos → Wait → Bool) : (s.wakeAll q).sriov = s.sriov := rfl
@[simp] theorem State.wakeAll_resetting (s : State) (q : Pos → Wait → Bool) : (s.wakeAll q).resetting = s.resetting := rfl
@[simp] theorem State.wakeAll_lqCtl (s : State) (q : Pos → Wait → Bool) : (s.wakeAll q).lqCtl = s.lqCtl := rfl
@[simp] theorem State.wakeAll_waveAt (s : State) (q : Pos → Wait → Bool) : (s.wakeAll q).waveAt = s.waveAt := rfl
@[simp] theorem State.wakeAll_wavePos (s : State) (q : Pos → Wait → Bool) : (s.wakeAll q).wavePos = s.wavePos := rfl
@[simp] theorem State.wakeAll_waveSums (s : State) (q : Pos → Wait → Bool) : (s.wakeAll q).waveSums = s.waveSums := rfl
@[simp] theorem State.wakeAll_snaps (s : State) (q : Pos → Wait → Bool) : (s.wakeAll q).snaps = s.snaps := rfl
@[simp] theorem State.wakeAll_gens (s : State) (q : Pos → Wait → Bool) : (s.wakeAll q).gens = s.gens := rfl
@[simp] theorem State.wakeAll_readSets (s : State) (q : Pos → Wait → Bool) : (s.wakeAll q).readSets = s.readSets := rfl
@[simp] theorem State.wakeAll_pulls (s : State) (q : Pos → Wait → Bool) : (s.wakeAll q).pulls = s.pulls := rfl
@[simp] theorem State.wakeAll_outReads (s : State) (q : Pos → Wait → Bool) : (s.wakeAll q).outReads = s.outReads := rfl
@[simp] theorem State.wakeAll_items (s : State) (q : Pos → Wait → Bool) : (s.wakeAll q).items = s.items := rfl
@[simp] theorem State.wakeAll_deferred (s : State) (q : Pos → Wait → Bool) : (s.wakeAll q).deferred = s.deferred := rfl
@[simp] theorem State.wakeAll_replay (s : State) (q : Pos → Wait → Bool) : (s.wakeAll q).replay = s.replay := rfl
@[simp] theorem State.wakeAll_dead (s : State) (q : Pos → Wait → Bool) : (s.wakeAll q).dead = s.dead := rfl
@[simp] theorem State.wakeAll_clk (s : State) (q : Pos → Wait → Bool) : (s.wakeAll q).clk = s.clk := rfl
@[simp] theorem State.wakeAll_steps (s : State) (q : Pos → Wait → Bool) : (s.wakeAll q).steps = s.steps := rfl
@[simp] theorem State.wakeAll_freeCtr (s : State) (q : Pos → Wait → Bool) : (s.wakeAll q).freeCtr = s.freeCtr := rfl
@[simp] theorem State.wakeAll_nextId (s : State) (q : Pos → Wait → Bool) : (s.wakeAll q).nextId = s.nextId := rfl
@[simp] theorem State.wakeAll_pkg (s : State) (q : Pos → Wait → Bool) : (s.wakeAll q).pkg = s.pkg := rfl
@[simp] theorem State.wakeAll_inp (s : State) (q : Pos → Wait → Bool) : (s.wakeAll q).inp = s.inp := rfl
@[simp] theorem State.wakeAll_agenda (s : State) (q : Pos → Wait → Bool) : (s.wakeAll q).agenda = s.agenda := rfl
@[simp] theorem State.wakeAll_pending (s : State) (q : Pos → Wait → Bool) : (s.wakeAll q).pending = s.pending := rfl

@[simp] theorem State.tick_cur (s : State) : (s.tick).cur = s.cur := rfl
@[simp] theorem State.tick_ctxs (s : State) : (s.tick).ctxs = s.ctxs := rfl
@[simp] theorem State.tick_cores (s : State) : (s.tick).cores = s.cores := rfl
@[simp] theorem State.tick_clusters (s : State) : (s.tick).clusters = s.clusters := rfl
@[simp] theorem State.tick_tiles (s : State) : (s.tick).tiles = s.tiles := rfl
@[simp] theorem State.tick_queues (s : State) : (s.tick).queues = s.queues := rfl
@[simp] theorem State.tick_launches (s : State) : (s.tick).launches = s.launches := rfl
@[simp] theorem State.tick_teams (s : State) : (s.tick).teams = s.teams := rfl
@[simp] theorem State.tick_bastings (s : State) : (s.tick).bastings = s.bastings := rfl
@[simp] theorem State.tick_bst (s : State) : (s.tick).bst = s.bst := rfl
@[simp] theorem State.tick_servedQ (s : State) : (s.tick).servedQ = s.servedQ := rfl
@[simp] theorem State.tick_sealedSlots (s : State) : (s.tick).sealedSlots = s.sealedSlots := rfl
@[simp] theorem State.tick_boot (s : State) : (s.tick).boot = s.boot := rfl
@[simp] theorem State.tick_telemetry (s : State) : (s.tick).telemetry = s.telemetry := rfl
@[simp] theorem State.tick_fabric (s : State) : (s.tick).fabric = s.fabric := rfl
@[simp] theorem State.tick_colls (s : State) : (s.tick).colls = s.colls := rfl
@[simp] theorem State.tick_groupReads (s : State) : (s.tick).groupReads = s.groupReads := rfl
@[simp] theorem State.tick_mem (s : State) : (s.tick).mem = s.mem := rfl
@[simp] theorem State.tick_hbmKey (s : State) : (s.tick).hbmKey = s.hbmKey := rfl
@[simp] theorem State.tick_poison (s : State) : (s.tick).poison = s.poison := rfl
@[simp] theorem State.tick_keySlots (s : State) : (s.tick).keySlots = s.keySlots := rfl
@[simp] theorem State.tick_ksWins (s : State) : (s.tick).ksWins = s.ksWins := rfl
@[simp] theorem State.tick_nextKey (s : State) : (s.tick).nextKey = s.nextKey := rfl
@[simp] theorem State.tick_host (s : State) : (s.tick).host = s.host := rfl
@[simp] theorem State.tick_sriov (s : State) : (s.tick).sriov = s.sriov := rfl
@[simp] theorem State.tick_resetting (s : State) : (s.tick).resetting = s.resetting := rfl
@[simp] theorem State.tick_lqCtl (s : State) : (s.tick).lqCtl = s.lqCtl := rfl
@[simp] theorem State.tick_waveAt (s : State) : (s.tick).waveAt = s.waveAt := rfl
@[simp] theorem State.tick_wavePos (s : State) : (s.tick).wavePos = s.wavePos := rfl
@[simp] theorem State.tick_waveSums (s : State) : (s.tick).waveSums = s.waveSums := rfl
@[simp] theorem State.tick_snaps (s : State) : (s.tick).snaps = s.snaps := rfl
@[simp] theorem State.tick_gens (s : State) : (s.tick).gens = s.gens := rfl
@[simp] theorem State.tick_readSets (s : State) : (s.tick).readSets = s.readSets := rfl
@[simp] theorem State.tick_pulls (s : State) : (s.tick).pulls = s.pulls := rfl
@[simp] theorem State.tick_outReads (s : State) : (s.tick).outReads = s.outReads := rfl
@[simp] theorem State.tick_items (s : State) : (s.tick).items = s.items := rfl
@[simp] theorem State.tick_deferred (s : State) : (s.tick).deferred = s.deferred := rfl
@[simp] theorem State.tick_replay (s : State) : (s.tick).replay = s.replay := rfl
@[simp] theorem State.tick_dead (s : State) : (s.tick).dead = s.dead := rfl
@[simp] theorem State.tick_freeCtr (s : State) : (s.tick).freeCtr = s.freeCtr := rfl
@[simp] theorem State.tick_nextId (s : State) : (s.tick).nextId = s.nextId := rfl
@[simp] theorem State.tick_pkg (s : State) : (s.tick).pkg = s.pkg := rfl
@[simp] theorem State.tick_inp (s : State) : (s.tick).inp = s.inp := rfl
@[simp] theorem State.tick_agenda (s : State) : (s.tick).agenda = s.agenda := rfl
@[simp] theorem State.tick_pending (s : State) : (s.tick).pending = s.pending := rfl

@[simp] theorem State.setCtx_ctxs (s : State) (p : Pos) (c : Ctx) : (s.setCtx p c).ctxs = Assoc.put p c s.ctxs := rfl
@[simp] theorem State.setCore_cores (s : State) (c n : Nat) (k : Core) : (s.setCore c n k).cores = Assoc.put (c, n) k s.cores := rfl
@[simp] theorem State.setClus_clusters (s : State) (c : Nat) (k : Clus) : (s.setClus c k).clusters = Assoc.put c k s.clusters := rfl
@[simp] theorem State.setTile_tiles (s : State) (c n : Nat) (k : Tile) : (s.setTile c n k).tiles = Assoc.put (c, n) k s.tiles := rfl
@[simp] theorem State.post_pending (s : State) (i : Instr) (inp : Inp) : (s.post i inp).pending = s.pending ++ [.event i inp] := rfl
@[simp] theorem State.drew_freeCtr (s : State) : s.drew.freeCtr = s.freeCtr + 1 := rfl
@[simp] theorem State.tick_clk (s : State) : s.tick.clk = s.clk + BitVec.ofNat 64 (1 + Config.elapsed s.steps) := rfl
@[simp] theorem State.tick_steps (s : State) : s.tick.steps = s.steps + 1 := rfl
@[simp] theorem State.setCtx_core (s : State) (p : Pos) (c : Ctx) (x y : Nat) : (s.setCtx p c).core x y = s.core x y := rfl
@[simp] theorem State.setCtx_clus (s : State) (p : Pos) (c : Ctx) (x : Nat) : (s.setCtx p c).clus x = s.clus x := rfl
@[simp] theorem State.setCtx_tile (s : State) (p : Pos) (c : Ctx) (x y : Nat) : (s.setCtx p c).tile x y = s.tile x y := rfl
@[simp] theorem State.modCtx_core (s : State) (p : Pos) (f : Ctx → Ctx) (x y : Nat) : (s.modCtx p f).core x y = s.core x y := rfl
@[simp] theorem State.modCtx_clus (s : State) (p : Pos) (f : Ctx → Ctx) (x : Nat) : (s.modCtx p f).clus x = s.clus x := rfl
@[simp] theorem State.modCtx_tile (s : State) (p : Pos) (f : Ctx → Ctx) (x y : Nat) : (s.modCtx p f).tile x y = s.tile x y := rfl
@[simp] theorem State.modMe_core (s : State) (f : Ctx → Ctx) (x y : Nat) : (s.modMe f).core x y = s.core x y := rfl
@[simp] theorem State.modMe_clus (s : State) (f : Ctx → Ctx) (x : Nat) : (s.modMe f).clus x = s.clus x := rfl
@[simp] theorem State.modMe_tile (s : State) (f : Ctx → Ctx) (x y : Nat) : (s.modMe f).tile x y = s.tile x y := rfl
@[simp] theorem State.setCore_clus (s : State) (c n : Nat) (k : Core) (x : Nat) : (s.setCore c n k).clus x = s.clus x := rfl
@[simp] theorem State.setCore_tile (s : State) (c n : Nat) (k : Core) (x y : Nat) : (s.setCore c n k).tile x y = s.tile x y := rfl
@[simp] theorem State.setCore_ctx (s : State) (c n : Nat) (k : Core) (x : Pos) : (s.setCore c n k).ctx x = s.ctx x := rfl
@[simp] theorem State.modCore_clus (s : State) (c n : Nat) (f : Core → Core) (x : Nat) : (s.modCore c n f).clus x = s.clus x := rfl
@[simp] theorem State.modCore_tile (s : State) (c n : Nat) (f : Core → Core) (x y : Nat) : (s.modCore c n f).tile x y = s.tile x y := rfl
@[simp] theorem State.modCore_ctx (s : State) (c n : Nat) (f : Core → Core) (x : Pos) : (s.modCore c n f).ctx x = s.ctx x := rfl
@[simp] theorem State.setClus_core (s : State) (c : Nat) (k : Clus) (x y : Nat) : (s.setClus c k).core x y = s.core x y := rfl
@[simp] theorem State.setClus_tile (s : State) (c : Nat) (k : Clus) (x y : Nat) : (s.setClus c k).tile x y = s.tile x y := rfl
@[simp] theorem State.setClus_ctx (s : State) (c : Nat) (k : Clus) (x : Pos) : (s.setClus c k).ctx x = s.ctx x := rfl
@[simp] theorem State.modClus_core (s : State) (c : Nat) (f : Clus → Clus) (x y : Nat) : (s.modClus c f).core x y = s.core x y := rfl
@[simp] theorem State.modClus_tile (s : State) (c : Nat) (f : Clus → Clus) (x y : Nat) : (s.modClus c f).tile x y = s.tile x y := rfl
@[simp] theorem State.modClus_ctx (s : State) (c : Nat) (f : Clus → Clus) (x : Pos) : (s.modClus c f).ctx x = s.ctx x := rfl
@[simp] theorem State.setTile_core (s : State) (c n : Nat) (k : Tile) (x y : Nat) : (s.setTile c n k).core x y = s.core x y := rfl
@[simp] theorem State.setTile_clus (s : State) (c n : Nat) (k : Tile) (x : Nat) : (s.setTile c n k).clus x = s.clus x := rfl
@[simp] theorem State.setTile_ctx (s : State) (c n : Nat) (k : Tile) (x : Pos) : (s.setTile c n k).ctx x = s.ctx x := rfl
@[simp] theorem State.post_core (s : State) (i : Instr) (inp : Inp) (x y : Nat) : (s.post i inp).core x y = s.core x y := rfl
@[simp] theorem State.post_clus (s : State) (i : Instr) (inp : Inp) (x : Nat) : (s.post i inp).clus x = s.clus x := rfl
@[simp] theorem State.post_tile (s : State) (i : Instr) (inp : Inp) (x y : Nat) : (s.post i inp).tile x y = s.tile x y := rfl
@[simp] theorem State.post_ctx (s : State) (i : Instr) (inp : Inp) (x : Pos) : (s.post i inp).ctx x = s.ctx x := rfl
@[simp] theorem State.drew_core (s : State) (x y : Nat) : (s.drew).core x y = s.core x y := rfl
@[simp] theorem State.drew_clus (s : State) (x : Nat) : (s.drew).clus x = s.clus x := rfl
@[simp] theorem State.drew_tile (s : State) (x y : Nat) : (s.drew).tile x y = s.tile x y := rfl
@[simp] theorem State.drew_ctx (s : State) (x : Pos) : (s.drew).ctx x = s.ctx x := rfl
@[simp] theorem State.endTurn_clus (s : State) (p : Pos) (x : Nat) : (s.endTurn p).clus x = s.clus x := rfl
@[simp] theorem State.endTurn_tile (s : State) (p : Pos) (x y : Nat) : (s.endTurn p).tile x y = s.tile x y := rfl
@[simp] theorem State.endTurn_ctx (s : State) (p : Pos) (x : Pos) : (s.endTurn p).ctx x = s.ctx x := rfl
@[simp] theorem State.block_clus (s : State) (p : Pos) (w : Wait) (x : Nat) : (s.block p w).clus x = s.clus x := by unfold State.block; split <;> rfl
@[simp] theorem State.block_tile (s : State) (p : Pos) (w : Wait) (x y : Nat) : (s.block p w).tile x y = s.tile x y := by unfold State.block; split <;> rfl
@[simp] theorem State.wake_core (s : State) (p : Pos) (x y : Nat) : (s.wake p).core x y = s.core x y := rfl
@[simp] theorem State.wake_clus (s : State) (p : Pos) (x : Nat) : (s.wake p).clus x = s.clus x := rfl
@[simp] theorem State.wake_tile (s : State) (p : Pos) (x y : Nat) : (s.wake p).tile x y = s.tile x y := rfl
@[simp] theorem State.wakeAll_core (s : State) (q : Pos → Wait → Bool) (x y : Nat) : (s.wakeAll q).core x y = s.core x y := rfl
@[simp] theorem State.wakeAll_clus (s : State) (q : Pos → Wait → Bool) (x : Nat) : (s.wakeAll q).clus x = s.clus x := rfl
@[simp] theorem State.wakeAll_tile (s : State) (q : Pos → Wait → Bool) (x y : Nat) : (s.wakeAll q).tile x y = s.tile x y := rfl
@[simp] theorem State.tick_core (s : State) (x y : Nat) : (s.tick).core x y = s.core x y := rfl
@[simp] theorem State.tick_clus (s : State) (x : Nat) : (s.tick).clus x = s.clus x := rfl
@[simp] theorem State.tick_tile (s : State) (x y : Nat) : (s.tick).tile x y = s.tile x y := rfl
@[simp] theorem State.tick_ctx (s : State) (x : Pos) : (s.tick).ctx x = s.ctx x := rfl

/-! ### Reading back -/

theorem Assoc.get_put {κ α : Type} [DecidableEq κ] (d : α) (k j : κ) (v : α) (m : Assoc κ α) :
    Assoc.get d j (Assoc.put k v m) = if k = j then v else Assoc.get d j m := by
  induction m with
  | nil => simp only [Assoc.put, Assoc.get]
  | cons e t ih =>
    obtain ⟨k', v'⟩ := e
    simp only [Assoc.put]
    split
    · rename_i h
      subst h
      simp only [Assoc.get]
      split <;> rfl
    · rename_i h
      simp only [Assoc.get, ih]
      split
      · rename_i h1
        subst h1
        rw [if_neg (Ne.symm h)]
      · rfl
@[simp] theorem Assoc.get_put_self {κ α : Type} [DecidableEq κ] (d : α) (k : κ) (v : α) (m : Assoc κ α) :
    Assoc.get d k (Assoc.put k v m) = v := by rw [Assoc.get_put, if_pos rfl]
theorem Assoc.get_put_ne {κ α : Type} [DecidableEq κ] (d : α) {k j : κ} (h : k ≠ j) (v : α) (m : Assoc κ α) :
    Assoc.get d j (Assoc.put k v m) = Assoc.get d j m := by rw [Assoc.get_put, if_neg h]
@[simp] theorem State.ctx_setCtx (s : State) (p : Pos) (c : Ctx) : (s.setCtx p c).ctx p = c := Assoc.get_put_self ..
theorem State.ctx_setCtx_ne (s : State) {p q : Pos} (h : p ≠ q) (c : Ctx) : (s.setCtx p c).ctx q = s.ctx q := Assoc.get_put_ne _ h ..
@[simp] theorem State.ctx_modCtx (s : State) (p : Pos) (f : Ctx → Ctx) : (s.modCtx p f).ctx p = f (s.ctx p) := State.ctx_setCtx ..
theorem State.ctx_modCtx_ne (s : State) {p q : Pos} (h : p ≠ q) (f : Ctx → Ctx) : (s.modCtx p f).ctx q = s.ctx q := State.ctx_setCtx_ne s h _
@[simp] theorem State.me_modMe (s : State) (f : Ctx → Ctx) : (s.modMe f).me = f s.me := State.ctx_modCtx ..
@[simp] theorem State.me_modCtx (s : State) (f : Ctx → Ctx) : (s.modCtx s.cur f).me = f s.me := State.ctx_modCtx ..
@[simp] theorem State.ctx_modMe (s : State) (f : Ctx → Ctx) : (s.modMe f).ctx s.cur = f s.me := State.ctx_modCtx ..
@[simp] theorem State.ctx_cur (s : State) : s.ctx s.cur = s.me := rfl
@[simp] theorem State.core_setCore (s : State) (c n : Nat) (k : Core) : (s.setCore c n k).core c n = k := Assoc.get_put_self ..
@[simp] theorem State.core_modCore (s : State) (c n : Nat) (f : Core → Core) : (s.modCore c n f).core c n = f (s.core c n) := State.core_setCore ..
@[simp] theorem State.clus_setClus (s : State) (c : Nat) (k : Clus) : (s.setClus c k).clus c = k := Assoc.get_put_self ..
@[simp] theorem State.clus_modClus (s : State) (c : Nat) (f : Clus → Clus) : (s.modClus c f).clus c = f (s.clus c) := State.clus_setClus ..
@[simp] theorem State.tile_setTile (s : State) (c n : Nat) (k : Tile) : (s.setTile c n k).tile c n = k := Assoc.get_put_self ..

end Sys2Proof.Machine
end

