-- ==== Sys2Proof/Laws/Ctx.lean ====
section
/-! SUPPORT. The registers of a context under each of its updates (R135, R138). -/

namespace Sys2Proof.Machine

@[simp] theorem Ctx.setReg_m (c : Ctx) (r : Reg) (v : Word) : (c.setReg r v).m = c.m := rfl
@[simp] theorem Ctx.setReg_pc (c : Ctx) (r : Reg) (v : Word) : (c.setReg r v).pc = c.pc := rfl
@[simp] theorem Ctx.setReg_tvec (c : Ctx) (r : Reg) (v : Word) : (c.setReg r v).tvec = c.tvec := rfl
@[simp] theorem Ctx.setReg_xpc (c : Ctx) (r : Reg) (v : Word) : (c.setReg r v).xpc = c.xpc := rfl
@[simp] theorem Ctx.setReg_xaddr (c : Ctx) (r : Reg) (v : Word) : (c.setReg r v).xaddr = c.xaddr := rfl
@[simp] theorem Ctx.setReg_xcause (c : Ctx) (r : Reg) (v : Word) : (c.setReg r v).xcause = c.xcause := rfl
@[simp] theorem Ctx.setReg_xinfo (c : Ctx) (r : Reg) (v : Word) : (c.setReg r v).xinfo = c.xinfo := rfl
@[simp] theorem Ctx.setReg_lcnt (c : Ctx) (r : Reg) (v : Word) : (c.setReg r v).lcnt = c.lcnt := rfl
@[simp] theorem Ctx.setReg_ls (c : Ctx) (r : Reg) (v : Word) : (c.setReg r v).ls = c.ls := rfl
@[simp] theorem Ctx.setReg_le (c : Ctx) (r : Reg) (v : Word) : (c.setReg r v).le = c.le := rfl
@[simp] theorem Ctx.setReg_depth (c : Ctx) (r : Reg) (v : Word) : (c.setReg r v).depth = c.depth := rfl
@[simp] theorem Ctx.setReg_rmode (c : Ctx) (r : Reg) (v : Word) : (c.setReg r v).rmode = c.rmode := rfl
@[simp] theorem Ctx.setReg_seed (c : Ctx) (r : Reg) (v : Word) : (c.setReg r v).seed = c.seed := rfl
@[simp] theorem Ctx.setReg_bpa (c : Ctx) (r : Reg) (v : Word) : (c.setReg r v).bpa = c.bpa := rfl
@[simp] theorem Ctx.setReg_retc (c : Ctx) (r : Reg) (v : Word) : (c.setReg r v).retc = c.retc := rfl
@[simp] theorem Ctx.setReg_team (c : Ctx) (r : Reg) (v : Word) : (c.setReg r v).team = c.team := rfl
@[simp] theorem Ctx.setReg_teamn (c : Ctx) (r : Reg) (v : Word) : (c.setReg r v).teamn = c.teamn := rfl
@[simp] theorem Ctx.setReg_lnch (c : Ctx) (r : Reg) (v : Word) : (c.setReg r v).lnch = c.lnch := rfl
@[simp] theorem Ctx.setReg_capt (c : Ctx) (r : Reg) (v : Word) : (c.setReg r v).capt = c.capt := rfl
@[simp] theorem Ctx.setReg_leasest (c : Ctx) (r : Reg) (v : Word) : (c.setReg r v).leasest = c.leasest := rfl
@[simp] theorem Ctx.setReg_intrap (c : Ctx) (r : Reg) (v : Word) : (c.setReg r v).intrap = c.intrap := rfl
@[simp] theorem Ctx.setReg_skipbp (c : Ctx) (r : Reg) (v : Word) : (c.setReg r v).skipbp = c.skipbp := rfl
@[simp] theorem Ctx.setReg_st (c : Ctx) (r : Reg) (v : Word) : (c.setReg r v).st = c.st := rfl
@[simp] theorem Ctx.setReg_slot (c : Ctx) (r : Reg) (v : Word) : (c.setReg r v).slot = c.slot := rfl
@[simp] theorem Ctx.setReg_aspc (c : Ctx) (r : Reg) (v : Word) : (c.setReg r v).aspc = c.aspc := rfl
@[simp] theorem Ctx.setReg_cbase (c : Ctx) (r : Reg) (v : Word) : (c.setReg r v).cbase = c.cbase := rfl
@[simp] theorem Ctx.setReg_cpages (c : Ctx) (r : Reg) (v : Word) : (c.setReg r v).cpages = c.cpages := rfl
@[simp] theorem Ctx.setReg_sys (c : Ctx) (r : Reg) (v : Word) : (c.setReg r v).sys = c.sys := rfl
@[simp] theorem Ctx.setReg_debug (c : Ctx) (r : Reg) (v : Word) : (c.setReg r v).debug = c.debug := rfl
@[simp] theorem Ctx.setReg_basting (c : Ctx) (r : Reg) (v : Word) : (c.setReg r v).basting = c.basting := rfl
@[simp] theorem Ctx.setReg_pend (c : Ctx) (r : Reg) (v : Word) : (c.setReg r v).pend = c.pend := rfl
@[simp] theorem Ctx.setReg_ans (c : Ctx) (r : Reg) (v : Word) : (c.setReg r v).ans = c.ans := rfl
@[simp] theorem Ctx.setReg_ansId (c : Ctx) (r : Reg) (v : Word) : (c.setReg r v).ansId = c.ansId := rfl
@[simp] theorem Ctx.setReg_enqts (c : Ctx) (r : Reg) (v : Word) : (c.setReg r v).enqts = c.enqts := rfl
@[simp] theorem Ctx.setReg_ansPkg (c : Ctx) (r : Reg) (v : Word) : (c.setReg r v).ansPkg = c.ansPkg := rfl
@[simp] theorem Ctx.setReg_full (c : Ctx) (r : Reg) (v : Word) : (c.setReg r v).full = c.full := rfl
@[simp] theorem Ctx.setReg_stop (c : Ctx) (r : Reg) (v : Word) : (c.setReg r v).stop = c.stop := rfl
@[simp] theorem Ctx.setReg_last (c : Ctx) (r : Reg) (v : Word) : (c.setReg r v).last = c.last := rfl
@[simp] theorem Ctx.setReg_pdbg (c : Ctx) (r : Reg) (v : Word) : (c.setReg r v).pdbg = c.pdbg := rfl
@[simp] theorem Ctx.setReg_ptrap (c : Ctx) (r : Reg) (v : Word) : (c.setReg r v).ptrap = c.ptrap := rfl
@[simp] theorem Ctx.setReg_streams (c : Ctx) (r : Reg) (v : Word) : (c.setReg r v).streams = c.streams := rfl
@[simp] theorem Ctx.setReg_convoy (c : Ctx) (r : Reg) (v : Word) : (c.setReg r v).convoy = c.convoy := rfl
@[simp] theorem Ctx.setReg_convoyWait (c : Ctx) (r : Reg) (v : Word) : (c.setReg r v).convoyWait = c.convoyWait := rfl
@[simp] theorem Ctx.setReg_unready (c : Ctx) (r : Reg) (v : Word) : (c.setReg r v).unready = c.unready := rfl
@[simp] theorem Ctx.setReg_ibits (c : Ctx) (r : Reg) (v : Word) : (c.setReg r v).ibits = c.ibits := rfl
@[simp] theorem Ctx.setReg_ilen (c : Ctx) (r : Reg) (v : Word) : (c.setReg r v).ilen = c.ilen := rfl
@[simp] theorem Ctx.setReg_fwded (c : Ctx) (r : Reg) (v : Word) : (c.setReg r v).fwded = c.fwded := rfl
@[simp] theorem Ctx.setReg_spop (c : Ctx) (r : Reg) (v : Word) : (c.setReg r v).spop = c.spop := rfl
@[simp] theorem Ctx.setReg_seen (c : Ctx) (r : Reg) (v : Word) : (c.setReg r v).seen = c.seen := rfl
@[simp] theorem Ctx.setReg_sub (c : Ctx) (r : Reg) (v : Word) : (c.setReg r v).sub = c.sub := rfl
@[simp] theorem Ctx.setReg_skips (c : Ctx) (r : Reg) (v : Word) : (c.setReg r v).skips = c.skips := rfl

@[simp] theorem Ctx.setPair_m (c : Ctx) (r : Reg) (v : DWord) : (c.setPair r v).m = c.m := rfl
@[simp] theorem Ctx.setPair_pc (c : Ctx) (r : Reg) (v : DWord) : (c.setPair r v).pc = c.pc := rfl
@[simp] theorem Ctx.setPair_tvec (c : Ctx) (r : Reg) (v : DWord) : (c.setPair r v).tvec = c.tvec := rfl
@[simp] theorem Ctx.setPair_xpc (c : Ctx) (r : Reg) (v : DWord) : (c.setPair r v).xpc = c.xpc := rfl
@[simp] theorem Ctx.setPair_xaddr (c : Ctx) (r : Reg) (v : DWord) : (c.setPair r v).xaddr = c.xaddr := rfl
@[simp] theorem Ctx.setPair_xcause (c : Ctx) (r : Reg) (v : DWord) : (c.setPair r v).xcause = c.xcause := rfl
@[simp] theorem Ctx.setPair_xinfo (c : Ctx) (r : Reg) (v : DWord) : (c.setPair r v).xinfo = c.xinfo := rfl
@[simp] theorem Ctx.setPair_lcnt (c : Ctx) (r : Reg) (v : DWord) : (c.setPair r v).lcnt = c.lcnt := rfl
@[simp] theorem Ctx.setPair_ls (c : Ctx) (r : Reg) (v : DWord) : (c.setPair r v).ls = c.ls := rfl
@[simp] theorem Ctx.setPair_le (c : Ctx) (r : Reg) (v : DWord) : (c.setPair r v).le = c.le := rfl
@[simp] theorem Ctx.setPair_depth (c : Ctx) (r : Reg) (v : DWord) : (c.setPair r v).depth = c.depth := rfl
@[simp] theorem Ctx.setPair_rmode (c : Ctx) (r : Reg) (v : DWord) : (c.setPair r v).rmode = c.rmode := rfl
@[simp] theorem Ctx.setPair_seed (c : Ctx) (r : Reg) (v : DWord) : (c.setPair r v).seed = c.seed := rfl
@[simp] theorem Ctx.setPair_bpa (c : Ctx) (r : Reg) (v : DWord) : (c.setPair r v).bpa = c.bpa := rfl
@[simp] theorem Ctx.setPair_retc (c : Ctx) (r : Reg) (v : DWord) : (c.setPair r v).retc = c.retc := rfl
@[simp] theorem Ctx.setPair_team (c : Ctx) (r : Reg) (v : DWord) : (c.setPair r v).team = c.team := rfl
@[simp] theorem Ctx.setPair_teamn (c : Ctx) (r : Reg) (v : DWord) : (c.setPair r v).teamn = c.teamn := rfl
@[simp] theorem Ctx.setPair_lnch (c : Ctx) (r : Reg) (v : DWord) : (c.setPair r v).lnch = c.lnch := rfl
@[simp] theorem Ctx.setPair_capt (c : Ctx) (r : Reg) (v : DWord) : (c.setPair r v).capt = c.capt := rfl
@[simp] theorem Ctx.setPair_leasest (c : Ctx) (r : Reg) (v : DWord) : (c.setPair r v).leasest = c.leasest := rfl
@[simp] theorem Ctx.setPair_intrap (c : Ctx) (r : Reg) (v : DWord) : (c.setPair r v).intrap = c.intrap := rfl
@[simp] theorem Ctx.setPair_skipbp (c : Ctx) (r : Reg) (v : DWord) : (c.setPair r v).skipbp = c.skipbp := rfl
@[simp] theorem Ctx.setPair_st (c : Ctx) (r : Reg) (v : DWord) : (c.setPair r v).st = c.st := rfl
@[simp] theorem Ctx.setPair_slot (c : Ctx) (r : Reg) (v : DWord) : (c.setPair r v).slot = c.slot := rfl
@[simp] theorem Ctx.setPair_aspc (c : Ctx) (r : Reg) (v : DWord) : (c.setPair r v).aspc = c.aspc := rfl
@[simp] theorem Ctx.setPair_cbase (c : Ctx) (r : Reg) (v : DWord) : (c.setPair r v).cbase = c.cbase := rfl
@[simp] theorem Ctx.setPair_cpages (c : Ctx) (r : Reg) (v : DWord) : (c.setPair r v).cpages = c.cpages := rfl
@[simp] theorem Ctx.setPair_sys (c : Ctx) (r : Reg) (v : DWord) : (c.setPair r v).sys = c.sys := rfl
@[simp] theorem Ctx.setPair_debug (c : Ctx) (r : Reg) (v : DWord) : (c.setPair r v).debug = c.debug := rfl
@[simp] theorem Ctx.setPair_basting (c : Ctx) (r : Reg) (v : DWord) : (c.setPair r v).basting = c.basting := rfl
@[simp] theorem Ctx.setPair_pend (c : Ctx) (r : Reg) (v : DWord) : (c.setPair r v).pend = c.pend := rfl
@[simp] theorem Ctx.setPair_ans (c : Ctx) (r : Reg) (v : DWord) : (c.setPair r v).ans = c.ans := rfl
@[simp] theorem Ctx.setPair_ansId (c : Ctx) (r : Reg) (v : DWord) : (c.setPair r v).ansId = c.ansId := rfl
@[simp] theorem Ctx.setPair_enqts (c : Ctx) (r : Reg) (v : DWord) : (c.setPair r v).enqts = c.enqts := rfl
@[simp] theorem Ctx.setPair_ansPkg (c : Ctx) (r : Reg) (v : DWord) : (c.setPair r v).ansPkg = c.ansPkg := rfl
@[simp] theorem Ctx.setPair_full (c : Ctx) (r : Reg) (v : DWord) : (c.setPair r v).full = c.full := rfl
@[simp] theorem Ctx.setPair_stop (c : Ctx) (r : Reg) (v : DWord) : (c.setPair r v).stop = c.stop := rfl
@[simp] theorem Ctx.setPair_last (c : Ctx) (r : Reg) (v : DWord) : (c.setPair r v).last = c.last := rfl
@[simp] theorem Ctx.setPair_pdbg (c : Ctx) (r : Reg) (v : DWord) : (c.setPair r v).pdbg = c.pdbg := rfl
@[simp] theorem Ctx.setPair_ptrap (c : Ctx) (r : Reg) (v : DWord) : (c.setPair r v).ptrap = c.ptrap := rfl
@[simp] theorem Ctx.setPair_streams (c : Ctx) (r : Reg) (v : DWord) : (c.setPair r v).streams = c.streams := rfl
@[simp] theorem Ctx.setPair_convoy (c : Ctx) (r : Reg) (v : DWord) : (c.setPair r v).convoy = c.convoy := rfl
@[simp] theorem Ctx.setPair_convoyWait (c : Ctx) (r : Reg) (v : DWord) : (c.setPair r v).convoyWait = c.convoyWait := rfl
@[simp] theorem Ctx.setPair_unready (c : Ctx) (r : Reg) (v : DWord) : (c.setPair r v).unready = c.unready := rfl
@[simp] theorem Ctx.setPair_ibits (c : Ctx) (r : Reg) (v : DWord) : (c.setPair r v).ibits = c.ibits := rfl
@[simp] theorem Ctx.setPair_ilen (c : Ctx) (r : Reg) (v : DWord) : (c.setPair r v).ilen = c.ilen := rfl
@[simp] theorem Ctx.setPair_fwded (c : Ctx) (r : Reg) (v : DWord) : (c.setPair r v).fwded = c.fwded := rfl
@[simp] theorem Ctx.setPair_spop (c : Ctx) (r : Reg) (v : DWord) : (c.setPair r v).spop = c.spop := rfl
@[simp] theorem Ctx.setPair_seen (c : Ctx) (r : Reg) (v : DWord) : (c.setPair r v).seen = c.seen := rfl
@[simp] theorem Ctx.setPair_sub (c : Ctx) (r : Reg) (v : DWord) : (c.setPair r v).sub = c.sub := rfl
@[simp] theorem Ctx.setPair_skips (c : Ctx) (r : Reg) (v : DWord) : (c.setPair r v).skips = c.skips := rfl

@[simp] theorem Ctx.completed_w (c : Ctx) (npc : DWord) : (c.completed npc false).w = c.w := rfl
@[simp] theorem Ctx.completed_m (c : Ctx) (npc : DWord) : (c.completed npc false).m = c.m := rfl
@[simp] theorem Ctx.completed_tvec (c : Ctx) (npc : DWord) : (c.completed npc false).tvec = c.tvec := rfl
@[simp] theorem Ctx.completed_xpc (c : Ctx) (npc : DWord) : (c.completed npc false).xpc = c.xpc := rfl
@[simp] theorem Ctx.completed_xaddr (c : Ctx) (npc : DWord) : (c.completed npc false).xaddr = c.xaddr := rfl
@[simp] theorem Ctx.completed_xcause (c : Ctx) (npc : DWord) : (c.completed npc false).xcause = c.xcause := rfl
@[simp] theorem Ctx.completed_xinfo (c : Ctx) (npc : DWord) : (c.completed npc false).xinfo = c.xinfo := rfl
@[simp] theorem Ctx.completed_lcnt (c : Ctx) (npc : DWord) : (c.completed npc false).lcnt = c.lcnt := rfl
@[simp] theorem Ctx.completed_ls (c : Ctx) (npc : DWord) : (c.completed npc false).ls = c.ls := rfl
@[simp] theorem Ctx.completed_le (c : Ctx) (npc : DWord) : (c.completed npc false).le = c.le := rfl
@[simp] theorem Ctx.completed_depth (c : Ctx) (npc : DWord) : (c.completed npc false).depth = c.depth := rfl
@[simp] theorem Ctx.completed_rmode (c : Ctx) (npc : DWord) : (c.completed npc false).rmode = c.rmode := rfl
@[simp] theorem Ctx.completed_seed (c : Ctx) (npc : DWord) : (c.completed npc false).seed = c.seed := rfl
@[simp] theorem Ctx.completed_bpa (c : Ctx) (npc : DWord) : (c.completed npc false).bpa = c.bpa := rfl
@[simp] theorem Ctx.completed_team (c : Ctx) (npc : DWord) : (c.completed npc false).team = c.team := rfl
@[simp] theorem Ctx.completed_teamn (c : Ctx) (npc : DWord) : (c.completed npc false).teamn = c.teamn := rfl
@[simp] theorem Ctx.completed_lnch (c : Ctx) (npc : DWord) : (c.completed npc false).lnch = c.lnch := rfl
@[simp] theorem Ctx.completed_capt (c : Ctx) (npc : DWord) : (c.completed npc false).capt = c.capt := rfl
@[simp] theorem Ctx.completed_leasest (c : Ctx) (npc : DWord) : (c.completed npc false).leasest = c.leasest := rfl
@[simp] theorem Ctx.completed_intrap (c : Ctx) (npc : DWord) : (c.completed npc false).intrap = c.intrap := rfl
@[simp] theorem Ctx.completed_slot (c : Ctx) (npc : DWord) : (c.completed npc false).slot = c.slot := rfl
@[simp] theorem Ctx.completed_aspc (c : Ctx) (npc : DWord) : (c.completed npc false).aspc = c.aspc := rfl
@[simp] theorem Ctx.completed_cbase (c : Ctx) (npc : DWord) : (c.completed npc false).cbase = c.cbase := rfl
@[simp] theorem Ctx.completed_cpages (c : Ctx) (npc : DWord) : (c.completed npc false).cpages = c.cpages := rfl
@[simp] theorem Ctx.completed_sys (c : Ctx) (npc : DWord) : (c.completed npc false).sys = c.sys := rfl
@[simp] theorem Ctx.completed_debug (c : Ctx) (npc : DWord) : (c.completed npc false).debug = c.debug := rfl
@[simp] theorem Ctx.completed_basting (c : Ctx) (npc : DWord) : (c.completed npc false).basting = c.basting := rfl
@[simp] theorem Ctx.completed_pend (c : Ctx) (npc : DWord) : (c.completed npc false).pend = c.pend := rfl
@[simp] theorem Ctx.completed_ans (c : Ctx) (npc : DWord) : (c.completed npc false).ans = c.ans := rfl
@[simp] theorem Ctx.completed_ansId (c : Ctx) (npc : DWord) : (c.completed npc false).ansId = c.ansId := rfl
@[simp] theorem Ctx.completed_enqts (c : Ctx) (npc : DWord) : (c.completed npc false).enqts = c.enqts := rfl
@[simp] theorem Ctx.completed_ansPkg (c : Ctx) (npc : DWord) : (c.completed npc false).ansPkg = c.ansPkg := rfl
@[simp] theorem Ctx.completed_full (c : Ctx) (npc : DWord) : (c.completed npc false).full = c.full := rfl
@[simp] theorem Ctx.completed_stop (c : Ctx) (npc : DWord) : (c.completed npc false).stop = (c.stop || c.last) := rfl
@[simp] theorem Ctx.completed_last (c : Ctx) (npc : DWord) : (c.completed npc false).last = false := rfl
@[simp] theorem Ctx.completed_pdbg (c : Ctx) (npc : DWord) : (c.completed npc false).pdbg = c.pdbg := rfl
@[simp] theorem Ctx.completed_ptrap (c : Ctx) (npc : DWord) : (c.completed npc false).ptrap = c.ptrap := rfl
@[simp] theorem Ctx.completed_streams (c : Ctx) (npc : DWord) : (c.completed npc false).streams = c.streams := rfl
@[simp] theorem Ctx.completed_convoy (c : Ctx) (npc : DWord) : (c.completed npc false).convoy = c.convoy := rfl
@[simp] theorem Ctx.completed_convoyWait (c : Ctx) (npc : DWord) : (c.completed npc false).convoyWait = c.convoyWait := rfl
@[simp] theorem Ctx.completed_unready (c : Ctx) (npc : DWord) : (c.completed npc false).unready = c.unready := rfl
@[simp] theorem Ctx.completed_ibits (c : Ctx) (npc : DWord) : (c.completed npc false).ibits = c.ibits := rfl
@[simp] theorem Ctx.completed_ilen (c : Ctx) (npc : DWord) : (c.completed npc false).ilen = c.ilen := rfl
@[simp] theorem Ctx.completed_fwded (c : Ctx) (npc : DWord) : (c.completed npc false).fwded = c.fwded := rfl
@[simp] theorem Ctx.completed_spop (c : Ctx) (npc : DWord) : (c.completed npc false).spop = c.spop := rfl
@[simp] theorem Ctx.completed_seen (c : Ctx) (npc : DWord) : (c.completed npc false).seen = c.seen := rfl
@[simp] theorem Ctx.completed_sub (c : Ctx) (npc : DWord) : (c.completed npc false).sub = c.sub := rfl
@[simp] theorem Ctx.completed_skips (c : Ctx) (npc : DWord) : (c.completed npc false).skips = c.skips := rfl

@[simp] theorem Ctx.returned_w (c : Ctx) : (c.returned).w = c.w := rfl
@[simp] theorem Ctx.returned_m (c : Ctx) : (c.returned).m = c.m := rfl
@[simp] theorem Ctx.returned_tvec (c : Ctx) : (c.returned).tvec = c.tvec := rfl
@[simp] theorem Ctx.returned_xpc (c : Ctx) : (c.returned).xpc = c.xpc := rfl
@[simp] theorem Ctx.returned_xaddr (c : Ctx) : (c.returned).xaddr = c.xaddr := rfl
@[simp] theorem Ctx.returned_xcause (c : Ctx) : (c.returned).xcause = c.xcause := rfl
@[simp] theorem Ctx.returned_xinfo (c : Ctx) : (c.returned).xinfo = c.xinfo := rfl
@[simp] theorem Ctx.returned_lcnt (c : Ctx) : (c.returned).lcnt = c.lcnt := rfl
@[simp] theorem Ctx.returned_ls (c : Ctx) : (c.returned).ls = c.ls := rfl
@[simp] theorem Ctx.returned_le (c : Ctx) : (c.returned).le = c.le := rfl
@[simp] theorem Ctx.returned_depth (c : Ctx) : (c.returned).depth = c.depth := rfl
@[simp] theorem Ctx.returned_rmode (c : Ctx) : (c.returned).rmode = c.rmode := rfl
@[simp] theorem Ctx.returned_seed (c : Ctx) : (c.returned).seed = c.seed := rfl
@[simp] theorem Ctx.returned_bpa (c : Ctx) : (c.returned).bpa = c.bpa := rfl
@[simp] theorem Ctx.returned_team (c : Ctx) : (c.returned).team = c.team := rfl
@[simp] theorem Ctx.returned_teamn (c : Ctx) : (c.returned).teamn = c.teamn := rfl
@[simp] theorem Ctx.returned_lnch (c : Ctx) : (c.returned).lnch = c.lnch := rfl
@[simp] theorem Ctx.returned_capt (c : Ctx) : (c.returned).capt = c.capt := rfl
@[simp] theorem Ctx.returned_leasest (c : Ctx) : (c.returned).leasest = c.leasest := rfl
@[simp] theorem Ctx.returned_slot (c : Ctx) : (c.returned).slot = c.slot := rfl
@[simp] theorem Ctx.returned_aspc (c : Ctx) : (c.returned).aspc = c.aspc := rfl
@[simp] theorem Ctx.returned_cbase (c : Ctx) : (c.returned).cbase = c.cbase := rfl
@[simp] theorem Ctx.returned_cpages (c : Ctx) : (c.returned).cpages = c.cpages := rfl
@[simp] theorem Ctx.returned_sys (c : Ctx) : (c.returned).sys = c.sys := rfl
@[simp] theorem Ctx.returned_debug (c : Ctx) : (c.returned).debug = c.debug := rfl
@[simp] theorem Ctx.returned_basting (c : Ctx) : (c.returned).basting = c.basting := rfl
@[simp] theorem Ctx.returned_pend (c : Ctx) : (c.returned).pend = c.pend := rfl
@[simp] theorem Ctx.returned_ans (c : Ctx) : (c.returned).ans = c.ans := rfl
@[simp] theorem Ctx.returned_ansId (c : Ctx) : (c.returned).ansId = c.ansId := rfl
@[simp] theorem Ctx.returned_enqts (c : Ctx) : (c.returned).enqts = c.enqts := rfl
@[simp] theorem Ctx.returned_ansPkg (c : Ctx) : (c.returned).ansPkg = c.ansPkg := rfl
@[simp] theorem Ctx.returned_full (c : Ctx) : (c.returned).full = c.full := rfl
@[simp] theorem Ctx.returned_stop (c : Ctx) : (c.returned).stop = c.stop := rfl
@[simp] theorem Ctx.returned_last (c : Ctx) : (c.returned).last = c.last := rfl
@[simp] theorem Ctx.returned_pdbg (c : Ctx) : (c.returned).pdbg = c.pdbg := rfl
@[simp] theorem Ctx.returned_ptrap (c : Ctx) : (c.returned).ptrap = c.ptrap := rfl
@[simp] theorem Ctx.returned_streams (c : Ctx) : (c.returned).streams = c.streams := rfl
@[simp] theorem Ctx.returned_convoy (c : Ctx) : (c.returned).convoy = c.convoy := rfl
@[simp] theorem Ctx.returned_convoyWait (c : Ctx) : (c.returned).convoyWait = c.convoyWait := rfl
@[simp] theorem Ctx.returned_unready (c : Ctx) : (c.returned).unready = c.unready := rfl
@[simp] theorem Ctx.returned_ibits (c : Ctx) : (c.returned).ibits = c.ibits := rfl
@[simp] theorem Ctx.returned_ilen (c : Ctx) : (c.returned).ilen = c.ilen := rfl
@[simp] theorem Ctx.returned_fwded (c : Ctx) : (c.returned).fwded = c.fwded := rfl
@[simp] theorem Ctx.returned_spop (c : Ctx) : (c.returned).spop = c.spop := rfl
@[simp] theorem Ctx.returned_seen (c : Ctx) : (c.returned).seen = c.seen := rfl
@[simp] theorem Ctx.returned_sub (c : Ctx) : (c.returned).sub = c.sub := rfl
@[simp] theorem Ctx.returned_skips (c : Ctx) : (c.returned).skips = c.skips := rfl

theorem Ctx.reg_setReg (c : Ctx) (r q : Reg) (v : Word) : (c.setReg r v).reg q = if r = q then v else c.reg q := by
  simp only [Ctx.reg, Ctx.setReg, Vector.getElem_set, BitVec.toNat_inj]
@[simp] theorem Ctx.reg_setReg_self (c : Ctx) (r : Reg) (v : Word) : (c.setReg r v).reg r = v := by rw [Ctx.reg_setReg, if_pos rfl]
theorem Ctx.reg_setReg_ne (c : Ctx) {r q : Reg} (h : r ≠ q) (v : Word) : (c.setReg r v).reg q = c.reg q := by rw [Ctx.reg_setReg, if_neg h]

/-- Writing a group changes no field but the registers. -/
theorem Ctx.setGroup_eq (c : Ctx) (r : Reg) (l : List Word) : c.setGroup r l = { c with w := (c.setGroup r l).w } := by
  induction l generalizing c r with
  | nil => rfl
  | cons v vs ih =>
    simp only [Ctx.setGroup]
    rw [ih]
    rfl

/-- Writing a mask register changes no field but the masks. -/
theorem Ctx.setMask_eq (c : Ctx) (r : MReg) (v : Word) : c.setMask r v = { c with m := (c.setMask r v).m } := by
  simp only [Ctx.setMask]
  split <;> rfl

@[simp] theorem Ctx.mask_zero (c : Ctx) : c.mask 0 = 0xFFFFFFFF#32 := rfl
@[simp] theorem Ctx.setMask_w (c : Ctx) (r : MReg) (v : Word) : (c.setMask r v).w = c.w := by rw [Ctx.setMask_eq]
@[simp] theorem Ctx.setGroup_m (c : Ctx) (r : Reg) (l : List Word) : (c.setGroup r l).m = c.m := by rw [Ctx.setGroup_eq]
@[simp] theorem Ctx.setGroup_pc (c : Ctx) (r : Reg) (l : List Word) : (c.setGroup r l).pc = c.pc := by rw [Ctx.setGroup_eq]
@[simp] theorem Ctx.setMask_pc (c : Ctx) (r : MReg) (v : Word) : (c.setMask r v).pc = c.pc := by rw [Ctx.setMask_eq]
@[simp] theorem Ctx.setGroup_tvec (c : Ctx) (r : Reg) (l : List Word) : (c.setGroup r l).tvec = c.tvec := by rw [Ctx.setGroup_eq]
@[simp] theorem Ctx.setMask_tvec (c : Ctx) (r : MReg) (v : Word) : (c.setMask r v).tvec = c.tvec := by rw [Ctx.setMask_eq]
@[simp] theorem Ctx.setGroup_xpc (c : Ctx) (r : Reg) (l : List Word) : (c.setGroup r l).xpc = c.xpc := by rw [Ctx.setGroup_eq]
@[simp] theorem Ctx.setMask_xpc (c : Ctx) (r : MReg) (v : Word) : (c.setMask r v).xpc = c.xpc := by rw [Ctx.setMask_eq]
@[simp] theorem Ctx.setGroup_xaddr (c : Ctx) (r : Reg) (l : List Word) : (c.setGroup r l).xaddr = c.xaddr := by rw [Ctx.setGroup_eq]
@[simp] theorem Ctx.setMask_xaddr (c : Ctx) (r : MReg) (v : Word) : (c.setMask r v).xaddr = c.xaddr := by rw [Ctx.setMask_eq]
@[simp] theorem Ctx.setGroup_xcause (c : Ctx) (r : Reg) (l : List Word) : (c.setGroup r l).xcause = c.xcause := by rw [Ctx.setGroup_eq]
@[simp] theorem Ctx.setMask_xcause (c : Ctx) (r : MReg) (v : Word) : (c.setMask r v).xcause = c.xcause := by rw [Ctx.setMask_eq]
@[simp] theorem Ctx.setGroup_xinfo (c : Ctx) (r : Reg) (l : List Word) : (c.setGroup r l).xinfo = c.xinfo := by rw [Ctx.setGroup_eq]
@[simp] theorem Ctx.setMask_xinfo (c : Ctx) (r : MReg) (v : Word) : (c.setMask r v).xinfo = c.xinfo := by rw [Ctx.setMask_eq]
@[simp] theorem Ctx.setGroup_lcnt (c : Ctx) (r : Reg) (l : List Word) : (c.setGroup r l).lcnt = c.lcnt := by rw [Ctx.setGroup_eq]
@[simp] theorem Ctx.setMask_lcnt (c : Ctx) (r : MReg) (v : Word) : (c.setMask r v).lcnt = c.lcnt := by rw [Ctx.setMask_eq]
@[simp] theorem Ctx.setGroup_ls (c : Ctx) (r : Reg) (l : List Word) : (c.setGroup r l).ls = c.ls := by rw [Ctx.setGroup_eq]
@[simp] theorem Ctx.setMask_ls (c : Ctx) (r : MReg) (v : Word) : (c.setMask r v).ls = c.ls := by rw [Ctx.setMask_eq]
@[simp] theorem Ctx.setGroup_le (c : Ctx) (r : Reg) (l : List Word) : (c.setGroup r l).le = c.le := by rw [Ctx.setGroup_eq]
@[simp] theorem Ctx.setMask_le (c : Ctx) (r : MReg) (v : Word) : (c.setMask r v).le = c.le := by rw [Ctx.setMask_eq]
@[simp] theorem Ctx.setGroup_depth (c : Ctx) (r : Reg) (l : List Word) : (c.setGroup r l).depth = c.depth := by rw [Ctx.setGroup_eq]
@[simp] theorem Ctx.setMask_depth (c : Ctx) (r : MReg) (v : Word) : (c.setMask r v).depth = c.depth := by rw [Ctx.setMask_eq]
@[simp] theorem Ctx.setGroup_rmode (c : Ctx) (r : Reg) (l : List Word) : (c.setGroup r l).rmode = c.rmode := by rw [Ctx.setGroup_eq]
@[simp] theorem Ctx.setMask_rmode (c : Ctx) (r : MReg) (v : Word) : (c.setMask r v).rmode = c.rmode := by rw [Ctx.setMask_eq]
@[simp] theorem Ctx.setGroup_seed (c : Ctx) (r : Reg) (l : List Word) : (c.setGroup r l).seed = c.seed := by rw [Ctx.setGroup_eq]
@[simp] theorem Ctx.setMask_seed (c : Ctx) (r : MReg) (v : Word) : (c.setMask r v).seed = c.seed := by rw [Ctx.setMask_eq]
@[simp] theorem Ctx.setGroup_bpa (c : Ctx) (r : Reg) (l : List Word) : (c.setGroup r l).bpa = c.bpa := by rw [Ctx.setGroup_eq]
@[simp] theorem Ctx.setMask_bpa (c : Ctx) (r : MReg) (v : Word) : (c.setMask r v).bpa = c.bpa := by rw [Ctx.setMask_eq]
@[simp] theorem Ctx.setGroup_retc (c : Ctx) (r : Reg) (l : List Word) : (c.setGroup r l).retc = c.retc := by rw [Ctx.setGroup_eq]
@[simp] theorem Ctx.setMask_retc (c : Ctx) (r : MReg) (v : Word) : (c.setMask r v).retc = c.retc := by rw [Ctx.setMask_eq]
@[simp] theorem Ctx.setGroup_team (c : Ctx) (r : Reg) (l : List Word) : (c.setGroup r l).team = c.team := by rw [Ctx.setGroup_eq]
@[simp] theorem Ctx.setMask_team (c : Ctx) (r : MReg) (v : Word) : (c.setMask r v).team = c.team := by rw [Ctx.setMask_eq]
@[simp] theorem Ctx.setGroup_teamn (c : Ctx) (r : Reg) (l : List Word) : (c.setGroup r l).teamn = c.teamn := by rw [Ctx.setGroup_eq]
@[simp] theorem Ctx.setMask_teamn (c : Ctx) (r : MReg) (v : Word) : (c.setMask r v).teamn = c.teamn := by rw [Ctx.setMask_eq]
@[simp] theorem Ctx.setGroup_lnch (c : Ctx) (r : Reg) (l : List Word) : (c.setGroup r l).lnch = c.lnch := by rw [Ctx.setGroup_eq]
@[simp] theorem Ctx.setMask_lnch (c : Ctx) (r : MReg) (v : Word) : (c.setMask r v).lnch = c.lnch := by rw [Ctx.setMask_eq]
@[simp] theorem Ctx.setGroup_capt (c : Ctx) (r : Reg) (l : List Word) : (c.setGroup r l).capt = c.capt := by rw [Ctx.setGroup_eq]
@[simp] theorem Ctx.setMask_capt (c : Ctx) (r : MReg) (v : Word) : (c.setMask r v).capt = c.capt := by rw [Ctx.setMask_eq]
@[simp] theorem Ctx.setGroup_leasest (c : Ctx) (r : Reg) (l : List Word) : (c.setGroup r l).leasest = c.leasest := by rw [Ctx.setGroup_eq]
@[simp] theorem Ctx.setMask_leasest (c : Ctx) (r : MReg) (v : Word) : (c.setMask r v).leasest = c.leasest := by rw [Ctx.setMask_eq]
@[simp] theorem Ctx.setGroup_intrap (c : Ctx) (r : Reg) (l : List Word) : (c.setGroup r l).intrap = c.intrap := by rw [Ctx.setGroup_eq]
@[simp] theorem Ctx.setMask_intrap (c : Ctx) (r : MReg) (v : Word) : (c.setMask r v).intrap = c.intrap := by rw [Ctx.setMask_eq]
@[simp] theorem Ctx.setGroup_skipbp (c : Ctx) (r : Reg) (l : List Word) : (c.setGroup r l).skipbp = c.skipbp := by rw [Ctx.setGroup_eq]
@[simp] theorem Ctx.setMask_skipbp (c : Ctx) (r : MReg) (v : Word) : (c.setMask r v).skipbp = c.skipbp := by rw [Ctx.setMask_eq]
@[simp] theorem Ctx.setGroup_st (c : Ctx) (r : Reg) (l : List Word) : (c.setGroup r l).st = c.st := by rw [Ctx.setGroup_eq]
@[simp] theorem Ctx.setMask_st (c : Ctx) (r : MReg) (v : Word) : (c.setMask r v).st = c.st := by rw [Ctx.setMask_eq]
@[simp] theorem Ctx.setGroup_slot (c : Ctx) (r : Reg) (l : List Word) : (c.setGroup r l).slot = c.slot := by rw [Ctx.setGroup_eq]
@[simp] theorem Ctx.setMask_slot (c : Ctx) (r : MReg) (v : Word) : (c.setMask r v).slot = c.slot := by rw [Ctx.setMask_eq]
@[simp] theorem Ctx.setGroup_aspc (c : Ctx) (r : Reg) (l : List Word) : (c.setGroup r l).aspc = c.aspc := by rw [Ctx.setGroup_eq]
@[simp] theorem Ctx.setMask_aspc (c : Ctx) (r : MReg) (v : Word) : (c.setMask r v).aspc = c.aspc := by rw [Ctx.setMask_eq]
@[simp] theorem Ctx.setGroup_cbase (c : Ctx) (r : Reg) (l : List Word) : (c.setGroup r l).cbase = c.cbase := by rw [Ctx.setGroup_eq]
@[simp] theorem Ctx.setMask_cbase (c : Ctx) (r : MReg) (v : Word) : (c.setMask r v).cbase = c.cbase := by rw [Ctx.setMask_eq]
@[simp] theorem Ctx.setGroup_cpages (c : Ctx) (r : Reg) (l : List Word) : (c.setGroup r l).cpages = c.cpages := by rw [Ctx.setGroup_eq]
@[simp] theorem Ctx.setMask_cpages (c : Ctx) (r : MReg) (v : Word) : (c.setMask r v).cpages = c.cpages := by rw [Ctx.setMask_eq]
@[simp] theorem Ctx.setGroup_sys (c : Ctx) (r : Reg) (l : List Word) : (c.setGroup r l).sys = c.sys := by rw [Ctx.setGroup_eq]
@[simp] theorem Ctx.setMask_sys (c : Ctx) (r : MReg) (v : Word) : (c.setMask r v).sys = c.sys := by rw [Ctx.setMask_eq]
@[simp] theorem Ctx.setGroup_debug (c : Ctx) (r : Reg) (l : List Word) : (c.setGroup r l).debug = c.debug := by rw [Ctx.setGroup_eq]
@[simp] theorem Ctx.setMask_debug (c : Ctx) (r : MReg) (v : Word) : (c.setMask r v).debug = c.debug := by rw [Ctx.setMask_eq]
@[simp] theorem Ctx.setGroup_basting (c : Ctx) (r : Reg) (l : List Word) : (c.setGroup r l).basting = c.basting := by rw [Ctx.setGroup_eq]
@[simp] theorem Ctx.setMask_basting (c : Ctx) (r : MReg) (v : Word) : (c.setMask r v).basting = c.basting := by rw [Ctx.setMask_eq]
@[simp] theorem Ctx.setGroup_pend (c : Ctx) (r : Reg) (l : List Word) : (c.setGroup r l).pend = c.pend := by rw [Ctx.setGroup_eq]
@[simp] theorem Ctx.setMask_pend (c : Ctx) (r : MReg) (v : Word) : (c.setMask r v).pend = c.pend := by rw [Ctx.setMask_eq]
@[simp] theorem Ctx.setGroup_ans (c : Ctx) (r : Reg) (l : List Word) : (c.setGroup r l).ans = c.ans := by rw [Ctx.setGroup_eq]
@[simp] theorem Ctx.setMask_ans (c : Ctx) (r : MReg) (v : Word) : (c.setMask r v).ans = c.ans := by rw [Ctx.setMask_eq]
@[simp] theorem Ctx.setGroup_ansId (c : Ctx) (r : Reg) (l : List Word) : (c.setGroup r l).ansId = c.ansId := by rw [Ctx.setGroup_eq]
@[simp] theorem Ctx.setMask_ansId (c : Ctx) (r : MReg) (v : Word) : (c.setMask r v).ansId = c.ansId := by rw [Ctx.setMask_eq]
@[simp] theorem Ctx.setGroup_enqts (c : Ctx) (r : Reg) (l : List Word) : (c.setGroup r l).enqts = c.enqts := by rw [Ctx.setGroup_eq]
@[simp] theorem Ctx.setMask_enqts (c : Ctx) (r : MReg) (v : Word) : (c.setMask r v).enqts = c.enqts := by rw [Ctx.setMask_eq]
@[simp] theorem Ctx.setGroup_ansPkg (c : Ctx) (r : Reg) (l : List Word) : (c.setGroup r l).ansPkg = c.ansPkg := by rw [Ctx.setGroup_eq]
@[simp] theorem Ctx.setMask_ansPkg (c : Ctx) (r : MReg) (v : Word) : (c.setMask r v).ansPkg = c.ansPkg := by rw [Ctx.setMask_eq]
@[simp] theorem Ctx.setGroup_full (c : Ctx) (r : Reg) (l : List Word) : (c.setGroup r l).full = c.full := by rw [Ctx.setGroup_eq]
@[simp] theorem Ctx.setMask_full (c : Ctx) (r : MReg) (v : Word) : (c.setMask r v).full = c.full := by rw [Ctx.setMask_eq]
@[simp] theorem Ctx.setGroup_stop (c : Ctx) (r : Reg) (l : List Word) : (c.setGroup r l).stop = c.stop := by rw [Ctx.setGroup_eq]
@[simp] theorem Ctx.setMask_stop (c : Ctx) (r : MReg) (v : Word) : (c.setMask r v).stop = c.stop := by rw [Ctx.setMask_eq]
@[simp] theorem Ctx.setGroup_last (c : Ctx) (r : Reg) (l : List Word) : (c.setGroup r l).last = c.last := by rw [Ctx.setGroup_eq]
@[simp] theorem Ctx.setMask_last (c : Ctx) (r : MReg) (v : Word) : (c.setMask r v).last = c.last := by rw [Ctx.setMask_eq]
@[simp] theorem Ctx.setGroup_pdbg (c : Ctx) (r : Reg) (l : List Word) : (c.setGroup r l).pdbg = c.pdbg := by rw [Ctx.setGroup_eq]
@[simp] theorem Ctx.setMask_pdbg (c : Ctx) (r : MReg) (v : Word) : (c.setMask r v).pdbg = c.pdbg := by rw [Ctx.setMask_eq]
@[simp] theorem Ctx.setGroup_ptrap (c : Ctx) (r : Reg) (l : List Word) : (c.setGroup r l).ptrap = c.ptrap := by rw [Ctx.setGroup_eq]
@[simp] theorem Ctx.setMask_ptrap (c : Ctx) (r : MReg) (v : Word) : (c.setMask r v).ptrap = c.ptrap := by rw [Ctx.setMask_eq]
@[simp] theorem Ctx.setGroup_streams (c : Ctx) (r : Reg) (l : List Word) : (c.setGroup r l).streams = c.streams := by rw [Ctx.setGroup_eq]
@[simp] theorem Ctx.setMask_streams (c : Ctx) (r : MReg) (v : Word) : (c.setMask r v).streams = c.streams := by rw [Ctx.setMask_eq]
@[simp] theorem Ctx.setGroup_convoy (c : Ctx) (r : Reg) (l : List Word) : (c.setGroup r l).convoy = c.convoy := by rw [Ctx.setGroup_eq]
@[simp] theorem Ctx.setMask_convoy (c : Ctx) (r : MReg) (v : Word) : (c.setMask r v).convoy = c.convoy := by rw [Ctx.setMask_eq]
@[simp] theorem Ctx.setGroup_convoyWait (c : Ctx) (r : Reg) (l : List Word) : (c.setGroup r l).convoyWait = c.convoyWait := by rw [Ctx.setGroup_eq]
@[simp] theorem Ctx.setMask_convoyWait (c : Ctx) (r : MReg) (v : Word) : (c.setMask r v).convoyWait = c.convoyWait := by rw [Ctx.setMask_eq]
@[simp] theorem Ctx.setGroup_unready (c : Ctx) (r : Reg) (l : List Word) : (c.setGroup r l).unready = c.unready := by rw [Ctx.setGroup_eq]
@[simp] theorem Ctx.setMask_unready (c : Ctx) (r : MReg) (v : Word) : (c.setMask r v).unready = c.unready := by rw [Ctx.setMask_eq]
@[simp] theorem Ctx.setGroup_ibits (c : Ctx) (r : Reg) (l : List Word) : (c.setGroup r l).ibits = c.ibits := by rw [Ctx.setGroup_eq]
@[simp] theorem Ctx.setMask_ibits (c : Ctx) (r : MReg) (v : Word) : (c.setMask r v).ibits = c.ibits := by rw [Ctx.setMask_eq]
@[simp] theorem Ctx.setGroup_ilen (c : Ctx) (r : Reg) (l : List Word) : (c.setGroup r l).ilen = c.ilen := by rw [Ctx.setGroup_eq]
@[simp] theorem Ctx.setMask_ilen (c : Ctx) (r : MReg) (v : Word) : (c.setMask r v).ilen = c.ilen := by rw [Ctx.setMask_eq]
@[simp] theorem Ctx.setGroup_fwded (c : Ctx) (r : Reg) (l : List Word) : (c.setGroup r l).fwded = c.fwded := by rw [Ctx.setGroup_eq]
@[simp] theorem Ctx.setMask_fwded (c : Ctx) (r : MReg) (v : Word) : (c.setMask r v).fwded = c.fwded := by rw [Ctx.setMask_eq]
@[simp] theorem Ctx.setGroup_spop (c : Ctx) (r : Reg) (l : List Word) : (c.setGroup r l).spop = c.spop := by rw [Ctx.setGroup_eq]
@[simp] theorem Ctx.setMask_spop (c : Ctx) (r : MReg) (v : Word) : (c.setMask r v).spop = c.spop := by rw [Ctx.setMask_eq]
@[simp] theorem Ctx.setGroup_seen (c : Ctx) (r : Reg) (l : List Word) : (c.setGroup r l).seen = c.seen := by rw [Ctx.setGroup_eq]
@[simp] theorem Ctx.setMask_seen (c : Ctx) (r : MReg) (v : Word) : (c.setMask r v).seen = c.seen := by rw [Ctx.setMask_eq]
@[simp] theorem Ctx.setGroup_sub (c : Ctx) (r : Reg) (l : List Word) : (c.setGroup r l).sub = c.sub := by rw [Ctx.setGroup_eq]
@[simp] theorem Ctx.setMask_sub (c : Ctx) (r : MReg) (v : Word) : (c.setMask r v).sub = c.sub := by rw [Ctx.setMask_eq]
@[simp] theorem Ctx.setGroup_skips (c : Ctx) (r : Reg) (l : List Word) : (c.setGroup r l).skips = c.skips := by rw [Ctx.setGroup_eq]
@[simp] theorem Ctx.setMask_skips (c : Ctx) (r : MReg) (v : Word) : (c.setMask r v).skips = c.skips := by rw [Ctx.setMask_eq]

/-- A group of n registers starting at r that does not wrap leaves every register outside it alone. -/
theorem Ctx.reg_setGroup_ne (c : Ctx) (r q : Reg) (l : List Word) (hw : r.toNat + l.length ≤ 64)
    (h : q.toNat < r.toNat ∨ r.toNat + l.length ≤ q.toNat) : (c.setGroup r l).reg q = c.reg q := by
  induction l generalizing c r with
  | nil => rfl
  | cons v vs ih =>
    simp only [List.length_cons] at hw h
    simp only [Ctx.setGroup]
    have hne : r ≠ q := by rintro rfl; omega
    by_cases hv : vs = []
    · subst hv; simp only [Ctx.setGroup, Ctx.reg_setReg_ne _ hne]
    · have hl : 0 < vs.length := List.length_pos_iff.mpr hv
      have h1 : (r + 1).toNat = r.toNat + 1 := by
        rw [BitVec.toNat_add]; have : (1 : BitVec 6).toNat = 1 := rfl; rw [this]; omega
      rw [ih, Ctx.reg_setReg_ne _ hne]
      · rw [h1]; omega
      · rw [h1]; omega

/-- Register k of a group that does not wrap holds its k-th word. -/
theorem Ctx.reg_setGroup (c : Ctx) (r q : Reg) (l : List Word) (hw : r.toNat + l.length ≤ 64) (k : Nat) (hk : k < l.length)
    (hq : q.toNat = r.toNat + k) : (c.setGroup r l).reg q = l[k] := by
  induction l generalizing c r k with
  | nil => simp at hk
  | cons v vs ih =>
    simp only [List.length_cons] at hw hk
    simp only [Ctx.setGroup]
    cases k with
    | zero =>
      have hrq : r = q := by apply BitVec.eq_of_toNat_eq; omega
      subst hrq
      by_cases hv : vs = []
      · subst hv; simp [Ctx.setGroup]
      · have hl : 0 < vs.length := List.length_pos_iff.mpr hv
        have h1 : (r + 1).toNat = r.toNat + 1 := by
          rw [BitVec.toNat_add]; have : (1 : BitVec 6).toNat = 1 := rfl; rw [this]; omega
        rw [Ctx.reg_setGroup_ne]
        · simp
        · rw [h1]; omega
        · rw [h1]; omega
    | succ k =>
      have h1 : (r + 1).toNat = r.toNat + 1 := by
        rw [BitVec.toNat_add]; have : (1 : BitVec 6).toNat = 1 := rfl; rw [this]; omega
      rw [ih (k := k)]
      · simp
      · rw [h1]; omega
      · omega
      · rw [h1]; omega

@[simp] theorem Ctx.group_length (c : Ctx) (r : Reg) (n : Nat) : (c.group r n).length = n := by
  induction n generalizing r with
  | zero => rfl
  | succ n ih => simp [Ctx.group, ih]

end Sys2Proof.Machine
end

