-- ==== Sys2Proof/Laws/Dispatch.lean ====
section
/-! SUPPORT. exec of each constructor is its meaning. -/

namespace Sys2Proof.Machine

@[simp] theorem exec_add (w : Width) (d : Reg) (a : Reg) (b : Reg) (s : State) : exec (.add w d a b) s = execAdd w d a b s := rfl
@[simp] theorem exec_sub (w : Width) (d : Reg) (a : Reg) (b : Reg) (s : State) : exec (.sub w d a b) s = execSub w d a b s := rfl
@[simp] theorem exec_mul (d : Reg) (a : Reg) (b : Reg) (s : State) : exec (.mul d a b) s = execMul d a b s := rfl
@[simp] theorem exec_mulh (d : Reg) (a : Reg) (b : Reg) (s : State) : exec (.mulh d a b) s = execMulh d a b s := rfl
@[simp] theorem exec_mulhu (d : Reg) (a : Reg) (b : Reg) (s : State) : exec (.mulhu d a b) s = execMulhu d a b s := rfl
@[simp] theorem exec_div (d : Reg) (a : Reg) (b : Reg) (s : State) : exec (.div d a b) s = execDiv d a b s := rfl
@[simp] theorem exec_divu (d : Reg) (a : Reg) (b : Reg) (s : State) : exec (.divu d a b) s = execDivu d a b s := rfl
@[simp] theorem exec_rem (d : Reg) (a : Reg) (b : Reg) (s : State) : exec (.rem d a b) s = execRem d a b s := rfl
@[simp] theorem exec_remu (d : Reg) (a : Reg) (b : Reg) (s : State) : exec (.remu d a b) s = execRemu d a b s := rfl
@[simp] theorem exec_and (w : Width) (d : Reg) (a : Reg) (b : Reg) (s : State) : exec (.and w d a b) s = execAnd w d a b s := rfl
@[simp] theorem exec_or (w : Width) (d : Reg) (a : Reg) (b : Reg) (s : State) : exec (.or w d a b) s = execOr w d a b s := rfl
@[simp] theorem exec_xor (w : Width) (d : Reg) (a : Reg) (b : Reg) (s : State) : exec (.xor w d a b) s = execXor w d a b s := rfl
@[simp] theorem exec_andn (w : Width) (d : Reg) (a : Reg) (b : Reg) (s : State) : exec (.andn w d a b) s = execAndn w d a b s := rfl
@[simp] theorem exec_min (d : Reg) (a : Reg) (b : Reg) (s : State) : exec (.min d a b) s = execMin d a b s := rfl
@[simp] theorem exec_max (d : Reg) (a : Reg) (b : Reg) (s : State) : exec (.max d a b) s = execMax d a b s := rfl
@[simp] theorem exec_minu (d : Reg) (a : Reg) (b : Reg) (s : State) : exec (.minu d a b) s = execMinu d a b s := rfl
@[simp] theorem exec_maxu (d : Reg) (a : Reg) (b : Reg) (s : State) : exec (.maxu d a b) s = execMaxu d a b s := rfl
@[simp] theorem exec_shl (w : Width) (d : Reg) (a : Reg) (b : Reg) (s : State) : exec (.shl w d a b) s = execShl w d a b s := rfl
@[simp] theorem exec_shr (w : Width) (d : Reg) (a : Reg) (b : Reg) (s : State) : exec (.shr w d a b) s = execShr w d a b s := rfl
@[simp] theorem exec_sha (w : Width) (d : Reg) (a : Reg) (b : Reg) (s : State) : exec (.sha w d a b) s = execSha w d a b s := rfl
@[simp] theorem exec_rot (w : Width) (d : Reg) (a : Reg) (b : Reg) (s : State) : exec (.rot w d a b) s = execRot w d a b s := rfl
@[simp] theorem exec_clz (d : Reg) (a : Reg) (s : State) : exec (.clz d a) s = execClz d a s := rfl
@[simp] theorem exec_ctz (d : Reg) (a : Reg) (s : State) : exec (.ctz d a) s = execCtz d a s := rfl
@[simp] theorem exec_popc (d : Reg) (a : Reg) (s : State) : exec (.popc d a) s = execPopc d a s := rfl
@[simp] theorem exec_brev (d : Reg) (a : Reg) (s : State) : exec (.brev d a) s = execBrev d a s := rfl
@[simp] theorem exec_sext (w : Width) (d : Reg) (a : Reg) (n : BitVec 5) (s : State) : exec (.sext w d a n) s = execSext w d a n s := rfl
@[simp] theorem exec_zext (w : Width) (d : Reg) (a : Reg) (n : BitVec 5) (s : State) : exec (.zext w d a n) s = execZext w d a n s := rfl
@[simp] theorem exec_mov (w : Width) (d : Reg) (a : Reg) (s : State) : exec (.mov w d a) s = execMov w d a s := rfl
@[simp] theorem exec_sel (w : Width) (d : Reg) (a : Reg) (b : Reg) (s : State) : exec (.sel w d a b) s = execSel w d a b s := rfl
@[simp] theorem exec_setCc (c : Cc) (w : Width) (d : Reg) (a : Reg) (b : Reg) (s : State) : exec (.setCc c w d a b) s = execSetCc c w d a b s := rfl
@[simp] theorem exec_addi (d : Reg) (a : Reg) (i1 : BitVec 12) (s : State) : exec (.addi d a i1) s = execAddi d a i1 s := rfl
@[simp] theorem exec_andi (d : Reg) (a : Reg) (i1 : BitVec 12) (s : State) : exec (.andi d a i1) s = execAndi d a i1 s := rfl
@[simp] theorem exec_ori (d : Reg) (a : Reg) (i1 : BitVec 12) (s : State) : exec (.ori d a i1) s = execOri d a i1 s := rfl
@[simp] theorem exec_xori (d : Reg) (a : Reg) (i1 : BitVec 12) (s : State) : exec (.xori d a i1) s = execXori d a i1 s := rfl
@[simp] theorem exec_shli (d : Reg) (a : Reg) (k : BitVec 5) (s : State) : exec (.shli d a k) s = execShli d a k s := rfl
@[simp] theorem exec_shri (d : Reg) (a : Reg) (k : BitVec 5) (s : State) : exec (.shri d a k) s = execShri d a k s := rfl
@[simp] theorem exec_shai (d : Reg) (a : Reg) (k : BitVec 5) (s : State) : exec (.shai d a k) s = execShai d a k s := rfl
@[simp] theorem exec_roti (d : Reg) (a : Reg) (k : BitVec 5) (s : State) : exec (.roti d a k) s = execRoti d a k s := rfl
@[simp] theorem exec_bfx (d : Reg) (a : Reg) (p : BitVec 5) (l : BitVec 5) (s : State) : exec (.bfx d a p l) s = execBfx d a p l s := rfl
@[simp] theorem exec_bfi (d : Reg) (a : Reg) (p : BitVec 5) (l : BitVec 5) (s : State) : exec (.bfi d a p l) s = execBfi d a p l s := rfl
@[simp] theorem exec_movi (d : Reg) (i1 : BitVec 18) (s : State) : exec (.movi d i1) s = execMovi d i1 s := rfl
@[simp] theorem exec_movhi (d : Reg) (i1 : BitVec 18) (s : State) : exec (.movhi d i1) s = execMovhi d i1 s := rfl
@[simp] theorem exec_lea (d : Reg) (a : Reg) (i1 : BitVec 12) (s : State) : exec (.lea d a i1) s = execLea d a i1 s := rfl
@[simp] theorem exec_beq (a : Reg) (b : Reg) (o : BitVec 12) (s : State) : exec (.beq a b o) s = execBeq a b o s := rfl
@[simp] theorem exec_bne (a : Reg) (b : Reg) (o : BitVec 12) (s : State) : exec (.bne a b o) s = execBne a b o s := rfl
@[simp] theorem exec_blt (a : Reg) (b : Reg) (o : BitVec 12) (s : State) : exec (.blt a b o) s = execBlt a b o s := rfl
@[simp] theorem exec_bge (a : Reg) (b : Reg) (o : BitVec 12) (s : State) : exec (.bge a b o) s = execBge a b o s := rfl
@[simp] theorem exec_bltu (a : Reg) (b : Reg) (o : BitVec 12) (s : State) : exec (.bltu a b o) s = execBltu a b o s := rfl
@[simp] theorem exec_bgeu (a : Reg) (b : Reg) (o : BitVec 12) (s : State) : exec (.bgeu a b o) s = execBgeu a b o s := rfl
@[simp] theorem exec_briEq (a : Reg) (i1 : BitVec 6) (o : BitVec 12) (s : State) : exec (.briEq a i1 o) s = execBriEq a i1 o s := rfl
@[simp] theorem exec_briNe (a : Reg) (i1 : BitVec 6) (o : BitVec 12) (s : State) : exec (.briNe a i1 o) s = execBriNe a i1 o s := rfl
@[simp] theorem exec_briLt (a : Reg) (i1 : BitVec 6) (o : BitVec 12) (s : State) : exec (.briLt a i1 o) s = execBriLt a i1 o s := rfl
@[simp] theorem exec_briGe (a : Reg) (i1 : BitVec 6) (o : BitVec 12) (s : State) : exec (.briGe a i1 o) s = execBriGe a i1 o s := rfl
@[simp] theorem exec_briLtu (a : Reg) (i1 : BitVec 6) (o : BitVec 12) (s : State) : exec (.briLtu a i1 o) s = execBriLtu a i1 o s := rfl
@[simp] theorem exec_briGeu (a : Reg) (i1 : BitVec 6) (o : BitVec 12) (s : State) : exec (.briGeu a i1 o) s = execBriGeu a i1 o s := rfl
@[simp] theorem exec_j (o : BitVec 24) (s : State) : exec (.j o) s = execJ o s := rfl
@[simp] theorem exec_jl (o : BitVec 24) (s : State) : exec (.jl o) s = execJl o s := rfl
@[simp] theorem exec_jlr (d : Reg) (a : Reg) (s : State) : exec (.jlr d a) s = execJlr d a s := rfl
@[simp] theorem exec_loop (a : Reg) (o : BitVec 12) (s : State) : exec (.loop a o) s = execLoop a o s := rfl
@[simp] theorem exec_loopi (c : BitVec 12) (o : BitVec 12) (s : State) : exec (.loopi c o) s = execLoopi c o s := rfl
@[simp] theorem exec_nop (s : State) : exec .nop s = execNop s := rfl
@[simp] theorem exec_yield (s : State) : exec .yield s = execYield s := rfl
@[simp] theorem exec_halt (s : State) : exec .halt s = execHalt s := rfl
@[simp] theorem exec_lexit (s : State) : exec .lexit s = execLexit s := rfl
@[simp] theorem exec_mfs (d : Reg) (sr : SReg) (s : State) : exec (.mfs d sr) s = execMfs d sr s := rfl
@[simp] theorem exec_mts (sr : SReg) (a : Reg) (s : State) : exec (.mts sr a) s = execMts sr a s := rfl
@[simp] theorem exec_trap (c : BitVec 6) (s : State) : exec (.trap c) s = execTrap c s := rfl
@[simp] theorem exec_rft (s : State) : exec .rft s = execRft s := rfl
@[simp] theorem exec_bkpt (s : State) : exec .bkpt s = execBkpt s := rfl
@[simp] theorem exec_svc (n : Reg) (s : State) : exec (.svc n) s = execSvc n s := rfl
@[simp] theorem exec_ldbH (o : LdOrd) (d : Reg) (a : Reg) (i1 : BitVec 10) (s : State) : exec (.ldbH o d a i1) s = execLdbH o d a i1 s := rfl
@[simp] theorem exec_ldbuH (o : LdOrd) (d : Reg) (a : Reg) (i1 : BitVec 10) (s : State) : exec (.ldbuH o d a i1) s = execLdbuH o d a i1 s := rfl
@[simp] theorem exec_ldhH (o : LdOrd) (d : Reg) (a : Reg) (i1 : BitVec 10) (s : State) : exec (.ldhH o d a i1) s = execLdhH o d a i1 s := rfl
@[simp] theorem exec_ldhuH (o : LdOrd) (d : Reg) (a : Reg) (i1 : BitVec 10) (s : State) : exec (.ldhuH o d a i1) s = execLdhuH o d a i1 s := rfl
@[simp] theorem exec_ldwH (o : LdOrd) (d : Reg) (a : Reg) (i1 : BitVec 10) (s : State) : exec (.ldwH o d a i1) s = execLdwH o d a i1 s := rfl
@[simp] theorem exec_lddH (o : LdOrd) (d : Reg) (a : Reg) (i1 : BitVec 10) (s : State) : exec (.lddH o d a i1) s = execLddH o d a i1 s := rfl
@[simp] theorem exec_ldqH (o : LdOrd) (d : Reg) (a : Reg) (i1 : BitVec 10) (s : State) : exec (.ldqH o d a i1) s = execLdqH o d a i1 s := rfl
@[simp] theorem exec_ldoH (o : LdOrd) (d : Reg) (a : Reg) (i1 : BitVec 10) (s : State) : exec (.ldoH o d a i1) s = execLdoH o d a i1 s := rfl
@[simp] theorem exec_ldbG (o : LdOrd) (d : Reg) (a : Reg) (i1 : BitVec 10) (s : State) : exec (.ldbG o d a i1) s = execLdbG o d a i1 s := rfl
@[simp] theorem exec_ldbuG (o : LdOrd) (d : Reg) (a : Reg) (i1 : BitVec 10) (s : State) : exec (.ldbuG o d a i1) s = execLdbuG o d a i1 s := rfl
@[simp] theorem exec_ldhG (o : LdOrd) (d : Reg) (a : Reg) (i1 : BitVec 10) (s : State) : exec (.ldhG o d a i1) s = execLdhG o d a i1 s := rfl
@[simp] theorem exec_ldhuG (o : LdOrd) (d : Reg) (a : Reg) (i1 : BitVec 10) (s : State) : exec (.ldhuG o d a i1) s = execLdhuG o d a i1 s := rfl
@[simp] theorem exec_ldwG (o : LdOrd) (d : Reg) (a : Reg) (i1 : BitVec 10) (s : State) : exec (.ldwG o d a i1) s = execLdwG o d a i1 s := rfl
@[simp] theorem exec_lddG (o : LdOrd) (d : Reg) (a : Reg) (i1 : BitVec 10) (s : State) : exec (.lddG o d a i1) s = execLddG o d a i1 s := rfl
@[simp] theorem exec_ldqG (o : LdOrd) (d : Reg) (a : Reg) (i1 : BitVec 10) (s : State) : exec (.ldqG o d a i1) s = execLdqG o d a i1 s := rfl
@[simp] theorem exec_ldoG (o : LdOrd) (d : Reg) (a : Reg) (i1 : BitVec 10) (s : State) : exec (.ldoG o d a i1) s = execLdoG o d a i1 s := rfl
@[simp] theorem exec_stb (o : StOrd) (d : Reg) (a : Reg) (i1 : BitVec 10) (s : State) : exec (.stb o d a i1) s = execStb o d a i1 s := rfl
@[simp] theorem exec_sth (o : StOrd) (d : Reg) (a : Reg) (i1 : BitVec 10) (s : State) : exec (.sth o d a i1) s = execSth o d a i1 s := rfl
@[simp] theorem exec_stw (o : StOrd) (d : Reg) (a : Reg) (i1 : BitVec 10) (s : State) : exec (.stw o d a i1) s = execStw o d a i1 s := rfl
@[simp] theorem exec_std (o : StOrd) (d : Reg) (a : Reg) (i1 : BitVec 10) (s : State) : exec (.std o d a i1) s = execStd o d a i1 s := rfl
@[simp] theorem exec_stq (o : StOrd) (d : Reg) (a : Reg) (i1 : BitVec 10) (s : State) : exec (.stq o d a i1) s = execStq o d a i1 s := rfl
@[simp] theorem exec_sto (o : StOrd) (d : Reg) (a : Reg) (i1 : BitVec 10) (s : State) : exec (.sto o d a i1) s = execSto o d a i1 s := rfl
@[simp] theorem exec_ldl (w : Width) (d : Reg) (a : Reg) (i1 : BitVec 10) (s : State) : exec (.ldl w d a i1) s = execLdl w d a i1 s := rfl
@[simp] theorem exec_stl (w : Width) (d : Reg) (a : Reg) (i1 : BitVec 10) (s : State) : exec (.stl w d a i1) s = execStl w d a i1 s := rfl
@[simp] theorem exec_atomAdd (o : AtOrd) (w : Width) (d : Reg) (a : Reg) (b : Reg) (s : State) : exec (.atomAdd o w d a b) s = execAtomAdd o w d a b s := rfl
@[simp] theorem exec_atomMin (o : AtOrd) (w : Width) (d : Reg) (a : Reg) (b : Reg) (s : State) : exec (.atomMin o w d a b) s = execAtomMin o w d a b s := rfl
@[simp] theorem exec_atomMax (o : AtOrd) (w : Width) (d : Reg) (a : Reg) (b : Reg) (s : State) : exec (.atomMax o w d a b) s = execAtomMax o w d a b s := rfl
@[simp] theorem exec_atomMinu (o : AtOrd) (w : Width) (d : Reg) (a : Reg) (b : Reg) (s : State) : exec (.atomMinu o w d a b) s = execAtomMinu o w d a b s := rfl
@[simp] theorem exec_atomMaxu (o : AtOrd) (w : Width) (d : Reg) (a : Reg) (b : Reg) (s : State) : exec (.atomMaxu o w d a b) s = execAtomMaxu o w d a b s := rfl
@[simp] theorem exec_atomAnd (o : AtOrd) (w : Width) (d : Reg) (a : Reg) (b : Reg) (s : State) : exec (.atomAnd o w d a b) s = execAtomAnd o w d a b s := rfl
@[simp] theorem exec_atomOr (o : AtOrd) (w : Width) (d : Reg) (a : Reg) (b : Reg) (s : State) : exec (.atomOr o w d a b) s = execAtomOr o w d a b s := rfl
@[simp] theorem exec_atomXor (o : AtOrd) (w : Width) (d : Reg) (a : Reg) (b : Reg) (s : State) : exec (.atomXor o w d a b) s = execAtomXor o w d a b s := rfl
@[simp] theorem exec_atomSwap (o : AtOrd) (w : Width) (d : Reg) (a : Reg) (b : Reg) (s : State) : exec (.atomSwap o w d a b) s = execAtomSwap o w d a b s := rfl
@[simp] theorem exec_atomCas (o : AtOrd) (w : Width) (d : Reg) (a : Reg) (b : Reg) (s : State) : exec (.atomCas o w d a b) s = execAtomCas o w d a b s := rfl
@[simp] theorem exec_fence (sc : Scope) (s : State) : exec (.fence sc) s = execFence sc s := rfl
@[simp] theorem exec_fenceP (a : Path) (b : Path) (s : State) : exec (.fenceP a b) s = execFenceP a b s := rfl
@[simp] theorem exec_rwb (a : Reg) (b : Reg) (s : State) : exec (.rwb a b) s = execRwb a b s := rfl
@[simp] theorem exec_rinv (a : Reg) (b : Reg) (s : State) : exec (.rinv a b) s = execRinv a b s := rfl
@[simp] theorem exec_clean (a : Reg) (b : Reg) (s : State) : exec (.clean a b) s = execClean a b s := rfl
@[simp] theorem exec_pull (a : Reg) (b : Reg) (t : Tag) (s : State) : exec (.pull a b t) s = execPull a b t s := rfl
@[simp] theorem exec_pulld (a : Reg) (b : Reg) (t : Tag) (s : State) : exec (.pulld a b t) s = execPulld a b t s := rfl
@[simp] theorem exec_pullc (a : Reg) (b : Reg) (t : Tag) (s : State) : exec (.pullc a b t) s = execPullc a b t s := rfl
@[simp] theorem exec_stream (b : Reg) (p : Reg) (t : Tag) (s : State) : exec (.stream b p t) s = execStream b p t s := rfl
@[simp] theorem exec_tagwaitAny (d : Reg) (a : Reg) (s : State) : exec (.tagwaitAny d a) s = execTagwaitAny d a s := rfl
@[simp] theorem exec_tagwaitAll (a : Reg) (s : State) : exec (.tagwaitAll a) s = execTagwaitAll a s := rfl
@[simp] theorem exec_tagff (d : Reg) (a : Reg) (s : State) : exec (.tagff d a) s = execTagff d a s := rfl
@[simp] theorem exec_tagclr (a : Reg) (s : State) : exec (.tagclr a) s = execTagclr a s := rfl
@[simp] theorem exec_tagtst (d : Reg) (t : Tag) (s : State) : exec (.tagtst d t) s = execTagtst d t s := rfl
@[simp] theorem exec_sclose (a : Reg) (s : State) : exec (.sclose a) s = execSclose a s := rfl
@[simp] theorem exec_mma (a : Reg) (b : Reg) (t : Tag) (s : State) : exec (.mma a b t) s = execMma a b t s := rfl
@[simp] theorem exec_mmas (a : Reg) (b : Reg) (t : Tag) (s : State) : exec (.mmas a b t) s = execMmas a b t s := rfl
@[simp] theorem exec_msend (a : Reg) (b : Reg) (t : Tag) (s : State) : exec (.msend a b t) s = execMsend a b t s := rfl
@[simp] theorem exec_mdrain (a : Reg) (t : Tag) (s : State) : exec (.mdrain a t) s = execMdrain a t s := rfl
@[simp] theorem exec_mzero (a : Reg) (t : Tag) (s : State) : exec (.mzero a t) s = execMzero a t s := rfl
@[simp] theorem exec_plane (b : Reg) (sr_ : Reg) (s : State) : exec (.plane b sr_) s = execPlane b sr_ s := rfl
@[simp] theorem exec_tidset (a : Reg) (b : Reg) (s : State) : exec (.tidset a b) s = execTidset a b s := rfl
@[simp] theorem exec_tidclr (a : Reg) (s : State) : exec (.tidclr a) s = execTidclr a s := rfl
@[simp] theorem exec_pub (a : Reg) (b : Reg) (s : State) : exec (.pub a b) s = execPub a b s := rfl
@[simp] theorem exec_pubi (a : Reg) (i1 : BitVec 12) (s : State) : exec (.pubi a i1) s = execPubi a i1 s := rfl
@[simp] theorem exec_unwatch (d : Reg) (t : Tag) (s : State) : exec (.unwatch d t) s = execUnwatch d t s := rfl
@[simp] theorem exec_bar (a : Reg) (s : State) : exec (.bar a) s = execBar a s := rfl
@[simp] theorem exec_bara (d : Reg) (a : Reg) (s : State) : exec (.bara d a) s = execBara d a s := rfl
@[simp] theorem exec_barw (a : Reg) (b : Reg) (s : State) : exec (.barw a b) s = execBarw a b s := rfl
@[simp] theorem exec_convoy (m : Reg) (s : State) : exec (.convoy m) s = execConvoy m s := rfl
@[simp] theorem exec_cjoin (s : State) : exec .cjoin s = execCjoin s := rfl
@[simp] theorem exec_cleave (s : State) : exec .cleave s = execCleave s := rfl
@[simp] theorem exec_watch (a : Reg) (t : Tag) (s : State) : exec (.watch a t) s = execWatch a t s := rfl
@[simp] theorem exec_send (sr_ : Reg) (t : Reg) (s : State) : exec (.send sr_ t) s = execSend sr_ t s := rfl
@[simp] theorem exec_sendt (d : Reg) (sr_ : Reg) (t : Reg) (s : State) : exec (.sendt d sr_ t) s = execSendt d sr_ t s := rfl
@[simp] theorem exec_recv (d : Reg) (s : State) : exec (.recv d) s = execRecv d s := rfl
@[simp] theorem exec_recvt (d : Reg) (sr_ : Reg) (s : State) : exec (.recvt d sr_) s = execRecvt d sr_ s := rfl
@[simp] theorem exec_enq (sr_ : Reg) (q : Reg) (s : State) : exec (.enq sr_ q) s = execEnq sr_ q s := rfl
@[simp] theorem exec_enqt (d : Reg) (sr_ : Reg) (q : Reg) (s : State) : exec (.enqt d sr_ q) s = execEnqt d sr_ q s := rfl
@[simp] theorem exec_lease (a : Reg) (t : Tag) (s : State) : exec (.lease a t) s = execLease a t s := rfl
@[simp] theorem exec_coll (a : Reg) (t : Tag) (s : State) : exec (.coll a t) s = execColl a t s := rfl
@[simp] theorem exec_leaseq (d : Reg) (p : Reg) (s : State) : exec (.leaseq d p) s = execLeaseq d p s := rfl
@[simp] theorem exec_leaserel (d : Reg) (p : Reg) (n : Reg) (s : State) : exec (.leaserel d p n) s = execLeaserel d p n s := rfl
@[simp] theorem exec_deadq (d : Reg) (p : Reg) (s : State) : exec (.deadq d p) s = execDeadq d p s := rfl
@[simp] theorem exec_vadd (t : Ty) (r : Rc) (d : Oct) (a : Oct) (b : Oct) (m : MReg) (s : State) : exec (.vadd t r d a b m) s = execVadd t r d a b m s := rfl
@[simp] theorem exec_vsub (t : Ty) (r : Rc) (d : Oct) (a : Oct) (b : Oct) (m : MReg) (s : State) : exec (.vsub t r d a b m) s = execVsub t r d a b m s := rfl
@[simp] theorem exec_vmul (t : Ty) (r : Rc) (d : Oct) (a : Oct) (b : Oct) (m : MReg) (s : State) : exec (.vmul t r d a b m) s = execVmul t r d a b m s := rfl
@[simp] theorem exec_vfma (t : Ty) (r : Rc) (d : Oct) (a : Oct) (b : Oct) (m : MReg) (s : State) : exec (.vfma t r d a b m) s = execVfma t r d a b m s := rfl
@[simp] theorem exec_vfms (t : Ty) (r : Rc) (d : Oct) (a : Oct) (b : Oct) (m : MReg) (s : State) : exec (.vfms t r d a b m) s = execVfms t r d a b m s := rfl
@[simp] theorem exec_vfnma (t : Ty) (r : Rc) (d : Oct) (a : Oct) (b : Oct) (m : MReg) (s : State) : exec (.vfnma t r d a b m) s = execVfnma t r d a b m s := rfl
@[simp] theorem exec_vmax (t : Ty) (d : Oct) (a : Oct) (b : Oct) (m : MReg) (s : State) : exec (.vmax t d a b m) s = execVmax t d a b m s := rfl
@[simp] theorem exec_vmin (t : Ty) (d : Oct) (a : Oct) (b : Oct) (m : MReg) (s : State) : exec (.vmin t d a b m) s = execVmin t d a b m s := rfl
@[simp] theorem exec_vabs (t : Ty) (d : Oct) (a : Oct) (m : MReg) (s : State) : exec (.vabs t d a m) s = execVabs t d a m s := rfl
@[simp] theorem exec_vneg (t : Ty) (d : Oct) (a : Oct) (m : MReg) (s : State) : exec (.vneg t d a m) s = execVneg t d a m s := rfl
@[simp] theorem exec_vdot (t : Ty) (r : Rc) (d : Oct) (a : Oct) (b : Oct) (m : MReg) (s : State) : exec (.vdot t r d a b m) s = execVdot t r d a b m s := rfl
@[simp] theorem exec_vrcp (t : Ty) (r : Rc) (d : Oct) (a : Oct) (m : MReg) (s : State) : exec (.vrcp t r d a m) s = execVrcp t r d a m s := rfl
@[simp] theorem exec_vrsq (t : Ty) (r : Rc) (d : Oct) (a : Oct) (m : MReg) (s : State) : exec (.vrsq t r d a m) s = execVrsq t r d a m s := rfl
@[simp] theorem exec_vexp2 (t : Ty) (r : Rc) (d : Oct) (a : Oct) (m : MReg) (s : State) : exec (.vexp2 t r d a m) s = execVexp2 t r d a m s := rfl
@[simp] theorem exec_vcvt (t : Ty) (st : Ty) (r : Rc) (d : Oct) (a : Oct) (m : MReg) (s : State) : exec (.vcvt t st r d a m) s = execVcvt t st r d a m s := rfl
@[simp] theorem exec_vcvtw (t : Ty) (st : Ty) (d : Oct) (a : Oct) (m : MReg) (s : State) : exec (.vcvtw t st d a m) s = execVcvtw t st d a m s := rfl
@[simp] theorem exec_vcvtn (t : Ty) (st : Ty) (r : Rc) (d : Oct) (a : Oct) (m : MReg) (s : State) : exec (.vcvtn t st r d a m) s = execVcvtn t st r d a m s := rfl
@[simp] theorem exec_vqnt (st : Ty) (d : Oct) (a : Oct) (s : State) : exec (.vqnt st d a) s = execVqnt st d a s := rfl
@[simp] theorem exec_vdq (t : Ty) (r : Rc) (d : Oct) (a : Oct) (m : MReg) (s : State) : exec (.vdq t r d a m) s = execVdq t r d a m s := rfl
@[simp] theorem exec_vcmpCc (c : VCond) (t : Ty) (d : MReg) (a : Oct) (b : Oct) (m : MReg) (s : State) : exec (.vcmpCc c t d a b m) s = execVcmpCc c t d a b m s := rfl
@[simp] theorem exec_vsel (t : Ty) (d : Oct) (a : Oct) (b : Oct) (m : MReg) (s : State) : exec (.vsel t d a b m) s = execVsel t d a b m s := rfl
@[simp] theorem exec_vperm (t : Ty) (d : Oct) (a : Oct) (b : Oct) (m : MReg) (s : State) : exec (.vperm t d a b m) s = execVperm t d a b m s := rfl
@[simp] theorem exec_vbcast (t : Ty) (d : Oct) (sr_ : Reg) (m : MReg) (s : State) : exec (.vbcast t d sr_ m) s = execVbcast t d sr_ m s := rfl
@[simp] theorem exec_vins (t : Ty) (d : Oct) (sr_ : Reg) (idx : BitVec 5) (s : State) : exec (.vins t d sr_ idx) s = execVins t d sr_ idx s := rfl
@[simp] theorem exec_vext (t : Ty) (d : Reg) (v : Oct) (idx : BitVec 5) (s : State) : exec (.vext t d v idx) s = execVext t d v idx s := rfl
@[simp] theorem exec_viota (t : Ty) (d : Oct) (m : MReg) (s : State) : exec (.viota t d m) s = execViota t d m s := rfl
@[simp] theorem exec_vredSum (t : Ty) (r : Rc) (d : Oct) (a : Oct) (m : MReg) (s : State) : exec (.vredSum t r d a m) s = execVredSum t r d a m s := rfl
@[simp] theorem exec_vredMax (t : Ty) (d : Oct) (a : Oct) (m : MReg) (s : State) : exec (.vredMax t d a m) s = execVredMax t d a m s := rfl
@[simp] theorem exec_vredMin (t : Ty) (d : Oct) (a : Oct) (m : MReg) (s : State) : exec (.vredMin t d a m) s = execVredMin t d a m s := rfl
@[simp] theorem exec_vtbl (t : Ty) (r : Rc) (d : Oct) (a : Oct) (slot : BitVec 2) (m : MReg) (s : State) : exec (.vtbl t r d a slot m) s = execVtbl t r d a slot m s := rfl
@[simp] theorem exec_vtbld (slot : BitVec 2) (sr_ : Reg) (s : State) : exec (.vtbld slot sr_) s = execVtbld slot sr_ s := rfl
@[simp] theorem exec_mand (d : MReg) (a : MReg) (b : MReg) (s : State) : exec (.mand d a b) s = execMand d a b s := rfl
@[simp] theorem exec_mor (d : MReg) (a : MReg) (b : MReg) (s : State) : exec (.mor d a b) s = execMor d a b s := rfl
@[simp] theorem exec_mxor (d : MReg) (a : MReg) (b : MReg) (s : State) : exec (.mxor d a b) s = execMxor d a b s := rfl
@[simp] theorem exec_mnot (d : MReg) (a : MReg) (s : State) : exec (.mnot d a) s = execMnot d a s := rfl
@[simp] theorem exec_mpop (d : Reg) (a : MReg) (s : State) : exec (.mpop d a) s = execMpop d a s := rfl
@[simp] theorem exec_addi16Pos (d : Reg) (i1 : BitVec 5) (s : State) : exec (.addi16Pos d i1) s = execAddi16Pos d i1 s := rfl
@[simp] theorem exec_add16 (d : Reg) (sr_ : BitVec 5) (s : State) : exec (.add16 d sr_) s = execAdd16 d sr_ s := rfl
@[simp] theorem exec_sub16 (d : Reg) (sr_ : BitVec 5) (s : State) : exec (.sub16 d sr_) s = execSub16 d sr_ s := rfl
@[simp] theorem exec_and16 (d : Reg) (sr_ : BitVec 5) (s : State) : exec (.and16 d sr_) s = execAnd16 d sr_ s := rfl
@[simp] theorem exec_or16 (d : Reg) (sr_ : BitVec 5) (s : State) : exec (.or16 d sr_) s = execOr16 d sr_ s := rfl
@[simp] theorem exec_xor16 (d : Reg) (sr_ : BitVec 5) (s : State) : exec (.xor16 d sr_) s = execXor16 d sr_ s := rfl
@[simp] theorem exec_mov16 (d : Reg) (sr_ : BitVec 5) (s : State) : exec (.mov16 d sr_) s = execMov16 d sr_ s := rfl
@[simp] theorem exec_movi16 (d : Reg) (i1 : BitVec 5) (s : State) : exec (.movi16 d i1) s = execMovi16 d i1 s := rfl
@[simp] theorem exec_shli16 (d : Reg) (k : BitVec 5) (s : State) : exec (.shli16 d k) s = execShli16 d k s := rfl
@[simp] theorem exec_shri16 (d : Reg) (k : BitVec 5) (s : State) : exec (.shri16 d k) s = execShri16 d k s := rfl
@[simp] theorem exec_shai16 (d : Reg) (k : BitVec 5) (s : State) : exec (.shai16 d k) s = execShai16 d k s := rfl
@[simp] theorem exec_mul16 (d : Reg) (sr_ : BitVec 5) (s : State) : exec (.mul16 d sr_) s = execMul16 d sr_ s := rfl
@[simp] theorem exec_min16 (d : Reg) (sr_ : BitVec 5) (s : State) : exec (.min16 d sr_) s = execMin16 d sr_ s := rfl
@[simp] theorem exec_max16 (d : Reg) (sr_ : BitVec 5) (s : State) : exec (.max16 d sr_) s = execMax16 d sr_ s := rfl
@[simp] theorem exec_andi16 (d : Reg) (i1 : BitVec 5) (s : State) : exec (.andi16 d i1) s = execAndi16 d i1 s := rfl
@[simp] theorem exec_addi16Neg (d : Reg) (i1 : BitVec 5) (s : State) : exec (.addi16Neg d i1) s = execAddi16Neg d i1 s := rfl
@[simp] theorem exec_powerGood (s : State) : exec .powerGood s = execPowerGood s := rfl
@[simp] theorem exec_romMeasured (s : State) : exec .romMeasured s = execRomMeasured s := rfl
@[simp] theorem exec_phaseTimeout (s : State) : exec .phaseTimeout s = execPhaseTimeout s := rfl
@[simp] theorem exec_firstSramFetch (s : State) : exec .firstSramFetch s = execFirstSramFetch s := rfl
@[simp] theorem exec_ceHash (s : State) : exec .ceHash s = execCeHash s := rfl
@[simp] theorem exec_ceVerifyEcdsa (s : State) : exec .ceVerifyEcdsa s = execCeVerifyEcdsa s := rfl
@[simp] theorem exec_ceVerifyLms (s : State) : exec .ceVerifyLms s = execCeVerifyLms s := rfl
@[simp] theorem exec_ceCommandDone (s : State) : exec .ceCommandDone s = execCeCommandDone s := rfl
@[simp] theorem exec_meExtend (s : State) : exec .meExtend s = execMeExtend s := rfl
@[simp] theorem exec_meSpdmMeas (s : State) : exec .meSpdmMeas s = execMeSpdmMeas s := rfl
@[simp] theorem exec_meCommandDone (s : State) : exec .meCommandDone s = execMeCommandDone s := rfl
@[simp] theorem exec_mctpRequest (s : State) : exec .mctpRequest s = execMctpRequest s := rfl
@[simp] theorem exec_mbTxlen (s : State) : exec .mbTxlen s = execMbTxlen s := rfl
@[simp] theorem exec_mbTransmitDone (s : State) : exec .mbTransmitDone s = execMbTransmitDone s := rfl
@[simp] theorem exec_mbRxdone (s : State) : exec .mbRxdone s = execMbRxdone s := rfl
@[simp] theorem exec_bootStatWrite (s : State) : exec .bootStatWrite s = execBootStatWrite s := rfl
@[simp] theorem exec_fuStateWrite (s : State) : exec .fuStateWrite s = execFuStateWrite s := rfl
@[simp] theorem exec_configRequest (s : State) : exec .configRequest s = execConfigRequest s := rfl
@[simp] theorem exec_trainStart (s : State) : exec .trainStart s = execTrainStart s := rfl
@[simp] theorem exec_calDone (s : State) : exec .calDone s = execCalDone s := rfl
@[simp] theorem exec_rttDone (s : State) : exec .rttDone s = execRttDone s := rfl
@[simp] theorem exec_keysDone (s : State) : exec .keysDone s = execKeysDone s := rfl
@[simp] theorem exec_keyUpdate (s : State) : exec .keyUpdate s = execKeyUpdate s := rfl
@[simp] theorem exec_ksCreate (s : State) : exec .ksCreate s = execKsCreate s := rfl
@[simp] theorem exec_ksImport (s : State) : exec .ksImport s = execKsImport s := rfl
@[simp] theorem exec_ksExport (s : State) : exec .ksExport s = execKsExport s := rfl
@[simp] theorem exec_ksOffer (s : State) : exec .ksOffer s = execKsOffer s := rfl
@[simp] theorem exec_ksAccept (s : State) : exec .ksAccept s = execKsAccept s := rfl
@[simp] theorem exec_ksAcceptDrained (s : State) : exec .ksAcceptDrained s = execKsAcceptDrained s := rfl
@[simp] theorem exec_ksErase (s : State) : exec .ksErase s = execKsErase s := rfl
@[simp] theorem exec_ksEraseDrained (s : State) : exec .ksEraseDrained s = execKsEraseDrained s := rfl
@[simp] theorem exec_ksSimport (s : State) : exec .ksSimport s = execKsSimport s := rfl
@[simp] theorem exec_ksSerase (s : State) : exec .ksSerase s = execKsSerase s := rfl
@[simp] theorem exec_ksSeraseDrained (s : State) : exec .ksSeraseDrained s = execKsSeraseDrained s := rfl
@[simp] theorem exec_clusterFnWrite (s : State) : exec .clusterFnWrite s = execClusterFnWrite s := rfl
@[simp] theorem exec_queueFnWrite (s : State) : exec .queueFnWrite s = execQueueFnWrite s := rfl
@[simp] theorem exec_registerWrite (s : State) : exec .registerWrite s = execRegisterWrite s := rfl
@[simp] theorem exec_qProdWrite (s : State) : exec .qProdWrite s = execQProdWrite s := rfl
@[simp] theorem exec_queueCreate (s : State) : exec .queueCreate s = execQueueCreate s := rfl
@[simp] theorem exec_queueDestroy (s : State) : exec .queueDestroy s = execQueueDestroy s := rfl
@[simp] theorem exec_queueResume (s : State) : exec .queueResume s = execQueueResume s := rfl
@[simp] theorem exec_svcCtlWrite (s : State) : exec .svcCtlWrite s = execSvcCtlWrite s := rfl
@[simp] theorem exec_bstCtlWrite (s : State) : exec .bstCtlWrite s = execBstCtlWrite s := rfl
@[simp] theorem exec_recordRead (s : State) : exec .recordRead s = execRecordRead s := rfl
@[simp] theorem exec_recordArrival (s : State) : exec .recordArrival s = execRecordArrival s := rfl
@[simp] theorem exec_enqRequest (s : State) : exec .enqRequest s = execEnqRequest s := rfl
@[simp] theorem exec_dependenceSatisfied (s : State) : exec .dependenceSatisfied s = execDependenceSatisfied s := rfl
@[simp] theorem exec_teamPlace (s : State) : exec .teamPlace s = execTeamPlace s := rfl
@[simp] theorem exec_launchBlocking (s : State) : exec .launchBlocking s = execLaunchBlocking s := rfl
@[simp] theorem exec_basteStart (s : State) : exec .basteStart s = execBasteStart s := rfl
@[simp] theorem exec_basteAdopt (s : State) : exec .basteAdopt s = execBasteAdopt s := rfl
@[simp] theorem exec_basteRevalidated (s : State) : exec .basteRevalidated s = execBasteRevalidated s := rfl
@[simp] theorem exec_basteCommitted (s : State) : exec .basteCommitted s = execBasteCommitted s := rfl
@[simp] theorem exec_basteClaimed (s : State) : exec .basteClaimed s = execBasteClaimed s := rfl
@[simp] theorem exec_basteUnpick (s : State) : exec .basteUnpick s = execBasteUnpick s := rfl
@[simp] theorem exec_basteLifeExpiry (s : State) : exec .basteLifeExpiry s = execBasteLifeExpiry s := rfl
@[simp] theorem exec_quantumExpiry (s : State) : exec .quantumExpiry s = execQuantumExpiry s := rfl
@[simp] theorem exec_fetchLineArrival (s : State) : exec .fetchLineArrival s = execFetchLineArrival s := rfl
@[simp] theorem exec_breakpointMatch (s : State) : exec .breakpointMatch s = execBreakpointMatch s := rfl
@[simp] theorem exec_teamStall (s : State) : exec .teamStall s = execTeamStall s := rfl
@[simp] theorem exec_tableWalkRead (s : State) : exec .tableWalkRead s = execTableWalkRead s := rfl
@[simp] theorem exec_tuRetry (s : State) : exec .tuRetry s = execTuRetry s := rfl
@[simp] theorem exec_tuFail (s : State) : exec .tuFail s = execTuFail s := rfl
@[simp] theorem exec_tuAnswer (s : State) : exec .tuAnswer s = execTuAnswer s := rfl
@[simp] theorem exec_tuInvPage (s : State) : exec .tuInvPage s = execTuInvPage s := rfl
@[simp] theorem exec_tuInvSpace (s : State) : exec .tuInvSpace s = execTuInvSpace s := rfl
@[simp] theorem exec_tuInvAll (s : State) : exec .tuInvAll s = execTuInvAll s := rfl
@[simp] theorem exec_tuInvDone (s : State) : exec .tuInvDone s = execTuInvDone s := rfl
@[simp] theorem exec_loadReply (s : State) : exec .loadReply s = execLoadReply s := rfl
@[simp] theorem exec_atomReply (s : State) : exec .atomReply s = execAtomReply s := rfl
@[simp] theorem exec_l1Eviction (s : State) : exec .l1Eviction s = execL1Eviction s := rfl
@[simp] theorem exec_read (s : State) : exec .read s = execRead s := rfl
@[simp] theorem exec_readReply (s : State) : exec .readReply s = execReadReply s := rfl
@[simp] theorem exec_pullReq (s : State) : exec .pullReq s = execPullReq s := rfl
@[simp] theorem exec_pullData (s : State) : exec .pullData s = execPullData s := rfl
@[simp] theorem exec_pullComplete (s : State) : exec .pullComplete s = execPullComplete s := rfl
@[simp] theorem exec_watchReq (s : State) : exec .watchReq s = execWatchReq s := rfl
@[simp] theorem exec_watchPoll (s : State) : exec .watchPoll s = execWatchPoll s := rfl
@[simp] theorem exec_watchDone (s : State) : exec .watchDone s = execWatchDone s := rfl
@[simp] theorem exec_msg (s : State) : exec .msg s = execMsg s := rfl
@[simp] theorem exec_msgAnswer (s : State) : exec .msgAnswer s = execMsgAnswer s := rfl
@[simp] theorem exec_enqAnswer (s : State) : exec .enqAnswer s = execEnqAnswer s := rfl
@[simp] theorem exec_unwatchAnswer (s : State) : exec .unwatchAnswer s = execUnwatchAnswer s := rfl
@[simp] theorem exec_fabricQueryAnswer (s : State) : exec .fabricQueryAnswer s = execFabricQueryAnswer s := rfl
@[simp] theorem exec_matrixAccept (s : State) : exec .matrixAccept s = execMatrixAccept s := rfl
@[simp] theorem exec_bFetchDone (s : State) : exec .bFetchDone s = execBFetchDone s := rfl
@[simp] theorem exec_matrixStepStart (s : State) : exec .matrixStepStart s = execMatrixStepStart s := rfl
@[simp] theorem exec_matrixStepDone (s : State) : exec .matrixStepDone s = execMatrixStepDone s := rfl
@[simp] theorem exec_vtbldDone (s : State) : exec .vtbldDone s = execVtbldDone s := rfl
@[simp] theorem exec_flitSend (s : State) : exec .flitSend s = execFlitSend s := rfl
@[simp] theorem exec_data (s : State) : exec .data s = execData s := rfl
@[simp] theorem exec_ack (s : State) : exec .ack s = execAck s := rfl
@[simp] theorem exec_nak (s : State) : exec .nak s = execNak s := rfl
@[simp] theorem exec_idle (s : State) : exec .idle s = execIdle s := rfl
@[simp] theorem exec_echo (s : State) : exec .echo s = execEcho s := rfl
@[simp] theorem exec_ackTimer (s : State) : exec .ackTimer s = execAckTimer s := rfl
@[simp] theorem exec_retransmitTimeout (s : State) : exec .retransmitTimeout s = execRetransmitTimeout s := rfl
@[simp] theorem exec_idleTimer (s : State) : exec .idleTimer s = execIdleTimer s := rfl
@[simp] theorem exec_colourRecalibrated (s : State) : exec .colourRecalibrated s = execColourRecalibrated s := rfl
@[simp] theorem exec_laneRetuned (s : State) : exec .laneRetuned s = execLaneRetuned s := rfl
@[simp] theorem exec_leaseReq (s : State) : exec .leaseReq s = execLeaseReq s := rfl
@[simp] theorem exec_leaseAnswer (s : State) : exec .leaseAnswer s = execLeaseAnswer s := rfl
@[simp] theorem exec_leaseWaitExpiry (s : State) : exec .leaseWaitExpiry s = execLeaseWaitExpiry s := rfl
@[simp] theorem exec_termEnd (s : State) : exec .termEnd s = execTermEnd s := rfl
@[simp] theorem exec_genReq (s : State) : exec .genReq s = execGenReq s := rfl
@[simp] theorem exec_genReply (s : State) : exec .genReply s = execGenReply s := rfl
@[simp] theorem exec_state (s : State) : exec .state s = execState s := rfl
@[simp] theorem exec_error (s : State) : exec .error s = execError s := rfl
@[simp] theorem exec_deadPeerDeclare (s : State) : exec .deadPeerDeclare s = execDeadPeerDeclare s := rfl
@[simp] theorem exec_collStart (s : State) : exec .collStart s = execCollStart s := rfl
@[simp] theorem exec_collWatchMet (s : State) : exec .collWatchMet s = execCollWatchMet s := rfl
@[simp] theorem exec_collPullLanded (s : State) : exec .collPullLanded s = execCollPullLanded s := rfl
@[simp] theorem exec_tnodeExpiry (s : State) : exec .tnodeExpiry s = execTnodeExpiry s := rfl
@[simp] theorem exec_tlimExpiry (s : State) : exec .tlimExpiry s = execTlimExpiry s := rfl
@[simp] theorem exec_preSave (s : State) : exec .preSave s = execPreSave s := rfl
@[simp] theorem exec_saveDrained (s : State) : exec .saveDrained s = execSaveDrained s := rfl
@[simp] theorem exec_redirectCompletion (s : State) : exec .redirectCompletion s = execRedirectCompletion s := rfl
@[simp] theorem exec_preResume (s : State) : exec .preResume s = execPreResume s := rfl
@[simp] theorem exec_resumePlace (s : State) : exec .resumePlace s = execResumePlace s := rfl
@[simp] theorem exec_preDrop (s : State) : exec .preDrop s = execPreDrop s := rfl
@[simp] theorem exec_dbgRead (s : State) : exec .dbgRead s = execDbgRead s := rfl
@[simp] theorem exec_dbgWrite (s : State) : exec .dbgWrite s = execDbgWrite s := rfl
@[simp] theorem exec_teamRetire (s : State) : exec .teamRetire s = execTeamRetire s := rfl
@[simp] theorem exec_teamRetireDone (s : State) : exec .teamRetireDone s = execTeamRetireDone s := rfl
@[simp] theorem exec_quiescenceWave (s : State) : exec .quiescenceWave s = execQuiescenceWave s := rfl
@[simp] theorem exec_functionLevelReset (s : State) : exec .functionLevelReset s = execFunctionLevelReset s := rfl
@[simp] theorem exec_conventionalReset (s : State) : exec .conventionalReset s = execConventionalReset s := rfl
@[simp] theorem exec_correctedError (s : State) : exec .correctedError s = execCorrectedError s := rfl
@[simp] theorem exec_uncorrectableError (s : State) : exec .uncorrectableError s = execUncorrectableError s := rfl
@[simp] theorem exec_parityError (s : State) : exec .parityError s = execParityError s := rfl
@[simp] theorem exec_hbmLinkTagFail (s : State) : exec .hbmLinkTagFail s = execHbmLinkTagFail s := rfl
@[simp] theorem exec_snapQuiesce (s : State) : exec .snapQuiesce s = execSnapQuiesce s := rfl
@[simp] theorem exec_quiesceDone (s : State) : exec .quiesceDone s = execQuiesceDone s := rfl
@[simp] theorem exec_snapCopy (s : State) : exec .snapCopy s = execSnapCopy s := rfl
@[simp] theorem exec_copyDone (s : State) : exec .copyDone s = execCopyDone s := rfl
@[simp] theorem exec_snapRestore (s : State) : exec .snapRestore s = execSnapRestore s := rfl
@[simp] theorem exec_restoreDone (s : State) : exec .restoreDone s = execRestoreDone s := rfl
@[simp] theorem exec_snapRelease (s : State) : exec .snapRelease s = execSnapRelease s := rfl
@[simp] theorem exec_telemetryUpdate (s : State) : exec .telemetryUpdate s = execTelemetryUpdate s := rfl
@[simp] theorem exec_powerRemoved (s : State) : exec .powerRemoved s = execPowerRemoved s := rfl
@[simp] theorem exec_perstDeasserted (s : State) : exec .perstDeasserted s = execPerstDeasserted s := rfl
@[simp] theorem exec_storePerformed (s : State) : exec .storePerformed s = execStorePerformed s := rfl
@[simp] theorem exec_completionTimeout (s : State) : exec .completionTimeout s = execCompletionTimeout s := rfl

end Sys2Proof.Machine
end

