-- ==== Sys2Proof/Laws/Fields.lean ====
section
/-! SUPPORT. Fields of encoded words: each field of a format's encoder reads back as what was put there. -/

namespace Sys2Proof

theorem encR_bit (a : BitVec 6) (b : BitVec 6) (d : BitVec 6) (w : BitVec 2) (f : BitVec 4) (m : BitVec 7) (z : Nat) : (encR a b d w f m).getLsbD z = BitVec.getLsbD (w := 6 + 6 + 6 + 2 + 4 + 7 + 1) (a ++ b ++ d ++ w ++ f ++ m ++ 1#1) z := rfl

@[simp] theorem fSrc2_encR (a : BitVec 6) (b : BitVec 6) (d : BitVec 6) (w : BitVec 2) (f : BitVec 4) (m : BitVec 7) : fSrc2 (encR a b d w f m) = a := by
  apply BitVec.eq_of_getLsbD_eq; intro j hj
  simp only [fSrc2, BitVec.getLsbD_extractLsb', encR_bit, BitVec.getLsbD_append, hj, decide_true, Bool.true_and]
  repeat (first | rw [if_pos (by omega)] | rw [if_neg (by omega)])
  congr 1
  omega

@[simp] theorem fSrc1_encR (a : BitVec 6) (b : BitVec 6) (d : BitVec 6) (w : BitVec 2) (f : BitVec 4) (m : BitVec 7) : fSrc1 (encR a b d w f m) = b := by
  apply BitVec.eq_of_getLsbD_eq; intro j hj
  simp only [fSrc1, BitVec.getLsbD_extractLsb', encR_bit, BitVec.getLsbD_append, hj, decide_true, Bool.true_and]
  repeat (first | rw [if_pos (by omega)] | rw [if_neg (by omega)])
  congr 1
  omega

@[simp] theorem fDst_encR (a : BitVec 6) (b : BitVec 6) (d : BitVec 6) (w : BitVec 2) (f : BitVec 4) (m : BitVec 7) : fDst (encR a b d w f m) = d := by
  apply BitVec.eq_of_getLsbD_eq; intro j hj
  simp only [fDst, BitVec.getLsbD_extractLsb', encR_bit, BitVec.getLsbD_append, hj, decide_true, Bool.true_and]
  repeat (first | rw [if_pos (by omega)] | rw [if_neg (by omega)])
  congr 1
  omega

@[simp] theorem fWidth_encR (a : BitVec 6) (b : BitVec 6) (d : BitVec 6) (w : BitVec 2) (f : BitVec 4) (m : BitVec 7) : fWidth (encR a b d w f m) = w := by
  apply BitVec.eq_of_getLsbD_eq; intro j hj
  simp only [fWidth, BitVec.getLsbD_extractLsb', encR_bit, BitVec.getLsbD_append, hj, decide_true, Bool.true_and]
  repeat (first | rw [if_pos (by omega)] | rw [if_neg (by omega)])
  congr 1
  omega

@[simp] theorem fFn_encR (a : BitVec 6) (b : BitVec 6) (d : BitVec 6) (w : BitVec 2) (f : BitVec 4) (m : BitVec 7) : fFn (encR a b d w f m) = f := by
  apply BitVec.eq_of_getLsbD_eq; intro j hj
  simp only [fFn, BitVec.getLsbD_extractLsb', encR_bit, BitVec.getLsbD_append, hj, decide_true, Bool.true_and]
  repeat (first | rw [if_pos (by omega)] | rw [if_neg (by omega)])
  congr 1
  omega

@[simp] theorem fMajor_encR (a : BitVec 6) (b : BitVec 6) (d : BitVec 6) (w : BitVec 2) (f : BitVec 4) (m : BitVec 7) : fMajor (encR a b d w f m) = m := by
  apply BitVec.eq_of_getLsbD_eq; intro j hj
  simp only [fMajor, BitVec.getLsbD_extractLsb', encR_bit, BitVec.getLsbD_append, hj, decide_true, Bool.true_and]
  repeat (first | rw [if_pos (by omega)] | rw [if_neg (by omega)])
  congr 1
  omega

theorem encR_low (a : BitVec 6) (b : BitVec 6) (d : BitVec 6) (w : BitVec 2) (f : BitVec 4) (m : BitVec 7) : (encR a b d w f m).getLsbD 0 = true := by
  simp only [encR_bit, BitVec.getLsbD_append]
  simp

theorem encI_bit (i : BitVec 12) (a : BitVec 6) (d : BitVec 6) (m : BitVec 7) (z : Nat) : (encI i a d m).getLsbD z = BitVec.getLsbD (w := 12 + 6 + 6 + 7 + 1) (i ++ a ++ d ++ m ++ 1#1) z := rfl

@[simp] theorem fImm_encI (i : BitVec 12) (a : BitVec 6) (d : BitVec 6) (m : BitVec 7) : fImm (encI i a d m) = i := by
  apply BitVec.eq_of_getLsbD_eq; intro j hj
  simp only [fImm, BitVec.getLsbD_extractLsb', encI_bit, BitVec.getLsbD_append, hj, decide_true, Bool.true_and]
  repeat (first | rw [if_pos (by omega)] | rw [if_neg (by omega)])
  congr 1
  omega

@[simp] theorem fISrc_encI (i : BitVec 12) (a : BitVec 6) (d : BitVec 6) (m : BitVec 7) : fISrc (encI i a d m) = a := by
  apply BitVec.eq_of_getLsbD_eq; intro j hj
  simp only [fISrc, BitVec.getLsbD_extractLsb', encI_bit, BitVec.getLsbD_append, hj, decide_true, Bool.true_and]
  repeat (first | rw [if_pos (by omega)] | rw [if_neg (by omega)])
  congr 1
  omega

@[simp] theorem fIDst_encI (i : BitVec 12) (a : BitVec 6) (d : BitVec 6) (m : BitVec 7) : fIDst (encI i a d m) = d := by
  apply BitVec.eq_of_getLsbD_eq; intro j hj
  simp only [fIDst, BitVec.getLsbD_extractLsb', encI_bit, BitVec.getLsbD_append, hj, decide_true, Bool.true_and]
  repeat (first | rw [if_pos (by omega)] | rw [if_neg (by omega)])
  congr 1
  omega

@[simp] theorem fMajor_encI (i : BitVec 12) (a : BitVec 6) (d : BitVec 6) (m : BitVec 7) : fMajor (encI i a d m) = m := by
  apply BitVec.eq_of_getLsbD_eq; intro j hj
  simp only [fMajor, BitVec.getLsbD_extractLsb', encI_bit, BitVec.getLsbD_append, hj, decide_true, Bool.true_and]
  repeat (first | rw [if_pos (by omega)] | rw [if_neg (by omega)])
  congr 1
  omega

theorem encI_low (i : BitVec 12) (a : BitVec 6) (d : BitVec 6) (m : BitVec 7) : (encI i a d m).getLsbD 0 = true := by
  simp only [encI_bit, BitVec.getLsbD_append]
  simp

theorem enc18_bit (i : BitVec 18) (d : BitVec 6) (m : BitVec 7) (z : Nat) : (enc18 i d m).getLsbD z = BitVec.getLsbD (w := 18 + 6 + 7 + 1) (i ++ d ++ m ++ 1#1) z := rfl

@[simp] theorem fImm18_enc18 (i : BitVec 18) (d : BitVec 6) (m : BitVec 7) : fImm18 (enc18 i d m) = i := by
  apply BitVec.eq_of_getLsbD_eq; intro j hj
  simp only [fImm18, BitVec.getLsbD_extractLsb', enc18_bit, BitVec.getLsbD_append, hj, decide_true, Bool.true_and]
  repeat (first | rw [if_pos (by omega)] | rw [if_neg (by omega)])
  congr 1
  omega

@[simp] theorem fIDst_enc18 (i : BitVec 18) (d : BitVec 6) (m : BitVec 7) : fIDst (enc18 i d m) = d := by
  apply BitVec.eq_of_getLsbD_eq; intro j hj
  simp only [fIDst, BitVec.getLsbD_extractLsb', enc18_bit, BitVec.getLsbD_append, hj, decide_true, Bool.true_and]
  repeat (first | rw [if_pos (by omega)] | rw [if_neg (by omega)])
  congr 1
  omega

@[simp] theorem fMajor_enc18 (i : BitVec 18) (d : BitVec 6) (m : BitVec 7) : fMajor (enc18 i d m) = m := by
  apply BitVec.eq_of_getLsbD_eq; intro j hj
  simp only [fMajor, BitVec.getLsbD_extractLsb', enc18_bit, BitVec.getLsbD_append, hj, decide_true, Bool.true_and]
  repeat (first | rw [if_pos (by omega)] | rw [if_neg (by omega)])
  congr 1
  omega

theorem enc18_low (i : BitVec 18) (d : BitVec 6) (m : BitVec 7) : (enc18 i d m).getLsbD 0 = true := by
  simp only [enc18_bit, BitVec.getLsbD_append]
  simp

theorem encCount_bit (o : BitVec 12) (c : BitVec 12) (m : BitVec 7) (z : Nat) : (encCount o c m).getLsbD z = BitVec.getLsbD (w := 12 + 12 + 7 + 1) (o ++ c ++ m ++ 1#1) z := rfl

@[simp] theorem fImm_encCount (o : BitVec 12) (c : BitVec 12) (m : BitVec 7) : fImm (encCount o c m) = o := by
  apply BitVec.eq_of_getLsbD_eq; intro j hj
  simp only [fImm, BitVec.getLsbD_extractLsb', encCount_bit, BitVec.getLsbD_append, hj, decide_true, Bool.true_and]
  repeat (first | rw [if_pos (by omega)] | rw [if_neg (by omega)])
  congr 1
  omega

@[simp] theorem fCount_encCount (o : BitVec 12) (c : BitVec 12) (m : BitVec 7) : fCount (encCount o c m) = c := by
  apply BitVec.eq_of_getLsbD_eq; intro j hj
  simp only [fCount, BitVec.getLsbD_extractLsb', encCount_bit, BitVec.getLsbD_append, hj, decide_true, Bool.true_and]
  repeat (first | rw [if_pos (by omega)] | rw [if_neg (by omega)])
  congr 1
  omega

@[simp] theorem fMajor_encCount (o : BitVec 12) (c : BitVec 12) (m : BitVec 7) : fMajor (encCount o c m) = m := by
  apply BitVec.eq_of_getLsbD_eq; intro j hj
  simp only [fMajor, BitVec.getLsbD_extractLsb', encCount_bit, BitVec.getLsbD_append, hj, decide_true, Bool.true_and]
  repeat (first | rw [if_pos (by omega)] | rw [if_neg (by omega)])
  congr 1
  omega

theorem encCount_low (o : BitVec 12) (c : BitVec 12) (m : BitVec 7) : (encCount o c m).getLsbD 0 = true := by
  simp only [encCount_bit, BitVec.getLsbD_append]
  simp

theorem encJ_bit (o : BitVec 24) (m : BitVec 7) (z : Nat) : (encJ o m).getLsbD z = BitVec.getLsbD (w := 24 + 7 + 1) (o ++ m ++ 1#1) z := rfl

@[simp] theorem fOff24_encJ (o : BitVec 24) (m : BitVec 7) : fOff24 (encJ o m) = o := by
  apply BitVec.eq_of_getLsbD_eq; intro j hj
  simp only [fOff24, BitVec.getLsbD_extractLsb', encJ_bit, BitVec.getLsbD_append, hj, decide_true, Bool.true_and]
  repeat (first | rw [if_pos (by omega)] | rw [if_neg (by omega)])
  congr 1
  omega

@[simp] theorem fMajor_encJ (o : BitVec 24) (m : BitVec 7) : fMajor (encJ o m) = m := by
  apply BitVec.eq_of_getLsbD_eq; intro j hj
  simp only [fMajor, BitVec.getLsbD_extractLsb', encJ_bit, BitVec.getLsbD_append, hj, decide_true, Bool.true_and]
  repeat (first | rw [if_pos (by omega)] | rw [if_neg (by omega)])
  congr 1
  omega

theorem encJ_low (o : BitVec 24) (m : BitVec 7) : (encJ o m).getLsbD 0 = true := by
  simp only [encJ_bit, BitVec.getLsbD_append]
  simp

theorem encV_bit (b : BitVec 3) (a : BitVec 3) (d : BitVec 3) (k : BitVec 3) (t : BitVec 4) (r : BitVec 4) (f : BitVec 4) (m : BitVec 7) (z : Nat) : (encV b a d k t r f m).getLsbD z = BitVec.getLsbD (w := 3 + 3 + 3 + 3 + 4 + 4 + 4 + 7 + 1) (b ++ a ++ d ++ k ++ t ++ r ++ f ++ m ++ 1#1) z := rfl

@[simp] theorem fVb_encV (b : BitVec 3) (a : BitVec 3) (d : BitVec 3) (k : BitVec 3) (t : BitVec 4) (r : BitVec 4) (f : BitVec 4) (m : BitVec 7) : fVb (encV b a d k t r f m) = b := by
  apply BitVec.eq_of_getLsbD_eq; intro j hj
  simp only [fVb, BitVec.getLsbD_extractLsb', encV_bit, BitVec.getLsbD_append, hj, decide_true, Bool.true_and]
  repeat (first | rw [if_pos (by omega)] | rw [if_neg (by omega)])
  congr 1
  omega

@[simp] theorem fVa_encV (b : BitVec 3) (a : BitVec 3) (d : BitVec 3) (k : BitVec 3) (t : BitVec 4) (r : BitVec 4) (f : BitVec 4) (m : BitVec 7) : fVa (encV b a d k t r f m) = a := by
  apply BitVec.eq_of_getLsbD_eq; intro j hj
  simp only [fVa, BitVec.getLsbD_extractLsb', encV_bit, BitVec.getLsbD_append, hj, decide_true, Bool.true_and]
  repeat (first | rw [if_pos (by omega)] | rw [if_neg (by omega)])
  congr 1
  omega

@[simp] theorem fVd_encV (b : BitVec 3) (a : BitVec 3) (d : BitVec 3) (k : BitVec 3) (t : BitVec 4) (r : BitVec 4) (f : BitVec 4) (m : BitVec 7) : fVd (encV b a d k t r f m) = d := by
  apply BitVec.eq_of_getLsbD_eq; intro j hj
  simp only [fVd, BitVec.getLsbD_extractLsb', encV_bit, BitVec.getLsbD_append, hj, decide_true, Bool.true_and]
  repeat (first | rw [if_pos (by omega)] | rw [if_neg (by omega)])
  congr 1
  omega

@[simp] theorem fMk_encV (b : BitVec 3) (a : BitVec 3) (d : BitVec 3) (k : BitVec 3) (t : BitVec 4) (r : BitVec 4) (f : BitVec 4) (m : BitVec 7) : fMk (encV b a d k t r f m) = k := by
  apply BitVec.eq_of_getLsbD_eq; intro j hj
  simp only [fMk, BitVec.getLsbD_extractLsb', encV_bit, BitVec.getLsbD_append, hj, decide_true, Bool.true_and]
  repeat (first | rw [if_pos (by omega)] | rw [if_neg (by omega)])
  congr 1
  omega

@[simp] theorem fTy_encV (b : BitVec 3) (a : BitVec 3) (d : BitVec 3) (k : BitVec 3) (t : BitVec 4) (r : BitVec 4) (f : BitVec 4) (m : BitVec 7) : fTy (encV b a d k t r f m) = t := by
  apply BitVec.eq_of_getLsbD_eq; intro j hj
  simp only [fTy, BitVec.getLsbD_extractLsb', encV_bit, BitVec.getLsbD_append, hj, decide_true, Bool.true_and]
  repeat (first | rw [if_pos (by omega)] | rw [if_neg (by omega)])
  congr 1
  omega

@[simp] theorem fRf_encV (b : BitVec 3) (a : BitVec 3) (d : BitVec 3) (k : BitVec 3) (t : BitVec 4) (r : BitVec 4) (f : BitVec 4) (m : BitVec 7) : fRf (encV b a d k t r f m) = r := by
  apply BitVec.eq_of_getLsbD_eq; intro j hj
  simp only [fRf, BitVec.getLsbD_extractLsb', encV_bit, BitVec.getLsbD_append, hj, decide_true, Bool.true_and]
  repeat (first | rw [if_pos (by omega)] | rw [if_neg (by omega)])
  congr 1
  omega

@[simp] theorem fFn_encV (b : BitVec 3) (a : BitVec 3) (d : BitVec 3) (k : BitVec 3) (t : BitVec 4) (r : BitVec 4) (f : BitVec 4) (m : BitVec 7) : fFn (encV b a d k t r f m) = f := by
  apply BitVec.eq_of_getLsbD_eq; intro j hj
  simp only [fFn, BitVec.getLsbD_extractLsb', encV_bit, BitVec.getLsbD_append, hj, decide_true, Bool.true_and]
  repeat (first | rw [if_pos (by omega)] | rw [if_neg (by omega)])
  congr 1
  omega

@[simp] theorem fMajor_encV (b : BitVec 3) (a : BitVec 3) (d : BitVec 3) (k : BitVec 3) (t : BitVec 4) (r : BitVec 4) (f : BitVec 4) (m : BitVec 7) : fMajor (encV b a d k t r f m) = m := by
  apply BitVec.eq_of_getLsbD_eq; intro j hj
  simp only [fMajor, BitVec.getLsbD_extractLsb', encV_bit, BitVec.getLsbD_append, hj, decide_true, Bool.true_and]
  repeat (first | rw [if_pos (by omega)] | rw [if_neg (by omega)])
  congr 1
  omega

theorem encV_low (b : BitVec 3) (a : BitVec 3) (d : BitVec 3) (k : BitVec 3) (t : BitVec 4) (r : BitVec 4) (f : BitVec 4) (m : BitVec 7) : (encV b a d k t r f m).getLsbD 0 = true := by
  simp only [encV_bit, BitVec.getLsbD_append]
  simp

theorem encVw_bit (s : BitVec 6) (d : BitVec 3) (k : BitVec 3) (t : BitVec 4) (r : BitVec 4) (f : BitVec 4) (m : BitVec 7) (z : Nat) : (encVw s d k t r f m).getLsbD z = BitVec.getLsbD (w := 6 + 3 + 3 + 4 + 4 + 4 + 7 + 1) (s ++ d ++ k ++ t ++ r ++ f ++ m ++ 1#1) z := rfl

@[simp] theorem fSrc2_encVw (s : BitVec 6) (d : BitVec 3) (k : BitVec 3) (t : BitVec 4) (r : BitVec 4) (f : BitVec 4) (m : BitVec 7) : fSrc2 (encVw s d k t r f m) = s := by
  apply BitVec.eq_of_getLsbD_eq; intro j hj
  simp only [fSrc2, BitVec.getLsbD_extractLsb', encVw_bit, BitVec.getLsbD_append, hj, decide_true, Bool.true_and]
  repeat (first | rw [if_pos (by omega)] | rw [if_neg (by omega)])
  congr 1
  omega

@[simp] theorem fVd_encVw (s : BitVec 6) (d : BitVec 3) (k : BitVec 3) (t : BitVec 4) (r : BitVec 4) (f : BitVec 4) (m : BitVec 7) : fVd (encVw s d k t r f m) = d := by
  apply BitVec.eq_of_getLsbD_eq; intro j hj
  simp only [fVd, BitVec.getLsbD_extractLsb', encVw_bit, BitVec.getLsbD_append, hj, decide_true, Bool.true_and]
  repeat (first | rw [if_pos (by omega)] | rw [if_neg (by omega)])
  congr 1
  omega

@[simp] theorem fMk_encVw (s : BitVec 6) (d : BitVec 3) (k : BitVec 3) (t : BitVec 4) (r : BitVec 4) (f : BitVec 4) (m : BitVec 7) : fMk (encVw s d k t r f m) = k := by
  apply BitVec.eq_of_getLsbD_eq; intro j hj
  simp only [fMk, BitVec.getLsbD_extractLsb', encVw_bit, BitVec.getLsbD_append, hj, decide_true, Bool.true_and]
  repeat (first | rw [if_pos (by omega)] | rw [if_neg (by omega)])
  congr 1
  omega

@[simp] theorem fTy_encVw (s : BitVec 6) (d : BitVec 3) (k : BitVec 3) (t : BitVec 4) (r : BitVec 4) (f : BitVec 4) (m : BitVec 7) : fTy (encVw s d k t r f m) = t := by
  apply BitVec.eq_of_getLsbD_eq; intro j hj
  simp only [fTy, BitVec.getLsbD_extractLsb', encVw_bit, BitVec.getLsbD_append, hj, decide_true, Bool.true_and]
  repeat (first | rw [if_pos (by omega)] | rw [if_neg (by omega)])
  congr 1
  omega

@[simp] theorem fRf_encVw (s : BitVec 6) (d : BitVec 3) (k : BitVec 3) (t : BitVec 4) (r : BitVec 4) (f : BitVec 4) (m : BitVec 7) : fRf (encVw s d k t r f m) = r := by
  apply BitVec.eq_of_getLsbD_eq; intro j hj
  simp only [fRf, BitVec.getLsbD_extractLsb', encVw_bit, BitVec.getLsbD_append, hj, decide_true, Bool.true_and]
  repeat (first | rw [if_pos (by omega)] | rw [if_neg (by omega)])
  congr 1
  omega

@[simp] theorem fFn_encVw (s : BitVec 6) (d : BitVec 3) (k : BitVec 3) (t : BitVec 4) (r : BitVec 4) (f : BitVec 4) (m : BitVec 7) : fFn (encVw s d k t r f m) = f := by
  apply BitVec.eq_of_getLsbD_eq; intro j hj
  simp only [fFn, BitVec.getLsbD_extractLsb', encVw_bit, BitVec.getLsbD_append, hj, decide_true, Bool.true_and]
  repeat (first | rw [if_pos (by omega)] | rw [if_neg (by omega)])
  congr 1
  omega

@[simp] theorem fMajor_encVw (s : BitVec 6) (d : BitVec 3) (k : BitVec 3) (t : BitVec 4) (r : BitVec 4) (f : BitVec 4) (m : BitVec 7) : fMajor (encVw s d k t r f m) = m := by
  apply BitVec.eq_of_getLsbD_eq; intro j hj
  simp only [fMajor, BitVec.getLsbD_extractLsb', encVw_bit, BitVec.getLsbD_append, hj, decide_true, Bool.true_and]
  repeat (first | rw [if_pos (by omega)] | rw [if_neg (by omega)])
  congr 1
  omega

theorem encVw_low (s : BitVec 6) (d : BitVec 3) (k : BitVec 3) (t : BitVec 4) (r : BitVec 4) (f : BitVec 4) (m : BitVec 7) : (encVw s d k t r f m).getLsbD 0 = true := by
  simp only [encVw_bit, BitVec.getLsbD_append]
  simp

theorem encX_bit (a : BitVec 6) (b : BitVec 6) (t : BitVec 6) (f : BitVec 4) (m : BitVec 7) (z : Nat) : (encX a b t f m).getLsbD z = BitVec.getLsbD (w := 6 + 6 + 6 + 2 + 4 + 7 + 1) (a ++ b ++ t ++ 0#2 ++ f ++ m ++ 1#1) z := rfl

@[simp] theorem fSrc2_encX (a : BitVec 6) (b : BitVec 6) (t : BitVec 6) (f : BitVec 4) (m : BitVec 7) : fSrc2 (encX a b t f m) = a := by
  apply BitVec.eq_of_getLsbD_eq; intro j hj
  simp only [fSrc2, BitVec.getLsbD_extractLsb', encX_bit, BitVec.getLsbD_append, hj, decide_true, Bool.true_and]
  repeat (first | rw [if_pos (by omega)] | rw [if_neg (by omega)])
  congr 1
  omega

@[simp] theorem fSrc1_encX (a : BitVec 6) (b : BitVec 6) (t : BitVec 6) (f : BitVec 4) (m : BitVec 7) : fSrc1 (encX a b t f m) = b := by
  apply BitVec.eq_of_getLsbD_eq; intro j hj
  simp only [fSrc1, BitVec.getLsbD_extractLsb', encX_bit, BitVec.getLsbD_append, hj, decide_true, Bool.true_and]
  repeat (first | rw [if_pos (by omega)] | rw [if_neg (by omega)])
  congr 1
  omega

@[simp] theorem fDst_encX (a : BitVec 6) (b : BitVec 6) (t : BitVec 6) (f : BitVec 4) (m : BitVec 7) : fDst (encX a b t f m) = t := by
  apply BitVec.eq_of_getLsbD_eq; intro j hj
  simp only [fDst, BitVec.getLsbD_extractLsb', encX_bit, BitVec.getLsbD_append, hj, decide_true, Bool.true_and]
  repeat (first | rw [if_pos (by omega)] | rw [if_neg (by omega)])
  congr 1
  omega

@[simp] theorem fFn_encX (a : BitVec 6) (b : BitVec 6) (t : BitVec 6) (f : BitVec 4) (m : BitVec 7) : fFn (encX a b t f m) = f := by
  apply BitVec.eq_of_getLsbD_eq; intro j hj
  simp only [fFn, BitVec.getLsbD_extractLsb', encX_bit, BitVec.getLsbD_append, hj, decide_true, Bool.true_and]
  repeat (first | rw [if_pos (by omega)] | rw [if_neg (by omega)])
  congr 1
  omega

@[simp] theorem fMajor_encX (a : BitVec 6) (b : BitVec 6) (t : BitVec 6) (f : BitVec 4) (m : BitVec 7) : fMajor (encX a b t f m) = m := by
  apply BitVec.eq_of_getLsbD_eq; intro j hj
  simp only [fMajor, BitVec.getLsbD_extractLsb', encX_bit, BitVec.getLsbD_append, hj, decide_true, Bool.true_and]
  repeat (first | rw [if_pos (by omega)] | rw [if_neg (by omega)])
  congr 1
  omega

theorem encX_low (a : BitVec 6) (b : BitVec 6) (t : BitVec 6) (f : BitVec 4) (m : BitVec 7) : (encX a b t f m).getLsbD 0 = true := by
  simp only [encX_bit, BitVec.getLsbD_append]
  simp

end Sys2Proof
end

