-- ==== Sys2Proof/Laws/Encode.lean ====
section
/-! SUPPORT. Lemmas of the decoder: codes read back, a word whose major decodes and whose checks pass is the instruction, bytes join to
the word they came from. -/

namespace Sys2Proof

theorem fMajor_ones : fMajor 0xFFFFFFFF#32 = 0x7F#7 := by decide

theorem decode32_ok {w : BitVec 32} {i : Instr} (hne : fMajor w ≠ 0x7F#7) (h : decodeMajor w = .ok i) (hc : i.wf = true) : decode32 w = .ok i := by
  have h1 : w ≠ 0xFFFFFFFF#32 := fun e => hne (e ▸ fMajor_ones)
  have h2 : i.check = none := by simpa [Instr.wf, Option.isNone_iff_eq_none] using hc
  simp [decode32, h1, h, h2]

@[simp] theorem Width.ofCode_code (w : Width) : Width.ofCode w.code = w := by cases w <;> rfl
@[simp] theorem Cc.ofCode_code (c : Cc) : Cc.ofCode c.code = some c := by cases c <;> rfl
@[simp] theorem VCond.ofCode_code (c : VCond) : VCond.ofCode c.code = some c := by cases c <;> rfl
@[simp] theorem Ty.ofCode_code (c : Ty) : Ty.ofCode c.code = some c := by cases c <;> rfl
@[simp] theorem Rc.ofCode_code (c : Rc) : Rc.ofCode c.code = some c := by cases c <;> rfl
@[simp] theorem LdOrd.ofCode_code (c : LdOrd) : LdOrd.ofCode c.code = some c := by cases c <;> rfl
@[simp] theorem StOrd.ofCode_code (c : StOrd) : StOrd.ofCode c.code = some c := by cases c <;> rfl
@[simp] theorem AtOrd.ofCode_code (c : AtOrd) : AtOrd.ofCode c.code = c := by cases c <;> rfl
@[simp] theorem Scope.ofCode_code (c : Scope) : Scope.ofCode c.code = some c := by cases c <;> rfl
@[simp] theorem Path.ofCode_code (c : Path) : Path.ofCode c.code = some c := by cases c <;> rfl
@[simp] theorem guardEq_self {n : Nat} (k : BitVec n) (r : Reject) : guardEq k k r = .ok () := by simp [guardEq]
@[simp] theorem orReject_some {α : Type} (r : Reject) (a : α) : orReject r (some a) = .ok a := rfl
@[simp] theorem except_bind_ok {α β : Type} (a : α) (f : α → Except Reject β) : (Except.ok a >>= f) = f a := rfl
@[simp] theorem except_pure {α : Type} (a : α) : (pure a : Except Reject α) = .ok a := rfl
@[simp] theorem SReg.ofCode_code (r : SReg) : SReg.ofCode r.code = some r := by
  cases r <;> first | rfl | (rename_i i; revert i; decide)
theorem append_high {m n : Nat} (a : BitVec m) (b : BitVec n) : (a ++ b).extractLsb' n m = a := by
  apply BitVec.eq_of_getLsbD_eq
  intro j hj
  simp [BitVec.getLsbD_append, hj]
theorem append_low {m n : Nat} (a : BitVec m) (b : BitVec n) : (a ++ b).extractLsb' 0 n = b := by
  apply BitVec.eq_of_getLsbD_eq
  intro j hj
  simp [BitVec.getLsbD_append, hj]
theorem shift_bit (a : BitVec 2) (b c : BitVec 5) (z : Nat) : BitVec.getLsbD (w := 12) (a ++ b ++ c) z = BitVec.getLsbD (w := 2 + 5 + 5) (a ++ b ++ c) z := rfl
theorem append_mid (a : BitVec 2) (b c : BitVec 5) : BitVec.extractLsb' (n := 12) 5 5 (a ++ b ++ c) = b := by
  apply BitVec.eq_of_getLsbD_eq
  intro j hj
  simp only [BitVec.getLsbD_extractLsb', shift_bit, BitVec.getLsbD_append, hj, decide_true, Bool.true_and]
  repeat (first | rw [if_pos (by omega)] | rw [if_neg (by omega)])
  congr 1
  omega
theorem append_top (a : BitVec 2) (b c : BitVec 5) : BitVec.extractLsb' (n := 12) 10 2 (a ++ b ++ c) = a := by
  apply BitVec.eq_of_getLsbD_eq
  intro j hj
  simp only [BitVec.getLsbD_extractLsb', shift_bit, BitVec.getLsbD_append, hj, decide_true, Bool.true_and]
  repeat (first | rw [if_pos (by omega)] | rw [if_neg (by omega)])
  congr 1
  omega
theorem append_end (a : BitVec 2) (b c : BitVec 5) : BitVec.extractLsb' (n := 12) 0 5 (a ++ b ++ c) = c :=
  append_low (a ++ b) c
@[simp] theorem fWidth_encX (a b t : BitVec 6) (f : BitVec 4) (m : BitVec 7) : fWidth (encX a b t f m) = 0 :=
  fWidth_encR a b t 0 f m
@[simp] theorem maskReg_ok (a : MReg) : maskReg (0#3 ++ a) = .ok a := by
  have h1 : (0#3 ++ a).extractLsb' 3 3 = 0 := append_high 0#3 a
  have h2 : (0#3 ++ a).extractLsb' 0 3 = a := append_low 0#3 a
  simp only [maskReg, h1, h2, if_pos]
theorem index_split (x : BitVec 5) : x.extractLsb' 4 1 ++ x.extractLsb' 0 4 = x := by
  revert x; decide
theorem Ty.ofCode_low (t : Ty) (h : t.movable = true) : Ty.ofCode (0#1 ++ t.code.extractLsb' 0 3) = some t := by
  cases t <;> first | rfl | cases h
theorem enc16_bit (s : BitVec 5) (d : BitVec 6) (f : BitVec 4) (z : Nat) : (enc16 s d f).getLsbD z = BitVec.getLsbD (w := 5 + 6 + 4 + 1) (s ++ d ++ f ++ 0#1) z := rfl
theorem enc16_form (s : BitVec 5) (d : BitVec 6) (f : BitVec 4) : (enc16 s d f).extractLsb' 1 4 = f := by
  apply BitVec.eq_of_getLsbD_eq; intro j hj
  simp only [BitVec.getLsbD_extractLsb', enc16_bit, BitVec.getLsbD_append, hj, decide_true, Bool.true_and]
  repeat (first | rw [if_pos (by omega)] | rw [if_neg (by omega)])
  congr 1
  omega
theorem enc16_d (s : BitVec 5) (d : BitVec 6) (f : BitVec 4) : (enc16 s d f).extractLsb' 5 6 = d := by
  apply BitVec.eq_of_getLsbD_eq; intro j hj
  simp only [BitVec.getLsbD_extractLsb', enc16_bit, BitVec.getLsbD_append, hj, decide_true, Bool.true_and]
  repeat (first | rw [if_pos (by omega)] | rw [if_neg (by omega)])
  congr 1
  omega
theorem enc16_s (s : BitVec 5) (d : BitVec 6) (f : BitVec 4) : (enc16 s d f).extractLsb' 11 5 = s := by
  apply BitVec.eq_of_getLsbD_eq; intro j hj
  simp only [BitVec.getLsbD_extractLsb', enc16_bit, BitVec.getLsbD_append, hj, decide_true, Bool.true_and]
  repeat (first | rw [if_pos (by omega)] | rw [if_neg (by omega)])
  congr 1
  omega
theorem enc16_low (s : BitVec 5) (d : BitVec 6) (f : BitVec 4) : (enc16 s d f).getLsbD 0 = false := by
  simp only [enc16_bit, BitVec.getLsbD_append]
  simp
theorem decode16_ok {h : BitVec 16} {i : Instr} (hd : decodeForm h = i) (hc : i.wf = true) : decode16 h = .ok i := by
  subst hd
  have h2 : (decodeForm h).check = none := by simpa [Instr.wf, Option.isNone_iff_eq_none] using hc
  have h1 : h ≠ 0#16 := by rintro rfl; exact absurd h2 (by decide)
  simp [decode16, h1, h2]
@[simp] theorem ord_high (a : BitVec 2) (b : BitVec 10) : BitVec.extractLsb' (n := 12) 10 2 (a ++ b) = a := append_high a b
@[simp] theorem ord_low (a : BitVec 2) (b : BitVec 10) : BitVec.extractLsb' (n := 12) 0 10 (a ++ b) = b := append_low a b
@[simp] theorem bit_high (a : BitVec 1) (b : BitVec 5) : BitVec.extractLsb' (n := 6) 5 1 (a ++ b) = a := append_high a b
@[simp] theorem bit_low (a : BitVec 1) (b : BitVec 5) : BitVec.extractLsb' (n := 6) 0 5 (a ++ b) = b := append_low a b
@[simp] theorem slot_high (a : BitVec 1) (b : BitVec 2) : BitVec.extractLsb' (n := 3) 2 1 (a ++ b) = a := append_high a b
@[simp] theorem slot_low (a : BitVec 1) (b : BitVec 2) : BitVec.extractLsb' (n := 3) 0 2 (a ++ b) = b := append_low a b
@[simp] theorem idx_high (a : BitVec 2) (b : BitVec 1) : BitVec.extractLsb' (n := 3) 1 2 (a ++ b) = a := append_high a b
@[simp] theorem idx_low (a : BitVec 2) (b : BitVec 1) : BitVec.extractLsb' (n := 3) 0 1 (a ++ b) = b := append_low a b
@[simp] theorem atom_low (a : BitVec 5) (b : BitVec 2) : BitVec.extractLsb' (n := 7) 0 2 (a ++ b) = b := append_low a b
@[simp] theorem index_whole (x : BitVec 5) : HAppend.hAppend (γ := BitVec 5) (x.extractLsb' 4 1) (x.extractLsb' 0 4) = x := index_split x
theorem atom_major (o : AtOrd) : HAppend.hAppend (γ := BitVec 7) 0b10010#5 o.code ≠ 0x7F#7 := by cases o <;> decide
theorem and_isNone {p : Bool} {r : Reject} {rest : Option Reject} (h : (needs p r rest).isNone = true) : p = true := by
  cases p <;> simp_all [needs]
theorem decodeMajor_atom (b a d : BitVec 6) (w : BitVec 2) (f : BitVec 4) (o : AtOrd) :
    decodeMajor (encR b a d w f (0b10010#5 ++ o.code)) = decodeAtom (encR b a d w f (0b10010#5 ++ o.code)) := by
  unfold decodeMajor
  rw [fMajor_encR]
  cases o <;> rfl
theorem vcvtPair_movable {t st : Ty} (h : vcvtPair t st = true) : st.movable = true := by
  simp only [vcvtPair, Bool.and_eq_true] at h
  exact h.1.2
theorem vcvtwPair_movable {t st : Ty} (h : vcvtwPair t st = true) : st.movable = true := by
  cases st <;> first | rfl | cases h
theorem vcvtnPair_movable {t st : Ty} (h : vcvtnPair t st = true) : st.movable = true := by
  cases st <;> first | rfl | cases h
theorem vqntSource_movable {st : Ty} (h : vqntSource st = true) : st.movable = true := by
  cases st <;> first | rfl | cases h

end Sys2Proof
end

