-- ==== Sys2Proof/Laws/Memory.lean ====
section
/-! SUPPORT. Memory: reads after writes, the canonical form under every operation on the listed bytes (R31, R44). -/

namespace Sys2Proof.Machine

/-- Every listed address is above a. -/
def memAbove (a : Nat) (m : List Host.Cell) : Prop := ∀ e ∈ m, a < e.1

theorem memWf_cons {a : Nat} {v : Byte} {m : List Host.Cell} : memWf ((a, v) :: m) = true ↔ v ≠ 0 ∧ memAbove a m ∧ memWf m = true := by
  induction m generalizing a v with
  | nil => simp [memWf, memAbove]
  | cons e t ih =>
    obtain ⟨b, u⟩ := e
    simp only [memWf, Bool.and_eq_true, decide_eq_true_eq]
    constructor
    · rintro ⟨⟨hv, hab⟩, ht⟩
      refine ⟨hv, ?_, ht⟩
      intro x hx
      rcases List.mem_cons.mp hx with rfl | hx
      · exact hab
      · exact Nat.lt_trans hab ((ih.mp ht).2.1 x hx)
    · rintro ⟨hv, hab, ht⟩
      exact ⟨⟨hv, hab (b, u) (List.mem_cons_self ..)⟩, ht⟩

theorem memAbove_put {a b : Nat} {v : Byte} {m : List Host.Cell} (h : memAbove a m) (hb : a < b) : memAbove a (memPut m b v) := by
  induction m with
  | nil =>
    simp only [memPut]
    split
    · exact h
    · intro x hx; simp only [List.mem_singleton] at hx; subst hx; exact hb
  | cons e t ih =>
    obtain ⟨c, u⟩ := e
    have hc : a < c := h (c, u) (List.mem_cons_self ..)
    have ht : memAbove a t := fun x hx => h x (List.mem_cons_of_mem _ hx)
    simp only [memPut]
    intro x hx
    split at hx
    · split at hx
      · exact ht x hx
      · rcases List.mem_cons.mp hx with rfl | hx
        · exact hb
        · exact ht x hx
    · split at hx
      · split at hx
        · exact h x hx
        · rcases List.mem_cons.mp hx with rfl | hx
          · exact hb
          · exact h x hx
      · rcases List.mem_cons.mp hx with rfl | hx
        · exact hc
        · exact ih ht x hx

/-- A write keeps the canonical form. -/
theorem memPut_wf {m : List Host.Cell} (h : memWf m = true) (a : Nat) (v : Byte) : memWf (memPut m a v) = true := by
  induction m with
  | nil =>
    simp only [memPut]
    split
    · rfl
    · rename_i hv
      simpa [memWf] using hv
  | cons e t ih =>
    obtain ⟨b, u⟩ := e
    obtain ⟨hu, ha, ht⟩ := memWf_cons.mp h
    simp only [memPut]
    split
    · rename_i hab
      subst hab
      split
      · exact ht
      · rename_i hv
        exact memWf_cons.mpr ⟨hv, ha, ht⟩
    · split
      · rename_i hne hlt
        split
        · exact h
        · rename_i hv
          refine memWf_cons.mpr ⟨hv, ?_, h⟩
          intro x hx
          rcases List.mem_cons.mp hx with rfl | hx
          · exact hlt
          · exact Nat.lt_trans hlt (ha x hx)
      · rename_i hne hlt
        exact memWf_cons.mpr ⟨hu, memAbove_put ha (by omega), ih ht⟩

theorem memPutList_wf {m : List Host.Cell} (h : memWf m = true) (a : Nat) (l : List Byte) : memWf (memPutList m a l) = true := by
  induction l generalizing m a with
  | nil => exact h
  | cons v vs ih => exact ih (memPut_wf h a v) (a + 1)

theorem memWf_filter {m : List Host.Cell} (h : memWf m = true) (p : Host.Cell → Bool) : memWf (m.filter p) = true := by
  induction m with
  | nil => rfl
  | cons e t ih =>
    obtain ⟨b, u⟩ := e
    obtain ⟨hu, ha, ht⟩ := memWf_cons.mp h
    simp only [List.filter_cons]
    split
    · refine memWf_cons.mpr ⟨hu, ?_, ih ht⟩
      intro x hx
      exact ha x (List.mem_filter.mp hx).1
    · exact ih ht

theorem memGet_above {m : List Host.Cell} {a c : Nat} (h : memAbove c m) (hac : a ≤ c) : memGet m a = 0 := by
  cases m with
  | nil => rfl
  | cons e t =>
    obtain ⟨b, u⟩ := e
    have hb : c < b := h (b, u) (List.mem_cons_self ..)
    simp only [memGet]
    rw [if_neg (by omega), if_pos (by omega)]

/-- A read after a write in canonical form. -/
theorem memGet_put {m : List Host.Cell} (h : memWf m = true) (a b : Nat) (v : Byte) :
    memGet (memPut m a v) b = if a = b then v else memGet m b := by
  induction m with
  | nil =>
    simp only [memPut]
    by_cases hv : v = 0
    · simp [hv, memGet]
    · simp only [hv, if_false, memGet]
      split <;> simp
  | cons e t ih =>
    obtain ⟨c, u⟩ := e
    obtain ⟨hu, ha, ht⟩ := memWf_cons.mp h
    simp only [memPut]
    split
    · rename_i hca
      subst hca
      split
      · rename_i hv
        subst hv
        by_cases hcb : c = b
        · subst hcb
          rw [if_pos rfl, memGet_above ha (Nat.le_refl _)]
        · rw [if_neg hcb]
          simp only [memGet, if_neg hcb]
          split
          · exact memGet_above ha (by omega)
          · rfl
      · by_cases hcb : c = b
        · simp [memGet, hcb]
        · simp [memGet, hcb]
    · rename_i hca
      split
      · rename_i hlt
        split
        · rename_i hv
          subst hv
          by_cases hab : a = b
          · subst hab
            rw [if_pos rfl]
            simp only [memGet]
            rw [if_neg hca, if_pos hlt]
          · rw [if_neg hab]
        · by_cases hab : a = b
          · simp [memGet, hab]
          · rw [if_neg hab]
            simp only [memGet]
            rw [if_neg hab]
            by_cases hba : b < a
            · rw [if_pos hba, if_neg (by omega), if_pos (by omega)]
            · rw [if_neg hba]
      · rename_i hlt
        by_cases hcb : c = b
        · subst hcb
          rw [if_neg (by omega)]
          simp [memGet]
        · simp only [memGet, if_neg hcb]
          by_cases hbc : b < c
          · rw [if_pos hbc, if_pos hbc, if_neg (by omega)]
          · rw [if_neg hbc, if_neg hbc, ih ht]

theorem memGet_put_self {m : List Host.Cell} (h : memWf m = true) (a : Nat) (v : Byte) : memGet (memPut m a v) a = v := by
  rw [memGet_put h, if_pos rfl]

theorem memGet_put_ne {m : List Host.Cell} (h : memWf m = true) {a b : Nat} (hab : a ≠ b) (v : Byte) :
    memGet (memPut m a v) b = memGet m b := by rw [memGet_put h, if_neg hab]

/-! ### Home memory -/

/-- What a byte write leaves in the listed memory. -/
theorem State.putByte_mem (s : State) (pa key : Nat) (v : Byte) :
    (s.putByte pa key v).mem = memPut s.mem pa v ∨ (s.putByte pa key v).mem = memPut (s.rekey (pa / 16) key).mem pa v := by
  unfold State.putByte
  by_cases h1 : (paRegion pa).isHbm = true
  · rw [if_pos h1]
    by_cases h2 : s.blockKey (pa / 16) = some (s.keyOf key)
    · rw [if_pos h2]; exact .inl rfl
    · rw [if_neg h2]
      dsimp only
      exact .inr (Eq.refl _)
  · rw [if_neg h1]; exact .inl rfl

theorem State.rekey_wf {s : State} (h : memWf s.mem = true) (line key : Nat) : memWf (s.rekey line key).mem = true := by
  unfold State.rekey
  dsimp only
  exact memPutList_wf h _ _

theorem State.putByte_wf {s : State} (h : memWf s.mem = true) (pa key : Nat) (v : Byte) : memWf (s.putByte pa key v).mem = true := by
  rcases s.putByte_mem pa key v with e | e
  · rw [e]; exact memPut_wf h _ _
  · rw [e]; exact memPut_wf (s.rekey_wf h _ _) _ _

theorem State.putBytes_wf {s : State} (h : memWf s.mem = true) (pa key : Nat) (l : List Byte) : memWf (s.putBytes pa key l).mem = true := by
  induction l generalizing s pa with
  | nil => exact h
  | cons v vs ih => exact ih (s.putByte_wf h pa key v) (pa + 1)

theorem State.putCells_wf {s : State} (h : memWf s.mem = true) (key : Nat) (l : List (Nat × Byte)) : memWf (s.putCells key l).mem = true := by
  induction l generalizing s with
  | nil => exact h
  | cons e t ih =>
    obtain ⟨a, v⟩ := e
    exact ih (s.putByte_wf h a key v)

theorem State.performWrite_wf {s : State} (h : memWf s.mem = true) (c : Nat) (x : Option Nat) (key : Nat) (l : List (Nat × Byte)) :
    memWf (s.performWrite c x key l).mem = true := by
  simp only [State.performWrite]
  split
  · exact h
  · split
    · exact State.putCells_wf (s := s.invalidate c x _) h key _
    · exact State.putCells_wf (s := s.invalidate c x _) h key _

theorem State.zeroCore_wf {s : State} (h : memWf s.mem = true) (c n : Nat) : memWf (s.zeroCore c n).mem = true := by
  have hb : ∀ (l : List Nat) (f : Nat → Nat) (u : State), (l.foldl (fun u k => u.bumpGen (f k)) u).mem = u.mem := by
    intro l f
    induction l with
    | nil => intro u; rfl
    | cons a t ih => intro u; simp only [List.foldl_cons]; rw [ih]; rfl
  simp only [State.zeroCore]
  rw [State.modClus_mem, hb]
  exact memWf_filter h _

/-- A byte written to unscrambled memory reads back, under any key slot. -/
theorem State.byteAt_putByte {s : State} (h : memWf s.mem = true) {pa : Nat} (hr : (paRegion pa).isHbm = false) (key k2 : Nat) (v : Byte) :
    (s.putByte pa key v).byteAt pa k2 = v := by
  simp [State.putByte, State.byteAt, hr, memGet_put_self h]

end Sys2Proof.Machine
end

