-- ==== Sys2Proof/Laws/PerInstr.lean ====
section
/-! SUPPORT. The round trip of every instruction (R144 to R152): a well-formed instruction's encoding decodes to it, and the low bit of
the encoding gives its length (R141). -/

namespace Sys2Proof

set_option Elab.async false

/-- What the round trip says of one instruction. -/
def Laws.RoundTrip.Statement (i : Instr) : Prop :=
  match encode i with
  | .none => i.isEvent = true
  | .half h => h.getLsbD 0 = false ∧ (i.wf = true → decode16 h = .ok i)
  | .word w => w.getLsbD 0 = true ∧ (i.wf = true → decode32 w = .ok i)

theorem Laws.RoundTrip.add (w : Width) (d : Reg) (a : Reg) (b : Reg) : Laws.RoundTrip.Statement (.add w d a b) :=
  ⟨encR_low .., fun h => decode32_ok (by simp) (by unfold decodeMajor; rw [fMajor_encR]; change decodeIntA _ = _; unfold decodeIntA; rw [fFn_encR]; simp) h⟩
theorem Laws.RoundTrip.sub (w : Width) (d : Reg) (a : Reg) (b : Reg) : Laws.RoundTrip.Statement (.sub w d a b) :=
  ⟨encR_low .., fun h => decode32_ok (by simp) (by unfold decodeMajor; rw [fMajor_encR]; change decodeIntA _ = _; unfold decodeIntA; rw [fFn_encR]; simp) h⟩
theorem Laws.RoundTrip.mul (d : Reg) (a : Reg) (b : Reg) : Laws.RoundTrip.Statement (.mul d a b) :=
  ⟨encR_low .., fun h => decode32_ok (by simp) (by unfold decodeMajor; rw [fMajor_encR]; change decodeIntA _ = _; unfold decodeIntA; rw [fFn_encR]; simp) h⟩
theorem Laws.RoundTrip.mulh (d : Reg) (a : Reg) (b : Reg) : Laws.RoundTrip.Statement (.mulh d a b) :=
  ⟨encR_low .., fun h => decode32_ok (by simp) (by unfold decodeMajor; rw [fMajor_encR]; change decodeIntA _ = _; unfold decodeIntA; rw [fFn_encR]; simp) h⟩
theorem Laws.RoundTrip.mulhu (d : Reg) (a : Reg) (b : Reg) : Laws.RoundTrip.Statement (.mulhu d a b) :=
  ⟨encR_low .., fun h => decode32_ok (by simp) (by unfold decodeMajor; rw [fMajor_encR]; change decodeIntA _ = _; unfold decodeIntA; rw [fFn_encR]; simp) h⟩
theorem Laws.RoundTrip.div (d : Reg) (a : Reg) (b : Reg) : Laws.RoundTrip.Statement (.div d a b) :=
  ⟨encR_low .., fun h => decode32_ok (by simp) (by unfold decodeMajor; rw [fMajor_encR]; change decodeIntA _ = _; unfold decodeIntA; rw [fFn_encR]; simp) h⟩
theorem Laws.RoundTrip.divu (d : Reg) (a : Reg) (b : Reg) : Laws.RoundTrip.Statement (.divu d a b) :=
  ⟨encR_low .., fun h => decode32_ok (by simp) (by unfold decodeMajor; rw [fMajor_encR]; change decodeIntA _ = _; unfold decodeIntA; rw [fFn_encR]; simp) h⟩
theorem Laws.RoundTrip.rem (d : Reg) (a : Reg) (b : Reg) : Laws.RoundTrip.Statement (.rem d a b) :=
  ⟨encR_low .., fun h => decode32_ok (by simp) (by unfold decodeMajor; rw [fMajor_encR]; change decodeIntA _ = _; unfold decodeIntA; rw [fFn_encR]; simp) h⟩
theorem Laws.RoundTrip.remu (d : Reg) (a : Reg) (b : Reg) : Laws.RoundTrip.Statement (.remu d a b) :=
  ⟨encR_low .., fun h => decode32_ok (by simp) (by unfold decodeMajor; rw [fMajor_encR]; change decodeIntA _ = _; unfold decodeIntA; rw [fFn_encR]; simp) h⟩
theorem Laws.RoundTrip.and (w : Width) (d : Reg) (a : Reg) (b : Reg) : Laws.RoundTrip.Statement (.and w d a b) :=
  ⟨encR_low .., fun h => decode32_ok (by simp) (by unfold decodeMajor; rw [fMajor_encR]; change decodeIntA _ = _; unfold decodeIntA; rw [fFn_encR]; simp) h⟩
theorem Laws.RoundTrip.or (w : Width) (d : Reg) (a : Reg) (b : Reg) : Laws.RoundTrip.Statement (.or w d a b) :=
  ⟨encR_low .., fun h => decode32_ok (by simp) (by unfold decodeMajor; rw [fMajor_encR]; change decodeIntA _ = _; unfold decodeIntA; rw [fFn_encR]; simp) h⟩
theorem Laws.RoundTrip.xor (w : Width) (d : Reg) (a : Reg) (b : Reg) : Laws.RoundTrip.Statement (.xor w d a b) :=
  ⟨encR_low .., fun h => decode32_ok (by simp) (by unfold decodeMajor; rw [fMajor_encR]; change decodeIntA _ = _; unfold decodeIntA; rw [fFn_encR]; simp) h⟩
theorem Laws.RoundTrip.andn (w : Width) (d : Reg) (a : Reg) (b : Reg) : Laws.RoundTrip.Statement (.andn w d a b) :=
  ⟨encR_low .., fun h => decode32_ok (by simp) (by unfold decodeMajor; rw [fMajor_encR]; change decodeIntA _ = _; unfold decodeIntA; rw [fFn_encR]; simp) h⟩
theorem Laws.RoundTrip.min (d : Reg) (a : Reg) (b : Reg) : Laws.RoundTrip.Statement (.min d a b) :=
  ⟨encR_low .., fun h => decode32_ok (by simp) (by unfold decodeMajor; rw [fMajor_encR]; change decodeIntA _ = _; unfold decodeIntA; rw [fFn_encR]; simp) h⟩
theorem Laws.RoundTrip.max (d : Reg) (a : Reg) (b : Reg) : Laws.RoundTrip.Statement (.max d a b) :=
  ⟨encR_low .., fun h => decode32_ok (by simp) (by unfold decodeMajor; rw [fMajor_encR]; change decodeIntA _ = _; unfold decodeIntA; rw [fFn_encR]; simp) h⟩
theorem Laws.RoundTrip.minu (d : Reg) (a : Reg) (b : Reg) : Laws.RoundTrip.Statement (.minu d a b) :=
  ⟨encR_low .., fun h => decode32_ok (by simp) (by unfold decodeMajor; rw [fMajor_encR]; change decodeIntA _ = _; unfold decodeIntA; rw [fFn_encR]; simp) h⟩
theorem Laws.RoundTrip.maxu (d : Reg) (a : Reg) (b : Reg) : Laws.RoundTrip.Statement (.maxu d a b) :=
  ⟨encR_low .., fun h => decode32_ok (by simp) (by unfold decodeMajor; rw [fMajor_encR]; change decodeIntB _ = _; unfold decodeIntB; rw [fFn_encR]; simp) h⟩
theorem Laws.RoundTrip.shl (w : Width) (d : Reg) (a : Reg) (b : Reg) : Laws.RoundTrip.Statement (.shl w d a b) :=
  ⟨encR_low .., fun h => decode32_ok (by simp) (by unfold decodeMajor; rw [fMajor_encR]; change decodeIntB _ = _; unfold decodeIntB; rw [fFn_encR]; simp) h⟩
theorem Laws.RoundTrip.shr (w : Width) (d : Reg) (a : Reg) (b : Reg) : Laws.RoundTrip.Statement (.shr w d a b) :=
  ⟨encR_low .., fun h => decode32_ok (by simp) (by unfold decodeMajor; rw [fMajor_encR]; change decodeIntB _ = _; unfold decodeIntB; rw [fFn_encR]; simp) h⟩
theorem Laws.RoundTrip.sha (w : Width) (d : Reg) (a : Reg) (b : Reg) : Laws.RoundTrip.Statement (.sha w d a b) :=
  ⟨encR_low .., fun h => decode32_ok (by simp) (by unfold decodeMajor; rw [fMajor_encR]; change decodeIntB _ = _; unfold decodeIntB; rw [fFn_encR]; simp) h⟩
theorem Laws.RoundTrip.rot (w : Width) (d : Reg) (a : Reg) (b : Reg) : Laws.RoundTrip.Statement (.rot w d a b) :=
  ⟨encR_low .., fun h => decode32_ok (by simp) (by unfold decodeMajor; rw [fMajor_encR]; change decodeIntB _ = _; unfold decodeIntB; rw [fFn_encR]; simp) h⟩
theorem Laws.RoundTrip.clz (d : Reg) (a : Reg) : Laws.RoundTrip.Statement (.clz d a) :=
  ⟨encR_low .., fun h => decode32_ok (by simp) (by unfold decodeMajor; rw [fMajor_encR]; change decodeIntB _ = _; unfold decodeIntB; rw [fFn_encR]; simp) h⟩
theorem Laws.RoundTrip.ctz (d : Reg) (a : Reg) : Laws.RoundTrip.Statement (.ctz d a) :=
  ⟨encR_low .., fun h => decode32_ok (by simp) (by unfold decodeMajor; rw [fMajor_encR]; change decodeIntB _ = _; unfold decodeIntB; rw [fFn_encR]; simp) h⟩
theorem Laws.RoundTrip.popc (d : Reg) (a : Reg) : Laws.RoundTrip.Statement (.popc d a) :=
  ⟨encR_low .., fun h => decode32_ok (by simp) (by unfold decodeMajor; rw [fMajor_encR]; change decodeIntB _ = _; unfold decodeIntB; rw [fFn_encR]; simp) h⟩
theorem Laws.RoundTrip.brev (d : Reg) (a : Reg) : Laws.RoundTrip.Statement (.brev d a) :=
  ⟨encR_low .., fun h => decode32_ok (by simp) (by unfold decodeMajor; rw [fMajor_encR]; change decodeIntB _ = _; unfold decodeIntB; rw [fFn_encR]; simp) h⟩
theorem Laws.RoundTrip.sext (w : Width) (d : Reg) (a : Reg) (n : BitVec 5) : Laws.RoundTrip.Statement (.sext w d a n) :=
  ⟨encR_low .., fun h => decode32_ok (by simp) (by unfold decodeMajor; rw [fMajor_encR]; change decodeIntB _ = _; unfold decodeIntB; rw [fFn_encR]; simp) h⟩
theorem Laws.RoundTrip.zext (w : Width) (d : Reg) (a : Reg) (n : BitVec 5) : Laws.RoundTrip.Statement (.zext w d a n) :=
  ⟨encR_low .., fun h => decode32_ok (by simp) (by unfold decodeMajor; rw [fMajor_encR]; change decodeIntB _ = _; unfold decodeIntB; rw [fFn_encR]; simp) h⟩
theorem Laws.RoundTrip.mov (w : Width) (d : Reg) (a : Reg) : Laws.RoundTrip.Statement (.mov w d a) :=
  ⟨encR_low .., fun h => decode32_ok (by simp) (by unfold decodeMajor; rw [fMajor_encR]; change decodeIntB _ = _; unfold decodeIntB; rw [fFn_encR]; simp) h⟩
theorem Laws.RoundTrip.sel (w : Width) (d : Reg) (a : Reg) (b : Reg) : Laws.RoundTrip.Statement (.sel w d a b) :=
  ⟨encR_low .., fun h => decode32_ok (by simp) (by unfold decodeMajor; rw [fMajor_encR]; change decodeIntB _ = _; unfold decodeIntB; rw [fFn_encR]; simp) h⟩
theorem Laws.RoundTrip.setCc (c : Cc) (w : Width) (d : Reg) (a : Reg) (b : Reg) : Laws.RoundTrip.Statement (.setCc c w d a b) :=
  ⟨encR_low .., fun h => decode32_ok (by simp) (by unfold decodeMajor; rw [fMajor_encR]; simp) h⟩
theorem Laws.RoundTrip.addi (d : Reg) (a : Reg) (i : BitVec 12) : Laws.RoundTrip.Statement (.addi d a i) :=
  ⟨encI_low .., fun h => decode32_ok (by simp) (by unfold decodeMajor; rw [fMajor_encI]; simp) h⟩
theorem Laws.RoundTrip.andi (d : Reg) (a : Reg) (i : BitVec 12) : Laws.RoundTrip.Statement (.andi d a i) :=
  ⟨encI_low .., fun h => decode32_ok (by simp) (by unfold decodeMajor; rw [fMajor_encI]; simp) h⟩
theorem Laws.RoundTrip.ori (d : Reg) (a : Reg) (i : BitVec 12) : Laws.RoundTrip.Statement (.ori d a i) :=
  ⟨encI_low .., fun h => decode32_ok (by simp) (by unfold decodeMajor; rw [fMajor_encI]; simp) h⟩
theorem Laws.RoundTrip.xori (d : Reg) (a : Reg) (i : BitVec 12) : Laws.RoundTrip.Statement (.xori d a i) :=
  ⟨encI_low .., fun h => decode32_ok (by simp) (by unfold decodeMajor; rw [fMajor_encI]; simp) h⟩
theorem Laws.RoundTrip.shli (d : Reg) (a : Reg) (k : BitVec 5) : Laws.RoundTrip.Statement (.shli d a k) :=
  ⟨encI_low .., fun h => decode32_ok (by simp) (by unfold decodeMajor; rw [fMajor_encI]; change decodeShiftImm _ = _; unfold decodeShiftImm; rw [fImm_encI, append_mid, append_top, append_end]; simp) h⟩
theorem Laws.RoundTrip.shri (d : Reg) (a : Reg) (k : BitVec 5) : Laws.RoundTrip.Statement (.shri d a k) :=
  ⟨encI_low .., fun h => decode32_ok (by simp) (by unfold decodeMajor; rw [fMajor_encI]; change decodeShiftImm _ = _; unfold decodeShiftImm; rw [fImm_encI, append_mid, append_top, append_end]; simp) h⟩
theorem Laws.RoundTrip.shai (d : Reg) (a : Reg) (k : BitVec 5) : Laws.RoundTrip.Statement (.shai d a k) :=
  ⟨encI_low .., fun h => decode32_ok (by simp) (by unfold decodeMajor; rw [fMajor_encI]; change decodeShiftImm _ = _; unfold decodeShiftImm; rw [fImm_encI, append_mid, append_top, append_end]; simp) h⟩
theorem Laws.RoundTrip.roti (d : Reg) (a : Reg) (k : BitVec 5) : Laws.RoundTrip.Statement (.roti d a k) :=
  ⟨encI_low .., fun h => decode32_ok (by simp) (by unfold decodeMajor; rw [fMajor_encI]; change decodeShiftImm _ = _; unfold decodeShiftImm; rw [fImm_encI, append_mid, append_top, append_end]; simp) h⟩
theorem Laws.RoundTrip.bfx (d : Reg) (a : Reg) (p : BitVec 5) (l : BitVec 5) : Laws.RoundTrip.Statement (.bfx d a p l) :=
  ⟨encI_low .., fun h => decode32_ok (by simp) (by unfold decodeMajor; rw [fMajor_encI]; simp [append_mid, append_top, append_end]) h⟩
theorem Laws.RoundTrip.bfi (d : Reg) (a : Reg) (p : BitVec 5) (l : BitVec 5) : Laws.RoundTrip.Statement (.bfi d a p l) :=
  ⟨encI_low .., fun h => decode32_ok (by simp) (by unfold decodeMajor; rw [fMajor_encI]; simp [append_mid, append_top, append_end]) h⟩
theorem Laws.RoundTrip.movi (d : Reg) (i : BitVec 18) : Laws.RoundTrip.Statement (.movi d i) :=
  ⟨enc18_low .., fun h => decode32_ok (by simp) (by unfold decodeMajor; rw [fMajor_enc18]; simp) h⟩
theorem Laws.RoundTrip.movhi (d : Reg) (i : BitVec 18) : Laws.RoundTrip.Statement (.movhi d i) :=
  ⟨enc18_low .., fun h => decode32_ok (by simp) (by unfold decodeMajor; rw [fMajor_enc18]; simp) h⟩
theorem Laws.RoundTrip.lea (d : Reg) (a : Reg) (i : BitVec 12) : Laws.RoundTrip.Statement (.lea d a i) :=
  ⟨encI_low .., fun h => decode32_ok (by simp) (by unfold decodeMajor; rw [fMajor_encI]; simp) h⟩
theorem Laws.RoundTrip.beq (a : Reg) (b : Reg) (o : BitVec 12) : Laws.RoundTrip.Statement (.beq a b o) :=
  ⟨encI_low .., fun h => decode32_ok (by simp) (by unfold decodeMajor; rw [fMajor_encI]; simp) h⟩
theorem Laws.RoundTrip.bne (a : Reg) (b : Reg) (o : BitVec 12) : Laws.RoundTrip.Statement (.bne a b o) :=
  ⟨encI_low .., fun h => decode32_ok (by simp) (by unfold decodeMajor; rw [fMajor_encI]; simp) h⟩
theorem Laws.RoundTrip.blt (a : Reg) (b : Reg) (o : BitVec 12) : Laws.RoundTrip.Statement (.blt a b o) :=
  ⟨encI_low .., fun h => decode32_ok (by simp) (by unfold decodeMajor; rw [fMajor_encI]; simp) h⟩
theorem Laws.RoundTrip.bge (a : Reg) (b : Reg) (o : BitVec 12) : Laws.RoundTrip.Statement (.bge a b o) :=
  ⟨encI_low .., fun h => decode32_ok (by simp) (by unfold decodeMajor; rw [fMajor_encI]; simp) h⟩
theorem Laws.RoundTrip.bltu (a : Reg) (b : Reg) (o : BitVec 12) : Laws.RoundTrip.Statement (.bltu a b o) :=
  ⟨encI_low .., fun h => decode32_ok (by simp) (by unfold decodeMajor; rw [fMajor_encI]; simp) h⟩
theorem Laws.RoundTrip.bgeu (a : Reg) (b : Reg) (o : BitVec 12) : Laws.RoundTrip.Statement (.bgeu a b o) :=
  ⟨encI_low .., fun h => decode32_ok (by simp) (by unfold decodeMajor; rw [fMajor_encI]; simp) h⟩
theorem Laws.RoundTrip.briEq (a : Reg) (i : BitVec 6) (o : BitVec 12) : Laws.RoundTrip.Statement (.briEq a i o) :=
  ⟨encI_low .., fun h => decode32_ok (by simp) (by unfold decodeMajor; rw [fMajor_encI]; simp) h⟩
theorem Laws.RoundTrip.briNe (a : Reg) (i : BitVec 6) (o : BitVec 12) : Laws.RoundTrip.Statement (.briNe a i o) :=
  ⟨encI_low .., fun h => decode32_ok (by simp) (by unfold decodeMajor; rw [fMajor_encI]; simp) h⟩
theorem Laws.RoundTrip.briLt (a : Reg) (i : BitVec 6) (o : BitVec 12) : Laws.RoundTrip.Statement (.briLt a i o) :=
  ⟨encI_low .., fun h => decode32_ok (by simp) (by unfold decodeMajor; rw [fMajor_encI]; simp) h⟩
theorem Laws.RoundTrip.briGe (a : Reg) (i : BitVec 6) (o : BitVec 12) : Laws.RoundTrip.Statement (.briGe a i o) :=
  ⟨encI_low .., fun h => decode32_ok (by simp) (by unfold decodeMajor; rw [fMajor_encI]; simp) h⟩
theorem Laws.RoundTrip.briLtu (a : Reg) (i : BitVec 6) (o : BitVec 12) : Laws.RoundTrip.Statement (.briLtu a i o) :=
  ⟨encI_low .., fun h => decode32_ok (by simp) (by unfold decodeMajor; rw [fMajor_encI]; simp) h⟩
theorem Laws.RoundTrip.briGeu (a : Reg) (i : BitVec 6) (o : BitVec 12) : Laws.RoundTrip.Statement (.briGeu a i o) :=
  ⟨encI_low .., fun h => decode32_ok (by simp) (by unfold decodeMajor; rw [fMajor_encI]; simp) h⟩
theorem Laws.RoundTrip.j (o : BitVec 24) : Laws.RoundTrip.Statement (.j o) :=
  ⟨encJ_low .., fun h => decode32_ok (by simp) (by unfold decodeMajor; rw [fMajor_encJ]; simp) h⟩
theorem Laws.RoundTrip.jl (o : BitVec 24) : Laws.RoundTrip.Statement (.jl o) :=
  ⟨encJ_low .., fun h => decode32_ok (by simp) (by unfold decodeMajor; rw [fMajor_encJ]; simp) h⟩
theorem Laws.RoundTrip.jlr (d : Reg) (a : Reg) : Laws.RoundTrip.Statement (.jlr d a) :=
  ⟨encR_low .., fun h => decode32_ok (by simp) (by unfold decodeMajor; rw [fMajor_encR]; change decodeControl _ = _; unfold decodeControl; rw [fFn_encR]; simp) h⟩
theorem Laws.RoundTrip.loop (a : Reg) (o : BitVec 12) : Laws.RoundTrip.Statement (.loop a o) :=
  ⟨encI_low .., fun h => decode32_ok (by simp) (by unfold decodeMajor; rw [fMajor_encI]; simp) h⟩
theorem Laws.RoundTrip.loopi (c : BitVec 12) (o : BitVec 12) : Laws.RoundTrip.Statement (.loopi c o) :=
  ⟨encCount_low .., fun h => decode32_ok (by simp) (by unfold decodeMajor; rw [fMajor_encCount]; simp) h⟩
theorem Laws.RoundTrip.nop  : Laws.RoundTrip.Statement .nop :=
  ⟨encR_low .., fun h => decode32_ok (by simp) (by unfold decodeMajor; rw [fMajor_encR]; change decodeControl _ = _; unfold decodeControl; rw [fFn_encR]; simp) h⟩
theorem Laws.RoundTrip.yield  : Laws.RoundTrip.Statement .yield :=
  ⟨encR_low .., fun h => decode32_ok (by simp) (by unfold decodeMajor; rw [fMajor_encR]; change decodeControl _ = _; unfold decodeControl; rw [fFn_encR]; simp) h⟩
theorem Laws.RoundTrip.halt  : Laws.RoundTrip.Statement .halt :=
  ⟨encR_low .., fun h => decode32_ok (by simp) (by unfold decodeMajor; rw [fMajor_encR]; change decodeControl _ = _; unfold decodeControl; rw [fFn_encR]; simp) h⟩
theorem Laws.RoundTrip.lexit  : Laws.RoundTrip.Statement .lexit :=
  ⟨encR_low .., fun h => decode32_ok (by simp) (by unfold decodeMajor; rw [fMajor_encR]; change decodeControl _ = _; unfold decodeControl; rw [fFn_encR]; simp) h⟩
theorem Laws.RoundTrip.mfs (d : Reg) (sr : SReg) : Laws.RoundTrip.Statement (.mfs d sr) :=
  ⟨encI_low .., fun h => decode32_ok (by simp) (by unfold decodeMajor; rw [fMajor_encI]; simp) h⟩
theorem Laws.RoundTrip.mts (sr : SReg) (a : Reg) : Laws.RoundTrip.Statement (.mts sr a) :=
  ⟨encI_low .., fun h => decode32_ok (by simp) (by unfold decodeMajor; rw [fMajor_encI]; simp) h⟩
theorem Laws.RoundTrip.trap (c : BitVec 6) : Laws.RoundTrip.Statement (.trap c) :=
  ⟨encR_low .., fun h => decode32_ok (by simp) (by unfold decodeMajor; rw [fMajor_encR]; change decodeSystem _ = _; unfold decodeSystem; rw [fFn_encR]; simp) h⟩
theorem Laws.RoundTrip.rft  : Laws.RoundTrip.Statement .rft :=
  ⟨encR_low .., fun h => decode32_ok (by simp) (by unfold decodeMajor; rw [fMajor_encR]; change decodeSystem _ = _; unfold decodeSystem; rw [fFn_encR]; simp) h⟩
theorem Laws.RoundTrip.bkpt  : Laws.RoundTrip.Statement .bkpt :=
  ⟨encR_low .., fun h => decode32_ok (by simp) (by unfold decodeMajor; rw [fMajor_encR]; change decodeSystem _ = _; unfold decodeSystem; rw [fFn_encR]; simp) h⟩
theorem Laws.RoundTrip.svc (n : Reg) : Laws.RoundTrip.Statement (.svc n) :=
  ⟨encR_low .., fun h => decode32_ok (by simp) (by unfold decodeMajor; rw [fMajor_encR]; change decodeSystem _ = _; unfold decodeSystem; rw [fFn_encR]; simp) h⟩
theorem Laws.RoundTrip.ldbH (o : LdOrd) (d : Reg) (a : Reg) (i : BitVec 10) : Laws.RoundTrip.Statement (.ldbH o d a i) :=
  ⟨encI_low .., fun h => decode32_ok (by simp) (by unfold decodeMajor; rw [fMajor_encI]; simp) h⟩
theorem Laws.RoundTrip.ldbuH (o : LdOrd) (d : Reg) (a : Reg) (i : BitVec 10) : Laws.RoundTrip.Statement (.ldbuH o d a i) :=
  ⟨encI_low .., fun h => decode32_ok (by simp) (by unfold decodeMajor; rw [fMajor_encI]; simp) h⟩
theorem Laws.RoundTrip.ldhH (o : LdOrd) (d : Reg) (a : Reg) (i : BitVec 10) : Laws.RoundTrip.Statement (.ldhH o d a i) :=
  ⟨encI_low .., fun h => decode32_ok (by simp) (by unfold decodeMajor; rw [fMajor_encI]; simp) h⟩
theorem Laws.RoundTrip.ldhuH (o : LdOrd) (d : Reg) (a : Reg) (i : BitVec 10) : Laws.RoundTrip.Statement (.ldhuH o d a i) :=
  ⟨encI_low .., fun h => decode32_ok (by simp) (by unfold decodeMajor; rw [fMajor_encI]; simp) h⟩
theorem Laws.RoundTrip.ldwH (o : LdOrd) (d : Reg) (a : Reg) (i : BitVec 10) : Laws.RoundTrip.Statement (.ldwH o d a i) :=
  ⟨encI_low .., fun h => decode32_ok (by simp) (by unfold decodeMajor; rw [fMajor_encI]; simp) h⟩
theorem Laws.RoundTrip.lddH (o : LdOrd) (d : Reg) (a : Reg) (i : BitVec 10) : Laws.RoundTrip.Statement (.lddH o d a i) :=
  ⟨encI_low .., fun h => decode32_ok (by simp) (by unfold decodeMajor; rw [fMajor_encI]; simp) h⟩
theorem Laws.RoundTrip.ldqH (o : LdOrd) (d : Reg) (a : Reg) (i : BitVec 10) : Laws.RoundTrip.Statement (.ldqH o d a i) :=
  ⟨encI_low .., fun h => decode32_ok (by simp) (by unfold decodeMajor; rw [fMajor_encI]; simp) h⟩
theorem Laws.RoundTrip.ldoH (o : LdOrd) (d : Reg) (a : Reg) (i : BitVec 10) : Laws.RoundTrip.Statement (.ldoH o d a i) :=
  ⟨encI_low .., fun h => decode32_ok (by simp) (by unfold decodeMajor; rw [fMajor_encI]; simp) h⟩
theorem Laws.RoundTrip.ldbG (o : LdOrd) (d : Reg) (a : Reg) (i : BitVec 10) : Laws.RoundTrip.Statement (.ldbG o d a i) :=
  ⟨encI_low .., fun h => decode32_ok (by simp) (by unfold decodeMajor; rw [fMajor_encI]; simp) h⟩
theorem Laws.RoundTrip.ldbuG (o : LdOrd) (d : Reg) (a : Reg) (i : BitVec 10) : Laws.RoundTrip.Statement (.ldbuG o d a i) :=
  ⟨encI_low .., fun h => decode32_ok (by simp) (by unfold decodeMajor; rw [fMajor_encI]; simp) h⟩
theorem Laws.RoundTrip.ldhG (o : LdOrd) (d : Reg) (a : Reg) (i : BitVec 10) : Laws.RoundTrip.Statement (.ldhG o d a i) :=
  ⟨encI_low .., fun h => decode32_ok (by simp) (by unfold decodeMajor; rw [fMajor_encI]; simp) h⟩
theorem Laws.RoundTrip.ldhuG (o : LdOrd) (d : Reg) (a : Reg) (i : BitVec 10) : Laws.RoundTrip.Statement (.ldhuG o d a i) :=
  ⟨encI_low .., fun h => decode32_ok (by simp) (by unfold decodeMajor; rw [fMajor_encI]; simp) h⟩
theorem Laws.RoundTrip.ldwG (o : LdOrd) (d : Reg) (a : Reg) (i : BitVec 10) : Laws.RoundTrip.Statement (.ldwG o d a i) :=
  ⟨encI_low .., fun h => decode32_ok (by simp) (by unfold decodeMajor; rw [fMajor_encI]; simp) h⟩
theorem Laws.RoundTrip.lddG (o : LdOrd) (d : Reg) (a : Reg) (i : BitVec 10) : Laws.RoundTrip.Statement (.lddG o d a i) :=
  ⟨encI_low .., fun h => decode32_ok (by simp) (by unfold decodeMajor; rw [fMajor_encI]; simp) h⟩
theorem Laws.RoundTrip.ldqG (o : LdOrd) (d : Reg) (a : Reg) (i : BitVec 10) : Laws.RoundTrip.Statement (.ldqG o d a i) :=
  ⟨encI_low .., fun h => decode32_ok (by simp) (by unfold decodeMajor; rw [fMajor_encI]; simp) h⟩
theorem Laws.RoundTrip.ldoG (o : LdOrd) (d : Reg) (a : Reg) (i : BitVec 10) : Laws.RoundTrip.Statement (.ldoG o d a i) :=
  ⟨encI_low .., fun h => decode32_ok (by simp) (by unfold decodeMajor; rw [fMajor_encI]; simp) h⟩
theorem Laws.RoundTrip.stb (o : StOrd) (d : Reg) (a : Reg) (i : BitVec 10) : Laws.RoundTrip.Statement (.stb o d a i) :=
  ⟨encI_low .., fun h => decode32_ok (by simp) (by unfold decodeMajor; rw [fMajor_encI]; simp) h⟩
theorem Laws.RoundTrip.sth (o : StOrd) (d : Reg) (a : Reg) (i : BitVec 10) : Laws.RoundTrip.Statement (.sth o d a i) :=
  ⟨encI_low .., fun h => decode32_ok (by simp) (by unfold decodeMajor; rw [fMajor_encI]; simp) h⟩
theorem Laws.RoundTrip.stw (o : StOrd) (d : Reg) (a : Reg) (i : BitVec 10) : Laws.RoundTrip.Statement (.stw o d a i) :=
  ⟨encI_low .., fun h => decode32_ok (by simp) (by unfold decodeMajor; rw [fMajor_encI]; simp) h⟩
theorem Laws.RoundTrip.std (o : StOrd) (d : Reg) (a : Reg) (i : BitVec 10) : Laws.RoundTrip.Statement (.std o d a i) :=
  ⟨encI_low .., fun h => decode32_ok (by simp) (by unfold decodeMajor; rw [fMajor_encI]; simp) h⟩
theorem Laws.RoundTrip.stq (o : StOrd) (d : Reg) (a : Reg) (i : BitVec 10) : Laws.RoundTrip.Statement (.stq o d a i) :=
  ⟨encI_low .., fun h => decode32_ok (by simp) (by unfold decodeMajor; rw [fMajor_encI]; simp) h⟩
theorem Laws.RoundTrip.sto (o : StOrd) (d : Reg) (a : Reg) (i : BitVec 10) : Laws.RoundTrip.Statement (.sto o d a i) :=
  ⟨encI_low .., fun h => decode32_ok (by simp) (by unfold decodeMajor; rw [fMajor_encI]; simp) h⟩
theorem Laws.RoundTrip.ldl (w : Width) (d : Reg) (a : Reg) (i : BitVec 10) : Laws.RoundTrip.Statement (.ldl w d a i) :=
  ⟨encI_low .., fun h => decode32_ok (by simp) (by unfold decodeMajor; rw [fMajor_encI]; simp) h⟩
theorem Laws.RoundTrip.stl (w : Width) (d : Reg) (a : Reg) (i : BitVec 10) : Laws.RoundTrip.Statement (.stl w d a i) :=
  ⟨encI_low .., fun h => decode32_ok (by simp) (by unfold decodeMajor; rw [fMajor_encI]; simp) h⟩
theorem Laws.RoundTrip.atomAdd (o : AtOrd) (w : Width) (d : Reg) (a : Reg) (b : Reg) : Laws.RoundTrip.Statement (.atomAdd o w d a b) :=
  ⟨encR_low .., fun h => decode32_ok (by rw [fMajor_encR]; exact atom_major o) (by rw [decodeMajor_atom]; unfold decodeAtom; rw [fFn_encR]; simp) h⟩
theorem Laws.RoundTrip.atomMin (o : AtOrd) (w : Width) (d : Reg) (a : Reg) (b : Reg) : Laws.RoundTrip.Statement (.atomMin o w d a b) :=
  ⟨encR_low .., fun h => decode32_ok (by rw [fMajor_encR]; exact atom_major o) (by rw [decodeMajor_atom]; unfold decodeAtom; rw [fFn_encR]; simp) h⟩
theorem Laws.RoundTrip.atomMax (o : AtOrd) (w : Width) (d : Reg) (a : Reg) (b : Reg) : Laws.RoundTrip.Statement (.atomMax o w d a b) :=
  ⟨encR_low .., fun h => decode32_ok (by rw [fMajor_encR]; exact atom_major o) (by rw [decodeMajor_atom]; unfold decodeAtom; rw [fFn_encR]; simp) h⟩
theorem Laws.RoundTrip.atomMinu (o : AtOrd) (w : Width) (d : Reg) (a : Reg) (b : Reg) : Laws.RoundTrip.Statement (.atomMinu o w d a b) :=
  ⟨encR_low .., fun h => decode32_ok (by rw [fMajor_encR]; exact atom_major o) (by rw [decodeMajor_atom]; unfold decodeAtom; rw [fFn_encR]; simp) h⟩
theorem Laws.RoundTrip.atomMaxu (o : AtOrd) (w : Width) (d : Reg) (a : Reg) (b : Reg) : Laws.RoundTrip.Statement (.atomMaxu o w d a b) :=
  ⟨encR_low .., fun h => decode32_ok (by rw [fMajor_encR]; exact atom_major o) (by rw [decodeMajor_atom]; unfold decodeAtom; rw [fFn_encR]; simp) h⟩
theorem Laws.RoundTrip.atomAnd (o : AtOrd) (w : Width) (d : Reg) (a : Reg) (b : Reg) : Laws.RoundTrip.Statement (.atomAnd o w d a b) :=
  ⟨encR_low .., fun h => decode32_ok (by rw [fMajor_encR]; exact atom_major o) (by rw [decodeMajor_atom]; unfold decodeAtom; rw [fFn_encR]; simp) h⟩
theorem Laws.RoundTrip.atomOr (o : AtOrd) (w : Width) (d : Reg) (a : Reg) (b : Reg) : Laws.RoundTrip.Statement (.atomOr o w d a b) :=
  ⟨encR_low .., fun h => decode32_ok (by rw [fMajor_encR]; exact atom_major o) (by rw [decodeMajor_atom]; unfold decodeAtom; rw [fFn_encR]; simp) h⟩
theorem Laws.RoundTrip.atomXor (o : AtOrd) (w : Width) (d : Reg) (a : Reg) (b : Reg) : Laws.RoundTrip.Statement (.atomXor o w d a b) :=
  ⟨encR_low .., fun h => decode32_ok (by rw [fMajor_encR]; exact atom_major o) (by rw [decodeMajor_atom]; unfold decodeAtom; rw [fFn_encR]; simp) h⟩
theorem Laws.RoundTrip.atomSwap (o : AtOrd) (w : Width) (d : Reg) (a : Reg) (b : Reg) : Laws.RoundTrip.Statement (.atomSwap o w d a b) :=
  ⟨encR_low .., fun h => decode32_ok (by rw [fMajor_encR]; exact atom_major o) (by rw [decodeMajor_atom]; unfold decodeAtom; rw [fFn_encR]; simp) h⟩
theorem Laws.RoundTrip.atomCas (o : AtOrd) (w : Width) (d : Reg) (a : Reg) (b : Reg) : Laws.RoundTrip.Statement (.atomCas o w d a b) :=
  ⟨encR_low .., fun h => decode32_ok (by rw [fMajor_encR]; exact atom_major o) (by rw [decodeMajor_atom]; unfold decodeAtom; rw [fFn_encR]; simp) h⟩
theorem Laws.RoundTrip.fence (sc : Scope) : Laws.RoundTrip.Statement (.fence sc) :=
  ⟨encR_low .., fun h => decode32_ok (by simp) (by unfold decodeMajor; rw [fMajor_encR]; change decodeMemCtl _ = _; unfold decodeMemCtl; rw [fFn_encR]; simp) h⟩
theorem Laws.RoundTrip.fenceP (a : Path) (b : Path) : Laws.RoundTrip.Statement (.fenceP a b) :=
  ⟨encR_low .., fun h => decode32_ok (by simp) (by unfold decodeMajor; rw [fMajor_encR]; change decodeMemCtl _ = _; unfold decodeMemCtl; rw [fFn_encR]; simp) h⟩
theorem Laws.RoundTrip.rwb (a : Reg) (b : Reg) : Laws.RoundTrip.Statement (.rwb a b) :=
  ⟨encR_low .., fun h => decode32_ok (by simp) (by unfold decodeMajor; rw [fMajor_encR]; change decodeMemCtl _ = _; unfold decodeMemCtl; rw [fFn_encR]; simp) h⟩
theorem Laws.RoundTrip.rinv (a : Reg) (b : Reg) : Laws.RoundTrip.Statement (.rinv a b) :=
  ⟨encR_low .., fun h => decode32_ok (by simp) (by unfold decodeMajor; rw [fMajor_encR]; change decodeMemCtl _ = _; unfold decodeMemCtl; rw [fFn_encR]; simp) h⟩
theorem Laws.RoundTrip.clean (a : Reg) (b : Reg) : Laws.RoundTrip.Statement (.clean a b) :=
  ⟨encR_low .., fun h => decode32_ok (by simp) (by unfold decodeMajor; rw [fMajor_encR]; change decodeMemCtl _ = _; unfold decodeMemCtl; rw [fFn_encR]; simp) h⟩
theorem Laws.RoundTrip.pull (a : Reg) (b : Reg) (t : Tag) : Laws.RoundTrip.Statement (.pull a b t) :=
  ⟨encX_low .., fun h => decode32_ok (by simp) (by unfold decodeMajor; rw [fMajor_encX]; change decodePulls _ = _; unfold decodePulls; rw [fFn_encX]; simp) h⟩
theorem Laws.RoundTrip.pulld (a : Reg) (b : Reg) (t : Tag) : Laws.RoundTrip.Statement (.pulld a b t) :=
  ⟨encX_low .., fun h => decode32_ok (by simp) (by unfold decodeMajor; rw [fMajor_encX]; change decodePulls _ = _; unfold decodePulls; rw [fFn_encX]; simp) h⟩
theorem Laws.RoundTrip.pullc (a : Reg) (b : Reg) (t : Tag) : Laws.RoundTrip.Statement (.pullc a b t) :=
  ⟨encX_low .., fun h => decode32_ok (by simp) (by unfold decodeMajor; rw [fMajor_encX]; change decodePulls _ = _; unfold decodePulls; rw [fFn_encX]; simp) h⟩
theorem Laws.RoundTrip.stream (b : Reg) (p : Reg) (t : Tag) : Laws.RoundTrip.Statement (.stream b p t) :=
  ⟨encX_low .., fun h => decode32_ok (by simp) (by unfold decodeMajor; rw [fMajor_encX]; change decodePulls _ = _; unfold decodePulls; rw [fFn_encX]; simp) h⟩
theorem Laws.RoundTrip.tagwaitAny (d : Reg) (a : Reg) : Laws.RoundTrip.Statement (.tagwaitAny d a) :=
  ⟨encR_low .., fun h => decode32_ok (by simp) (by unfold decodeMajor; rw [fMajor_encR]; change decodeTags _ = _; unfold decodeTags; rw [fFn_encR]; simp) h⟩
theorem Laws.RoundTrip.tagwaitAll (a : Reg) : Laws.RoundTrip.Statement (.tagwaitAll a) :=
  ⟨encR_low .., fun h => decode32_ok (by simp) (by unfold decodeMajor; rw [fMajor_encR]; change decodeTags _ = _; unfold decodeTags; rw [fFn_encR]; simp) h⟩
theorem Laws.RoundTrip.tagff (d : Reg) (a : Reg) : Laws.RoundTrip.Statement (.tagff d a) :=
  ⟨encR_low .., fun h => decode32_ok (by simp) (by unfold decodeMajor; rw [fMajor_encR]; change decodeTags _ = _; unfold decodeTags; rw [fFn_encR]; simp) h⟩
theorem Laws.RoundTrip.tagclr (a : Reg) : Laws.RoundTrip.Statement (.tagclr a) :=
  ⟨encR_low .., fun h => decode32_ok (by simp) (by unfold decodeMajor; rw [fMajor_encR]; change decodeTags _ = _; unfold decodeTags; rw [fFn_encR]; simp) h⟩
theorem Laws.RoundTrip.tagtst (d : Reg) (t : Tag) : Laws.RoundTrip.Statement (.tagtst d t) :=
  ⟨encR_low .., fun h => decode32_ok (by simp) (by unfold decodeMajor; rw [fMajor_encR]; change decodeTags _ = _; unfold decodeTags; rw [fFn_encR]; simp) h⟩
theorem Laws.RoundTrip.sclose (a : Reg) : Laws.RoundTrip.Statement (.sclose a) :=
  ⟨encR_low .., fun h => decode32_ok (by simp) (by unfold decodeMajor; rw [fMajor_encR]; change decodeTags _ = _; unfold decodeTags; rw [fFn_encR]; simp) h⟩
theorem Laws.RoundTrip.mma (a : Reg) (b : Reg) (t : Tag) : Laws.RoundTrip.Statement (.mma a b t) :=
  ⟨encX_low .., fun h => decode32_ok (by simp) (by unfold decodeMajor; rw [fMajor_encX]; change decodeMatrix _ = _; unfold decodeMatrix; rw [fFn_encX]; simp) h⟩
theorem Laws.RoundTrip.mmas (a : Reg) (b : Reg) (t : Tag) : Laws.RoundTrip.Statement (.mmas a b t) :=
  ⟨encX_low .., fun h => decode32_ok (by simp) (by unfold decodeMajor; rw [fMajor_encX]; change decodeMatrix _ = _; unfold decodeMatrix; rw [fFn_encX]; simp) h⟩
theorem Laws.RoundTrip.msend (a : Reg) (b : Reg) (t : Tag) : Laws.RoundTrip.Statement (.msend a b t) :=
  ⟨encX_low .., fun h => decode32_ok (by simp) (by unfold decodeMajor; rw [fMajor_encX]; change decodeMatrix _ = _; unfold decodeMatrix; rw [fFn_encX]; simp) h⟩
theorem Laws.RoundTrip.mdrain (a : Reg) (t : Tag) : Laws.RoundTrip.Statement (.mdrain a t) :=
  ⟨encX_low .., fun h => decode32_ok (by simp) (by unfold decodeMajor; rw [fMajor_encX]; change decodeMatrix _ = _; unfold decodeMatrix; rw [fFn_encX]; simp) h⟩
theorem Laws.RoundTrip.mzero (a : Reg) (t : Tag) : Laws.RoundTrip.Statement (.mzero a t) :=
  ⟨encX_low .., fun h => decode32_ok (by simp) (by unfold decodeMajor; rw [fMajor_encX]; change decodeMatrix _ = _; unfold decodeMatrix; rw [fFn_encX]; simp) h⟩
theorem Laws.RoundTrip.plane (b : Reg) (s : Reg) : Laws.RoundTrip.Statement (.plane b s) :=
  ⟨encX_low .., fun h => decode32_ok (by simp) (by unfold decodeMajor; rw [fMajor_encX]; change decodeMatrix _ = _; unfold decodeMatrix; rw [fFn_encX]; simp) h⟩
theorem Laws.RoundTrip.tidset (a : Reg) (b : Reg) : Laws.RoundTrip.Statement (.tidset a b) :=
  ⟨encR_low .., fun h => decode32_ok (by simp) (by unfold decodeMajor; rw [fMajor_encR]; change decodeTid _ = _; unfold decodeTid; rw [fFn_encR]; simp) h⟩
theorem Laws.RoundTrip.tidclr (a : Reg) : Laws.RoundTrip.Statement (.tidclr a) :=
  ⟨encR_low .., fun h => decode32_ok (by simp) (by unfold decodeMajor; rw [fMajor_encR]; change decodeTid _ = _; unfold decodeTid; rw [fFn_encR]; simp) h⟩
theorem Laws.RoundTrip.pub (a : Reg) (b : Reg) : Laws.RoundTrip.Statement (.pub a b) :=
  ⟨encR_low .., fun h => decode32_ok (by simp) (by unfold decodeMajor; rw [fMajor_encR]; change decodeSync _ = _; unfold decodeSync; rw [fFn_encR]; simp) h⟩
theorem Laws.RoundTrip.pubi (a : Reg) (i : BitVec 12) : Laws.RoundTrip.Statement (.pubi a i) :=
  ⟨encI_low .., fun h => decode32_ok (by simp) (by unfold decodeMajor; rw [fMajor_encI]; simp) h⟩
theorem Laws.RoundTrip.unwatch (d : Reg) (t : Tag) : Laws.RoundTrip.Statement (.unwatch d t) :=
  ⟨encR_low .., fun h => decode32_ok (by simp) (by unfold decodeMajor; rw [fMajor_encR]; change decodeSync _ = _; unfold decodeSync; rw [fFn_encR]; simp) h⟩
theorem Laws.RoundTrip.bar (a : Reg) : Laws.RoundTrip.Statement (.bar a) :=
  ⟨encR_low .., fun h => decode32_ok (by simp) (by unfold decodeMajor; rw [fMajor_encR]; change decodeSync _ = _; unfold decodeSync; rw [fFn_encR]; simp) h⟩
theorem Laws.RoundTrip.bara (d : Reg) (a : Reg) : Laws.RoundTrip.Statement (.bara d a) :=
  ⟨encR_low .., fun h => decode32_ok (by simp) (by unfold decodeMajor; rw [fMajor_encR]; change decodeSync _ = _; unfold decodeSync; rw [fFn_encR]; simp) h⟩
theorem Laws.RoundTrip.barw (a : Reg) (b : Reg) : Laws.RoundTrip.Statement (.barw a b) :=
  ⟨encR_low .., fun h => decode32_ok (by simp) (by unfold decodeMajor; rw [fMajor_encR]; change decodeSync _ = _; unfold decodeSync; rw [fFn_encR]; simp) h⟩
theorem Laws.RoundTrip.convoy (m : Reg) : Laws.RoundTrip.Statement (.convoy m) :=
  ⟨encR_low .., fun h => decode32_ok (by simp) (by unfold decodeMajor; rw [fMajor_encR]; change decodeSync _ = _; unfold decodeSync; rw [fFn_encR]; simp) h⟩
theorem Laws.RoundTrip.cjoin  : Laws.RoundTrip.Statement .cjoin :=
  ⟨encR_low .., fun h => decode32_ok (by simp) (by unfold decodeMajor; rw [fMajor_encR]; change decodeSync _ = _; unfold decodeSync; rw [fFn_encR]; simp) h⟩
theorem Laws.RoundTrip.cleave  : Laws.RoundTrip.Statement .cleave :=
  ⟨encR_low .., fun h => decode32_ok (by simp) (by unfold decodeMajor; rw [fMajor_encR]; change decodeSync _ = _; unfold decodeSync; rw [fFn_encR]; simp) h⟩
theorem Laws.RoundTrip.watch (a : Reg) (t : Tag) : Laws.RoundTrip.Statement (.watch a t) :=
  ⟨encX_low .., fun h => decode32_ok (by simp) (by unfold decodeMajor; rw [fMajor_encX]; change decodeWatch _ = _; unfold decodeWatch; rw [fFn_encX]; simp) h⟩
theorem Laws.RoundTrip.send (s : Reg) (t : Reg) : Laws.RoundTrip.Statement (.send s t) :=
  ⟨encR_low .., fun h => decode32_ok (by simp) (by unfold decodeMajor; rw [fMajor_encR]; change decodeMsg _ = _; unfold decodeMsg; rw [fFn_encR]; simp) h⟩
theorem Laws.RoundTrip.sendt (d : Reg) (s : Reg) (t : Reg) : Laws.RoundTrip.Statement (.sendt d s t) :=
  ⟨encR_low .., fun h => decode32_ok (by simp) (by unfold decodeMajor; rw [fMajor_encR]; change decodeMsg _ = _; unfold decodeMsg; rw [fFn_encR]; simp) h⟩
theorem Laws.RoundTrip.recv (d : Reg) : Laws.RoundTrip.Statement (.recv d) :=
  ⟨encR_low .., fun h => decode32_ok (by simp) (by unfold decodeMajor; rw [fMajor_encR]; change decodeMsg _ = _; unfold decodeMsg; rw [fFn_encR]; simp) h⟩
theorem Laws.RoundTrip.recvt (d : Reg) (s : Reg) : Laws.RoundTrip.Statement (.recvt d s) :=
  ⟨encR_low .., fun h => decode32_ok (by simp) (by unfold decodeMajor; rw [fMajor_encR]; change decodeMsg _ = _; unfold decodeMsg; rw [fFn_encR]; simp) h⟩
theorem Laws.RoundTrip.enq (s : Reg) (q : Reg) : Laws.RoundTrip.Statement (.enq s q) :=
  ⟨encR_low .., fun h => decode32_ok (by simp) (by unfold decodeMajor; rw [fMajor_encR]; change decodeMsg _ = _; unfold decodeMsg; rw [fFn_encR]; simp) h⟩
theorem Laws.RoundTrip.enqt (d : Reg) (s : Reg) (q : Reg) : Laws.RoundTrip.Statement (.enqt d s q) :=
  ⟨encR_low .., fun h => decode32_ok (by simp) (by unfold decodeMajor; rw [fMajor_encR]; change decodeMsg _ = _; unfold decodeMsg; rw [fFn_encR]; simp) h⟩
theorem Laws.RoundTrip.lease (a : Reg) (t : Tag) : Laws.RoundTrip.Statement (.lease a t) :=
  ⟨encX_low .., fun h => decode32_ok (by simp) (by unfold decodeMajor; rw [fMajor_encX]; change decodeFabric _ = _; unfold decodeFabric; rw [fFn_encX]; simp) h⟩
theorem Laws.RoundTrip.coll (a : Reg) (t : Tag) : Laws.RoundTrip.Statement (.coll a t) :=
  ⟨encX_low .., fun h => decode32_ok (by simp) (by unfold decodeMajor; rw [fMajor_encX]; change decodeFabric _ = _; unfold decodeFabric; rw [fFn_encX]; simp) h⟩
theorem Laws.RoundTrip.leaseq (d : Reg) (p : Reg) : Laws.RoundTrip.Statement (.leaseq d p) :=
  ⟨encR_low .., fun h => decode32_ok (by simp) (by unfold decodeMajor; rw [fMajor_encR]; change decodeQuery _ = _; unfold decodeQuery; rw [fFn_encR]; simp) h⟩
theorem Laws.RoundTrip.leaserel (d : Reg) (p : Reg) (n : Reg) : Laws.RoundTrip.Statement (.leaserel d p n) :=
  ⟨encR_low .., fun h => decode32_ok (by simp) (by unfold decodeMajor; rw [fMajor_encR]; change decodeQuery _ = _; unfold decodeQuery; rw [fFn_encR]; simp) h⟩
theorem Laws.RoundTrip.deadq (d : Reg) (p : Reg) : Laws.RoundTrip.Statement (.deadq d p) :=
  ⟨encR_low .., fun h => decode32_ok (by simp) (by unfold decodeMajor; rw [fMajor_encR]; change decodeQuery _ = _; unfold decodeQuery; rw [fFn_encR]; simp) h⟩
theorem Laws.RoundTrip.vadd (t : Ty) (r : Rc) (d : Oct) (a : Oct) (b : Oct) (m : MReg) : Laws.RoundTrip.Statement (.vadd t r d a b m) :=
  ⟨encV_low .., fun h => decode32_ok (by simp) (by unfold decodeMajor; rw [fMajor_encV]; change decodeLaneArith _ = _; unfold decodeLaneArith; rw [fFn_encV]; simp) h⟩
theorem Laws.RoundTrip.vsub (t : Ty) (r : Rc) (d : Oct) (a : Oct) (b : Oct) (m : MReg) : Laws.RoundTrip.Statement (.vsub t r d a b m) :=
  ⟨encV_low .., fun h => decode32_ok (by simp) (by unfold decodeMajor; rw [fMajor_encV]; change decodeLaneArith _ = _; unfold decodeLaneArith; rw [fFn_encV]; simp) h⟩
theorem Laws.RoundTrip.vmul (t : Ty) (r : Rc) (d : Oct) (a : Oct) (b : Oct) (m : MReg) : Laws.RoundTrip.Statement (.vmul t r d a b m) :=
  ⟨encV_low .., fun h => decode32_ok (by simp) (by unfold decodeMajor; rw [fMajor_encV]; change decodeLaneArith _ = _; unfold decodeLaneArith; rw [fFn_encV]; simp) h⟩
theorem Laws.RoundTrip.vfma (t : Ty) (r : Rc) (d : Oct) (a : Oct) (b : Oct) (m : MReg) : Laws.RoundTrip.Statement (.vfma t r d a b m) :=
  ⟨encV_low .., fun h => decode32_ok (by simp) (by unfold decodeMajor; rw [fMajor_encV]; change decodeLaneArith _ = _; unfold decodeLaneArith; rw [fFn_encV]; simp) h⟩
theorem Laws.RoundTrip.vfms (t : Ty) (r : Rc) (d : Oct) (a : Oct) (b : Oct) (m : MReg) : Laws.RoundTrip.Statement (.vfms t r d a b m) :=
  ⟨encV_low .., fun h => decode32_ok (by simp) (by unfold decodeMajor; rw [fMajor_encV]; change decodeLaneArith _ = _; unfold decodeLaneArith; rw [fFn_encV]; simp) h⟩
theorem Laws.RoundTrip.vfnma (t : Ty) (r : Rc) (d : Oct) (a : Oct) (b : Oct) (m : MReg) : Laws.RoundTrip.Statement (.vfnma t r d a b m) :=
  ⟨encV_low .., fun h => decode32_ok (by simp) (by unfold decodeMajor; rw [fMajor_encV]; change decodeLaneArith _ = _; unfold decodeLaneArith; rw [fFn_encV]; simp) h⟩
theorem Laws.RoundTrip.vmax (t : Ty) (d : Oct) (a : Oct) (b : Oct) (m : MReg) : Laws.RoundTrip.Statement (.vmax t d a b m) :=
  ⟨encV_low .., fun h => decode32_ok (by simp) (by unfold decodeMajor; rw [fMajor_encV]; change decodeLaneArith _ = _; unfold decodeLaneArith; rw [fFn_encV]; simp) h⟩
theorem Laws.RoundTrip.vmin (t : Ty) (d : Oct) (a : Oct) (b : Oct) (m : MReg) : Laws.RoundTrip.Statement (.vmin t d a b m) :=
  ⟨encV_low .., fun h => decode32_ok (by simp) (by unfold decodeMajor; rw [fMajor_encV]; change decodeLaneArith _ = _; unfold decodeLaneArith; rw [fFn_encV]; simp) h⟩
theorem Laws.RoundTrip.vabs (t : Ty) (d : Oct) (a : Oct) (m : MReg) : Laws.RoundTrip.Statement (.vabs t d a m) :=
  ⟨encV_low .., fun h => decode32_ok (by simp) (by unfold decodeMajor; rw [fMajor_encV]; change decodeLaneArith _ = _; unfold decodeLaneArith; rw [fFn_encV]; simp) h⟩
theorem Laws.RoundTrip.vneg (t : Ty) (d : Oct) (a : Oct) (m : MReg) : Laws.RoundTrip.Statement (.vneg t d a m) :=
  ⟨encV_low .., fun h => decode32_ok (by simp) (by unfold decodeMajor; rw [fMajor_encV]; change decodeLaneArith _ = _; unfold decodeLaneArith; rw [fFn_encV]; simp) h⟩
theorem Laws.RoundTrip.vdot (t : Ty) (r : Rc) (d : Oct) (a : Oct) (b : Oct) (m : MReg) : Laws.RoundTrip.Statement (.vdot t r d a b m) :=
  ⟨encV_low .., fun h => decode32_ok (by simp) (by unfold decodeMajor; rw [fMajor_encV]; change decodeLaneArith _ = _; unfold decodeLaneArith; rw [fFn_encV]; simp) h⟩
theorem Laws.RoundTrip.vrcp (t : Ty) (r : Rc) (d : Oct) (a : Oct) (m : MReg) : Laws.RoundTrip.Statement (.vrcp t r d a m) :=
  ⟨encV_low .., fun h => decode32_ok (by simp) (by unfold decodeMajor; rw [fMajor_encV]; change decodeLaneFun _ = _; unfold decodeLaneFun; rw [fFn_encV]; simp) h⟩
theorem Laws.RoundTrip.vrsq (t : Ty) (r : Rc) (d : Oct) (a : Oct) (m : MReg) : Laws.RoundTrip.Statement (.vrsq t r d a m) :=
  ⟨encV_low .., fun h => decode32_ok (by simp) (by unfold decodeMajor; rw [fMajor_encV]; change decodeLaneFun _ = _; unfold decodeLaneFun; rw [fFn_encV]; simp) h⟩
theorem Laws.RoundTrip.vexp2 (t : Ty) (r : Rc) (d : Oct) (a : Oct) (m : MReg) : Laws.RoundTrip.Statement (.vexp2 t r d a m) :=
  ⟨encV_low .., fun h => decode32_ok (by simp) (by unfold decodeMajor; rw [fMajor_encV]; change decodeLaneFun _ = _; unfold decodeLaneFun; rw [fFn_encV]; simp) h⟩
theorem Laws.RoundTrip.vcvt (t : Ty) (st : Ty) (r : Rc) (d : Oct) (a : Oct) (m : MReg) : Laws.RoundTrip.Statement (.vcvt t st r d a m) :=
  ⟨encV_low .., fun h => decode32_ok (by simp) (by unfold decodeMajor; rw [fMajor_encV]; change decodeConv _ = _; unfold decodeConv; rw [fFn_encV]; simp [Ty.ofCode_low _ (vcvtPair_movable (and_isNone h))]) h⟩
theorem Laws.RoundTrip.vcvtw (t : Ty) (st : Ty) (d : Oct) (a : Oct) (m : MReg) : Laws.RoundTrip.Statement (.vcvtw t st d a m) :=
  ⟨encV_low .., fun h => decode32_ok (by simp) (by unfold decodeMajor; rw [fMajor_encV]; change decodeConv _ = _; unfold decodeConv; rw [fFn_encV]; simp [Ty.ofCode_low _ (vcvtwPair_movable (and_isNone h))]) h⟩
theorem Laws.RoundTrip.vcvtn (t : Ty) (st : Ty) (r : Rc) (d : Oct) (a : Oct) (m : MReg) : Laws.RoundTrip.Statement (.vcvtn t st r d a m) :=
  ⟨encV_low .., fun h => decode32_ok (by simp) (by unfold decodeMajor; rw [fMajor_encV]; change decodeConv _ = _; unfold decodeConv; rw [fFn_encV]; simp [Ty.ofCode_low _ (vcvtnPair_movable (and_isNone h))]) h⟩
theorem Laws.RoundTrip.vqnt (st : Ty) (d : Oct) (a : Oct) : Laws.RoundTrip.Statement (.vqnt st d a) :=
  ⟨encV_low .., fun h => decode32_ok (by simp) (by unfold decodeMajor; rw [fMajor_encV]; change decodeConv _ = _; unfold decodeConv; rw [fFn_encV]; simp [Ty.ofCode_low _ (vqntSource_movable (and_isNone h))]) h⟩
theorem Laws.RoundTrip.vdq (t : Ty) (r : Rc) (d : Oct) (a : Oct) (m : MReg) : Laws.RoundTrip.Statement (.vdq t r d a m) :=
  ⟨encV_low .., fun h => decode32_ok (by simp) (by unfold decodeMajor; rw [fMajor_encV]; change decodeConv _ = _; unfold decodeConv; rw [fFn_encV]; simp) h⟩
theorem Laws.RoundTrip.vcmpCc (c : VCond) (t : Ty) (d : MReg) (a : Oct) (b : Oct) (m : MReg) : Laws.RoundTrip.Statement (.vcmpCc c t d a b m) :=
  ⟨encV_low .., fun h => decode32_ok (by simp) (by unfold decodeMajor; rw [fMajor_encV]; change decodeVcmp _ = _; unfold decodeVcmp; rw [fFn_encV]; simp) h⟩
theorem Laws.RoundTrip.vsel (t : Ty) (d : Oct) (a : Oct) (b : Oct) (m : MReg) : Laws.RoundTrip.Statement (.vsel t d a b m) :=
  ⟨encV_low .., fun h => decode32_ok (by simp) (by unfold decodeMajor; rw [fMajor_encV]; change decodeLaneMove _ = _; unfold decodeLaneMove; rw [fFn_encV]; simp) h⟩
theorem Laws.RoundTrip.vperm (t : Ty) (d : Oct) (a : Oct) (b : Oct) (m : MReg) : Laws.RoundTrip.Statement (.vperm t d a b m) :=
  ⟨encV_low .., fun h => decode32_ok (by simp) (by unfold decodeMajor; rw [fMajor_encV]; change decodeLaneMove _ = _; unfold decodeLaneMove; rw [fFn_encV]; simp) h⟩
theorem Laws.RoundTrip.vbcast (t : Ty) (d : Oct) (s : Reg) (m : MReg) : Laws.RoundTrip.Statement (.vbcast t d s m) :=
  ⟨encVw_low .., fun h => decode32_ok (by simp) (by unfold decodeMajor; rw [fMajor_encVw]; change decodeLaneMove _ = _; unfold decodeLaneMove; rw [fFn_encVw]; simp) h⟩
theorem Laws.RoundTrip.vins (t : Ty) (d : Oct) (s : Reg) (idx : BitVec 5) : Laws.RoundTrip.Statement (.vins t d s idx) :=
  ⟨encVw_low .., fun h => decode32_ok (by simp) (by unfold decodeMajor; rw [fMajor_encVw]; change decodeLaneMove _ = _; unfold decodeLaneMove; rw [fFn_encVw]; simp) h⟩
theorem Laws.RoundTrip.vext (t : Ty) (d : Reg) (v : Oct) (idx : BitVec 5) : Laws.RoundTrip.Statement (.vext t d v idx) :=
  ⟨encVw_low .., fun h => decode32_ok (by simp) (by unfold decodeMajor; rw [fMajor_encVw]; change decodeLaneMove _ = _; unfold decodeLaneMove; rw [fFn_encVw]; simp) h⟩
theorem Laws.RoundTrip.viota (t : Ty) (d : Oct) (m : MReg) : Laws.RoundTrip.Statement (.viota t d m) :=
  ⟨encV_low .., fun h => decode32_ok (by simp) (by unfold decodeMajor; rw [fMajor_encV]; change decodeLaneMove _ = _; unfold decodeLaneMove; rw [fFn_encV]; simp) h⟩
theorem Laws.RoundTrip.vredSum (t : Ty) (r : Rc) (d : Oct) (a : Oct) (m : MReg) : Laws.RoundTrip.Statement (.vredSum t r d a m) :=
  ⟨encV_low .., fun h => decode32_ok (by simp) (by unfold decodeMajor; rw [fMajor_encV]; change decodeVred _ = _; unfold decodeVred; rw [fFn_encV]; simp) h⟩
theorem Laws.RoundTrip.vredMax (t : Ty) (d : Oct) (a : Oct) (m : MReg) : Laws.RoundTrip.Statement (.vredMax t d a m) :=
  ⟨encV_low .., fun h => decode32_ok (by simp) (by unfold decodeMajor; rw [fMajor_encV]; change decodeVred _ = _; unfold decodeVred; rw [fFn_encV]; simp) h⟩
theorem Laws.RoundTrip.vredMin (t : Ty) (d : Oct) (a : Oct) (m : MReg) : Laws.RoundTrip.Statement (.vredMin t d a m) :=
  ⟨encV_low .., fun h => decode32_ok (by simp) (by unfold decodeMajor; rw [fMajor_encV]; change decodeVred _ = _; unfold decodeVred; rw [fFn_encV]; simp) h⟩
theorem Laws.RoundTrip.vtbl (t : Ty) (r : Rc) (d : Oct) (a : Oct) (slot : BitVec 2) (m : MReg) : Laws.RoundTrip.Statement (.vtbl t r d a slot m) :=
  ⟨encV_low .., fun h => decode32_ok (by simp) (by unfold decodeMajor; rw [fMajor_encV]; change decodeTable _ = _; unfold decodeTable; rw [fFn_encV]; simp) h⟩
theorem Laws.RoundTrip.vtbld (slot : BitVec 2) (s : Reg) : Laws.RoundTrip.Statement (.vtbld slot s) :=
  ⟨encVw_low .., fun h => decode32_ok (by simp) (by unfold decodeMajor; rw [fMajor_encVw]; change decodeTable _ = _; unfold decodeTable; rw [fFn_encVw]; simp) h⟩
theorem Laws.RoundTrip.mand (d : MReg) (a : MReg) (b : MReg) : Laws.RoundTrip.Statement (.mand d a b) :=
  ⟨encR_low .., fun h => decode32_ok (by simp) (by unfold decodeMajor; rw [fMajor_encR]; change decodeMasks _ = _; unfold decodeMasks; rw [fFn_encR]; simp) h⟩
theorem Laws.RoundTrip.mor (d : MReg) (a : MReg) (b : MReg) : Laws.RoundTrip.Statement (.mor d a b) :=
  ⟨encR_low .., fun h => decode32_ok (by simp) (by unfold decodeMajor; rw [fMajor_encR]; change decodeMasks _ = _; unfold decodeMasks; rw [fFn_encR]; simp) h⟩
theorem Laws.RoundTrip.mxor (d : MReg) (a : MReg) (b : MReg) : Laws.RoundTrip.Statement (.mxor d a b) :=
  ⟨encR_low .., fun h => decode32_ok (by simp) (by unfold decodeMajor; rw [fMajor_encR]; change decodeMasks _ = _; unfold decodeMasks; rw [fFn_encR]; simp) h⟩
theorem Laws.RoundTrip.mnot (d : MReg) (a : MReg) : Laws.RoundTrip.Statement (.mnot d a) :=
  ⟨encR_low .., fun h => decode32_ok (by simp) (by unfold decodeMajor; rw [fMajor_encR]; change decodeMasks _ = _; unfold decodeMasks; rw [fFn_encR]; simp) h⟩
theorem Laws.RoundTrip.mpop (d : Reg) (a : MReg) : Laws.RoundTrip.Statement (.mpop d a) :=
  ⟨encR_low .., fun h => decode32_ok (by simp) (by unfold decodeMajor; rw [fMajor_encR]; change decodeMasks _ = _; unfold decodeMasks; rw [fFn_encR]; simp) h⟩
theorem Laws.RoundTrip.addi16Pos (d : Reg) (i : BitVec 5) : Laws.RoundTrip.Statement (.addi16Pos d i) :=
  ⟨enc16_low .., fun h => decode16_ok (by unfold decodeForm; rw [enc16_form, enc16_d, enc16_s]; rfl) h⟩
theorem Laws.RoundTrip.add16 (d : Reg) (s : BitVec 5) : Laws.RoundTrip.Statement (.add16 d s) :=
  ⟨enc16_low .., fun h => decode16_ok (by unfold decodeForm; rw [enc16_form, enc16_d, enc16_s]; rfl) h⟩
theorem Laws.RoundTrip.sub16 (d : Reg) (s : BitVec 5) : Laws.RoundTrip.Statement (.sub16 d s) :=
  ⟨enc16_low .., fun h => decode16_ok (by unfold decodeForm; rw [enc16_form, enc16_d, enc16_s]; rfl) h⟩
theorem Laws.RoundTrip.and16 (d : Reg) (s : BitVec 5) : Laws.RoundTrip.Statement (.and16 d s) :=
  ⟨enc16_low .., fun h => decode16_ok (by unfold decodeForm; rw [enc16_form, enc16_d, enc16_s]; rfl) h⟩
theorem Laws.RoundTrip.or16 (d : Reg) (s : BitVec 5) : Laws.RoundTrip.Statement (.or16 d s) :=
  ⟨enc16_low .., fun h => decode16_ok (by unfold decodeForm; rw [enc16_form, enc16_d, enc16_s]; rfl) h⟩
theorem Laws.RoundTrip.xor16 (d : Reg) (s : BitVec 5) : Laws.RoundTrip.Statement (.xor16 d s) :=
  ⟨enc16_low .., fun h => decode16_ok (by unfold decodeForm; rw [enc16_form, enc16_d, enc16_s]; rfl) h⟩
theorem Laws.RoundTrip.mov16 (d : Reg) (s : BitVec 5) : Laws.RoundTrip.Statement (.mov16 d s) :=
  ⟨enc16_low .., fun h => decode16_ok (by unfold decodeForm; rw [enc16_form, enc16_d, enc16_s]; rfl) h⟩
theorem Laws.RoundTrip.movi16 (d : Reg) (i : BitVec 5) : Laws.RoundTrip.Statement (.movi16 d i) :=
  ⟨enc16_low .., fun h => decode16_ok (by unfold decodeForm; rw [enc16_form, enc16_d, enc16_s]; rfl) h⟩
theorem Laws.RoundTrip.shli16 (d : Reg) (k : BitVec 5) : Laws.RoundTrip.Statement (.shli16 d k) :=
  ⟨enc16_low .., fun h => decode16_ok (by unfold decodeForm; rw [enc16_form, enc16_d, enc16_s]; rfl) h⟩
theorem Laws.RoundTrip.shri16 (d : Reg) (k : BitVec 5) : Laws.RoundTrip.Statement (.shri16 d k) :=
  ⟨enc16_low .., fun h => decode16_ok (by unfold decodeForm; rw [enc16_form, enc16_d, enc16_s]; rfl) h⟩
theorem Laws.RoundTrip.shai16 (d : Reg) (k : BitVec 5) : Laws.RoundTrip.Statement (.shai16 d k) :=
  ⟨enc16_low .., fun h => decode16_ok (by unfold decodeForm; rw [enc16_form, enc16_d, enc16_s]; rfl) h⟩
theorem Laws.RoundTrip.mul16 (d : Reg) (s : BitVec 5) : Laws.RoundTrip.Statement (.mul16 d s) :=
  ⟨enc16_low .., fun h => decode16_ok (by unfold decodeForm; rw [enc16_form, enc16_d, enc16_s]; rfl) h⟩
theorem Laws.RoundTrip.min16 (d : Reg) (s : BitVec 5) : Laws.RoundTrip.Statement (.min16 d s) :=
  ⟨enc16_low .., fun h => decode16_ok (by unfold decodeForm; rw [enc16_form, enc16_d, enc16_s]; rfl) h⟩
theorem Laws.RoundTrip.max16 (d : Reg) (s : BitVec 5) : Laws.RoundTrip.Statement (.max16 d s) :=
  ⟨enc16_low .., fun h => decode16_ok (by unfold decodeForm; rw [enc16_form, enc16_d, enc16_s]; rfl) h⟩
theorem Laws.RoundTrip.andi16 (d : Reg) (i : BitVec 5) : Laws.RoundTrip.Statement (.andi16 d i) :=
  ⟨enc16_low .., fun h => decode16_ok (by unfold decodeForm; rw [enc16_form, enc16_d, enc16_s]; rfl) h⟩
theorem Laws.RoundTrip.addi16Neg (d : Reg) (i : BitVec 5) : Laws.RoundTrip.Statement (.addi16Neg d i) :=
  ⟨enc16_low .., fun h => decode16_ok (by unfold decodeForm; rw [enc16_form, enc16_d, enc16_s]; rfl) h⟩
theorem Laws.RoundTrip.powerGood : Laws.RoundTrip.Statement .powerGood := rfl
theorem Laws.RoundTrip.romMeasured : Laws.RoundTrip.Statement .romMeasured := rfl
theorem Laws.RoundTrip.phaseTimeout : Laws.RoundTrip.Statement .phaseTimeout := rfl
theorem Laws.RoundTrip.firstSramFetch : Laws.RoundTrip.Statement .firstSramFetch := rfl
theorem Laws.RoundTrip.ceHash : Laws.RoundTrip.Statement .ceHash := rfl
theorem Laws.RoundTrip.ceVerifyEcdsa : Laws.RoundTrip.Statement .ceVerifyEcdsa := rfl
theorem Laws.RoundTrip.ceVerifyLms : Laws.RoundTrip.Statement .ceVerifyLms := rfl
theorem Laws.RoundTrip.ceCommandDone : Laws.RoundTrip.Statement .ceCommandDone := rfl
theorem Laws.RoundTrip.meExtend : Laws.RoundTrip.Statement .meExtend := rfl
theorem Laws.RoundTrip.meSpdmMeas : Laws.RoundTrip.Statement .meSpdmMeas := rfl
theorem Laws.RoundTrip.meCommandDone : Laws.RoundTrip.Statement .meCommandDone := rfl
theorem Laws.RoundTrip.mctpRequest : Laws.RoundTrip.Statement .mctpRequest := rfl
theorem Laws.RoundTrip.mbTxlen : Laws.RoundTrip.Statement .mbTxlen := rfl
theorem Laws.RoundTrip.mbTransmitDone : Laws.RoundTrip.Statement .mbTransmitDone := rfl
theorem Laws.RoundTrip.mbRxdone : Laws.RoundTrip.Statement .mbRxdone := rfl
theorem Laws.RoundTrip.bootStatWrite : Laws.RoundTrip.Statement .bootStatWrite := rfl
theorem Laws.RoundTrip.fuStateWrite : Laws.RoundTrip.Statement .fuStateWrite := rfl
theorem Laws.RoundTrip.configRequest : Laws.RoundTrip.Statement .configRequest := rfl
theorem Laws.RoundTrip.trainStart : Laws.RoundTrip.Statement .trainStart := rfl
theorem Laws.RoundTrip.calDone : Laws.RoundTrip.Statement .calDone := rfl
theorem Laws.RoundTrip.rttDone : Laws.RoundTrip.Statement .rttDone := rfl
theorem Laws.RoundTrip.keysDone : Laws.RoundTrip.Statement .keysDone := rfl
theorem Laws.RoundTrip.keyUpdate : Laws.RoundTrip.Statement .keyUpdate := rfl
theorem Laws.RoundTrip.ksCreate : Laws.RoundTrip.Statement .ksCreate := rfl
theorem Laws.RoundTrip.ksImport : Laws.RoundTrip.Statement .ksImport := rfl
theorem Laws.RoundTrip.ksExport : Laws.RoundTrip.Statement .ksExport := rfl
theorem Laws.RoundTrip.ksOffer : Laws.RoundTrip.Statement .ksOffer := rfl
theorem Laws.RoundTrip.ksAccept : Laws.RoundTrip.Statement .ksAccept := rfl
theorem Laws.RoundTrip.ksAcceptDrained : Laws.RoundTrip.Statement .ksAcceptDrained := rfl
theorem Laws.RoundTrip.ksErase : Laws.RoundTrip.Statement .ksErase := rfl
theorem Laws.RoundTrip.ksEraseDrained : Laws.RoundTrip.Statement .ksEraseDrained := rfl
theorem Laws.RoundTrip.ksSimport : Laws.RoundTrip.Statement .ksSimport := rfl
theorem Laws.RoundTrip.ksSerase : Laws.RoundTrip.Statement .ksSerase := rfl
theorem Laws.RoundTrip.ksSeraseDrained : Laws.RoundTrip.Statement .ksSeraseDrained := rfl
theorem Laws.RoundTrip.clusterFnWrite : Laws.RoundTrip.Statement .clusterFnWrite := rfl
theorem Laws.RoundTrip.queueFnWrite : Laws.RoundTrip.Statement .queueFnWrite := rfl
theorem Laws.RoundTrip.registerWrite : Laws.RoundTrip.Statement .registerWrite := rfl
theorem Laws.RoundTrip.qProdWrite : Laws.RoundTrip.Statement .qProdWrite := rfl
theorem Laws.RoundTrip.queueCreate : Laws.RoundTrip.Statement .queueCreate := rfl
theorem Laws.RoundTrip.queueDestroy : Laws.RoundTrip.Statement .queueDestroy := rfl
theorem Laws.RoundTrip.queueResume : Laws.RoundTrip.Statement .queueResume := rfl
theorem Laws.RoundTrip.svcCtlWrite : Laws.RoundTrip.Statement .svcCtlWrite := rfl
theorem Laws.RoundTrip.bstCtlWrite : Laws.RoundTrip.Statement .bstCtlWrite := rfl
theorem Laws.RoundTrip.recordRead : Laws.RoundTrip.Statement .recordRead := rfl
theorem Laws.RoundTrip.recordArrival : Laws.RoundTrip.Statement .recordArrival := rfl
theorem Laws.RoundTrip.enqRequest : Laws.RoundTrip.Statement .enqRequest := rfl
theorem Laws.RoundTrip.dependenceSatisfied : Laws.RoundTrip.Statement .dependenceSatisfied := rfl
theorem Laws.RoundTrip.teamPlace : Laws.RoundTrip.Statement .teamPlace := rfl
theorem Laws.RoundTrip.launchBlocking : Laws.RoundTrip.Statement .launchBlocking := rfl
theorem Laws.RoundTrip.basteStart : Laws.RoundTrip.Statement .basteStart := rfl
theorem Laws.RoundTrip.basteAdopt : Laws.RoundTrip.Statement .basteAdopt := rfl
theorem Laws.RoundTrip.basteRevalidated : Laws.RoundTrip.Statement .basteRevalidated := rfl
theorem Laws.RoundTrip.basteCommitted : Laws.RoundTrip.Statement .basteCommitted := rfl
theorem Laws.RoundTrip.basteClaimed : Laws.RoundTrip.Statement .basteClaimed := rfl
theorem Laws.RoundTrip.basteUnpick : Laws.RoundTrip.Statement .basteUnpick := rfl
theorem Laws.RoundTrip.basteLifeExpiry : Laws.RoundTrip.Statement .basteLifeExpiry := rfl
theorem Laws.RoundTrip.quantumExpiry : Laws.RoundTrip.Statement .quantumExpiry := rfl
theorem Laws.RoundTrip.fetchLineArrival : Laws.RoundTrip.Statement .fetchLineArrival := rfl
theorem Laws.RoundTrip.breakpointMatch : Laws.RoundTrip.Statement .breakpointMatch := rfl
theorem Laws.RoundTrip.teamStall : Laws.RoundTrip.Statement .teamStall := rfl
theorem Laws.RoundTrip.tableWalkRead : Laws.RoundTrip.Statement .tableWalkRead := rfl
theorem Laws.RoundTrip.tuRetry : Laws.RoundTrip.Statement .tuRetry := rfl
theorem Laws.RoundTrip.tuFail : Laws.RoundTrip.Statement .tuFail := rfl
theorem Laws.RoundTrip.tuAnswer : Laws.RoundTrip.Statement .tuAnswer := rfl
theorem Laws.RoundTrip.tuInvPage : Laws.RoundTrip.Statement .tuInvPage := rfl
theorem Laws.RoundTrip.tuInvSpace : Laws.RoundTrip.Statement .tuInvSpace := rfl
theorem Laws.RoundTrip.tuInvAll : Laws.RoundTrip.Statement .tuInvAll := rfl
theorem Laws.RoundTrip.tuInvDone : Laws.RoundTrip.Statement .tuInvDone := rfl
theorem Laws.RoundTrip.loadReply : Laws.RoundTrip.Statement .loadReply := rfl
theorem Laws.RoundTrip.atomReply : Laws.RoundTrip.Statement .atomReply := rfl
theorem Laws.RoundTrip.l1Eviction : Laws.RoundTrip.Statement .l1Eviction := rfl
theorem Laws.RoundTrip.read : Laws.RoundTrip.Statement .read := rfl
theorem Laws.RoundTrip.readReply : Laws.RoundTrip.Statement .readReply := rfl
theorem Laws.RoundTrip.pullReq : Laws.RoundTrip.Statement .pullReq := rfl
theorem Laws.RoundTrip.pullData : Laws.RoundTrip.Statement .pullData := rfl
theorem Laws.RoundTrip.pullComplete : Laws.RoundTrip.Statement .pullComplete := rfl
theorem Laws.RoundTrip.watchReq : Laws.RoundTrip.Statement .watchReq := rfl
theorem Laws.RoundTrip.watchPoll : Laws.RoundTrip.Statement .watchPoll := rfl
theorem Laws.RoundTrip.watchDone : Laws.RoundTrip.Statement .watchDone := rfl
theorem Laws.RoundTrip.msg : Laws.RoundTrip.Statement .msg := rfl
theorem Laws.RoundTrip.msgAnswer : Laws.RoundTrip.Statement .msgAnswer := rfl
theorem Laws.RoundTrip.enqAnswer : Laws.RoundTrip.Statement .enqAnswer := rfl
theorem Laws.RoundTrip.unwatchAnswer : Laws.RoundTrip.Statement .unwatchAnswer := rfl
theorem Laws.RoundTrip.fabricQueryAnswer : Laws.RoundTrip.Statement .fabricQueryAnswer := rfl
theorem Laws.RoundTrip.matrixAccept : Laws.RoundTrip.Statement .matrixAccept := rfl
theorem Laws.RoundTrip.bFetchDone : Laws.RoundTrip.Statement .bFetchDone := rfl
theorem Laws.RoundTrip.matrixStepStart : Laws.RoundTrip.Statement .matrixStepStart := rfl
theorem Laws.RoundTrip.matrixStepDone : Laws.RoundTrip.Statement .matrixStepDone := rfl
theorem Laws.RoundTrip.vtbldDone : Laws.RoundTrip.Statement .vtbldDone := rfl
theorem Laws.RoundTrip.flitSend : Laws.RoundTrip.Statement .flitSend := rfl
theorem Laws.RoundTrip.data : Laws.RoundTrip.Statement .data := rfl
theorem Laws.RoundTrip.ack : Laws.RoundTrip.Statement .ack := rfl
theorem Laws.RoundTrip.nak : Laws.RoundTrip.Statement .nak := rfl
theorem Laws.RoundTrip.idle : Laws.RoundTrip.Statement .idle := rfl
theorem Laws.RoundTrip.echo : Laws.RoundTrip.Statement .echo := rfl
theorem Laws.RoundTrip.ackTimer : Laws.RoundTrip.Statement .ackTimer := rfl
theorem Laws.RoundTrip.retransmitTimeout : Laws.RoundTrip.Statement .retransmitTimeout := rfl
theorem Laws.RoundTrip.idleTimer : Laws.RoundTrip.Statement .idleTimer := rfl
theorem Laws.RoundTrip.colourRecalibrated : Laws.RoundTrip.Statement .colourRecalibrated := rfl
theorem Laws.RoundTrip.laneRetuned : Laws.RoundTrip.Statement .laneRetuned := rfl
theorem Laws.RoundTrip.leaseReq : Laws.RoundTrip.Statement .leaseReq := rfl
theorem Laws.RoundTrip.leaseAnswer : Laws.RoundTrip.Statement .leaseAnswer := rfl
theorem Laws.RoundTrip.leaseWaitExpiry : Laws.RoundTrip.Statement .leaseWaitExpiry := rfl
theorem Laws.RoundTrip.termEnd : Laws.RoundTrip.Statement .termEnd := rfl
theorem Laws.RoundTrip.genReq : Laws.RoundTrip.Statement .genReq := rfl
theorem Laws.RoundTrip.genReply : Laws.RoundTrip.Statement .genReply := rfl
theorem Laws.RoundTrip.state : Laws.RoundTrip.Statement .state := rfl
theorem Laws.RoundTrip.error : Laws.RoundTrip.Statement .error := rfl
theorem Laws.RoundTrip.deadPeerDeclare : Laws.RoundTrip.Statement .deadPeerDeclare := rfl
theorem Laws.RoundTrip.collStart : Laws.RoundTrip.Statement .collStart := rfl
theorem Laws.RoundTrip.collWatchMet : Laws.RoundTrip.Statement .collWatchMet := rfl
theorem Laws.RoundTrip.collPullLanded : Laws.RoundTrip.Statement .collPullLanded := rfl
theorem Laws.RoundTrip.tnodeExpiry : Laws.RoundTrip.Statement .tnodeExpiry := rfl
theorem Laws.RoundTrip.tlimExpiry : Laws.RoundTrip.Statement .tlimExpiry := rfl
theorem Laws.RoundTrip.preSave : Laws.RoundTrip.Statement .preSave := rfl
theorem Laws.RoundTrip.saveDrained : Laws.RoundTrip.Statement .saveDrained := rfl
theorem Laws.RoundTrip.redirectCompletion : Laws.RoundTrip.Statement .redirectCompletion := rfl
theorem Laws.RoundTrip.preResume : Laws.RoundTrip.Statement .preResume := rfl
theorem Laws.RoundTrip.resumePlace : Laws.RoundTrip.Statement .resumePlace := rfl
theorem Laws.RoundTrip.preDrop : Laws.RoundTrip.Statement .preDrop := rfl
theorem Laws.RoundTrip.dbgRead : Laws.RoundTrip.Statement .dbgRead := rfl
theorem Laws.RoundTrip.dbgWrite : Laws.RoundTrip.Statement .dbgWrite := rfl
theorem Laws.RoundTrip.teamRetire : Laws.RoundTrip.Statement .teamRetire := rfl
theorem Laws.RoundTrip.teamRetireDone : Laws.RoundTrip.Statement .teamRetireDone := rfl
theorem Laws.RoundTrip.quiescenceWave : Laws.RoundTrip.Statement .quiescenceWave := rfl
theorem Laws.RoundTrip.functionLevelReset : Laws.RoundTrip.Statement .functionLevelReset := rfl
theorem Laws.RoundTrip.conventionalReset : Laws.RoundTrip.Statement .conventionalReset := rfl
theorem Laws.RoundTrip.correctedError : Laws.RoundTrip.Statement .correctedError := rfl
theorem Laws.RoundTrip.uncorrectableError : Laws.RoundTrip.Statement .uncorrectableError := rfl
theorem Laws.RoundTrip.parityError : Laws.RoundTrip.Statement .parityError := rfl
theorem Laws.RoundTrip.hbmLinkTagFail : Laws.RoundTrip.Statement .hbmLinkTagFail := rfl
theorem Laws.RoundTrip.snapQuiesce : Laws.RoundTrip.Statement .snapQuiesce := rfl
theorem Laws.RoundTrip.quiesceDone : Laws.RoundTrip.Statement .quiesceDone := rfl
theorem Laws.RoundTrip.snapCopy : Laws.RoundTrip.Statement .snapCopy := rfl
theorem Laws.RoundTrip.copyDone : Laws.RoundTrip.Statement .copyDone := rfl
theorem Laws.RoundTrip.snapRestore : Laws.RoundTrip.Statement .snapRestore := rfl
theorem Laws.RoundTrip.restoreDone : Laws.RoundTrip.Statement .restoreDone := rfl
theorem Laws.RoundTrip.snapRelease : Laws.RoundTrip.Statement .snapRelease := rfl
theorem Laws.RoundTrip.telemetryUpdate : Laws.RoundTrip.Statement .telemetryUpdate := rfl
theorem Laws.RoundTrip.powerRemoved : Laws.RoundTrip.Statement .powerRemoved := rfl
theorem Laws.RoundTrip.perstDeasserted : Laws.RoundTrip.Statement .perstDeasserted := rfl
theorem Laws.RoundTrip.storePerformed : Laws.RoundTrip.Statement .storePerformed := rfl
theorem Laws.RoundTrip.completionTimeout : Laws.RoundTrip.Statement .completionTimeout := rfl

end Sys2Proof
end

