-- ==== Sys2Proof/Laws/Run.lean ====
section
/-! SUPPORT. What running and completing an instruction can do: runInstr of an instruction that issues is its own effect, and completing
keeps registers, masks, special registers and memory. -/

namespace Sys2Proof.Machine

theorem Assoc.get_map {κ α : Type} [DecidableEq κ] (d : α) (k : κ) (f : κ × α → κ × α) (hf : ∀ e, (f e).1 = e.1) (m : Assoc κ α) :
    Assoc.get d k (m.map f) = if Assoc.has k m = true then (f (k, Assoc.get d k m)).2 else d := by
  induction m with
  | nil => simp [Assoc.get, Assoc.has]
  | cons e t ih =>
    obtain ⟨k', v⟩ := e
    have h1 : f (k', v) = (k', (f (k', v)).2) := Prod.ext (hf _) rfl
    simp only [List.map_cons]
    rw [h1]
    simp only [Assoc.get, Assoc.has]
    split
    · rename_i h; subst h; simp
    · exact ih

theorem Assoc.get_of_not_has {κ α : Type} [DecidableEq κ] (d : α) (k : κ) {m : Assoc κ α} (h : Assoc.has k m = false) : Assoc.get d k m = d := by
  induction m with
  | nil => rfl
  | cons e t ih =>
    obtain ⟨k', v⟩ := e
    simp only [Assoc.has] at h
    simp only [Assoc.get]
    split
    · rename_i h1; rw [if_pos h1] at h; cases h
    · rename_i h1; rw [if_neg h1] at h; exact ih h

/-- A context after a rewrite of every listed context is either rewritten or untouched. -/
theorem State.ctx_map (s : State) (f : Pos × Ctx → Pos × Ctx) (hf : ∀ e, (f e).1 = e.1) (q : Pos) :
    ({ s with ctxs := s.ctxs.map f } : State).ctx q = (f (q, s.ctx q)).2 ∨ ({ s with ctxs := s.ctxs.map f } : State).ctx q = s.ctx q := by
  simp only [State.ctx, Assoc.get_map _ _ f hf]
  by_cases h : Assoc.has q s.ctxs = true
  · rw [if_pos h]; exact .inl rfl
  · rw [if_neg h, Assoc.get_of_not_has _ _ (by simpa using h)]; exact .inr rfl

/-! ### Keeping a context -/

@[simp] theorem Ctx.Keeps.refl (c : Ctx) : Ctx.Keeps c c := rfl

theorem Ctx.Keeps.trans {a b c : Ctx} (h : Ctx.Keeps a b) (g : Ctx.Keeps b c) : Ctx.Keeps a c := by
  unfold Ctx.Keeps at *
  rw [h] at g
  exact g

theorem Ctx.Keeps.st {a b : Ctx} (h : Ctx.Keeps a b) : b.st = a.st := by rw [h]

theorem Ctx.woken_ready {c : Ctx} (h : c.st = .ready) : c.woken = c := by simp only [Ctx.woken, h]

/-- Only a member that waits for its queue is fed. -/
theorem Ctx.fed_eq (c : Ctx) : c.fed = { c with st := c.fed.st } := by
  unfold Ctx.fed
  split <;> rfl

theorem Ctx.fed_ready {c : Ctx} (h : c.st = .ready) : c.fed = c := by
  unfold Ctx.fed
  rw [if_neg (by rw [h]; intro e; cases e)]

/-- Only contexts change, and a READY context is kept. -/
structure State.Mild (s t : State) : Prop where
  rest : t = { s with ctxs := t.ctxs }
  keeps : ∀ q, (s.ctx q).st = .ready → Ctx.Keeps (s.ctx q) (t.ctx q)

theorem State.Mild.refl (s : State) : State.Mild s s := ⟨rfl, fun _ _ => rfl⟩

theorem State.Mild.trans {s t u : State} (h : State.Mild s t) (g : State.Mild t u) : State.Mild s u := by
  refine ⟨?_, fun q hq => (h.keeps q hq).trans (g.keeps q ((h.keeps q hq).st.trans hq))⟩
  have h1 := h.rest
  have h2 := g.rest
  rw [h1] at h2
  exact h2

theorem State.mild_map (s : State) (f : Pos × Ctx → Pos × Ctx) (hf : ∀ e, (f e).1 = e.1)
    (hk : ∀ q, (s.ctx q).st = .ready → Ctx.Keeps (s.ctx q) (f (q, s.ctx q)).2) : State.Mild s { s with ctxs := s.ctxs.map f } := by
  refine ⟨rfl, fun q hq => ?_⟩
  rcases s.ctx_map f hf q with h | h
  · rw [h]; exact hk q hq
  · rw [h]; exact .refl _

theorem forwardTo_mild (s : State) (p : Pos) (id : Nat) (f : Fwd) : State.Mild s (forwardTo s p id f) := by
  unfold forwardTo
  refine s.mild_map _ ?_ ?_
  · intro e; dsimp only; split
    · split
      · split <;> rfl
      · rfl
    · rfl
  · intro q hq; dsimp only; split
    · split
      · split
        · simp only [Ctx.Keeps, Ctx.fed_ready hq]
        · exact .refl _
      · exact .refl _
    · exact .refl _

theorem feedConvoy_mild (s : State) (p : Pos) (id : Nat) : State.Mild s (feedConvoy s p id) := by
  unfold feedConvoy
  refine s.mild_map _ ?_ ?_
  · intro e; split <;> rfl
  · intro q hq; dsimp only; split
    · rw [Ctx.fed_ready hq]; exact .refl _
    · exact .refl _

/-- A change of one context that keeps it. -/
theorem State.mild_setCtx (s : State) (p : Pos) (c : Ctx) (hk : Ctx.Keeps (s.ctx p) c) : State.Mild s (s.setCtx p c) := by
  refine ⟨rfl, fun q _ => ?_⟩
  by_cases h : p = q
  · subst h; rw [State.ctx_setCtx]; exact hk
  · rw [State.ctx_setCtx_ne _ h]; exact .refl _

theorem convoyStep_mild (s : State) (p : Pos) (pc0 : DWord) : State.Mild s (convoyStep s p pc0) := by
  unfold convoyStep
  dsimp only
  split
  · exact .refl _
  · split
    · split
      · exact s.mild_setCtx _ _ rfl
      · exact forwardTo_mild ..
    · split
      · exact .refl _
      · split
        · refine State.Mild.trans (s.mild_setCtx _ _ ?_) (feedConvoy_mild ..); rfl
        · split
          · exact s.mild_setCtx _ _ rfl
          · refine State.Mild.trans (s.mild_setCtx _ _ ?_) (feedConvoy_mild ..); rfl

/-- The same PC, registers and masks. -/
def Ctx.SameRegs (c c' : Ctx) : Prop := c'.w = c.w ∧ c'.m = c.m ∧ c'.pc = c.pc

theorem State.map_regs (s : State) (f : Pos × Ctx → Pos × Ctx) (hf : ∀ e, (f e).1 = e.1)
    (hk : ∀ e : Pos × Ctx, Ctx.SameRegs e.2 (f e).2) (q : Pos) : Ctx.SameRegs (s.ctx q) (({ s with ctxs := s.ctxs.map f } : State).ctx q) := by
  rcases s.ctx_map f hf q with h | h
  · rw [h]; exact hk (q, s.ctx q)
  · rw [h]; exact ⟨rfl, rfl, rfl⟩

/-- forwardTo leaves the PC, registers and masks of every context alone. -/
theorem forwardTo_regs (s : State) (p : Pos) (id : Nat) (f : Fwd) (q : Pos) : Ctx.SameRegs (s.ctx q) ((forwardTo s p id f).ctx q) := by
  unfold forwardTo
  refine s.map_regs _ ?_ ?_ q
  · intro e; dsimp only; split
    · split
      · split <;> rfl
      · rfl
    · rfl
  · intro e; dsimp only; split
    · split
      · split <;> exact ⟨rfl, rfl, rfl⟩
      · exact ⟨rfl, rfl, rfl⟩
    · exact ⟨rfl, rfl, rfl⟩

theorem feedConvoy_regs (s : State) (p : Pos) (id : Nat) (q : Pos) : Ctx.SameRegs (s.ctx q) ((feedConvoy s p id).ctx q) := by
  unfold feedConvoy
  refine s.map_regs _ ?_ ?_ q
  · intro e; split <;> rfl
  · intro e; split
    · dsimp only; rw [Ctx.fed_eq]; exact ⟨rfl, rfl, rfl⟩
    · exact ⟨rfl, rfl, rfl⟩

theorem Ctx.SameRegs.trans {a b c : Ctx} (h : Ctx.SameRegs a b) (g : Ctx.SameRegs b c) : Ctx.SameRegs a c :=
  ⟨g.1.trans h.1, g.2.1.trans h.2.1, g.2.2.trans h.2.2⟩

theorem convoyStep_regs (s : State) (p : Pos) (pc0 : DWord) (q : Pos) : Ctx.SameRegs (s.ctx q) ((convoyStep s p pc0).ctx q) := by
  have hs : ∀ c : Ctx, c.w = (s.ctx p).w → c.m = (s.ctx p).m → c.pc = (s.ctx p).pc → Ctx.SameRegs (s.ctx q) ((s.setCtx p c).ctx q) := by
    intro c h1 h2 h3
    by_cases h : p = q
    · subst h; rw [State.ctx_setCtx]; exact ⟨h1, h2, h3⟩
    · rw [State.ctx_setCtx_ne _ h]; exact ⟨rfl, rfl, rfl⟩
  unfold convoyStep
  dsimp only
  split
  · exact ⟨rfl, rfl, rfl⟩
  · split
    · split
      · exact hs _ rfl rfl rfl
      · exact forwardTo_regs ..
    · split
      · exact ⟨rfl, rfl, rfl⟩
      · split
        · refine Ctx.SameRegs.trans (hs _ ?_ ?_ ?_) (feedConvoy_regs ..) <;> rfl
        · split
          · exact hs _ rfl rfl rfl
          · refine Ctx.SameRegs.trans (hs _ ?_ ?_ ?_) (feedConvoy_regs ..) <;> rfl

/-! ### Popping streams and completing -/

/-- What popping and completing keep: the position, memory and every READY context but one. -/
structure State.Pops (s t : State) : Prop where
  cur : t.cur = s.cur
  mem : s.sameMem t
  keeps : ∀ q, (s.ctx q).st = .ready → Ctx.Keeps (s.ctx q) (t.ctx q)

theorem State.sameMem_of {s t : State} (h1 : t.mem = s.mem) (h2 : t.hbmKey = s.hbmKey) (h3 : t.keySlots = s.keySlots)
    (h4 : t.boot = s.boot) : s.sameMem t := by
  intro pa key
  unfold State.byteAt State.cipherBlock State.heldBlock State.blockKey State.keyOf
  rw [h1, h2, h3, h4]

theorem State.sameMem.trans {s t u : State} (h : s.sameMem t) (g : t.sameMem u) : s.sameMem u :=
  fun pa key => (g pa key).trans (h pa key)

theorem State.Pops.refl (s : State) : State.Pops s s := ⟨rfl, fun _ _ => rfl, fun _ _ => rfl⟩

theorem State.Pops.trans {s t u : State} (h : State.Pops s t) (g : State.Pops t u) : State.Pops s u :=
  ⟨g.cur.trans h.cur, h.mem.trans g.mem, fun q hq => (h.keeps q hq).trans (g.keeps q ((h.keeps q hq).st.trans hq))⟩

theorem State.Mild.pops {s t : State} (h : State.Mild s t) : State.Pops s t := by
  refine ⟨?_, ?_, h.keeps⟩
  · rw [h.rest]
  · rw [h.rest]; exact State.sameMem_of rfl rfl rfl rfl

theorem State.post_pops (s : State) (i : Instr) (inp : Inp) : State.Pops s (s.post i inp) :=
  ⟨rfl, State.sameMem_of rfl rfl rfl rfl, fun _ _ => rfl⟩

theorem State.modCore_pops (s : State) (c n : Nat) (f : Core → Core) : State.Pops s (s.modCore c n f) :=
  ⟨rfl, State.sameMem_of rfl rfl rfl rfl, fun _ _ => rfl⟩

/-- A change of a context that is not READY keeps every READY one. -/
theorem State.modCtx_pops (s : State) (p : Pos) (f : Ctx → Ctx) (hb : (s.ctx p).st ≠ .ready) : State.Pops s (s.modCtx p f) := by
  refine ⟨rfl, State.sameMem_of rfl rfl rfl rfl, fun q hq => ?_⟩
  have hne : p ≠ q := by rintro rfl; exact hb hq
  rw [State.ctx_modCtx_ne _ hne]
  exact .refl _

/-- A context that was not READY completes: READY contexts are kept. -/
theorem State.advanceAt_pops {s u : State} (p : Pos) (npc : DWord) (e : Bool) (hb : (s.ctx p).st ≠ .ready) (h : State.Pops s u) :
    State.Pops s (u.advanceAt p npc e) := by
  unfold State.advanceAt
  dsimp only
  have hk : State.Pops s (u.modCtx p (fun c => c.completed npc e)) := by
    refine ⟨h.cur, h.mem.trans (State.sameMem_of rfl rfl rfl rfl), fun q hq => ?_⟩
    have hne : p ≠ q := by rintro rfl; exact hb hq
    rw [State.ctx_modCtx_ne _ hne]
    exact h.keeps q hq
  exact hk.trans (convoyStep_mild _ p _).pops

theorem State.foldl_pops {α : Type} (l : List α) (f : State → α → State) (h : ∀ u a, State.Pops u (f u a)) (s : State) :
    State.Pops s (l.foldl f s) := by
  induction l generalizing s with
  | nil => exact .refl s
  | cons a t ih => exact (h s a).trans (ih (f s a))

/-- Popping keeps what its end of a tag keeps. -/
theorem State.popWith_pops {fin : State → Nat → State} (hf : ∀ u t, State.Pops u (fin u t)) (s : State) (p : Pos) (ks : List Nat) :
    State.Pops s (s.popWith fin p ks) := by
  induction ks generalizing s with
  | nil => exact .refl s
  | cons k ks ih =>
    simp only [State.popWith]
    refine State.Pops.trans ?_ (ih _)
    split
    · rename_i t _
      have h1 : State.Pops s (s.modCtx p (fun c => c.setStream k (some { t with pop := t.pop + 1 }))) := by
        refine (s.mild_setCtx p _ ?_).pops
        simp only [Ctx.setStream]
        split <;> rfl
      refine h1.trans ?_
      generalize s.modCtx p (fun c => c.setStream k (some { t with pop := t.pop + 1 })) = u1
      have h2 : ∀ v : State, State.Pops u1 v → State.Pops u1 (if t.rf then v.post .pullData { id := t.pull } else v) := by
        intro v hv
        split
        · exact hv.trans (v.post_pops _ _)
        · exact hv
      apply h2
      split
      · exact hf _ _
      · exact .refl _
    · exact .refl _

/-- A TAGWAIT that completes keeps every READY context. -/
theorem State.tagMet_pops {fin : State → Nat → State} (hf : ∀ u t, State.Pops u (fin u t)) (s : State) (p : Pos) (d : Option Reg) (m : DWord)
    (hb : (s.ctx p).st ≠ .ready) : State.Pops s (s.tagMet fin p d m) := by
  unfold State.tagMet
  exact State.advanceAt_pops p _ _ hb ((s.modCtx_pops p _ hb).trans (State.popWith_pops hf _ p _))

theorem State.tagDoneN_pops (n : Nat) (s : State) (c core tag : Nat) (err : Byte) : State.Pops s (s.tagDoneN n c core tag err) := by
  induction n generalizing s tag err with
  | zero => unfold State.tagDoneN State.setDone; exact s.modCore_pops c core _
  | succ n ih =>
    unfold State.tagDoneN
    refine State.Pops.trans (s.modCore_pops c core _) (State.foldl_pops _ _ (fun u x => ?_) _)
    dsimp only
    split
    · exact .refl _
    split
    · rename_i m d h
      split
      · exact State.tagMet_pops (fun v t => ih v t 0) u _ _ _ (by rw [h]; exact fun e => by cases e)
      · exact .refl _
    · rename_i m h
      split
      · exact State.tagMet_pops (fun v t => ih v t 0) u _ _ _ (by rw [h]; exact fun e => by cases e)
      · exact .refl _
    · exact .refl _

theorem State.tagDone_pops (s : State) (c core tag : Nat) (err : Byte) : State.Pops s (s.tagDone c core tag err) := s.tagDoneN_pops 4 c core tag err

theorem State.streamPop_pops (s : State) (p : Pos) (ks : List Nat) : State.Pops s (s.streamPop p ks) :=
  State.popWith_pops (fun u t => u.tagDone_pops _ _ t 0) s p ks

/-! ### Starting -/

theorem Ctx.deliver_eq (c : Ctx) : c.deliver = { c with w := c.deliver.w, unready := c.deliver.unready } := by
  unfold Ctx.deliver
  have h : ∀ (l : List Unready) (d : Ctx), c = { d with w := c.w, unready := c.unready } →
      c = { (l.foldl (fun c u => match u.val with
        | some ws => { c.setGroup u.dst ws with unready := c.unready.filter (fun x => x ≠ u) }
        | none => c) d) with w := c.w, unready := c.unready } := by
    intro l
    induction l with
    | nil => intro d hd; exact hd
    | cons a t ih =>
      intro d hd
      simp only [List.foldl_cons]
      apply ih
      split
      · rw [Ctx.setGroup_eq]; exact hd
      · exact hd
  have h1 := h c.unready c rfl
  generalize List.foldl _ c c.unready = e at h1 ⊢
  rw [h1]

theorem State.start_me (s : State) (i : Instr) : (s.start i).me = { s.me.deliver with ibits := Instr.bits i, ilen := Instr.len i } :=
  State.me_modMe ..

theorem State.start_pc (s : State) (i : Instr) : (s.start i).me.pc = s.me.pc := by
  rw [State.start_me, Ctx.deliver_eq]

theorem State.start_st (s : State) (i : Instr) : (s.start i).me.st = s.me.st := by
  rw [State.start_me, Ctx.deliver_eq]

theorem Ctx.group_congr {c d : Ctx} (h : c.w = d.w) (r : Reg) (n : Nat) : c.group r n = d.group r n := by
  induction n generalizing r with
  | zero => rfl
  | succ n ih => simp only [Ctx.group, Ctx.reg, h, ih]

theorem Ctx.restore_congr {c d : Ctx} (h : c.w = d.w) (ks : List Nat) (e : Ctx) : Ctx.restore c ks e = Ctx.restore d ks e := by
  induction ks generalizing e with
  | nil => rfl
  | cons k ks ih => simp only [Ctx.restore, Ctx.group_congr h, ih]

/-- Restoring stream octets changes registers only. -/
theorem Ctx.restore_eq (c : Ctx) (ks : List Nat) (e : Ctx) : Ctx.restore c ks e = { e with w := (Ctx.restore c ks e).w } := by
  induction ks generalizing e with
  | nil => rfl
  | cons k ks ih => simp only [Ctx.restore]; rw [ih, Ctx.setGroup_eq]

/-- An instruction that issues does what its own effect says. -/
theorem runInstr_issues {s : State} {i : Instr} (h : s.Issues i) (body : State → Eff) :
    runInstr i s body = finish i ((s.start i).modMe (fun c => { c with spop := s.octets i })) (s.octets i) (body (s.view i)) := by
  obtain ⟨_, ha, hs, hc⟩ := h
  unfold runInstr runReading
  dsimp only
  have e : s.modMe (fun c => { c.deliver with ibits := Instr.bits i, ilen := Instr.len i }) = s.start i := rfl
  rw [e, ha]
  rw [if_neg (by decide)]
  cases hq : (s.start i).me.streamCheck (Instr.reads i) (Instr.writes i) with
  | mk r a =>
    rw [hq] at hs
    dsimp only at hs
    subst hs
    dsimp only
    rw [show ((s.start i).me.streamsOf (Instr.reads i)) = s.octets i from rfl, hc]
    rfl

/-! ### Completing -/

theorem endOfBody_keeps (pc npc : DWord) (n : Nat) (c : Ctx) (a : Vector (Option Stream) 4) (b : Option Convoy) (f : Bool) (l : List Nat) :
    endOfBody pc npc n { c with streams := a, convoy := b, fwded := f, spop := l } =
      ({ (endOfBody pc npc n c).1 with streams := a, convoy := b, fwded := f, spop := l }, (endOfBody pc npc n c).2) := by
  induction n generalizing c with
  | zero => rfl
  | succ n ih =>
    have hsl : ∀ (m : Nat) (v : Word), ({ c with streams := a, convoy := b, fwded := f, spop := l } : Ctx).setLoopCnt m v =
        { c.setLoopCnt m v with streams := a, convoy := b, fwded := f, spop := l } := by
      intro m v; simp only [Ctx.setLoopCnt]; split <;> rfl
    have h1 : ({ c with streams := a, convoy := b, fwded := f, spop := l } : Ctx).loopStart n = c.loopStart n := rfl
    have h2 : ({ c with streams := a, convoy := b, fwded := f, spop := l } : Ctx).loopEnd n = c.loopEnd n := rfl
    have h3 : ({ c with streams := a, convoy := b, fwded := f, spop := l } : Ctx).loopCnt n = c.loopCnt n := rfl
    simp only [endOfBody]
    rw [h1, h2, h3]
    split
    · rfl
    · split
      · rw [hsl]
      · rw [hsl]
        exact ih { c.setLoopCnt n 0 with depth := n }

theorem Ctx.Keeps.completed {c d : Ctx} (h : Ctx.Keeps c d) (npc : DWord) : Ctx.Keeps (c.completed npc true) (d.completed npc true) := by
  unfold Ctx.Keeps at h
  rw [h]
  unfold Ctx.completed
  dsimp only
  simp only [if_true, endOfBody_keeps]
  rfl

/-- What completing the current context's instruction leaves, from a state its own effect left. -/
theorem State.completes {s u : State} {i : Instr} (hc : u.cur = s.cur) (hr : u.me.st = .ready) (hp : u.me.spop = s.octets i) (npc : DWord) :
    s.Completes i u npc ((u.modCtx s.cur ((s.start i).me.restore (s.octets i))).completeAt s.cur npc true) := by
  generalize hU : u.modCtx s.cur ((s.start i).me.restore (s.octets i)) = U
  have hUm : U.ctx s.cur = (s.start i).me.restore (s.octets i) u.me := by
    subst hU; rw [State.ctx_modCtx, ← hc]; rfl
  have hst : (U.ctx s.cur).st = .ready := by rw [hUm, Ctx.restore_eq]; exact hr
  have hsp : (U.ctx s.cur).spop = s.octets i := by rw [hUm, Ctx.restore_eq]; exact hp
  have hUu : u.sameMem U := by subst hU; exact State.sameMem_of rfl rfl rfl rfl
  have hUc : U.cur = s.cur := by subst hU; exact hc
  have P : State.Pops U (U.streamPop s.cur (s.octets i)) := U.streamPop_pops _ _
  unfold State.completeAt State.advanceAt
  dsimp only
  rw [hsp]
  generalize hV : ((U.streamPop s.cur (s.octets i)).modCtx s.cur (fun c => { c with spop := [] })).modCtx s.cur (fun c => c.completed npc true) = V
  generalize (((U.streamPop s.cur (s.octets i)).modCtx s.cur (fun c => { c with spop := [] })).ctx s.cur).pc = pc0
  have M : State.Mild V (convoyStep V s.cur pc0) := convoyStep_mild V s.cur pc0
  have hVc : V.cur = s.cur := by subst hV; exact P.cur.trans hUc
  have hVm : u.sameMem V := by
    refine (hUu.trans P.mem).trans ?_
    subst hV; exact State.sameMem_of rfl rfl rfl rfl
  have hV1 : V.ctx s.cur = ({ (U.streamPop s.cur (s.octets i)).ctx s.cur with spop := [] } : Ctx).completed npc true := by
    subst hV; rw [State.ctx_modCtx, State.ctx_modCtx]
  have hK : Ctx.Keeps ((U.ctx s.cur).completed npc true) (V.ctx s.cur) := by
    rw [hV1]
    apply Ctx.Keeps.completed
    exact (P.keeps s.cur hst).trans rfl
  have hVs : (V.ctx s.cur).st = .ready := by rw [hV1]; rfl
  refine ⟨?_, ?_, hVm.trans M.pops.mem, ?_, ?_⟩
  · rw [M.rest]; exact hVc
  · have h1 := M.keeps s.cur hVs
    have h2 : (convoyStep V s.cur pc0).me = (convoyStep V s.cur pc0).ctx s.cur := by
      have : (convoyStep V s.cur pc0).cur = s.cur := by rw [M.rest]; exact hVc
      unfold State.me; rw [this]
    rw [h2, ← hUm]
    exact hK.trans h1
  · intro ho
    rw [M.rest]
    subst hV hU
    simp only [ho, State.streamPop, State.popWith]
    rfl
  · intro ho q hq
    obtain ⟨h1, h2, h3⟩ := convoyStep_regs V s.cur pc0 q
    have hVq : V.ctx q = u.ctx q := by
      subst hV hU
      rw [State.ctx_modCtx_ne _ (Ne.symm hq), State.ctx_modCtx_ne _ (Ne.symm hq), ho]
      simp only [State.streamPop]
      rw [State.popWith, State.ctx_modCtx_ne _ (Ne.symm hq)]
    rw [hVq] at h1 h2 h3
    exact ⟨h1, h2, h3⟩

theorem State.restored (s : State) (i : Instr) (ks : List Nat) :
    ((s.start i).modMe (fun c => { c with spop := s.octets i })).me.restore ks = (s.start i).me.restore ks := by
  funext e
  rw [State.me_modMe]
  exact Ctx.restore_congr (c := { (s.start i).me with spop := s.octets i }) (d := (s.start i).me) rfl ks e

/-- An instruction whose own effect is done completes behind itself. -/
theorem runInstr_done {s u : State} {i : Instr} {body : State → Eff} (h : s.Issues i) (hb : body (s.view i) = .done u)
    (hc : u.cur = s.cur) (hr : u.me.st = .ready) (hp : u.me.spop = s.octets i) :
    ∃ t, runInstr i s body = .next t ∧ s.Completes i u (nextPc i s.me.pc) t := by
  refine ⟨_, ?_, State.completes hc hr hp _⟩
  rw [runInstr_issues h, hb]
  simp only [finish]
  rw [State.restored]
  have e1 : ((s.start i).modMe (fun c => { c with spop := s.octets i })).cur = s.cur := rfl
  have e2 : ((s.start i).modMe (fun c => { c with spop := s.octets i })).me.pc = s.me.pc := by
    rw [State.me_modMe]; exact s.start_pc i
  rw [e1, e2]

/-- An instruction that jumps completes at its target. -/
theorem runInstr_jump {s u : State} {i : Instr} {body : State → Eff} {npc : DWord} (h : s.Issues i) (hb : body (s.view i) = .jump u npc)
    (hc : u.cur = s.cur) (hr : u.me.st = .ready) (hp : u.me.spop = s.octets i) :
    ∃ t, runInstr i s body = .next t ∧ s.Completes i u npc t := by
  refine ⟨_, ?_, State.completes hc hr hp npc⟩
  rw [runInstr_issues h, hb]
  simp only [finish]
  rw [State.restored]
  rfl

/-- An instruction that traps leaves what taking the trap at its address leaves. -/
theorem runInstr_trap {s : State} {i : Instr} {body : State → Eff} {code : Byte} {xaddr : DWord} {xinfo : Word} (h : s.Issues i)
    (hb : body (s.view i) = .trap code xaddr xinfo) :
    runInstr i s body = .next (((s.start i).modMe (fun c => { c with spop := s.octets i })).takeTrap s.cur code xaddr xinfo s.me.pc) := by
  rw [runInstr_issues h, hb]
  simp only [finish]
  have e2 : ((s.start i).modMe (fun c => { c with spop := s.octets i })).me.pc = s.me.pc := by
    rw [State.me_modMe]; exact s.start_pc i
  rw [e2]
  rfl

/-! ### The state as an instruction sees it -/

theorem State.streamView_eq (s : State) (p : Pos) (ks : List Nat) :
    s.streamView p ks = { s with ctxs := (s.streamView p ks).ctxs } := by
  unfold State.streamView
  have h : ∀ (l : List Nat) (u : State), u = { s with ctxs := u.ctxs } →
      l.foldl (fun u k => match (u.ctx p).stream k with
        | some t => u.modCtx p (fun c => c.setGroup (streamReg k) (bytesWords 8 (s.window p t)))
        | none => u) u = { s with ctxs := (l.foldl (fun u k => match (u.ctx p).stream k with
        | some t => u.modCtx p (fun c => c.setGroup (streamReg k) (bytesWords 8 (s.window p t)))
        | none => u) u).ctxs } := by
    intro l
    induction l with
    | nil => intro u hu; exact hu
    | cons k t ih =>
      intro u hu
      simp only [List.foldl_cons]
      apply ih
      split
      · rw [hu]; rfl
      · exact hu
  exact h ks s rfl

/-- Looking through windows changes registers of the octets only. -/
theorem State.streamView_ctx (s : State) (p : Pos) (ks : List Nat) :
    (s.streamView p ks).ctx p = { s.ctx p with w := ((s.streamView p ks).ctx p).w } := by
  unfold State.streamView
  generalize hc : s.ctx p = c
  have h : ∀ (l : List Nat) (u : State), u.ctx p = { c with w := (u.ctx p).w } →
      (l.foldl (fun u k => match (u.ctx p).stream k with
        | some t => u.modCtx p (fun c => c.setGroup (streamReg k) (bytesWords 8 (s.window p t)))
        | none => u) u).ctx p = { c with w := ((l.foldl (fun u k => match (u.ctx p).stream k with
        | some t => u.modCtx p (fun c => c.setGroup (streamReg k) (bytesWords 8 (s.window p t)))
        | none => u) u).ctx p).w } := by
    intro l
    induction l with
    | nil => intro u hu; exact hu
    | cons k t ih =>
      intro u hu
      simp only [List.foldl_cons]
      apply ih
      split
      · rw [State.ctx_modCtx, Ctx.setGroup_eq, hu]
      · exact hu
  exact h ks s (by rw [hc])

theorem State.view_eq (s : State) (i : Instr) : s.view i = { s with ctxs := (s.view i).ctxs } := by
  unfold State.view
  rw [State.streamView_eq]
  rfl

@[simp] theorem State.view_cur (s : State) (i : Instr) : (s.view i).cur = s.cur := by rw [State.view_eq]

theorem State.seen_eq (s : State) (i : Instr) : s.seen i = { (s.start i).me with w := (s.seen i).w, spop := s.octets i } := by
  have h : s.seen i = (s.view i).ctx s.cur := by unfold State.seen State.me; rw [State.view_cur]
  rw [h]
  unfold State.view
  have e := State.streamView_ctx ((s.start i).modMe (fun c => { c with spop := s.octets i })) s.cur (s.octets i)
  rw [e]
  have e2 : ((s.start i).modMe (fun c => { c with spop := s.octets i })).ctx s.cur = { (s.start i).me with spop := s.octets i } :=
    State.me_modMe (s.start i) _
  rw [e2]

theorem State.seen_st {s : State} {i : Instr} (h : s.me.st = .ready) : (s.seen i).st = .ready := by
  rw [State.seen_eq]; exact (s.start_st i).trans h
theorem State.seen_spop (s : State) (i : Instr) : (s.seen i).spop = s.octets i := by rw [State.seen_eq]
theorem State.seen_pc (s : State) (i : Instr) : (s.seen i).pc = s.me.pc := by rw [State.seen_eq]; exact s.start_pc i

/-- An instruction whose own effect changes only its context completes as that context. -/
theorem runInstr_ctx {s : State} {i : Instr} {body : State → Eff} {c : Ctx} (h : s.Issues i)
    (hb : body (s.view i) = .done ((s.view i).setMe c)) (hr : c.st = .ready) (hp : c.spop = s.octets i) :
    ∃ t, runInstr i s body = .next t ∧ s.CompletesAs i c t := by
  refine runInstr_done (u := (s.view i).setCtx s.cur c) h ?_ (s.view_cur i) ?_ ?_
  · rw [hb]; unfold State.setMe; rw [State.view_cur]
  · unfold State.me
    rw [State.setCtx_cur, State.view_cur, State.ctx_setCtx]; exact hr
  · unfold State.me
    rw [State.setCtx_cur, State.view_cur, State.ctx_setCtx]; exact hp

/-- The register-only instructions: their context is f of what they see. -/
theorem pureRegs_completes {s : State} {i : Instr} {f : Ctx → Ctx} (h : s.Issues i) (hr : (f (s.seen i)).st = (s.seen i).st)
    (hp : (f (s.seen i)).spop = (s.seen i).spop) : ∃ t, pureRegs i s f = .next t ∧ s.CompletesAs i (f (s.seen i)) t :=
  runInstr_ctx h rfl (hr.trans (s.seen_st h.ready)) (hp.trans (s.seen_spop i))

/-! ### Registers after an instruction -/

/-- The register lies in one of the octets. -/
def inOctets (ks : List Nat) (r : Reg) : Prop := ∃ k ∈ ks, 32 + 8 * k ≤ r.toNat ∧ r.toNat < 40 + 8 * k

theorem State.octets_lt {s : State} {i : Instr} {k : Nat} (h : k ∈ s.octets i) : k < 4 := by
  unfold State.octets Ctx.streamsOf at h
  have := (List.mem_filter.mp h).1
  simp only [List.mem_cons, List.not_mem_nil, or_false] at this
  omega

theorem streamReg_toNat {k : Nat} (h : k < 4) : (streamReg k).toNat = 32 + 8 * k := by
  unfold streamReg
  rw [BitVec.toNat_ofNat]
  omega

theorem Ctx.group_get (c : Ctx) (r : Reg) (n k : Nat) (hk : k < n) (q : Reg) (hq : q.toNat = r.toNat + k) (hw : r.toNat + n ≤ 64) :
    (c.group r n)[k]'(by rw [Ctx.group_length]; exact hk) = c.reg q := by
  induction n generalizing r k with
  | zero => omega
  | succ n ih =>
    simp only [Ctx.group]
    cases k with
    | zero =>
      have : q = r := by apply BitVec.eq_of_toNat_eq; omega
      subst this
      rfl
    | succ k =>
      have h1 : (r + 1).toNat = r.toNat + 1 := by
        rw [BitVec.toNat_add]; have : (1 : BitVec 6).toNat = 1 := rfl; rw [this]; omega
      simp only [List.getElem_cons_succ]
      exact ih (r + 1) k (by omega) (by rw [h1]; omega) (by rw [h1]; omega)

theorem Ctx.reg_restore (c : Ctx) (ks : List Nat) (hk : ∀ k ∈ ks, k < 4) (e : Ctx) (r : Reg) :
    (inOctets ks r → (Ctx.restore c ks e).reg r = c.reg r) ∧ (¬ inOctets ks r → (Ctx.restore c ks e).reg r = e.reg r) := by
  induction ks generalizing e with
  | nil => exact ⟨fun ⟨k, h, _⟩ => absurd h (List.not_mem_nil), fun _ => rfl⟩
  | cons k ks ih =>
    have hk4 : k < 4 := hk k (List.mem_cons_self ..)
    have ih' := ih (fun j hj => hk j (List.mem_cons_of_mem _ hj)) (e.setGroup (streamReg k) (c.group (streamReg k) 8))
    have hs := streamReg_toNat hk4
    have hl : (c.group (streamReg k) 8).length = 8 := Ctx.group_length ..
    simp only [Ctx.restore]
    constructor
    · intro h
      by_cases h2 : inOctets ks r
      · exact ih'.1 h2
      · rw [ih'.2 h2]
        obtain ⟨j, hj, hr⟩ := h
        rcases List.mem_cons.mp hj with rfl | hj
        · rw [Ctx.reg_setGroup _ _ r _ (by rw [hs, hl]; omega) (r.toNat - (32 + 8 * j)) (by rw [hl]; omega) (by rw [hs]; omega)]
          exact Ctx.group_get _ _ _ _ (by omega) _ (by rw [hs]; omega) (by rw [hs]; omega)
        · exact absurd ⟨j, hj, hr⟩ h2
    · intro h
      have h2 : ¬ inOctets ks r := fun ⟨j, hj, hr⟩ => h ⟨j, List.mem_cons_of_mem _ hj, hr⟩
      rw [ih'.2 h2]
      have h3 : ¬ (32 + 8 * k ≤ r.toNat ∧ r.toNat < 40 + 8 * k) := fun hr => h ⟨k, List.mem_cons_self .., hr⟩
      exact Ctx.reg_setGroup_ne _ _ _ _ (by rw [hs, hl]; omega) (by rw [hs, hl]; omega)

/-- Registers after an instruction that left the context c: those of the octets it read are as before it, the others are c's. -/
theorem State.CompletesAs.reg {s t : State} {i : Instr} {c : Ctx} (h : s.CompletesAs i c t) (r : Reg) :
    (inOctets (s.octets i) r → t.me.reg r = (s.start i).me.reg r) ∧ (¬ inOctets (s.octets i) r → t.me.reg r = c.reg r) := by
  have h1 := h.self
  have hm : ((s.view i).setCtx s.cur c).me = c := by
    unfold State.me; rw [State.setCtx_cur, State.view_cur, State.ctx_setCtx]
  rw [hm] at h1
  have h2 : t.me.w = ((s.start i).me.restore (s.octets i) c).w := by
    rw [h1]
    show (Ctx.completed _ _ _).w = _
    unfold Ctx.completed
    dsimp only
    have he : ∀ (n : Nat) (pc npc : DWord) (d : Ctx), (endOfBody pc npc n d).1.w = d.w := by
      intro n
      induction n with
      | zero => intros; rfl
      | succ n ih =>
        intro pc npc d
        have hsl : ∀ m v, (d.setLoopCnt m v).w = d.w := by intro m v; simp only [Ctx.setLoopCnt]; split <;> rfl
        simp only [endOfBody]
        split
        · rfl
        · split
          · exact hsl _ _
          · rw [ih]; exact hsl _ _
    simp only [if_true, he]
  have h3 := Ctx.reg_restore (s.start i).me (s.octets i) (fun k hk => State.octets_lt hk) c r
  have h4 : t.me.reg r = ((s.start i).me.restore (s.octets i) c).reg r := by simp only [Ctx.reg, h2]
  rw [h4]
  exact h3

end Sys2Proof.Machine
end

