-- ==== Sys2Proof/Laws/Trap.lean ====
section
/-! SUPPORT. What taking a trap can do (R364, R365), and completing in terms of the context an instruction leaves. -/

namespace Sys2Proof.Machine

/-- Two contexts hold the same but for the convoy's bookkeeping, the pop list and the state of R119. -/
def Ctx.KeepsSt (c c' : Ctx) : Prop :=
  c' = { c with streams := c'.streams, convoy := c'.convoy, fwded := c'.fwded, spop := c'.spop, st := c'.st }

theorem Ctx.KeepsSt.trans {a b c : Ctx} (h : Ctx.KeepsSt a b) (g : Ctx.KeepsSt b c) : Ctx.KeepsSt a c := by
  unfold Ctx.KeepsSt at *
  rw [h] at g
  exact g

theorem State.map_keeps (s : State) (f : Pos × Ctx → Pos × Ctx) (hf : ∀ e, (f e).1 = e.1)
    (hk : ∀ e : Pos × Ctx, Ctx.KeepsSt e.2 (f e).2) (q : Pos) : Ctx.KeepsSt (s.ctx q) (({ s with ctxs := s.ctxs.map f } : State).ctx q) := by
  rcases s.ctx_map f hf q with h | h
  · rw [h]; exact hk (q, s.ctx q)
  · rw [h]; rfl

theorem feedConvoy_keeps (s : State) (p : Pos) (id : Nat) :
    feedConvoy s p id = { s with ctxs := (feedConvoy s p id).ctxs } ∧ ∀ q, Ctx.KeepsSt (s.ctx q) ((feedConvoy s p id).ctx q) := by
  unfold feedConvoy
  refine ⟨rfl, fun q => s.map_keeps _ ?_ ?_ q⟩
  · intro e; split <;> rfl
  · intro e; split
    · dsimp only; rw [Ctx.fed_eq]; rfl
    · rfl

theorem Ctx.rejoined_eq (c : Ctx) : c.rejoined = { c with st := c.rejoined.st } := by
  unfold Ctx.rejoined
  split <;> rfl

theorem dissolve_keeps (s : State) (p : Pos) (id : Nat) :
    dissolve s p id = { s with ctxs := (dissolve s p id).ctxs } ∧ ∀ q, Ctx.KeepsSt (s.ctx q) ((dissolve s p id).ctx q) := by
  unfold dissolve
  refine ⟨rfl, fun q => s.map_keeps _ ?_ ?_ q⟩
  · intro e; dsimp only; split
    · split
      · split <;> rfl
      · rfl
    · rfl
  · intro e; dsimp only; split
    · split
      · split
        · rw [Ctx.rejoined_eq, Ctx.fed_eq]; rfl
        · rw [Ctx.fed_eq]; rfl
      · rfl
    · rfl

/-- Leaving a convoy by a trap changes only convoy fields and wakes members. -/
theorem leaveByTrap_keeps (s : State) (p : Pos) :
    leaveByTrap s p = { s with ctxs := (leaveByTrap s p).ctxs } ∧ ∀ q, Ctx.KeepsSt (s.ctx q) ((leaveByTrap s p).ctx q) := by
  have hset : ∀ c : Ctx, Ctx.KeepsSt (s.ctx p) c → ∀ q, Ctx.KeepsSt (s.ctx q) ((s.setCtx p c).ctx q) := by
    intro c hc q
    by_cases h : p = q
    · subst h; rw [State.ctx_setCtx]; exact hc
    · rw [State.ctx_setCtx_ne _ h]; rfl
  unfold leaveByTrap
  split
  · rename_i v _
    split
    · obtain ⟨h1, h2⟩ := dissolve_keeps (s.modCtx p (fun c => { c with convoy := none })) p v.id
      refine ⟨?_, fun q => ?_⟩
      · rw [h1]; rfl
      · exact Ctx.KeepsSt.trans (hset { s.ctx p with convoy := none } (by rfl) q) (h2 q)
    · obtain ⟨h1, h2⟩ := feedConvoy_keeps (s.modCtx p (fun c => { c with convoy := if v.id = 0 then none else some { v with inside := false, queue := [] } })) p v.id
      refine ⟨?_, fun q => ?_⟩
      · rw [h1]; rfl
      · exact Ctx.KeepsSt.trans (hset { s.ctx p with convoy := if v.id = 0 then none else some { v with inside := false, queue := [] } } (by rfl) q) (h2 q)
  · exact ⟨rfl, fun _ => rfl⟩

/-- A submission that ends changes its context's sub, wakes who waits for what it pinned, and posts an event; without one nothing changes. -/
theorem State.subGone_keeps (s : State) (p : Pos) :
    s.subGone p = { s with ctxs := (s.subGone p).ctxs, pending := (s.subGone p).pending } ∧ ((s.ctx p).sub = none → s.subGone p = s) ∧
    Ctx.KeepsSt { s.ctx p with sub := none } ((s.subGone p).ctx p) ∧ ∀ q, q ≠ p → Ctx.KeepsSt (s.ctx q) ((s.subGone p).ctx q) := by
  have hw : ∀ (u : State) (f : Pos → Wait → Bool) (q : Pos), Ctx.KeepsSt (u.ctx q) ((u.wakeAll f).ctx q) := by
    intro u f q
    unfold State.wakeAll
    refine u.map_keeps _ ?_ ?_ q
    · intro e; repeat' split
      all_goals rfl
    · intro e; unfold Ctx.woken; repeat' split
      all_goals rfl
  unfold State.subGone
  by_cases h : (s.ctx p).sub.isSome = true
  · rw [if_pos h]
    refine ⟨rfl, fun (e : (s.ctx p).sub = none) => absurd h (by rw [e]; exact Bool.false_ne_true), ?_, fun q hq => ?_⟩
    · have h1 := hw (s.modCtx p (fun c => { c with sub := none })) (fun q w => q.clus = p.clus && w = .resource) p
      rw [State.ctx_modCtx] at h1
      exact h1
    · have h1 := hw (s.modCtx p (fun c => { c with sub := none })) (fun q w => q.clus = p.clus && w = .resource) q
      rw [State.ctx_modCtx_ne _ (Ne.symm hq)] at h1
      exact h1
  · rw [if_neg h]
    have hn : (s.ctx p).sub = none := by simpa using h
    refine ⟨rfl, fun _ => rfl, ?_, fun q _ => rfl⟩
    unfold Ctx.KeepsSt
    rw [← hn]

/-- A trap taken outside a handler, by a context that does not baste and is not stopped (R364). -/
theorem State.takeTrap_first {s : State} {p : Pos} (hb : (s.ctx p).basting = false) (hs : (s.ctx p).stop = false) (hl : (s.ctx p).last = false)
    (hi : (s.ctx p).intrap = false) (code : Byte) (xaddr : DWord) (xinfo : Word) (xpc : DWord) :
    s.takeTrap p code xaddr xinfo xpc =
      { s with ctxs := (s.takeTrap p code xaddr xinfo xpc).ctxs, pending := (s.takeTrap p code xaddr xinfo xpc).pending } ∧
    ((s.ctx p).sub = none → (s.takeTrap p code xaddr xinfo xpc).pending = s.pending) ∧
    Ctx.Keeps { s.ctx p with
      xpc := codeAddr xpc, xcause := code.setWidth 32, xaddr := xaddr, xinfo := xinfo, intrap := true,
      skipbp := false, pc := (s.ctx p).tvec, st := .ready, sub := none, skips := [] } ((s.takeTrap p code xaddr xinfo xpc).ctx p) ∧
    ∀ q, q ≠ p → Ctx.KeepsSt (s.ctx q) ((s.takeTrap p code xaddr xinfo xpc).ctx q) := by
  obtain ⟨g1, g2, g3, g4⟩ := s.subGone_keeps p
  generalize hu : s.subGone p = u at g1 g2 g3 g4
  obtain ⟨h1, h2⟩ := leaveByTrap_keeps u p
  have k := g3
  unfold Ctx.KeepsSt at k
  have e : s.takeTrap p code xaddr xinfo xpc = (leaveByTrap u p).modCtx p (fun c =>
      { c with xpc := codeAddr xpc, xcause := code.setWidth 32, xaddr := xaddr, xinfo := xinfo, intrap := true,
               skipbp := false, pc := c.tvec, st := .ready, fwded := false, spop := [], sub := none, skips := [] }) := by
    unfold State.takeTrap
    rw [hb, hu]
    have e1 : (u.ctx p).stop = false := by rw [k]; exact hs
    have e2 : (u.ctx p).last = false := by rw [k]; exact hl
    have e3 : (u.ctx p).intrap = false := by rw [k]; exact hi
    dsimp only
    rw [e1, e2, e3]
    rfl
  rw [e]
  refine ⟨?_, fun hn => ?_, ?_, fun q hq => ?_⟩
  · show ({ leaveByTrap u p with ctxs := _ } : State) = _
    rw [h1, g1]
    rfl
  · show (leaveByTrap u p).pending = _
    rw [h1, g2 hn]
  · rw [State.ctx_modCtx]
    have := h2 p
    unfold Ctx.KeepsSt at this
    unfold Ctx.Keeps
    rw [this, k]
  · rw [State.ctx_modCtx_ne _ (Ne.symm hq)]
    exact Ctx.KeepsSt.trans (g4 q hq) (h2 q)

end Sys2Proof.Machine
end

