-- ==== Sys2Proof/Tests/Slice0.lean ====
section
/-! SUPPORT. Tests: words written from the encoding tables of the spec, a term that each check of an encoding refuses, results the spec
gives, and for every statement a state and operands that meet its hypotheses. -/

set_option Elab.async false

namespace Sys2Proof.Tests

open Sys2Proof Sys2Proof.Machine Sys2Proof.Claims

/-! ### Words (R143 to R154) -/

/-- A number as n bytes, least significant first. -/
def le (n v : Nat) : List Byte := (List.range n).map (fun k => BitVec.ofNat 8 (v / 256 ^ k))

/-- Format R of R146: major, function, width, dst, src1, src2. -/
def wR (maj f w d s1 s2 : Nat) : List Byte := le 4 (s2 * 2 ^ 26 + s1 * 2 ^ 20 + d * 2 ^ 14 + w * 2 ^ 12 + f * 2 ^ 8 + maj * 2 + 1)
/-- Formats I and B: major, imm12, src1 or opa, dst or opb. -/
def wI (maj imm s1 d : Nat) : List Byte := le 4 (imm * 2 ^ 20 + s1 * 2 ^ 14 + d * 2 ^ 8 + maj * 2 + 1)
/-- Format J. -/
def wJ (maj off : Nat) : List Byte := le 4 (off * 2 ^ 8 + maj * 2 + 1)
/-- Format V: major, function, vb, va, vd, mask, type, rf. -/
def wV (maj f vb va vd m t rf : Nat) : List Byte :=
  le 4 (vb * 2 ^ 29 + va * 2 ^ 26 + vd * 2 ^ 23 + m * 2 ^ 20 + t * 2 ^ 16 + rf * 2 ^ 12 + f * 2 ^ 8 + maj * 2 + 1)
/-- Format X: major, function, pa, pb, tag. -/
def wX (maj f pa pb tag : Nat) : List Byte := le 4 (pa * 2 ^ 26 + pb * 2 ^ 20 + tag * 2 ^ 14 + f * 2 ^ 8 + maj * 2 + 1)
/-- A 16-bit form of R144: form, d, s5. -/
def wH (form d s5 : Nat) : List Byte := le 2 (s5 * 2 ^ 11 + d * 2 ^ 5 + form * 2)

/-- Every word of the list decodes to its instruction, with the length n. -/
abbrev decodes (n : Nat) (l : List (List Byte × Instr)) : Prop := ∀ e ∈ l, decode e.1 = .ok (e.2, n)

/-- R152, major 0x01. -/
theorem test_decode_integer_a : decodes 4 [
    (wR 0x01 0 1 10 10 14, .add .pair 10 10 14), (wR 0x01 1 0 1 2 3, .sub .single 1 2 3), (wR 0x01 2 0 1 2 3, .mul 1 2 3), (wR 0x01 3 0 1 2 3, .mulh 1 2 3),
    (wR 0x01 4 0 1 2 3, .mulhu 1 2 3), (wR 0x01 5 0 63 2 3, .div 63 2 3), (wR 0x01 6 0 1 2 3, .divu 1 2 3), (wR 0x01 7 0 1 2 3, .rem 1 2 3),
    (wR 0x01 8 0 1 2 3, .remu 1 2 3), (wR 0x01 9 3 8 16 24, .and .octet 8 16 24), (wR 0x01 10 2 4 8 12, .or .quad 4 8 12), (wR 0x01 11 0 1 2 3, .xor .single 1 2 3),
    (wR 0x01 12 0 1 2 3, .andn .single 1 2 3), (wR 0x01 13 0 1 2 3, .min 1 2 3), (wR 0x01 14 0 1 2 3, .max 1 2 3), (wR 0x01 15 0 1 2 3, .minu 1 2 3)] := by decide +kernel

/-- R152, majors 0x02 and 0x03; src2 of SEXT and ZEXT is the bit number. -/
theorem test_decode_integer_b : decodes 4 [
    (wR 0x02 0 0 1 2 3, .maxu 1 2 3), (wR 0x02 1 1 2 4 3, .shl .pair 2 4 3), (wR 0x02 2 0 1 2 3, .shr .single 1 2 3), (wR 0x02 3 0 1 2 3, .sha .single 1 2 3),
    (wR 0x02 4 0 1 2 3, .rot .single 1 2 3), (wR 0x02 5 0 1 2 0, .clz 1 2), (wR 0x02 6 0 1 2 0, .ctz 1 2), (wR 0x02 7 0 1 2 0, .popc 1 2), (wR 0x02 8 0 1 2 0, .brev 1 2),
    (wR 0x02 9 0 1 2 31, .sext .single 1 2 31), (wR 0x02 10 1 2 3 7, .zext .pair 2 3 7), (wR 0x02 11 3 8 16 0, .mov .octet 8 16), (wR 0x02 12 0 1 2 3, .sel .single 1 2 3),
    (wR 0x03 0 0 1 2 3, .setCc .eq .single 1 2 3), (wR 0x03 5 1 1 2 4, .setCc .geu .pair 1 2 4)] := by decide +kernel

/-- R148, R152, majors 0x04 to 0x0D. -/
theorem test_decode_immediates : decodes 4 [
    (wI 0x04 0xFFF 2 1, .addi 1 2 0xFFF), (wI 0x05 0x800 2 1, .andi 1 2 0x800), (wI 0x06 5 2 1, .ori 1 2 5), (wI 0x07 5 2 1, .xori 1 2 5),
    (wI 0x08 31 2 1, .shli 1 2 31), (wI 0x08 (0x400 + 31) 2 1, .shri 1 2 31), (wI 0x08 (0x800 + 1) 2 1, .shai 1 2 1), (wI 0x08 (0xC00 + 1) 2 1, .roti 1 2 1),
    (wI 0x09 (24 * 32 + 7) 2 1, .bfx 1 2 24 7), (wI 0x0A (31 * 32) 2 1, .bfi 1 2 31 0), (wJ 0x0B (0x3FFFF * 64 + 5), .movi 5 0x3FFFF), (wJ 0x0C (0x12345 * 64 + 5), .movhi 5 0x12345),
    (wI 0x0D 0x801 6 4, .lea 4 6 0x801)] := by decide +kernel

/-- R149, R152, majors 0x10 to 0x23. -/
theorem test_decode_control : decodes 4 [
    (wI 0x10 0x800 2 3, .beq 2 3 0x800), (wI 0x11 4 2 3, .bne 2 3 4), (wI 0x12 4 2 3, .blt 2 3 4), (wI 0x13 4 2 3, .bge 2 3 4), (wI 0x14 4 2 3, .bltu 2 3 4), (wI 0x15 4 2 3, .bgeu 2 3 4),
    (wI 0x16 4 2 63, .briEq 2 63 4), (wI 0x17 4 2 3, .briNe 2 3 4), (wI 0x18 4 2 3, .briLt 2 3 4), (wI 0x19 4 2 3, .briGe 2 3 4), (wI 0x1A 4 2 3, .briLtu 2 3 4), (wI 0x1B 4 2 3, .briGeu 2 3 4),
    (wJ 0x1C 0x800000, .j 0x800000), (wJ 0x1D 4, .jl 4), (wI 0x1E 3 3 0, .loop 3 3), (wJ 0x1F (3 * 4096 + 8), .loopi 8 3),
    (wR 0x20 0 1 2 4 0, .jlr 2 4), (wR 0x20 1 0 0 0 0, .nop), (wR 0x20 2 0 0 0 0, .yield), (wR 0x20 3 0 0 0 0, .halt), (wR 0x20 4 0 0 0 0, .lexit),
    (wR 0x23 0 0 0 63 0, .trap 63), (wR 0x23 1 0 0 0 0, .rft), (wR 0x23 2 0 0 0 0, .bkpt), (wR 0x23 3 3 0 8 0, .svc 8)] := by decide +kernel

/-- R148, R152, majors 0x30 to 0x47; the ordering stands in imm12[11:10]. -/
theorem test_decode_memory : decodes 4 [
    (wI 0x30 0x3FF 2 1, .ldbH .plain 1 2 0x3FF), (wI 0x31 0x400 2 1, .ldbuH .inv 1 2 0), (wI 0x32 0x801 2 1, .ldhH .acq 1 2 1), (wI 0x33 1 2 1, .ldhuH .plain 1 2 1),
    (wI 0x34 1 2 1, .ldwH .plain 1 2 1), (wI 0x35 1 2 6, .lddH .plain 6 2 1), (wI 0x36 1 2 8, .ldqH .plain 8 2 1), (wI 0x37 1 2 16, .ldoH .plain 16 2 1),
    (wI 0x38 1 2 1, .ldbG .plain 1 2 1), (wI 0x39 1 2 1, .ldbuG .plain 1 2 1), (wI 0x3A 1 2 1, .ldhG .plain 1 2 1), (wI 0x3B 1 2 1, .ldhuG .plain 1 2 1),
    (wI 0x3C 1 2 1, .ldwG .plain 1 2 1), (wI 0x3D 1 2 6, .lddG .plain 6 2 1), (wI 0x3E 1 2 8, .ldqG .plain 8 2 1), (wI 0x3F 1 2 16, .ldoG .plain 16 2 1),
    (wI 0x40 1 2 1, .stb .plain 1 2 1), (wI 0x41 0x401 2 1, .sth .rel 1 2 1), (wI 0x42 1 2 1, .stw .plain 1 2 1), (wI 0x43 1 2 6, .std .plain 6 2 1), (wI 0x44 1 2 8, .stq .plain 8 2 1), (wI 0x45 1 2 16, .sto .plain 16 2 1),
    (wI 0x46 0xFFF 2 8, .ldl .octet 8 2 0x3FF), (wI 0x47 0x400 2 8, .stl .pair 8 2 0)] := by decide +kernel

/-- R152, majors 0x48 to 0x4C. -/
theorem test_decode_atomics : decodes 4 [
    (wR 0x48 0 0 1 2 3, .atomAdd .rlx .single 1 2 3), (wR 0x49 1 0 1 2 3, .atomMin .acq .single 1 2 3), (wR 0x4A 2 0 1 2 3, .atomMax .rel .single 1 2 3), (wR 0x4B 3 1 4 2 6, .atomMinu .ar .pair 4 2 6),
    (wR 0x48 4 0 1 2 3, .atomMaxu .rlx .single 1 2 3), (wR 0x48 5 0 1 2 3, .atomAnd .rlx .single 1 2 3), (wR 0x48 6 0 1 2 3, .atomOr .rlx .single 1 2 3), (wR 0x48 7 0 1 2 3, .atomXor .rlx .single 1 2 3),
    (wR 0x48 8 0 1 2 3, .atomSwap .rlx .single 1 2 3), (wR 0x48 9 0 1 2 3, .atomCas .rlx .single 1 2 3),
    (wR 0x4C 0 0 0 0 0, .fence .core), (wR 0x4C 0 0 0 0 3, .fence .dom), (wR 0x4C 1 0 0 1 0, .fenceP .p .c), (wR 0x4C 2 0 0 2 4, .rwb 2 4), (wR 0x4C 3 0 0 2 4, .rinv 2 4), (wR 0x4C 4 0 0 2 4, .clean 2 4)] := by decide +kernel

/-- R152, majors 0x50 to 0x53. -/
theorem test_decode_pulls_matrix : decodes 4 [
    (wX 0x50 0 2 4 63, .pull 2 4 63), (wX 0x50 1 2 4 5, .pulld 2 4 5), (wX 0x50 2 2 4 5, .pullc 2 4 5), (wX 0x50 3 32 2 5, .stream 2 32 5),
    (wR 0x51 0 1 2 4 0, .tagwaitAny 2 4), (wR 0x51 1 1 0 4 0, .tagwaitAll 4), (wR 0x51 2 1 2 4 0, .tagff 2 4), (wR 0x51 3 1 0 4 0, .tagclr 4), (wR 0x51 4 0 2 63 0, .tagtst 2 63), (wR 0x51 5 3 0 56 0, .sclose 56),
    (wX 0x52 0 2 4 5, .mma 2 4 5), (wX 0x52 1 2 4 5, .mmas 2 4 5), (wX 0x52 2 2 4 5, .msend 2 4 5), (wX 0x52 3 2 0 5, .mdrain 2 5), (wX 0x52 4 2 0 5, .mzero 2 5), (wX 0x52 5 8 2 0, .plane 2 8),
    (wR 0x53 0 0 0 2 3, .tidset 2 3), (wR 0x53 1 0 0 2 0, .tidclr 2)] := by decide +kernel

/-- R152, majors 0x54 to 0x59. -/
theorem test_decode_synchronisation : decodes 4 [
    (wR 0x54 0 1 0 2 4, .pub 2 4), (wR 0x54 1 0 2 63 0, .unwatch 2 63), (wR 0x54 2 0 0 2 0, .bar 2), (wR 0x54 3 0 1 2 0, .bara 1 2), (wR 0x54 4 0 0 2 3, .barw 2 3), (wR 0x54 5 0 0 2 0, .convoy 2),
    (wR 0x54 6 0 0 0 0, .cjoin), (wR 0x54 7 0 0 0 0, .cleave), (wI 0x55 0xFFF 2 0, .pubi 2 0xFFF), (wX 0x56 0 2 0 5, .watch 2 5),
    (wR 0x57 0 3 0 8 3, .send 8 3), (wR 0x57 1 3 1 8 3, .sendt 1 8 3), (wR 0x57 2 3 8 0 0, .recv 8), (wR 0x57 3 3 8 0 3, .recvt 8 3), (wR 0x57 4 0 0 2 3, .enq 2 3), (wR 0x57 5 0 1 2 3, .enqt 1 2 3),
    (wX 0x58 0 2 0 5, .lease 2 5), (wX 0x58 1 2 0 5, .coll 2 5), (wR 0x59 0 0 1 2 0, .leaseq 1 2), (wR 0x59 1 0 1 2 3, .leaserel 1 2 3), (wR 0x59 2 0 2 3 0, .deadq 2 3)] := by decide +kernel

/-- R152, majors 0x60 to 0x63; R154 for the types, R75 for the rounding codes. -/
theorem test_decode_lanes : decodes 4 [
    (wV 0x60 0 3 2 1 7 0 0, .vadd .fp32 .dyn 1 2 3 7), (wV 0x60 1 3 2 1 0 1 1, .vsub .bf16 .rne 1 2 3 0), (wV 0x60 2 3 2 1 0 2 2, .vmul .fp16 .rtz 1 2 3 0), (wV 0x60 3 3 2 1 0 0 3, .vfma .fp32 .rdn 1 2 3 0),
    (wV 0x60 4 3 2 1 0 0 4, .vfms .fp32 .rup 1 2 3 0), (wV 0x60 5 3 2 1 0 0 5, .vfnma .fp32 .rsto 1 2 3 0), (wV 0x60 6 3 2 1 0 0 0, .vmax .fp32 1 2 3 0), (wV 0x60 7 3 2 1 0 5 0, .vmin .int8 1 2 3 0),
    (wV 0x60 8 0 2 1 0 5 0, .vabs .int8 1 2 0), (wV 0x60 9 0 2 1 0 0 0, .vneg .fp32 1 2 0), (wV 0x60 10 3 2 1 0 5 0, .vdot .int8 .dyn 1 2 3 0),
    (wV 0x61 0 0 2 1 0 0 0, .vrcp .fp32 .dyn 1 2 0), (wV 0x61 1 0 2 1 0 0 0, .vrsq .fp32 .dyn 1 2 0), (wV 0x61 2 0 2 1 0 0 0, .vexp2 .fp32 .dyn 1 2 0),
    (wV 0x63 0 3 2 4 1 0 6, .vcmpCc .un .fp32 4 2 3 1)] := by decide +kernel

/-- R152, majors 0x62 and 0x64 to 0x67. -/
theorem test_decode_lane_moves : decodes 4 [
    (wV 0x62 0 1 2 1 0 2 0, .vcvt .fp16 .bf16 .dyn 1 2 0), (wV 0x62 1 1 1 2 0 0 0, .vcvtw .fp32 .bf16 2 1 0), (wV 0x62 2 0 2 1 0 1 0, .vcvtn .bf16 .fp32 .dyn 1 2 0), (wV 0x62 3 0 4 1 0 8 0, .vqnt .fp32 1 4), (wV 0x62 4 0 2 4 0 0 0, .vdq .fp32 .dyn 4 2 0),
    (wV 0x64 0 3 2 1 1 0 0, .vsel .fp32 1 2 3 1), (wV 0x64 1 3 2 1 1 0 0, .vperm .fp32 1 2 3 1), (wV 0x64 2 1 2 1 1 0 0, .vbcast .fp32 1 10 1), (wV 0x64 3 1 2 1 1 5 15, .vins .int8 1 10 31), (wV 0x64 4 1 2 3 0 5 4, .vext .int8 10 3 4), (wV 0x64 5 0 0 1 1 0 0, .viota .fp32 1 1),
    (wV 0x65 0 0 2 1 1 0 0, .vredSum .fp32 .dyn 1 2 1), (wV 0x65 1 0 2 1 1 0 0, .vredMax .fp32 1 2 1), (wV 0x65 2 0 2 1 1 0 0, .vredMin .fp32 1 2 1),
    (wV 0x66 0 3 2 1 1 0 0, .vtbl .fp32 .dyn 1 2 3 1), (wV 0x66 1 1 2 3 0 0 0, .vtbld 3 10),
    (wR 0x67 0 0 1 2 3, .mand 1 2 3), (wR 0x67 1 0 1 2 3, .mor 1 2 3), (wR 0x67 2 0 1 2 3, .mxor 1 2 3), (wR 0x67 3 0 1 2 0, .mnot 1 2), (wR 0x67 4 0 1 7 0, .mpop 1 7)] := by decide +kernel

/-- R144, R145. -/
theorem test_decode_halfwords : decodes 2 [
    (wH 0 2 31, .addi16Pos 2 31), (wH 1 1 3, .add16 1 3), (wH 2 1 3, .sub16 1 3), (wH 3 1 3, .and16 1 3), (wH 4 1 3, .or16 1 3), (wH 5 1 3, .xor16 1 3), (wH 6 63 31, .mov16 63 31), (wH 7 1 16, .movi16 1 16),
    (wH 8 1 31, .shli16 1 31), (wH 9 1 3, .shri16 1 3), (wH 10 1 3, .shai16 1 3), (wH 11 1 3, .mul16 1 3), (wH 12 1 3, .min16 1 3), (wH 13 1 3, .max16 1 3), (wH 14 1 31, .andi16 1 31), (wH 15 1 0, .addi16Neg 1 0)] := by decide +kernel

/-- Words that the spec prints in its worked examples (07 to 19). -/
theorem test_decode_printed_words : decodes 4 [
    (le 4 0xF9C02809, .addi 40 0 0xF9C), (le 4 0x80228579, .ldwG .acq 5 10 2), (le 4 0x68A113C1, .vfma .bf16 .rne 1 2 3 2), (le 4 0xFFF14323, .bne 5 3 0xFFF), (le 4 0x00000341, .halt),
    (le 4 0x00400217, .movi 2 0x100), (le 4 0x0080033F, .loopi 3 8), (le 4 0x0000838D, .ldl .single 3 2 0), (le 4 0x0030C03D, .loop 3 3), (le 4 0x080001CD, .vtbld 0 2), (le 4 0x088110CD, .vtbl .bf16 .rne 1 2 0 0),
    (le 4 0x288803C5, .vqnt .bf16 1 2), (le 4 0x202005A5, .plane 2 8), (le 4 0x34C000A7, .tidset 12 13), (le 4 0x106240A5, .mma 4 6 9), (le 4 0x000283A5, .mdrain 0 10), (le 4 0x00E011A3, .tagwaitAll 14), (le 4 0x00200199, .fenceP .m .c),
    (le 4 0x00A002A9, .bar 10), (le 4 0x00A143A9, .bara 5 10), (le 4 0x14A004A9, .barw 10 5), (le 4 0x150030AF, .send 16 5), (le 4 0x150071AF, .sendt 1 16 5), (le 4 0x000632AF, .recv 24), (le 4 0x040633AF, .recvt 24 1),
    (le 4 0x600040AD, .watch 24 1), (le 4 0x0027C4A3, .tagtst 31 2), (le 4 0x68E082A1, .pullc 26 14 2), (le 4 0x001100AB, .pubi 4 1), (le 4 0xF30112C5, .vcvtn .bf16 .int32 .rne 6 4 0), (le 4 0x028505C9, .viota .int8 5 0), (le 4 0x1CA34D03, .min 13 10 7),
    (le 4 0x370502C9, .vbcast .int8 6 13 0), (le 4 0xD48520C7, .vcmpCc .lt .int8 1 5 6 0), (le 4 0x44E40091, .atomAdd .rlx .single 16 14 17), (le 4 0x21CA4603, .divu 41 28 8), (le 4 0x0014A369, .ldwH .plain 35 18 1), (le 4 0x996A8191, .atomMin .rlx .single 42 22 38),
    (le 4 0xAA6AC407, .setCc .ltu .single 43 38 42), (le 4 0x0005B08B, .sto .plain 48 22 0), (le 4 0x18000299, .rwb 0 6), (le 4 0x18000399, .rinv 0 6), (le 4 0x0000187F, .ldoG .plain 24 0 0), (le 4 0xC007388F, .stl .octet 56 28 0), (le 4 0x3F803A19, .movhi 58 0xFE00),
    (le 4 0x0000A885, .stw .plain 40 2 0)] := by decide +kernel

/-- R143, R150: what is never an instruction, and words that each step refuses. -/
theorem test_decode_refuses : ∀ e ∈ [
    (le 2 0, Reject.alwaysIllegal), (le 4 0xFFFFFFFF, .alwaysIllegal), (wR 0x0E 0 0 0 0 0, .unassignedMajor), (wR 0x24 0 0 0 0 0, .unassignedMajor), (wR 0x7F 0 0 0 0 0, .unassignedMajor),
    (wR 0x02 13 0 1 2 3, .unassignedFunction), (wR 0x03 6 0 1 2 3, .unassignedFunction), (wI 0x34 0xC00 2 1, .unassignedFunction), (wI 0x42 0x800 2 1, .unassignedFunction), (wV 0x60 0 3 2 1 0 10 0, .unassignedFunction), (wV 0x60 0 3 2 1 0 3 0, .unassignedFunction),
    (wR 0x20 1 0 0 1 0, .nonzeroField), (wX 0x50 0 2 4 5 |>.set 1 0x50, .nonzeroField), (wV 0x60 0 3 2 1 0 0 6, .rounding), (wV 0x60 0 3 2 1 0 5 1, .rounding),
    (wR 0x01 2 1 2 4 6, .widthOrGroup), (wR 0x01 0 1 1 2 4, .widthOrGroup), (wI 0x34 0 3 1, .widthOrGroup), (wR 0x67 0 0 8 2 3, .widthOrGroup), (wR 0x67 0 0 0 2 3, .widthOrGroup),
    (wI 0x09 (25 * 32 + 7) 2 1, .immediate), (wI 0x1E 0 3 0, .immediate), (wI 0x55 0 2 0, .immediate), ([0x03#8], .truncated), ([0x03#8, 0, 0], .truncated)],
    decode e.1 = .error e.2 := by decide +kernel

/-- A term that each check of WellFormed refuses (R135, R141, R147 to R150 and the entries). -/
theorem test_illformed_refused : ∀ i ∈ [
    Instr.add .quad 4 8 12, .add .pair 1 2 4, .sub .octet 8 16 24, .and .octet 4 8 16, .or .quad 4 6 8, .xor .pair 2 4 5, .andn .quad 2 4 8, .shl .pair 1 2 3, .shr .quad 4 8 3, .sha .pair 2 3 3, .rot .octet 8 16 3,
    .sext .pair 1 2 3, .zext .quad 4 2 3, .mov .octet 8 12, .sel .quad 4 8 12, .setCc .eq .pair 1 3 4, .bfx 1 2 31 1, .bfi 1 2 1 31, .lea 1 2 0, .lea 2 3 0, .loop 1 0, .loopi 1 0, .jlr 1 2,
    .mfs 1 .tags, .mts .tvec 1, .svc 4, .ldbH .plain 1 3 0, .lddH .plain 1 2 0, .ldqG .acq 2 2 0, .ldoG .inv 4 2 0, .stb .rel 1 3 0, .std .plain 3 2 0, .stq .plain 6 2 0, .sto .plain 4 2 0, .ldl .pair 1 2 0, .stl .octet 4 2 0,
    .atomAdd .rlx .quad 4 2 8, .atomCas .ar .pair 1 2 4, .atomSwap .rlx .single 1 3 4, .atomMin .acq .pair 2 4 5, .fenceP .p .p, .rwb 1 2, .rinv 3 2, .clean 5 2,
    .pull 1 2 0, .pulld 2 3 0, .pullc 1 1 0, .stream 1 32 0, .stream 2 24 0, .tagwaitAny 1 3, .tagwaitAll 3, .tagff 1 3, .tagclr 3, .sclose 24, .mma 1 2 0, .mmas 2 1 0, .msend 1 2 0, .mdrain 1 0, .mzero 1 0, .plane 1 8, .plane 2 4,
    .pub 1 2, .pubi 1 1, .pubi 2 0, .bar 1, .bara 1 3, .barw 1 2, .watch 1 0, .send 4 1, .sendt 1 4 1, .recv 4, .recvt 4 1, .lease 1 0, .coll 1 0,
    .vadd .ex4 .dyn 1 2 3 0, .vmul .int8 .rne 1 2 3 0, .vfma .int32 .dyn 1 2 3 0, .vmax .e4m3 1 2 3 0, .vabs .ue8 1 2 0, .vdot .fp32 .dyn 1 2 3 0, .vdot .int8 .rtz 1 2 3 0, .vrcp .int8 .dyn 1 2 0,
    .vcvt .fp32 .bf16 .dyn 1 2 0, .vcvt .int8 .uint8 .rne 1 2 0, .vcvtw .fp32 .bf16 1 2 0, .vcvtw .bf16 .fp32 2 2 0, .vcvtn .bf16 .fp32 .dyn 1 3 0, .vcvtn .fp32 .bf16 .dyn 1 2 0, .vqnt .fp32 1 2, .vqnt .int8 1 2, .vdq .fp32 .dyn 1 2 0,
    .vcmpCc .un .int8 1 2 3 0, .vcmpCc .eq .fp32 0 2 3 0, .vsel .ex4 1 2 3 0, .vins .fp32 1 2 8, .vext .bf16 1 2 16, .viota .e5m2 1 0, .vredSum .int8 .dyn 1 2 0, .vredMax .e4m3 1 2 0, .vtbl .int8 .dyn 1 2 0 0,
    .mand 0 1 2, .mnot 0 1, .addi16Pos 0 0], i.wf = false := by decide +kernel

/-! ### States for the witnesses -/

/-- Package 0 after reset, the context at cluster 0, core 0, context 0 READY, with registers. -/
def here (l : List (Nat × Word)) (f : Ctx → Ctx) : State :=
  State.reset.setCtx ⟨0, 0, 0⟩ (f { Ctx.reset with st := .ready, w := l.foldl (fun v e => v.set! e.1 e.2) Ctx.reset.w })

/-- An event's inputs. -/
def with_ (s : State) (i : Inp) : State := { s with inp := i }

theorem issues_of {s : State} {i : Instr} (h : s.me.st = .ready ∧ (s.start i).me.waitsFor (Instr.reads i ++ Instr.writes i) = false ∧
    ((s.start i).me.streamCheck (Instr.reads i) (Instr.writes i)).1 = .ok ∧ (s.octets i).find? (fun k => (s.start i).windowPoison k) = none) : s.Issues i :=
  ⟨h.1, h.2.1, h.2.2.1, h.2.2.2⟩

theorem canTrap_of {s : State} (h : s.me.intrap = false ∧ s.me.basting = false ∧ s.me.stop = false ∧ s.me.last = false) : CanTrap s := ⟨h.1, h.2.1, h.2.2.1, h.2.2.2⟩

/-- Pages that cluster 0 has translated: home pages in its vault (two of them SWM and SEALED), its device window, core 0's store, a home page of a dead
package, and read pages. -/
def pages : List TlbEntry := [
  ⟨0, .home, 0x10000, 0x1000, 0x1004000, 0, .normal, true, true, true, none⟩, ⟨0, .home, 0x11000, 0x1000, 0x1006000, 0, .swm, true, true, true, none⟩,
  ⟨0, .home, 0x13000, 0x1000, 0x1005000, 0, .sealed, true, true, true, none⟩, ⟨0, .home, 0x14000, 0x1000, 0x800000000, 0, .device, true, true, true, none⟩,
  ⟨0, .home, 0x18000, 0x8000, 0, 0, .normal, true, true, true, none⟩, ⟨0, .read, 0x12000, 0x1000, 0x1004000, 0, .normal, true, true, true, none⟩,
  ⟨0, .read, 0x15000, 0x1000, 0x1008000, 0, .swm, true, true, true, none⟩, ⟨0, .read, 0x16000, 0x1000, mkPa 9 0 0x1004000, 0, .normal, true, true, true, none⟩]

/-- The state of here with those pages translated; registers 2 and 3 hold an address. -/
def at_ (a : Nat) (l : List (Nat × Word)) (f : Ctx → Ctx) : State := (here ((2, BitVec.ofNat 32 a) :: l) f).modClus 0 (fun k => { k with tlb := pages })

theorem reaches_of {s : State} {sp : Space} {a : DWord} {n : Nat} {acc : AccKind} {pa : Nat} {x : TlbEntry} (h : a.toNat % n = 0 ∧
    s.translate s.cur.clus (.ctx s.cur) s.me.aspc sp a acc = .ok pa x ∧ (x.type = .normal ∨ x.type = .swm) ∧ s.dead.getLsbD (paPkg pa) = false ∧
    s.poison.contains (pa / 64) = false) : Reaches s sp a n acc pa x := ⟨h.1, h.2.1, h.2.2.1, h.2.2.2.1, h.2.2.2.2⟩

/-! ### Witnesses: scalar and control statements -/

theorem test_IntegerResults_arith : ∃ (s : State) (i : Instr) (d : Reg) (n : Nat) (v : Int), s.Issues i ∧ i.wf = true ∧ arithRes (s.seen i) i = some (d, n, v) :=
  ⟨here [(2, 0xFFFFFFFF), (4, 1)] id, .add .pair 6 2 4, 6, 2, 0x100000000, issues_of (by decide +kernel), by decide +kernel, by decide +kernel⟩
theorem test_IntegerResults_shift : ∃ (s : State) (i : Instr) (d : Reg) (n : Nat) (v : Int), s.Issues i ∧ i.wf = true ∧ shiftRes (s.seen i) i = some (d, n, v) :=
  ⟨here [(2, 0x80000000), (4, 63)] id, .sha .single 6 2 4, 6, 1, -1, issues_of (by decide +kernel), by decide +kernel, by decide +kernel⟩
theorem test_IntegerResults_immediate : ∃ (s : State) (i : Instr) (d : Reg) (n : Nat) (v : Int), s.Issues i ∧ i.wf = true ∧ immRes (s.seen i) i = some (d, n, v) :=
  ⟨here [(2, 0x80FF0000)] id, .bfx 6 2 24 7, 6, 1, 0x80, issues_of (by decide +kernel), by decide +kernel, by decide +kernel⟩
theorem test_IntegerResults_half : ∃ (s : State) (i : Instr) (d : Reg) (n : Nat) (v : Int), s.Issues i ∧ halfRes (s.seen i) i = some (d, n, v) :=
  ⟨here [(2, 1)] id, .addi16Neg 2 0, 2, 1, -31, issues_of (by decide +kernel), by decide +kernel⟩
theorem test_DivisionResults_value : ∃ (s : State) (i : Instr) (d b : Reg) (v : Int), s.Issues i ∧ divRes (s.seen i) i = some (d, b, v) ∧ ((s.seen i).reg b ≠ 0 ∨ s.me.rmode.getLsbD 8 = false) :=
  ⟨here [(2, 0x80000000), (3, 0xFFFFFFFF)] id, .div 1 2 3, 1, 3, 0x80000000, issues_of (by decide +kernel), by decide +kernel, .inl (by decide +kernel)⟩
theorem test_DivisionResults_zero : ∃ (s : State) (i : Instr) (d b : Reg) (v : Int), s.Issues i ∧ divRes (s.seen i) i = some (d, b, v) ∧ (s.seen i).reg b = 0 ∧ s.me.rmode.getLsbD 8 = true ∧ CanTrap s :=
  ⟨here [(2, 7)] (fun c => { c with rmode := 0x101 }), .remu 1 2 3, 1, 3, 7, issues_of (by decide +kernel), by decide +kernel, by decide +kernel, by decide +kernel, canTrap_of (by decide +kernel)⟩
theorem test_BranchesAndJumps_branch : ∃ (s : State) (i : Instr) (b : Bool) (o : Int), s.Issues i ∧ branchRes (s.seen i) i = some (b, o) :=
  ⟨here [(2, 0xFFFFFFFF)] (fun c => { c with pc := 0x1000 }), .blt 2 3 0x800, true, -2048, issues_of (by decide +kernel), by decide +kernel⟩
theorem test_BranchesAndJumps_jump : ∃ (s : State) (i : Instr) (l : Option Reg) (npc : DWord), s.Issues i ∧ i.wf = true ∧ jumpRes (s.seen i) i = some (l, npc) :=
  ⟨here [(4, 0x2001)] id, .jlr 62 4, some 62, 0x2000, issues_of (by decide +kernel), by decide +kernel, by decide +kernel⟩
theorem test_Loops_empty_body : ∃ (s : State) (i : Instr) (n off : Nat), s.Issues i ∧ s.me.depth ≤ 3 ∧ loopRes (s.seen i) i = some (n, off) ∧ off ≤ 2 :=
  ⟨here [] id, .loopi 3 2, 3, 2, issues_of (by decide +kernel), by decide +kernel, by decide +kernel, by decide⟩
theorem test_Loops_push : ∃ (s : State) (i : Instr) (n off : Nat), s.Issues i ∧ s.me.depth ≤ 3 ∧ loopRes (s.seen i) i = some (n, off) ∧ 2 < off ∧ n ≠ 0 ∧ s.me.depth < 3 :=
  ⟨here [(3, 5)] (fun c => { c with depth := 2 }), .loop 3 3, 5, 3, issues_of (by decide +kernel), by decide +kernel, by decide +kernel, by decide, by decide, by decide +kernel⟩
theorem test_Loops_zero_trip : ∃ (s : State) (i : Instr) (n off : Nat), s.Issues i ∧ s.me.depth ≤ 3 ∧ loopRes (s.seen i) i = some (n, off) ∧ 2 < off ∧ n = 0 :=
  ⟨here [] id, .loop 3 3, 0, 3, issues_of (by decide +kernel), by decide +kernel, by decide +kernel, by decide, rfl⟩
theorem test_Loops_too_deep : ∃ (s : State) (i : Instr) (n off : Nat), s.Issues i ∧ s.me.depth ≤ 3 ∧ loopRes (s.seen i) i = some (n, off) ∧ 2 < off ∧ n ≠ 0 ∧ s.me.depth = 3 ∧ CanTrap s :=
  ⟨here [] (fun c => { c with depth := 3 }), .loopi 1 0xFFF, 1, 0xFFF, issues_of (by decide +kernel), by decide +kernel, by decide +kernel, by decide, by decide, by decide +kernel, canTrap_of (by decide +kernel)⟩
theorem test_Loops_lexit : ∃ s : State, s.Issues .lexit ∧ s.me.depth ≤ 3 ∧ 0 < s.me.depth := ⟨here [] (fun c => { c with depth := 1 }), issues_of (by decide +kernel), by decide +kernel, by decide +kernel⟩
theorem test_Loops_lexit_outside : ∃ s : State, s.Issues .lexit ∧ s.me.depth ≤ 3 ∧ s.me.depth = 0 ∧ CanTrap s := ⟨here [] id, issues_of (by decide +kernel), by decide +kernel, by decide +kernel, canTrap_of (by decide +kernel)⟩
/-- A context at the last word of an innermost body. -/
def atEnd (n : Word) : Ctx := { Ctx.reset with depth := 1, ls := Ctx.reset.ls.set 0 0x100, le := Ctx.reset.le.set 0 0x108, lcnt := Ctx.reset.lcnt.set 0 n }
theorem test_Loops_again : ∃ (c : Ctx) (pc npc : DWord) (i : Nat), i < 3 ∧ c.loopStart i ≤ pc ∧ pc < c.loopEnd i ∧ npc = c.loopEnd i ∧ 1 < (c.loopCnt i).toNat := ⟨atEnd 2, 0x104, 0x108, 0, by decide +kernel⟩
theorem test_Loops_last : ∃ (c : Ctx) (pc npc : DWord) (i : Nat), i < 3 ∧ c.loopStart i ≤ pc ∧ pc < c.loopEnd i ∧ npc = c.loopEnd i ∧ (c.loopCnt i).toNat ≤ 1 := ⟨atEnd 1, 0x100, 0x108, 0, by decide +kernel⟩
theorem test_Loops_outside : ∃ (c : Ctx) (pc npc : DWord) (i : Nat), i < 3 ∧ (pc < c.loopStart i ∨ c.loopEnd i ≤ pc ∨ npc ≠ c.loopEnd i) := ⟨atEnd 2, 0x104, 0x200, 0, by decide +kernel⟩
theorem test_BranchesAndJumps_turns : ∃ s : State, s.Issues .nop ∧ s.Issues .yield := ⟨here [] id, issues_of (by decide +kernel), issues_of (by decide +kernel)⟩
theorem test_SpecialReads : ∃ (s : State) (d : Reg) (sr : SReg), s.Issues (.mfs d sr) ∧ (Instr.mfs d sr).wf = true := ⟨here [] id, 2, .tags, issues_of (by decide +kernel), by decide +kernel⟩
theorem test_SpecialReads_tag : ∃ n : Nat, n < 64 := ⟨63, by decide⟩
theorem test_SpecialWrites_value : ∃ (s : State) (sr : SReg) (a : Reg) (c : Ctx), s.Issues (.mts sr a) ∧ (Instr.mts sr a).wf = true ∧
    specialWrite (s.seen (.mts sr a)) (val (s.seen (.mts sr a)) a (if sr.wide then 2 else 1)) sr = .to c :=
  ⟨here [(2, 0xFFFFFFFF), (3, 0xFFFFFFFF)] id, .tvec, 2, _, issues_of (by decide +kernel), by decide +kernel, rfl⟩
theorem test_SpecialWrites_reserved_mode : ∃ (s : State) (sr : SReg) (a : Reg), s.Issues (.mts sr a) ∧ (Instr.mts sr a).wf = true ∧
    specialWrite (s.seen (.mts sr a)) (val (s.seen (.mts sr a)) a (if sr.wide then 2 else 1)) sr = .trap 0x01 ∧ CanTrap s :=
  ⟨here [(2, 6)] id, .rmode, 2, issues_of (by decide +kernel), by decide +kernel, rfl, canTrap_of (by decide +kernel)⟩
theorem test_SpecialWrites_privileged : ∃ (s : State) (sr : SReg) (a : Reg), s.Issues (.mts sr a) ∧ (Instr.mts sr a).wf = true ∧
    specialWrite (s.seen (.mts sr a)) (val (s.seen (.mts sr a)) a (if sr.wide then 2 else 1)) sr = .trap 0x02 ∧ CanTrap s :=
  ⟨here [] id, .capt, 2, issues_of (by decide +kernel), by decide +kernel, rfl, canTrap_of (by decide +kernel)⟩
theorem test_TrapsAndReturn_traps : ∃ s : State, CanTrap s ∧ s.Issues (.trap 63) ∧ s.Issues .bkpt := ⟨here [] id, canTrap_of (by decide +kernel), issues_of (by decide +kernel), issues_of (by decide +kernel)⟩
theorem test_TrapsAndReturn_double : ∃ s : State, s.me.intrap = true ∧ s.me.basting = false ∧ s.me.stop = false ∧ s.me.last = false := ⟨here [] (fun c => { c with intrap := true }), by decide +kernel⟩
theorem test_TrapsAndReturn_rft : ∃ s : State, s.Issues .rft ∧ s.me.basting = false := ⟨here [] (fun c => { c with intrap := true }), issues_of (by decide +kernel), by decide +kernel⟩
/-- The service context of cluster 0 runs. -/
def serviced (s : State) : State := s.modClus 0 (fun k => { k with svcStat := 1 })
theorem test_ServiceCall : ∃ (s : State) (n : Reg), s.Issues (.svc n) ∧ s.me.basting = false ∧ s.me.ans = none ∧ s.me.aspc < 16 ∧ s.cur.core < 128 ∧ s.cur.ctx < 4 ∧
    (s.clus s.cur.clus).svcStat = 1 ∧ s.cur ≠ svcPos s.cur.clus ∧ (s.clus s.cur.clus).waitMsgs = [] ∧ 0 < freeToken (s.clus s.cur.clus).tokens ∧
    (s.core s.cur.clus s.cur.core).sb = [] ∧ (s.core s.cur.clus 0).mail.length < 16 := ⟨serviced (here [] id), 8, issues_of (by decide +kernel), by decide +kernel⟩
theorem test_ServiceCall_none : ∃ (s : State) (n : Reg), s.Issues (.svc n) ∧ s.me.basting = false ∧ s.me.ans = none ∧ s.me.aspc < 16 ∧ s.cur.core < 128 ∧ s.cur.ctx < 4 ∧
    (s.clus s.cur.clus).svcStat ≠ 1 ∧ CanTrap s := ⟨here [] id, 8, issues_of (by decide +kernel), by decide +kernel, by decide +kernel, by decide +kernel, by decide +kernel, by decide +kernel, by decide +kernel, canTrap_of (by decide +kernel)⟩
theorem test_RoundTrip : ∃ i : Instr, i.isEvent = false ∧ i.wf = true := ⟨.lddG .inv 62 62 0x200, by decide +kernel⟩
theorem test_DecodeExact : ∃ (l : List Byte) (i : Instr) (n : Nat), decode l = .ok (i, n) := ⟨le 4 0x00A143A9 ++ [1], .bara 5 10, 4, by decide +kernel⟩
/-- A package whose next context has a word at its PC. -/
def placed (w : Nat) : State := State.reset.withFetchWord 32 w
theorem test_StepRunsDecoded : ∃ (s : State) (p : Pos) (l : List Byte) (i : Instr) (n : Nat), Fetches s p l ∧ decode l = .ok (i, n) :=
  ⟨placed 0x38A29003, ⟨0, 0, 0⟩, _, .add .pair 10 10 14, 4, ⟨rfl, rfl, rfl, rfl, rfl, rfl, rfl⟩, rfl⟩
theorem test_StepRunsDecoded_illegal : ∃ (s : State) (p : Pos) (l : List Byte) (r : Reject), Fetches s p l ∧ decode l = .error r :=
  ⟨placed 0, ⟨0, 0, 0⟩, _, .alwaysIllegal, ⟨rfl, rfl, rfl, rfl, rfl, rfl, rfl⟩, rfl⟩
theorem test_StepsKeepMemorySound : ∃ s t : State, s.memSound ∧ step s = .next t := ⟨State.reset, _, ⟨by decide +kernel, by decide +kernel, by decide +kernel, by decide +kernel⟩, rfl⟩

/-! ### Witnesses: memory -/

/-- A stream over the core store of two pops, the first one made. -/
def twoPops : Stream := { rf := false, adv := 32, npop := 2, s1 := 64, e0 := 32, base := 0x100, logr := 0, pd := 0, pop := 1, tag := 5, landed := 0, err := 0, pull := 0, desc := [], rdesc := [] }
/-- here with that stream, changed, on octet 0. -/
def streaming (f : Stream → Stream) : State :=
  (here [(2, 9)] (fun c => { c with streams := c.streams.set 0 (some (f twoPops)) })).modCore 0 0 (fun k => k.setTag 5 ⟨.busy (.stream 0 0), 0, 0, 0, 7⟩)
theorem test_StreamOperands_pop : ∃ (s : State) (i : Instr) (k : Nat) (x : Stream), s.Issues i ∧ isInteger (s.seen i) i = true ∧ i.wf = true ∧ s.octets i = [k] ∧
    (s.start i).me.stream k = some x ∧ x.pop + 1 = x.npop ∧ x.tag < 64 ∧ ((s.core s.cur.clus s.cur.core).tag x.tag).st = .busy (.stream s.cur.ctx k) :=
  ⟨streaming id, .add .single 6 33 2, 0, twoPops, issues_of (by decide +kernel), by decide +kernel, by decide +kernel, by decide +kernel, by decide +kernel, by decide +kernel, by decide +kernel, by decide +kernel⟩
theorem test_StreamOperands_over : ∃ (s : State) (i : Instr) (k : Nat) (x : Stream), s.me.st = .ready ∧ isInteger (s.seen i) i = true ∧ i.wf = true ∧
    (s.start i).me.waitsFor (Instr.reads i ++ Instr.writes i) = false ∧ (s.start i).me.stream k = some x ∧ s.octets i = [k] ∧ x.npop ≤ x.pop ∧ CanTrap s :=
  ⟨streaming (fun x => { x with pop := 2 }), .add .single 6 33 2, 0, { twoPops with pop := 2 }, by decide +kernel, by decide +kernel, by decide +kernel, by decide +kernel, by decide +kernel, by decide +kernel, by decide +kernel, canTrap_of (by decide +kernel)⟩
theorem test_StreamOperands_failed : ∃ (s : State) (i : Instr) (k : Nat) (x : Stream), s.me.st = .ready ∧ isInteger (s.seen i) i = true ∧ i.wf = true ∧
    (s.start i).me.waitsFor (Instr.reads i ++ Instr.writes i) = false ∧ (s.start i).me.stream k = some x ∧ s.octets i = [k] ∧ x.pop < x.npop ∧ x.rf = true ∧
    x.landed < x.pop * x.adv + 32 ∧ x.err ≠ 0 ∧ CanTrap s :=
  ⟨streaming (fun x => { x with rf := true, err := 0x50 }), .add .single 6 33 2, 0, { twoPops with rf := true, err := 0x50 }, by decide +kernel, by decide +kernel, by decide +kernel, by decide +kernel, by decide +kernel, by decide +kernel, by decide +kernel, by decide +kernel, by decide +kernel, by decide +kernel, canTrap_of (by decide +kernel)⟩
theorem test_StreamOperands_not_landed : ∃ (s : State) (i : Instr) (k : Nat) (x : Stream), s.me.st = .ready ∧ isInteger (s.seen i) i = true ∧ i.wf = true ∧
    (s.start i).me.waitsFor (Instr.reads i ++ Instr.writes i) = false ∧ (s.start i).me.stream k = some x ∧ s.octets i = [k] ∧ x.pop < x.npop ∧ x.rf = true ∧
    x.landed < x.pop * x.adv + 32 ∧ x.err = 0 :=
  ⟨streaming (fun x => { x with rf := true, landed := 63 }), .add .single 6 33 2, 0, { twoPops with rf := true, landed := 63 }, by decide +kernel⟩
theorem test_StreamOperands_destination : ∃ (s : State) (i : Instr) (k : Nat) (x : Stream), s.me.st = .ready ∧ isInteger (s.seen i) i = true ∧ i.wf = true ∧
    (s.start i).me.waitsFor (Instr.reads i ++ Instr.writes i) = false ∧ (s.start i).me.stream k = some x ∧ s.octets i = [] ∧
    (∃ g ∈ Instr.writes i, touches g k = true) ∧ (∀ j, j < k → (s.start i).me.stream j = none) ∧ CanTrap s :=
  ⟨streaming id, .add .single 39 2 2, 0, twoPops, by decide +kernel, by decide +kernel, by decide +kernel, by decide +kernel, by decide +kernel, by decide +kernel, by decide +kernel, fun _ h => absurd h (Nat.not_lt_zero _), canTrap_of (by decide +kernel)⟩
theorem test_StreamOperands_unready : ∃ (s : State) (i : Instr), isInteger (s.seen i) i = true ∧ (s.start i).me.waitsFor (Instr.reads i ++ Instr.writes i) = true :=
  ⟨here [] (fun c => { c with unready := [⟨10, 2, none⟩] }), .add .single 11 2 2, by decide +kernel⟩

/-- A full clean line of address 0x1004000. -/
def fullLine : L1Line := ⟨0x40100, false, false, 0, BitVec.allOnes 64, 0, List.replicate 64 0x80⟩
theorem test_LoadsComplete_hit : ∃ (s : State) (i : Instr) (f : LoadForm) (pa : Nat) (x : TlbEntry) (l : L1Line), s.Issues i ∧ i.wf = true ∧ loadForm i = some f ∧
    Reaches (s.view i) f.space (ea (s.seen i) f.base f.off f.size) f.size .load pa x ∧ s.me.basting = false ∧ paRegion pa ≠ .device ∧ (paRegion pa).isCore = false ∧
    (s.core s.cur.clus s.cur.core).l1.find? (fun l => l.line = pa / 64 && l.key = x.key) = some l ∧ (∀ k, k < f.size → l.valid.getLsbD (pa % 64 + k) = true) ∧
    pa % 64 + f.size ≤ 64 ∧ l.bytes.length = 64 ∧ (l.foreign = false ∨ (x.type = .swm ∧ f.ord ≠ .acq)) :=
  ⟨(at_ 0x10040 [] id).modCore 0 0 (fun k => { k with l1 := [fullLine] }), .ldbH .acq 6 2 0x3FF, ⟨.home, 1, true, .acq, 6, 2, 0x3FF⟩, 0x100403F, _, fullLine,
   issues_of (by decide +kernel), by decide +kernel, by decide +kernel, reaches_of (x := ⟨0, .home, 0x10000, 0x1000, 0x1004000, 0, .normal, true, true, true, none⟩) (by decide +kernel), by decide +kernel, by decide +kernel, by decide +kernel, by decide +kernel,
   by decide +kernel, by decide +kernel, by decide +kernel, .inl (by decide +kernel)⟩
theorem test_LoadsComplete_miss : ∃ (s : State) (i : Instr) (f : LoadForm) (pa : Nat) (x : TlbEntry), s.Issues i ∧ i.wf = true ∧ loadForm i = some f ∧
    Reaches (s.view i) f.space (ea (s.seen i) f.base f.off f.size) f.size .load pa x ∧ (s.core s.cur.clus s.cur.core).l1 = [] :=
  ⟨at_ 0x12000 [] id, .ldoG .inv 8 2 1, ⟨.read, 32, false, .inv, 8, 2, 1⟩, 0x1004020, ⟨0, .read, 0x12000, 0x1000, 0x1004000, 0, .normal, true, true, true, none⟩,
   issues_of (by decide +kernel), by decide +kernel, by decide +kernel, reaches_of (by decide +kernel), by decide +kernel⟩
/-- The context waits for the load of a signed byte. -/
def waiting : LoadReq := ⟨6, 1, 1, true, .plain, 0x100403F, 0, false, 0x1003F, 4⟩
def loading (f : Ctx → Ctx) : State := here [] (fun c => f { c with st := .blocked (.load waiting) })
theorem test_LoadsComplete_reply : ∃ (s : State) (r : LoadReq) (size : Nat), (s.ctx s.inp.pos).st = .blocked (.load r) ∧ s.isHome s.inp.pos.clus r.pa = true ∧
    (s.core s.inp.pos.clus s.inp.pos.core).sb = [] ∧ (s.core s.inp.pos.clus s.inp.pos.core).l1 = [] ∧ (s.clus s.inp.pos.clus).unfenced = [] ∧
    (s.ctx s.inp.pos).basting = false ∧ (s.ctx s.inp.pos).bast = none ∧ (s.ctx s.inp.pos).spop = [] ∧ (s.ctx s.inp.pos).convoy = none ∧ (s.ctx s.inp.pos).depth = 0 ∧
    paRegion r.pa ≠ .device ∧ size = r.size ∧ (size = 1 ∨ size = 2 ∨ size = 4 * r.words) ∧ (2 < size → r.signed = false) ∧ r.words ≤ 8 ∧
    s.poison.contains (r.pa / 64) = false := ⟨loading id, waiting, 1, by decide +kernel⟩
theorem test_LoadsComplete_poisoned : ∃ (s : State) (r : LoadReq), (s.ctx s.inp.pos).st = .blocked (.load r) ∧ s.poison.contains (r.pa / 64) = true ∧
    (s.ctx s.inp.pos).stop = false ∧ (s.ctx s.inp.pos).last = false ∧ (s.ctx s.inp.pos).intrap = false := ⟨{ loading id with poison := [0x40100] }, waiting, by decide +kernel⟩

theorem test_AccessChecks_align : ∃ (s : State) (i : Instr) (f : StoreForm), s.Issues i ∧ CanTrap s ∧ storeForm i = some f ∧ (ea (s.seen i) f.base f.off f.size).toNat % f.size ≠ 0 :=
  ⟨at_ 0x10002 [] id, .stw .plain 6 2 0, ⟨4, .plain, 6, 2, 0⟩, issues_of (by decide +kernel), canTrap_of (by decide +kernel), by decide +kernel, by decide +kernel⟩
theorem test_AccessChecks_space : ∃ (s : State) (i : Instr) (f : LoadForm), s.Issues i ∧ CanTrap s ∧ loadForm i = some f ∧ (ea (s.seen i) f.base f.off f.size).toNat % f.size = 0 ∧
    inSpace f.space (ea (s.seen i) f.base f.off f.size) = false :=
  ⟨at_ 0 [] id, .lddG .plain 6 2 0x3FF, ⟨.read, 8, false, .plain, 6, 2, 0x3FF⟩, issues_of (by decide +kernel), canTrap_of (by decide +kernel), by decide +kernel, by decide +kernel, by decide +kernel⟩
theorem test_AccessChecks_sealed : ∃ (s : State) (i : Instr) (f : StoreForm) (pa : Nat) (x : TlbEntry), s.Issues i ∧ CanTrap s ∧ storeForm i = some f ∧
    (ea (s.seen i) f.base f.off f.size).toNat % f.size = 0 ∧ (s.view i).translate s.cur.clus (.ctx s.cur) s.me.aspc .home (ea (s.seen i) f.base f.off f.size) .store = .ok pa x ∧ x.type = .sealed :=
  ⟨at_ 0x13000 [] id, .sto .rel 8 2 0, ⟨32, .rel, 8, 2, 0⟩, 0x1005000, ⟨0, .home, 0x13000, 0x1000, 0x1005000, 0, .sealed, true, true, true, none⟩, issues_of (by decide +kernel), canTrap_of (by decide +kernel),
   by decide +kernel, by decide +kernel, by decide +kernel, by decide +kernel⟩
theorem test_AccessChecks_device : ∃ (s : State) (i : Instr) (f : LoadForm) (pa : Nat) (x : TlbEntry), s.Issues i ∧ CanTrap s ∧ loadForm i = some f ∧
    (ea (s.seen i) f.base f.off f.size).toNat % f.size = 0 ∧ (s.view i).translate s.cur.clus (.ctx s.cur) s.me.aspc f.space (ea (s.seen i) f.base f.off f.size) .load = .ok pa x ∧ x.type = .device ∧
    s.me.sys = true ∧ (f.ord = .plain && (f.size = 4 || f.size = 8)) = false :=
  ⟨at_ 0x14000 [] (fun c => { c with sys := true }), .lddH .acq 6 2 0, ⟨.home, 8, false, .acq, 6, 2, 0⟩, 0x800000000, ⟨0, .home, 0x14000, 0x1000, 0x800000000, 0, .device, true, true, true, none⟩,
   issues_of (by decide +kernel), canTrap_of (by decide +kernel), by decide +kernel, by decide +kernel, by decide +kernel, by decide +kernel, by decide +kernel, by decide +kernel⟩
theorem test_AccessChecks_dead : ∃ (s : State) (i : Instr) (f : LoadForm) (pa : Nat) (x : TlbEntry), s.Issues i ∧ CanTrap s ∧ loadForm i = some f ∧
    (ea (s.seen i) f.base f.off f.size).toNat % f.size = 0 ∧ (s.view i).translate s.cur.clus (.ctx s.cur) s.me.aspc f.space (ea (s.seen i) f.base f.off f.size) .load = .ok pa x ∧
    (x.type = .normal ∨ x.type = .swm) ∧ s.dead.getLsbD (paPkg pa) = true :=
  ⟨{ at_ 0x16000 [] id with dead := 1 <<< 9 }, .ldwG .plain 6 2 0, ⟨.read, 4, false, .plain, 6, 2, 0⟩, mkPa 9 0 0x1004000, ⟨0, .read, 0x16000, 0x1000, mkPa 9 0 0x1004000, 0, .normal, true, true, true, none⟩,
   issues_of (by decide +kernel), canTrap_of (by decide +kernel), by decide +kernel, by decide +kernel, by decide +kernel, .inl (by decide +kernel), by decide +kernel⟩

theorem test_Stores_home : ∃ (s : State) (i : Instr) (f : StoreForm) (pa : Nat) (x : TlbEntry), s.Issues i ∧ i.wf = true ∧ storeForm i = some f ∧
    Reaches (s.view i) .home (ea (s.seen i) f.base f.off f.size) f.size .store pa x ∧ s.me.basting = false ∧ s.me.bast = none ∧ x.type = .normal ∧ paRegion pa = .vault ∧
    (s.core s.cur.clus s.cur.core).sb.length = 7 ∧ s.octets i = [] :=
  ⟨(at_ 0x10000 [] id).modCore 0 0 (fun k => { k with sb := List.replicate 7 ⟨0, 0x40111, 0, [(0x1004440, 1)]⟩ }), .stb .plain 6 2 0x3F, ⟨1, .plain, 6, 2, 0x3F⟩, 0x100403F,
   ⟨0, .home, 0x10000, 0x1000, 0x1004000, 0, .normal, true, true, true, none⟩, issues_of (by decide +kernel), by decide +kernel, by decide +kernel, reaches_of (by decide +kernel),
   by decide +kernel, by decide +kernel, by decide +kernel, by decide +kernel, by decide +kernel, by decide +kernel⟩
theorem test_Stores_full : ∃ (s : State) (i : Instr) (f : StoreForm) (pa : Nat) (x : TlbEntry), s.Issues i ∧ i.wf = true ∧ storeForm i = some f ∧ f.ord = .plain ∧
    Reaches (s.view i) .home (ea (s.seen i) f.base f.off f.size) f.size .store pa x ∧ s.me.basting = false ∧ s.me.bast = none ∧ x.type = .normal ∧ paRegion pa = .vault ∧
    8 ≤ ((s.view i).core s.cur.clus s.cur.core).sb.length ∧ ((s.view i).core s.cur.clus s.cur.core).merges (pa / 64) x.key = false :=
  ⟨(at_ 0x10000 [] id).modCore 0 0 (fun k => { k with sb := List.replicate 8 ⟨0, 0x40111, 0, [(0x1004440, 1)]⟩ }), .stq .plain 8 2 0, ⟨16, .plain, 8, 2, 0⟩, 0x1004000,
   ⟨0, .home, 0x10000, 0x1000, 0x1004000, 0, .normal, true, true, true, none⟩, issues_of (by decide +kernel), by decide +kernel, by decide +kernel, by decide +kernel, reaches_of (by decide +kernel),
   by decide +kernel, by decide +kernel, by decide +kernel, by decide +kernel, by decide +kernel, by decide +kernel⟩
theorem test_Stores_swm : ∃ (s : State) (i : Instr) (f : StoreForm) (pa : Nat) (x : TlbEntry), s.Issues i ∧ i.wf = true ∧ storeForm i = some f ∧
    Reaches (s.view i) .home (ea (s.seen i) f.base f.off f.size) f.size .store pa x ∧ s.me.basting = false ∧ s.me.bast = none ∧ x.type = .swm ∧ paRegion pa = .vault ∧
    (s.core s.cur.clus s.cur.core).l1 = [] ∧ s.octets i = [] :=
  ⟨at_ 0x11000 [] id, .std .rel 6 2 7, ⟨8, .rel, 6, 2, 7⟩, 0x1006038, ⟨0, .home, 0x11000, 0x1000, 0x1006000, 0, .swm, true, true, true, none⟩, issues_of (by decide +kernel), by decide +kernel, by decide +kernel,
   reaches_of (by decide +kernel), by decide +kernel, by decide +kernel, by decide +kernel, by decide +kernel, by decide +kernel, by decide +kernel⟩
theorem test_Stores_core_store : ∃ (s : State) (i : Instr) (f : StoreForm) (pa : Nat) (x : TlbEntry), s.Issues i ∧ i.wf = true ∧ storeForm i = some f ∧
    Reaches (s.view i) .home (ea (s.seen i) f.base f.off f.size) f.size .store pa x ∧ s.me.basting = false ∧ s.me.bast = none ∧ (paRegion pa).isCore = true :=
  ⟨at_ 0x18000 [] id, .sth .plain 6 2 1, ⟨2, .plain, 6, 2, 1⟩, 2, ⟨0, .home, 0x18000, 0x8000, 0, 0, .normal, true, true, true, none⟩, issues_of (by decide +kernel), by decide +kernel, by decide +kernel,
   reaches_of (by decide +kernel), by decide +kernel, by decide +kernel, by decide +kernel⟩
theorem test_Stores_device : ∃ (s : State) (i : Instr) (f : StoreForm) (pa : Nat) (x : TlbEntry), s.Issues i ∧ i.wf = true ∧ storeForm i = some f ∧
    (ea (s.seen i) f.base f.off f.size).toNat % f.size = 0 ∧ f.size = 8 ∧ (s.view i).translate s.cur.clus (.ctx s.cur) s.me.aspc .home (ea (s.seen i) f.base f.off f.size) .store = .ok pa x ∧
    x.type = .device ∧ s.me.sys = true ∧ s.dead.getLsbD (paPkg pa) = false :=
  ⟨at_ 0x14000 [] (fun c => { c with sys := true }), .std .plain 6 2 1, ⟨8, .plain, 6, 2, 1⟩, 0x800000008, ⟨0, .home, 0x14000, 0x1000, 0x800000000, 0, .device, true, true, true, none⟩, issues_of (by decide +kernel),
   by decide +kernel, by decide +kernel, by decide +kernel, by decide +kernel, by decide +kernel, by decide +kernel, by decide +kernel, by decide +kernel⟩
theorem test_Stores_performed : ∃ (s : State) (e : SbEntry) (l : List SbEntry), memWf s.mem = true ∧ (s.core s.inp.clus s.inp.core).sb = e :: l ∧ (∀ c ∈ e.cells, c.1 / 64 = e.line) :=
  ⟨(here [] id).modCore 0 0 (fun k => { k with sb := [⟨0, 0x40111, 0, [(0x1004440, 1), (0x100447F, 2)]⟩] }), ⟨0, 0x40111, 0, [(0x1004440, 1), (0x100447F, 2)]⟩, [], by decide +kernel⟩
theorem test_Stores_performed_empty : ∃ s : State, memWf s.mem = true ∧ (s.core s.inp.clus s.inp.core).sb = [] := ⟨here [] id, by decide +kernel⟩
theorem test_Stores_eviction : ∃ (s : State) (l : L1Line), memWf s.mem = true ∧ (s.core s.inp.clus s.inp.core).l1 = [l] ∧ l.line = s.inp.n ∧ l.dirty.getLsbD 63 = true ∧ l.dirty.getLsbD 0 = false :=
  ⟨with_ ((here [] id).modCore 0 0 (fun k => { k with l1 := [{ fullLine with dirty := 1 <<< 63 }] })) { n := 0x40100 }, { fullLine with dirty := 1 <<< 63 }, by decide +kernel⟩
theorem test_Stores_eviction_absent : ∃ s : State, memWf s.mem = true ∧ (∀ l ∈ (s.core s.inp.clus s.inp.core).l1, l.line ≠ s.inp.n) := ⟨(here [] id).modCore 0 0 (fun k => { k with l1 := [fullLine] }), by decide +kernel⟩

theorem test_CoreStoreAccess_inside : ∃ (s : State) (w : Width) (d a : Reg) (off : BitVec 10) (e : Nat), memWf s.mem = true ∧ s.Issues (.ldl w d a off) ∧ s.Issues (.stl w d a off) ∧
    (Instr.ldl w d a off).wf = true ∧ (Instr.stl w d a off).wf = true ∧ e = ((val (s.seen (.ldl w d a off)) a 1 + off.toInt * 4) % 2 ^ 32).toNat ∧ e % (4 * w.words) = 0 ∧ e < 0x8000 ∧
    s.poison.contains (corePa s.pkg s.cur.clus s.cur.core e / 64) = false ∧ (s.clus s.cur.clus).unfenced = [] ∧ s.cur.core < 128 ∧ s.me.bast = none :=
  ⟨here [(2, 0x8000)] id, .octet, 8, 2, 0x3F8, 0x7FE0, by decide +kernel, issues_of (by decide +kernel), issues_of (by decide +kernel), by decide +kernel⟩
theorem test_CoreStoreAccess_bound : ∃ (s : State) (w : Width) (d a : Reg) (off : BitVec 10) (e : Nat), memWf s.mem = true ∧ s.Issues (.ldl w d a off) ∧ s.Issues (.stl w d a off) ∧
    (Instr.ldl w d a off).wf = true ∧ (Instr.stl w d a off).wf = true ∧ e = ((val (s.seen (.ldl w d a off)) a 1 + off.toInt * 4) % 2 ^ 32).toNat ∧ e % (4 * w.words) = 0 ∧ 0x8000 ≤ e ∧ CanTrap s :=
  ⟨here [(2, 0x8000)] id, .octet, 8, 2, 0, 0x8000, by decide +kernel, issues_of (by decide +kernel), issues_of (by decide +kernel), by decide +kernel, by decide +kernel, by decide +kernel, by decide +kernel, by decide +kernel, canTrap_of (by decide +kernel)⟩
theorem test_CoreStoreAccess_align : ∃ (s : State) (w : Width) (d a : Reg) (off : BitVec 10) (e : Nat), memWf s.mem = true ∧ s.Issues (.ldl w d a off) ∧ s.Issues (.stl w d a off) ∧
    (Instr.ldl w d a off).wf = true ∧ (Instr.stl w d a off).wf = true ∧ e = ((val (s.seen (.ldl w d a off)) a 1 + off.toInt * 4) % 2 ^ 32).toNat ∧ e % (4 * w.words) ≠ 0 ∧ CanTrap s :=
  ⟨here [(2, 4)] id, .pair, 8, 2, 0, 4, by decide +kernel, issues_of (by decide +kernel), issues_of (by decide +kernel), by decide +kernel, by decide +kernel, by decide +kernel, by decide +kernel, canTrap_of (by decide +kernel)⟩
theorem test_CoreStoreAccess_poisoned : ∃ (s : State) (w : Width) (d a : Reg) (off : BitVec 10) (e : Nat), memWf s.mem = true ∧ s.Issues (.ldl w d a off) ∧ (Instr.ldl w d a off).wf = true ∧
    e = ((val (s.seen (.ldl w d a off)) a 1 + off.toInt * 4) % 2 ^ 32).toNat ∧ e % (4 * w.words) = 0 ∧ e < 0x8000 ∧ s.poison.contains (corePa s.pkg s.cur.clus s.cur.core e / 64) = true ∧ s.me.bast = none ∧ CanTrap s :=
  ⟨{ here [] id with poison := [1] }, .single, 8, 2, 0x10, 0x40, by decide +kernel, issues_of (by decide +kernel), by decide +kernel, by decide +kernel, by decide +kernel, by decide +kernel, by decide +kernel, by decide +kernel, canTrap_of (by decide +kernel)⟩

theorem test_Atomics_atom : ∃ (s : State) (i : Instr) (o : AtOrd) (w : Width) (d a b : Reg) (op : Nat → Int → Int → Int → Int → Int → Int → Int) (pa : Nat) (x : TlbEntry),
    s.Issues i ∧ i.wf = true ∧ atomForm i = some (o, w, d, a, b, op) ∧ memWf s.mem = true ∧
    Reaches (s.view i) .home (BitVec.ofNat 64 (val (s.seen i) a 2)) (4 * w.words) .atomic pa x ∧ s.me.basting = false ∧ s.me.bast = none ∧
    (s.core s.cur.clus s.cur.core).sb = [] ∧ (s.core s.cur.clus s.cur.core).l1 = [] ∧ s.octets i = [] ∧ pa % 64 + 4 * w.words ≤ 64 :=
  ⟨at_ 0x10038 [] id, .atomCas .ar .pair 6 2 8, .ar, .pair, 6, 2, 8, _, 0x1004038, ⟨0, .home, 0x10000, 0x1000, 0x1004000, 0, .normal, true, true, true, none⟩, issues_of (by decide +kernel), by decide +kernel, rfl,
   by decide +kernel, reaches_of (by decide +kernel), by decide +kernel, by decide +kernel, by decide +kernel, by decide +kernel, by decide +kernel, by decide +kernel⟩
theorem test_Atomics_reply : ∃ (s : State) (d : Reg) (l : List Word), (s.ctx s.inp.pos).unready = [⟨d, l.length, some l⟩] :=
  ⟨here [] (fun c => { c with unready := [⟨6, 2, some [1, 2]⟩] }), 6, [1, 2], by decide +kernel⟩

theorem test_FencesAndCaches_issue : ∃ s : State, s.Issues (.fence .core) ∧ s.Issues (.fence .dom) ∧ s.Issues (.fenceP .c .c) ∧ s.Issues (.fenceP .p .x) ∧
    (s.Issues (.rwb 2 4) ∧ (s.seen (.rwb 2 4)).reg 4 = 0) ∧ (s.Issues (.rinv 2 4) ∧ (s.seen (.rinv 2 4)).reg 4 = 0) ∧ (s.Issues (.clean 2 4) ∧ (s.seen (.clean 2 4)).reg 4 = 0) :=
  ⟨here [] id, issues_of (by decide +kernel), issues_of (by decide +kernel), issues_of (by decide +kernel), issues_of (by decide +kernel), ⟨issues_of (by decide +kernel), by decide +kernel⟩,
   ⟨issues_of (by decide +kernel), by decide +kernel⟩, issues_of (by decide +kernel), by decide +kernel⟩
theorem test_FencesAndCaches_dirty : ∃ (s : State) (l : L1Line), s.Issues (.rwb 2 4) ∧ (s.seen (.rwb 2 4)).reg 4 = 0 ∧ memWf s.mem = true ∧ (s.core s.cur.clus s.cur.core).l1 = [l] ∧ l.dirty.getLsbD 63 = true :=
  ⟨(here [] id).modCore 0 0 (fun k => { k with l1 := [{ fullLine with dirty := 1 <<< 63 }] }), { fullLine with dirty := 1 <<< 63 }, issues_of (by decide +kernel), by decide +kernel⟩
theorem test_FencesAndCaches_page : ∃ (s : State) (a b : Reg) (pa : Nat) (x : TlbEntry), s.Issues (.clean a b) ∧ 0 < val (s.seen (.clean a b)) b 1 ∧
    val (s.seen (.clean a b)) a 2 % 4096 + val (s.seen (.clean a b)) b 1 ≤ 4096 ∧
    (s.view (.clean a b)).translate s.cur.clus (.quiet (.page s.cur (val (s.seen (.clean a b)) a 2 / 4096))) s.me.aspc .read (BitVec.ofNat 64 (val (s.seen (.clean a b)) a 2 / 4096 * 4096)) .load = .ok pa x ∧ pa % 4096 = 0 :=
  ⟨at_ 0x12FC0 [(4, 64)] id, 2, 4, 0x1004000, ⟨0, .read, 0x12000, 0x1000, 0x1004000, 0, .normal, true, true, true, none⟩, issues_of (by decide +kernel), by decide +kernel⟩
theorem test_FencesAndCaches_fault : ∃ (s : State) (a b : Reg), s.Issues (.rwb a b) ∧ 0 < val (s.seen (.rwb a b)) b 1 ∧ val (s.seen (.rwb a b)) a 2 % 4096 + val (s.seen (.rwb a b)) b 1 ≤ 4096 ∧
    ∃ code, (s.view (.rwb a b)).translate s.cur.clus (.quiet (.page s.cur (val (s.seen (.rwb a b)) a 2 / 4096))) s.me.aspc .home (BitVec.ofNat 64 (val (s.seen (.rwb a b)) a 2 / 4096 * 4096)) .load = .trap code :=
  ⟨at_ 0x10000 [(3, 0x8000), (4, 1)] id, 2, 4, issues_of (by decide +kernel), by decide +kernel, by decide +kernel, _, rfl⟩

/-! ### Witnesses: tags, pulls and streams -/

/-- here with tag records on core 0. -/
def tagged (l : List (Nat × TagSt × Byte)) (r : List (Nat × Word)) (f : Ctx → Ctx) : State :=
  (at_ 0x12000 r f).modCore 0 0 (fun k => l.foldl (fun k e => k.setTag e.1 ⟨e.2.1, e.2.2, 512, 0, 7⟩) k)
theorem test_Tags_any_lowest : ∃ (s : State) (d a : Reg) (m n : Nat), s.Issues (.tagwaitAny d a) ∧ (Instr.tagwaitAny d a).wf = true ∧ s.Issues (.tagff d a) ∧ (Instr.tagff d a).wf = true ∧
    m = val (s.seen (.tagwaitAny d a)) a 2 ∧ Lowest s m TagSt.isDone n :=
  ⟨tagged [(63, .done, 0x50)] [(4, 1), (5, 0x80000000)] id, 8, 4, 0x8000000000000001, 63, issues_of (by decide +kernel), by decide +kernel, issues_of (by decide +kernel), by decide +kernel, by decide +kernel,
   by decide +kernel, by decide +kernel, by decide +kernel, by decide +kernel⟩
theorem test_Tags_any_waits : ∃ (s : State) (d a : Reg) (m : Nat), s.Issues (.tagwaitAny d a) ∧ (Instr.tagwaitAny d a).wf = true ∧ m = val (s.seen (.tagwaitAny d a)) a 2 ∧ m ≠ 0 ∧ NoTag s m TagSt.isDone :=
  ⟨tagged [(63, .done, 0)] [(4, 1)] id, 8, 4, 1, issues_of (by decide +kernel), by decide +kernel, by decide +kernel, by decide, by unfold NoTag; decide +kernel⟩
theorem test_Tags_all_done : ∃ (s : State) (a : Reg) (m : Nat), s.Issues (.tagwaitAll a) ∧ (Instr.tagwaitAll a).wf = true ∧ m = val (s.seen (.tagwaitAll a)) a 2 ∧
    (∀ k, k < 64 → m.testBit k = true → (tagOf s k).st.isDone = true) :=
  ⟨tagged [(63, .done, 0x50), (0, .done, 0)] [(4, 1), (5, 0x80000000)] id, 4, 0x8000000000000001, issues_of (by decide +kernel), by decide +kernel, by decide +kernel, by decide +kernel⟩
theorem test_Tags_all_waits : ∃ (s : State) (a : Reg) (m k : Nat), s.Issues (.tagwaitAll a) ∧ (Instr.tagwaitAll a).wf = true ∧ m = val (s.seen (.tagwaitAll a)) a 2 ∧
    k < 64 ∧ m.testBit k = true ∧ (tagOf s k).st.isDone = false :=
  ⟨tagged [(63, .done, 0x50), (0, .busy .coll, 0)] [(4, 1), (5, 0x80000000)] id, 4, 0x8000000000000001, 0, issues_of (by decide +kernel), by decide +kernel, by decide +kernel, by decide +kernel⟩
theorem test_Tags_clear : ∃ (s : State) (a : Reg) (m : Nat), s.Issues (.tagclr a) ∧ (Instr.tagclr a).wf = true ∧ m = val (s.seen (.tagclr a)) a 2 ∧ NoTag s m TagSt.isBusy ∧
    m.testBit 63 = true ∧ (tagOf s 63).st.isDone = true :=
  ⟨tagged [(63, .done, 0x50), (1, .busy .coll, 0)] [(4, 1), (5, 0x80000000)] id, 4, 0x8000000000000001, issues_of (by decide +kernel), by decide +kernel, by decide +kernel, by unfold NoTag; decide +kernel, by decide +kernel⟩
theorem test_Tags_clear_busy : ∃ (s : State) (a : Reg) (m n : Nat), s.Issues (.tagclr a) ∧ (Instr.tagclr a).wf = true ∧ m = val (s.seen (.tagclr a)) a 2 ∧ Lowest s m TagSt.isBusy n ∧ CanTrap s :=
  ⟨tagged [(63, .busy .coll, 0)] [(4, 1), (5, 0x80000000)] id, 4, 0x8000000000000001, 63, issues_of (by decide +kernel), by decide +kernel, by decide +kernel,
   ⟨by decide +kernel, by decide +kernel, by decide +kernel, by decide +kernel⟩, canTrap_of (by decide +kernel)⟩
theorem test_Tags_test : ∃ (s : State) (d : Reg) (g : Tag), s.Issues (.tagtst d g) := ⟨tagged [(63, .done, 0x50)] [] id, 8, 63, issues_of (by decide +kernel)⟩
theorem test_Tags_wakes_any : ∃ (s : State) (c k n x : Nat) (err : Byte) (m : DWord) (d : Reg) (v : Nat), x < 4 ∧ n < 64 ∧ (s.ctx ⟨c, k, x⟩).convoy = none ∧ (s.ctx ⟨c, k, x⟩).stop = false ∧ (s.ctx ⟨c, k, x⟩).depth = 0 ∧
    (∀ y, y < 4 → (s.ctx ⟨c, k, y⟩).spop = []) ∧ (s.ctx ⟨c, k, x⟩).st = .blocked (.tagAny m d) ∧ m.getLsbD n = true ∧ v < 64 ∧ m.getLsbD v = true ∧
    (((s.tagDone c k n err).core c k).tag v).st = .done ∧ (∀ j, j < v → m.getLsbD j = true → (((s.tagDone c k n err).core c k).tag j).st ≠ .done) :=
  ⟨tagged [(63, .busy .coll, 0)] [] (fun c => { c with st := .blocked (.tagAny 0x8000000000000001 8) }), 0, 0, 63, 0, 0x50, 0x8000000000000001, 8, 63, by decide +kernel, by decide +kernel, by decide +kernel,
   by decide +kernel, by decide +kernel, by decide +kernel, by decide +kernel, by decide +kernel, by decide +kernel, by decide +kernel, by decide +kernel⟩
theorem test_Tags_wakes_all : ∃ (s : State) (c k n x : Nat) (err : Byte) (m : DWord), x < 4 ∧ n < 64 ∧ (s.ctx ⟨c, k, x⟩).convoy = none ∧ (s.ctx ⟨c, k, x⟩).stop = false ∧ (s.ctx ⟨c, k, x⟩).depth = 0 ∧
    (∀ y, y < 4 → (s.ctx ⟨c, k, y⟩).spop = []) ∧ (s.ctx ⟨c, k, x⟩).st = .blocked (.tagAll m) ∧ m.getLsbD n = true ∧ (∀ j, j < 64 → m.getLsbD j = true → (((s.tagDone c k n err).core c k).tag j).st = .done) :=
  ⟨tagged [(63, .busy .coll, 0), (0, .done, 3)] [] (fun c => { c with st := .blocked (.tagAll 0x8000000000000001) }), 0, 0, 63, 0, 0, 0x8000000000000001, by decide +kernel, by decide +kernel, by decide +kernel,
   by decide +kernel, by decide +kernel, by decide +kernel, by decide +kernel, by decide +kernel⟩

/-- A pull descriptor of one dimension of n bytes, of more with further dimensions (R226). -/
def pullBytesOf (src dst stv stofs w4 : Nat) (dims : List (Nat × Nat × Nat)) : List Byte :=
  le 8 (src + dims.length * 2 ^ 56) ++ le 8 dst ++ le 8 stv ++ le 8 stofs ++ le 8 w4 ++ le 24 0 ++ dims.flatMap (fun x => le 8 (x.2.1 + x.1 * 2 ^ 32) ++ le 8 x.2.2)
/-- A state whose memory holds those bytes at those addresses, in ascending order. -/
def holding (s : State) (l : List (Nat × List Byte)) : State := { s with mem := (l.flatMap (fun e => e.2.zipIdx.map (fun x => (e.1 + x.2, x.1)))).filter (fun x => x.2 ≠ 0) }
/-- at_ with descriptors in core 0's store: a pull at 0x100, a bad one at 0x200, a distributing one at 0x300, the one of the refill at 0x400, an affine stream at
0x2000 and a stream with a refill at 0x2020. -/
def described (l : List (Nat × TagSt × Byte)) (f : Ctx → Ctx) : State :=
  holding (tagged l [(10, 0x100), (12, 0x200), (14, 0x300), (16, 0x180), (20, 0x2000), (22, 0x2020)] f) [(0x100, pullBytesOf 0x12000 0x10100 0x55 0x100C8 0 [(4, 0, 0)]), (0x180, pullBytesOf 0x12000 0x10100 0 0 0 [(4, 0, 0)]),
    (0x200, pullBytesOf 0x12000 0x10100 0 0 0 [(30, 0, 0)]), (0x300, pullBytesOf 0x12000 0x500 0 0 (32 * 2 ^ 16) [(4, 0, 0)]), (0x400, pullBytesOf 0x12000 0 0 0 0 [(32, 0, 0)]),
    (0x2000, le 8 (3 + 3 * 2 ^ 32) ++ le 8 (0x100 + 32 * 65536 + 64 * 2 ^ 32)), (0x2020, le 8 (1 + 3 * 2 ^ 32 + 2 ^ 63) ++ le 8 0x1000 ++ le 8 (0x400 + 6 * 2 ^ 20))]
theorem test_PullAddresses : ∃ (d : PullDesc) (e0 : Nat) (es : List Nat) (f : Nat), d.ext = e0 :: es ∧ (∀ e ∈ d.ext, 0 < e) ∧ f < d.ext.foldl (· * ·) 1 :=
  ⟨⟨0, 0, 0, 0, 32, 1, 0, [16, 2], [0, 16], [0, 64]⟩, 16, [2], 31, by decide +kernel⟩
/-- What the statement reads of a pull instruction. -/
def touched (s : State) (i : Instr) (kind : PullKind) (a b : Reg) : List (DWord × Nat × DWord) :=
  ((s.view i).readDesc (val (s.seen i) a 1)).pullBytes (kind = .pulld) (sval (s.seen i) b 2) (val (s.seen i) (a + 1) 1)
/-- PageOk as a test. -/
def pageOk (s : State) (sp : Space) (acc : AccKind) (a : DWord) : Bool :=
  match s.translate s.cur.clus (.ctx s.cur) s.me.aspc sp a acc with
  | .ok pa x => (x.type == .normal || x.type == .swm) && (sp != .read || !s.dead.getLsbD (paPkg pa))
  | _ => false
theorem pageOk_of {s : State} {sp : Space} {acc : AccKind} {l : List DWord} (h : l.all (pageOk s sp acc) = true) : ∀ a ∈ l, PageOk s sp acc a := by
  intro a ha
  have h := List.all_eq_true.mp h a ha
  unfold pageOk at h
  split at h
  · next pa x e =>
    simp only [Bool.and_eq_true, Bool.or_eq_true, beq_iff_eq, bne_iff_ne, Bool.not_eq_true'] at h
    exact ⟨pa, x, e, h.1, fun r => h.2.resolve_left (fun n => n r)⟩
  · cases h
/-- The pages of the pull at 0x100. -/
def pinned : List (Nat × Space × Nat) := [(0, .read, 0x12), (0, .home, 0x10)]
/-- A pull of 64 bytes from one unit to the vault, its source read; identity 7, tag 63. -/
def aPull : Pull := { clus := 0, core := 0, ctx := 0, tag := 63, bast := none, bytes := (List.range 64).map (fun k => ⟨0x1004000 + k % 32, 0, 0x1006100 + k, 0, (0x1006100 + k) / 32⟩), got := [(0x80200, le 32 0x1234)], stamp := none, pins := [], err := 0, stream := none }
theorem test_PullsIssue_runs : ∃ (s : State) (i : Instr) (a b : Reg) (g : Tag), s.Issues i ∧ i.wf = true ∧ pullForm i = some (.pullc, a, b, g) ∧ s.me.sub = none ∧ (tagOf s g.toNat).st.isFree = true ∧
    PullFits (s.view i) .pullc ((s.view i).readDesc (val (s.seen i) a 1)) (val (s.seen i) a 1) (touched s i .pullc a b) pinned ∧ (s.view i).pullRoom pinned = true ∧
    (∀ x ∈ firstTouch ((touched s i .pullc a b).map (·.1)), PageOk (s.view i) .read .pullSrc x) ∧ (∀ x ∈ firstTouch ((touched s i .pullc a b).map (·.2.2)), PageOk (s.view i) .home .pullDst x) ∧
    (∀ x ∈ [BitVec.ofNat 64 ((s.view i).readDesc (val (s.seen i) a 1)).stofs], PageOk (s.view i) .home .stamp x) :=
  ⟨described [] id, .pullc 10 30 63, 10, 30, 63, issues_of (by decide +kernel), by decide +kernel, by decide +kernel, by decide +kernel, by decide +kernel,
   ⟨by decide +kernel, by decide +kernel, by decide +kernel, nofun, nofun⟩, by decide +kernel, pageOk_of (by decide +kernel), pageOk_of (by decide +kernel), pageOk_of (by decide +kernel)⟩
theorem test_PullsIssue_busy : ∃ (s : State) (i : Instr) (a b : Reg) (g : Tag), s.Issues i ∧ i.wf = true ∧ pullForm i = some (.pull, a, b, g) ∧ s.me.sub = none ∧ (tagOf s g.toNat).st.isFree = false ∧ CanTrap s :=
  ⟨described [(63, .done, 0)] id, .pull 10 30 63, 10, 30, 63, issues_of (by decide +kernel), by decide +kernel, by decide +kernel, by decide +kernel, by decide +kernel, canTrap_of (by decide +kernel)⟩
theorem test_PullsIssue_bad : ∃ (s : State) (i : Instr) (a b : Reg) (g : Tag) (o : Nat), s.Issues i ∧ i.wf = true ∧ pullForm i = some (.pull, a, b, g) ∧ s.me.sub = none ∧ (tagOf s g.toNat).st.isFree = true ∧
    pullFault ((s.view i).descWord (val (s.seen i) a 1)) (val (s.seen i) a 1) .pull = some o ∧ CanTrap s :=
  ⟨described [] id, .pull 12 30 63, 12, 30, 63, _, issues_of (by decide +kernel), by decide +kernel, by decide +kernel, by decide +kernel, by decide +kernel, rfl, canTrap_of (by decide +kernel)⟩
theorem test_PullsIssue_no_room : ∃ (s : State) (i : Instr) (a b : Reg) (g : Tag), s.Issues i ∧ i.wf = true ∧ pullForm i = some (.pull, a, b, g) ∧ s.me.sub = none ∧ (tagOf s g.toNat).st.isFree = true ∧
    PullFits (s.view i) .pull ((s.view i).readDesc (val (s.seen i) a 1)) (val (s.seen i) a 1) (touched s i .pull a b) pinned ∧ (s.view i).pullRoom pinned = false :=
  ⟨{ described [] id with pulls := (List.range 32).map (fun n => (n, aPull)) }, .pull 16 30 63, 16, 30, 63, issues_of (by decide +kernel), by decide +kernel, by decide +kernel,
   by decide +kernel, by decide +kernel, ⟨by decide +kernel, by decide +kernel, by decide +kernel, nofun, nofun⟩, by decide +kernel⟩
theorem test_PullsIssue_distributes : ∃ (s : State) (i : Instr) (a b : Reg) (g : Tag), s.Issues i ∧ i.wf = true ∧ pullForm i = some (.pulld, a, b, g) ∧ s.me.sub = none ∧ (tagOf s g.toNat).st.isFree = true ∧
    PullFits (s.view i) .pulld ((s.view i).readDesc (val (s.seen i) a 1)) (val (s.seen i) a 1) (touched s i .pulld a b) [(0, .read, 0x12)] ∧ (s.view i).pullRoom [(0, .read, 0x12)] = true ∧
    (∀ x ∈ firstTouch ((touched s i .pulld a b).map (·.1)), PageOk (s.view i) .read .pullSrc x) :=
  ⟨described [] (fun c => { c with slot := some 4 }), .pulld 14 30 63, 14, 30, 63, issues_of (by decide +kernel), by decide +kernel, by decide +kernel, by decide +kernel, by decide +kernel,
   ⟨by decide +kernel, by decide +kernel, by decide +kernel, fun _ => by decide +kernel, fun _ => by decide +kernel⟩,
   by decide +kernel, pageOk_of (by decide +kernel)⟩

def pulling (p : Pull) (n : Nat) : State := { tagged [(63, .busy (.pull 7), 0)] [] id with pulls := [(7, p)], inp := { id := 7, n := n } }
theorem test_PullRequests_read : ∃ (s : State) (p : Pull) (b : PByte), s.inp.load = .none ∧ s.pull? s.inp.id = some p ∧ p.bytes.find? (fun x => x.src / 32 = s.inp.n) = some b ∧ p.err = 0 ∧
    Assoc.has s.inp.n p.got = false ∧ paPkg b.src = s.pkg ∧ s.ownerRefuses (s.clus p.clus).fn b.src = false ∧ s.keyOk p.clus b.src b.skey = true ∧ p.bast = none ∧ s.poison.contains (s.inp.n / 2) = false ∧
    (paRegion (32 * s.inp.n)).isCore = false ∧ (s.clus p.clus).unfenced = [] := ⟨pulling { aPull with got := [] } 0x80200, { aPull with got := [] }, ⟨0x1004000, 0, 0x1006100, 0, 0x80308⟩, by decide +kernel⟩
theorem test_PullRequests_poisoned : ∃ (s : State) (p : Pull) (b : PByte), s.inp.load = .none ∧ s.pull? s.inp.id = some p ∧ p.bytes.find? (fun x => x.src / 32 = s.inp.n) = some b ∧ p.err = 0 ∧
    Assoc.has s.inp.n p.got = false ∧ paPkg b.src = s.pkg ∧ s.ownerRefuses (s.clus p.clus).fn b.src = false ∧ s.keyOk p.clus b.src b.skey = true ∧ p.bast = none ∧ s.poison.contains (s.inp.n / 2) = true :=
  ⟨{ pulling { aPull with got := [] } 0x80200 with poison := [0x40100] }, { aPull with got := [] }, ⟨0x1004000, 0, 0x1006100, 0, 0x80308⟩, by decide +kernel⟩
theorem test_PullRequests_refused : ∃ (s : State) (p : Pull) (b : PByte), s.inp.load = .none ∧ s.pull? s.inp.id = some p ∧ p.bytes.find? (fun x => x.src / 32 = s.inp.n) = some b ∧ p.err = 0 ∧
    Assoc.has s.inp.n p.got = false ∧ paPkg b.src = s.pkg ∧ (s.ownerRefuses (s.clus p.clus).fn b.src = true ∨ s.keyOk p.clus b.src b.skey = false) :=
  ⟨pulling { aPull with got := [], bytes := [⟨0x100000000, 5, 0x1006100, 0, 0x80308⟩] } 0x8000000, { aPull with got := [], bytes := [⟨0x100000000, 5, 0x1006100, 0, 0x80308⟩] }, ⟨0x100000000, 5, 0x1006100, 0, 0x80308⟩, by decide +kernel⟩
theorem test_PullLandings_unit : ∃ (s : State) (p : Pull) (k : Nat), memWf s.mem = true ∧ s.inp.load = .none ∧ s.pull? s.inp.id = some p ∧ p.stream = none ∧ p.bast = none ∧ (s.clus p.clus).saved = [] ∧ p.err = 0 ∧
    p.ready s.inp.n = true ∧ (∀ x ∈ p.bytes, x.unit = s.inp.n → s.keyOk p.clus x.dst x.dkey = true) ∧ (∀ x ∈ p.bytes, x.unit = s.inp.n → x.dst / 32 = s.inp.n ∧ x.dkey = k) :=
  ⟨pulling aPull 0x80309, aPull, 0, by decide +kernel⟩
theorem test_PullLandings_last : ∃ (s : State) (p : Pull) (k : Nat), memWf s.mem = true ∧ s.inp.load = .none ∧ s.pull? s.inp.id = some p ∧ p.stream = none ∧ p.bast = none ∧ (s.clus p.clus).saved = [] ∧ p.err = 0 ∧
    p.ready s.inp.n = true ∧ (∀ x ∈ p.bytes, x.unit = s.inp.n → s.keyOk p.clus x.dst x.dkey = true) ∧ (∀ x ∈ p.bytes, x.unit = s.inp.n → x.dst / 32 = s.inp.n ∧ x.dkey = k) ∧ (∀ x ∈ p.bytes, x.unit = s.inp.n) :=
  ⟨pulling { aPull with bytes := aPull.bytes.take 32 } 0x80308, { aPull with bytes := aPull.bytes.take 32 }, 0, by decide +kernel⟩
theorem test_PullLandings_refused : ∃ (s : State) (p : Pull), memWf s.mem = true ∧ s.inp.load = .none ∧ s.pull? s.inp.id = some p ∧ p.stream = none ∧ p.bast = none ∧ (s.clus p.clus).saved = [] ∧ p.err = 0 ∧
    p.ready s.inp.n = true ∧ (∃ x ∈ p.bytes, x.unit = s.inp.n ∧ s.keyOk p.clus x.dst x.dkey = false) :=
  ⟨pulling { aPull with bytes := [⟨0x1004000, 0, 0x100000000, 5, 0x8000000⟩] } 0x8000000, { aPull with bytes := [⟨0x1004000, 0, 0x100000000, 5, 0x8000000⟩] }, by decide +kernel⟩
theorem test_PullComplete_stamp : ∃ (s : State) (p : Pull) (pa k : Nat) (w : DWord), memWf s.mem = true ∧ s.inp.load = .none ∧ s.pull? s.inp.id = some p ∧ p.stream = none ∧ p.bast = none ∧ (s.clus p.clus).saved = [] ∧
    p.bytes = [] ∧ p.tag < 64 ∧ ((s.core p.clus p.core).tag p.tag).op = s.inp.id ∧ ((s.core p.clus p.core).tag p.tag).st.isBusy = true ∧ p.stamp = some (pa, k, w) ∧ s.keyOk p.clus pa k = true ∧ p.err = 0 ∧ pa % 8 = 0 :=
  ⟨pulling { aPull with bytes := [], stamp := some (0x1004200, 0, 0x99) } 0, { aPull with bytes := [], stamp := some (0x1004200, 0, 0x99) }, 0x1004200, 0, 0x99, by decide +kernel⟩

theorem test_StreamLifecycle_affine : ∃ (s : State) (b p : Reg) (g : Tag) (k : Nat), s.Issues (.stream b p g) ∧ (Instr.stream b p g).wf = true ∧ p.toNat = 32 + 8 * k ∧ s.me.sub = none ∧ (tagOf s g.toNat).st.isFree = true ∧
    s.me.stream k = none ∧ streamFault ((s.view (.stream b p g)).descWord (val (s.seen (.stream b p g)) b 1)) ((s.view (.stream b p g)).descWord (((s.view (.stream b p g)).descWord (val (s.seen (.stream b p g)) b 1) 0x10).toNat % 2 ^ 15)) (val (s.seen (.stream b p g)) b 1) = none ∧ (s.view (.stream b p g)).blockPoison (val (s.seen (.stream b p g)) b 1) 32 = false ∧
    ((s.view (.stream b p g)).descWord (val (s.seen (.stream b p g)) b 1) 0).getLsbD 63 = false :=
  ⟨described [] id, 20, 56, 63, 3, issues_of (by decide +kernel), by decide +kernel⟩
theorem test_StreamLifecycle_refill : ∃ (s : State) (b p : Reg) (g : Tag) (k : Nat), s.Issues (.stream b p g) ∧ (Instr.stream b p g).wf = true ∧ p.toNat = 32 + 8 * k ∧ s.me.sub = none ∧ (tagOf s g.toNat).st.isFree = true ∧
    s.me.stream k = none ∧ streamFault ((s.view (.stream b p g)).descWord (val (s.seen (.stream b p g)) b 1)) ((s.view (.stream b p g)).descWord (((s.view (.stream b p g)).descWord (val (s.seen (.stream b p g)) b 1) 0x10).toNat % 2 ^ 15)) (val (s.seen (.stream b p g)) b 1) = none ∧ (s.view (.stream b p g)).blockPoison (val (s.seen (.stream b p g)) b 1) 32 = false ∧
    ((s.view (.stream b p g)).descWord (val (s.seen (.stream b p g)) b 1) 0).getLsbD 63 = true ∧ (s.view (.stream b p g)).blockPoison 0x400 128 = false ∧
    (s.view (.stream b p g)).pullRoom [(0, .read, 0x12)] = true ∧
    (∀ x ∈ firstTouch ((((s.view (.stream b p g)).readDesc 0x400).pullBytes false 0 0).map (·.1)), PageOk (s.view (.stream b p g)) .read .pullSrc x) :=
  ⟨described [] id, 22, 32, 63, 0, issues_of (by decide +kernel), by decide +kernel, by decide +kernel, by decide +kernel, by decide +kernel, by decide +kernel, by decide +kernel, by decide +kernel, by decide +kernel, by decide +kernel,
   by decide +kernel, pageOk_of (by decide +kernel)⟩
theorem test_StreamLifecycle_on : ∃ (s : State) (b p : Reg) (g : Tag) (k : Nat) (x : Stream), s.Issues (.stream b p g) ∧ (Instr.stream b p g).wf = true ∧ p.toNat = 32 + 8 * k ∧ s.me.sub = none ∧ (tagOf s g.toNat).st.isFree = true ∧
    s.me.stream k = some x ∧ CanTrap s :=
  ⟨described [] (fun c => { c with streams := c.streams.set 3 (some twoPops) }), 20, 56, 63, 3, twoPops, issues_of (by decide +kernel), by decide +kernel, by decide +kernel, by decide +kernel, by decide +kernel, by decide +kernel, canTrap_of (by decide +kernel)⟩
theorem test_StreamLifecycle_bad : ∃ (s : State) (b p : Reg) (g : Tag) (k o : Nat), s.Issues (.stream b p g) ∧ (Instr.stream b p g).wf = true ∧ p.toNat = 32 + 8 * k ∧ s.me.sub = none ∧ (tagOf s g.toNat).st.isFree = true ∧
    s.me.stream k = none ∧ streamFault ((s.view (.stream b p g)).descWord (val (s.seen (.stream b p g)) b 1)) ((s.view (.stream b p g)).descWord (((s.view (.stream b p g)).descWord (val (s.seen (.stream b p g)) b 1) 0x10).toNat % 2 ^ 15)) (val (s.seen (.stream b p g)) b 1) = some o ∧ CanTrap s :=
  ⟨described [] id, 30, 56, 63, 3, _, issues_of (by decide +kernel), by decide +kernel, by decide +kernel, by decide +kernel, by decide +kernel, by decide +kernel, rfl, canTrap_of (by decide +kernel)⟩
theorem test_StreamLifecycle_window : ∃ (s : State) (j : Nat), j < 32 ∧ (∀ u ∈ (s.clus 0).unfenced, u.stale.contains .p = false) := ⟨streaming id, 31, by decide +kernel⟩
theorem test_StreamLifecycle_close : ∃ (s : State) (a : Reg) (k : Nat) (x : Stream), s.Issues (.sclose a) ∧ (Instr.sclose a).wf = true ∧ a.toNat = 32 + 8 * k ∧ s.me.stream k = some x ∧ x.tag < 64 ∧
    (tagOf s x.tag).st = .busy (.stream s.cur.ctx k) := ⟨streaming id, 32, 0, twoPops, issues_of (by decide +kernel), by decide +kernel⟩
theorem test_StreamLifecycle_close_none : ∃ (s : State) (a : Reg) (k : Nat), s.Issues (.sclose a) ∧ (Instr.sclose a).wf = true ∧ a.toNat = 32 + 8 * k ∧ s.me.stream k = none := ⟨here [] id, 56, 3, issues_of (by decide +kernel), by decide +kernel⟩

/-! ### Witnesses: the plane array -/

/-- An FP16 entry over the vault page 0x12000: extents 64 and 4 (R274). -/
def entry5 : List Byte := le 8 (2 ^ 63 + 2 ^ 60 + 2 * 2 ^ 56 + 0x12000) ++ le 8 0 ++ le 8 (64 + 4 * 2 ^ 32) ++ le 8 0 ++ le 8 128 ++ le 24 0
/-- The capability of team slot 4, bank 2, tile 0 (R65). -/
def capHi : Word := BitVec.ofNat 32 (2 ^ 16 + 2 * 2 ^ 13 + 4 * 2 ^ 4)
def capab : DWord := capHi ++ Config.chk 0 capHi 0 0
/-- at_ in team slot 4 of launch (7, 18), whose bank 2 holds the entry; registers 10, 14, 18 and 30 point at a descriptor without a skip list, one with, a drain
and an entry. -/
def inBank (cap : DWord) (l : List (Nat × TagSt × Byte)) (f : Ctx → Ctx) : State :=
  (((((tagged l [(10, 0x100), (14, 0x140), (18, 0x180), (30, 0x200), (31, 5), (34, 0x220), (38, 3)] (fun c => f { c with slot := some 4, lnch := 0x07000012, capt := cap })).putBytes 0x100 0
    (le 8 (5 * 2 ^ 56 + 2 * 2 ^ 48 + 2 * 2 ^ 40 + 2 ^ 32 + 2 ^ 30 + 4 * 2 ^ 15 + 0x1000))).putBytes 0x140 0 (le 8 (5 * 2 ^ 56 + 2 * 2 ^ 48 + 2 * 2 ^ 40 + 2 ^ 32 + 3 * 2 ^ 20 + 4 * 2 ^ 15 + 0x1000))).putBytes 0x180 0
    (le 8 (2 * 2 ^ 60 + 2 ^ 56 + 4 * 2 ^ 40 + 3 * 2 ^ 32 + 8 * 2 ^ 16 + 0x2800) ++ le 8 0x3F800000)).putBytes 0x200 0 entry5).modClus 0
    (fun k => { k with banks := k.banks.set 2 (some ⟨(7, 18), [(5, entry5)]⟩) })
theorem test_TableEntries_set : ∃ (s : State) (a b : Reg) (n : Nat), s.Issues (.tidset a b) ∧ (s.view (.tidset a b)).myBank = some n ∧ (s.clus s.cur.clus).unfenced = [] ∧
    val (s.seen (.tidset a b)) a 1 % 32 = 0 ∧ val (s.seen (.tidset a b)) a 1 + 64 ≤ 0x8000 ∧ (s.view (.tidset a b)).blockPoison (val (s.seen (.tidset a b)) a 1) 64 = false ∧
    tidV (s.bytesAt (corePa s.pkg s.cur.clus s.cur.core (val (s.seen (.tidset a b)) a 1)) 0 64) = true ∧ tidBad (s.bytesAt (corePa s.pkg s.cur.clus s.cur.core (val (s.seen (.tidset a b)) a 1)) 0 64) = none :=
  ⟨inBank 0 [] id, 30, 31, 2, issues_of (by decide +kernel), by decide +kernel⟩
theorem test_TableEntries_bad : ∃ (s : State) (a b : Reg) (n o : Nat), s.Issues (.tidset a b) ∧ (s.view (.tidset a b)).myBank = some n ∧ (s.clus s.cur.clus).unfenced = [] ∧
    tidV (s.bytesAt (corePa s.pkg s.cur.clus s.cur.core (val (s.seen (.tidset a b)) a 1)) 0 64) = true ∧ tidBad (s.bytesAt (corePa s.pkg s.cur.clus s.cur.core (val (s.seen (.tidset a b)) a 1)) 0 64) = some o ∧ CanTrap s :=
  ⟨(inBank 0 [] id).putBytes 0x210 0 (le 8 0), 30, 31, 2, 0x10, issues_of (by decide +kernel), by decide +kernel, by decide +kernel, by decide +kernel, by decide +kernel, canTrap_of (by decide +kernel)⟩
theorem test_TableEntries_clear : ∃ (s : State) (a : Reg) (n : Nat), s.Issues (.tidclr a) ∧ (s.view (.tidclr a)).myBank = some n := ⟨inBank 0 [] id, 31, 2, issues_of (by decide +kernel), by decide +kernel⟩
theorem test_TableEntries_no_bank : ∃ (s : State) (a b : Reg), CanTrap s ∧ s.Issues (.tidset a b) ∧ (s.view (.tidset a b)).myBank = none ∧ s.Issues (.tidclr a) ∧ (s.view (.tidclr a)).myBank = none :=
  ⟨here [] id, 30, 31, canTrap_of (by decide +kernel), issues_of (by decide +kernel), by decide +kernel, issues_of (by decide +kernel), by decide +kernel⟩

/-- The operands of PLANE: FP32 with precision 16 given, the record ending with the core store. -/
theorem test_PlaneRecords : ∃ (s : State) (src b : Reg) (fmt : Ty) (rc : Rc) (p addr : Nat) (ctl : Word), memWf s.mem = true ∧ s.me.st = .ready ∧ s.me.unready = [] ∧ (∀ k, k < 4 → s.me.stream k = none) ∧ s.cur.core < 128 ∧
    (Instr.plane b src).wf = true ∧ addr = val s.me b 1 ∧ ctl = s.me.reg (b + 1) ∧ planeFmt ctl = some fmt ∧ Rc.ofCode (BitVec.ofNat 4 ctl.toNat) = some rc ∧ ctl.toNat / 2 ^ 21 % 8 = 0 ∧ ctl.toNat / 2 ^ 12 % 16 = 0 ∧
    ctl.toNat / 2 ^ 4 % 16 = 0 ∧ (ctl.toNat / 2 ^ 16 % 32 = p ∧ p ≠ 0 ∧ precAllowed fmt p = true) ∧ src.toNat % (8 * planeOctets fmt) = 0 ∧ addr % 4 = 0 ∧ addr + 4 * (p + 1) = 0x8000 :=
  ⟨here [(2, 0x7FBC), (3, 0x7F100001)] id, 0, 2, .fp32, .rne, 16, 0x7FBC, 0x7F100001, by decide +kernel⟩
theorem test_PlaneRecords_default : ∃ (s : State) (src b : Reg) (fmt : Ty) (rc : Rc) (p addr : Nat) (ctl : Word), memWf s.mem = true ∧ s.me.st = .ready ∧ s.me.unready = [] ∧ (∀ k, k < 4 → s.me.stream k = none) ∧ s.cur.core < 128 ∧
    (Instr.plane b src).wf = true ∧ addr = val s.me b 1 ∧ ctl = s.me.reg (b + 1) ∧ planeFmt ctl = some fmt ∧ Rc.ofCode (BitVec.ofNat 4 ctl.toNat) = some rc ∧ ctl.toNat / 2 ^ 21 % 8 = 0 ∧ ctl.toNat / 2 ^ 12 % 16 = 0 ∧
    ctl.toNat / 2 ^ 4 % 16 = 0 ∧ ctl.toNat / 2 ^ 16 % 32 = 0 ∧ p = defaultPrec fmt ∧ src.toNat % (8 * planeOctets fmt) = 0 ∧ addr % 4 = 0 ∧ 0x8000 < addr + 4 * (p + 1) ∧ CanTrap s :=
  ⟨here [(2, 0x7FF0), (3, 0x7F000201)] id, 16, 2, .fp16, .rne, defaultPrec .fp16, 0x7FF0, 0x7F000201, by decide +kernel, by decide +kernel, by decide +kernel, by decide +kernel, by decide +kernel, by decide +kernel, by decide +kernel, by decide +kernel, by decide +kernel, by decide +kernel,
   by decide +kernel, by decide +kernel, by decide +kernel, by decide +kernel, rfl, by decide +kernel, by decide +kernel, by decide +kernel, canTrap_of (by decide +kernel)⟩

theorem mmaFits_of {s : State} {stream send : Bool} {addr disp : Nat} (h : (addr % 32 = 0 ∧ addr + 32 ≤ 0x8000 ∧ s.blockPoison addr 32 = false ∧
    (fld (s.descWord addr 0) 47 47 = 0 ∧ fld (s.descWord addr 0) 39 39 = 0 ∧ fld (s.descWord addr 0) 29 29 = 0 ∧ fld (s.descWord addr 0) 23 23 = 0 ∧ s.descWord addr 0x10 = 0 ∧ s.descWord addr 0x18 = 0)) ∧
    (1 ≤ fld (s.descWord addr 0) 55 48 ∧ 1 ≤ fld (s.descWord addr 0) 46 40 ∧ fld (s.descWord addr 0) 46 40 ≤ 64 ∧ 1 ≤ fld (s.descWord addr 0) 38 32 ∧ fld (s.descWord addr 0) 38 32 ≤ 64 ∧
      2 ≤ fld (s.descWord addr 0) 19 15 ∧ fld (s.descWord addr 0) 19 15 ≤ 16) ∧
    (fld (s.descWord addr 0) 22 20 ≤ 4 ∧ (send = false → (fld (s.descWord addr 0) 22 20 ≠ 0 ↔ stream = true) ∧ fld (s.descWord addr 0) 27 24 = 0)) ∧
    (fld (s.descWord addr 0) 14 0 + disp) % 4 = 0 ∧
    fld (s.descWord addr 0) 14 0 + disp + fld (s.descWord addr 0) 55 48 * fld (s.descWord addr 0) 38 32 * 4 * (fld (s.descWord addr 0) 19 15 + 1) ≤ 0x8000) : MmaFits s stream send addr disp :=
  ⟨h.1.1, h.1.2.1, h.1.2.2.1, h.1.2.2.2, h.2.1, h.2.2.1, h.2.2.2.1, h.2.2.2.2⟩
theorem test_PlaneCommands_mma : ∃ (s : State) (i : Instr) (a b : Reg) (g : Tag), s.Issues i ∧ i.wf = true ∧ mmaForm i = some (false, false, a, b, g) ∧ (s.view i).myBank.isSome = true ∧ (tagOf s g.toNat).st.isFree = true ∧
    MmaFits (s.view i) false false (val (s.seen i) a 1) (val (s.seen i) (a + 1) 1) ∧ fld ((s.view i).descWord (val (s.seen i) a 1) 0) 22 20 = 0 ∧ QueueRoom s (s.cur.core / 8) :=
  ⟨inBank 0 [] id, .mma 10 20 63, 10, 20, 63, issues_of (by decide +kernel), by decide +kernel, by decide +kernel, by decide +kernel, by decide +kernel, mmaFits_of (by decide +kernel), by decide +kernel, by unfold QueueRoom; decide +kernel⟩
/-- A queued command: identity 7, tag 63. -/
def command (kind : MatKind) (ph : MatPhase) : MatCmd := ⟨7, ⟨0, 0, 0⟩, 63, 0, 0x07000012, capab, none, kind, ph, [], [], [], [], [], some 4, []⟩
theorem test_PlaneCommands_full : ∃ (s : State) (i : Instr) (a b : Reg) (g : Tag), s.Issues i ∧ i.wf = true ∧ mmaForm i = some (false, false, a, b, g) ∧ (s.view i).myBank.isSome = true ∧ (tagOf s g.toNat).st.isFree = true ∧
    MmaFits (s.view i) false false (val (s.seen i) a 1) (val (s.seen i) (a + 1) 1) ∧ fld ((s.view i).descWord (val (s.seen i) a 1) 0) 22 20 = 0 ∧ ¬ QueueRoom s (s.cur.core / 8) :=
  ⟨(inBank 0 [] id).modTile 0 0 (fun t => { t with cmds := List.replicate 16 (command (.zero []) .queued) }), .mma 10 20 63, 10, 20, 63, issues_of (by decide +kernel), by decide +kernel, by decide +kernel, by decide +kernel, by decide +kernel,
   mmaFits_of (by decide +kernel), by decide +kernel, by unfold QueueRoom; decide +kernel⟩
theorem walkFits_of {kb : Nat} {l : List (Nat × Nat)} (h : l.head? = some (0, 0)) : walkFits kb l 0 := by
  cases l with
  | nil => cases h
  | cons x l => cases h; simp [walkFits]
theorem test_PlaneCommands_skips : ∃ (s : State) (i : Instr) (a b : Reg) (g : Tag) (x : Stream) (l : List (Nat × Nat)), s.Issues i ∧ i.wf = true ∧ mmaForm i = some (true, false, a, b, g) ∧ (s.view i).myBank.isSome = true ∧ (tagOf s g.toNat).st.isFree = true ∧
    MmaFits (s.view i) true false (val (s.seen i) a 1) (val (s.seen i) (a + 1) 1) ∧ fld ((s.view i).descWord (val (s.seen i) a 1) 0) 22 20 = 3 ∧ s.octets i = [] ∧ s.me.stream 2 = some x ∧ x.pop < x.npop ∧
    (x.rf = false ∨ x.pop * x.adv + 32 ≤ x.landed) ∧ (s.view i).windowPoison 2 = false ∧ skipEntries ((s.view i).window s.cur x) = l ∧ walkFits 2 l 0 ∧ QueueRoom s (s.cur.core / 8) :=
  ⟨inBank 0 [] (fun c => { c with streams := c.streams.set 2 (some twoPops) }), .mmas 14 20 63, 14, 20, 63, twoPops, List.replicate 16 (0, 0), issues_of (by decide +kernel), by decide +kernel, by decide +kernel, by decide +kernel, by decide +kernel, mmaFits_of (by decide +kernel),
   by decide +kernel, by decide +kernel, by decide +kernel, by decide +kernel, .inl rfl, by decide +kernel, by decide +kernel, walkFits_of rfl, by unfold QueueRoom; decide +kernel⟩
theorem test_PlaneCommands_no_stream : ∃ (s : State) (i : Instr) (a b : Reg) (g : Tag), s.Issues i ∧ i.wf = true ∧ mmaForm i = some (true, false, a, b, g) ∧ (s.view i).myBank.isSome = true ∧ (tagOf s g.toNat).st.isFree = true ∧
    MmaFits (s.view i) true false (val (s.seen i) a 1) (val (s.seen i) (a + 1) 1) ∧ fld ((s.view i).descWord (val (s.seen i) a 1) 0) 22 20 = 3 ∧ s.me.stream 2 = none ∧ CanTrap s :=
  ⟨inBank 0 [] id, .mmas 14 20 63, 14, 20, 63, issues_of (by decide +kernel), by decide +kernel, by decide +kernel, by decide +kernel, by decide +kernel, mmaFits_of (by decide +kernel), by decide +kernel, by decide +kernel, canTrap_of (by decide +kernel)⟩
theorem test_PlaneCommands_zero : ∃ (s : State) (a : Reg) (g : Tag), s.Issues (.mzero a g) ∧ (tagOf s g.toNat).st.isFree = true ∧ QueueRoom s (val (s.seen (.mzero a g)) a 1 / 16 % 16) :=
  ⟨here [(38, 0xFF)] id, 38, 63, issues_of (by decide +kernel), by decide +kernel, by unfold QueueRoom; decide +kernel⟩
theorem test_PlaneCommands_drain : ∃ (s : State) (a : Reg) (g : Tag) (fmt : Ty) (rnd : Rc), s.Issues (.mdrain a g) ∧ (Instr.mdrain a g).wf = true ∧ (tagOf s g.toNat).st.isFree = true ∧
    DrainFits (s.view (.mdrain a g)) (val (s.seen (.mdrain a g)) a 1) (val (s.seen (.mdrain a g)) (a + 1) 1) fmt rnd ∧ QueueRoom s (fld ((s.view (.mdrain a g)).descWord (val (s.seen (.mdrain a g)) a 1) 0) 51 48) :=
  ⟨inBank 0 [] id, 18, 63, .fp16, .rne, issues_of (by decide +kernel), by decide +kernel, by decide +kernel,
   ⟨by decide +kernel, by decide +kernel, by decide +kernel, by decide +kernel, by decide +kernel, by decide +kernel, by decide +kernel, by decide +kernel, by decide +kernel⟩, by unfold QueueRoom; decide +kernel⟩

/-- What the three forms of a skip-list command meet in the tests. -/
structure Skipping (s : State) (x : Stream) : Prop where
  issues : s.Issues (.mmas 14 20 63)
  wf : (Instr.mmas 14 20 63).wf = true
  bank : (s.view (.mmas 14 20 63)).myBank.isSome = true
  free : (tagOf s 63).st.isFree = true
  fits : MmaFits (s.view (.mmas 14 20 63)) true false (val (s.seen (.mmas 14 20 63)) 14 1) (val (s.seen (.mmas 14 20 63)) 15 1)
  octet : fld ((s.view (.mmas 14 20 63)).descWord (val (s.seen (.mmas 14 20 63)) 14 1) 0) 22 20 = 3
  stream : s.me.stream 2 = some x
/-- inBank with a changed stream on octet 2. -/
def skipping (f : Stream → Stream) : State := inBank 0 [] (fun c => { c with streams := c.streams.set 2 (some (f twoPops)) })
theorem test_PlaneCommands_over : ∃ (s : State) (x : Stream), Skipping s x ∧ x.npop ≤ x.pop ∧ CanTrap s :=
  ⟨skipping (fun x => { x with pop := 2 }), { twoPops with pop := 2 }, ⟨issues_of (by decide +kernel), by decide +kernel, by decide +kernel, by decide +kernel, mmaFits_of (by decide +kernel), by decide +kernel, by decide +kernel⟩, by decide, canTrap_of (by decide +kernel)⟩
theorem test_PlaneCommands_failed : ∃ (s : State) (x : Stream), Skipping s x ∧ x.pop < x.npop ∧ x.rf = true ∧ x.landed < x.pop * x.adv + 32 ∧ x.err ≠ 0 ∧ CanTrap s :=
  ⟨skipping (fun x => { x with rf := true, landed := 63, err := 0x50 }), { twoPops with rf := true, landed := 63, err := 0x50 }, ⟨issues_of (by decide +kernel), by decide +kernel, by decide +kernel, by decide +kernel, mmaFits_of (by decide +kernel), by decide +kernel, by decide +kernel⟩,
   by decide, rfl, by decide, by decide, canTrap_of (by decide +kernel)⟩
theorem test_PlaneCommands_not_landed : ∃ (s : State) (x : Stream), Skipping s x ∧ x.pop < x.npop ∧ x.rf = true ∧ x.landed < x.pop * x.adv + 32 ∧ x.err = 0 :=
  ⟨skipping (fun x => { x with rf := true, landed := 63 }), { twoPops with rf := true, landed := 63 }, ⟨issues_of (by decide +kernel), by decide +kernel, by decide +kernel, by decide +kernel, mmaFits_of (by decide +kernel), by decide +kernel, by decide +kernel⟩, by decide⟩
/-- A list whose first entry takes more blocks than the descriptor's two. -/
def tooFar : State := (skipping id).putBytes 0x120 0 [3, 0]
theorem test_PlaneCommands_skip_fails : ∃ (s : State) (x : Stream), Skipping s x ∧ x.pop < x.npop ∧ x.rf = false ∧ (s.view (.mmas 14 20 63)).windowPoison 2 = false ∧
    walkFailsAt (fld ((s.view (.mmas 14 20 63)).descWord (val (s.seen (.mmas 14 20 63)) 14 1) 0) 55 48) (skipEntries ((s.view (.mmas 14 20 63)).window s.cur x)) 0 0 = some 0 ∧ CanTrap s :=
  ⟨tooFar, twoPops, ⟨issues_of (by decide +kernel), by decide +kernel, by decide +kernel, by decide +kernel, mmaFits_of (by decide +kernel), by decide +kernel, by decide +kernel⟩, by decide, rfl, by decide +kernel, by decide +kernel, canTrap_of (by decide +kernel)⟩
theorem test_PlaneCommands_bad : ∃ (s : State) (i : Instr) (a b : Reg) (g : Tag) (o : Nat), s.Issues i ∧ i.wf = true ∧ mmaForm i = some (false, false, a, b, g) ∧ (s.view i).myBank.isSome = true ∧ (tagOf s g.toNat).st.isFree = true ∧
    mmaFault (s.view i) false false (val (s.seen i) a 1) (val (s.seen i) (a + 1) 1) = some o ∧ o ≠ 0 ∧ (s.view i).blockPoison (val (s.seen i) a 1) 32 = false ∧ CanTrap s :=
  ⟨(inBank 0 [] id).putBytes 0x110 0 [1], .mma 10 20 63, 10, 20, 63, 0x10, issues_of (by decide +kernel), by decide +kernel, by decide +kernel, by decide +kernel, by decide +kernel, by decide +kernel, by decide, by decide +kernel, canTrap_of (by decide +kernel)⟩
theorem test_PlaneCommands_drain_bad : ∃ (s : State) (a : Reg) (g : Tag) (o : Nat), s.Issues (.mdrain a g) ∧ (Instr.mdrain a g).wf = true ∧ (tagOf s g.toNat).st.isFree = true ∧
    drainFault (s.view (.mdrain a g)) (val (s.seen (.mdrain a g)) a 1) (val (s.seen (.mdrain a g)) (a + 1) 1) = some o ∧ (s.view (.mdrain a g)).blockPoison (val (s.seen (.mdrain a g)) a 1) 32 = false ∧ CanTrap s :=
  ⟨(inBank 0 [] id).putBytes 0x198 0 [1], 18, 63, 0x18, issues_of (by decide +kernel), by decide +kernel, by decide +kernel, by decide +kernel, by decide +kernel, canTrap_of (by decide +kernel)⟩
theorem test_PlaneCommands_drain_full : ∃ (s : State) (a : Reg) (g : Tag) (fmt : Ty) (rnd : Rc), s.Issues (.mdrain a g) ∧ (Instr.mdrain a g).wf = true ∧ (tagOf s g.toNat).st.isFree = true ∧
    DrainFits (s.view (.mdrain a g)) (val (s.seen (.mdrain a g)) a 1) (val (s.seen (.mdrain a g)) (a + 1) 1) fmt rnd ∧ ¬ QueueRoom s (fld ((s.view (.mdrain a g)).descWord (val (s.seen (.mdrain a g)) a 1) 0) 51 48) :=
  ⟨(inBank 0 [] id).modTile 0 0 (fun t => { t with cmds := List.replicate 16 (command (.zero []) .queued) }), 18, 63, .fp16, .rne, issues_of (by decide +kernel), by decide +kernel, by decide +kernel,
   ⟨by decide +kernel, by decide +kernel, by decide +kernel, by decide +kernel, by decide +kernel, by decide +kernel, by decide +kernel, by decide +kernel, by decide +kernel⟩, by unfold QueueRoom; decide +kernel⟩

/-- inBank with those commands on tile 0, which team slot 4 holds; the tag 63 stands for command 7. -/
def commanded (l : List MatCmd) : State := (inBank capab [(63, .busy .matrix, 0)] id).modTile 0 0 (fun t => { t with holder := some 4, cmds := l })
theorem append_low (h x : Word) : (h ++ x).extractLsb' 0 32 = x := by
  ext i hi
  rw [BitVec.getElem_extractLsb', Nat.zero_add, BitVec.getLsbD_append]
  simp [hi]
theorem append_high (h x : Word) (a n : Nat) : (h ++ x).extractLsb' (32 + a) n = h.extractLsb' a n := by
  ext i hi
  simp only [BitVec.getElem_extractLsb', BitVec.getLsbD_append]
  rw [if_neg (by omega), show 32 + a + i - 32 = a + i by omega]
theorem append_slot (h x : Word) : capSlot (h ++ x) = (h.extractLsb' 4 9).toNat := congrArg BitVec.toNat (append_high h x 4 9)
theorem append_bank (h x : Word) : capBank (h ++ x) = (h.extractLsb' 13 3).toNat := congrArg BitVec.toNat (append_high h x 13 3)
theorem append_tile (h x : Word) : capTiles (h ++ x) 0 = h.getLsbD 16 := by rw [capTiles, BitVec.getLsbD_append]; rfl
theorem append_chk (h x : Word) : (h ++ x).extractLsb' 0 32 = x ∧ (h ++ x).extractLsb' 32 32 = h :=
  ⟨append_low h x, (append_high h x 0 32).trans (by ext i hi; rw [BitVec.getElem_extractLsb', Nat.zero_add, BitVec.getLsbD_eq_getElem hi])⟩
theorem capab_slot : capSlot capab = 4 := (append_slot capHi _).trans (by decide)
theorem capab_bank : capBank capab = 2 := (append_bank capHi _).trans (by decide)
theorem capab_tile : capTiles capab 0 = true := (append_tile capHi _).trans (by decide)
theorem capab_chk : capab.extractLsb' 0 32 = Config.chk 0 (capab.extractLsb' 32 32) 0 0 :=
  (append_chk capHi _).1.trans (congrArg (fun h => Config.chk 0 h 0 0) (append_chk capHi (Config.chk 0 capHi 0 0)).2.symm)
theorem capOk_of {s : State} (u : s.boot.ups = 0) (h : (s.clus 0).slotCount = []) (g : (s.tile 0 0).holder = some 4) : s.capOk 0 0 capab = true := by
  simp only [State.capOk, u, h, g, capab_slot, capab_tile, ← capab_chk, Assoc.get, decide_true, Bool.and_true]
theorem capOk_tiles {s : State} {c n : Nat} {v : DWord} (h : capTiles v n = false) : s.capOk c n v = false := by rw [State.capOk, h, Bool.and_false, Bool.false_and]
theorem capOk_commanded (l : List MatCmd) : (commanded l).capOk 0 0 capab = true := capOk_of rfl rfl rfl
theorem cmdEntry_commanded (l : List MatCmd) : (commanded l).cmdEntry 0 capab 5 = entry5 := by rw [State.cmdEntry, capab_bank]; rfl
/-- The MMA of the descriptor at 0x100 without K blocks, and a drain of one element. -/
def anMma : MatKind := .mma 5 2 2 1 true true 0 4 0x1000 0 0 0 0 []
def aDrain (sat : Bool) : MatKind := .drain .fp16 .rne sat true 1 2 1 4 0x2800 0x3F800000
theorem test_PlaneSteps_nothing_queued : ∃ s : State, (∀ x ∈ (s.tile s.inp.clus s.inp.slot).cmds, x.phase ≠ .queued) := ⟨commanded [command anMma .ready], by decide +kernel⟩
/-- The hypotheses of the acceptance of the oldest queued command. -/
structure Oldest (s : State) (m : MatCmd) : Prop where
  found : (s.tile s.inp.clus s.inp.slot).cmds.find? (fun x => x.phase = .queued) = some m
  only : ∀ x ∈ (s.tile s.inp.clus s.inp.slot).cmds, x.id = m.id → x = m
  tag : m.tag < 64 ∧ ((s.core s.inp.clus m.pos.core).tag m.tag).op = m.id
theorem oldest_of (k : MatKind) (cap : DWord) : Oldest (commanded [{ command k .queued with capt := cap }]) { command k .queued with capt := cap } :=
  ⟨rfl, fun _ h _ => List.mem_singleton.mp h, (by decide +kernel : (63 : Nat) < 64), rfl⟩
theorem test_PlaneSteps_denied : ∃ (s : State) (m : MatCmd), Oldest s m ∧ s.capOk s.inp.clus s.inp.slot m.capt = false :=
  ⟨commanded [{ command anMma .queued with capt := 0 }], _, oldest_of anMma 0, capOk_tiles (by decide +kernel)⟩
theorem test_PlaneSteps_accepts_drain : ∃ (s : State) (m : MatCmd), Oldest s m ∧ s.capOk s.inp.clus s.inp.slot m.capt = true ∧ (∃ f r x y z n k d o q, m.kind = .drain f r x y z n k d o q) :=
  ⟨_, _, oldest_of (aDrain true) capab, capOk_commanded _, _, _, _, _, _, _, _, _, _, _, rfl⟩
theorem test_PlaneSteps_unfit : ∃ (s : State) (m : MatCmd), Oldest s m ∧ s.capOk s.inp.clus s.inp.slot m.capt = true ∧ m.kind = .mma 5 2 2 1 true true 0 4 0x1000 0 0 2 0 [] ∧
    tidUnfit (s.cmdEntry s.inp.clus m.capt 5) 2 2 2 0 0 0 = true :=
  ⟨_, _, oldest_of (.mma 5 2 2 1 true true 0 4 0x1000 0 0 2 0 []) capab, capOk_commanded _, rfl, (congrArg (fun e => tidUnfit e 2 2 2 0 0 0) (cmdEntry_commanded _)).trans (by decide +kernel)⟩
theorem test_PlaneSteps_accepts_mma : ∃ (s : State) (m m' : MatCmd), Oldest s m ∧ s.capOk s.inp.clus s.inp.slot m.capt = true ∧ m.kind = anMma ∧ s.acceptCmd s.inp.clus s.inp.slot m = .ok m' := by
  have f : tidUnfit entry5 2 0 2 0 0 0 = false := by decide +kernel
  have h : ∃ m', (commanded [{ command anMma .queued with capt := capab }]).acceptCmd 0 0 { command anMma .queued with capt := capab } = .ok m' := by
    simp only [State.acceptCmd, command, capOk_commanded, Bool.not_true, if_false, anMma, cmdEntry_commanded, f, Bool.false_eq_true]
    exact ⟨_, rfl⟩
  exact ⟨_, _, h.choose, oldest_of anMma capab, capOk_commanded _, rfl, h.choose_spec⟩
theorem test_PlaneSteps_starts : ∃ (s : State) (m : MatCmd) (l : List MatCmd), (s.tile s.inp.clus s.inp.slot).cmds = m :: l ∧ (∀ x ∈ l, x.id ≠ m.id) ∧ m.phase = .ready :=
  ⟨commanded [command anMma .ready, { command anMma .queued with id := 8 }], command anMma .ready, [{ command anMma .queued with id := 8 }], rfl, by decide, rfl⟩
theorem test_PlaneSteps_not_ready : ∃ (s : State) (m : MatCmd) (l : List MatCmd), (s.tile s.inp.clus s.inp.slot).cmds = m :: l ∧ (∀ x ∈ l, x.id ≠ m.id) ∧ m.phase ≠ .ready :=
  ⟨commanded [command anMma .fetching], command anMma .fetching, [], rfl, by decide, by decide⟩
/-- A command whose two blocks of B lie in one unit that it has read. -/
def reading : MatCmd := { command (.mma 5 1 1 1 false true 0 4 0x1000 0 0 0 0 [0]) .fetching with entry := entry5, units := [0x900], got := [(0x900, le 32 0x3C003C00)], pages := [(0x12, 0x1004000, 0)] }
theorem test_PlaneSteps_fetched : ∃ (s : State) (m : MatCmd) (n : Nat) (fmt : Ty), n < 16 ∧ (s.tile s.inp.clus n).cmds = [m] ∧ m.phase = .fetching ∧ (∀ k, k < 16 → k ≠ n → (s.tile s.inp.clus k).cmds = []) ∧
    (s.clus s.inp.clus).xfails = [] ∧ tidSeal m.entry = false ∧ tidFmt m.entry = some fmt ∧ (∀ u ∈ m.units, Assoc.has u m.got = true) ∧ (∀ u ∈ m.units, ∃ e ∈ m.pages, e.1 = u / 128) :=
  ⟨(inBank 0 [] id).modTile 0 0 (fun t => { t with cmds := [reading] }), reading, 0, .fp16, by decide, rfl, rfl, by decide +kernel, by decide +kernel, by decide +kernel, by decide +kernel, by decide +kernel, by decide +kernel⟩
theorem test_PlaneSteps_done : ∀ k ∈ [.mma 5 1 64 64 false true 1 4 0x1000 0 0 0 0 [0], MatKind.zero [0, 1], aDrain true, aDrain false], ∃ (s : State) (m : MatCmd), memWf s.mem = true ∧
    (s.tile s.inp.clus s.inp.slot).cmds.find? (fun x => x.phase = .running) = some m ∧ m.tag < 64 ∧ ((s.core s.inp.clus m.pos.core).tag m.tag).op = m.id ∧ m.kind = k ∧ m.bast = none ∧ (s.clus s.inp.clus).saved = [] ∧ m.pos.core < 128 :=
  fun k _ => ⟨commanded [command k .running], command k .running, (by decide +kernel : memWf (inBank capab [(63, .busy .matrix, 0)] id).mem = true), rfl, (by decide : (63 : Nat) < 64), rfl, rfl, rfl, rfl, (by decide : (0 : Nat) < 128)⟩

/-! ### Witnesses: milestones, watches, barriers, convoys, messages -/

theorem direct_of {s : State} {i : Instr} (h : s.Issues i) (g : i.wf = true ∧ memWf s.mem = true ∧ (s.core s.cur.clus s.cur.core).sb = [] ∧ (s.core s.cur.clus s.cur.core).l1 = [] ∧ s.me.basting = false ∧
    s.me.bast = none ∧ s.octets i = [] ∧ (s.view i).replaying s.cur = false) : Direct s i := ⟨h, g.1, g.2.1, g.2.2.1, g.2.2.2.1, g.2.2.2.2.1, g.2.2.2.2.2.1, g.2.2.2.2.2.2.1, g.2.2.2.2.2.2.2⟩
/-- The page that home address 0x10000 translates to. -/
def page0 : TlbEntry := ⟨0, .home, 0x10000, 0x1000, 0x1004000, 0, .normal, true, true, true, none⟩
/-- A watch of the last milestone below 2^64. -/
def aWatch : WatchEntry := ⟨9, 0, 0, 0, 63, 0x1004038, 0, 0xFFFFFFFFFFFFFFFF, 7⟩
theorem test_Milestones_raise : ∃ (s : State) (i : Instr) (a : Reg) (f : Nat → Nat) (pa : Nat) (x : TlbEntry), Direct s i ∧ advanceForm (s.seen i) i = some (a, f) ∧
    Reaches (s.view i) .home (BitVec.ofNat 64 (val (s.seen i) a 2)) 8 .atomic pa x ∧ pa % 8 = 0 ∧ bytesVal (s.bytesAt pa x.key 8) < f (bytesVal (s.bytesAt pa x.key 8)) ∧
    f (bytesVal (s.bytesAt pa x.key 8)) < 2 ^ 64 ∧ ∃ w ∈ (s.clus s.cur.clus).watches, w.pa = pa ∧ w.thr.toNat ≤ f (bytesVal (s.bytesAt pa x.key 8)) ∧ w.opkg = s.pkg :=
  ⟨(at_ 0x10038 [(4, 0xFFFFFFFF), (5, 0xFFFFFFFF)] id).modClus 0 (fun k => { k with watches := [aWatch] }), .pub 2 4, 2, _, 0x1004038, page0, direct_of (issues_of (by decide +kernel)) (by decide +kernel), rfl,
   reaches_of (by decide +kernel), by decide +kernel, by decide +kernel, by decide +kernel, aWatch, by decide +kernel, by decide +kernel⟩
theorem test_Milestones_regress : ∃ (s : State) (i : Instr) (a : Reg) (f : Nat → Nat) (pa : Nat) (x : TlbEntry), Direct s i ∧ advanceForm (s.seen i) i = some (a, f) ∧
    Reaches (s.view i) .home (BitVec.ofNat 64 (val (s.seen i) a 2)) 8 .atomic pa x ∧ pa % 8 = 0 ∧ 2 ^ 64 ≤ f (bytesVal (s.bytesAt pa x.key 8)) ∧ CanTrap s :=
  ⟨(at_ 0x10038 [] id).putBytes 0x1004038 0 (List.replicate 8 0xFF), .pubi 2 1, 2, _, 0x1004038, page0, direct_of (issues_of (by decide +kernel)) (by decide +kernel), rfl, reaches_of (by decide +kernel), by decide +kernel,
   by decide +kernel, canTrap_of (by decide +kernel)⟩
theorem test_Milestones_align : ∃ (s : State) (i : Instr) (a : Reg) (f : Nat → Nat), Direct s i ∧ advanceForm (s.seen i) i = some (a, f) ∧ val (s.seen i) a 2 % 8 ≠ 0 ∧ CanTrap s :=
  ⟨at_ 0x10004 [] id, .pub 2 4, 2, _, direct_of (issues_of (by decide +kernel)) (by decide +kernel), rfl, by decide +kernel, canTrap_of (by decide +kernel)⟩

/-- A watch block of the address at the end of the core store. -/
def watching (addr : Nat) (f : Ctx → Ctx) : State := (tagged [(1, .busy (.watch 7 0x100 0), 0), (2, .busy .coll, 0)] [(6, 0x7FE0), (8, 0x8000)] f).putBytes 0x7FE0 0 (le 8 addr ++ le 8 5)
theorem test_Watches_issue : ∃ (s : State) (a : Reg) (g : Tag) (pa : Nat) (x : TlbEntry), s.Issues (.watch a g) ∧ (Instr.watch a g).wf = true ∧ (tagOf s g.toNat).st.isFree = true ∧ val (s.seen (.watch a g)) a 1 % 32 = 0 ∧
    val (s.seen (.watch a g)) a 1 + 32 ≤ 0x8000 ∧ ((s.view (.watch a g)).descWord (val (s.seen (.watch a g)) a 1) 0).toNat < 2 ^ 48 ∧ (s.view (.watch a g)).blockPoison (val (s.seen (.watch a g)) a 1) 16 = false ∧
    ((s.view (.watch a g)).descWord (val (s.seen (.watch a g)) a 1) 0).toNat % 8 = 0 ∧
    (s.view (.watch a g)).translate s.cur.clus (.ctx s.cur) s.me.aspc .read ((s.view (.watch a g)).descWord (val (s.seen (.watch a g)) a 1) 0) .watch = .ok pa x ∧ s.dead.getLsbD (paPkg pa) = false ∧ (x.type = .normal ∨ x.type = .swm) ∧
    s.me.basting = false ∧ paPkg pa = s.pkg :=
  ⟨watching 0x12FF8 id, 6, 63, 0x1004FF8, ⟨0, .read, 0x12000, 0x1000, 0x1004000, 0, .normal, true, true, true, none⟩, issues_of (by decide +kernel), by decide +kernel⟩
theorem test_Watches_dead : ∃ (s : State) (a : Reg) (g : Tag) (pa : Nat) (x : TlbEntry), s.Issues (.watch a g) ∧ (Instr.watch a g).wf = true ∧ (tagOf s g.toNat).st.isFree = true ∧
    (s.view (.watch a g)).translate s.cur.clus (.ctx s.cur) s.me.aspc .read ((s.view (.watch a g)).descWord (val (s.seen (.watch a g)) a 1) 0) .watch = .ok pa x ∧ s.dead.getLsbD (paPkg pa) = true ∧ CanTrap s :=
  ⟨{ watching 0x16000 id with dead := 1 <<< 9 }, 6, 63, mkPa 9 0 0x1004000, ⟨0, .read, 0x16000, 0x1000, mkPa 9 0 0x1004000, 0, .normal, true, true, true, none⟩, issues_of (by decide +kernel), by decide +kernel, by decide +kernel, by decide +kernel,
   by decide +kernel, canTrap_of (by decide +kernel)⟩
theorem test_Watches_bad_block : ∃ (s : State) (a : Reg) (g : Tag), s.Issues (.watch a g) ∧ (Instr.watch a g).wf = true ∧ (tagOf s g.toNat).st.isFree = true ∧ 0x8000 < val (s.seen (.watch a g)) a 1 + 32 ∧ CanTrap s :=
  ⟨watching 0 id, 8, 63, issues_of (by decide +kernel), by decide +kernel, by decide +kernel, by decide +kernel, canTrap_of (by decide +kernel)⟩
theorem test_Watches_unwatch : ∃ s : State, s.Issues (.unwatch 4 0) ∧ (tagOf s 0).st = .free ∧ s.Issues (.unwatch 4 1) ∧ (tagOf s 1).st = .busy (.watch 7 0x100 0) ∧ s.Issues (.unwatch 4 2) ∧ (tagOf s 2).st = .busy .coll ∧ CanTrap s :=
  ⟨watching 0 id, issues_of (by decide +kernel), by decide +kernel, issues_of (by decide +kernel), by decide +kernel, issues_of (by decide +kernel), by decide +kernel, canTrap_of (by decide +kernel)⟩
def watchItem : WatchItem := ⟨0, 0, 0, 0, 63, 0x1004038, 0, 1, 7⟩
theorem test_Watches_request : ∃ (s : State) (it : WatchItem), s.inp.load = .watch it ∧ paPkg it.pa = s.pkg ∧ it.opkg = s.pkg ∧ (s.ownerRefuses it.fn it.pa = false ∧ s.keyOk it.oclus it.pa it.key = true) ∧ s.poison.contains (it.pa / 64) = false ∧
    bytesVal (s.bytesAt it.pa it.key 8) < it.thr.toNat ∧ (s.clus (paClus it.pa)).watches.length < 1024 := ⟨with_ (here [] id) { load := .watch watchItem }, watchItem, by decide +kernel⟩
theorem test_Watches_request_met : ∃ (s : State) (it : WatchItem), s.inp.load = .watch it ∧ paPkg it.pa = s.pkg ∧ it.opkg = s.pkg ∧ (s.ownerRefuses it.fn it.pa = false ∧ s.keyOk it.oclus it.pa it.key = true) ∧ s.poison.contains (it.pa / 64) = false ∧
    it.thr.toNat ≤ bytesVal (s.bytesAt it.pa it.key 8) := ⟨with_ (here [] id) { load := .watch { watchItem with thr := 0 } }, { watchItem with thr := 0 }, by decide +kernel⟩
theorem test_Watches_request_refused : ∃ (s : State) (it : WatchItem), s.inp.load = .watch it ∧ paPkg it.pa = s.pkg ∧ it.opkg ≠ s.pkg ∧
    ((paRegion it.pa).isHbm = true ∧ ¬ HoldsSlot s it.key it.fn) :=
  ⟨with_ (here [] id) { load := .watch { watchItem with opkg := 1, pa := 0x100000000 } }, { watchItem with opkg := 1, pa := 0x100000000 }, rfl, by decide +kernel, by decide, by decide +kernel, fun h => h.1 (by decide +kernel)⟩
theorem test_Watches_poll : ∃ (s : State) (w : WatchEntry), (s.clus s.inp.clus).polls.find? (fun w => w.id = s.inp.id) = some w ∧ paPkg w.pa = s.pkg ∧ s.dead.getLsbD s.pkg = false ∧
    (s.ownerRefuses (s.clus w.oclus).fn w.pa = false ∧ s.keyOk w.oclus w.pa w.key = true) ∧ s.poison.contains (w.pa / 64) = false ∧ bytesVal (s.bytesAt w.pa w.key 8) < w.thr.toNat :=
  ⟨with_ ((here [] id).modClus 0 (fun k => { k with polls := [aWatch] })) { id := 9 }, aWatch, by decide +kernel⟩
theorem test_Watches_poll_met : ∃ (s : State) (w : WatchEntry), (s.clus s.inp.clus).polls.find? (fun w => w.id = s.inp.id) = some w ∧ paPkg w.pa = s.pkg ∧ s.dead.getLsbD s.pkg = false ∧
    (s.ownerRefuses (s.clus w.oclus).fn w.pa = false ∧ s.keyOk w.oclus w.pa w.key = true) ∧ s.poison.contains (w.pa / 64) = false ∧ w.thr.toNat ≤ bytesVal (s.bytesAt w.pa w.key 8) :=
  ⟨with_ (((here [] id).modClus 0 (fun k => { k with polls := [aWatch] })).putBytes 0x1004038 0 (List.replicate 8 0xFF)) { id := 9 }, aWatch, by decide +kernel⟩
def doneOf (status : Byte) : DoneItem := ⟨0, 0, 63, 0, 1, 5, 8, status, 7, 0x1004038, 0⟩
theorem test_Watches_done_full : ∃ (s : State) (it : DoneItem) (w : WatchEntry), s.inp.load = .done it ∧ it.status = 0xFF ∧ (s.clus it.clus).asked.find? (fun w => w.op = it.op) = some w :=
  ⟨with_ ((here [] id).modClus 0 (fun k => { k with asked := [aWatch] })) { load := .done (doneOf 0xFF) }, doneOf 0xFF, aWatch, by decide +kernel⟩
theorem test_Watches_done : ∀ status ∈ [(0 : Byte), 0x50], ∃ (s : State) (it : DoneItem) (blk p : Nat), s.inp.load = .done it ∧ it.core < 128 ∧ it.tag < 64 ∧ memWf s.mem = true ∧ blk % 32 = 0 ∧ blk + 32 ≤ 0x8000 ∧ (s.clus it.clus).saved = [] ∧
    (s.ctx ⟨it.clus, it.core, ((s.core it.clus it.core).tag it.tag).ctx⟩).bast = none ∧ ((s.core it.clus it.core).tag it.tag).st = .busy (.watch it.op blk p) ∧ ((s.core it.clus it.core).tag it.tag).op = it.op ∧
    it.status = status ∧ (it.opkg ≠ s.pkg ∨ it.oclus ≠ it.clus) :=
  fun status h => ⟨with_ (tagged [(63, .busy (.watch 7 0x7FE0 0), 0)] [] id) { load := .done (doneOf status) }, doneOf status, 0x7FE0, 0, by fin_cases h <;> decide +kernel⟩
theorem test_Watches_answer : ∃ (s : State) (g : Nat) (d : Reg) (n b p : Nat), g < 64 ∧ (s.ctx s.inp.pos).st = .blocked (.unwatch g d) ∧ (s.ctx s.inp.pos).spop = [] ∧ (s.ctx s.inp.pos).depth = 0 ∧
    ((s.core s.inp.pos.clus s.inp.pos.core).tag g).st = .busy (.watch n b p) ∧ s.watchStands n = true ∧ s.pollOut n = false :=
  ⟨(watching 0 (fun c => { c with st := .blocked (.unwatch 1 4) })).modClus 0 (fun k => { k with watches := [aWatch] }), 1, 4, 7, 0x100, 0, by decide +kernel⟩
theorem test_Watches_answer_done : ∃ (s : State) (g : Nat) (d : Reg), g < 64 ∧ (s.ctx s.inp.pos).st = .blocked (.unwatch g d) ∧ (s.ctx s.inp.pos).spop = [] ∧ (s.ctx s.inp.pos).depth = 0 ∧
    ((s.core s.inp.pos.clus s.inp.pos.core).tag g).st = .done := ⟨tagged [(63, .done, 0)] [] (fun c => { c with st := .blocked (.unwatch 63 4) }), 63, 4, by decide +kernel⟩

/-- The context and its neighbour make a team; the neighbour waits with w. -/
def teamed (v : Nat) (w : Wait) (f : Ctx → Ctx) : State :=
  ((at_ 0x10038 [(4, 0x203)] (fun c => f { c with slot := some 4 })).setCtx ⟨0, 1, 0⟩ { Ctx.reset with slot := some 4, st := .blocked w }).putBytes 0x1004038 0 (le 8 v)
theorem test_Barriers : ∀ e ∈ [(Instr.bar 2, 1, true), (Instr.bar 2, 0, true), (Instr.bara 6 2, 1, true), (Instr.barw 2 6, 0, true), (Instr.barw 2 4, 0, true), (Instr.bar 2, 0, false)],
    ∃ (s : State) (pa : Nat) (x : TlbEntry), Direct s e.1 ∧ pa % 8 = 0 ∧ teamCount s s.cur = 2 ∧ Reaches (s.view e.1) .home (BitVec.ofNat 64 (val (s.seen e.1) 2 2)) 8 .atomic pa x ∧ s.me.pend = none ∧ bytesVal (s.bytesAt pa x.key 8) = e.2.1 ∧
      (s.view e.1).barForeign pa = !e.2.2 ∧ CanTrap s := by
  intro e h
  refine ⟨teamed e.2.1 (.bar 0x1004038 0 0) (fun c => if e.2.2 then c else { c with slot := some 5 }) |>.setCtx ⟨0, 2, 0⟩ { Ctx.reset with slot := some 5 }, 0x1004038, page0, ?_⟩
  fin_cases h <;> exact ⟨direct_of (issues_of (by decide +kernel)) (by decide +kernel), by decide +kernel, by decide +kernel, reaches_of (by decide +kernel), by decide +kernel, by decide +kernel, by decide +kernel, canTrap_of (by decide +kernel)⟩
theorem test_Barriers_pending : ∀ v ∈ [0, 2 ^ 32], ∃ (s : State) (pa : Nat) (x : TlbEntry), Direct s (.bar 2) ∧ pa % 8 = 0 ∧ teamCount s s.cur ≤ 512 ∧ Reaches (s.view (.bar 2)) .home (BitVec.ofNat 64 (val (s.seen (.bar 2)) 2 2)) 8 .atomic pa x ∧
    s.me.pend = some (BitVec.ofNat 64 (val (s.seen (.bar 2)) 2 2), 0) ∧ bytesVal (s.bytesAt pa x.key 8) = v ∧ (s.view (.bar 2)).barForeign pa = false := by
  intro v h
  refine ⟨teamed v .recv (fun c => { c with pend := some (0x10038, 0) }), 0x1004038, page0, ?_⟩
  fin_cases h <;> exact ⟨direct_of (issues_of (by decide +kernel)) (by decide +kernel), by decide +kernel, by decide +kernel, reaches_of (by decide +kernel), by decide +kernel, by decide +kernel, by decide +kernel⟩

theorem test_Convoys_forms : ∃ (s : State) (m : Reg), s.Issues (.convoy m) ∧ s.octets (.convoy m) = [] ∧ convoyNamed s.cur ((s.seen (.convoy m)).reg m) = [⟨0, 0, 0⟩, ⟨0, 1, 0⟩] ∧
    (∀ q ∈ convoyNamed s.cur ((s.seen (.convoy m)).reg m), (s.ctx q).slot = s.me.slot ∧ (s.ctx q).slot ≠ none ∧ (s.ctx q).member = false ∧ (s.ctx q).pc = s.me.pc ∧ (s.ctx q).depth = 0 ∧ (s.ctx q).spop = []) ∧
    (s.ctx ⟨0, 1, 0⟩).st = .blocked .convoy ∧ (s.ctx ⟨0, 1, 0⟩).convoyWait = some ((s.seen (.convoy m)).reg m &&& 0x3FF) :=
  ⟨(teamed 0 .convoy id).modCtx ⟨0, 1, 0⟩ (fun c => { c with convoyWait := some 3 }) |>.modMe (fun c => c.setReg 8 3), 8, issues_of (by decide +kernel), by decide +kernel⟩
theorem test_Convoys_waits : ∃ (s : State) (m : Reg), s.Issues (.convoy m) ∧ s.octets (.convoy m) = [] ∧ 2 ≤ (convoyNamed s.cur ((s.seen (.convoy m)).reg m)).length ∧ s.cur ∈ convoyNamed s.cur ((s.seen (.convoy m)).reg m) ∧
    (∀ q ∈ convoyNamed s.cur ((s.seen (.convoy m)).reg m), (s.ctx q).slot = s.me.slot ∧ (s.ctx q).slot ≠ none ∧ (s.ctx q).member = false) ∧ (s.ctx ⟨0, 1, 0⟩).st = .blocked .recv :=
  ⟨(teamed 0 .recv id).modMe (fun c => c.setReg 8 3), 8, issues_of (by decide +kernel), by decide +kernel⟩
theorem test_Convoys_refused : ∃ (s : State), CanTrap s ∧ (s.Issues (.convoy 6) ∧ (convoyNamed s.cur ((s.seen (.convoy 6)).reg 6)).length < 2) ∧
    (s.Issues (.convoy 8) ∧ 2 ≤ (convoyNamed s.cur ((s.seen (.convoy 8)).reg 8)).length ∧ s.cur ∉ convoyNamed s.cur ((s.seen (.convoy 8)).reg 8)) ∧
    (s.Issues (.convoy 10) ∧ 2 ≤ (convoyNamed s.cur ((s.seen (.convoy 10)).reg 10)).length ∧ s.cur ∈ convoyNamed s.cur ((s.seen (.convoy 10)).reg 10) ∧
      ∃ q ∈ convoyNamed s.cur ((s.seen (.convoy 10)).reg 10), (s.ctx q).slot ≠ s.me.slot ∨ (s.ctx q).slot = none) :=
  ⟨(teamed 0 .recv id).modMe (fun c => (c.setReg 8 6).setReg 10 5), canTrap_of (by decide +kernel), ⟨issues_of (by decide +kernel), by decide +kernel⟩, ⟨issues_of (by decide +kernel), by decide +kernel⟩, issues_of (by decide +kernel), by decide +kernel⟩
theorem test_Convoys_outside : ∃ s : State, s.me.convoy = none ∧ s.Issues .cjoin ∧ s.Issues .cleave := ⟨here [] id, by decide +kernel, issues_of (by decide +kernel), issues_of (by decide +kernel)⟩
theorem test_Convoys_inside : ∃ (s : State) (v : Convoy), s.me.convoy = some v ∧ v.id ≠ 0 ∧ v.leader = true ∧ v.inside = true ∧ s.me.depth = 0 ∧ s.Issues .cjoin ∧ s.Issues .cleave ∧
    ∃ q, q ∈ s.participants s.cur v.id ∧ q ≠ s.cur ∧ (s.ctx q).st ≠ .halted ∧ (s.ctx q).st ≠ .blocked .cjoin ∧ (∀ y, (s.ctx q).convoy = some y → y.queue = []) :=
  ⟨(teamed 0 .forward (fun c => { c with convoy := some ⟨5, true, true, []⟩ })).modCtx ⟨0, 1, 0⟩ (fun c => { c with convoy := some ⟨5, false, true, []⟩ }), ⟨5, true, true, []⟩, by decide +kernel, by decide +kernel, rfl, rfl, by decide +kernel,
   issues_of (by decide +kernel), issues_of (by decide +kernel), ⟨0, 1, 0⟩, by decide +kernel, by decide +kernel, by decide +kernel, by decide +kernel, fun y h => by cases h; rfl⟩

theorem test_Messages_send : ∃ (s : State) (src dst d : Reg), Direct s (.send src dst) ∧ Direct s (.sendt d src dst) ∧ s.me.ans = none ∧ s.dead.getLsbD (val (s.seen (.send src dst)) dst 1 / 2 ^ 20) = false ∧
    val (s.seen (.send src dst)) dst 1 / 2 ^ 20 = s.pkg ∧ val (s.seen (.sendt d src dst)) dst 1 / 2 ^ 20 = s.pkg :=
  ⟨here [(2, 0x40)] id, 8, 2, 6, direct_of (issues_of (by decide +kernel)) (by decide +kernel), direct_of (issues_of (by decide +kernel)) (by decide +kernel), by decide +kernel⟩
theorem test_Messages_dead : ∃ (s : State) (src dst d : Reg), s.Issues (.send src dst) ∧ s.Issues (.sendt d src dst) ∧ s.me.ans = none ∧ (s.view (.send src dst)).replaying s.cur = false ∧
    s.dead.getLsbD (val (s.seen (.send src dst)) dst 1 / 2 ^ 20) = true ∧ CanTrap s :=
  ⟨{ here [(2, 0xFFF00040)] id with dead := 1 <<< 0xFFF }, 8, 2, 6, issues_of (by decide +kernel), issues_of (by decide +kernel), by decide +kernel, by decide +kernel, by decide +kernel, canTrap_of (by decide +kernel)⟩
theorem test_Messages_awaited : ∃ (s : State) (src dst : Reg), s.Issues (.send src dst) ∧ s.me.ans ≠ none := ⟨here [] (fun c => { c with ans := some (.sendt, 6) }), 8, 2, issues_of (by decide +kernel), by decide +kernel⟩
/-- A mailbox that holds a message for context 3 and one for context 0. -/
def mailed : State := (here [] id).modCore 0 0 (fun k => { k with mail := [⟨3, List.replicate 8 1⟩, ⟨0, List.replicate 8 2⟩] })
theorem test_Messages_receive : ∃ (s : State) (d r : Reg) (l1 l2 : List Msg) (m : Msg), (s.core s.cur.clus s.cur.core).mail = l1 ++ m :: l2 ∧ (∀ x ∈ l1, x.ctx ≠ s.cur.ctx) ∧ m.ctx = s.cur.ctx ∧ m.body.length = 8 ∧
    (s.core s.cur.clus s.cur.core).senders = [] ∧ (s.clus s.cur.clus).waitMsgs = [] ∧ s.Issues (.recv d) ∧ (Instr.recv d).wf = true ∧ s.Issues (.recvt d r) ∧ (Instr.recvt d r).wf = true :=
  ⟨mailed, 8, 6, [⟨3, List.replicate 8 1⟩], [], ⟨0, List.replicate 8 2⟩, by decide +kernel, by decide +kernel, rfl, rfl, by decide +kernel, by decide +kernel, issues_of (by decide +kernel), by decide +kernel, issues_of (by decide +kernel), by decide +kernel⟩
theorem test_Messages_none : ∃ (s : State) (d r : Reg), (∀ x ∈ (s.core s.cur.clus s.cur.core).mail, x.ctx ≠ s.cur.ctx) ∧ s.Issues (.recv d) ∧ s.Issues (.recvt d r) := ⟨here [] id, 8, 6, by decide +kernel, issues_of (by decide +kernel), issues_of (by decide +kernel)⟩
/-- A message to core 0, context 0 of this package. -/
def aMsg : MsgItem := ⟨0, ⟨0, 1, 0⟩, 9, 5, true, 0, List.replicate 8 9⟩
def routed (f : Ctx → Ctx) (l : List Msg) : State := with_ ((here [] (fun c => f { c with slot := some 4, lnch := 5 })).modCore 0 0 (fun k => { k with mail := l })) { load := .msg aMsg }
theorem test_Messages_router : ∃ (s : State) (it : MsgItem), s.inp.load = .msg it ∧ destPkg it.dest = s.pkg ∧ it.opkg = s.pkg ∧ (s.ctx (destPos it.dest)).slot ≠ none ∧ (s.ctx (destPos it.dest)).lnch = it.launch ∧
    (s.core (destPos it.dest).clus (destPos it.dest).core).mail.length = 15 ∧ (s.ctx (destPos it.dest)).st = .blocked .recv :=
  ⟨routed (fun c => { c with st := .blocked .recv }) (List.replicate 15 ⟨3, []⟩), aMsg, by decide +kernel⟩
theorem test_Messages_router_full : ∃ (s : State) (it : MsgItem), s.inp.load = .msg it ∧ destPkg it.dest = s.pkg ∧ it.opkg = s.pkg ∧ (s.ctx (destPos it.dest)).slot ≠ none ∧ (s.ctx (destPos it.dest)).lnch = it.launch ∧
    16 ≤ (s.core (destPos it.dest).clus (destPos it.dest).core).mail.length := ⟨routed id (List.replicate 16 ⟨3, []⟩), aMsg, by decide +kernel⟩
theorem test_Messages_router_refuses : ∃ (s : State) (it : MsgItem), s.inp.load = .msg it ∧ destPkg it.dest = s.pkg ∧ it.opkg = s.pkg ∧ (s.ctx (destPos it.dest)).lnch ≠ it.launch ∧ (s.clus (destPos it.dest).clus).saved = [] :=
  ⟨routed (fun c => { c with lnch := 6 }) [], aMsg, by decide +kernel⟩
/-- The router has message 8 of launch (0, 5) out, for context 0 of core 0. -/
def sent (f : Ctx → Ctx) : State := (here [] (fun c => f { c with lnch := 5 })).modClus 0 (fun k => { k with outMsgs := [(8, ⟨(0, 5), 0, ⟨0, 0, 0⟩⟩)], counters := [((0, 5), { miss := 1 })] })
theorem test_Messages_counted : ∃ (s : State) (o : OutMsg), s.inp.load = .msgAns .refuse ∧ s.inp.pos.ctx < 8 ∧ (s.clus s.inp.pos.clus).saved = [] ∧ (s.clus s.inp.pos.clus).outMsg s.inp.id = some o ∧ Assoc.has o.launch (s.clus s.inp.pos.clus).counters = true ∧
    (s.ctx s.inp.pos).ansId ≠ s.inp.id := ⟨with_ (sent id) { load := .msgAns .refuse, id := 8 }, ⟨(0, 5), 0, ⟨0, 0, 0⟩⟩, by decide +kernel⟩
theorem test_Messages_answer : ∀ a ∈ [MsgAns.accept, .full, .notify, .refuse, .dead], ∃ s : State, s.inp.load = .msgAns a ∧ s.inp.pos.ctx < 8 ∧ (s.clus s.inp.pos.clus).saved = [] ∧ (s.clus s.inp.pos.clus).outMsg s.inp.id ≠ none ∧ (s.ctx s.inp.pos).ansId = s.inp.id ∧ (s.ctx s.inp.pos).ans = some (.send, 0) ∧
    (s.ctx s.inp.pos).st = .blocked (.answer .send) ∧ (s.ctx s.inp.pos).spop = [] ∧ (s.ctx s.inp.pos).depth = 0 ∧ (s.ctx s.inp.pos).full = true ∧ (s.ctx s.inp.pos).basting = false ∧ (s.ctx s.inp.pos).stop = false ∧ (s.ctx s.inp.pos).last = false ∧ (s.ctx s.inp.pos).intrap = false :=
  fun a h => ⟨with_ (sent (fun c => { c with ans := some (.send, 0), ansId := 8, st := .blocked (.answer .send), full := true })) { load := .msgAns a, id := 8 }, by fin_cases h <;> decide +kernel⟩
theorem test_Messages_answer_sendt : ∃ (s : State) (r : Reg), s.inp.load = .msgAns .dead ∧ s.inp.pos.ctx < 8 ∧ (s.clus s.inp.pos.clus).saved = [] ∧ (s.clus s.inp.pos.clus).outMsg s.inp.id ≠ none ∧ (s.ctx s.inp.pos).ansId = s.inp.id ∧ (s.ctx s.inp.pos).ans = some (.sendt, r) :=
  ⟨with_ (sent (fun c => { c with ans := some (.sendt, 6), ansId := 8, unready := [⟨6, 1, none⟩] })) { load := .msgAns .dead, id := 8 }, 6, by decide +kernel⟩

theorem test_Enqueueing_record : ∃ (s : State) (src q : Reg), Direct s (.enq src q) ∧ Direct s (.enqt 6 src q) ∧ s.me.ans = none ∧ val (s.seen (.enq src q)) q 1 < 2 ^ 31 ∧ val (s.seen (.enq src q)) src 1 % 64 = 0 ∧
    val (s.seen (.enq src q)) src 1 + 256 = 0x8000 ∧ (s.view (.enq src q)).blockPoison (val (s.seen (.enq src q)) src 1) 256 = false ∧ (s.clus s.cur.clus).unfenced = [] :=
  ⟨here [(2, 0x7F00), (3, 0x7FFFFFFF)] id, 2, 3, direct_of (issues_of (by decide +kernel)) (by decide +kernel), direct_of (issues_of (by decide +kernel)) (by decide +kernel), by decide +kernel⟩
theorem test_Enqueueing_growth : ∃ (s : State) (src q : Reg), Direct s (.enq src q) ∧ s.me.ans = none ∧ 2 ^ 31 ≤ val (s.seen (.enq src q)) q 1 ∧ (s.clus s.cur.clus).unfenced = [] :=
  ⟨here [(3, 0x80000000)] id, 2, 3, direct_of (issues_of (by decide +kernel)) (by decide +kernel), by decide +kernel⟩
theorem test_Enqueueing_bound : ∃ (s : State) (src q : Reg), s.Issues (.enq src q) ∧ s.me.ans = none ∧ (s.view (.enq src q)).replaying s.cur = false ∧ val (s.seen (.enq src q)) q 1 < 2 ^ 31 ∧ CanTrap s ∧
    val (s.seen (.enq src q)) src 1 % 64 = 0 ∧ 0x8000 < val (s.seen (.enq src q)) src 1 + 256 :=
  ⟨here [(2, 0x7F40)] id, 2, 3, issues_of (by decide +kernel), by decide +kernel, by decide +kernel, by decide +kernel, canTrap_of (by decide +kernel), by decide +kernel⟩
theorem test_Enqueueing_align : ∃ (s : State) (src q : Reg), s.Issues (.enq src q) ∧ s.me.ans = none ∧ (s.view (.enq src q)).replaying s.cur = false ∧ val (s.seen (.enq src q)) q 1 < 2 ^ 31 ∧ CanTrap s ∧ val (s.seen (.enq src q)) src 1 % 64 ≠ 0 :=
  ⟨here [(2, 0x20)] id, 2, 3, issues_of (by decide +kernel), by decide +kernel, by decide +kernel, by decide +kernel, canTrap_of (by decide +kernel), by decide +kernel⟩
theorem test_Enqueueing_answer : ∀ n ∈ [0, 1, 2, 3, 4], ∃ (s : State) (r : Reg), s.inp.n = n ∧ s.inp.pos.ctx < 8 ∧ (s.clus s.inp.pos.clus).saved = [] ∧ (s.inp.n ≠ 4 → (s.clus s.inp.pos.clus).outMsg s.inp.id ≠ none) ∧ (s.ctx s.inp.pos).ans = some (.enq, r) ∧
    (s.ctx s.inp.pos).ansId = s.inp.id ∧ (s.ctx s.inp.pos).enqts = [] ∧ (s.ctx s.inp.pos).st = .blocked (.answer .enq) ∧ (s.ctx s.inp.pos).spop = [] ∧ (s.ctx s.inp.pos).depth = 0 ∧ (s.ctx s.inp.pos).full = true ∧ (s.ctx s.inp.pos).basting = false ∧
    (s.ctx s.inp.pos).stop = false ∧ (s.ctx s.inp.pos).last = false ∧ (s.ctx s.inp.pos).intrap = false :=
  fun n h => ⟨with_ (sent (fun c => { c with ans := some (.enq, 0), ansId := 8, st := .blocked (.answer .enq), full := true })) { n := n, id := 8 }, 0, by fin_cases h <;> decide +kernel⟩
theorem test_Enqueueing_counted : ∃ (s : State) (o : OutMsg), s.inp.pos.ctx < 8 ∧ (s.clus s.inp.pos.clus).saved = [] ∧ s.inp.n = 1 ∧ (s.clus s.inp.pos.clus).outMsg s.inp.id = some o ∧ Assoc.has o.launch (s.clus s.inp.pos.clus).counters = true :=
  ⟨with_ (sent id) { n := 1, id := 8 }, ⟨(0, 5), 0, ⟨0, 0, 0⟩⟩, by decide +kernel⟩
theorem test_Enqueueing_answer_enqt : ∃ (s : State) (r : Reg), s.inp.pos.ctx < 8 ∧ (s.clus s.inp.pos.clus).saved = [] ∧ s.inp.n < 4 ∧ (s.clus s.inp.pos.clus).outMsg s.inp.id ≠ none ∧ (r, s.inp.id) ∈ (s.ctx s.inp.pos).enqts ∧
    (∀ e ∈ (s.ctx s.inp.pos).enqts, e.2 = s.inp.id → e.1 = r) :=
  ⟨with_ (sent (fun c => { c with enqts := [(6, 8), (7, 9)], unready := [⟨6, 1, none⟩, ⟨7, 1, none⟩] })) { n := 3, id := 8 }, 6, by decide +kernel⟩
theorem test_Convoys_member : ∃ (s : State) (m : Reg), s.Issues (.convoy m) ∧ CanTrap s ∧ 2 ≤ (convoyNamed s.cur ((s.seen (.convoy m)).reg m)).length ∧ s.cur ∈ convoyNamed s.cur ((s.seen (.convoy m)).reg m) ∧
    (∀ q ∈ convoyNamed s.cur ((s.seen (.convoy m)).reg m), (s.ctx q).slot = s.me.slot ∧ (s.ctx q).slot ≠ none) ∧ (∃ q ∈ convoyNamed s.cur ((s.seen (.convoy m)).reg m), (s.ctx q).member = true) :=
  ⟨((teamed 0 .recv id).modMe (fun c => c.setReg 8 3)).modCtx ⟨0, 1, 0⟩ (fun c => { c with convoy := some ⟨5, false, true, []⟩ }), 8, issues_of (by decide +kernel), canTrap_of (by decide +kernel), by decide +kernel⟩

/-! ### Witnesses: lanes -/

/-- The bounds of the formats that the statement rounds to, and a value beyond each. -/
theorem test_Rounding_formats : ∀ t ∈ [Ty.fp32, .bf16, .fp16, .e4m3, .e5m2], ∃ (f : Nat) (low : Int) (big : Nat) (at_ : Int), formatOf t = some (f, low, big, at_) ∧
    -300 ≤ low ∧ (big * 2 ^ (at_ - -300).toNat : Int) < (Fl.fin false 1 200).units (-300) :=
  fun t h => by fin_cases h <;> exact ⟨_, _, _, _, rfl, by decide +kernel, by decide +kernel⟩
/-- Octets 1 and 2 hold lanes that overflow an INT8 conversion, octet 3 small ones; mask 1 enables the last lane of 8. -/
def laned (f : Ctx → Ctx) : State := here [(8, 0x43000000), (9, 0x7F800000), (15, 0xC3010000), (16, 0x3F800000), (23, 0xFFFFFFFF)] (fun c => f { c with m := c.m.set 0 0x80 })
theorem test_LaneInstructions_value : ∀ i ∈ [Instr.vadd .fp32 .rsto 3 1 2 1, .vfma .fp16 .dyn 3 1 2 0, .vdot .int8 .dyn 3 1 2 0, .vcvt .int8 .uint8 .rne 3 1 0, .vcvtw .fp32 .bf16 4 1 0, .vdq .fp32 .dyn 4 1 0, .vsel .fp32 3 1 2 1,
      .vperm .int8 3 1 2 0, .vins .int8 3 8 31, .viota .bf16 3 1],
    i.wf = true → ∃ (s : State) (o : LaneOp), s.Issues i ∧ laneOp i = some o ∧ s.me.rmode.getLsbD 9 = false :=
  fun i h w => by fin_cases h <;> first | exact ⟨laned id, _, issues_of (by decide +kernel), rfl, by decide +kernel⟩ | exact absurd w (by decide +kernel)
/-- Lane 7 of the source is the only enabled one and lies below the range of INT32. -/
theorem test_LaneInstructions_overflow : ∃ (s : State) (i : Instr) (o : LaneOp) (sp : Bool) (v : Word), s.Issues i ∧ i.wf = true ∧ laneOp i = some o ∧ (s.seen i).satc = false ∧
    (∀ k, k < 8 → ((s.seen i).mask o.m).getLsbD k = (k = 7 : Bool)) ∧ o.value (s.seen i) .rne 0 7 = .over sp v ∧ CanTrap s :=
  ⟨(laned id).modMe (fun c => c.setReg 15 0xCF800000), .vcvt .int32 .fp32 .rne 3 1 1, _, false, 0x80000000, issues_of (by decide +kernel), by decide +kernel, rfl, by decide +kernel, by decide +kernel, by decide +kernel, canTrap_of (by decide +kernel)⟩
theorem test_MasksAndReductions_masks : ∀ i ∈ [Instr.mand 1 2 3, .mnot 7 0, .vcmpCc .un .fp32 4 1 2 0, .vcmpCc .lt .int8 4 1 2 1], i.wf = true ∧ ∃ (s : State) (d : MReg) (f : Nat → Bool), s.Issues i ∧ maskRes (s.seen i) i = some (d, f) :=
  fun i h => by fin_cases h <;> exact ⟨by decide +kernel, laned id, _, _, issues_of (by decide +kernel), rfl⟩
theorem test_MasksAndReductions_counts : ∃ (s : State) (d : Reg) (a : MReg) (t : Ty) (o : Oct) (n : BitVec 5), s.Issues (.mpop d a) ∧ s.Issues (.vext t d o n) ∧ (Instr.vext t d o n).wf = true :=
  ⟨laned id, 63, 1, .int8, 2, 31, issues_of (by decide +kernel), issues_of (by decide +kernel), by decide +kernel⟩
theorem test_MasksAndReductions_reductions : ∀ i ∈ [Instr.vredSum .fp32 .dyn 3 1 0, .vredSum .bf16 .rsto 3 1 1, .vredSum .int32 .dyn 3 1 0, .vredMax .int8 3 2 0, .vredMin .fp32 3 1 4], i.wf = true ∧
    ∃ (s : State) (t : Ty) (d : Oct) (rc : Option Rc) (p : RMode → Word → Conv → Prop), s.Issues i ∧ redForm (s.seen i) i = some (t, d, rc, p) :=
  fun i h => by fin_cases h <;> exact ⟨by decide +kernel, laned id, _, _, _, _, issues_of (by decide +kernel), rfl⟩
theorem test_QuantiserAndTables_block : ∃ (s : State) (d a : Oct), s.Issues (.vqnt .bf16 d a) ∧ (Instr.vqnt .bf16 d a).wf = true ∧ (∀ j, j < 32 → (flOf .bf16 (lane (s.seen (.vqnt .bf16 d a)) 2 a j)).special = false) :=
  ⟨here [(16, 0x3F804040)] id, 1, 2, issues_of (by decide +kernel), by decide +kernel, by decide +kernel⟩
theorem test_QuantiserAndTables_special : ∃ (s : State) (d a : Oct) (j : Nat), s.Issues (.vqnt .bf16 d a) ∧ (Instr.vqnt .bf16 d a).wf = true ∧ j < 32 ∧ (flOf .bf16 (lane (s.seen (.vqnt .bf16 d a)) 2 a j)).special = true ∧
    (∀ k, k < j → (flOf .bf16 (lane (s.seen (.vqnt .bf16 d a)) 2 a k)).special = false) ∧ CanTrap s :=
  ⟨here [(31, 0x7F800000)] id, 1, 2, 31, issues_of (by decide +kernel), by decide +kernel, by decide, by decide +kernel, by decide +kernel, canTrap_of (by decide +kernel)⟩
/-- A context of team slot 4 and a table slot 3 of its tile. -/
def tabled (x : TableSlot) (f : Ctx → Ctx) : State := ((holding (here [(2, 0x77E0), (3, 0x20), (4, 0x4000)] (fun c => f { c with slot := some 4 })) [(0x4004, [0, 0, 0x80, 0x3F])]).modTile 0 0 (fun t => { t with tables := t.tables.set 3 x }))
theorem test_QuantiserAndTables_lookup : ∃ (s : State) (t : Ty) (r : Rc) (d a : Oct) (k : BitVec 2) (m : MReg), s.Issues (.vtbl t r d a k m) ∧ (Instr.vtbl t r d a k m).wf = true ∧
    ((s.tile s.cur.clus (s.cur.core / 8)).table k.toNat).holder = some s.me.slot ∧ ((s.tile s.cur.clus (s.cur.core / 8)).table k.toNat).loading = 0 :=
  ⟨tabled { holder := some (some 4) } id, .fp16, .rtz, 1, 2, 3, 0, issues_of (by decide +kernel), by decide +kernel, by decide +kernel⟩
theorem test_QuantiserAndTables_loading : ∃ (s : State) (t : Ty) (r : Rc) (d a : Oct) (k : BitVec 2) (m : MReg), s.Issues (.vtbl t r d a k m) ∧ (Instr.vtbl t r d a k m).wf = true ∧
    ((s.tile s.cur.clus (s.cur.core / 8)).table k.toNat).holder = some s.me.slot ∧ ((s.tile s.cur.clus (s.cur.core / 8)).table k.toNat).loading ≠ 0 :=
  ⟨tabled { holder := some (some 4), loading := 1 } id, .fp32, .dyn, 1, 2, 3, 0, issues_of (by decide +kernel), by decide +kernel, by decide +kernel⟩
theorem test_QuantiserAndTables_denied : ∃ (s : State) (t : Ty) (r : Rc) (d a : Oct) (k : BitVec 2) (m : MReg), s.Issues (.vtbl t r d a k m) ∧ (Instr.vtbl t r d a k m).wf = true ∧
    ((s.tile s.cur.clus (s.cur.core / 8)).table k.toNat).holder ≠ some s.me.slot ∧ CanTrap s :=
  ⟨tabled { holder := some (some 5) } id, .fp32, .dyn, 1, 2, 3, 0, issues_of (by decide +kernel), by decide +kernel, by decide +kernel, canTrap_of (by decide +kernel)⟩
/-- Images: one whose reserved words are 0, one that does not end inside the store, one not aligned to 32 bytes, one with X0 zero and RH zero. -/
theorem test_QuantiserAndTables_load : ∃ (s : State) (k : BitVec 2) (a : Reg), s.Issues (.vtbld k a) ∧ (s.clus s.cur.clus).unfenced = [] ∧ s.poison = [] ∧ imageFault s (val (s.seen (.vtbld k a)) a 1) = none ∧
    ((s.tile s.cur.clus (s.cur.core / 8)).table k.toNat).holder = none :=
  ⟨tabled { holder := none } id, 3, 4, issues_of (by decide +kernel), by decide +kernel⟩
theorem test_QuantiserAndTables_load_denied : ∃ (s : State) (k : BitVec 2) (a : Reg), s.Issues (.vtbld k a) ∧ (s.clus s.cur.clus).unfenced = [] ∧ s.poison = [] ∧ imageFault s (val (s.seen (.vtbld k a)) a 1) = none ∧
    ((s.tile s.cur.clus (s.cur.core / 8)).table k.toNat).holder ≠ none ∧ ((s.tile s.cur.clus (s.cur.core / 8)).table k.toNat).holder ≠ some s.me.slot ∧ CanTrap s :=
  ⟨tabled { holder := some none } id, 3, 4, issues_of (by decide +kernel), by decide +kernel, by decide +kernel, by decide +kernel, by decide +kernel, by decide +kernel, canTrap_of (by decide +kernel)⟩
theorem test_QuantiserAndTables_load_bad : ∃ s : State, (s.Issues (.vtbld 3 2) ∧ imageFault s (val (s.seen (.vtbld 3 2)) 2 1) = some 4) ∧ (s.Issues (.vtbld 3 5) ∧ imageFault s (val (s.seen (.vtbld 3 5)) 5 1) = some 4) ∧
    (s.clus s.cur.clus).unfenced = [] ∧ s.poison = [] ∧ CanTrap s :=
  ⟨tabled {} id, ⟨issues_of (by decide +kernel), by decide +kernel⟩, ⟨issues_of (by decide +kernel), by decide +kernel⟩, by decide +kernel, by decide +kernel, canTrap_of (by decide +kernel)⟩
theorem test_QuantiserAndTables_loaded : ∃ (s : State) (k : Nat) (l : List Byte), (s.ctx s.inp.pos).st = .blocked (.table k l) ∧ k < 4 ∧ (s.ctx s.inp.pos).depth = 0 ∧ (s.ctx s.inp.pos).spop = [] :=
  ⟨tabled { holder := some (some 4), loading := 1 } (fun c => { c with st := .blocked (.table 3 []) }), 3, [], by decide +kernel⟩

/-! ### Witnesses: power-up and the management side -/

/-- The package after reset with another management side, at a clock. -/
def booting (clk : Nat) (f : Boot → Boot) : State := { State.reset with clk := BitVec.ofNat 64 clk, boot := f {} }
/-- Bytes at an address as memory cells. -/
def cellsOf (a : Nat) (l : List Byte) : List Host.Cell := (l.zipIdx.map (fun x => (a + x.2, x.1))).filter (fun x => x.2 ≠ 0)
/-- A slot whose header has the smallest body of R20. -/
def goodSlot : List Host.Cell := cellsOf 0x1000 (le 4 0x57463947 ++ le 4 1 ++ le 4 0 ++ le 4 8)
theorem good_slot : GoodHeader goodSlot 0 := by unfold GoodHeader; decide +kernel
theorem bad_slot : ¬ GoodHeader [] 0 := by unfold GoodHeader; decide +kernel
theorem late_of {s : State} {b : DWord} (h : s.boot.began = some b) (g : limitOf s.boot.phase < (s.clk - b).toNat) : Late s := ⟨b, h, g⟩
theorem onTime_of {s : State} {b : DWord} (h : s.boot.began = some b) (g : (s.clk - b).toNat ≤ limitOf s.boot.phase) : ¬ Late s :=
  fun ⟨c, h', g'⟩ => by rw [h] at h'; cases h'; omega
theorem onTime_none {s : State} (h : s.boot.began = none) : ¬ Late s := fun ⟨_, h', _⟩ => by rw [h] at h'; cases h'
theorem test_PowerUp_power_good : ∃ s t : State, (s.boot.phase = 1 ∧ s.boot.powered = false ∧ s.boot.dev = .rom ∧ ¬ Late s) ∧ (t.boot.phase = 1 ∧ t.boot.powered = false ∧ t.boot.dev = .rom ∧ Late t) :=
  ⟨booting 105000000 id, booting 105000001 id, ⟨rfl, rfl, rfl, onTime_of rfl (by decide)⟩, rfl, rfl, rfl, late_of rfl (by decide)⟩
/-- The core is measured, at a clock, with two flash slots. -/
def measuring (clk : Nat) (a b : List Host.Cell) : State := booting clk (fun x => { x with powered := true, phase := 2, flashA := a, flashB := b })
theorem test_PowerUp_measured : ∀ x ∈ [(goodSlot, []), ([], goodSlot), (([], []) : List Host.Cell × List Host.Cell)], ∃ s : State, s.boot.phase = 2 ∧ s.boot.powered = true ∧ s.boot.dev = .rom ∧ s.boot.meas.length = 16 ∧ s.boot.timedOut = false ∧
    s.boot.ce.run = none ∧ memWf s.boot.sram = true ∧ memWf s.boot.flashA = true ∧ memWf s.boot.flashB = true ∧ ¬ Late s ∧ s.boot.flashA = x.1 ∧ s.boot.flashB = x.2 :=
  fun x h => ⟨measuring 4200000 x.1 x.2, by fin_cases h <;> exact ⟨rfl, rfl, rfl, rfl, rfl, rfl, rfl, by decide +kernel, by decide +kernel, onTime_of rfl (by decide), rfl, rfl⟩⟩
theorem test_PowerUp_measured_late : ∃ s : State, s.boot.phase = 2 ∧ s.boot.powered = true ∧ s.boot.dev = .rom ∧ s.boot.meas.length = 16 ∧ s.boot.timedOut = false ∧ s.boot.ce.run = none ∧ Late s :=
  ⟨measuring 4200001 [] [], rfl, rfl, rfl, rfl, rfl, rfl, late_of rfl (by decide)⟩
/-- An ECDSA and an LMS signature of the right form in slot B. -/
def signed96 : List Byte := (List.range 96).map (fun k => if k % 48 = 47 then 1 else 0)
def lmsWord (k : Nat) : Byte := if k = 11 then 3 else if k = 2191 then 7 else 0
def signedSlot : List Host.Cell := cellsOf 0x80 signed96
def lmsSlot : List Host.Cell := [(0x10B, 3), (0x98F, 7)]
theorem lms_bytes {b : Boot} (h : b.flashB = lmsSlot) : MgmtBytes b false 0x41000100 2672 ((List.range 2672).map lmsWord) := by
  refine ⟨by simp, fun k hk => ?_⟩
  rw [List.getElem?_map, List.getElem?_range hk]
  have e : mgmtByte b false (0x41000100 + k) = some (memGet lmsSlot (0x100 + k)) := by
    unfold mgmtByte
    rw [if_neg (by omega), if_neg (by omega), if_pos (by omega), h, show 0x41000100 + k - 0x41000000 = 0x100 + k by omega]
  rw [e]
  refine congrArg some ?_
  unfold lmsWord
  simp only [memGet, lmsSlot]
  split_ifs <;> first | rfl | omega | (exfalso; omega)
theorem mgmtBytes_of {b : Boot} {d : Bool} {a n : Nat} {l : List Byte} (h : l.length = n) (g : (List.range n).all (fun k => mgmtByte b d (a + k) == l[k]?) = true) : MgmtBytes b d a n l :=
  ⟨h, fun k hk => by have := List.all_eq_true.mp g k (List.mem_range.mpr hk); exact beq_iff_eq.mp this⟩
theorem test_PowerUp_ecdsa : ∃ (s : State) (c : MgmtCmd) (l : List Byte), s.boot.ce.run = some c ∧ s.boot.timedOut = false ∧ s.boot.dev = .rom ∧ ¬ Late s ∧ s.boot.rom = .ecdsa ∧ s.boot.romB = true ∧ c.code = 2 ∧
    MgmtBytes s.boot false c.sig 96 l ∧ ecdsaFormed l = true :=
  ⟨booting 840000000 (fun x => { x with phase := 3, rom := .ecdsa, romB := true, flashB := signedSlot, ce := { run := some ⟨2, 0, 0, 0x41000080⟩ } }), ⟨2, 0, 0, 0x41000080⟩, signed96, rfl, rfl, rfl, onTime_of rfl (by decide), rfl, rfl, rfl,
   mgmtBytes_of (by decide +kernel) (by decide +kernel), by decide +kernel⟩
theorem test_PowerUp_lms : ∃ (s : State) (c : MgmtCmd) (l : List Byte), s.boot.ce.run = some c ∧ s.boot.me.run = none ∧ s.boot.timedOut = false ∧ s.boot.dev = .rom ∧ ¬ Late s ∧ s.boot.rom = .lms ∧ s.boot.romB = true ∧ c.code = 3 ∧
    MgmtBytes s.boot false c.sig 2672 l ∧ l.take 4 = [0, 0, 0, 0] ∧ lmsFormed (l.drop 4) = true :=
  ⟨booting 840000000 (fun x => { x with phase := 3, rom := .lms, romB := true, flashB := lmsSlot, ce := { run := some ⟨3, 0, 0, 0x41000100⟩ } }), ⟨3, 0, 0, 0x41000100⟩, (List.range 2672).map lmsWord, rfl, rfl, rfl, rfl,
   onTime_of rfl (by decide), rfl, rfl, rfl, lms_bytes rfl, by decide +kernel, by decide +kernel⟩
/-- The measurement block extends MEAS1 by the last digest. -/
def extending (clk : Nat) : State := booting clk (fun x => { x with phase := 3, rom := .extend, me := { run := some ⟨1, 0x20000040, 1, 0⟩ } })
theorem test_PowerUp_extend : ∀ clk ∈ [840000000, 840000001], ∃ (s : State) (c : MgmtCmd) (l : List Byte), s.boot.rom = .extend ∧ s.boot.me.run = some c ∧ c.code = 1 ∧ c.len = 1 ∧ s.boot.timedOut = false ∧ s.boot.dev = .rom ∧
    s.boot.rxv = false ∧ MgmtBytes s.boot true c.src 48 l ∧ s.boot.phase = 3 ∧ (clk = 840000000 ∧ ¬ Late s ∨ clk = 840000001 ∧ Late s) :=
  fun clk h => ⟨extending clk, ⟨1, 0x20000040, 1, 0⟩, List.replicate 48 0, rfl, rfl, rfl, rfl, rfl, rfl, rfl, (mgmtBytes_of rfl (by decide +kernel) : MgmtBytes (extending 0).boot true 0x20000040 48 (List.replicate 48 0)), rfl, by
    fin_cases h
    · exact .inl ⟨rfl, onTime_of rfl (by decide)⟩
    · exact .inr ⟨rfl, late_of rfl (by decide)⟩⟩
theorem test_PowerUp_timeout : ∃ (s t : State) (b : DWord), (s.boot.phase = 4 ∧ s.boot.began = some b ∧ s.boot.dev ≠ .failed ∧ limitOf 4 < (s.clk - b).toNat) ∧ (t.boot.phase = 4 ∧ t.boot.began = some b ∧ t.boot.dev ≠ .failed ∧ (t.clk - b).toNat ≤ limitOf 4) :=
  ⟨booting 3150000001 (fun x => { x with phase := 4 }), booting 3150000000 (fun x => { x with phase := 4 }), 0, by decide +kernel, by decide +kernel⟩
theorem test_PowerUp_first_fetch : ∃ s t : State, (s.boot.rom = .jump ∧ s.boot.dev = .rom ∧ s.boot.phase = 3 ∧ ¬ Late s) ∧ (t.boot.rom = .jump ∧ t.boot.dev = .rom ∧ t.boot.phase = 3 ∧ Late t) :=
  ⟨booting 0 (fun x => { x with rom := .jump, phase := 3 }), booting 840000001 (fun x => { x with rom := .jump, phase := 3 }), ⟨rfl, rfl, rfl, onTime_of rfl (by decide)⟩, rfl, rfl, rfl, late_of rfl (by decide)⟩
theorem test_PowerUp_state_writes : ∀ e ∈ [(DevState.firmware, (3 : DWord)), (.localInit, 4), (.localInit, 0xFF)], ∃ s : State, Runs s ∧ s.boot.dev = e.1 ∧ s.boot.phase = 4 ∧ ¬ Late s ∧ s.inp.val = e.2 :=
  fun e h => ⟨with_ (booting 3150000000 (fun x => { x with rom := .firmware, dev := e.1, phase := 4 })) { val := e.2 }, rfl, rfl, rfl, by fin_cases h <;> exact onTime_of rfl (by decide), rfl⟩
theorem test_PowerUp_state_write_late : ∃ s : State, Runs s ∧ s.boot.dev = .localInit ∧ s.boot.phase = 4 ∧ Late s := ⟨booting 3150000001 (fun x => { x with rom := .firmware, dev := .localInit, phase := 4 }), rfl, rfl, rfl, late_of rfl (by decide)⟩
theorem test_PowerUp_boot_stat : ∃ s t : State, (Runs s ∧ s.boot.timedOut = false ∧ Late s ∧ 1 ≤ s.boot.phase ∧ s.boot.phase ≤ 4 ∧ s.boot.dev ≠ .failed) ∧ (Runs t ∧ t.boot.timedOut = false ∧ ¬ Late t ∧ t.inp.val = 0xEF ∧ t.boot.dev ≠ .ready) :=
  ⟨booting 3150000001 (fun x => { x with rom := .firmware, dev := .localInit, phase := 4 }), with_ (booting 0 (fun x => { x with rom := .firmware, dev := .localInit, phase := 4 })) { val := 0xEF },
   ⟨rfl, rfl, late_of rfl (by decide), by decide +kernel⟩, rfl, rfl, onTime_of rfl (by decide), rfl, by decide +kernel⟩
theorem test_PowerUp_config : ∃ (s t : State) (b : DWord), (s.boot.perst = some b ∧ 210000000 ≤ (s.clk - b).toNat) ∧ (t.boot.perst = some b ∧ (t.clk - b).toNat < 210000000) :=
  ⟨booting 210000000 (fun x => { x with perst := some 0 }), booting 209999999 (fun x => { x with perst := some 0 }), 0, by decide +kernel, by decide +kernel⟩

/-- The firmware runs. -/
def managed (f : Boot → Boot) : State := booting 0 (fun x => f { x with rom := .firmware, dev := .firmware, began := none })
theorem test_ManagementBlocks_start : ∃ s t : State, (Runs s ∧ s.boot.ce.run = none ∧ s.boot.me.run = none) ∧ (∃ c, Runs t ∧ t.boot.ce.run = some c ∧ t.boot.me.run = some c) :=
  ⟨managed id, managed (fun x => { x with ce := { run := some ⟨1, 0, 0, 0⟩ }, me := { run := some ⟨1, 0, 0, 0⟩ } }), ⟨rfl, rfl, rfl⟩, ⟨1, 0, 0, 0⟩, rfl, rfl, rfl⟩
theorem test_ManagementBlocks_boot : ∃ s : State, ¬ Runs s := ⟨State.reset, by unfold Runs; decide +kernel⟩
theorem test_ManagementBlocks_hash : ∃ (s : State) (c : MgmtCmd) (l : List Byte), Runs s ∧ s.boot.ce.run = some c ∧ c.code = 1 ∧ 1 ≤ c.len ∧ c.len ≤ 0x1000000 ∧ MgmtBytes s.boot false c.src c.len l :=
  ⟨managed (fun x => { x with ce := { run := some ⟨1, 0x41FFFFFF, 1, 0⟩ } }), ⟨1, 0x41FFFFFF, 1, 0⟩, [0], rfl, rfl, rfl, by decide, by decide, mgmtBytes_of rfl (by decide +kernel)⟩
theorem test_ManagementBlocks_verify : ∃ (s : State) (c : MgmtCmd) (l : List Byte), Runs s ∧ s.boot.ce.run = some c ∧ c.code = 2 ∧ MgmtBytes s.boot false c.sig 96 l ∧ ecdsaFormed l = true :=
  ⟨managed (fun x => { x with flashB := signedSlot, ce := { run := some ⟨2, 0, 0, 0x41000080⟩ } }), ⟨2, 0, 0, 0x41000080⟩, signed96, rfl, rfl, rfl, mgmtBytes_of (by decide +kernel) (by decide +kernel), by decide +kernel⟩
theorem test_ManagementBlocks_lms : ∃ (s : State) (c : MgmtCmd) (l : List Byte), Runs s ∧ s.boot.ce.run = some c ∧ c.code = 3 ∧ MgmtBytes s.boot false c.sig 2672 l ∧ l.take 4 = [0, 0, 0, 0] ∧ lmsFormed (l.drop 4) = true :=
  ⟨managed (fun x => { x with flashB := lmsSlot, ce := { run := some ⟨3, 0, 0, 0x41000100⟩ } }), ⟨3, 0, 0, 0x41000100⟩, (List.range 2672).map lmsWord, rfl, rfl, rfl, lms_bytes rfl,
   by decide +kernel, by decide +kernel⟩
theorem test_ManagementBlocks_bad : ∀ c ∈ [(⟨1, 0x10000000, 0x1000001, 0⟩ : MgmtCmd), ⟨1, 0x1007FFFF, 2, 0⟩, ⟨2, 0, 0, 0x20000000⟩, ⟨4, 0, 0, 0⟩], ∃ s : State, Runs s ∧ s.boot.ce.run = some c ∧
    ((c.code = 1 ∧ (c.len = 0 ∨ 0x1000000 < c.len ∨ MgmtHole s.boot false c.src c.len)) ∨ (c.code = 2 ∧ MgmtHole s.boot false c.sig 96) ∨ (c.code ≠ 1 ∧ c.code ≠ 2 ∧ c.code ≠ 3)) := by
  intro c h
  refine ⟨managed (fun x => { x with ce := { run := some c } }), rfl, rfl, ?_⟩
  fin_cases h
  · exact .inl ⟨rfl, .inr (.inl (by decide))⟩
  · exact .inl ⟨rfl, .inr (.inr ⟨1, by decide, by decide +kernel⟩)⟩
  · exact .inr (.inl ⟨rfl, 0, by decide, by decide +kernel⟩)
  · exact .inr (.inr (by decide))
theorem test_ManagementBlocks_extend : ∃ (s : State) (c : MgmtCmd) (l : List Byte), Runs s ∧ s.boot.me.run = some c ∧ c.code = 1 ∧ 1 ≤ c.len ∧ c.len = 15 ∧ MgmtBytes s.boot true c.src 48 l :=
  ⟨managed (fun x => { x with me := { run := some ⟨1, 0x20000040, 15, 0⟩ } }), ⟨1, 0x20000040, 15, 0⟩, List.replicate 48 0, rfl, rfl, rfl, by decide, rfl, mgmtBytes_of rfl (by decide +kernel)⟩
theorem test_ManagementBlocks_extend_bad : ∃ (s : State) (c : MgmtCmd), Runs s ∧ s.boot.me.run = some c ∧ c.code = 1 ∧ c.len = 16 := ⟨managed (fun x => { x with me := { run := some ⟨1, 0x20000040, 16, 0⟩ } }), ⟨1, 0x20000040, 16, 0⟩, rfl, rfl, rfl, rfl⟩
theorem test_ManagementBlocks_response : ∃ (s : State) (c : MgmtCmd) (q : Bool × List Nat), Runs s ∧ s.boot.me.run = some c ∧ c.code = 2 ∧ parseMeas s.boot.mbRx = some q ∧ (∀ m ∈ s.boot.meas, m.length = 48) ∧ s.boot.meas.length = 16 ∧ q.2[0]? = some 16 :=
  ⟨managed (fun x => { x with mbRx := [0x13, 0xE0, 0, 16] ++ le 8 0, me := { run := some ⟨2, 0, 0, 0⟩ } }), ⟨2, 0, 0, 0⟩, (false, [16]), rfl, rfl, rfl, by decide +kernel, by decide +kernel, rfl, rfl⟩
theorem test_ManagementBlocks_response_bad : ∃ (s : State) (c : MgmtCmd), Runs s ∧ s.boot.me.run = some c ∧ c.code = 2 ∧ parseMeas s.boot.mbRx = none :=
  ⟨managed (fun x => { x with mbRx := [0x13, 0xE0, 0, 17] ++ le 8 0, me := { run := some ⟨2, 0, 0, 0⟩ } }), ⟨2, 0, 0, 0⟩, rfl, rfl, rfl, by decide +kernel⟩
theorem test_ManagementBlocks_mailbox : ∃ s t u : State, s.inp.bytes.getD 1 0 ∈ [0x84#8, 0xE1#8, 0xE3#8, 0x81#8, 0x82#8] ∧ (t.inp.bytes.getD 1 0 ∉ [0x84#8, 0xE1#8, 0xE3#8, 0x81#8, 0x82#8] ∧ t.boot.rxv = false) ∧
    (u.inp.bytes.getD 1 0 ∉ [0x84#8, 0xE1#8, 0xE3#8, 0x81#8, 0x82#8] ∧ u.boot.rxv = true) :=
  ⟨with_ (managed id) { bytes := [0x12, 0x84] }, with_ (managed id) { bytes := [0x13, 0xE0] }, with_ (managed (fun x => { x with rxv := true })) { bytes := [0x13, 0xE0] }, by decide +kernel, by decide +kernel, by decide +kernel⟩
theorem test_ManagementBlocks_done : ∃ s : State, Runs s ∧ s.inp.val = 1 := ⟨with_ (managed id) { val := 1 }, rfl, rfl⟩

/-! ### Witnesses: keys and clusters -/

/-- The physical function issues a command with slot and argument registers; the key store holds those slots. -/
def keyed (slot arg : DWord) (l : List (Nat × KeySlot)) (run : Option KsCmd) : State := { State.reset with ksWins := [(0, { slot := slot, arg := arg, run := run })], keySlots := l }
theorem test_KeyStore_busy : ∃ (s : State) (r : KsCmd), (s.ksWin s.inp.fn).run = some r := ⟨keyed 0 0 [] (some ⟨5, 0, 0⟩), ⟨5, 0, 0⟩, rfl⟩
/-- What every command meets. -/
structure Commands (s : State) (n a : Nat) : Prop where
  live : s.fnLive s.inp.fn = true
  idle : (s.ksWin s.inp.fn).run = none
  slot : n = (s.ksWin s.inp.fn).slot.toNat % 4096
  arg : a = (s.ksWin s.inp.fn).arg.toNat % 32
theorem test_KeyStore_empty : ∃ (s : State) (n a : Nat), Commands s n a ∧ n = 4095 ∧ (s.keySlot n).st = .empty := ⟨keyed 0xFFF 0 [] none, 4095, 0, ⟨rfl, rfl, rfl, rfl⟩, rfl, rfl⟩
theorem test_KeyStore_held : ∃ (s : State) (n a : Nat), Commands s n a ∧ (s.keySlot n).st ≠ .empty ∧ (s.keySlot n).fn = s.inp.fn ∧ a = 16 ∧ (∀ e ∈ s.cores, e.2.l1 = []) :=
  ⟨keyed 5 16 [(5, { st := .held })] none, 5, 16, ⟨rfl, rfl, rfl, rfl⟩, by decide +kernel, rfl, rfl, by decide +kernel⟩
theorem test_KeyStore_offer_beyond : ∃ (s : State) (n a : Nat), Commands s n a ∧ (s.keySlot n).st ≠ .empty ∧ (s.keySlot n).fn = s.inp.fn ∧ a = 17 := ⟨keyed 5 17 [(5, { st := .held })] none, 5, 17, ⟨rfl, rfl, rfl, rfl⟩, by decide +kernel, rfl, rfl⟩
theorem test_KeyStore_foreign : ∃ (s : State) (n a : Nat), Commands s n a ∧ (s.keySlot n).st ≠ .empty ∧ (s.keySlot n).fn ≠ s.inp.fn := ⟨keyed 5 0 [(5, { st := .held, fn := 1 })] none, 5, 0, ⟨rfl, rfl, rfl, rfl⟩, by decide +kernel, by decide +kernel⟩
theorem test_KeyStore_accept : ∃ (s : State) (n a : Nat), Commands s n a ∧ a ≤ 16 ∧ (s.keySlot n).st = .offered ∧ (s.keySlot n).fn = a ∧ (s.keySlot n).dest = s.inp.fn ∧ (∀ e ∈ s.cores, e.2.l1 = []) :=
  ⟨keyed 5 1 [(5, { st := .offered, fn := 1 })] none, 5, 1, ⟨rfl, rfl, rfl, rfl⟩, by decide, rfl, rfl, rfl, by decide +kernel⟩
/-- A dirty SWM line of HBM under slot 5 in core 2 of cluster 3. -/
def hbmLine : L1Line := { fullLine with line := 0x4000000, key := 5, swm := true, dirty := 1 }
theorem test_KeyStore_erase_dirty : ∃ (s : State) (n a c m : Nat) (x : Core) (l : L1Line), Commands s n a ∧ ((s.keySlot n).st ≠ .empty ∧ (s.keySlot n).fn = s.inp.fn) ∧ memWf s.mem = true ∧ s.cores = [((c, m), x)] ∧ (s.clus c).fn = s.inp.fn ∧ c < 128 ∧
    x.l1 = [l] ∧ l.key = n ∧ (paRegion (64 * l.line)).isHbm = true ∧ paPkg (64 * l.line) = s.pkg ∧ l.dirty.getLsbD 0 = true :=
  ⟨{ keyed 5 0 [(5, { st := .held })] none with cores := [((3, 2), { Core.reset with l1 := [hbmLine] })] }, 5, 0, 3, 2, { Core.reset with l1 := [hbmLine] }, hbmLine, ⟨rfl, rfl, rfl, rfl⟩, ⟨by decide +kernel, rfl⟩, rfl, rfl, rfl, by decide, rfl, rfl,
   by decide +kernel, by decide +kernel, by decide +kernel⟩
theorem test_KeyStore_import_refused : ∃ (s : State) (n a : Nat), Commands s n a ∧ (s.keySlot n).st ≠ .empty ∧ (0xFF : Nat) < 4095 ∧ n = 4095 := ⟨keyed 0xFFF 0 [(4095, { st := .held })] none, 4095, 0, ⟨rfl, rfl, rfl, rfl⟩, by decide +kernel, by decide, rfl⟩
theorem test_KeyStore_seal_erase : ∃ (s : State) (n a : Nat), Commands s n a ∧ n = 0xFF ∧ (s.sealSlot n).held = true ∧ (s.sealSlot n).fn = s.inp.fn :=
  ⟨{ keyed 0xFF 0 [] none with sealedSlots := [(0xFF, { held := true })] }, 0xFF, 0, ⟨rfl, rfl, rfl, rfl⟩, rfl, rfl, rfl⟩
theorem test_KeyStore_seal_refused : ∃ (s : State) (n a : Nat), Commands s n a ∧ 0xFF < n := ⟨keyed 0x100 0 [] none, 0x100, 0, ⟨rfl, rfl, rfl, rfl⟩, by decide⟩
/-- A buffered store under slot 5. -/
def storing : Core := { Core.reset with sb := [⟨0, 0x4000000, 5, [(0x100000000, 1)]⟩] }
theorem test_KeyStore_accept_drains : ∃ s t : State, ((s.ksWin s.inp.fn).run = some ⟨5, 5, 0⟩ ∧ s.keyInUse 0 5 = true) ∧ ((t.ksWin t.inp.fn).run = some ⟨5, 5, 1⟩ ∧ t.keyInUse 1 5 = false ∧ (t.keySlot 5).st = .offered ∧ (t.keySlot 5).fn = 1 ∧
    (t.keySlot 5).dest = t.inp.fn) :=
  ⟨{ keyed 5 0 [(5, { st := .offered })] (some ⟨5, 5, 0⟩) with cores := [((3, 2), storing)] }, keyed 5 1 [(5, { st := .offered, fn := 1 })] (some ⟨5, 5, 1⟩), by decide +kernel, by decide +kernel⟩
theorem test_KeyStore_erase_drains : ∃ s t : State, ((s.ksWin s.inp.fn).run = some ⟨6, 5, 0⟩ ∧ s.keyInUse s.inp.fn 5 = true) ∧ ((t.ksWin t.inp.fn).run = some ⟨6, 5, 0⟩ ∧ t.keyInUse t.inp.fn 5 = false ∧ (t.keySlot 5).st ≠ .empty ∧ (t.keySlot 5).fn = t.inp.fn) :=
  ⟨{ keyed 5 0 [(5, { st := .held })] (some ⟨6, 5, 0⟩) with cores := [((3, 2), storing)] }, keyed 5 0 [(5, { st := .held })] (some ⟨6, 5, 0⟩), by decide +kernel, by decide +kernel⟩
/-- A sealed fetch under sealed slot 9: an entry with SEAL and that handle (R274). -/
def sealedFetch : MatCmd := { command anMma .fetching with entry := le 8 (2 ^ 63 + 2 ^ 62 + 9 * 2 ^ 48) }
theorem test_KeyStore_seal_drains : ∃ s t : State, ((s.sealSlot s.inp.id).held = true ∧ (s.sealSlot s.inp.id).fn = 0 ∧ (s.ksWin 0).run = some ⟨8, s.inp.id, 0⟩ ∧ s.sealInUse 0 s.inp.id = true) ∧
    ((t.sealSlot t.inp.id).held = true ∧ (t.sealSlot t.inp.id).fn = 0 ∧ (t.ksWin 0).run = some ⟨8, t.inp.id, 0⟩ ∧ t.sealInUse 0 t.inp.id = false) :=
  ⟨with_ ({ keyed 0 0 [] (some ⟨8, tidSkh sealedFetch.entry, 0⟩) with sealedSlots := [(tidSkh sealedFetch.entry, { held := true })] }.modTile 0 0 (fun t => { t with cmds := [sealedFetch] })) { id := tidSkh sealedFetch.entry },
   with_ { keyed 0 0 [] (some ⟨8, 0, 0⟩) with sealedSlots := [(0, { held := true })] } { id := 0 }, ⟨rfl, rfl, rfl, rfl⟩, rfl, rfl, rfl, rfl⟩

theorem test_ClusterMoves : ∃ s : State, s.inp.fn = 0 ∧ s.inp.clus = 127 ∧ s.inp.val.toNat % 32 = 16 ∧ s.clusIdle s.inp.clus = true ∧ s.inp.val.toNat % 32 ≠ (s.clus s.inp.clus).fn ∧ memWf s.mem = true ∧ s.pkg < 4096 ∧ (s.keySlots.map (·.1)).Nodup :=
  ⟨with_ (keyed 0 0 [(5, {})] none) { clus := 127, val := 16 }, by decide +kernel⟩
theorem test_ClusterMoves_ignored : ∃ s : State, s.inp.fn = 0 ∧ s.inp.clus < 128 ∧ s.inp.val.toNat % 32 ≤ 16 ∧ s.clusIdle s.inp.clus = false := ⟨with_ ((here [] id).modClus 0 (fun k => { k with watches := [aWatch] })) { val := 1 }, by decide +kernel⟩

/-! ### Witnesses: queues, records, launches -/

/-- A page of cluster 3's vault. -/
def page3 : TlbEntry := ⟨0, .home, 0x10000, 0x1000, mkPa 0 3 0x1004000, 0, .normal, true, true, true, none⟩
/-- A READY package whose cluster 3 belongs to function 5, with a queue 0. -/
def fronted (q : Queue) : State := (({ State.reset with boot := { dev := .ready }, queues := [(0, q)], clk := 0x800000 }).modClus 3 (fun k => { k with fn := 5, rroot := Vector.replicate 16 0x1000, tlb := [page3] }))
theorem test_QueueControl_fn : ∃ s : State, s.inp.id = 0 ∧ s.ready = true ∧ s.inp.fn = 0 ∧ (s.queue 0).st = .absent ∧ s.inp.val.toNat % 32 = 16 := ⟨with_ (fronted {}) { val := 16 }, by decide +kernel⟩
theorem test_QueueControl_fn_ignored : ∃ s : State, s.inp.id = 255 ∧ s.ready = true ∧ s.inp.fn = 0 ∧ 16 < s.inp.val.toNat % 32 := ⟨with_ (fronted {}) { id := 255, val := 17 }, by decide +kernel⟩
/-- A function reaches queue 0 of a READY package. -/
structure Reached (s : State) : Prop where
  id : s.inp.id = 0
  ready : s.ready = true
  live : s.fnLive s.inp.fn = true
  own : s.inp.fn = 0 ∨ (s.queue 0).fn = s.inp.fn
theorem test_QueueControl_create : ∀ c ∈ [(0xE04 : DWord), 0xE10, 0xF03, 0xF06], ∃ s : State, Reached s ∧ (s.queue 0).st = .absent ∧ (s.queue 0).lognOk = true :=
  fun c h => ⟨fronted { cfg := c }, ⟨rfl, rfl, rfl, .inl rfl⟩, rfl, by fin_cases h <;> rfl⟩
theorem test_QueueControl_create_refused : ∃ s : State, Reached s ∧ (s.queue 0).lognOk = false ∧ (s.queue 0).st ≠ .active ∧ (s.queue 0).st ≠ .error ∧ s.committing 0 = false := ⟨fronted { cfg := 0xE11 }, ⟨rfl, rfl, rfl, .inl rfl⟩, by decide +kernel⟩
/-- A record with the smallest geometry, and a launch of it. -/
def goodRec (w38 w40 : Nat) : List Byte := le 8 (2 ^ 56) ++ le 8 (2 ^ 48) ++ le 8 0 ++ le 8 (2 ^ 48 + 2 ^ 32 + 2 ^ 8 + 2 ^ 4 + 1) ++ le 24 0 ++ le 8 w38 ++ le 8 w40 ++ le 184 0
def aLaunch : Launch := { q := 0, seq := 0, rcd := goodRec 0 0, img := [], map := none, teams := 1 }
def launched (f : Launch → Launch) : State := { fronted { fn := 5, cfg := 0xE04, st := .active, nlive := 1 } with launches := [(launchKey 0 0, f aLaunch)] }
theorem test_QueueControl_destroy : ∃ s : State, Reached s ∧ (s.queue 0).st = .active ∧ s.inp.flag = false ∧ s.bastings = [] ∧ launchesKeyed s ∧ s.launches ≠ [] :=
  ⟨launched id, ⟨rfl, rfl, rfl, .inl rfl⟩, rfl, rfl, rfl, ⟨by decide +kernel, by decide +kernel⟩, by decide +kernel⟩
theorem test_QueueControl_resume : ∃ s t : State, (Reached s ∧ (s.queue 0).st = .error ∧ (s.queue 0).failed = true ∧ s.inp.flag = true) ∧ (Reached t ∧ (t.queue 0).st ≠ .error) :=
  ⟨with_ (fronted { st := .error, failed := true }) { flag := true }, fronted { st := .draining }, ⟨⟨rfl, rfl, rfl, .inl rfl⟩, by decide +kernel⟩, ⟨rfl, rfl, rfl, .inl rfl⟩, by decide +kernel⟩
theorem test_QueueControl_prod : ∀ v ∈ [(5 : Nat), 21, 22, 4], ∃ s : State, Reached s ∧ (s.queue 0).device = false ∧ (s.queue 0).st = .active ∧ (s.queue 0).prod = 5 ∧ (s.queue 0).cons + 2 ^ (s.queue 0).logn = 21 ∧ s.inp.val.toNat = v ∧ s.bastings = [] :=
  fun v h => ⟨with_ (fronted { cfg := 0xE04, st := .active, prod := 5, cons := 5 }) { val := BitVec.ofNat 64 v }, ⟨rfl, rfl, rfl, .inl rfl⟩, by fin_cases h <;> decide +kernel⟩
theorem test_QueueControl_prod_device : ∃ s : State, Reached s ∧ (s.queue 0).device = true := ⟨fronted { cfg := 0xF04 }, ⟨rfl, rfl, rfl, .inl rfl⟩, rfl⟩
theorem test_QueueControl_registers : ∀ o ∈ [0x10000, 0x10008, 0x10020], ∃ s : State, Reached s ∧ s.inp.bar = .bar0 ∧ s.inp.ofs = o ∧ (s.queue 0).st = .absent := fun o _ => ⟨with_ (fronted {}) { bar := .bar0, ofs := o }, ⟨rfl, rfl, rfl, .inl rfl⟩, rfl, rfl, rfl⟩

theorem test_RecordReading_read : ∃ s t : State, (s.ready = true ∧ (s.queue 0).st = .active ∧ (s.queue 0).head = none ∧ (s.queue 0).cons < (s.queue 0).prod ∧ (s.queue 0).nlive = 15 ∧ (s.queue 0).device = true) ∧ 16 ≤ (t.queue 0).nlive :=
  ⟨fronted { cfg := 0xF04, st := .active, prod := 1, nlive := 15 }, fronted { nlive := 16 }, by decide +kernel, by decide +kernel⟩
/-- Record 0 of queue 0 is being read. -/
def arriving (cfg : DWord) (r : RecordInput) : State := with_ (fronted { fn := 5, cfg := cfg, st := .active, prod := 1, head := some 0, ring := [(0, goodRec 0 0)] }) { load := .record r, ofs := 192 }
theorem test_RecordReading_fail : ∃ (s : State) (r : RecordInput) (u : Nat), (s.queue 0).head = some 0 ∧ (s.queue 0).st = .active ∧ (s.queue 0).device = false ∧ s.inp.load = .record r ∧ r.fail = some u ∧ u = 3 ∧ s.inp.ofs = 192 ∧ s.bastings = [] :=
  ⟨arriving 0xE04 ⟨[], none, none, some 3⟩, ⟨[], none, none, some 3⟩, 3, by decide +kernel⟩
theorem test_RecordReading_accept : ∃ (s : State) (r : RecordInput), (s.queue 0).head = some 0 ∧ (s.queue 0).st = .active ∧ (s.queue 0).device = false ∧ s.inp.load = .record r ∧ r.fail = none ∧ s.bastings = [] ∧ (s.queue 0).enqs = [] ∧
    Assoc.has (launchKey 0 0) s.launches = false ∧ recNdep (padTo 256 r.record) = 0 ∧ recordFault s (s.queue 0).fn (padTo 256 r.record) none none = none :=
  ⟨arriving 0xE04 ⟨goodRec 0 0, none, none, none⟩, ⟨goodRec 0 0, none, none, none⟩, by decide +kernel, by decide +kernel, by decide +kernel, by decide +kernel, by decide +kernel, by decide +kernel, by decide +kernel, by decide +kernel, by decide +kernel, by decide +kernel⟩
/-- A completion target in a cluster of another function: row 0x0B. -/
theorem test_RecordReading_reject : ∃ (s : State) (r : RecordInput), (s.queue 0).head = some 0 ∧ (s.queue 0).st = .active ∧ (s.queue 0).device = false ∧ s.inp.load = .record r ∧ r.fail = none ∧ s.bastings = [] ∧
    recordFault s (s.queue 0).fn (padTo 256 r.record) none none = some (0x0B, 0x38, 0) :=
  ⟨arriving 0xE04 ⟨goodRec (2 ^ 63 + 2 * 2 ^ 56) 0, none, none, none⟩, ⟨goodRec (2 ^ 63 + 2 * 2 ^ 56) 0, none, none, none⟩, by decide +kernel, by decide +kernel, by decide +kernel, by decide +kernel, by decide +kernel, by decide +kernel, by decide +kernel⟩
theorem test_RecordReading_device : ∃ s : State, (s.queue 0).head = some 0 ∧ (s.queue 0).st = .active ∧ (s.queue 0).device = true ∧ recPmap (Assoc.get (zeros 256) 0 (s.queue 0).ring) = 0 ∧ recTidn (Assoc.get (zeros 256) 0 (s.queue 0).ring) = 0 ∧
    recordFault s (s.queue 0).fn (Assoc.get (zeros 256) 0 (s.queue 0).ring) none (some []) = none := ⟨arriving 0xF04 ⟨[], none, none, none⟩, by decide +kernel, by decide +kernel, by decide +kernel, by decide +kernel, by decide +kernel, by decide +kernel⟩

/-- A context of cluster 3 has an ENQ of launch (0, 0) out, of number 8. -/
def asking (q : Queue) (f : Launch → Launch) (val : Nat) (listed : Bool) : State :=
  with_ (({ fronted q with launches := [((0, 0), f aLaunch)] }.modClus 3 (fun k => { k with outMsgs := [(8, ⟨(0, 0), 0, ⟨3, 0, 0⟩⟩)] })).setCtx ⟨3, 0, 0⟩ { Ctx.reset with ans := some (.enq, 0), ansId := 8 })
    { pos := ⟨3, 0, 0⟩, id := 8, val := BitVec.ofNat 64 val, flag := listed }
theorem test_LaunchEnd_enqueue : ∀ prod ∈ [7, 8], ∃ (s : State) (o : OutMsg), (s.clus s.inp.pos.clus).outMsg s.inp.id = some o ∧ s.inp.val.getLsbD 31 = false ∧ s.inp.val.toNat % 256 = 0 ∧ (s.queue 0).device = true ∧ (s.queue 0).fn = (s.clus s.inp.pos.clus).fn ∧
    (s.queue 0).st = .active ∧ (s.queue 0).cons ≤ (s.queue 0).prod ∧ (s.queue 0).prod = prod ∧ (s.queue 0).cons + 2 ^ (s.queue 0).logn = 8 ∧ s.inp.flag = true ∧ (s.ctx s.inp.pos).ansId = s.inp.id ∧ (s.ctx s.inp.pos).ans = some (.enq, 0) :=
  fun prod h => ⟨asking { fn := 5, cfg := 0xF03, st := .active, prod := prod } id 0 true, ⟨(0, 0), 0, ⟨3, 0, 0⟩⟩, by fin_cases h <;> decide +kernel⟩
theorem test_LaunchEnd_enqueue_bad : ∃ (s : State) (o : OutMsg), (s.clus s.inp.pos.clus).outMsg s.inp.id = some o ∧ s.inp.val.getLsbD 31 = false ∧ (s.queue (s.inp.val.toNat % 256)).st = .absent := ⟨asking {} id 255 true, ⟨(0, 0), 0, ⟨3, 0, 0⟩⟩, by decide +kernel⟩
theorem test_LaunchEnd_growth : ∀ n ∈ [0, 1, 2], ∃ (s : State) (o : OutMsg) (l : Launch), (s.clus s.inp.pos.clus).outMsg s.inp.id = some o ∧ s.inp.val.getLsbD 31 = true ∧ o.launch.1 < 256 ∧ o.launch.2 < 2 ^ 24 ∧ s.inp.val.toNat % 2 ^ 16 = n ∧
    s.launches = [(o.launch, l)] ∧ l.abandoned = false ∧ recMaxteams l.rcd = l.teams + 1 :=
  fun n h => ⟨asking {} (fun l => { l with teams := 0 }) (2 ^ 31 + n) false, ⟨(0, 0), 0, ⟨3, 0, 0⟩⟩, { aLaunch with teams := 0 }, by fin_cases h <;> decide +kernel⟩
theorem test_LaunchEnd_dependence : ∀ d ∈ [DepResult.met 9, .failed 0x50], ∃ (s : State) (l : Launch) (w : Nat × Nat × Nat), s.launches = [(launchKey l.q l.seq, l)] ∧ s.bastings = [] ∧ l.watching = [w] ∧ w.2.1 = s.inp.id ∧ s.inp.load = .dep d ∧ (s.queue l.q).st = .active :=
  fun d _ => ⟨with_ (launched (fun l => { l with watching := [(0, 4, 3)] })) { id := 4, load := .dep d }, { aLaunch with watching := [(0, 4, 3)] }, (0, 4, 3), rfl, rfl, rfl, rfl, rfl, rfl⟩
/-- The launch has ended but for its waves. -/
def ending : Launch := { aLaunch with placed := 1, retired := 1, wave := some [0, 0, 0, 0, 0] }
def waving (f : Launch → Launch) (clk : Nat) : State := { launched (fun _ => f ending) with clk := BitVec.ofNat 64 clk }
theorem test_LaunchEnd_waits : ∃ (s : State) (l : Launch), s.launches = [(launchKey l.q l.seq, l)] ∧ l.watching = [] ∧ s.bastings = [] ∧ s.replay = [] ∧ s.wavePos = 0 ∧ s.since s.waveAt < s.wavePeriod := ⟨waving id 4095, ending, rfl, rfl, rfl, rfl, rfl, by decide +kernel⟩
theorem test_LaunchEnd_part : ∃ (s : State) (l : Launch), s.launches = [(launchKey l.q l.seq, l)] ∧ l.watching = [] ∧ s.bastings = [] ∧ s.replay = [] ∧ s.inp.id = 127 ∧ s.wavePos = 0 ∧ s.wavePeriod ≤ s.since s.waveAt :=
  ⟨with_ (waving id 4096) { id := 127 }, ending, rfl, rfl, rfl, rfl, rfl, rfl, by decide +kernel⟩
/-- What a wave reads of an ended launch. -/
structure Ended (s : State) (l : Launch) : Prop where
  one : s.launches = [(launchKey l.q l.seq, l)]
  free : l.watching = [] ∧ s.bastings = [] ∧ s.replay = [] ∧ s.inp.id = 0
  due : s.wavePos = 0 ∧ s.wavePeriod ≤ s.since s.waveAt
  placed : l.abandoned = false ∧ l.placed = l.teams ∧ recTeams l.rcd ≤ l.teams ∧ l.retired = l.teams
  wave : l.wave = some (s.sumsUpTo (launchKey l.q l.seq) s.wavePos 128)
  equal : (s.sumsUpTo (launchKey l.q l.seq) s.wavePos 128).getD 0 0 = (s.sumsUpTo (launchKey l.q l.seq) s.wavePos 128).getD 1 0 ∧ (s.sumsUpTo (launchKey l.q l.seq) s.wavePos 128).getD 2 0 = (s.sumsUpTo (launchKey l.q l.seq) s.wavePos 128).getD 3 0
theorem test_LaunchEnd_ends : ∃ (s : State) (l : Launch), Ended s l ∧ recCen l.rcd = false := ⟨waving id 4096, ending, ⟨rfl, by decide +kernel, by decide +kernel, by decide +kernel, by decide +kernel, by decide +kernel⟩, by decide +kernel⟩
theorem test_LaunchEnd_completion : ∀ v ∈ [0, 1], ∃ (s : State) (l : Launch) (pa : Nat) (x : TlbEntry), Ended s l ∧ recCen l.rcd = true ∧ (s.clus (recCclus l.rcd)).xfails = [] ∧ memWf s.mem = true ∧ pa % 8 = 0 ∧
    s.translate (recCclus l.rcd) (.front l.q (frontNo (l.seq % 2 ^ 24) 9)) (recAspc l.rcd) .home (BitVec.ofNat 64 (recChofs l.rcd)) .atomic = .ok pa x ∧ x.type = .normal ∧ s.poison.contains (pa / 64) = false ∧ (bytesDWord (s.bytesAt pa x.key 8)).toNat = 0 ∧
    (recCval l.rcd).toNat = v := by
  intro v h
  fin_cases h
  · exact ⟨waving (fun l => { l with rcd := goodRec (2 ^ 63 + 3 * 2 ^ 56 + 0x10008) 0 }) 4096, { ending with rcd := goodRec (2 ^ 63 + 3 * 2 ^ 56 + 0x10008) 0 }, mkPa 0 3 0x1004008, page3, ⟨rfl, by decide +kernel, by decide +kernel, by decide +kernel, by decide +kernel, by decide +kernel⟩, by decide +kernel, by decide +kernel, by decide +kernel, by decide +kernel,
      by decide +kernel, by decide +kernel, by decide +kernel, by decide +kernel, by decide +kernel⟩
  · exact ⟨waving (fun l => { l with rcd := goodRec (2 ^ 63 + 3 * 2 ^ 56 + 0x10008) 1 }) 4096, { ending with rcd := goodRec (2 ^ 63 + 3 * 2 ^ 56 + 0x10008) 1 }, mkPa 0 3 0x1004008, page3, ⟨rfl, by decide +kernel, by decide +kernel, by decide +kernel, by decide +kernel, by decide +kernel⟩, by decide +kernel, by decide +kernel, by decide +kernel, by decide +kernel,
      by decide +kernel, by decide +kernel, by decide +kernel, by decide +kernel, by decide +kernel⟩
theorem test_LaunchEnd_stall : ∃ (s : State) (l : Launch) (r : List Nat × DWord), s.launches = [(launchKey l.q l.seq, l)] ∧ l.watching = [] ∧ s.bastings = [] ∧ s.replay = [] ∧ s.inp.id = 0 ∧ (s.wavePos = 0 ∧ s.wavePeriod ≤ s.since s.waveAt) ∧ l.retired ≠ l.placed ∧ l.ref = some r ∧
    l.stalled = false ∧ s.stallWindow = s.since r.2 ∧ s.stallWindow ≠ 0 ∧ (∀ e ∈ s.clusters, e.2.saved = []) ∧ (∃ e ∈ s.launchCtxs (launchKey l.q l.seq), e.2.st ≠ .halted) ∧ (∀ e ∈ s.launchCtxs (launchKey l.q l.seq), s.stuckCtx e.1 e.2 = true) ∧
    r.1 = (s.sumsUpTo (launchKey l.q l.seq) s.wavePos 128).getD 4 0 :: (s.launchCtxs (launchKey l.q l.seq)).flatMap (fun e => s.targets e.2) ∧ (s.queue l.q).st = .active :=
  ⟨(waving (fun l => { l with retired := 0, ref := some ([0], 0) }) 0x800000).setCtx ⟨3, 0, 0⟩ { Ctx.reset with slot := some 0, st := .blocked .recv }, { ending with retired := 0, ref := some ([0], 0) }, ([0], 0), rfl, rfl, rfl, rfl, rfl, by decide +kernel, by decide +kernel, rfl, rfl, by decide +kernel, by decide +kernel,
   by decide +kernel, by decide +kernel, by decide +kernel, by decide +kernel, by decide +kernel⟩

/-! ### Witnesses: placement -/

/-- A launch of queue 0 waits for its team. -/
def offering (f : State → State) : State := f (launched id)
theorem test_Placement_place : ∃ (s : State) (l : Launch) (c : Nat) (f : Fit), s.offers = [l] ∧ s.choose l = .place c f ∧ s.resumeFirst (s.effPrio l.q l.rcd) = none := ⟨offering id, aLaunch, 3, ⟨0, 0, [(0, 0)], [0]⟩, by decide +kernel, by decide +kernel, by decide +kernel⟩
/-- A team of cluster 3 is being resumed. -/
def aSaved : Saved := ⟨7, 0x10000000, 0, true, 0, (0, 0), 0, [(1, 0)], [], [], [], [], [], [], [], []⟩
theorem test_Placement_resume : ∃ (s : State) (l : Launch) (c r : Nat) (f : Fit), s.offers = [l] ∧ s.choose l = .place c f ∧ s.resumeFirst (s.effPrio l.q l.rcd) = some r :=
  ⟨offering (fun s => s.modClus 3 (fun k => { k with saved := [aSaved], pre := { run := 5, slot := 7, img := 0x10000000 } })), aLaunch, 3, 3, ⟨0, 0, [(0, 0)], [0]⟩, by decide +kernel, by decide +kernel, by decide +kernel⟩
/-- A basting launch of queue 9 that reserves cluster 3. -/
def aBasting (st : BastSt) : Basting := { st := st, rcd := goodRec 0 0, img := [], seq := 0, clusters := [3], teamClus := [3], start := 0, order := 0 }
theorem test_Placement_unpick : ∃ (s : State) (l : Launch) (q : Nat), s.offers = [l] ∧ s.choose l = .unpick q ∧ (∀ e ∈ s.bastings, e.1 = q → e.2.st ≠ .committing) := ⟨offering (fun s => { s with bastings := [(9, aBasting .running)] }), aLaunch, 9, by decide +kernel, by decide +kernel, by decide +kernel⟩
/-- A launch of sixteen cores, eight contexts and four planes. -/
def geoLaunch : Launch := { aLaunch with rcd := le 24 0 ++ le 8 (2 ^ 48 + 2 ^ 32 + 16 * 2 ^ 8 + 8 * 2 ^ 4 + 4) ++ le 224 0 }
theorem test_Placement_geometry : ∃ (s : State) (l : Launch), s.offers = [l] ∧ l.placed = 0 ∧ (s.queue l.q).st = .active ∧ s.basting? l.q = none ∧ s.candidates (s.queue l.q).fn l.rcd l.map 0 l.last ≠ [] ∧
    (∀ c ∈ s.candidates (s.queue l.q).fn l.rcd l.map 0 l.last, s.fitsEmpty (s.queue l.q).fn c l.rcd = false) :=
  ⟨{ ((fronted { fn := 5, cfg := 0xE04, st := .active, nlive := 1 }).modClus 3 (fun k => { k with svcCtl := 1 <<< 63, svcStat := 1 })) with launches := [((0, 0), geoLaunch)] }, geoLaunch, by decide +kernel, rfl, by decide +kernel, by decide +kernel, by decide +kernel, by decide +kernel⟩
theorem test_Placement_none : ∃ s : State, s.allOffers = [] := ⟨fronted {}, by decide +kernel⟩
theorem test_Placement_blocking : ∀ n ∈ [2 ^ 20, 2 ^ 20 - 1], ∃ (s : State) (l : Launch) (b : DWord), s.launches = [(launchKey l.q l.seq, l)] ∧ l.q = s.inp.id ∧ l.seq = s.inp.n ∧ l.began = some b ∧ s.offersOf l.q = [l] ∧ s.since b = n :=
  fun n h => ⟨{ launched (fun l => { l with began := some 0 }) with clk := BitVec.ofNat 64 n }, { aLaunch with began := some 0 }, 0, by fin_cases h <;> decide +kernel⟩
/-- A write of SVC_CTL to cluster 3. -/
def servicing (v : DWord) (f : Clus → Clus) : State := with_ ((fronted {}).modClus 3 f) { clus := 3, val := v }
theorem test_Placement_service : ∃ s t u : State, (s.inp.fn = 0 ∧ s.inp.clus = 3 ∧ s.noTeam 3 = true ∧ s.inp.val.getLsbD 63 = true ∧ (s.clus 3).svcCtl.getLsbD 63 = false ∧ (s.clus 3).svcBad (s.inp.val &&& 0x800FFFFFFFFFFFFF#64) (s.clus 3).svcEnt = false) ∧
    (t.inp.fn = 0 ∧ t.inp.clus = 3 ∧ t.noTeam 3 = true ∧ t.inp.val.getLsbD 63 = true ∧ (t.clus 3).svcCtl.getLsbD 63 = false ∧ (t.clus 3).svcBad (t.inp.val &&& 0x800FFFFFFFFFFFFF#64) (t.clus 3).svcEnt = true) ∧
    (u.inp.fn = 0 ∧ u.inp.clus = 3 ∧ u.noTeam 3 = true ∧ u.inp.val.getLsbD 63 = true ∧ (u.clus 3).svcCtl.getLsbD 63 = true) :=
  ⟨servicing (1 <<< 63 + 1) id, servicing (1 <<< 63) id, servicing (1 <<< 63 + 1) (fun k => { k with svcCtl := 1 <<< 63 }), by decide +kernel, by decide +kernel, by decide +kernel⟩
theorem test_Placement_service_stop : ∃ s t : State, (s.inp.fn = 0 ∧ s.inp.clus = 3 ∧ s.noTeam 3 = true ∧ s.inp.val.getLsbD 63 = false) ∧ (t.inp.fn = 0 ∧ t.inp.clus = 3 ∧ t.noTeam 3 = false) :=
  ⟨servicing 0 id, with_ ((fronted {}).setCtx ⟨3, 0, 0⟩ { Ctx.reset with slot := some 0 }) { clus := 3 }, by decide +kernel, by decide +kernel⟩
/-- The team of slot 7 of cluster 3, seen stalled at clock 0; STALLK is 16. -/
def stalledRec : List Byte := le 8 (2 ^ 56 + 16 * 2 ^ 32) ++ (goodRec 0 0).drop 8
def stalledTeam : Team := { launch := (0, 0), index := 0, pos := [(0, 0), (1, 0)], planes := [], bast := false, stallRef := some (0, 0, List.replicate 128 TagRec.reset.op) }
def stalling (clk : Nat) : State :=
  with_ ({ launched (fun l => { l with rcd := stalledRec, placed := 1 }) with teams := [((3, 7), stalledTeam)], clk := BitVec.ofNat 64 clk }.setCtx ⟨3, 0, 0⟩ { Ctx.reset with slot := some 7, st := .blocked .recv } |>.setCtx ⟨3, 1, 0⟩ { Ctx.reset with slot := some 7, st := .halted }) { clus := 3, slot := 7 }
theorem test_Placement_stall : ∀ clk ∈ [65536, 65535], ∃ (s : State) (t : Team) (n : Nat) (b : DWord), s.team? s.inp.clus s.inp.slot = some t ∧ t.pos.Nodup ∧ t.bast = false ∧ t.stallRef = some (n, b, s.tagOps s.inp.clus t) ∧ s.noMessageFor s.inp.clus t = true ∧
    recStallk (s.teamRecord t) = 16 ∧ (t.at s.inp.clus).filter (fun p => !(s.ctx p).st.isHalted) = [⟨3, 0, 0⟩] ∧ (∀ p ∈ [(⟨3, 0, 0⟩ : Pos)], s.stallKind p ≠ 0 ∧ (s.ctx p).basting = false ∧ (s.ctx p).stop = false ∧ (s.ctx p).last = false ∧ (s.ctx p).sub = none ∧
      (s.ctx p).intrap = false) ∧ n + s.since b = clk := fun clk h => ⟨stalling clk, stalledTeam, 0, 0, by fin_cases h <;> decide +kernel⟩

/-! ### Witnesses: prediction, basting launches -/

/-- A history of records whose CVAL takes these values. -/
def history (l : List Nat) : List (List Byte) := l.map (goodRec 0)
theorem test_Prediction_none : ∃ h : List (List Byte), (∀ r ∈ h, r.length = 256) ∧ ∀ L, ¬ isPeriod h L := ⟨history [7], by decide +kernel, fun L h => by have h1 := h.1; have h2 := h.2.2.1; have h3 : (history [7]).length = 1 := rfl; omega⟩
theorem isPeriod_one (l : List Nat) (h : 2 ≤ l.length ∧ ∀ k, k < 32 → 8 * k ∉ strideOffsets → recWord ((history l).getD ((history l).length - 1) []) (8 * k) = recWord ((history l).getD ((history l).length - 2) []) (8 * k)) : isPeriod (history l) 1 := by
  refine ⟨by omega, by omega, by simpa [history] using h.1, fun i hi k hk hm => ?_⟩
  obtain rfl : i = 0 := by omega
  exact h.2 k hk hm
theorem test_Prediction_refused : ∃ (h : List (List Byte)) (L : Nat), (∀ r ∈ h, r.length = 256) ∧ isPeriod h L ∧ (∀ K, isPeriod h K → L ≤ K) ∧ ¬ 3 * L ≤ h.length ∧ recWord (h.getD (h.length - L) []) 0x40 ≠ recWord (h.getD (h.length - 2 * L) []) 0x40 :=
  ⟨history [7, 8], 1, by decide +kernel, isPeriod_one _ (by decide +kernel), fun _ h => h.1, by decide +kernel, by decide +kernel⟩
theorem test_Prediction_stride : ∃ (h : List (List Byte)) (L : Nat), (∀ r ∈ h, r.length = 256) ∧ isPeriod h L ∧ (∀ K, isPeriod h K → L ≤ K) ∧
    ∀ k ∈ strideOffsets, 3 * L ≤ h.length ∧ recWord (h.getD (h.length - 1 * L) []) k - recWord (h.getD (h.length - 2 * L) []) k = recWord (h.getD (h.length - 2 * L) []) k - recWord (h.getD (h.length - 3 * L) []) k :=
  ⟨history [2 ^ 64 - 1, 0, 1], 1, by decide +kernel, isPeriod_one _ (by decide +kernel), fun _ h => h.1, by decide +kernel⟩
theorem test_Prediction_kept : ∃ (h : List (List Byte)) (L : Nat), (∀ r ∈ h, r.length = 256) ∧ isPeriod h L ∧ (∀ K, isPeriod h K → L ≤ K) ∧
    (∀ k ∈ strideOffsets, recWord (h.getD (h.length - 1 * L) []) k = recWord (h.getD (h.length - 2 * L) []) k) ∧ recWord (h.getD (h.length - 2 * L) []) 0x40 ≠ recWord (h.getD (h.length - 3 * L) []) 0x40 :=
  ⟨history [7, 9, 9], 1, by decide +kernel, isPeriod_one _ (by decide +kernel), fun _ h => h.1, by decide +kernel⟩

/-- A record that allows basting. -/
def bokRec : List Byte := le 8 (2 ^ 56 + 2 ^ 45) ++ (goodRec 0 0).drop 8
/-- A queue 0 whose history predicts that record. -/
def predicting (r : List Byte) : State := fronted { fn := 5, cfg := 0xFE04, st := .active, hist := [r, r], histNew := true }
/-- A basting launch of queue 0 in cluster 3. -/
def basting (b : Basting) (f : State → State) : State := f { fronted { fn := 5, cfg := 0xFE04, st := .active } with bastings := [(0, b)], clk := 5 }
theorem test_Bastings_control : ∀ v ∈ [(0x101 : DWord), 0x100, 1], ∃ (s : State) (q : Nat) (b : Basting), s.inp.fn = 0 ∧ (s.bastings.map (·.1)).Nodup ∧ (q, b) ∈ s.bastings ∧ s.inp.val = v ∧ s.bastings.length = 2 ∧ b.st ≠ .committing :=
  fun v h => ⟨with_ (basting (aBasting .running) (fun s => { s with bastings := [(0, aBasting .running), (1, { aBasting .revalidating with order := 1 })] })) { val := v }, 0, aBasting .running, by fin_cases h <;> decide +kernel⟩
theorem test_Bastings_no_start : ∃ s : State, s.inp.id = 0 ∧ (s.queue 0).baste = true ∧ (s.queue 0).histNew = false := ⟨basting (aBasting .running) id, by decide +kernel⟩
theorem test_Bastings_not_allowed : ∃ (s : State) (rcd : List Byte), s.inp.id = 0 ∧ predict (s.queue 0).hist = some rcd ∧ recBok rcd = false := ⟨predicting (goodRec 0 0), goodRec 0 0, rfl, by decide +kernel, by decide +kernel⟩
/-- What BASTE_START asks for. -/
structure Startable (s : State) (rcd : List Byte) (c : Nat) (f : Fit) : Prop where
  queue : s.ready = true ∧ (s.queue 0).st = .active ∧ (s.queue 0).baste = true ∧ (s.queue 0).device = false ∧ (s.queue 0).prod = (s.queue 0).cons ∧ (s.queue 0).histNew = true
  alone : s.inp.id = 0 ∧ s.launches = [] ∧ s.bastings = [] ∧ s.teams = [] ∧ s.inp.load = .none
  ctl : 0 < (s.bst.ctl.extractLsb' 0 3).toNat ∧ s.bst.ctl.extractLsb' 8 8 ≠ 0 ∧ s.quietFn (s.queue 0).fn = false
  predicts : predict (s.queue 0).hist = some rcd
  allows : recBok rcd = true ∧ recSys rcd = false ∧ recDebug rcd = false ∧ recNdep rcd = 0 ∧ recPmap rcd = 0 ∧ recTidn rcd = 0 ∧ recTeams rcd = 1
  good : recordFault s (s.queue 0).fn rcd none none = none
  free : ∀ n, (s.clus n).pre.run ≠ 5
  fits : (s.clusRing (s.queue 0).fn none).findSome? (fun c => (s.fit (s.queue 0).fn c (launchKey 0 (s.queue 0).prod) rcd).map (fun f => (c, f))) = some (c, f)
theorem predicting_free (n : Nat) : ((predicting bokRec).clus n).pre.run ≠ 5 := by
  by_cases h : n = 3
  · subst h; decide
  · have e : (predicting bokRec).clus n = Assoc.get Clus.reset n (predicting bokRec).clusters := rfl
    have g : ∃ k, (predicting bokRec).clusters = [(3, k)] := ⟨_, rfl⟩
    obtain ⟨k, g⟩ := g
    rw [e, g]
    have : ¬ (3 : Nat) = n := fun x => h x.symm
    simp only [Assoc.get, this, if_false]
    decide
theorem test_Bastings_start : ∃ (s : State) (rcd : List Byte) (c : Nat) (f : Fit), Startable s rcd c f :=
  ⟨predicting bokRec, bokRec, 3, ⟨0, 0, [(0, 0)], [0]⟩, by decide +kernel, by decide +kernel, by decide +kernel, by decide +kernel, by decide +kernel, by decide +kernel, predicting_free, by decide +kernel⟩
theorem test_Bastings_adopt : ∀ d ∈ [true, false], ∃ (s : State) (b : Basting) (l : Launch), s.inp.id = 0 ∧ s.bastings = [(0, b)] ∧ b.st = .running ∧ b.matched = true ∧ s.launches = [(launchKey 0 b.seq, l)] ∧ recNdep l.rcd = 0 ∧
    (Assoc.get [] 0 s.readSets).filter (fun e => paPkg (4096 * e.2.1) ≠ s.pkg) = [(0, mkPa 9 0 0x1004000 / 4096, 3)] ∧ s.dead.getLsbD 9 = d :=
  fun d h => ⟨basting { aBasting .running with matched := true } (fun s => { s with launches := [((0, 0), aLaunch)], dead := if d then 1 <<< 9 else 0, readSets := [(0, [(0, mkPa 9 0 0x1004000 / 4096, 3)])] }), { aBasting .running with matched := true }, aLaunch, by fin_cases h <;> decide +kernel⟩
/-- The launch is being revalidated; it has read page 5 at generation 3, and page 0x2000 of another package is awaited. -/
def revalidating (aw : List Nat) (l : List (Nat × Nat)) (g : Nat) : State := with_ (basting { aBasting .revalidating with awaiting := aw } (fun s => { s with readSets := [(0, [(0, 5, 3), (0, mkPa 9 0 0x1004000 / 4096, 3)])], gens := [(5, g)] })) { pairs := l }
theorem test_Bastings_reply : ∀ n ∈ [3, 4], ∃ (s : State) (b : Basting), s.inp.id = 0 ∧ s.bastings = [(0, b)] ∧ b.st = .revalidating ∧ b.awaiting = [mkPa 9 0 0x1004000 / 4096] ∧ s.inp.pairs = [(mkPa 9 0 0x1004000 / 4096, n)] ∧
    (0, mkPa 9 0 0x1004000 / 4096, 3) ∈ Assoc.get [] 0 s.readSets :=
  fun n h => ⟨revalidating [mkPa 9 0 0x1004000 / 4096] [(mkPa 9 0 0x1004000 / 4096, n)] 3, { aBasting .revalidating with awaiting := [mkPa 9 0 0x1004000 / 4096] }, by fin_cases h <;> decide +kernel⟩
theorem test_Bastings_stale : ∃ (s : State) (b : Basting), s.inp.id = 0 ∧ s.bastings = [(0, b)] ∧ b.st = .revalidating ∧ b.awaiting = [] ∧ b.doomed = false ∧ ∃ e ∈ Assoc.get [] 0 s.readSets, paPkg (4096 * e.2.1) = s.pkg ∧ Assoc.get 0 e.2.1 s.gens ≠ e.2.2 :=
  ⟨revalidating [] [] 4, aBasting .revalidating, by decide +kernel⟩
theorem test_Bastings_landing : ∃ (s : State) (b : Basting), s.inp.id = 0 ∧ s.bastings = [(0, b)] ∧ b.st = .revalidating ∧ b.awaiting = [] ∧ b.doomed = false ∧ (∀ e ∈ Assoc.get [] 0 s.readSets, paPkg (4096 * e.2.1) = s.pkg → Assoc.get 0 e.2.1 s.gens = e.2.2) ∧
    s.bastLanding 0 b = true :=
  ⟨{ revalidating [] [] 3 with pulls := [(1, { aPull with bast := some 0, bytes := [⟨0x1004000, 0x1008000, 0, 0, 8⟩] })] }, aBasting .revalidating, by decide +kernel⟩
theorem test_Bastings_commit : ∃ (s : State) (b : Basting), s.inp.id = 0 ∧ s.bastings = [(0, b)] ∧ b.st = .revalidating ∧ b.awaiting = [] ∧ b.doomed = false ∧ (∀ e ∈ Assoc.get [] 0 s.readSets, paPkg (4096 * e.2.1) = s.pkg → Assoc.get 0 e.2.1 s.gens = e.2.2) ∧
    s.bastLanding 0 b = false ∧ memWf s.mem = true ∧ b.clusters.Nodup ∧ (∀ c ∈ b.clusters, ((s.clus c).shadow.map (·.1)).Nodup ∧ ∀ x ∈ (s.clus c).shadow, x.2.2.length = 64) ∧
    (∀ c ∈ b.clusters, ∀ d ∈ b.clusters, c ≠ d → ∀ x ∈ (s.clus c).shadow, ∀ y ∈ (s.clus d).shadow, x.1 ≠ y.1) ∧ ∃ c ∈ b.clusters, (s.clus c).shadow ≠ [] :=
  ⟨(revalidating [] [] 3).modClus 3 (fun k => { k with shadow := [(mkPa 0 3 0x1004000 / 64, 0, zeros 64), (mkPa 0 3 0x1004040 / 64, 0, zeros 64)] }), aBasting .revalidating, by decide +kernel⟩
/-- The launch is committed; the message that it deferred is for this package. -/
def deferredMsg : MsgItem := ⟨0, ⟨3, 0, 0⟩, 8, 0, false, 0, []⟩
theorem test_Bastings_committed : ∀ l ∈ [[], [((0 : Nat), Deferred.msg deferredMsg)]], ∃ (s : State) (b : Basting), s.inp.id = 0 ∧ s.bastings = [(0, b)] ∧ b.st = .committing ∧ s.inp.flag = false ∧ s.replay = [] ∧ s.deferred = l ∧ destPkg deferredMsg.dest = s.pkg :=
  fun l _ => ⟨basting (aBasting .committing) (fun s => { s with deferred := l }), aBasting .committing, rfl, rfl, rfl, rfl, rfl, rfl, rfl⟩
theorem test_Bastings_unpick : ∀ st ∈ [BastSt.running, .revalidating], ∀ clk ∈ [0x800000, 0x7FFFFF], ∃ (s : State) (b : Basting), s.inp.id = 0 ∧ s.bastings = [(0, b)] ∧ b.st = st ∧ b.st ≠ .committing ∧ s.bst.life = 0x800000 ∧ s.since b.start = clk :=
  fun st h clk g => ⟨basting (aBasting st) (fun s => { s with clk := BitVec.ofNat 64 clk }), aBasting st, by fin_cases h <;> fin_cases g <;> decide +kernel⟩

/-! ### Witnesses: leases -/

/-- Package 9 is a partner, reached from lane 2 to receive lane 0 and from lane 3 to receive lane 1; function 0 may lease so many colours. -/
def linked (quota : Nat) (f : Fabric → Fabric) (s : State) : State :=
  { s with dead := 0, fabric := f { s.fabric with quota := [(0, quota)], partners := [(9, { st := .up, routes := [⟨2, 4, 0⟩, ⟨3, 5, 1⟩], usable := [(⟨2, 4, 0⟩, 100), (⟨3, 5, 1⟩, 100)] })] } }
/-- A lease block at 0x7FE0: its destination, term, nwant and nmin; registers 8 and 10 hold addresses that are no block's, 12 holds 0x7FC0. -/
def leasing (w w8 : Nat) (f : Ctx → Ctx) : State := (tagged [(1, .busy .coll, 0)] [(6, 0x7FE0), (8, 0x8000), (10, 0x7FE4)] f).putBytes 0x7FE0 0 (le 8 w ++ le 8 w8)
def leaseWord (dest term nwant nmin : Nat) : Nat := dest * 2 ^ 52 + term * 2 ^ 32 + nwant * 2 ^ 16 + nmin
theorem test_Leases_tag_busy : ∃ (s : State) (a : Reg) (g : Tag), s.Issues (.lease a g) ∧ s.me.basting = false ∧ (tagOf s g.toNat).st.isFree = false ∧ CanTrap s := ⟨leasing 0 0 id, 6, 1, issues_of (by decide +kernel), rfl, by decide +kernel, canTrap_of (by decide +kernel)⟩
theorem test_Leases_bad_block : ∀ a ∈ [(8 : Reg), 10], ∃ (s : State) (g : Tag), s.Issues (.lease a g) ∧ s.me.basting = false ∧ (tagOf s g.toNat).st.isFree = true ∧ (val (s.seen (.lease a g)) a 1 % 32 ≠ 0 ∨ 0x8000 < val (s.seen (.lease a g)) a 1 + 32) ∧ CanTrap s :=
  fun a h => ⟨leasing 0 0 id, 63, issues_of (by fin_cases h <;> decide +kernel), rfl, by decide +kernel, by fin_cases h <;> decide +kernel, canTrap_of (by decide +kernel)⟩
theorem test_Leases_poisoned : ∃ (s : State) (a : Reg) (g : Tag), s.Issues (.lease a g) ∧ s.me.basting = false ∧ (tagOf s g.toNat).st.isFree = true ∧ val (s.seen (.lease a g)) a 1 = 0x7FE0 ∧ (s.view (.lease a g)).blockPoison 0x7FE0 16 = true ∧ CanTrap s :=
  ⟨{ leasing (leaseWord 9 1 1 1) 0 id with poison := [0x7FE0 / 64] }, 6, 63, issues_of (by decide +kernel), by decide +kernel, by decide +kernel, by decide +kernel, by decide +kernel, canTrap_of (by decide +kernel)⟩
/-- LEASE with a block that can be read. -/
structure Leasing (s : State) (a : Reg) (g : Tag) : Prop where
  issues : s.Issues (.lease a g)
  basting : s.me.basting = false
  tag : (tagOf s g.toNat).st.isFree = true
  block : val (s.seen (.lease a g)) a 1 = 0x7FE0 ∧ (s.view (.lease a g)).blockPoison 0x7FE0 16 = false
/-- One term below and one at each bound of R343's checks. -/
theorem test_Leases_bad : ∀ n ∈ [leaseWord 9 0 1 1, leaseWord 9 1 0 0, leaseWord 9 1 1025 1, leaseWord 9 1 1 0, leaseWord 9 1 1 2, leaseWord 0 1 1 1, leaseWord 9 1 1 1 + 2 ^ 48], ∃ (s : State) (a : Reg) (g : Tag), Leasing s a g ∧
    (let w := (s.view (.lease a g)).descWord 0x7FE0 0
     w.extractLsb' 48 4 ≠ 0 ∨ w.extractLsb' 27 5 ≠ 0 ∨ w.extractLsb' 11 5 ≠ 0 ∨ (w.extractLsb' 32 16).toNat = 0 ∨ (w.extractLsb' 16 11).toNat = 0 ∨ 1024 < (w.extractLsb' 16 11).toNat ∨ (w.extractLsb' 0 11).toNat = 0 ∨
       (w.extractLsb' 16 11).toNat < (w.extractLsb' 0 11).toNat ∨ (w.extractLsb' 52 12).toNat = s.pkg) ∧ CanTrap s :=
  fun n h => ⟨leasing n 0 id, 6, 63, ⟨issues_of (by fin_cases h <;> decide +kernel), rfl, by fin_cases h <;> decide +kernel, by fin_cases h <;> decide +kernel⟩, by fin_cases h <;> decide +kernel, canTrap_of (by fin_cases h <;> decide +kernel)⟩
/-- A block that meets the checks of its first word. -/
def goodLease (s : State) (a : Reg) (g : Tag) : Bool :=
  let w := (s.view (.lease a g)).descWord 0x7FE0 0
  decide (¬ (w.extractLsb' 48 4 ≠ 0 ∨ w.extractLsb' 27 5 ≠ 0 ∨ w.extractLsb' 11 5 ≠ 0 ∨ (w.extractLsb' 32 16).toNat = 0 ∨ (w.extractLsb' 16 11).toNat = 0 ∨ 1024 < (w.extractLsb' 16 11).toNat ∨ (w.extractLsb' 0 11).toNat = 0 ∨
    (w.extractLsb' 16 11).toNat < (w.extractLsb' 0 11).toNat ∨ (w.extractLsb' 52 12).toNat = s.pkg))
theorem test_Leases_bad_second : ∃ (s : State) (a : Reg) (g : Tag), Leasing s a g ∧ goodLease s a g = true ∧ ((s.view (.lease a g)).descWord 0x7FE0 8).extractLsb' 32 32 ≠ 0 ∧ CanTrap s :=
  ⟨leasing (leaseWord 9 1 1 1) (2 ^ 32) id, 6, 63, ⟨issues_of (by decide +kernel), rfl, by decide +kernel, by decide +kernel⟩, by decide +kernel, by decide +kernel, canTrap_of (by decide +kernel)⟩
theorem test_Leases_dead : ∃ (s : State) (a : Reg) (g : Tag), Leasing s a g ∧ goodLease s a g = true ∧ ((s.view (.lease a g)).descWord 0x7FE0 8).extractLsb' 32 32 = 0 ∧ s.dead.getLsbD 9 = true ∧ CanTrap s :=
  ⟨{ leasing (leaseWord 9 1 1 1) 0 id with dead := 1 <<< 9 }, 6, 63, ⟨issues_of (by decide +kernel), by decide +kernel, by decide +kernel, by decide +kernel⟩, by decide +kernel, by decide +kernel, by decide +kernel, canTrap_of (by decide +kernel)⟩
theorem test_Leases_denied : ∃ (s : State) (a : Reg) (g : Tag), Leasing s a g ∧ goodLease s a g = true ∧ ((s.view (.lease a g)).descWord 0x7FE0 8).extractLsb' 32 32 = 0 ∧ s.dead.getLsbD 9 = false ∧ s.fabric.isPartner 9 = false ∧ CanTrap s :=
  ⟨{ leasing (leaseWord 9 1 1 1) 0 id with dead := 0 }, 6, 63, ⟨issues_of (by decide +kernel), by decide +kernel, by decide +kernel, by decide +kernel⟩, by decide +kernel, by decide +kernel, by decide +kernel, by decide +kernel, canTrap_of (by decide +kernel)⟩
/-- NMIN is 2 and package 9 has two lanes; and 3, of which there are not as many. -/
theorem test_Leases_request : ∀ n ∈ [1, 2, 3], ∀ quota ∈ [n, n - 1], ∃ (s : State) (a : Reg) (g : Tag), Leasing s a g ∧ goodLease s a g = true ∧ ((s.view (.lease a g)).descWord 0x7FE0 8).extractLsb' 32 32 = 0 ∧ s.dead.getLsbD 9 = false ∧ s.fabric.isPartner 9 = true ∧
    s.fabric.quotaOf (s.clus s.cur.clus).fn = quota ∧ s.fabric.attributed (s.clus s.cur.clus).fn = 0 ∧ s.fabric.partners = [(9, s.fabric.partner 9)] ∧ (s.fabric.lanesTo 9).length = 2 ∧
    (((s.view (.lease a g)).descWord 0x7FE0 0).extractLsb' 0 11).toNat = n :=
  fun n h quota k => ⟨linked quota id (leasing (leaseWord 9 1 3 n) 0 id), 6, 63,
    ⟨issues_of (by fin_cases h <;> fin_cases k <;> decide +kernel), by fin_cases h <;> fin_cases k <;> decide +kernel, by fin_cases h <;> fin_cases k <;> decide +kernel, by fin_cases h <;> fin_cases k <;> decide +kernel⟩, by fin_cases h <;> fin_cases k <;> decide +kernel⟩
theorem test_Leases_queries : ∀ i ∈ [Instr.deadq 4 2, .leaseq 4 2, .leaserel 4 2 6], ∃ s : State, s.Issues i ∧ s.me.basting = false := fun i h => ⟨at_ 9 [(6, 1)] id, issues_of (by fin_cases h <;> decide +kernel), rfl⟩
/-- A query waits for its answer at context 0. -/
def querying (q : Query) (quota : Nat) (f : Fabric → Fabric) : State := linked quota f (here [] (fun c => { c with st := .blocked (.query q 4) }))
theorem waits_query (q : Query) (quota : Nat) (f : Fabric → Fabric) : QueryWaits (querying q quota f) q 4 := ⟨rfl, rfl, rfl, rfl⟩
theorem test_Leases_dead_query : ∀ p ∈ [(0, none), (9, some 9), (7, some 9), (8, none)], ∃ (s : State) (d : Reg), QueryWaits s (.dead p.1) d ∧ s.fabric.hop p.1 = p.2 ∧ s.pkg = 0 :=
  fun p h => ⟨querying (.dead p.1) 0 (fun f => f.modPartner 9 (fun x => { x with relays := [(7, 1)] })), 4, waits_query _ _ _, by fin_cases h <;> decide +kernel, rfl⟩
/-- The colour of a grant of two lanes. -/
def aGrant : Grant := ⟨9, 0, [2, 3], 1, 2100, false, 0⟩
theorem test_Leases_lease_query : ∃ s t : State, (QueryWaits s (.lease 9) 4 ∧ s.fabric.grants.filter (fun e => e.2.dest = 9 && e.2.fn = (s.clus s.inp.pos.clus).fn) = []) ∧
    (QueryWaits t (.lease 9) 4 ∧ t.fabric.grants = [(7, aGrant)] ∧ aGrant.fn = (t.clus t.inp.pos.clus).fn ∧ (aGrant.tend - t.clk).toNat < 2 ^ 63 ∧ aGrant.tend ≠ t.clk) :=
  ⟨querying (.lease 9) 1 id, querying (.lease 9) 2 (fun f => { f with grants := [(7, aGrant)] }), ⟨waits_query _ _ _, by decide +kernel⟩, ⟨waits_query _ _ _, by decide +kernel⟩⟩
theorem test_Leases_release : ∀ n ∈ [0, 1], ∃ s : State, QueryWaits s (.release 9 n) 4 ∧ s.fabric.grants = [(7, aGrant)] ∧ aGrant.fn = (s.clus s.inp.pos.clus).fn ∧ n < aGrant.lanes.length :=
  fun n h => ⟨querying (.release 9 n) 2 (fun f => { f with grants := [(7, aGrant)] }), waits_query _ _ _, by fin_cases h <;> decide +kernel⟩
theorem test_Leases_release_none : ∃ s : State, QueryWaits s (.release 9 3) 4 ∧ (∀ e ∈ s.fabric.grants, ¬ (e.2.dest = 9 ∧ e.2.fn = (s.clus s.inp.pos.clus).fn)) := ⟨querying (.release 9 3) 2 id, waits_query _ _ _, by decide +kernel⟩
/-- Request 7 waits for its answer, asked at clock 0. -/
def aLease : Lease := ⟨⟨0, 0, 0⟩, 63, 0x7FE0, 0, 9, 2, 1, 1, 0, 1, 0⟩
def requesting (a : LeaseAns) (l : Lease) (quota : Nat) (clk : Nat) : State :=
  { with_ (linked quota (fun f => { f with leases := [(7, l)] }) (tagged [(63, .busy (.lease 0), 0)] [] id)) { id := 7, load := .leaseAns a } with clk := BitVec.ofNat 64 clk }
theorem test_Leases_refused : ∀ a ∈ [LeaseAns.refuse 7, .dead], ∃ (s : State) (l : Lease), LeaseWaits s s.inp.id l ∧ s.inp.load = .leaseAns a :=
  fun a h => ⟨requesting a aLease 1 0, aLease, ⟨by fin_cases h <;> decide +kernel, by fin_cases h <;> decide +kernel, by decide, by decide, by fin_cases h <;> decide +kernel, by fin_cases h <;> decide +kernel, by fin_cases h <;> decide +kernel⟩, rfl⟩
theorem test_Leases_over_quota : ∃ (s : State) (l : Lease), LeaseWaits s s.inp.id l ∧ s.inp.load = .leaseAns (.grant [⟨2, 4, 0⟩] 0) ∧ s.fabric.quotaOf l.fn < s.fabric.attributed l.fn + l.nmin :=
  ⟨requesting (.grant [⟨2, 4, 0⟩] 0) aLease 0 0, aLease, ⟨by decide +kernel, by decide +kernel, by decide, by decide, by decide +kernel, by decide +kernel, by decide +kernel⟩, rfl, by decide +kernel⟩
theorem test_Leases_again : ∃ (s : State) (l : Lease), LeaseWaits s s.inp.id l ∧ s.inp.load = .leaseAns (.grant [⟨6, 4, 0⟩] 0) ∧ s.fabric.attributed l.fn + l.nmin ≤ s.fabric.quotaOf l.fn ∧
    ([(⟨6, 4, 0⟩ : Route)].filter (fun r => (s.fabric.offered l.dest).contains r)).length < l.nmin :=
  ⟨requesting (.grant [⟨6, 4, 0⟩] 0) aLease 1 0, aLease, ⟨by decide +kernel, by decide +kernel, by decide, by decide, by decide +kernel, by decide +kernel, by decide +kernel⟩, rfl, by decide +kernel, by decide +kernel⟩
theorem test_Leases_granted : ∃ (s : State) (l : Lease) (lanes : List Route), LeaseWaits s s.inp.id l ∧ s.inp.load = .leaseAns (.grant lanes 0) ∧ lanes.length = 2 ∧ (lanes.map (·.lane)).Nodup ∧ (lanes.map (·.rx)).Nodup ∧ (∀ x ∈ lanes, x ∈ s.fabric.offered l.dest) ∧
    l.nmin ≤ lanes.length ∧ lanes.length ≤ l.nwant ∧ l.nwant ≤ 1024 ∧ s.fabric.attributed l.fn + lanes.length ≤ s.fabric.quotaOf l.fn :=
  ⟨requesting (.grant [⟨2, 4, 0⟩, ⟨3, 5, 1⟩] 0) aLease 2 0, aLease, [⟨2, 4, 0⟩, ⟨3, 5, 1⟩], ⟨by decide +kernel, by decide +kernel, by decide, by decide, by decide +kernel, by decide +kernel, by decide +kernel⟩, by decide +kernel⟩
theorem test_Leases_expiry : ∀ clk ∈ [2100, 2099], ∃ (s : State) (l : Lease), LeaseWaits s s.inp.id l ∧ l.waitt ≠ 0 ∧ usCycles l.waitt = 2100 ∧ s.since l.asked = clk :=
  fun clk h => ⟨requesting .dead aLease 1 clk, aLease, ⟨by fin_cases h <;> decide +kernel, by fin_cases h <;> decide +kernel, by decide, by decide, by fin_cases h <;> decide +kernel, by fin_cases h <;> decide +kernel, by fin_cases h <;> decide +kernel⟩, by fin_cases h <;> decide +kernel⟩
/-- Function 1 of package 9 asks for up to two lanes. -/
def askedFor (nmin : Nat) (anew : Bool) : LeaseItem := ⟨9, 1, 7, 2, nmin, 1, 0, anew, [⟨1, 4, 0⟩, ⟨2, 5, 1⟩]⟩
theorem test_Leases_served : ∀ n ∈ [2, 3], ∃ (s : State) (l : LeaseItem), s.inp.load = .lease l ∧ s.fabric.waiting = [] ∧ s.fabric.inbound = [] ∧ l.prio < 8 ∧ l.nmin = n ∧ (s.fabric.pairable l).length = 2 :=
  fun n h => ⟨with_ (linked 0 id (here [] id)) { load := .lease (askedFor n false) }, askedFor n false, by fin_cases h <;> decide +kernel⟩
/-- A grant of this port to package 9. -/
def anInbound (revoked : Bool) : Inbound := ⟨9, 7, 1, [⟨1, 4, 0⟩], revoked⟩
theorem test_Leases_known : ∃ (s : State) (l : LeaseItem), s.inp.load = .lease l ∧ (∃ g ∈ s.fabric.inbound, g.opkg = l.opkg ∧ g.req = l.req) ∧ l.anew = false :=
  ⟨with_ (linked 0 (fun f => { f with inbound := [anInbound false] }) (here [] id)) { load := .lease (askedFor 1 false) }, askedFor 1 false, by decide +kernel⟩
theorem test_Leases_term_inbound : ∀ b ∈ [true, false], ∃ (s : State) (g : Inbound), s.inp.flag = true ∧ s.fabric.inbound = [g] ∧ g.opkg = s.inp.id ∧ g.req = s.inp.n ∧ s.fabric.waiting = [] ∧ g.revoked = b ∧ s.inp.slot ≠ 1 :=
  fun b h => ⟨with_ (linked 0 (fun f => { f with inbound := [anInbound b] }) (here [] id)) { flag := true, id := 9, n := 7 }, anInbound b, by fin_cases h <;> decide +kernel⟩
theorem test_Leases_term : ∀ b ∈ [true, false], ∃ (s : State) (g : Grant), s.inp.flag = false ∧ s.fabric.grants = [(s.inp.id, g)] ∧ g.revoked = b ∧ (s.clk - g.tend).toNat < 2 ^ 63 ∧ s.inp.slot ≠ 1 ∧ s.fabric.leases = [] ∧ s.fabric.attributed g.fn ≤ s.fabric.quotaOf g.fn :=
  fun b h => ⟨{ with_ (linked 2 (fun f => { f with grants := [(7, { aGrant with revoked := b })] }) (here [] id)) { id := 7 } with clk := 2100 }, { aGrant with revoked := b }, by fin_cases h <;> decide +kernel⟩

/-! ### Witnesses: links -/

theorem xor_twice (l k : List Byte) (h : l.length ≤ k.length) : xorBytes (xorBytes l k) k = l := by
  apply List.ext_getElem
  · simp only [xorBytes, List.length_zipWith]; omega
  · intro i h1 h2
    simp [xorBytes]
theorem aesEnc_length (key b : List Byte) (h : ((aesKeys key).getD 14 []).length = 16) : (aesEnc key b).length = 16 := by
  rw [List.getD_eq_getElem?_getD] at h
  simp [aesEnc, xorBytes, aesShift, h]
theorem stream_length (key iv : List Byte) (n : Nat) (h : ((aesKeys key).getD 14 []).length = 16) : ((List.range n).flatMap (fun k => aesEnc key (iv ++ beBytes 4 (k + 2)))).length = 16 * n := by
  rw [List.length_flatMap, List.map_congr_left (g := fun _ => 16) (fun k _ => aesEnc_length key _ h)]
  simp [Nat.mul_comm]
theorem ctr_length (key iv l : List Byte) (h : ((aesKeys key).getD 14 []).length = 16) : (gcmCtr key iv l).length = l.length := by
  simp only [gcmCtr, xorBytes, List.length_zipWith, stream_length key iv _ h]; omega
theorem ctr_twice (key iv l : List Byte) (h : ((aesKeys key).getD 14 []).length = 16) : gcmCtr key iv (gcmCtr key iv l) = l := by
  have e : ((gcmCtr key iv l).length + 15) / 16 = (l.length + 15) / 16 := by rw [ctr_length key iv l h]
  have g : gcmCtr key iv l = xorBytes l ((List.range ((l.length + 15) / 16)).flatMap (fun k => aesEnc key (iv ++ beBytes 4 (k + 2)))) := rfl
  have g2 : gcmCtr key iv (gcmCtr key iv l) = xorBytes (gcmCtr key iv l) ((List.range (((gcmCtr key iv l).length + 15) / 16)).flatMap (fun k => aesEnc key (iv ++ beBytes 4 (k + 2)))) := rfl
  rw [g2, e, g]
  exact xor_twice _ _ (by rw [stream_length key iv _ h]; omega)
/-- A flit of partner 9 on its lane 2, under the zero key. -/
def flitOf (seq kind aseq acol : Nat) (items : List Item) : Flit :=
  let hdr := flitHeader seq kind items.length aseq acol
  let c := gcmSeal (zeros 32) (flitIv seq 2 true) hdr (payloadBytes items)
  ⟨hdr ++ c.1 ++ c.2, items⟩
theorem key_words : ((aesKeys (zeros 32)).getD 14 []).length = 16 := by decide +kernel
theorem flitOf_length (seq kind aseq acol : Nat) (items : List Item) (h : (payloadBytes items).length = 224) : (flitOf seq kind aseq acol items).bytes.length = 256 := by
  simp only [flitOf, gcmSeal, List.length_append, ctr_length _ _ _ key_words, h, gcmTag, xorBytes, List.length_zipWith, aesEnc_length _ _ key_words]
  simp [flitHeader, leBytes, beBytes]
/-- A flit of partner 9 with its group key is heard. -/
theorem heard_of {s : State} {seq kind aseq acol : Nat} {items : List Item} (h : (payloadBytes items).length = 224) (g : flitFields (flitOf seq kind aseq acol items).bytes = some (seq, kind, items.length, aseq, acol))
    (k : kind = 1 ∨ items.length = 0) (o : (s.fabric.partner 9).oldKeys = []) (w : (s.fabric.partner 9).keys = [zeros 32]) (r : s.pkg = 0) : s.heard? 9 2 kind (flitOf seq kind aseq acol items) = some ⟨seq, aseq, acol, items⟩ := by
  have e : s.openFlit 9 2 seq (flitOf seq kind aseq acol items).bytes = some (payloadBytes items) := by
    have l16 : (flitHeader seq kind items.length aseq acol).length = 16 := by simp [flitHeader, leBytes]
    have lc := ctr_length (zeros 32) (flitIv seq 2 true) (payloadBytes items) key_words
    rw [h] at lc
    have b : (flitOf seq kind aseq acol items).bytes = flitHeader seq kind items.length aseq acol ++ (gcmCtr (zeros 32) (flitIv seq 2 true) (payloadBytes items) ++
        gcmTag (zeros 32) (flitIv seq 2 true) (flitHeader seq kind items.length aseq acol) (gcmCtr (zeros 32) (flitIv seq 2 true) (payloadBytes items))) := by simp only [flitOf, gcmSeal, List.append_assoc]
    have d : ∀ (x y z : List Byte), x.length = 16 → y.length = 224 → (x ++ (y ++ z)).take 16 = x ∧ ((x ++ (y ++ z)).drop 16).take 224 = y ∧ (x ++ (y ++ z)).drop 240 = z := by
      intro x y z hx hy
      refine ⟨by rw [← hx, List.take_left], by rw [← hx, List.drop_left, ← hy, List.take_left], ?_⟩
      rw [← List.append_assoc, show (240 : Nat) = (x ++ y).length by simp [hx, hy], List.drop_left]
    obtain ⟨d1, d2, d3⟩ := d _ _ (gcmTag (zeros 32) (flitIv seq 2 true) (flitHeader seq kind items.length aseq acol) (gcmCtr (zeros 32) (flitIv seq 2 true) (payloadBytes items))) l16 lc
    have rq : s.requester 9 = true := by simp [State.requester, r]
    simp only [State.openFlit, o, w, b, d1, d2, d3, rq]
    simp [gcmOpen, ctr_twice _ _ _ key_words]
  have i : (flitOf seq kind aseq acol items).items = items := rfl
  rw [List.length_eq_zero_iff] at k
  simp only [State.heard?, g, e, i]
  simp
  exact fun n => k.resolve_left n
/-- A package with partner 9; f changes what the port holds. -/
def ported (x : Partner) (f : Fabric → Fabric) (i : Inp) : State := with_ { State.reset with dead := 0, boot := { dev := .ready }, fabric := f { State.reset.fabric with partners := [(9, x)] } } i
def aPartner (st : Train) : Partner := { st := st, routes := [⟨2, 4, 0⟩, ⟨3, 5, 1⟩], keys := [zeros 32] }
theorem test_Links_train : ∃ s : State, s.inp.id = 9 ∧ s.boot.dev = .ready ∧ (s.fabric.partner 9).st = .down ∧ (s.fabric.partner 9).failedAt = none ∧ s.fabric.isPartner 9 = true := ⟨ported (aPartner .down) id { id := 9 }, by decide +kernel⟩
theorem test_Links_train_again : ∀ clk ∈ [2100000000, 2099999999], ∃ (s : State) (b : DWord), s.inp.id = 9 ∧ s.boot.dev = .ready ∧ (s.fabric.partner 9).st = .down ∧ (s.fabric.partner 9).failedAt = some b ∧ s.fabric.isPartner 9 = true ∧ s.since b = clk ∧ usCycles 1000000 = 2100000000 :=
  fun clk h => ⟨{ ported { aPartner .down with failedAt := some 0 } id { id := 9 } with clk := BitVec.ofNat 64 clk }, 0, by fin_cases h <;> decide +kernel⟩
theorem test_Links_cal : ∀ l ∈ [[1], [2]], ∃ s : State, s.inp.id = 9 ∧ (s.fabric.partner 9).st = .cal ∧ s.inp.nats = l ∧ ((s.fabric.partner 9).routes.zipIdx.filter (fun e => s.inp.nats.contains e.2)).map (·.1) = if l = [1] then [⟨3, 5, 1⟩] else [] :=
  fun l h => ⟨ported (aPartner .cal) id { id := 9, nats := l }, by fin_cases h <;> decide +kernel⟩
theorem test_Links_rtt : ∀ n ∈ [2000000, 2000001], ∃ s : State, s.inp.id = 9 ∧ (s.fabric.partner 9).st = .rtt ∧ (s.fabric.partner 9).usable.zipIdx.map (fun u => (u.1.1, (s.inp.pairs.find? (fun e => e.1 = u.2)).elim 0 (·.2))) = [(⟨2, 4, 0⟩, n), (⟨3, 5, 1⟩, 100)] :=
  fun n h => ⟨ported { aPartner .rtt with usable := [(⟨2, 4, 0⟩, 0), (⟨3, 5, 1⟩, 0)] } id { id := 9, pairs := [(0, n), (1, 100)] }, by fin_cases h <;> decide +kernel⟩
theorem test_Links_keys : ∃ (s t u : State) (us : List (Route × Nat)), (s.inp.id = 9 ∧ (s.fabric.partner 9).st = .keys ∧ s.inp.flag = true ∧ s.fabric.admitted 9 = some us) ∧ (t.inp.id = 9 ∧ (t.fabric.partner 9).st = .keys ∧ t.inp.flag = false) ∧
    (u.inp.id = 9 ∧ (u.fabric.partner 9).st = .keys ∧ u.fabric.admitted 9 = none) :=
  ⟨ported { aPartner .keys with usable := [(⟨2, 4, 0⟩, 100)] } id { id := 9, flag := true }, ported (aPartner .keys) id { id := 9 }, ported (aPartner .keys) id { id := 9 }, [(⟨2, 4, 0⟩, 100)], by decide +kernel, by decide +kernel, by decide +kernel⟩
theorem test_Links_windows : ∃ s : State, s.inp.id = 9 ∧ (s.fabric.partner 9).usable ≠ [] ∧ (∀ u ∈ (s.fabric.partner 9).usable, u.2 ≤ 20000) ∧ s.fabric.windowed 9 = [] ∧ windowBytes (s.fabric.partner 9).usable ≤ 50331648 + 2147483648 :=
  ⟨ported { aPartner .keys with usable := [(⟨2, 4, 0⟩, 20000)] } id { id := 9 }, by decide +kernel⟩
theorem test_Links_key_update : ∀ st ∈ [Train.up, .windows], ∃ s : State, s.inp.id = 9 ∧ (s.fabric.partner 9).st = st := fun st _ => ⟨ported (aPartner st) id { id := 9 }, rfl, rfl⟩
theorem test_Links_seal : ∃ key : List Byte, key.length = 32 := ⟨zeros 32, rfl⟩
/-- Partner 9 is UP; lane 2 carries this colour to it. -/
def coloured (c : Colour) (f : Fabric → Fabric) (i : Inp) : State := ported { aPartner .up with usable := [(⟨2, 4, 0⟩, 100)] } (fun x => f { x with colours := [((2, 9), c)] }) { i with id := 9, n := 2 }
def aColour : Colour := { route := ⟨2, 4, 0⟩, rtt := 100, window := 2, on := true }
theorem test_Links_retuned : ∀ b ∈ [true, false], ∃ s : State, s.inp.id = 9 ∧ s.inp.n = 2 ∧ s.inp.slot = 0 ∧ (s.fabric.colour 2 9).on = true ∧ (s.fabric.colour 2 9).tuning = true ∧ s.inp.flag = b ∧ (∀ u ∈ (s.fabric.partner 9).usable, u.1.lane = 2 → u.1 = (s.fabric.colour 2 9).route) :=
  fun b h => ⟨coloured { aColour with tuning := true } id { flag := b }, by fin_cases h <;> decide +kernel⟩
theorem test_Links_paired : ∃ s t : State, (s.inp.id = 9 ∧ s.inp.slot = 1 ∧ s.inp.ofs < 1024 ∧ s.fabric.isPartner 9 = true ∧ (∀ x ∈ s.fabric.rxFloor, x.2.2 ≠ s.inp.ofs) ∧ ∀ g ∈ s.fabric.inbound, ∀ x ∈ g.lanes, x.rx ≠ s.inp.ofs) ∧
    (t.inp.id = 9 ∧ t.inp.slot = 1 ∧ ∃ x ∈ t.fabric.rxFloor, x.2.2 = t.inp.ofs) :=
  ⟨coloured aColour (fun f => { f with rxFloor := [(9, 7, 1022)] }) { slot := 1, ofs := 1023 }, coloured aColour (fun f => { f with rxFloor := [(9, 7, 1022)] }) { slot := 1, ofs := 1022 }, by decide +kernel, by decide +kernel⟩
/-- Partner 9 has two floor colours here, or one. -/
theorem test_Links_let_go : ∀ n ∈ [2, 1], ∃ s : State, s.inp.id = 9 ∧ s.inp.n = 2 ∧ s.inp.slot = 2 ∧ (9, 2, s.inp.ofs) ∈ s.fabric.rxFloor ∧ s.fabric.waiting = [] ∧
    (s.fabric.rxFloor.filter (fun x => x.1 = 9)).length + ((s.fabric.inbound.filter (fun g => g.opkg = 9)).map (fun g => g.lanes.length)).sum = n :=
  fun n h => ⟨coloured aColour (fun f => { f with rxFloor := (9, 2, 5) :: List.replicate (n - 1) (9, 3, 6) }) { slot := 2, ofs := 5 }, by fin_cases h <;> decide +kernel⟩
theorem test_Links_recalibrated : ∀ b ∈ [true, false], ∃ s : State, s.inp.id = 9 ∧ s.inp.n = 2 ∧ (s.fabric.colour 2 9).on = true ∧ (s.fabric.colour 2 9).dark = b ∧ (s.fabric.colour 2 9).tuning = false := fun b _ => ⟨coloured { aColour with dark := b } id {}, rfl, rfl, rfl, rfl, rfl⟩
/-- A flit on lane 2, and an item for package 9. -/
def aFlit (n : Nat) : SentFlit := ⟨2, 9, .data, n, 0, 0, [], []⟩
def stateItem (opkg dpkg fseq : Nat) : Item := ⟨opkg, dpkg, 3, 0, fseq, .state [] []⟩
theorem test_Links_send : ∀ n ∈ [1, 2], ∃ s : State, s.inp.id = 9 ∧ s.inp.n = 2 ∧ (s.fabric.colour 2 9).lit = true ∧ (s.fabric.colour 2 9).closing = false ∧ s.batch 9 (min 28 (max 1 s.inp.ofs)) [] s.items = [stateItem 0 9 0] ∧ (s.fabric.colour 2 9).flits.length = n ∧
    (s.fabric.colour 2 9).window = 2 ∧ s.keyFresh 9 2 = true :=
  fun n h => ⟨{ coloured { aColour with flits := (List.range n).map aFlit, next := n } id { ofs := 28 } with items := [stateItem 0 9 0] }, by fin_cases h <;> decide +kernel⟩
theorem test_Links_resend : ∀ n ∈ [14, 15], ∀ clk ∈ [4620, 4619], ∃ s : State, s.inp.id = 9 ∧ s.inp.n = 2 ∧ (s.fabric.colour 2 9).lit = true ∧ (s.fabric.colour 2 9).flits ≠ [] ∧ (s.fabric.colour 2 9).resends = n ∧ s.since (s.fabric.colour 2 9).moved = clk ∧
    nsCycles (2 * (s.fabric.colour 2 9).rtt) + usCycles 2 = 4620 :=
  fun n h clk k => ⟨{ coloured { aColour with flits := [aFlit 0], resends := n } id {} with clk := BitVec.ofNat 64 clk }, by fin_cases h <;> fin_cases k <;> decide +kernel⟩
theorem test_Links_idle : ∀ clk ∈ [4200, 4199], ∃ s : State, s.inp.id = 9 ∧ s.inp.n = 2 ∧ OneLit s 2 9 ∧ s.since (s.fabric.colour 2 9).sentAt = clk ∧ usCycles 2 = 4200 :=
  fun clk h => ⟨{ coloured aColour id {} with clk := BitVec.ofNat 64 clk }, rfl, rfl, by unfold OneLit; fin_cases h <;> decide +kernel, by fin_cases h <;> decide +kernel, rfl⟩
/-- Lane 2 of partner 9 lands here with this receiving end. -/
def receiving (r : RxColour) (i : Inp) : State := coloured { aColour with flits := [aFlit 0, aFlit 1], next := 2 } (fun f => { f with rx := [((9, 2), r)] }) i
theorem test_Links_ack_timer : ∀ clk ∈ [2100, 2099], ∀ n ∈ [1, 0], ∃ s : State, s.inp.id = 9 ∧ s.inp.n = 2 ∧ OneLit s 2 9 ∧ (Assoc.get {} (9, 2) s.fabric.rx : RxColour).unacked = n ∧ s.since (Assoc.get {} (9, 2) s.fabric.rx : RxColour).since = clk ∧ usCycles 1 = 2100 :=
  fun clk h n k => ⟨{ receiving { unacked := n } {} with clk := BitVec.ofNat 64 clk }, rfl, rfl, ⟨rfl, rfl, by fin_cases h <;> fin_cases k <;> decide +kernel⟩, by fin_cases k <;> rfl, by fin_cases h <;> fin_cases k <;> decide +kernel, rfl⟩
theorem test_Links_discarded : ∃ (s : State) (x : Flit), s.inp.load = .flit x ∧ s.inp.id = 9 ∧ s.inp.n = 2 ∧ x.bytes.length ≠ 256 := ⟨receiving {} { load := .flit ⟨[], []⟩ }, ⟨[], []⟩, rfl, rfl, rfl, by decide⟩
/-- ACK, NAK and IDLE that acknowledge none, one, two or three of the two flits out. -/
theorem test_Links_heard : ∀ kind ∈ [2, 3, 4], ∀ aseq ∈ [0, 1, 2, 3], ∃ (s : State) (x : Flit) (h : HeardFlit), s.inp.load = .flit x ∧ s.inp.id = 9 ∧ s.inp.n = 2 ∧ (s.fabric.partner 9).st = .up ∧ s.heard? 9 2 kind x = some h ∧ h.acol = 2 ∧ h.aseq = aseq ∧
    (s.fabric.colour 2 9).una = 0 ∧ (s.fabric.colour 2 9).flits.length = 2 ∧ (s.fabric.colour 2 9).lit = true ∧ (s.fabric.colour 2 9).closing = false := by
  intro kind hk aseq ha
  have e := heard_of (s := receiving {} { load := .flit (flitOf 0 kind aseq 2 []) }) (seq := 0) (kind := kind) (aseq := aseq) (acol := 2) (items := []) (by decide +kernel) (by fin_cases hk <;> fin_cases ha <;> decide +kernel) (.inr rfl) rfl rfl rfl
  exact ⟨_, _, _, rfl, rfl, rfl, rfl, e, rfl, rfl, rfl, rfl, rfl, rfl⟩
/-- DATA of lane 2 of partner 9 with number seq, where EXP is exp. -/
structure DataCame (s : State) (seq exp : Nat) (l : List Item) : Prop where
  load : s.inp.load = .flit (flitOf seq 1 0 2 l)
  from_ : s.inp.id = 9 ∧ s.inp.n = 2 ∧ (s.fabric.partner 9).st = .up
  heard : s.heard? 9 2 1 (flitOf seq 1 0 2 l) = some ⟨seq, 0, 2, l⟩
  open_ : (s.fabric.colour 2 9).closing = false
  exp : (Assoc.get {} (9, 2) s.fabric.rx : RxColour).exp = exp
theorem dataCame_of (r : RxColour) (i : Inp) (seq : Nat) (l : List Item) (h : (payloadBytes l).length = 224 ∧ flitFields (flitOf seq 1 0 2 l).bytes = some (seq, 1, l.length, 0, 2)) :
    DataCame (receiving r { i with load := .flit (flitOf seq 1 0 2 l) }) seq r.exp l := ⟨rfl, ⟨rfl, rfl, rfl⟩, heard_of h.1 h.2 (.inl rfl) rfl rfl rfl, rfl, rfl⟩
theorem test_Links_data : ∀ n ∈ [62, 63], ∃ (s : State) (l : List Item), DataCame s (2 ^ 48 - 1) (2 ^ 48 - 1) l ∧ (s.fabric.partner 9).buffer = [] ∧ (∀ it ∈ l, it.dpkg = s.pkg) ∧ inTurn (fun w => Assoc.get 0 w s.fabric.flowRx) l ∧ l.length = 2 ∧
    (Assoc.get {} (9, 2) s.fabric.rx : RxColour).unacked = n ∧ OneLit s 2 9 := by
  intro n h
  refine ⟨_, [stateItem 9 0 0, stateItem 9 0 1], dataCame_of { exp := 2 ^ 48 - 1, unacked := n } {} (2 ^ 48 - 1) _ (by decide +kernel), rfl, ?_, ?_, rfl, rfl, ?_⟩
  · intro it hit; fin_cases hit <;> rfl
  · exact ⟨rfl, rfl, trivial⟩
  · exact ⟨rfl, rfl, by fin_cases h <;> decide +kernel⟩
/-- The next place of its flow, one ahead, and the last that waits; and one that has been. -/
theorem test_Links_data_early : ∀ n ∈ [1, 32767, 32768], ∃ (s : State) (it : Item), DataCame s 0 0 [it] ∧ (s.fabric.partner 9).buffer = [] ∧ it.dpkg = s.pkg ∧ it.body.ordered = true ∧ it.fseq = n ∧ Assoc.get 0 (it.opkg, it.oclus, it.dclus) s.fabric.flowRx = 0 :=
  fun n h => ⟨_, stateItem 9 0 n, dataCame_of {} {} 0 _ (by fin_cases h <;> decide +kernel), rfl, rfl, rfl, rfl, rfl⟩
/-- An item for package 8, which the plans do not reach, of package 9 and of this one. -/
theorem test_Links_data_relay : ∀ o ∈ [9, 0], ∃ (s : State) (it : Item), DataCame s 0 0 [it] ∧ (s.fabric.partner 9).buffer = [] ∧ it.dpkg ≠ s.pkg ∧ s.way it.dpkg = none ∧ it.opkg = o :=
  fun o h => ⟨_, stateItem o 8 0, dataCame_of {} {} 0 _ (by fin_cases h <;> decide +kernel), rfl, by fin_cases h <;> decide, rfl, rfl⟩
theorem test_Links_data_relayed : ∃ (s : State) (it : Item), DataCame s 0 0 [it] ∧ (s.fabric.partner 9).buffer = [] ∧ it.dpkg ≠ s.pkg ∧ s.way it.dpkg ≠ none := ⟨_, stateItem 7 9 0, dataCame_of {} {} 0 _ (by decide +kernel), rfl, by decide, by decide +kernel⟩
/-- A gap of one and the largest, and the oldest duplicate. -/
theorem test_Links_data_order : ∀ n ∈ [1, 2 ^ 47 - 1, 2 ^ 47], ∃ s : State, DataCame s n 0 [] ∧ OneLit s 2 9 ∧ (Assoc.get {} (9, 2) s.fabric.rx : RxColour).naked = none :=
  fun n h => ⟨_, dataCame_of {} {} n _ (by fin_cases h <;> decide +kernel), ⟨rfl, rfl, by fin_cases h <;> decide +kernel⟩, rfl⟩
theorem test_Links_data_full : ∃ s : State, DataCame s 0 0 [] ∧ OneLit s 2 9 ∧ (Assoc.get {} (9, 2) s.fabric.rx : RxColour).naked = none ∧ 512 ≤ (s.fabric.partner 9).buffer.length := by
  refine ⟨{ receiving {} { load := .flit (flitOf 0 1 0 2 []) } with fabric := (receiving {} {}).fabric.modPartner 9 (fun x => { x with buffer := List.replicate 512 [] }) },
    ⟨rfl, ⟨rfl, rfl, rfl⟩, heard_of (by decide +kernel) (by decide +kernel) (.inl rfl) rfl rfl rfl, rfl, rfl⟩, ⟨rfl, rfl, by decide +kernel⟩, rfl, by decide +kernel⟩

/-! ### Witnesses: the owner port, ERROR, dead peers, STATE -/

/-- A read of 64 bytes by function 0 of package 9. -/
def aRead (pa len : Nat) : ReadItem := { opkg := 9, oclus := 3, fn := 0, req := 7, key := 0, pa := pa, len := len }
theorem test_OwnerPort_read : ∃ (s : State) (it : ReadItem), s.inp.load = .read it ∧ paPkg it.pa = s.pkg ∧ ¬ (s.ownerRefuses it.fn it.pa = true) ∧ (paRegion it.pa).isHbm = false ∧ (∀ l ∈ s.poison, ¬ (it.pa / 64 ≤ l ∧ 64 * l < it.pa + it.len)) ∧ s.poison ≠ [] ∧
    (∀ m, s.bastCore (paClus it.pa) m = false) := ⟨{ with_ (here [] id) { load := .read (aRead 0x1004000 64) } with poison := [0x1004040 / 64] }, aRead 0x1004000 64, by decide +kernel, by decide +kernel, by decide +kernel, by decide +kernel, by decide +kernel, by decide +kernel, fun _ => rfl⟩
theorem test_OwnerPort_read_poison : ∃ (s : State) (it : ReadItem), s.inp.load = .read it ∧ paPkg it.pa = s.pkg ∧ ¬ (s.ownerRefuses it.fn it.pa = true) ∧ (paRegion it.pa).isHbm = false ∧ (∃ l ∈ s.poison, it.pa / 64 ≤ l ∧ 64 * l < it.pa + it.len) :=
  ⟨{ with_ (here [] id) { load := .read (aRead 0x1004000 65) } with poison := [0x1004040 / 64] }, aRead 0x1004000 65, by decide +kernel⟩
theorem test_OwnerPort_read_refused : ∃ s t : State, (s.inp.load = .read (aRead 0x1004000 64) ∧ s.ownerRefuses 0 0x1004000 = true) ∧ (t.inp.load = .read (aRead 0x100000000 64) ∧ (paRegion 0x100000000).isHbm = true ∧ ¬ HoldsSlot t 0 0) :=
  ⟨with_ ((here [] id).modClus 0 (fun k => { k with fn := 5 })) { load := .read (aRead 0x1004000 64) }, with_ (here [] id) { load := .read (aRead 0x100000000 64) }, by decide +kernel, by decide +kernel, by decide +kernel, fun h => h.1 (by decide +kernel)⟩
theorem test_OwnerPort_read_elsewhere : ∃ (s : State) (it : ReadItem), s.inp.load = .read it ∧ paPkg it.pa ≠ s.pkg := ⟨with_ (here [] id) { load := .read (aRead (mkPa 8 0 0x1004000) 64) }, aRead (mkPa 8 0 0x1004000) 64, by decide +kernel⟩
/-- A load of the last word of a line of package 9, by number 7. -/
def aLoad (ord : LdOrd) : LoadReq := ⟨4, 1, 4, false, ord, mkPa 9 0 0x100403C, 0, false, 0x1003C, 4⟩
/-- Context 0 waits for that load. -/
def loading9 (i : Inp) : State := with_ { ((ported (aPartner .up) id {}).setCtx ⟨0, 0, 0⟩ { Ctx.reset with st := .blocked (.load (aLoad .acq)) }) with outReads := [⟨7, 9, mkPa 9 0 0x1004000, 64, .load ⟨0, 0, 0⟩⟩] } i
def reply (st : Byte) : ReplyItem := ⟨7, st, 3, 0, le 64 0⟩
theorem test_OwnerPort_load : ∀ st ∈ [(0 : Byte), 0x11], ∃ (s : State) (r : ReplyItem) (o : OutRead) (p : Pos) (q : LoadReq), s.inp.load = .reply r ∧ s.outReads = [o] ∧ o.req = r.req ∧ o.who = .load p ∧ (s.ctx p).st = .blocked (.load q) ∧
    (s.ctx p).basting = false ∧ (s.ctx p).spop = [] ∧ (s.ctx p).convoy = none ∧ (s.ctx p).depth = 0 ∧ r.bytes.length = 64 ∧ q.pa % 64 + q.size ≤ 64 ∧ q.size = 4 * q.words ∧ q.words ≤ 8 ∧ q.ord = .acq ∧ q.swm = false ∧ r.status = st ∧ (s.ctx p).stop = false ∧
    (s.ctx p).last = false ∧ (s.ctx p).intrap = false :=
  fun st h => ⟨loading9 { load := .reply (reply st) }, reply st, ⟨7, 9, mkPa 9 0 0x1004000, 64, .load ⟨0, 0, 0⟩⟩, ⟨0, 0, 0⟩, aLoad .acq, by fin_cases h <;> decide +kernel⟩
theorem test_OwnerPort_matrix : ∃ (s : State) (r : ReplyItem) (o : OutRead) (c tile id unit : Nat) (m : MatCmd), s.inp.load = .reply r ∧ s.outReads = [o] ∧ o.req = r.req ∧ o.who = .matrix c tile id unit ∧ r.status = 0 ∧ (s.tile c tile).cmds = [m] ∧ m.id = id ∧ m.bast = none :=
  ⟨{ with_ (commanded [command (.zero []) .queued]) { load := .reply (reply 0) } with outReads := [⟨7, 9, mkPa 9 0 0x1004000, 64, .matrix 0 0 7 5⟩] }, reply 0, ⟨7, 9, mkPa 9 0 0x1004000, 64, .matrix 0 0 7 5⟩, 0, 0, 7, 5, command (.zero []) .queued, rfl, rfl, rfl, rfl, rfl, rfl, rfl, rfl⟩
theorem test_OwnerPort_debug : ∀ st ∈ [(0 : Byte), 0x11], ∃ (s : State) (r : ReplyItem) (o : OutRead), s.inp.load = .reply r ∧ s.outReads = [o] ∧ o.req = r.req ∧ o.who = .dbg 0 ∧ r.status = st :=
  fun st _ => ⟨with_ { loading9 {} with outReads := [⟨7, 9, 0, 8, .dbg 0⟩] } { load := .reply (reply st) }, reply st, ⟨7, 9, 0, 8, .dbg 0⟩, rfl, rfl, rfl, rfl, rfl⟩
theorem test_OwnerPort_no_reply : ∃ (s : State) (r : ReplyItem), s.inp.load = .reply r ∧ ∀ o ∈ s.outReads, o.req ≠ r.req := ⟨loading9 { load := .reply { reply 0 with req := 8 } }, { reply 0 with req := 8 }, by decide +kernel⟩
theorem test_OwnerPort_error_read : ∀ o ∈ [0, 2], ∃ (s : State) (p : Pos) (q : LoadReq), s.inp.ofs = o ∧ s.inp.id = 7 ∧ s.outReads = [⟨7, 9, mkPa 9 0 0x1004000, 64, .load p⟩] ∧ (s.ctx p).st = .blocked (.load q) ∧ MayTrap s p :=
  fun o _ => ⟨loading9 { ofs := o, id := 7, n := 0x50 }, ⟨0, 0, 0⟩, aLoad .acq, rfl, rfl, rfl, rfl, rfl, rfl, rfl, rfl⟩
theorem test_OwnerPort_error_debug : ∃ s : State, s.inp.ofs = 0 ∧ s.outReads = [⟨7, 9, 0, 8, .dbg 0⟩] ∧ s.inp.id = 7 := ⟨with_ { loading9 {} with outReads := [⟨7, 9, 0, 8, .dbg 0⟩] } { id := 7 }, rfl, rfl, rfl⟩
theorem test_OwnerPort_error_unknown : ∀ o ∈ [1, 11], ∃ s : State, s.inp.ofs = o ∧ o ∉ [0, 2, 4, 6, 8, 10] := fun o h => ⟨with_ (here [] id) { ofs := o }, rfl, by fin_cases h <;> decide⟩
theorem test_OwnerPort_error_watch : ∃ (s : State) (k : Clus), s.inp.ofs = 4 ∧ s.clusters = [(0, k)] ∧ k.asked = [aWatch] ∧ aWatch.op = s.inp.id := ⟨with_ (State.reset.modClus 0 (fun k => { k with asked := [aWatch] })) { ofs := 4, id := 7 }, { Clus.reset with asked := [aWatch] }, by decide +kernel⟩
theorem test_OwnerPort_error_lease : ∃ (s : State) (l : Lease), s.inp.ofs = 8 ∧ LeaseWaits s s.inp.id l :=
  ⟨with_ (requesting .dead aLease 1 0) { ofs := 8, id := 7 }, aLease, rfl, ⟨by decide +kernel, by decide +kernel, by decide, by decide, by decide +kernel, by decide +kernel, by decide +kernel⟩⟩
/-- Every colour to package 9 has a round trip of 100 ns, DTMIN is 1,000 µs. -/
theorem test_OwnerPort_declare : ∀ clk ∈ [2100000, 2099999], ∀ d ∈ [none, some (0 : DWord)], ∃ (s : State), s.inp.id = 9 ∧ (s.fabric.partner 9).st = .up ∧ (∀ e ∈ s.fabric.colours, e.1.2 = 9 → e.2.on = true → e.2.rtt ≤ 100) ∧ (∃ e ∈ s.fabric.colours, e.1.2 = 9 ∧ e.2.on = true ∧ e.2.rtt = 100) ∧
    usCycles (s.fabric.ctl.extractLsb' 32 16).toNat = 2100000 ∧ s.since (s.fabric.partner 9).heard = clk ∧ (s.fabric.partner 9).darkSince = d :=
  fun clk h d k => ⟨{ coloured aColour (fun f => f.modPartner 9 (fun x => { x with darkSince := d })) {} with clk := BitVec.ofNat 64 clk }, by fin_cases h <;> fin_cases k <;> decide +kernel⟩
def isWatch : TagSt → Bool
  | .busy (.watch _ _ _) => true
  | _ => false
theorem alone_of {s : State} (t : ∀ e ∈ s.cores, ∀ n < 64, isWatch (e.2.tag n).st = false) (h : (9 < 4096 ∧ 9 ≠ s.pkg) ∧ (s.fabric.partner 9).relays = [] ∧ (∀ o ∈ s.outReads, o.pkg ≠ 9) ∧ (∀ e ∈ s.fabric.leases, e.2.dest ≠ 9) ∧
    (∀ e ∈ s.pulls, ∀ b ∈ e.2.bytes, paPkg b.src ≠ 9) ∧ s.bastings = [] ∧ (∀ e ∈ s.clusters, e.2.saved = []) ∧ (∀ it ∈ s.items, it.opkg ≠ 9) ∧ (∀ e ∈ s.clusters, ∀ m ∈ e.2.outMsgs, m.2.pkg ≠ 9) ∧ (∀ e ∈ s.ctxs, e.2.full = true → e.2.ansPkg ≠ 9) ∧
    s.replay = [] ∧ (s.ctxs.map (·.1)).Nodup) : Alone s 9 :=
  ⟨h.1, h.2.1, h.2.2.1, fun e he n i b hn g => by have := t e he n hn; rw [g] at this; exact absurd this (by simp [isWatch]), h.2.2.2.1, h.2.2.2.2.1, h.2.2.2.2.2.1, h.2.2.2.2.2.2.1, h.2.2.2.2.2.2.2.1, h.2.2.2.2.2.2.2.2.1, h.2.2.2.2.2.2.2.2.2.1,
   h.2.2.2.2.2.2.2.2.2.2.1, h.2.2.2.2.2.2.2.2.2.2.2⟩
theorem test_OwnerPort_dead : ∃ (s : State) (r : LoadReq), Alone s 9 ∧ (s.fabric.partner 9).routes ≠ [] ∧ Assoc.has (⟨0, 0, 0⟩ : Pos) s.ctxs = true ∧ (s.ctx ⟨0, 0, 0⟩).st = .blocked (.load r) ∧ paPkg r.pa = 9 ∧ MayTrap s ⟨0, 0, 0⟩ :=
  ⟨{ loading9 {} with outReads := [] }, aLoad .acq, alone_of (by decide +kernel) (by decide +kernel), by decide +kernel, by decide +kernel, by decide +kernel, by decide +kernel, ⟨rfl, rfl, rfl, rfl⟩⟩
theorem test_OwnerPort_dead_debug : ∃ s : State, s.outReads = [⟨7, 9, 0, 8, .dbg 0⟩] ∧ Alone { s with outReads := [] } 9 := ⟨{ loading9 {} with outReads := [⟨7, 9, 0, 8, .dbg 0⟩] }, rfl, alone_of (by decide +kernel) (by decide +kernel)⟩
/-- Context 0 waits for a walk that reads a table in package 9. -/
def aWalk9 : Walk := ⟨3, 0, .home, 0x10000, .load, [.ctx ⟨0, 0, 0⟩], 0, mkPa 9 0 0x1004000, 0, none⟩
theorem test_OwnerPort_dead_walk : ∃ (s : State) (o : OutRead) (w : Walk), s.outReads = [o] ∧ o.pkg = 9 ∧ Alone { s with outReads := [] } 9 ∧ o.who = .walk 0 3 ∧ (s.clus 0).walks = [w] ∧ w.id = 3 ∧ w.reqs = [.ctx ⟨0, 0, 0⟩] ∧ (s.ctx ⟨0, 0, 0⟩).st = .blocked .xlate ∧ MayTrap s ⟨0, 0, 0⟩ :=
  ⟨{ (((ported (aPartner .up) id {}).setCtx ⟨0, 0, 0⟩ { Ctx.reset with st := .blocked .xlate }).modClus 0 (fun k => { k with walks := [aWalk9] })) with outReads := [⟨7, 9, mkPa 9 0 0x1004000, 16, .walk 0 3⟩] }, ⟨7, 9, mkPa 9 0 0x1004000, 16, .walk 0 3⟩, aWalk9, rfl, rfl,
   alone_of (by decide +kernel) (by decide +kernel), rfl, by decide +kernel, rfl, rfl, by decide +kernel, ⟨rfl, rfl, rfl, rfl⟩⟩
/-- A pull of one byte of package 9. -/
def pull9 : Pull := { aPull with bytes := [⟨mkPa 9 0 0x1004000, 0, 0x1006100, 0, 0x80308⟩], got := [] }
theorem test_OwnerPort_dead_pull : ∃ (s : State) (pl : Pull), s.pulls = [(4, pl)] ∧ pl.err = 0 ∧ (∃ b ∈ pl.bytes, paPkg b.src = 9 ∧ Assoc.has (b.src / 32) pl.got = false) ∧ Alone { s with pulls := [] } 9 :=
  ⟨{ ported (aPartner .up) id {} with pulls := [(4, pull9)] }, pull9, rfl, rfl, by decide +kernel, alone_of (by decide +kernel) (by decide +kernel)⟩
theorem test_OwnerPort_dead_watch : ∃ (s : State) (K : Core), s.cores = [((0, 0), K)] ∧ (K.tag 63).st = .busy (.watch 7 0x7FE0 9) ∧ (K.tag 63).op = 7 ∧ (∀ j a d, j < 64 → j ≠ 63 → (K.tag j).st ≠ .busy (.watch a d 9)) ∧ (∀ q, (s.ctx q).spop = []) ∧ Alone { s with cores := [] } 9 := by
  let K : Core := Core.reset.setTag 63 ⟨.busy (.watch 7 0x7FE0 9), 0, 512, 0, 7⟩
  refine ⟨{ ported (aPartner .up) id {} with cores := [((0, 0), K)] }, K, rfl, by decide +kernel, by decide +kernel, fun j a d hj hn g => ?_, fun q => rfl, alone_of (by decide +kernel) (by decide +kernel)⟩
  have f : ∀ j < 64, j ≠ 63 → isWatch (K.tag j).st = false := by decide +kernel
  have := f j hj hn
  rw [g] at this
  exact absurd this (by simp [isWatch])
theorem test_OwnerPort_dead_message : ∀ k ∈ [AnsKind.send, .sendt], ∃ (s : State) (K : Clus) (o : OutMsg), s.clusters = [(0, K)] ∧ K.outMsgs = [(8, o)] ∧ o.pkg = 9 ∧ o.pos = ⟨0, 0, 0⟩ ∧ (s.ctx o.pos).ansId = 8 ∧ Alone { s with clusters := [(0, { K with outMsgs := [] })] } 9 ∧
    (s.ctx o.pos).ans = some (k, 4) ∧ MayTrap s o.pos :=
  fun k h => ⟨(((ported (aPartner .up) id {}).setCtx ⟨0, 0, 0⟩ { Ctx.reset with st := .blocked .result, ans := some (k, 4), ansId := 8 }).modClus 0 (fun c => { c with outMsgs := [(8, ⟨(0, 0), 9, ⟨0, 0, 0⟩⟩)] })), { Clus.reset with outMsgs := [(8, ⟨(0, 0), 9, ⟨0, 0, 0⟩⟩)] }, ⟨(0, 0), 9, ⟨0, 0, 0⟩⟩,
    rfl, rfl, rfl, rfl, rfl, alone_of (by fin_cases h <;> decide +kernel) (by fin_cases h <;> decide +kernel), rfl, ⟨rfl, rfl, rfl, rfl⟩⟩
theorem test_OwnerPort_dead_lease : ∃ (s : State) (l : Lease), LeaseWaits s 7 l ∧ l.dest = 9 ∧ Alone { s with fabric := { s.fabric with leases := [] } } 9 :=
  ⟨requesting .dead aLease 1 0, aLease, ⟨by decide +kernel, by decide +kernel, by decide, by decide, by decide +kernel, by decide +kernel, by decide +kernel⟩, rfl, alone_of (by decide +kernel) (by decide +kernel)⟩
/-- Partner 9 relays for package 7 and tells of it, and of package 6, for which it does not relay. -/
def relayed (i : Inp) : State := ported { aPartner .up with relays := [(7, 1)] } (fun f => { f with partners := f.partners ++ [(5, aPartner .up)] }) { i with id := 9 }
theorem test_OwnerPort_state : ∃ s : State, s.inp.nats = [] ∧ s.inp.pairs.filter (fun e => (s.fabric.behind s.inp.id).contains e.1) = [(7, 0)] ∧ ∃ r ∈ s.fabric.partners, r.1 ≠ s.inp.id ∧ r.2.st = .up := ⟨relayed { pairs := [(6, 0), (7, 0)] }, by decide +kernel⟩
theorem test_OwnerPort_state_dead : ∀ p ∈ [7, 6], ∃ s : State, s.inp.nats = [p] ∧ s.inp.pairs = [] ∧ (p ∈ s.fabric.behind s.inp.id ↔ p = 7) := fun p h => ⟨relayed { nats := [p] }, by fin_cases h <;> decide +kernel⟩

/-! ### Witnesses: collectives -/

/-- The exchanges of four pairs of layouts over two axes: equal, partial over axis 0, split by it, moved by it. -/
theorem test_Collectives_layouts : ∀ l ∈ [(0xFFF, 0xFFF), (0x1FFF, 0xFFF), (0x1FFF, 0xFF8), (0xFF8, 0xFFF), (0xFF8, 0xFC7)], layLegal l.1 4 4 = true ∧ layLegal l.2 4 4 = true ∧ l.1 < 2 ^ 16 ∧ l.2 < 2 ^ 16 ∧ (∀ x < 4, l.2.testBit (12 + x) = true → l.1.testBit (12 + x) = true) ∧
    (∀ d < 4, l.1 / 2 ^ (3 * d) % 8 ≠ 7 → l.2 / 2 ^ (3 * d) % 8 ≠ 7 → l.1 / 2 ^ (3 * d) % 8 = l.2 / 2 ^ (3 * d) % 8) := by decide +kernel
theorem test_Collectives_rows : (∀ x < 4, (0x1FFF : Nat).testBit (12 + x) = true ↔ x = 0) ∧ (∀ x < 4, (0xFFF : Nat).testBit (12 + x) = false ∧ (0xFF8 : Nat).testBit (12 + x) = false ∧ (0xFC7 : Nat).testBit (12 + x) = false) ∧
    (∀ d < 4, ∀ x < 4, 0xFFF / 2 ^ (3 * d) % 8 ≠ x ∧ (0xFF8 / 2 ^ (3 * d) % 8 = x ↔ d = 0 ∧ x = 0) ∧ (0xFC7 / 2 ^ (3 * d) % 8 = x ↔ d = 1 ∧ x = 0)) := by decide +kernel

/-- An FP32 vector of n elements (R274). -/
def vector (base n : Nat) : List Byte := le 8 (2 ^ 63 + base) ++ le 8 0 ++ le 8 n ++ le 40 0
/-- A descriptor of two ranks: layouts, TIDS 5, TIDD 6, FANIN 2, group table at 0x50000, area 0x40000 of five pages, rank 0, SEQN 1. -/
def collWords (lays layd tnode tlim : Nat) : List Nat := [5 * 2 ^ 56 + 6 * 2 ^ 48 + 2 * 2 ^ 40 + layd * 2 ^ 16 + lays, 2 + 2 ^ 16 + 2 ^ 32 + 2 ^ 48, 0x50000, 0x40000, 5, 0, 0, 2 ^ 40 + tnode * 2 ^ 20 + tlim]
/-- A context of team slot 4 that issues COLL with a block at 0x100; its bank holds the entries of the source and of the destination. -/
def collecting (e5 e6 : List Byte) (l : List (Nat × TagSt × Byte)) : State :=
  ((tagged l [(10, 0x100), (12, 0x7FC0), (14, 0x104)] (fun c => { c with slot := some 4, lnch := 0x07000012 })).putBytes 0x100 0 ((collWords 0xFF8 0xFFF 0 0).flatMap (le 8))).modClus 0
    (fun k => { k with banks := k.banks.set 2 (some ⟨(7, 18), [(5, e5), (6, e6)]⟩), tlb := [⟨0, .home, 0x40000, 0x10000, 0x1010000, 0, .normal, true, true, true, none⟩, ⟨0, .read, 0x50000, 0x10000, 0x1020000, 0, .normal, true, true, true, none⟩] })
theorem test_Collectives_tag_busy : ∃ (s : State) (a : Reg) (g : Tag), s.Issues (.coll a g) ∧ s.me.basting = false ∧ (tagOf s g.toNat).st.isFree = false ∧ CanTrap s := ⟨collecting [] [] [(63, .busy .coll, 0)], 10, 63, issues_of (by decide +kernel), rfl, by decide +kernel, canTrap_of (by decide +kernel)⟩
theorem test_Collectives_no_bank : ∃ (s : State) (a : Reg) (g : Tag), s.Issues (.coll a g) ∧ s.me.basting = false ∧ (tagOf s g.toNat).st.isFree = true ∧ (s.view (.coll a g)).myBank = none ∧ CanTrap s := ⟨tagged [] [(10, 0x100)] id, 10, 63, issues_of (by decide +kernel), rfl, by decide +kernel, by decide +kernel, canTrap_of (by decide +kernel)⟩
theorem test_Collectives_block : ∀ a ∈ [(12 : Reg), 14], ∃ (s : State) (g : Tag) (bank : Nat), s.Issues (.coll a g) ∧ s.me.basting = false ∧ (tagOf s g.toNat).st.isFree = true ∧ (s.view (.coll a g)).myBank = some bank ∧
    (val (s.seen (.coll a g)) a 1 % 32 ≠ 0 ∨ 0x8000 < val (s.seen (.coll a g)) a 1 + 80) ∧ CanTrap s :=
  fun a h => ⟨collecting [] [] [], 63, 2, issues_of (by fin_cases h <;> decide +kernel), rfl, by decide +kernel, by fin_cases h <;> decide +kernel, by fin_cases h <;> decide +kernel, canTrap_of (by decide +kernel)⟩
theorem test_Collectives_poisoned : ∃ (s : State) (a : Reg) (g : Tag) (bank : Nat), s.Issues (.coll a g) ∧ s.me.basting = false ∧ (tagOf s g.toNat).st.isFree = true ∧ (s.view (.coll a g)).myBank = some bank ∧ val (s.seen (.coll a g)) a 1 = 0x100 ∧
    (s.view (.coll a g)).blockPoison 0x100 80 = true ∧ CanTrap s := ⟨{ collecting [] [] [] with poison := [0x140 / 64] }, 10, 63, 2, issues_of (by decide +kernel), by decide +kernel, by decide +kernel, by decide +kernel, by decide +kernel, by decide +kernel, canTrap_of (by decide +kernel)⟩
def mapOf : Except Eff PageMap → Option PageMap
  | .ok m => some m
  | .error _ => none
def tableOf : TableRead → Option (List (List Byte))
  | .ok l => some l
  | _ => none
theorem ok_of {x : Except Eff PageMap} {m : PageMap} (h : mapOf x = some m) : x = .ok m := by cases x <;> simp_all [mapOf]
theorem table_of {x : TableRead} {l : List (List Byte)} (h : tableOf x = some l) : x = .ok l := by cases x <;> simp_all [tableOf]
/-- COLL with a descriptor and entries that pass, whose table's first entry is e1. -/
structure Collects (s : State) (a : Reg) (g : Tag) (bank : Nat) (m1 : PageMap) (e1 : List Byte) : Prop where
  issues : s.Issues (.coll a g)
  basting : s.me.basting = false
  tag : (tagOf s g.toNat).st.isFree = true
  inBank : (s.view (.coll a g)).myBank = some bank
  block : val (s.seen (.coll a g)) a 1 = 0x100 ∧ (s.view (.coll a g)).blockPoison 0x100 80 = false
  tids : (let c := (s.view (.coll a g)).collOf 0x100 g bank
    tidV c.src = true ∧ tidV c.dst = true ∧ tidBad c.src = none ∧ tidBad c.dst = none ∧ c.descBad = none)
  map : (let c := (s.view (.coll a g)).collOf 0x100 g bank
    (s.view (.coll a g)).collPages .read .table [(c.groupa + 32 * c.rank) / 4096] [] = .ok m1)
  table : (let c := (s.view (.coll a g)).collOf 0x100 g bank
    (s.view (.coll a g)).groupTable m1 [c.groupa + 32 * c.rank] [] = .ok [e1])
def gathering : State := collecting (vector 0x51000 1) (vector 0x52000 2) []
def tableMap : PageMap := [(0x50, 0x1020000, 0)]
theorem test_Collectives_other_package : ∃ (s : State) (a : Reg) (g : Tag) (bank : Nat) (m1 : PageMap) (e1 : List Byte), Collects s a g bank m1 e1 ∧ ((bytesDWord e1).extractLsb' 0 12).toNat ≠ s.pkg ∧ CanTrap s :=
  ⟨gathering.putBytes 0x1020000 0 [1], 10, 63, 2, tableMap, 1 :: le 31 0, ⟨issues_of (by decide +kernel), rfl, by decide +kernel, by decide +kernel, by decide +kernel, by decide +kernel, ok_of (by decide +kernel), table_of (by decide +kernel)⟩, by decide +kernel, canTrap_of (by decide +kernel)⟩
theorem test_Collectives_sealed : ∃ (s : State) (a : Reg) (g : Tag) (bank : Nat) (m1 : PageMap) (e1 : List Byte), Collects s a g bank m1 e1 ∧ ((bytesDWord e1).extractLsb' 0 12).toNat = s.pkg ∧ tidSeal ((s.view (.coll a g)).collOf 0x100 g bank).src = true ∧ CanTrap s :=
  ⟨collecting (le 8 (2 ^ 63 + 2 ^ 62 + 0x51000) ++ (vector 0 1).drop 8) (vector 0x52000 2) [], 10, 63, 2, tableMap, le 32 0, ⟨issues_of (by decide +kernel), rfl, by decide +kernel, by decide +kernel, by decide +kernel, by decide +kernel, ok_of (by decide +kernel), table_of (by decide +kernel)⟩,
   by decide +kernel, by decide +kernel, canTrap_of (by decide +kernel)⟩
/-- All of COLL's rows are passed but, with a milestone at SEQN × 256 + 1, the last. -/
theorem test_Collectives_issue : ∀ ms ∈ [0x100, 0x101], ∃ (s : State) (a : Reg) (g : Tag) (bank : Nat) (m1 : PageMap) (e1 : List Byte) (fmt : Ty) (gm am dm : PageMap) (es : List (List Byte)), Collects s a g bank m1 e1 ∧
    (let v := s.view (.coll a g)
     let c := v.collOf 0x100 g bank
     let table := (List.range c.ranks).map (fun r => c.groupa + 32 * r)
     ((bytesDWord e1).extractLsb' 0 12).toNat = s.pkg ∧ tidSeal c.src = false ∧ tidSeal c.dst = false ∧ tidFmt c.dst = some fmt ∧
     v.collPages .read .table (firstUse (table.map (· / 4096))) [] = .ok gm ∧ v.collPages .home .area ((List.range c.apages).map (fun k => c.area / 4096 + k)) [] = .ok am ∧ v.collPages .read .dest (shardPages c.dst fmt) [] = .ok dm ∧
     v.groupTable gm table [] = .ok es ∧ (∀ e ∈ es, s.dead.getLsbD ((bytesDWord e).extractLsb' 0 12).toNat = false) ∧ es.length = c.ranks ∧ c.base = 0x100 ∧ msOf v { c with areaPages := am } = ms) ∧ CanTrap s := by
  intro ms h
  refine ⟨gathering.putBytes 0x1010000 0 (le 8 ms), 10, 63, 2, tableMap, le 32 0, .fp32, tableMap, (List.range 5).map (fun k => (0x40 + k, 0x1010000 + 4096 * k, 0)), [(0x52, 0x1022000, 0)], [le 32 0, le 32 0], ?_, ?_, ?_⟩
  · fin_cases h <;> exact ⟨issues_of (by decide +kernel), rfl, by decide +kernel, by decide +kernel, by decide +kernel, by decide +kernel, ok_of (by decide +kernel), table_of (by decide +kernel)⟩
  · fin_cases h <;> exact ⟨by decide +kernel, by decide +kernel, by decide +kernel, by decide +kernel, ok_of (by decide +kernel), ok_of (by decide +kernel), ok_of (by decide +kernel), table_of (by decide +kernel), by decide +kernel, by decide +kernel, by decide +kernel, by decide +kernel⟩
  · fin_cases h <;> exact canTrap_of (by decide +kernel)

/-- A collective of ranks 0 and 1 at rank 0, running. -/
def aColl (lays layd : Nat) (kind : Exchange) (n : Nat) (tnode tlim : Nat) : Coll :=
  { id := 7, core := 0, ctx := 0, tag := 63, addr := 0x100, aspc := 0, issued := 0, words := (collWords lays layd tnode tlim).map (BitVec.ofNat 64), src := vector 0x51000 1, dst := vector 0x52000 n,
    group := [⟨0, 0, 0, 0x50000, 0x51000⟩, ⟨0, 0, 0, 0x60000, 0x71000⟩], rank := 0, areaPages := (List.range 5).map (fun k => (0x40 + k, 0x1010000 + 4096 * k, 0)), dstPages := [(0x52, 0x1022000, 0)], kind := kind, phase := .running }
def gather : Coll := aColl 0xFF8 0xFFF .allGather 2 0 0
def reduce_ (tnode : Nat) : Coll := aColl 0x1FFF 0xFFF .allReduce 1 tnode 0
/-- Cluster 0's sequencer runs it. -/
def sequencing (c : Coll) (i : Inp) : State := with_ { State.reset with colls := [(0, [c])] } i
theorem mapped_of {s : State} {c : Coll} (f : tidFmt c.dst = some .fp32) (h : (∀ v, v < c.apages → ∃ e ∈ c.areaPages, e.1 = c.area / 4096 + v) ∧ (∀ v ∈ shardPages c.dst .fp32, ∃ e ∈ c.dstPages, e.1 = v) ∧ (∀ e ∈ c.areaPages ++ c.dstPages, s.keyOk 0 e.2.1 e.2.2 = true)) :
    Mapped s 0 c := ⟨h.1, fun t ht => by rw [f] at ht; cases ht; exact h.2.1, h.2.2⟩
/-- A watch's completion with value v. -/
def heardDone (v : Nat) (st : Byte) : DoneItem := { doneOf st with value := BitVec.ofNat 64 v }
theorem test_Collectives_watch_unknown : ∃ (s : State) (c : Coll) (it : DoneItem), CollRuns s s.inp.clus c ∧ c.phase = .running ∧ c.status = 0 ∧ goodArea s s.inp.clus c ∧ s.inp.load = .done it ∧ ∀ w ∈ c.watches, w.1 ≠ s.inp.id :=
  ⟨sequencing gather { id := 4, load := .done (heardDone 0x101 0) }, gather, heardDone 0x101 0, ⟨rfl, .inl rfl⟩, rfl, rfl, by unfold goodArea; decide +kernel, rfl, by decide +kernel⟩
theorem test_Collectives_abort : ∀ st ∈ [(0 : Byte), 0x50], ∃ (s : State) (c : Coll) (it : DoneItem), CollRuns s s.inp.clus c ∧ c.phase = .running ∧ c.status = 0 ∧ goodArea s s.inp.clus c ∧ s.inp.load = .done it ∧ it.status = st ∧ c.watches.find? (fun w => w.1 = s.inp.id) = some (s.inp.id, .abort) :=
  fun st h => ⟨sequencing { gather with watches := [(4, .abort)] } { id := 4, load := .done (heardDone 0x101 st) }, { gather with watches := [(4, .abort)] }, heardDone 0x101 st, ⟨rfl, .inl rfl⟩, rfl, rfl, by unfold goodArea; fin_cases h <;> decide +kernel, rfl, rfl, rfl⟩
/-- Member 1's milestone at +0xFF or at +1; an error. -/
theorem test_Collectives_member : ∀ x ∈ [(0x101, (0x50 : Byte)), (0x1FF, 0), (0x101, 0)], ∃ (s : State) (c : Coll) (it : DoneItem), CollRuns s s.inp.clus c ∧ c.phase = .running ∧ c.status = 0 ∧ goodArea s s.inp.clus c ∧ s.inp.load = .done it ∧ it.status = x.2 ∧
    it.value.toNat = x.1 ∧ c.base = 0x100 ∧ c.watches.find? (fun w => w.1 = s.inp.id) = some (s.inp.id, .member 1 1) ∧ c.kind = .allGather ∧ 1 < c.gx ∧ 1 ≠ c.me ∧ (∀ x ∈ c.slices, x.1 ≠ 1) ∧ (∀ g ∈ c.pulls, g.j ≠ 1) ∧ (∀ k, k < c.gx → k = c.me ∨ k = 1 ∨ 1 ≤ c.low k) ∧ Mapped s s.inp.clus c :=
  fun x h => ⟨sequencing { gather with watches := [(4, .member 1 1)] } { id := 4, load := .done (heardDone x.1 x.2) }, { gather with watches := [(4, .member 1 1)] }, heardDone x.1 x.2, ⟨rfl, .inl rfl⟩, rfl, rfl, by unfold goodArea; fin_cases h <;> decide +kernel, rfl, rfl,
    by fin_cases h <;> decide +kernel, by decide +kernel, rfl, rfl, by decide +kernel, by decide +kernel, by decide +kernel, by decide +kernel, by decide +kernel, mapped_of rfl (by fin_cases h <;> decide +kernel)⟩
theorem test_Collectives_tlim : ∀ clk ∈ [2100000, 2099999], ∃ (s : State) (c : Coll), CollRuns s s.inp.clus c ∧ c.phase = .running ∧ goodArea s s.inp.clus c ∧ c.status = 0 ∧ c.tlim ≠ 0 ∧ usCycles (1000 * c.tlim) = 2100000 ∧ s.since c.issued = clk :=
  fun clk h => ⟨{ sequencing (aColl 0xFF8 0xFFF .allGather 2 0 1) {} with clk := BitVec.ofNat 64 clk }, aColl 0xFF8 0xFFF .allGather 2 0 1, ⟨rfl, .inl rfl⟩, rfl, by unfold goodArea; fin_cases h <;> decide +kernel, rfl, by decide +kernel, by decide +kernel, by fin_cases h <;> decide +kernel⟩
theorem test_Collectives_tnode : ∀ clk ∈ [2100, 2099], ∃ (s : State) (c : Coll), CollRuns s s.inp.clus c ∧ c.phase = .running ∧ goodArea s s.inp.clus c ∧ c.tnode ≠ 0 ∧ usCycles c.tnode = 2100 ∧ s.since c.started = clk ∧ c.kind = .allReduce ∧ c.me = 0 ∧ c.timedOut = false ∧ c.rooted = false ∧
    c.missing ≠ [] ∧ (∀ j ∈ c.missing, 1 ≤ c.low j ∧ c.raw j = none) ∧ (∀ g ∈ c.pulls, g.what = .partial_) ∧ Mapped s s.inp.clus c :=
  fun clk h => ⟨{ sequencing { reduce_ 1 with seen := [(1, 1)] } {} with clk := BitVec.ofNat 64 clk }, { reduce_ 1 with seen := [(1, 1)] }, ⟨rfl, .inl rfl⟩, rfl, by unfold goodArea; fin_cases h <;> decide +kernel, by decide +kernel, by decide +kernel, by fin_cases h <;> decide +kernel, rfl, by decide +kernel,
    rfl, rfl, by decide +kernel, by decide +kernel, by decide +kernel, mapped_of rfl (by fin_cases h <;> decide +kernel)⟩
/-- The gathering's only slice has come. -/
def slice1 : CollGet := ⟨3, .slice, 0, 1, [0x71000 / 32], [(0x71000 / 32, le 32 0x3F800000)]⟩
def gathered : Coll := { gather with pulls := [slice1], pages := [(0x71, 0x1031000, 0)], seen := [(1, 1)] }
theorem test_Collectives_slice : ∃ (s : State) (c : Coll) (g : CollGet), CollRuns s s.inp.clus c ∧ c.phase = .running ∧ goodArea s s.inp.clus c ∧ c.kind = .allGather ∧ c.core < 128 ∧ c.addr + 80 ≤ 0x8000 ∧ c.pulls = [g] ∧ g.num = s.inp.id ∧ g.num ≠ 0 ∧ g.what = .slice ∧
    (∀ u ∈ g.units, Assoc.has u g.got = true ∧ ∃ x ∈ c.pages, x.1 = u / 128) ∧ (∀ k, k < c.gx → k = c.me ∨ k = g.j ∨ ∃ x ∈ c.slices, x.1 = k) ∧ (s.clus s.inp.clus).saved = [] ∧ Mapped s s.inp.clus c ∧ (∀ e ∈ c.dstPages, ∀ a ∈ c.areaPages, e.2.1 ≠ a.2.1) ∧
    (∀ e ∈ c.dstPages, e.2.1 % 4096 = 0) ∧ (∀ e, e < shardSize c.dst → ∀ n, n < 16 → ∃ p ∈ c.dstPages, p.1 = (shardAddr c.dst ((tidFmt c.dst).getD .fp32) e + n) / 4096) ∧ ∃ p ∈ c.areaPages, p.1 = c.area / 4096 :=
  ⟨sequencing gathered { id := 3 }, gathered, slice1, ⟨rfl, .inl rfl⟩, rfl, by unfold goodArea; decide +kernel, rfl, by decide, by decide, rfl, rfl, by decide, rfl, by decide +kernel, by decide +kernel, rfl, mapped_of rfl (by decide +kernel), by decide +kernel, by decide +kernel, by decide +kernel, by decide +kernel⟩
/-- The root has its only child's partial: 1.0 from rank 1. -/
def partial1 : CollGet := ⟨3, .partial_, 0, 1, [0x61000 / 32, 0x62000 / 32], [(0x61000 / 32, le 32 2), (0x62000 / 32, le 32 0x3F800000)]⟩
def reduced : Coll := { reduce_ 0 with pulls := [partial1], pages := [(0x61, 0x1031000, 0), (0x62, 0x1032000, 0)], seen := [(1, 2)], own := [0x40000000] }
theorem test_Collectives_reduction : ∃ (s : State) (c : Coll) (g : CollGet), CollRuns s s.inp.clus c ∧ c.phase = .running ∧ goodArea s s.inp.clus c ∧ c.kind = .allReduce ∧ c.me = 0 ∧ c.gx ≤ c.fanin + 1 ∧ c.timedOut = false ∧ c.rooted = false ∧ tidFmt c.dst = some .fp32 ∧ c.own.length = shardSize c.src ∧
    c.pulls = [g] ∧ g.num = s.inp.id ∧ g.num ≠ 0 ∧ g.what = .partial_ ∧ g.part = 0 ∧ 0 < g.j ∧ g.j < c.gx ∧ c.arrival 0 g.j = none ∧ c.form 0 g.j = .full ∧ (∀ j, 0 < j → j < c.gx → 2 ≤ c.low j ∧ j = g.j) ∧ bitmapList c.gx (g.bytes ((c.entry g.j).areav + 0x1000) 512) = [g.j] ∧
    (∀ u ∈ g.units, Assoc.has u g.got = true ∧ ∃ x ∈ c.pages, x.1 = u / 128) ∧ Mapped s s.inp.clus c ∧ (s.clus s.inp.clus).saved = [] ∧ c.core < 128 ∧ c.addr + 80 ≤ 0x8000 ∧ (∀ e ∈ c.dstPages, ∀ a ∈ c.areaPages, e.2.1 ≠ a.2.1) ∧
    (∀ e ∈ c.dstPages, e.2.1 % 4096 = 0 ∧ (paRegion e.2.1).isCore = false) ∧ (c.dstPages.map (·.2.1)).Nodup ∧ (c.dstPages.map (·.1)).Nodup ∧ (∀ a, a < shardSize c.dst → shardAddr c.dst .fp32 a % 4 = 0 ∧ shardAddr c.dst .fp32 a < 2 ^ 48) ∧ shardSize c.dst = 1 ∧ (c.locate 0).1 ∈ c.members ∧
    (c.locate 0).2 < shardSize c.src := by
  have gx : reduced.gx = 2 := by decide +kernel
  refine ⟨sequencing reduced { id := 3 }, reduced, partial1, ⟨rfl, .inl rfl⟩, rfl, by unfold goodArea; decide +kernel, rfl, by decide +kernel, by decide +kernel, rfl, rfl, rfl, by decide +kernel, rfl, rfl, by decide, rfl, rfl, by decide, by decide +kernel, by decide +kernel, by decide +kernel, ?_, by decide +kernel,
    by decide +kernel, mapped_of rfl (by decide +kernel), rfl, by decide, by decide, by decide +kernel, by decide +kernel, by decide +kernel, by decide +kernel, by decide +kernel, by decide +kernel, by decide +kernel, by decide +kernel⟩
  intro j h1 h2
  obtain rfl : j = 1 := by omega
  decide +kernel
/-- The source's only unit has come. -/
def queued (ph : CollPhase) : Coll := { gather with phase := ph, got := [(0x51000 / 32, le 32 0x40000000)], pages := [(0x51, 0x1021000, 0)] }
theorem test_Collectives_start : ∀ ph ∈ [CollPhase.queued, .reading], ∃ (s : State) (c : Coll), s.collsOf s.inp.clus = [c] ∧ c.phase = ph ∧ c.status = 0 ∧ goodArea s s.inp.clus c ∧ Mapped s s.inp.clus c ∧ c.abaddr = 0 ∧ (s.clus s.inp.clus).xfails = [] ∧
    (∀ u ∈ shardUnits c.src, Assoc.has u c.got = true ∧ ∃ x ∈ c.pages, x.1 = u / 128) ∧ c.kind.reduces = false ∧ (∀ e ∈ c.dstPages, ∀ a ∈ c.areaPages, e.2.1 ≠ a.2.1) ∧ (∀ e ∈ c.dstPages, e.2.1 % 4096 = 0) ∧ c.core < 128 ∧ c.addr + 80 ≤ 0x8000 ∧ c.addr % 32 = 0 ∧ (s.clus s.inp.clus).saved = [] :=
  fun ph h => ⟨sequencing (queued ph) {}, queued ph, rfl, rfl, rfl, by unfold goodArea; fin_cases h <;> decide +kernel, mapped_of (by fin_cases h <;> rfl) (by fin_cases h <;> decide +kernel), by fin_cases h <;> decide +kernel, rfl, by fin_cases h <;> decide +kernel, rfl, by fin_cases h <;> decide +kernel, by fin_cases h <;> decide +kernel, by fin_cases h <;> decide +kernel,
    by fin_cases h <;> decide +kernel, by fin_cases h <;> decide +kernel, rfl⟩
theorem test_Collectives_no_pull : ∃ s : State, (∀ c ∈ s.collsOf s.inp.clus, ∀ g ∈ c.pulls, g.num ≠ s.inp.id) ∧ s.collsOf s.inp.clus ≠ [] := ⟨sequencing gathered { id := 4 }, by decide +kernel⟩
def finished : Coll := { gather with phase := .finishing, doneRanks := [1] }
theorem test_Collectives_completes : ∃ (s : State) (c : Coll), CollRuns s s.inp.clus c ∧ c.phase = .finishing ∧ (∀ j, j < c.gx → j = c.me ∨ j ∈ c.doneRanks) ∧ c.tag < 64 ∧ c.core < 128 ∧ c.addr % 32 = 0 ∧ c.addr + 80 ≤ 0x8000 ∧ memWf s.mem = true ∧ (s.clus s.inp.clus).saved = [] ∧
    (s.clus s.inp.clus).xfails = [] ∧ ((s.core s.inp.clus c.core).tag c.tag).op = c.id ∧ ((s.core s.inp.clus c.core).tag c.tag).st.isBusy = true :=
  ⟨{ tagged [(63, .busy .coll, 0)] [] id with colls := [(0, [finished])] }, finished, ⟨rfl, .inr rfl⟩, rfl, by decide +kernel, by decide, by decide, by decide, by decide, by decide +kernel, by decide +kernel, by decide +kernel, by decide +kernel, by decide +kernel⟩

/-! ### Witnesses: turns, fetches, breakpoints, walks, the registers of translation -/

/-- Context 1 of core 0 has the turn since clock 0; those named are READY. -/
def turning (l : List Nat) (q : Bool) (clk : Nat) : State :=
  { (l.foldl (fun s n => s.setCtx ⟨0, 0, n⟩ { Ctx.reset with st := .ready }) State.reset).modCore 0 0 (fun k => { k with turn := 1, turnOn := true, turnAt := 0, qexp := q }) with clk := BitVec.ofNat 64 clk }
theorem test_Walking_turn_kept : ∀ x ∈ [([1], 16384), ([0, 1, 2, 3], 16383)], ∃ s : State, (s.core 0 0).turn = 1 ∧ (s.core 0 0).turnOn = true ∧ s.canRun ⟨0, 0, 1⟩ = true ∧ (s.core 0 0).qexp = false ∧ s.since (s.core 0 0).turnAt = x.2 ∧ ∀ n < 4, s.canRun ⟨0, 0, n⟩ = x.1.contains n :=
  fun x h => ⟨turning x.1 false x.2, by fin_cases h <;> decide +kernel⟩
theorem test_Walking_turn_passed : ∀ j ∈ [1, 2, 3], ∀ x ∈ [(true, 0), (false, 16384)], ∃ s : State, (s.core 0 0).turn = 1 ∧ (s.core 0 0).turnOn = true ∧ s.canRun ⟨0, 0, 1⟩ = true ∧ (s.core 0 0).qexp = x.1 ∧ s.since (s.core 0 0).turnAt = x.2 ∧ s.canRun ⟨0, 0, (1 + j) % 4⟩ = true ∧
    (∀ i < 4, 1 ≤ i → i < j → s.canRun ⟨0, 0, (1 + i) % 4⟩ = false) := fun j h x k => ⟨turning [1, (1 + j) % 4] x.1 x.2, by fin_cases h <;> fin_cases k <;> decide +kernel⟩
/-- Context 0 waits for the unit at a physical address. -/
def fetching (pa : Nat) (f : State → State) : State := with_ (f (State.reset.setCtx ⟨0, 0, 0⟩ { Ctx.reset with st := .blocked .fetchLine })) { n := pa / 32 }
theorem traps1_of (c : Ctx) (h : c.basting = false ∧ c.stop = false ∧ c.last = false ∧ c.intrap = false) : Traps1 c := h
theorem test_Walking_fetch : ∀ l ∈ [[], [0x1004020 / 64]], ∃ s : State, (s.ctx s.inp.pos).st = .blocked .fetchLine ∧ Traps1 (s.ctx s.inp.pos) ∧ s.inp.pos.clus < 128 ∧ s.isHome s.inp.pos.clus (32 * s.inp.n) = true ∧ s.poison = l ∧ s.poison.contains (32 * s.inp.n / 64) = !l.isEmpty :=
  fun l h => ⟨fetching 0x1004020 (fun s => { s with poison := l }), by fin_cases h <;> rfl, ⟨by fin_cases h <;> rfl, by fin_cases h <;> rfl, by fin_cases h <;> rfl, by fin_cases h <;> rfl⟩, by fin_cases h <;> decide +kernel, by fin_cases h <;> decide +kernel, by fin_cases h <;> rfl, by fin_cases h <;> decide +kernel⟩
theorem test_Walking_fetch_refused : ∃ s : State, (s.ctx s.inp.pos).st = .blocked .fetchLine ∧ Traps1 (s.ctx s.inp.pos) ∧ paPkg (32 * s.inp.n) = s.pkg ∧ s.isHome s.inp.pos.clus (32 * s.inp.n) = false ∧ s.ownerRefuses (s.clus s.inp.pos.clus).fn (32 * s.inp.n) = true :=
  ⟨fetching (mkPa 0 1 0x1004020) (fun s => s.modClus 1 (fun k => { k with fn := 5 })), rfl, ⟨rfl, rfl, rfl, rfl⟩, by decide +kernel, by decide +kernel, by decide +kernel⟩
theorem test_Walking_fetch_away : ∃ s : State, (s.ctx s.inp.pos).st = .blocked .fetchLine ∧ Traps1 (s.ctx s.inp.pos) ∧ paPkg (32 * s.inp.n) ≠ s.pkg ∧ (∀ o ∈ s.outReads, o.who ≠ .fetch s.inp.pos (32 * s.inp.n) s.inp.id) := ⟨fetching (mkPa 9 0 0x1004020) id, rfl, ⟨rfl, rfl, rfl, rfl⟩, by decide +kernel, by decide +kernel⟩
def bytesOf : FetchedInstr → Option (List Byte)
  | .bytes l => some l
  | _ => none
theorem bytes_of {x : FetchedInstr} {l : List Byte} (h : bytesOf x = some l) : x = .bytes l := by cases x <;> simp_all [bytesOf]
/-- An instruction is placed, and breakpoints 2 and 3 match its address. -/
def breaking (f : Ctx → Ctx) : State := (placed 0).modCtx ⟨0, 0, 0⟩ (fun c => f { c with bpa := (c.bpa.set 2 c.pc).set 3 c.pc, skipbp := false, debug := true })
theorem test_Walking_breakpoint : ∃ (s : State) (l : List Byte), (s.ctx s.inp.pos).st = .ready ∧ Traps1 (s.ctx s.inp.pos) ∧ (s.ctx s.inp.pos).convoy = none ∧ (s.ctx s.inp.pos).ptrap = none ∧ (s.ctx s.inp.pos).pdbg = false ∧ s.fetchInstr s.inp.pos = .bytes l ∧ (s.ctx s.inp.pos).skipbp = false ∧
    (s.ctx s.inp.pos).debug = true ∧ ∀ i < 4, ((s.ctx s.inp.pos).bpa.toList.getD i 0 ≠ 0 ∧ (s.ctx s.inp.pos).bpa.toList.getD i 0 = (s.ctx s.inp.pos).pc) ↔ 2 ≤ i :=
  ⟨breaking id, [0, 0], by decide +kernel, ⟨rfl, rfl, rfl, rfl⟩, by decide +kernel, by decide +kernel, by decide +kernel, bytes_of (by decide +kernel), by decide +kernel, by decide +kernel, by decide +kernel⟩
theorem test_Walking_pending_first : ∃ (s : State) (l : List Byte) (x : PendTrap), (s.ctx s.inp.pos).ptrap = some x ∧ (s.ctx s.inp.pos).st = .ready ∧ Traps1 (s.ctx s.inp.pos) ∧ (s.ctx s.inp.pos).skipbp = false ∧ (s.ctx s.inp.pos).debug = true ∧ (s.ctx s.inp.pos).convoy = none ∧
    s.fetchInstr s.inp.pos = .bytes l ∧ ∃ i, i < 4 ∧ (s.ctx s.inp.pos).bpa.toList.getD i 0 ≠ 0 ∧ (s.ctx s.inp.pos).bpa.toList.getD i 0 = (s.ctx s.inp.pos).pc :=
  ⟨breaking (fun c => { c with ptrap := some ⟨0x52, 0, 0⟩ }), [0, 0], ⟨0x52, 0, 0⟩, by decide +kernel, by decide +kernel, ⟨rfl, rfl, rfl, rfl⟩, by decide +kernel, by decide +kernel, by decide +kernel, bytes_of (by decide +kernel), 2, by decide +kernel⟩
theorem test_Walking_past_bounds : ∀ x ∈ [(Space.read, 2 ^ 48), (.home, 2 ^ 36)], (match x.1 with | .read => 2 ^ 48 | .home => 2 ^ 36) ≤ (BitVec.ofNat 64 x.2).toNat := by decide +kernel

/-- Walk 3 of cluster 0, for a context, with its table in the cluster's vault. -/
def aWalk (sp : Space) (lvl : Nat) (acc : AccKind) (table : Nat) : Walk := ⟨3, 0, sp, 0x10008038, acc, [.ctx ⟨0, 0, 0⟩], lvl, table, 0, none⟩
/-- That walk is under way and the entry that it examines is e; the root of both spaces is r. -/
def walking (w : Walk) (e r : Nat) (f : Clus → Clus) : State :=
  with_ (({ State.reset with dead := 0 }.setCtx ⟨0, 0, 0⟩ { Ctx.reset with st := .blocked .xlate }).putBytes (entryAt w) 0 (le 8 e) |>.modClus 0 (fun k => f { k with walks := [w], rroot := k.rroot.set 0 (BitVec.ofNat 64 r), hroot := k.hroot.set 0 (BitVec.ofNat 64 r) })) { id := 3 }
theorem walks_of {s : State} {w : Walk} (h : (s.clus s.inp.clus).walks.find? (fun x => x.id = s.inp.id) = some w ∧ w ∈ (s.clus s.inp.clus).walks.take 4 ∧ w.reqs = [.ctx ⟨0, 0, 0⟩] ∧ w.bast = none ∧ (s.ctx ⟨0, 0, 0⟩).st = .blocked .xlate ∧
    ((s.ctx ⟨0, 0, 0⟩).basting = false ∧ (s.ctx ⟨0, 0, 0⟩).stop = false ∧ (s.ctx ⟨0, 0, 0⟩).last = false ∧ (s.ctx ⟨0, 0, 0⟩).intrap = false)) : Walks s w ⟨0, 0, 0⟩ := ⟨h.1, h.2.1, h.2.2.1, h.2.2.2.1, h.2.2.2.2.1, h.2.2.2.2.2⟩
/-- A root without a table, one that is no table page, one of another cluster and a good one, for both spaces. -/
theorem test_Walking_root : ∀ r ∈ [4095, 4096, 0x1004000, 2 ^ 45 + 0x1004000], ∀ sp ∈ [Space.read, .home], ∃ (s : State) (w : Walk) (p : Pos), Walks s w p ∧ w.level = top w.space + 1 ∧ w.space = sp ∧ ((s.clus s.inp.clus).rroot.toList.getD w.aspc 0).toNat = r ∧ ((s.clus s.inp.clus).hroot.toList.getD w.aspc 0).toNat = r :=
  fun r h sp k => ⟨walking (aWalk sp (top sp + 1) .load 0) 0 r id, aWalk sp (top sp + 1) .load 0, ⟨0, 0, 0⟩, walks_of (by fin_cases h <;> fin_cases k <;> decide +kernel), rfl, rfl, by fin_cases h <;> fin_cases k <;> decide +kernel, by fin_cases h <;> fin_cases k <;> decide +kernel⟩
theorem test_Walking_tables : paRegion 4096 ≠ .vault ∧ paRegion 4096 ≠ .hbm ∧ paRegion 0x1004000 = .vault ∧ paRegion (2 ^ 45 + 0x1004000) = .vault ∧ paOwner (2 ^ 45 + 0x1004000) ≠ paOwner (mkPa 0 0 0) := by decide +kernel
theorem test_Walking_away : ∀ d ∈ [true, false], ∃ (s : State) (w : Walk) (p : Pos), Walks s w p ∧ w.level ≤ top w.space ∧ s.dead.getLsbD (paPkg (entryAt w)) = d ∧ paPkg (entryAt w) ≠ s.pkg ∧ (∀ o ∈ s.outReads, o.who ≠ .walk s.inp.clus w.id) :=
  fun d h => ⟨{ walking (aWalk .read 1 .load (mkPa 9 0 0x1004000)) 0 0 id with dead := if d then 1 <<< 9 else 0 }, aWalk .read 1 .load (mkPa 9 0 0x1004000), ⟨0, 0, 0⟩, walks_of (by fin_cases h <;> decide +kernel), by decide, by fin_cases h <;> decide +kernel, by fin_cases h <;> decide +kernel, by fin_cases h <;> decide +kernel⟩
theorem entryHere_of {s : State} {w : Walk} {e : DWord} (h : w.level ≤ top w.space ∧ (paPkg (entryAt w) = s.pkg ∧ s.dead.getLsbD s.pkg = false) ∧ (s.clus (paClus (entryAt w))).fn = (s.clus s.inp.clus).fn ∧ (s.clus s.inp.clus).keyBits.getLsbD w.tkey = true ∧
    s.poison.contains (entryAt w / 64) = false ∧ bytesDWord (s.bytesAt (entryAt w) w.tkey 8) = e) : EntryHere s w e := ⟨h.1, h.2.1, h.2.2.1, h.2.2.2.1, h.2.2.2.2.1, h.2.2.2.2.2⟩
/-- An entry of cluster 0 for a frame. -/
def pte (frame flags : Nat) : Nat := frame / 4096 * 2 ^ 21 + flags
/-- A walk whose entry can be read. -/
def examining (w : Walk) (e : Nat) : State := walking w e 0 (fun k => { k with keyBits := 1 })
/-- The entries that end a walk: not present; a table with RSV bits, or in a core store; a leaf of another cluster; a table at level 0, a leaf at level 3, a 64 KiB leaf at level 1; a large leaf out of line, or in a core store (R35), or in the reserve; type DEVICE in
the vault; a key slot not held; no permission. -/
def badEntries : List (Space × Nat × Nat) := [(.home, 0, 0), (.home, 1, 5), (.home, 1, pte 0x1000 1), (.home, 0, pte 0x1004000 0x33 + 2 ^ 45), (.home, 0, pte 0x1005000 1), (.read, 3, pte 0x1005000 0x33), (.home, 1, pte 0x1005000 0x73), (.home, 1, pte 0x1004000 0x33),
  (.home, 0, pte 0x1005000 0x1B3), (.home, 0, pte 0x100000000 0x233), (.home, 0, pte 0x1005000 3)]
theorem test_Walking_entries : ∀ x ∈ badEntries, ∃ (s : State) (w : Walk) (p : Pos), Walks s w p ∧ EntryHere s w (BitVec.ofNat 64 x.2.2) ∧ w.space = x.1 ∧ w.level = x.2.1 :=
  fun x h => ⟨examining (aWalk x.1 x.2.1 .load 0x1004000) x.2.2, aWalk x.1 x.2.1 .load 0x1004000, ⟨0, 0, 0⟩, walks_of (by fin_cases h <;> decide +kernel), entryHere_of (by fin_cases h <;> decide +kernel), rfl, rfl⟩
theorem test_Walking_next_level : ∃ (s : State) (w : Walk) (p : Pos) (e : DWord), Walks s w p ∧ EntryHere s w e ∧ e.getLsbD 0 = true ∧ e.getLsbD 1 = false ∧ e.extractLsb' 2 19 = 0 ∧ paRegion (frameOf e) = .vault ∧ paOwner (frameOf e) = paOwner (mkPa s.pkg s.inp.clus 0) ∧ w.level ≠ 0 :=
  ⟨examining (aWalk .home 1 .load 0x1004000) (pte 0x1005000 1), aWalk .home 1 .load 0x1004000, ⟨0, 0, 0⟩, BitVec.ofNat 64 (pte 0x1005000 1), walks_of (by decide +kernel), entryHere_of (by decide +kernel), by decide +kernel⟩
/-- Pages that a walk fills: 4 KiB read for a load, 64 KiB home for a store, whose entry gets A and D. -/
theorem test_Walking_fill : ∀ x ∈ [(Space.read, AccKind.load, 0x1005000, 0x13), (.home, .store, 0x1010000, 0x73)], ∃ (s : State) (w : Walk) (p : Pos) (e : DWord), Walks s w p ∧ EntryHere s w e ∧ w.space = x.1 ∧ w.acc = x.2.1 ∧ e.getLsbD 0 = true ∧ e.getLsbD 1 = true ∧ w.level = 0 ∧
    (let size := if e.getLsbD 6 then 2 ^ 16 else 2 ^ 12
     frameOf e = x.2.2.1 ∧ frameOf e % size = 0 ∧ paRegion (frameOf e) = .vault ∧ paRegion (frameOf e + size - 1) = .vault) ∧ paOwner (frameOf e) = paOwner (mkPa s.pkg s.inp.clus 0) ∧ e.extractLsb' 7 2 ≠ 3#2 ∧
    (if (w.space = .home ∧ w.acc ≠ .load) ∨ (w.space = .read ∧ w.acc = .fetch) then e.getLsbD 5 else e.getLsbD 4) = true ∧ (s.clus s.inp.clus).tuInv = [] ∧ memWf s.mem = true ∧ (s.clus s.inp.clus).tlb.length < 4096 ∧ paOwner (entryAt w) = paOwner (mkPa s.pkg s.inp.clus 0) ∧
    w.table % 4096 = 0 :=
  fun x h => ⟨examining (aWalk x.1 0 x.2.1 0x1004000) (pte x.2.2.1 x.2.2.2), aWalk x.1 0 x.2.1 0x1004000, ⟨0, 0, 0⟩, BitVec.ofNat 64 (pte x.2.2.1 x.2.2.2), walks_of (by fin_cases h <;> decide +kernel), entryHere_of (by fin_cases h <;> decide +kernel), by fin_cases h <;> decide +kernel⟩
/-- With a service context EN (1) and without (0). -/
theorem test_Walking_service : ∀ n ∈ [0, 1], ∃ (s : State) (w : Walk) (p : Pos), Walks s w p ∧ EntryHere s w 0 ∧ (s.clus s.inp.clus).svcStat = n ∧ p ≠ svcPos s.inp.clus ∧ (s.clus s.inp.clus).tokens = [] ∧ (s.clus s.inp.clus).waitFaults = [] ∧ (s.clus s.inp.clus).waitMsgs = [] ∧
    (s.core s.inp.clus 0).mail.length < 16 :=
  fun n h => ⟨walking (aWalk .home 0 .load 0x1004000) 0 0 (fun k => { k with keyBits := 1, svcStat := n }), aWalk .home 0 .load 0x1004000, ⟨0, 0, 0⟩, walks_of (by fin_cases h <;> decide +kernel), entryHere_of (by fin_cases h <;> decide +kernel), by fin_cases h <;> decide +kernel⟩
theorem test_Walking_no_walker : ∃ s : State, ∀ w ∈ (s.clus s.inp.clus).walks.take 4, w.id ≠ s.inp.id := ⟨State.reset, by decide +kernel⟩

/-- A token of context 0, and the physical function's write of TU_REPLY for it. -/
def aToken (k : FaultKind) : Token := ⟨5, k, 0, .home, 0x10000, [(.ctx ⟨0, 0, 0⟩, 0x10038, .load)], [1, 2, 3, 4, 5, 6, 7, 8], 9⟩
def replying (k : FaultKind) (st : CtxSt) (code : Nat) : State :=
  with_ ((State.reset.setCtx ⟨0, 0, 0⟩ { Ctx.reset with st := st, ans := some (.svc, 4), ansId := 9 }).modClus 0 (fun x => { x with tokens := [aToken k] })) { val := BitVec.ofNat 64 (5 * 2 ^ 48 + code * 2 ^ 32) }
theorem writes_zero (s : State) (h : s.inp.clus < 128 ∧ s.inp.fn ∉ s.resetting ∧ s.inp.fn = 0) : Writes s := ⟨h.1, h.2.1, .inl h.2.2⟩
theorem test_TranslationRegisters_fault : ∀ code ∈ [0x0F, 0x10, 0x1F, 0x20, 0x3F, 0x40, 0x45, 0x46], ∃ (s : State) (k : Token) (p : Pos) (a : Nat) (acc : AccKind), Writes s ∧ (s.clus s.inp.clus).tokens = [k] ∧ (s.clus s.inp.clus).waitFaults = [] ∧ (s.ctx p).stop = false ∧
    k.token = (s.inp.val.extractLsb' 48 16).toNat ∧ k.reqs = [(.ctx p, a, acc)] ∧ (s.inp.val.extractLsb' 32 8).toNat = code ∧ k.kind = .pageFault ∧ (s.ctx p).st = .blocked .xlate ∧ Traps1 (s.ctx p) :=
  fun code h => ⟨replying .pageFault (.blocked .xlate) code, aToken .pageFault, ⟨0, 0, 0⟩, 0x10038, .load, writes_zero _ ⟨by simp [replying, with_], by fin_cases h <;> decide +kernel, rfl⟩, by fin_cases h <;> decide +kernel, by fin_cases h <;> decide +kernel, by fin_cases h <;> decide +kernel, by fin_cases h <;> decide +kernel, rfl,
    by fin_cases h <;> decide +kernel, rfl, rfl, ⟨rfl, rfl, rfl, rfl⟩⟩
theorem test_TranslationRegisters_service : ∃ (s : State) (k : Token) (p : Pos) (a : Nat) (acc : AccKind) (d : Reg), Writes s ∧ (s.clus s.inp.clus).tokens = [k] ∧ (s.clus s.inp.clus).waitFaults = [] ∧ (s.ctx p).stop = false ∧ k.token = (s.inp.val.extractLsb' 48 16).toNat ∧ k.reqs = [(.ctx p, a, acc)] ∧
    k.kind = .service ∧ (s.ctx p).st = .blocked (.answer .svc) ∧ (s.ctx p).ansId = k.num ∧ (s.clus s.inp.clus).waitMsgs = [] ∧ (s.core s.inp.clus 0).mail.length < 16 ∧ k.body ≠ [] ∧ Traps1 (s.ctx p) ∧ (s.ctx p).ans = some (.svc, d) ∧ (s.ctx p).spop = [] ∧ (s.ctx p).convoy = none :=
  ⟨replying .service (.blocked (.answer .svc)) 0, aToken .service, ⟨0, 0, 0⟩, 0x10038, .load, 4, writes_zero _ (by decide +kernel), by decide +kernel, by decide +kernel, by decide +kernel, by decide +kernel, rfl, rfl, rfl, rfl, by decide +kernel, by decide +kernel, by decide, ⟨rfl, rfl, rfl, rfl⟩, by decide +kernel, by decide +kernel, by decide +kernel⟩
theorem test_TranslationRegisters_unknown : ∃ s t : State, (Writes s ∧ ∀ k ∈ (s.clus s.inp.clus).tokens, k.token ≠ (s.inp.val.extractLsb' 48 16).toNat) ∧ ¬ Writes t :=
  ⟨with_ (replying .service (.blocked (.answer .svc)) 0) {}, with_ State.reset { fn := 5 }, ⟨writes_zero _ (by decide +kernel), by decide +kernel⟩, fun h => by have := h.2.2; revert this; decide +kernel⟩
/-- Cluster 0 with pages translated, and so changed. -/
def invalidating (f : Clus → Clus) : State := with_ ((at_ 0 [] id).modClus 0 f) { val := BitVec.ofNat 64 (2 ^ 55 + 0x10000) }
theorem test_TranslationRegisters_invalidate : ∃ s t u : State, (Writes s ∧ (∃ x ∈ (s.clus 0).tlb, invNames 1 0 .home 0x10 x) ∧ (s.clus s.inp.clus).tuInv = [] ∧ (s.clus s.inp.clus).walks = [] ∧ NoPins s s.inp.clus) ∧ (Writes t ∧ (t.clus t.inp.clus).walks ≠ []) ∧
    (Writes u ∧ ∃ q ∈ (u.clus u.inp.clus).pins, q.aspc = 0 ∧ q.space = .home ∧ q.page = 0x10) :=
  ⟨invalidating id, invalidating (fun k => { k with walks := [aWalk .home 0 .load 0] }), invalidating (fun k => { k with pins := [⟨0, .home, 0x10, 1⟩] }), ⟨writes_zero _ (by decide +kernel), by unfold invNames; decide +kernel, by decide +kernel, by decide +kernel, by unfold NoPins; decide +kernel⟩,
   ⟨writes_zero _ (by decide +kernel), by decide +kernel⟩, ⟨writes_zero _ (by decide +kernel), by decide +kernel⟩⟩
def aTuInv : TuInv := ⟨3, 0, .read, 0, [3]⟩
theorem test_TranslationRegisters_done : ∃ s t : State, ((s.clus s.inp.clus).tuInv = [aTuInv] ∧ NoPins s s.inp.clus ∧ (∀ v ∈ (s.clus s.inp.clus).tuInv, ∀ n ∈ v.walks, ∀ w ∈ (s.clus s.inp.clus).walks, w.id ≠ n)) ∧
    (aTuInv ∈ (t.clus t.inp.clus).tuInv ∧ (t.clus t.inp.clus).tuDone = false ∧ ∃ n ∈ aTuInv.walks, ∃ w ∈ (t.clus t.inp.clus).walks, w.id = n) :=
  ⟨invalidating (fun k => { k with tuInv := [aTuInv] }), invalidating (fun k => { k with tuInv := [aTuInv], walks := [aWalk .home 0 .load 0] }), ⟨by decide +kernel, by unfold NoPins; decide +kernel, by decide +kernel⟩, by decide +kernel⟩
theorem test_TranslationRegisters_late_walk : ∃ (s : State) (w : Walk) (p : Pos) (e : DWord) (v : TuInv), Walks s w p ∧ EntryHere s w e ∧ v ∈ (s.clus s.inp.clus).tuInv ∧ w.id ∈ v.walks ∧ v.cmd = 3 :=
  ⟨walking (aWalk .home 0 .load 0x1004000) (pte 0x1005000 0x33) 0 (fun k => { k with keyBits := 1, tuInv := [aTuInv] }), aWalk .home 0 .load 0x1004000, ⟨0, 0, 0⟩, BitVec.ofNat 64 (pte 0x1005000 0x33), aTuInv, walks_of (by decide +kernel), entryHere_of (by decide +kernel), by decide +kernel⟩

/-! ### Witnesses: saving, resuming, the debug window -/

/-- A team of one context in slot 7 of cluster 0, of launch (0, 0), with PREEMPT as given; the physical function writes PRE_CTL. -/
def aTeam : Team := { launch := (0, 0), index := 0, pos := [(0, 0)], planes := [], bast := false }
def preRec (preempt : Bool) : List Byte := le 8 (2 ^ 56 + preempt.toNat * 2 ^ 47) ++ (goodRec 0 0).drop 8
def teamed1 (tm : Team) (preempt : Bool) (x : Ctx) (k : Clus → Clus) (i : Inp) : State :=
  with_ (({ State.reset with launches := [((0, 0), { aLaunch with rcd := preRec preempt })], teams := [((0, 7), tm)] }.setCtx ⟨0, 0, 0⟩ { x with slot := some 7 }).modClus 0 k) i
/-- The word of PRE_CTL for slot 7, an image and key slot 0. -/
def ctl (img : Nat) : Inp := { val := BitVec.ofNat 64 (7 * 2 ^ 48 + img) }
theorem test_Saving_unreachable : ∀ i ∈ [Instr.preSave, .preResume, .preDrop], ∃ s t : State, ¬ Writes s ∧ (Writes t ∧ (t.clus t.inp.clus).pre.run ≠ 0) ∧ i.wf = true :=
  fun i h => ⟨with_ State.reset { fn := 5 }, teamed1 aTeam true Ctx.reset (fun k => { k with pre := { run := 2 } }) (ctl 0), fun h => by have := h.2.2; revert this; decide +kernel, ⟨writes_zero _ (by decide +kernel), by decide +kernel⟩, by fin_cases h <;> rfl⟩
theorem test_Saving_no_team : ∃ s : State, Writes s ∧ (s.clus s.inp.clus).pre.run = 0 ∧ s.team? s.inp.clus (ctlSlot s.inp.val) = none := ⟨with_ State.reset (ctl 0), writes_zero _ (by decide +kernel), by decide +kernel⟩
/-- One way in which a SAVE is refused, and none: retiring, basting, PREEMPT 0, an image just below or above the slice, the key. -/
structure SaveAsks (s : State) (tm : Team) : Prop where
  writes : Writes s
  idle : (s.clus s.inp.clus).pre.run = 0
  team : s.team? s.inp.clus (ctlSlot s.inp.val) = some tm
theorem test_Saving_retiring : ∃ (s : State) (tm : Team), SaveAsks s tm ∧ tm.retiring = true := ⟨teamed1 { aTeam with retiring := true } true Ctx.reset id (ctl 0), { aTeam with retiring := true }, ⟨writes_zero _ (by decide +kernel), by decide +kernel, rfl⟩, rfl⟩
theorem test_Saving_basting : ∃ (s : State) (tm : Team), SaveAsks s tm ∧ tm.retiring = false ∧ tm.bast = true := ⟨teamed1 { aTeam with bast := true } true Ctx.reset id (ctl 0), { aTeam with bast := true }, ⟨writes_zero _ (by decide +kernel), by decide +kernel, rfl⟩, rfl, rfl⟩
theorem test_Saving_not_preemptible : ∃ (s : State) (tm : Team), SaveAsks s tm ∧ tm.retiring = false ∧ tm.bast = false ∧ recPreempt (s.teamRecord tm) = false := ⟨teamed1 aTeam false Ctx.reset id (ctl 0), aTeam, ⟨writes_zero _ (by decide +kernel), by decide +kernel, rfl⟩, rfl, rfl, by decide +kernel⟩
theorem test_Saving_bounds : ∀ img ∈ [0x100000000 - 0x1000, 0x100000000, 0x1FF000000 - 0x9000, 0x1FF000000 - 0x8000], ∃ (s : State) (tm : Team), SaveAsks s tm ∧ tm.retiring = false ∧ tm.bast = false ∧ recPreempt (s.teamRecord tm) = true ∧ ctlImg s.inp.val = img ∧
    imgSize tm.pos.length (coresOf tm.pos).length tm.planes.length (s.teamTables s.inp.clus (ctlSlot s.inp.val)).length = 0x9000 ∧ (s.clus s.inp.clus).keyBits.getLsbD (ctlKey s.inp.val) = false :=
  fun img h => ⟨teamed1 aTeam true Ctx.reset id (ctl img), aTeam, ⟨writes_zero _ ⟨by simp [teamed1, with_, ctl], by fin_cases h <;> decide +kernel, rfl⟩, by fin_cases h <;> decide +kernel, by fin_cases h <;> rfl⟩, rfl, rfl, by fin_cases h <;> decide +kernel, by fin_cases h <;> decide +kernel, by fin_cases h <;> decide +kernel,
    by fin_cases h <;> decide +kernel⟩
/-- Core 0 has three redirect entries, or four. -/
theorem test_Saving_redirects : ∀ n ∈ [3, 4], ∃ (s : State) (tm : Team), SaveAsks s tm ∧ tm.retiring = false ∧ tm.bast = false ∧ recPreempt (s.teamRecord tm) = true ∧ ctlImg s.inp.val = 0x100000000 ∧ (s.clus s.inp.clus).keyBits.getLsbD (ctlKey s.inp.val) = true ∧ (s.core s.inp.clus 0).redirect.length = n ∧ coresOf tm.pos = [0] :=
  fun n h => ⟨(teamed1 aTeam true Ctx.reset (fun k => { k with keyBits := 1 }) (ctl 0x100000000)).modCore 0 0 (fun k => { k with redirect := List.range n }), aTeam, ⟨writes_zero _ ⟨by fin_cases h <;> decide +kernel, by fin_cases h <;> decide +kernel, by fin_cases h <;> rfl⟩, by fin_cases h <;> decide +kernel, by fin_cases h <;> rfl⟩, rfl, rfl,
    by fin_cases h <;> decide +kernel⟩
/-- What its context is doing when a SAVE is accepted. -/
theorem test_Saving_contexts : ∀ st ∈ [CtxSt.blocked .buffer, .blocked (.load (aLoad .plain)), .blocked (.query (.dead 9) 4), .ready], ∃ (s : State) (tm : Team) (p : Pos), SaveAsks s tm ∧ p ∈ tm.at s.inp.clus ∧ (s.ctx p).st = st ∧ (s.clus s.inp.clus).keyBits.getLsbD (ctlKey s.inp.val) = true ∧
    recPreempt (s.teamRecord tm) = true ∧ ctlImg s.inp.val = 0x100000000 ∧ (s.core s.inp.clus 0).redirect = [] :=
  fun st h => ⟨teamed1 aTeam true { Ctx.reset with st := st } (fun k => { k with keyBits := 1 }) (ctl 0x100000000), aTeam, ⟨0, 0, 0⟩, ⟨writes_zero _ ⟨by fin_cases h <;> decide +kernel, by fin_cases h <;> decide +kernel, by fin_cases h <;> rfl⟩, by fin_cases h <;> decide +kernel, by fin_cases h <;> rfl⟩, by fin_cases h <;> decide +kernel⟩
/-- A breakpoint is due at the halt boundary. -/
theorem test_Saving_breakpoint : ∃ (s : State) (tm : Team) (p : Pos) (l : List Byte), SaveAsks s tm ∧ p ∈ tm.at s.inp.clus ∧ (s.ctx p).st = .ready ∧ (s.ctx p).stop = false ∧ (s.ctx p).ptrap = none ∧ s.fetchInstr p = .bytes l ∧ (s.ctx p).bpMatch.isSome = true :=
  ⟨with_ { (breaking (fun c => { c with slot := some 7 })) with launches := [((0, 0), { aLaunch with rcd := preRec true })], teams := [((0, 7), aTeam)] } (ctl 0x100000000), aTeam, ⟨0, 0, 0⟩, [0, 0], ⟨writes_zero _ (by decide +kernel), by decide +kernel, rfl⟩, by decide +kernel, by decide +kernel, by decide +kernel, by decide +kernel,
   bytes_of (by decide +kernel), by decide +kernel⟩
/-- A SAVE runs; its context waits, or a command of it is in a plane array. -/
def saveRunning (run : Nat) (x : Ctx) : State := teamed1 aTeam true x (fun k => { k with keyBits := 1, pre := { run := run, slot := 7, img := 0x100000000, clkh := 5 } }) {}
theorem test_Saving_waits : ∀ run ∈ [1, 2], ∀ w ∈ [Wait.load (aLoad .plain), .query (.dead 9) 4], ∃ (s : State) (tm : Team) (p : Pos), (s.clus s.inp.clus).pre.run = run ∧ s.team? s.inp.clus (s.clus s.inp.clus).pre.slot = some tm ∧ p ∈ tm.at s.inp.clus ∧ (s.ctx p).st = .blocked w :=
  fun run h w g => ⟨saveRunning run { Ctx.reset with st := .blocked w, stop := true }, aTeam, ⟨0, 0, 0⟩, by fin_cases h <;> fin_cases g <;> decide +kernel⟩
theorem test_Saving_commands : ∃ (s : State) (tm : Team), (s.clus s.inp.clus).pre.run = 1 ∧ s.team? s.inp.clus (s.clus s.inp.clus).pre.slot = some tm ∧ ∃ e ∈ s.tiles, e.1.1 = s.inp.clus ∧ ∃ m ∈ e.2.cmds, (m.pos.core, m.pos.ctx) ∈ tm.pos :=
  ⟨(saveRunning 1 { Ctx.reset with st := .ready, stop := true }).modTile 0 0 (fun t => { t with cmds := [command (.zero []) .queued] }), aTeam, by decide +kernel, rfl, ((0, 0), _), List.mem_singleton.2 rfl, rfl, _, List.mem_singleton.2 rfl, by decide⟩
/-- A SAVE with nothing in flight: its context is halted at a boundary, awaits an answer, and has a capability pending. -/
theorem saveRuns_of (x : Ctx) (hl : x.last = false) (hst : x.st = .ready) (hu : x.unready = [] ∧ x.full = false) (hc : (saveRunning 2 x).teamTables 0 7 = []) (hv : recSv ((saveRunning 2 x).teamRecord aTeam) = false) : SaveRuns (saveRunning 2 x) 0 7 aTeam where
  clus := ⟨rfl, by decide⟩
  run := .inr rfl
  slotHere := ⟨rfl, by decide⟩
  team := rfl
  pos := by decide +kernel
  quiet := fun p hp => by
    obtain rfl : p = ⟨0, 0, 0⟩ := by simpa [aTeam, Team.at] using hp
    refine ⟨hl, fun w hw => ?_⟩
    rw [show ((saveRunning 2 x).ctx ⟨0, 0, 0⟩).st = x.st from rfl, hst] at hw
    cases hw
  known := fun p hp => by
    obtain rfl : p = ⟨0, 0, 0⟩ := by simpa [aTeam, Team.at] using hp
    exact hu
  cores := fun _ => ⟨rfl, rfl⟩
  planes := fun e he => by cases he
  image := by rw [hc]; exact (show 4294967296 % 4096 = 0 ∧ 4294967296 ≤ 4294967296 ∧ 4294967296 + imgSize aTeam.pos.length (coresOf aTeam.pos).length aTeam.planes.length 0 ≤ 0x1FF000000 by decide +kernel)
  held := (show (1#4096).getLsbD 0 = true by decide +kernel)
  clear := hv
  mem := (show memWf [] = true by decide +kernel)
theorem test_Saving_image : ∃ (s : State) (c slot : Nat) (tm : Team), SaveRuns s c slot tm := ⟨_, _, _, _, saveRuns_of { Ctx.reset with st := .ready, stop := true } rfl rfl ⟨rfl, rfl⟩ (by decide +kernel) (by decide +kernel)⟩
/-- A saved team of cluster 0 with one context, tag 63 outstanding, and m messages. -/
def saved1 (m : Nat) : Saved := ⟨7, 0x100000000, 0, false, 1, (0, 0), 0, [(0, 0)], [], [], [(0, 63, ⟨.busy .coll, 0, 7, 0, 9⟩)], [], [⟨0, 63, 9, 0, 0, none⟩], [], List.replicate m (0, 0), []⟩
def savedState (m : Nat) (f : Clus → Clus) (i : Inp) : State := with_ (State.reset.modClus 0 (fun k => f { k with keyBits := 1, saved := [saved1 m] })) i
theorem savedHere_of {s : State} {v : Saved} (h : 0 = s.inp.clus ∧ (s.clus 0).saved = [v] ∧ (v.img % 4096 = 0 ∧ 0x100000000 ≤ v.img ∧ v.img + imgSize v.positions.length (coresOf v.positions).length v.planes.length v.tables.length ≤ 0x1FF000000) ∧ (v.positions.Nodup ∧ ∀ p ∈ v.positions, p.1 < 128 ∧ p.2 < 4) ∧
    memWf s.mem = true) : SavedHere s 0 v := ⟨⟨h.1, by decide⟩, h.2.1, h.2.2.1, h.2.2.2.1, h.2.2.2.2⟩
/-- What can arrive for it: bytes that end with the core store, the last tag, LEASEST, the sixteenth message. -/
theorem test_Saving_redirect : ∀ x ∈ [Completion.landing 0 0x7FFF [1], .tag 0 63 0x50, .lease ⟨0, 0, 0⟩ 3, .message ⟨0, 0, 0⟩ (List.replicate 8 1)], ∃ (s : State) (v : Saved), SavedHere s 0 v ∧ s.inp.slot = v.slot ∧ s.inp.id = v.img ∧ (s.clus 0).keyBits.getLsbD v.key = true ∧ s.inp.load = .completion x ∧
    (coresOf v.positions)[0]? = some 0 ∧ v.owned.any (fun e => e.core = 0 && e.tag = 63) = true ∧ v.out = 1 ∧ (v.mail.filter (fun m => m.1 = 0)).length = 15 :=
  fun x h => ⟨savedState 15 id { slot := 7, id := 0x100000000, load := .completion x }, saved1 15, savedHere_of (by fin_cases h <;> decide +kernel), by fin_cases h <;> decide +kernel⟩
theorem test_Saving_no_entry : ∃ s : State, ∀ v ∈ (s.clus s.inp.clus).saved, v.slot ≠ s.inp.slot := ⟨savedState 0 id { slot := 8 }, by decide +kernel⟩

/-- A header with that low word and that slot stands at the image of the saved team, under key slot 0. -/
def headed (h0 slot : Nat) (s : State) : State := { s with mem := memPutList s.mem 0x100000000 (le 8 (0x4739494D * 2 ^ 32 + h0) ++ le 8 (slot * 2 ^ 48)), hbmKey := [(0x10000000, some (s.keyOf 0))] }
theorem test_Resuming_outside : ∀ img ∈ [0x100000000 - 0x1000, 0x1FF000000], ∃ s : State, Writes s ∧ (s.clus s.inp.clus).pre.run = 0 ∧ ctlImg s.inp.val = img :=
  fun img h => ⟨savedState 0 id (ctl img), writes_zero _ ⟨by simp [savedState, with_, ctl], by fin_cases h <;> decide +kernel, rfl⟩, by fin_cases h <;> decide +kernel, by fin_cases h <;> decide +kernel⟩
theorem test_Resuming_no_key : ∃ s : State, Writes s ∧ (s.clus s.inp.clus).pre.run = 0 ∧ ctlImg s.inp.val = 0x1FF000000 - 4096 ∧ (s.clus s.inp.clus).keyBits.getLsbD (ctlKey s.inp.val) = false := ⟨savedState 0 (fun k => { k with keyBits := 0 }) (ctl (0x1FF000000 - 4096)), writes_zero _ (by decide +kernel), by decide +kernel⟩
/-- The header's words: another version, a RESTORED team, another slot; a SAVED and a SETTLED one. -/
theorem test_Resuming_headers : ∀ x ∈ [(2 ^ 25 + 2, 7), (2 ^ 24 + 4, 7), (2 ^ 24 + 2, 6), (2 ^ 24 + 2, 7), (2 ^ 24 + 3, 7)], ∃ (s : State) (v : Saved), Writes s ∧ (s.clus s.inp.clus).pre.run = 0 ∧ SavedHere s 0 v ∧ v.slot = ctlSlot s.inp.val ∧ v.img = ctlImg s.inp.val ∧
    (s.clus s.inp.clus).keyBits.getLsbD (ctlKey s.inp.val) = true ∧ bytesDWord (s.bytesAt (mkPa s.pkg 0 (ctlImg s.inp.val)) (ctlKey s.inp.val) 8) = BitVec.ofNat 64 (0x4739494D * 2 ^ 32 + x.1) ∧
    bytesDWord (s.bytesAt (mkPa s.pkg 0 (ctlImg s.inp.val) + 8) (ctlKey s.inp.val) 8) = BitVec.ofNat 64 (x.2 * 2 ^ 48) :=
  fun x h => ⟨headed x.1 x.2 (savedState 0 id (ctl 0x100000000)), saved1 0, writes_zero _ ⟨by fin_cases h <;> decide +kernel, by fin_cases h <;> decide +kernel, by fin_cases h <;> rfl⟩, by fin_cases h <;> decide +kernel, savedHere_of (by fin_cases h <;> decide +kernel), by fin_cases h <;> decide +kernel⟩
theorem test_Resuming_no_saved : ∃ s : State, Writes s ∧ (s.clus s.inp.clus).pre.run = 0 ∧ (s.clus s.inp.clus).keyBits.getLsbD (ctlKey s.inp.val) = true ∧ ctlImg s.inp.val = 0x100000000 ∧ bytesDWord (s.bytesAt (mkPa s.pkg 0 (ctlImg s.inp.val)) (ctlKey s.inp.val) 8) = BitVec.ofNat 64 (0x4739494D * 2 ^ 32 + 2 ^ 24 + 2) ∧
    ∀ x ∈ (s.clus s.inp.clus).saved, x.slot = ctlSlot s.inp.val → x.img ≠ ctlImg s.inp.val :=
  ⟨headed (2 ^ 24 + 2) 7 (savedState 0 (fun k => { k with saved := [] }) (ctl 0x100000000)), writes_zero _ (by decide +kernel), by decide +kernel⟩
/-- A RESUME waits for its place: without the key, while a context holds the position, and with all it needs. -/
theorem test_Resuming_place : ∀ x ∈ [(false, true), (true, false), (true, true)], ∃ (s : State) (v : Saved), SavedHere s 0 v ∧ (s.clus 0).pre.run = 5 ∧ (s.clus 0).pre.slot = v.slot ∧ (s.clus 0).pre.img = v.img ∧ (s.clus 0).keyBits.getLsbD (s.clus 0).pre.key = x.1 ∧ s.resumeFits 0 v = x.2 ∧
    (s.clus 0).pre.key = v.key ∧ recSv (s.recordOf (lnchWord v.launch)) = false :=
  fun x h => ⟨(savedState 0 (fun k => { k with keyBits := if x.1 then 1 else 0, pre := { run := 5, slot := 7, img := 0x100000000 } }) {}).setCtx ⟨0, 0, 0⟩ { Ctx.reset with slot := if x.2 then none else some 3 }, saved1 0, savedHere_of (by fin_cases h <;> decide +kernel), by fin_cases h <;> decide +kernel⟩
/-- The debug window of cluster 0, at an address, DBG_CTL written; the cluster's pages, one of them in another function's cluster. -/
def debugging (a : Nat) (f : Clus → Clus) : State :=
  with_ (({ at_ 0 [] id with dead := 1 <<< 9, poison := [0x1004040 / 64] }.modClus 1 (fun k => { k with fn := 5 })).modClus 0 (fun k => f { k with tlb := ⟨0, .read, 0x20000, 0x1000, mkPa 0 1 0x1004000, 0, .normal, true, true, true, none⟩ ::
    ⟨0, .read, 0x21000, 0x1000, mkPa 8 0 0x1004000, 0, .normal, true, true, true, none⟩ :: ⟨0, .read, 0x22000, 0x1000, 0x1005000, 0, .sealed, true, true, true, none⟩ :: k.tlb })) { val := BitVec.ofNat 64 a }
def xlateOf : XRes → Option (Nat × TlbEntry)
  | .ok pa t => some (pa, t)
  | _ => none
def trapOf : XRes → Option Byte
  | .trap c => some c
  | _ => none
def missOf : XRes → Bool
  | .miss => true
  | _ => false
theorem xlate_of {x : XRes} {y : Nat × TlbEntry} (h : xlateOf x = some y) : x = .ok y.1 y.2 := by cases x <;> simp_all [xlateOf]; rw [← h]; exact ⟨rfl, rfl⟩
theorem trap_of {x : XRes} {c : Byte} (h : trapOf x = some c) : x = .trap c := by cases x <;> simp_all [trapOf]
theorem miss_of {x : XRes} (h : missOf x = true) : x = .miss := by cases x <;> simp_all [missOf]
/-- A debug command that runs. -/
structure DebugAsks (s : State) (write : Bool) : Prop where
  runs : DebugRuns s write 0 s.inp.val
  idle : (s.clus s.inp.clus).pre.run ≠ 1 ∧ (s.clus s.inp.clus).pre.run ≠ 2 ∧ ∀ x ∈ (s.clus s.inp.clus).xfails, x.1 ≠ .quiet (.dbg s.inp.clus)
/-- How the address of a debug command translates. -/
def dbgAt (s : State) (sp : Space) (acc : AccKind) : XRes := s.translate s.inp.clus (.quiet (.dbg s.inp.clus)) (s.inp.val.extractLsb' 48 4).toNat sp (s.inp.val &&& 0xFFFFFFFFFFFF#64) acc
theorem asks_of (s : State) (w : Bool) (h : s.inp.flag = false ∧ (s.inp.clus < 128 ∧ s.inp.fn ∉ s.resetting ∧ s.inp.fn = 0) ∧ (s.clus s.inp.clus).dbg.busy = false) (g : (s.clus s.inp.clus).pre.run ≠ 1 ∧ (s.clus s.inp.clus).pre.run ≠ 2 ∧ ∀ x ∈ (s.clus s.inp.clus).xfails, x.1 ≠ .quiet (.dbg s.inp.clus)) :
    DebugAsks s w := ⟨.inl ⟨h.1, writes_zero s h.2.1, h.2.2, h.2.1.2.2.symm, rfl⟩, g⟩
theorem test_Resuming_debug_align : ∃ s : State, DebugAsks s false ∧ (s.inp.val &&& 0xFFFFFFFFFFFF#64).toNat % 8 ≠ 0 := ⟨debugging 0x12004 id, asks_of _ _ (by decide +kernel) (by decide +kernel), by decide +kernel⟩
theorem test_Resuming_debug_trap : ∃ s : State, DebugAsks s true ∧ (s.inp.val &&& 0xFFFFFFFFFFFF#64).toNat % 8 = 0 ∧ dbgAt s .home .store = .trap 0x11 := ⟨debugging (2 ^ 36) id, asks_of _ _ (by decide +kernel) (by decide +kernel), by decide +kernel, trap_of (by decide +kernel)⟩
theorem test_Resuming_debug_miss : ∃ s : State, DebugAsks s false ∧ (s.inp.val &&& 0xFFFFFFFFFFFF#64).toNat % 8 = 0 ∧ dbgAt s .read .load = .miss := ⟨debugging 0x700000 id, asks_of _ _ (by decide +kernel) (by decide +kernel), by decide +kernel, miss_of (by decide +kernel)⟩
/-- Reads of a SEALED page, of a dead package, of another package, of a cluster of another function, of a poisoned line and of a good one. -/
theorem test_Resuming_debug_read : ∀ x ∈ [(0x22000, PageType.sealed, 0, false, false), (0x16000, .normal, 9, false, false), (0x21000, .normal, 8, false, false), (0x20000, .normal, 0, true, false), (0x12040, .normal, 0, false, true), (0x12FF8, .normal, 0, false, false)], ∃ (s : State) (pa : Nat) (e : TlbEntry), DebugAsks s false ∧
    (s.inp.val &&& 0xFFFFFFFFFFFF#64).toNat % 8 = 0 ∧ dbgAt s .read .load = .ok pa e ∧ e.type = x.2.1 ∧ paPkg pa = x.2.2.1 ∧ s.dead.getLsbD (paPkg pa) = (x.2.2.1 == 9) ∧ s.ownerRefuses (s.clus s.inp.clus).fn pa = x.2.2.2.1 ∧ s.poison.contains (pa / 64) = x.2.2.2.2 ∧
    (∀ o ∈ s.outReads, o.who ≠ .dbg s.inp.clus) ∧ s.bastings = [] := by
  intro x h
  fin_cases h
  · exact ⟨debugging 0x22000 id, 0x1005000, _, asks_of _ _ (by decide +kernel) (by decide +kernel), by decide +kernel, xlate_of (y := (0x1005000, ⟨0, .read, 0x22000, 0x1000, 0x1005000, 0, .sealed, true, true, true, none⟩)) (by decide +kernel), by decide +kernel⟩
  · exact ⟨debugging 0x16000 id, mkPa 9 0 0x1004000, _, asks_of _ _ (by decide +kernel) (by decide +kernel), by decide +kernel, xlate_of (y := (mkPa 9 0 0x1004000, ⟨0, .read, 0x16000, 0x1000, mkPa 9 0 0x1004000, 0, .normal, true, true, true, none⟩)) (by decide +kernel), by decide +kernel⟩
  · exact ⟨debugging 0x21000 id, mkPa 8 0 0x1004000, _, asks_of _ _ (by decide +kernel) (by decide +kernel), by decide +kernel, xlate_of (y := (mkPa 8 0 0x1004000, ⟨0, .read, 0x21000, 0x1000, mkPa 8 0 0x1004000, 0, .normal, true, true, true, none⟩)) (by decide +kernel), by decide +kernel⟩
  · exact ⟨debugging 0x20000 id, mkPa 0 1 0x1004000, _, asks_of _ _ (by decide +kernel) (by decide +kernel), by decide +kernel, xlate_of (y := (mkPa 0 1 0x1004000, ⟨0, .read, 0x20000, 0x1000, mkPa 0 1 0x1004000, 0, .normal, true, true, true, none⟩)) (by decide +kernel), by decide +kernel⟩
  · exact ⟨debugging 0x12040 id, 0x1004040, _, asks_of _ _ (by decide +kernel) (by decide +kernel), by decide +kernel, xlate_of (y := (0x1004040, ⟨0, .read, 0x12000, 0x1000, 0x1004000, 0, .normal, true, true, true, none⟩)) (by decide +kernel), by decide +kernel⟩
  · exact ⟨debugging 0x12FF8 id, 0x1004FF8, _, asks_of _ _ (by decide +kernel) (by decide +kernel), by decide +kernel, xlate_of (y := (0x1004FF8, ⟨0, .read, 0x12000, 0x1000, 0x1004000, 0, .normal, true, true, true, none⟩)) (by decide +kernel), by decide +kernel⟩
theorem test_Resuming_debug_write : ∃ (s : State) (pa : Nat) (e : TlbEntry), DebugAsks s true ∧ dbgAt s .home .store = .ok pa e ∧ e.type = .normal ∧ s.dead.getLsbD (paPkg pa) = false ∧ pa % 8 = 0 ∧ memWf s.mem = true :=
  ⟨debugging 0x10FF8 id, 0x1004FF8, page0, asks_of _ _ (by decide +kernel) (by decide +kernel), xlate_of (y := (0x1004FF8, page0)) (by decide +kernel), by decide +kernel⟩
/-- A write of a DEVICE page by function 5, which owns the cluster. -/
theorem test_Resuming_debug_device : ∃ (s : State) (fn pa : Nat) (e : TlbEntry), DebugRuns s true fn s.inp.val ∧ fn ≠ 0 ∧ dbgAt s .home .store = .ok pa e ∧ e.type = .device :=
  ⟨with_ { debugging 0 (fun k => { k with fn := 5 }) with sriov := true } { fn := 5, val := 0x14000 }, 5, 0x800000000, ⟨0, .home, 0x14000, 0x1000, 0x800000000, 0, .device, true, true, true, none⟩,
   .inl ⟨rfl, ⟨by decide +kernel, by decide +kernel, .inr (by decide +kernel)⟩, by decide +kernel, rfl, rfl⟩, by decide, xlate_of (y := (0x800000000, ⟨0, .home, 0x14000, 0x1000, 0x800000000, 0, .device, true, true, true, none⟩)) (by decide +kernel), rfl⟩
theorem test_Resuming_debug_later : ∃ s : State, DebugRuns s true 0 5 ∧ s.inp.flag = true := ⟨with_ (debugging 0 (fun k => { k with dbg := { cmd := some (true, 0, 5), busy := true } })) { flag := true }, .inr ⟨rfl, by decide +kernel⟩, rfl⟩
theorem test_Resuming_debug_held : ∀ run ∈ [1, 2], ∃ s : State, DebugRuns s false 0 s.inp.val ∧ (s.clus s.inp.clus).pre.run = run :=
  fun run h => ⟨debugging 0 (fun k => { k with pre := { run := run } }), .inl ⟨rfl, writes_zero _ ⟨by fin_cases h <;> decide +kernel, by fin_cases h <;> decide +kernel, rfl⟩, by fin_cases h <;> decide +kernel, rfl, rfl⟩, by fin_cases h <;> decide +kernel⟩
theorem test_Resuming_debug_ignored : ∃ s t : State, (s.inp.flag = false ∧ (s.clus s.inp.clus).dbg.busy = true) ∧ (t.inp.flag = true ∧ (t.clus t.inp.clus).dbg.cmd = none) := ⟨debugging 0 (fun k => { k with dbg := { busy := true } }), with_ State.reset { flag := true }, by decide +kernel⟩

/-! ### Witnesses: retirement, resets, errors, snapshots -/

/-- Slot 7 of cluster 0 holds a team whose context is halted. -/
def halting (tm : Team) (zcore : Bool) (x : Ctx) : State :=
  with_ { teamed1 tm false { x with st := .halted } id {} with launches := [((0, 0), { aLaunch with rcd := le 8 (2 ^ 56 + zcore.toNat * 2 ^ 42) ++ (goodRec 0 0).drop 8 })] } { slot := 7 }
theorem halted_of (tm : Team) (z : Bool) (x : Ctx) (h : tm.pos = [(0, 0)]) : Halted (halting tm z x) 0 7 tm where
  clus := ⟨rfl, rfl, by decide⟩
  team := rfl
  halted := fun p hp => by
    obtain rfl : p = ⟨0, 0, 0⟩ := by simpa [h, Team.at] using hp
    rfl
  pos := by rw [h]; decide
  cores := fun _ => ⟨rfl, rfl⟩
  mem := (show memWf [] = true by decide +kernel)
theorem test_RetirementAndReset_ignored : ∃ s t : State, (∃ tm, s.team? s.inp.clus s.inp.slot = some tm ∧ tm.retiring = true) ∧ ∃ tm, t.team? t.inp.clus t.inp.slot = some tm ∧ tm.retiring = false :=
  ⟨halting { aTeam with retiring := true } false Ctx.reset, halting aTeam false Ctx.reset, ⟨_, rfl, rfl⟩, ⟨_, rfl, rfl⟩⟩
theorem test_RetirementAndReset_retire : ∃ (s : State) (c slot : Nat) (tm : Team), Halted s c slot tm ∧ tm.retiring = false ∧ s.fabric.leases = [] ∧ (∀ p ∈ tm.at c, ∀ k, k < 4 → (s.ctx p).stream k = none) :=
  ⟨halting aTeam false Ctx.reset, 0, 7, aTeam, halted_of _ _ _ rfl, rfl, rfl, by decide +kernel⟩
/-- An answer is awaited, or nothing; with ZCORE and without. -/
theorem test_RetirementAndReset_busy : ∃ (s : State) (c slot : Nat) (tm : Team), Halted s c slot tm ∧ tm.retiring = true ∧ ∃ p ∈ tm.at c, (s.ctx p).ans.isSome = true :=
  ⟨halting { aTeam with retiring := true } false { Ctx.reset with ans := some (.send, 0) }, 0, 7, { aTeam with retiring := true }, halted_of _ _ _ rfl, rfl, ⟨0, 0, 0⟩, by decide +kernel, rfl⟩
theorem test_RetirementAndReset_done : ∀ z ∈ [true, false], ∃ (s : State) (c slot : Nat) (tm : Team), Halted s c slot tm ∧ tm.retiring = true ∧ ¬ ((∃ n ∈ tm.pos.map (·.1), ∃ k, k < 64 ∧ ((s.core c n).tag k).team = slot ∧ ((s.core c n).tag k).st.isBusy = true) ∨
    ∃ p ∈ tm.at c, (s.ctx p).ans.isSome = true ∨ (s.ctx p).enqts ≠ []) ∧ recZcore (s.teamRecord tm) = z :=
  fun z h => ⟨halting { aTeam with retiring := true } z Ctx.reset, 0, 7, { aTeam with retiring := true }, halted_of _ _ _ rfl, rfl, by fin_cases h <;> decide +kernel, by fin_cases h <;> decide +kernel⟩
theorem test_RetirementAndReset_reset : ∀ fn ∈ [1, 16], ∃ s : State, s.inp.fn = fn ∧ s.inp.fn ≠ 0 ∧ s.inp.flag = false ∧ s.inp.fn ≤ 16 ∧ s.sriov = true ∧ s.inp.fn ∉ s.resetting ∧ memWf s.mem = true ∧ s.teams = [] ∧ s.clusters = [] ∧ s.bastings = [] :=
  fun fn h => ⟨with_ { State.reset with sriov := true } { fn := fn }, by fin_cases h <;> decide +kernel⟩
theorem test_RetirementAndReset_no_function : ∃ s : State, s.inp.fn ≠ 0 ∧ s.inp.flag = false ∧ 16 < s.inp.fn := ⟨with_ State.reset { fn := 17 }, by decide +kernel⟩
theorem test_RetirementAndReset_report : ∀ l ∈ [[5], []], ∃ s : State, s.inp.flag = true ∧ s.resetting = l ∧ (s.inp.fn ∈ s.resetting ↔ l = [5]) := fun l h => ⟨with_ { State.reset with resetting := l } { fn := 5, flag := true }, rfl, rfl, by fin_cases h <;> decide +kernel⟩
theorem test_RetirementAndReset_conventional : ∃ s : State, s.inp.fn = 0 ∧ s.inp.flag = false ∧ s.sriov = true := ⟨with_ { State.reset with sriov := true } {}, rfl, rfl, rfl⟩
theorem test_ErrorsAndSnapshots_counts : ∀ n ∈ [4, 5], ∃ s : State, s.inp.n = n ∧ ((s.tel s.inp.n).extractLsb' 48 16).toNat = 0xFFFF := fun n h => ⟨with_ { State.reset with telemetry := [(n, 0xFFFF000000000000)] } { n := n }, by fin_cases h <;> decide +kernel⟩
theorem test_ErrorsAndSnapshots_values : ∀ n ∈ [12, 13], ∀ v ∈ [1999, 2000], ∃ s : State, s.inp.n = n ∧ (s.inp.val.extractLsb' 24 24).toNat = v := fun n h v g => ⟨with_ State.reset { n := n, val := BitVec.ofNat 64 (v * 2 ^ 24) }, by fin_cases h <;> fin_cases g <;> decide +kernel⟩
/-- The last line of the core stores, the first past them, the first of the vault and the last of HBM. -/
theorem test_ErrorsAndSnapshots_lines : ∀ x ∈ [(0x3FFFC0 / 64, true), (0x400000 / 64, false), (0x1000000 / 64, true), (0x1FFFFFFC0 / 64, true), (0x200000000 / 64, false)], ∃ s : State, s.inp.n = x.1 ∧ s.inp.flag = true ∧ (isMemory s (64 * s.inp.n) ↔ x.2 = true) :=
  fun x h => ⟨with_ State.reset { n := x.1, flag := true }, rfl, rfl, by unfold isMemory; fin_cases h <;> decide +kernel⟩
/-- A parity error in context 0's registers, of the team of launch (0, 0). -/
theorem test_ErrorsAndSnapshots_registers : ∃ (s : State) (p : Pos) (slot : Nat) (tm : Team) (l : Launch), s.inp.load = .parity (.regs p) ∧ (s.ctx p).slot = some slot ∧ s.team? p.clus slot = some tm ∧ tm.bast = false ∧ s.launches.find? (fun e => e.1 = tm.launch) = some (tm.launch, l) ∧
    (s.queue tm.launch.1).st = .active ∧ Assoc.has tm.launch.1 s.bastings = false :=
  ⟨with_ { teamed1 aTeam false Ctx.reset id {} with queues := [(0, { st := .active })] } { load := .parity (.regs ⟨0, 0, 0⟩) }, ⟨0, 0, 0⟩, 7, aTeam, { aLaunch with rcd := preRec false }, rfl, rfl, rfl, rfl, rfl, rfl, rfl⟩
theorem test_ErrorsAndSnapshots_no_team : ∃ (s : State) (p : Pos), s.inp.load = .parity (.regs p) ∧ (s.ctx p).slot = none := ⟨with_ State.reset { load := .parity (.regs ⟨0, 0, 0⟩) }, ⟨0, 0, 0⟩, rfl, rfl⟩
theorem test_ErrorsAndSnapshots_entries : ∃ (s t : State) (w : WatchEntry), (s.inp.load = .parity (.tlb 0 0) ∧ (s.clus 0).tlb ≠ []) ∧ (t.inp.load = .parity (.watch 0 0) ∧ (t.clus 0).watches[0]? = some w ∧ w.opkg = t.pkg) :=
  ⟨with_ (at_ 0 [] id) { load := .parity (.tlb 0 0) }, with_ (State.reset.modClus 0 (fun k => { k with watches := [aWatch] })) { load := .parity (.watch 0 0) }, aWatch, ⟨rfl, by decide +kernel⟩, rfl, rfl, rfl⟩
/-- The snapshot window of function 5, which owns cluster 3. -/
def snapping (w : Snap) (i : Inp) : State := with_ { fronted {} with snaps := [(5, w)], sriov := true } { i with fn := 5 }
/-- The smallest range, the largest, one page too many, and one that leaves the HBM. -/
def wide (src len : Nat) : Snap := { quiet := true, src := BitVec.ofNat 64 (mkPa 0 3 src), len := BitVec.ofNat 64 len }
theorem test_ErrorsAndSnapshots_ranges : ∀ x ∈ [(0x100000000, 0x1000, true), (0x1FEFFF000, 0x1000, true), (0x1FEFFF000, 0x2000, false), (0x100000000, 0, false)], ∃ s : State, (s.snap s.inp.fn).busy = false ∧ (s.snap s.inp.fn).quiet = true ∧ s.inp.fn ∉ s.resetting ∧ s.inp.fn ≤ 16 ∧ s.sriov = true ∧
    (let w := s.snap s.inp.fn
     (w.src.toNat % 4096 = 0 ∧ w.len.toNat % 4096 = 0 ∧ 4096 ≤ w.len.toNat ∧ w.len.toNat ≤ 2 ^ 32 ∧ paPkg w.src.toNat = s.pkg ∧ (s.clus (paClus w.src.toNat)).fn = s.inp.fn ∧ 0x100000000 ≤ paOfs w.src.toNat ∧ paOfs w.src.toNat + w.len.toNat ≤ 0x1FF000000) ↔ x.2.2 = true) :=
  fun x h => ⟨snapping (wide x.1 x.2.1) {}, by fin_cases h <;> decide +kernel⟩
theorem test_ErrorsAndSnapshots_commands : ∀ w ∈ [({ busy := true } : Snap), {}, { quiet := true }], ∃ s : State, s.snap s.inp.fn = w ∧ s.inp.fn ∉ s.resetting ∧ s.inp.fn ≤ 16 ∧ s.sriov = true ∧ s.bastings = [] := fun w h => ⟨snapping w {}, by fin_cases h <;> decide +kernel⟩
theorem test_ErrorsAndSnapshots_not_quiet : ∃ s : State, (s.snap s.inp.fn).quiescing = true ∧ ∃ e ∈ s.teams, (s.clus e.1.1).fn = s.inp.fn := ⟨{ snapping { quiescing := true } {} with teams := [((3, 7), aTeam)] }, by decide +kernel⟩
def quietOk : QuietRes → Option (Nat × TlbEntry)
  | .ok pa e => some (pa, e)
  | _ => none
def quietWait : QuietRes → Option State
  | .wait u => some u
  | _ => none
theorem quietOk_of {x : QuietRes} {y : Nat × TlbEntry} (h : quietOk x = some y) : x = .ok y.1 y.2 := by cases x <;> simp_all [quietOk]; rw [← h]; exact ⟨rfl, rfl⟩
theorem quietWait_of {x : QuietRes} (h : (quietWait x).isSome = true) : ∃ u, x = .wait u := by cases x <;> simp_all [quietWait]
/-- The milestone of another function's cluster; one that is translated; one that is not yet. -/
theorem test_ErrorsAndSnapshots_passed : ∃ s : State, (s.snap s.inp.fn).quiescing = true ∧ (∀ e ∈ s.teams, (s.clus e.1.1).fn ≠ s.inp.fn) ∧ (∀ e ∈ s.clusters, e.2.fn = s.inp.fn → ∀ v ∈ e.2.saved, v.out = 0) ∧ (s.clus (snapClus s s.inp.fn)).fn ≠ s.inp.fn := ⟨snapping { quiescing := true } {}, by decide +kernel⟩
def snapAt (a : Nat) : Snap := { quiescing := true, ms := BitVec.ofNat 64 (3 * 2 ^ 56 + a) }
theorem test_ErrorsAndSnapshots_milestone : ∃ (s : State) (pa : Nat) (e : TlbEntry), (s.snap s.inp.fn).quiescing = true ∧ s.teams = [] ∧ (∀ e ∈ s.clusters, e.2.fn = s.inp.fn → ∀ v ∈ e.2.saved, v.out = 0) ∧ (s.clus (snapClus s s.inp.fn)).fn = s.inp.fn ∧ snapTranslate s s.inp.fn = .ok pa e ∧ e.type ∈ [PageType.normal, .swm] ∧
    memWf s.mem = true ∧ pa % 8 = 0 ∧ bytesDWord (s.bytesAt pa e.key 8) ≠ BitVec.allOnes 64 ∧ s.poison.contains (pa / 64) = false :=
  ⟨snapping (snapAt 0x10FF8) {}, mkPa 0 3 0x1004FF8, page3, by decide +kernel, by decide +kernel, by decide +kernel, by decide +kernel, quietOk_of (y := (mkPa 0 3 0x1004FF8, page3)) (by decide +kernel), by decide +kernel⟩
theorem test_ErrorsAndSnapshots_walk : ∃ s u : State, (s.snap s.inp.fn).quiescing = true ∧ s.teams = [] ∧ (s.clus (snapClus s s.inp.fn)).fn = s.inp.fn ∧ snapTranslate s s.inp.fn = .wait u := by
  obtain ⟨u, h⟩ := quietWait_of (x := snapTranslate (snapping (snapAt 0x20000) {}) 5) (by decide +kernel)
  exact ⟨snapping (snapAt 0x20000) {}, u, by decide +kernel, by decide +kernel, by decide +kernel, h⟩
/-- A COPY or RESTORE of one page of cluster 3's HBM runs; its milestone is of another function's cluster. -/
def moving (cmd : Nat) (late : Bool) : Snap := { busy := true, cmd := cmd, late := late, srcAt := BitVec.ofNat 64 (mkPa 0 3 0x100000000), lenAt := 4096 }
theorem test_ErrorsAndSnapshots_copy : ∀ late ∈ [true, false], ∀ flag ∈ [true, false], ∃ s : State, (s.snap s.inp.fn).busy = true ∧ (s.snap s.inp.fn).cmd = 2 ∧ (s.snap s.inp.fn).late = late ∧ s.inp.flag = flag ∧ s.poison = [] ∧ SnapReady s s.inp.fn ∧ (s.snap s.inp.fn).lenAt.toNat / 64 = 64 :=
  fun late h flag g => ⟨snapping (moving 2 late) { flag := flag }, by fin_cases h <;> rfl, by fin_cases h <;> rfl, by fin_cases h <;> rfl, rfl, rfl, .inl (by fin_cases h <;> fin_cases g <;> decide +kernel), by fin_cases h <;> fin_cases g <;> decide +kernel⟩
theorem test_ErrorsAndSnapshots_copy_poison : ∃ s : State, (s.snap s.inp.fn).busy = true ∧ (s.snap s.inp.fn).cmd = 2 ∧ (s.snap s.inp.fn).late = false ∧ s.inp.flag = false ∧ ∃ k, k < (s.snap s.inp.fn).lenAt.toNat / 64 ∧ s.poison.contains ((s.snap s.inp.fn).srcAt.toNat / 64 + k) = true :=
  ⟨{ snapping (moving 2 false) {} with poison := [mkPa 0 3 0x100000FC0 / 64] }, by decide +kernel, by decide +kernel, by decide +kernel, rfl, 63, by decide +kernel, by decide +kernel⟩
theorem test_ErrorsAndSnapshots_restore : ∃ (s : State) (l : List (List Byte)), (s.snap s.inp.fn).busy = true ∧ (s.snap s.inp.fn).cmd = 3 ∧ (s.snap s.inp.fn).late = false ∧ s.inp.flag = false ∧ s.inp.load = .lines l ∧ l.length = (s.snap s.inp.fn).lenAt.toNat / 64 ∧ memWf s.mem = true ∧ (s.clus (snapClus s s.inp.fn)).fn ≠ s.inp.fn ∧
    paPkg (64 * ((s.snap s.inp.fn).srcAt.toNat / 64)) = s.pkg ∧ (s.clus (paClus (64 * ((s.snap s.inp.fn).srcAt.toNat / 64)))).fn = s.inp.fn ∧ paRegion (64 * ((s.snap s.inp.fn).srcAt.toNat / 64)) = .hbm :=
  ⟨snapping (moving 3 false) { load := .lines (List.replicate 64 (le 64 0)) }, List.replicate 64 (le 64 0), by decide +kernel, by decide +kernel, by decide +kernel, rfl, rfl, by decide +kernel, by decide +kernel, by decide +kernel, by decide +kernel, by decide +kernel, by decide +kernel⟩

end Sys2Proof.Tests
end

namespace Sys2Proof

/-! SUPPORT. Exactness of the decoder (R8, R146, R150 to R152): a word is the join of its fields, a code is read back only from itself, and so
every word that a family of the opcode map accepts is the encoding of the instruction it yields. -/

-- One proof at a time: proofs side by side each wait for the equations of encode, and their stacks fill the memory that the check allows.
set_option Elab.async false

/-! ### Words and fields from their parts -/

theorem extractLsb'_append_adjacent {n : Nat} (x : BitVec n) (i j k : Nat) :
    x.extractLsb' (k + j) i ++ x.extractLsb' k j = x.extractLsb' k (i + j) := by
  rw [BitVec.extractLsb'_append_extractLsb'_eq_extractLsb' rfl]

theorem eq_append_iff {m n : Nat} (x : BitVec (m + n)) (a : BitVec m) (b : BitVec n) :
    x = a ++ b ↔ x.extractLsb' n m = a ∧ x.extractLsb' 0 n = b := by
  constructor
  · rintro rfl
    exact ⟨append_high a b, append_low a b⟩
  · rintro ⟨rfl, rfl⟩
    have h := extractLsb'_append_adjacent x m n 0
    rw [Nat.zero_add, BitVec.extractLsb'_eq_self] at h
    exact h.symm

theorem append_eq_iff {m n : Nat} (a : BitVec m) (b : BitVec n) (x : BitVec (m + n)) :
    a ++ b = x ↔ a = x.extractLsb' n m ∧ b = x.extractLsb' 0 n := by
  rw [eq_comm, eq_append_iff, eq_comm, eq_comm (a := b)]

/-- The parts of the immediate of the shifts (R174) and of BFX and BFI (R175). -/
theorem imm12_eq_iff (x : BitVec 12) (a : BitVec 2) (b c : BitVec 5) :
    x = a ++ b ++ c ↔ (x.extractLsb' 10 2).toNat = a.toNat ∧ x.extractLsb' 5 5 = b ∧ x.extractLsb' 0 5 = c := by
  constructor
  · rintro rfl
    exact ⟨congrArg BitVec.toNat (append_top a b c), append_mid a b c, append_end a b c⟩
  · rintro ⟨ha, rfl, rfl⟩
    rw [← BitVec.eq_of_toNat_eq ha, extractLsb'_append_adjacent x 2 5 5, extractLsb'_append_adjacent x 7 5 0]
    exact BitVec.extractLsb'_eq_self.symm

/-- The length bit of R141 as the last part of a word or a halfword. -/
theorem eq_lengthBit {n : Nat} {x : BitVec n} (b : BitVec 1) (h : x.getLsbD 0 = b.getLsbD 0) : b = x.extractLsb' 0 1 := by
  apply BitVec.eq_of_getLsbD_eq
  intro j hj
  obtain rfl : j = 0 := by omega
  rw [BitVec.getLsbD_extractLsb', ← h, decide_eq_true hj, Bool.true_and, Nat.zero_add]

theorem encR_fields {w : BitVec 32} (hl : w.getLsbD 0 = true) :
    encR (fSrc2 w) (fSrc1 w) (fDst w) (fWidth w) (fFn w) (fMajor w) = w := by
  rw [encR, fSrc2, fSrc1, fDst, fWidth, fFn, fMajor, eq_lengthBit 1#1 hl, extractLsb'_append_adjacent w 6 6 20,
    extractLsb'_append_adjacent w 12 6 14, extractLsb'_append_adjacent w 18 2 12, extractLsb'_append_adjacent w 20 4 8,
    extractLsb'_append_adjacent w 24 7 1, extractLsb'_append_adjacent w 31 1 0]
  exact BitVec.extractLsb'_eq_self

theorem encI_fields {w : BitVec 32} (hl : w.getLsbD 0 = true) : encI (fImm w) (fISrc w) (fIDst w) (fMajor w) = w := by
  rw [encI, fImm, fISrc, fIDst, fMajor, eq_lengthBit 1#1 hl, extractLsb'_append_adjacent w 12 6 14,
    extractLsb'_append_adjacent w 18 6 8, extractLsb'_append_adjacent w 24 7 1, extractLsb'_append_adjacent w 31 1 0]
  exact BitVec.extractLsb'_eq_self

theorem enc18_fields {w : BitVec 32} (hl : w.getLsbD 0 = true) : enc18 (fImm18 w) (fIDst w) (fMajor w) = w := by
  rw [enc18, fImm18, fIDst, fMajor, eq_lengthBit 1#1 hl, extractLsb'_append_adjacent w 18 6 8,
    extractLsb'_append_adjacent w 24 7 1, extractLsb'_append_adjacent w 31 1 0]
  exact BitVec.extractLsb'_eq_self

theorem encCount_fields {w : BitVec 32} (hl : w.getLsbD 0 = true) : encCount (fImm w) (fCount w) (fMajor w) = w := by
  rw [encCount, fImm, fCount, fMajor, eq_lengthBit 1#1 hl, extractLsb'_append_adjacent w 12 12 8,
    extractLsb'_append_adjacent w 24 7 1, extractLsb'_append_adjacent w 31 1 0]
  exact BitVec.extractLsb'_eq_self

theorem encJ_fields {w : BitVec 32} (hl : w.getLsbD 0 = true) : encJ (fOff24 w) (fMajor w) = w := by
  rw [encJ, fOff24, fMajor, eq_lengthBit 1#1 hl, extractLsb'_append_adjacent w 24 7 1, extractLsb'_append_adjacent w 31 1 0]
  exact BitVec.extractLsb'_eq_self

theorem encV_fields {w : BitVec 32} (hl : w.getLsbD 0 = true) :
    encV (fVb w) (fVa w) (fVd w) (fMk w) (fTy w) (fRf w) (fFn w) (fMajor w) = w := by
  rw [encV, fVb, fVa, fVd, fMk, fTy, fRf, fFn, fMajor, eq_lengthBit 1#1 hl, extractLsb'_append_adjacent w 3 3 26,
    extractLsb'_append_adjacent w 6 3 23, extractLsb'_append_adjacent w 9 3 20, extractLsb'_append_adjacent w 12 4 16,
    extractLsb'_append_adjacent w 16 4 12, extractLsb'_append_adjacent w 20 4 8, extractLsb'_append_adjacent w 24 7 1,
    extractLsb'_append_adjacent w 31 1 0]
  exact BitVec.extractLsb'_eq_self

theorem encVw_fields {w : BitVec 32} (hl : w.getLsbD 0 = true) :
    encVw (fSrc2 w) (fVd w) (fMk w) (fTy w) (fRf w) (fFn w) (fMajor w) = w := by
  rw [encVw, fSrc2, fVd, fMk, fTy, fRf, fFn, fMajor, eq_lengthBit 1#1 hl, extractLsb'_append_adjacent w 6 3 23,
    extractLsb'_append_adjacent w 9 3 20, extractLsb'_append_adjacent w 12 4 16, extractLsb'_append_adjacent w 16 4 12,
    extractLsb'_append_adjacent w 20 4 8, extractLsb'_append_adjacent w 24 7 1, extractLsb'_append_adjacent w 31 1 0]
  exact BitVec.extractLsb'_eq_self

theorem enc16_fields {h : BitVec 16} (hl : h.getLsbD 0 = false) :
    enc16 (h.extractLsb' 11 5) (h.extractLsb' 5 6) (h.extractLsb' 1 4) = h := by
  rw [enc16, eq_lengthBit 0#1 hl, extractLsb'_append_adjacent h 5 6 5, extractLsb'_append_adjacent h 11 4 1, extractLsb'_append_adjacent h 15 1 0]
  exact BitVec.extractLsb'_eq_self

/-! ### A word is a format's word when its fields are

The function code and the major are compared as numbers, as the opcode map reads them. -/

theorem encR_eq_iff {w : BitVec 32} (hl : w.getLsbD 0 = true) (b a d : BitVec 6) (k : BitVec 2) (f : BitVec 4) (m : BitVec 7) :
    encR b a d k f m = w ↔ fSrc2 w = b ∧ fSrc1 w = a ∧ fDst w = d ∧ fWidth w = k ∧ (fFn w).toNat = f.toNat ∧ (fMajor w).toNat = m.toNat := by
  constructor
  · rintro rfl
    simp
  · rintro ⟨rfl, rfl, rfl, rfl, hf, hm⟩
    rw [← BitVec.eq_of_toNat_eq hf, ← BitVec.eq_of_toNat_eq hm, encR_fields hl]

theorem encX_eq_iff {w : BitVec 32} (hl : w.getLsbD 0 = true) (a b t : BitVec 6) (f : BitVec 4) (m : BitVec 7) :
    encX a b t f m = w ↔ fSrc2 w = a ∧ fSrc1 w = b ∧ fDst w = t ∧ fWidth w = 0 ∧ (fFn w).toNat = f.toNat ∧ (fMajor w).toNat = m.toNat :=
  encR_eq_iff hl a b t 0 f m

theorem encI_eq_iff {w : BitVec 32} (hl : w.getLsbD 0 = true) (i : BitVec 12) (a d : BitVec 6) (m : BitVec 7) :
    encI i a d m = w ↔ fImm w = i ∧ fISrc w = a ∧ fIDst w = d ∧ (fMajor w).toNat = m.toNat := by
  constructor
  · rintro rfl
    simp
  · rintro ⟨rfl, rfl, rfl, hm⟩
    rw [← BitVec.eq_of_toNat_eq hm, encI_fields hl]

theorem enc18_eq_iff {w : BitVec 32} (hl : w.getLsbD 0 = true) (i : BitVec 18) (d : BitVec 6) (m : BitVec 7) :
    enc18 i d m = w ↔ fImm18 w = i ∧ fIDst w = d ∧ (fMajor w).toNat = m.toNat := by
  constructor
  · rintro rfl
    simp
  · rintro ⟨rfl, rfl, hm⟩
    rw [← BitVec.eq_of_toNat_eq hm, enc18_fields hl]

theorem encCount_eq_iff {w : BitVec 32} (hl : w.getLsbD 0 = true) (o c : BitVec 12) (m : BitVec 7) :
    encCount o c m = w ↔ fImm w = o ∧ fCount w = c ∧ (fMajor w).toNat = m.toNat := by
  constructor
  · rintro rfl
    simp
  · rintro ⟨rfl, rfl, hm⟩
    rw [← BitVec.eq_of_toNat_eq hm, encCount_fields hl]

theorem encJ_eq_iff {w : BitVec 32} (hl : w.getLsbD 0 = true) (o : BitVec 24) (m : BitVec 7) :
    encJ o m = w ↔ fOff24 w = o ∧ (fMajor w).toNat = m.toNat := by
  constructor
  · rintro rfl
    simp
  · rintro ⟨rfl, hm⟩
    rw [← BitVec.eq_of_toNat_eq hm, encJ_fields hl]

theorem encV_eq_iff {w : BitVec 32} (hl : w.getLsbD 0 = true) (b a d k : BitVec 3) (t r f : BitVec 4) (m : BitVec 7) :
    encV b a d k t r f m = w ↔ fVb w = b ∧ fVa w = a ∧ fVd w = d ∧ fMk w = k ∧ fTy w = t ∧ fRf w = r ∧
      (fFn w).toNat = f.toNat ∧ (fMajor w).toNat = m.toNat := by
  constructor
  · rintro rfl
    simp
  · rintro ⟨rfl, rfl, rfl, rfl, rfl, rfl, hf, hm⟩
    rw [← BitVec.eq_of_toNat_eq hf, ← BitVec.eq_of_toNat_eq hm, encV_fields hl]

theorem encVw_eq_iff {w : BitVec 32} (hl : w.getLsbD 0 = true) (s : BitVec 6) (d k : BitVec 3) (t r f : BitVec 4) (m : BitVec 7) :
    encVw s d k t r f m = w ↔ fSrc2 w = s ∧ fVd w = d ∧ fMk w = k ∧ fTy w = t ∧ fRf w = r ∧
      (fFn w).toNat = f.toNat ∧ (fMajor w).toNat = m.toNat := by
  constructor
  · rintro rfl
    simp
  · rintro ⟨rfl, rfl, rfl, rfl, rfl, hf, hm⟩
    rw [← BitVec.eq_of_toNat_eq hf, ← BitVec.eq_of_toNat_eq hm, encVw_fields hl]

/-! ### Codes -/

@[simp] theorem Width.code_ofCode (c : BitVec 2) : (Width.ofCode c).code = c := by
  revert c; decide
@[simp] theorem AtOrd.code_ofCode (c : BitVec 2) : (AtOrd.ofCode c).code = c := by
  revert c; decide

/-- A reader of codes that answers only what the code is written from, and answers every code that is written. -/
theorem eq_some_iff_of_inverse {α β : Type} {read : α → Option β} {write : β → α} (sound : ∀ c, ∀ y ∈ read c, c = write y)
    (complete : ∀ y, read (write y) = some y) {c : α} {y : β} : read c = some y ↔ c = write y :=
  ⟨sound c y, fun h => h ▸ complete y⟩

@[simp] theorem Cc.ofCode_eq_some_iff {k : BitVec 4} {y : Cc} : Cc.ofCode k = some y ↔ k = y.code :=
  eq_some_iff_of_inverse (by decide) Cc.ofCode_code
@[simp] theorem VCond.ofCode_eq_some_iff {k : BitVec 4} {y : VCond} : VCond.ofCode k = some y ↔ k = y.code :=
  eq_some_iff_of_inverse (by decide) VCond.ofCode_code
@[simp] theorem Ty.ofCode_eq_some_iff {k : BitVec 4} {y : Ty} : Ty.ofCode k = some y ↔ k = y.code :=
  eq_some_iff_of_inverse (by decide) Ty.ofCode_code
@[simp] theorem Rc.ofCode_eq_some_iff {k : BitVec 4} {y : Rc} : Rc.ofCode k = some y ↔ k = y.code :=
  eq_some_iff_of_inverse (by decide) Rc.ofCode_code
@[simp] theorem LdOrd.ofCode_eq_some_iff {k : BitVec 2} {y : LdOrd} : LdOrd.ofCode k = some y ↔ k = y.code :=
  eq_some_iff_of_inverse (by decide) LdOrd.ofCode_code
@[simp] theorem StOrd.ofCode_eq_some_iff {k : BitVec 2} {y : StOrd} : StOrd.ofCode k = some y ↔ k = y.code :=
  eq_some_iff_of_inverse (by decide) StOrd.ofCode_code
@[simp] theorem Scope.ofCode_eq_some_iff {k : BitVec 6} {y : Scope} : Scope.ofCode k = some y ↔ k = y.code :=
  eq_some_iff_of_inverse (by decide) Scope.ofCode_code
@[simp] theorem Path.ofCode_eq_some_iff {k : BitVec 6} {y : Path} : Path.ofCode k = some y ↔ k = y.code :=
  eq_some_iff_of_inverse (by decide) Path.ofCode_code

@[simp] theorem SReg.ofCode_eq_some_iff {k : BitVec 12} {y : SReg} : SReg.ofCode k = some y ↔ k = y.code := by
  refine ⟨fun h => ?_, fun h => h ▸ SReg.ofCode_code y⟩
  unfold SReg.ofCode at h
  split at h
  case h_30 =>
    split_ifs at h with hd
    cases h
    exact (eq_append_iff (m := 5) (n := 7) k _ _).2 ⟨hd, rfl⟩
  all_goals
    rename_i hc
    cases h
    exact BitVec.eq_of_toNat_eq hc

/-! ### What a decoder yields

One rule for each step that a family's decoder is built from: a guard supplies its equation to what follows it. -/

/-- A decoder's answer yields nothing but an instruction whose encoding is the word w. -/
def Exact (w : BitVec 32) (x : Except Reject Instr) : Prop := ∀ i, x = .ok i → encode i = .word w

section
variable {w : BitVec 32}

@[simp] theorem exact_error (r : Reject) : Exact w (.error r) := by
  intro i h
  cases h

@[simp] theorem exact_ok (i : Instr) : Exact w (.ok i) ↔ encode i = .word w := by
  simp [Exact]

@[simp] theorem exact_guardEq {n : Nat} (x k : BitVec n) (r : Reject) (f : Unit → Except Reject Instr) :
    Exact w (guardEq x k r >>= f) ↔ (x = k → Exact w (f ())) := by
  by_cases h : x = k <;> simp [Exact, guardEq, h, bind, Except.bind]

@[simp] theorem exact_orReject {α : Type} (r : Reject) (o : Option α) (f : α → Except Reject Instr) :
    Exact w (orReject r o >>= f) ↔ ∀ a, o = some a → Exact w (f a) := by
  cases o <;> simp [Exact, orReject, bind, Except.bind]

@[simp] theorem exact_maskReg (x : BitVec 6) (f : MReg → Except Reject Instr) :
    Exact w (maskReg x >>= f) ↔ ∀ a : MReg, x = 0#3 ++ a → Exact w (f a) := by
  simp only [eq_append_iff (m := 3) (n := 3), maskReg]
  split
  next h => simp [Exact, h]
  next h => simp [Exact, bind, Except.bind, show ¬ x.extractLsb' 3 3 = 0#3 from h]

/-! ### The families of the opcode map (R152)

A family's decoder splits by the function code. In each case the rules above leave the equations of the fields that the instruction's
format writes, and these are the function code, the major and what the guards have checked. -/

theorem decodeIntA_exact (hl : w.getLsbD 0 = true) (hm : (fMajor w).toNat = 0x01) : Exact w (decodeIntA w) := by
  unfold decodeIntA
  split <;> simp +contextual [*, encode, encR_eq_iff hl]

theorem decodeIntB_exact (hl : w.getLsbD 0 = true) (hm : (fMajor w).toNat = 0x02) : Exact w (decodeIntB w) := by
  unfold decodeIntB
  split <;> simp +contextual [*, encode, encR_eq_iff hl, eq_append_iff (m := 1) (n := 5)]

theorem decodeControl_exact (hl : w.getLsbD 0 = true) (hm : (fMajor w).toNat = 0x20) : Exact w (decodeControl w) := by
  unfold decodeControl
  split <;> simp +contextual [*, encode, encR_eq_iff hl]

theorem decodeSystem_exact (hl : w.getLsbD 0 = true) (hm : (fMajor w).toNat = 0x23) : Exact w (decodeSystem w) := by
  unfold decodeSystem
  split <;> simp +contextual [*, encode, encR_eq_iff hl]

theorem decodeMemCtl_exact (hl : w.getLsbD 0 = true) (hm : (fMajor w).toNat = 0x4c) : Exact w (decodeMemCtl w) := by
  unfold decodeMemCtl
  split <;> simp +contextual [*, encode, encR_eq_iff hl]

theorem decodePulls_exact (hl : w.getLsbD 0 = true) (hm : (fMajor w).toNat = 0x50) : Exact w (decodePulls w) := by
  unfold decodePulls
  split <;> simp +contextual [*, encode, encX_eq_iff hl]

theorem decodeTags_exact (hl : w.getLsbD 0 = true) (hm : (fMajor w).toNat = 0x51) : Exact w (decodeTags w) := by
  unfold decodeTags
  split <;> simp +contextual [*, encode, encR_eq_iff hl]

theorem decodeMatrix_exact (hl : w.getLsbD 0 = true) (hm : (fMajor w).toNat = 0x52) : Exact w (decodeMatrix w) := by
  unfold decodeMatrix
  split <;> simp +contextual [*, encode, encX_eq_iff hl]

theorem decodeTid_exact (hl : w.getLsbD 0 = true) (hm : (fMajor w).toNat = 0x53) : Exact w (decodeTid w) := by
  unfold decodeTid
  split <;> simp +contextual [*, encode, encR_eq_iff hl]

theorem decodeSync_exact (hl : w.getLsbD 0 = true) (hm : (fMajor w).toNat = 0x54) : Exact w (decodeSync w) := by
  unfold decodeSync
  split <;> simp +contextual [*, encode, encR_eq_iff hl]

theorem decodeWatch_exact (hl : w.getLsbD 0 = true) (hm : (fMajor w).toNat = 0x56) : Exact w (decodeWatch w) := by
  unfold decodeWatch
  split <;> simp +contextual [*, encode, encX_eq_iff hl]

theorem decodeMsg_exact (hl : w.getLsbD 0 = true) (hm : (fMajor w).toNat = 0x57) : Exact w (decodeMsg w) := by
  unfold decodeMsg
  split <;> simp +contextual [*, encode, encR_eq_iff hl]

theorem decodeFabric_exact (hl : w.getLsbD 0 = true) (hm : (fMajor w).toNat = 0x58) : Exact w (decodeFabric w) := by
  unfold decodeFabric
  split <;> simp +contextual [*, encode, encX_eq_iff hl]

theorem decodeQuery_exact (hl : w.getLsbD 0 = true) (hm : (fMajor w).toNat = 0x59) : Exact w (decodeQuery w) := by
  unfold decodeQuery
  split <;> simp +contextual [*, encode, encR_eq_iff hl]

theorem decodeLaneArith_exact (hl : w.getLsbD 0 = true) (hm : (fMajor w).toNat = 0x60) : Exact w (decodeLaneArith w) := by
  unfold decodeLaneArith
  split <;> simp +contextual [*, encode, encV_eq_iff hl]

theorem decodeLaneFun_exact (hl : w.getLsbD 0 = true) (hm : (fMajor w).toNat = 0x61) : Exact w (decodeLaneFun w) := by
  unfold decodeLaneFun
  split <;> simp +contextual [*, encode, encV_eq_iff hl]

theorem decodeConv_exact (hl : w.getLsbD 0 = true) (hm : (fMajor w).toNat = 0x62) : Exact w (decodeConv w) := by
  unfold decodeConv
  split <;> simp +contextual [*, encode, encV_eq_iff hl, append_eq_iff (m := 1) (n := 3)]

theorem decodeVcmp_exact (hl : w.getLsbD 0 = true) (hm : (fMajor w).toNat = 0x63) : Exact w (decodeVcmp w) := by
  unfold decodeVcmp
  split <;> simp +contextual [*, encode, encV_eq_iff hl]

theorem decodeLaneMove_exact (hl : w.getLsbD 0 = true) (hm : (fMajor w).toNat = 0x64) : Exact w (decodeLaneMove w) := by
  unfold decodeLaneMove
  split <;> simp +contextual [*, encode, encV_eq_iff hl, encVw_eq_iff hl, eq_append_iff (m := 2) (n := 1),
    append_high (m := 1) (n := 4), append_low (m := 1) (n := 4)]

theorem decodeVred_exact (hl : w.getLsbD 0 = true) (hm : (fMajor w).toNat = 0x65) : Exact w (decodeVred w) := by
  unfold decodeVred
  split <;> simp +contextual [*, encode, encV_eq_iff hl]

theorem decodeTable_exact (hl : w.getLsbD 0 = true) (hm : (fMajor w).toNat = 0x66) : Exact w (decodeTable w) := by
  unfold decodeTable
  split <;> simp +contextual [*, encode, encV_eq_iff hl, encVw_eq_iff hl, eq_append_iff (m := 1) (n := 2)]

theorem decodeMasks_exact (hl : w.getLsbD 0 = true) (hm : (fMajor w).toNat = 0x67) : Exact w (decodeMasks w) := by
  unfold decodeMasks
  split <;> simp +contextual [*, encode, encR_eq_iff hl]

/-- Bits [6:2] of the four majors of ATOM are 0b10010; bits [1:0] are the ordering. -/
theorem atomMajor_append {m : BitVec 7} (h : m.toNat / 4 = 0x12) : 0b10010#5 ++ m.extractLsb' 0 2 = m := by
  revert m; decide

theorem decodeAtom_exact (hl : w.getLsbD 0 = true) (hm : (fMajor w).toNat / 4 = 0x12) : Exact w (decodeAtom w) := by
  unfold decodeAtom
  split <;> simp +contextual [*, encode, encR_eq_iff hl, atomMajor_append hm]

/-- The selector of the shift immediates that is none of 0, 1 and 2. -/
theorem toNat_eq_three {x : BitVec 2} (h0 : x.toNat ≠ 0) (h1 : x.toNat ≠ 1) (h2 : x.toNat ≠ 2) : x.toNat = 3 := by
  have := x.isLt
  omega

theorem decodeShiftImm_exact (hl : w.getLsbD 0 = true) (hm : (fMajor w).toNat = 0x08) : Exact w (decodeShiftImm w) := by
  unfold decodeShiftImm
  rw [exact_guardEq]
  intro h
  split
  all_goals
    simp only [except_pure, exact_ok, encode, Encoding.word.injEq, encI_eq_iff hl, imm12_eq_iff, h, hm]
    refine ⟨⟨?_, by simp⟩, by simp⟩
  case h_4 h0 h1 h2 => exact toNat_eq_three h0 h1 h2
  all_goals assumption

/-- Every family of the opcode map, and the majors that hold one instruction each. -/
theorem decodeMajor_exact (hl : w.getLsbD 0 = true) : Exact w (decodeMajor w) := by
  unfold decodeMajor
  split
  case h_1 hm => exact decodeIntA_exact hl hm
  case h_2 hm => exact decodeIntB_exact hl hm
  case h_8 hm => exact decodeShiftImm_exact hl hm
  case h_28 hm => exact decodeControl_exact hl hm
  case h_33 hm => exact decodeSystem_exact hl hm
  case h_58 hm => exact decodeAtom_exact hl (by omega)
  case h_59 hm => exact decodeAtom_exact hl (by omega)
  case h_60 hm => exact decodeAtom_exact hl (by omega)
  case h_61 hm => exact decodeAtom_exact hl (by omega)
  case h_62 hm => exact decodeMemCtl_exact hl hm
  case h_63 hm => exact decodePulls_exact hl hm
  case h_64 hm => exact decodeTags_exact hl hm
  case h_65 hm => exact decodeMatrix_exact hl hm
  case h_66 hm => exact decodeTid_exact hl hm
  case h_67 hm => exact decodeSync_exact hl hm
  case h_69 hm => exact decodeWatch_exact hl hm
  case h_70 hm => exact decodeMsg_exact hl hm
  case h_71 hm => exact decodeFabric_exact hl hm
  case h_72 hm => exact decodeQuery_exact hl hm
  case h_73 hm => exact decodeLaneArith_exact hl hm
  case h_74 hm => exact decodeLaneFun_exact hl hm
  case h_75 hm => exact decodeConv_exact hl hm
  case h_76 hm => exact decodeVcmp_exact hl hm
  case h_77 hm => exact decodeLaneMove_exact hl hm
  case h_78 hm => exact decodeVred_exact hl hm
  case h_79 hm => exact decodeTable_exact hl hm
  case h_80 hm => exact decodeMasks_exact hl hm
  all_goals
    simp +contextual [*, encode, encI_eq_iff hl, encR_eq_iff hl, enc18_eq_iff hl, encJ_eq_iff hl, encCount_eq_iff hl,
      imm12_eq_iff, eq_append_iff (m := 2) (n := 10)]

/-! ### Words, halfwords and bytes -/

theorem wf_of_check {i : Instr} (h : i.check = none) : i.wf = true := by
  rw [Instr.wf, h, Option.isNone_none]

theorem decode32_exact (hl : w.getLsbD 0 = true) {i : Instr} (h : decode32 w = .ok i) : encode i = .word w ∧ i.wf = true := by
  unfold decode32 at h
  split at h
  · cases h
  · split at h
    · cases h
    next j hj =>
      split at h
      · cases h
      next hc =>
        cases h
        exact ⟨decodeMajor_exact hl i hj, wf_of_check hc⟩
end

/-- The sixteen forms of R145 leave no halfword's bits out. -/
theorem encode_decodeForm_enc16 (s : BitVec 5) (d : BitVec 6) (f : BitVec 4) :
    encode (decodeForm (enc16 s d f)) = .half (enc16 s d f) := by
  unfold decodeForm
  rw [enc16_form, enc16_d, enc16_s]
  obtain ⟨f⟩ := f
  fin_cases f <;> rfl

theorem decode16_exact {h : BitVec 16} (hl : h.getLsbD 0 = false) {i : Instr} (hd : decode16 h = .ok i) :
    encode i = .half h ∧ i.wf = true := by
  unfold decode16 at hd
  split at hd
  · cases hd
  · split at hd
    · cases hd
    next hc =>
      cases hd
      refine ⟨?_, wf_of_check hc⟩
      rw [← enc16_fields hl]
      exact encode_decodeForm_enc16 ..

theorem halfOf_low (lo hi : Byte) : (halfOf lo hi).extractLsb' 0 8 = lo := append_low hi lo
theorem halfOf_high (lo hi : Byte) : (halfOf lo hi).extractLsb' 8 8 = hi := append_high hi lo

theorem bytes_half (b0 b1 : Byte) : (Encoding.half (halfOf b0 b1)).bytes = [b0, b1] := by
  rw [Encoding.bytes, halfOf_low, halfOf_high]

theorem bytes_word (b0 b1 b2 b3 : Byte) : (Encoding.word (halfOf b2 b3 ++ halfOf b0 b1)).bytes = [b0, b1, b2, b3] := by
  have low (k : Nat) (hk : k + 8 ≤ 16) : (halfOf b2 b3 ++ halfOf b0 b1).extractLsb' k 8 = (halfOf b0 b1).extractLsb' k 8 :=
    BitVec.extractLsb'_append_eq_of_add_le hk
  have high (k : Nat) : (halfOf b2 b3 ++ halfOf b0 b1).extractLsb' (16 + k) 8 = (halfOf b2 b3).extractLsb' k 8 := by
    rw [BitVec.extractLsb'_append_eq_of_le (by omega), Nat.add_sub_cancel_left]
  rw [Encoding.bytes, low 0 (by omega), low 8 (by omega), high 0, high 8, halfOf_low, halfOf_high, halfOf_low, halfOf_high]

theorem getLsbD_append_zero {m n : Nat} (a : BitVec m) (b : BitVec (n + 1)) : (a ++ b).getLsbD 0 = b.getLsbD 0 := by
  rw [BitVec.getLsbD_append, if_pos (Nat.succ_pos n)]

theorem halfOf_lengthBit (lo hi : Byte) : (halfOf lo hi).getLsbD 0 = lo.getLsbD 0 := getLsbD_append_zero hi lo

theorem word_lengthBit (b0 b1 : Byte) (h : BitVec 16) : (h ++ halfOf b0 b1).getLsbD 0 = b0.getLsbD 0 :=
  (getLsbD_append_zero h (halfOf b0 b1)).trans (halfOf_lengthBit b0 b1)

theorem len_of_encode_half {i : Instr} {h : BitVec 16} (he : encode i = .half h) : Machine.Instr.len i = 2 := by
  simp [Machine.Instr.len, he]
theorem len_of_encode_word {i : Instr} {w : BitVec 32} (he : encode i = .word w) : Machine.Instr.len i = 4 := by
  simp [Machine.Instr.len, he]

/-- The length bit of R141 chooses between a halfword and a word at the head of the bytes. -/
theorem decode_cases {l : List Byte} {i : Instr} {n : Nat} (h : decode l = .ok (i, n)) :
    (∃ b0 b1 rest, l = b0 :: b1 :: rest ∧ b0.getLsbD 0 = false ∧ decode16 (halfOf b0 b1) = .ok i ∧ n = 2) ∨
    (∃ b0 b1 b2 b3 rest, l = b0 :: b1 :: b2 :: b3 :: rest ∧ b0.getLsbD 0 = true ∧
      decode32 (halfOf b2 b3 ++ halfOf b0 b1) = .ok i ∧ n = 4) := by
  unfold decode at h
  split at h
  next b0 b1 rest =>
    split at h
    next hl =>
      split at h
      next b2 b3 rest =>
        cases hd : decode32 (halfOf b2 b3 ++ halfOf b0 b1) with
        | error r => rw [hd] at h; cases h
        | ok j =>
          rw [hd] at h
          cases h
          exact .inr ⟨b0, b1, b2, b3, rest, rfl, hl, hd, rfl⟩
      next => cases h
    next hl =>
      cases hd : decode16 (halfOf b0 b1) with
      | error r => rw [hd] at h; cases h
      | ok j =>
        rw [hd] at h
        cases h
        exact .inl ⟨b0, b1, rest, rfl, Bool.eq_false_of_not_eq_true hl, hd, rfl⟩
  next => cases h

/-- The encoding of what decodes: the halfword or the word that its bytes make up. -/
theorem encode_bytes_of_decode {l : List Byte} {i : Instr} {n : Nat} (h : decode l = .ok (i, n)) :
    encode i ≠ .none ∧ i.wf = true ∧ n = Machine.Instr.len i ∧ (encode i).bytes = l.take n := by
  obtain ⟨b0, b1, rest, rfl, hl, hd, rfl⟩ | ⟨b0, b1, b2, b3, rest, rfl, hl, hd, rfl⟩ := decode_cases h
  · obtain ⟨he, hw⟩ := decode16_exact ((halfOf_lengthBit b0 b1).trans hl) hd
    exact ⟨by simp [he], hw, (len_of_encode_half he).symm, by rw [he, bytes_half]; rfl⟩
  · obtain ⟨he, hw⟩ := decode32_exact ((word_lengthBit b0 b1 _).trans hl) hd
    exact ⟨by simp [he], hw, (len_of_encode_word he).symm, by rw [he, bytes_word]; rfl⟩

/-- Settles O3: the two lengths of R141 apart, each family of the opcode map accepts a word only with the fields that its encoder writes. -/
theorem decodeExact : Obligations.DecodeExact := by
  unfold Obligations.DecodeExact
  intro l i n h
  obtain ⟨he, hw, hn, hb⟩ := encode_bytes_of_decode h
  exact ⟨by simp [Instr.isEvent, he], hw, hn, hb⟩

end Sys2Proof

namespace Sys2Proof.Machine

open Sys2Proof.Claims

/-! ### O59: the state after reset

The state of R25 and R19, field by field. -/

/-- At reset m0 is all ones by R138 and every other mask register is 0. -/
theorem Ctx.reset_mask (m : MReg) : Ctx.reset.mask m = if m = 0 then 0xFFFFFFFF#32 else 0 := by
  revert m; decide

theorem Ctx.reset_reg (r : Reg) : Ctx.reset.reg r = 0 := by
  simp [Ctx.reg, Ctx.reset]

theorem Core.reset_tag (k : Nat) : Core.reset.tag k = TagRec.reset := by
  simp only [Core.tag, Core.reset, Vector.toList_replicate, List.getD_eq_getElem?_getD, List.getElem?_replicate]
  split <;> rfl

/-- Every package but 0, the own one, is dead at reset. -/
theorem State.reset_dead {n : Nat} (h : n < 4096) : State.reset.dead.getLsbD n = true ↔ n ≠ 0 := by
  simp only [State.reset, BitVec.getLsbD_shiftLeft, BitVec.getLsbD_allOnes, Bool.and_eq_true, decide_eq_true_eq, Bool.not_eq_true', decide_eq_false_iff_not]
  omega

/-- Settles O59: most clauses read a field of State.reset or look up an empty map; the registers and tags of a fresh context and core are lemmas of their own. -/
theorem resetState : Obligations.ResetState := by
  unfold Obligations.ResetState
  refine ⟨⟨rfl, rfl, rfl, rfl⟩, ?_, fun _ => rfl, Ctx.reset_reg, rfl, ?_, rfl, rfl, fun _ _ k => Core.reset_tag k, fun _ => ⟨rfl, rfl, rfl, rfl⟩,
    fun _ => ⟨rfl, rfl, rfl⟩, fun _ => rfl, rfl, rfl, rfl, fun _ => State.reset_dead, rfl, rfl⟩
  · intro pa key hr
    rw [State.byteAt, hr]
    rfl
  · intro m hm
    rw [Ctx.reset_mask, if_neg hm]

end Sys2Proof.Machine

namespace Sys2Proof.Machine

/-! SUPPORT. The memories through a step, for O60: first what leaves the memory and the management side alone (`X_frame`), then what keeps
the memories in canonical form (`X_sound`), for each function that a step calls, in the order of the model's files, up to `exec` and `step`.
A frame lemma rewrites the memory and the management side of a state to those of the state before; a soundness lemma is an implication,
whose premise `simp` discharges by the lemmas before it. They are tried before the arguments are visited (`↓`): the arguments are large. -/

/-! ### The frame of a choice, of a fold and of the basic updates -/

@[simp] theorem State.mem_ite (c : Prop) [Decidable c] (a b : State) : (if c then a else b).mem = if c then a.mem else b.mem := apply_ite ..
@[simp] theorem State.boot_ite (c : Prop) [Decidable c] (a b : State) : (if c then a else b).boot = if c then a.boot else b.boot := apply_ite ..

theorem State.frame_trans {s t u : State} (h : u.mem = t.mem ∧ u.boot = t.boot) (g : t.mem = s.mem ∧ t.boot = s.boot) : u.mem = s.mem ∧ u.boot = s.boot :=
  ⟨h.1.trans g.1, h.2.trans g.2⟩

@[simp ↓] theorem State.foldl_frame {α : Type} {f : State → α → State} (hf : ∀ u x, (f u x).mem = u.mem ∧ (f u x).boot = u.boot) (l : List α) (s : State) :
    (l.foldl f s).mem = s.mem ∧ (l.foldl f s).boot = s.boot := by
  induction l generalizing s with
  | nil => exact ⟨rfl, rfl⟩
  | cons x l ih => exact State.frame_trans (ih _) (hf s x)

@[simp ↓] theorem State.setCtx_frame (s : State) (p : Pos) (c : Ctx) : (s.setCtx p c).mem = s.mem ∧ (s.setCtx p c).boot = s.boot := ⟨rfl, rfl⟩

@[simp ↓] theorem State.modCtx_frame (s : State) (p : Pos) (f : Ctx → Ctx) : (s.modCtx p f).mem = s.mem ∧ (s.modCtx p f).boot = s.boot := ⟨rfl, rfl⟩

@[simp ↓] theorem State.modMe_frame (s : State) (f : Ctx → Ctx) : (s.modMe f).mem = s.mem ∧ (s.modMe f).boot = s.boot := ⟨rfl, rfl⟩

@[simp ↓] theorem State.modCore_frame (s : State) (c n : Nat) (f : Core → Core) : (s.modCore c n f).mem = s.mem ∧ (s.modCore c n f).boot = s.boot := ⟨rfl, rfl⟩

@[simp ↓] theorem State.setClus_frame (s : State) (c : Nat) (k : Clus) : (s.setClus c k).mem = s.mem ∧ (s.setClus c k).boot = s.boot := ⟨rfl, rfl⟩

@[simp ↓] theorem State.modClus_frame (s : State) (c : Nat) (f : Clus → Clus) : (s.modClus c f).mem = s.mem ∧ (s.modClus c f).boot = s.boot := ⟨rfl, rfl⟩

@[simp ↓] theorem State.post_frame (s : State) (i : Instr) (inp : Inp) : (s.post i inp).mem = s.mem ∧ (s.post i inp).boot = s.boot := ⟨rfl, rfl⟩

@[simp ↓] theorem State.wakeAll_frame (s : State) (q : Pos → Wait → Bool) : (s.wakeAll q).mem = s.mem ∧ (s.wakeAll q).boot = s.boot := ⟨rfl, rfl⟩

/-! ### Ops: what leaves the memories alone -/

@[simp ↓] theorem State.setMe_frame (s : State) (c : Ctx) : (s.setMe c).mem = s.mem ∧ (s.setMe c).boot = s.boot := ⟨rfl, rfl⟩

@[simp ↓] theorem State.modMyCore_frame (s : State) (f : Core → Core) : (s.modMyCore f).mem = s.mem ∧ (s.modMyCore f).boot = s.boot := ⟨rfl, rfl⟩

@[simp ↓] theorem State.modTile_frame (s : State) (c n : Nat) (f : Tile → Tile) : (s.modTile c n f).mem = s.mem ∧ (s.modTile c n f).boot = s.boot := ⟨rfl, rfl⟩

@[simp ↓] theorem feedConvoy_frame (s : State) (p : Pos) (id : Nat) : (feedConvoy s p id).mem = s.mem ∧ (feedConvoy s p id).boot = s.boot := ⟨rfl, rfl⟩

@[simp ↓] theorem forwardTo_frame (s : State) (p : Pos) (id : Nat) (f : Fwd) : (forwardTo s p id f).mem = s.mem ∧ (forwardTo s p id f).boot = s.boot := ⟨rfl, rfl⟩

@[simp ↓] theorem dissolve_frame (s : State) (p : Pos) (id : Nat) : (dissolve s p id).mem = s.mem ∧ (dissolve s p id).boot = s.boot := ⟨rfl, rfl⟩

@[simp ↓] theorem leaveByTrap_frame (s : State) (p : Pos) : (leaveByTrap s p).mem = s.mem ∧ (leaveByTrap s p).boot = s.boot := by
  unfold leaveByTrap
  split <;> simp

@[simp ↓] theorem convoyStep_frame (s : State) (p : Pos) (pc0 : DWord) : (convoyStep s p pc0).mem = s.mem ∧ (convoyStep s p pc0).boot = s.boot := by
  unfold convoyStep
  dsimp only
  repeat' split
  all_goals simp

@[simp ↓] theorem forwardEarly_frame (s : State) (p : Pos) : (forwardEarly s p).mem = s.mem ∧ (forwardEarly s p).boot = s.boot := by
  unfold forwardEarly
  dsimp only
  split <;> simp

@[simp ↓] theorem State.advanceAt_frame (s : State) (p : Pos) (npc : DWord) (eob : Bool) :
    (s.advanceAt p npc eob).mem = s.mem ∧ (s.advanceAt p npc eob).boot = s.boot := by
  simp [State.advanceAt]

@[simp ↓] theorem State.queueItem_frame (s : State) (dpkg oclus dclus : Nat) (body : ItemBody) :
    (s.queueItem dpkg oclus dclus body).mem = s.mem ∧ (s.queueItem dpkg oclus dclus body).boot = s.boot := by
  unfold State.queueItem
  split <;> exact ⟨rfl, rfl⟩

@[simp ↓] theorem State.askPkg_frame (s : State) (c pa key len : Nat) (who : ReadFor) :
    (s.askPkg c pa key len who).mem = s.mem ∧ (s.askPkg c pa key len who).boot = s.boot := by
  unfold State.askPkg
  split <;> exact ⟨rfl, rfl⟩

@[simp ↓] theorem State.askPull_frame (s : State) (c id unit key n : Nat) :
    (s.askPull c id unit key n).mem = s.mem ∧ (s.askPull c id unit key n).boot = s.boot := by
  unfold State.askPull
  split <;> exact ⟨rfl, rfl⟩

@[simp ↓] theorem State.setDone_frame (s : State) (c core tag : Nat) (err : Byte) :
    (s.setDone c core tag err).mem = s.mem ∧ (s.setDone c core tag err).boot = s.boot := ⟨rfl, rfl⟩

@[simp ↓] theorem State.popWith_frame {fin : State → Nat → State} (hf : ∀ u t, (fin u t).mem = u.mem ∧ (fin u t).boot = u.boot) (s : State) (p : Pos) (ks : List Nat) :
    (s.popWith fin p ks).mem = s.mem ∧ (s.popWith fin p ks).boot = s.boot := by
  induction ks generalizing s with
  | nil => exact ⟨rfl, rfl⟩
  | cons k ks ih =>
    simp only [State.popWith, ih]
    split <;> simp [hf]

@[simp ↓] theorem State.tagMet_frame {fin : State → Nat → State} (hf : ∀ u t, (fin u t).mem = u.mem ∧ (fin u t).boot = u.boot) (s : State) (p : Pos) (d : Option Reg) (m : DWord) :
    (s.tagMet fin p d m).mem = s.mem ∧ (s.tagMet fin p d m).boot = s.boot := by
  simp [State.tagMet, State.popWith_frame hf]

@[simp ↓] theorem State.tagDoneN_frame (n : Nat) (s : State) (c core tag : Nat) (err : Byte) :
    (s.tagDoneN n c core tag err).mem = s.mem ∧ (s.tagDoneN n c core tag err).boot = s.boot := by
  induction n generalizing s tag err with
  | zero => exact ⟨rfl, rfl⟩
  | succ n ih =>
    refine State.frame_trans (State.foldl_frame (fun u x => ?_) _ _) (s.setDone_frame c core tag err)
    dsimp only
    repeat' split
    all_goals first | exact ⟨rfl, rfl⟩ | exact State.tagMet_frame (fun v t => ih v t 0) ..

@[simp ↓] theorem State.tagDone_frame (s : State) (c core tag : Nat) (err : Byte) :
    (s.tagDone c core tag err).mem = s.mem ∧ (s.tagDone c core tag err).boot = s.boot := by
  simp [State.tagDone]

@[simp ↓] theorem State.streamPop_frame (s : State) (p : Pos) (ks : List Nat) : (s.streamPop p ks).mem = s.mem ∧ (s.streamPop p ks).boot = s.boot := by
  simp [State.streamPop]

@[simp ↓] theorem State.completeAt_frame (s : State) (p : Pos) (npc : DWord) (eob : Bool) :
    (s.completeAt p npc eob).mem = s.mem ∧ (s.completeAt p npc eob).boot = s.boot := by
  simp [State.completeAt]

@[simp ↓] theorem State.unstall_frame (s : State) (p : Pos) : (s.unstall p).mem = s.mem ∧ (s.unstall p).boot = s.boot := by
  unfold State.unstall
  split <;> exact ⟨rfl, rfl⟩

@[simp ↓] theorem State.postSvc_frame (s : State) (c : Nat) (body : List Word) : (s.postSvc c body).mem = s.mem ∧ (s.postSvc c body).boot = s.boot := by
  unfold State.postSvc
  dsimp only
  repeat' split
  all_goals simp

@[simp ↓] theorem State.halt_frame (s : State) (p : Pos) : (s.halt p).mem = s.mem ∧ (s.halt p).boot = s.boot := by
  unfold State.halt
  repeat' split
  all_goals simp

@[simp ↓] theorem State.doubleTrap_frame (s : State) (p : Pos) (code : Byte) (xpc : DWord) :
    (s.doubleTrap p code xpc).mem = s.mem ∧ (s.doubleTrap p code xpc).boot = s.boot := by
  simp [State.doubleTrap]

@[simp ↓] theorem State.subGone_frame (s : State) (p : Pos) : (s.subGone p).mem = s.mem ∧ (s.subGone p).boot = s.boot := by
  unfold State.subGone
  split <;> exact ⟨rfl, rfl⟩

@[simp ↓] theorem State.haltedAt_frame (s : State) (p : Pos) : (s.haltedAt p).mem = s.mem ∧ (s.haltedAt p).boot = s.boot := by
  unfold State.haltedAt
  split <;> exact ⟨rfl, rfl⟩

@[simp ↓] theorem State.takeTrap_frame (s0 : State) (p : Pos) (code : Byte) (xaddr : DWord) (xinfo : Word) (xpc : DWord) :
    (s0.takeTrap p code xaddr xinfo xpc).mem = s0.mem ∧ (s0.takeTrap p code xaddr xinfo xpc).boot = s0.boot := by
  simp [State.takeTrap]

/-! ### Operands: what leaves the memories alone -/

@[simp ↓] theorem State.streamView_frame (s : State) (p : Pos) (ks : List Nat) : (s.streamView p ks).mem = s.mem ∧ (s.streamView p ks).boot = s.boot := by
  refine State.foldl_frame (fun u k => ?_) _ _
  split <;> exact ⟨rfl, rfl⟩

/-! ### Xlate: what leaves the memories alone -/

@[simp ↓] theorem State.failReq_frame (s : State) (c : Nat) (code : Byte) (addr : Nat) (xinfo : Word) (l : Requester) :
    (s.failReq c code addr xinfo l).mem = s.mem ∧ (s.failReq c code addr xinfo l).boot = s.boot := by
  unfold State.failReq
  split <;> simp

@[simp ↓] theorem State.wakeReq_frame (s : State) (c : Nat) (l : Requester) : (s.wakeReq c l).mem = s.mem ∧ (s.wakeReq c l).boot = s.boot := by
  unfold State.wakeReq
  repeat' split
  all_goals simp

@[simp ↓] theorem State.postToken_frame (s : State) (c : Nat) (t : Token) : (s.postToken c t).mem = s.mem ∧ (s.postToken c t).boot = s.boot := by
  simp [State.postToken]

@[simp ↓] theorem State.awaitReply_frame (s : State) (l : Requester) : (s.awaitReply l).mem = s.mem ∧ (s.awaitReply l).boot = s.boot := by
  unfold State.awaitReply
  split <;> exact ⟨rfl, rfl⟩

@[simp ↓] theorem State.pageFault_frame (s : State) (c : Nat) (w : Walk) (level reason : Nat) (eaddr eval : DWord) (r : Requester) :
    (s.pageFault c w level reason eaddr eval r).mem = s.mem ∧ (s.pageFault c w level reason eaddr eval r).boot = s.boot := by
  unfold State.pageFault
  split <;> simp

@[simp ↓] theorem State.bumpGen_frame (s : State) (pa : Nat) : (s.bumpGen pa).mem = s.mem ∧ (s.bumpGen pa).boot = s.boot := ⟨rfl, rfl⟩

@[simp ↓] theorem State.invalidate_frame (s : State) (c : Nat) (except : Option Nat) (line : Nat) :
    (s.invalidate c except line).mem = s.mem ∧ (s.invalidate c except line).boot = s.boot := ⟨rfl, rfl⟩

@[simp ↓] theorem State.doom_frame (s : State) (q : Nat) : (s.doom q).mem = s.mem ∧ (s.doom q).boot = s.boot := ⟨rfl, rfl⟩

@[simp ↓] theorem State.sawPoison_frame (s : State) (bast : Option Nat) : (s.sawPoison bast).mem = s.mem ∧ (s.sawPoison bast).boot = s.boot := by
  unfold State.sawPoison
  split <;> exact ⟨rfl, rfl⟩

@[simp ↓] theorem State.shadowWrite_frame (s : State) (c q key : Nat) (cells : List (Nat × Byte)) :
    (s.shadowWrite c q key cells).mem = s.mem ∧ (s.shadowWrite c q key cells).boot = s.boot := by
  unfold State.shadowWrite
  dsimp only
  repeat' split
  all_goals simp

@[simp ↓] theorem State.noteGen_frame (s : State) (bast : Option Nat) (pa g : Nat) :
    (s.noteGen bast pa g).mem = s.mem ∧ (s.noteGen bast pa g).boot = s.boot := by
  unfold State.noteGen
  dsimp only
  repeat' split
  all_goals simp

@[simp ↓] theorem State.noteRead_frame (s : State) (bast : Option Nat) (pa : Nat) :
    (s.noteRead bast pa).mem = s.mem ∧ (s.noteRead bast pa).boot = s.boot := by
  simp [State.noteRead]

@[simp ↓] theorem State.startWalk_frame (s : State) (c aspc : Nat) (sp : Space) (a : DWord) (acc : AccKind) (r : Requester) :
    (s.startWalk c aspc sp a acc r).mem = s.mem ∧ (s.startWalk c aspc sp a acc r).boot = s.boot := ⟨rfl, rfl⟩

@[simp ↓] theorem State.quietWalk_frame (s : State) (c aspc : Nat) (sp : Space) (a : DWord) (acc : AccKind) (w : Quiet) :
    (s.quietWalk c aspc sp a acc w).mem = s.mem ∧ (s.quietWalk c aspc sp a acc w).boot = s.boot := by
  unfold State.quietWalk
  split <;> exact ⟨rfl, rfl⟩

@[simp ↓] theorem State.endWalk_frame (s : State) (c id : Nat) : (s.endWalk c id).mem = s.mem ∧ (s.endWalk c id).boot = s.boot := by
  unfold State.endWalk
  split <;> simp

@[simp ↓] theorem State.fillTlb_frame (s : State) (c : Nat) (t : TlbEntry) (reqs : List Requester) : (s.fillTlb c t reqs).mem = s.mem ∧ (s.fillTlb c t reqs).boot = s.boot := by
  refine State.foldl_frame (fun u r => ?_) _ _
  split <;> exact ⟨rfl, rfl⟩

@[simp ↓] theorem State.walkFail_frame (s : State) (c : Nat) (w : Walk) (code : Byte) :
    (s.walkFail c w code).mem = s.mem ∧ (s.walkFail c w code).boot = s.boot := by
  simp [State.walkFail]

@[simp ↓] theorem State.walkRoot_frame (s : State) (c : Nat) (w : Walk) : (s.walkRoot c w).mem = s.mem ∧ (s.walkRoot c w).boot = s.boot := by
  simp [State.walkRoot]

/-! ### Memory: what leaves the memories alone -/

@[simp ↓] theorem State.sees_frame (s : State) (p : Pos) (pa : Nat) : (s.sees p pa).mem = s.mem ∧ (s.sees p pa).boot = s.boot := ⟨rfl, rfl⟩

@[simp ↓] theorem State.bufferStore_frame (s : State) (p : Pos) (pa key : Nat) (bytes : List Byte) :
    (s.bufferStore p pa key bytes).mem = s.mem ∧ (s.bufferStore p pa key bytes).boot = s.boot := ⟨rfl, rfl⟩

/-! ### Tag: what leaves the memories alone -/

@[simp ↓] theorem State.issueTag_frame (s : State) (tag : Tag) (op : TagOp) (id : Nat) :
    (s.issueTag tag op id).mem = s.mem ∧ (s.issueTag tag op id).boot = s.boot := ⟨rfl, rfl⟩

/-! ### Redirect: what leaves the memories alone -/

@[simp ↓] theorem State.modSaved_frame (s : State) (c : Nat) (v : Saved) (f : Saved → Saved) :
    (s.modSaved c v f).mem = s.mem ∧ (s.modSaved c v f).boot = s.boot := ⟨rfl, rfl⟩

/-! ### Device: what leaves the memories alone -/

@[simp ↓] theorem State.pumpFaults_frame (s : State) (c : Nat) : (s.pumpFaults c).mem = s.mem ∧ (s.pumpFaults c).boot = s.boot := by
  unfold State.pumpFaults
  split <;> simp

@[simp ↓] theorem State.pumpMsgs_frame (s : State) (c : Nat) : (s.pumpMsgs c).mem = s.mem ∧ (s.pumpMsgs c).boot = s.boot := by
  unfold State.pumpMsgs
  split <;> simp

@[simp ↓] theorem State.dropToken_frame (s : State) (c : Nat) (t : Token) : (s.dropToken c t).mem = s.mem ∧ (s.dropToken c t).boot = s.boot := ⟨rfl, rfl⟩

@[simp ↓] theorem State.tuRetry_frame (s : State) (c : Nat) (v : DWord) : (s.tuRetry c v).mem = s.mem ∧ (s.tuRetry c v).boot = s.boot := by
  unfold State.tuRetry
  split <;> simp

@[simp ↓] theorem State.invStep_frame (s : State) (c : Nat) : (s.invStep c).mem = s.mem ∧ (s.invStep c).boot = s.boot := ⟨rfl, rfl⟩

@[simp ↓] theorem State.tuInvWrite_frame (s : State) (c : Nat) (v : DWord) : (s.tuInvWrite c v).mem = s.mem ∧ (s.tuInvWrite c v).boot = s.boot := by
  unfold State.tuInvWrite
  split <;> exact ⟨rfl, rfl⟩

@[simp ↓] theorem State.cancelWaits_frame (s : State) (p : Pos) : (s.cancelWaits p).mem = s.mem ∧ (s.cancelWaits p).boot = s.boot := ⟨rfl, rfl⟩

@[simp ↓] theorem State.svcGone_frame (s : State) (c : Nat) : (s.svcGone c).mem = s.mem ∧ (s.svcGone c).boot = s.boot := by
  simp [State.svcGone]

@[simp ↓] theorem State.svcCtlWrite_frame (s : State) (c : Nat) (v : DWord) : (s.svcCtlWrite c v).mem = s.mem ∧ (s.svcCtlWrite c v).boot = s.boot := by
  simp [State.svcCtlWrite]

@[simp ↓] theorem State.preRefuse_frame (s : State) (c err : Nat) : (s.preRefuse c err).mem = s.mem ∧ (s.preRefuse c err).boot = s.boot := ⟨rfl, rfl⟩

/-! ### LoadStore: what leaves the memories alone -/

@[simp ↓] theorem State.loadDone_frame (s : State) (p : Pos) (r : LoadReq) (l : List Byte) :
    (s.loadDone p r l).mem = s.mem ∧ (s.loadDone p r l).boot = s.boot := by
  simp [State.loadDone]

@[simp ↓] theorem State.loadTrap_frame (s : State) (p : Pos) (r : LoadReq) (code : Byte) :
    (s.loadTrap p r code).mem = s.mem ∧ (s.loadTrap p r code).boot = s.boot := by
  simp [State.loadTrap]

/-! ### Pull: what leaves the memories alone -/

@[simp ↓] theorem State.enterPull_frame (s : State) (id : Nat) (p : Pull) : (s.enterPull id p).mem = s.mem ∧ (s.enterPull id p).boot = s.boot := by
  simp [State.enterPull]

@[simp ↓] theorem State.pullErr_frame (s : State) (id : Nat) (p : Pull) (code : Byte) :
    (s.pullErr id p code).mem = s.mem ∧ (s.pullErr id p code).boot = s.boot := ⟨rfl, rfl⟩

@[simp ↓] theorem State.pullGot_frame (s : State) (id : Nat) (p : Pull) (unit : Nat) (l : List Byte) :
    (s.pullGot id p unit l).mem = s.mem ∧ (s.pullGot id p unit l).boot = s.boot := by
  simp [State.pullGot]

@[simp ↓] theorem State.pullAsk_frame (s : State) (id : Nat) (p : Pull) (unit : Nat) :
    (s.pullAsk id p unit).mem = s.mem ∧ (s.pullAsk id p unit).boot = s.boot := by
  unfold State.pullAsk
  split <;> simp

@[simp ↓] theorem State.pullAnswer_frame (s : State) (it : ReadItem) : (s.pullAnswer it).mem = s.mem ∧ (s.pullAnswer it).boot = s.boot := by
  simp [State.pullAnswer]

@[simp ↓] theorem State.pullPart_frame (s : State) (r : ReplyItem) (ofs : Nat) : (s.pullPart r ofs).mem = s.mem ∧ (s.pullPart r ofs).boot = s.boot := by
  unfold State.pullPart
  split
  · exact ⟨rfl, rfl⟩
  · split
    · dsimp only
      split
      · exact ⟨rfl, rfl⟩
      · split
        · simp
        · generalize hu : List.foldl _ _ _ = u
          have hf : u.mem = s.mem ∧ u.boot = s.boot := by
            subst hu
            refine State.frame_trans (State.foldl_frame (fun u k => ?_) _ _) (by simp)
            split <;> simp
          split <;> simp [hf]
    · exact ⟨rfl, rfl⟩

@[simp ↓] theorem State.closeStream_frame (s : State) (p : Pos) (k : Nat) : (s.closeStream p k).mem = s.mem ∧ (s.closeStream p k).boot = s.boot := by
  unfold State.closeStream
  dsimp only
  repeat' split
  all_goals simp

/-! ### Sync: what leaves the memories alone -/

@[simp ↓] theorem State.sendDone_frame (s : State) (opkg : Nat) (it : DoneItem) : (s.sendDone opkg it).mem = s.mem ∧ (s.sendDone opkg it).boot = s.boot := by
  unfold State.sendDone
  split <;> exact ⟨rfl, rfl⟩

@[simp ↓] theorem State.published_frame (s : State) (c : Nat) (pa : Nat) (new : DWord) :
    (s.published c pa new).mem = s.mem ∧ (s.published c pa new).boot = s.boot := by
  simp [State.published]

@[simp ↓] theorem State.defer_frame (s : State) (q lines : Nat) (e : Deferred) : (s.defer q lines e).mem = s.mem ∧ (s.defer q lines e).boot = s.boot := by
  simp [State.defer]

@[simp ↓] theorem State.sendWatch_frame (s : State) (it : WatchItem) : (s.sendWatch it).mem = s.mem ∧ (s.sendWatch it).boot = s.boot := by
  unfold State.sendWatch
  split <;> exact ⟨rfl, rfl⟩

@[simp ↓] theorem State.watchReq_frame (s : State) (it : WatchItem) : (s.watchReq it).mem = s.mem ∧ (s.watchReq it).boot = s.boot := by
  simp [State.watchReq]

@[simp ↓] theorem State.hearUnwatch_frame (s : State) (c core tag : Nat) : (s.hearUnwatch c core tag).mem = s.mem ∧ (s.hearUnwatch c core tag).boot = s.boot := by
  refine State.foldl_frame (fun u x => ?_) _ _
  split <;> simp

@[simp ↓] theorem State.pollAsked_frame (s : State) (c op : Nat) : (s.pollAsked c op).mem = s.mem ∧ (s.pollAsked c op).boot = s.boot := by
  unfold State.pollAsked
  split <;> exact ⟨rfl, rfl⟩

@[simp ↓] theorem State.dropWatch_frame (s : State) (op : Nat) : (s.dropWatch op).mem = s.mem ∧ (s.dropWatch op).boot = s.boot := ⟨rfl, rfl⟩

@[simp ↓] theorem State.release1_frame (s : State) (p : Pos) : (s.release1 p).mem = s.mem ∧ (s.release1 p).boot = s.boot := by
  simp [State.release1]

@[simp ↓] theorem State.form_frame (s : State) (leader : Pos) (arrived : List Pos) :
    (s.form leader arrived).mem = s.mem ∧ (s.form leader arrived).boot = s.boot := by
  simp [State.form]

/-! ### Message: what leaves the memories alone -/

@[simp ↓] theorem State.count_frame (s : State) (c : Nat) (lnch : Word) (f : Counters → Counters) :
    (s.count c lnch f).mem = s.mem ∧ (s.count c lnch f).boot = s.boot := ⟨rfl, rfl⟩

@[simp ↓] theorem State.sends_frame (s : State) (p : Pos) (num : Nat) (lnch : Word) (pkg : Nat) (f : Counters → Counters) :
    (s.sends p num lnch pkg f).mem = s.mem ∧ (s.sends p num lnch pkg f).boot = s.boot := ⟨rfl, rfl⟩

@[simp ↓] theorem State.answered_frame (s : State) (c num : Nat) (f : Counters → Counters) :
    (s.answered c num f).mem = s.mem ∧ (s.answered c num f).boot = s.boot := by
  unfold State.answered
  split <;> exact ⟨rfl, rfl⟩

@[simp ↓] theorem State.sendMsg_frame (s : State) (it : MsgItem) : (s.sendMsg it).mem = s.mem ∧ (s.sendMsg it).boot = s.boot := by
  unfold State.sendMsg
  split <;> exact ⟨rfl, rfl⟩

@[simp ↓] theorem State.answerMsg_frame (s : State) (it : MsgItem) (core : Nat) (a : MsgAns) :
    (s.answerMsg it core a).mem = s.mem ∧ (s.answerMsg it core a).boot = s.boot := by
  unfold State.answerMsg
  split <;> exact ⟨rfl, rfl⟩

@[simp ↓] theorem State.mailFreed_frame (s : State) (c core : Nat) : (s.mailFreed c core).mem = s.mem ∧ (s.mailFreed c core).boot = s.boot := by
  unfold State.mailFreed
  dsimp only
  split <;> simp

@[simp ↓] theorem State.deliverMsg_frame (s : State) (q : Pos) (body : List Word) :
    (s.deliverMsg q body).mem = s.mem ∧ (s.deliverMsg q body).boot = s.boot := by
  unfold State.deliverMsg
  dsimp only
  split <;> simp

@[simp ↓] theorem State.unstallCore_frame (s : State) (c n : Nat) : (s.unstallCore c n).mem = s.mem ∧ (s.unstallCore c n).boot = s.boot := by
  simp [State.unstallCore]

@[simp ↓] theorem State.statusTo_frame (s : State) (p : Pos) (r : Reg) (v : Word) : (s.statusTo p r v).mem = s.mem ∧ (s.statusTo p r v).boot = s.boot := by
  simp [State.statusTo]

@[simp ↓] theorem State.liveAnswer_frame (s : State) (p : Pos) (num : Nat) (a : MsgAns) :
    (s.liveAnswer p num a).mem = s.mem ∧ (s.liveAnswer p num a).boot = s.boot := by
  unfold State.liveAnswer
  dsimp only
  repeat' split
  all_goals simp

@[simp ↓] theorem State.liveEnq_frame (s : State) (p : Pos) (num status : Nat) :
    (s.liveEnq p num status).mem = s.mem ∧ (s.liveEnq p num status).boot = s.boot := by
  unfold State.liveEnq
  dsimp only
  split <;> simp

/-! ### Plane: what leaves the memories alone -/

@[simp ↓] theorem State.writeEntry_frame (s : State) (bank id : Nat) (e : Option (List Byte)) :
    (s.writeEntry bank id e).mem = s.mem ∧ (s.writeEntry bank id e).boot = s.boot := ⟨rfl, rfl⟩

@[simp ↓] theorem State.sealDrain_frame (s : State) (c : Nat) : (s.sealDrain c).mem = s.mem ∧ (s.sealDrain c).boot = s.boot := by
  simp [State.sealDrain]

@[simp ↓] theorem State.cmdEnds_frame (s : State) (c tile : Nat) (m : MatCmd) (code : Byte) : (s.cmdEnds c tile m code).mem = s.mem ∧ (s.cmdEnds c tile m code).boot = s.boot := by
  unfold State.cmdEnds
  dsimp only
  split <;> simp

@[simp ↓] theorem State.convertB_frame (s : State) (c tile : Nat) (m : MatCmd) : (s.convertB c tile m).mem = s.mem ∧ (s.convertB c tile m).boot = s.boot := by
  unfold State.convertB
  dsimp only
  split
  · exact State.frame_trans (State.sealDrain_frame ..) ⟨rfl, rfl⟩
  · exact ⟨rfl, rfl⟩

/-! ### Record: what leaves the memories alone -/

@[simp ↓] theorem State.modQueue_frame (s : State) (q : Nat) (f : Queue → Queue) : (s.modQueue q f).mem = s.mem ∧ (s.modQueue q f).boot = s.boot := ⟨rfl, rfl⟩

@[simp ↓] theorem State.modLaunch_frame (s : State) (k : Nat × Nat) (f : Launch → Launch) :
    (s.modLaunch k f).mem = s.mem ∧ (s.modLaunch k f).boot = s.boot := ⟨rfl, rfl⟩

@[simp ↓] theorem State.sendMsix_frame (s : State) (fn vec : Nat) : (s.sendMsix fn vec).mem = s.mem ∧ (s.sendMsix fn vec).boot = s.boot := by
  unfold State.sendMsix
  split <;> exact ⟨rfl, rfl⟩

/-! ### Keys: what leaves the memories alone -/

@[simp ↓] theorem State.setKsWin_frame (s : State) (fn : Nat) (w : KsWin) : (s.setKsWin fn w).mem = s.mem ∧ (s.setKsWin fn w).boot = s.boot := ⟨rfl, rfl⟩

@[simp ↓] theorem State.ksEnd_frame (s : State) (fn : Nat) (err : Bool) : (s.ksEnd fn err).mem = s.mem ∧ (s.ksEnd fn err).boot = s.boot := ⟨rfl, rfl⟩

@[simp ↓] theorem State.ksCommand_frame (s : State) (fn : Nat) (ok : KsWin → Bool) {effect : KsWin → State → State}
    (he : ∀ w u, (effect w u).mem = u.mem ∧ (effect w u).boot = u.boot) : (s.ksCommand fn ok effect).mem = s.mem ∧ (s.ksCommand fn ok effect).boot = s.boot := by
  unfold State.ksCommand
  dsimp only
  split <;> simp [he]

@[simp ↓] theorem State.setKeySlot_frame (s : State) (k : Nat) (r : KeySlot) : (s.setKeySlot k r).mem = s.mem ∧ (s.setKeySlot k r).boot = s.boot := ⟨rfl, rfl⟩

@[simp ↓] theorem State.keyBit_frame (s : State) (fn slot : Nat) (on : Bool) : (s.keyBit fn slot on).mem = s.mem ∧ (s.keyBit fn slot on).boot = s.boot := by
  refine State.foldl_frame (fun u c => ?_) _ _
  split <;> exact ⟨rfl, rfl⟩

@[simp ↓] theorem State.uncacheKey_frame (s : State) (slot fn : Nat) : (s.uncacheKey slot fn).mem = s.mem ∧ (s.uncacheKey slot fn).boot = s.boot := ⟨rfl, rfl⟩

@[simp ↓] theorem State.grantKey_frame (s : State) (slot fn : Nat) (key : List Byte) : (s.grantKey slot fn key).mem = s.mem ∧ (s.grantKey slot fn key).boot = s.boot := by
  unfold State.grantKey
  simp

@[simp ↓] theorem State.ksCreate_frame (s : State) (fn : Nat) : (s.ksCreate fn).mem = s.mem ∧ (s.ksCreate fn).boot = s.boot := by
  simp [State.ksCreate]

@[simp ↓] theorem State.ksImport_frame (s : State) (fn : Nat) (buf : List Byte) : (s.ksImport fn buf).mem = s.mem ∧ (s.ksImport fn buf).boot = s.boot := by
  simp [State.ksImport]

@[simp ↓] theorem State.ksExport_frame (s : State) (fn : Nat) : (s.ksExport fn).mem = s.mem ∧ (s.ksExport fn).boot = s.boot := by
  simp [State.ksExport]

@[simp ↓] theorem State.ksOffer_frame (s : State) (fn : Nat) : (s.ksOffer fn).mem = s.mem ∧ (s.ksOffer fn).boot = s.boot := by
  simp [State.ksOffer]

@[simp ↓] theorem State.ksDrained_frame (s : State) (code : Nat) (ev : Instr) (holder : KsCmd → Nat) {effect : KsCmd → State → State}
    (he : ∀ r u, (effect r u).mem = u.mem ∧ (effect r u).boot = u.boot) : (s.ksDrained code ev holder effect).mem = s.mem ∧ (s.ksDrained code ev holder effect).boot = s.boot := by
  unfold State.ksDrained
  split <;> simp [he]

@[simp ↓] theorem State.ksSimport_frame (s : State) (fn : Nat) (buf : List Byte) : (s.ksSimport fn buf).mem = s.mem ∧ (s.ksSimport fn buf).boot = s.boot := by
  simp [State.ksSimport]

@[simp ↓] theorem State.sealRefusal_frame (s : State) (fn slot : Nat) (on : Bool) :
    (s.sealRefusal fn slot on).mem = s.mem ∧ (s.sealRefusal fn slot on).boot = s.boot := by
  refine State.foldl_frame (fun u c => ?_) _ _
  split <;> exact ⟨rfl, rfl⟩

@[simp ↓] theorem State.ksSerase_frame (s : State) (fn : Nat) : (s.ksSerase fn).mem = s.mem ∧ (s.ksSerase fn).boot = s.boot := by
  simp [State.ksSerase]

@[simp ↓] theorem State.sealErase_frame (s : State) (fn slot : Nat) : (s.sealErase fn slot).mem = s.mem ∧ (s.sealErase fn slot).boot = s.boot := by
  unfold State.sealErase
  simp

@[simp ↓] theorem State.zeroCaches_frame (s : State) (c : Nat) : (s.zeroCaches c).mem = s.mem ∧ (s.zeroCaches c).boot = s.boot := ⟨rfl, rfl⟩

/-! ### Boot: what leaves the memories alone -/

@[simp ↓] theorem State.modFab_frame (s : State) (f : Fabric → Fabric) : (s.modFab f).mem = s.mem ∧ (s.modFab f).boot = s.boot := ⟨rfl, rfl⟩

@[simp ↓] theorem State.loadPlan_frame (s : State) : s.loadPlan.mem = s.mem ∧ s.loadPlan.boot = s.boot := by
  simp [State.loadPlan]

/-! ### Fabric: what leaves the memories alone -/

@[simp ↓] theorem State.meetFloors_frame (s : State) : s.meetFloors.mem = s.mem ∧ s.meetFloors.boot = s.boot := by
  simp [State.meetFloors]

@[simp ↓] theorem State.offerLanes_frame (s : State) (id : Nat) (l : Lease) (anew : Bool) :
    (s.offerLanes id l anew).mem = s.mem ∧ (s.offerLanes id l anew).boot = s.boot := ⟨rfl, rfl⟩

@[simp ↓] theorem State.lanesFreed_frame (s : State) (lanes : List Nat) : (s.lanesFreed lanes).mem = s.mem ∧ (s.lanesFreed lanes).boot = s.boot := by
  simp [State.lanesFreed]

@[simp ↓] theorem State.trainFail_frame (s : State) (p : Nat) : (s.trainFail p).mem = s.mem ∧ (s.trainFail p).boot = s.boot := ⟨rfl, rfl⟩

@[simp ↓] theorem State.newKeys_frame (s : State) (p : Nat) (secret : List Byte) : (s.newKeys p secret).mem = s.mem ∧ (s.newKeys p secret).boot = s.boot := ⟨rfl, rfl⟩

@[simp ↓] theorem State.undead_frame (s : State) (p : Nat) : (s.undead p).mem = s.mem ∧ (s.undead p).boot = s.boot := ⟨rfl, rfl⟩

@[simp ↓] theorem State.reportState_frame (s : State) (p : Nat) (dead up : List Nat) :
    (s.reportState p dead up).mem = s.mem ∧ (s.reportState p dead up).boot = s.boot := by
  simp [State.reportState]

/-- The partner has reached WINDOWS (R27). -/
def State.atWindows (s : State) (p : Nat) : State := s.modFab (fun f => f.modPartner p (fun x => { x with st := .windows }))
/-- The partner is UP with the routes admitted, before its dead-peer bit clears. -/
def State.cameUp (s : State) (p : Nat) (us : List (Route × Nat)) : State :=
  (s.atWindows p).modFab (fun f => { f.modPartner p (fun x => { x with st := .up, usable := us, heard := s.clk, darkSince := none }) with
      colours := f.colours.filter (fun e => e.1.2 ≠ p), rx := f.rx.filter (fun e => e.1.1 ≠ p) })

/-- What partnerUp does in each outcome of the window check. Its definition is unfolded as a constant: checked at an argument, the kernel would
run the check's subtraction of a store's bytes in unary. -/
theorem State.partnerUp_cases (s : State) (p : Nat) :
    ((s.atWindows p).fabric.admitted p = none ∧ s.partnerUp p = (s.atWindows p).trainFail p) ∨
    ∃ us, (s.atWindows p).fabric.admitted p = some us ∧ s.partnerUp p = (((s.cameUp p us).undead p).reportState p [] [p]).meetFloors := by
  suffices h : ∀ f, f = State.partnerUp → ((s.atWindows p).fabric.admitted p = none ∧ f s p = (s.atWindows p).trainFail p) ∨
      ∃ us, (s.atWindows p).fabric.admitted p = some us ∧ f s p = (((s.cameUp p us).undead p).reportState p [] [p]).meetFloors from h _ rfl
  intro f hf
  delta State.partnerUp at hf
  subst hf
  beta_reduce
  extract_lets s1
  change (s1.fabric.admitted p = none ∧ _) ∨ ∃ us, s1.fabric.admitted p = some us ∧ _
  generalize s1.fabric.admitted p = o
  cases o with
  | none => exact .inl ⟨rfl, rfl⟩
  | some us => exact .inr ⟨us, rfl, rfl⟩

@[simp ↓] theorem State.partnerUp_frame (s : State) (p : Nat) : (s.partnerUp p).mem = s.mem ∧ (s.partnerUp p).boot = s.boot := by
  obtain ⟨-, h⟩ | ⟨us, -, h⟩ := s.partnerUp_cases p
  · rw [h]
    exact State.frame_trans (State.trainFail_frame ..) ⟨rfl, rfl⟩
  · rw [h]
    exact State.frame_trans (State.meetFloors_frame _) (State.frame_trans (State.reportState_frame ..) (State.frame_trans (State.undead_frame ..) ⟨rfl, rfl⟩))

@[simp ↓] theorem State.emit_frame (s : State) (x : SentFlit) : (s.emit x).mem = s.mem ∧ (s.emit x).boot = s.boot := ⟨rfl, rfl⟩

@[simp ↓] theorem State.sendCtl_frame (s : State) (p : Nat) (kind : FlitKind) (lane : Option Nat) (acol aseq : Nat) :
    (s.sendCtl p kind lane acol aseq).mem = s.mem ∧ (s.sendCtl p kind lane acol aseq).boot = s.boot := by
  unfold State.sendCtl
  split <;> exact ⟨rfl, rfl⟩

@[simp ↓] theorem State.sendAck_frame (s : State) (p lane : Nat) : (s.sendAck p lane).mem = s.mem ∧ (s.sendAck p lane).boot = s.boot := by
  simp [State.sendAck]

@[simp ↓] theorem State.resend_frame (s : State) (lane p : Nat) : (s.resend lane p).mem = s.mem ∧ (s.resend lane p).boot = s.boot := ⟨rfl, rfl⟩

@[simp ↓] theorem State.seeDark_frame (s : State) (p : Nat) : (s.seeDark p).mem = s.mem ∧ (s.seeDark p).boot = s.boot := ⟨rfl, rfl⟩

@[simp ↓] theorem State.darken_frame (s : State) (lane p : Nat) : (s.darken lane p).mem = s.mem ∧ (s.darken lane p).boot = s.boot := ⟨rfl, rfl⟩

@[simp ↓] theorem State.resendOrDark_frame (s : State) (lane p : Nat) : (s.resendOrDark lane p).mem = s.mem ∧ (s.resendOrDark lane p).boot = s.boot := by
  simp [State.resendOrDark]

@[simp ↓] theorem State.closeLane_frame (s : State) (lane p : Nat) : (s.closeLane lane p).mem = s.mem ∧ (s.closeLane lane p).boot = s.boot := by
  simp [State.closeLane]

@[simp ↓] theorem State.acked_frame (s : State) (p lane n : Nat) : (s.acked p lane n).mem = s.mem ∧ (s.acked p lane n).boot = s.boot := by
  simp [State.acked]

@[simp ↓] theorem State.naked_frame (s : State) (p lane n : Nat) : (s.naked p lane n).mem = s.mem ∧ (s.naked p lane n).boot = s.boot := by
  simp [State.naked]

@[simp ↓] theorem State.deliverItem_frame (s : State) (it : Item) : (s.deliverItem it).mem = s.mem ∧ (s.deliverItem it).boot = s.boot := by
  unfold State.deliverItem
  split <;> exact ⟨rfl, rfl⟩

@[simp ↓] theorem State.inFlow_frame (s : State) (it : Item) : (s.inFlow it).1.mem = s.mem ∧ (s.inFlow it).1.boot = s.boot := by
  unfold State.inFlow
  dsimp only
  repeat' split
  all_goals simp

@[simp ↓] theorem State.bounce_frame (s : State) (it : Item) : (s.bounce it).mem = s.mem ∧ (s.bounce it).boot = s.boot := by
  unfold State.bounce
  split <;> exact ⟨rfl, rfl⟩

@[simp ↓] theorem State.takeFlit_frame (s : State) (l : List Item) : (s.takeFlit l).1.mem = s.mem ∧ (s.takeFlit l).1.boot = s.boot := by
  induction l generalizing s with
  | nil => exact ⟨rfl, rfl⟩
  | cons it rest ih =>
    unfold State.takeFlit
    split
    · dsimp only
      split <;> simp [ih]
    · simp [ih]

@[simp ↓] theorem State.drainBuffer_frame (s : State) (p n : Nat) : (s.drainBuffer p n).mem = s.mem ∧ (s.drainBuffer p n).boot = s.boot := by
  induction n generalizing s with
  | zero => exact ⟨rfl, rfl⟩
  | succ n ih =>
    refine State.frame_trans (ih _) ?_
    exact List.foldlRecOn (motive := fun a : State × List (List Item) => a.1.mem = s.mem ∧ a.1.boot = s.boot) _ _ ⟨rfl, rfl⟩
      (fun a ha l _ => State.frame_trans (a.1.takeFlit_frame l) ha)

@[simp ↓] theorem State.heardFlit_frame (s : State) (p : Nat) (x : HeardFlit) : (s.heardFlit p x).mem = s.mem ∧ (s.heardFlit p x).boot = s.boot := by
  simp [State.heardFlit]

/-! ### Coll: what leaves the memories alone -/

@[simp ↓] theorem State.setColl_frame (s : State) (cl : Nat) (c : Coll) : (s.setColl cl c).mem = s.mem ∧ (s.setColl cl c).boot = s.boot := ⟨rfl, rfl⟩

@[simp ↓] theorem State.collCancel_frame (s : State) (cl : Nat) (c : Coll) : (s.collCancel cl c).mem = s.mem ∧ (s.collCancel cl c).boot = s.boot := by
  simp [State.collCancel]

@[simp ↓] theorem State.collAsk_frame (s : State) (cl : Nat) (c : Coll) (w : CollPull × Nat × Nat) :
    (s.collAsk cl c w).1.mem = s.mem ∧ (s.collAsk cl c w).1.boot = s.boot := by
  unfold State.collAsk
  split <;> exact ⟨rfl, rfl⟩

@[simp ↓] theorem State.seqWalk_frame (s : State) (cl : Nat) (c : Coll) (sp : Space) (a : DWord) :
    (s.seqWalk cl c sp a).mem = s.mem ∧ (s.seqWalk cl c sp a).boot = s.boot := by
  simp [State.seqWalk]

@[simp ↓] theorem State.collUnit_frame (s : State) (cl id num unit : Nat) (l : List Byte) :
    (s.collUnit cl id num unit l).mem = s.mem ∧ (s.collUnit cl id num unit l).boot = s.boot := by
  unfold State.collUnit
  split <;> simp

/-! ### Fetch: what leaves the memories alone -/

@[simp ↓] theorem State.codeArrives_frame (s : State) (p : Pos) (unit key : Nat) (l : List Byte) :
    (s.codeArrives p unit key l).mem = s.mem ∧ (s.codeArrives p unit key l).boot = s.boot := ⟨rfl, rfl⟩

@[simp ↓] theorem State.issue_frame (s : State) (p : Pos) : (s.issue p).mem = s.mem ∧ (s.issue p).boot = s.boot := by
  simp [State.issue]

/-! ### Lease: what leaves the memories alone -/

@[simp ↓] theorem State.revoke_frame (s : State) (lanes : List Nat) (missing n : Nat) : (s.revoke lanes missing n).mem = s.mem ∧ (s.revoke lanes missing n).boot = s.boot := by
  induction n generalizing s missing with
  | zero => exact ⟨rfl, rfl⟩
  | succ n ih =>
    unfold State.revoke
    split
    · exact ⟨rfl, rfl⟩
    · split <;> simp [ih]

@[simp ↓] theorem State.endGrant_frame (s : State) (id : Nat) (g : Grant) : (s.endGrant id g).mem = s.mem ∧ (s.endGrant id g).boot = s.boot := by
  simp [State.endGrant]

@[simp ↓] theorem State.revokeFor_frame (s : State) (l : Lease) : (s.revokeFor l).mem = s.mem ∧ (s.revokeFor l).boot = s.boot := by
  simp [State.revokeFor]

@[simp ↓] theorem State.revokeWaiting_frame (s : State) : s.revokeWaiting.mem = s.mem ∧ s.revokeWaiting.boot = s.boot := by
  simp [State.revokeWaiting]

@[simp ↓] theorem State.sendLease_frame (s : State) (id : Nat) (l : Lease) : (s.sendLease id l).mem = s.mem ∧ (s.sendLease id l).boot = s.boot := by
  simp [State.sendLease]

theorem State.serveReq_frame {s v : State} {l : LeaseItem} (h : s.serveReq l = some v) : v.mem = s.mem ∧ v.boot = s.boot := by
  unfold State.serveReq at h
  dsimp only at h
  split at h
  · cases h
  · cases h
    simp

@[simp ↓] theorem State.serveWaiting_frame (s : State) : s.serveWaiting.mem = s.mem ∧ s.serveWaiting.boot = s.boot := by
  refine State.foldl_frame (fun u r => ?_) _ _
  split
  next v hv => simpa using u.serveReq_frame hv
  · exact ⟨rfl, rfl⟩

@[simp ↓] theorem State.requestCame_frame (s : State) (l : LeaseItem) : (s.requestCame l).mem = s.mem ∧ (s.requestCame l).boot = s.boot := ⟨rfl, rfl⟩

@[simp ↓] theorem State.quotaEnd_frame (s : State) (fn n : Nat) : (s.quotaEnd fn n).mem = s.mem ∧ (s.quotaEnd fn n).boot = s.boot := by
  induction n generalizing s with
  | zero => exact ⟨rfl, rfl⟩
  | succ n ih =>
    unfold State.quotaEnd
    split
    · exact ⟨rfl, rfl⟩
    · split <;> simp [ih]

@[simp ↓] theorem State.lowerFloors_frame (s : State) : s.lowerFloors.mem = s.mem ∧ s.lowerFloors.boot = s.boot := by
  simp [State.lowerFloors]

@[simp ↓] theorem State.trimGrant_frame (s : State) (id : Nat) (g : Grant) (n : Nat) :
    (s.trimGrant id g n).mem = s.mem ∧ (s.trimGrant id g n).boot = s.boot := by
  simp [State.trimGrant]

@[simp ↓] theorem State.releaseLeases_frame (s : State) (fn p : Nat) (all : Bool) (k n : Nat) :
    (s.releaseLeases fn p all k n).1.mem = s.mem ∧ (s.releaseLeases fn p all k n).1.boot = s.boot := by
  induction k generalizing s n with
  | zero => exact ⟨rfl, rfl⟩
  | succ k ih =>
    unfold State.releaseLeases
    split
    · exact ⟨rfl, rfl⟩
    · split <;> simp [ih]

/-! ### Owner: what leaves the memories alone -/

@[simp ↓] theorem State.dbgEnd_frame (s : State) (c : Nat) (code : Byte) (data : Option DWord) :
    (s.dbgEnd c code data).mem = s.mem ∧ (s.dbgEnd c code data).boot = s.boot := ⟨rfl, rfl⟩

@[simp ↓] theorem State.frontGot_frame (s : State) (q rid unit stamp : Nat) (l : List Byte) :
    (s.frontGot q rid unit stamp l).mem = s.mem ∧ (s.frontGot q rid unit stamp l).boot = s.boot := by
  simp [State.frontGot]

@[simp ↓] theorem State.dropRead_frame (s : State) (req : Nat) : (s.dropRead req).mem = s.mem ∧ (s.dropRead req).boot = s.boot := ⟨rfl, rfl⟩

@[simp ↓] theorem State.dropFor_frame (s : State) (gone : Nat → Bool) : (s.dropFor gone).mem = s.mem ∧ (s.dropFor gone).boot = s.boot := by
  simp [State.dropFor]

@[simp ↓] theorem State.dropLeases_frame (s : State) (p : Nat) : (s.dropLeases p).mem = s.mem ∧ (s.dropLeases p).boot = s.boot := by
  refine State.frame_trans (State.serveWaiting_frame _) ?_
  simp

/-! ### Retire: what leaves the memories alone -/

@[simp ↓] theorem State.modTeam_frame (s : State) (c slot : Nat) (f : Team → Team) :
    (s.modTeam c slot f).mem = s.mem ∧ (s.modTeam c slot f).boot = s.boot := ⟨rfl, rfl⟩

@[simp ↓] theorem State.roomFreed_frame (s : State) (cs : List Nat) : (s.roomFreed cs).mem = s.mem ∧ (s.roomFreed cs).boot = s.boot := by
  simp [State.roomFreed]

@[simp ↓] theorem State.cancelOp_frame (s : State) (op : Nat) : (s.cancelOp op).mem = s.mem ∧ (s.cancelOp op).boot = s.boot := by
  simp [State.cancelOp]

@[simp ↓] theorem State.cancelTeam_frame (s : State) (c slot : Nat) (t : Team) :
    (s.cancelTeam c slot t).mem = s.mem ∧ (s.cancelTeam c slot t).boot = s.boot := by
  simp [State.cancelTeam]

@[simp ↓] theorem State.clearCore_frame (s : State) (c n slot : Nat) (t : Team) :
    (s.clearCore c n slot t).mem = s.mem ∧ (s.clearCore c n slot t).boot = s.boot := by
  simp [State.clearCore]

@[simp ↓] theorem State.countSlot_frame (s : State) (c slot : Nat) : (s.countSlot c slot).mem = s.mem ∧ (s.countSlot c slot).boot = s.boot := ⟨rfl, rfl⟩

@[simp ↓] theorem State.freeBank_frame (s : State) (c : Nat) (l : Nat × Nat) : (s.freeBank c l).mem = s.mem ∧ (s.freeBank c l).boot = s.boot := by
  unfold State.freeBank
  split <;> exact ⟨rfl, rfl⟩

@[simp ↓] theorem State.countRetired_frame (s : State) (c : Nat) (l : Nat × Nat) (retc teams : Nat) :
    (s.countRetired c l retc teams).mem = s.mem ∧ (s.countRetired c l retc teams).boot = s.boot := ⟨rfl, rfl⟩

@[simp ↓] theorem State.deferEnd_frame (s : State) (c : Nat) (t : Team) : (s.deferEnd c t).mem = s.mem ∧ (s.deferEnd c t).boot = s.boot := by
  simp [State.deferEnd]

@[simp ↓] theorem State.dropXlate_frame (s : State) (q : Nat) : (s.dropXlate q).mem = s.mem ∧ (s.dropXlate q).boot = s.boot := by
  simp [State.dropXlate]

/-! ### Front: what leaves the memories alone -/

@[simp ↓] theorem State.queueFnWrite_frame (s : State) (q : Nat) (v : DWord) : (s.queueFnWrite q v).mem = s.mem ∧ (s.queueFnWrite q v).boot = s.boot := by
  simp [State.queueFnWrite]

@[simp ↓] theorem State.launchGone_frame (s : State) (l : Launch) : (s.launchGone l).mem = s.mem ∧ (s.launchGone l).boot = s.boot := by
  simp [State.launchGone]

@[simp ↓] theorem State.queueCreate_frame (s : State) (q : Nat) : (s.queueCreate q).mem = s.mem ∧ (s.queueCreate q).boot = s.boot := by
  simp [State.queueCreate]

@[simp ↓] theorem State.slotPassed_frame (s : State) (q : Nat) : (s.slotPassed q).mem = s.mem ∧ (s.slotPassed q).boot = s.boot := by
  unfold State.slotPassed
  split <;> exact ⟨rfl, rfl⟩

@[simp ↓] theorem State.queueResume_frame (s : State) (q : Nat) (skip : Bool) :
    (s.queueResume q skip).mem = s.mem ∧ (s.queueResume q skip).boot = s.boot := by
  simp [State.queueResume]

@[simp ↓] theorem State.offer_frame (s : State) (k : Nat × Nat) : (s.offer k).mem = s.mem ∧ (s.offer k).boot = s.boot := by
  unfold State.offer
  split <;> simp

@[simp ↓] theorem State.enqStatus_frame (s : State) (p : Pos) (num v : Nat) : (s.enqStatus p num v).mem = s.mem ∧ (s.enqStatus p num v).boot = s.boot := ⟨rfl, rfl⟩

@[simp ↓] theorem State.enqRecord_frame (s : State) (fn q : Nat) (rcd : List Byte) : (s.enqRecord fn q rcd).1.mem = s.mem ∧ (s.enqRecord fn q rcd).1.boot = s.boot := by
  unfold State.enqRecord
  dsimp only
  repeat' split
  all_goals exact ⟨rfl, rfl⟩

@[simp ↓] theorem State.grow_frame (s : State) (k : Nat × Nat) (n : Nat) : (s.grow k n).1.mem = s.mem ∧ (s.grow k n).1.boot = s.boot := by
  unfold State.grow
  repeat' split
  all_goals exact ⟨rfl, rfl⟩

@[simp ↓] theorem State.enqServe_frame (s : State) (p : Pos) (lnch : Word) (w : DWord) (rcd : List Byte) :
    (s.enqServe p lnch w rcd).1.mem = s.mem ∧ (s.enqServe p lnch w rcd).1.boot = s.boot := by
  unfold State.enqServe
  split <;> simp

@[simp ↓] theorem State.launchEnded_frame (s : State) (l : Launch) : (s.launchEnded l).mem = s.mem ∧ (s.launchEnded l).boot = s.boot := by
  simp [State.launchEnded]

/-! ### Placing: what leaves the memories alone -/

@[simp ↓] theorem State.placeTeam_frame (s : State) (c : Nat) (f : Fit) (l : Nat × Nat) (rcd img : List Byte) (index teamn : Nat) (deps : List (Nat × Nat)) (bast : Bool) :
    (s.placeTeam c f l rcd img index teamn deps bast).mem = s.mem ∧ (s.placeTeam c f l rcd img index teamn deps bast).boot = s.boot := by
  simp [State.placeTeam]

@[simp ↓] theorem State.giveTeam_frame (s : State) (l : Launch) (c : Nat) (f : Fit) : (s.giveTeam l c f).mem = s.mem ∧ (s.giveTeam l c f).boot = s.boot := by
  simp [State.giveTeam]

@[simp ↓] theorem State.beginOffers_frame (s : State) (l : List Launch) : (s.beginOffers l).mem = s.mem ∧ (s.beginOffers l).boot = s.boot := by
  simp [State.beginOffers]

/-! ### Basting: what leaves the memories alone -/

@[simp ↓] theorem State.baste0_frame (s : State) (q : Nat) : (s.baste0 q).mem = s.mem ∧ (s.baste0 q).boot = s.boot := ⟨rfl, rfl⟩

@[simp ↓] theorem State.basteReads_frame (s : State) (q : Nat) : (s.basteReads q).mem = s.mem ∧ (s.basteReads q).boot = s.boot := by
  unfold State.basteReads
  split <;> exact ⟨rfl, rfl⟩

@[simp ↓] theorem State.setBasting_frame (s : State) (q : Nat) (b : Basting) : (s.setBasting q b).mem = s.mem ∧ (s.setBasting q b).boot = s.boot := ⟨rfl, rfl⟩

@[simp ↓] theorem State.replayed_frame (s : State) (k : Nat × Nat) (e : Deferred) : (s.replayed k e).mem = s.mem ∧ (s.replayed k e).boot = s.boot := by
  simp [State.replayed]

@[simp ↓] theorem State.replaySend_frame (s : State) (k : Nat × Nat) (it : MsgItem) :
    (s.replaySend k it).mem = s.mem ∧ (s.replaySend k it).boot = s.boot := by
  simp [State.replaySend]

@[simp ↓] theorem State.replayOn_frame (s : State) (k : Nat × Nat) (n : Nat) : (s.replayOn k n).mem = s.mem ∧ (s.replayOn k n).boot = s.boot := by
  induction n generalizing s with
  | zero => exact ⟨rfl, rfl⟩
  | succ n ih =>
    unfold State.replayOn
    split
    · exact ⟨rfl, rfl⟩
    · split
      · simp [ih]
      · simp
      · dsimp only
        split <;> simp [ih]

@[simp ↓] theorem State.countReplay_frame (s : State) (k : Nat × Nat) (l : Deferred) :
    (s.countReplay k l).mem = s.mem ∧ (s.countReplay k l).boot = s.boot := by
  unfold State.countReplay
  split <;> exact ⟨rfl, rfl⟩

@[simp ↓] theorem State.replayAnswer_frame (s : State) (p : Pos) (num : Nat) (a : MsgAns) :
    (s.replayAnswer p num a).mem = s.mem ∧ (s.replayAnswer p num a).boot = s.boot := by
  unfold State.replayAnswer
  repeat' split
  all_goals simp

/-! ### Service: what leaves the memories alone -/

@[simp ↓] theorem State.tuInvCmd_frame (s : State) (cmd : Nat) : (s.tuInvCmd cmd).mem = s.mem ∧ (s.tuInvCmd cmd).boot = s.boot := by
  simp [State.tuInvCmd]

@[simp ↓] theorem State.dbgBusy_frame (s : State) (c : Nat) (cmd : Option (Bool × Nat × DWord)) :
    (s.dbgBusy c cmd).mem = s.mem ∧ (s.dbgBusy c cmd).boot = s.boot := ⟨rfl, rfl⟩

/-! ### Preempt: what leaves the memories alone -/

@[simp ↓] theorem State.preAccept_frame (s : State) (c : Nat) (v : DWord) (state run : Nat) :
    (s.preAccept c v state run).mem = s.mem ∧ (s.preAccept c v state run).boot = s.boot := ⟨rfl, rfl⟩

@[simp ↓] theorem State.preWrite_frame (s : State) (fn c : Nat) {f : State → State} (hf : ∀ u, (f u).mem = u.mem ∧ (f u).boot = u.boot) :
    (s.preWrite fn c f).mem = s.mem ∧ (s.preWrite fn c f).boot = s.boot := by
  unfold State.preWrite
  split
  · exact ⟨rfl, rfl⟩
  · split <;> simp [hf]

@[simp ↓] theorem State.haltFor_frame (s : State) (p : Pos) : (s.haltFor p).mem = s.mem ∧ (s.haltFor p).boot = s.boot := by
  unfold State.haltFor
  split <;> simp

@[simp ↓] theorem State.preSave_frame (s : State) (fn c : Nat) (v : DWord) : (s.preSave fn c v).mem = s.mem ∧ (s.preSave fn c v).boot = s.boot := by
  refine State.preWrite_frame s fn c (fun u => ?_)
  split
  · simp
  · split <;> simp

@[simp ↓] theorem State.unlist_frame (s : State) (p : Pos) : (s.unlist p).mem = s.mem ∧ (s.unlist p).boot = s.boot := ⟨rfl, rfl⟩

@[simp ↓] theorem State.saveLost_frame (s : State) (c : Nat) (t : Team) : (s.saveLost c t).mem = s.mem ∧ (s.saveLost c t).boot = s.boot := by
  simp [State.saveLost]

@[simp ↓] theorem State.preResume_frame (s : State) (fn c : Nat) (v : DWord) : (s.preResume fn c v).mem = s.mem ∧ (s.preResume fn c v).boot = s.boot := by
  simp [State.preResume]

/-! ### Reset: what leaves the memories alone -/

@[simp ↓] theorem State.resetOps_frame (s : State) (f : Nat) (cs : List Nat) : (s.resetOps f cs).mem = s.mem ∧ (s.resetOps f cs).boot = s.boot := by
  simp [State.resetOps]

@[simp ↓] theorem State.freeSenders_frame (s : State) (c : Nat) : (s.freeSenders c).mem = s.mem ∧ (s.freeSenders c).boot = s.boot := by
  simp [State.freeSenders]

@[simp ↓] theorem State.resetKeys_frame (s : State) (f : Nat) : (s.resetKeys f).mem = s.mem ∧ (s.resetKeys f).boot = s.boot := by
  unfold State.resetKeys
  dsimp only
  split <;> simp

@[simp ↓] theorem State.resetXlate_frame (s : State) (c : Nat) : (s.resetXlate c).mem = s.mem ∧ (s.resetXlate c).boot = s.boot := ⟨rfl, rfl⟩

@[simp ↓] theorem State.resetQueue_frame (s : State) (q : Nat) : (s.resetQueue q).mem = s.mem ∧ (s.resetQueue q).boot = s.boot := by
  simp [State.resetQueue]

@[simp ↓] theorem State.resetDone_frame (s : State) (f : Nat) : (s.resetDone f).mem = s.mem ∧ (s.resetDone f).boot = s.boot := by
  unfold State.resetDone
  split <;> exact ⟨rfl, rfl⟩

@[simp ↓] theorem State.resets_frame (s : State) (fs : List Nat) : (s.resets fs).mem = s.mem ∧ (s.resets fs).boot = s.boot := by
  simp [State.resets]

@[simp ↓] theorem State.markPoison_frame (s : State) (line : Nat) : (s.markPoison line).mem = s.mem ∧ (s.markPoison line).boot = s.boot := by
  unfold State.markPoison
  split <;> exact ⟨rfl, rfl⟩

/-! ### Snap: what leaves the memories alone -/

@[simp ↓] theorem State.setSnap_frame (s : State) (fn : Nat) (w : Snap) : (s.setSnap fn w).mem = s.mem ∧ (s.setSnap fn w).boot = s.boot := ⟨rfl, rfl⟩

@[simp ↓] theorem State.snapEnd_frame (s : State) (fn : Nat) (err : Bool) (code : Byte) :
    (s.snapEnd fn err code).mem = s.mem ∧ (s.snapEnd fn err code).boot = s.boot := ⟨rfl, rfl⟩

@[simp ↓] theorem State.snapCommand_frame (s : State) (fn : Nat) (ok : Snap → Bool) {effect : State → State}
    (he : ∀ u, (effect u).mem = u.mem ∧ (effect u).boot = u.boot) : (s.snapCommand fn ok effect).mem = s.mem ∧ (s.snapCommand fn ok effect).boot = s.boot := by
  unfold State.snapCommand
  dsimp only
  split
  · exact ⟨rfl, rfl⟩
  · split <;> simp [he]

@[simp ↓] theorem State.snapMove_frame (s : State) (fn cmd : Nat) : (s.snapMove fn cmd).mem = s.mem ∧ (s.snapMove fn cmd).boot = s.boot := ⟨rfl, rfl⟩

@[simp ↓] theorem State.snapCopy_frame (s : State) (fn : Nat) : (s.snapCopy fn).mem = s.mem ∧ (s.snapCopy fn).boot = s.boot := by
  simp [State.snapCopy]

@[simp ↓] theorem State.copyLines_frame (s : State) (fn : Nat) (dst : DWord) (line n : Nat) :
    (s.copyLines fn dst line n).1.mem = s.mem ∧ (s.copyLines fn dst line n).1.boot = s.boot := by
  induction n generalizing s dst line with
  | zero => exact ⟨rfl, rfl⟩
  | succ n ih =>
    unfold State.copyLines
    split
    · exact ⟨rfl, rfl⟩
    · simp [ih]

@[simp ↓] theorem State.snapRestore_frame (s : State) (fn : Nat) : (s.snapRestore fn).mem = s.mem ∧ (s.snapRestore fn).boot = s.boot := by
  simp [State.snapRestore]

@[simp ↓] theorem State.snapRelease_frame (s : State) (f : Nat) : (s.snapRelease f).mem = s.mem ∧ (s.snapRelease f).boot = s.boot := by
  simp [State.snapRelease]

end Sys2Proof.Machine

namespace Sys2Proof.Machine

/-! ### Canonical memories -/

/-- A memory of the package and the memories of its management core are in canonical form. -/
def Canonical (m : List Host.Cell) (b : Boot) : Prop :=
  memWf m = true ∧ memWf b.sram = true ∧ memWf b.flashA = true ∧ memWf b.flashB = true

@[simp ↓] abbrev State.Sound (s : State) : Prop := Canonical s.mem s.boot

@[simp] theorem Canonical.ite (c : Prop) [Decidable c] (m m' : List Host.Cell) (b b' : Boot) :
    Canonical (if c then m else m') (if c then b else b') ↔ if c then Canonical m b else Canonical m' b' := by split <;> rfl

theorem State.ite_sound {c : Prop} [Decidable c] {t u : State} (ht : t.Sound) (hu : u.Sound) : (if c then t else u).Sound := by
  split
  · exact ht
  · exact hu

theorem State.foldl_sound {α : Type} {f : State → α → State} (hf : ∀ u x, u.Sound → (f u x).Sound) {s : State} (h : s.Sound) (l : List α) : (l.foldl f s).Sound := by
  induction l generalizing s with
  | nil => exact h
  | cons x l ih => exact ih (hf s x h)

theorem State.Sound.frame {s t : State} (h : s.Sound) (e : t.mem = s.mem ∧ t.boot = s.boot) : t.Sound := by
  rw [State.Sound, e.1, e.2]
  exact h

theorem State.drew_frame (s : State) : s.drew.mem = s.mem ∧ s.drew.boot = s.boot := ⟨rfl, rfl⟩

theorem State.block_frame (s : State) (p : Pos) (w : Wait) : (s.block p w).mem = s.mem ∧ (s.block p w).boot = s.boot := by simp

/-! The results that carry a state: what each of them says of it. -/

def Eff.Sound : Eff → Prop
  | .done t | .jump t _ | .ret t | .wait t _ | .final t => t.Sound
  | .trap .. | .trapTo .. | .stop _ => True

@[simp ↓] theorem Eff.sound_iff :
    (∀ (t : State), (Eff.done t).Sound ↔ t.Sound) ∧ (∀ (t : State) (npc : DWord), (Eff.jump t npc).Sound ↔ t.Sound) ∧
    (∀ (t : State), (Eff.ret t).Sound ↔ t.Sound) ∧ (∀ (t : State) (w : Wait), (Eff.wait t w).Sound ↔ t.Sound) ∧
    (∀ (t : State), (Eff.final t).Sound ↔ t.Sound) ∧ (∀ (code : Byte) (xaddr : DWord) (xinfo : Word), (Eff.trap code xaddr xinfo).Sound) ∧
    (∀ (code : Byte) (xaddr : DWord) (xinfo : Word) (xpc : DWord), (Eff.trapTo code xaddr xinfo xpc).Sound) ∧
    (∀ (f : Fault), (Eff.stop f).Sound) :=
  ⟨fun _ => Iff.rfl, fun _ _ => Iff.rfl, fun _ => Iff.rfl, fun _ _ => Iff.rfl, fun _ => Iff.rfl, fun _ _ _ => trivial, fun _ _ _ _ => trivial, fun _ => trivial⟩

def Acc.Sound : Acc → Prop
  | .ok .. => True
  | .eff e => e.Sound

@[simp ↓] theorem Acc.sound_iff :
    (∀ (pa : Nat) (x : TlbEntry), (Acc.ok pa x).Sound) ∧ (∀ (e : Eff), (Acc.eff e).Sound ↔ e.Sound) :=
  ⟨fun _ _ => trivial, fun _ => Iff.rfl⟩

def QuietRes.Sound : QuietRes → Prop
  | .ok .. => True
  | .wait t | .fail t _ => t.Sound

@[simp ↓] theorem QuietRes.sound_iff :
    (∀ (pa : Nat) (x : TlbEntry), (QuietRes.ok pa x).Sound) ∧ (∀ (t : State), (QuietRes.wait t).Sound ↔ t.Sound) ∧
    (∀ (t : State) (code : Byte), (QuietRes.fail t code).Sound ↔ t.Sound) :=
  ⟨fun _ _ => trivial, fun _ => Iff.rfl, fun _ _ => Iff.rfl⟩

def FetchOut.Sound : FetchOut → Prop
  | .fail t _ | .wait t _ | .have_ t _ => t.Sound

@[simp ↓] theorem FetchOut.sound_iff :
    (∀ (t : State) (code : Byte), (FetchOut.fail t code).Sound ↔ t.Sound) ∧
    (∀ (t : State) (m : MatCmd), (FetchOut.wait t m).Sound ↔ t.Sound) ∧ (∀ (t : State) (m : MatCmd), (FetchOut.have_ t m).Sound ↔ t.Sound) :=
  ⟨fun _ _ => Iff.rfl, fun _ _ => Iff.rfl, fun _ _ => Iff.rfl⟩

def SrcRead.Sound : SrcRead → Prop
  | .fail t _ | .wait t _ | .have_ t _ => t.Sound

@[simp ↓] theorem SrcRead.sound_iff :
    (∀ (t : State) (code : Byte), (SrcRead.fail t code).Sound ↔ t.Sound) ∧ (∀ (t : State) (c : Coll), (SrcRead.wait t c).Sound ↔ t.Sound) ∧
    (∀ (t : State) (c : Coll), (SrcRead.have_ t c).Sound ↔ t.Sound) :=
  ⟨fun _ _ => Iff.rfl, fun _ _ => Iff.rfl, fun _ _ => Iff.rfl⟩

def SeqPages.Sound : SeqPages → Prop
  | .ok _ => True
  | .wait t | .fail t _ => t.Sound

@[simp ↓] theorem SeqPages.sound_iff :
    (∀ (m : PageMap), (SeqPages.ok m).Sound) ∧ (∀ (t : State), (SeqPages.wait t).Sound ↔ t.Sound) ∧
    (∀ (t : State) (code : Byte), (SeqPages.fail t code).Sound ↔ t.Sound) :=
  ⟨fun _ => trivial, fun _ => Iff.rfl, fun _ _ => Iff.rfl⟩

def TableRead.Sound : TableRead → Prop
  | .ok _ | .trap _ => True
  | .wait t => t.Sound

@[simp ↓] theorem TableRead.sound_iff :
    (∀ (l : List (List Byte)), (TableRead.ok l).Sound) ∧ (∀ (t : State), (TableRead.wait t).Sound ↔ t.Sound) ∧
    (∀ (code : Byte), (TableRead.trap code).Sound) :=
  ⟨fun _ => trivial, fun _ => Iff.rfl, fun _ => trivial⟩

def Fetched.Sound : Fetched → Prop
  | .half .. | .trap .. => True
  | .wait t _ => t.Sound

@[simp ↓] theorem Fetched.sound_iff :
    (∀ (lo : Byte) (hi : Byte), (Fetched.half lo hi).Sound) ∧ (∀ (t : State) (w : Wait), (Fetched.wait t w).Sound ↔ t.Sound) ∧
    (∀ (code : Byte) (xaddr : DWord), (Fetched.trap code xaddr).Sound) :=
  ⟨fun _ _ => trivial, fun _ _ => Iff.rfl, fun _ _ => trivial⟩

def FetchedInstr.Sound : FetchedInstr → Prop
  | .bytes _ | .trap .. => True
  | .wait t _ => t.Sound

def Ready.Sound : Ready → Prop
  | .other t => t.Sound
  | .instr _ => True

@[simp ↓] theorem Ready.sound_iff :
    (∀ (t : State), (Ready.other t).Sound ↔ t.Sound) ∧ (∀ (i : Instr), (Ready.instr i).Sound) :=
  ⟨fun _ => Iff.rfl, fun _ => trivial⟩

def SpanRead.Sound : SpanRead → Prop
  | .ok .. => True
  | .wait t | .fail t => t.Sound

@[simp ↓] theorem SpanRead.sound_iff :
    (∀ (o : Nat) (st : Nat) (l : List Byte), (SpanRead.ok o st l).Sound) ∧ (∀ (t : State), (SpanRead.wait t).Sound ↔ t.Sound) ∧
    (∀ (t : State), (SpanRead.fail t).Sound ↔ t.Sound) :=
  ⟨fun _ _ _ => trivial, fun _ => Iff.rfl, fun _ => Iff.rfl⟩

def DepStep.Sound : DepStep → Prop
  | .none => True
  | .state t | .fail t => t.Sound

@[simp ↓] theorem DepStep.sound_iff :
    (DepStep.none).Sound ∧ (∀ (t : State), (DepStep.state t).Sound ↔ t.Sound) ∧ (∀ (t : State), (DepStep.fail t).Sound ↔ t.Sound) :=
  ⟨trivial, fun _ => Iff.rfl, fun _ => Iff.rfl⟩

def CompStep.Sound : CompStep → Prop
  | .done t | .wait t | .fail t | .regress t => t.Sound

@[simp ↓] theorem CompStep.sound_iff :
    (∀ (t : State), (CompStep.done t).Sound ↔ t.Sound) ∧ (∀ (t : State), (CompStep.wait t).Sound ↔ t.Sound) ∧
    (∀ (t : State), (CompStep.fail t).Sound ↔ t.Sound) ∧ (∀ (t : State), (CompStep.regress t).Sound ↔ t.Sound) :=
  ⟨fun _ => Iff.rfl, fun _ => Iff.rfl, fun _ => Iff.rfl, fun _ => Iff.rfl⟩

/-- Of a read that ends in what was read, beside the state it left, or in a state that waits. -/
def PartSound {α : Type} : Except State (State × α) → Prop
  | .error t => t.Sound
  | .ok r => r.1.Sound

/-- Of a wait that nothing but its state tells of. -/
def WaitSound {α : Type} : Except State α → Prop
  | .error t => t.Sound
  | .ok _ => True

@[simp ↓] theorem waitSound_iff {α : Type} :
    (∀ (t : State), WaitSound (.error t : Except State α) ↔ t.Sound) ∧ (∀ (x : α), WaitSound (.ok x : Except State α)) :=
  ⟨fun _ => Iff.rfl, fun _ => trivial⟩

def BothSound : Except State State → Prop
  | .error t | .ok t => t.Sound

def EffSound {α : Type} : Except Eff α → Prop
  | .error e => e.Sound
  | .ok _ => True

@[simp ↓] theorem effSound_iff {α : Type} :
    (∀ (e : Eff), EffSound (.error e : Except Eff α) ↔ e.Sound) ∧ (∀ (x : α), EffSound (.ok x : Except Eff α)) :=
  ⟨fun _ => Iff.rfl, fun _ => trivial⟩

def OutSound : Host.Outcome State Fault Refusal → Prop
  | .next t => t.Sound
  | .fault _ | .refused _ => True

@[simp ↓] theorem outSound_iff :
    (∀ (t : State), OutSound (.next t) ↔ t.Sound) ∧ (∀ (f : Fault), OutSound (.fault f)) ∧ (∀ (r : Refusal), OutSound (.refused r)) :=
  ⟨fun _ => Iff.rfl, fun _ => trivial, fun _ => trivial⟩

/-! ### Ops: what keeps the memories canonical -/

theorem State.putByte_boot (s : State) (pa key : Nat) (v : Byte) : (s.putByte pa key v).boot = s.boot := by
  unfold State.putByte
  split
  · split <;> rfl
  · rfl

@[simp ↓] theorem State.putByte_sound {s : State} (h : s.Sound) (pa key : Nat) (v : Byte) : (s.putByte pa key v).Sound := by
  refine ⟨State.putByte_wf h.1 .., ?_⟩
  rw [State.putByte_boot]
  exact h.2

/-! ### Operands: what keeps the memories canonical -/

@[simp ↓] theorem illegal_sound (i : Instr) : (illegal i).Sound := trivial

@[simp ↓] theorem priv_sound (i : Instr) : (priv i).Sound := trivial

theorem finish_sound {s : State} (h : s.Sound) (i : Instr) (ks : List Nat) {e : Eff} (he : e.Sound) : OutSound (finish i s ks e) := by
  cases e with
  | wait t w =>
    have ht : t.Sound := he
    simp only [finish, outSound_iff]
    refine State.Sound.frame ?_ (State.block_frame ..)
    split
    · exact State.Sound.frame (ht.frame (State.modCtx_frame ..)) (forwardEarly_frame ..)
    · exact ht.frame (State.modCtx_frame ..)
  | done t => exact State.Sound.frame he (State.frame_trans (State.completeAt_frame ..) (State.modCtx_frame ..))
  | jump t npc => exact State.Sound.frame he (State.frame_trans (State.completeAt_frame ..) (State.modCtx_frame ..))
  | ret t => exact State.Sound.frame he (State.frame_trans (convoyStep_frame ..) (State.modCtx_frame ..))
  | trap code xaddr xinfo => exact h.frame (State.takeTrap_frame ..)
  | trapTo code xaddr xinfo xpc => exact h.frame (State.takeTrap_frame ..)
  | final t => exact he
  | stop f => trivial

theorem runReading_sound {s : State} (h : s.Sound) (i : Instr) (rd : List (Reg × Nat)) {body : State → Eff} (hb : ∀ t, t.Sound → (body t).Sound) :
    OutSound (runReading i rd s body) := by
  unfold runReading
  extract_lets u
  have hu : u.Sound := h.frame (State.modMe_frame ..)
  split
  · exact State.Sound.frame hu (State.block_frame ..)
  · split
    · exact State.Sound.frame hu (State.takeTrap_frame ..)
    · exact State.Sound.frame hu (State.block_frame ..)
    · split
      · exact State.Sound.frame hu (State.takeTrap_frame ..)
      · exact finish_sound (hu.frame (State.modMe_frame ..)) _ _ (hb _ (State.Sound.frame (hu.frame (State.modMe_frame ..)) (State.streamView_frame ..)))

theorem runInstr_sound {s : State} (h : s.Sound) (i : Instr) {body : State → Eff} (hb : ∀ t, t.Sound → (body t).Sound) : OutSound (runInstr i s body) :=
  runReading_sound h i _ hb

/-! ### Xlate: what keeps the memories canonical -/

@[simp ↓] theorem State.putCells_sound {s : State} (h : s.Sound) (key : Nat) (l : List (Nat × Byte)) : (s.putCells key l).Sound := by
  induction l generalizing s with
  | nil => exact h
  | cons e t ih => exact ih (State.putByte_sound h ..)

@[simp ↓] theorem State.performWrite_sound {s : State} (h : s.Sound) (c : Nat) (except : Option Nat) (key : Nat) (cells : List (Nat × Byte)) :
    (s.performWrite c except key cells).Sound := by
  unfold State.performWrite
  dsimp only
  repeat' split
  all_goals simp [h]

@[simp ↓] theorem State.homeWrite_sound {s : State} (h : s.Sound) (c : Nat) (bast except : Option Nat) (key : Nat) (cells : List (Nat × Byte)) :
    (s.homeWrite c bast except key cells).Sound := by
  unfold State.homeWrite
  split
  · split
    · simp [h]
    · split
      · split <;> simp [h]
      · simp [h]
  · simp [h]

@[simp ↓] theorem State.quiet_sound {s : State} (h : s.Sound) (c aspc : Nat) (sp : Space) (a : DWord) (acc : AccKind) (w : Quiet) :
    (s.quiet c aspc sp a acc w).Sound := by
  unfold State.quiet
  repeat' split
  all_goals simp [h]

@[simp ↓] theorem State.walkOn_sound {s : State} (h : s.Sound) (c : Nat) (w : Walk) (eaddr : Nat) (e : DWord) : (s.walkOn c w eaddr e).Sound := by
  unfold State.walkOn
  split
  · exact h
  · dsimp only
    repeat' split
    all_goals simp [h]
  · simp [h]
  · simp [h]

@[simp ↓] theorem State.walkRead_sound {s : State} (h : s.Sound) (c : Nat) (w : Walk) : (s.walkRead c w).Sound := by
  simp [State.walkRead, h]

/-! ### Memory: what keeps the memories canonical -/

@[simp ↓] theorem poisonEff_sound {t : State} (h : t.Sound) (xaddr : DWord) (xinfo : Word) : (poisonEff t xaddr xinfo).Sound := by
  unfold poisonEff
  split <;> simp [h]

@[simp ↓] theorem State.writeBack_sound {s : State} (h : s.Sound) (c core : Nat) (l : L1Line) : (s.writeBack c core l).Sound := by
  simp [State.writeBack, h]

@[simp ↓] theorem State.evictLine_sound {s : State} (h : s.Sound) (c core : Nat) (l : L1Line) : (s.evictLine c core l).Sound := by
  simp [State.evictLine, h]

@[simp ↓] theorem State.l1Room_sound {s : State} (h : s.Sound) (c core : Nat) : (s.l1Room c core).Sound := by
  unfold State.l1Room
  split <;> simp [h]

@[simp ↓] theorem State.l1Fill_sound {s : State} (h : s.Sound) (c core : Nat) (n : L1Line) : (s.l1Fill c core n).Sound := by
  unfold State.l1Fill
  split <;> simp [h]

@[simp ↓] theorem State.flushL1_sound {s : State} (h : s.Sound) (c core : Nat) : (s.flushL1 c core).Sound :=
  State.foldl_sound (fun _ l hu => State.evictLine_sound hu c core l) h _

@[simp ↓] theorem State.dropLine_sound {s : State} (h : s.Sound) (c core line : Nat) : (s.dropLine c core line).Sound :=
  State.foldl_sound (fun _ l hu => State.evictLine_sound hu c core l) h _

@[simp ↓] theorem State.performOldest_sound {s : State} (h : s.Sound) (c core : Nat) : (s.performOldest c core).Sound := by
  unfold State.performOldest
  split <;> simp [h]

@[simp ↓] theorem State.performN_sound {s : State} (h : s.Sound) (c core n : Nat) : (s.performN c core n).Sound := by
  induction n generalizing s with
  | zero => exact h
  | succ n ih => exact ih (State.performOldest_sound h c core)

@[simp ↓] theorem State.drain_sound {s : State} (h : s.Sound) (c core : Nat) : (s.drain c core).Sound := by
  simp [State.drain, h]

@[simp ↓] theorem State.swmStore_sound {s : State} (h : s.Sound) (p : Pos) (pa key : Nat) (bytes : List Byte) : (s.swmStore p pa key bytes).Sound := by
  unfold State.swmStore
  split <;> simp [h]

@[simp ↓] theorem State.access_sound {s : State} (h : s.Sound) (sp : Space) (ea : DWord) (size : Nat) (acc : AccKind) (devOk : Bool) :
    (s.access sp ea size acc devOk).Sound := by
  unfold State.access
  dsimp only
  repeat' split
  all_goals simp [h]

@[simp ↓] theorem State.release_sound {s : State} (h : s.Sound) : s.release.Sound := by
  simp [State.release, h]

/-! ### Tag: what keeps the memories canonical -/

@[simp ↓] theorem tagBusy_sound (t : Nat) : (tagBusy t).Sound := trivial

@[simp ↓] theorem needFree_sound (t : State) (tag : Tag) {k : Eff} (hk : k.Sound) : (needFree t tag k).Sound := by
  unfold needFree
  split
  · exact hk
  · trivial

theorem execTagwaitAny_sound {s : State} (h : s.Sound) (d a : Reg) : OutSound (execTagwaitAny d a s) :=
  runInstr_sound h _ (fun t ht => by
    dsimp only
    repeat' split
    all_goals simp [ht])

theorem execTagwaitAll_sound {s : State} (h : s.Sound) (a : Reg) : OutSound (execTagwaitAll a s) :=
  runInstr_sound h _ (fun t ht => by
    dsimp only
    repeat' split
    all_goals simp [ht])

theorem execTagff_sound {s : State} (h : s.Sound) (d a : Reg) : OutSound (execTagff d a s) :=
  runInstr_sound h _ (fun t ht => by simp [ht])

theorem execTagclr_sound {s : State} (h : s.Sound) (a : Reg) : OutSound (execTagclr a s) :=
  runInstr_sound h _ (fun t ht => by
    dsimp only
    repeat' split
    all_goals simp [ht])

theorem execTagtst_sound {s : State} (h : s.Sound) (d : Reg) (tag : Tag) : OutSound (execTagtst d tag s) :=
  runInstr_sound h _ (fun t ht => by simp [ht])

/-! ### Redirect: what keeps the memories canonical -/

@[simp ↓] theorem State.homeBytes_sound {s : State} (h : s.Sound) (c key pa : Nat) (l : List Byte) (n : Nat) : (s.homeBytes c key pa l n).Sound := by
  induction n generalizing s pa l with
  | zero => exact h
  | succ n ih =>
    unfold State.homeBytes
    split
    · exact h
    · exact ih (State.performWrite_sound h ..) _ _

@[simp ↓] theorem State.writeImg_sound {s : State} (h : s.Sound) (c key pa : Nat) (l : List Byte) : (s.writeImg c key pa l).Sound := by
  simp [State.writeImg, h]

@[simp ↓] theorem State.toImg_sound {s : State} (h : s.Sound) (c : Nat) (v : Saved) (ofs : Nat) (l : List Byte) : (s.toImg c v ofs l).Sound := by
  simp [State.toImg, h]

@[simp ↓] theorem State.outDown_sound {s : State} (h : s.Sound) (c : Nat) (v : Saved) : (s.outDown c v).Sound := by
  simp [State.outDown, h]

@[simp ↓] theorem State.setImgCtx_sound {s : State} (h : s.Sound) (c : Nat) (v : Saved) (ofs : Nat) (x : Ctx) (leader : Nat) :
    (s.setImgCtx c v ofs x leader).Sound := by
  simp [State.setImgCtx, h]

@[simp ↓] theorem State.modImgCtx_sound {s : State} (h : s.Sound) (c : Nat) (v : Saved) (p : Pos) (f : Ctx → Ctx) : (s.modImgCtx c v p f).Sound := by
  unfold State.modImgCtx
  split <;> simp [h]

@[simp ↓] theorem State.awaitEnds_sound {s : State} (h : s.Sound) (c : Nat) (v : Saved) (p : Pos) (kinds : List Nat) : (s.awaitEnds c v p kinds).Sound := by
  simp [State.awaitEnds, h]

@[simp ↓] theorem State.imgPopped_sound {s : State} (h : s.Sound) (c : Nat) (v : Saved) (p : Pos) (ks : List Nat) : (s.imgPopped c v p ks).Sound := by
  induction ks generalizing s with
  | nil => exact h
  | cons k ks ih =>
    unfold State.imgPopped
    refine ih ?_
    dsimp only
    split
    · split <;> split <;> simp [h]
    · exact h

@[simp ↓] theorem State.applyCompletion_sound {s : State} (h : s.Sound) (c : Nat) (v : Saved) (e : Completion) : (s.applyCompletion c v e).Sound := by
  unfold State.applyCompletion
  split
  · split <;> simp [h]
  · split
    · dsimp only
      split <;> simp [h]
    · exact h
  · split <;> simp [h]
  · split
    · exact h
    · dsimp only
      split
      · exact State.awaitEnds_sound (State.imgPopped_sound (State.modImgCtx_sound h ..) ..) ..
      · simp [h]
  · split
    · exact h
    · dsimp only
      split
      · exact State.awaitEnds_sound (State.imgPopped_sound (State.modImgCtx_sound h ..) ..) ..
      · simp [h]
  · exact State.awaitEnds_sound (State.imgPopped_sound (State.modImgCtx_sound h ..) ..) ..
  · simp [h]
  · simp [h]
  · simp [h]

@[simp ↓] theorem State.endOp_sound {s : State} (h : s.Sound) (c core tag op : Nat) (err : Byte) : (s.endOp c core tag op err).Sound := by
  unfold State.endOp
  split
  · simp [h]
  · split <;> simp [h]

theorem execRedirectCompletion_sound {s : State} (h : s.Sound) : OutSound (execRedirectCompletion s) := by
  unfold execRedirectCompletion
  split <;> simp [h]

/-! ### Device: what keeps the memories canonical -/

@[simp ↓] theorem State.tuFail_sound {s : State} (h : s.Sound) (c : Nat) (v : DWord) : (s.tuFail c v).Sound := by
  unfold State.tuFail
  split
  · exact h
  · refine State.foldl_sound (fun u r hu => ?_) (by simp [h]) _
    split
    · split
      · split
        · simp [hu]
        · split <;> simp [hu]
      all_goals exact hu
    · simp [hu]

@[simp ↓] theorem State.tuAnswer_sound {s : State} (h : s.Sound) (c : Nat) (v : DWord) : (s.tuAnswer c v).Sound := by
  unfold State.tuAnswer
  split
  · exact h
  · split
    · refine State.foldl_sound (fun u r hu => ?_) (by simp [h]) _
      split
      · split
        · simp [hu]
        · split <;> simp [hu]
      all_goals exact hu
    · simp [h]

@[simp ↓] theorem State.tuReply_sound {s : State} (h : s.Sound) (c : Nat) (v : DWord) : (s.tuReply c v).Sound := by
  simp [State.tuReply, h]

@[simp ↓] theorem State.devWritePlain_sound {s : State} (h : s.Sound) (c ofs : Nat) (v : DWord) : (s.devWritePlain c ofs v).Sound := by
  simp [State.devWritePlain, h]

/-! ### LoadStore: what keeps the memories canonical -/

@[simp ↓] theorem loadAt_sound {t : State} (h : t.Sound) (r : LoadReq) : (loadAt t r).Sound := by
  unfold loadAt
  dsimp only
  repeat' split
  all_goals simp [h]

theorem State.access_eff_sound {s : State} (h : s.Sound) {sp : Space} {ea : DWord} {size : Nat} {acc : AccKind} {devOk : Bool} {e : Eff}
    (he : s.access sp ea size acc devOk = .eff e) : e.Sound := (congrArg Acc.Sound he).mp (State.access_sound h ..)

@[simp ↓] theorem load_sound {s : State} (h : s.Sound) (i : Instr) (sp : Space) (size words : Nat) (signed : Bool) (o : LdOrd) (d a : Reg) (off : BitVec 10) :
    OutSound (load i sp size words signed o d a off s) :=
  runInstr_sound h i (fun t ht => by
    dsimp only
    split
    · exact State.access_eff_sound ht ‹_›
    · exact loadAt_sound ht _)

@[simp ↓] theorem State.homeLoad_sound {s0 : State} (h : s0.Sound) (p : Pos) (r : LoadReq) : (s0.homeLoad p r).Sound := by
  unfold State.homeLoad
  dsimp only
  repeat' split
  all_goals simp [h]

@[simp ↓] theorem State.foreignLoad_sound {s : State} (h : s.Sound) (p : Pos) (r : LoadReq) (line : List Byte) (stamp : Nat) (fresh : Bool) :
    (s.foreignLoad p r line stamp fresh).Sound := by
  simp [State.foreignLoad, h]

@[simp ↓] theorem State.loadReply_sound {s : State} (h : s.Sound) (p : Pos) (r : LoadReq) : (s.loadReply p r).Sound := by
  unfold State.loadReply
  dsimp only
  split
  · simp [h]
  · split
    · refine State.foreignLoad_sound ?_ ..
      split <;> exact h
    · repeat' split
      all_goals simp [h]

theorem execLoadReply_sound {s : State} (h : s.Sound) : OutSound (execLoadReply s) := by
  unfold execLoadReply
  split <;> simp [h]

@[simp ↓] theorem State.devStore_sound {s : State} (h : s.Sound) (c pa : Nat) (bytes : List Byte) : (s.devStore c pa bytes).Sound := by
  simp [State.devStore, h]

@[simp ↓] theorem storeAt_sound {t : State} (h : t.Sound) (pa : Nat) (x : TlbEntry) (bytes : List Byte) : (storeAt t pa x bytes).Sound := by
  unfold storeAt
  dsimp only
  split
  · split <;> simp [h]
  · repeat' split
    all_goals simp [h]

@[simp ↓] theorem store_sound {s : State} (h : s.Sound) (i : Instr) (size words : Nat) (o : StOrd) (d a : Reg) (off : BitVec 10) :
    OutSound (store i size words o d a off s) :=
  runInstr_sound h i (fun t ht => by
    dsimp only
    split
    · exact State.access_eff_sound ht ‹_›
    · exact storeAt_sound (State.ite_sound (State.release_sound ht) ht) ..)

theorem execStorePerformed_sound {s : State} (h : s.Sound) : OutSound (execStorePerformed s) := by
  simp [execStorePerformed, h]

theorem execL1Eviction_sound {s : State} (h : s.Sound) : OutSound (execL1Eviction s) :=
  State.foldl_sound (fun _ _ hu => State.evictLine_sound hu ..) h _

@[simp ↓] theorem coreAccess_sound (t : State) (w : Width) (a : Reg) (off : BitVec 10) (kind : Word) {k : Nat → Eff} (hk : ∀ n, (k n).Sound) :
    (coreAccess t w a off kind k).Sound := by
  unfold coreAccess
  dsimp only
  repeat' split
  · trivial
  · trivial
  · exact hk _

theorem execLdl_sound {s : State} (h : s.Sound) (w : Width) (d a : Reg) (i : BitVec 10) : OutSound (execLdl w d a i s) :=
  runInstr_sound h _ (fun t ht => coreAccess_sound t w a i 0 (fun ea => by
    dsimp only
    split <;> simp [ht]))

theorem execStl_sound {s : State} (h : s.Sound) (w : Width) (d a : Reg) (i : BitVec 10) : OutSound (execStl w d a i s) :=
  runInstr_sound h _ (fun t ht => by simp [ht])

/-! ### Atomic: what keeps the memories canonical -/

@[simp ↓] theorem State.unitWrite_sound {s : State} (h : s.Sound) (p : Pos) (bast : Option Nat) (pa key : Nat) (new : Option (List Byte)) :
    (s.unitWrite p bast pa key new).Sound := by
  unfold State.unitWrite
  split <;> simp [h]

@[simp ↓] theorem State.unitReady_sound {s : State} (h : s.Sound) (pa : Nat) : (s.unitReady pa).Sound := by
  simp [State.unitReady, h]

@[simp ↓] theorem atom_sound {s : State} (h : s.Sound) (i : Instr) (f1 : Word → Word → Word → Word) (f2 : DWord → DWord → DWord → DWord) (o : AtOrd) (w : Width) (d a b : Reg) :
    OutSound (atom i f1 f2 o w d a b s) := by
  refine runInstr_sound h i (fun t ht => ?_)
  extract_lets n ea
  split
  · exact State.access_eff_sound ht ‹_›
  · rename_i pa x _
    extract_lets t1 old new t2 t3 t4
    have h1 : t1.Sound := State.unitReady_sound ht pa
    have h2 : t2.Sound := h1.frame (State.frame_trans (State.sees_frame ..) (State.noteRead_frame ..))
    have h3 : t3.Sound := State.unitWrite_sound h2 ..
    have h4 : t4.Sound := State.ite_sound (h3.frame (State.modClus_frame ..)) h3
    exact h4.frame (State.frame_trans (State.post_frame ..) (State.modMe_frame ..))

theorem execAtomAdd_sound {s : State} (h : s.Sound) (o : AtOrd) (w : Width) (d a b : Reg) : OutSound (execAtomAdd o w d a b s) := by
  simp [execAtomAdd, h]

theorem execAtomMin_sound {s : State} (h : s.Sound) (o : AtOrd) (w : Width) (d a b : Reg) : OutSound (execAtomMin o w d a b s) := by
  simp [execAtomMin, h]

theorem execAtomMax_sound {s : State} (h : s.Sound) (o : AtOrd) (w : Width) (d a b : Reg) : OutSound (execAtomMax o w d a b s) := by
  simp [execAtomMax, h]

theorem execAtomMinu_sound {s : State} (h : s.Sound) (o : AtOrd) (w : Width) (d a b : Reg) : OutSound (execAtomMinu o w d a b s) := by
  simp [execAtomMinu, h]

theorem execAtomMaxu_sound {s : State} (h : s.Sound) (o : AtOrd) (w : Width) (d a b : Reg) : OutSound (execAtomMaxu o w d a b s) := by
  simp [execAtomMaxu, h]

theorem execAtomAnd_sound {s : State} (h : s.Sound) (o : AtOrd) (w : Width) (d a b : Reg) : OutSound (execAtomAnd o w d a b s) := by
  simp [execAtomAnd, h]

theorem execAtomOr_sound {s : State} (h : s.Sound) (o : AtOrd) (w : Width) (d a b : Reg) : OutSound (execAtomOr o w d a b s) := by
  simp [execAtomOr, h]

theorem execAtomXor_sound {s : State} (h : s.Sound) (o : AtOrd) (w : Width) (d a b : Reg) : OutSound (execAtomXor o w d a b s) := by
  simp [execAtomXor, h]

theorem execAtomSwap_sound {s : State} (h : s.Sound) (o : AtOrd) (w : Width) (d a b : Reg) : OutSound (execAtomSwap o w d a b s) := by
  simp [execAtomSwap, h]

theorem execAtomCas_sound {s : State} (h : s.Sound) (o : AtOrd) (w : Width) (d a b : Reg) : OutSound (execAtomCas o w d a b s) := by
  simp [execAtomCas, h]

theorem execAtomReply_sound {s : State} (h : s.Sound) : OutSound (execAtomReply s) := by
  simp [execAtomReply, h]

theorem execFence_sound {s : State} (h : s.Sound) (sc : Scope) : OutSound (execFence sc s) :=
  runInstr_sound h _ (fun t ht => by simp [ht])

theorem execFenceP_sound {s : State} (h : s.Sound) (a b : Path) : OutSound (execFenceP a b s) :=
  runInstr_sound h _ (fun t ht => by simp [ht])

@[simp ↓] theorem State.rangePages_sound {s : State} (h : s.Sound) (sp : Space) (a len : Nat) (l : List Nat) : WaitSound (s.rangePages sp a len l) := by
  induction l with
  | nil => trivial
  | cons g gs ih =>
    unfold State.rangePages
    split
    · exact ih
    · split
      · exact ih
      · simp [h]
    · split
      · trivial
      · rename_i e
        rwa [e] at ih

@[simp ↓] theorem State.onRange_sound {s : State} (h : s.Sound) (sp : Space) (a len : Nat) {f : State → List Nat → State} (hf : ∀ u l, u.Sound → (f u l).Sound) :
    (s.onRange sp a len f).Sound := by
  unfold State.onRange
  have hr := State.rangePages_sound h sp a len ((List.range ((a + len - 1) / 4096 - a / 4096 + 1)).map (fun k => a / 4096 + k))
  split
  all_goals rename_i e; rw [e] at hr
  · exact hr
  · exact hf _ _ (h.frame (State.modMe_frame ..))

@[simp ↓] theorem State.cleanL1_sound {s : State} (h : s.Sound) (q : L1Line → Bool) : (s.cleanL1 q).Sound :=
  State.foldl_sound (fun _ l hu => State.writeBack_sound hu _ _ l) h _

@[simp ↓] theorem State.discardL1_sound {s : State} (h : s.Sound) (q : L1Line → Bool) : (s.discardL1 q).Sound :=
  State.foldl_sound (fun _ l hu => State.evictLine_sound hu _ _ l) h _

theorem execRwb_sound {s : State} (h : s.Sound) (a b : Reg) : OutSound (execRwb a b s) :=
  runInstr_sound h _ (fun t ht => by
    dsimp only
    split
    · exact State.cleanL1_sound ht _
    · exact State.onRange_sound ht _ _ _ (fun _ _ hu => State.cleanL1_sound hu _))

theorem execRinv_sound {s : State} (h : s.Sound) (a b : Reg) : OutSound (execRinv a b s) :=
  runInstr_sound h _ (fun t ht => by
    dsimp only
    split
    · exact State.discardL1_sound ht _
    · exact State.onRange_sound ht _ _ _ (fun _ _ hu => State.discardL1_sound hu _))

theorem execClean_sound {s : State} (h : s.Sound) (a b : Reg) : OutSound (execClean a b s) :=
  runInstr_sound h _ (fun t ht => by
    dsimp only
    split
    · exact State.Sound.frame (State.discardL1_sound ht _) (State.modClus_frame ..)
    · exact State.onRange_sound ht _ _ _ (fun _ _ hu => State.Sound.frame (State.discardL1_sound hu _) (State.modClus_frame ..)))

/-! ### Pull: what keeps the memories canonical -/

@[simp ↓] theorem State.waitPage_sound {s : State} (h : s.Sound) (sub : PullSub) (sp : Space) (acc : AccKind) (a : DWord) : (s.waitPage sub sp acc a).Sound := by
  simp [State.waitPage, h]

@[simp ↓] theorem State.takeAll_sound {s : State} (h : s.Sound) (sub : PullSub) (srcs dsts stamp : List DWord) : EffSound (s.takeAll sub srcs dsts stamp) := by
  unfold State.takeAll
  repeat' split
  all_goals simp [h]

@[simp ↓] theorem pullDesc_sound (a ofs : Nat) : (pullDesc a ofs).Sound := trivial

theorem State.takeAll_error_sound {s : State} (h : s.Sound) {sub : PullSub} {srcs dsts stamp : List DWord} {e : Eff}
    (he : s.takeAll sub srcs dsts stamp = .error e) : e.Sound := (congrArg EffSound he).mp (State.takeAll_sound h ..)

@[simp ↓] theorem pullSubmit_sound {t : State} (h : t.Sound) (kind : PullKind) (sub : PullSub) (sd : Int) (dd : Nat) (tag : Tag) : (pullSubmit kind sub sd dd tag t).Sound := by
  unfold pullSubmit
  dsimp only
  split
  · simp [h]
  · split
    · exact State.takeAll_error_sound h ‹_›
    · simp [h]

@[simp ↓] theorem pullBody_sound {t : State} (h : t.Sound) (kind : PullKind) (a b : Reg) (tag : Tag) : (pullBody kind a b tag t).Sound := by
  unfold pullBody
  extract_lets addr dd sd p
  refine needFree_sound t tag ?_
  repeat' split
  all_goals simp [h]

theorem execPull_sound {s : State} (h : s.Sound) (a b : Reg) (tag : Tag) : OutSound (execPull a b tag s) :=
  runInstr_sound h _ (fun t ht => by simp [ht])

theorem execPulld_sound {s : State} (h : s.Sound) (a b : Reg) (tag : Tag) : OutSound (execPulld a b tag s) :=
  runInstr_sound h _ (fun t ht => by simp [ht])

theorem execPullc_sound {s : State} (h : s.Sound) (a b : Reg) (tag : Tag) : OutSound (execPullc a b tag s) :=
  runInstr_sound h _ (fun t ht => by simp [ht])

theorem execPullReq_sound {s : State} (h : s.Sound) : OutSound (execPullReq s) := by
  unfold execPullReq
  repeat' split
  all_goals simp [h]

@[simp ↓] theorem State.landCells_sound {s : State} (h : s.Sound) (c : Nat) (bast : Option Nat) (path : Path) (op key0 : Nat) (cells0 : List (Nat × Byte)) :
    (s.landCells c bast path op key0 cells0).Sound := by
  unfold State.landCells
  dsimp only
  repeat' split
  all_goals simp [h]

@[simp ↓] theorem State.landUnit_sound {s : State} (h : s.Sound) (id : Nat) (p : Pull) (u : Nat) : (s.landUnit id p u).Sound := by
  unfold State.landUnit
  split
  · simp [h]
  · have hl : ∀ key : Nat, (s.landCells p.clus p.bast .p id key (p.cells u)).Sound := fun key => State.landCells_sound h ..
    extract_lets p1 key s1 s2 q n s3
    have h3 : s3.Sound := by
      simp only [s3]
      split
      · exact hl key
      · split <;> split
        · exact State.applyCompletion_sound (s := s2) (hl key) ..
        · exact State.applyCompletion_sound (s := s2) (hl key) ..
        · exact hl key
        · exact hl key
    split
    · exact h3
    · exact h3

theorem execPullData_sound {s : State} (h : s.Sound) : OutSound (execPullData s) := by
  unfold execPullData
  repeat' split
  all_goals simp [h]

theorem execPullComplete_sound {s : State} (h : s.Sound) : OutSound (execPullComplete s) := by
  unfold execPullComplete
  split
  · exact h
  · split
    · exact h
    · extract_lets p s1 q saved s2 s5 s6
      have h1 : s1.Sound := by
        simp only [s1]
        split
        · exact State.ite_sound (State.landCells_sound h ..) h
        · exact h
      have h2 : s2.Sound := by
        simp only [s2]
        split
        · exact State.endOp_sound h1 ..
        · refine State.ite_sound ?_ (State.ite_sound (State.endOp_sound h1 ..) ?_)
          · clear_value saved
            split <;> simp [h1]
          · repeat' split
            all_goals simp [h1]
      exact State.Sound.frame (s := s2) h2 ⟨rfl, rfl⟩

@[simp ↓] theorem streamSubmit_sound {t : State} (h : t.Sound) (k : Nat) (tag : Tag) (sub : PullSub) : (streamSubmit k tag sub t).Sound := by
  unfold streamSubmit
  dsimp only
  split
  · simp [h]
  · split
    · exact State.takeAll_error_sound h ‹_›
    · simp [h]

theorem execStream_sound {s : State} (h : s.Sound) (b p : Reg) (tag : Tag) : OutSound (execStream b p tag s) :=
  runInstr_sound h _ (fun t ht => by
    dsimp only
    repeat' split
    all_goals simp [ht])

theorem execSclose_sound {s : State} (h : s.Sound) (a : Reg) : OutSound (execSclose a s) :=
  runInstr_sound h _ (fun t ht => by simp [ht])

/-! ### Sync: what keeps the memories canonical -/

@[simp ↓] theorem State.advance_sound {s : State} (h : s.Sound) (c : Nat) (pa key : Nat) (new : DWord) : (s.advance c pa key new).Sound := by
  simp [State.advance, h]

@[simp ↓] theorem publish_sound {t : State} (h : t.Sound) (ea : DWord) (new : Nat → Nat) : (publish ea new t).Sound := by
  unfold publish
  split
  · exact h
  · split
    · exact State.access_eff_sound h ‹_›
    · rename_i pa x _
      extract_lets t1 old n
      have h1 : t1.Sound := State.Sound.frame (State.unitReady_sound h pa) (State.sees_frame ..)
      split
      · trivial
      · split
        · exact State.Sound.frame (State.homeWrite_sound (h1.frame (State.noteRead_frame ..)) ..) (State.defer_frame ..)
        · exact State.advance_sound h1 ..

theorem execPub_sound {s : State} (h : s.Sound) (a b : Reg) : OutSound (execPub a b s) :=
  runInstr_sound h _ (fun t ht => by simp [ht])

theorem execPubi_sound {s : State} (h : s.Sound) (a : Reg) (i : BitVec 12) : OutSound (execPubi a i s) :=
  runInstr_sound h _ (fun t ht => by simp [ht])

theorem execWatch_sound {s : State} (h : s.Sound) (a : Reg) (tag : Tag) : OutSound (execWatch a tag s) :=
  runInstr_sound h _ (fun t ht => by
    dsimp only
    repeat' split
    all_goals simp [ht])

theorem execWatchReq_sound {s : State} (h : s.Sound) : OutSound (execWatchReq s) := by
  unfold execWatchReq
  repeat' split
  all_goals simp [h]

theorem execWatchPoll_sound {s : State} (h : s.Sound) : OutSound (execWatchPoll s) := by
  unfold execWatchPoll
  dsimp only
  repeat' split
  all_goals simp [h]

@[simp ↓] theorem State.watchDone_sound {s : State} (h : s.Sound) (it : DoneItem) : (s.watchDone it).Sound := by
  unfold State.watchDone
  split <;> simp [h]

theorem execWatchDone_sound {s0 : State} (h : s0.Sound) : OutSound (execWatchDone s0) := by
  unfold execWatchDone
  repeat' split
  all_goals simp [h]

theorem execUnwatch_sound {s : State} (h : s.Sound) (d : Reg) (tag : Tag) : OutSound (execUnwatch d tag s) :=
  runInstr_sound h _ (fun t ht => by split <;> simp [ht])

theorem execUnwatchAnswer_sound {s : State} (h : s.Sound) : OutSound (execUnwatchAnswer s) := by
  unfold execUnwatchAnswer
  dsimp only
  repeat' split
  all_goals simp [h]

@[simp ↓] theorem State.arrive_sound {s : State} (h : s.Sound) (pa key : Nat) : (s.arrive pa key).2.Sound := by
  unfold State.arrive
  dsimp only
  split <;> simp [h]

@[simp ↓] theorem atBarrier_sound {t : State} (h : t.Sound) (a : Reg) (arrives : Bool) {k : Nat → Nat → Eff} (hk : ∀ pa key, (k pa key).Sound) : (atBarrier a arrives t k).Sound := by
  unfold atBarrier
  dsimp only
  split
  · exact State.access_eff_sound h ‹_›
  · split
    · trivial
    · exact hk ..

@[simp ↓] theorem waitGen_sound {t : State} (h : t.Sound) (pa key : Nat) (g : Word) (w : Wait) : (waitGen t pa key g w).Sound := by
  unfold waitGen
  split <;> simp [h]

@[simp ↓] theorem execBar.go_sound {t : State} (h : t.Sound) (pa key : Nat) (ea : DWord) : (execBar.go t pa key ea).Sound :=
  waitGen_sound (State.Sound.frame (State.arrive_sound (State.release_sound h) ..) (State.modMe_frame ..)) ..

theorem execBar_sound {s : State} (h : s.Sound) (a : Reg) : OutSound (execBar a s) :=
  runInstr_sound h _ (fun t ht => atBarrier_sound ht a _ (fun pa key => by
    dsimp only
    split
    · split <;> simp [ht]
    · simp [ht]))

theorem execBara_sound {s : State} (h : s.Sound) (d a : Reg) : OutSound (execBara d a s) :=
  runInstr_sound h _ (fun t ht => atBarrier_sound ht a _ (fun pa key =>
    State.Sound.frame (State.arrive_sound (State.release_sound ht) pa key) (State.frame_trans (State.post_frame ..) (State.modMe_frame ..))))

theorem execBarw_sound {s : State} (h : s.Sound) (a b : Reg) : OutSound (execBarw a b s) :=
  runInstr_sound h _ (fun t ht => atBarrier_sound ht a _ (fun pa key => by split <;> simp [ht]))

theorem execConvoy_sound {s : State} (h : s.Sound) (m : Reg) : OutSound (execConvoy m s) :=
  runInstr_sound h _ (fun t ht => by
    dsimp only
    repeat' split
    all_goals simp [ht])

theorem execCjoin_sound {s : State} (h : s.Sound) : OutSound (execCjoin s) :=
  runInstr_sound h _ (fun t ht => by
    dsimp only
    repeat' split
    all_goals simp [ht])

theorem execCleave_sound {s : State} (h : s.Sound) : OutSound (execCleave s) :=
  runInstr_sound h _ (fun t ht => by split <;> simp [ht])

/-! ### Message: what keeps the memories canonical -/

@[simp ↓] theorem sendBody_sound {t : State} (h : t.Sound) (listed : Bool) (d : Option Reg) (src dst : Reg) : (sendBody listed d src dst t).Sound := by
  unfold sendBody
  dsimp only
  repeat' split
  all_goals simp [h]

theorem execSend_sound {s : State} (h : s.Sound) (src t : Reg) : OutSound (execSend src t s) :=
  runInstr_sound h _ (fun t ht => by simp [ht])

theorem execSendt_sound {s : State} (h : s.Sound) (d src t : Reg) : OutSound (execSendt d src t s) :=
  runInstr_sound h _ (fun t ht => by simp [ht])

theorem execRecv_sound {s : State} (h : s.Sound) (d : Reg) : OutSound (execRecv d s) :=
  runInstr_sound h _ (fun t ht => by split <;> simp [ht])

theorem execRecvt_sound {s : State} (h : s.Sound) (d st : Reg) : OutSound (execRecvt d st s) :=
  runInstr_sound h _ (fun t ht => by split <;> simp [ht])

@[simp ↓] theorem State.msgArrive_sound {s0 : State} (h : s0.Sound) (it : MsgItem) : (s0.msgArrive it).Sound := by
  unfold State.msgArrive
  dsimp only
  repeat' split
  all_goals simp [h]

theorem execMsg_sound {s : State} (h : s.Sound) : OutSound (execMsg s) := by
  unfold execMsg
  repeat' split
  all_goals simp [h]

@[simp ↓] theorem State.msgAnswer_sound {s0 : State} (h : s0.Sound) (p : Pos) (num : Nat) (a : MsgAns) : (s0.msgAnswer p num a).Sound := by
  unfold State.msgAnswer
  dsimp only
  repeat' split
  all_goals simp [h]

theorem execMsgAnswer_sound {s : State} (h : s.Sound) : OutSound (execMsgAnswer s) := by
  unfold execMsgAnswer
  split <;> simp [h]

@[simp ↓] theorem enqBody_sound {t : State} (h : t.Sound) (d : Option Reg) (src q : Reg) : (enqBody d src q t).Sound := by
  unfold enqBody
  dsimp only
  repeat' split
  all_goals simp [h]

theorem execEnq_sound {s : State} (h : s.Sound) (src q : Reg) : OutSound (execEnq src q s) := runReading_sound h _ _ (fun _ ht => enqBody_sound ht ..)

theorem execEnqt_sound {s : State} (h : s.Sound) (d src q : Reg) : OutSound (execEnqt d src q s) := runReading_sound h _ _ (fun _ ht => enqBody_sound ht ..)

@[simp ↓] theorem State.enqAnswer_sound {s0 : State} (h : s0.Sound) (p : Pos) (num status : Nat) : (s0.enqAnswer p num status).Sound := by
  unfold State.enqAnswer
  dsimp only
  repeat' split
  all_goals simp [h]

theorem execEnqAnswer_sound {s : State} (h : s.Sound) : OutSound (execEnqAnswer s) := by
  simp [execEnqAnswer, h]

/-! ### Scalar: what keeps the memories canonical -/

@[simp ↓] theorem pureRegs_sound {s : State} (h : s.Sound) (i : Instr) (f : Ctx → Ctx) : OutSound (pureRegs i s f) :=
  runInstr_sound h i (fun _ ht => ht.frame (State.modMe_frame ..))

@[simp ↓] theorem divide_sound {s : State} (h : s.Sound) (i : Instr) (d a b : Reg) (f : Word → Word → Word) : OutSound (divide i d a b f s) :=
  runInstr_sound h i (fun t ht => by split <;> simp [ht])

/-! ### Lane: what keeps the memories canonical -/

@[simp ↓] theorem cvtOverflow_sound (j : Nat) (special : Bool) : (cvtOverflow j special).Sound := trivial

@[simp ↓] theorem writeLanes_sound {t : State} (h : t.Sound) (d : Oct) (b r : Nat) (m : MReg) (mode : RMode) (f : Ctx → Nat → Word → Conv) : (writeLanes d b r m mode f t).Sound := by
  unfold writeLanes
  dsimp only
  split <;> simp [h]

@[simp ↓] theorem arith_sound {s : State} (h : s.Sound) (i : Instr) (t : Ty) (rc : Rc) (d a b : Oct) (m : MReg) (f : Fl → Fl → Fl → List Fl) (g : Int → Int → Int) :
    OutSound (arith i t rc d a b m f g s) :=
  runInstr_sound h i (fun _ hu => writeLanes_sound hu ..)

theorem execVadd_sound {s : State} (h : s.Sound) (t : Ty) (r : Rc) (d a b : Oct) (m : MReg) : OutSound (execVadd t r d a b m s) := by
  simp [execVadd, h]

theorem execVsub_sound {s : State} (h : s.Sound) (t : Ty) (r : Rc) (d a b : Oct) (m : MReg) : OutSound (execVsub t r d a b m s) := by
  simp [execVsub, h]

theorem execVmul_sound {s : State} (h : s.Sound) (t : Ty) (r : Rc) (d a b : Oct) (m : MReg) : OutSound (execVmul t r d a b m s) := by
  simp [execVmul, h]

theorem execVfma_sound {s : State} (h : s.Sound) (t : Ty) (r : Rc) (d a b : Oct) (m : MReg) : OutSound (execVfma t r d a b m s) := by
  simp [execVfma, h]

theorem execVfms_sound {s : State} (h : s.Sound) (t : Ty) (r : Rc) (d a b : Oct) (m : MReg) : OutSound (execVfms t r d a b m s) := by
  simp [execVfms, h]

theorem execVfnma_sound {s : State} (h : s.Sound) (t : Ty) (r : Rc) (d a b : Oct) (m : MReg) : OutSound (execVfnma t r d a b m s) := by
  simp [execVfnma, h]

@[simp ↓] theorem lanewise_sound {s : State} (h : s.Sound) (i : Instr) (b r : Nat) (d : Oct) (m : MReg) (f : Ctx → Nat → Word) : OutSound (lanewise i b r d m f s) :=
  runInstr_sound h i (fun _ hu => writeLanes_sound hu ..)

theorem execVdot_sound {s : State} (h : s.Sound) (t : Ty) (r : Rc) (d a b : Oct) (m : MReg) : OutSound (execVdot t r d a b m s) :=
  runInstr_sound h _ (fun t ht => by simp [ht])

@[simp ↓] theorem unaryFl_sound {s : State} (h : s.Sound) (i : Instr) (t : Ty) (r : Rc) (d a : Oct) (m : MReg) (f : Fl → Fl × Bool) : OutSound (unaryFl i t r d a m f s) :=
  runInstr_sound h i (fun _ hu => writeLanes_sound hu ..)

@[simp ↓] theorem laneZero_sound {t : State} (h : t.Sound) (d : Oct) (b : Nat) (v : Conv) (seed : Word) : (laneZero d b v seed t).Sound := by
  unfold laneZero
  dsimp only
  repeat' split
  all_goals simp [h]

theorem execVredSum_sound {s : State} (h : s.Sound) (t : Ty) (r : Rc) (d a : Oct) (m : MReg) : OutSound (execVredSum t r d a m s) :=
  runInstr_sound h _ (fun t ht => by
    repeat' split
    all_goals simp [ht])

@[simp ↓] theorem redPick_sound {s : State} (h : s.Sound) (i : Instr) (t : Ty) (larger : Bool) (d a : Oct) (m : MReg) : OutSound (redPick i t larger d a m s) :=
  runInstr_sound h i (fun _ hu => laneZero_sound hu ..)

/-! ### Plane: what keeps the memories canonical -/

@[simp ↓] theorem planeBody_sound {u : State} (h : u.Sound) (i : Instr) (b src : Reg) : (planeBody i b src u).Sound := by
  unfold planeBody
  dsimp only
  repeat' split
  all_goals simp [h]

theorem execPlane_sound {s : State} (h : s.Sound) (b src : Reg) : OutSound (execPlane b src s) := runReading_sound h _ _ (fun _ ht => planeBody_sound ht ..)

theorem execTidset_sound {s : State} (h : s.Sound) (a b : Reg) : OutSound (execTidset a b s) :=
  runInstr_sound h _ (fun t ht => by
    dsimp only
    repeat' split
    all_goals simp [ht])

theorem execTidclr_sound {s : State} (h : s.Sound) (a : Reg) : OutSound (execTidclr a s) :=
  runInstr_sound h _ (fun t ht => by split <;> simp [ht])

@[simp ↓] theorem descTests_sound (addr : Nat) (l : List (Bool × Nat)) {k : Eff} (hk : k.Sound) : (descTests addr l k).Sound := by
  unfold descTests
  split
  · trivial
  · exact hk

@[simp ↓] theorem sendCmd_sound {t : State} (h : t.Sound) (tag : Tag) (tile : Nat) (kind : MatKind) : (sendCmd t tag tile kind).Sound := by
  unfold sendCmd
  dsimp only
  split <;> simp [h]

@[simp ↓] theorem mmaBody_sound {t : State} (h : t.Sound) (stream send : Bool) (a b : Reg) (tag : Tag) : (mmaBody stream send a b tag t).Sound := by
  unfold mmaBody
  dsimp only
  split
  · trivial
  · refine needFree_sound t tag ?_
    split
    · trivial
    · split
      · exact poisonEff_sound h ..
      · refine descTests_sound _ _ ?_
        repeat' split
        all_goals simp [h]

theorem execMma_sound {s : State} (h : s.Sound) (a b : Reg) (tag : Tag) : OutSound (execMma a b tag s) :=
  runInstr_sound h _ (fun t ht => by simp [ht])

theorem execMmas_sound {s : State} (h : s.Sound) (a b : Reg) (tag : Tag) : OutSound (execMmas a b tag s) :=
  runInstr_sound h _ (fun t ht => by simp [ht])

theorem execMsend_sound {s : State} (h : s.Sound) (a b : Reg) (tag : Tag) : OutSound (execMsend a b tag s) :=
  runInstr_sound h _ (fun t ht => by simp [ht])

theorem execMzero_sound {s : State} (h : s.Sound) (a : Reg) (tag : Tag) : OutSound (execMzero a tag s) :=
  runInstr_sound h _ (fun t ht => by simp [ht])

theorem execMdrain_sound {s : State} (h : s.Sound) (a : Reg) (tag : Tag) : OutSound (execMdrain a tag s) :=
  runInstr_sound h _ (fun t ht => needFree_sound t tag (by
    dsimp only
    split
    · trivial
    · split
      · exact poisonEff_sound ht ..
      · split
        · exact descTests_sound _ _ (sendCmd_sound ht ..)
        · trivial))

@[simp ↓] theorem State.fetchPage_sound {s : State} (h : s.Sound) (c : Nat) (m : MatCmd) (v : Nat) : (s.fetchPage c m v).Sound := by
  unfold State.fetchPage
  dsimp only
  repeat' split
  all_goals simp [h]

@[simp ↓] theorem State.fetchUnits_sound {s : State} (h : s.Sound) (c tile : Nat) (m : MatCmd) (all us : List Nat) : (s.fetchUnits c tile m all us).Sound := by
  induction us generalizing s m with
  | nil =>
    unfold State.fetchUnits
    split <;> exact h
  | cons u us ih =>
    unfold State.fetchUnits
    dsimp only
    split
    · exact ih h _
    · split
      · exact ih (h.frame (State.askPkg_frame ..)) _
      · repeat' split
        · exact h
        · exact h.frame (State.sawPoison_frame ..)
        · exact ih (h.frame (State.noteRead_frame ..)) _

@[simp ↓] theorem State.fetchPages_sound {s : State} (h : s.Sound) (c tile : Nat) (m : MatCmd) (l : List Nat) : (s.fetchPages c tile m l).Sound := by
  induction l generalizing s m with
  | nil => exact h
  | cons v vs ih =>
    unfold State.fetchPages
    dsimp only
    split
    · exact ih h _
    · have hp := State.fetchPage_sound h c m v
      split
      all_goals rename_i e; rw [e] at hp
      · exact hp
      · exact hp
      · rename_i s1 m1
        have hu := State.fetchUnits_sound (show s1.Sound from hp) c tile m1 (m.units.filter (fun u => u / 128 = v)) (m.units.filter (fun u => u / 128 = v))
        split
        all_goals rename_i e; rw [e] at hu
        · exact hu
        · exact hu
        · exact ih hu _

@[simp ↓] theorem State.fetchCmd_sound {s : State} (h : s.Sound) (c tile : Nat) (m : MatCmd) : (s.fetchCmd c tile m).Sound := by
  unfold State.fetchCmd
  dsimp only
  split
  · simp [h]
  · have hp := State.fetchPages_sound h c tile m (firstUse (m.units.map (· / 128)))
    split
    all_goals
      rename_i e
      rw [e, FetchOut.Sound] at hp
    · simp [hp]
    · simp [hp]
    · split <;> simp [hp]

theorem execMatrixAccept_sound {s : State} (h : s.Sound) : OutSound (execMatrixAccept s) := by
  unfold execMatrixAccept
  dsimp only
  repeat' split
  all_goals simp [h]

theorem execBFetchDone_sound {s : State} (h : s.Sound) : OutSound (execBFetchDone s) :=
  State.foldl_sound (fun _ _ hu => State.foldl_sound (fun _ _ hv => State.fetchCmd_sound hv ..) hu _) h _

theorem execMatrixStepStart_sound {s : State} (h : s.Sound) : OutSound (execMatrixStepStart s) := by
  unfold execMatrixStepStart
  dsimp only
  repeat' split
  all_goals simp [h]

@[simp ↓] theorem State.landAll_sound {s : State} (h : s.Sound) (c : Nat) (bast : Option Nat) (path : Path) (op key : Nat) (cells : List (Nat × Byte)) :
    (s.landAll c bast path op key cells).Sound :=
  State.foldl_sound (fun _ _ hu => State.landCells_sound hu ..) h _

@[simp ↓] theorem State.cmdStep_sound {s : State} (h : s.Sound) (c tile : Nat) (m : MatCmd) : (s.cmdStep c tile m).1.Sound := by
  unfold State.cmdStep
  split
  · simp [h]
  · simp [h]
  · dsimp only
    split <;> simp [h]

theorem execMatrixStepDone_sound {s : State} (h : s.Sound) : OutSound (execMatrixStepDone s) := by
  unfold execMatrixStepDone
  dsimp only
  repeat' split
  all_goals simp [h]

/-! ### Keys: what keeps the memories canonical -/

@[simp ↓] theorem State.cleanSlot_sound {s : State} (h : s.Sound) (fn slot : Nat) : (s.cleanSlot fn slot).Sound := by
  refine State.foldl_sound (fun u e hu => ?_) h _
  split
  · exact State.foldl_sound (fun _ l hv => State.evictLine_sound hv _ _ l) hu _
  · exact hu

theorem State.ksCommand_sound {s : State} (h : s.Sound) (fn : Nat) (ok : KsWin → Bool) {effect : KsWin → State → State} (he : ∀ w u, u.Sound → (effect w u).Sound) :
    (s.ksCommand fn ok effect).Sound := by
  unfold State.ksCommand
  dsimp only
  split
  · exact h
  · split
    · exact h
    · split
      · exact he _ _ h
      · simp [h]

@[simp ↓] theorem State.ksAccept_sound {s : State} (h : s.Sound) (fn : Nat) : (s.ksAccept fn).Sound :=
  State.ksCommand_sound h fn _ (fun _ _ hu => by simp [hu])

@[simp ↓] theorem State.ksErase_sound {s : State} (h : s.Sound) (fn : Nat) : (s.ksErase fn).Sound :=
  State.ksCommand_sound h fn _ (fun _ _ hu => by simp [hu])

theorem execKsCreate_sound {s : State} (h : s.Sound) : OutSound (execKsCreate s) := by
  simp [execKsCreate, h]

theorem execKsImport_sound {s : State} (h : s.Sound) : OutSound (execKsImport s) := by
  simp [execKsImport, h]

theorem execKsExport_sound {s : State} (h : s.Sound) : OutSound (execKsExport s) := by
  simp [execKsExport, h]

theorem execKsOffer_sound {s : State} (h : s.Sound) : OutSound (execKsOffer s) := by
  simp [execKsOffer, h]

theorem execKsAccept_sound {s : State} (h : s.Sound) : OutSound (execKsAccept s) := by
  simp [execKsAccept, h]

theorem execKsErase_sound {s : State} (h : s.Sound) : OutSound (execKsErase s) := by
  simp [execKsErase, h]

theorem execKsAcceptDrained_sound {s : State} (h : s.Sound) : OutSound (execKsAcceptDrained s) := by
  simp [execKsAcceptDrained, h]

theorem execKsEraseDrained_sound {s : State} (h : s.Sound) : OutSound (execKsEraseDrained s) := by
  simp [execKsEraseDrained, h]

theorem execKsSimport_sound {s : State} (h : s.Sound) : OutSound (execKsSimport s) := by
  simp [execKsSimport, h]

theorem execKsSerase_sound {s : State} (h : s.Sound) : OutSound (execKsSerase s) := by
  simp [execKsSerase, h]

theorem execKsSeraseDrained_sound {s : State} (h : s.Sound) : OutSound (execKsSeraseDrained s) := by
  unfold execKsSeraseDrained
  dsimp only
  repeat' split
  all_goals simp [h]

@[simp ↓] theorem State.zeroStores_sound {s : State} (h : s.Sound) (c : Nat) : (s.zeroStores c).Sound := ⟨memWf_filter h.1 _, h.2⟩

@[simp ↓] theorem State.moveClus_sound {s : State} (h : s.Sound) (c fn : Nat) : (s.moveClus c fn).Sound := by
  simp [State.moveClus, h]

@[simp ↓] theorem State.clusterFnWrite_sound {s : State} (h : s.Sound) (c : Nat) (v : DWord) : (s.clusterFnWrite c v).Sound := by
  simp [State.clusterFnWrite, h]

theorem execClusterFnWrite_sound {s : State} (h : s.Sound) : OutSound (execClusterFnWrite s) := by
  simp [execClusterFnWrite, h]

/-! ### Boot: what keeps the memories canonical -/

/-- A change of the management side that leaves its memories alone. -/
@[simp ↓] theorem State.modBoot_sound {s : State} (h : s.Sound) {f : Boot → Boot}
    (hf : (f s.boot).sram = s.boot.sram ∧ (f s.boot).flashA = s.boot.flashA ∧ (f s.boot).flashB = s.boot.flashB) : (s.modBoot f).Sound := by
  obtain ⟨hm, hs, ha, hb⟩ := h
  obtain ⟨e1, e2, e3⟩ := hf
  exact ⟨hm, e1 ▸ hs, e2 ▸ ha, e3 ▸ hb⟩

@[simp ↓] theorem State.timeOut_sound {s : State} (h : s.Sound) : s.timeOut.Sound := h

theorem execPhaseTimeout_sound {s : State} (h : s.Sound) : OutSound (execPhaseTimeout s) := by
  simp [execPhaseTimeout, h]

theorem execPowerGood_sound {s : State} (h : s.Sound) : OutSound (execPowerGood s) := by
  unfold execPowerGood
  split <;> simp [h]

@[simp ↓] theorem State.readyState_sound {s : State} (h : s.Sound) : s.readyState.Sound := ⟨rfl, h.2⟩

@[simp ↓] theorem State.fuStateWrite_sound {s : State} (h : s.Sound) (v : Nat) : (s.fuStateWrite v).Sound := by
  unfold State.fuStateWrite
  split <;> simp [h]

theorem State.byFirmware_sound {s : State} (h : s.Sound) {f : State → State} (hf : (f s).Sound) : OutSound (s.byFirmware f) := State.ite_sound hf h

theorem execFuStateWrite_sound {s : State} (h : s.Sound) : OutSound (execFuStateWrite s) := State.byFirmware_sound h (State.fuStateWrite_sound h _)

@[simp ↓] theorem State.bootStatWrite_sound {s : State} (h : s.Sound) (v : Byte) : (s.bootStatWrite v).Sound := by
  unfold State.bootStatWrite
  split
  · exact h
  · split
    · exact State.timeOut_sound h
    · refine State.modBoot_sound h ?_
      split <;> exact ⟨rfl, rfl, rfl⟩

theorem execBootStatWrite_sound {s : State} (h : s.Sound) : OutSound (execBootStatWrite s) := State.byFirmware_sound h (State.bootStatWrite_sound h _)

@[simp ↓] theorem State.ceStart_sound {s : State} (h : s.Sound) (code : Nat) : (s.ceStart code).Sound := h

theorem execCeHash_sound {s : State} (h : s.Sound) : OutSound (execCeHash s) := State.byFirmware_sound h (State.ceStart_sound h _)

theorem execCeVerifyEcdsa_sound {s : State} (h : s.Sound) : OutSound (execCeVerifyEcdsa s) := State.byFirmware_sound h (State.ceStart_sound h _)

theorem execCeVerifyLms_sound {s : State} (h : s.Sound) : OutSound (execCeVerifyLms s) := State.byFirmware_sound h (State.ceStart_sound h _)

theorem Boot.ceEnd_frame (b : Boot) (c : MgmtCmd) : (b.ceEnd c).sram = b.sram ∧ (b.ceEnd c).flashA = b.flashA ∧ (b.ceEnd c).flashB = b.flashB := by
  unfold Boot.ceEnd
  dsimp only
  repeat' split
  all_goals exact ⟨rfl, rfl, rfl⟩

@[simp ↓] theorem State.meStart_sound {s : State} (h : s.Sound) (code : Nat) : (s.meStart code).Sound := h

theorem execMeExtend_sound {s : State} (h : s.Sound) : OutSound (execMeExtend s) := State.byFirmware_sound h (State.meStart_sound h _)

theorem execMeSpdmMeas_sound {s : State} (h : s.Sound) : OutSound (execMeSpdmMeas s) := State.byFirmware_sound h (State.meStart_sound h _)

theorem Boot.meEnd_frame (b : Boot) (n : Nat) (c : MgmtCmd) : (b.meEnd n c).sram = b.sram ∧ (b.meEnd n c).flashA = b.flashA ∧ (b.meEnd n c).flashB = b.flashB := by
  unfold Boot.meEnd
  dsimp only
  repeat' split
  all_goals exact ⟨rfl, rfl, rfl⟩

theorem execMctpRequest_sound {s : State} (h : s.Sound) : OutSound (execMctpRequest s) := by
  unfold execMctpRequest
  dsimp only
  repeat' split
  all_goals simp [h]

@[simp ↓] theorem State.transmit_sound {s : State} (h : s.Sound) (n : Nat) : (s.transmit n).Sound := h

theorem execMbTxlen_sound {s : State} (h : s.Sound) : OutSound (execMbTxlen s) := State.byFirmware_sound h (State.transmit_sound h _)

theorem execMbRxdone_sound {s : State} (h : s.Sound) : OutSound (execMbRxdone s) :=
  State.byFirmware_sound h (State.ite_sound (State.modBoot_sound h ⟨rfl, rfl, rfl⟩) h)

@[simp ↓] theorem State.romAt_sound {s : State} (h : s.Sound) (r : RomSt) : (s.romAt r).Sound := h

theorem memWf_iff_pairwise {l : List Host.Cell} : memWf l = true ↔ l.Pairwise (fun x y => x.1 < y.1) ∧ ∀ e ∈ l, e.2 ≠ 0 := by
  induction l with
  | nil => simp [memWf]
  | cons x t ih =>
    rw [memWf_cons, ih]
    simp only [List.pairwise_cons, List.forall_mem_cons]
    tauto

/-- The head of a slot copied over the head of SRAM. -/
theorem copyCells_wf {sram flash : List Host.Cell} (hs : memWf sram = true) (hf : memWf flash = true) (ofs n : Nat) : memWf (copyCells sram flash ofs n) = true := by
  rw [memWf_iff_pairwise] at hs hf ⊢
  obtain ⟨hsp, hs0⟩ := hs
  obtain ⟨hfp, hf0⟩ := hf
  simp only [copyCells, List.pairwise_append, List.pairwise_map, List.mem_append, List.mem_map, List.mem_filter, Bool.and_eq_true, decide_eq_true_eq]
  refine ⟨⟨?_, hsp.filter _, ?_⟩, ?_⟩
  · refine (hfp.filter _).imp_of_mem (fun {x y} hx hy hxy => ?_)
    simp only [List.mem_filter, Bool.and_eq_true, decide_eq_true_eq] at hx hy
    omega
  · rintro _ ⟨x, ⟨_, hx⟩, rfl⟩ y ⟨_, hy⟩
    dsimp only
    omega
  · rintro _ (⟨x, ⟨hx, _⟩, rfl⟩ | ⟨hx, _⟩)
    · exact hf0 x hx
    · exact hs0 _ hx

@[simp ↓] theorem State.romCopy_sound {s : State} (h : s.Sound) (n : Nat) : (s.romCopy n).Sound := by
  obtain ⟨hm, hs, ha, hb⟩ := h
  refine ⟨hm, copyCells_wf hs ?_ _ _, ha, hb⟩
  split
  · exact hb
  · exact ha

@[simp ↓] theorem State.romDead_sound {s : State} (h : s.Sound) : s.romDead.Sound := by
  simp [State.romDead, h]

theorem State.romTry_sound {s : State} (h : s.Sound) {fail : State → State} (hf : ∀ u, u.Sound → (fail u).Sound) : (s.romTry fail).Sound := by
  have h1 := State.romCopy_sound h 64
  unfold State.romTry
  generalize s.romCopy 64 = t at h1
  extract_lets t n
  split
  · exact hf _ h1
  · exact State.romAt_sound (State.ceStart_sound (State.modBoot_sound (State.romCopy_sound h1 n) ⟨rfl, rfl, rfl⟩) 1) .hash

@[simp ↓] theorem State.romFail_sound {s : State} (h : s.Sound) : s.romFail.Sound := by
  unfold State.romFail
  split
  · simp [h]
  · exact State.romTry_sound (State.modBoot_sound (State.bootStatWrite_sound h _) ⟨rfl, rfl, rfl⟩) (fun _ hu => State.romDead_sound hu)

@[simp ↓] theorem State.romStart_sound {s : State} (h : s.Sound) : s.romStart.Sound :=
  State.romTry_sound (State.modBoot_sound (State.bootStatWrite_sound h _) ⟨rfl, rfl, rfl⟩) (fun _ hu => State.romFail_sound hu)

@[simp ↓] theorem State.romJump_sound {s : State} (h : s.Sound) : s.romJump.Sound := h

@[simp ↓] theorem State.romSend_sound {s : State} (h : s.Sound) (n : Nat) : (s.romSend n).Sound :=
  State.romJump_sound (State.modBoot_sound (State.transmit_sound h n) ⟨rfl, rfl, rfl⟩)

@[simp ↓] theorem State.romError_sound {s : State} (h : s.Sound) (code data : Byte) : (s.romError code data).Sound :=
  State.romSend_sound (State.modBoot_sound h ⟨rfl, rfl, rfl⟩) 4

@[simp ↓] theorem State.romServe_sound {s : State} (h : s.Sound) : s.romServe.Sound := by
  unfold State.romServe
  split
  · exact State.romJump_sound h
  · split
    · exact State.romAt_sound h _
    · split
      · exact State.romAt_sound (State.meStart_sound h _) _
      · exact State.romError_sound h ..

@[simp ↓] theorem State.romCe_sound {s : State} (h : s.Sound) : s.romCe.Sound := by
  unfold State.romCe
  dsimp only
  split
  · split
    · exact State.romFail_sound h
    · exact State.romAt_sound (State.ceStart_sound (State.modBoot_sound h ⟨rfl, rfl, rfl⟩) _) _
  · split
    · exact State.romAt_sound (State.ceStart_sound (State.modBoot_sound h ⟨rfl, rfl, rfl⟩) _) _
    · exact State.romFail_sound h
  · split
    · exact State.romAt_sound (State.meStart_sound (State.modBoot_sound h ⟨rfl, rfl, rfl⟩) _) _
    · exact State.romFail_sound h
  · exact h

@[simp ↓] theorem State.romMe_sound {s : State} (h : s.Sound) : s.romMe.Sound := by
  unfold State.romMe
  dsimp only
  split
  · split
    · exact State.romDead_sound h
    · exact State.romServe_sound (State.bootStatWrite_sound h _)
  · split
    · exact State.romError_sound h ..
    · exact State.romSend_sound h _
  · exact h

theorem execRomMeasured_sound {s : State} (h : s.Sound) : OutSound (execRomMeasured s) := by
  unfold execRomMeasured
  split
  · exact State.ite_sound (State.timeOut_sound h) (State.romStart_sound (State.modBoot_sound h ⟨rfl, rfl, rfl⟩))
  · exact h

theorem execCeCommandDone_sound {s : State} (h : s.Sound) : OutSound (execCeCommandDone s) := by
  unfold execCeCommandDone
  split
  · exact State.romCe_sound (State.modBoot_sound h (Boot.ceEnd_frame ..))
  · exact h

theorem execMeCommandDone_sound {s : State} (h : s.Sound) : OutSound (execMeCommandDone s) := by
  unfold execMeCommandDone
  split
  · exact State.romMe_sound (State.modBoot_sound (h.frame (State.drew_frame s)) (Boot.meEnd_frame ..))
  · exact h

theorem execMbTransmitDone_sound {s : State} (h : s.Sound) : OutSound (execMbTransmitDone s) := by
  simp [execMbTransmitDone, h]

theorem execFirstSramFetch_sound {s : State} (h : s.Sound) : OutSound (execFirstSramFetch s) := by
  unfold execFirstSramFetch
  split <;> simp [h]

theorem execPerstDeasserted_sound {s : State} (h : s.Sound) : OutSound (execPerstDeasserted s) := by
  simp [execPerstDeasserted, h]

theorem execConfigRequest_sound {s : State} (h : s.Sound) : OutSound (execConfigRequest s) := by
  simp [execConfigRequest, h]

theorem execPowerRemoved_sound {s : State} (h : s.Sound) : OutSound (execPowerRemoved s) := by
  obtain ⟨_, _, ha, hb⟩ := h
  exact ⟨rfl, rfl, ha, hb⟩

/-! ### Fabric: what keeps the memories canonical -/

theorem execTrainStart_sound {s : State} (h : s.Sound) : OutSound (execTrainStart s) := by
  unfold execTrainStart
  dsimp only
  repeat' split
  all_goals simp [h]

theorem execCalDone_sound {s : State} (h : s.Sound) : OutSound (execCalDone s) := by
  unfold execCalDone
  dsimp only
  repeat' split
  all_goals simp [h]

theorem execRttDone_sound {s : State} (h : s.Sound) : OutSound (execRttDone s) := by
  unfold execRttDone
  dsimp only
  repeat' split
  all_goals simp [h]

theorem execKeysDone_sound {s : State} (h : s.Sound) : OutSound (execKeysDone s) := by
  unfold execKeysDone
  dsimp only
  repeat' split
  all_goals simp [h]

theorem execKeyUpdate_sound {s : State} (h : s.Sound) : OutSound (execKeyUpdate s) := by
  unfold execKeyUpdate
  split <;> simp [h]

theorem execFlitSend_sound {s : State} (h : s.Sound) : OutSound (execFlitSend s) := by
  unfold execFlitSend
  dsimp only
  repeat' split
  all_goals simp [h]

theorem execRetransmitTimeout_sound {s : State} (h : s.Sound) : OutSound (execRetransmitTimeout s) := by
  unfold execRetransmitTimeout
  dsimp only
  repeat' split
  all_goals simp [h]

theorem execIdleTimer_sound {s : State} (h : s.Sound) : OutSound (execIdleTimer s) := by
  unfold execIdleTimer
  dsimp only
  repeat' split
  all_goals simp [h]

theorem execAckTimer_sound {s : State} (h : s.Sound) : OutSound (execAckTimer s) := by
  unfold execAckTimer
  dsimp only
  repeat' split
  all_goals simp [h]

theorem execColourRecalibrated_sound {s : State} (h : s.Sound) : OutSound (execColourRecalibrated s) := by
  unfold execColourRecalibrated
  dsimp only
  repeat' split
  all_goals simp [h]

theorem withFlit_sound {s : State} (h : s.Sound) (kind : FlitKind) {k : Nat → Nat → HeardFlit → Out} (hk : ∀ p c x, OutSound (k p c x)) : OutSound (withFlit s kind k) := by
  unfold withFlit
  repeat' split
  · exact hk ..
  all_goals exact h

theorem execData_sound {s : State} (h : s.Sound) : OutSound (execData s) :=
  withFlit_sound h _ (fun p lane x => by
    extract_lets s1 r room setRx
    have hs : ∀ u c, u.Sound → (setRx u c).Sound := fun _ _ hu => hu.frame (State.modFab_frame ..)
    have h1 : s1.Sound := h.frame (State.heardFlit_frame ..)
    split
    · rename_i r1 t s2 s3 _ _ _
      have ht : t.1.Sound := (hs _ r1 h1).frame (State.takeFlit_frame ..)
      have h2 : s2.Sound := State.ite_sound ht (ht.frame (State.modFab_frame ..))
      have h3 : s3.Sound := h2.frame (State.drainBuffer_frame ..)
      exact State.ite_sound (h3.frame (State.sendAck_frame ..)) h3
    · split
      · exact h1.frame (State.sendAck_frame ..)
      · split
        · exact hs _ _ (h1.frame (State.sendCtl_frame ..))
        · exact h1)

theorem execAck_sound {s : State} (h : s.Sound) : OutSound (execAck s) := withFlit_sound h _ (fun _ _ _ => h.frame (State.heardFlit_frame ..))

theorem execNak_sound {s : State} (h : s.Sound) : OutSound (execNak s) :=
  withFlit_sound h _ (fun _ _ _ => State.Sound.frame (h.frame (State.modFab_frame ..)) (State.naked_frame ..))

theorem execIdle_sound {s : State} (h : s.Sound) : OutSound (execIdle s) := withFlit_sound h _ (fun _ _ _ => h.frame (State.heardFlit_frame ..))

theorem execEcho_sound {s : State} (h : s.Sound) : OutSound (execEcho s) := by
  unfold execEcho
  split <;> simp [h]

/-! ### Coll: what keeps the memories canonical -/

@[simp ↓] theorem State.collWrite_sound {s : State} (h : s.Sound) (c id : Nat) (pages : PageMap) (cells : List (Nat × Byte)) : (s.collWrite c id pages cells).Sound :=
  State.foldl_sound (fun _ _ hu => State.landCells_sound hu ..) h _

@[simp ↓] theorem State.areaWrite_sound {s : State} (h : s.Sound) (cl : Nat) (c : Coll) (ofs : Nat) (l : List Byte) : (s.areaWrite cl c ofs l).Sound := by
  simp [State.areaWrite, h]

@[simp ↓] theorem State.collMs_sound {s : State} (h : s.Sound) (cl : Nat) (c : Coll) (low : Nat) : (s.collMs cl c low).Sound := by
  unfold State.collMs
  split <;> simp [h]

@[simp ↓] theorem State.collPages_sound {s : State} (h : s.Sound) (sp : Space) (what : CollPage) (l : List Nat) (m : PageMap) : EffSound (s.collPages sp what l m) := by
  induction l generalizing m with
  | nil => trivial
  | cons v vs ih =>
    unfold State.collPages
    dsimp only
    repeat' split
    all_goals simp [h, ih]

@[simp ↓] theorem State.groupTable_sound {s : State} (h : s.Sound) (m : PageMap) (l : List Nat) (acc : List (List Byte)) : (s.groupTable m l acc).Sound := by
  induction l generalizing acc with
  | nil => trivial
  | cons a as ih =>
    unfold State.groupTable
    dsimp only
    repeat' split
    all_goals simp [h, ih]

theorem State.collPages_error_sound {s : State} (h : s.Sound) {sp : Space} {what : CollPage} {l : List Nat} {m : PageMap} {e : Eff}
    (he : s.collPages sp what l m = .error e) : e.Sound := (congrArg EffSound he).mp (State.collPages_sound h ..)

theorem State.groupTable_wait_sound {s u : State} (h : s.Sound) {m : PageMap} {l : List Nat} {acc : List (List Byte)}
    (hu : s.groupTable m l acc = .wait u) : u.Sound := (congrArg TableRead.Sound hu).mp (State.groupTable_sound h ..)

@[simp ↓] theorem collIssue_sound {t : State} (h : t.Sound) (tag : Tag) (c : Coll) : (collIssue t tag c).Sound := by
  unfold collIssue
  dsimp only
  split
  · trivial
  · split
    · exact State.collPages_error_sound h ‹_›
    · split
      · exact State.collPages_error_sound h ‹_›
      · split
        · exact State.collPages_error_sound h ‹_›
        · split
          · trivial
          · exact State.groupTable_wait_sound h ‹_›
          · repeat' split
            all_goals simp [h]

@[simp ↓] theorem collRank_sound {t : State} (h : t.Sound) (c : Coll) {k : Eff} (hk : k.Sound) : (collRank t c k).Sound := by
  unfold collRank
  dsimp only
  split
  · exact State.collPages_error_sound (e := .wait _ _) h ‹_›
  · exact hk
  · split
    · exact State.groupTable_wait_sound h ‹_›
    · exact hk
    · split
      · trivial
      · exact hk

theorem execColl_sound {s : State} (h : s.Sound) (a : Reg) (tag : Tag) : OutSound (execColl a tag s) :=
  runInstr_sound h _ (fun t ht => by
    split
    · exact ht
    · refine needFree_sound t tag ?_
      dsimp only
      repeat' split
      all_goals simp [ht])

@[simp ↓] theorem State.collLand_sound {s : State} (h : s.Sound) (cl : Nat) (c : Coll) (value : Nat → Nat → Option (List Byte)) :
    (s.collLand cl c value).Sound := by
  unfold State.collLand
  split <;> simp [h]

@[simp ↓] theorem State.writePartial_sound {s : State} (h : s.Sound) (cl : Nat) (c : Coll) (k : Nat) : (s.writePartial cl c k).Sound := by
  unfold State.writePartial
  split <;> simp [h]

@[simp ↓] theorem State.collPublish_sound {s : State} (h : s.Sound) (cl : Nat) (c : Coll) : (s.collPublish cl c).Sound :=
  State.collMs_sound (State.areaWrite_sound (State.foldl_sound (fun _ k hu => State.writePartial_sound hu cl c k) h _) ..) ..

@[simp ↓] theorem State.collRoot_sound {s : State} (h : s.Sound) (cl : Nat) (c : Coll) : (s.collRoot cl c).Sound :=
  State.collMs_sound (State.areaWrite_sound (State.collLand_sound h ..) ..) ..

@[simp ↓] theorem State.collEnd_sound {s : State} (h : s.Sound) (cl : Nat) (c : Coll) (low : Nat) (code : Byte) : (s.collEnd cl c low code).Sound := by
  simp [State.collEnd, h]

@[simp ↓] theorem State.collAbort_sound {s : State} (h : s.Sound) (cl : Nat) (c : Coll) (code : Byte) : (s.collAbort cl c code).Sound := by
  simp [State.collAbort, h]

@[simp ↓] theorem State.collFail_sound {s : State} (h : s.Sound) (cl id : Nat) (code : Byte) : (s.collFail cl id code).Sound := by
  unfold State.collFail
  split <;> simp [h]

@[simp ↓] theorem State.collDone_sound {s : State} (h : s.Sound) (cl : Nat) (c : Coll) : (s.collDone cl c).Sound := by
  simp [State.collDone, h]

@[simp ↓] theorem State.seqPages_sound {s : State} (h : s.Sound) (cl : Nat) (c : Coll) (sp : Space) (what : CollPage) (l : List Nat) (m : PageMap) :
    (s.seqPages cl c sp what l m).Sound := by
  induction l generalizing m with
  | nil => trivial
  | cons v vs ih =>
    unfold State.seqPages
    dsimp only
    repeat' split
    all_goals simp [h, ih]

@[simp ↓] theorem State.collMaps_sound {s : State} (h : s.Sound) (cl : Nat) (c : Coll) : (s.collMaps cl c).Sound := by
  unfold State.collMaps
  have ha := State.seqPages_sound h cl c .home .area ((List.range c.apages).map (fun k => c.area / 4096 + k)) c.areaPages
  split
  all_goals rename_i e; rw [e] at ha
  · exact ha
  · exact ha
  · split
    all_goals rename_i e
    · exact (congrArg SeqPages.Sound e).mp (State.seqPages_sound h ..)
    · exact (congrArg SeqPages.Sound e).mp (State.seqPages_sound h ..)
    · exact h

@[simp ↓] theorem State.srcPages_sound {s : State} (h : s.Sound) (cl : Nat) (c : Coll) (l : List Nat) : (s.srcPages cl c l).Sound := by
  induction l generalizing c with
  | nil => exact h
  | cons v vs ih =>
    unfold State.srcPages
    dsimp only
    repeat' split
    all_goals simp [h, ih]

@[simp ↓] theorem State.srcUnits_sound {s : State} (h : s.Sound) (cl : Nat) (c : Coll) (num : Nat) (l : List Nat) : (s.srcUnits cl c num l).Sound := by
  induction l generalizing s c with
  | nil => exact h
  | cons u us ih =>
    unfold State.srcUnits
    dsimp only
    split
    · exact ih h _
    · split
      · have hr := ih (h.frame (State.askPkg_frame s cl (PageMap.at c.pages (BitVec.ofNat 64 (32 * u))).1 (PageMap.at c.pages (BitVec.ofNat 64 (32 * u))).2 32 (.coll cl c.id num u))) c
        split
        · rename_i e
          rw [e] at hr
          exact hr
        · exact hr
      · repeat' split
        all_goals simp [h, ih]

@[simp ↓] theorem State.seqRead_sound {s : State} (h : s.Sound) (cl : Nat) (c : Coll) (num : Nat) (units : List Nat) : (s.seqRead cl c num units).Sound := by
  unfold State.seqRead
  have hp := State.srcPages_sound h cl c (firstUse (units.map (· / 128)))
  split
  · rename_i e
    rw [e] at hp
    exact State.srcUnits_sound hp ..
  · exact hp

section
variable {s t : State} {cl num : Nat} {c d : Coll} {units : List Nat} {code : Byte}

theorem State.seqRead_fail_sound (h : s.Sound) (e : s.seqRead cl c num units = .fail t code) : t.Sound := (congrArg SrcRead.Sound e).mp (State.seqRead_sound h ..)

theorem State.seqRead_wait_sound (h : s.Sound) (e : s.seqRead cl c num units = .wait t d) : t.Sound := (congrArg SrcRead.Sound e).mp (State.seqRead_sound h ..)

theorem State.seqRead_have_sound (h : s.Sound) (e : s.seqRead cl c num units = .have_ t d) : t.Sound := (congrArg SrcRead.Sound e).mp (State.seqRead_sound h ..)

theorem State.collMaps_fail_sound (h : s.Sound) (e : s.collMaps cl c = .fail t code) : t.Sound := (congrArg SrcRead.Sound e).mp (State.collMaps_sound h ..)

theorem State.collMaps_wait_sound (h : s.Sound) (e : s.collMaps cl c = .wait t d) : t.Sound := (congrArg SrcRead.Sound e).mp (State.collMaps_sound h ..)

theorem State.collMaps_have_sound (h : s.Sound) (e : s.collMaps cl c = .have_ t d) : t.Sound := (congrArg SrcRead.Sound e).mp (State.collMaps_sound h ..)
end

@[simp ↓] theorem State.seqWatch_sound {s : State} (h : s.Sound) (cl : Nat) (c : Coll) (a thr : Nat) (w : CollWatch) : (s.seqWatch cl c a thr w).Sound := by
  unfold State.seqWatch
  have hp := State.srcPages_sound h cl c [a / 4096]
  split
  · rename_i e
    rw [e, SrcRead.Sound] at hp
    dsimp only
    split <;> simp [hp]
  · exact hp

@[simp ↓] theorem State.seqWatches_sound {s : State} (h : s.Sound) (cl : Nat) (c : Coll) (l : List (Nat × Nat)) : (s.seqWatches cl c l).Sound := by
  induction l generalizing s c with
  | nil => exact h
  | cons x l ih =>
    unfold State.seqWatches
    split
    · exact ih h _
    · have hw := State.seqWatch_sound h cl c (c.entry x.1).areav (c.base + x.2) (.member x.1 x.2)
      split
      all_goals rename_i e; rw [e] at hw
      · exact ih hw _
      · exact hw
      · split
        · exact ih hw _
        · exact hw

@[simp ↓] theorem State.collAct_sound {s : State} (h : s.Sound) (cl : Nat) (c : Coll) : (s.collAct cl c).Sound := by
  unfold State.collAct
  split
  · simp [h]
  · split
    · split <;> simp [h]
    · extract_lets fwd s1 c1
      have h1 : s1.Sound := by
        simp only [s1]
        split
        · simp [h]
        · exact h
      split <;> simp [h1]

@[simp ↓] theorem State.collOn_sound {s : State} (h : s.Sound) (cl : Nat) (c0 : Coll) : (s.collOn cl c0).Sound := by
  have h1 := State.collAct_sound h cl c0
  unfold State.collOn
  dsimp only
  split
  · exact h1
  · rename_i c _
    have hw := State.seqWatches_sound h1 cl c c.waits
    split
    all_goals
      rename_i e
      rw [e, SrcRead.Sound] at hw
    · simp [hw]
    · simp [hw]
    · rename_i t d
      have hr : (d.wants.foldl (fun (a : State × Coll) w => a.1.collAsk cl a.2 w) (t, d)).1.Sound := by
        generalize d.wants = l
        clear e
        induction l generalizing t d with
        | nil => exact hw
        | cons w l ih => exact ih _ _ (hw.frame (State.collAsk_frame ..))
      split <;> simp [hr]

@[simp ↓] theorem State.collGo_sound {s : State} (h : s.Sound) (cl : Nat) (c : Coll) : (s.collGo cl c).Sound := by
  unfold State.collGo
  split
  · simp [h]
  · have hm := State.collMaps_sound h cl c
    split
    all_goals
      rename_i e
      rw [e, SrcRead.Sound] at hm
      simp [hm]

@[simp ↓] theorem State.collStop_sound {s : State} (h : s.Sound) (cl : Nat) (c : Coll) : (s.collStop cl c).Sound := by
  unfold State.collStop
  have hp := State.seqPages_sound h cl c .home .area [c.area / 4096] c.areaPages
  split
  all_goals
    rename_i e
    rw [e, SeqPages.Sound] at hp
  · exact hp
  · simp [hp]
  · simp [h]

@[simp ↓] theorem State.collBegin_sound {s : State} (h : s.Sound) (cl : Nat) (c0 : Coll) : (s.collBegin cl c0).Sound := by
  unfold State.collBegin
  extract_lets rd own c s1
  have h1 : s1.Sound := State.foldl_sound (fun _ _ hu => State.areaWrite_sound hu ..) h _
  exact State.collGo_sound (State.Sound.frame (State.collMs_sound h1 ..) (State.setColl_frame ..)) ..

@[simp ↓] theorem State.collWatchAbort_sound {s : State} (h : s.Sound) (cl id : Nat) : (s.collWatchAbort cl id).Sound := by
  unfold State.collWatchAbort
  dsimp only
  split
  · exact h
  · rename_i c _
    split
    · split
      · simp [h]
      · split <;> simp [h]
    · split
      · exact h
      · have hw := State.seqWatch_sound h cl c c.abaddr c.abthr .abort
        split
        all_goals
          rename_i e
          rw [e, SrcRead.Sound] at hw
          simp [hw]

theorem execCollStart_sound {s : State} (h : s.Sound) : OutSound (execCollStart s) := by
  unfold execCollStart
  extract_lets cl s1
  have h1 : s1.Sound := State.foldl_sound (fun _ _ hu => State.collWatchAbort_sound hu ..) h _
  split
  · exact h1
  · rename_i c _ _
    split
    · exact State.collStop_sound h1 ..
    · split
      · exact State.Sound.frame (State.collGo_sound h1 ..) (State.foldl_frame (fun _ _ => State.post_frame ..) _ _)
      · split
        · exact State.Sound.frame (State.collAbort_sound (State.seqRead_fail_sound h1 ‹_›) ..) (State.post_frame ..)
        · exact State.Sound.frame (State.seqRead_wait_sound h1 ‹_›) (State.setColl_frame ..)
        · have ht := State.seqRead_have_sound h1 ‹_›
          split
          · exact State.Sound.frame (State.collAbort_sound (State.collMaps_fail_sound ht ‹_›) ..) (State.post_frame ..)
          · exact State.Sound.frame (State.collMaps_wait_sound ht ‹_›) (State.setColl_frame ..)
          · exact State.collBegin_sound (State.collMaps_have_sound ht ‹_›) ..

@[simp ↓] theorem State.collHears_sound {s : State} (h : s.Sound) (cl : Nat) (c0 : Coll) (op : Nat) (w : CollWatch) (v : Nat) (code : Byte) :
    (s.collHears cl c0 op w v code).Sound := by
  unfold State.collHears
  split <;> simp (disch := simp [h]) [h]

theorem execCollWatchMet_sound {s : State} (h : s.Sound) : OutSound (execCollWatchMet s) := by
  unfold execCollWatchMet
  dsimp only
  repeat' split
  all_goals simp [h]

@[simp ↓] theorem State.collTake_sound {s : State} (h : s.Sound) (cl : Nat) (c0 : Coll) (g : CollGet) : (s.collTake cl c0 g).Sound := by
  unfold State.collTake
  split <;> simp (disch := simp [h])

theorem execCollPullLanded_sound {s : State} (h : s.Sound) : OutSound (execCollPullLanded s) := by
  unfold execCollPullLanded
  dsimp only
  split
  · exact h
  · split
    · exact h
    · split
      · exact State.Sound.frame (State.collAbort_sound (State.seqRead_fail_sound h ‹_›) ..) (State.post_frame ..)
      · exact State.Sound.frame (State.seqRead_wait_sound h ‹_›) (State.setColl_frame ..)
      · have ht := State.seqRead_have_sound h ‹_›
        split
        · exact State.Sound.frame (State.collAbort_sound (State.collMaps_fail_sound ht ‹_›) ..) (State.post_frame ..)
        · exact State.Sound.frame (State.collMaps_wait_sound ht ‹_›) (State.setColl_frame ..)
        · have hu := State.collMaps_have_sound ht ‹_›
          split
          · exact State.collTake_sound hu ..
          · exact hu

theorem execTnodeExpiry_sound {s : State} (h : s.Sound) : OutSound (execTnodeExpiry s) := by
  unfold execTnodeExpiry
  repeat' split
  all_goals simp [h]

theorem execTlimExpiry_sound {s : State} (h : s.Sound) : OutSound (execTlimExpiry s) := by
  unfold execTlimExpiry
  split <;> simp [h]

/-! ### Fetch: what keeps the memories canonical -/

@[simp ↓] theorem State.fetchHalf_sound {s : State} (h : s.Sound) (p : Pos) (a : DWord) : (s.fetchHalf p a).Sound := by
  unfold State.fetchHalf
  dsimp only
  repeat' split
  all_goals simp [h]

theorem execFetchLineArrival_sound {s : State} (h : s.Sound) : OutSound (execFetchLineArrival s) := by
  unfold execFetchLineArrival
  dsimp only
  repeat' split
  all_goals simp [h]

@[simp ↓] theorem State.fetchInstr_sound {s : State} (h : s.Sound) (p : Pos) : (s.fetchInstr p).Sound := by
  unfold State.fetchInstr
  have h1 := State.fetchHalf_sound h p (s.ctx p).pc
  have h2 := State.fetchHalf_sound h p ((s.ctx p).pc + 2)
  dsimp only
  split
  all_goals rename_i e; rw [e] at h1
  · trivial
  · exact h1
  · split
    · trivial
    · split
      all_goals rename_i e; rw [e] at h2
      · trivial
      · exact h2
      · trivial

@[simp ↓] theorem State.decodeAt_sound {s : State} (h : s.Sound) (p : Pos) (l : List Byte) : (s.decodeAt p l).Sound := by
  unfold State.decodeAt
  split <;> simp [h]

@[simp ↓] theorem State.afterFetch_sound {s : State} (h : s.Sound) (p : Pos) (l : List Byte) : (s.afterFetch p l).Sound := by
  unfold State.afterFetch
  dsimp only
  repeat' split
  all_goals simp [h]

@[simp ↓] theorem State.prepare_sound {s : State} (h : s.Sound) (p : Pos) : (s.prepare p).Sound := by
  unfold State.prepare
  dsimp only
  have hf := State.fetchInstr_sound h p
  split
  · simp [h]
  · split
    · simp [h]
    · split
      · exact State.afterFetch_sound h ..
      · split
        all_goals rename_i e; rw [e] at hf
        · simp [h]
        · exact State.Sound.frame hf (State.block_frame ..)
        · exact State.afterFetch_sound h ..

theorem execBreakpointMatch_sound {s : State} (h : s.Sound) : OutSound (execBreakpointMatch s) := by
  unfold execBreakpointMatch
  dsimp only
  split
  · exact h
  · split
    · exact (congrArg Ready.Sound ‹_›).mp (State.prepare_sound h _)
    · exact h

theorem execQuantumExpiry_sound {s : State} (h : s.Sound) : OutSound (execQuantumExpiry s) := by
  simp [execQuantumExpiry, h]

/-! ### Lease: what keeps the memories canonical -/

theorem execLease_sound {s : State} (h : s.Sound) (a : Reg) (tag : Tag) : OutSound (execLease a tag s) :=
  runInstr_sound h _ (fun t ht => by
    dsimp only
    repeat' split
    all_goals simp [ht])

@[simp ↓] theorem State.leaseEnd_sound {s : State} (h : s.Sound) (id : Nat) (l : Lease) (got why : Nat) (tend : DWord) (err : Byte) :
    (s.leaseEnd id l got why tend err).Sound := by
  unfold State.leaseEnd
  extract_lets p pa s0 st write
  have hw : ∀ (u : State) (a : Nat) (v : DWord), u.Sound → (write u a v).Sound := fun u a v hu => State.performWrite_sound hu ..
  have h0 : s0.Sound := h.frame (State.modFab_frame ..)
  have h2 := fun a b v w => hw _ a v (hw _ b w h0)
  split
  · exact State.endOp_sound (State.applyCompletion_sound (h2 ..) ..) ..
  · split
    · exact h0
    · rename_i s2 s3 _ _ _
      refine State.endOp_sound ?_ ..
      simp only [s3]
      split
      · exact h2 ..
      · exact h2 ..

theorem execLeaseAnswer_sound {s : State} (h : s.Sound) : OutSound (execLeaseAnswer s) := by
  unfold execLeaseAnswer
  dsimp only
  repeat' split
  all_goals simp [h]

theorem execLeaseWaitExpiry_sound {s : State} (h : s.Sound) : OutSound (execLeaseWaitExpiry s) := by
  unfold execLeaseWaitExpiry
  repeat' split
  all_goals simp [h]

theorem execLeaseReq_sound {s : State} (h : s.Sound) : OutSound (execLeaseReq s) := by
  unfold execLeaseReq
  dsimp only
  repeat' split
  all_goals simp [h]

theorem execLaneRetuned_sound {s : State} (h : s.Sound) : OutSound (execLaneRetuned s) := by
  unfold execLaneRetuned
  dsimp only
  repeat' split
  all_goals simp [h]

theorem execTermEnd_sound {s : State} (h : s.Sound) : OutSound (execTermEnd s) := by
  unfold execTermEnd
  dsimp only
  repeat' split
  all_goals simp [h]

@[simp ↓] theorem fabricQuery_sound {t : State} (h : t.Sound) (q : Query) (d : Reg) : (fabricQuery q d t).Sound := by
  unfold fabricQuery
  split <;> simp [h]

theorem execDeadq_sound {s : State} (h : s.Sound) (d p : Reg) : OutSound (execDeadq d p s) :=
  runInstr_sound h _ (fun t ht => by simp [ht])

theorem execLeaseq_sound {s : State} (h : s.Sound) (d p : Reg) : OutSound (execLeaseq d p s) :=
  runInstr_sound h _ (fun t ht => by simp [ht])

theorem execLeaserel_sound {s : State} (h : s.Sound) (d p n : Reg) : OutSound (execLeaserel d p n s) :=
  runInstr_sound h _ (fun t ht => by simp [ht])

theorem execFabricQueryAnswer_sound {s : State} (h : s.Sound) : OutSound (execFabricQueryAnswer s) := by
  unfold execFabricQueryAnswer
  dsimp only
  repeat' split
  all_goals simp [h]

/-! ### Owner: what keeps the memories canonical -/

theorem execRead_sound {s : State} (h : s.Sound) : OutSound (execRead s) := by
  unfold execRead
  split <;> simp [h]

@[simp ↓] theorem State.readDone_sound {s : State} (h : s.Sound) (o : OutRead) (r : ReplyItem) : (s.readDone o r).Sound := by
  unfold State.readDone
  dsimp only
  repeat' split
  all_goals simp [h]

@[simp ↓] theorem State.readFail_sound {s : State} (h : s.Sound) (o : OutRead) (code : Byte) : (s.readFail o code).Sound := by
  unfold State.readFail
  repeat' split
  all_goals simp [h]

theorem execReadReply_sound {s : State} (h : s.Sound) : OutSound (execReadReply s) := by
  unfold execReadReply
  repeat' split
  all_goals simp [h]

@[simp ↓] theorem State.requestError_sound {s : State} (h : s.Sound) (kind req : Nat) (code : Byte) : (s.requestError kind req code).Sound := by
  unfold State.requestError
  repeat' split
  all_goals simp [h]

theorem execError_sound {s : State} (h : s.Sound) : OutSound (execError s) := by
  simp [execError, h]

@[simp ↓] theorem State.failPending_sound {s : State} (h : s.Sound) (gone : Nat → Bool) : (s.failPending gone).Sound := by
  unfold State.failPending
  extract_lets s1 s2a s2b s2c s2d s2 s3a s3b s3 s4
  have h1 : s1.Sound := State.foldl_sound (fun u o hu => State.readFail_sound (hu.frame (State.dropRead_frame ..)) ..) h _
  have h2a : s2a.Sound := State.foldl_sound (fun u e hu => State.foldl_sound (fun _ _ hv => State.watchDone_sound hv _) hu _) h1 _
  have h2b : s2b.Sound := State.foldl_sound (fun u e hu => State.Sound.frame (hu.frame (State.modClus_frame ..)) (State.foldl_frame (fun _ _ => State.post_frame ..) _ _)) h2a _
  have h2c : s2c.Sound := State.foldl_sound (fun u e hu => hu.frame (State.pullErr_frame ..)) h2b _
  have h2d : s2d.Sound := State.foldl_sound (fun u e hu => by
    repeat' split
    all_goals simp [hu]) h2c _
  have h2 : s2.Sound := h2d.frame (State.foldl_frame (fun _ _ => State.doom_frame ..) _ _)
  have h3a : s3a.Sound := State.foldl_sound (fun u e hu => State.foldl_sound (fun _ _ hv => State.msgAnswer_sound hv ..) hu _) h2 _
  have h3b : s3b.Sound := State.foldl_sound (fun u e hu => by
    repeat' split
    all_goals simp [hu]) h3a _
  have h3 : s3.Sound := State.foldl_sound (fun u e hu => by
    repeat' split
    all_goals simp [hu]) h3b _
  have h4 : s4.Sound := State.foldl_sound (fun u e hu => by split <;> simp [hu]) h3 _
  exact State.foldl_sound (fun u e hu => State.foldl_sound (fun v t hv => State.foldl_sound (fun _ _ hx => State.watchDone_sound hx _) hv _) hu _) h4 _

@[simp ↓] theorem State.declareDead_sound {s : State} (h : s.Sound) (p cause : Nat) : (s.declareDead p cause).Sound := by
  unfold State.declareDead
  extract_lets relayed gone s1 s2
  have h1 : s1.Sound := State.foldl_sound (fun u x hu => State.Sound.frame (s := { u with dead := u.dead ||| (1#4096 <<< x) }) hu (State.modFab_frame ..)) h _
  have h2 : s2.Sound := h1.frame (State.modFab_frame ..)
  exact State.Sound.frame (State.failPending_sound (h2.frame (State.dropLeases_frame ..)) gone) (State.frame_trans (State.reportState_frame ..) (State.dropFor_frame ..))

theorem execDeadPeerDeclare_sound {s : State} (h : s.Sound) : OutSound (execDeadPeerDeclare s) := by
  unfold execDeadPeerDeclare
  dsimp only
  repeat' split
  all_goals simp [h]

theorem execState_sound {s : State} (h : s.Sound) : OutSound (execState s) := by
  unfold execState
  extract_lets r s1
  have h1 : s1.Sound := State.foldl_sound (fun _ _ hu => State.declareDead_sound hu ..) h _
  exact h1.frame (State.foldl_frame (fun _ _ => State.frame_trans (State.reportState_frame ..) (State.undead_frame ..)) _ _)

theorem execGenReq_sound {s : State} (h : s.Sound) : OutSound (execGenReq s) := by
  simp [execGenReq, h]

/-! ### Retire: what keeps the memories canonical -/

@[simp ↓] theorem State.zeroCore_sound {s : State} (h : s.Sound) (c n : Nat) : (s.zeroCore c n).Sound := by
  unfold State.zeroCore
  extract_lets a s1
  have h1 : s1.Sound := ⟨memWf_filter h.1 _, h.2⟩
  exact State.Sound.frame (h1.frame (State.foldl_frame (fun u k => State.bumpGen_frame ..) _ _)) (State.modClus_frame ..)

@[simp ↓] theorem State.leaveCore_sound {s : State} (h : s.Sound) (c n slot : Nat) (zero : Bool) : (s.leaveCore c n slot zero).Sound := by
  simp (disch := simp [h]) [State.leaveCore, h]

@[simp ↓] theorem State.vacate_sound {s : State} (h : s.Sound) (c slot : Nat) (t : Team) (zero : Bool) : (s.vacate c slot t zero).Sound := by
  unfold State.vacate
  extract_lets s1 s2 s3 gone s4
  have h1 : s1.Sound := h.frame (State.foldl_frame (fun _ _ => State.clearCore_frame ..) _ _)
  have h2 : s2.Sound := h1.frame (State.foldl_frame (fun _ _ => State.setCtx_frame ..) _ _)
  have h3 : s3.Sound := State.foldl_sound (fun _ _ hu => State.leaveCore_sound hu ..) h2 _
  have h4 : s4.Sound := by
    simp only [s4]
    split
    · exact State.Sound.frame (h3.frame (State.foldl_frame (fun _ _ => State.post_frame ..) _ _)) (State.roomFreed_frame ..)
    · exact h3
  exact h4

@[simp ↓] theorem State.flushTeam_sound {s : State} (h : s.Sound) (c : Nat) (t : Team) : (s.flushTeam c t).Sound :=
  State.foldl_sound (fun _ _ hu => State.flushL1_sound (State.drain_sound hu ..) ..) h _

@[simp ↓] theorem State.endTeam_sound {s : State} (h : s.Sound) (c slot : Nat) (t : Team) (zero : Bool) : (s.endTeam c slot t zero).Sound := by
  simp (disch := simp [h]) [State.endTeam]

@[simp ↓] theorem State.closeTeam_sound {s : State} (h : s.Sound) (c slot : Nat) (t : Team) : (s.closeTeam c slot t).Sound := by
  unfold State.closeTeam
  refine State.foldl_sound (fun u e hu => ?_) (h.frame (State.foldl_frame (fun v p => State.foldl_frame (fun _ _ => State.closeStream_frame ..) _ _) _ _)) _
  split
  · exact hu.frame (State.frame_trans (State.modCore_frame ..) (State.dropWatch_frame ..))
  · split
    · exact State.leaseEnd_sound hu ..
    · exact hu
  · exact hu

theorem execTeamRetire_sound {s : State} (h : s.Sound) : OutSound (execTeamRetire s) := by
  unfold execTeamRetire
  dsimp only
  repeat' split
  all_goals simp [h]

theorem execTeamRetireDone_sound {s : State} (h : s.Sound) : OutSound (execTeamRetireDone s) := by
  unfold execTeamRetireDone
  dsimp only
  repeat' split
  all_goals simp [h]

@[simp ↓] theorem State.abortTeam_sound {s : State} (h : s.Sound) (c slot : Nat) : (s.abortTeam c slot).Sound := by
  unfold State.abortTeam
  split <;> simp (disch := simp [h]) [h]

@[simp ↓] theorem State.dropSaved_sound {s : State} (h : s.Sound) (c : Nat) (v : Saved) : (s.dropSaved c v).Sound := by
  simp [State.dropSaved, h]

@[simp ↓] theorem State.unpickTeam_sound {s : State} (h : s.Sound) (c slot : Nat) : (s.unpickTeam c slot).Sound := by
  unfold State.unpickTeam
  split <;> simp (disch := simp [h]) [h]

@[simp ↓] theorem State.unpick_sound {s : State} (h : s.Sound) (q : Nat) (b : Basting) : (s.unpick q b).Sound := by
  unfold State.unpick
  extract_lets k live s1 s2 s3 bst s4
  have h1 : s1.Sound := State.Sound.frame (State.foldl_sound (fun _ _ hu => State.unpickTeam_sound hu ..) h live) (State.dropXlate_frame ..)
  have h2 : s2.Sound := State.foldl_sound (fun _ _ hu => State.zeroCore_sound hu ..) h1 _
  have h3 : s3.Sound := h2.frame (State.foldl_frame (fun _ _ => State.modClus_frame ..) _ _)
  exact State.Sound.frame (s := s4) h3 (State.frame_trans (State.post_frame ..) (State.modLaunch_frame ..))

@[simp ↓] theorem State.unpickQ_sound {s : State} (h : s.Sound) (q : Nat) : (s.unpickQ q).Sound := by
  unfold State.unpickQ
  split
  · exact h
  · split <;> simp [h]

/-! ### Front: what keeps the memories canonical -/

theorem execQueueFnWrite_sound {s : State} (h : s.Sound) : OutSound (execQueueFnWrite s) := by
  simp [execQueueFnWrite, h]

@[simp ↓] theorem State.stopQueue_sound {s : State} (h : s.Sound) (q : Nat) (e0 e1 : DWord) (failed : Bool) : (s.stopQueue q e0 e1 failed).Sound := by
  simp [State.stopQueue, h]

@[simp ↓] theorem State.prodWrite_sound {s : State} (h : s.Sound) (q : Nat) (v : Nat) : (s.prodWrite q v).Sound := by
  simp [State.prodWrite, h]

theorem execQProdWrite_sound {s : State} (h : s.Sound) : OutSound (execQProdWrite s) := by
  simp [execQProdWrite, h]

@[simp ↓] theorem State.queueDestroy_sound {s : State} (h : s.Sound) (q : Nat) (abort : Bool) : (s.queueDestroy q abort).Sound := by
  unfold State.queueDestroy
  extract_lets k
  split
  · simp [h]
  · split
    · rename_i s1 s2 s3 _ _ _ s4 _ _
      have h1 : s1.Sound := h.frame (State.modQueue_frame ..)
      have h2 : s2.Sound := State.foldl_sound (fun u l hu => by split <;> simp [hu]) h1 _
      have h3 : s3.Sound := State.unpickQ_sound h2 q
      refine State.Sound.frame (s := s4) ?_ (State.modQueue_frame ..)
      simp only [s4]
      split
      · refine State.foldl_sound (fun u e hu => State.foldl_sound (fun _ _ hw => State.dropSaved_sound hw ..) hu _) ?_ _
        refine State.foldl_sound (fun u e hu => State.abortTeam_sound hu ..) ?_ _
        exact h3.frame (State.foldl_frame (fun _ _ => State.modLaunch_frame ..) _ _)
      · exact h3
    · simp [h]

theorem State.qCommand_sound {s : State} (h : s.Sound) {f : Nat → State} (hf : (f s.inp.id).Sound) : OutSound (s.qCommand f) := State.ite_sound hf h

theorem execQueueCreate_sound {s : State} (h : s.Sound) : OutSound (execQueueCreate s) := State.qCommand_sound h (by simp [h])

theorem execQueueDestroy_sound {s : State} (h : s.Sound) : OutSound (execQueueDestroy s) := State.qCommand_sound h (State.queueDestroy_sound h ..)

theorem execQueueResume_sound {s : State} (h : s.Sound) : OutSound (execQueueResume s) := State.qCommand_sound h (by simp [h])

theorem execRecordRead_sound {s : State} (h : s.Sound) : OutSound (execRecordRead s) := by
  unfold execRecordRead
  dsimp only
  repeat' split
  all_goals simp [h]

@[simp ↓] theorem State.fetchFault_sound {s : State} (h : s.Sound) (q n wofs : Nat) : (s.fetchFault q n wofs).Sound := by
  simp [State.fetchFault, h]

theorem execCompletionTimeout_sound {s : State} (h : s.Sound) : OutSound (execCompletionTimeout s) := by
  unfold execCompletionTimeout
  dsimp only
  repeat' split
  all_goals simp [h]

@[simp ↓] theorem State.frontX_sound {s : State} (h : s.Sound) (c aspc q no : Nat) (a : DWord) : (s.frontX c aspc q no a).Sound := by
  unfold State.frontX
  repeat' split
  all_goals simp [h]

@[simp ↓] theorem State.frontUnit_sound {s : State} (h : s.Sound) (c aspc q no : Nat) (a : DWord) : (s.frontUnit c aspc q no a).Sound := by
  unfold State.frontUnit
  have hx := State.frontX_sound h c aspc q no a
  split
  all_goals rename_i e; rw [e] at hx
  · exact hx
  · exact hx
  · dsimp only
    repeat' split
    all_goals simp [h]

@[simp ↓] theorem State.frontSpan_sound {s : State} (h : s.Sound) (c aspc q no a n : Nat) : (s.frontSpan c aspc q no a n).Sound := by
  induction n generalizing a with
  | zero => trivial
  | succ n ih =>
    unfold State.frontSpan
    split
    · split
      · trivial
      · exact ih _
    · exact State.frontUnit_sound h ..

@[simp ↓] theorem State.frontBytes_sound {s : State} (h : s.Sound) (q fn aspc no a len : Nat) : PartSound (s.frontBytes q fn aspc no a len) := by
  unfold State.frontBytes
  split
  · exact h
  · rename_i c _
    have hp := State.frontSpan_sound h c aspc q no (a / 64 * 64) ((a % 64 + len + 63) / 64)
    split
    all_goals rename_i e; rw [e] at hp
    · exact h
    · exact hp
    · exact hp

@[simp ↓] theorem State.frontMap_sound {s : State} (h : s.Sound) (q fn no : Nat) (rcd : List Byte) : PartSound (s.frontMap q fn no rcd) := by
  unfold State.frontMap
  split
  · exact h
  · exact State.frontBytes_sound h ..

@[simp ↓] theorem State.frontImage_sound {s : State} (h : s.Sound) (q fn no : Nat) (rcd : List Byte) : PartSound (s.frontImage q fn no rcd) := by
  unfold State.frontImage
  split
  · exact h
  · exact State.frontBytes_sound h ..

section
variable {s t : State} {q fn no : Nat} {rcd : List Byte} {r : State × Option (List Byte)}

theorem State.frontMap_error_sound (h : s.Sound) (e : s.frontMap q fn no rcd = .error t) : t.Sound := (congrArg PartSound e).mp (State.frontMap_sound h ..)

theorem State.frontMap_ok_sound (h : s.Sound) (e : s.frontMap q fn no rcd = .ok r) : r.1.Sound := (congrArg PartSound e).mp (State.frontMap_sound h ..)

theorem State.frontImage_error_sound (h : s.Sound) (e : s.frontImage q fn no rcd = .error t) : t.Sound := (congrArg PartSound e).mp (State.frontImage_sound h ..)

theorem State.frontImage_ok_sound (h : s.Sound) (e : s.frontImage q fn no rcd = .ok r) : r.1.Sound := (congrArg PartSound e).mp (State.frontImage_sound h ..)
end

@[simp ↓] theorem State.depStep_sound {s : State} (h : s.Sound) (l : Launch) (i : Nat) : (s.depStep l i).Sound := by
  unfold State.depStep
  split
  · trivial
  · split
    · exact h
    · rename_i c _
      have hx := State.frontX_sound h c (recAspc l.rcd) l.q (frontNo (l.seq % 2 ^ 24) i) (recDepa l.rcd i)
      dsimp only
      split
      all_goals rename_i e; rw [e] at hx
      · exact hx
      · exact hx
      · split <;> simp [h]

@[simp ↓] theorem State.depFail_sound {s : State} (h : s.Sound) (l : Launch) (i : Nat) : (s.depFail l i).Sound := by
  simp [State.depFail, h]

@[simp ↓] theorem State.tryDeps_sound {s : State} (h : s.Sound) (k : Nat × Nat) : (s.tryDeps k).Sound := by
  refine State.foldl_sound (fun u i hu => ?_) h _
  split
  · exact hu
  · rename_i l _
    split
    · have hd := State.depStep_sound hu l i
      split
      all_goals
        rename_i e
        rw [e, DepStep.Sound] at hd
      · exact hu
      · exact hd
      · simp [hd]
    · exact hu

@[simp ↓] theorem State.acceptRecord_sound {s : State} (h : s.Sound) (q n : Nat) (rcd : List Byte) (map img : Option (List Byte)) :
    (s.acceptRecord q n rcd map img).Sound := by
  unfold State.acceptRecord
  extract_lets s0
  have h0 : s0.Sound := h.frame (State.modQueue_frame ..)
  split
  · simp [h0]
  · rename_i image l s1 s2 s3 _ _
    have h2 : s2.Sound := State.Sound.frame (h0.frame (State.modQueue_frame ..)) (State.slotPassed_frame ..)
    have h3 : s3.Sound := by
      simp only [s3]
      repeat' split
      · exact h2
      · exact State.unpickQ_sound h2 q
      · exact h2
      · exact h2
    simp [h3]

theorem execRecordArrival_sound {s : State} (h : s.Sound) : OutSound (execRecordArrival s) := by
  unfold execRecordArrival
  dsimp only
  split
  · exact h
  · split
    · simp [h]
    · split
      · split
        · split <;> simp [h]
        · exact h
      · rw [outSound_iff.1]
        split
        · exact State.acceptRecord_sound h ..
        · split
          · exact State.frontMap_error_sound h ‹_›
          · have h1 := State.frontMap_ok_sound h ‹_›
            split
            · exact State.acceptRecord_sound h1 ..
            · split
              · exact State.frontImage_error_sound h1 ‹_›
              · exact State.acceptRecord_sound (State.frontImage_ok_sound h1 ‹_›) ..

theorem execDependenceSatisfied_sound {s : State} (h : s.Sound) : OutSound (execDependenceSatisfied s) := by
  unfold execDependenceSatisfied
  repeat' split
  all_goals simp [h]

theorem execEnqRequest_sound {s : State} (h : s.Sound) : OutSound (execEnqRequest s) := by
  unfold execEnqRequest
  dsimp only
  repeat' split
  all_goals simp [h]

@[simp ↓] theorem State.completion_sound {s : State} (h : s.Sound) (l : Launch) : (s.completion l).Sound := by
  unfold State.completion
  dsimp only
  repeat' split
  all_goals simp [h]

@[simp ↓] theorem State.endLaunch_sound {s : State} (h : s.Sound) (l : Launch) : (s.endLaunch l).Sound := by
  unfold State.endLaunch
  split
  · simp [h]
  · have hc := State.completion_sound h l
    split
    all_goals
      rename_i e
      rw [e, CompStep.Sound] at hc
      simp [hc]

@[simp ↓] theorem State.stallCheck_sound {s : State} (h : s.Sound) (l : Launch) (now : List Nat) : (s.stallCheck l now).Sound := by
  unfold State.stallCheck
  extract_lets k cs
  split
  · repeat' split
    · exact State.stopQueue_sound (h.frame (State.modLaunch_frame ..)) ..
    · exact h
    · exact h.frame (State.modLaunch_frame ..)
    · exact h.frame (State.modLaunch_frame ..)
  · exact h.frame (State.modLaunch_frame ..)

@[simp ↓] theorem State.waveEnd_sound {s : State} (h : s.Sound) (sums : Assoc (Nat × Nat) (List Nat)) : (s.waveEnd sums).Sound := by
  refine State.foldl_sound (fun u e hu => ?_) h _
  split
  · exact hu
  · split
    · simp [hu]
    · exact State.stallCheck_sound (hu.frame (State.modLaunch_frame ..)) ..

theorem execQuiescenceWave_sound {s : State} (h : s.Sound) : OutSound (execQuiescenceWave s) := by
  unfold execQuiescenceWave
  dsimp only
  repeat' split
  all_goals simp [h]

/-! ### Placing: what keeps the memories canonical -/

@[simp ↓] theorem State.geometryStop_sound {s : State} (h : s.Sound) (l : Launch) : (s.geometryStop l).Sound := by
  simp [State.geometryStop, h]

@[simp ↓] theorem State.placeFirst_sound {s : State} (h : s.Sound) (l : List Launch) : (s.placeFirst l).Sound := by
  induction l with
  | nil => exact h
  | cons l ls ih =>
    unfold State.placeFirst
    extract_lets fn
    split
    · simp [h]
    · split
      · split <;> simp [h]
      · simp [h]
      · exact ih

theorem execTeamPlace_sound {s : State} (h : s.Sound) : OutSound (execTeamPlace s) := by
  simp [execTeamPlace, h]

theorem execLaunchBlocking_sound {s : State} (h : s.Sound) : OutSound (execLaunchBlocking s) := by
  unfold execLaunchBlocking
  repeat' split
  all_goals simp [h]

theorem execTeamStall_sound {s : State} (h : s.Sound) : OutSound (execTeamStall s) := by
  unfold execTeamStall
  dsimp only
  repeat' split
  all_goals simp [h]

/-! ### Basting: what keeps the memories canonical -/

@[simp ↓] theorem State.bstCtlWrite_sound {s : State} (h : s.Sound) (v : DWord) : (s.bstCtlWrite v).Sound := by
  refine State.foldl_sound (fun u e hu => ?_) (s := { s with bst := { s.bst with ctl := v &&& 0xFF07#64 } }) h _
  dsimp only
  split <;> simp [hu]

theorem execBstCtlWrite_sound {s : State} (h : s.Sound) : OutSound (execBstCtlWrite s) := by
  simp [execBstCtlWrite, h]

@[simp ↓] theorem State.depHolds_sound {s : State} (h : s.Sound) (c q : Nat) (rcd : List Byte) (i : Nat) : PartSound (s.depHolds c q rcd i) := by
  unfold State.depHolds
  have hu := State.frontUnit_sound h c (recAspc rcd) q 0 (recDepa rcd i)
  split
  all_goals rename_i e; rw [e] at hu
  · exact hu
  · exact hu
  · exact h

@[simp ↓] theorem State.depsHold_sound {s : State} (h : s.Sound) (c q : Nat) (rcd : List Byte) (l : List Nat) : PartSound (s.depsHold c q rcd l) := by
  induction l generalizing s with
  | nil => exact h
  | cons i is ih =>
    unfold State.depsHold
    have hd := State.depHolds_sound h c q rcd i
    split
    all_goals rename_i e; rw [e] at hd
    · exact hd
    · exact hd
    · have hr := ih hd
      split
      · rename_i e
        rw [e] at hr
        exact hr
      · exact hr

theorem State.basteTeams_sound {s : State} (h : s.Sound) {fn : Nat} {l : Nat × Nat} {rcd img : List Byte} {map : Option (List Byte)} {ok : List Nat} {deps : List (Nat × Nat)}
    {n t : Nat} {last : Option Nat} {r : State × List Nat × List (Nat × Nat)} (e : s.basteTeams fn l rcd img map ok deps n t last = some r) : r.1.Sound := by
  induction n generalizing s t last r with
  | zero =>
    cases e
    exact h
  | succ n ih =>
    unfold State.basteTeams at e
    split at e
    · cases e
    · split at e
      · cases e
      · rename_i hx
        cases e
        have hr := ih (h.frame (State.placeTeam_frame ..)) hx
        exact hr

theorem State.basteTry_sound {s : State} (h : s.Sound) {q : Nat} {rcd : List Byte} {map img : Option (List Byte)} {deps : List (Nat × Nat)} {t : State}
    (e : s.basteTry q rcd map img deps = some t) : t.Sound := by
  unfold State.basteTry at e
  dsimp only at e
  split at e
  · cases e
  · split at e
    · cases e
    · rename_i hr
      cases e
      exact State.basteTeams_sound h hr

@[simp ↓] theorem State.basteGo_sound {s : State} (h : s.Sound) (q : Nat) (rcd : List Byte) (map img : Option (List Byte)) : (s.basteGo q rcd map img).Sound := by
  unfold State.basteGo
  split
  · exact h.frame (State.baste0_frame ..)
  · rename_i c _
    have hd := State.depsHold_sound h c q rcd (List.range (min 4 (recNdep rcd)))
    split
    all_goals rename_i e; rw [e] at hd
    · exact hd
    · exact State.Sound.frame hd (State.baste0_frame ..)
    · rename_i t deps
      refine State.Sound.frame (s := (t.basteTry q rcd map img deps).getD t) ?_ (State.baste0_frame ..)
      cases ht : t.basteTry q rcd map img deps with
      | none => exact hd
      | some u => exact State.basteTry_sound hd ht

theorem execBasteStart_sound {s : State} (h : s.Sound) : OutSound (execBasteStart s) := by
  unfold execBasteStart
  extract_lets q
  split
  · exact h
  · split
    · exact h
    · rename_i k s0 _ _ _ _ _
      have h0 : s0.Sound := h.frame (State.basteReads_frame ..)
      rw [outSound_iff.1]
      split
      · exact State.basteGo_sound h0 ..
      · split
        · exact State.basteGo_sound h0 ..
        · split
          · exact State.frontMap_error_sound h0 ‹_›
          · have h1 := State.frontMap_ok_sound h0 ‹_›
            split
            · exact State.frontImage_error_sound h1 ‹_›
            · exact State.basteGo_sound (State.frontImage_ok_sound h1 ‹_›) ..

theorem execBasteAdopt_sound {s : State} (h : s.Sound) : OutSound (execBasteAdopt s) := by
  unfold execBasteAdopt
  dsimp only
  repeat' split
  all_goals simp [h]

theorem execGenReply_sound {s : State} (h : s.Sound) : OutSound (execGenReply s) := by
  unfold execGenReply
  dsimp only
  repeat' split
  all_goals simp [h]

@[simp ↓] theorem State.commitLine_sound {s : State} (h : s.Sound) (c : Nat) (l : Nat × Nat × List Byte) : (s.commitLine c l).Sound := by
  simp [State.commitLine, h]

@[simp ↓] theorem State.commit_sound {s : State} (h : s.Sound) (q : Nat) (b : Basting) : (s.commit q b).Sound := by
  unfold State.commit
  extract_lets s1 s2
  have h1 : s1.Sound := State.foldl_sound (fun u c hu =>
    State.Sound.frame (State.foldl_sound (fun _ _ hv => State.commitLine_sound hv ..) hu _) (State.modClus_frame ..)) h _
  exact State.Sound.frame (s := s2) h1 (State.setBasting_frame ..)

theorem execBasteRevalidated_sound {s : State} (h : s.Sound) : OutSound (execBasteRevalidated s) := by
  unfold execBasteRevalidated
  dsimp only
  repeat' split
  all_goals simp [h]

theorem execBasteCommitted_sound {s : State} (h : s.Sound) : OutSound (execBasteCommitted s) := by
  unfold execBasteCommitted
  dsimp only
  repeat' split
  all_goals simp [h]

theorem execBasteClaimed_sound {s : State} (h : s.Sound) : OutSound (execBasteClaimed s) := by
  unfold execBasteClaimed
  dsimp only
  repeat' split
  all_goals simp [h]

theorem execBasteUnpick_sound {s : State} (h : s.Sound) : OutSound (execBasteUnpick s) := by
  simp [execBasteUnpick, h]

theorem execBasteLifeExpiry_sound {s : State} (h : s.Sound) : OutSound (execBasteLifeExpiry s) := by
  unfold execBasteLifeExpiry
  repeat' split
  all_goals simp [h]

/-! ### Control: what keeps the memories canonical -/

@[simp ↓] theorem branch_sound {s : State} (h : s.Sound) (i : Instr) (o : BitVec 12) (cond : Ctx → Bool) : OutSound (branch i o cond s) :=
  runInstr_sound h i (fun t ht => by split <;> exact ht)

theorem execBeq_sound {s : State} (h : s.Sound) (a b : Reg) (o : BitVec 12) : OutSound (execBeq a b o s) := by
  simp [execBeq, h]

theorem execBne_sound {s : State} (h : s.Sound) (a b : Reg) (o : BitVec 12) : OutSound (execBne a b o s) := by
  simp [execBne, h]

theorem execBlt_sound {s : State} (h : s.Sound) (a b : Reg) (o : BitVec 12) : OutSound (execBlt a b o s) := by
  simp [execBlt, h]

theorem execBge_sound {s : State} (h : s.Sound) (a b : Reg) (o : BitVec 12) : OutSound (execBge a b o s) := by
  simp [execBge, h]

theorem execBltu_sound {s : State} (h : s.Sound) (a b : Reg) (o : BitVec 12) : OutSound (execBltu a b o s) := by
  simp [execBltu, h]

theorem execBgeu_sound {s : State} (h : s.Sound) (a b : Reg) (o : BitVec 12) : OutSound (execBgeu a b o s) := by
  simp [execBgeu, h]

theorem execBriEq_sound {s : State} (h : s.Sound) (a : Reg) (i : BitVec 6) (o : BitVec 12) : OutSound (execBriEq a i o s) := by
  simp [execBriEq, h]

theorem execBriNe_sound {s : State} (h : s.Sound) (a : Reg) (i : BitVec 6) (o : BitVec 12) : OutSound (execBriNe a i o s) := by
  simp [execBriNe, h]

theorem execBriLt_sound {s : State} (h : s.Sound) (a : Reg) (i : BitVec 6) (o : BitVec 12) : OutSound (execBriLt a i o s) := by
  simp [execBriLt, h]

theorem execBriGe_sound {s : State} (h : s.Sound) (a : Reg) (i : BitVec 6) (o : BitVec 12) : OutSound (execBriGe a i o s) := by
  simp [execBriGe, h]

theorem execBriLtu_sound {s : State} (h : s.Sound) (a : Reg) (i : BitVec 6) (o : BitVec 12) : OutSound (execBriLtu a i o s) := by
  simp [execBriLtu, h]

theorem execBriGeu_sound {s : State} (h : s.Sound) (a : Reg) (i : BitVec 6) (o : BitVec 12) : OutSound (execBriGeu a i o s) := by
  simp [execBriGeu, h]

theorem execJ_sound {s : State} (h : s.Sound) (o : BitVec 24) : OutSound (execJ o s) :=
  runInstr_sound h _ (fun t ht => by simp [ht])

theorem execJl_sound {s : State} (h : s.Sound) (o : BitVec 24) : OutSound (execJl o s) :=
  runInstr_sound h _ (fun t ht => by simp [ht])

theorem execJlr_sound {s : State} (h : s.Sound) (d a : Reg) : OutSound (execJlr d a s) :=
  runInstr_sound h _ (fun t ht => by simp [ht])

@[simp ↓] theorem loopBy_sound {t : State} (h : t.Sound) (n : Ctx → Word) (o : BitVec 12) : (loopBy n o t).Sound := by
  unfold loopBy
  dsimp only
  repeat' split
  all_goals simp [h]

theorem execLoop_sound {s : State} (h : s.Sound) (a : Reg) (o : BitVec 12) : OutSound (execLoop a o s) :=
  runInstr_sound h _ (fun t ht => by simp [ht])

theorem execLoopi_sound {s : State} (h : s.Sound) (c o : BitVec 12) : OutSound (execLoopi c o s) :=
  runInstr_sound h _ (fun t ht => by simp [ht])

theorem execLexit_sound {s : State} (h : s.Sound) : OutSound (execLexit s) :=
  runInstr_sound h _ (fun t ht => by split <;> simp [ht])

theorem execNop_sound {s : State} (h : s.Sound) : OutSound (execNop s) :=
  runInstr_sound h _ (fun t ht => by simp [ht])

theorem execYield_sound {s : State} (h : s.Sound) : OutSound (execYield s) :=
  runInstr_sound h _ (fun t ht => by simp [ht])

theorem execHalt_sound {s : State} (h : s.Sound) : OutSound (execHalt s) := by
  simp [execHalt, h]

theorem execMfs_sound {s : State} (h : s.Sound) (d : Reg) (sr : SReg) : OutSound (execMfs d sr s) :=
  runInstr_sound h _ (fun t ht => by simp [ht])

theorem execMts_sound {s : State} (h : s.Sound) (sr : SReg) (a : Reg) : OutSound (execMts sr a s) :=
  runReading_sound h _ _ (fun t ht => by split <;> simp [ht])

theorem execTrap_sound {s : State} (h : s.Sound) (code : BitVec 6) : OutSound (execTrap code s) :=
  runInstr_sound h _ (fun _ _ => by simp)

theorem execBkpt_sound {s : State} (h : s.Sound) : OutSound (execBkpt s) :=
  runInstr_sound h _ (fun _ _ => by simp)

theorem execRft_sound {s : State} (h : s.Sound) : OutSound (execRft s) :=
  runInstr_sound h _ (fun t ht => by split <;> simp [ht])

theorem execSvc_sound {s : State} (h : s.Sound) (n : Reg) : OutSound (execSvc n s) :=
  runInstr_sound h _ (fun t ht => by
    repeat' split
    all_goals simp [ht])

/-! ### Convert: what keeps the memories canonical -/

@[simp ↓] theorem convertLanes_sound {s : State} (h : s.Sound) (i : Instr) (dt st : Ty) (mode : Ctx → RMode) (d a : Oct) (r q : Nat) (m : MReg) :
    OutSound (convertLanes i dt st mode d a r q m s) :=
  runInstr_sound h i (fun _ hu => writeLanes_sound hu ..)

theorem execVcvt_sound {s : State} (h : s.Sound) (t st : Ty) (r : Rc) (d a : Oct) (m : MReg) : OutSound (execVcvt t st r d a m s) := by
  simp [execVcvt, h]

theorem execVcvtw_sound {s : State} (h : s.Sound) (t st : Ty) (d a : Oct) (m : MReg) : OutSound (execVcvtw t st d a m s) := by
  simp [execVcvtw, h]

theorem execVcvtn_sound {s : State} (h : s.Sound) (t st : Ty) (r : Rc) (d a : Oct) (m : MReg) : OutSound (execVcvtn t st r d a m s) := by
  simp [execVcvtn, h]

theorem execVqnt_sound {s : State} (h : s.Sound) (st : Ty) (d a : Oct) : OutSound (execVqnt st d a s) :=
  runInstr_sound h _ (fun t ht => by
    dsimp only
    repeat' split
    all_goals simp [ht])

theorem execVdq_sound {s : State} (h : s.Sound) (t : Ty) (r : Rc) (d a : Oct) (m : MReg) : OutSound (execVdq t r d a m s) :=
  runInstr_sound h _ (fun t ht => by simp [ht])

/-! ### Service: what keeps the memories canonical -/

theorem execTableWalkRead_sound {s : State} (h : s.Sound) : OutSound (execTableWalkRead s) := by
  unfold execTableWalkRead
  split <;> simp [h]

theorem execTuRetry_sound {s : State} (h : s.Sound) : OutSound (execTuRetry s) := by
  simp [execTuRetry, h]

theorem execTuFail_sound {s : State} (h : s.Sound) : OutSound (execTuFail s) := by
  simp [execTuFail, h]

theorem execTuAnswer_sound {s : State} (h : s.Sound) : OutSound (execTuAnswer s) := by
  simp [execTuAnswer, h]

theorem execTuInvPage_sound {s : State} (h : s.Sound) : OutSound (execTuInvPage s) := by
  simp [execTuInvPage, h]

theorem execTuInvSpace_sound {s : State} (h : s.Sound) : OutSound (execTuInvSpace s) := by
  simp [execTuInvSpace, h]

theorem execTuInvAll_sound {s : State} (h : s.Sound) : OutSound (execTuInvAll s) := by
  simp [execTuInvAll, h]

theorem execTuInvDone_sound {s : State} (h : s.Sound) : OutSound (execTuInvDone s) := by
  simp [execTuInvDone, h]

theorem execSvcCtlWrite_sound {s : State} (h : s.Sound) : OutSound (execSvcCtlWrite s) := by
  simp [execSvcCtlWrite, h]

@[simp ↓] theorem State.dbgAccess_sound {s : State} (h : s.Sound) (write : Bool) (fn c : Nat) (v : DWord) : (s.dbgAccess write fn c v).Sound := by
  unfold State.dbgAccess
  extract_lets a
  split
  · simp [h]
  · have hq := State.quiet_sound h c (v.extractLsb' 48 4).toNat (if write then .home else .read) a (if write then .store else .load) (.dbg c)
    split
    all_goals
      rename_i e
      rw [e, QuietRes.Sound] at hq
    · simp [hq]
    · simp [hq]
    · dsimp only
      repeat' split
      all_goals simp [h]

@[simp ↓] theorem State.dbgRun_sound {s : State} (h : s.Sound) (write : Bool) (fn c : Nat) (v : DWord) : (s.dbgRun write fn c v).Sound := by
  simp (disch := simp [h]) [State.dbgRun, h]

@[simp ↓] theorem State.dbgStart_sound {s : State} (h : s.Sound) (write : Bool) (fn c : Nat) (v : DWord) : (s.dbgStart write fn c v).Sound := by
  simp [State.dbgStart, h]

@[simp ↓] theorem State.dbgGoOn_sound {s : State} (h : s.Sound) (write : Bool) (c : Nat) : (s.dbgGoOn write c).Sound := by
  unfold State.dbgGoOn
  split <;> simp [h]

theorem execDbgRead_sound {s : State} (h : s.Sound) : OutSound (execDbgRead s) := by
  simp [execDbgRead, h]

theorem execDbgWrite_sound {s : State} (h : s.Sound) : OutSound (execDbgWrite s) := by
  simp [execDbgWrite, h]

/-! ### Table: what keeps the memories canonical -/

@[simp ↓] theorem tableDenied_sound (k : Nat) : (tableDenied k).Sound := trivial

theorem execVtbl_sound {s : State} (h : s.Sound) (t : Ty) (r : Rc) (d a : Oct) (k : BitVec 2) (m : MReg) : OutSound (execVtbl t r d a k m s) :=
  runInstr_sound h _ (fun t ht => by
    dsimp only
    repeat' split
    all_goals simp [ht])

theorem execVtbld_sound {s : State} (h : s.Sound) (k : BitVec 2) (a : Reg) : OutSound (execVtbld k a s) :=
  runInstr_sound h _ (fun t ht => by
    dsimp only
    repeat' split
    all_goals simp [ht])

theorem execVtbldDone_sound {s : State} (h : s.Sound) : OutSound (execVtbldDone s) := by
  unfold execVtbldDone
  dsimp only
  repeat' split
  all_goals simp [h]

/-! ### Preempt: what keeps the memories canonical -/

theorem State.preWrite_sound {s : State} (h : s.Sound) (fn c : Nat) {f : State → State} (hf : ∀ u, u.Sound → (f u).Sound) : (s.preWrite fn c f).Sound := by
  unfold State.preWrite
  split
  · exact h
  · split
    · simp [h]
    · exact hf _ h

theorem execPreSave_sound {s : State} (h : s.Sound) : OutSound (execPreSave s) := by
  simp [execPreSave, h]

@[simp ↓] theorem State.saveTeam_sound {s : State} (h : s.Sound) (c slot : Nat) (t : Team) (pre : Pre) : (s.saveTeam c slot t pre).Sound := by
  unfold State.saveTeam
  extract_lets u v nonce teamn header banks ctxs cores tables image s1 s2 s3 s4 s5
  have h0 : u.Sound := State.flushTeam_sound h c t
  clear_value u v nonce teamn
  have h1 : s1.Sound := State.toImg_sound (State.writeImg_sound (h0.frame (State.drew_frame u)) ..) ..
  have h2 : s2.Sound := h1.frame (State.foldl_frame (fun _ _ => State.modCore_frame ..) _ _)
  have h3 : s3.Sound := h2.frame (State.foldl_frame (fun _ _ => State.frame_trans (State.unlist_frame ..) (State.cancelWaits_frame ..)) _ _)
  have h4 : s4.Sound := State.vacate_sound (h3.frame (State.countRetired_frame ..)) ..
  have h5 : s5.Sound := State.toImg_sound (h4.frame (State.frame_trans (State.modClus_frame ..) (State.countSlot_frame ..))) ..
  exact h5.frame (State.frame_trans (State.post_frame ..) (State.modClus_frame ..))

theorem execSaveDrained_sound {s : State} (h : s.Sound) : OutSound (execSaveDrained s) := by
  unfold execSaveDrained
  dsimp only
  repeat' split
  all_goals simp [h]

@[simp ↓] theorem State.preDrop_sound {s : State} (h : s.Sound) (fn c : Nat) (v : DWord) : (s.preDrop fn c v).Sound := by
  refine State.preWrite_sound h fn c (fun u hu => ?_)
  split
  · simp [hu]
  · split
    · exact hu
    · simp [hu]

theorem execPreResume_sound {s : State} (h : s.Sound) : OutSound (execPreResume s) := by
  simp [execPreResume, h]

theorem execPreDrop_sound {s : State} (h : s.Sound) : OutSound (execPreDrop s) := by
  simp [execPreDrop, h]

@[simp ↓] theorem State.restoreCore_sound {s : State} (h : s.Sound) (c : Nat) (v : Saved) (n : Nat) : (s.restoreCore c v n).Sound := by
  unfold State.restoreCore
  exact State.Sound.frame (State.writeImg_sound h ..) (State.modCore_frame ..)

@[simp ↓] theorem State.resumeTeam_sound {s : State} (h : s.Sound) (c : Nat) (v0 : Saved) (key : Nat) : (s.resumeTeam c v0 key).Sound := by
  unfold State.resumeTeam
  extract_lets v rcd s1 banks s2 o s3 capt teamn s4 t s5 retc s6 s7
  have h1 : s1.Sound := State.foldl_sound (fun _ _ hu => State.restoreCore_sound hu ..) h _
  have h2 : s2.Sound := h1.frame (State.foldl_frame (fun _ _ => State.modTile_frame ..) _ _)
  have h3 : s3.Sound := h2.frame (State.foldl_frame (fun _ _ => State.modTile_frame ..) _ _)
  have h4 : s4.Sound := h3.frame (State.foldl_frame (fun _ _ => State.setCtx_frame ..) _ _)
  have h6 : s6.Sound := State.Sound.frame (s := s5) h4 (State.count_frame ..)
  have h7 : s7.Sound := State.toImg_sound (h6.frame (State.modClus_frame ..)) ..
  exact h7

theorem execResumePlace_sound {s : State} (h : s.Sound) : OutSound (execResumePlace s) := by
  unfold execResumePlace
  dsimp only
  repeat' split
  all_goals simp [h]

/-! ### Reset: what keeps the memories canonical -/

@[simp ↓] theorem State.resetQueues_sound {s : State} (h : s.Sound) (qs : List Nat) : (s.resetQueues qs).Sound := by
  unfold State.resetQueues
  extract_lets s1 s2
  have h1 : s1.Sound := State.foldl_sound (fun u q hu => by split <;> simp [hu]) h _
  have h2 : s2.Sound := State.foldl_sound (fun u q hu => by repeat' split
                                                            all_goals simp [hu]) h1 _
  exact h2

@[simp ↓] theorem State.resetTeams_sound {s : State} (h : s.Sound) (cs : List Nat) : (s.resetTeams cs).Sound := by
  refine State.foldl_sound (fun u c hu => ?_) (State.foldl_sound (fun _ _ hu => State.abortTeam_sound hu ..) h _) _
  exact State.Sound.frame (State.foldl_sound (fun _ _ hw => State.dropSaved_sound hw ..) hu _) (State.modClus_frame ..)

@[simp ↓] theorem State.zeroBaste_sound {s : State} (h : s.Sound) (c : Nat) : (s.zeroBaste c).Sound := ⟨memWf_filter h.1 _, h.2⟩

@[simp ↓] theorem State.scrubClus_sound {s : State} (h : s.Sound) (c : Nat) : (s.scrubClus c).Sound := by
  unfold State.scrubClus
  extract_lets s1 s2 s3
  have h2 : s2.Sound := State.Sound.frame (State.zeroBaste_sound (State.zeroStores_sound (State.Sound.frame (s := s1) h (State.freeSenders_frame ..)) c) c) (State.zeroCaches_frame ..)
  exact h2

@[simp ↓] theorem State.resetFn_sound {s : State} (h : s.Sound) (f : Nat) : (s.resetFn f).Sound := by
  unfold State.resetFn
  extract_lets cs qs s1 s2 s3
  have h1 : s1.Sound := State.Sound.frame (State.resetTeams_sound (State.resetQueues_sound h qs) cs) (State.resetOps_frame ..)
  have h2 : s2.Sound := State.Sound.frame (State.foldl_sound (fun _ _ hu => State.scrubClus_sound hu _) h1 _) (State.resetKeys_frame ..)
  exact h2.frame (State.frame_trans (State.foldl_frame (fun _ _ => State.resetQueue_frame ..) _ _) (State.foldl_frame (fun _ _ => State.resetXlate_frame ..) _ _))

@[simp ↓] theorem State.resetAll_sound {s : State} (h : s.Sound) : s.resetAll.Sound := by
  unfold State.resetAll
  extract_lets s1
  have h1 : s1.Sound := by
    simp only [s1]
    split
    · exact State.foldl_sound (fun _ _ hu => State.resetFn_sound hu _) h _
    · exact h
  exact State.resetFn_sound (s := { s1 with sriov := false }) h1 0

theorem execFunctionLevelReset_sound {s : State} (h : s.Sound) : OutSound (execFunctionLevelReset s) := by
  simp [execFunctionLevelReset, h]

theorem execConventionalReset_sound {s : State} (h : s.Sound) : OutSound (execConventionalReset s) := by
  simp [execConventionalReset, h]

theorem execCorrectedError_sound {s : State} (h : s.Sound) : OutSound (execCorrectedError s) := by
  unfold execCorrectedError
  split <;> simp [h]

theorem execUncorrectableError_sound {s : State} (h : s.Sound) : OutSound (execUncorrectableError s) := by
  simp [execUncorrectableError, h]

theorem execHbmLinkTagFail_sound {s : State} (h : s.Sound) : OutSound (execHbmLinkTagFail s) := by
  simp [execHbmLinkTagFail, h]

@[simp ↓] theorem State.parityDrop_sound {s : State} (h : s.Sound) (c slot : Nat) : (s.parityDrop c slot).Sound := by
  unfold State.parityDrop
  split <;> simp (disch := simp [h]) [h]

theorem execParityError_sound {s : State} (h : s.Sound) : OutSound (execParityError s) := by
  unfold execParityError
  split
  · split <;> simp [h]
  · exact State.foldl_sound (fun _ _ hu => State.parityDrop_sound hu ..) h _
  · split <;> simp [h]
  · exact h
  · exact h

theorem execTelemetryUpdate_sound {s : State} (h : s.Sound) : OutSound (execTelemetryUpdate s) := by
  unfold execTelemetryUpdate
  split <;> simp [h]

/-! ### Snap: what keeps the memories canonical -/

theorem State.snapAdvance_sound {s : State} (h : s.Sound) (fn : Nat) : BothSound (s.snapAdvance fn) := by
  unfold State.snapAdvance
  extract_lets c a
  split
  · exact h
  · have hq := State.quiet_sound h c 0 .home a .atomic (.snap fn)
    split
    all_goals
      rename_i e
      rw [e, QuietRes.Sound] at hq
    · exact hq
    · exact hq
    · dsimp only
      split
      · exact h
      · exact State.advance_sound h ..

@[simp ↓] theorem State.snapFinish_sound {s : State} (h : s.Sound) (fn : Nat) : (s.snapFinish fn).Sound := by
  unfold State.snapFinish
  have ha := State.snapAdvance_sound h fn
  split
  all_goals
    rename_i e
    rw [e, BothSound] at ha
    simp [ha]

theorem State.snapCommand_sound {s : State} (h : s.Sound) (fn : Nat) (ok : Snap → Bool) {f : State → State} (hf : ∀ u, u.Sound → (f u).Sound) :
    (s.snapCommand fn ok f).Sound := by
  unfold State.snapCommand
  dsimp only
  split
  · exact h
  · split
    · exact hf _ (h.frame (State.setSnap_frame ..))
    · simp [h]

@[simp ↓] theorem State.snapQuiesce_sound {s : State} (h : s.Sound) (fn : Nat) : (s.snapQuiesce fn).Sound := by
  refine State.snapCommand_sound h fn _ (fun t ht => ?_)
  refine State.Sound.frame (State.foldl_sound (fun u e hu => ?_) (ht.frame (State.setSnap_frame ..)) _) (State.post_frame ..)
  split <;> simp [hu]

theorem execSnapQuiesce_sound {s : State} (h : s.Sound) : OutSound (execSnapQuiesce s) := by
  simp [execSnapQuiesce, h]

theorem execQuiesceDone_sound {s : State} (h : s.Sound) : OutSound (execQuiesceDone s) := by
  unfold execQuiesceDone
  dsimp only
  split
  · exact h
  · split
    · have ha := State.snapAdvance_sound h s.inp.fn
      split
      all_goals
        rename_i e
        rw [e, BothSound] at ha
      · exact ha
      · simp [ha]
    · simp [h]

theorem execSnapCopy_sound {s : State} (h : s.Sound) : OutSound (execSnapCopy s) := by
  simp [execSnapCopy, h]

theorem execCopyDone_sound {s : State} (h : s.Sound) : OutSound (execCopyDone s) := by
  unfold execCopyDone
  dsimp only
  repeat' split
  all_goals simp [h]

theorem execSnapRestore_sound {s : State} (h : s.Sound) : OutSound (execSnapRestore s) := by
  simp [execSnapRestore, h]

@[simp ↓] theorem State.putStored_sound {s : State} (h : s.Sound) (line : Nat) (x : List Byte) : (s.putStored line x).Sound := by
  unfold State.putStored
  generalize List.map _ _ = l
  generalize List.foldl _ _ _ = m
  exact ⟨memPutList_wf h.1 _ _, h.2⟩

@[simp ↓] theorem State.restoreLines_sound {s : State} (h : s.Sound) (fn line : Nat) (l : List (List Byte)) : (s.restoreLines fn line l).Sound := by
  induction l generalizing s line with
  | nil => exact h
  | cons x xs ih =>
    unfold State.restoreLines
    refine ih ?_ _
    split
    · exact State.Sound.frame (State.putStored_sound (h.frame (State.invalidate_frame ..)) ..) (State.bumpGen_frame ..)
    · exact h

theorem execRestoreDone_sound {s : State} (h : s.Sound) : OutSound (execRestoreDone s) := by
  unfold execRestoreDone
  dsimp only
  repeat' split
  all_goals simp [h]

theorem execSnapRelease_sound {s : State} (h : s.Sound) : OutSound (execSnapRelease s) := by
  simp [execSnapRelease, h]

/-! ### Regs: what keeps the memories canonical -/

@[simp ↓] theorem State.ksCmdWrite_sound {s : State} (h : s.Sound) (fn code : Nat) (buf : List Byte) : (s.ksCmdWrite fn code buf).Sound := by
  simp [State.ksCmdWrite, h]

@[simp ↓] theorem State.ksWrite_sound {s : State} (h : s.Sound) (fn r : Nat) (v : DWord) (buf : List Byte) : (s.ksWrite fn r v buf).Sound := by
  simp [State.ksWrite, h]

@[simp ↓] theorem State.snapWrite_sound {s : State} (h : s.Sound) (fn r : Nat) (v : DWord) : (s.snapWrite fn r v).Sound := by
  simp (disch := simp [h]) [State.snapWrite, h]

@[simp ↓] theorem State.qCmdWrite_sound {s : State} (h : s.Sound) (q : Nat) (v : DWord) : (s.qCmdWrite q v).Sound := by
  simp (disch := simp [h]) [State.qCmdWrite, h]

@[simp ↓] theorem State.queueWrite_sound {s : State} (h : s.Sound) (q r : Nat) (v : DWord) : (s.queueWrite q r v).Sound := by
  simp [State.queueWrite, h]

@[simp ↓] theorem State.pfWrite_sound {s : State} (h : s.Sound) (r : Nat) (v : DWord) : (s.pfWrite r v).Sound := by
  simp (disch := simp [h]) [State.pfWrite, h]

@[simp ↓] theorem State.bar0Write_sound {s : State} (h : s.Sound) (fn ofs : Nat) (v : DWord) (buf : List Byte) : (s.bar0Write fn ofs v buf).Sound := by
  simp [State.bar0Write, h]

@[simp ↓] theorem State.windowWrite_sound {s : State} (h : s.Sound) (fn c ofs : Nat) (v : DWord) : (s.windowWrite fn c ofs v).Sound := by
  simp (disch := simp [h]) [State.windowWrite, h]

@[simp ↓] theorem State.bar2Write_sound {s : State} (h : s.Sound) (fn ofs : Nat) (v : DWord) : (s.bar2Write fn ofs v).Sound := by
  unfold State.bar2Write
  extract_lets c
  split
  · exact State.windowWrite_sound h ..
  · exact h

@[simp ↓] theorem State.mgmtWrite_sound {s : State} (h : s.Sound) (a : Nat) (v : DWord) (bytes : List Byte) : (s.mgmtWrite a v bytes).Sound := by
  have keep : ∀ {f : Boot → Boot}, ((f s.boot).sram = s.boot.sram ∧ (f s.boot).flashA = s.boot.flashA ∧ (f s.boot).flashB = s.boot.flashB) → (s.modBoot f).Sound :=
    State.modBoot_sound h
  have hsram : (s.modBoot (fun b => { b with sram := memPutList b.sram (a - 0x10000000) bytes })).Sound := by
    obtain ⟨hm, hs, hab⟩ := h
    exact ⟨hm, memPutList_wf hs _ _, hab⟩
  unfold State.mgmtWrite
  exact State.ite_sound hsram <| State.ite_sound (keep ⟨rfl, rfl, rfl⟩) <| State.ite_sound (keep ⟨rfl, rfl, rfl⟩) <|
    State.ite_sound (keep ⟨rfl, rfl, rfl⟩) <| State.ite_sound (keep ⟨rfl, rfl, rfl⟩) <| State.ite_sound (State.ceStart_sound h _) <|
    State.ite_sound (keep ⟨rfl, rfl, rfl⟩) <| State.ite_sound (keep ⟨rfl, rfl, rfl⟩) <| State.ite_sound (State.meStart_sound h _) <|
    State.ite_sound (State.transmit_sound h _) <| State.ite_sound (State.ite_sound (keep ⟨rfl, rfl, rfl⟩) h) <|
    State.ite_sound (State.bootStatWrite_sound h _) <| State.ite_sound (State.fuStateWrite_sound h _) h

@[simp ↓] theorem State.sriovWrite_sound {s : State} (h : s.Sound) (fn : Nat) (v : DWord) : (s.sriovWrite fn v).Sound := by
  unfold State.sriovWrite
  split
  · exact h
  · split
    · exact h
    · split
      · have h1 : (((List.range 16).map (· + 1)).foldl (fun u f => u.resetFn f) s).Sound := State.foldl_sound (fun _ _ hu => State.resetFn_sound hu _) h _
        generalize List.foldl _ _ _ = u at h1
        exact h1
      · exact h

theorem execRegisterWrite_sound {s : State} (h : s.Sound) : OutSound (execRegisterWrite s) := by
  unfold execRegisterWrite
  split <;> simp [h]

/-! ### Dispatch: what keeps the memories canonical -/

/-- Family by family where a family shares its way of running, else by the lemma of the one instruction or event. -/
theorem exec_sound {s : State} (h : s.Sound) (i : Instr) : OutSound (exec i s) := by
  cases i with
  | vrcp | vrsq | vexp2 => exact unaryFl_sound h ..
  | vmax | vmin | vabs | vneg | vsel | vperm | vbcast | vins | viota => exact lanewise_sound h ..
  | stb | sth | stw | std | stq | sto => exact store_sound h ..
  | ldbH | ldbuH | ldhH | ldhuH | ldwH | lddH | ldqH | ldoH | ldbG | ldbuG | ldhG | ldhuG | ldwG | lddG | ldqG | ldoG => exact load_sound h ..
  | vredMax | vredMin => exact redPick_sound h ..
  | div | divu | rem | remu => exact divide_sound h ..
  | add | sub | mul | mulh | mulhu | and | or | xor | andn | min | max | minu | maxu | shl | shr | sha | rot | clz | ctz | popc | brev | sext | zext
  | mov | sel | setCc | addi | andi | ori | xori | shli | shri | shai | roti | bfx | bfi | movi | movhi | lea | vcmpCc | vext | mand | mor | mxor
  | mnot | mpop | addi16Pos | add16 | sub16 | and16 | or16 | xor16 | mov16 | movi16 | shli16 | shri16 | shai16 | mul16 | min16 | max16 | andi16
  | addi16Neg => exact pureRegs_sound h ..
  | beq => exact execBeq_sound h .. | bne => exact execBne_sound h .. | blt => exact execBlt_sound h .. | bge => exact execBge_sound h ..
  | bltu => exact execBltu_sound h .. | bgeu => exact execBgeu_sound h .. | briEq => exact execBriEq_sound h .. | briNe => exact execBriNe_sound h ..
  | briLt => exact execBriLt_sound h .. | briGe => exact execBriGe_sound h .. | briLtu => exact execBriLtu_sound h .. | briGeu => exact execBriGeu_sound h ..
  | j => exact execJ_sound h .. | jl => exact execJl_sound h .. | jlr => exact execJlr_sound h .. | loop => exact execLoop_sound h ..
  | loopi => exact execLoopi_sound h .. | nop => exact execNop_sound h .. | yield => exact execYield_sound h .. | halt => exact execHalt_sound h ..
  | lexit => exact execLexit_sound h .. | mfs => exact execMfs_sound h .. | mts => exact execMts_sound h .. | trap => exact execTrap_sound h ..
  | rft => exact execRft_sound h .. | bkpt => exact execBkpt_sound h .. | svc => exact execSvc_sound h .. | ldl => exact execLdl_sound h ..
  | stl => exact execStl_sound h .. | atomAdd => exact execAtomAdd_sound h .. | atomMin => exact execAtomMin_sound h ..
  | atomMax => exact execAtomMax_sound h .. | atomMinu => exact execAtomMinu_sound h .. | atomMaxu => exact execAtomMaxu_sound h ..
  | atomAnd => exact execAtomAnd_sound h .. | atomOr => exact execAtomOr_sound h .. | atomXor => exact execAtomXor_sound h ..
  | atomSwap => exact execAtomSwap_sound h .. | atomCas => exact execAtomCas_sound h .. | fence => exact execFence_sound h ..
  | fenceP => exact execFenceP_sound h .. | rwb => exact execRwb_sound h .. | rinv => exact execRinv_sound h .. | clean => exact execClean_sound h ..
  | pull => exact execPull_sound h .. | pulld => exact execPulld_sound h .. | pullc => exact execPullc_sound h .. | stream => exact execStream_sound h ..
  | tagwaitAny => exact execTagwaitAny_sound h .. | tagwaitAll => exact execTagwaitAll_sound h .. | tagff => exact execTagff_sound h ..
  | tagclr => exact execTagclr_sound h .. | tagtst => exact execTagtst_sound h .. | sclose => exact execSclose_sound h .. | mma => exact execMma_sound h ..
  | mmas => exact execMmas_sound h .. | msend => exact execMsend_sound h .. | mdrain => exact execMdrain_sound h .. | mzero => exact execMzero_sound h ..
  | plane => exact execPlane_sound h .. | tidset => exact execTidset_sound h .. | tidclr => exact execTidclr_sound h .. | pub => exact execPub_sound h ..
  | pubi => exact execPubi_sound h .. | unwatch => exact execUnwatch_sound h .. | bar => exact execBar_sound h .. | bara => exact execBara_sound h ..
  | barw => exact execBarw_sound h .. | convoy => exact execConvoy_sound h .. | cjoin => exact execCjoin_sound h .. | cleave => exact execCleave_sound h ..
  | watch => exact execWatch_sound h .. | send => exact execSend_sound h .. | sendt => exact execSendt_sound h .. | recv => exact execRecv_sound h ..
  | recvt => exact execRecvt_sound h .. | enq => exact execEnq_sound h .. | enqt => exact execEnqt_sound h .. | lease => exact execLease_sound h ..
  | coll => exact execColl_sound h .. | leaseq => exact execLeaseq_sound h .. | leaserel => exact execLeaserel_sound h .. | deadq => exact execDeadq_sound h ..
  | vadd => exact execVadd_sound h .. | vsub => exact execVsub_sound h .. | vmul => exact execVmul_sound h .. | vfma => exact execVfma_sound h ..
  | vfms => exact execVfms_sound h .. | vfnma => exact execVfnma_sound h .. | vdot => exact execVdot_sound h .. | vcvt => exact execVcvt_sound h ..
  | vcvtw => exact execVcvtw_sound h .. | vcvtn => exact execVcvtn_sound h .. | vqnt => exact execVqnt_sound h .. | vdq => exact execVdq_sound h ..
  | vredSum => exact execVredSum_sound h .. | vtbl => exact execVtbl_sound h .. | vtbld => exact execVtbld_sound h ..
  | powerGood => exact execPowerGood_sound h .. | romMeasured => exact execRomMeasured_sound h .. | phaseTimeout => exact execPhaseTimeout_sound h ..
  | firstSramFetch => exact execFirstSramFetch_sound h .. | ceHash => exact execCeHash_sound h .. | ceVerifyEcdsa => exact execCeVerifyEcdsa_sound h ..
  | ceVerifyLms => exact execCeVerifyLms_sound h .. | ceCommandDone => exact execCeCommandDone_sound h .. | meExtend => exact execMeExtend_sound h ..
  | meSpdmMeas => exact execMeSpdmMeas_sound h .. | meCommandDone => exact execMeCommandDone_sound h .. | mctpRequest => exact execMctpRequest_sound h ..
  | mbTxlen => exact execMbTxlen_sound h .. | mbTransmitDone => exact execMbTransmitDone_sound h .. | mbRxdone => exact execMbRxdone_sound h ..
  | bootStatWrite => exact execBootStatWrite_sound h .. | fuStateWrite => exact execFuStateWrite_sound h ..
  | configRequest => exact execConfigRequest_sound h .. | trainStart => exact execTrainStart_sound h .. | calDone => exact execCalDone_sound h ..
  | rttDone => exact execRttDone_sound h .. | keysDone => exact execKeysDone_sound h .. | keyUpdate => exact execKeyUpdate_sound h ..
  | ksCreate => exact execKsCreate_sound h .. | ksImport => exact execKsImport_sound h .. | ksExport => exact execKsExport_sound h ..
  | ksOffer => exact execKsOffer_sound h .. | ksAccept => exact execKsAccept_sound h .. | ksAcceptDrained => exact execKsAcceptDrained_sound h ..
  | ksErase => exact execKsErase_sound h .. | ksEraseDrained => exact execKsEraseDrained_sound h .. | ksSimport => exact execKsSimport_sound h ..
  | ksSerase => exact execKsSerase_sound h .. | ksSeraseDrained => exact execKsSeraseDrained_sound h .. | clusterFnWrite => exact execClusterFnWrite_sound h ..
  | queueFnWrite => exact execQueueFnWrite_sound h .. | registerWrite => exact execRegisterWrite_sound h .. | qProdWrite => exact execQProdWrite_sound h ..
  | queueCreate => exact execQueueCreate_sound h .. | queueDestroy => exact execQueueDestroy_sound h .. | queueResume => exact execQueueResume_sound h ..
  | svcCtlWrite => exact execSvcCtlWrite_sound h .. | bstCtlWrite => exact execBstCtlWrite_sound h .. | recordRead => exact execRecordRead_sound h ..
  | recordArrival => exact execRecordArrival_sound h .. | enqRequest => exact execEnqRequest_sound h ..
  | dependenceSatisfied => exact execDependenceSatisfied_sound h .. | teamPlace => exact execTeamPlace_sound h ..
  | launchBlocking => exact execLaunchBlocking_sound h .. | basteStart => exact execBasteStart_sound h .. | basteAdopt => exact execBasteAdopt_sound h ..
  | basteRevalidated => exact execBasteRevalidated_sound h .. | basteCommitted => exact execBasteCommitted_sound h ..
  | basteClaimed => exact execBasteClaimed_sound h .. | basteUnpick => exact execBasteUnpick_sound h ..
  | basteLifeExpiry => exact execBasteLifeExpiry_sound h .. | quantumExpiry => exact execQuantumExpiry_sound h ..
  | fetchLineArrival => exact execFetchLineArrival_sound h .. | breakpointMatch => exact execBreakpointMatch_sound h ..
  | teamStall => exact execTeamStall_sound h .. | tableWalkRead => exact execTableWalkRead_sound h .. | tuRetry => exact execTuRetry_sound h ..
  | tuFail => exact execTuFail_sound h .. | tuAnswer => exact execTuAnswer_sound h .. | tuInvPage => exact execTuInvPage_sound h ..
  | tuInvSpace => exact execTuInvSpace_sound h .. | tuInvAll => exact execTuInvAll_sound h .. | tuInvDone => exact execTuInvDone_sound h ..
  | loadReply => exact execLoadReply_sound h .. | atomReply => exact execAtomReply_sound h .. | l1Eviction => exact execL1Eviction_sound h ..
  | read => exact execRead_sound h .. | readReply => exact execReadReply_sound h .. | pullReq => exact execPullReq_sound h ..
  | pullData => exact execPullData_sound h .. | pullComplete => exact execPullComplete_sound h .. | watchReq => exact execWatchReq_sound h ..
  | watchPoll => exact execWatchPoll_sound h .. | watchDone => exact execWatchDone_sound h .. | msg => exact execMsg_sound h ..
  | msgAnswer => exact execMsgAnswer_sound h .. | enqAnswer => exact execEnqAnswer_sound h .. | unwatchAnswer => exact execUnwatchAnswer_sound h ..
  | fabricQueryAnswer => exact execFabricQueryAnswer_sound h .. | matrixAccept => exact execMatrixAccept_sound h ..
  | bFetchDone => exact execBFetchDone_sound h .. | matrixStepStart => exact execMatrixStepStart_sound h ..
  | matrixStepDone => exact execMatrixStepDone_sound h .. | vtbldDone => exact execVtbldDone_sound h .. | flitSend => exact execFlitSend_sound h ..
  | data => exact execData_sound h .. | ack => exact execAck_sound h .. | nak => exact execNak_sound h .. | idle => exact execIdle_sound h ..
  | echo => exact execEcho_sound h .. | ackTimer => exact execAckTimer_sound h .. | retransmitTimeout => exact execRetransmitTimeout_sound h ..
  | idleTimer => exact execIdleTimer_sound h .. | colourRecalibrated => exact execColourRecalibrated_sound h ..
  | laneRetuned => exact execLaneRetuned_sound h .. | leaseReq => exact execLeaseReq_sound h .. | leaseAnswer => exact execLeaseAnswer_sound h ..
  | leaseWaitExpiry => exact execLeaseWaitExpiry_sound h .. | termEnd => exact execTermEnd_sound h .. | genReq => exact execGenReq_sound h ..
  | genReply => exact execGenReply_sound h .. | state => exact execState_sound h .. | error => exact execError_sound h ..
  | deadPeerDeclare => exact execDeadPeerDeclare_sound h .. | collStart => exact execCollStart_sound h .. | collWatchMet => exact execCollWatchMet_sound h ..
  | collPullLanded => exact execCollPullLanded_sound h .. | tnodeExpiry => exact execTnodeExpiry_sound h .. | tlimExpiry => exact execTlimExpiry_sound h ..
  | preSave => exact execPreSave_sound h .. | saveDrained => exact execSaveDrained_sound h .. | redirectCompletion => exact execRedirectCompletion_sound h ..
  | preResume => exact execPreResume_sound h .. | resumePlace => exact execResumePlace_sound h .. | preDrop => exact execPreDrop_sound h ..
  | dbgRead => exact execDbgRead_sound h .. | dbgWrite => exact execDbgWrite_sound h .. | teamRetire => exact execTeamRetire_sound h ..
  | teamRetireDone => exact execTeamRetireDone_sound h .. | quiescenceWave => exact execQuiescenceWave_sound h ..
  | functionLevelReset => exact execFunctionLevelReset_sound h .. | conventionalReset => exact execConventionalReset_sound h ..
  | correctedError => exact execCorrectedError_sound h .. | uncorrectableError => exact execUncorrectableError_sound h ..
  | parityError => exact execParityError_sound h .. | hbmLinkTagFail => exact execHbmLinkTagFail_sound h .. | snapQuiesce => exact execSnapQuiesce_sound h ..
  | quiesceDone => exact execQuiesceDone_sound h .. | snapCopy => exact execSnapCopy_sound h .. | copyDone => exact execCopyDone_sound h ..
  | snapRestore => exact execSnapRestore_sound h .. | restoreDone => exact execRestoreDone_sound h .. | snapRelease => exact execSnapRelease_sound h ..
  | telemetryUpdate => exact execTelemetryUpdate_sound h .. | powerRemoved => exact execPowerRemoved_sound h ..
  | perstDeasserted => exact execPerstDeasserted_sound h .. | storePerformed => exact execStorePerformed_sound h ..
  | completionTimeout => exact execCompletionTimeout_sound h ..

/-! ### Step: what keeps the memories canonical -/

theorem State.issue_sound {s : State} (h : s.Sound) (p : Pos) : (s.issue p).Sound := h.frame (State.issue_frame ..)

theorem runCtx_sound {s : State} (h : s.Sound) (p : Pos) : OutSound (runCtx s p) := by
  have hp := State.prepare_sound (State.issue_sound h p) p
  unfold runCtx
  split
  · rename_i e
    rw [e] at hp
    exact hp
  · exact exec_sound (State.issue_sound h p) _

theorem runEvent_sound {s : State} (h : s.Sound) (i : Instr) (inp : Inp) : OutSound (runEvent s i inp) := by
  unfold runEvent
  split
  · exact exec_sound (s := { s with inp := inp }) h i
  · exact h

theorem runSched_sound {s : State} (h : s.Sound) (e : Sched) : OutSound (runSched s e) := by
  cases e with
  | run p =>
    simp only [runSched]
    split
    · exact runCtx_sound h p
    · exact h
  | event i inp => exact runEvent_sound h i inp

theorem State.tick_frame (s : State) : s.tick.mem = s.mem ∧ s.tick.boot = s.boot := ⟨rfl, rfl⟩

theorem step_sound {s : State} (h : s.Sound) : OutSound (step s) := by
  unfold step
  extract_lets t
  have ht : t.Sound := h.frame (State.tick_frame s)
  split
  · rename_i e es _
    exact runSched_sound (s := { t with agenda := es }) ht e
  · split
    · exact runCtx_sound ht _
    · split
      · rename_i e es _
        exact runSched_sound (s := { t with pending := es }) ht e
      · exact ht

theorem State.memSound_iff (s : State) : s.memSound ↔ s.Sound := Iff.rfl

/-- Settles O60: what each part of a step leaves of the memories, from the writes of bytes up to `exec`; the memories change by puts and filters only. -/
theorem stepsKeepMemorySound : Obligations.StepsKeepMemorySound := by
  unfold Obligations.StepsKeepMemorySound
  intro s t h e
  have hs := step_sound ((State.memSound_iff s).mp h)
  rw [e] at hs
  exact (State.memSound_iff t).mpr hs

end Sys2Proof.Machine

/-! ### The boot blocks: time, status and addresses as the statements speak of them -/

namespace Sys2Proof.Machine
open Sys2Proof.Claims

theorem limitOf_eq_phaseLimit {n : Nat} (h1 : 1 ≤ n) (h4 : n ≤ 4) : limitOf n = phaseLimit n := by
  obtain rfl | rfl | rfl | rfl : n = 1 ∨ n = 2 ∨ n = 3 ∨ n = 4 := by omega
  all_goals rfl

theorem State.overdue_of_not_late {s : State} (h : ¬ Late s) : s.overdue = false := by
  unfold State.overdue
  split
  next b hb =>
    rw [Bool.eq_false_iff]
    intro ho
    simp only [Bool.and_eq_true, decide_eq_true_eq] at ho
    obtain ⟨⟨⟨h1, h4⟩, -⟩, hlim⟩ := ho
    exact h ⟨b, hb, by rwa [limitOf_eq_phaseLimit h1 h4]⟩
  next => rfl

theorem State.overdue_of_late {s : State} (h : Late s) (h1 : 1 ≤ s.boot.phase) (h4 : s.boot.phase ≤ 4) (hd : s.boot.dev ≠ .failed) : s.overdue = true := by
  obtain ⟨b, hb, hlim⟩ := h
  rw [limitOf_eq_phaseLimit h1 h4] at hlim
  simp only [State.overdue, hb, h1, h4, hd, State.since, hlim, ne_eq, not_false_eq_true, decide_true, Bool.and_self]

/-- A phase that begins now is within its limit. -/
theorem State.overdue_of_begins {s : State} (h : s.boot.began = some s.clk) : s.overdue = false := by
  simp [State.overdue, h, State.since]

theorem State.overdue_congr {s t : State} (hc : t.clk = s.clk) (hb : t.boot.began = s.boot.began) (hp : t.boot.phase = s.boot.phase)
    (hd : t.boot.dev = s.boot.dev) : t.overdue = s.overdue := by
  unfold State.overdue State.since
  rw [hc, hb, hp, hd]

theorem devStatus_eq (s : State) : devStatus s = (s.boot.dev.code, s.boot.bootStat.toNat) := by
  have hc : s.boot.dev.code < 256 := by cases s.boot.dev <;> decide
  have hb := s.boot.bootStat.isLt
  have hn : (s.boot.bootStat.toNat * 256 + s.boot.dev.code) % 2 ^ 64 = s.boot.bootStat.toNat * 256 + s.boot.dev.code := by omega
  simp only [devStatus, Boot.devState, BitVec.toNat_ofNat, hn]
  exact Prod.ext (by dsimp only; omega) (by dsimp only; omega)

theorem devStatus_timeOut (s : State) (h4 : s.boot.phase ≤ 4) : devStatus s.timeOut = (0xFF, 0xF0 + s.boot.phase) := by
  have hp : (0xF0 + s.boot.phase) % 2 ^ 8 = 0xF0 + s.boot.phase := by omega
  rw [devStatus_eq]
  simp only [State.timeOut, State.modBoot, DevState.code, BitVec.toNat_ofNat, hp]

theorem State.bootStatWrite_late {s : State} (v : Byte) (ht : s.boot.timedOut = false) (ho : s.overdue = true) : s.bootStatWrite v = s.timeOut := by
  simp [State.bootStatWrite, ht, ho]

theorem State.bootStatWrite_dead {s : State} (ht : s.boot.timedOut = false) (ho : s.overdue = false) (hd : s.boot.dev ≠ .ready) :
    s.bootStatWrite 0xEF = s.modBoot (fun b => { b with bootStat := 0xEF, dev := .failed, began := none }) := by
  simp [State.bootStatWrite, ht, ho, State.modBoot, hd]

/-- But for the fatal value before READY, BOOT_STAT takes the value and nothing else changes. -/
theorem State.bootStatWrite_keeps {s : State} {v : Byte} (hv : ¬ (v = 0xEF ∧ s.boot.dev ≠ .ready)) (ht : s.boot.timedOut = false) (ho : s.overdue = false) :
    s.bootStatWrite v = s.modBoot (fun b => { b with bootStat := v }) := by
  have hc : ¬ (decide (v = 0xEF) && decide (s.boot.dev ≠ .ready)) = true := by simpa using hv
  rw [State.bootStatWrite, ht, ho, if_neg Bool.false_ne_true, if_neg Bool.false_ne_true, State.modBoot, if_neg hc, State.modBoot]

theorem State.bootStatWrite_other {s : State} {v : Byte} (hv : v ≠ 0xEF) (ht : s.boot.timedOut = false) (ho : s.overdue = false) :
    s.bootStatWrite v = s.modBoot (fun b => { b with bootStat := v }) :=
  State.bootStatWrite_keeps (fun h => hv h.1) ht ho

theorem State.byFirmware_runs {s : State} (h : Runs s) (f : State → State) : s.byFirmware f = .next (f s) := by
  have hf : s.boot.firmware = true := by simpa [Boot.firmware, Runs] using h
  rw [State.byFirmware, if_pos hf]

theorem State.byFirmware_not_runs {s : State} (h : ¬ Runs s) (f : State → State) : s.byFirmware f = .next s := by
  have hf : ¬ s.boot.firmware = true := by simpa [Boot.firmware, Runs] using h
  rw [State.byFirmware, if_neg hf]

/-! ### Numbers in flash and SRAM -/

theorem bytesVal_append (l r : List Byte) : bytesVal (l ++ r) = bytesVal l + 256 ^ l.length * bytesVal r := by
  induction l with
  | nil => simp [bytesVal]
  | cons x l ih => simp only [List.cons_append, bytesVal, ih, List.length_cons]; ring

theorem cellsNat_eq_flashNat (m : List Host.Cell) (a n : Nat) : cellsNat m a n = flashNat m a n := by
  induction n with
  | zero => rfl
  | succ n ih =>
    have ih' : List.foldl (fun v k => v + (memGet m (a + k)).toNat * 256 ^ k) 0 (List.range n) = bytesVal ((List.range n).map (fun k => memGet m (a + k))) := ih
    simp only [cellsNat, flashNat, List.range_succ, List.foldl_append, List.foldl_cons, List.foldl_nil, List.map_append, List.map_cons, List.map_nil,
      bytesVal_append, List.length_map, List.length_range, ih', bytesVal]
    ring

theorem memGet_eq_zero {m : List Host.Cell} {a : Nat} (h : ∀ e ∈ m, e.1 ≠ a) : memGet m a = 0 := by
  induction m with
  | nil => rfl
  | cons e m ih =>
    obtain ⟨b, v⟩ := e
    have hb : b ≠ a := h _ List.mem_cons_self
    simp only [memGet, if_neg hb]
    split
    · rfl
    · exact ih fun e he => h e (List.mem_cons_of_mem _ he)

theorem memGet_append_of_above {l r : List Host.Cell} {a : Nat} (h : ∀ e ∈ r, a < e.1) : memGet (l ++ r) a = memGet l a := by
  induction l with
  | nil => exact memGet_eq_zero fun e he => (h e he).ne'
  | cons e l ih =>
    obtain ⟨b, v⟩ := e
    simp only [List.cons_append, memGet, ih]

/-- The cells of a window of flash, moved to 0, hold the window's bytes. -/
theorem memGet_window {m : List Host.Cell} (h : m.Pairwise (fun x y => x.1 < y.1)) (ofs n : Nat) {a : Nat} (ha : a < n) :
    memGet ((m.filter (fun e => ofs ≤ e.1 && e.1 < ofs + n)).map (fun e => (e.1 - ofs, e.2))) a = memGet m (ofs + a) := by
  induction m with
  | nil => rfl
  | cons e m ih =>
    obtain ⟨b, v⟩ := e
    obtain ⟨hb, hm⟩ := List.pairwise_cons.mp h
    by_cases hin : ofs ≤ b ∧ b < ofs + n
    · have hf : (decide (ofs ≤ b) && decide (b < ofs + n)) = true := by simpa using hin
      have e1 : (b - ofs = a) = (b = ofs + a) := propext (by omega)
      have e2 : (a < b - ofs) = (ofs + a < b) := propext (by omega)
      simp only [List.filter_cons, hf, if_true, List.map_cons, memGet, ih hm, e1, e2]
    · have hf : ¬ (decide (ofs ≤ b) && decide (b < ofs + n)) = true := by simpa using hin
      have hne : b ≠ ofs + a := by omega
      simp only [List.filter_cons, if_neg hf, ih hm, memGet, if_neg hne]
      split
      next hlt => exact memGet_eq_zero fun e he => ((hlt.trans (hb e he)).ne')
      next => rfl

theorem memGet_copyCells {flash : List Host.Cell} (hf : memWf flash = true) (sram : List Host.Cell) (ofs n : Nat) {a : Nat} (ha : a < n) :
    memGet (copyCells sram flash ofs n) a = memGet flash (ofs + a) := by
  have habove : ∀ e ∈ sram.filter (fun e => n ≤ e.1), a < e.1 := by
    intro e he
    have := (List.mem_filter.mp he).2
    simp only [decide_eq_true_eq] at this
    omega
  rw [copyCells, memGet_append_of_above habove, memGet_window (memWf_iff_pairwise.mp hf).1 ofs n ha]

theorem flashNat_copyCells {flash : List Host.Cell} (hf : memWf flash = true) (sram : List Host.Cell) (ofs n a k : Nat) (h : a + k ≤ n) :
    flashNat (copyCells sram flash ofs n) a k = flashNat flash (ofs + a) k := by
  have hm : (List.range k).map (fun j => memGet (copyCells sram flash ofs n) (a + j)) = (List.range k).map (fun j => memGet flash (ofs + a + j)) := by
    refine List.map_congr_left fun j hj => ?_
    rw [memGet_copyCells hf sram ofs n (by have := List.mem_range.mp hj; omega), Nat.add_assoc]
  rw [flashNat, flashNat, hm]

/-! ### What the engines of the management side read -/

theorem Boot.byte?_eq (b : Boot) (digest : Bool) (a : Nat) : b.byte? digest a = mgmtByte b digest a := by
  simp only [Boot.byte?, mgmtByte, Bool.and_eq_true, decide_eq_true_eq, and_assoc]

theorem mapM_eq_some_of {α β : Type} {f : α → Option β} : ∀ {l : List α} {r : List β}, l.length = r.length → (∀ k, k < l.length → (l[k]?.bind f) = r[k]?) → l.mapM f = some r
  | [], [], _, _ => rfl
  | x :: l, y :: r, hl, h => by
    have h0 : f x = some y := by simpa using h 0 (by simp)
    have ht : l.mapM f = some r := mapM_eq_some_of (by simpa using hl) fun k hk => by simpa using h (k + 1) (by simpa using hk)
    simp [List.mapM_cons, h0, ht]

theorem mapM_eq_none_of {α β : Type} {f : α → Option β} : ∀ {l : List α} {x : α}, x ∈ l → f x = none → l.mapM f = none
  | y :: l, x, hx, hf => by
    cases hy : f y with
    | none => simp [List.mapM_cons, hy]
    | some v =>
      have hxl : x ∈ l := by
        rcases List.mem_cons.mp hx with rfl | h
        · rw [hf] at hy; cases hy
        · exact h
      simp [List.mapM_cons, hy, mapM_eq_none_of hxl hf]

theorem Boot.bytes?_eq_some {b : Boot} {digest : Bool} {a n : Nat} {l : List Byte} (h : MgmtBytes b digest a n l) : b.bytes? digest a n = some l := by
  obtain ⟨hl, hk⟩ := h
  refine mapM_eq_some_of (by simpa using hl.symm) fun k hkn => ?_
  have hkn' : k < n := by simpa using hkn
  rw [List.getElem?_range hkn', Option.bind_some, Boot.byte?_eq, hk k hkn']

theorem Boot.bytes?_eq_none {b : Boot} {digest : Bool} {a n : Nat} (h : MgmtHole b digest a n) : b.bytes? digest a n = none := by
  obtain ⟨k, hk, hn⟩ := h
  exact mapM_eq_none_of (List.mem_range.mpr hk) (by rw [Boot.byte?_eq, hn])

end Sys2Proof.Machine

/-! ### The boot program (R20, R21) -/

namespace Sys2Proof.Machine
open Sys2Proof.Claims

/-! #### What a step of the boot program keeps -/

/-- Everything but the boot state and the events posted stays. -/
def State.OnlyBoot (s t : State) : Prop := t = { s with boot := t.boot, pending := t.pending }

theorem State.OnlyBoot.refl (s : State) : s.OnlyBoot s := rfl

theorem State.OnlyBoot.trans {s t u : State} (h : s.OnlyBoot t) (h' : t.OnlyBoot u) : s.OnlyBoot u := by
  unfold State.OnlyBoot at h h' ⊢
  rw [h] at h'
  exact h'

theorem State.OnlyBoot.modBoot {s t : State} (h : s.OnlyBoot t) (f : Boot → Boot) : s.OnlyBoot (t.modBoot f) := h.trans rfl

theorem State.OnlyBoot.post {s t : State} (h : s.OnlyBoot t) (i : Instr) (inp : Inp) : s.OnlyBoot (t.post i inp) := h.trans rfl

theorem State.OnlyBoot.clk {s t : State} (h : s.OnlyBoot t) : t.clk = s.clk := by
  rw [h]

@[simp] theorem State.modBoot_boot (s : State) (f : Boot → Boot) : (s.modBoot f).boot = f s.boot := rfl
@[simp] theorem State.romAt_boot (s : State) (r : RomSt) : (s.romAt r).boot = { s.boot with rom := r } := rfl
@[simp] theorem State.ceStart_boot (s : State) (code : Nat) :
    (s.ceStart code).boot = { s.boot with ce := s.boot.ce.start ⟨code, s.boot.ceSrc.toNat, s.boot.ceLen.toNat, s.boot.ceSig.toNat⟩ } := rfl
@[simp] theorem State.meStart_boot (s : State) (code : Nat) :
    (s.meStart code).boot = { s.boot with me := s.boot.me.start ⟨code, s.boot.meSrc.toNat, s.boot.meIdx.toNat, 0⟩ } := rfl

theorem MgmtStat.start_idle {m : MgmtStat} (h : m.run = none) (c : MgmtCmd) : m.start c = { done := false, pass := false, err := false, run := some c } := by
  simp [MgmtStat.start, h]

theorem MgmtStat.start_running {m : MgmtStat} {c' : MgmtCmd} (h : m.run = some c') (c : MgmtCmd) : m.start c = m := by
  simp [MgmtStat.start, h]

theorem State.OnlyBoot.romAt {s t : State} (h : s.OnlyBoot t) (r : RomSt) : s.OnlyBoot (t.romAt r) := h.modBoot _

theorem State.OnlyBoot.ceStart {s t : State} (h : s.OnlyBoot t) (code : Nat) : s.OnlyBoot (t.ceStart code) := (h.modBoot _).post _ _

/-! #### The search for an image -/

/-- The slot that the boot program tries. -/
def Boot.romFlash (b : Boot) : List Host.Cell := if b.romB then b.flashB else b.flashA

@[simp] theorem State.romCopy_boot (s : State) (n : Nat) :
    (s.romCopy n).boot = { s.boot with sram := copyCells s.boot.sram s.boot.romFlash 0x1000 n } := rfl

theorem State.OnlyBoot.romCopy {s t : State} (h : s.OnlyBoot t) (n : Nat) : s.OnlyBoot (t.romCopy n) := h.modBoot _

/-- The header that the boot program copied is good where the slot's is. -/
theorem headerOk_romCopy {s : State} (hf : memWf s.boot.romFlash = true) : (s.romCopy 64).boot.headerOk = true ↔ GoodHeader s.boot.romFlash s.boot.svn.toNat := by
  have e : ∀ a, a + 4 ≤ 64 → cellsNat (copyCells s.boot.sram s.boot.romFlash 0x1000 64) a 4 = flashNat s.boot.romFlash (0x1000 + a) 4 := fun a ha => by
    rw [cellsNat_eq_flashNat, flashNat_copyCells hf _ _ _ _ _ ha]
  simp only [Boot.headerOk, GoodHeader, State.romCopy_boot, e 0 (by omega), e 4 (by omega), e 8 (by omega), e 12 (by omega), Bool.and_eq_true, decide_eq_true_eq, and_assoc]

/-- The boot program accepts the header of the slot that it tries, and hashes the image. -/
theorem State.romTry_good {s : State} (hf : memWf s.boot.romFlash = true) (hce : s.boot.ce.run = none) (hg : GoodHeader s.boot.romFlash s.boot.svn.toNat)
    (fail : State → State) :
    s.OnlyBoot (s.romTry fail) ∧ ∃ m c, (s.romTry fail).boot = { s.boot with
        sram := m, ceSrc := 0x10000000, ceLen := c, rom := .hash,
        ce := { done := false, pass := false, err := false, run := some ⟨1, 0x10000000, 64 + flashNat s.boot.romFlash 0x100C 4, s.boot.ceSig.toNat⟩ } } ∧
      ∀ a, a < 64 + flashNat s.boot.romFlash 0x100C 4 → memGet m a = memGet s.boot.romFlash (0x1000 + a) := by
  have hok := (headerOk_romCopy hf).mpr hg
  obtain ⟨-, -, -, -, -, hlen⟩ := hg
  have hn : cellsNat (s.romCopy 64).boot.sram 12 4 = flashNat s.boot.romFlash 0x100C 4 := by
    rw [cellsNat_eq_flashNat, State.romCopy_boot, flashNat_copyCells hf _ _ _ _ _ (by omega)]
  have hmod : (BitVec.ofNat 64 (64 + flashNat s.boot.romFlash 0x100C 4)).toNat = 64 + flashNat s.boot.romFlash 0x100C 4 := by
    rw [BitVec.toNat_ofNat]
    omega
  have hsrc : (0x10000000 : DWord).toNat = 0x10000000 := by decide
  rw [State.romTry, if_neg (by rw [hok]; decide), hn]
  generalize flashNat s.boot.romFlash 0x100C 4 = N at hmod
  dsimp only
  refine ⟨(((((State.OnlyBoot.refl s).romCopy 64).romCopy (64 + N)).modBoot _).ceStart 1).romAt .hash,
    copyCells (copyCells s.boot.sram s.boot.romFlash 0x1000 64) s.boot.romFlash 0x1000 (64 + N), BitVec.ofNat 64 (64 + N), ?_, fun a ha => memGet_copyCells hf _ _ _ ha⟩
  simp only [State.romAt_boot, State.ceStart_boot, State.modBoot_boot, State.romCopy_boot, MgmtStat.start_idle hce, hmod, hsrc, Boot.romFlash]
  rfl

theorem State.romTry_bad {s : State} (hf : memWf s.boot.romFlash = true) (hg : ¬ GoodHeader s.boot.romFlash s.boot.svn.toNat) (fail : State → State) :
    s.romTry fail = fail (s.romCopy 64) := by
  have hok : (s.romCopy 64).boot.headerOk = false := by
    rw [Bool.eq_false_iff]
    exact fun h => hg ((headerOk_romCopy hf).mp h)
  rw [State.romTry, if_pos (by rw [hok]; rfl)]

theorem State.romDead_eq {s : State} (ht : s.boot.timedOut = false) (ho : s.overdue = false) (hd : s.boot.dev ≠ .ready) :
    s.romDead = { s with boot := { s.boot with bootStat := 0xEF, dev := .failed, began := none, rom := .halted } } := by
  rw [State.romDead, State.bootStatWrite_dead ht ho hd]
  rfl

/-- After slot B there is no further slot. -/
theorem State.romFail_slotB {s : State} (hb : s.boot.romB = true) : s.romFail = s.romDead := by
  rw [State.romFail, if_pos hb]

theorem State.romFail_slotA {s : State} (hb : s.boot.romB = false) (ht : s.boot.timedOut = false) (ho : s.overdue = false) :
    s.romFail = (s.modBoot (fun b => { b with bootStat := 0xE1, romB := true })).romTry State.romDead := by
  rw [State.romFail, if_neg (by rw [hb]; decide), State.bootStatWrite_other (by decide) ht ho]
  rfl

theorem State.romStart_eq {s : State} (ht : s.boot.timedOut = false) (ho : s.overdue = false) :
    s.romStart = (s.modBoot (fun b => { b with bootStat := 1, romB := false })).romTry State.romFail := by
  rw [State.romStart, State.bootStatWrite_other (by decide) ht ho]
  rfl

/-- What the boot program's start leaves where one of the slots is accepted, and where none is. -/
def State.Searched (s t : State) : Prop :=
  s.OnlyBoot t ∧ t.boot.phase = s.boot.phase ∧ t.boot.released = s.boot.released ∧ t.boot.meas = s.boot.meas ∧
    (GoodHeader s.boot.flashA s.boot.svn.toNat → Hashing s t s.boot.flashA false ∧ devStatus t = (1, 1)) ∧
    (¬ GoodHeader s.boot.flashA s.boot.svn.toNat → GoodHeader s.boot.flashB s.boot.svn.toNat → Hashing s t s.boot.flashB true ∧ devStatus t = (1, 0xE1)) ∧
    (¬ GoodHeader s.boot.flashA s.boot.svn.toNat → ¬ GoodHeader s.boot.flashB s.boot.svn.toNat → t.boot.rom = .halted ∧ devStatus t = (0xFF, 0xEF))

/-- From its start the boot program takes slot A, else slot B, else halts. -/
theorem State.romStart_searched {s : State} (hd : s.boot.dev = .rom) (ht : s.boot.timedOut = false) (hce : s.boot.ce.run = none) (hb : s.boot.began = some s.clk)
    (hA : memWf s.boot.flashA = true) (hB : memWf s.boot.flashB = true) : s.Searched s.romStart := by
  rw [State.romStart_eq ht (State.overdue_of_begins hb)]
  generalize ha : s.modBoot (fun b => { b with bootStat := 1, romB := false }) = a
  have hsa : s.OnlyBoot a := ha ▸ (State.OnlyBoot.refl s).modBoot _
  have hab : a.boot = { s.boot with bootStat := 1, romB := false } := ha ▸ rfl
  have haf : a.boot.romFlash = s.boot.flashA := by simp [Boot.romFlash, hab]
  have hawf : memWf a.boot.romFlash = true := by rwa [haf]
  by_cases hgA : GoodHeader s.boot.flashA s.boot.svn.toNat
  · obtain ⟨hob, m, c, hbt, hm⟩ := State.romTry_good (s := a) hawf (by simp [hab, hce]) (by rw [haf, hab]; exact hgA) State.romFail
    rw [haf] at hbt hm
    generalize a.romTry State.romFail = t at hob hbt
    refine ⟨hsa.trans hob, ?_, ?_, ?_, fun _ => ⟨⟨?_, ?_, ?_, ?_⟩, ?_⟩, fun h => absurd hgA h, fun h => absurd hgA h⟩
    all_goals simp only [hbt, hab, devStatus_eq, hd]
    · exact hm
    · rfl
  rw [State.romTry_bad hawf (by rw [haf, hab]; exact hgA)]
  generalize hc : a.romCopy 64 = c
  have hac : a.OnlyBoot c := hc ▸ (State.OnlyBoot.refl a).romCopy _
  obtain ⟨m, hcb⟩ : ∃ m, c.boot = { s.boot with bootStat := 1, romB := false, sram := m } := ⟨_, by rw [← hc, State.romCopy_boot, hab]⟩
  have hco : c.overdue = false := State.overdue_of_begins (by simp [hcb, hb, (hsa.trans hac).clk])
  rw [State.romFail_slotA (by simp [hcb]) (by simp [hcb, ht]) hco]
  generalize hu : c.modBoot (fun b => { b with bootStat := 0xE1, romB := true }) = u
  have hcu : c.OnlyBoot u := hu ▸ (State.OnlyBoot.refl c).modBoot _
  have hub : u.boot = { s.boot with bootStat := 0xE1, romB := true, sram := m } := by rw [← hu, State.modBoot_boot, hcb]
  have huf : u.boot.romFlash = s.boot.flashB := by simp [Boot.romFlash, hub]
  have huwf : memWf u.boot.romFlash = true := by rwa [huf]
  have hsu : s.OnlyBoot u := (hsa.trans hac).trans hcu
  by_cases hgB : GoodHeader s.boot.flashB s.boot.svn.toNat
  · obtain ⟨hob, m', c', hbt, hm⟩ := State.romTry_good (s := u) huwf (by simp [hub, hce]) (by rw [huf, hub]; exact hgB) State.romDead
    rw [huf] at hbt hm
    generalize u.romTry State.romDead = t at hob hbt
    refine ⟨hsu.trans hob, ?_, ?_, ?_, fun h => absurd h hgA, fun _ _ => ⟨⟨?_, ?_, ?_, ?_⟩, ?_⟩, fun _ h => absurd hgB h⟩
    all_goals simp only [hbt, hub, devStatus_eq, hd]
    · exact hm
    · rfl
  · rw [State.romTry_bad huwf (by rw [huf, hub]; exact hgB)]
    generalize hv : u.romCopy 64 = v
    have huv : u.OnlyBoot v := hv ▸ (State.OnlyBoot.refl u).romCopy _
    obtain ⟨m', hvb⟩ : ∃ m', v.boot = { s.boot with bootStat := 0xE1, romB := true, sram := m' } := ⟨_, by rw [← hv, State.romCopy_boot, hub]⟩
    have hvo : v.overdue = false := State.overdue_of_begins (by simp [hvb, hb, (hsu.trans huv).clk])
    rw [State.romDead_eq (by simp [hvb, ht]) hvo (by simp [hvb, hd])]
    refine ⟨(hsu.trans huv).trans rfl, ?_, ?_, ?_, fun h => absurd h hgA, fun _ h => absurd h hgB, fun _ _ => ⟨rfl, ?_⟩⟩
    all_goals simp only [hvb, devStatus_eq]
    rfl

end Sys2Proof.Machine

/-! ### The events of power-up -/

namespace Sys2Proof.Machine
open Sys2Proof.Claims

/-- An access of the firmware while none runs, and any of what changes nothing, leaves the state. -/
theorem State.byFirmware_eq_self {s : State} {f : State → State} (h : f s = s) : s.byFirmware f = .next s := by
  rw [State.byFirmware, h, ite_self]

theorem execPowerGood_in_time {s : State} (hp : s.boot.phase = 1) (hpw : s.boot.powered = false) (hd : s.boot.dev = .rom) (hl : ¬ Late s) :
    execPowerGood s = .next ((s.modBoot (fun b => { b with powered := true, phase := 2, began := some s.clk, bootStat := 1 })).post .romMeasured {}) := by
  rw [execPowerGood, if_pos (by simp [hp, hpw, hd]), State.overdue_of_not_late hl, if_neg Bool.false_ne_true]

theorem execPowerGood_late {s : State} (hp : s.boot.phase = 1) (hpw : s.boot.powered = false) (hd : s.boot.dev = .rom) (hl : Late s) :
    execPowerGood s = .next s.timeOut := by
  rw [execPowerGood, if_pos (by simp [hp, hpw, hd]), State.overdue_of_late hl (by omega) (by omega) (by simp [hd]), if_pos rfl]

/-- The state in which the boot program starts. -/
def State.measured (s : State) : State := s.modBoot (fun b => { b.extend 0 (sha384 Config.bootRom) with phase := 3, began := some s.clk, released := true })

theorem execRomMeasured_in_time {s : State} (hp : s.boot.phase = 2) (hpw : s.boot.powered = true) (hd : s.boot.dev = .rom) (hl : ¬ Late s) :
    execRomMeasured s = .next s.measured.romStart := by
  rw [execRomMeasured, if_pos (by simp [hp, hpw, hd]), State.overdue_of_not_late hl, if_neg Bool.false_ne_true, State.measured]

theorem execRomMeasured_late {s : State} (hp : s.boot.phase = 2) (hpw : s.boot.powered = true) (hd : s.boot.dev = .rom) (hl : Late s) :
    execRomMeasured s = .next s.timeOut := by
  rw [execRomMeasured, if_pos (by simp [hp, hpw, hd]), State.overdue_of_late hl (by omega) (by omega) (by simp [hd]), if_pos rfl]

theorem set_zero_eq_cons {α : Type} {l : List α} (h : l ≠ []) (x : α) : l.set 0 x = x :: l.tail := by
  cases l with
  | nil => exact absurd rfl h
  | cons y l => rfl

theorem romMeasured_search {s : State} (hd : s.boot.dev = .rom) (hm : s.boot.meas.length = 16) (ht : s.boot.timedOut = false) (hce : s.boot.ce.run = none)
    (hA : memWf s.boot.flashA = true) (hB : memWf s.boot.flashB = true) :
    s.measured.Searched s.measured.romStart ∧ s.measured.boot.meas = sha384 (s.boot.meas.getD 0 [] ++ sha384 Config.bootRom) :: s.boot.meas.tail :=
  ⟨State.romStart_searched (s := s.measured) hd ht hce rfl hA hB, set_zero_eq_cons (by rintro h; simp [h] at hm) _⟩

/-! #### Verification of the image -/

/-- The outcome of a command of the crypto engine that reaches a verdict on a signature. -/
def Boot.verdict (b : Boot) (ok : Bool) : Boot := { b with ce := ended ok false }

theorem Boot.ceEnd_ecdsa {b : Boot} {c : MgmtCmd} {l : List Byte} (hc : c.code = 2) (hl : MgmtBytes b false c.sig 96 l) (hf : ecdsaFormed l = true) :
    b.ceEnd c = b.verdict (ecdsaVerify Config.ecdsaKey b.ceDigest l) := by
  simp only [Boot.ceEnd, hc, Nat.reduceEqDiff, if_false, if_true, Boot.bytes?_eq_some hl, hf]
  rfl

theorem Boot.ceEnd_lms {b : Boot} {c : MgmtCmd} {l : List Byte} (hc : c.code = 3) (hl : MgmtBytes b false c.sig 2672 l) (h4 : l.take 4 = [0, 0, 0, 0])
    (hf : lmsFormed (l.drop 4) = true) :
    b.ceEnd c = b.verdict (lmsVerify Config.lmsKey b.ceDigest (l.drop 4)) := by
  simp only [Boot.ceEnd, hc, Nat.reduceEqDiff, if_false, if_true, Boot.bytes?_eq_some hl, h4, hf, decide_true, Bool.and_self]
  rfl

theorem State.modBoot_congr {s : State} {f g : Boot → Boot} (h : f s.boot = g s.boot) : s.modBoot f = s.modBoot g := by
  rw [State.modBoot, State.modBoot, h]

/-- The engine's verdict is in, and the boot program goes on from it. -/
theorem execCeCommandDone_verdict {s : State} {c : MgmtCmd} {ok : Bool} (h : s.boot.ce.run = some c) (he : s.boot.ceEnd c = s.boot.verdict ok) :
    execCeCommandDone s = .next (s.modBoot (fun b => b.verdict ok)).romCe := by
  simp only [execCeCommandDone, h]
  rw [State.modBoot_congr (g := fun b => b.verdict ok) he]

/-- The boot program halts where slot B's signature does not verify. -/
theorem State.romFail_halts {s : State} (hb : s.boot.romB = true) (ht : s.boot.timedOut = false) (hd : s.boot.dev = .rom) (ho : s.overdue = false) :
    s.romFail.boot.rom = .halted ∧ devStatus s.romFail = (0xFF, 0xEF) := by
  rw [State.romFail_slotB hb, State.romDead_eq ht ho (by simp [hd])]
  exact ⟨rfl, devStatus_eq _⟩

theorem State.overdue_verdict {s : State} (hl : ¬ Late s) (ok : Bool) : (s.modBoot (fun b => b.verdict ok)).overdue = false :=
  (State.overdue_congr rfl rfl rfl rfl).trans (State.overdue_of_not_late hl)

theorem ceCommandDone_ecdsa {s : State} {c : MgmtCmd} {l : List Byte} (hr : s.boot.ce.run = some c) (ht : s.boot.timedOut = false) (hd : s.boot.dev = .rom) (hl : ¬ Late s)
    (hrom : s.boot.rom = .ecdsa) (hc : c.code = 2) (hb : MgmtBytes s.boot false c.sig 96 l) (hf : ecdsaFormed l = true) :
    (ecdsaVerify Config.ecdsaKey s.boot.ceDigest l = true → ∃ t, execCeCommandDone s = .next t ∧ t.boot.rom = .lms ∧
      t.boot.ce.run = some ⟨3, s.boot.ceSrc.toNat, s.boot.ceLen.toNat, (if s.boot.romB = true then 0x41000100 else 0x40000100)⟩) ∧
    (ecdsaVerify Config.ecdsaKey s.boot.ceDigest l = false → s.boot.romB = true →
      ∃ t, execCeCommandDone s = .next t ∧ t.boot.rom = .halted ∧ devStatus t = (0xFF, 0xEF)) := by
  rw [execCeCommandDone_verdict hr (Boot.ceEnd_ecdsa hc hb hf)]
  generalize ecdsaVerify Config.ecdsaKey s.boot.ceDigest l = ok
  refine ⟨?_, ?_⟩
  · rintro rfl
    refine ⟨_, rfl, ?_⟩
    simp only [State.romCe, State.modBoot_boot, Boot.verdict, hrom, ended, Bool.not_false, Bool.and_self, if_true, State.romAt_boot, State.ceStart_boot, MgmtStat.start, true_and]
    cases s.boot.romB <;> simp [Boot.romSlot]
  · rintro rfl hB
    refine ⟨_, rfl, ?_⟩
    have hfail : (s.modBoot (fun b => b.verdict false)).romCe = (s.modBoot (fun b => b.verdict false)).romFail := by
      simp only [State.romCe, State.modBoot_boot, Boot.verdict, hrom, ended, Bool.false_and, Bool.false_eq_true, if_false]
    rw [hfail]
    exact State.romFail_halts hB ht hd (State.overdue_verdict hl false)

theorem ceCommandDone_lms {s : State} {c : MgmtCmd} {l : List Byte} (hr : s.boot.ce.run = some c) (ht : s.boot.timedOut = false) (hd : s.boot.dev = .rom) (hl : ¬ Late s)
    (hrom : s.boot.rom = .lms) (hc : c.code = 3) (hb : MgmtBytes s.boot false c.sig 2672 l) (h4 : l.take 4 = [0, 0, 0, 0]) (hf : lmsFormed (l.drop 4) = true) :
    (lmsVerify Config.lmsKey s.boot.ceDigest (l.drop 4) = true → s.boot.me.run = none → ∃ t, execCeCommandDone s = .next t ∧ t.boot.rom = .extend ∧
      t.boot.me.run = some ⟨1, 0x20000040, 1, 0⟩) ∧
    (lmsVerify Config.lmsKey s.boot.ceDigest (l.drop 4) = false → s.boot.romB = true →
      ∃ t, execCeCommandDone s = .next t ∧ t.boot.rom = .halted ∧ devStatus t = (0xFF, 0xEF)) := by
  rw [execCeCommandDone_verdict hr (Boot.ceEnd_lms hc hb h4 hf)]
  generalize lmsVerify Config.lmsKey s.boot.ceDigest (l.drop 4) = ok
  refine ⟨?_, ?_⟩
  · rintro rfl hme
    refine ⟨_, rfl, ?_⟩
    simp only [State.romCe, State.modBoot_boot, Boot.verdict, hrom, ended, Bool.not_false, Bool.and_self, if_true, State.romAt_boot, State.meStart_boot, MgmtStat.start_idle hme, true_and]
    simp
  · rintro rfl hB
    refine ⟨_, rfl, ?_⟩
    have hfail : (s.modBoot (fun b => b.verdict false)).romCe = (s.modBoot (fun b => b.verdict false)).romFail := by
      simp only [State.romCe, State.modBoot_boot, Boot.verdict, hrom, ended, Bool.false_and, Bool.false_eq_true, if_false]
    rw [hfail]
    exact State.romFail_halts hB ht hd (State.overdue_verdict hl false)

/-! #### The measurement of the image and the jump -/

theorem execMeCommandDone_eq {s : State} {c : MgmtCmd} (h : s.boot.me.run = some c) :
    execMeCommandDone s = .next ((s.drew.modBoot (fun b => b.meEnd s.freeCtr c)).romMe) := by
  simp only [execMeCommandDone, h]

/-- EXTEND of bytes that are there, into a register other than MEAS0. -/
theorem Boot.meEnd_extend {b : Boot} {c : MgmtCmd} {l : List Byte} (n : Nat) (hc : c.code = 1) (h0 : c.len ≠ 0) (h16 : c.len < 16) (hl : MgmtBytes b true c.src 48 l) :
    b.meEnd n c = { b with me := ended false false, meas := b.meas.set c.len (sha384 (b.meas.getD c.len [] ++ l)) } := by
  have hlen : (decide (c.len = 0) || decide (16 ≤ c.len)) = false := by simp [h0, h16]
  simp only [Boot.meEnd, hc, if_true, hlen, Bool.false_eq_true, if_false, Boot.bytes?_eq_some hl]
  rfl

/-- With no request waiting the boot program jumps to the image, whatever BOOT_STAT became. -/
theorem State.romMe_jump {s : State} (hrom : s.boot.rom = .extend) (hme : s.boot.me.err = false)
    (hrx : (s.bootStatWrite (if s.boot.romB then 3 else 2)).boot.rxv = false) :
    s.romMe = (s.bootStatWrite (if s.boot.romB then 3 else 2)).romJump := by
  have hs : ∀ u : State, u.boot.rxv = false → u.romServe = u.romJump := fun u hu => by rw [State.romServe, if_pos (by simp [hu])]
  simp only [State.romMe, hrom, hme, Bool.false_eq_true, if_false]
  exact hs _ hrx

end Sys2Proof.Machine

namespace Sys2Proof.Machine
open Sys2Proof.Claims

theorem meCommandDone_extend {s : State} {c : MgmtCmd} {l : List Byte} (hrom : s.boot.rom = .extend) (hr : s.boot.me.run = some c) (hc : c.code = 1) (hlen : c.len = 1)
    (ht : s.boot.timedOut = false) (hd : s.boot.dev = .rom) (hrx : s.boot.rxv = false) (hl : MgmtBytes s.boot true c.src 48 l) :
    (Late s → s.boot.phase = 3 → ∃ t, execMeCommandDone s = .next t ∧ devStatus t = (0xFF, 0xF3)) ∧
    (¬ Late s → ∃ t, execMeCommandDone s = .next t ∧ t.boot.meas = s.boot.meas.set 1 (sha384 (s.boot.meas.getD 1 [] ++ l)) ∧ t.boot.rom = .jump ∧
      devStatus t = (1, if s.boot.romB = true then 3 else 2) ∧ Sched.event .firstSramFetch {} ∈ t.pending) := by
  have hend : s.drew.boot.meEnd s.freeCtr c = { s.boot with me := ended false false, meas := s.boot.meas.set 1 (sha384 (s.boot.meas.getD 1 [] ++ l)) } := by
    have := Boot.meEnd_extend (b := s.boot) s.freeCtr hc (by omega) (by omega) hl
    rwa [hlen] at this
  rw [execMeCommandDone_eq hr]
  generalize hu : s.drew.modBoot (fun b => b.meEnd s.freeCtr c) = u
  have hub : u.boot = { s.boot with me := ended false false, meas := s.boot.meas.set 1 (sha384 (s.boot.meas.getD 1 [] ++ l)) } := by
    rw [← hu]
    exact hend
  have huc : u.clk = s.clk := by
    rw [← hu]
    rfl
  have huo : u.overdue = s.overdue := State.overdue_congr huc (by rw [hub]) (by rw [hub]) (by rw [hub])
  have hut : u.boot.timedOut = false := by rw [hub]; exact ht
  have hjump : (u.bootStatWrite (if u.boot.romB then 3 else 2)).boot.rxv = false → u.romMe = (u.bootStatWrite (if u.boot.romB then 3 else 2)).romJump :=
    State.romMe_jump (by rw [hub]; exact hrom) (by rw [hub]; rfl)
  refine ⟨fun hlate h3 => ?_, fun hlate => ?_⟩
  · rw [State.overdue_of_late hlate (by omega) (by omega) (by simp [hd])] at huo
    rw [State.bootStatWrite_late _ hut huo] at hjump
    refine ⟨_, rfl, ?_⟩
    rw [hjump (by rw [State.timeOut, State.modBoot_boot, hub]; exact hrx)]
    have hu3 : u.boot.phase = 3 := by
      rw [hub]
      exact h3
    have hst := devStatus_timeOut u (by omega)
    rwa [hu3] at hst
  · rw [State.overdue_of_not_late hlate] at huo
    rw [State.bootStatWrite_other (by split <;> decide) hut huo] at hjump
    refine ⟨_, rfl, ?_⟩
    rw [hjump (by rw [State.modBoot_boot, hub]; exact hrx)]
    refine ⟨by simp [State.romJump, hub], rfl, ?_, by simp [State.romJump]⟩
    rw [devStatus_eq]
    simp only [State.romJump, State.post_boot, State.romAt_boot, State.modBoot_boot, hub, hd, DevState.code]
    cases s.boot.romB <;> rfl

/-! #### Limits (R12) -/

theorem phaseTimeout_late {s : State} {b : DWord} (h1 : 1 ≤ s.boot.phase) (h4 : s.boot.phase ≤ 4) (hb : s.boot.began = some b) (hd : s.boot.dev ≠ .failed)
    (hl : limitOf s.boot.phase < (s.clk - b).toNat) : execPhaseTimeout s = .next s.timeOut := by
  rw [execPhaseTimeout, State.overdue_of_late ⟨b, hb, hl⟩ h1 h4 hd, if_pos rfl]

theorem phaseTimeout_in_time {s : State} {b : DWord} (hb : s.boot.began = some b) (hl : (s.clk - b).toNat ≤ limitOf s.boot.phase) : execPhaseTimeout s = .next s := by
  have hn : ¬ Late s := by
    rintro ⟨b', hb', hlt⟩
    rw [hb] at hb'
    obtain rfl := Option.some.inj hb'
    omega
  rw [execPhaseTimeout, State.overdue_of_not_late hn, if_neg Bool.false_ne_true]

/-- Once a timeout value stands, BOOT_STAT keeps it. -/
theorem execBootStatWrite_timedOut {s : State} (h : s.boot.timedOut = true) : execBootStatWrite s = .next s :=
  State.byFirmware_eq_self (by rw [State.bootStatWrite, if_pos h])

/-- From FAILED no write of FU_STATE leads on. -/
theorem execFuStateWrite_failed {s : State} (h : s.boot.dev = .failed) : execFuStateWrite s = .next s :=
  State.byFirmware_eq_self (by rw [State.fuStateWrite, h])

/-! #### The first fetch of the firmware -/

theorem firstSramFetch_in_time {s : State} (hr : s.boot.rom = .jump) (hd : s.boot.dev = .rom) (hl : ¬ Late s) :
    execFirstSramFetch s = .next ((s.romAt .firmware).modBoot (fun b => { b with dev := .firmware, began := none })) := by
  rw [execFirstSramFetch, if_pos hr, State.overdue_of_not_late hl]
  simp only [hd, ne_eq, not_true_eq_false, if_false, Bool.false_eq_true]

theorem firstSramFetch_late {s : State} (hr : s.boot.rom = .jump) (hd : s.boot.dev = .rom) (hp : s.boot.phase = 3) (hl : Late s) :
    execFirstSramFetch s = .next (s.romAt .firmware).timeOut := by
  rw [execFirstSramFetch, if_pos hr, State.overdue_of_late hl (by omega) (by omega) (by simp [hd])]
  simp only [hd, ne_eq, not_true_eq_false, if_false, if_true]

/-! #### The steps of DEV_STATE.STATE (R24) -/

theorem State.fuStateWrite_firmware {s : State} (hd : s.boot.dev = .firmware) (v : Nat) :
    s.fuStateWrite v = if v = 3 then s.modBoot (fun b => { b with dev := .localInit, phase := 4, began := some s.clk })
      else if v = 0xFF then s.modBoot (fun b => { b with dev := .failed, began := none }) else s := by
  rw [State.fuStateWrite, hd]

theorem State.fuStateWrite_localInit {s : State} (hd : s.boot.dev = .localInit) (v : Nat) :
    s.fuStateWrite v = if s.overdue then s.timeOut
      else if v = 4 then (s.readyState.modBoot (fun b => { b with dev := .ready, phase := 6, began := none })).loadPlan
      else if v = 0xFF then s.modBoot (fun b => { b with dev := .failed, began := none }) else s := by
  rw [State.fuStateWrite, hd]

theorem State.fuStateWrite_other {s : State} (h2 : s.boot.dev ≠ .firmware) (h3 : s.boot.dev ≠ .localInit) (v : Nat) : s.fuStateWrite v = s := by
  cases hd : s.boot.dev with
  | firmware => exact absurd hd h2
  | localInit => exact absurd hd h3
  | rom => rw [State.fuStateWrite, hd]
  | ready => rw [State.fuStateWrite, hd]
  | failed => rw [State.fuStateWrite, hd]

theorem execFuStateWrite_runs {s : State} (h : Runs s) : execFuStateWrite s = .next (s.fuStateWrite s.inp.val.toNat) := State.byFirmware_runs h _

theorem execBootStatWrite_runs {s : State} (h : Runs s) : execBootStatWrite s = .next (s.bootStatWrite (s.inp.val.setWidth 8)) := State.byFirmware_runs h _

/-- A fold of steps that change the fabric port's part alone changes that part alone. -/
theorem foldl_fabric {α : Type} (f : State → α → State) (hf : ∀ u a, f u a = { u with fabric := (f u a).fabric }) :
    ∀ (l : List α) (s : State), l.foldl f s = { s with fabric := (l.foldl f s).fabric }
  | [], _ => rfl
  | a :: l, s => by
    rw [List.foldl_cons, foldl_fabric f hf l (f s a), hf s a]

theorem State.loadPlan_eq (s : State) : s.loadPlan = { s with fabric := s.loadPlan.fabric } := by
  rw [State.loadPlan]
  rw [foldl_fabric _ (fun _ _ => rfl), foldl_fabric _ (fun _ _ => rfl)]

/-- Every peer but this package is dead. -/
theorem getLsbD_allDead (pkg p : Nat) : (~~~(1#4096 <<< pkg)).getLsbD p = decide (p < 4096 ∧ p ≠ pkg) := by
  by_cases hp : p < 4096
  · rcases Nat.lt_trichotomy p pkg with h | h | h
    · simp [h, h.ne]
    · simp [h]
    · have : p - pkg ≠ 0 := by omega
      simp [hp, h.ne', Nat.not_lt_of_gt h, this]
  · simp [hp]

/-- READY as R25 has it. -/
theorem State.ready_fields (s : State) (v : Nat) (hd : s.boot.dev = .localInit) (ho : s.overdue = false) (hv : v = 4) :
    let t := s.fuStateWrite v
    (devStatus t).1 = 4 ∧ t.queues = [] ∧ t.launches = [] ∧ t.keySlots = [] ∧ t.sealedSlots = [] ∧ t.mem = [] ∧ t.poison = [] ∧
      (∀ p, t.dead.getLsbD p = decide (p < 4096 ∧ p ≠ s.pkg)) ∧
      (∀ e ∈ t.clusters, e.2.rroot = Vector.replicate 16 0 ∧ e.2.hroot = Vector.replicate 16 0 ∧ e.2.pub = 0 ∧ e.2.keyBits = 0) := by
  rw [State.fuStateWrite_localInit hd, ho, if_neg Bool.false_ne_true, if_pos hv, State.loadPlan_eq]
  refine ⟨by rw [devStatus_eq]; rfl, rfl, rfl, rfl, rfl, rfl, rfl, getLsbD_allDead s.pkg, fun e he => ?_⟩
  obtain ⟨e', -, rfl⟩ := List.mem_map.mp he
  exact ⟨rfl, rfl, rfl, rfl⟩

end Sys2Proof.Machine

/-! ### O39 -/

namespace Sys2Proof.Machine
open Sys2Proof.Claims

theorem powerUp_powerGood (s : State) (hp : s.boot.phase = 1) (hpw : s.boot.powered = false) (hd : s.boot.dev = .rom) :
    (¬ Late s → ∃ t, exec .powerGood s = .next t ∧ t = { s with boot := t.boot, pending := t.pending } ∧ t.boot.powered = true ∧ t.boot.phase = 2 ∧ devStatus t = (1, 1) ∧
      t.boot.meas = s.boot.meas ∧ Sched.event .romMeasured {} ∈ t.pending) ∧
    (Late s → ∃ t, exec .powerGood s = .next t ∧ devStatus t = (0xFF, 0xF1)) := by
  rw [exec_powerGood]
  refine ⟨fun hl => ⟨_, execPowerGood_in_time hp hpw hd hl, rfl, rfl, rfl, ?_, rfl, by simp⟩, fun hl => ⟨_, execPowerGood_late hp hpw hd hl, ?_⟩⟩
  · simp [devStatus_eq, hd, DevState.code]
  · rw [devStatus_timeOut s (by omega), hp]

theorem powerUp_romMeasured (s : State) (hp : s.boot.phase = 2) (hpw : s.boot.powered = true) (hd : s.boot.dev = .rom) (hm : s.boot.meas.length = 16)
    (ht : s.boot.timedOut = false) (hce : s.boot.ce.run = none) (hA : memWf s.boot.flashA = true) (hB : memWf s.boot.flashB = true) :
    (Late s → ∃ t, exec .romMeasured s = .next t ∧ devStatus t = (0xFF, 0xF2)) ∧
    (¬ Late s → ∃ t, exec .romMeasured s = .next t ∧ t = { s with boot := t.boot, pending := t.pending } ∧ t.boot.phase = 3 ∧ t.boot.released = true ∧
      t.boot.meas = sha384 (s.boot.meas.getD 0 [] ++ sha384 Config.bootRom) :: s.boot.meas.tail ∧
      (GoodHeader s.boot.flashA s.boot.svn.toNat → Hashing s t s.boot.flashA false ∧ devStatus t = (1, 1)) ∧
      (¬ GoodHeader s.boot.flashA s.boot.svn.toNat → GoodHeader s.boot.flashB s.boot.svn.toNat → Hashing s t s.boot.flashB true ∧ devStatus t = (1, 0xE1)) ∧
      (¬ GoodHeader s.boot.flashA s.boot.svn.toNat → ¬ GoodHeader s.boot.flashB s.boot.svn.toNat → t.boot.rom = .halted ∧ devStatus t = (0xFF, 0xEF))) := by
  rw [exec_romMeasured]
  refine ⟨fun hl => ⟨_, execRomMeasured_late hp hpw hd hl, by rw [devStatus_timeOut s (by omega), hp]⟩, fun hl => ?_⟩
  obtain ⟨⟨hob, hph, hrel, hmeas, hfound⟩, hms⟩ := romMeasured_search hd hm ht hce hA hB
  exact ⟨_, execRomMeasured_in_time hp hpw hd hl, State.OnlyBoot.trans ((State.OnlyBoot.refl s).modBoot _) hob, hph, hrel, hmeas.trans hms, hfound⟩

theorem powerUp_phaseTimeout (s : State) (n : Nat) (b : DWord) (hp : s.boot.phase = n) (h1 : 1 ≤ n) (h4 : n ≤ 4) (hb : s.boot.began = some b) (hd : s.boot.dev ≠ .failed) :
    (limitOf n < (s.clk - b).toNat → ∃ t, exec .phaseTimeout s = .next t ∧ t = { s with boot := t.boot } ∧ devStatus t = (0xFF, 0xF0 + n) ∧
      ∀ u : State, u.boot = t.boot → exec .bootStatWrite u = .next u ∧ exec .fuStateWrite u = .next u) ∧
    ((s.clk - b).toNat ≤ limitOf n → exec .phaseTimeout s = .next s) := by
  subst hp
  rw [exec_phaseTimeout]
  refine ⟨fun hl => ⟨_, phaseTimeout_late h1 h4 hb hd hl, rfl, devStatus_timeOut s h4, fun u hu => ?_⟩, phaseTimeout_in_time hb⟩
  rw [exec_bootStatWrite, exec_fuStateWrite]
  exact ⟨execBootStatWrite_timedOut (by rw [hu]; rfl), execFuStateWrite_failed (by rw [hu]; rfl)⟩

theorem powerUp_firstSramFetch (s : State) (hr : s.boot.rom = .jump) (hd : s.boot.dev = .rom) (hp : s.boot.phase = 3) :
    (¬ Late s → ∃ t, exec .firstSramFetch s = .next t ∧ t = { s with boot := t.boot } ∧ (devStatus t).1 = 2 ∧ t.boot.began = none ∧ Runs t) ∧
    (Late s → ∃ t, exec .firstSramFetch s = .next t ∧ devStatus t = (0xFF, 0xF3)) := by
  rw [exec_firstSramFetch]
  refine ⟨fun hl => ⟨_, firstSramFetch_in_time hr hd hl, rfl, by rw [devStatus_eq]; rfl, rfl, rfl⟩, fun hl => ⟨_, firstSramFetch_late hr hd hp hl, ?_⟩⟩
  have h3 : (s.romAt .firmware).boot.phase = 3 := hp
  rw [devStatus_timeOut _ (by omega), h3]

theorem powerUp_fuStateWrite (s : State) (hr : Runs s) :
    (s.boot.dev = .firmware → s.inp.val = 3 → ∃ t, exec .fuStateWrite s = .next t ∧ t = { s with boot := t.boot } ∧ (devStatus t).1 = 3 ∧ t.boot.phase = 4) ∧
    (s.boot.dev = .localInit → s.boot.phase = 4 → Late s → ∃ t, exec .fuStateWrite s = .next t ∧ devStatus t = (0xFF, 0xF4)) ∧
    (s.boot.dev = .localInit → s.boot.phase = 4 → ¬ Late s → s.inp.val = 4 → ∃ t, exec .fuStateWrite s = .next t ∧ (devStatus t).1 = 4 ∧ t.queues = [] ∧ t.launches = [] ∧
      t.keySlots = [] ∧ t.sealedSlots = [] ∧ t.mem = [] ∧ t.poison = [] ∧ (∀ p, t.dead.getLsbD p = decide (p < 4096 ∧ p ≠ s.pkg)) ∧
      (∀ e ∈ t.clusters, e.2.rroot = Vector.replicate 16 0 ∧ e.2.hroot = Vector.replicate 16 0 ∧ e.2.pub = 0 ∧ e.2.keyBits = 0)) ∧
    (s.boot.dev = .firmware ∨ (s.boot.dev = .localInit ∧ s.boot.phase = 4 ∧ ¬ Late s) → s.inp.val = 0xFF →
      ∃ t, exec .fuStateWrite s = .next t ∧ t = { s with boot := t.boot } ∧ (devStatus t).1 = 0xFF) ∧
    (¬ (s.boot.dev = .firmware ∧ (s.inp.val = 3 ∨ s.inp.val = 0xFF)) → ¬ (s.boot.dev = .localInit ∧ (s.inp.val = 4 ∨ s.inp.val = 0xFF ∨ Late s)) →
      exec .fuStateWrite s = .next s) := by
  rw [exec_fuStateWrite, execFuStateWrite_runs hr]
  have hval : ∀ k : Nat, k < 2 ^ 64 → (s.inp.val.toNat = k ↔ s.inp.val = BitVec.ofNat 64 k) := fun k hk => by
    rw [← BitVec.toNat_inj, BitVec.toNat_ofNat, Nat.mod_eq_of_lt hk]
  have h3 := hval 3 (by decide)
  have h4 := hval 4 (by decide)
  have hFF := hval 0xFF (by decide)
  refine ⟨fun hd hv => ⟨_, rfl, ?_⟩, fun hd hp hl => ⟨_, rfl, ?_⟩, fun hd _ hl hv => ⟨_, rfl, ?_⟩, fun hd hv => ⟨_, rfl, ?_⟩, fun hf hi => ?_⟩
  · rw [State.fuStateWrite_firmware hd, if_pos (h3.mpr hv)]
    exact ⟨rfl, by rw [devStatus_eq]; rfl, rfl⟩
  · rw [State.fuStateWrite_localInit hd, State.overdue_of_late hl (by omega) (by omega) (by simp [hd]), if_pos rfl, devStatus_timeOut s (by omega), hp]
  · exact State.ready_fields s _ hd (State.overdue_of_not_late hl) (h4.mpr hv)
  · have hn := hFF.mpr hv
    rcases hd with hd | ⟨hd, -, hl⟩
    · rw [State.fuStateWrite_firmware hd, hn, if_neg (by decide), if_pos rfl]
      exact ⟨rfl, by rw [devStatus_eq]; rfl⟩
    · rw [State.fuStateWrite_localInit hd, State.overdue_of_not_late hl, if_neg Bool.false_ne_true, hn, if_neg (by decide), if_pos rfl]
      exact ⟨rfl, by rw [devStatus_eq]; rfl⟩
  · congr 1
    by_cases hd : s.boot.dev = .firmware
    · rw [State.fuStateWrite_firmware hd, if_neg fun h => hf ⟨hd, .inl (h3.mp h)⟩, if_neg fun h => hf ⟨hd, .inr (hFF.mp h)⟩]
    by_cases hd' : s.boot.dev = .localInit
    · rw [State.fuStateWrite_localInit hd', State.overdue_of_not_late fun h => hi ⟨hd', .inr (.inr h)⟩, if_neg Bool.false_ne_true,
        if_neg fun h => hi ⟨hd', .inl (h4.mp h)⟩, if_neg fun h => hi ⟨hd', .inr (.inl (hFF.mp h))⟩]
    · exact State.fuStateWrite_other hd hd' _

theorem powerUp_bootStatWrite_late (s : State) (hr : Runs s) (ht : s.boot.timedOut = false) (hl : Late s) (h1 : 1 ≤ s.boot.phase) (h4 : s.boot.phase ≤ 4) (hd : s.boot.dev ≠ .failed) :
    ∃ t, exec .bootStatWrite s = .next t ∧ t = { s with boot := t.boot } ∧ devStatus t = (0xFF, 0xF0 + s.boot.phase) := by
  rw [exec_bootStatWrite, execBootStatWrite_runs hr, State.bootStatWrite_late _ ht (State.overdue_of_late hl h1 h4 hd)]
  exact ⟨_, rfl, rfl, devStatus_timeOut s h4⟩

theorem powerUp_bootStatWrite (s : State) (hr : Runs s) (ht : s.boot.timedOut = false) (hl : ¬ Late s) :
    ∃ t, exec .bootStatWrite s = .next t ∧ t = { s with boot := t.boot } ∧ (devStatus t).2 = s.inp.val.toNat % 256 ∧
      ((devStatus t).1 = if s.inp.val.toNat % 256 = 0xEF ∧ s.boot.dev ≠ .ready then 0xFF else (devStatus s).1) := by
  have ho := State.overdue_of_not_late hl
  have hv : s.inp.val.setWidth 8 = 0xEF ↔ s.inp.val.toNat % 256 = 0xEF := by
    rw [← BitVec.toNat_inj, BitVec.toNat_setWidth]
    rfl
  rw [exec_bootStatWrite, execBootStatWrite_runs hr]
  by_cases hEF : s.inp.val.setWidth 8 = 0xEF ∧ s.boot.dev ≠ .ready
  · rw [hEF.1, State.bootStatWrite_dead ht ho hEF.2, if_pos ⟨hv.mp hEF.1, hEF.2⟩]
    exact ⟨_, rfl, rfl, by rw [devStatus_eq, hv.mp hEF.1]; rfl, by rw [devStatus_eq]; rfl⟩
  · rw [State.bootStatWrite_keeps hEF ht ho, if_neg fun h => hEF ⟨hv.mpr h.1, h.2⟩]
    refine ⟨_, rfl, rfl, ?_, by rw [devStatus_eq, devStatus_eq]; rfl⟩
    rw [devStatus_eq]
    exact BitVec.toNat_setWidth 8 s.inp.val

theorem powerUp_config (s : State) :
    (∃ t, exec .perstDeasserted s = .next t ∧ t = { s with boot := { s.boot with perst := some s.clk } }) ∧
    (∀ b, s.boot.perst = some b → 210000000 ≤ (s.clk - b).toNat → ∃ t, exec .configRequest s = .next t ∧ t = { s with boot := { s.boot with answered := s.boot.answered + 1 } }) ∧
    (∀ b, s.boot.perst = some b → (s.clk - b).toNat < 210000000 → exec .configRequest s = .next s) := by
  have hus : usCycles 100000 = 210000000 := by norm_num [usCycles]
  rw [exec_perstDeasserted, exec_configRequest]
  refine ⟨⟨_, rfl, rfl⟩, fun b hb h => ?_, fun b hb h => ?_⟩
  · have hc : s.configLive = true := by simpa only [State.configLive, hb, hus, State.since, decide_eq_true_eq] using h
    rw [execConfigRequest, if_pos hc]
    exact ⟨_, rfl, rfl⟩
  · have hc : ¬ s.configLive = true := by simpa only [State.configLive, hb, hus, State.since, decide_eq_true_eq, not_le] using h
    rw [execConfigRequest, if_neg hc]

/-- Settles O39: power-up event by event; the boot program's search of the two slots is `State.romStart_searched`. -/
theorem powerUp : Obligations.PowerUp := by
  refine ⟨powerUp_powerGood, fun s hp hpw hd hm ht hce _ => powerUp_romMeasured s hp hpw hd hm ht hce, fun s c l hr ht hd hl => ?_, fun s c l hrom hr hc hlen ht hd hrx hl => ?_,
    powerUp_phaseTimeout, powerUp_firstSramFetch, fun s hr => ?_, powerUp_fuStateWrite, powerUp_bootStatWrite_late, powerUp_bootStatWrite, powerUp_config, fun s => ?_⟩
  · rw [exec_ceCommandDone]
    exact ⟨ceCommandDone_ecdsa hr ht hd hl, ceCommandDone_lms hr ht hd hl⟩
  · rw [exec_meCommandDone]
    exact meCommandDone_extend hrom hr hc hlen ht hd hrx hl
  · rw [exec_firstSramFetch, execFirstSramFetch, if_neg hr]
  · exact ⟨_, rfl, rfl, rfl, rfl, rfl, rfl, rfl, rfl, rfl, rfl, rfl, rfl⟩

end Sys2Proof.Machine

/-! ### The crypto engine, the measurement block and the mailbox (R15 to R18) -/

namespace Sys2Proof.Machine
open Sys2Proof.Claims

/-! #### A write of a command -/

theorem State.ceStart_command (s : State) (code : Nat) :
    (s.boot.ce.run = none → ∃ t, (.next (s.ceStart code) : Out) = .next t ∧ Sched.event .ceCommandDone {} ∈ t.pending ∧
      t.boot = { s.boot with ce := { done := false, pass := false, err := false, run := some ⟨code, s.boot.ceSrc.toNat, s.boot.ceLen.toNat, s.boot.ceSig.toNat⟩ } }) ∧
    (∀ c, s.boot.ce.run = some c → ∃ t, (.next (s.ceStart code) : Out) = .next t ∧ t.boot = s.boot) :=
  ⟨fun h => ⟨_, rfl, by simp [State.ceStart], by rw [State.ceStart_boot, MgmtStat.start_idle h]⟩, fun c h => ⟨_, rfl, by rw [State.ceStart_boot, MgmtStat.start_running h]⟩⟩

theorem State.meStart_command (s : State) (code : Nat) :
    (s.boot.me.run = none → ∃ t, (.next (s.meStart code) : Out) = .next t ∧ Sched.event .meCommandDone {} ∈ t.pending ∧
      t.boot = { s.boot with me := { done := false, pass := false, err := false, run := some ⟨code, s.boot.meSrc.toNat, s.boot.meIdx.toNat, 0⟩ } }) ∧
    (∀ c, s.boot.me.run = some c → ∃ t, (.next (s.meStart code) : Out) = .next t ∧ t.boot = s.boot) :=
  ⟨fun h => ⟨_, rfl, by simp [State.meStart], by rw [State.meStart_boot, MgmtStat.start_idle h]⟩, fun c h => ⟨_, rfl, by rw [State.meStart_boot, MgmtStat.start_running h]⟩⟩

theorem managementBlocks_ceStart (s : State) (i : Instr) (code : Nat) (hr : Runs s)
    (hi : i = .ceHash ∧ code = 1 ∨ i = .ceVerifyEcdsa ∧ code = 2 ∨ i = .ceVerifyLms ∧ code = 3) : exec i s = .next (s.ceStart code) := by
  obtain ⟨rfl, rfl⟩ | ⟨rfl, rfl⟩ | ⟨rfl, rfl⟩ := hi
  · rw [exec_ceHash, execCeHash, State.byFirmware_runs hr]
  · rw [exec_ceVerifyEcdsa, execCeVerifyEcdsa, State.byFirmware_runs hr]
  · rw [exec_ceVerifyLms, execCeVerifyLms, State.byFirmware_runs hr]

theorem managementBlocks_meStart (s : State) (i : Instr) (code : Nat) (hr : Runs s) (hi : i = .meExtend ∧ code = 1 ∨ i = .meSpdmMeas ∧ code = 2) :
    exec i s = .next (s.meStart code) := by
  obtain ⟨rfl, rfl⟩ | ⟨rfl, rfl⟩ := hi
  · rw [exec_meExtend, execMeExtend, State.byFirmware_runs hr]
  · rw [exec_meSpdmMeas, execMeSpdmMeas, State.byFirmware_runs hr]

/-- While the boot ROM runs the firmware makes no access. -/
theorem managementBlocks_notRuns (s : State) (i : Instr)
    (hi : i ∈ [Instr.ceHash, .ceVerifyEcdsa, .ceVerifyLms, .meExtend, .meSpdmMeas, .mbTxlen, .mbRxdone, .bootStatWrite, .fuStateWrite]) (hr : ¬ Runs s) : exec i s = .next s := by
  have hn := State.byFirmware_not_runs hr
  simp only [List.mem_cons, List.not_mem_nil, or_false] at hi
  obtain rfl | rfl | rfl | rfl | rfl | rfl | rfl | rfl | rfl := hi
  · rw [exec_ceHash, execCeHash, hn]
  · rw [exec_ceVerifyEcdsa, execCeVerifyEcdsa, hn]
  · rw [exec_ceVerifyLms, execCeVerifyLms, hn]
  · rw [exec_meExtend, execMeExtend, hn]
  · rw [exec_meSpdmMeas, execMeSpdmMeas, hn]
  · rw [exec_mbTxlen, execMbTxlen, hn]
  · rw [exec_mbRxdone, execMbRxdone, hn]
  · rw [exec_bootStatWrite, execBootStatWrite, hn]
  · rw [exec_fuStateWrite, execFuStateWrite, hn]

/-! #### The end of a command of the crypto engine -/

/-- A command that cannot be done. -/
def Boot.ceFail (b : Boot) : Boot := { b with ce := ended false true }

theorem Boot.ceEnd_hash {b : Boot} {c : MgmtCmd} {l : List Byte} (hc : c.code = 1) (h1 : 1 ≤ c.len) (h2 : c.len ≤ 0x1000000) (hl : MgmtBytes b false c.src c.len l) :
    b.ceEnd c = { b with ce := ended false false, ceDigest := sha384 l } := by
  have hlen : ¬ (decide (c.len = 0) || decide (0x1000000 < c.len)) = true := by simp; omega
  simp only [Boot.ceEnd, hc, if_true, if_neg hlen, Boot.bytes?_eq_some hl]
  rfl

theorem Boot.ceEnd_hash_len {b : Boot} {c : MgmtCmd} (hc : c.code = 1) (h : c.len = 0 ∨ 0x1000000 < c.len) : b.ceEnd c = b.ceFail := by
  have hlen : (decide (c.len = 0) || decide (0x1000000 < c.len)) = true := by simpa using h
  simp only [Boot.ceEnd, hc, if_true, hlen]
  rfl

theorem Boot.ceEnd_hash_hole {b : Boot} {c : MgmtCmd} (hc : c.code = 1) (h : MgmtHole b false c.src c.len) : b.ceEnd c = b.ceFail := by
  simp only [Boot.ceEnd, hc, if_true, Boot.bytes?_eq_none h, ite_self]
  rfl

theorem Boot.ceEnd_ecdsa_hole {b : Boot} {c : MgmtCmd} (hc : c.code = 2) (h : MgmtHole b false c.sig 96) : b.ceEnd c = b.ceFail := by
  simp only [Boot.ceEnd, hc, Nat.reduceEqDiff, if_false, if_true, Boot.bytes?_eq_none h]
  rfl

theorem Boot.ceEnd_ecdsa_malformed {b : Boot} {c : MgmtCmd} {l : List Byte} (hc : c.code = 2) (hl : MgmtBytes b false c.sig 96 l) (hf : ecdsaFormed l = false) :
    b.ceEnd c = b.ceFail := by
  simp only [Boot.ceEnd, hc, Nat.reduceEqDiff, if_false, if_true, Boot.bytes?_eq_some hl, hf, Bool.false_eq_true]
  rfl

theorem Boot.ceEnd_lms_hole {b : Boot} {c : MgmtCmd} (hc : c.code = 3) (h : MgmtHole b false c.sig 2672) : b.ceEnd c = b.ceFail := by
  simp only [Boot.ceEnd, hc, Nat.reduceEqDiff, if_false, if_true, Boot.bytes?_eq_none h]
  rfl

theorem Boot.ceEnd_lms_malformed {b : Boot} {c : MgmtCmd} {l : List Byte} (hc : c.code = 3) (hl : MgmtBytes b false c.sig 2672 l)
    (hf : l.take 4 ≠ [0, 0, 0, 0] ∨ lmsFormed (l.drop 4) = false) : b.ceEnd c = b.ceFail := by
  have hform : (decide (l.take 4 = [0, 0, 0, 0]) && lmsFormed (l.drop 4)) = false := by
    rcases hf with h | h
    · rw [decide_eq_false h, Bool.false_and]
    · rw [h, Bool.and_false]
  simp only [Boot.ceEnd, hc, Nat.reduceEqDiff, if_false, if_true, Boot.bytes?_eq_some hl, hform, Bool.false_eq_true]
  rfl

theorem Boot.ceEnd_unknown {b : Boot} {c : MgmtCmd} (h1 : c.code ≠ 1) (h2 : c.code ≠ 2) (h3 : c.code ≠ 3) : b.ceEnd c = b.ceFail := by
  simp only [Boot.ceEnd, h1, h2, h3, if_false]
  rfl

theorem Boot.ceEnd_fails {b : Boot} {c : MgmtCmd} {l : List Byte}
    (h : (c.code = 1 ∧ (c.len = 0 ∨ 0x1000000 < c.len ∨ MgmtHole b false c.src c.len)) ∨
      (c.code = 2 ∧ (MgmtHole b false c.sig 96 ∨ (MgmtBytes b false c.sig 96 l ∧ ecdsaFormed l = false))) ∨
      (c.code = 3 ∧ (MgmtHole b false c.sig 2672 ∨ (MgmtBytes b false c.sig 2672 l ∧ (l.take 4 ≠ [0, 0, 0, 0] ∨ lmsFormed (l.drop 4) = false)))) ∨
      (c.code ≠ 1 ∧ c.code ≠ 2 ∧ c.code ≠ 3)) : b.ceEnd c = b.ceFail := by
  rcases h with ⟨hc, h⟩ | ⟨hc, h⟩ | ⟨hc, h⟩ | ⟨h1, h2, h3⟩
  · rcases h with h | h | h
    · exact Boot.ceEnd_hash_len hc (.inl h)
    · exact Boot.ceEnd_hash_len hc (.inr h)
    · exact Boot.ceEnd_hash_hole hc h
  · rcases h with h | ⟨hl, hf⟩
    · exact Boot.ceEnd_ecdsa_hole hc h
    · exact Boot.ceEnd_ecdsa_malformed hc hl hf
  · rcases h with h | ⟨hl, hf⟩
    · exact Boot.ceEnd_lms_hole hc h
    · exact Boot.ceEnd_lms_malformed hc hl hf
  · exact Boot.ceEnd_unknown h1 h2 h3

theorem State.romCe_firmware {s : State} (h : s.boot.rom = .firmware) : s.romCe = s := by
  simp only [State.romCe, h]

/-- Under the firmware a command of the crypto engine ends with its outcome alone. -/
theorem ceCommandDone_firmware {s : State} {c : MgmtCmd} {b : Boot} (hr : Runs s) (hc : s.boot.ce.run = some c) (he : s.boot.ceEnd c = b) (hb : b.rom = s.boot.rom) :
    ∃ t, exec .ceCommandDone s = .next t ∧ t = { s with boot := b } := by
  have hm : s.modBoot (fun b => b.ceEnd c) = { s with boot := b } := by rw [State.modBoot, he]
  rw [exec_ceCommandDone]
  simp only [execCeCommandDone, hc, hm]
  rw [State.romCe_firmware (hb.trans hr)]
  exact ⟨_, rfl, rfl⟩

theorem managementBlocks_ceEnd (s : State) (c : MgmtCmd) (l : List Byte) (hr : Runs s) (hc : s.boot.ce.run = some c) :
    (c.code = 1 → 1 ≤ c.len → c.len ≤ 0x1000000 → MgmtBytes s.boot false c.src c.len l →
      ∃ t, exec .ceCommandDone s = .next t ∧ t = { s with boot := { s.boot with ce := ended false false, ceDigest := sha384 l } }) ∧
    (c.code = 2 → MgmtBytes s.boot false c.sig 96 l → ecdsaFormed l = true →
      ∃ t, exec .ceCommandDone s = .next t ∧ t = { s with boot := { s.boot with ce := ended (ecdsaVerify Config.ecdsaKey s.boot.ceDigest l) false } }) ∧
    (c.code = 3 → MgmtBytes s.boot false c.sig 2672 l → l.take 4 = [0, 0, 0, 0] → lmsFormed (l.drop 4) = true →
      ∃ t, exec .ceCommandDone s = .next t ∧ t = { s with boot := { s.boot with ce := ended (lmsVerify Config.lmsKey s.boot.ceDigest (l.drop 4)) false } }) ∧
    ((c.code = 1 ∧ (c.len = 0 ∨ 0x1000000 < c.len ∨ MgmtHole s.boot false c.src c.len)) ∨
        (c.code = 2 ∧ (MgmtHole s.boot false c.sig 96 ∨ (MgmtBytes s.boot false c.sig 96 l ∧ ecdsaFormed l = false))) ∨
        (c.code = 3 ∧ (MgmtHole s.boot false c.sig 2672 ∨ (MgmtBytes s.boot false c.sig 2672 l ∧ (l.take 4 ≠ [0, 0, 0, 0] ∨ lmsFormed (l.drop 4) = false)))) ∨
        (c.code ≠ 1 ∧ c.code ≠ 2 ∧ c.code ≠ 3) →
      ∃ t, exec .ceCommandDone s = .next t ∧ t = { s with boot := { s.boot with ce := ended false true } }) :=
  ⟨fun h1 h2 h3 hl => ceCommandDone_firmware hr hc (Boot.ceEnd_hash h1 h2 h3 hl) rfl,
    fun h1 hl hf => ceCommandDone_firmware hr hc (Boot.ceEnd_ecdsa h1 hl hf) rfl,
    fun h1 hl h4 hf => ceCommandDone_firmware hr hc (Boot.ceEnd_lms h1 hl h4 hf) rfl,
    fun h => ceCommandDone_firmware hr hc (Boot.ceEnd_fails h) rfl⟩

/-! #### The end of a command of the measurement block -/

/-- A command of the measurement block that cannot be done. -/
def Boot.meFail (b : Boot) : Boot := { b with me := ended false true }

theorem Boot.meEnd_response {b : Boot} {c : MgmtCmd} (n : Nat) {q : Bool × List Nat} (hc : c.code = 2) (hq : parseMeas b.mbRx = some q) :
    b.meEnd n c = { b with me := ended false false, mbTx := measResponse b.meas n b.mbRx q.1 q.2, meRlen := BitVec.ofNat 64 (measResponse b.meas n b.mbRx q.1 q.2).length } := by
  simp only [Boot.meEnd, hc, Nat.reduceEqDiff, if_false, if_true, hq]
  rfl

theorem Boot.meEnd_fails {b : Boot} {c : MgmtCmd} (n : Nat)
    (h : (c.code = 1 ∧ (c.len = 0 ∨ 16 ≤ c.len ∨ MgmtHole b true c.src 48)) ∨ (c.code = 2 ∧ parseMeas b.mbRx = none) ∨ (c.code ≠ 1 ∧ c.code ≠ 2)) :
    b.meEnd n c = b.meFail := by
  have hlen : c.len = 0 ∨ 16 ≤ c.len → c.code = 1 → b.meEnd n c = b.meFail := fun hl hc => by
    have hl' : (decide (c.len = 0) || decide (16 ≤ c.len)) = true := by simpa using hl
    simp only [Boot.meEnd, hc, if_true, hl']
    rfl
  rcases h with ⟨hc, h | h | h⟩ | ⟨hc, hq⟩ | ⟨h1, h2⟩
  · exact hlen (.inl h) hc
  · exact hlen (.inr h) hc
  · simp only [Boot.meEnd, hc, if_true, Boot.bytes?_eq_none h, ite_self]
    rfl
  · simp only [Boot.meEnd, hc, Nat.reduceEqDiff, if_false, if_true, hq]
    rfl
  · simp only [Boot.meEnd, h1, h2, if_false]
    rfl

theorem State.romMe_firmware {s : State} (h : s.boot.rom = .firmware) : s.romMe = s := by
  simp only [State.romMe, h]

/-- Under the firmware a command of the measurement block ends with its outcome alone, but for the counter of draws. -/
theorem meCommandDone_firmware {s : State} {c : MgmtCmd} {b : Boot} (hr : Runs s) (hc : s.boot.me.run = some c) (he : s.boot.meEnd s.freeCtr c = b) (hb : b.rom = s.boot.rom) :
    ∃ t, exec .meCommandDone s = .next t ∧ t = { s with freeCtr := t.freeCtr, boot := b } := by
  have hm : s.drew.modBoot (fun b => b.meEnd s.freeCtr c) = { s.drew with boot := b } := by rw [State.modBoot, State.drew_boot, he]
  rw [exec_meCommandDone]
  simp only [execMeCommandDone, hc, hm]
  rw [State.romMe_firmware (hb.trans hr)]
  exact ⟨_, rfl, rfl⟩

/-! #### The MEASUREMENTS response -/

theorem measBlock_eq {meas : List (List Byte)} (h : ∀ m ∈ meas, m.length = 48) (hl : meas.length = 16) {i : Nat} (h1 : 1 ≤ i) (h16 : i ≤ 16) :
    measBlock meas i = [BitVec.ofNat 8 i, 1, 51, 0, if i = 1 then 0 else 1, 48, 0] ++ meas.getD (i - 1) [] := by
  have hlt : i - 1 < meas.length := by omega
  have hv : (meas.getD (i - 1) []).length = 48 := by
    rw [List.getD_eq_getElem _ _ hlt]
    exact h _ (List.getElem_mem hlt)
  have e51 : leBytes 2 51 = [51, 0] := by decide
  have e48 : leBytes 2 48 = [48, 0] := by decide
  simp only [measBlock, hv, e48, e51]
  rfl

theorem measBlock_length {meas : List (List Byte)} (h : ∀ m ∈ meas, m.length = 48) (hl : meas.length = 16) {i : Nat} (h1 : 1 ≤ i) (h16 : i ≤ 16) :
    (measBlock meas i).length = 55 := by
  have hlt : i - 1 < meas.length := by omega
  rw [measBlock_eq h hl h1 h16, List.getD_eq_getElem _ _ hlt, List.length_append, h _ (List.getElem_mem hlt)]
  rfl

/-- Blocks of one length, one after the other, are found at its multiples. -/
theorem flatMap_block {α β : Type} {f : α → List β} {n : Nat} (r : List β) :
    ∀ {l : List α} {j : Nat} {x : α}, (∀ y ∈ l, (f y).length = n) → l[j]? = some x → ((l.flatMap f ++ r).drop (n * j)).take n = f x
  | y :: l, 0, x, h, hx => by
    obtain rfl : y = x := by simpa using hx
    rw [Nat.mul_zero, List.drop_zero, List.flatMap_cons, List.append_assoc, List.take_append_of_le_length (h y List.mem_cons_self).ge,
      List.take_of_length_le (h y List.mem_cons_self).le]
  | y :: l, j + 1, x, h, hx => by
    have hy : (f y).length = n := h y List.mem_cons_self
    rw [List.flatMap_cons, List.append_assoc, Nat.mul_succ, Nat.add_comm, ← List.drop_drop, ← hy, List.drop_left, hy]
    exact flatMap_block r (fun z hz => h z (List.mem_cons_of_mem _ hz)) (by simpa using hx)

/-- A parsed request asks for registers between 1 and 16. -/
theorem parseMeas_mem {l : List Byte} {q : Bool × List Nat} (h : parseMeas l = some q) : ∀ i ∈ q.2, 1 ≤ i ∧ i ≤ 16 := by
  simp only [parseMeas] at h
  generalize (if (l.getD 2 0).getLsbD 0 then 45 else 12) = least at h
  split at h
  · cases h
  split at h
  · cases h
    simp
  next h0 =>
    split at h
    · cases h
      intro i hi
      obtain ⟨k, hk, rfl⟩ := List.mem_map.mp hi
      have := List.mem_range.mp hk
      omega
    split at h
    next h16 =>
      cases h
      intro i hi
      obtain rfl := List.mem_singleton.mp hi
      omega
    · cases h

/-- The response is eight bytes of head, the fifth of them the number of blocks, then the blocks. -/
theorem measResponse_eq (meas : List (List Byte)) (n : Nat) (req : List Byte) (sig : Bool) (idx : List Nat) :
    ∃ h r, measResponse meas n req sig idx = h ++ (idx.flatMap (measBlock meas) ++ r) ∧ h.length = 8 ∧ h.getD 4 0 = BitVec.ofNat 8 idx.length := by
  simp only [measResponse, List.append_assoc]
  rw [← List.append_assoc]
  exact ⟨_, _, rfl, rfl, rfl⟩

theorem measResponse_blocks {meas : List (List Byte)} {n : Nat} {req : List Byte} {q : Bool × List Nat} (hq : parseMeas req = some q) :
    let r := measResponse meas n req q.1 q.2
    r.getD 4 0 = BitVec.ofNat 8 q.2.length ∧
      ((∀ m ∈ meas, m.length = 48) → meas.length = 16 → ∀ j i, q.2[j]? = some i → 1 ≤ i → i ≤ 16 →
        (r.drop (8 + 55 * j)).take 55 = [BitVec.ofNat 8 i, 1, 51, 0, if i = 1 then 0 else 1, 48, 0] ++ meas.getD (i - 1) []) := by
  obtain ⟨h, r, hr, h8, h4⟩ := measResponse_eq meas n req q.1 q.2
  rw [hr]
  refine ⟨?_, fun hm hl j i hj h1 h16 => ?_⟩
  · rw [List.getD_append _ _ _ _ (by omega), h4]
  · rw [← measBlock_eq hm hl h1 h16, ← List.drop_drop, ← h8, List.drop_left]
    exact flatMap_block r (fun y hy => measBlock_length hm hl (parseMeas_mem hq y hy).1 (parseMeas_mem hq y hy).2) hj

theorem managementBlocks_meEnd (s : State) (c : MgmtCmd) (l : List Byte) (hr : Runs s) (hc : s.boot.me.run = some c) :
    (c.code = 1 → 1 ≤ c.len → c.len ≤ 15 → MgmtBytes s.boot true c.src 48 l →
      ∃ t, exec .meCommandDone s = .next t ∧
        t = { s with freeCtr := t.freeCtr, boot := { s.boot with me := ended false false, meas := s.boot.meas.set c.len (sha384 (s.boot.meas.getD c.len [] ++ l)) } }) ∧
    (c.code = 2 → ∀ q, parseMeas s.boot.mbRx = some q →
      ∃ t r, exec .meCommandDone s = .next t ∧
        t = { s with freeCtr := t.freeCtr, boot := { s.boot with me := ended false false, mbTx := r, meRlen := BitVec.ofNat 64 r.length } } ∧
        r.getD 4 0 = BitVec.ofNat 8 q.2.length ∧
        ((∀ m ∈ s.boot.meas, m.length = 48) → s.boot.meas.length = 16 → ∀ j i, q.2[j]? = some i → 1 ≤ i → i ≤ 16 →
          (r.drop (8 + 55 * j)).take 55 = [BitVec.ofNat 8 i, 1, 51, 0, if i = 1 then 0 else 1, 48, 0] ++ s.boot.meas.getD (i - 1) [])) ∧
    ((c.code = 1 ∧ (c.len = 0 ∨ 16 ≤ c.len ∨ MgmtHole s.boot true c.src 48)) ∨ (c.code = 2 ∧ parseMeas s.boot.mbRx = none) ∨ (c.code ≠ 1 ∧ c.code ≠ 2) →
      ∃ t, exec .meCommandDone s = .next t ∧ t = { s with freeCtr := t.freeCtr, boot := { s.boot with me := ended false true } }) := by
  refine ⟨fun h1 h2 h3 hl => ?_, fun h2 q hq => ?_, fun h => ?_⟩
  · exact meCommandDone_firmware hr hc (Boot.meEnd_extend s.freeCtr h1 (by omega) (by omega) hl) rfl
  · obtain ⟨t, ht, hts⟩ := meCommandDone_firmware hr hc (Boot.meEnd_response s.freeCtr h2 hq) rfl
    exact ⟨t, _, ht, hts, measResponse_blocks hq⟩
  · exact meCommandDone_firmware hr hc (Boot.meEnd_fails s.freeCtr h) rfl

/-! #### The mailbox -/

theorem managementBlocks_request (s : State) (l : List Byte) (hl : s.inp.bytes = l) :
    (l.getD 1 0 ∈ [0x84#8, 0xE1#8, 0xE3#8, 0x81#8, 0x82#8] →
      ∃ t, exec .mctpRequest s = .next t ∧ t = { s with boot := { s.boot with sent := s.boot.sent ++ [mailboxAnswer l] } }) ∧
    (l.getD 1 0 ∉ [0x84#8, 0xE1#8, 0xE3#8, 0x81#8, 0x82#8] → s.boot.rxv = false →
      ∃ t, exec .mctpRequest s = .next t ∧ t = { s with boot := { s.boot with mbRx := l.take 2048, rxv := true } }) ∧
    (l.getD 1 0 ∉ [0x84#8, 0xE1#8, 0xE3#8, 0x81#8, 0x82#8] → s.boot.rxv = true → exec .mctpRequest s = .next s) := by
  have hm : mailboxAnswers.contains (l.getD 1 0) = true ↔ l.getD 1 0 ∈ [0x84#8, 0xE1#8, 0xE3#8, 0x81#8, 0x82#8] := List.contains_iff_mem
  rw [exec_mctpRequest, execMctpRequest, hl]
  dsimp only
  refine ⟨fun h => ?_, fun h hx => ?_, fun h hx => ?_⟩
  · rw [if_pos (hm.mpr h)]
    exact ⟨_, rfl, rfl⟩
  · rw [if_neg fun hc => h (hm.mp hc), hx, if_neg Bool.false_ne_true]
    exact ⟨_, rfl, rfl⟩
  · rw [if_neg fun hc => h (hm.mp hc), if_pos hx]

theorem managementBlocks_mailbox (s : State) (hr : Runs s) :
    (∃ t l, exec .mbTxlen s = .next t ∧ t.boot = { s.boot with sent := s.boot.sent ++ [l], txb := true } ∧ Sched.event .mbTransmitDone {} ∈ t.pending ∧
      l.length = min s.inp.val.toNat 2048 ∧ ∀ k, k < l.length → l.getD k 0 = s.boot.mbTx.getD k 0) ∧
    (∃ t, exec .mbTransmitDone s = .next t ∧ t = { s with boot := { s.boot with txb := false } }) ∧
    (s.inp.val = 1 → ∃ t, exec .mbRxdone s = .next t ∧ t = { s with boot := { s.boot with rxv := false } }) := by
  have hserve : s.boot.rom ≠ .serve := by
    rw [show s.boot.rom = .firmware from hr]
    decide
  refine ⟨?_, ?_, fun hv => ?_⟩
  · rw [exec_mbTxlen, execMbTxlen, State.byFirmware_runs hr]
    refine ⟨_, _, rfl, rfl, by simp [State.transmit], by simp, fun k hk => ?_⟩
    rw [List.getD_eq_getElem _ _ hk, List.getElem_map, List.getElem_range]
  · rw [exec_mbTransmitDone, execMbTransmitDone]
    rw [if_neg hserve]
    exact ⟨_, rfl, rfl⟩
  · rw [exec_mbRxdone, execMbRxdone, State.byFirmware_runs hr, if_pos hv]
    exact ⟨_, rfl, rfl⟩

/-- Settles O40: the commands of the two engines by their outcomes, and the mailbox; the layout of the measurements is `measResponse_blocks`. -/
theorem managementBlocks : Obligations.ManagementBlocks := by
  refine ⟨fun s i code hr hi => ?_, fun s i code hr hi => ?_, managementBlocks_notRuns, managementBlocks_ceEnd, managementBlocks_meEnd, fun s hce hme => ?_,
    managementBlocks_request, managementBlocks_mailbox⟩
  · rw [managementBlocks_ceStart s i code hr hi]
    exact s.ceStart_command code
  · rw [managementBlocks_meStart s i code hr hi]
    exact s.meStart_command code
  · rw [exec_ceCommandDone, exec_meCommandDone]
    exact ⟨by simp only [execCeCommandDone, hce], by simp only [execMeCommandDone, hme]⟩

end Sys2Proof.Machine

/-! ### The fabric port: its parts read back -/

namespace Sys2Proof.Machine
open Sys2Proof.Claims

theorem Fabric.partner_congr {f g : Fabric} (h : f.partners = g.partners) (q : Nat) : f.partner q = g.partner q := by
  rw [Fabric.partner, h, Fabric.partner]

theorem Fabric.colour_congr {f g : Fabric} (h : f.colours = g.colours) (l q : Nat) : f.colour l q = g.colour l q := by
  rw [Fabric.colour, h, Fabric.colour]

/-- A partner as it was written. -/
theorem Fabric.partner_of_put {f : Fabric} {p : Nat} {x : Partner} {m : Assoc Nat Partner} (h : f.partners = Assoc.put p x m) : f.partner p = x := by
  rw [Fabric.partner, h, Assoc.get_put_self]

theorem Fabric.partner_of_put_ne {f g : Fabric} {p q : Nat} {x : Partner} (h : f.partners = Assoc.put p x g.partners) (hq : q ≠ p) : f.partner q = g.partner q := by
  rw [Fabric.partner, h, Assoc.get_put_ne _ hq.symm, Fabric.partner]

@[simp] theorem Fabric.partner_modPartner (f : Fabric) (p : Nat) (g : Partner → Partner) : (f.modPartner p g).partner p = g (f.partner p) := Assoc.get_put_self ..
theorem Fabric.partner_modPartner_ne (f : Fabric) {p q : Nat} (h : q ≠ p) (g : Partner → Partner) : (f.modPartner p g).partner q = f.partner q :=
  Assoc.get_put_ne _ h.symm ..
@[simp] theorem Fabric.colour_modColour (f : Fabric) (l p : Nat) (g : Colour → Colour) : (f.modColour l p g).colour l p = g (f.colour l p) := Assoc.get_put_self ..
theorem Fabric.colour_modColour_ne (f : Fabric) {l p l' q : Nat} (h : ¬ (l' = l ∧ q = p)) (g : Colour → Colour) : (f.modColour l p g).colour l' q = f.colour l' q :=
  Assoc.get_put_ne _ (fun e => h ⟨(Prod.mk.inj e).1.symm, (Prod.mk.inj e).2.symm⟩) ..

@[simp] theorem State.fabric_modFab (s : State) (f : Fabric → Fabric) : (s.modFab f).fabric = f s.fabric := rfl

/-! ### What the port's steps keep -/

/-- A step of the port changes the fabric's part, the items that wait and the events posted, and nothing else. -/
def State.PortOnly (s t : State) : Prop := t = { s with fabric := t.fabric, items := t.items, pending := t.pending }

theorem State.PortOnly.refl (s : State) : s.PortOnly s := rfl

theorem State.PortOnly.trans {s t u : State} (h : s.PortOnly t) (h' : t.PortOnly u) : s.PortOnly u := by
  unfold State.PortOnly at h h' ⊢
  rw [h] at h'
  exact h'

theorem State.PortOnly.clk {s t : State} (h : s.PortOnly t) : t.clk = s.clk := by rw [h]
theorem State.PortOnly.pkg {s t : State} (h : s.PortOnly t) : t.pkg = s.pkg := by rw [h]
theorem State.PortOnly.dead {s t : State} (h : s.PortOnly t) : t.dead = s.dead := by rw [h]

theorem State.PortOnly.sameMem {s t : State} (h : s.PortOnly t) : s.sameMem t := by
  intro pa key
  rw [h]
  rfl

theorem State.PortOnly.modFab {s t : State} (h : s.PortOnly t) (f : Fabric → Fabric) : s.PortOnly (t.modFab f) := h.trans rfl

theorem State.PortOnly.queueItem {s t : State} (h : s.PortOnly t) (d o c : Nat) (b : ItemBody) : s.PortOnly (t.queueItem d o c b) := by
  refine h.trans ?_
  unfold State.queueItem
  dsimp only
  split <;> rfl

/-! #### Floors -/

/-- What meeting the floors changes in the fabric: the colours and the classes of lanes. -/
def Fabric.ColoursOnly (f g : Fabric) : Prop := g = { f with colours := g.colours, long := g.long }

theorem Fabric.ColoursOnly.trans {f g h : Fabric} (a : f.ColoursOnly g) (b : g.ColoursOnly h) : f.ColoursOnly h := by
  unfold Fabric.ColoursOnly at a b ⊢
  rw [a] at b
  exact b

theorem Fabric.ColoursOnly.foldl {α : Type} {k : Fabric → α → Fabric} (hk : ∀ (u : Fabric) a, u.ColoursOnly (k u a)) (l : List α) (f : Fabric) : f.ColoursOnly (l.foldl k f) := by
  induction l generalizing f with
  | nil => exact rfl
  | cons a l ih => exact (hk f a).trans (ih _)

theorem Fabric.meetFloor_coloursOnly (f : Fabric) (d : Nat) (clk : DWord) : f.ColoursOnly (f.meetFloor d clk) := by
  unfold Fabric.meetFloor
  split
  · rfl
  · exact Fabric.ColoursOnly.foldl (k := fun g (r : Route) => g.light r d none true clk) (fun _ _ => rfl) _ f

/-- The fabric with its floors met. -/
def Fabric.floorsMet (f : Fabric) (clk : DWord) : Fabric := f.partners.foldl (fun g e => g.meetFloor e.1 clk) f

theorem Fabric.floorsMet_coloursOnly (f : Fabric) (clk : DWord) : f.ColoursOnly (f.floorsMet clk) :=
  Fabric.ColoursOnly.foldl (k := fun g (e : Nat × Partner) => g.meetFloor e.1 clk) (fun u e => u.meetFloor_coloursOnly e.1 clk) _ f

theorem State.foldl_post_eq {α : Type} (i : Instr) (g : α → Inp) (l : List α) (s : State) :
    l.foldl (fun u e => u.post i (g e)) s = { s with pending := (l.foldl (fun u e => u.post i (g e)) s).pending } := by
  induction l generalizing s with
  | nil => rfl
  | cons a l ih =>
    rw [List.foldl_cons, ih]
    rfl

theorem State.meetFloors_eq (s : State) : s.meetFloors = { s with fabric := s.fabric.floorsMet s.clk, pending := s.meetFloors.pending } := by
  rw [State.meetFloors]
  exact State.foldl_post_eq ..

@[simp] theorem State.meetFloors_fabric (s : State) : s.meetFloors.fabric = s.fabric.floorsMet s.clk := by
  rw [State.meetFloors_eq]

theorem State.meetFloors_items (s : State) : s.meetFloors.items = s.items := by
  rw [State.meetFloors_eq]

theorem State.PortOnly.meetFloors {s t : State} (h : s.PortOnly t) : s.PortOnly t.meetFloors := by
  refine h.trans ?_
  rw [State.meetFloors_eq]
  rfl

theorem Fabric.floorsMet_partner (f : Fabric) (clk : DWord) (q : Nat) : (f.floorsMet clk).partner q = f.partner q := by
  rw [f.floorsMet_coloursOnly clk]
  rfl

theorem Fabric.floorsMet_sent (f : Fabric) (clk : DWord) : (f.floorsMet clk).sent = f.sent := by
  rw [f.floorsMet_coloursOnly clk]

end Sys2Proof.Machine

/-! ### Training (R27) -/

namespace Sys2Proof.Machine
open Sys2Proof.Claims

/-- A partner that fails its training is DOWN from now, with CAUSE 4. -/
theorem State.trainFail_fields (s : State) (p : Nat) :
    ((s.trainFail p).fabric.partner p).st = .down ∧ ((s.trainFail p).fabric.partner p).failedAt = some s.clk ∧ Assoc.get 0 p (s.trainFail p).fabric.causes = 4 ∧
      (s.trainFail p).dead = s.dead := by
  have hp : (s.trainFail p).fabric.partner p = { s.fabric.partner p with st := .down, usable := [], failedAt := some s.clk } := Fabric.partner_of_put rfl
  rw [hp]
  exact ⟨rfl, rfl, Assoc.get_put_self .., rfl⟩

theorem State.training_modPartner {s : State} {p : Nat} (g : Partner → Partner) : training s (s.modFab (fun f => f.modPartner p g)) p :=
  fun _ hq => Fabric.partner_modPartner_ne _ hq _

theorem links_trainStart (s : State) :
    let x := s.fabric.partner s.inp.id
    let rested := x.failedAt = none ∨ ∃ b, x.failedAt = some b ∧ usCycles 1000000 ≤ s.since b
    (s.boot.dev = .ready → x.st = .down → rested → s.fabric.isPartner s.inp.id = true →
      ∃ t, exec .trainStart s = .next t ∧ t.fabric.partner s.inp.id = { x with st := .cal } ∧ training s t s.inp.id) ∧
    (s.boot.dev ≠ .ready ∨ x.st ≠ .down ∨ ¬ rested ∨ s.fabric.isPartner s.inp.id = false → exec .trainStart s = .next s) := by
  intro x rested
  have hw : (match x.failedAt with | some t => decide (usCycles 1000000 ≤ s.since t) | none => true) = true ↔ rested := by
    cases hf : x.failedAt <;> simp [rested, hf]
  rw [exec_trainStart, execTrainStart]
  refine ⟨fun hd hst hr hp => ?_, fun h => ?_⟩
  · rw [if_pos (by simp only [Bool.and_eq_true, decide_eq_true_eq]; exact ⟨⟨⟨hd, hst⟩, hw.mpr hr⟩, hp⟩)]
    exact ⟨_, rfl, Fabric.partner_of_put rfl, State.training_modPartner _⟩
  · rw [if_neg]
    simp only [Bool.and_eq_true, decide_eq_true_eq]
    rintro ⟨⟨⟨hd, hst⟩, hr⟩, hp⟩
    rcases h with h | h | h | h
    · exact h hd
    · exact h hst
    · exact h (hw.mp hr)
    · rw [hp] at h
      cases h

theorem links_calDone (s : State) (hst : (s.fabric.partner s.inp.id).st = .cal) (ok : List Route)
    (hok : ok = ((s.fabric.partner s.inp.id).routes.zipIdx.filter (fun e => s.inp.nats.contains e.2)).map (·.1)) :
    (ok ≠ [] → ∃ t, exec .calDone s = .next t ∧ t.fabric.partner s.inp.id = { s.fabric.partner s.inp.id with st := .rtt, usable := ok.map (fun r => (r, 0)) } ∧
      training s t s.inp.id ∧ sends s t (ok.flatMap (fun r => List.replicate 16 (echoFlit r.lane s.inp.id)))) ∧
    (ok = [] → ∃ t, exec .calDone s = .next t ∧ (t.fabric.partner s.inp.id).st = .down ∧ (t.fabric.partner s.inp.id).failedAt = some s.clk ∧
      Assoc.get 0 s.inp.id t.fabric.causes = 4) := by
  rw [exec_calDone, execCalDone]
  dsimp only
  rw [if_neg (not_not_intro hst), ← hok]
  refine ⟨fun h => ?_, fun h => ?_⟩
  · rw [if_neg h]
    exact ⟨_, rfl, Fabric.partner_of_put rfl, fun q hq => Fabric.partner_of_put_ne rfl hq, rfl⟩
  · rw [if_pos h]
    obtain ⟨h1, h2, h3, -⟩ := s.trainFail_fields s.inp.id
    exact ⟨_, rfl, h1, h2, h3⟩

theorem links_rttDone (s : State) (hst : (s.fabric.partner s.inp.id).st = .rtt) (us : List (Route × Nat))
    (hus : us = (s.fabric.partner s.inp.id).usable.zipIdx.map (fun u => (u.1.1, (s.inp.pairs.find? (fun e => e.1 = u.2)).elim 0 (·.2)))) :
    ((∀ u ∈ us, u.2 ≤ 2000000) → ∃ t, exec .rttDone s = .next t ∧ t.fabric.partner s.inp.id = { s.fabric.partner s.inp.id with st := .keys, usable := us } ∧ training s t s.inp.id) ∧
    ((∃ u ∈ us, 2000000 < u.2) → ∃ t, exec .rttDone s = .next t ∧ (t.fabric.partner s.inp.id).st = .down ∧ Assoc.get 0 s.inp.id t.fabric.causes = 4) := by
  rw [exec_rttDone, execRttDone]
  dsimp only
  rw [if_neg (not_not_intro hst), ← hus]
  refine ⟨fun h => ?_, fun ⟨u, hu, h⟩ => ?_⟩
  · rw [if_neg (by simpa using h)]
    exact ⟨_, rfl, Fabric.partner_of_put rfl, State.training_modPartner _⟩
  · rw [if_pos (List.any_eq_true.mpr ⟨u, hu, decide_eq_true h⟩)]
    obtain ⟨h1, -, h3, -⟩ := s.trainFail_fields s.inp.id
    exact ⟨_, rfl, h1, h3⟩

theorem links_echo (s : State) (hst : (s.fabric.partner s.inp.id).st = .rtt) :
    ∃ t, exec .echo s = .next t ∧ t = { s with fabric := t.fabric } ∧ sends s t [echoFlit s.inp.n s.inp.id] := by
  rw [exec_echo, execEcho, if_pos hst]
  exact ⟨_, rfl, rfl, rfl⟩

/-! #### Windows -/

theorem Assoc.filter_put_ne {κ α : Type} [DecidableEq κ] {k : κ} {P : κ × α → Bool} (hP : ∀ v, P (k, v) = false) (v : α) (m : Assoc κ α) :
    (Assoc.put k v m).filter P = List.filter P m := by
  induction m with
  | nil => simp [Assoc.put, hP]
  | cons e m ih =>
    obtain ⟨k', v'⟩ := e
    by_cases hk : k' = k
    · subst hk
      simp [Assoc.put, hP]
    · simp only [Assoc.put, if_neg hk, List.filter_cons, ih]

theorem Fabric.windowed_modPartner (f : Fabric) (p : Nat) (g : Partner → Partner) : (f.modPartner p g).windowed p = f.windowed p := by
  rw [Fabric.windowed, Fabric.windowed, Fabric.modPartner, Assoc.filter_put_ne (by simp)]

/-- The window check of a partner reads its usable routes and the other partners. -/
theorem Fabric.admitted_modPartner (f : Fabric) (p : Nat) {g : Partner → Partner} (hg : (g (f.partner p)).usable = (f.partner p).usable) :
    (f.modPartner p g).admitted p = f.admitted p := by
  unfold Fabric.admitted
  rw [Fabric.windowed_modPartner, Fabric.partner_modPartner, hg]

theorem State.reportState_fabric (s : State) (p : Nat) (dead up : List Nat) : s.PortOnly (s.reportState p dead up) ∧
    (s.reportState p dead up).fabric.partners = s.fabric.partners := by
  unfold State.reportState
  generalize List.filter _ _ = l
  induction l generalizing s with
  | nil => exact ⟨rfl, rfl⟩
  | cons e l ih =>
    obtain ⟨h1, h2⟩ := ih (s.queueItem e.1 0 0 (.state dead up))
    exact ⟨((State.PortOnly.refl s).queueItem ..).trans h1, h2.trans rfl⟩

/-- The clear bit of a package that has come UP. -/
theorem getLsbD_undead (m : BitVec 4096) (p q : Nat) : (m &&& ~~~(1#4096 <<< p)).getLsbD q = (m.getLsbD q && !decide (q = p)) := by
  by_cases hq : q < 4096
  · rcases Nat.lt_trichotomy q p with h | h | h
    · simp [hq, h, h.ne]
    · simp [h]
    · have hne : q - p ≠ 0 := by omega
      simp [hq, h.ne', Nat.not_lt_of_gt h, hne]
  · simp [BitVec.getLsbD_of_ge _ _ (Nat.le_of_not_lt hq)]

/-- A partner that comes UP has the routes admitted, keeps its keys, and its dead-peer bit clears. -/
theorem State.partnerUp_up {s : State} {p : Nat} {us : List (Route × Nat)} (ha : s.fabric.admitted p = some us) :
    (s.partnerUp p).fabric.partner p = { s.fabric.partner p with st := .up, usable := us, heard := s.clk, darkSince := none } ∧
      (s.partnerUp p).dead = s.dead &&& ~~~(1#4096 <<< p) := by
  have haw : (s.atWindows p).fabric.admitted p = s.fabric.admitted p := Fabric.admitted_modPartner _ _ rfl
  obtain ⟨hn, -⟩ | ⟨us', hs, heq⟩ := s.partnerUp_cases p
  · rw [haw, ha] at hn
    cases hn
  rw [haw, ha] at hs
  obtain rfl := Option.some.inj hs
  obtain ⟨hpo, hpa⟩ := ((s.cameUp p us).undead p).reportState_fabric p [] [p]
  rw [heq]
  refine ⟨?_, ?_⟩
  · rw [State.meetFloors_fabric, Fabric.floorsMet_partner, Fabric.partner_congr hpa]
    have hcame : ((s.cameUp p us).undead p).fabric.partner p = ((s.atWindows p).fabric.modPartner p (fun x => { x with st := .up, usable := us, heard := s.clk, darkSince := none })).partner p := rfl
    rw [hcame, Fabric.partner_modPartner]
    have hwin : (s.atWindows p).fabric.partner p = { s.fabric.partner p with st := .windows } := Fabric.partner_of_put rfl
    rw [hwin]
  · rw [State.meetFloors_eq]
    exact hpo.dead

/-- A partner whose windows fit nowhere is DOWN. -/
theorem State.partnerUp_down {s : State} {p : Nat} (ha : s.fabric.admitted p = none) : s.partnerUp p = (s.atWindows p).trainFail p := by
  have haw : (s.atWindows p).fabric.admitted p = s.fabric.admitted p := Fabric.admitted_modPartner _ _ rfl
  obtain ⟨-, heq⟩ | ⟨us', hs, -⟩ := s.partnerUp_cases p
  · exact heq
  · rw [haw, ha] at hs
    cases hs

theorem State.newKeys_partner (s : State) (p : Nat) (secret : List Byte) :
    (s.newKeys p secret).fabric.partner p = { s.fabric.partner p with keys := keysFrom secret, oldKeys := (s.fabric.partner p).keys, keyed := s.clk, sealedBy := [] } :=
  Fabric.partner_of_put rfl

theorem links_keysDone (s : State) (hst : (s.fabric.partner s.inp.id).st = .keys) :
    (∀ us, s.inp.flag = true → s.fabric.admitted s.inp.id = some us → ∃ t, exec .keysDone s = .next t ∧ (t.fabric.partner s.inp.id).st = .up ∧
      (t.fabric.partner s.inp.id).usable = us ∧ (t.fabric.partner s.inp.id).keys = keysFrom s.inp.bytes ∧
      (s.inp.id < 4096 → t.dead.getLsbD s.inp.id = false) ∧ (∀ q, q ≠ s.inp.id → t.dead.getLsbD q = s.dead.getLsbD q)) ∧
    (s.inp.flag = false ∨ s.fabric.admitted s.inp.id = none →
      ∃ t, exec .keysDone s = .next t ∧ (t.fabric.partner s.inp.id).st = .down ∧ t.dead = s.dead ∧ Assoc.get 0 s.inp.id t.fabric.causes = 4) := by
  have hadm : (s.newKeys s.inp.id s.inp.bytes).fabric.admitted s.inp.id = s.fabric.admitted s.inp.id := Fabric.admitted_modPartner _ _ rfl
  rw [exec_keysDone, execKeysDone]
  rw [if_neg (not_not_intro hst)]
  refine ⟨fun us hf ha => ?_, fun h => ?_⟩
  · obtain ⟨hx, hd⟩ := State.partnerUp_up (hadm.trans ha)
    rw [if_pos hf]
    refine ⟨_, rfl, ?_⟩
    rw [hx, hd, State.newKeys_partner]
    exact ⟨rfl, rfl, rfl, fun _ => by rw [getLsbD_undead]; simp, fun q hq => by rw [getLsbD_undead]; simp [hq, State.newKeys, State.modFab]⟩
  · by_cases hf : s.inp.flag = true
    · have ha : s.fabric.admitted s.inp.id = none := h.resolve_left (by simp [hf])
      obtain ⟨h1, -, h3, h4⟩ := ((s.newKeys s.inp.id s.inp.bytes).atWindows s.inp.id).trainFail_fields s.inp.id
      rw [if_pos hf, State.partnerUp_down (hadm.trans ha)]
      exact ⟨_, rfl, h1, h4, h3⟩
    · obtain ⟨h1, -, h3, h4⟩ := s.trainFail_fields s.inp.id
      rw [if_neg hf]
      exact ⟨_, rfl, h1, h4, h3⟩

theorem windowBytes_append (l r : List (Route × Nat)) : windowBytes (l ++ r) = windowBytes l + windowBytes r := by
  simp only [windowBytes, ← List.sum_eq_foldl, List.map_append, List.sum_append]

/-- Routes whose windows fit together are all kept. -/
theorem foldl_fitting {n m : Nat} : ∀ (l a : List (Route × Nat)), n + windowBytes (a ++ l) ≤ m →
    l.foldl (fun a u => if n + windowBytes (a ++ [u]) ≤ m then a ++ [u] else a) a = a ++ l
  | [], a, _ => by simp
  | u :: l, a, h => by
    have hu : n + windowBytes (a ++ [u]) ≤ m := by
      rw [show a ++ u :: l = a ++ [u] ++ l by simp, windowBytes_append] at h
      omega
    rw [List.foldl_cons, if_pos hu, foldl_fitting l (a ++ [u]) (by simpa using h)]
    simp

theorem links_admitted (f : Fabric) (p : Nat) (hne : (f.partner p).usable ≠ []) (hp : ∀ u ∈ (f.partner p).usable, u.2 ≤ 20000) (hw : f.windowed p = [])
    (hb : windowBytes (f.partner p).usable ≤ 50331648 + 2147483648) : f.admitted p = some (f.partner p).usable := by
  have hlong : (f.partner p).usable.filter (fun u => longHaul u.2) = [] := List.filter_eq_nil_iff.mpr fun u hu => by simpa [longHaul] using hp u hu
  have hpanel : (f.partner p).usable.filter (fun u => !longHaul u.2) = (f.partner p).usable := List.filter_eq_self.mpr fun u hu => by simpa [longHaul] using hp u hu
  have h0 : windowBytes [] = 0 := rfl
  have hall := foldl_fitting (n := 0) (m := storeBytes + reserveBytes) (f.partner p).usable [] (by rw [List.nil_append, Nat.zero_add]; exact hb)
  unfold Fabric.admitted
  simp only [hw, hlong, hpanel, List.filter_nil, List.foldl_nil, List.append_nil, List.nil_append, h0, Nat.zero_sub, Nat.zero_add, Nat.add_zero, Nat.not_lt_zero, if_false, Nat.sub_zero]
  simp only [Nat.zero_add, List.nil_append] at hall
  rw [hall, if_neg hne]

theorem links_keyUpdate (s : State) :
    ((s.fabric.partner s.inp.id).st = .up → ∃ t, exec .keyUpdate s = .next t ∧
      t.fabric.partner s.inp.id = { s.fabric.partner s.inp.id with keys := keysFrom s.inp.bytes, oldKeys := (s.fabric.partner s.inp.id).keys, keyed := s.clk, sealedBy := [] } ∧
      t.fabric.colours = s.fabric.colours) ∧
    ((s.fabric.partner s.inp.id).st ≠ .up → exec .keyUpdate s = .next s) := by
  rw [exec_keyUpdate, execKeyUpdate]
  refine ⟨fun h => ?_, fun h => ?_⟩
  · rw [if_pos h]
    exact ⟨_, rfl, s.newKeys_partner _ _, rfl⟩
  · rw [if_neg h]

end Sys2Proof.Machine

/-! ### What a group key seals it opens (R331) -/

namespace Sys2Proof.Machine

theorem xorBytes_length (a b : List Byte) : (xorBytes a b).length = min a.length b.length := List.length_zipWith

theorem xorBytes_cancel {l k : List Byte} (h : l.length ≤ k.length) : xorBytes (xorBytes l k) k = l := by
  refine List.ext_getElem (by simp only [xorBytes_length]; omega) fun i h1 h2 => ?_
  simp [xorBytes]

theorem pieces_getD_length {α : Type} {k : Nat} : ∀ {n j : Nat} {l : List α}, j < n → k * (j + 1) ≤ l.length → ((pieces k n l).getD j []).length = k
  | n + 1, 0, l, _, h => by
    rw [Nat.zero_add, Nat.mul_one] at h
    simpa [pieces] using h
  | n + 1, j + 1, l, hj, h => by
    have hd : k * (j + 1) ≤ (l.drop k).length := by
      rw [List.length_drop]
      rw [Nat.mul_succ] at h
      omega
    have := pieces_getD_length (n := n) (by omega) hd
    simpa [pieces] using this

theorem mem_pieces_length {α : Type} {k : Nat} : ∀ {n : Nat} {l x : List α}, k * n ≤ l.length → x ∈ pieces k n l → x.length = k
  | n + 1, l, x, h, hx => by
    rw [Nat.mul_succ] at h
    rcases List.mem_cons.mp hx with rfl | hx
    · rw [List.length_take]
      omega
    · exact mem_pieces_length (n := n) (by rw [List.length_drop]; omega) hx

theorem pieces_length {α : Type} (k : Nat) : ∀ (n : Nat) (l : List α), (pieces k n l).length = n
  | 0, _ => rfl
  | n + 1, l => by rw [pieces, List.length_cons, pieces_length k n]

theorem getD_length_of_forall {l : List (List Byte)} {j : Nat} (h : ∀ w ∈ l, w.length = 4) (hj : j < l.length) : (l.getD j []).length = 4 := by
  rw [List.getD_eq_getElem _ _ hj]
  exact h _ (List.getElem_mem hj)

/-- The schedule of a key whose words have four bytes has words of four bytes. -/
theorem aesExpand_words : ∀ (n i : Nat) (rc : Byte) (l : List (List Byte)), (∀ w ∈ l, w.length = 4) → 8 ≤ l.length →
    (∀ w ∈ aesExpand n i rc l, w.length = 4) ∧ (aesExpand n i rc l).length = n + l.length
  | 0, _, _, l, h, _ => ⟨h, by rw [aesExpand, Nat.zero_add]⟩
  | n + 1, i, rc, l, h, hl => by
    have hp : (l.getD 0 []).length = 4 := getD_length_of_forall h (by omega)
    have h7 : (l.getD 7 []).length = 4 := getD_length_of_forall h (by omega)
    have hword : ∀ t : List Byte, t.length = 4 → ∀ w ∈ xorBytes (l.getD 7 []) t :: l, w.length = 4 := fun t ht w hw => by
      rcases List.mem_cons.mp hw with rfl | hw
      · rw [xorBytes_length, h7, ht, Nat.min_self]
      · exact h w hw
    rw [aesExpand]
    generalize ht : (if i % 8 = 0 then _ else _ : List Byte) = t
    have ht4 : t.length = 4 := by
      subst ht
      split
      · simp only [xorBytes_length, List.length_map, List.length_append, List.length_drop, List.length_take, hp]
        rfl
      · split
        · rw [List.length_map, hp]
        · exact hp
    obtain ⟨h1, h2⟩ := aesExpand_words n (i + 1) _ _ (hword t ht4) (by rw [List.length_cons]; omega)
    exact ⟨h1, by rw [h2, List.length_cons]; omega⟩

theorem aesKeys_last {key : List Byte} (h : key.length = 32) : ((aesKeys key).getD 14 []).length = 16 := by
  obtain ⟨hw, hl⟩ := aesExpand_words 52 8 1 (pieces 4 8 key).reverse (fun w hw => mem_pieces_length (by omega) (List.mem_reverse.mp hw))
    (by rw [List.length_reverse, pieces_length])
  rw [List.length_reverse, pieces_length] at hl
  refine pieces_getD_length (by omega) ?_
  have hsum : ((aesExpand 52 8 1 (pieces 4 8 key).reverse).reverse.map (fun w => (id w).length)) = List.replicate 60 4 := by
    rw [List.eq_replicate_iff]
    refine ⟨by rw [List.length_map, List.length_reverse, hl], fun b hb => ?_⟩
    obtain ⟨w, hw', rfl⟩ := List.mem_map.mp hb
    exact hw w (List.mem_reverse.mp hw')
  rw [List.length_flatMap, hsum, List.sum_replicate]
  decide

theorem aesEnc_block_length {key : List Byte} (h : key.length = 32) (b : List Byte) : (aesEnc key b).length = 16 := by
  simp only [aesEnc, xorBytes_length, aesShift, List.length_map, List.length_range, aesKeys_last h, Nat.min_self]

theorem gcmCtr_gcmCtr {key : List Byte} (h : key.length = 32) (iv l : List Byte) : gcmCtr key iv (gcmCtr key iv l) = l := by
  have hstream : ∀ n, ((List.range n).flatMap (fun k => aesEnc key (iv ++ beBytes 4 (k + 2)))).length = n * 16 := fun n => by
    simp only [List.length_flatMap, aesEnc_block_length h, List.map_const', List.sum_replicate, List.length_range, smul_eq_mul]
  have hlen : (gcmCtr key iv l).length = l.length := by
    rw [gcmCtr, xorBytes_length, hstream]
    omega
  rw [gcmCtr, hlen, gcmCtr]
  exact xorBytes_cancel (by rw [hstream]; omega)

theorem gcmOpen_gcmSeal {key : List Byte} (h : key.length = 32) (iv aad l : List Byte) :
    gcmOpen key iv aad (gcmSeal key iv aad l).1 (gcmSeal key iv aad l).2 = some l := by
  simp only [gcmSeal, gcmOpen, if_true, gcmCtr_gcmCtr h]

end Sys2Proof.Machine

/-! ### Lanes: tuning, recalibration and floors (R327, R333) -/

namespace Sys2Proof.Machine
open Sys2Proof.Claims

/-- A colour as it was written. -/
theorem Fabric.colour_of_put {f : Fabric} {l p : Nat} {c : Colour} {m : Assoc (Nat × Nat) Colour} (h : f.colours = Assoc.put (l, p) c m) : f.colour l p = c := by
  rw [Fabric.colour, h, Assoc.get_put_self]

/-- A route that the destination's port refused is not taken up again. -/
theorem Fabric.hopeful_lane {f : Fabric} {p lane : Nat} (h : ∀ u ∈ (f.partner p).usable, u.1.lane = lane → (p, u.1) ∈ f.refused) {r : Route} (hr : r ∈ f.hopeful p) : r.lane ≠ lane := by
  simp only [Fabric.hopeful, Fabric.freeRoutes, List.mem_filter, List.mem_map] at hr
  obtain ⟨⟨⟨u, hu, rfl⟩, -⟩, hnot⟩ := hr
  intro hl
  simp [h u hu hl] at hnot

theorem mem_oneEach {l : List Route} {r : Route} (h : r ∈ oneEach l) : r ∈ l := by
  suffices hs : ∀ (l a : List Route), r ∈ l.foldl (fun a r => if a.any (fun x => x.lane = r.lane || x.rx = r.rx) then a else a ++ [r]) a → r ∈ a ∨ r ∈ l by
    exact (hs l [] h).resolve_left List.not_mem_nil
  intro l
  induction l with
  | nil => exact fun a h => .inl h
  | cons x l ih =>
    intro a h
    rcases ih _ h with h | h
    · beta_reduce at h
      split at h
      · exact .inl h
      · rcases List.mem_append.mp h with h | h
        · exact .inl h
        · exact .inr (by simp [List.mem_singleton.mp h])
    · exact .inr (List.mem_cons_of_mem _ h)

/-- Meeting a floor lights hopeful routes only: a lane without one keeps its colour. -/
theorem Fabric.meetFloor_colour {f : Fabric} {p lane : Nat} (d : Nat) (clk : DWord) (h : ∀ u ∈ (f.partner p).usable, u.1.lane = lane → (p, u.1) ∈ f.refused) :
    (f.meetFloor d clk).colour lane p = f.colour lane p := by
  have hfold : ∀ (l : List Route) (g : Fabric), (∀ r ∈ l, r ∈ f.hopeful d) → (l.foldl (fun g r => g.light r d none true clk) g).colour lane p = g.colour lane p := by
    intro l
    induction l with
    | nil => exact fun g _ => rfl
    | cons r l ih =>
      intro g hl
      rw [List.foldl_cons, ih _ fun x hx => hl x (List.mem_cons_of_mem _ hx)]
      refine (Fabric.colour_modColour_ne _ ?_ _).trans rfl
      rintro ⟨hlane, rfl⟩
      exact Fabric.hopeful_lane h (hl r List.mem_cons_self) hlane.symm
  unfold Fabric.meetFloor
  split
  · rfl
  · refine hfold _ f fun r hr => ?_
    split at hr
    · exact List.mem_of_mem_take hr
    · obtain ⟨g, -, hr⟩ := List.mem_flatMap.mp hr
      exact (List.mem_filter.mp (mem_oneEach (List.mem_of_mem_take hr))).1

theorem Fabric.floorsMet_colour {f : Fabric} {p lane : Nat} (clk : DWord) (h : ∀ u ∈ (f.partner p).usable, u.1.lane = lane → (p, u.1) ∈ f.refused) :
    (f.floorsMet clk).colour lane p = f.colour lane p := by
  suffices hs : ∀ (l : List (Nat × Partner)) (g : Fabric), f.ColoursOnly g → (l.foldl (fun g e => g.meetFloor e.1 clk) g).colour lane p = g.colour lane p from
    hs f.partners f rfl
  intro l
  induction l with
  | nil => exact fun g _ => rfl
  | cons e l ih =>
    intro g hg
    rw [List.foldl_cons, ih _ (hg.trans (g.meetFloor_coloursOnly e.1 clk)), Fabric.meetFloor_colour]
    rw [hg]
    exact h

theorem links_retuned (s : State) (h0 : s.inp.slot = 0) :
    let p := s.inp.id
    let lane := s.inp.n
    let c := s.fabric.colour lane p
    (c.on = true → c.tuning = true →
      (s.inp.flag = false → ∃ t, exec .laneRetuned s = .next t ∧ t.fabric.colour lane p = { c with tuning := false, sentAt := s.clk } ∧ t.items = s.items) ∧
      (s.inp.flag = true → (∀ u ∈ (s.fabric.partner p).usable, u.1.lane = lane → u.1 = c.route) →
        ∃ t, exec .laneRetuned s = .next t ∧ t.fabric.colour lane p = { c with tuning := false, on := false } ∧ t.items = s.items)) ∧
    (c.on = false ∨ c.tuning = false → exec .laneRetuned s = .next s) := by
  intro p lane c
  rw [exec_laneRetuned, execLaneRetuned]
  dsimp only
  rw [h0, if_neg (by decide), if_neg (by decide)]
  refine ⟨fun hon htun => ?_, fun h => ?_⟩
  · have hc : ¬ (!((s.fabric.colour s.inp.n s.inp.id).on && (s.fabric.colour s.inp.n s.inp.id).tuning)) = true := by
      rw [show (s.fabric.colour s.inp.n s.inp.id).on = true from hon, show (s.fabric.colour s.inp.n s.inp.id).tuning = true from htun]
      decide
    rw [if_neg hc]
    refine ⟨fun hf => ?_, fun hf hu => ?_⟩
    · rw [if_neg (by simp [hf])]
      exact ⟨_, rfl, Fabric.colour_of_put rfl, rfl⟩
    · rw [if_pos hf]
      refine ⟨_, rfl, ?_, State.meetFloors_items _⟩
      rw [State.meetFloors_fabric, Fabric.floorsMet_colour]
      · exact Fabric.colour_of_put rfl
      · intro u hu' hl
        rw [hu u hu' hl]
        exact List.mem_append_right _ (List.mem_singleton.mpr rfl)
  · rw [if_pos]
    rcases h with h | h
    · rw [show (s.fabric.colour s.inp.n s.inp.id).on = false from h]
      rfl
    · rw [show (s.fabric.colour s.inp.n s.inp.id).tuning = false from h, Bool.and_false]
      rfl

theorem Fabric.rxDark_iff (f : Fabric) (rx : Nat) : f.rxDark rx = true ↔ (∀ x ∈ f.rxFloor, x.2.2 ≠ rx) ∧ ∀ g ∈ f.inbound, ∀ x ∈ g.lanes, x.rx ≠ rx := by
  simp only [Fabric.rxDark, Bool.and_eq_true, Bool.not_eq_true', List.any_eq_false, List.any_eq_true, decide_eq_true_eq, not_exists, not_and]

theorem links_pairs (s : State) (h1 : s.inp.slot = 1) :
    let free := s.inp.ofs < 1024 ∧ s.fabric.isPartner s.inp.id = true ∧ (∀ x ∈ s.fabric.rxFloor, x.2.2 ≠ s.inp.ofs) ∧ ∀ g ∈ s.fabric.inbound, ∀ x ∈ g.lanes, x.rx ≠ s.inp.ofs
    (free → exec .laneRetuned s = .next { s with fabric := { s.fabric with rxFloor := s.fabric.rxFloor ++ [(s.inp.id, s.inp.n, s.inp.ofs)] } }) ∧
      (¬ free → exec .laneRetuned s = .next s) := by
  intro free
  have hfree : (decide (s.inp.ofs < 1024) && s.fabric.isPartner s.inp.id && s.fabric.rxDark s.inp.ofs) = true ↔ free := by
    simp only [Bool.and_eq_true, decide_eq_true_eq, Fabric.rxDark_iff, and_assoc, free]
  rw [exec_laneRetuned, execLaneRetuned]
  dsimp only
  rw [if_pos h1]
  refine ⟨fun h => ?_, fun h => ?_⟩
  · rw [if_pos (hfree.mpr h)]
    rfl
  · rw [if_neg fun hb => h (hfree.mp hb)]

theorem Fabric.hears_eq (f : Fabric) (p : Nat) :
    f.hears p = (f.rxFloor.filter (fun x => x.1 = p)).length + ((f.inbound.filter (fun g => g.opkg = p)).map (fun g => g.lanes.length)).sum := by
  rw [Fabric.hears, List.sum_eq_foldl]

theorem State.serveWaiting_none {s : State} (h : s.fabric.waiting = []) : s.serveWaiting = s := by
  rw [State.serveWaiting, h]
  rfl

theorem links_unpairs (s : State) (h2 : s.inp.slot = 2) :
    let heard := (s.fabric.rxFloor.filter (fun x => x.1 = s.inp.id)).length + ((s.fabric.inbound.filter (fun g => g.opkg = s.inp.id)).map (fun g => g.lanes.length)).sum
    (1 < heard → (s.inp.id, s.inp.n, s.inp.ofs) ∈ s.fabric.rxFloor → s.fabric.waiting = [] →
      exec .laneRetuned s = .next { s with fabric := { s.fabric with rxFloor := s.fabric.rxFloor.erase (s.inp.id, s.inp.n, s.inp.ofs) } }) ∧
    (heard ≤ 1 ∨ (s.inp.id, s.inp.n, s.inp.ofs) ∉ s.fabric.rxFloor → exec .laneRetuned s = .next s) := by
  intro heard
  rw [exec_laneRetuned, execLaneRetuned]
  dsimp only
  rw [h2, if_neg (by decide), if_pos rfl, Fabric.hears_eq]
  refine ⟨fun hh hm hw => ?_, fun h => ?_⟩
  · rw [if_pos (by rw [Bool.and_eq_true, decide_eq_true_eq, List.contains_iff_mem]; exact ⟨hh, hm⟩), State.serveWaiting_none]
    · rfl
    · exact hw
  · rw [if_neg]
    rw [Bool.and_eq_true, decide_eq_true_eq, List.contains_iff_mem]
    rintro ⟨hh, hm⟩
    rcases h with h | h
    · exact absurd hh (by omega)
    · exact h hm

/-- A partner with a lit colour is not dark. -/
theorem State.seeDark_lit {s : State} {p : Nat} (h : ∃ e ∈ s.fabric.colours, e.1.2 = p ∧ e.2.lit = true) : ((s.seeDark p).fabric.partner p).darkSince = none := by
  obtain ⟨e, he, hp, hl⟩ := h
  have hany : s.fabric.colours.any (fun e => e.1.2 = p && e.2.lit) = true := List.any_eq_true.mpr ⟨e, he, by simp [hp, hl]⟩
  have hpart : (s.seeDark p).fabric.partner p = { s.fabric.partner p with
      darkSince := if s.fabric.colours.any (fun e => e.1.2 = p && e.2.lit) then none else some ((s.fabric.partner p).darkSince.getD s.clk) } := Fabric.partner_of_put rfl
  rw [hpart, hany]
  rfl

theorem Assoc.mem_put {κ α : Type} [DecidableEq κ] (k : κ) (v : α) (m : Assoc κ α) : (k, v) ∈ Assoc.put k v m := by
  induction m with
  | nil => simp [Assoc.put]
  | cons e m ih =>
    obtain ⟨k', v'⟩ := e
    simp only [Assoc.put]
    split
    · exact List.mem_cons_self
    · exact List.mem_cons_of_mem _ ih

theorem links_recalibrated (s : State) :
    let p := s.inp.id
    let lane := s.inp.n
    let c := s.fabric.colour lane p
    (c.on = true → c.dark = true → c.tuning = false → ∃ t, exec .colourRecalibrated s = .next t ∧
      t.fabric.colour lane p = { c with dark := false, resends := 0, moved := s.clk, sentAt := s.clk } ∧ (t.fabric.partner p).darkSince = none) ∧
    (c.on = false ∨ c.dark = false → exec .colourRecalibrated s = .next s) := by
  intro p lane c
  rw [exec_colourRecalibrated, execColourRecalibrated]
  refine ⟨fun hon hd ht => ?_, fun h => ?_⟩
  · rw [if_pos (by rw [Bool.and_eq_true]; exact ⟨hon, hd⟩)]
    refine ⟨_, rfl, Fabric.colour_of_put rfl, State.seeDark_lit ⟨_, Assoc.mem_put .., rfl, ?_⟩⟩
    have hlit : c.on = true ∧ c.tuning = false := ⟨hon, ht⟩
    simp only [Colour.lit, Bool.and_eq_true, Bool.not_eq_true', and_true]
    exact hlit
  · rw [if_neg]
    rw [Bool.and_eq_true]
    rintro ⟨hon, hd⟩
    rcases h with h | h
    · exact Bool.false_ne_true (h.symm.trans hon)
    · exact Bool.false_ne_true (h.symm.trans hd)

end Sys2Proof.Machine

/-! ### Sending and resending (R332, R333) -/

namespace Sys2Proof.Machine
open Sys2Proof.Claims

/-! #### The items of a flit -/

/-- A batch: the items it began with, then some of those that wait in their order, within the flit's bounds, each with its way over the partner. -/
theorem State.batch_spec (s : State) (p n : Nat) : ∀ (items l : List Item), l.length ≤ n → (l.flatMap Item.bytes).length ≤ 224 → (∀ it ∈ l, s.way it.dpkg = some p) →
    ∃ l', s.batch p n l items = l ++ l' ∧ List.Sublist l' items ∧ (l ++ l').length ≤ n ∧ ((l ++ l').flatMap Item.bytes).length ≤ 224 ∧ ∀ it ∈ l ++ l', s.way it.dpkg = some p
  | [], l, hn, hb, hw => ⟨[], by rw [State.batch, List.append_nil], .slnil, by simpa using hn, by simpa using hb, by simpa using hw⟩
  | it :: items, l, hn, hb, hw => by
    rw [State.batch]
    split
    next h =>
      simp only [Bool.and_eq_true, decide_eq_true_eq] at h
      obtain ⟨⟨⟨hway, hlt⟩, hbytes⟩, -⟩ := h
      obtain ⟨l', he, hs, h1, h2, h3⟩ := State.batch_spec s p n items (l ++ [it]) (by rw [List.length_append]; exact hlt) hbytes fun x hx => by
        rcases List.mem_append.mp hx with hx | hx
        · exact hw x hx
        · rw [List.mem_singleton.mp hx]
          exact hway
      have hassoc : l ++ [it] ++ l' = l ++ it :: l' := by simp
      rw [hassoc] at he h1 h2 h3
      exact ⟨it :: l', he, hs.cons_cons it, h1, h2, h3⟩
    next =>
      obtain ⟨l', he, hs, h1, h2, h3⟩ := State.batch_spec s p n items l hn hb hw
      exact ⟨l', he, hs.cons it, h1, h2, h3⟩

theorem takeItems_length : ∀ {l w : List Item}, l.Subperm w → (takeItems l w).length + l.length = w.length
  | [], _, _ => rfl
  | it :: l, w, h => by
    have hm : it ∈ w := h.subset List.mem_cons_self
    have hs : l.Subperm (w.erase it) := by simpa using h.erase it
    have hpos : 0 < w.length := List.length_pos_of_mem hm
    have ih := takeItems_length hs
    rw [List.length_erase_of_mem hm] at ih
    have hstep : takeItems (it :: l) w = takeItems l (w.erase it) := rfl
    rw [hstep, List.length_cons]
    omega

/-! #### A flit goes out -/

theorem State.sealFlit_take (s : State) (p lane : Nat) (kind : FlitKind) (seq aseq acol : Nat) (items : List Item) :
    (s.sealFlit p lane kind seq aseq acol items).bytes.take 8 = leBytes 8 (seq * 2 ^ 16 + kind.code * 2 ^ 8 + items.length) := by
  have h8 : (leBytes 8 (seq * 2 ^ 16 + kind.code * 2 ^ 8 + items.length)).length = 8 := by simp [leBytes]
  simp only [State.sealFlit, flitHeader, List.append_assoc]
  exact List.take_left' h8

@[simp] theorem State.emit_sent (s : State) (x : SentFlit) : (s.emit x).fabric.sent = s.fabric.sent ++ [x] := rfl

theorem State.emit_colour {s : State} {x : SentFlit} {lane p : Nat} (hl : x.lane = lane) (hp : x.dest = p) :
    (s.emit x).fabric.colour lane p = { s.fabric.colour lane p with sentAt := s.clk } := by
  subst hl hp
  exact Fabric.colour_of_put rfl

theorem links_batch {s : State} {p : Nat} {l : List Item} (hl : l = s.batch p (min 28 (max 1 s.inp.ofs)) [] s.items) :
    l.length ≤ 28 ∧ (l.flatMap Item.bytes).length ≤ 224 ∧ List.Sublist l s.items ∧ ∀ it ∈ l, s.way it.dpkg = some p := by
  obtain ⟨l', he, hs, h1, h2, h3⟩ := s.batch_spec p (min 28 (max 1 s.inp.ofs)) s.items [] (Nat.zero_le _) (Nat.zero_le _) (by simp)
  rw [List.nil_append] at he h1 h2 h3
  obtain rfl : l = l' := hl.trans he
  exact ⟨h1.trans (Nat.min_le_left _ _), h2, hs, h3⟩

theorem links_flitSend (s : State) (l : List Item) (hl : l = s.batch s.inp.id (min 28 (max 1 s.inp.ofs)) [] s.items) :
    let p := s.inp.id
    let lane := s.inp.n
    let c := s.fabric.colour lane p
    let a := s.fabric.ackFor p
    (l.length ≤ 28 ∧ (l.flatMap Item.bytes).length ≤ 224 ∧ List.Sublist l s.items ∧ ∀ it ∈ l, s.way it.dpkg = some p) ∧
    (c.lit = true → c.closing = false → l ≠ [] → c.flits.length < c.window → s.keyFresh p lane = true → ∃ t x, exec .flitSend s = .next t ∧
      x = s.sealFlit p lane .data c.next a.2 a.1 l ∧ sends s t [x] ∧ x.bytes.take 8 = leBytes 8 (c.next * 2 ^ 16 + 256 + l.length) ∧
      (t.fabric.colour lane p).next = (c.next + 1) % 2 ^ 48 ∧ (t.fabric.colour lane p).flits = c.flits ++ [x] ∧ t.items.length + l.length = s.items.length) ∧
    (c.lit = false ∨ c.closing = true ∨ l = [] ∨ c.window ≤ c.flits.length ∨ s.keyFresh p lane = false → exec .flitSend s = .next s) := by
  intro p lane c a
  have hb := links_batch hl
  refine ⟨hb, fun hlit hclo hne hwin hkey => ?_, fun h => ?_⟩
  · obtain ⟨-, -, hsub, -⟩ := hb
    have hbytes : (s.sealFlit p lane .data c.next a.2 a.1 l).bytes.take 8 = leBytes 8 (c.next * 2 ^ 16 + 256 + l.length) := s.sealFlit_take ..
    have hxl : (s.sealFlit p lane .data c.next a.2 a.1 l).lane = lane := rfl
    have hxp : (s.sealFlit p lane .data c.next a.2 a.1 l).dest = p := rfl
    rw [exec_flitSend, execFlitSend]
    dsimp only
    rw [← hl, if_neg (by simp [show (s.fabric.colour s.inp.n s.inp.id).lit = true from hlit, show (s.fabric.colour s.inp.n s.inp.id).closing = false from hclo, hne,
      show s.keyFresh s.inp.id s.inp.n = true from hkey, show (s.fabric.colour s.inp.n s.inp.id).flits.length < (s.fabric.colour s.inp.n s.inp.id).window from hwin])]
    change ∃ t x, (.next ((State.emit _ (s.sealFlit p lane .data c.next a.2 a.1 l)).modFab _) : Out) = .next t ∧ _
    generalize s.sealFlit p lane .data c.next a.2 a.1 l = x at hbytes hxl hxp
    have hcol := State.emit_colour (s := { s with items := takeItems l s.items }) hxl hxp
    refine ⟨_, x, rfl, rfl, rfl, hbytes, ?_, ?_, takeItems_length hsub.subperm⟩
    · rw [State.fabric_modFab, Fabric.colour_modColour, hcol]
    · rw [State.fabric_modFab, Fabric.colour_modColour, hcol]
  · rw [exec_flitSend, execFlitSend]
    dsimp only
    rw [← hl, if_pos]
    simp only [Bool.or_eq_true, Bool.not_eq_true', decide_eq_true_eq]
    rcases h with h | h | h | h | h
    · exact .inl (.inl (.inl (.inl h)))
    · exact .inl (.inl (.inl (.inr h)))
    · exact .inr h
    · exact .inl (.inl (.inr h))
    · exact .inl (.inr h)

/-! #### Resends -/

@[simp] theorem State.resend_sent (s : State) (lane p : Nat) : (s.resend lane p).fabric.sent = s.fabric.sent ++ (s.fabric.colour lane p).flits := rfl

theorem State.resend_colour (s : State) (lane p : Nat) : (s.resend lane p).fabric.colour lane p =
    { s.fabric.colour lane p with sentAt := s.clk, moved := s.clk, resends := (s.fabric.colour lane p).resends + 1 } := Fabric.colour_of_put rfl

theorem State.darken_sent (s : State) (lane p : Nat) : (s.darken lane p).fabric.sent = s.fabric.sent := rfl

theorem State.darken_colour (s : State) (lane p : Nat) : (s.darken lane p).fabric.colour lane p = { s.fabric.colour lane p with dark := true } := Fabric.colour_of_put rfl

theorem State.darken_items (s : State) (lane p : Nat) : (s.darken lane p).items = (s.fabric.colour lane p).flits.flatMap (·.items) ++ s.items := rfl

theorem State.resendOrDark_sends (s : State) (lane p : Nat) : Claims.sends s (s.resendOrDark lane p) (s.fabric.colour lane p).flits := by
  unfold State.resendOrDark Claims.sends
  dsimp only
  split
  · rw [State.darken_sent, State.resend_sent]
  · rw [State.resend_sent]

theorem State.resendOrDark_few {s : State} {lane p : Nat} (h : (s.fabric.colour lane p).resends < 15) : s.resendOrDark lane p = s.resend lane p := by
  rw [State.resendOrDark]
  rw [State.resend_colour, if_neg]
  dsimp only
  omega

theorem State.resendOrDark_many {s : State} {lane p : Nat} (h : 15 ≤ (s.fabric.colour lane p).resends) : s.resendOrDark lane p = (s.resend lane p).darken lane p := by
  rw [State.resendOrDark]
  rw [State.resend_colour, if_pos]
  dsimp only
  omega

theorem links_retransmit (s : State) :
    let p := s.inp.id
    let lane := s.inp.n
    let c := s.fabric.colour lane p
    (c.lit = true → c.flits ≠ [] → nsCycles (2 * c.rtt) + usCycles 2 ≤ s.since c.moved → ∃ t, exec .retransmitTimeout s = .next t ∧ sends s t c.flits ∧
      (c.resends < 15 → t.fabric.colour lane p = { c with sentAt := s.clk, moved := s.clk, resends := c.resends + 1 } ∧ t.items = s.items) ∧
      (15 ≤ c.resends → t.fabric.colour lane p = { c with sentAt := s.clk, moved := s.clk, resends := c.resends + 1, dark := true } ∧ t.items = c.flits.flatMap (·.items) ++ s.items)) ∧
    (c.lit = false ∨ c.flits = [] ∨ s.since c.moved < nsCycles (2 * c.rtt) + usCycles 2 → exec .retransmitTimeout s = .next s) := by
  intro p lane c
  rw [exec_retransmitTimeout, execRetransmitTimeout]
  refine ⟨fun hlit hne ht => ?_, fun h => ?_⟩
  · rw [if_pos (by simp only [Bool.and_eq_true, decide_eq_true_eq]; exact ⟨⟨hlit, hne⟩, ht⟩)]
    refine ⟨_, rfl, s.resendOrDark_sends lane p, fun hr => ?_, fun hr => ?_⟩
    · rw [State.resendOrDark_few hr]
      exact ⟨s.resend_colour lane p, rfl⟩
    · rw [State.resendOrDark_many hr, State.darken_colour, State.darken_items, State.resend_colour]
      exact ⟨rfl, rfl⟩
  · rw [if_neg]
    simp only [Bool.and_eq_true, decide_eq_true_eq]
    rintro ⟨⟨hlit, hne⟩, ht⟩
    rcases h with h | h | h
    · exact Bool.false_ne_true (h.symm.trans hlit)
    · exact hne h
    · exact absurd ht (Nat.not_le_of_gt h)

/-! #### Flits without items -/

/-- With one colour towards the partner, a flit without items goes out on it. -/
theorem State.sendCtl_oneLit {s : State} {d p : Nat} (h : OneLit s d p) (kind : FlitKind) {lane : Option Nat} (hl : lane = none ∨ lane = some d) (acol aseq : Nat) :
    s.sendCtl p kind lane acol aseq = s.emit (s.sealFlit p d kind (s.fabric.colour d p).next aseq acol []) := by
  obtain ⟨hcols, hlit, hkey⟩ := h
  have hcond : (decide ((d, p).2 = p) && (s.fabric.colour d p).lit && s.keyFresh p (d, p).1 && (decide (lane = none) || decide (lane = some (d, p).1))) = true := by
    rw [hlit, hkey]
    rcases hl with rfl | rfl <;> simp
  unfold State.sendCtl
  rw [hcols, List.find?_cons, hcond]

theorem State.emit_sends (s : State) (x : SentFlit) : Claims.sends s (s.emit x) [x] := rfl

theorem State.sealFlit_lane (s : State) (p lane : Nat) (kind : FlitKind) (seq aseq acol : Nat) (items : List Item) : (s.sealFlit p lane kind seq aseq acol items).lane = lane := rfl
theorem State.sealFlit_dest (s : State) (p lane : Nat) (kind : FlitKind) (seq aseq acol : Nat) (items : List Item) : (s.sealFlit p lane kind seq aseq acol items).dest = p := rfl

theorem links_idle (s : State) :
    let p := s.inp.id
    let lane := s.inp.n
    let c := s.fabric.colour lane p
    let a := s.fabric.ackFor p
    (OneLit s lane p → usCycles 2 ≤ s.since c.sentAt → ∃ t, exec .idleTimer s = .next t ∧ sends s t [s.sealFlit p lane .idle c.next a.2 a.1 []] ∧
      t.fabric.colour lane p = { c with sentAt := s.clk }) ∧
    (c.lit = false ∨ s.since c.sentAt < usCycles 2 → exec .idleTimer s = .next s) := by
  intro p lane c a
  rw [exec_idleTimer, execIdleTimer]
  refine ⟨fun h ht => ?_, fun h => ?_⟩
  · rw [if_pos (by simp only [Bool.and_eq_true, decide_eq_true_eq]; exact ⟨h.2.1, ht⟩)]
    refine ⟨_, rfl, ?_⟩
    rw [State.sendCtl_oneLit (d := s.inp.n) h .idle (.inr rfl)]
    exact ⟨State.emit_sends .., State.emit_colour (State.sealFlit_lane ..) (State.sealFlit_dest ..)⟩
  · rw [if_neg]
    simp only [Bool.and_eq_true, decide_eq_true_eq]
    rintro ⟨hlit, ht⟩
    rcases h with h | h
    · exact Bool.false_ne_true (h.symm.trans hlit)
    · exact absurd ht (Nat.not_le_of_gt h)

/-- The receiving end of a colour as it was written. -/
theorem rx_of_put {f : Fabric} {p lane : Nat} {r : RxColour} {m : Assoc (Nat × Nat) RxColour} (h : f.rx = Assoc.put (p, lane) r m) : (Assoc.get {} (p, lane) f.rx : RxColour) = r := by
  rw [h, Assoc.get_put_self]

/-- An ACK on the one colour towards the partner acknowledges all that came on its lane. -/
theorem State.sendAck_oneLit {s : State} {d p : Nat} (h : OneLit s d p) (lane : Nat) :
    Claims.sends s (s.sendAck p lane) [s.sealFlit p d .ack (s.fabric.colour d p).next (Assoc.get {} (p, lane) s.fabric.rx : RxColour).exp lane []] := by
  rw [State.sendAck]
  rw [State.sendCtl_oneLit h .ack (.inl rfl)]
  exact State.emit_sends ..

theorem State.sendAck_rx (s : State) (p lane : Nat) :
    (Assoc.get {} (p, lane) (s.sendAck p lane).fabric.rx : RxColour) = { (Assoc.get {} (p, lane) s.fabric.rx : RxColour) with unacked := 0 } := rx_of_put rfl

theorem links_ackTimer (s : State) (d : Nat) (h : OneLit s d s.inp.id) :
    let p := s.inp.id
    let lane := s.inp.n
    let r : RxColour := Assoc.get {} (p, lane) s.fabric.rx
    (r.unacked ≠ 0 → usCycles 1 ≤ s.since r.since → ∃ t, exec .ackTimer s = .next t ∧ sends s t [s.sealFlit p d .ack (s.fabric.colour d p).next r.exp lane []] ∧
      (Assoc.get {} (p, lane) t.fabric.rx : RxColour).unacked = 0) ∧
    (r.unacked = 0 ∨ s.since r.since < usCycles 1 → exec .ackTimer s = .next s) := by
  intro p lane r
  rw [exec_ackTimer, execAckTimer]
  refine ⟨fun hu ht => ?_, fun h => ?_⟩
  · rw [if_pos (by simp only [Bool.and_eq_true, decide_eq_true_eq]; exact ⟨hu, ht⟩)]
    exact ⟨_, rfl, State.sendAck_oneLit h lane, by rw [State.sendAck_rx]⟩
  · rw [if_neg]
    simp only [Bool.and_eq_true, decide_eq_true_eq]
    rintro ⟨hu, ht⟩
    rcases h with h | h
    · exact hu h
    · exact absurd ht (Nat.not_le_of_gt h)

end Sys2Proof.Machine

/-! ### Acknowledgements (R332) -/

namespace Sys2Proof.Machine
open Sys2Proof.Claims

/-- A step of the port after which every partner was last heard when it was before. -/
def State.SameHeard (s t : State) : Prop := s.PortOnly t ∧ ∀ q, (t.fabric.partner q).heard = (s.fabric.partner q).heard

theorem State.SameHeard.refl (s : State) : s.SameHeard s := ⟨rfl, fun _ => rfl⟩

theorem State.SameHeard.trans {s t u : State} (h : s.SameHeard t) (h' : t.SameHeard u) : s.SameHeard u := ⟨h.1.trans h'.1, fun q => (h'.2 q).trans (h.2 q)⟩

theorem State.SameHeard.of_partners {s t : State} (h : s.PortOnly t) (hp : t.fabric.partners = s.fabric.partners) : s.SameHeard t :=
  ⟨h, fun q => by rw [Fabric.partner_congr hp]⟩

theorem Fabric.heard_modPartner (f : Fabric) (p : Nat) {g : Partner → Partner} (hg : ∀ x, (g x).heard = x.heard) (q : Nat) :
    ((f.modPartner p g).partner q).heard = (f.partner q).heard := by
  by_cases hq : q = p
  · rw [hq, Fabric.partner_modPartner, hg]
  · rw [Fabric.partner_modPartner_ne _ hq]

theorem State.seeDark_sameHeard (s : State) (p : Nat) : s.SameHeard (s.seeDark p) := by
  refine ⟨rfl, fun q => ?_⟩
  unfold State.seeDark
  rw [State.fabric_modFab, Fabric.heard_modPartner]
  exact fun _ => rfl

theorem State.queueItem_partners (s : State) (d o c : Nat) (b : ItemBody) : (s.queueItem d o c b).fabric.partners = s.fabric.partners := by
  unfold State.queueItem
  dsimp only
  split <;> rfl

theorem State.queueItem_sent (s : State) (d o c : Nat) (b : ItemBody) : (s.queueItem d o c b).fabric.sent = s.fabric.sent := by
  unfold State.queueItem
  dsimp only
  split <;> rfl

theorem State.meetFloors_sameHeard (s : State) : s.SameHeard s.meetFloors :=
  ⟨(State.PortOnly.refl s).meetFloors, fun q => by rw [State.meetFloors_fabric, Fabric.floorsMet_partner]⟩

theorem State.foldl_offerLanes (l : List (Nat × Lease)) (s : State) : s.SameHeard (l.foldl (fun u e => u.offerLanes e.1 e.2 false) s) ∧
    (l.foldl (fun u e => u.offerLanes e.1 e.2 false) s).fabric.sent = s.fabric.sent := by
  induction l generalizing s with
  | nil => exact ⟨State.SameHeard.refl s, rfl⟩
  | cons e l ih =>
    obtain ⟨h1, h2⟩ := ih (s.offerLanes e.1 e.2 false)
    have hq : s.SameHeard (s.offerLanes e.1 e.2 false) := State.SameHeard.of_partners ((State.PortOnly.refl s).queueItem ..) (State.queueItem_partners ..)
    exact ⟨hq.trans h1, h2.trans (State.queueItem_sent ..)⟩

theorem State.lanesFreed_kept (s : State) (lanes : List Nat) : s.SameHeard (s.lanesFreed lanes) ∧ (s.lanesFreed lanes).fabric.sent = s.fabric.sent := by
  unfold State.lanesFreed
  dsimp only
  generalize r342Order _ _ _ = l
  obtain ⟨h1, h2⟩ := State.foldl_offerLanes l (s.modFab (fun f => { f with refused := [] })).meetFloors
  have hr : s.SameHeard (s.modFab (fun f => { f with refused := [] })) := State.SameHeard.of_partners rfl rfl
  exact ⟨(hr.trans (State.meetFloors_sameHeard _)).trans h1, h2.trans (by rw [State.meetFloors_fabric, Fabric.floorsMet_sent, State.fabric_modFab])⟩

theorem State.closeLane_kept (s : State) (lane p : Nat) : s.SameHeard (s.closeLane lane p) ∧ (s.closeLane lane p).fabric.sent = s.fabric.sent := by
  unfold State.closeLane
  dsimp only
  split
  · have hc : s.SameHeard (s.modFab (fun f => f.modColour lane p (fun c => { c with on := false, closing := false, grant := none }))) := State.SameHeard.of_partners rfl rfl
    obtain ⟨h1, h2⟩ := ((s.modFab (fun f => f.modColour lane p (fun c => { c with on := false, closing := false, grant := none }))).seeDark p).lanesFreed_kept [lane]
    exact ⟨(hc.trans (State.seeDark_sameHeard _ _)).trans h1, h2.trans rfl⟩
  · exact ⟨State.SameHeard.refl s, rfl⟩

theorem State.acked_kept (s : State) (p lane n : Nat) : s.SameHeard (s.acked p lane n) ∧ (s.acked p lane n).fabric.sent = s.fabric.sent := by
  unfold State.acked
  dsimp only
  split
  · exact ⟨State.SameHeard.refl s, rfl⟩
  · generalize hu : s.modFab _ = u
    have hs : s.SameHeard u ∧ u.fabric.sent = s.fabric.sent := by
      subst hu
      exact ⟨State.SameHeard.of_partners rfl rfl, rfl⟩
    obtain ⟨h1, h2⟩ := u.closeLane_kept lane p
    exact ⟨hs.1.trans h1, h2.trans hs.2⟩

/-- How many flits of a colour the number n acknowledges. -/
def Fabric.ackCount (f : Fabric) (p lane n : Nat) : Nat := (n + 2 ^ 48 - (f.colour lane p).una) % 2 ^ 48

/-- An acknowledgement outside the window, or of a lane without a colour, changes nothing. -/
theorem State.acked_outside {s : State} {p lane n : Nat}
    (h : (s.fabric.colour lane p).on = false ∨ s.fabric.ackCount p lane n = 0 ∨ (s.fabric.colour lane p).flits.length < s.fabric.ackCount p lane n) : s.acked p lane n = s := by
  rw [State.acked]
  refine if_pos ?_
  rw [← Fabric.ackCount, Bool.or_eq_true, Bool.or_eq_true, Bool.not_eq_true', decide_eq_true_eq, decide_eq_true_eq]
  exact or_assoc.mpr h

/-- A colour after k of its flits were acknowledged. -/
def Colour.advanced (c : Colour) (n k : Nat) (clk : DWord) : Colour := { c with una := n, flits := c.flits.drop k, resends := 0, moved := clk }

/-- An acknowledgement within the window of a colour that is not closing. -/
theorem State.acked_within {s : State} {p lane n : Nat} (hon : (s.fabric.colour lane p).on = true) (h0 : 0 < s.fabric.ackCount p lane n)
    (hk : s.fabric.ackCount p lane n ≤ (s.fabric.colour lane p).flits.length) (hclo : (s.fabric.colour lane p).closing = false) :
    s.acked p lane n = s.modFab (fun f => f.modColour lane p (fun c => c.advanced n (s.fabric.ackCount p lane n) s.clk)) := by
  have hcond : ¬ (!(s.fabric.colour lane p).on || decide (s.fabric.ackCount p lane n = 0) || decide ((s.fabric.colour lane p).flits.length < s.fabric.ackCount p lane n)) = true := by
    simp [hon, h0.ne', hk]
  have hopen : ∀ u : State, (u.fabric.colour lane p).closing = false → u.closeLane lane p = u := fun u hu => by
    rw [State.closeLane]
    exact if_neg (by simp [hu])
  rw [State.acked]
  refine (if_neg hcond).trans (hopen _ ?_)
  rw [State.fabric_modFab, Fabric.colour_modColour]
  exact hclo

/-- What an acknowledgement of a colour that is not closing does. -/
theorem State.acked_cases {s : State} {p lane : Nat} (n : Nat) (hclo : (s.fabric.colour lane p).closing = false) :
    s.acked p lane n = s ∨ (s.fabric.colour lane p).on = true ∧
      s.acked p lane n = s.modFab (fun f => f.modColour lane p (fun c => c.advanced n (s.fabric.ackCount p lane n) s.clk)) := by
  by_cases hon : (s.fabric.colour lane p).on = true
  · by_cases h0 : s.fabric.ackCount p lane n = 0
    · exact .inl (State.acked_outside (.inr (.inl h0)))
    · by_cases hk : (s.fabric.colour lane p).flits.length < s.fabric.ackCount p lane n
      · exact .inl (State.acked_outside (.inr (.inr hk)))
      · exact .inr ⟨hon, State.acked_within hon (Nat.pos_of_ne_zero h0) (Nat.le_of_not_lt hk) hclo⟩
  · exact .inl (State.acked_outside (.inl (by simpa using hon)))

/-! #### A flit that is heard -/

/-- The partner has been heard now. -/
def State.hears (s : State) (p : Nat) : State := s.modFab (fun f => f.modPartner p (fun y => { y with heard := s.clk }))

theorem State.hears_partner (s : State) (p : Nat) : (s.hears p).fabric.partner p = { s.fabric.partner p with heard := s.clk } := Fabric.partner_of_put rfl

theorem State.heardFlit_eq (s : State) (p : Nat) (x : HeardFlit) : s.heardFlit p x = (s.hears p).acked p x.acol x.aseq := rfl

theorem State.heardFlit_heard (s : State) (p : Nat) (x : HeardFlit) : s.PortOnly (s.heardFlit p x) ∧ ((s.heardFlit p x).fabric.partner p).heard = s.clk := by
  obtain ⟨⟨h1, h2⟩, -⟩ := (s.hears p).acked_kept p x.acol x.aseq
  rw [State.heardFlit_eq]
  exact ⟨((State.PortOnly.refl s).modFab _).trans h1, (h2 p).trans (by rw [State.hears_partner])⟩

/-- The acknowledgement that a heard flit carries: within the window UNA moves, beyond it nothing does. -/
theorem State.heardFlit_ack (s : State) (p : Nat) (x : HeardFlit) :
    let c := s.fabric.colour x.acol p
    let k := (x.aseq + 2 ^ 48 - c.una) % 2 ^ 48
    (c.on = true → 0 < k → k ≤ c.flits.length → c.closing = false →
      ((s.heardFlit p x).fabric.colour x.acol p).una = x.aseq ∧ ((s.heardFlit p x).fabric.colour x.acol p).flits = c.flits.drop k) ∧
    (c.flits.length < k → (s.heardFlit p x).fabric.colour x.acol p = c) := by
  intro c k
  have hk : (s.hears p).fabric.ackCount p x.acol x.aseq = k := rfl
  rw [State.heardFlit_eq]
  refine ⟨fun hon h0 hle hclo => ?_, fun hlt => ?_⟩
  · rw [State.acked_within (s := s.hears p) hon (hk ▸ h0) (hk ▸ hle) hclo, State.fabric_modFab, Fabric.colour_modColour, hk]
    exact ⟨rfl, rfl⟩
  · rw [State.acked_outside (s := s.hears p) (.inr (.inr (hk ▸ hlt)))]
    rfl

theorem withFlit_heard {s : State} {x : Flit} {h : HeardFlit} {kind : FlitKind} (hl : s.inp.load = .flit x) (hup : (s.fabric.partner s.inp.id).st = .up)
    (hh : s.heard? s.inp.id s.inp.n kind.code x = some h) (k : Nat → Nat → HeardFlit → Out) : withFlit s kind k = k s.inp.id s.inp.n h := by
  simp only [withFlit, hl, hup, if_true, hh]

theorem withFlit_deaf {s : State} {x : Flit} {kind : FlitKind} (hl : s.inp.load = .flit x)
    (hd : s.heard? s.inp.id s.inp.n kind.code x = none ∨ (s.fabric.partner s.inp.id).st ≠ .up) (k : Nat → Nat → HeardFlit → Out) : withFlit s kind k = .next s := by
  rcases hd with hd | hd
  · simp only [withFlit, hl, hd, ite_self]
  · simp only [withFlit, hl, hd, if_false]

theorem links_deaf {s : State} {x : Flit} (hl : s.inp.load = .flit x) :
    ∀ e ∈ flitEvents, (s.heard? s.inp.id s.inp.n e.2 x = none ∨ (s.fabric.partner s.inp.id).st ≠ .up) → exec e.1 s = .next s := by
  intro e he hd
  simp only [flitEvents, List.mem_cons, List.not_mem_nil, or_false] at he
  obtain rfl | rfl | rfl | rfl := he
  · rw [exec_data, execData]
    exact withFlit_deaf (kind := .data) hl hd _
  · rw [exec_ack, execAck]
    exact withFlit_deaf (kind := .ack) hl hd _
  · rw [exec_nak, execNak]
    exact withFlit_deaf (kind := .nak) hl hd _
  · rw [exec_idle, execIdle]
    exact withFlit_deaf (kind := .idle) hl hd _

theorem links_discards (s : State) (x : Flit) (p lane kind : Nat)
    (h : x.bytes.length ≠ 256 ∨ (flitFields x.bytes).elim True (fun h => h.2.1 ≠ kind ∨ s.openFlit p lane h.1 x.bytes ≠ some (payloadBytes x.items))) : s.heard? p lane kind x = none := by
  cases hf : flitFields x.bytes with
  | none => simp only [State.heard?, hf]
  | some e =>
    obtain ⟨seq, k, nitem, aseq, acol⟩ := e
    have hlen : x.bytes.length = 256 := by
      by_contra hne
      simp [flitFields, hne] at hf
    rw [hf] at h
    have hbad : k ≠ kind ∨ s.openFlit p lane seq x.bytes ≠ some (payloadBytes x.items) := h.resolve_left (fun hne => hne hlen)
    simp only [State.heard?, hf]
    rw [if_neg]
    simp only [Bool.and_eq_true, decide_eq_true_eq]
    rintro ⟨⟨⟨hk, -⟩, -⟩, ho⟩
    exact hbad.elim (fun hn => hn hk) (fun hn => hn ho)

/-! #### NAK -/

theorem State.resendOrDark_heard (s : State) (lane p q : Nat) : ((s.resendOrDark lane p).fabric.partner q).heard = (s.fabric.partner q).heard := by
  unfold State.resendOrDark
  dsimp only
  split
  · exact (State.seeDark_sameHeard _ p).2 q
  · rfl

theorem State.naked_heard (s : State) (p lane n : Nat) : ((s.naked p lane n).fabric.partner p).heard = (s.fabric.partner p).heard := by
  have ha := ((s.acked_kept p lane n).1).2 p
  unfold State.naked
  dsimp only
  split
  · exact ha
  · exact (State.resendOrDark_heard _ _ _ _).trans ha

theorem State.naked_dark {s : State} {p lane n : Nat} (h : (s.fabric.colour lane p).lit = false) : s.naked p lane n = s.acked p lane n := by
  rw [State.naked]
  exact if_pos (by simp [h])

theorem State.naked_beyond {s : State} {p lane n : Nat} (h : (s.fabric.colour lane p).flits.length < s.fabric.ackCount p lane n) : s.naked p lane n = s := by
  rw [State.naked, State.acked_outside (.inr (.inr h))]
  refine if_pos ?_
  rw [← Fabric.ackCount, Bool.or_eq_true, Bool.or_eq_true, decide_eq_true_eq]
  exact .inl (.inr h)

/-- A NAK within the window: what is not acknowledged is sent again. -/
theorem State.naked_within {s : State} {p lane n : Nat} (hlit : (s.fabric.colour lane p).lit = true) (h : s.fabric.ackCount p lane n ≤ (s.fabric.colour lane p).flits.length) :
    s.naked p lane n = if ((s.acked p lane n).fabric.colour lane p).flits = [] then s.acked p lane n else (s.acked p lane n).resendOrDark lane p := by
  rw [State.naked, ← Fabric.ackCount, hlit]
  by_cases he : ((s.acked p lane n).fabric.colour lane p).flits = []
  · rw [if_pos (by simp [he]), if_pos he]
  · rw [if_neg (by simp [he, h]), if_neg he]

theorem Colour.on_of_lit {c : Colour} (h : c.lit = true) : c.on = true := by
  simp only [Colour.lit, Bool.and_eq_true] at h
  exact h.1.1

theorem links_nak {s : State} {x : Flit} {h : HeardFlit} (hl : s.inp.load = .flit x) (hup : (s.fabric.partner s.inp.id).st = .up)
    (hh : s.heard? s.inp.id s.inp.n 3 x = some h) :
    let p := s.inp.id
    let c := s.fabric.colour h.acol p
    let k := (h.aseq + 2 ^ 48 - c.una) % 2 ^ 48
    ∃ t, exec .nak s = .next t ∧ (t.fabric.partner p).heard = s.clk ∧
      (c.lit = true → 0 < k → k ≤ c.flits.length → c.closing = false → (t.fabric.colour h.acol p).una = h.aseq ∧ (t.fabric.colour h.acol p).flits = c.flits.drop k ∧
        sends s t (c.flits.drop k)) ∧
      (c.lit = true → k = 0 → sends s t c.flits) ∧
      (c.flits.length < k → t.fabric.colour h.acol p = c ∧ sends s t []) ∧ (c.lit = false → sends s t []) := by
  intro p c k
  have hk : (s.hears p).fabric.ackCount p h.acol h.aseq = k := rfl
  have hsent : (s.hears p).fabric.sent = s.fabric.sent := rfl
  rw [exec_nak, execNak]
  refine ⟨(s.hears p).naked p h.acol h.aseq, withFlit_heard (kind := .nak) hl hup hh _, ?_, fun hlit h0 hle hclo => ?_, fun hlit h0 => ?_, fun hlt => ?_, fun hdark => ?_⟩
  · rw [State.naked_heard, State.hears_partner]
  · have hacked := State.acked_within (s := s.hears p) (n := h.aseq) (Colour.on_of_lit hlit) (hk ▸ h0) (hk ▸ hle) hclo
    rw [hk] at hacked
    have hcol : (((s.hears p).acked p h.acol h.aseq).fabric.colour h.acol p) = c.advanced h.aseq k s.clk := by
      rw [hacked, State.fabric_modFab, Fabric.colour_modColour]
      rfl
    rw [State.naked_within (s := s.hears p) hlit (hk ▸ hle)]
    generalize hu : (s.hears p).acked p h.acol h.aseq = u at hcol hacked
    have husent : u.fabric.sent = s.fabric.sent := by
      rw [hacked]
      rfl
    have hflits : (u.fabric.colour h.acol p).flits = c.flits.drop k := by
      rw [hcol]
      rfl
    split
    next he => exact ⟨by rw [hcol]; rfl, hflits, by rw [Claims.sends, husent, ← hflits, he, List.append_nil]⟩
    next he =>
      have hfew : (u.fabric.colour h.acol p).resends < 15 := by
        rw [hcol]
        exact Nat.zero_lt_succ _
      rw [State.resendOrDark_few hfew, Claims.sends, State.resend_colour, State.resend_sent, husent, hflits, hcol]
      exact ⟨rfl, rfl, rfl⟩
  · have hout := State.acked_outside (s := s.hears p) (n := h.aseq) (lane := h.acol) (p := p) (.inr (.inl (hk.trans h0)))
    rw [State.naked_within (s := s.hears p) hlit (by rw [hk, h0]; exact Nat.zero_le _), hout]
    split
    next he => rw [Claims.sends, hsent, show c.flits = [] from he, List.append_nil]
    next he => exact (State.resendOrDark_sends ..).trans (by rw [hsent]; rfl)
  · rw [State.naked_beyond (s := s.hears p) (hk ▸ hlt)]
    exact ⟨rfl, by rw [Claims.sends, hsent, List.append_nil]⟩
  · rw [State.naked_dark (s := s.hears p) hdark, Claims.sends, ((s.hears p).acked_kept p h.acol h.aseq).2, hsent, List.append_nil]

end Sys2Proof.Machine

/-! ### Items that arrive (R334, R335) -/

namespace Sys2Proof.Machine
open Sys2Proof.Claims

theorem State.deliverItem_eq (s : State) (it : Item) : s.deliverItem it = { s with pending := s.pending ++ arrival it } := by
  obtain ⟨o, d, oc, dc, n, body⟩ := it
  cases body with
  | unassigned odd l =>
    simp only [State.deliverItem, arrival, List.append_nil]
  | _ => rfl

/-- What the arrival of items changes in the fabric: the places of flows and the items that a partner's flits wait with. -/
structure Fabric.Receives (f g : Fabric) : Prop where
  colours : g.colours = f.colours
  rx : g.rx = f.rx
  sent : g.sent = f.sent
  partner : ∀ q, ∃ b, g.partner q = { f.partner q with buffer := b }

theorem Fabric.Receives.refl (f : Fabric) : f.Receives f := ⟨rfl, rfl, rfl, fun _ => ⟨_, rfl⟩⟩

theorem Fabric.Receives.trans {f g h : Fabric} (a : f.Receives g) (b : g.Receives h) : f.Receives h := by
  refine ⟨b.colours.trans a.colours, b.rx.trans a.rx, b.sent.trans a.sent, fun q => ?_⟩
  obtain ⟨x, hx⟩ := a.partner q
  obtain ⟨y, hy⟩ := b.partner q
  exact ⟨y, by rw [hy, hx]⟩

theorem Fabric.Receives.of_partners {f g : Fabric} (hc : g.colours = f.colours) (hr : g.rx = f.rx) (hs : g.sent = f.sent) (hp : g.partners = f.partners) : f.Receives g :=
  ⟨hc, hr, hs, fun q => ⟨_, Fabric.partner_congr hp q⟩⟩

theorem Fabric.receives_buffer (f : Fabric) (p : Nat) (k : List (List Item) → List (List Item)) :
    f.Receives (f.modPartner p (fun x => { x with buffer := k x.buffer })) := by
  refine ⟨rfl, rfl, rfl, fun q => ?_⟩
  by_cases hq : q = p
  · rw [hq, Fabric.partner_modPartner]
    exact ⟨_, rfl⟩
  · rw [Fabric.partner_modPartner_ne _ hq]
    exact ⟨_, rfl⟩

/-- A step of the port that takes items. -/
def State.Receives (s t : State) : Prop := s.PortOnly t ∧ s.fabric.Receives t.fabric

theorem State.Receives.refl (s : State) : s.Receives s := ⟨rfl, Fabric.Receives.refl _⟩

theorem State.Receives.trans {s t u : State} (a : s.Receives t) (b : t.Receives u) : s.Receives u := ⟨a.1.trans b.1, a.2.trans b.2⟩

theorem State.deliverItem_receives (s : State) (it : Item) : s.Receives (s.deliverItem it) := by
  rw [State.deliverItem_eq]
  exact ⟨rfl, Fabric.Receives.refl _⟩

theorem State.inFlow_receives (s : State) (it : Item) : s.Receives (s.inFlow it).1 := by
  unfold State.inFlow
  dsimp only
  split
  · exact s.deliverItem_receives it
  split
  · exact State.Receives.trans ⟨(State.PortOnly.refl s).modFab _, Fabric.Receives.of_partners rfl rfl rfl rfl⟩ (State.deliverItem_receives _ it)
  split
  · exact State.Receives.refl s
  · exact State.Receives.refl s

theorem State.queueItem_receives (s : State) (d o c : Nat) (b : ItemBody) : s.Receives (s.queueItem d o c b) := by
  refine ⟨(State.PortOnly.refl s).queueItem .., ?_⟩
  unfold State.queueItem
  dsimp only
  split <;> exact Fabric.Receives.of_partners rfl rfl rfl rfl

theorem State.bounce_receives (s : State) (it : Item) : s.Receives (s.bounce it) := by
  unfold State.bounce
  split
  · exact State.Receives.refl s
  · exact s.queueItem_receives ..

theorem State.takeFlit_receives : ∀ (l : List Item) (s : State), s.Receives (s.takeFlit l).1
  | [], s => State.Receives.refl s
  | it :: l, s => by
    rw [State.takeFlit]
    dsimp only
    split
    · refine State.Receives.trans ?_ (State.takeFlit_receives l _)
      split
      · exact ⟨rfl, Fabric.Receives.refl _⟩
      · exact s.bounce_receives it
    · exact (s.inFlow_receives it).trans (State.takeFlit_receives l _)

theorem State.drainPass_receives (l : List (List Item)) (a : State × List (List Item)) :
    a.1.Receives (l.foldl (fun (a : State × List (List Item)) l => let x := a.1.takeFlit l; (x.1, if x.2 = [] then a.2 else a.2 ++ [x.2])) a).1 := by
  induction l generalizing a with
  | nil => exact State.Receives.refl _
  | cons x l ih => exact (State.takeFlit_receives x a.1).trans (ih _)

theorem State.drainBuffer_receives (p : Nat) : ∀ (n : Nat) (s : State), s.Receives (s.drainBuffer p n)
  | 0, s => State.Receives.refl s
  | n + 1, s => by
    rw [State.drainBuffer]
    have hpass := State.drainPass_receives (s.fabric.partner p).buffer (s, [])
    refine hpass.trans (State.Receives.trans ⟨(State.PortOnly.refl _).modFab _, ?_⟩ (State.drainBuffer_receives p n _))
    exact Fabric.receives_buffer _ p (fun _ => _)

/-- The port takes the items of an accepted flit of partner p. -/
def State.takes (u : State) (p : Nat) (l : List Item) : State :=
  let t := u.takeFlit l
  let s2 := if t.2 = [] then t.1 else t.1.modFab (fun f => f.modPartner p (fun y => { y with buffer := y.buffer ++ [t.2] }))
  s2.drainBuffer p ((s2.fabric.partner p).buffer.length)

theorem State.takes_receives (u : State) (p : Nat) (l : List Item) : u.Receives (u.takes p l) := by
  unfold State.takes
  dsimp only
  refine State.Receives.trans ?_ (State.drainBuffer_receives p _ _)
  split
  · exact State.takeFlit_receives l u
  · exact (State.takeFlit_receives l u).trans ⟨(State.PortOnly.refl _).modFab _, Fabric.receives_buffer _ p (fun b => b ++ [_])⟩

/-- Items all taken from a flit, into a partner's empty buffer, leave nothing to drain. -/
theorem State.takes_of_none {u : State} {p : Nat} {l : List Item} (h : (u.takeFlit l).2 = []) (hb : (u.fabric.partner p).buffer = []) (hp : (u.takeFlit l).1.fabric.partners = u.fabric.partners) :
    u.takes p l = (u.takeFlit l).1 := by
  rw [State.takes, if_pos h, Fabric.partner_congr hp, hb]
  rfl

/-! #### Items in their flows' order -/

theorem State.inFlow_partners (s : State) (it : Item) : (s.inFlow it).1.fabric.partners = s.fabric.partners := by
  unfold State.inFlow
  dsimp only
  split
  · rw [State.deliverItem_eq]
  split
  · rw [State.deliverItem_eq]
    rfl
  split <;> rfl

theorem State.takeFlit_partners : ∀ (l : List Item) (s : State), (s.takeFlit l).1.fabric.partners = s.fabric.partners
  | [], s => rfl
  | it :: l, s => by
    rw [State.takeFlit]
    dsimp only
    split
    · rw [State.takeFlit_partners l]
      split
      · rfl
      · unfold State.bounce
        split
        · rfl
        · exact State.queueItem_partners ..
    · rw [State.takeFlit_partners l, State.inFlow_partners]

/-- An item that is next in its flow is delivered and moves its flow on. -/
theorem State.inFlow_next {s : State} {it : Item} (ho : it.body.ordered = true) (hn : it.fseq = Assoc.get 0 (it.opkg, it.oclus, it.dclus) s.fabric.flowRx) :
    s.inFlow it = (({ s with fabric := { s.fabric with flowRx := Assoc.put (it.opkg, it.oclus, it.dclus) ((it.fseq + 1) % 65536) s.fabric.flowRx }, pending := s.pending ++ arrival it } : State), true) := by
  rw [State.inFlow]
  dsimp only
  rw [ho, if_neg (by decide), if_pos hn, State.deliverItem_eq, ← hn]
  rfl

theorem State.inFlow_unordered {s : State} {it : Item} (ho : it.body.ordered = false) : s.inFlow it = ({ s with pending := s.pending ++ arrival it }, true) := by
  rw [State.inFlow, ho, if_pos (by decide), State.deliverItem_eq]

theorem State.takeFlit_own {s : State} {it : Item} (h : it.dpkg = s.pkg) (l : List Item) :
    s.takeFlit (it :: l) = (((s.inFlow it).1.takeFlit l).1, if (s.inFlow it).2 then ((s.inFlow it).1.takeFlit l).2 else it :: ((s.inFlow it).1.takeFlit l).2) := by
  rw [State.takeFlit, if_neg (not_not_intro h)]

/-- Items for this package that come in their flows' order are all delivered, in that order. -/
theorem State.takeFlit_inTurn : ∀ (l : List Item) (s : State), (∀ it ∈ l, it.dpkg = s.pkg) → inTurn (fun w => Assoc.get 0 w s.fabric.flowRx) l →
    (s.takeFlit l).2 = [] ∧ (s.takeFlit l).1.pending = s.pending ++ l.flatMap arrival
  | [], s, _, _ => ⟨rfl, by rw [List.flatMap_nil, List.append_nil]; rfl⟩
  | it :: l, s, hd, ht => by
    have hdl : ∀ x ∈ l, x.dpkg = s.pkg := fun x hx => hd x (List.mem_cons_of_mem _ hx)
    rw [State.takeFlit_own (hd it List.mem_cons_self), List.flatMap_cons, ← List.append_assoc]
    rw [inTurn] at ht
    by_cases ho : it.body.ordered = true
    · rw [if_pos ho] at ht
      obtain ⟨hn, ht⟩ := ht
      rw [State.inFlow_next ho hn, if_pos rfl]
      refine State.takeFlit_inTurn l _ hdl ?_
      have hplace : (fun w => if w = (it.opkg, it.oclus, it.dclus) then (it.fseq + 1) % 65536 else Assoc.get 0 w s.fabric.flowRx) =
          fun w => Assoc.get 0 w (Assoc.put (it.opkg, it.oclus, it.dclus) ((it.fseq + 1) % 65536) s.fabric.flowRx) := by
        funext w
        rw [Assoc.get_put]
        exact if_congr eq_comm rfl rfl
      rw [← hplace]
      exact ht
    · have hu : it.body.ordered = false := by simpa using ho
      rw [if_neg ho] at ht
      rw [State.inFlow_unordered hu, if_pos rfl]
      exact State.takeFlit_inTurn l _ hdl ht

/-! #### One item out of place, and one for another package -/

/-- An item that is not the next of its flow changes nothing; it waits where its place is ahead. -/
theorem State.inFlow_outOfPlace {s : State} {it : Item} (ho : it.body.ordered = true) (hn : it.fseq ≠ Assoc.get 0 (it.opkg, it.oclus, it.dclus) s.fabric.flowRx) :
    s.inFlow it = (s, decide (32768 ≤ (it.fseq + 65536 - Assoc.get 0 (it.opkg, it.oclus, it.dclus) s.fabric.flowRx) % 65536)) := by
  rw [State.inFlow]
  dsimp only
  rw [ho, if_neg (by decide), if_neg hn]
  split
  next h => rw [decide_eq_true h]
  next h => rw [decide_eq_false h]

/-- The one item of a flit that is not the next of its flow waits in the partner's buffer, or is discarded as one already delivered. -/
theorem State.takes_outOfPlace {u : State} {p : Nat} {it : Item} (hd : it.dpkg = u.pkg) (ho : it.body.ordered = true)
    (hn : it.fseq ≠ Assoc.get 0 (it.opkg, it.oclus, it.dclus) u.fabric.flowRx) (hb : (u.fabric.partner p).buffer = []) :
    let place := (it.fseq + 65536 - Assoc.get 0 (it.opkg, it.oclus, it.dclus) u.fabric.flowRx) % 65536
    (u.takes p [it]).pending = u.pending ∧ (u.takes p [it]).fabric.flowRx = u.fabric.flowRx ∧ ((u.takes p [it]).fabric.partner p).buffer = if place < 32768 then [[it]] else [] := by
  intro place
  have hflow : ∀ v : State, v.pkg = u.pkg → v.fabric.flowRx = u.fabric.flowRx → v.takeFlit [it] = (v, if 32768 ≤ place then [] else [it]) := fun v hv hr => by
    rw [State.takeFlit_own (hd.trans hv.symm), State.inFlow_outOfPlace ho (by rw [hr]; exact hn), hr]
    simp only [State.takeFlit, decide_eq_true_eq, place]
  by_cases hp : 32768 ≤ place
  · have ht := hflow u rfl rfl
    rw [if_pos hp] at ht
    rw [State.takes_of_none (by rw [ht]) hb (by rw [ht]), ht, if_neg (Nat.not_lt_of_ge hp), hb]
    exact ⟨rfl, rfl, rfl⟩
  · have ht := hflow u rfl rfl
    rw [if_neg hp] at ht
    rw [State.takes, ht]
    dsimp only
    rw [if_neg (List.cons_ne_nil _ _)]
    generalize hv : u.modFab (fun f => f.modPartner p (fun y => { y with buffer := y.buffer ++ [[it]] })) = v
    have hvb : (v.fabric.partner p).buffer = [[it]] := by
      rw [← hv, State.fabric_modFab, Fabric.partner_modPartner, hb]
      rfl
    have hvr : v.fabric.flowRx = u.fabric.flowRx := by
      rw [← hv]
      rfl
    have hvp : v.pending = u.pending := by
      rw [← hv]
      rfl
    have hvk : v.pkg = u.pkg := by
      rw [← hv]
      rfl
    have htv := hflow v hvk hvr
    rw [if_neg hp] at htv
    rw [hvb]
    simp only [List.length_singleton, State.drainBuffer, hvb, List.foldl_cons, List.foldl_nil, htv]
    refine ⟨hvp, hvr, ?_⟩
    rw [State.fabric_modFab, Fabric.partner_modPartner, if_pos (Nat.lt_of_not_le hp)]
    rfl

theorem State.takeFlit_other {u : State} {it : Item} (hd : it.dpkg ≠ u.pkg) :
    u.takeFlit [it] = ((match u.way it.dpkg with | some _ => { u with items := u.items ++ [it] } | none => u.bounce it), []) := by
  rw [State.takeFlit, if_pos hd]
  rfl

theorem State.queueItem_pending (s : State) (d o c : Nat) (b : ItemBody) : (s.queueItem d o c b).pending = s.pending := by
  unfold State.queueItem
  dsimp only
  split <;> rfl

theorem State.queueItem_items (s : State) (d o c : Nat) (b : ItemBody) : ∃ n, (s.queueItem d o c b).items = s.items ++ [⟨s.pkg, d, o, c, n, b⟩] := by
  unfold State.queueItem
  dsimp only
  split <;> exact ⟨_, rfl⟩

/-- The one item of a flit, for another package, goes on, or an ERROR item goes back. -/
theorem State.takes_other {u : State} {p : Nat} {it : Item} (hd : it.dpkg ≠ u.pkg) (hb : (u.fabric.partner p).buffer = []) :
    (u.takes p [it]).pending = u.pending ∧ (u.way it.dpkg ≠ none → (u.takes p [it]).items = u.items ++ [it]) ∧
      (u.way it.dpkg = none → it.opkg = u.pkg → (u.takes p [it]).items = u.items) ∧
      (u.way it.dpkg = none → it.opkg ≠ u.pkg → ∃ n, (u.takes p [it]).items = u.items ++ [⟨u.pkg, it.opkg, 0, it.oclus, n, .error it.body.itype it.body.req 0x50⟩]) := by
  rw [State.takes_of_none (by rw [State.takeFlit_other hd]) hb (State.takeFlit_partners _ _), State.takeFlit_other hd]
  cases hw : u.way it.dpkg with
  | some q => exact ⟨rfl, fun _ => rfl, fun h => absurd h (by simp), fun h => absurd h (by simp)⟩
  | none =>
    dsimp only
    refine ⟨?_, fun h => absurd rfl h, fun _ ho => ?_, fun _ ho => ?_⟩
    · unfold State.bounce
      split
      · rfl
      · exact State.queueItem_pending ..
    · rw [State.bounce, if_pos ho]
    · rw [State.bounce, if_neg ho]
      exact State.queueItem_items ..

end Sys2Proof.Machine

/-! ### DATA (R332) -/

namespace Sys2Proof.Machine
open Sys2Proof.Claims

/-! #### The way of an item does not depend on when a partner was heard -/

theorem Assoc.any_put {κ α : Type} [DecidableEq κ] (d : α) {k : κ} {v : α} {P : κ × α → Bool} : ∀ {m : Assoc κ α}, P (k, v) = P (k, Assoc.get d k m) → Assoc.has k m = true →
    List.any (Assoc.put k v m) P = List.any m P
  | (k', v') :: m, h, hm => by
    simp only [Assoc.has, Assoc.get, Assoc.put] at h hm ⊢
    by_cases hk : k' = k
    · subst hk
      simp only [if_true] at h ⊢
      rw [List.any_cons, List.any_cons, h]
    · rw [if_neg hk] at h hm ⊢
      rw [List.any_cons, List.any_cons, Assoc.any_put d h hm]

theorem Assoc.find?_put {κ α : Type} [DecidableEq κ] (d : α) {k : κ} {v : α} {P : κ × α → Bool} : ∀ {m : Assoc κ α}, P (k, v) = P (k, Assoc.get d k m) → Assoc.has k m = true →
    (List.find? P (Assoc.put k v m)).map (·.1) = (List.find? P m).map (·.1)
  | (k', v') :: m, h, hm => by
    simp only [Assoc.has, Assoc.get, Assoc.put] at h hm ⊢
    by_cases hk : k' = k
    · subst hk
      simp only [if_true] at h ⊢
      rw [List.find?_cons, List.find?_cons, h]
      cases P (k', v') <;> rfl
    · rw [if_neg hk] at h hm ⊢
      rw [List.find?_cons, List.find?_cons]
      cases P (k', v')
      · exact Assoc.find?_put d h hm
      · rfl

/-- A package that is UP is listed. -/
theorem Fabric.has_of_up {f : Fabric} {p : Nat} (h : (f.partner p).st = .up) : Assoc.has p f.partners = true := by
  by_contra hn
  rw [Fabric.partner, Assoc.get_of_not_has _ _ (by simpa using hn)] at h
  cases h

theorem Fabric.hop_of_put {f g : Fabric} {p : Nat} {x : Partner} (hg : g.partners = Assoc.put p x f.partners) (hup : (f.partner p).st = .up)
    (hr : x.routes = (f.partner p).routes) (hl : x.relays = (f.partner p).relays) (d : Nat) : g.hop d = f.hop d := by
  have hhas := Fabric.has_of_up hup
  have hpart : g.isPartner d = f.isPartner d := by
    rw [Fabric.isPartner, Fabric.isPartner, hg, Assoc.any_put {} _ hhas]
    dsimp only
    rw [hr, Fabric.partner]
  rw [Fabric.hop, Fabric.hop, hpart, hg, Assoc.find?_put {} _ hhas]
  dsimp only
  rw [hl, Fabric.partner]

theorem State.way_of_put {s u : State} {p : Nat} {x : Partner} (hg : u.fabric.partners = Assoc.put p x s.fabric.partners) (hdead : u.dead = s.dead)
    (hup : (s.fabric.partner p).st = .up) (hst : x.st = .up) (hr : x.routes = (s.fabric.partner p).routes) (hl : x.relays = (s.fabric.partner p).relays) (d : Nat) :
    u.way d = s.way d := by
  have hq : ∀ q, (u.fabric.partner q).st = (s.fabric.partner q).st := fun q => by
    by_cases h : q = p
    · rw [h, Fabric.partner_of_put hg, hst, hup]
    · rw [Fabric.partner_of_put_ne hg h]
  rw [State.way, State.way, Fabric.hop_of_put hg hup hr hl, hdead]
  cases s.fabric.hop d with
  | none => rfl
  | some q => simp only [hq]

end Sys2Proof.Machine

namespace Sys2Proof.Machine
open Sys2Proof.Claims

/-! #### What DATA does in each of its cases -/

/-- The receiving end of a colour is written. -/
def State.withRx (s : State) (p lane : Nat) (r : RxColour) : State := s.modFab (fun f => { f with rx := Assoc.put (p, lane) r f.rx })

/-- The receiving end of a colour. -/
def State.rxAt (s : State) (p lane : Nat) : RxColour := Assoc.get {} (p, lane) s.fabric.rx

/-- The receiving end after one more acceptance. -/
def RxColour.accepted (r : RxColour) (clk : DWord) : RxColour :=
  { r with exp := (r.exp + 1) % 2 ^ 48, unacked := r.unacked + 1, since := if r.unacked = 0 then clk else r.since, naked := none }

/-- The port after the items of an accepted flit. -/
def State.accepts (s1 : State) (p lane : Nat) (clk : DWord) (l : List Item) : State := (s1.withRx p lane ((s1.rxAt p lane).accepted clk)).takes p l

section
variable {s : State} {x : Flit} {h : HeardFlit} (hl : s.inp.load = .flit x) (hup : (s.fabric.partner s.inp.id).st = .up) (hh : s.heard? s.inp.id s.inp.n 1 x = some h)
include hl hup hh

theorem execData_accepts (hseq : h.seq = ((s.heardFlit s.inp.id h).rxAt s.inp.id s.inp.n).exp) (hroom : ((s.heardFlit s.inp.id h).fabric.partner s.inp.id).buffer.length < 512) :
    execData s = .next (if 64 ≤ ((s.heardFlit s.inp.id h).rxAt s.inp.id s.inp.n).unacked + 1 then
      ((s.heardFlit s.inp.id h).accepts s.inp.id s.inp.n s.clk h.items).sendAck s.inp.id s.inp.n else (s.heardFlit s.inp.id h).accepts s.inp.id s.inp.n s.clk h.items) := by
  rw [execData, withFlit_heard (kind := .data) hl hup hh]
  refine if_pos ?_
  rw [Bool.and_eq_true, decide_eq_true_eq, decide_eq_true_eq]
  exact ⟨hseq, hroom⟩

theorem execData_duplicate (hno : h.seq = ((s.heardFlit s.inp.id h).rxAt s.inp.id s.inp.n).exp → ¬ ((s.heardFlit s.inp.id h).fabric.partner s.inp.id).buffer.length < 512)
    (hold : 2 ^ 47 ≤ (h.seq + 2 ^ 48 - ((s.heardFlit s.inp.id h).rxAt s.inp.id s.inp.n).exp) % 2 ^ 48) :
    execData s = .next ((s.heardFlit s.inp.id h).sendAck s.inp.id s.inp.n) := by
  rw [execData, withFlit_heard (kind := .data) hl hup hh]
  refine (if_neg ?_).trans (if_pos hold)
  rw [Bool.and_eq_true, decide_eq_true_eq, decide_eq_true_eq]
  exact fun hc => hno hc.1 hc.2

/-- A flit that is neither next nor old: a NAK, unless one was sent for the same number a round trip ago or less. -/
theorem execData_gap (hno : h.seq = ((s.heardFlit s.inp.id h).rxAt s.inp.id s.inp.n).exp → ¬ ((s.heardFlit s.inp.id h).fabric.partner s.inp.id).buffer.length < 512)
    (hnew : ¬ 2 ^ 47 ≤ (h.seq + 2 ^ 48 - ((s.heardFlit s.inp.id h).rxAt s.inp.id s.inp.n).exp) % 2 ^ 48) :
    execData s = .next (((s.heardFlit s.inp.id h).sendCtl s.inp.id .nak none s.inp.n ((s.heardFlit s.inp.id h).rxAt s.inp.id s.inp.n).exp).withRx s.inp.id s.inp.n
        { (s.heardFlit s.inp.id h).rxAt s.inp.id s.inp.n with naked := some (((s.heardFlit s.inp.id h).rxAt s.inp.id s.inp.n).exp, s.clk) }) ∨
      ((s.heardFlit s.inp.id h).rxAt s.inp.id s.inp.n).naked ≠ none ∧ execData s = .next (s.heardFlit s.inp.id h) := by
  have hnot : ¬ (decide (h.seq = ((s.heardFlit s.inp.id h).rxAt s.inp.id s.inp.n).exp) && decide (((s.heardFlit s.inp.id h).fabric.partner s.inp.id).buffer.length < 512)) = true := by
    rw [Bool.and_eq_true, decide_eq_true_eq, decide_eq_true_eq]
    exact fun hc => hno hc.1 hc.2
  rw [execData, withFlit_heard (kind := .data) hl hup hh]
  unfold State.rxAt at hnot hnew ⊢
  dsimp only
  rw [if_neg hnot, if_neg hnew]
  split_ifs with ha
  · exact .inl rfl
  · exact .inr ⟨fun hn => ha (by rw [hn]), rfl⟩

end

end Sys2Proof.Machine

namespace Sys2Proof.Machine
open Sys2Proof.Claims

/-! #### What every outcome of DATA keeps -/

/-- A step of the port that moves no window and hears no flit. -/
def State.Handles (s t : State) : Prop :=
  s.SameHeard t ∧ ∀ l q, (t.fabric.colour l q).una = (s.fabric.colour l q).una ∧ (t.fabric.colour l q).flits = (s.fabric.colour l q).flits

theorem State.Handles.refl (s : State) : s.Handles s := ⟨State.SameHeard.refl s, fun _ _ => ⟨rfl, rfl⟩⟩

theorem State.Handles.trans {s t u : State} (a : s.Handles t) (b : t.Handles u) : s.Handles u :=
  ⟨a.1.trans b.1, fun l q => ⟨(b.2 l q).1.trans (a.2 l q).1, (b.2 l q).2.trans (a.2 l q).2⟩⟩

theorem State.withRx_handles (s : State) (p lane : Nat) (r : RxColour) : s.Handles (s.withRx p lane r) :=
  ⟨State.SameHeard.of_partners rfl rfl, fun _ _ => ⟨rfl, rfl⟩⟩

theorem State.Receives.handles {s t : State} (h : s.Receives t) : s.Handles t := by
  refine ⟨⟨h.1, fun q => ?_⟩, fun l q => ?_⟩
  · obtain ⟨b, hb⟩ := h.2.partner q
    rw [hb]
  · rw [Fabric.colour_congr h.2.colours]
    exact ⟨rfl, rfl⟩

theorem State.emit_handles (s : State) (x : SentFlit) : s.Handles (s.emit x) := by
  refine ⟨⟨rfl, fun q => ?_⟩, fun l q => ?_⟩
  · exact Fabric.heard_modPartner (s.fabric.modColour x.lane x.dest (fun c => { c with sentAt := s.clk })) x.dest
      (g := fun y => { y with sealedBy := Assoc.put (x.lane / 128) (Assoc.get 0 (x.lane / 128) y.sealedBy + 1) y.sealedBy }) (fun _ => rfl) q
  · have hc : (s.emit x).fabric.colour l q = (s.fabric.modColour x.lane x.dest (fun c => { c with sentAt := s.clk })).colour l q := rfl
    rw [hc]
    by_cases h : l = x.lane ∧ q = x.dest
    · obtain ⟨rfl, rfl⟩ := h
      rw [Fabric.colour_modColour]
      exact ⟨rfl, rfl⟩
    · rw [Fabric.colour_modColour_ne _ h]
      exact ⟨rfl, rfl⟩

theorem State.sendCtl_handles (s : State) (p : Nat) (kind : FlitKind) (lane : Option Nat) (acol aseq : Nat) : s.Handles (s.sendCtl p kind lane acol aseq) := by
  unfold State.sendCtl
  split
  · exact s.emit_handles _
  · exact State.Handles.refl s

theorem State.sendAck_eq (s : State) (p lane : Nat) :
    s.sendAck p lane = (s.sendCtl p .ack none lane (s.rxAt p lane).exp).withRx p lane { s.rxAt p lane with unacked := 0 } := rfl

theorem State.sendAck_handles (s : State) (p lane : Nat) : s.Handles (s.sendAck p lane) := by
  rw [State.sendAck_eq]
  exact (s.sendCtl_handles ..).trans (State.withRx_handles ..)

theorem State.accepts_handles (s1 : State) (p lane : Nat) (clk : DWord) (l : List Item) : s1.Handles (s1.accepts p lane clk l) :=
  (s1.withRx_handles ..).trans (State.takes_receives ..).handles

theorem execData_handles {s : State} {x : Flit} {h : HeardFlit} (hl : s.inp.load = .flit x) (hup : (s.fabric.partner s.inp.id).st = .up)
    (hh : s.heard? s.inp.id s.inp.n 1 x = some h) : ∃ t, execData s = .next t ∧ (s.heardFlit s.inp.id h).Handles t := by
  by_cases hacc : h.seq = ((s.heardFlit s.inp.id h).rxAt s.inp.id s.inp.n).exp ∧ ((s.heardFlit s.inp.id h).fabric.partner s.inp.id).buffer.length < 512
  · refine ⟨_, execData_accepts hl hup hh hacc.1 hacc.2, ?_⟩
    split
    · exact (State.accepts_handles ..).trans (State.sendAck_handles ..)
    · exact State.accepts_handles ..
  have hno : h.seq = ((s.heardFlit s.inp.id h).rxAt s.inp.id s.inp.n).exp → ¬ ((s.heardFlit s.inp.id h).fabric.partner s.inp.id).buffer.length < 512 := fun h1 h2 => hacc ⟨h1, h2⟩
  by_cases hold : 2 ^ 47 ≤ (h.seq + 2 ^ 48 - ((s.heardFlit s.inp.id h).rxAt s.inp.id s.inp.n).exp) % 2 ^ 48
  · exact ⟨_, execData_duplicate hl hup hh hno hold, State.sendAck_handles ..⟩
  · rcases execData_gap hl hup hh hno hold with he | ⟨-, he⟩
    · exact ⟨_, he, (State.sendCtl_handles ..).trans (State.withRx_handles ..)⟩
    · exact ⟨_, he, State.Handles.refl _⟩

/-- A flit with an acknowledgement, whatever else it is: the partner is heard, memory stays, and the window moves as the flit says. -/
theorem links_heard {s : State} {x : Flit} {h : HeardFlit} {kind : Nat} (hl : s.inp.load = .flit x) (hup : (s.fabric.partner s.inp.id).st = .up)
    (hh : s.heard? s.inp.id s.inp.n kind x = some h) (e : Instr × Nat) (he : e ∈ flitEvents) (hek : e.2 = kind) (h3 : kind ≠ 3) :
    let p := s.inp.id
    let c := s.fabric.colour h.acol p
    let k := (h.aseq + 2 ^ 48 - c.una) % 2 ^ 48
    ∃ t, exec e.1 s = .next t ∧ (t.fabric.partner p).heard = s.clk ∧ s.sameMem t ∧
      (c.on = true → 0 < k → k ≤ c.flits.length → c.closing = false → (t.fabric.colour h.acol p).una = h.aseq ∧ (t.fabric.colour h.acol p).flits = c.flits.drop k) ∧
      (c.flits.length < k → (t.fabric.colour h.acol p).una = c.una ∧ (t.fabric.colour h.acol p).flits = c.flits) := by
  intro p c k
  have hexec : ∃ t, exec e.1 s = .next t ∧ (s.heardFlit p h).Handles t := by
    subst hek
    simp only [flitEvents, List.mem_cons, List.not_mem_nil, or_false] at he
    obtain rfl | rfl | rfl | rfl := he
    · rw [exec_data]
      exact execData_handles hl hup hh
    · rw [exec_ack, execAck]
      exact ⟨_, withFlit_heard (kind := .ack) hl hup hh _, State.Handles.refl _⟩
    · exact absurd rfl h3
    · rw [exec_idle, execIdle]
      exact ⟨_, withFlit_heard (kind := .idle) hl hup hh _, State.Handles.refl _⟩
  obtain ⟨t, ht, ⟨⟨hpo, hhd⟩, hcol⟩⟩ := hexec
  obtain ⟨hpo1, hhd1⟩ := s.heardFlit_heard p h
  obtain ⟨hin, hout⟩ := s.heardFlit_ack p h
  obtain ⟨huna, hflits⟩ := hcol h.acol p
  refine ⟨t, ht, (hhd p).trans hhd1, (hpo1.trans hpo).sameMem, fun hon h0 hk hclo => ?_, fun hlt => ?_⟩
  · obtain ⟨h1, h2⟩ := hin hon h0 hk hclo
    exact ⟨huna.trans h1, hflits.trans h2⟩
  · rw [huna, hflits, hout hlt]
    exact ⟨rfl, rfl⟩

/-! #### Flits sent to a partner that was heard -/

/-- What a flit to partner p is sealed with, and when its key is fresh, has not changed. -/
structure State.SameSender (s t : State) (p : Nat) : Prop where
  clk : t.clk = s.clk
  pkg : t.pkg = s.pkg
  keys : (t.fabric.partner p).keys = (s.fabric.partner p).keys
  keyed : (t.fabric.partner p).keyed = (s.fabric.partner p).keyed
  sealedBy : (t.fabric.partner p).sealedBy = (s.fabric.partner p).sealedBy

theorem State.SameSender.trans {s t u : State} {p : Nat} (a : s.SameSender t p) (b : t.SameSender u p) : s.SameSender u p :=
  ⟨b.clk.trans a.clk, b.pkg.trans a.pkg, b.keys.trans a.keys, b.keyed.trans a.keyed, b.sealedBy.trans a.sealedBy⟩

theorem State.SameSender.sealFlit {s t : State} {p : Nat} (h : s.SameSender t p) (lane : Nat) (kind : FlitKind) (seq aseq acol : Nat) (items : List Item) :
    t.sealFlit p lane kind seq aseq acol items = s.sealFlit p lane kind seq aseq acol items := by
  simp only [State.sealFlit, State.requester, h.keys, h.pkg]

theorem State.SameSender.keyFresh {s t : State} {p : Nat} (h : s.SameSender t p) (lane : Nat) : t.keyFresh p lane = s.keyFresh p lane := by
  unfold State.keyFresh State.since
  rw [h.sealedBy, h.keyed, h.clk]

theorem State.Receives.sameSender {s t : State} (h : s.Receives t) (p : Nat) : s.SameSender t p := by
  obtain ⟨b, hb⟩ := h.2.partner p
  exact ⟨h.1.clk, h.1.pkg, by rw [hb], by rw [hb], by rw [hb]⟩

theorem State.withRx_sameSender (s : State) (p lane q : Nat) (r : RxColour) : s.SameSender (s.withRx p lane r) q := ⟨rfl, rfl, rfl, rfl, rfl⟩

/-- The one colour towards the partner is still the one, with the same next number, after a step that changes no colour. -/
def State.OneLitAs (s t : State) (d p : Nat) : Prop := OneLit s d p → OneLit t d p ∧ (t.fabric.colour d p).next = (s.fabric.colour d p).next

theorem State.oneLitAs_of_colours {s t : State} {p : Nat} (h : s.SameSender t p) (hc : t.fabric.colours = s.fabric.colours) (d : Nat) : s.OneLitAs t d p := by
  have hcol := Fabric.colour_congr hc d p
  rintro ⟨h1, h2, h3⟩
  exact ⟨⟨by rw [hcol, hc]; exact h1, by rw [hcol]; exact h2, by rw [h.keyFresh]; exact h3⟩, by rw [hcol]⟩

/-- A flit heard from a partner none of whose acknowledged colours is closing. -/
structure State.HeardOnly (s t : State) (p : Nat) : Prop where
  only : s.PortOnly t
  pending : t.pending = s.pending
  items : t.items = s.items
  rx : t.fabric.rx = s.fabric.rx
  flowRx : t.fabric.flowRx = s.fabric.flowRx
  sent : t.fabric.sent = s.fabric.sent
  partners : t.fabric.partners = Assoc.put p { s.fabric.partner p with heard := s.clk } s.fabric.partners
  oneLit : ∀ d, s.OneLitAs t d p

theorem State.HeardOnly.sameSender {s t : State} {p : Nat} (h : s.HeardOnly t p) : s.SameSender t p := by
  have hp := Fabric.partner_of_put h.partners
  exact ⟨h.only.clk, h.only.pkg, by rw [hp], by rw [hp], by rw [hp]⟩

theorem State.HeardOnly.buffer {s t : State} {p : Nat} (h : s.HeardOnly t p) : (t.fabric.partner p).buffer = (s.fabric.partner p).buffer := by
  rw [Fabric.partner_of_put h.partners]

theorem State.hears_heardOnly (s : State) (p : Nat) : s.HeardOnly (s.hears p) p := by
  have hp := s.hears_partner p
  exact ⟨rfl, rfl, rfl, rfl, rfl, rfl, rfl, State.oneLitAs_of_colours ⟨rfl, rfl, by rw [hp], by rw [hp], by rw [hp]⟩ rfl⟩

/-- A window that moves leaves a lit colour lit and its next number as it was. -/
theorem State.advanced_oneLitAs (s : State) {p acol : Nat} (n k d : Nat) (hon : (s.fabric.colour acol p).on = true) :
    s.OneLitAs (s.modFab (fun f => f.modColour acol p (fun c => c.advanced n k s.clk))) d p := by
  rintro ⟨h1, h2, h3⟩
  have hd : acol = d := by
    by_contra hne
    have hk : ¬ (d, p) = (acol, p) := fun e => hne (Prod.mk.inj e).1.symm
    rw [Fabric.colour, h1, Assoc.get, if_neg hk, Assoc.get] at hon
    cases hon
  subst hd
  have hcol : (s.modFab (fun f => f.modColour acol p (fun c => c.advanced n k s.clk))).fabric.colour acol p = (s.fabric.colour acol p).advanced n k s.clk := by
    rw [State.fabric_modFab, Fabric.colour_modColour]
  have hcols : (s.modFab (fun f => f.modColour acol p (fun c => c.advanced n k s.clk))).fabric.colours = [((acol, p), (s.fabric.colour acol p).advanced n k s.clk)] := by
    rw [State.fabric_modFab, Fabric.modColour, h1]
    exact if_pos rfl
  exact ⟨⟨by rw [hcol, hcols], by rw [hcol]; exact h2, h3⟩, by rw [hcol]; rfl⟩

theorem State.heardFlit_heardOnly (s : State) (p : Nat) (x : HeardFlit) (hclo : (s.fabric.colour x.acol p).closing = false) : s.HeardOnly (s.heardFlit p x) p := by
  have hh := s.hears_heardOnly p
  rw [State.heardFlit_eq]
  rcases State.acked_cases (s := s.hears p) x.aseq hclo with he | ⟨hon, he⟩
  · rw [he]
    exact hh
  · rw [he]
    refine ⟨hh.only.modFab _, hh.pending, hh.items, hh.rx, hh.flowRx, hh.sent, hh.partners, fun d ho => ?_⟩
    obtain ⟨h1, h2⟩ := hh.oneLit d ho
    obtain ⟨h3, h4⟩ := (s.hears p).advanced_oneLitAs x.aseq ((s.hears p).fabric.ackCount p x.acol x.aseq) d hon h1
    exact ⟨h3, h4.trans h2⟩

theorem State.HeardOnly.rxAt {s t : State} {p : Nat} (h : s.HeardOnly t p) (q lane : Nat) : t.rxAt q lane = s.rxAt q lane := by
  rw [State.rxAt, h.rx, State.rxAt]

/-- A flit without items on the one colour towards the partner, as the port was before. -/
theorem State.sendCtl_as {s t : State} {d p : Nat} (ho : OneLit s d p) (hs : s.SameSender t p) (hone : s.OneLitAs t d p) (hsent : t.fabric.sent = s.fabric.sent)
    (kind : FlitKind) (acol aseq : Nat) : Claims.sends s (t.sendCtl p kind none acol aseq) [s.sealFlit p d kind (s.fabric.colour d p).next aseq acol []] := by
  obtain ⟨h1, h2⟩ := hone ho
  rw [State.sendCtl_oneLit h1 kind (.inl rfl), hs.sealFlit, h2, Claims.sends, State.emit_sent, hsent]

theorem State.sendCtl_pending (s : State) (p : Nat) (kind : FlitKind) (lane : Option Nat) (acol aseq : Nat) : (s.sendCtl p kind lane acol aseq).pending = s.pending := by
  unfold State.sendCtl
  split <;> rfl

theorem State.sendAck_pending (s : State) (p lane : Nat) : (s.sendAck p lane).pending = s.pending := s.sendCtl_pending ..

theorem State.rxAt_withRx (s : State) (p lane : Nat) (r : RxColour) : (s.withRx p lane r).rxAt p lane = r := rx_of_put rfl

theorem State.sendAck_rxAt (s : State) (p lane : Nat) : (s.sendAck p lane).rxAt p lane = { s.rxAt p lane with unacked := 0 } := by
  rw [State.sendAck_eq, State.rxAt_withRx]

theorem State.sendAck_as {s t : State} {d p : Nat} (ho : OneLit s d p) (hs : s.SameSender t p) (hone : s.OneLitAs t d p) (hsent : t.fabric.sent = s.fabric.sent) (lane : Nat) :
    Claims.sends s (t.sendAck p lane) [s.sealFlit p d .ack (s.fabric.colour d p).next (t.rxAt p lane).exp lane []] := by
  rw [State.sendAck_eq]
  exact State.sendCtl_as ho hs hone hsent .ack lane _

/-! #### The cases of DATA -/

section
variable {s : State} {x : Flit} {h : HeardFlit} (hl : s.inp.load = .flit x) (hup : (s.fabric.partner s.inp.id).st = .up) (hh : s.heard? s.inp.id s.inp.n 1 x = some h)
  (hclo : (s.fabric.colour h.acol s.inp.id).closing = false)

/-- The state in which the items of an accepted flit are taken. -/
def State.accepted (s : State) (h : HeardFlit) : State :=
  (s.heardFlit s.inp.id h).withRx s.inp.id s.inp.n ((s.rxAt s.inp.id s.inp.n).accepted s.clk)

include hclo

theorem State.accepted_heardOnly : s.SameSender (s.accepted h) s.inp.id ∧ (∀ d, s.OneLitAs (s.accepted h) d s.inp.id) ∧ (s.accepted h).pkg = s.pkg ∧
    (s.accepted h).pending = s.pending ∧ (s.accepted h).items = s.items ∧ (s.accepted h).fabric.flowRx = s.fabric.flowRx ∧ (s.accepted h).fabric.sent = s.fabric.sent ∧
    (s.accepted h).rxAt s.inp.id s.inp.n = (s.rxAt s.inp.id s.inp.n).accepted s.clk ∧ ((s.accepted h).fabric.partner s.inp.id).buffer = (s.fabric.partner s.inp.id).buffer := by
  have ho := s.heardFlit_heardOnly s.inp.id h hclo
  refine ⟨ho.sameSender.trans (State.withRx_sameSender ..), fun d hd => ?_, ho.only.pkg, ho.pending, ho.items, ho.flowRx, ho.sent, State.rxAt_withRx .., ho.buffer⟩
  obtain ⟨h1, h2⟩ := ho.oneLit d hd
  obtain ⟨h3, h4⟩ := State.oneLitAs_of_colours (State.withRx_sameSender (s.heardFlit s.inp.id h) s.inp.id s.inp.n s.inp.id ((s.rxAt s.inp.id s.inp.n).accepted s.clk)) rfl d h1
  exact ⟨h3, h4.trans h2⟩

theorem State.accepted_way (hup : (s.fabric.partner s.inp.id).st = .up) (d : Nat) : (s.accepted h).way d = s.way d := by
  have ho := s.heardFlit_heardOnly s.inp.id h hclo
  exact State.way_of_put (u := s.accepted h) ho.partners ho.only.dead hup hup rfl rfl d

include hl hup hh

/-- An accepted flit: its items are taken, and the 64th acceptance is acknowledged. -/
theorem execData_next (hseq : h.seq = (s.rxAt s.inp.id s.inp.n).exp) (hb : (s.fabric.partner s.inp.id).buffer.length < 512) :
    execData s = .next (if 64 ≤ (s.rxAt s.inp.id s.inp.n).unacked + 1 then ((s.accepted h).takes s.inp.id h.items).sendAck s.inp.id s.inp.n
      else (s.accepted h).takes s.inp.id h.items) := by
  have ho := s.heardFlit_heardOnly s.inp.id h hclo
  have he := execData_accepts hl hup hh (by rw [ho.rxAt]; exact hseq) (by rw [ho.buffer]; exact hb)
  rwa [State.accepts, ho.rxAt] at he

theorem links_dataInTurn (hseq : h.seq = (s.rxAt s.inp.id s.inp.n).exp) (hb : (s.fabric.partner s.inp.id).buffer = []) (hd : ∀ it ∈ h.items, it.dpkg = s.pkg)
    (ht : inTurn (fun w => Assoc.get 0 w s.fabric.flowRx) h.items) :
    let p := s.inp.id
    let lane := s.inp.n
    let r := s.rxAt p lane
    ∃ t, execData s = .next t ∧ (t.rxAt p lane).exp = (r.exp + 1) % 2 ^ 48 ∧ t.pending = s.pending ++ h.items.flatMap arrival ∧
      (r.unacked < 63 → sends s t []) ∧
      (r.unacked = 63 → ∀ d, OneLit s d p → sends s t [s.sealFlit p d .ack (s.fabric.colour d p).next ((r.exp + 1) % 2 ^ 48) lane []] ∧ (t.rxAt p lane).unacked = 0) := by
  intro p lane r
  obtain ⟨hsame, hone, hpkg, hpend, -, hflow, hsent, hrx, hbuf⟩ := State.accepted_heardOnly (h := h) hclo
  obtain ⟨hnone, hpd⟩ := State.takeFlit_inTurn h.items (s.accepted h) (by rw [hpkg]; exact hd) (by rw [hflow]; exact ht)
  have htakes := State.takes_of_none hnone (hbuf.trans hb) (State.takeFlit_partners ..)
  have hrec := State.takes_receives (s.accepted h) p h.items
  rw [execData_next hl hup hh hclo hseq (by rw [hb]; decide)]
  have hpend' : ((s.accepted h).takes p h.items).pending = s.pending ++ h.items.flatMap arrival := by rw [htakes, hpd, hpend]
  have hsent' : ((s.accepted h).takes p h.items).fabric.sent = s.fabric.sent := hrec.2.sent.trans hsent
  have hrx' : ((s.accepted h).takes p h.items).rxAt p lane = r.accepted s.clk := by
    rw [State.rxAt, hrec.2.rx]
    exact hrx
  have hone' : ∀ d, s.OneLitAs ((s.accepted h).takes p h.items) d p := fun d hd => by
    obtain ⟨h1, h2⟩ := hone d hd
    obtain ⟨h3, h4⟩ := State.oneLitAs_of_colours (hrec.sameSender p) hrec.2.colours d h1
    exact ⟨h3, h4.trans h2⟩
  have hsame' := hsame.trans (hrec.sameSender p)
  generalize (s.accepted h).takes p h.items = v at hpend' hsent' hrx' hone' hsame'
  refine ⟨_, rfl, ?_, ?_, fun hu => ?_, fun hu d hd => ?_⟩
  · split
    · rw [State.sendAck_rxAt, hrx']
      rfl
    · rw [hrx']
      rfl
  · split
    · rw [State.sendAck_pending, hpend']
    · exact hpend'
  · have hlt : ¬ 64 ≤ r.unacked + 1 := by omega
    rw [if_neg hlt, Claims.sends, hsent', List.append_nil]
  · have hge : 64 ≤ r.unacked + 1 := by omega
    rw [if_pos hge, State.sendAck_rxAt]
    have hsends := State.sendAck_as hd hsame' (hone' d) hsent' lane
    rw [hrx'] at hsends
    exact ⟨hsends, rfl⟩

theorem links_dataOne (hseq : h.seq = (s.rxAt s.inp.id s.inp.n).exp) (hb : (s.fabric.partner s.inp.id).buffer = []) (hu : (s.rxAt s.inp.id s.inp.n).unacked < 63)
    (it : Item) (hi : h.items = [it]) :
    let p := s.inp.id
    let lane := s.inp.n
    let r := s.rxAt p lane
    let f := s.fabric
    let place := (it.fseq + 65536 - Assoc.get 0 (it.opkg, it.oclus, it.dclus) f.flowRx) % 65536
    (it.dpkg = s.pkg → it.body.ordered = true → 0 < place → Assoc.get 0 (it.opkg, it.oclus, it.dclus) f.flowRx < 65536 → it.fseq < 65536 →
      ∃ t, execData s = .next t ∧ (t.rxAt p lane).exp = (r.exp + 1) % 2 ^ 48 ∧ t.pending = s.pending ∧ t.fabric.flowRx = f.flowRx ∧
        (t.fabric.partner p).buffer = if place < 32768 then [[it]] else []) ∧
    (it.dpkg ≠ s.pkg → ∃ t, execData s = .next t ∧ t.pending = s.pending ∧
      (s.way it.dpkg ≠ none → t.items = s.items ++ [it]) ∧
      (s.way it.dpkg = none → it.opkg = s.pkg → t.items = s.items) ∧
      (s.way it.dpkg = none → it.opkg ≠ s.pkg → ∃ n, t.items = s.items ++ [⟨s.pkg, it.opkg, 0, it.oclus, n, .error it.body.itype it.body.req 0x50⟩])) := by
  intro p lane r f place
  obtain ⟨-, -, hpkg, hpend, hitems, hflow, -, hrx, hbuf⟩ := State.accepted_heardOnly (h := h) hclo
  have hrec := State.takes_receives (s.accepted h) p [it]
  have hlt : ¬ 64 ≤ (s.rxAt s.inp.id s.inp.n).unacked + 1 := by omega
  rw [execData_next hl hup hh hclo hseq (by rw [hb]; decide), if_neg hlt, hi]
  refine ⟨fun hd ho h0 hg hf => ⟨_, rfl, ?_, ?_⟩, fun hd => ⟨_, rfl, ?_⟩⟩
  · rw [State.rxAt, hrec.2.rx]
    exact congrArg RxColour.exp hrx
  · have hne : it.fseq ≠ Assoc.get 0 (it.opkg, it.oclus, it.dclus) f.flowRx := by
      rintro he
      simp only [place] at h0
      omega
    obtain ⟨h1, h2, h3⟩ := State.takes_outOfPlace (p := p) (hd.trans hpkg.symm) ho (by rw [hflow]; exact hne) (hbuf.trans hb)
    rw [hflow] at h3
    exact ⟨h1.trans hpend, h2.trans hflow, h3⟩
  · have h1 := State.takes_other (u := s.accepted h) (p := p) (by rw [hpkg]; exact hd) (hbuf.trans hb)
    rwa [State.accepted_way hclo hup, hpend, hitems, hpkg] at h1

theorem links_dataGap (hcase : (0 < (h.seq + 2 ^ 48 - (s.rxAt s.inp.id s.inp.n).exp) % 2 ^ 48 ∧ (h.seq + 2 ^ 48 - (s.rxAt s.inp.id s.inp.n).exp) % 2 ^ 48 < 2 ^ 47) ∨
      (h.seq = (s.rxAt s.inp.id s.inp.n).exp ∧ 512 ≤ (s.fabric.partner s.inp.id).buffer.length)) (hn : (s.rxAt s.inp.id s.inp.n).naked = none)
    (d : Nat) (hd : OneLit s d s.inp.id) :
    let p := s.inp.id
    let lane := s.inp.n
    let r := s.rxAt p lane
    ∃ t, execData s = .next t ∧ sends s t [s.sealFlit p d .nak (s.fabric.colour d p).next r.exp lane []] ∧ (t.rxAt p lane).exp = r.exp ∧ t.pending = s.pending := by
  intro p lane r
  have ho := s.heardFlit_heardOnly p h hclo
  have hr : (s.heardFlit s.inp.id h).rxAt s.inp.id s.inp.n = r := ho.rxAt p lane
  have hno : h.seq = r.exp → ¬ ((s.heardFlit p h).fabric.partner p).buffer.length < 512 := fun he => by
    rw [ho.buffer]
    rcases hcase with ⟨h0, -⟩ | ⟨-, hfull⟩
    · rw [he, Nat.add_sub_cancel_left] at h0
      omega
    · exact Nat.not_lt_of_ge hfull
  have hnew : ¬ 2 ^ 47 ≤ (h.seq + 2 ^ 48 - r.exp) % 2 ^ 48 := by
    rcases hcase with ⟨-, hlt⟩ | ⟨he, -⟩
    · exact Nat.not_le_of_gt hlt
    · rw [he, Nat.add_sub_cancel_left]
      omega
  have hgap := execData_gap hl hup hh (by rw [hr]; exact hno) (by rw [hr]; exact hnew)
  rw [hr] at hgap
  rcases hgap with he | ⟨hne, -⟩
  · refine ⟨_, he, State.sendCtl_as hd ho.sameSender (ho.oneLit d) ho.sent .nak lane r.exp, ?_, ?_⟩
    · rw [State.rxAt_withRx]
    · exact (State.sendCtl_pending ..).trans ho.pending
  · exact absurd hn hne

theorem links_dataOld (hold : 2 ^ 47 ≤ (h.seq + 2 ^ 48 - (s.rxAt s.inp.id s.inp.n).exp) % 2 ^ 48) (d : Nat) (hd : OneLit s d s.inp.id) :
    let p := s.inp.id
    let lane := s.inp.n
    let r := s.rxAt p lane
    ∃ t, execData s = .next t ∧ sends s t [s.sealFlit p d .ack (s.fabric.colour d p).next r.exp lane []] ∧ (t.rxAt p lane).exp = r.exp ∧ t.pending = s.pending := by
  intro p lane r
  have ho := s.heardFlit_heardOnly p h hclo
  have hr : (s.heardFlit s.inp.id h).rxAt s.inp.id s.inp.n = r := ho.rxAt p lane
  have hno : h.seq = r.exp → ¬ ((s.heardFlit p h).fabric.partner p).buffer.length < 512 := fun he => by
    rw [he, show s.rxAt s.inp.id s.inp.n = r from rfl, Nat.add_sub_cancel_left] at hold
    omega
  have hsends := State.sendAck_as hd ho.sameSender (ho.oneLit d) ho.sent lane
  rw [ho.rxAt] at hsends
  refine ⟨_, execData_duplicate hl hup hh (by rw [hr]; exact hno) (by rw [hr]; exact hold), hsends, ?_, ?_⟩
  · rw [State.sendAck_rxAt, ho.rxAt]
  · exact (State.sendAck_pending ..).trans ho.pending

end

/-! ### O50 -/

/-- Settles O50: training, keys, lanes, and the go-back table row by row. -/
theorem links : Obligations.Links := by
  refine ⟨fun s p hp => ?_, fun key iv aad l hk => gcmOpen_gcmSeal hk iv aad l, fun s p lane hp hlane => ?_, fun s x p lane hl hp hlane => ?_⟩
  · subst hp
    obtain ⟨h1, h2⟩ := links_trainStart s
    exact ⟨h1, h2, links_calDone s, fun hst => ⟨links_rttDone s hst, links_echo s hst⟩, links_keysDone s, links_admitted s.fabric s.inp.id, links_keyUpdate s⟩
  · subst hp hlane
    obtain ⟨hrec1, hrec2⟩ := links_recalibrated s
    obtain ⟨hret1, hret2⟩ := links_retransmit s
    obtain ⟨hid1, hid2⟩ := links_idle s
    exact ⟨links_retuned s, links_pairs s, links_unpairs s, hrec1, hrec2, links_flitSend s, hret1, hret2, hid1, hid2, links_ackTimer s⟩
  · subst hp hlane
    refine ⟨links_deaf hl, links_discards s x s.inp.id s.inp.n, fun kind h hup hh => ⟨links_heard hl hup hh, fun h3 => ?_, fun h1 hclo _ => ?_⟩⟩
    · subst h3
      exact links_nak hl hup hh
    · subst h1
      rw [exec_data]
      exact ⟨links_dataInTurn hl hup hh hclo, links_dataOne hl hup hh hclo, links_dataGap hl hup hh hclo, links_dataOld hl hup hh hclo⟩

end Sys2Proof.Machine

/-! ### Home memory: what a write leaves (R31, R44) -/

namespace Sys2Proof.Machine
open Sys2Proof.Claims

theorem Region.isHbm_iff (ofs : Nat) : (region ofs).isHbm = true ↔ 0x100000000 ≤ ofs ∧ ofs < 0x200000000 := by
  unfold region
  split_ifs <;> simp only [Region.isHbm, Bool.false_eq_true, false_iff, true_iff] <;> omega

/-- Memory changes its kind at block boundaries only. -/
theorem isHbm_of_block {a b : Nat} (h : a / 16 = b / 16) : (paRegion a).isHbm = (paRegion b).isHbm := by
  rw [Bool.eq_iff_iff, paRegion, paRegion, Region.isHbm_iff, Region.isHbm_iff, paOfs, paOfs]
  omega

@[simp] theorem State.bytesAt_length (s : State) (a key n : Nat) : (s.bytesAt a key n).length = n := by
  induction n generalizing a with
  | zero => rfl
  | succ n ih => rw [State.bytesAt, List.length_cons, ih]

theorem State.bytesAt_getD (s : State) {n j : Nat} (a key : Nat) (hj : j < n) : (s.bytesAt a key n).getD j 0 = s.byteAt (a + j) key := by
  induction n generalizing a j with
  | zero => omega
  | succ n ih =>
    cases j with
    | zero => rfl
    | succ j => rw [State.bytesAt, List.getD_cons_succ, ih (a + 1) (by omega), Nat.add_assoc, Nat.add_comm 1 j]

theorem State.bytesAt_congr {s t : State} {a b key key' : Nat} {n : Nat} (h : ∀ j, j < n → t.byteAt (a + j) key = s.byteAt (b + j) key') :
    t.bytesAt a key n = s.bytesAt b key' n := by
  induction n generalizing a b with
  | zero => rfl
  | succ n ih =>
    rw [State.bytesAt, State.bytesAt, ih fun j hj => ?_]
    · have h0 : t.byteAt a key = s.byteAt b key' := h 0 (by omega)
      rw [h0]
    · rw [Nat.add_assoc, Nat.add_assoc, Nat.add_comm 1]
      exact h (j + 1) (by omega)

theorem State.bytesAt_eq {s : State} {a key : Nat} {l : List Byte} (h : ∀ j, j < l.length → s.byteAt (a + j) key = l.getD j 0) : s.bytesAt a key l.length = l := by
  refine List.ext_getElem (by simp) fun j h1 h2 => ?_
  have hj := h j h2
  rw [← s.bytesAt_getD a key h2, List.getD_eq_getElem _ _ h1, List.getD_eq_getElem _ _ h2] at hj
  exact hj

theorem State.sameMem.bytesAt {s t : State} (h : s.sameMem t) (a key n : Nat) : t.bytesAt a key n = s.bytesAt a key n :=
  State.bytesAt_congr fun _ _ => h _ _

/-- The bytes of a block are read from the block's own cells, its key and whether it has ever been written. -/
theorem State.byteAt_of_block {s t : State} {a : Nat} (hm : ∀ b, b / 16 = a / 16 → memGet t.mem b = memGet s.mem b) (hb : t.blockKey (a / 16) = s.blockKey (a / 16))
    (hh : Assoc.has (a / 16) t.hbmKey = Assoc.has (a / 16) s.hbmKey) (hk : t.keySlots = s.keySlots) (hu : t.boot = s.boot) (key : Nat) : t.byteAt a key = s.byteAt a key := by
  have held : t.heldBlock (a / 16) = s.heldBlock (a / 16) := List.map_congr_left fun j hj => hm _ (by have := List.mem_range.mp hj; omega)
  have cipher : t.cipherBlock (a / 16) = s.cipherBlock (a / 16) := by simp only [State.cipherBlock, hb, hh, held, hu]
  rw [State.byteAt, State.byteAt, hb, cipher, hm a rfl, State.keyOf, State.keyOf, hk]

theorem memGet_putList {m : List Host.Cell} (h : memWf m = true) (l : List Byte) (a b : Nat) :
    memGet (memPutList m a l) b = if a ≤ b ∧ b < a + l.length then l.getD (b - a) 0 else memGet m b := by
  induction l generalizing m a with
  | nil => rw [memPutList, List.length_nil, if_neg (by omega)]
  | cons v vs ih =>
    rw [memPutList, ih (memPut_wf h a v), memGet_put h, List.length_cons]
    by_cases hab : a = b
    · subst hab
      rw [if_neg (by omega), if_pos rfl, if_pos (by omega), Nat.sub_self, List.getD_cons_zero]
    · rw [if_neg hab]
      by_cases hin : a + 1 ≤ b ∧ b < a + 1 + vs.length
      · rw [if_pos hin, if_pos (by omega), show b - a = b - (a + 1) + 1 by omega, List.getD_cons_succ]
      · rw [if_neg hin, if_neg (by omega)]

theorem Assoc.has_put_ne {κ α : Type} [DecidableEq κ] {k j : κ} (h : k ≠ j) (v : α) : ∀ m : Assoc κ α, Assoc.has j (Assoc.put k v m) = Assoc.has j m
  | [] => by simp [Assoc.put, Assoc.has, h]
  | (i, x) :: m => by
    by_cases hi : i = k
    · subst hi
      simp [Assoc.put, Assoc.has, h]
    · simp [Assoc.put, Assoc.has, hi, Assoc.has_put_ne h v m]

@[simp] theorem State.rekey_keySlots (s : State) (block key : Nat) : (s.rekey block key).keySlots = s.keySlots := by rw [State.rekey]
@[simp] theorem State.rekey_boot (s : State) (block key : Nat) : (s.rekey block key).boot = s.boot := by rw [State.rekey]

/-- The read-modify-write of R44 leaves other blocks alone. -/
theorem State.byteAt_rekey_ne {s : State} (h : memWf s.mem = true) {block a : Nat} (ha : a / 16 ≠ block) (key k : Nat) : (s.rekey block key).byteAt a k = s.byteAt a k := by
  refine State.byteAt_of_block (fun b hb => ?_) ?_ ?_ ?_ ?_ k
  · rw [State.rekey, memGet_putList h, State.bytesAt_length, if_neg (by omega)]
  · exact Assoc.get_put_ne _ (Ne.symm ha) ..
  · exact Assoc.has_put_ne (Ne.symm ha) ..
  · exact s.rekey_keySlots ..
  · exact s.rekey_boot ..

theorem State.rekey_blockKey (s : State) (block key : Nat) : (s.rekey block key).blockKey block = some ((s.rekey block key).keyOf key) := by
  rw [State.keyOf, State.rekey_keySlots, State.blockKey, State.rekey]
  exact Assoc.get_put_self ..

theorem State.byteAt_plainKey {s : State} {a key : Nat} (h : s.blockKey (a / 16) = some (s.keyOf key)) : s.byteAt a key = memGet s.mem a := by
  rw [State.byteAt, if_pos h, ite_self]

theorem State.byteAt_rekey {s : State} (h : memWf s.mem = true) (block key a : Nat) : (s.rekey block key).byteAt a key = s.byteAt a key := by
  by_cases ha : a / 16 = block
  · subst ha
    have hb : 16 * (a / 16) ≤ a ∧ a < 16 * (a / 16) + 16 := by omega
    have read : (s.rekey (a / 16) key).byteAt a key = memGet (s.rekey (a / 16) key).mem a := State.byteAt_plainKey (s.rekey_blockKey (a / 16) key)
    rw [read, State.rekey, memGet_putList h, State.bytesAt_length, if_pos hb, State.bytesAt_getD s _ key (by omega), Nat.add_sub_cancel' hb.1]
  · exact State.byteAt_rekey_ne h ha ..

/-- A state in which one listed cell is set. -/
def State.setCell (s : State) (pa : Nat) (v : Byte) : State := { s with mem := memPut s.mem pa v }

/-- A byte write sets a cell, of a block that stands under the key or has been brought under it. -/
theorem State.putByte_cases (s : State) (pa key : Nat) (v : Byte) :
    (s.putByte pa key v = s.setCell pa v ∧ ((paRegion pa).isHbm = false ∨ s.blockKey (pa / 16) = some (s.keyOf key))) ∨
      s.putByte pa key v = (s.rekey (pa / 16) key).setCell pa v := by
  unfold State.putByte
  by_cases hr : (paRegion pa).isHbm = true
  · rw [if_pos hr]
    by_cases hk : s.blockKey (pa / 16) = some (s.keyOf key)
    · rw [if_pos hk]
      exact .inl ⟨rfl, .inr hk⟩
    · rw [if_neg hk]
      exact .inr rfl
  · rw [if_neg hr]
    exact .inl ⟨rfl, .inl (by simpa using hr)⟩

/-- A cell touches its block only, whatever the key slot read under. -/
theorem State.byteAt_setCell_block {s : State} (h : memWf s.mem = true) {pa a : Nat} (ha : a / 16 ≠ pa / 16) (v : Byte) (k : Nat) : (s.setCell pa v).byteAt a k = s.byteAt a k := by
  refine State.byteAt_of_block (fun b hb => ?_) ?_ ?_ ?_ ?_ k
  · exact memGet_put_ne h (by rintro rfl; exact ha hb.symm) v
  all_goals rfl

/-- Bytes of memory outside HBM, and those read under the key that their block stands under, are the cells themselves. -/
theorem State.byteAt_setCell {s : State} (h : memWf s.mem = true) {pa key : Nat} (hp : (paRegion pa).isHbm = false ∨ s.blockKey (pa / 16) = some (s.keyOf key)) (a : Nat) (v : Byte) :
    (s.setCell pa v).byteAt a key = if a = pa then v else s.byteAt a key := by
  by_cases hb : a / 16 = pa / 16
  · have read : ∀ u : State, u.blockKey (a / 16) = s.blockKey (a / 16) → u.keyOf key = s.keyOf key → u.byteAt a key = memGet u.mem a := by
      intro u hu hk
      rcases hp with hp | hp
      · rw [State.byteAt, isHbm_of_block hb, if_neg (by simp [hp])]
      · exact State.byteAt_plainKey (by rw [hu, hk, hb, hp])
    rw [read s rfl rfl, read (s.setCell pa v) rfl rfl, State.setCell, memGet_put h]
    simp only [eq_comm]
  · rw [if_neg fun e => hb (by rw [e]), State.byteAt_setCell_block h hb]

/-- A byte written under a key slot is read back under it, and every other byte as before (R44). -/
theorem State.byteAt_putByte_same {s : State} (h : memWf s.mem = true) (pa key a : Nat) (v : Byte) : (s.putByte pa key v).byteAt a key = if a = pa then v else s.byteAt a key := by
  rcases s.putByte_cases pa key v with ⟨e, hp⟩ | e
  · rw [e, State.byteAt_setCell h hp]
  · rw [e, State.byteAt_setCell (s.rekey_wf h ..) (.inr (s.rekey_blockKey (pa / 16) key)), State.byteAt_rekey h]

/-- A byte write touches its block only. -/
theorem State.byteAt_putByte_block {s : State} (h : memWf s.mem = true) {pa a : Nat} (ha : a / 16 ≠ pa / 16) (key k : Nat) (v : Byte) : (s.putByte pa key v).byteAt a k = s.byteAt a k := by
  rcases s.putByte_cases pa key v with ⟨e, -⟩ | e
  · rw [e, State.byteAt_setCell_block h ha]
  · rw [e, State.byteAt_setCell_block (s.rekey_wf h ..) ha, State.byteAt_rekey_ne h ha]

/-- Outside HBM a byte write touches that byte only. -/
theorem State.byteAt_putByte_plain {s : State} (h : memWf s.mem = true) {pa a : Nat} (hp : (paRegion pa).isHbm = false) (ha : a ≠ pa) (key k : Nat) (v : Byte) :
    (s.putByte pa key v).byteAt a k = s.byteAt a k := by
  rw [State.putByte, if_neg (by simp [hp])]
  exact (State.byteAt_setCell h (.inl hp) a v).trans (if_neg ha)

/-! #### Several bytes -/

theorem State.clus_modClus_ne (s : State) {c d : Nat} (h : d ≠ c) (f : Clus → Clus) : (s.modClus c f).clus d = s.clus d := Assoc.get_put_ne _ h.symm ..

theorem State.clus_modClus_eq (s : State) (c d : Nat) (f : Clus → Clus) : (s.modClus c f).clus d = if d = c then f (s.clus c) else s.clus d := by
  by_cases h : d = c
  · rw [if_pos h, h, State.clus_modClus]
  · rw [if_neg h, State.clus_modClus_ne s h]

theorem State.byteAt_putCells_of_forall_ne {s : State} (h : memWf s.mem = true) (key : Nat) {a : Nat} {l : List (Nat × Byte)} (ha : ∀ e ∈ l, e.1 ≠ a) :
    (s.putCells key l).byteAt a key = s.byteAt a key := by
  induction l generalizing s with
  | nil => rfl
  | cons e l ih =>
    rw [State.putCells, ih (s.putByte_wf h ..) fun x hx => ha x (List.mem_cons_of_mem _ hx), State.byteAt_putByte_same h, if_neg (ha e (List.mem_cons_self ..)).symm]

theorem State.byteAt_putCells_of_mem {s : State} (h : memWf s.mem = true) (key : Nat) {a : Nat} {v : Byte} {l : List (Nat × Byte)} (hnd : (l.map (·.1)).Nodup) (ha : (a, v) ∈ l) :
    (s.putCells key l).byteAt a key = v := by
  induction l generalizing s with
  | nil => cases ha
  | cons e l ih =>
    rw [List.map_cons, List.nodup_cons] at hnd
    rw [State.putCells]
    rcases List.mem_cons.mp ha with rfl | ha
    · rw [State.byteAt_putCells_of_forall_ne (s.putByte_wf h ..) key fun x hx hxa => hnd.1 (List.mem_map.mpr ⟨x, hx, hxa⟩), State.byteAt_putByte_same h, if_pos rfl]
    · exact ih (s.putByte_wf h ..) hnd.2 ha

theorem State.byteAt_putCells_block {s : State} (h : memWf s.mem = true) (key k : Nat) {a : Nat} {l : List (Nat × Byte)} (ha : ∀ e ∈ l, a / 16 ≠ e.1 / 16) :
    (s.putCells key l).byteAt a k = s.byteAt a k := by
  induction l generalizing s with
  | nil => rfl
  | cons e l ih =>
    rw [State.putCells, ih (s.putByte_wf h ..) fun x hx => ha x (List.mem_cons_of_mem _ hx), State.byteAt_putByte_block h (ha e (List.mem_cons_self ..))]

theorem State.byteAt_putCells_plain {s : State} (h : memWf s.mem = true) (key k : Nat) {a : Nat} {l : List (Nat × Byte)} (hp : ∀ e ∈ l, (paRegion e.1).isHbm = false)
    (ha : ∀ e ∈ l, a ≠ e.1) : (s.putCells key l).byteAt a k = s.byteAt a k := by
  induction l generalizing s with
  | nil => rfl
  | cons e l ih =>
    rw [State.putCells, ih (s.putByte_wf h ..) (fun x hx => hp x (List.mem_cons_of_mem _ hx)) fun x hx => ha x (List.mem_cons_of_mem _ hx),
      State.byteAt_putByte_plain h (hp e (List.mem_cons_self ..)) (ha e (List.mem_cons_self ..))]

/-- Listed memory and the keys of blocks change, and nothing else. -/
def State.MemOnly (s t : State) : Prop := t = { s with mem := t.mem, hbmKey := t.hbmKey }

theorem State.MemOnly.trans {s t u : State} (h : s.MemOnly t) (h' : t.MemOnly u) : s.MemOnly u := by
  unfold State.MemOnly at h h' ⊢
  rw [h] at h'
  exact h'

theorem State.setCell_memOnly (s : State) (pa : Nat) (v : Byte) : s.MemOnly (s.setCell pa v) := rfl
theorem State.rekey_memOnly (s : State) (block key : Nat) : s.MemOnly (s.rekey block key) := by rw [State.MemOnly, State.rekey]

theorem State.putByte_memOnly (s : State) (pa key : Nat) (v : Byte) : s.MemOnly (s.putByte pa key v) := by
  rcases s.putByte_cases pa key v with ⟨e, -⟩ | e <;> rw [e]
  · exact s.setCell_memOnly pa v
  · exact (s.rekey_memOnly ..).trans (State.setCell_memOnly ..)

theorem State.putCells_memOnly (s : State) (key : Nat) (l : List (Nat × Byte)) : s.MemOnly (s.putCells key l) := by
  induction l generalizing s with
  | nil => exact rfl
  | cons e l ih => exact (s.putByte_memOnly e.1 key e.2).trans (ih _)

/-- What a home write changes: memory, the caches, and of the cluster what is remembered of landings. -/
structure State.HomeOnly (s t : State) : Prop where
  rest : t = { s with mem := t.mem, hbmKey := t.hbmKey, cores := t.cores, clusters := t.clusters, gens := t.gens, poison := t.poison }
  clus : ∀ d, t.clus d = { s.clus d with unfenced := (t.clus d).unfenced }

theorem State.HomeOnly.refl (s : State) : s.HomeOnly s := ⟨rfl, fun _ => rfl⟩

theorem State.HomeOnly.trans {s t u : State} (h : s.HomeOnly t) (h' : t.HomeOnly u) : s.HomeOnly u := by
  refine ⟨?_, fun d => ?_⟩
  · have h1 := h.rest
    have h2 := h'.rest
    rw [h1] at h2
    exact h2
  · have h1 := h.clus d
    have h2 := h'.clus d
    rw [h1] at h2
    exact h2

theorem State.HomeOnly.of_same {s t : State} (h : t = { s with mem := t.mem, hbmKey := t.hbmKey, cores := t.cores, gens := t.gens, poison := t.poison }) : s.HomeOnly t := by
  have hc : t.clusters = s.clusters := by rw [h]
  refine ⟨by rw [hc]; exact h, fun d => ?_⟩
  rw [State.clus, hc]
  rfl

theorem State.MemOnly.homeOnly {s t : State} (h : s.MemOnly t) : s.HomeOnly t := by
  unfold State.MemOnly at h
  rw [h]
  exact .of_same rfl

theorem State.invalidate_homeOnly (s : State) (c : Nat) (except : Option Nat) (line : Nat) : s.HomeOnly (s.invalidate c except line) := .of_same rfl
theorem State.bumpGen_homeOnly (s : State) (pa : Nat) : s.HomeOnly (s.bumpGen pa) := .of_same rfl

theorem Clus.overwritten_eq (k : Clus) (cells : List (Nat × Byte)) : k.overwritten cells = { k with unfenced := (k.overwritten cells).unfenced } := by
  rw [Clus.overwritten]
  split <;> rfl

theorem State.modClus_homeOnly (s : State) (c : Nat) {f : Clus → Clus} (hf : ∀ k, f k = { k with unfenced := (f k).unfenced }) : s.HomeOnly (s.modClus c f) := by
  refine ⟨rfl, fun d => ?_⟩
  rw [State.clus_modClus_eq]
  split
  · rename_i hd
    rw [hd]
    exact hf _
  · rfl

theorem State.performWrite_homeOnly (s : State) (c : Nat) (except : Option Nat) (key : Nat) (cells : List (Nat × Byte)) : s.HomeOnly (s.performWrite c except key cells) := by
  cases cells with
  | nil => exact .refl s
  | cons e l =>
    have put := (s.invalidate_homeOnly c except (e.1 / 64)).trans ((s.invalidate c except (e.1 / 64)).putCells_memOnly key (e :: l)).homeOnly
    have later := (put.trans (State.bumpGen_homeOnly _ e.1)).trans (State.modClus_homeOnly _ c fun k => k.overwritten_eq (e :: l))
    rw [State.performWrite]
    split
    · refine later.trans (.of_same ?_)
      rfl
    · exact later

/-- A home write moves the bytes as its cells say; copies, generations and poison are no bytes. -/
theorem State.performWrite_byteAt (s : State) (c : Nat) (except : Option Nat) (key : Nat) (cells : List (Nat × Byte)) :
    ∃ u : State, u.mem = s.mem ∧ s.sameMem u ∧ (u.putCells key cells).sameMem (s.performWrite c except key cells) := by
  cases cells with
  | nil => exact ⟨s, rfl, fun _ _ => rfl, fun _ _ => rfl⟩
  | cons e l =>
    refine ⟨s.invalidate c except (e.1 / 64), rfl, fun _ _ => rfl, fun a k => ?_⟩
    have same : ∀ t u : State, t.mem = u.mem → t.hbmKey = u.hbmKey → t.keySlots = u.keySlots → t.boot = u.boot → t.byteAt a k = u.byteAt a k := fun _ _ h1 h2 h3 h4 => State.sameMem_of h1 h2 h3 h4 a k
    rw [State.performWrite]
    generalize (s.invalidate c except (e.1 / 64)).putCells key (e :: l) = v
    split <;> exact same _ _ rfl rfl rfl rfl

theorem State.byteAt_performWrite_of_mem {s : State} (h : memWf s.mem = true) (c : Nat) (except : Option Nat) {key a : Nat} {v : Byte} {cells : List (Nat × Byte)}
    (hnd : (cells.map (·.1)).Nodup) (ha : (a, v) ∈ cells) : (s.performWrite c except key cells).byteAt a key = v := by
  obtain ⟨u, hu, -, hw⟩ := s.performWrite_byteAt c except key cells
  rw [hw, State.byteAt_putCells_of_mem (by rw [hu]; exact h) key hnd ha]

theorem cellsAt_eq (a : Nat) (l : List Byte) : cellsAt a l = (List.range l.length).map (fun j => (a + j, l.getD j 0)) := by
  induction l generalizing a with
  | nil => rfl
  | cons v l ih =>
    rw [cellsAt, ih, List.length_cons, List.range_succ_eq_map, List.map_cons, List.map_map]
    congr 1
    refine List.map_congr_left fun j _ => ?_
    simp [Nat.add_assoc, Nat.add_comm 1]

theorem mem_cellsAt {a : Nat} {l : List Byte} {e : Nat × Byte} : e ∈ cellsAt a l ↔ ∃ j < l.length, e = (a + j, l.getD j 0) := by
  rw [cellsAt_eq]
  simp [eq_comm]

theorem cellsAt_nodup (a : Nat) (l : List Byte) : ((cellsAt a l).map (·.1)).Nodup := by
  rw [cellsAt_eq, List.map_map]
  exact List.nodup_range.map fun i j h => Nat.add_left_cancel h

/-- A home write of consecutive bytes of one line. -/
theorem State.performWrite_wrote {s : State} (h : memWf s.mem = true) (c : Nat) (except : Option Nat) (key : Nat) {pa : Nat} {l : List Byte} (hl : ∀ j < l.length, (pa + j) / 64 = pa / 64) :
    Wrote s (s.performWrite c except key (cellsAt pa l)) key pa l := by
  obtain ⟨u, hu, hsame, hw⟩ := s.performWrite_byteAt c except key (cellsAt pa l)
  have hwf : memWf u.mem = true := by rw [hu]; exact h
  refine ⟨State.bytesAt_eq fun j hj => ?_, fun a ha => ?_, fun a k ha => ?_, fun hp a k ha => ?_⟩
  · rw [hw, State.byteAt_putCells_of_mem hwf key (cellsAt_nodup ..) (mem_cellsAt.mpr ⟨j, hj, rfl⟩)]
  · rw [hw, State.byteAt_putCells_of_forall_ne hwf key fun e he => ?_, hsame]
    obtain ⟨j, hj, rfl⟩ := mem_cellsAt.mp he
    dsimp only
    omega
  · rw [hw, State.byteAt_putCells_block hwf key k fun e he => ?_, hsame]
    obtain ⟨j, hj, rfl⟩ := mem_cellsAt.mp he
    have := hl j hj
    dsimp only
    omega
  · rw [hw, State.byteAt_putCells_plain hwf key k (fun e he => ?_) fun e he => ?_, hsame]
    · obtain ⟨j, hj, rfl⟩ := mem_cellsAt.mp he
      have := hl j hj
      rw [Bool.eq_false_iff, Ne, paRegion, Region.isHbm_iff, paOfs] at hp ⊢
      dsimp only
      omega
    · obtain ⟨j, hj, rfl⟩ := mem_cellsAt.mp he
      dsimp only
      omega

end Sys2Proof.Machine

/-! ### Clusters and cores, read back -/

namespace Sys2Proof.Machine
open Sys2Proof.Claims

/-- A map in which the values that meet a test are rewritten; the default meets it only where the rewriting leaves it alone. -/
theorem Assoc.get_mapIf {κ α : Type} [DecidableEq κ] (d : α) (k : κ) (P : κ × α → Prop) [DecidablePred P] (g : κ × α → α) (hd : P (k, d) → g (k, d) = d) (m : Assoc κ α) :
    Assoc.get d k (m.map (fun e => if P e then (e.1, g e) else e)) = if P (k, Assoc.get d k m) then g (k, Assoc.get d k m) else Assoc.get d k m := by
  rw [Assoc.get_map d k _ fun e => by split <;> rfl]
  by_cases hk : Assoc.has k m = true
  · rw [if_pos hk]
    split <;> rfl
  · rw [if_neg hk, Assoc.get_of_not_has d k (by simpa using hk)]
    split
    · rename_i h
      exact (hd h).symm
    · rfl

theorem State.core_modCore_ne (s : State) {c n c' n' : Nat} (h : (c', n') ≠ (c, n)) (f : Core → Core) : (s.modCore c n f).core c' n' = s.core c' n' := Assoc.get_put_ne _ h.symm ..

theorem getLsbD_oneAt (n k : Nat) : (1#4096 <<< n).getLsbD k = decide (k < 4096 ∧ k = n) := by
  have h := getLsbD_allDead n k
  by_cases hk : k < 4096
  · simp only [BitVec.getLsbD_not, hk, decide_true, Bool.true_and, true_and] at h ⊢
    rw [← Bool.not_not ((1#4096 <<< n).getLsbD k), h, ← decide_not, decide_eq_decide, not_not]
  · simp [BitVec.getLsbD_of_ge _ _ (Nat.le_of_not_lt hk), hk]

/-- The bits set in a fold over a map: those of the keys that meet the test. -/
theorem getLsbD_foldl_set {α : Type} (P : Nat × α → Bool) {k : Nat} (hk : k < 4096) (l : List (Nat × α)) (b : BitVec 4096) :
    (l.foldl (fun b e => if P e then b ||| (1#4096 <<< e.1) else b) b).getLsbD k = (b.getLsbD k || l.any (fun e => P e && decide (e.1 = k))) := by
  induction l generalizing b with
  | nil => simp
  | cons e l ih =>
    rw [List.foldl_cons, ih, List.any_cons]
    by_cases h : P e
    · rw [if_pos h, BitVec.getLsbD_or, getLsbD_oneAt, h]
      simp only [hk, true_and, Bool.true_and, Bool.or_assoc, eq_comm]
    · simp [h]

theorem Assoc.has_iff {κ α : Type} [DecidableEq κ] (k : κ) : ∀ m : Assoc κ α, Assoc.has k m = true ↔ k ∈ m.map (·.1)
  | [] => by simp [Assoc.has]
  | (j, v) :: m => by
    have ih := Assoc.has_iff k m
    by_cases h : j = k
    · simp [Assoc.has, h]
    · rw [List.map_cons, List.mem_cons, ← ih]
      simp [Assoc.has, h, Ne.symm h]

theorem Assoc.any_key {κ α : Type} [DecidableEq κ] (d : α) (k : κ) (P : κ × α → Bool) (hd : P (k, d) = false) {m : Assoc κ α} (h : (m.map (·.1)).Nodup) :
    m.any (fun e => P e && decide (e.1 = k)) = P (k, Assoc.get d k m) := by
  induction m with
  | nil => exact hd.symm
  | cons e m ih =>
    obtain ⟨j, v⟩ := e
    rw [List.map_cons, List.nodup_cons] at h
    rw [List.any_cons, ih h.2]
    by_cases hj : j = k
    · subst hj
      have hno : Assoc.has j m = false := by
        rw [Bool.eq_false_iff]
        exact fun hj => h.1 ((Assoc.has_iff j m).mp hj)
      simp [Assoc.get, Assoc.get_of_not_has d j hno, hd]
    · simp [Assoc.get, hj]

end Sys2Proof.Machine

/-! ### O42: moving a cluster (R50) -/

namespace Sys2Proof.Machine
open Sys2Proof.Claims

theorem memGet_filter {m : List Host.Cell} (h : memWf m = true) (q : Nat → Bool) (a : Nat) : memGet (m.filter (fun e => q e.1)) a = if q a then memGet m a else 0 := by
  induction m with
  | nil => simp [memGet]
  | cons e t ih =>
    obtain ⟨b, v⟩ := e
    obtain ⟨-, ha, ht⟩ := memWf_cons.mp h
    by_cases hb : q b = true
    · rw [List.filter_cons_of_pos (by exact hb), memGet, memGet, ih ht]
      by_cases hba : b = a
      · subst hba
        simp [hb]
      · rw [if_neg hba, if_neg hba]
        by_cases hab : a < b
        · simp [hab]
        · simp [hab]
    · rw [List.filter_cons_of_neg (by exact hb), ih ht, memGet]
      by_cases hba : b = a
      · subst hba
        simp [hb]
      · rw [if_neg hba]
        by_cases hab : a < b
        · rw [if_pos hab, memGet_above ha (by omega)]
        · rw [if_neg hab]

theorem paOwner_eq_iff {pkg c a : Nat} (hc : c < 128) : paOwner a = paOwner (mkPa pkg c 0) ↔ paPkg a = pkg ∧ paClus a = c := by
  simp only [paOwner, mkPa, paPkg, paClus]
  omega

theorem ownStore_eq {s : State} {c : Nat} (hc : c < 128) (a : Nat) :
    ownStore s c a = (decide (paOwner a = paOwner (mkPa s.pkg c 0)) && (paOfs a < 0x400000 || (0x1000000 ≤ paOfs a && paOfs a < 0x1780000))) := by
  rw [ownStore, ← Bool.decide_and, decide_eq_decide.mpr (paOwner_eq_iff hc)]

theorem not_isHbm_of_ownStore {s : State} {c a : Nat} (h : ownStore s c a = true) : (paRegion a).isHbm = false := by
  rw [Bool.eq_false_iff, Ne, paRegion, Region.isHbm_iff]
  simp only [ownStore, Bool.and_eq_true, Bool.or_eq_true, decide_eq_true_eq] at h
  omega

theorem State.zeroStores_mem (s : State) {c : Nat} (hc : c < 128) : (s.zeroStores c).mem = s.mem.filter (fun e => !ownStore s c e.1) :=
  congrArg (s.mem.filter ·) (funext fun e => by rw [ownStore_eq hc])

/-- The stores of the cluster read 0, everything else as before. -/
theorem State.byteAt_zeroStores {s : State} (h : memWf s.mem = true) {c : Nat} (hc : c < 128) (a key : Nat) :
    (s.zeroStores c).byteAt a key = if ownStore s c a then 0 else s.byteAt a key := by
  have cell : ∀ b, memGet (s.zeroStores c).mem b = if ownStore s c b then 0 else memGet s.mem b := by
    intro b
    rw [State.zeroStores_mem s hc, memGet_filter h (fun b => !ownStore s c b)]
    cases ownStore s c b <;> rfl
  by_cases hr : (paRegion a).isHbm = true
  · have hno : ∀ b, b / 16 = a / 16 → ownStore s c b = false := by
      intro b hb
      rw [Bool.eq_false_iff]
      intro ho
      rw [← isHbm_of_block hb, not_isHbm_of_ownStore ho] at hr
      cases hr
    rw [hno a rfl, if_neg Bool.false_ne_true]
    refine State.byteAt_of_block (fun b hb => ?_) ?_ ?_ ?_ ?_ key
    · rw [cell, hno b hb, if_neg Bool.false_ne_true]
    all_goals rfl
  · rw [State.byteAt, if_neg hr, State.byteAt, if_neg hr, cell]

/-! #### The cluster that moves -/

theorem State.byteAt_moveClus {s : State} (h : memWf s.mem = true) {c : Nat} (hc : c < 128) (fn a key : Nat) :
    (s.moveClus c fn).byteAt a key = if ownStore s c a then 0 else s.byteAt a key :=
  (rfl : _ = (s.zeroStores c).byteAt a key).trans (State.byteAt_zeroStores h hc a key)

theorem State.moveClus_clus (s : State) (c fn : Nat) : (s.moveClus c fn).clus c =
    { s.clus c with tlb := [], rcache := [], unfenced := [], rroot := Vector.replicate 16 0, hroot := Vector.replicate 16 0, keyBits := s.fnKeys fn, sealRefuse := [], fn := fn } := by
  rw [State.moveClus, State.clus_modClus, State.zeroCaches, State.clus_modClus]
  rfl

theorem State.moveClus_clus_ne (s : State) {c d : Nat} (hd : d ≠ c) (fn : Nat) : (s.moveClus c fn).clus d = s.clus d := by
  rw [State.moveClus, State.clus_modClus_ne _ hd, State.zeroCaches, State.clus_modClus_ne _ hd]
  rfl

theorem State.moveClus_core (s : State) (c fn d n : Nat) :
    (s.moveClus c fn).core d n = if d = c then { s.core d n with l1 := [], sb := [], code := [], tlb := [] } else s.core d n :=
  Assoc.get_mapIf Core.reset (d, n) (fun e => e.1.1 = c) (fun e => { e.2 with l1 := [], sb := [], code := [], tlb := [] }) (fun _ => rfl) s.cores

theorem State.moveClus_tile (s : State) (c fn d n : Nat) : (s.moveClus c fn).tile d n = if d = c then { s.tile d n with acc := [], buf := [] } else s.tile d n :=
  Assoc.get_mapIf Tile.reset (d, n) (fun e => e.1.1 = c) (fun e => { e.2 with acc := [], buf := [] }) (fun _ => rfl) s.tiles

/-- The bitmap a cluster takes over: the slots its new function holds, but those that a running command has cleared. -/
theorem State.fnKeys_bit (s : State) (fn : Nat) (h : (s.keySlots.map (·.1)).Nodup) {k : Nat} (hk : k < 4096) :
    (s.fnKeys fn).getLsbD k = (s.holdsSlot k fn && !s.keyCleared fn k) := by
  have hf := getLsbD_foldl_set (fun e : Nat × KeySlot => decide (e.2.st ≠ .empty) && decide (e.2.fn = fn) && !s.keyCleared fn e.1) hk s.keySlots 0
  rw [State.fnKeys, hf, Assoc.any_key ({} : KeySlot) k _ rfl h, show (0 : BitVec 4096).getLsbD k = false from BitVec.getLsbD_zero, Bool.false_or]
  rfl

theorem extractLsb'_toNat_mod (v : DWord) (n : Nat) : (v.extractLsb' 0 n).toNat = v.toNat % 2 ^ n := by
  rw [BitVec.extractLsb'_toNat, Nat.shiftRight_zero]

/-- Settles O42: the write is ignored unless the physical function names another function for an idle cluster; then the four steps of R50 are taken. -/
theorem clusterMoves : Obligations.ClusterMoves := by
  intro s c fn hc hfn
  have hcode : (s.inp.val.extractLsb' 0 5).toNat = fn := (extractLsb'_toNat_mod ..).trans hfn.symm
  refine ⟨fun h => ?_, fun h0 hc128 h16 hidle hne hw _ => ?_⟩
  · rw [exec_clusterFnWrite, execClusterFnWrite, State.clusterFnWrite, hcode, ← hc]
    rcases h with h | h | h | h | h
    · rw [if_neg h]
    all_goals simp [h]
  · have moved := s.moveClus_clus c fn
    refine ⟨s.moveClus c fn, ?_, by rw [moved], by rw [moved], by rw [moved], by rw [moved], by rw [moved], by rw [moved], rfl, fun hnd k hk => ?_, fun a key ha => ?_, fun a key ha => ?_, fun n => ?_, fun n => ?_, fun d hd => ⟨s.moveClus_clus_ne hd fn, fun n => ?_⟩⟩
    · rw [exec_clusterFnWrite, execClusterFnWrite, if_pos h0, State.clusterFnWrite, hcode, ← hc, if_neg]
      simp [hidle, hne, Nat.not_le.mpr hc128, Nat.not_lt.mpr h16]
    · rw [Clus.holdsKey, moved]
      exact s.fnKeys_bit fn hnd hk
    · rw [State.byteAt_moveClus hw hc128, if_pos ha]
    · rw [State.byteAt_moveClus hw hc128, if_neg (by simp [ha])]
    · rw [State.moveClus_core, if_pos rfl]
      exact ⟨rfl, rfl⟩
    · rw [State.moveClus_tile, if_pos rfl]
      exact ⟨rfl, rfl⟩
    · rw [State.moveClus_core, if_neg hd, State.moveClus_tile, if_neg hd]
      exact ⟨rfl, rfl⟩

end Sys2Proof.Machine

/-! ### O53: the message of a page fault from a core beyond 127 (R372) -/

namespace Sys2Proof.Machine
open Sys2Proof.Claims

/-- A position whose core number does not fit the seven bits that the message of R372 has for it; nothing in `Walks` excludes it. -/
def farPos : Pos := ⟨0, 128, 0⟩

/-- A walk for the context there, about to read the root of address space 0. -/
def farWalk : Walk := ⟨1, 0, .read, 0, .load, [.ctx farPos], 4, 0, 0, none⟩

/-- The cluster runs a service context, and every root is 0. -/
def farFault : State :=
  { State.reset with ctxs := [(farPos, { Ctx.reset with st := .blocked .xlate })], clusters := [(0, { Clus.reset with svcStat := 1, walks := [farWalk] })], inp := { id := 1 } }

/-- The first words of the messages in the service mailbox. -/
def svcHeads (s : State) : List Word := (s.core 0 0).mail.map (fun m => m.body.getD 0 0)

theorem farFault_walks : Walks farFault farWalk farPos where
  here := by decide
  walker := by decide
  one := rfl
  ordinary := rfl
  waits := rfl
  traps := ⟨rfl, rfl, rfl, rfl⟩

/-- The core number and the token meet in bit 16 of the word, which the model sets once. -/
theorem svcHeads_farFault {t : State} (h : exec .tableWalkRead farFault = .next t) : svcHeads t = [0x10000] := by
  have hwalks := farFault_walks
  rw [exec_tableWalkRead, execTableWalkRead, hwalks.here] at h
  rw [← Host.Outcome.next.inj h]
  decide

/-- Refutes O53: `Faulted` adds the fields of the message where the model sets the token's bit, so that the two differ for a walk of core 128, which `Walks` admits: bit 16
carries in the sum. -/
theorem not_walking : ¬ Obligations.Walking := by
  rintro ⟨-, -, -, -, -, root, -⟩
  obtain ⟨t, ht, -, posted⟩ := (root farFault farWalk farPos farFault_walks rfl).1 (by decide)
  obtain ⟨mail, -⟩ := posted rfl (by decide) rfl rfl rfl (by decide)
  have heads : svcHeads t = [0x20000] := (congrArg (List.map (fun m : Msg => m.body.getD 0 0)) mail).trans (by decide)
  rw [svcHeads_farFault ht] at heads
  exact absurd heads (by decide)

end Sys2Proof.Machine

/-! ### O41: the key store (R43, R46 to R49, R292, R295) -/

namespace Sys2Proof.Machine
open Sys2Proof.Claims

/-! #### The window of a function -/

@[simp] theorem State.ksWin_setKsWin (s : State) (f : Nat) (w : KsWin) : (s.setKsWin f w).ksWin f = w := Assoc.get_put_self ..

theorem State.ksEnd_keySlots (s : State) (f : Nat) (err : Bool) : (s.ksEnd f err).keySlots = s.keySlots := rfl
theorem State.ksEnd_clusters (s : State) (f : Nat) (err : Bool) : (s.ksEnd f err).clusters = s.clusters := rfl
theorem State.ksEnd_nextKey (s : State) (f : Nat) (err : Bool) : (s.ksEnd f err).nextKey = s.nextKey := rfl

/-- A command's effect leaves the window to its end. -/
theorem State.ksEnd_ends {s t : State} {f : Nat} (h : t.ksWin f = s.ksWin f) (err : Bool) : KsEnds s (t.ksEnd f err) f err := by
  rw [KsEnds, State.ksEnd, State.ksWin_setKsWin, h]

theorem ksRefused_of_exec {s : State} {i : Instr} {f : Nat} (h : exec i s = .next (s.ksEnd f true)) : KsRefused s i f := ⟨_, h, rfl, State.ksEnd_ends rfl true⟩

theorem State.ksCommand_busy {s : State} {f : Nat} {r : KsCmd} (h : (s.ksWin f).run = some r) (ok : KsWin → Bool) (effect : KsWin → State → State) : s.ksCommand f ok effect = s := by
  simp only [State.ksCommand, h]

section
variable {s : State} {f : Nat} (hrun : (s.ksWin f).run = none) (hlive : s.fnLive f = true)
include hrun hlive

theorem State.ksCommand_takes {ok : KsWin → Bool} (h : ok (s.ksWin f) = true) (effect : KsWin → State → State) : s.ksCommand f ok effect = effect (s.ksWin f) s := by
  simp only [State.ksCommand, hrun, hlive, h, Bool.not_true, Bool.false_eq_true, if_false, if_true]

theorem State.ksCommand_refuses {ok : KsWin → Bool} (h : ok (s.ksWin f) = false) (effect : KsWin → State → State) : s.ksCommand f ok effect = s.ksEnd f true := by
  simp only [State.ksCommand, hrun, hlive, h, Bool.not_true, Bool.false_eq_true, if_false]

end

theorem KsWin.slotNo_eq (w : KsWin) : w.slotNo = w.slot.toNat % 4096 := extractLsb'_toNat_mod ..
theorem KsWin.argNo_eq (w : KsWin) : w.argNo = w.arg.toNat % 32 := extractLsb'_toNat_mod ..

theorem State.holdsSlot_iff (s : State) (n f : Nat) : s.holdsSlot n f = true ↔ (s.keySlot n).st ≠ .empty ∧ (s.keySlot n).fn = f := by
  simp only [State.holdsSlot, Bool.and_eq_true, decide_eq_true_eq]

theorem State.holdsSlot_eq_false {s : State} {n f : Nat} (h : ¬ ((s.keySlot n).st ≠ .empty ∧ (s.keySlot n).fn = f)) : s.holdsSlot n f = false :=
  Bool.eq_false_iff.mpr fun e => h ((s.holdsSlot_iff n f).mp e)

theorem unwrapFor_eq {f : Nat} {buf x : List Byte} (h : kwpUnwrap (wrapKey f) (buf.take 72) = some x) (hx : x.length = 64) : unwrapFor f buf = some x := by
  simp [unwrapFor, h, hx]

theorem unwrapFor_eq_none {f : Nat} {buf : List Byte} (h : ∀ x, kwpUnwrap (wrapKey f) (buf.take 72) = some x → x.length ≠ 64) : unwrapFor f buf = none := by
  rw [unwrapFor, Option.filter_eq_none_iff]
  exact fun x hx => by simpa using h x hx

/-! #### Slots -/

@[simp] theorem State.keySlot_setKeySlot (s : State) (n : Nat) (r : KeySlot) : (s.setKeySlot n r).keySlot n = r := Assoc.get_put_self ..

theorem State.onlySlot_of_put {s t : State} {n : Nat} {r : KeySlot} (h : t.keySlots = Assoc.put n r s.keySlots) : t.keySlot n = r ∧ OnlySlot s t n := by
  refine ⟨?_, fun k hk => ?_⟩
  · rw [State.keySlot, h, Assoc.get_put_self]
  · rw [State.keySlot, h, Assoc.get_put_ne _ hk.symm]
    rfl

theorem State.sealSlot_of_put {s t : State} {n : Nat} {r : SealSlot} (h : t.sealedSlots = Assoc.put n r s.sealedSlots) : t.sealSlot n = r ∧ ∀ k, k ≠ n → t.sealSlot k = s.sealSlot k := by
  refine ⟨?_, fun k hk => ?_⟩
  · rw [State.sealSlot, h, Assoc.get_put_self]
  · rw [State.sealSlot, h, Assoc.get_put_ne _ hk.symm]
    rfl

/-! #### What is set in every cluster of a function -/

/-- The clusters of a list that meet a test are rewritten, one by one. -/
def State.modEach (s : State) (P : Clus → Prop) [DecidablePred P] (g : Clus → Clus) (l : List Nat) : State := l.foldl (fun u c => if P (u.clus c) then u.modClus c g else u) s

theorem State.modEach_eq (s : State) (P : Clus → Prop) [DecidablePred P] (g : Clus → Clus) (l : List Nat) : s.modEach P g l = { s with clusters := (s.modEach P g l).clusters } := by
  induction l generalizing s with
  | nil => rfl
  | cons c l ih =>
    rw [State.modEach, List.foldl_cons]
    refine (ih _).trans ?_
    split <;> rfl

theorem State.modEach_clus (s : State) (P : Clus → Prop) [DecidablePred P] (g : Clus → Clus) {l : List Nat} (hl : l.Nodup) (d : Nat) :
    (s.modEach P g l).clus d = if d ∈ l ∧ P (s.clus d) then g (s.clus d) else s.clus d := by
  induction l generalizing s with
  | nil => simp [State.modEach]
  | cons c l ih =>
    rw [List.nodup_cons] at hl
    have step : (if P (s.clus c) then s.modClus c g else s).clus d = if d = c ∧ P (s.clus d) then g (s.clus d) else s.clus d := by
      by_cases hP : P (s.clus c)
      · rw [if_pos hP, State.clus_modClus_eq]
        by_cases hd : d = c
        · subst hd
          simp [hP]
        · simp [hd]
      · rw [if_neg hP, if_neg]
        rintro ⟨rfl, h⟩
        exact hP h
    rw [State.modEach, List.foldl_cons]
    refine (ih _ hl.2).trans ?_
    rw [step]
    by_cases hd : d = c
    · subst hd
      simp [hl.1]
    · simp [hd]

/-- A slot's bit in a bitmap, set or cleared. -/
def Clus.withKey (k : Clus) (slot : Nat) (on : Bool) : Clus := { k with keyBits := if on then k.keyBits ||| (1#4096 <<< slot) else k.keyBits &&& ~~~(1#4096 <<< slot) }

theorem Clus.holdsKey_withKey (k : Clus) {slot : Nat} (hs : slot < 4096) (on : Bool) (j : Nat) : (k.withKey slot on).holdsKey j = if j = slot then on else k.holdsKey j := by
  cases on
  · rw [Clus.holdsKey, Clus.withKey, if_neg Bool.false_ne_true, getLsbD_undead]
    by_cases hj : j = slot <;> simp [hj, Clus.holdsKey]
  · rw [Clus.holdsKey, Clus.withKey, if_pos rfl, BitVec.getLsbD_or, getLsbD_oneAt]
    by_cases hj : j = slot <;> simp [hj, hs, Clus.holdsKey]

theorem State.keyBit_modEach (s : State) (f slot : Nat) (on : Bool) :
    s.keyBit f slot on = s.modEach (fun k => (decide (k.fn = f) && decide (k.holdsKey slot ≠ on)) = true) (fun k => k.withKey slot on) (List.range 128) := rfl

theorem State.keyBit_eq (s : State) (f slot : Nat) (on : Bool) : s.keyBit f slot on = { s with clusters := (s.keyBit f slot on).clusters } := by
  rw [State.keyBit_modEach]
  exact s.modEach_eq ..

theorem State.keyBit_clus (s : State) (f slot : Nat) (on : Bool) (c : Nat) :
    (s.keyBit f slot on).clus c = if c < 128 ∧ (s.clus c).fn = f ∧ (s.clus c).holdsKey slot ≠ on then (s.clus c).withKey slot on else s.clus c := by
  rw [State.keyBit_modEach, State.modEach_clus _ _ _ List.nodup_range]
  simp only [List.mem_range, Bool.and_eq_true, decide_eq_true_eq]

/-- The bit is set or cleared where f's clusters have lost lines of their reader caches, and nothing else. -/
theorem State.keyBit_of_uncached {s u : State} {f : Nat} (hu : ∀ c, u.clus c = if (s.clus c).fn = f then { s.clus c with rcache := (u.clus c).rcache } else s.clus c)
    (hr : ∀ c, ∀ l ∈ (u.clus c).rcache, l ∈ (s.clus c).rcache) {n : Nat} (hn : n < 4096) (on : Bool) : KeyBit s (u.keyBit f n on) f n on := by
  intro c hc
  have hfn : (u.clus c).fn = (s.clus c).fn := by rw [hu c]; split <;> rfl
  have hkeys : (u.clus c).keyBits = (s.clus c).keyBits := by rw [hu c]; split <;> rfl
  have hholds : ∀ k, (u.clus c).holdsKey k = (s.clus c).holdsKey k := fun k => by rw [Clus.holdsKey, hkeys, Clus.holdsKey]
  rw [State.keyBit_clus, hfn, hholds]
  by_cases hf : (s.clus c).fn = f
  · have huc := hu c
    rw [if_pos hf] at huc ⊢
    by_cases hh : (s.clus c).holdsKey n = on
    · rw [if_neg fun h => h.2.2 hh, hholds]
      exact ⟨hh, fun k _ => hholds k, by rw [huc], hr c⟩
    · rw [if_pos ⟨hc, hf, hh⟩]
      refine ⟨by rw [Clus.holdsKey_withKey _ hn, if_pos rfl], fun k hk => by rw [Clus.holdsKey_withKey _ hn, if_neg hk, hholds], ?_, hr c⟩
      rw [Clus.withKey, huc]
  · have huc := hu c
    rw [if_neg hf] at huc ⊢
    rw [if_neg fun h => hf h.2.1, huc]

theorem KeyBit.congr {s s' t t' : State} (hs : s'.clusters = s.clusters) (ht : t'.clusters = t.clusters) {f n : Nat} {on : Bool} (h : KeyBit s t f n on) : KeyBit s' t' f n on := by
  have hs' : ∀ c, s'.clus c = s.clus c := fun c => by rw [State.clus, hs, State.clus]
  have ht' : ∀ c, t'.clus c = t.clus c := fun c => by rw [State.clus, ht, State.clus]
  intro c hc
  rw [hs', ht']
  exact h c hc

theorem State.keyBit_keyBit (s : State) (f : Nat) {n : Nat} (hn : n < 4096) (on : Bool) : KeyBit s (s.keyBit f n on) f n on :=
  State.keyBit_of_uncached (fun c => by split <;> rfl) (fun _ _ h => h) hn on

theorem State.uncacheKey_clus (s : State) (n f c : Nat) : (s.uncacheKey n f).clus c =
    if (s.clus c).fn = f then { s.clus c with rcache := (s.clus c).rcache.filter (fun l => !(l.key = n && s.ownHbm (64 * l.line))) } else s.clus c :=
  Assoc.get_mapIf Clus.reset c (fun e => e.2.fn = f) (fun e => { e.2 with rcache := e.2.rcache.filter (fun l => !(l.key = n && s.ownHbm (64 * l.line))) }) (fun _ => rfl) s.clusters

theorem State.grantKey_keySlots (s : State) (n f : Nat) (key : List Byte) : (s.grantKey n f key).keySlots = Assoc.put n ⟨.held, key, f, 0⟩ s.keySlots := by
  rw [State.grantKey, State.keyBit_eq]
  rfl

theorem State.grantKey_ksWin (s : State) (n f : Nat) (key : List Byte) (g : Nat) : (s.grantKey n f key).ksWin g = s.ksWin g := by
  rw [State.grantKey, State.keyBit_eq]
  rfl

theorem State.grantKey_nextKey (s : State) (n f : Nat) (key : List Byte) : (s.grantKey n f key).nextKey = s.nextKey := by
  rw [State.grantKey, State.keyBit_eq]
  rfl

theorem State.grantKey_keyBit (s : State) {n : Nat} (hn : n < 4096) (f : Nat) (key : List Byte) : KeyBit s (s.grantKey n f key) f n true := by
  have hclus : ∀ c, ((s.uncacheKey n f).setKeySlot n ⟨.held, key, f, 0⟩).clus c = (s.uncacheKey n f).clus c := fun _ => rfl
  refine State.keyBit_of_uncached (fun c => ?_) (fun c l hl => ?_) hn true
  · rw [hclus, s.uncacheKey_clus]
    split <;> rfl
  · rw [hclus, s.uncacheKey_clus] at hl
    split at hl
    · exact (List.mem_filter.mp hl).1
    · exact hl

/-- What the function's clusters have cached of this package's HBM under the slot is gone (R49). -/
theorem State.grantKey_rcache (s : State) (n f : Nat) (key : List Byte) {c : Nat} (hc : (s.clus c).fn = f) :
    ∀ l ∈ ((s.grantKey n f key).clus c).rcache, ¬ (l.key = n ∧ (paRegion (64 * l.line)).isHbm = true ∧ paPkg (64 * l.line) = s.pkg) := by
  have hr : ((s.grantKey n f key).clus c).rcache = ((s.uncacheKey n f).clus c).rcache := by
    rw [State.grantKey, State.keyBit_clus]
    split <;> rfl
  rw [hr, State.uncacheKey_clus, if_pos hc]
  rintro l hl ⟨hk, hh, hp⟩
  have hb := (List.mem_filter.mp hl).2
  simp [State.ownHbm, hk, hh, hp] at hb

/-- A slot granted to a function whose command ends so. -/
theorem State.grantKey_ends (s : State) (m : Nat) {n f : Nat} (hn : n < 4096) (key : List Byte) {t : State} (ht : t = (({ s with nextKey := m } : State).grantKey n f key).ksEnd f false) :
    t.keySlot n = ⟨.held, key, f, 0⟩ ∧ t.nextKey = m ∧ OnlySlot s t n ∧ KeyBit s t f n true ∧ KsEnds s t f false := by
  have hslots : t.keySlots = Assoc.put n ⟨.held, key, f, 0⟩ s.keySlots := by rw [ht, State.ksEnd_keySlots, State.grantKey_keySlots]
  obtain ⟨h1, h2⟩ := State.onlySlot_of_put hslots
  refine ⟨h1, ?_, h2, ?_, ?_⟩
  · rw [ht, State.ksEnd_nextKey, State.grantKey_nextKey]
  · exact KeyBit.congr rfl (by rw [ht, State.ksEnd_clusters]) (State.grantKey_keyBit { s with nextKey := m } hn f key)
  · rw [ht]
    exact State.ksEnd_ends (State.grantKey_ksWin { s with nextKey := m } n f key f) false

end Sys2Proof.Machine

/-! #### Dirty lines go home first (R48, R49) -/

namespace Sys2Proof.Machine
open Sys2Proof.Claims

theorem foldl_eq_self {α β : Type} {f : α → β → α} {s : α} : ∀ {l : List β}, (∀ e ∈ l, f s e = s) → l.foldl f s = s
  | [], _ => rfl
  | e :: l, h => by rw [List.foldl_cons, h e (List.mem_cons_self ..), foldl_eq_self fun x hx => h x (List.mem_cons_of_mem _ hx)]

theorem State.cleanSlot_empty {s : State} (h : ∀ e ∈ s.cores, e.2.l1 = []) (f n : Nat) : s.cleanSlot f n = s := by
  refine foldl_eq_self fun e he => ?_
  rw [h e he]
  split <;> rfl

/-- A line that leaves the L1 has put its dirty bytes home. -/
theorem State.evictLine_byteAt {s : State} (h : memWf s.mem = true) (c m : Nat) {l : L1Line} (hd : l.dirty ≠ 0) {j : Nat} (hj : j < 64) (hb : l.dirty.getLsbD j = true) :
    (s.evictLine c m l).byteAt (64 * l.line + j) l.key = l.bytes.getD j 0 := by
  rw [State.evictLine, if_neg hd]
  refine State.byteAt_performWrite_of_mem h c (some m) ?_ ?_
  · rw [List.map_map]
    exact (List.nodup_range.filter _).map fun i k hik => Nat.add_left_cancel hik
  · exact List.mem_map.mpr ⟨j, List.mem_filter.mpr ⟨List.mem_range.mpr hj, hb⟩, rfl⟩

theorem State.evictLine_fn (s : State) (c m : Nat) (l : L1Line) (d : Nat) : ((s.evictLine c m l).clus d).fn = (s.clus d).fn := by
  rw [State.evictLine, State.modCore_clus]
  split
  · rfl
  · rw [State.writeBack, State.modCore_clus, (s.performWrite_homeOnly ..).clus d]

/-- A function's only core holds one line, under the slot. -/
theorem State.cleanSlot_one {s : State} {c m : Nat} {x : Core} {l : L1Line} (hcores : s.cores = [((c, m), x)]) (hl : x.l1 = [l]) {f : Nat} (hf : (s.clus c).fn = f)
    (hown : s.ownHbm (64 * l.line) = true) : s.cleanSlot f l.key = if l.dirty = 0 then s else s.evictLine c m l := by
  rw [State.cleanSlot, hcores, List.foldl_cons, List.foldl_nil, if_pos hf, hl]
  by_cases hd : l.dirty = 0
  · rw [if_pos hd, List.filter_cons_of_neg (by simp [hd]), List.filter_nil, List.foldl_nil]
  · rw [if_neg hd, List.filter_cons_of_pos (by simpa [hown] using hd), List.filter_nil, List.foldl_cons, List.foldl_nil]

end Sys2Proof.Machine

/-! #### The commands -/

namespace Sys2Proof.Machine
open Sys2Proof.Claims

/-- The window of a command that waits. -/
def KsWin.waiting (w : KsWin) (r : KsCmd) : KsWin := { w with run := some r, done := false, err := false }

theorem State.post_ksWin (s : State) (i : Instr) (inp : Inp) (f : Nat) : (s.post i inp).ksWin f = s.ksWin f := rfl

/-- What steps 1 of R48 and R49 leave: the slot's bit cleared, the command BUSY, and the look at the accesses to come. -/
theorem State.keyBit_waits (s : State) (f g : Nat) {n : Nat} (hn : n < 4096) (w : KsWin) (i : Instr) (inp : Inp) {t : State} (ht : t = ((s.keyBit g n false).setKsWin f w).post i inp) :
    t.keySlots = s.keySlots ∧ KeyBit s t g n false ∧ t.ksWin f = w ∧ Sched.event i inp ∈ t.pending := by
  have hslots : (s.keyBit g n false).keySlots = s.keySlots := by rw [State.keyBit_eq]
  have hset : ∀ u : State, (u.setKsWin f w).keySlots = u.keySlots ∧ (u.setKsWin f w).clusters = u.clusters := fun u => ⟨rfl, rfl⟩
  refine ⟨?_, ?_, ?_, ?_⟩
  · rw [ht, State.post_keySlots, (hset _).1, hslots]
  · exact KeyBit.congr rfl (by rw [ht, State.post_clusters, (hset _).2]) (s.keyBit_keyBit g hn false)
  · rw [ht, State.post_ksWin, State.ksWin_setKsWin]
  · rw [ht]
    exact List.mem_append_right _ (List.mem_singleton_self _)

section
variable {s : State} {f n a : Nat} (hf : f = s.inp.fn) (hrun : (s.ksWin f).run = none) (hlive : s.fnLive f = true) (hn : (s.ksWin f).slotNo = n)
include hf hrun hlive hn

theorem keyStore_create :
    ((s.keySlot n).st = .empty → ∃ t, exec .ksCreate s = .next t ∧ t.keySlot n = ⟨.held, randomKey s.nextKey, f, 0⟩ ∧ t.nextKey = s.nextKey + 1 ∧ OnlySlot s t n ∧ KeyBit s t f n true ∧ KsEnds s t f false) ∧
    (¬ (s.keySlot n).st = .empty → KsRefused s .ksCreate f) := by
  have hlt : n < 4096 := by rw [← hn, KsWin.slotNo_eq]; omega
  refine ⟨fun h => ⟨_, ?_, s.grantKey_ends (s.nextKey + 1) hlt (randomKey s.nextKey) rfl⟩, fun h => ksRefused_of_exec ?_⟩
  · rw [exec_ksCreate, execKsCreate, State.ksCreate, ← hf, State.ksCommand_takes hrun hlive (by simp [hn, h]), hn]
  · rw [exec_ksCreate, execKsCreate, State.ksCreate, ← hf, State.ksCommand_refuses hrun hlive (by simp [hn, h])]

theorem keyStore_import :
    (∀ x, (s.keySlot n).st = .empty → kwpUnwrap (wrapKey f) (s.inp.bytes.take 72) = some x → x.length = 64 →
      ∃ t, exec .ksImport s = .next t ∧ t.keySlot n = ⟨.held, x, f, 0⟩ ∧ OnlySlot s t n ∧ KeyBit s t f n true ∧ KsEnds s t f false) ∧
    (¬ (s.keySlot n).st = .empty ∨ (∀ x, kwpUnwrap (wrapKey f) (s.inp.bytes.take 72) = some x → x.length ≠ 64) → KsRefused s .ksImport f) := by
  have hlt : n < 4096 := by rw [← hn, KsWin.slotNo_eq]; omega
  refine ⟨fun x h hx h64 => ?_, fun h => ksRefused_of_exec ?_⟩
  · have hu := unwrapFor_eq hx h64
    obtain ⟨h1, -, h2⟩ := s.grantKey_ends s.nextKey hlt x rfl
    refine ⟨_, ?_, h1, h2⟩
    rw [exec_ksImport, execKsImport, State.ksImport, ← hf, State.ksCommand_takes hrun hlive (by simp [hn, h, hu]), hn, hu]
    rfl
  · rw [exec_ksImport, execKsImport, State.ksImport, ← hf, State.ksCommand_refuses hrun hlive]
    rcases h with h | h
    · simp [hn, h]
    · simp [unwrapFor_eq_none h]

theorem keyStore_export :
    ((s.keySlot n).st ≠ .empty ∧ (s.keySlot n).fn = f → ∃ t, exec .ksExport s = .next t ∧
      t = { s with host := s.host ++ [.write f (s.ksWin f).addr (kwpWrap (wrapKey f) (s.keySlot n).key)], ksWins := t.ksWins } ∧ KsEnds s t f false) ∧
    (¬ ((s.keySlot n).st ≠ .empty ∧ (s.keySlot n).fn = f) → KsRefused s .ksExport f) := by
  refine ⟨fun h => ?_, fun h => ksRefused_of_exec ?_⟩
  · rw [exec_ksExport, execKsExport, State.ksExport, ← hf, State.ksCommand_takes hrun hlive (by rw [hn]; exact (s.holdsSlot_iff n f).mpr h), hn]
    exact ⟨_, rfl, rfl, State.ksEnd_ends rfl false⟩
  · rw [exec_ksExport, execKsExport, State.ksExport, ← hf, State.ksCommand_refuses hrun hlive (by rw [hn]; exact State.holdsSlot_eq_false h)]

theorem keyStore_offer (ha : (s.ksWin f).argNo = a) :
    ((s.keySlot n).st ≠ .empty ∧ (s.keySlot n).fn = f → a ≤ 16 →
      ∃ t, exec .ksOffer s = .next t ∧ t.keySlot n = ⟨.offered, (s.keySlot n).key, f, a⟩ ∧ OnlySlot s t n ∧ t.clusters = s.clusters ∧ KsEnds s t f false) ∧
    (¬ ((s.keySlot n).st ≠ .empty ∧ (s.keySlot n).fn = f) ∨ 16 < a → KsRefused s .ksOffer f) := by
  refine ⟨fun h h16 => ?_, fun h => ksRefused_of_exec ?_⟩
  · obtain ⟨h1, h2⟩ := State.onlySlot_of_put (t := (s.setKeySlot n { s.keySlot n with st := .offered, dest := a }).ksEnd f false) rfl
    refine ⟨_, ?_, h1.trans (by rw [← h.2]), h2, rfl, State.ksEnd_ends rfl false⟩
    rw [exec_ksOffer, execKsOffer, State.ksOffer, ← hf, State.ksCommand_takes hrun hlive (by rw [hn, ha, (s.holdsSlot_iff n f).mpr h]; simpa using h16), hn, ha]
  · rw [exec_ksOffer, execKsOffer, State.ksOffer, ← hf, State.ksCommand_refuses hrun hlive]
    rw [hn, ha]
    rcases h with h | h
    · rw [State.holdsSlot_eq_false h, Bool.false_and]
    · rw [decide_eq_false (Nat.not_le.mpr h), Bool.and_false]

theorem keyStore_accept (ha : (s.ksWin f).argNo = a) :
    (a ≤ 16 → (s.keySlot n).st = .offered → (s.keySlot n).fn = a → (s.keySlot n).dest = f → (∀ e ∈ s.cores, e.2.l1 = []) → ∃ t, exec .ksAccept s = .next t ∧ t.keySlots = s.keySlots ∧
      KeyBit s t a n false ∧ t.ksWin f = { s.ksWin f with run := some ⟨5, n, a⟩, done := false, err := false } ∧ Sched.event .ksAcceptDrained { fn := f } ∈ t.pending) ∧
    (16 < a ∨ (s.keySlot n).st ≠ .offered ∨ (s.keySlot n).fn ≠ a ∨ (s.keySlot n).dest ≠ f → KsRefused s .ksAccept f) := by
  have hlt : n < 4096 := by rw [← hn, KsWin.slotNo_eq]; omega
  refine ⟨fun h16 hst hfn hdest hl1 => ⟨_, ?_, s.keyBit_waits f a hlt _ _ _ rfl⟩, fun h => ksRefused_of_exec ?_⟩
  · rw [exec_ksAccept, execKsAccept, State.ksAccept, ← hf, State.ksCommand_takes hrun hlive (by simp [hn, ha, h16, hst, hfn, hdest]), hn, ha, State.cleanSlot_empty hl1]
  · rw [exec_ksAccept, execKsAccept, State.ksAccept, ← hf, State.ksCommand_refuses hrun hlive]
    rw [hn, ha]
    rcases h with h | h | h | h <;> simp [h]

theorem keyStore_erase :
    ((s.keySlot n).st ≠ .empty ∧ (s.keySlot n).fn = f → (∀ e ∈ s.cores, e.2.l1 = []) → ∃ t, exec .ksErase s = .next t ∧ t.keySlots = s.keySlots ∧ KeyBit s t f n false ∧
      t.ksWin f = { s.ksWin f with run := some ⟨6, n, 0⟩, done := false, err := false } ∧ Sched.event .ksEraseDrained { fn := f } ∈ t.pending) ∧
    (∀ c m x l, (s.keySlot n).st ≠ .empty ∧ (s.keySlot n).fn = f → memWf s.mem = true → s.cores = [((c, m), x)] → (s.clus c).fn = f → c < 128 → x.l1 = [l] → l.key = n →
      (paRegion (64 * l.line)).isHbm = true → paPkg (64 * l.line) = s.pkg → ∃ t, exec .ksErase s = .next t ∧ (t.clus c).holdsKey n = false ∧
        ∀ j, j < 64 → l.dirty.getLsbD j = true → t.byteAt (64 * l.line + j) n = l.bytes.getD j 0) ∧
    (¬ ((s.keySlot n).st ≠ .empty ∧ (s.keySlot n).fn = f) → KsRefused s .ksErase f) := by
  have hlt : n < 4096 := by rw [← hn, KsWin.slotNo_eq]; omega
  have takes : (s.keySlot n).st ≠ .empty ∧ (s.keySlot n).fn = f → exec .ksErase s =
      .next ((((s.cleanSlot f n).keyBit f n false).setKsWin f ((s.ksWin f).waiting ⟨6, n, 0⟩)).post .ksEraseDrained { fn := f }) := fun h => by
    rw [exec_ksErase, execKsErase, State.ksErase, ← hf, State.ksCommand_takes hrun hlive (by rw [hn]; exact (s.holdsSlot_iff n f).mpr h), hn]
    rfl
  refine ⟨fun h hl1 => ?_, fun c m x l h hwf hcores hc hc128 hl hkey hhbm hpkg => ⟨_, takes h, ?_, fun j hj hb => ?_⟩, fun h => ksRefused_of_exec ?_⟩
  · rw [takes h, State.cleanSlot_empty hl1]
    exact ⟨_, rfl, s.keyBit_waits f f hlt _ _ _ rfl⟩
  · obtain ⟨-, hbit, -⟩ := (s.cleanSlot f n).keyBit_waits f f hlt ((s.ksWin f).waiting ⟨6, n, 0⟩) .ksEraseDrained { fn := f } rfl
    have hfn : ((s.cleanSlot f n).clus c).fn = f := by
      subst hkey
      rw [State.cleanSlot_one hcores hl hc (by simp [State.ownHbm, hhbm, hpkg])]
      split
      · exact hc
      · rw [State.evictLine_fn, hc]
    have hb := hbit c hc128
    rw [if_pos hfn] at hb
    exact hb.1
  · have hd : l.dirty ≠ 0 := by
      rintro h0
      simp [h0] at hb
    have bytes : ∀ (u : State) (w : KsWin) (i : Instr) (inp : Inp) (pa k : Nat), (((u.keyBit f n false).setKsWin f w).post i inp).byteAt pa k = u.byteAt pa k := by
      intro u w i inp pa k
      have hk : u.sameMem (u.keyBit f n false) := State.sameMem_of (State.keyBit_frame ..).1 (by rw [State.keyBit_eq]) (by rw [State.keyBit_eq]) (State.keyBit_frame ..).2
      generalize u.keyBit f n false = v at hk ⊢
      exact hk pa k
    rw [bytes]
    subst hkey
    rw [State.cleanSlot_one hcores hl hc (by simp [State.ownHbm, hhbm, hpkg]), if_neg hd]
    exact State.evictLine_byteAt hwf c m hd hj hb
  · rw [exec_ksErase, execKsErase, State.ksErase, ← hf, State.ksCommand_refuses hrun hlive (by rw [hn]; exact State.holdsSlot_eq_false h)]

end

end Sys2Proof.Machine

/-! #### Sealed slots (R291, R292, R295) -/

namespace Sys2Proof.Machine
open Sys2Proof.Claims

theorem State.sealRecord_held {s : State} {f n : Nat} {buf : List Byte} {r : SealSlot} (h : s.sealRecord f n buf = some r) : r.held = true ∧ r.fn = f := by
  delta State.sealRecord at h
  generalize s.sealBody n buf = body at h
  cases body with
  | none => cases h
  | some b =>
    obtain ⟨-, h⟩ := Option.ite_none_left_eq_some.mp h
    exact Option.some.inj h ▸ ⟨rfl, rfl⟩

/-- A sealed slot that a cluster refuses, or refuses no more. -/
def Clus.refusing (k : Clus) (slot : Nat) (on : Bool) : Clus := { k with sealRefuse := if on then k.sealRefuse ++ [slot] else k.sealRefuse.filter (· ≠ slot) }

theorem State.sealRefusal_modEach (s : State) (f slot : Nat) (on : Bool) :
    s.sealRefusal f slot on = s.modEach (fun k => (decide (k.fn = f) && decide (k.sealRefuse.contains slot ≠ on)) = true) (fun k => k.refusing slot on) (List.range 128) := rfl

theorem State.sealRefusal_eq (s : State) (f slot : Nat) (on : Bool) : s.sealRefusal f slot on = { s with clusters := (s.sealRefusal f slot on).clusters } := by
  rw [State.sealRefusal_modEach]
  exact s.modEach_eq ..

/-- Every cluster of the function refuses new sealed fetches under the slot. -/
theorem State.mem_sealRefusal (s : State) {f c : Nat} (hc : c < 128) (hf : (s.clus c).fn = f) (slot : Nat) : slot ∈ ((s.sealRefusal f slot true).clus c).sealRefuse := by
  rw [State.sealRefusal_modEach, State.modEach_clus _ _ _ List.nodup_range]
  by_cases hm : slot ∈ (s.clus c).sealRefuse
  · rw [if_neg (by simp [hm])]
    exact hm
  · rw [if_pos (by simp [hc, hf, hm]), Clus.refusing, if_pos rfl]
    exact List.mem_append_right _ (List.mem_singleton_self _)

section
variable {s : State} {f n : Nat} (hf : f = s.inp.fn) (hrun : (s.ksWin f).run = none) (hlive : s.fnLive f = true) (hn : (s.ksWin f).slotNo = n)
include hf hrun hlive hn

theorem keyStore_simport :
    (∀ r, n ≤ 0xFF → (s.sealSlot n).held = false → s.sealRecord f n s.inp.bytes = some r →
      ∃ t, exec .ksSimport s = .next t ∧ t.sealSlot n = r ∧ r.held = true ∧ r.fn = f ∧ (∀ j, j ≠ n → t.sealSlot j = s.sealSlot j) ∧ KsEnds s t f false) ∧
    (0xFF < n ∨ (s.sealSlot n).held = true ∨ s.sealRecord f n s.inp.bytes = none → KsRefused s .ksSimport f) := by
  refine ⟨fun r hle hheld hr => ?_, fun h => ksRefused_of_exec ?_⟩
  · obtain ⟨hrh, hrf⟩ := State.sealRecord_held hr
    obtain ⟨h1, h2⟩ := State.sealSlot_of_put (s := s) (t := ({ s with sealedSlots := Assoc.put n r s.sealedSlots } : State).ksEnd f false) rfl
    refine ⟨_, ?_, h1, hrh, hrf, h2, State.ksEnd_ends rfl false⟩
    rw [exec_ksSimport, execKsSimport, State.ksSimport, ← hf, State.ksCommand_takes hrun hlive (by rw [hn, hheld, hr]; simpa using hle), hn, hr]
    rfl
  · rw [exec_ksSimport, execKsSimport, State.ksSimport, ← hf, State.ksCommand_refuses hrun hlive]
    rw [hn]
    rcases h with h | h | h
    · rw [decide_eq_false (Nat.not_le.mpr h), Bool.false_and, Bool.false_and]
    · simp [h]
    · simp [h]

theorem keyStore_serase :
    (n ≤ 0xFF → (s.sealSlot n).held = true → (s.sealSlot n).fn = f → ∃ t, exec .ksSerase s = .next t ∧ t.sealedSlots = s.sealedSlots ∧
      (∀ c, c < 128 → (s.clus c).fn = f → n ∈ (t.clus c).sealRefuse) ∧ t.ksWin f = { s.ksWin f with run := some ⟨8, n, 0⟩, done := false, err := false } ∧
      Sched.event .ksSeraseDrained { id := n } ∈ t.pending) ∧
    (0xFF < n ∨ (s.sealSlot n).held = false ∨ (s.sealSlot n).fn ≠ f → KsRefused s .ksSerase f) := by
  refine ⟨fun hle hheld hfn => ?_, fun h => ksRefused_of_exec ?_⟩
  · rw [exec_ksSerase, execKsSerase, State.ksSerase, ← hf, State.ksCommand_takes hrun hlive (by rw [hn, hheld, hfn]; simpa using hle), hn]
    have hslots : (s.sealRefusal f n true).sealedSlots = s.sealedSlots := by rw [State.sealRefusal_eq]
    have hclus := fun c hc hcf => s.mem_sealRefusal (c := c) (f := f) hc hcf n
    generalize s.sealRefusal f n true = u at hslots hclus
    exact ⟨_, rfl, hslots, hclus, State.ksWin_setKsWin .., List.mem_append_right _ (List.mem_singleton_self _)⟩
  · rw [exec_ksSerase, execKsSerase, State.ksSerase, ← hf, State.ksCommand_refuses hrun hlive]
    rw [hn]
    rcases h with h | h | h
    · rw [decide_eq_false (Nat.not_le.mpr h), Bool.false_and, Bool.false_and]
    · simp [h]
    · simp [h]

end

/-! #### The commands that have waited -/

theorem State.ksDrained_waits {s : State} {code n a : Nat} {holder : KsCmd → Nat} (hrun : (s.ksWin s.inp.fn).run = some ⟨code, n, a⟩) (h : s.keyInUse (holder ⟨code, n, a⟩) n = true)
    (ev : Instr) (effect : KsCmd → State → State) : s.ksDrained code ev holder effect = s.post ev s.inp := by
  simp only [State.ksDrained, hrun, h, ne_eq, not_true, if_false, if_true]

theorem State.ksDrained_ends {s : State} {code n a : Nat} {holder : KsCmd → Nat} (hrun : (s.ksWin s.inp.fn).run = some ⟨code, n, a⟩) (h : s.keyInUse (holder ⟨code, n, a⟩) n = false)
    (ev : Instr) (effect : KsCmd → State → State) : s.ksDrained code ev holder effect = effect ⟨code, n, a⟩ s := by
  simp only [State.ksDrained, hrun, h, ne_eq, not_true, if_false, Bool.false_eq_true]

theorem keyStore_acceptDrained (s : State) (f n a : Nat) (hf : f = s.inp.fn) (hrun : (s.ksWin f).run = some ⟨5, n, a⟩) (hn : n < 4096) :
    (s.keyInUse a n = true → ∃ t, exec .ksAcceptDrained s = .next t ∧ t = { s with pending := s.pending ++ [.event .ksAcceptDrained s.inp] }) ∧
    (s.keyInUse a n = false → (s.keySlot n).st = .offered → (s.keySlot n).fn = a → (s.keySlot n).dest = f →
      ∃ t, exec .ksAcceptDrained s = .next t ∧ t.keySlot n = ⟨.held, (s.keySlot n).key, f, 0⟩ ∧ OnlySlot s t n ∧ KeyBit s t f n true ∧ KsEnds s t f false ∧
        ∀ c, (s.clus c).fn = f → ∀ l ∈ (t.clus c).rcache, ¬ (l.key = n ∧ (paRegion (64 * l.line)).isHbm = true ∧ paPkg (64 * l.line) = s.pkg)) := by
  subst hf
  refine ⟨fun h => ⟨_, ?_, rfl⟩, fun h hst hfn hdest => ?_⟩
  · rw [exec_ksAcceptDrained, execKsAcceptDrained, State.ksDrained_waits (holder := fun r => r.arg) hrun h]
    rfl
  · obtain ⟨h1, -, h2, h3, h4⟩ := s.grantKey_ends s.nextKey hn (s.keySlot n).key rfl
    refine ⟨_, ?_, h1, h2, h3, h4, fun c hc => ?_⟩
    · rw [exec_ksAcceptDrained, execKsAcceptDrained, State.ksDrained_ends (holder := fun r => r.arg) hrun h, if_pos (by simp [hst, hfn, hdest])]
    · have hr := s.grantKey_rcache n s.inp.fn (s.keySlot n).key hc
      generalize s.grantKey n s.inp.fn (s.keySlot n).key = u at hr
      exact hr

theorem keyStore_eraseDrained (s : State) (f n a : Nat) (hf : f = s.inp.fn) (hrun : (s.ksWin f).run = some ⟨6, n, a⟩) :
    (s.keyInUse f n = true → ∃ t, exec .ksEraseDrained s = .next t ∧ t = { s with pending := s.pending ++ [.event .ksEraseDrained s.inp] }) ∧
    (s.keyInUse f n = false → (s.keySlot n).st ≠ .empty → (s.keySlot n).fn = f →
      ∃ t, exec .ksEraseDrained s = .next t ∧ t.keySlot n = {} ∧ OnlySlot s t n ∧ t.clusters = s.clusters ∧ KsEnds s t f false) := by
  subst hf
  refine ⟨fun h => ⟨_, ?_, rfl⟩, fun h hst hfn => ?_⟩
  · rw [exec_ksEraseDrained, execKsEraseDrained, State.ksDrained_waits (holder := fun _ => s.inp.fn) hrun h]
    rfl
  · obtain ⟨h1, h2⟩ := State.onlySlot_of_put (s := s) (t := (s.setKeySlot n {}).ksEnd s.inp.fn false) rfl
    refine ⟨_, ?_, h1, h2, rfl, State.ksEnd_ends rfl false⟩
    rw [exec_ksEraseDrained, execKsEraseDrained, State.ksDrained_ends (holder := fun _ => s.inp.fn) hrun h, if_pos ((s.holdsSlot_iff n s.inp.fn).mpr ⟨hst, hfn⟩)]

theorem MatCmd.zeroSealed_entry (m : MatCmd) (n : Nat) : (m.zeroSealed n).entry = m.entry := by
  rw [MatCmd.zeroSealed]
  split <;> rfl

theorem MatCmd.zeroSealed_bblk {m : MatCmd} {n : Nat} (h1 : tidSeal m.entry = true) (h2 : tidSkh m.entry = n) : ∀ b ∈ (m.zeroSealed n).bblk, b.2 = PlaneBlk.zero false := by
  rw [MatCmd.zeroSealed, if_pos (by simp [h1, h2])]
  intro b hb
  obtain ⟨x, -, rfl⟩ := List.mem_map.mp hb
  rfl

/-- In the function's tiles nothing decrypted under the slot is left. -/
theorem State.sealErase_tile (s : State) (f n : Nat) {c : Nat} (hc : (s.clus c).fn = f) (k : Nat) : (s.sealErase f n).tile c k = (s.tile c k).zeroSealed n := by
  have h : (s.sealErase f n).tiles = s.tiles.map (fun e => if (s.clus e.1.1).fn = f then (e.1, e.2.zeroSealed n) else e) := by rw [State.sealErase, State.sealRefusal_eq]
  rw [State.tile, h, Assoc.get_mapIf Tile.reset (c, k) (fun e => (s.clus e.1.1).fn = f) (fun e => e.2.zeroSealed n) (fun _ => rfl), if_pos hc]
  rfl

theorem keyStore_seraseDrained (s : State) (n f : Nat) (hn : n = s.inp.id) (hheld : (s.sealSlot n).held = true) (hfn : (s.sealSlot n).fn = f) (hrun : (s.ksWin f).run = some ⟨8, n, 0⟩) :
    (s.sealInUse f n = true → exec .ksSeraseDrained s = .next s) ∧
    (s.sealInUse f n = false → ∃ t, exec .ksSeraseDrained s = .next t ∧ t.sealSlot n = {} ∧ (∀ j, j ≠ n → t.sealSlot j = s.sealSlot j) ∧
      (∀ c k, (s.clus c).fn = f → (∀ r ∈ (t.tile c k).buf, r ∈ (s.tile c k).buf ∧ r.sealed ≠ some n) ∧
        ∀ m ∈ (t.tile c k).cmds, tidSeal m.entry = true → tidSkh m.entry = n → ∀ b ∈ m.bblk, b.2 = PlaneBlk.zero false) ∧ KsEnds s t f false) := by
  subst hn hfn
  refine ⟨fun h => ?_, fun h => ?_⟩
  · rw [exec_ksSeraseDrained, execKsSeraseDrained]
    simp [hrun, h]
  · have hex : exec .ksSeraseDrained s = .next ((s.sealErase (s.sealSlot s.inp.id).fn s.inp.id).ksEnd (s.sealSlot s.inp.id).fn false) := by
      rw [exec_ksSeraseDrained, execKsSeraseDrained]
      simp [hrun, h, hheld]
    have hslots : (s.sealErase (s.sealSlot s.inp.id).fn s.inp.id).sealedSlots = Assoc.put s.inp.id {} s.sealedSlots := by rw [State.sealErase, State.sealRefusal_eq]
    have hwin : (s.sealErase (s.sealSlot s.inp.id).fn s.inp.id).ksWin (s.sealSlot s.inp.id).fn = s.ksWin (s.sealSlot s.inp.id).fn := by
      have hwins : (s.sealErase (s.sealSlot s.inp.id).fn s.inp.id).ksWins = s.ksWins := by rw [State.sealErase, State.sealRefusal_eq]
      rw [State.ksWin, State.ksWin, hwins]
    have htile := fun c k hc => s.sealErase_tile (s.sealSlot s.inp.id).fn s.inp.id (c := c) hc k
    generalize s.sealErase (s.sealSlot s.inp.id).fn s.inp.id = u at hex hslots hwin htile
    obtain ⟨h1, h2⟩ := State.sealSlot_of_put (s := s) (t := u.ksEnd (s.sealSlot s.inp.id).fn false) hslots
    refine ⟨_, hex, h1, h2, fun c k hc => ?_, State.ksEnd_ends hwin false⟩
    have ht : (u.ksEnd (s.sealSlot s.inp.id).fn false).tile c k = (s.tile c k).zeroSealed s.inp.id := htile c k hc
    rw [ht]
    refine ⟨fun r hr => ?_, fun m hm h1 h2 => ?_⟩
    · obtain ⟨hr, hne⟩ := List.mem_filter.mp hr
      exact ⟨hr, by simpa using hne⟩
    · obtain ⟨x, -, rfl⟩ := List.mem_map.mp hm
      rw [MatCmd.zeroSealed_entry] at h1 h2
      exact MatCmd.zeroSealed_bblk h1 h2

/-- A command while one runs. -/
theorem keyStore_busy (s : State) (i : Instr) (r : KsCmd) (hi : i ∈ [Instr.ksCreate, .ksImport, .ksExport, .ksOffer, .ksAccept, .ksErase, .ksSimport, .ksSerase])
    (h : (s.ksWin s.inp.fn).run = some r) : exec i s = .next s := by
  have busy := fun ok effect => State.ksCommand_busy h ok effect
  simp only [List.mem_cons, List.not_mem_nil, or_false] at hi
  rcases hi with rfl | rfl | rfl | rfl | rfl | rfl | rfl | rfl
  · rw [exec_ksCreate, execKsCreate, State.ksCreate, busy]
  · rw [exec_ksImport, execKsImport, State.ksImport, busy]
  · rw [exec_ksExport, execKsExport, State.ksExport, busy]
  · rw [exec_ksOffer, execKsOffer, State.ksOffer, busy]
  · rw [exec_ksAccept, execKsAccept, State.ksAccept, busy]
  · rw [exec_ksErase, execKsErase, State.ksErase, busy]
  · rw [exec_ksSimport, execKsSimport, State.ksSimport, busy]
  · rw [exec_ksSerase, execKsSerase, State.ksSerase, busy]

/-- Settles O41, command by command. -/
theorem keyStore : Obligations.KeyStore := by
  refine ⟨keyStore_busy, fun s f n a w hf hlive hw hrun hn ha => ?_, keyStore_acceptDrained, keyStore_eraseDrained, keyStore_seraseDrained⟩
  subst hw
  have hslot : (s.ksWin f).slotNo = n := (KsWin.slotNo_eq _).trans hn.symm
  have harg : (s.ksWin f).argNo = a := (KsWin.argNo_eq _).trans ha.symm
  obtain ⟨create, createNo⟩ := keyStore_create hf hrun hlive hslot
  obtain ⟨imported, importNo⟩ := keyStore_import hf hrun hlive hslot
  obtain ⟨exported, exportNo⟩ := keyStore_export hf hrun hlive hslot
  obtain ⟨offer, offerNo⟩ := keyStore_offer hf hrun hlive hslot harg
  obtain ⟨accept, acceptNo⟩ := keyStore_accept hf hrun hlive hslot harg
  obtain ⟨simport, simportNo⟩ := keyStore_simport hf hrun hlive hslot
  obtain ⟨erase, eraseLine, eraseNo⟩ := keyStore_erase hf hrun hlive hslot
  obtain ⟨serase, seraseNo⟩ := keyStore_serase hf hrun hlive hslot
  exact ⟨create, createNo, imported, importNo, exported, exportNo, offer, offerNo, accept, acceptNo, erase, eraseLine, eraseNo, simport, simportNo, serase, seraseNo⟩

end Sys2Proof.Machine

/-! ### Soft errors and telemetry (R45, R397, R401) -/

namespace Sys2Proof.Machine
open Sys2Proof.Claims

/-- The state where one telemetry register has been replaced. -/
theorem State.tel_put (s : State) (n : Nat) (v : DWord) :
    ({ s with telemetry := Assoc.put n v s.telemetry } : State).tel n = v ∧ ∀ k, k ≠ n → ({ s with telemetry := Assoc.put n v s.telemetry } : State).tel k = s.tel k :=
  ⟨Assoc.get_put_self .., fun _ hk => Assoc.get_put_ne _ hk.symm ..⟩

theorem corrected_error (s : State) :
    (5 ≤ s.inp.n → exec .correctedError s = .next s) ∧
    (s.inp.n < 5 → ∃ t, exec .correctedError s = .next t ∧ t = { s with telemetry := t.telemetry } ∧ (∀ k, k ≠ s.inp.n → t.tel k = s.tel k) ∧
      (t.tel s.inp.n).extractLsb' 0 48 = (s.tel s.inp.n).extractLsb' 0 48 ∧ ((t.tel s.inp.n).extractLsb' 48 16).toNat = min 0xFFFF (((s.tel s.inp.n).extractLsb' 48 16).toNat + 1)) := by
  rw [exec_correctedError, execCorrectedError]
  refine ⟨fun h => if_pos h, fun h => ?_⟩
  rw [if_neg (Nat.not_le.mpr h)]
  dsimp only
  generalize hc : ((s.tel s.inp.n).extractLsb' 48 16).toNat = cecnt
  have hcount : min 0xFFFF (cecnt + 1) < 2 ^ 16 := by omega
  obtain ⟨hsame, hother⟩ := s.tel_put s.inp.n (BitVec.ofNat 16 (min 0xFFFF (cecnt + 1)) ++ (s.tel s.inp.n).extractLsb' 0 48)
  refine ⟨_, rfl, rfl, hother, ?_, ?_⟩
  · rw [hsame, BitVec.extractLsb'_append_eq_right]
  · rw [hsame, BitVec.extractLsb'_append_eq_left, BitVec.toNat_ofNat, Nat.mod_eq_of_lt hcount]

/-- The fields of a telemetry register. -/
theorem telFields (cecnt : BitVec 16) (rul : BitVec 24) (wear temp warn : BitVec 8) :
    let v : DWord := cecnt ++ rul ++ wear ++ temp ++ warn
    v.extractLsb' 48 16 = cecnt ∧ v.extractLsb' 24 24 = rul ∧ v.extractLsb' 16 8 = wear ∧ v.extractLsb' 8 8 = temp ∧ v.extractLsb' 0 8 = warn := by
  refine ⟨?_, ?_, ?_, ?_, ?_⟩ <;>
  · ext i hi
    simp only [BitVec.getElem_extractLsb', BitVec.getLsbD_append]
    grind

/-- The bits of WARN: seven that read 0 and the warning. -/
theorem warnBits (v : DWord) {low : Prop} [Decidable low] (h : v.extractLsb' 0 8 = if low then 1#8 else 0#8) : v.extractLsb' 1 7 = 0 ∧ (v.getLsbD 0 = true ↔ low) := by
  have h1 : v.extractLsb' 1 7 = (v.extractLsb' 0 8).extractLsb' 1 7 := by
    ext i hi
    simp only [BitVec.getElem_extractLsb', BitVec.getLsbD_extractLsb']
    grind
  have h0 : v.getLsbD 0 = (v.extractLsb' 0 8).getLsbD 0 := by simp
  rw [h1, h0, h]
  by_cases hl : low <;> simp [hl]

theorem telemetry_update (s : State) :
    (13 ≤ s.inp.n → exec .telemetryUpdate s = .next s) ∧
    (s.inp.n < 13 → ∃ t, exec .telemetryUpdate s = .next t ∧ t = { s with telemetry := t.telemetry } ∧ (∀ k, k ≠ s.inp.n → t.tel k = s.tel k) ∧
      let v := t.tel s.inp.n
      v.extractLsb' 48 16 = (s.tel s.inp.n).extractLsb' 48 16 ∧ v.extractLsb' 24 24 = s.inp.val.extractLsb' 24 24 ∧ (v.extractLsb' 16 8).toNat = min 100 (s.inp.val.extractLsb' 16 8).toNat ∧
        v.extractLsb' 8 8 = s.inp.val.extractLsb' 8 8 ∧ v.extractLsb' 1 7 = 0 ∧ (v.getLsbD 0 = true ↔ (s.inp.val.extractLsb' 24 24).toNat < 2000)) := by
  rw [exec_telemetryUpdate, execTelemetryUpdate]
  refine ⟨fun h => if_pos h, fun h => ?_⟩
  rw [if_neg (Nat.not_le.mpr h)]
  dsimp only
  generalize (s.inp.val.extractLsb' 16 8).toNat = wear
  have hwear : min 100 wear < 2 ^ 8 := by omega
  obtain ⟨hsame, hother⟩ := s.tel_put s.inp.n ((s.tel s.inp.n).extractLsb' 48 16 ++ s.inp.val.extractLsb' 24 24 ++ BitVec.ofNat 8 (min 100 wear) ++ s.inp.val.extractLsb' 8 8 ++
    if (s.inp.val.extractLsb' 24 24).toNat < 2000 then 1#8 else 0#8)
  refine ⟨_, rfl, rfl, hother, ?_⟩
  rw [hsame]
  obtain ⟨hcount, hrul, hw, htemp, hwarn⟩ := telFields ((s.tel s.inp.n).extractLsb' 48 16) (s.inp.val.extractLsb' 24 24) (BitVec.ofNat 8 (min 100 wear)) (s.inp.val.extractLsb' 8 8)
    (if (s.inp.val.extractLsb' 24 24).toNat < 2000 then 1#8 else 0#8)
  obtain ⟨hzero, hbit⟩ := warnBits _ hwarn
  exact ⟨hcount, hrul, by rw [hw, BitVec.toNat_ofNat, Nat.mod_eq_of_lt hwear], htemp, hzero, hbit⟩

/-! ### Poisoned lines (R45, R398) -/

theorem State.hasMemory_iff (s : State) (pa : Nat) : s.hasMemory pa = true ↔ isMemory s pa := by
  unfold State.hasMemory isMemory paRegion region
  rw [Bool.and_eq_true, decide_eq_true_eq]
  refine and_congr_right fun _ => ?_
  split_ifs <;> simp <;> omega

theorem State.markPoison_poisons {s : State} {line : Nat} (h : isMemory s (64 * line)) : Poisons s (s.markPoison line) line := by
  rw [State.markPoison, (s.hasMemory_iff _).mpr h, Bool.true_and]
  by_cases hp : line ∈ s.poison
  · rw [if_neg (by simp [hp])]
    exact ⟨rfl, fun l => ⟨.inl, fun h => h.elim id fun e => e ▸ hp⟩⟩
  · rw [if_pos (by simp [hp])]
    exact ⟨rfl, fun l => by simp⟩

theorem uncorrectable_error (s : State) :
    (isMemory s (64 * s.inp.n) → ∃ t, exec .uncorrectableError s = .next t ∧ Poisons s t s.inp.n) ∧ (¬ isMemory s (64 * s.inp.n) → exec .uncorrectableError s = .next s) := by
  rw [exec_uncorrectableError, execUncorrectableError]
  refine ⟨fun h => ⟨_, rfl, State.markPoison_poisons h⟩, fun h => ?_⟩
  rw [State.markPoison, Bool.eq_false_iff.mpr (mt (s.hasMemory_iff _).mp h)]
  rfl

theorem hbm_link_tag_fail (s : State) :
    (s.inp.flag = true → isMemory s (64 * s.inp.n) → 0x100000000 ≤ paOfs (64 * s.inp.n) → ∃ t, exec .hbmLinkTagFail s = .next t ∧ Poisons s t s.inp.n) ∧
    (s.inp.flag = false → exec .hbmLinkTagFail s = .next s) := by
  rw [exec_hbmLinkTagFail, execHbmLinkTagFail]
  refine ⟨fun hf hm ho => ?_, fun hf => by rw [hf]; rfl⟩
  have hhbm : (paRegion (64 * s.inp.n)).isHbm = true := (Region.isHbm_iff _).mpr (by obtain ⟨-, hm⟩ := hm; omega)
  rw [hf, hhbm]
  exact ⟨_, rfl, State.markPoison_poisons hm⟩

/-! ### Parity errors in a watch or TLB entry (R398) -/

theorem without_eq_eraseIdx {α : Type} (l : List α) (i : Nat) : without l i = l.eraseIdx i := (List.eraseIdx_eq_take_drop_succ ..).symm

theorem parity_tlb (s : State) (c i : Nat) (h : s.inp.load = .parity (.tlb c i)) :
    ∃ t, exec .parityError s = .next t ∧ t = { s with clusters := t.clusters } ∧ (t.clus c).tlb = (s.clus c).tlb.eraseIdx i ∧ ∀ n, n ≠ c → t.clus n = s.clus n := by
  rw [exec_parityError, execParityError, h]
  refine ⟨_, rfl, rfl, ?_, fun n hn => s.clus_modClus_ne hn _⟩
  rw [State.clus_modClus_eq, if_pos rfl]
  exact without_eq_eraseIdx ..

theorem parity_watch (s : State) (c i : Nat) (w : WatchEntry) (h : s.inp.load = .parity (.watch c i)) (hw : (s.clus c).watches[i]? = some w) (hpkg : w.opkg = s.pkg) :
    ∃ t, exec .parityError s = .next t ∧ (t.clus c).watches = (s.clus c).watches.eraseIdx i ∧
    ∃ d : DoneItem, Sched.event .watchDone { load := .done d } ∈ t.pending ∧ d.clus = w.oclus ∧ d.core = w.core ∧ d.tag = w.tag ∧ d.status = 0x50 ∧ d.op = w.op := by
  rw [exec_parityError, execParityError, h]
  dsimp only
  rw [hw]
  dsimp only
  rw [State.sendDone, State.modClus_pkg, if_pos hpkg]
  refine ⟨_, rfl, ?_, s.doneOf w 0 0 cDEAD_PEER, List.mem_append_right _ (List.mem_singleton_self _), rfl, rfl, rfl, rfl, rfl⟩
  have hclus (u : State) (d : DoneItem) : (u.post .watchDone { load := .done d }).clus c = u.clus c := rfl
  rw [hclus, State.clus_modClus_eq, if_pos rfl]
  exact without_eq_eraseIdx ..

theorem parity_noSlot (s : State) (p : Pos) (h : s.inp.load = .parity (.regs p)) (hs : (s.ctx p).slot = none) : exec .parityError s = .next s := by
  rw [exec_parityError, execParityError, h]
  dsimp only
  rw [hs]

end Sys2Proof.Machine

/-! ### The end of a team, as the front end sees it (R68, R110, R388)

A team that is dropped or unpicked leaves cores, clusters, memory and queues' waiting contexts changed. Of the front end it leaves
the basting launches, the snapshots, and each queue's state and function. -/

namespace Sys2Proof.Machine
open Sys2Proof.Claims

structure State.FrontKept (s t : State) : Prop where
  bastings : t.bastings = s.bastings
  snaps : t.snaps = s.snaps
  queue : ∀ q, (t.queue q).st = (s.queue q).st ∧ (t.queue q).fn = (s.queue q).fn

/-- Besides the front end the placed teams are kept. -/
structure State.TeamsKept (s t : State) : Prop extends s.FrontKept t where
  teams : t.teams = s.teams

theorem State.FrontKept.refl (s : State) : s.FrontKept s := ⟨rfl, rfl, fun _ => ⟨rfl, rfl⟩⟩

theorem State.FrontKept.trans {s t u : State} (h : s.FrontKept t) (h' : t.FrontKept u) : s.FrontKept u :=
  ⟨h'.bastings.trans h.bastings, h'.snaps.trans h.snaps, fun q => ⟨(h'.queue q).1.trans (h.queue q).1, (h'.queue q).2.trans (h.queue q).2⟩⟩

theorem State.FrontKept.foldl {α : Type} {f : State → α → State} (hf : ∀ (u : State) (x : α), u.FrontKept (f u x)) (l : List α) (s : State) : s.FrontKept (l.foldl f s) :=
  List.foldlRecOn l f (.refl s) fun u hu x _ => hu.trans (hf u x)

theorem State.TeamsKept.refl (s : State) : s.TeamsKept s := ⟨.refl s, rfl⟩

theorem State.TeamsKept.trans {s t u : State} (h : s.TeamsKept t) (h' : t.TeamsKept u) : s.TeamsKept u := ⟨h.toFrontKept.trans h'.toFrontKept, h'.teams.trans h.teams⟩

theorem State.TeamsKept.foldl {α : Type} {f : State → α → State} (hf : ∀ (u : State) (x : α), u.TeamsKept (f u x)) (l : List α) (s : State) : s.TeamsKept (l.foldl f s) :=
  List.foldlRecOn l f (.refl s) fun u hu x _ => hu.trans (hf u x)

theorem State.TeamsKept.of_eq {s t : State} (hb : t.bastings = s.bastings) (hs : t.snaps = s.snaps) (hq : t.queues = s.queues) (ht : t.teams = s.teams) : s.TeamsKept t :=
  ⟨⟨hb, hs, fun q => by rw [State.queue, State.queue, hq]; exact ⟨rfl, rfl⟩⟩, ht⟩

/-! #### Updates of one part of the state -/

theorem State.modClus_kept (s : State) (c : Nat) (f : Clus → Clus) : s.TeamsKept (s.modClus c f) := .of_eq rfl rfl rfl rfl
theorem State.modCore_kept (s : State) (c n : Nat) (f : Core → Core) : s.TeamsKept (s.modCore c n f) := .of_eq rfl rfl rfl rfl
theorem State.setCtx_kept (s : State) (p : Pos) (x : Ctx) : s.TeamsKept (s.setCtx p x) := .of_eq rfl rfl rfl rfl
theorem State.post_kept (s : State) (i : Instr) (inp : Inp) : s.TeamsKept (s.post i inp) := .of_eq rfl rfl rfl rfl
theorem State.wakeAll_kept (s : State) (q : Pos → Wait → Bool) : s.TeamsKept (s.wakeAll q) := .of_eq rfl rfl rfl rfl
theorem State.modLaunch_kept (s : State) (k : Nat × Nat) (f : Launch → Launch) : s.TeamsKept (s.modLaunch k f) := .of_eq rfl rfl rfl rfl
theorem State.dropWatch_kept (s : State) (op : Nat) : s.TeamsKept (s.dropWatch op) := .of_eq rfl rfl rfl rfl

theorem State.HomeOnly.kept {s t : State} (h : s.HomeOnly t) : s.TeamsKept t := by
  rw [h.rest]
  exact .of_eq rfl rfl rfl rfl

theorem State.queueItem_kept (s : State) (d o c : Nat) (b : ItemBody) : s.TeamsKept (s.queueItem d o c b) := by
  rw [State.queueItem]
  split <;> exact .of_eq rfl rfl rfl rfl

/-! #### Cancelling -/

theorem State.roomFreed_kept (s : State) (cs : List Nat) : s.TeamsKept (s.roomFreed cs) := by
  rw [State.roomFreed]
  split
  · exact .refl s
  · refine ((s.wakeAll_kept _).trans (.foldl (fun u c => ?_) cs _)).trans (.foldl (fun u n => u.post_kept _ _) _ _)
    split
    · exact .refl u
    · exact u.post_kept _ _

theorem State.cancelOp_kept (s : State) (op : Nat) : s.TeamsKept (s.cancelOp op) := by
  unfold State.cancelOp
  extract_lets pins s1 gone unwatched s2
  have unpinned : s.TeamsKept s1 := .foldl (fun u p => u.modClus_kept _ _) pins s
  have dropped : s1.TeamsKept unwatched := (s1.dropWatch_kept op).trans (.foldl State.dropWatch_kept gone _)
  have removed : s1.TeamsKept s2 := dropped.trans (.of_eq rfl rfl rfl rfl)
  have fabric : s2.TeamsKept (s2.modFab fun f => { f with leases := Assoc.del op f.leases }) := .of_eq rfl rfl rfl rfl
  exact ((unpinned.trans removed).trans fabric).trans (State.roomFreed_kept ..)

/-- A queue forgets a context that waits for it. -/
def Queue.unawaited (k : Queue) (p : Pos) : Queue := { k with enqs := k.enqs.filter (· ≠ p) }

theorem State.cancelWaits_kept (s : State) (p : Pos) : s.TeamsKept (s.cancelWaits p) := by
  refine ⟨⟨rfl, rfl, fun q => ?_⟩, rfl⟩
  have hq : (s.cancelWaits p).queues = s.queues.map (fun e => (e.1, e.2.unawaited p)) := rfl
  rw [State.queue, State.queue, hq, Assoc.get_map {} q (fun (e : Nat × Queue) => (e.1, e.2.unawaited p)) fun _ => rfl]
  split
  · exact ⟨rfl, rfl⟩
  · rename_i h
    rw [Assoc.get_of_not_has _ _ (by simpa using h)]
    exact ⟨rfl, rfl⟩

theorem State.cancelTeam_kept (s : State) (c slot : Nat) (t : Team) : s.TeamsKept (s.cancelTeam c slot t) := by
  rw [State.cancelTeam]
  refine (State.TeamsKept.foldl (fun u e => ?_) _ s).trans (.foldl (fun u p => (u.cancelWaits_kept p).trans (State.setCtx_kept ..)) _ _)
  split
  · exact u.cancelOp_kept _
  · exact .refl u

/-! #### Flushing and scrubbing -/

theorem State.drain_kept (s : State) (c core : Nat) : s.TeamsKept (s.drain c core) := by
  rw [State.drain]
  generalize (s.core c core).sb.length = n
  induction n generalizing s with
  | zero => exact .refl s
  | succ n ih =>
    rw [State.performN]
    refine State.TeamsKept.trans ?_ (ih _)
    rw [State.performOldest]
    split
    · exact .refl s
    · exact ((s.modCore_kept ..).trans (State.performWrite_homeOnly ..).kept).trans (State.wakeAll_kept ..)

theorem State.writeBack_kept (s : State) (c core : Nat) (l : L1Line) : s.TeamsKept (s.writeBack c core l) := by
  unfold State.writeBack
  extract_lets cells s1
  exact (s.performWrite_homeOnly ..).kept.trans (State.modCore_kept ..)

theorem State.evictLine_kept (s : State) (c core : Nat) (l : L1Line) : s.TeamsKept (s.evictLine c core l) := by
  rw [State.evictLine]
  refine State.TeamsKept.trans ?_ (State.modCore_kept ..)
  split
  · exact .refl s
  · exact State.writeBack_kept ..

theorem State.flushTeam_kept (s : State) (c : Nat) (t : Team) : s.TeamsKept (s.flushTeam c t) :=
  .foldl (fun u n => (u.drain_kept c n).trans (.foldl (fun v l => v.evictLine_kept c n l) _ _)) _ s

theorem State.pumpMsgs_kept (s : State) (c : Nat) : s.TeamsKept (s.pumpMsgs c) := by
  rw [State.pumpMsgs]
  split
  · exact .refl s
  · split
    · exact (s.modClus_kept ..).trans (State.modCore_kept ..)
    · exact .refl s

theorem State.answerMsg_kept (s : State) (it : MsgItem) (core : Nat) (a : MsgAns) : s.TeamsKept (s.answerMsg it core a) := by
  rw [State.answerMsg]
  split
  · exact s.post_kept _ _
  · exact s.queueItem_kept ..

theorem State.mailFreed_kept (s : State) (c core : Nat) : s.TeamsKept (s.mailFreed c core) := by
  unfold State.mailFreed
  extract_lets s0
  have pumped : s.TeamsKept s0 := by
    unfold s0
    split
    · exact s.pumpMsgs_kept c
    · exact .refl s
  clear_value s0
  split
  · exact pumped
  · split
    · exact (pumped.trans (s0.modCore_kept ..)).trans (State.answerMsg_kept ..)
    · exact pumped

theorem State.clearCore_kept (s : State) (c n slot : Nat) (t : Team) : s.TeamsKept (s.clearCore c n slot t) :=
  (s.modCore_kept ..).trans (.foldl (fun u _ => u.mailFreed_kept c n) _ _)

theorem State.zeroCore_kept (s : State) (c n : Nat) : s.TeamsKept (s.zeroCore c n) := by
  unfold State.zeroCore
  extract_lets a s1
  have zeroed : s.TeamsKept s1 := .of_eq rfl rfl rfl rfl
  exact (zeroed.trans (.foldl (fun u k => (u.bumpGen_homeOnly _).kept) _ s1)).trans (State.modClus_kept ..)

theorem State.leaveCore_kept (s : State) (c n slot : Nat) (zero : Bool) : s.TeamsKept (s.leaveCore c n slot zero) := by
  rw [State.leaveCore]
  split
  · exact s.modCore_kept ..
  · refine State.TeamsKept.trans ?_ (State.modCore_kept ..)
    split
    · exact s.zeroCore_kept c n
    · exact .refl s

/-- A team's slot leaves the list of teams. -/
def State.withoutTeam (s : State) (c slot : Nat) : State := { s with teams := s.teams.filter (fun e => e.1 ≠ (c, slot)) }

theorem State.withoutTeam_front (s : State) (c slot : Nat) : s.FrontKept (s.withoutTeam c slot) := ⟨rfl, rfl, fun _ => ⟨rfl, rfl⟩⟩

theorem State.TeamsKept.withoutTeam {s t : State} (h : s.TeamsKept t) (c slot : Nat) : (s.withoutTeam c slot).TeamsKept (t.withoutTeam c slot) :=
  ⟨⟨h.bastings, h.snaps, h.queue⟩, by rw [State.withoutTeam, State.withoutTeam, h.teams]⟩

theorem State.vacate_kept (s : State) (c slot : Nat) (t : Team) (zero : Bool) : (s.withoutTeam c slot).TeamsKept (s.vacate c slot t zero) := by
  unfold State.vacate
  extract_lets s1 s2 s3 gone s4
  have cleared : s.TeamsKept s1 := .foldl (fun u n => u.clearCore_kept c n slot t) _ s
  have reset : s1.TeamsKept s2 := .foldl (fun u p => u.setCtx_kept p _) _ s1
  have left : s2.TeamsKept s3 := .foldl (fun u n => u.leaveCore_kept c n slot zero) _ s2
  have told : s3.TeamsKept s4 := by
    unfold s4
    split
    · exact (State.TeamsKept.foldl (fun v e => v.post_kept _ _) _ s3).trans (State.roomFreed_kept ..)
    · exact .refl s3
  clear_value s4
  have gone := (((cleared.trans reset).trans left).trans told).withoutTeam c slot
  exact ⟨⟨gone.bastings, gone.snaps, gone.queue⟩, gone.teams⟩

theorem State.countRetired_kept (s : State) (c : Nat) (l : Nat × Nat) (retc teams : Nat) : s.TeamsKept (s.countRetired c l retc teams) := .of_eq rfl rfl rfl rfl

theorem State.freeBank_kept (s : State) (c : Nat) (l : Nat × Nat) : s.TeamsKept (s.freeBank c l) := by
  rw [State.freeBank]
  split
  · exact .refl s
  · exact s.modClus_kept ..

/-- A team outside a basting launch ends: of teams and front end nothing changes but that its slot is free. -/
theorem State.endTeam_kept (s : State) (c slot : Nat) {t : Team} (h : t.bast = false) (zero : Bool) : (s.withoutTeam c slot).TeamsKept (s.endTeam c slot t zero) := by
  have vacated := ((s.flushTeam_kept c t).withoutTeam c slot).trans (State.vacate_kept _ c slot t zero)
  unfold State.endTeam
  extract_lets n s1 s2
  have counted : (s.withoutTeam c slot).TeamsKept s1 := by
    unfold s1
    rw [State.deferEnd, h, Bool.false_and, Bool.false_and, if_neg Bool.false_ne_true]
    exact vacated.trans (State.modClus_kept ..)
  clear_value s1
  have retired : s1.TeamsKept s2 := (s1.countRetired_kept ..).trans (State.modLaunch_kept ..)
  exact (counted.trans retired).trans ((State.freeBank_kept ..).trans (State.post_kept ..))

theorem State.abortTeam_kept {s : State} {c slot : Nat} {t : Team} (ht : s.team? c slot = some t) (h : t.bast = false) : (s.withoutTeam c slot).TeamsKept (s.abortTeam c slot) := by
  rw [State.abortTeam, ht]
  exact ((s.cancelTeam_kept c slot t).withoutTeam c slot).trans (State.endTeam_kept _ c slot h _)

end Sys2Proof.Machine

/-! ### A parity error in a context's registers (R398) -/

namespace Sys2Proof.Machine
open Sys2Proof.Claims

/-- Contexts that hold nothing stay so. -/
def State.FreeKept (s t : State) : Prop := ∀ p, s.ctx p = Ctx.reset → t.ctx p = Ctx.reset

theorem State.FreeKept.of_eq {s t : State} (h : t.ctxs = s.ctxs) : s.FreeKept t := fun p hp => by rwa [State.ctx, h]

theorem State.FreeKept.trans {s t u : State} (h : s.FreeKept t) (h' : t.FreeKept u) : s.FreeKept u := fun p hp => h' p (h p hp)

theorem State.FreeKept.foldl {α : Type} {f : State → α → State} (hf : ∀ (u : State) (x : α), u.FreeKept (f u x)) (l : List α) (s : State) : s.FreeKept (l.foldl f s) :=
  List.foldlRecOn l f (fun _ hp => hp) fun u hu x _ => hu.trans (hf u x)

theorem State.post_free (s : State) (i : Instr) (inp : Inp) : s.FreeKept (s.post i inp) := .of_eq rfl
theorem State.modClus_free (s : State) (c : Nat) (f : Clus → Clus) : s.FreeKept (s.modClus c f) := .of_eq rfl
theorem State.bumpGen_free (s : State) (pa : Nat) : s.FreeKept (s.bumpGen pa) := .of_eq rfl

/-- A free context waits for nothing, so nothing wakes it. -/
theorem State.wakeAll_free (s : State) (q : Pos → Wait → Bool) : s.FreeKept (s.wakeAll q) := by
  intro p hp
  rw [State.ctx] at hp
  rw [State.ctx, State.wakeAll, Assoc.get_map Ctx.reset p, hp]
  · split <;> rfl
  · intro e
    repeat' split
    all_goals rfl

theorem State.roomFreed_free (s : State) (cs : List Nat) : s.FreeKept (s.roomFreed cs) := by
  rw [State.roomFreed]
  split
  · exact .of_eq rfl
  · refine ((s.wakeAll_free _).trans (.foldl (fun u c => ?_) cs _)).trans (.foldl (fun u n => u.post_free _ _) _ _)
    split <;> exact .of_eq rfl

theorem State.zeroCore_free (s : State) (c n : Nat) : s.FreeKept (s.zeroCore c n) := by
  unfold State.zeroCore
  extract_lets a s1
  have zeroed : s.FreeKept s1 := .of_eq rfl
  have aged : s1.FreeKept ((List.range 8).foldl (fun u k => u.bumpGen (a + 4096 * k)) s1) := .foldl (fun u k => u.bumpGen_free _) _ s1
  exact (zeroed.trans aged).trans (State.modClus_free _ _ _)

theorem State.leaveCore_free (s : State) (c n slot : Nat) (zero : Bool) : s.FreeKept (s.leaveCore c n slot zero) := by
  rw [State.leaveCore]
  split
  · exact .of_eq rfl
  · refine State.FreeKept.trans (t := if zero || (s.core c n).zpend then s.zeroCore c n else s) ?_ (.of_eq rfl)
    split
    · exact s.zeroCore_free c n
    · exact .of_eq rfl

theorem State.foldl_setCtx_of_mem {p : Pos} {x : Ctx} {l : List Pos} (h : p ∈ l) (s : State) : (l.foldl (fun u p => u.setCtx p x) s).ctx p = x := by
  induction l generalizing s with
  | nil => cases h
  | cons q l ih =>
    by_cases hl : p ∈ l
    · exact ih hl _
    · obtain rfl : p = q := (List.mem_cons.mp h).resolve_right hl
      refine List.foldlRecOn l _ (motive := fun (u : State) => u.ctx p = x) (s.ctx_setCtx p x) fun u hu q hq => ?_
      have hne : q ≠ p := fun e => hl (e ▸ hq)
      rw [State.ctx_setCtx_ne _ hne, hu]

theorem State.vacate_ctx (s : State) (c slot : Nat) (t : Team) (zero : Bool) {p : Pos} (hp : p ∈ t.at c) : (s.vacate c slot t zero).ctx p = Ctx.reset := by
  unfold State.vacate
  extract_lets s1 s2 s3 gone s4
  have reset : s2.ctx p = Ctx.reset := State.foldl_setCtx_of_mem hp s1
  have left : s2.FreeKept s3 := .foldl (fun u n => u.leaveCore_free c n slot zero) _ s2
  have told : s3.FreeKept s4 := by
    unfold s4
    split
    · exact (State.FreeKept.foldl (fun v e => v.post_free _ _) _ s3).trans (State.roomFreed_free _ _)
    · exact .of_eq rfl
  exact (left.trans told) p reset

theorem State.freeBank_ctxs (s : State) (c : Nat) (l : Nat × Nat) : (s.freeBank c l).ctxs = s.ctxs := by
  rw [State.freeBank]
  split <;> rfl

theorem State.deferEnd_ctxs (s : State) (c : Nat) (t : Team) : (s.deferEnd c t).ctxs = s.ctxs := by
  rw [State.deferEnd]
  repeat' split
  all_goals rfl

theorem State.endTeam_ctx (s : State) (c slot : Nat) (t : Team) (zero : Bool) {p : Pos} (hp : p ∈ t.at c) : (s.endTeam c slot t zero).ctx p = Ctx.reset := by
  have vacated := State.vacate_ctx (s.flushTeam c t) c slot t zero hp
  unfold State.endTeam
  extract_lets n s1 s2
  have counted : ((s.flushTeam c t).vacate c slot t zero).FreeKept s1 := .of_eq (State.deferEnd_ctxs ..)
  have banked : s1.FreeKept ((s2.freeBank c t.launch).post .teamPlace {}) := .of_eq (s2.freeBank_ctxs ..)
  exact banked p (counted p vacated)

theorem State.abortTeam_ctx {s : State} {c slot : Nat} {t : Team} (ht : s.team? c slot = some t) {p : Pos} (hp : p ∈ t.at c) : (s.abortTeam c slot).ctx p = Ctx.reset := by
  rw [State.abortTeam, ht]
  exact State.endTeam_ctx _ c slot t _ hp

theorem State.sendMsix_eq (s : State) (fn vec : Nat) : s.sendMsix fn vec = { s with host := (s.sendMsix fn vec).host } := by
  rw [State.sendMsix]
  split <;> rfl

/-- An active queue without a basting launch stops: it is in ERROR with the words given, and teams and contexts are left alone. -/
theorem State.stopQueue_active {s : State} {q : Nat} (h : (s.queue q).st = .active) (hb : s.basting? q = none) (e0 e1 : DWord) (failed : Bool) :
    let t := s.stopQueue q e0 e1 failed
    (t.queue q).st = .error ∧ (t.queue q).err0 = e0 ∧ t.teams = s.teams ∧ t.ctxs = s.ctxs := by
  unfold State.stopQueue
  extract_lets k s1 s2 t
  have ht : t = s2.unpickQ q := if_pos h
  have stopped : s1.queue q = { s.queue q with st := .error, err0 := e0, err1 := e1, failed := failed, head := none } := Assoc.get_put_self ..
  have told : s2 = { s1 with host := s2.host } := by
    unfold s2
    split
    · exact s1.sendMsix_eq ..
    · rfl
  have queue : s2.queue q = s1.queue q := by rw [told]; rfl
  have none : s2.basting? q = none := by rw [told]; exact hb
  rw [ht, State.unpickQ, none]
  dsimp only
  rw [queue, stopped, told]
  exact ⟨rfl, rfl, rfl, rfl⟩

theorem State.basting?_of_not_has {s : State} {q : Nat} (h : Assoc.has q s.bastings = false) : s.basting? q = none := by
  rw [State.basting?, Option.map_eq_none_iff, List.find?_eq_none]
  intro e he hq
  have := (Assoc.has_iff q s.bastings).mpr (List.mem_map.mpr ⟨e, he, of_decide_eq_true hq⟩)
  rw [h] at this
  cases this

theorem parityWord (seq : Nat) : err0Word 0x16 seq 0 0 = BitVec.ofNat 64 (seq % 2 ^ 32 * 2 ^ 32 + 0x16) := by
  simp only [err0Word, Nat.zero_mod, Nat.zero_mul, Nat.add_zero, Nat.reduceMod]

theorem parity_regs (s : State) (p : Pos) (slot : Nat) (tm : Team) (l : Launch) (hload : s.inp.load = .parity (.regs p)) (hslot : (s.ctx p).slot = some slot) (ht : s.team? p.clus slot = some tm)
    (hb : tm.bast = false) (hl : s.launches.find? (fun e => e.1 = tm.launch) = some (tm.launch, l)) (hq : (s.queue tm.launch.1).st = .active) (hbast : Assoc.has tm.launch.1 s.bastings = false) :
    ∃ t, exec .parityError s = .next t ∧ t.teams = s.teams.filter (fun e => e.1 ≠ (p.clus, slot)) ∧ (∀ q ∈ tm.at p.clus, t.ctx q = Ctx.reset) ∧
      (t.queue tm.launch.1).st = .error ∧ (t.queue tm.launch.1).err0 = BitVec.ofNat 64 (l.seq % 2 ^ 32 * 2 ^ 32 + 0x16) := by
  have kept := State.abortTeam_kept ht hb
  have hctx := fun q hq => State.abortTeam_ctx ht (p := q) hq
  have hex : exec .parityError s = .next ((s.abortTeam p.clus slot).stopQueue tm.launch.1 (err0Word 0x16 l.seq 0 0) 0 false) := by
    rw [exec_parityError, execParityError, hload]
    dsimp only
    rw [hslot]
    dsimp only
    rw [State.parityDrop, ht]
    dsimp only
    rw [hb, Bool.false_and, if_neg Bool.false_ne_true, hl]
    rfl
  generalize s.abortTeam p.clus slot = u at kept hctx hex
  have hnone : u.basting? tm.launch.1 = none := by rw [State.basting?, kept.bastings]; exact State.basting?_of_not_has hbast
  obtain ⟨h1, h2, h3, h4⟩ := State.stopQueue_active ((kept.queue _).1.trans hq) hnone (err0Word 0x16 l.seq 0 0) 0 false
  refine ⟨_, hex, h3.trans kept.teams, fun q hq => ?_, h1, h2.trans (parityWord _)⟩
  rw [State.ctx, h4]
  exact hctx q hq

end Sys2Proof.Machine

/-! ### Unpicking the basting launches of a function (R110, R399) -/

namespace Sys2Proof.Machine
open Sys2Proof.Claims

theorem State.endWalk_kept (s : State) (c id : Nat) : s.TeamsKept (s.endWalk c id) := by
  unfold State.endWalk
  extract_lets s1 s2
  have gone : s.TeamsKept s2 := by
    unfold s2
    repeat' split
    · exact (s.modClus_kept ..).trans (State.post_kept ..)
    · exact s.modClus_kept ..
    · exact s.modClus_kept ..
  split
  · exact gone
  · exact gone.trans (State.post_kept ..)

theorem State.dropXlate_kept (s : State) (q : Nat) : s.TeamsKept (s.dropXlate q) := by
  unfold State.dropXlate
  extract_lets mine s1
  have ended : s.TeamsKept s1 := .foldl (fun u w => u.endWalk_kept w.1 w.2) mine s
  exact ended.trans (.of_eq rfl rfl rfl rfl)

theorem State.countSlot_kept (s : State) (c slot : Nat) : s.TeamsKept (s.countSlot c slot) := .of_eq rfl rfl rfl rfl

theorem State.unpickTeam_front (s : State) (c slot : Nat) : s.FrontKept (s.unpickTeam c slot) := by
  unfold State.unpickTeam
  split
  · exact .refl s
  · rename_i t ht
    extract_lets s1 s2
    have cancelled : s.TeamsKept s1 := s.cancelTeam_kept c slot t
    have unbuffered : s1.TeamsKept s2 := .foldl (fun u n => u.modCore_kept c n _) _ s1
    have vacated := (s2.withoutTeam_front c slot).trans (s2.vacate_kept c slot t true).toFrontKept
    have freed := ((s2.vacate c slot t true).countSlot_kept c slot).trans (State.freeBank_kept _ c t.launch)
    exact ((cancelled.trans unbuffered).toFrontKept.trans vacated).trans freed.toFrontKept

/-- The basting launch of a queue leaves the list. -/
def State.withoutBast (s : State) (q : Nat) : State := { s with bastings := Assoc.del q s.bastings }

theorem State.FrontKept.withoutBast {s t : State} (h : s.FrontKept t) (q : Nat) : (s.withoutBast q).FrontKept (t.withoutBast q) :=
  ⟨by rw [State.withoutBast, State.withoutBast, h.bastings], h.snaps, h.queue⟩

theorem State.zeroCore_front (s : State) (c n : Nat) : s.FrontKept (s.zeroCore c n) := (s.zeroCore_kept c n).toFrontKept

theorem State.zeroCores_front (l : List (Nat × Nat)) (s : State) : s.FrontKept (l.foldl (fun u e => u.zeroCore e.1 e.2) s) :=
  List.foldlRecOn l _ (.refl s) fun u hu e _ => hu.trans (u.zeroCore_front e.1 e.2)

theorem State.unpick_front (s : State) (q : Nat) (b : Basting) : (s.withoutBast q).FrontKept (s.unpick q b) := by
  unfold State.unpick
  extract_lets k live s1 s2 s3 s4
  have teams : s.FrontKept s1 := (State.FrontKept.foldl (fun u e => u.unpickTeam_front e.1.1 e.1.2) live s).trans (State.dropXlate_kept _ q).toFrontKept
  have zeroed : s1.FrontKept s2 := State.zeroCores_front b.cores s1
  have shadows : s2.FrontKept s3 := .foldl (fun u c => (u.modClus_kept c _).toFrontKept) _ s2
  have gone := ((teams.trans zeroed).trans shadows).withoutBast q
  exact ⟨gone.bastings, gone.snaps, gone.queue⟩

/-- What unpicking launches leaves: the snapshots, each queue's function, and every basting launch that is not unpicked. -/
structure State.Unpicks (s t : State) : Prop where
  snaps : t.snaps = s.snaps
  fn : ∀ q, (t.queue q).fn = (s.queue q).fn
  basting : ∀ q, t.basting? q = none ∨ t.basting? q = s.basting? q

theorem State.Unpicks.refl (s : State) : s.Unpicks s := ⟨rfl, fun _ => rfl, fun _ => .inr rfl⟩

theorem State.Unpicks.trans {s t u : State} (h : s.Unpicks t) (h' : t.Unpicks u) : s.Unpicks u :=
  ⟨h'.snaps.trans h.snaps, fun q => (h'.fn q).trans (h.fn q), fun q => (h'.basting q).elim .inl fun e => e ▸ h.basting q⟩

theorem State.basting?_withoutBast (s : State) (q p : Nat) : (s.withoutBast q).basting? p = if p = q then none else s.basting? p := by
  have hl : (s.withoutBast q).bastings = s.bastings.filter (fun e => e.1 ≠ q) := rfl
  rw [State.basting?, State.basting?, hl, List.find?_filter]
  split
  · rename_i h
    rw [Option.map_eq_none_iff, List.find?_eq_none]
    intro e _
    simp [h]
  · rename_i h
    have same (e : Nat × Basting) : (decide (e.1 ≠ q) && decide (e.1 = p)) = decide (e.1 = p) := by
      by_cases he : e.1 = p
      · simp [he, h]
      · simp [he]
    simp only [Bool.decide_and, Bool.decide_eq_true, same]

theorem State.basting?_unpick (s : State) (q : Nat) (b : Basting) (p : Nat) : (s.unpick q b).basting? p = if p = q then none else s.basting? p := by
  rw [← State.basting?_withoutBast, State.basting?, (s.unpick_front q b).bastings, State.basting?]

theorem State.unpickQ_unpicks (s : State) (q : Nat) : s.Unpicks (s.unpickQ q) := by
  rw [State.unpickQ]
  split
  · exact .refl s
  · rename_i b hb
    split
    · exact .refl s
    · refine ⟨(s.unpick_front q b).snaps, fun p => ((s.unpick_front q b).queue p).2, fun p => ?_⟩
      rw [State.basting?_unpick]
      split
      · exact .inl rfl
      · exact .inr rfl

/-- A launch that does not commit yet is gone once its queue has been unpicked. -/
theorem State.basting?_unpickQ {s : State} {q : Nat} (h : ∀ b, s.basting? q = some b → b.st ≠ .committing) : (s.unpickQ q).basting? q = none := by
  rw [State.unpickQ]
  split
  · assumption
  · rename_i b hb
    rw [if_neg (h b hb), State.basting?_unpick, if_pos rfl]

/-- The launches of one function's queues among those listed are unpicked. -/
def State.unpickFn (s : State) (f : Nat) (l : List (Nat × Basting)) : State := l.foldl (fun u e => if (u.queue e.1).fn = f then u.unpickQ e.1 else u) s

theorem State.unpickFn_unpicks (s : State) (f : Nat) (l : List (Nat × Basting)) : s.Unpicks (s.unpickFn f l) :=
  List.foldlRecOn l _ (.refl s) fun u hu e _ => hu.trans (by split; exacts [u.unpickQ_unpicks e.1, .refl u])

theorem State.unpickFn_gone {f q : Nat} {l : List (Nat × Basting)} (hq : q ∈ l.map (·.1)) {s : State} (hf : (s.queue q).fn = f) (h : ∀ b, s.basting? q = some b → b.st ≠ .committing) :
    (s.unpickFn f l).basting? q = none := by
  induction l generalizing s with
  | nil => cases hq
  | cons e l ih =>
    have step : s.Unpicks (if (s.queue e.1).fn = f then s.unpickQ e.1 else s) := by split; exacts [s.unpickQ_unpicks e.1, .refl s]
    rw [State.unpickFn, List.foldl_cons]
    by_cases he : e.1 = q
    · rw [he, if_pos hf]
      refine (State.Unpicks.basting (State.unpickFn_unpicks (s.unpickQ q) f l) q).elim id fun e => e.trans (State.basting?_unpickQ h)
    · refine ih ((List.mem_cons.mp hq).resolve_left fun e => he e.symm) ((step.fn q).trans hf) fun b hb => ?_
      rcases step.basting q with hn | hs
      · rw [hn] at hb
        cases hb
      · exact h b (hs ▸ hb)

end Sys2Proof.Machine

/-! ### Snapshot commands (R399) -/

namespace Sys2Proof.Machine
open Sys2Proof.Claims

theorem State.snap_setSnap (s : State) (f g : Nat) (w : Snap) : (s.setSnap f w).snap g = if f = g then w else s.snap g := Assoc.get_put ..

/-- A command of a function ends: its own window, and no other. -/
theorem State.snapEnd_ended {s t : State} {f : Nat} (h : t.snap f = s.snap f) (err : Bool) (code : Byte) : SnapEnded s (t.snapEnd f err code) f err code := by
  rw [SnapEnded, State.snapEnd, State.snap_setSnap, if_pos rfl, h]

/-- Data and contexts are kept. -/
def State.DataKept (s t : State) : Prop := s.sameMem t ∧ t.ctxs = s.ctxs

theorem State.DataKept.trans {s t u : State} (h : s.DataKept t) (h' : t.DataKept u) : s.DataKept u := ⟨h.1.trans h'.1, h'.2.trans h.2⟩

theorem State.setSnap_data (s : State) (f : Nat) (w : Snap) : s.DataKept (s.setSnap f w) := ⟨State.sameMem_of rfl rfl rfl rfl, rfl⟩
theorem State.post_data (s : State) (i : Instr) (inp : Inp) : s.DataKept (s.post i inp) := ⟨State.sameMem_of rfl rfl rfl rfl, rfl⟩

theorem State.fnLive_iff (s : State) (f : Nat) : s.fnLive f = true ↔ f ∉ s.resetting ∧ (f = 0 ∨ (f ≤ 16 ∧ s.sriov = true)) := by
  simp [State.fnLive, and_comm]

theorem State.snapRange_iff (s : State) (f : Nat) : s.snapRange f = true ↔
    (s.snap f).src.toNat % 4096 = 0 ∧ (s.snap f).len.toNat % 4096 = 0 ∧ 4096 ≤ (s.snap f).len.toNat ∧ (s.snap f).len.toNat ≤ 2 ^ 32 ∧ paPkg (s.snap f).src.toNat = s.pkg ∧
      (s.clus (paClus (s.snap f).src.toNat)).fn = f ∧ 0x100000000 ≤ paOfs (s.snap f).src.toNat ∧ paOfs (s.snap f).src.toNat + (s.snap f).len.toNat ≤ 0x1FF000000 := by
  simp only [State.snapRange, Bool.and_eq_true, decide_eq_true_eq, and_assoc]

/-- The window of a command that has been taken. -/
def Snap.taken (w : Snap) : Snap := { w with busy := true, done := false, err := false, code := 0 }

section
variable {s : State} {f : Nat} {ok : Snap → Bool} {effect : State → State}

theorem State.snapCommand_ignored (h : (s.snap f).busy = true ∨ s.fnLive f = false) : s.snapCommand f ok effect = s := by
  rw [State.snapCommand, if_pos (by rcases h with h | h <;> simp [h])]

variable (hb : (s.snap f).busy = false) (hl : s.fnLive f = true)
include hb hl

theorem State.snapCommand_takes (h : ok (s.snap f) = true) : s.snapCommand f ok effect = effect (s.setSnap f (s.snap f).taken) := by
  rw [State.snapCommand, if_neg (by simp [hb, hl]), if_pos h, Snap.taken]

theorem State.snapCommand_refuses (h : ok (s.snap f) = false) : s.snapCommand f ok effect = s.snapEnd f true 0 := by
  rw [State.snapCommand, if_neg (by simp [hb, hl]), if_neg (by simp [h])]

end

/-- A write of SNAP_CMD: ignored while a command runs or the function does not live, refused where its condition fails, and else with its effect. -/
theorem snapCommand_exec {s : State} {i : Instr} {f : Nat} {ok : Snap → Bool} {effect : State → State} {may live : Prop} (hex : exec i s = .next (s.snapCommand f ok effect))
    (hmay : ok (s.snap f) = true ↔ may) (hlive : s.fnLive f = true ↔ live) :
    ((s.snap f).busy = true ∨ ¬ live → exec i s = .next s) ∧
    ((s.snap f).busy = false → live → ¬ may → ∃ t, exec i s = .next t ∧ t = { s with snaps := t.snaps } ∧ SnapEnded s t f true 0) ∧
    ((s.snap f).busy = false → live → may → exec i s = .next (effect (s.setSnap f (s.snap f).taken))) := by
  refine ⟨fun h => ?_, fun hb hl hm => ?_, fun hb hl hm => ?_⟩
  · rw [hex, State.snapCommand_ignored (h.imp id fun h => Bool.eq_false_iff.mpr (mt hlive.mp h))]
  · rw [hex, State.snapCommand_refuses hb (hlive.mpr hl) (Bool.eq_false_iff.mpr (mt hmay.mp hm))]
    exact ⟨_, rfl, rfl, State.snapEnd_ended rfl true 0⟩
  · rw [hex, State.snapCommand_takes hb (hlive.mpr hl) (hmay.mpr hm)]

/-! #### What each command does -/

/-- A command that has been taken leaves the other functions' windows alone, sets its own and posts what is to follow. -/
structure SnapTakes (s t : State) (f : Nat) (w : Snap) (e : Sched) : Prop where
  others : ∀ g, g ≠ f → t.snap g = s.snap g
  window : t.snap f = w
  posted : e ∈ t.pending

theorem State.snapTakes_post {s u : State} {f : Nat} {w : Snap} (h : ∀ g, u.snap g = if f = g then w else s.snap g) (i : Instr) (inp : Inp) : SnapTakes s (u.post i inp) f w (.event i inp) :=
  ⟨fun g hg => (h g).trans (if_neg hg.symm), (h f).trans (if_pos rfl), List.mem_append_right _ (List.mem_singleton_self _)⟩

/-- COPY and RESTORE, once taken, find their range. -/
theorem State.snapMove_snap (s : State) (f cmd : Nat) (w : Snap) (g : Nat) :
    ((s.setSnap f w).snapMove f cmd).snap g = if f = g then { w with cmd := cmd, srcAt := w.src, dstAt := w.dst, lenAt := w.len } else s.snap g := by
  rw [State.snapMove, State.snap_setSnap, State.snap_setSnap, State.snap_setSnap, if_pos rfl]
  split <;> rfl

/-- The window while the function's teams retire, and once they have been released. -/
def Snap.quiesces (w : Snap) : Snap := { w with quiescing := true }
def Snap.released (w : Snap) : Snap := { w with quiet := false }

theorem State.released_snap (s : State) (f : Nat) (w : Snap) (g : Nat) :
    (((s.setSnap f w).setSnap f w.released).snapEnd f false 0).snap g =
      if f = g then { w with busy := false, done := true, err := false, code := 0, quiet := false, quiescing := false, late := false } else s.snap g := by
  rw [State.snapEnd, State.snap_setSnap, State.snap_setSnap _ f f, if_pos rfl]
  split
  · rfl
  · rename_i h
    rw [State.snap_setSnap, if_neg h, State.snap_setSnap, if_neg h]

theorem execSnapQuiesce_eq (s : State) : exec .snapQuiesce s = .next (s.snapCommand s.inp.fn (fun w => !w.quiet) fun t =>
    ((t.setSnap s.inp.fn (t.snap s.inp.fn).quiesces).unpickFn s.inp.fn t.bastings).post .quiesceDone { fn := s.inp.fn }) := rfl

theorem execSnapRelease_eq (s : State) : exec .snapRelease s = .next (s.snapCommand s.inp.fn (fun w => w.quiet) fun t =>
    ((t.setSnap s.inp.fn (t.snap s.inp.fn).released).snapEnd s.inp.fn false 0).post .teamPlace {}) := rfl

section
variable (s : State) (f : Nat)

/-- The state in which QUIESCE has taken the window, before it unpicks. -/
def State.quiescing : State := (s.setSnap f (s.snap f).taken).setSnap f ((s.setSnap f (s.snap f).taken).snap f).quiesces

theorem State.quiescing_snap (g : Nat) : (s.quiescing f).snap g = if f = g then (s.snap f).taken.quiesces else s.snap g := by
  rw [State.quiescing, State.snap_setSnap, State.snap_setSnap, State.snap_setSnap, if_pos rfl]
  split <;> rfl

theorem State.quiescing_unpick_snap (g : Nat) : ((s.quiescing f).unpickFn f s.bastings).snap g = if f = g then (s.snap f).taken.quiesces else s.snap g := by
  rw [← State.quiescing_snap, State.snap, ((s.quiescing f).unpickFn_unpicks f s.bastings).snaps, State.snap]

theorem State.unpickFn_of_none (h : ∀ e ∈ s.bastings, (s.queue e.1).fn ≠ f) : s.unpickFn f s.bastings = s :=
  foldl_eq_self fun e he => if_neg (h e he)

theorem State.quiescing_unpick_of_none (h : ∀ e ∈ s.bastings, (s.queue e.1).fn ≠ f) : (s.quiescing f).unpickFn f s.bastings = s.quiescing f :=
  State.unpickFn_of_none (s.quiescing f) f h

theorem State.mem_bastings_of_basting? {q : Nat} {b : Basting} (h : s.basting? q = some b) : q ∈ s.bastings.map (·.1) := by
  obtain ⟨e, he, -⟩ := Option.map_eq_some_iff.mp h
  exact List.mem_map.mpr ⟨e, List.mem_of_find?_eq_some he, by simpa using List.find?_some he⟩

theorem snapQuiesce_takes : SnapTakes s (((s.quiescing f).unpickFn f s.bastings).post .quiesceDone { fn := f }) f (s.snap f).taken.quiesces (.event .quiesceDone { fn := f }) :=
  State.snapTakes_post (s.quiescing_unpick_snap f) _ _

theorem snapQuiesce_gone {q : Nat} {b : Basting} (hb : s.basting? q = some b) (hf : (s.queue q).fn = f) (hst : b.st ≠ .committing) :
    (((s.quiescing f).unpickFn f s.bastings).post .quiesceDone { fn := f }).basting? q = none :=
  State.unpickFn_gone (s := s.quiescing f) (s.mem_bastings_of_basting? hb) hf fun b' hb' => by
    obtain rfl := Option.some.inj (hb.symm.trans hb')
    exact hst

theorem snapQuiesce_sameMem (h : ∀ e ∈ s.bastings, (s.queue e.1).fn ≠ f) :
    let t := ((s.quiescing f).unpickFn f s.bastings).post .quiesceDone { fn := f }
    s.sameMem t ∧ t.ctxs = s.ctxs := by
  rw [State.quiescing_unpick_of_none s f h]
  exact ⟨State.sameMem_of rfl rfl rfl rfl, rfl⟩

theorem snapMove_takes (cmd : Nat) (w : Snap) (i : Instr) (inp : Inp) :
    SnapTakes s (((s.setSnap f w).snapMove f cmd).post i inp) f { w with cmd := cmd, srcAt := w.src, dstAt := w.dst, lenAt := w.len } (.event i inp) :=
  State.snapTakes_post (s.snapMove_snap f cmd w) _ _

theorem snapMove_sameMem (cmd : Nat) (w : Snap) (i : Instr) (inp : Inp) :
    let t := ((s.setSnap f w).snapMove f cmd).post i inp
    s.sameMem t ∧ t.ctxs = s.ctxs := ⟨State.sameMem_of rfl rfl rfl rfl, rfl⟩

/-- The state that RELEASE leaves. -/
def State.snapReleased : State := (((s.setSnap f (s.snap f).taken).setSnap f ((s.setSnap f (s.snap f).taken).snap f).released).snapEnd f false 0).post .teamPlace {}

theorem snapRelease_takes :
    SnapTakes s (s.snapReleased f) f { s.snap f with busy := false, done := true, err := false, code := 0, quiet := false, quiescing := false, late := false } (.event .teamPlace {}) := by
  refine State.snapTakes_post (fun g => ?_) _ _
  rw [s.snap_setSnap f f, if_pos rfl]
  exact s.released_snap f (s.snap f).taken g

theorem snapRelease_sameMem : s.sameMem (s.snapReleased f) ∧ (s.snapReleased f).ctxs = s.ctxs := by
  unfold State.snapReleased State.snapEnd
  exact (((s.setSnap_data f _).trans (State.setSnap_data ..)).trans (State.setSnap_data ..)).trans (State.post_data ..)

end

end Sys2Proof.Machine

/-! #### The four commands -/

namespace Sys2Proof.Machine
open Sys2Proof.Claims

theorem execSnapCopy_eq (s : State) : exec .snapCopy s = .next (s.snapCommand s.inp.fn (fun w => w.quiet && s.snapRange s.inp.fn) fun t => (t.snapMove s.inp.fn 2).post .copyDone { fn := s.inp.fn }) := rfl
theorem execSnapRestore_eq (s : State) : exec .snapRestore s = .next (s.snapCommand s.inp.fn (fun w => w.quiet) fun t => (t.snapMove s.inp.fn 3).post .restoreDone { fn := s.inp.fn }) := rfl

theorem snap_commands (s : State) (i : Instr) (hi : i ∈ [Instr.snapQuiesce, .snapCopy, .snapRestore, .snapRelease]) :
    let f := s.inp.fn
    let w := s.snap f
    let live := f ∉ s.resetting ∧ (f = 0 ∨ (f ≤ 16 ∧ s.sriov = true))
    let range := w.src.toNat % 4096 = 0 ∧ w.len.toNat % 4096 = 0 ∧ 4096 ≤ w.len.toNat ∧ w.len.toNat ≤ 2 ^ 32 ∧ paPkg w.src.toNat = s.pkg ∧ (s.clus (paClus w.src.toNat)).fn = f ∧
      0x100000000 ≤ paOfs w.src.toNat ∧ paOfs w.src.toNat + w.len.toNat ≤ 0x1FF000000
    let may := (i = .snapQuiesce ∧ w.quiet = false) ∨ (i = .snapCopy ∧ w.quiet = true ∧ range) ∨ (i = .snapRestore ∧ w.quiet = true) ∨ (i = .snapRelease ∧ w.quiet = true)
    ((w.busy = true ∨ ¬ live) → exec i s = .next s) ∧
    (w.busy = false → live → ¬ may → ∃ t, exec i s = .next t ∧ t = { s with snaps := t.snaps } ∧ SnapEnded s t f true 0) ∧
    (w.busy = false → live → may → ∃ t, exec i s = .next t ∧ (i ≠ .snapQuiesce ∨ (∀ e ∈ s.bastings, (s.queue e.1).fn ≠ f) → s.sameMem t ∧ t.ctxs = s.ctxs) ∧ (∀ g, g ≠ f → t.snap g = s.snap g) ∧
      (i = .snapRelease → t.snap f = { w with busy := false, done := true, err := false, code := 0, quiet := false, quiescing := false, late := false } ∧ Sched.event .teamPlace {} ∈ t.pending) ∧
      (i = .snapQuiesce → t.snap f = { w with busy := true, done := false, err := false, code := 0, quiescing := true } ∧ Sched.event .quiesceDone { fn := f } ∈ t.pending ∧
        ∀ q b, s.basting? q = some b → (s.queue q).fn = f → b.st ≠ .committing → t.basting? q = none) ∧
      (i = .snapCopy → t.snap f = { w with busy := true, done := false, err := false, code := 0, cmd := 2, srcAt := w.src, dstAt := w.dst, lenAt := w.len } ∧ Sched.event .copyDone { fn := f } ∈ t.pending) ∧
      (i = .snapRestore → t.snap f = { w with busy := true, done := false, err := false, code := 0, cmd := 3, srcAt := w.src, dstAt := w.dst, lenAt := w.len } ∧ Sched.event .restoreDone { fn := f } ∈ t.pending)) := by
  intro f w live range may
  have hlive : s.fnLive f = true ↔ live := s.fnLive_iff f
  have hrange : s.snapRange f = true ↔ range := s.snapRange_iff f
  clear_value live range
  simp only [List.mem_cons, List.not_mem_nil, or_false] at hi
  rcases hi with rfl | rfl | rfl | rfl
  · obtain ⟨h1, h2, h3⟩ := snapCommand_exec (may := may) (execSnapQuiesce_eq s) (by simp [may, w, f]) hlive
    obtain ⟨others, window, posted⟩ := snapQuiesce_takes s f
    exact ⟨h1, h2, fun hb hl hm => ⟨_, h3 hb hl hm, fun h => snapQuiesce_sameMem s f (h.resolve_left fun h => h rfl), others, nofun, fun _ => ⟨window, posted, fun _ _ => snapQuiesce_gone s f⟩, nofun, nofun⟩⟩
  · obtain ⟨h1, h2, h3⟩ := snapCommand_exec (may := may) (execSnapCopy_eq s) (by simp [may, w, f, hrange]) hlive
    obtain ⟨others, window, posted⟩ := snapMove_takes s f 2 (s.snap f).taken .copyDone { fn := f }
    exact ⟨h1, h2, fun hb hl hm => ⟨_, h3 hb hl hm, fun _ => snapMove_sameMem s f 2 _ _ _, others, nofun, nofun, fun _ => ⟨window, posted⟩, nofun⟩⟩
  · obtain ⟨h1, h2, h3⟩ := snapCommand_exec (may := may) (execSnapRestore_eq s) (by simp [may, w, f]) hlive
    obtain ⟨others, window, posted⟩ := snapMove_takes s f 3 (s.snap f).taken .restoreDone { fn := f }
    exact ⟨h1, h2, fun hb hl hm => ⟨_, h3 hb hl hm, fun _ => snapMove_sameMem s f 3 _ _ _, others, nofun, nofun, nofun, fun _ => ⟨window, posted⟩⟩⟩
  · obtain ⟨h1, h2, h3⟩ := snapCommand_exec (may := may) (execSnapRelease_eq s) (by simp [may, w, f]) hlive
    obtain ⟨others, window, posted⟩ := snapRelease_takes s f
    exact ⟨h1, h2, fun hb hl hm => ⟨_, h3 hb hl hm, fun _ => snapRelease_sameMem s f, others, fun _ => ⟨window, posted⟩, nofun, nofun, nofun⟩⟩

end Sys2Proof.Machine

/-! ### The snapshot milestone (R399, log entry 35) -/

namespace Sys2Proof.Machine
open Sys2Proof.Claims

theorem State.sendDone_portOnly (s : State) (opkg : Nat) (d : DoneItem) : s.PortOnly (s.sendDone opkg d) := by
  rw [State.sendDone]
  split
  · rfl
  · exact (State.PortOnly.refl s).queueItem ..

theorem State.PortOnly.foldl {α : Type} {f : State → α → State} (hf : ∀ (u : State) (x : α), u.PortOnly (f u x)) (l : List α) (s : State) : s.PortOnly (l.foldl f s) :=
  List.foldlRecOn l f (.refl s) fun u hu x _ => hu.trans (hf u x)

/-- An advanced milestone is told to its watches: of the state the cluster and the ports change. -/
theorem State.published_eq (s : State) (c pa : Nat) (new : DWord) : ∃ u : State, u = { s with clusters := u.clusters } ∧ u.PortOnly (s.published c pa new) := by
  unfold State.published
  extract_lets s1 k met s2
  exact ⟨s2, rfl, .foldl (fun v w => v.sendDone_portOnly _ _) met s2⟩

/-- The snapshots and what the host has been told are kept. -/
structure State.SnapKept (s t : State) : Prop where
  snaps : t.snaps = s.snaps
  host : t.host = s.host

theorem State.SnapKept.snap {s t : State} (h : s.SnapKept t) (f : Nat) : t.snap f = s.snap f := by rw [State.snap, h.snaps, State.snap]

theorem State.advance_snapKept (s : State) (c pa key : Nat) (new : DWord) : s.SnapKept (s.advance c pa key new) := by
  have hw := (s.performWrite_homeOnly c none key (cellsAt pa (dwordBytes new))).rest
  obtain ⟨u, hu, hp⟩ := (s.performWrite c none key (cellsAt pa (dwordBytes new))).published_eq c pa new
  have he : s.advance c pa key new = (s.performWrite c none key (cellsAt pa (dwordBytes new))).published c pa new := rfl
  rw [he]
  exact ⟨by rw [hp, hu, hw], by rw [hp, hu, hw]⟩

theorem Wrote.congr {s t u : State} {key pa : Nat} {l : List Byte} (h : Wrote s t key pa l) (hu : t.sameMem u) : Wrote s u key pa l :=
  ⟨(hu.bytesAt ..).trans h.new, fun a ha => (hu a key).trans (h.old a ha), fun a k ha => (hu a k).trans (h.lines a k ha), fun hp a k ha => (hu a k).trans (h.plain hp a k ha)⟩

/-- An aligned word of 8 bytes lies in one line. -/
theorem dword_line {pa : Nat} (h : pa % 8 = 0) (new : DWord) : ∀ j < (dwordBytes new).length, (pa + j) / 64 = pa / 64 := by
  intro j hj
  have hj : j < 8 := hj
  omega

theorem State.advance_wrote {s : State} (h : memWf s.mem = true) (c key : Nat) {pa : Nat} (hpa : pa % 8 = 0) (new : DWord) : Wrote s (s.advance c pa key new) key pa (dwordBytes new) := by
  obtain ⟨u, hu, hp⟩ := (s.performWrite c none key (cellsAt pa (dwordBytes new))).published_eq c pa new
  have written := State.performWrite_wrote h c none key (dword_line hpa new)
  have told : (s.performWrite c none key (cellsAt pa (dwordBytes new))).sameMem u := State.sameMem_of (by rw [hu]) (by rw [hu]) (by rw [hu]) (by rw [hu])
  exact Wrote.congr written (told.trans hp.sameMem)

/-! #### Whether it can advance -/

section
variable {s : State} {f : Nat}

theorem State.quietWalk_snapKept (s : State) (c aspc : Nat) (sp : Space) (a : DWord) (acc : AccKind) (w : Quiet) : s.SnapKept (s.quietWalk c aspc sp a acc w) := by
  rw [State.quietWalk]
  split <;> exact ⟨rfl, rfl⟩

theorem State.quiet_wait_snapKept {c aspc : Nat} {sp : Space} {a : DWord} {acc : AccKind} {w : Quiet} {u : State} (h : s.quiet c aspc sp a acc w = .wait u) : s.SnapKept u := by
  rw [State.quiet] at h
  split at h
  · cases h
  · split at h
    · cases h
    · cases h
      exact s.quietWalk_snapKept ..
    · cases h

theorem State.quiet_fail_snapKept {c aspc : Nat} {sp : Space} {a : DWord} {acc : AccKind} {w : Quiet} {u : State} {code : Byte} (h : s.quiet c aspc sp a acc w = .fail u code) : s.SnapKept u := by
  rw [State.quiet] at h
  split at h
  · cases h
    exact ⟨rfl, rfl⟩
  · split at h
    · cases h
      exact ⟨rfl, rfl⟩
    · cases h
    · cases h

theorem State.snapAdvance_foreign (h : (s.clus (snapClus s f)).fn ≠ f) : s.snapAdvance f = .ok s := if_pos h

theorem State.snapAdvance_wait (hc : (s.clus (snapClus s f)).fn = f) {u : State} (h : snapTranslate s f = .wait u) : s.snapAdvance f = .error u := by
  rw [snapTranslate, snapClus] at h
  rw [snapClus] at hc
  rw [State.snapAdvance]
  dsimp only
  rw [if_neg (not_not_intro hc), h]

theorem State.snapAdvance_fail (hc : (s.clus (snapClus s f)).fn = f) {u : State} {code : Byte} (h : snapTranslate s f = .fail u code) : s.snapAdvance f = .ok u := by
  rw [snapTranslate, snapClus] at h
  rw [snapClus] at hc
  rw [State.snapAdvance]
  dsimp only
  rw [if_neg (not_not_intro hc), h]

/-- A translated milestone that cannot count further, or that no write may reach, is passed over; any other advances by 1. -/
theorem State.snapAdvance_ok (hc : (s.clus (snapClus s f)).fn = f) {pa : Nat} {e : TlbEntry} (h : snapTranslate s f = .ok pa e) :
    s.snapAdvance f = .ok (if e.type = .sealed ∨ e.type = .device ∨ bytesDWord (s.bytesAt pa e.key 8) = BitVec.allOnes 64 ∨ s.poison.contains (pa / 64) = true then s
      else s.advance (snapClus s f) pa e.key (bytesDWord (s.bytesAt pa e.key 8) + 1)) := by
  rw [snapTranslate, snapClus] at h
  rw [snapClus] at hc
  rw [State.snapAdvance]
  dsimp only
  rw [if_neg (not_not_intro hc), h]
  simp only [Bool.or_eq_true, decide_eq_true_eq, or_assoc, snapClus]
  split <;> rfl

theorem State.snapAdvance_ready (h : SnapReady s f) : ∃ t, s.snapAdvance f = .ok t ∧ s.SnapKept t := by
  by_cases hc : (s.clus (snapClus s f)).fn = f
  · have hw := h.resolve_left (not_not_intro hc)
    cases ht : snapTranslate s f with
    | wait u => exact absurd ht (hw u)
    | fail u code => exact ⟨u, State.snapAdvance_fail hc ht, State.quiet_fail_snapKept ht⟩
    | ok pa e =>
      refine ⟨_, State.snapAdvance_ok hc ht, ?_⟩
      split
      · exact ⟨rfl, rfl⟩
      · exact s.advance_snapKept ..
  · exact ⟨s, State.snapAdvance_foreign hc, rfl, rfl⟩

theorem State.snapAdvance_notReady (h : ¬ SnapReady s f) : ∃ t, s.snapAdvance f = .error t ∧ s.SnapKept t := by
  rw [SnapReady, not_or, not_not, not_forall] at h
  obtain ⟨hc, u, hu⟩ := h
  have hu := not_not.mp hu
  exact ⟨u, State.snapAdvance_wait hc hu, State.quiet_wait_snapKept hu⟩

end

/-! #### QUIESCE_DONE -/

theorem State.fnQuiet_iff (s : State) (f : Nat) : s.fnQuiet f = true ↔ (∀ e ∈ s.teams, (s.clus e.1.1).fn ≠ f) ∧ ∀ e ∈ s.clusters, e.2.fn = f → ∀ v ∈ e.2.saved, v.out = 0 := by
  simp [State.fnQuiet, imp_iff_not_or]

/-- The state in which a QUIESCE has ended. -/
def State.quiesced (s : State) (f : Nat) : State := (s.snapEnd f false 0).setSnap f { (s.snapEnd f false 0).snap f with quiet := true }

/-- QUIESCE_DONE once the teams have retired: it waits for the milestone's walk, or ends. -/
def State.quiescedAfter (f : Nat) : Except State State → State
  | .error t => t
  | .ok t => t.quiesced f

theorem execQuiesceDone_quiet {s : State} (h : (s.snap s.inp.fn).quiescing = true) (hq : s.fnQuiet s.inp.fn = true) : exec .quiesceDone s = .next (State.quiescedAfter s.inp.fn (s.snapAdvance s.inp.fn)) := by
  rw [exec_quiesceDone, execQuiesceDone]
  dsimp only
  rw [if_neg (by rw [h]; decide), if_pos hq]
  cases s.snapAdvance s.inp.fn <;> rfl

theorem State.quiesced_snap {s t : State} (h : s.SnapKept t) (f : Nat) :
    (t.quiesced f).snap f = { s.snap f with busy := false, done := true, err := false, code := 0, quiet := true, quiescing := false, late := false } := by
  rw [State.quiesced, State.snap_setSnap, if_pos rfl, State.snapEnd, State.snap_setSnap, if_pos rfl, h.snap]

theorem State.quiesced_sameMem (s : State) (f : Nat) : s.sameMem (s.quiesced f) := ((s.setSnap_data f _).trans (State.setSnap_data ..)).1

theorem quiesce_done (s : State) :
    let f := s.inp.fn
    let quiet := (∀ e ∈ s.teams, (s.clus e.1.1).fn ≠ f) ∧ ∀ e ∈ s.clusters, e.2.fn = f → ∀ v ∈ e.2.saved, v.out = 0
    ((s.snap f).quiescing = false → exec .quiesceDone s = .next s) ∧
    ((s.snap f).quiescing = true → ¬ quiet → exec .quiesceDone s = .next { s with pending := s.pending ++ [.event .quiesceDone s.inp] }) ∧
    ((s.snap f).quiescing = true → quiet →
      (SnapReady s f → ∃ t, exec .quiesceDone s = .next t ∧ t.snap f = { s.snap f with busy := false, done := true, err := false, code := 0, quiet := true, quiescing := false, late := false }) ∧
      ((s.clus (snapClus s f)).fn = f → (∀ u, snapTranslate s f = .wait u → exec .quiesceDone s = .next u) ∧
        ∀ pa e, snapTranslate s f = .ok pa e → e.type ∈ [PageType.normal, .swm] → memWf s.mem = true → pa % 8 = 0 → bytesDWord (s.bytesAt pa e.key 8) ≠ BitVec.allOnes 64 → s.poison.contains (pa / 64) = false →
          ∃ t, exec .quiesceDone s = .next t ∧ Wrote s t e.key pa (dwordBytes (bytesDWord (s.bytesAt pa e.key 8) + 1)))) := by
  intro f quiet
  have hquiet : s.fnQuiet f = true ↔ quiet := s.fnQuiet_iff f
  clear_value quiet
  refine ⟨fun h => ?_, fun h hq => ?_, fun h hq => ?_⟩
  · rw [exec_quiesceDone, execQuiesceDone]
    exact if_pos (by rw [h]; rfl)
  · rw [exec_quiesceDone, execQuiesceDone]
    dsimp only
    rw [if_neg (by rw [h]; decide), if_neg (mt hquiet.mp hq), State.post]
  · have hex := execQuiesceDone_quiet h (hquiet.mpr hq)
    refine ⟨fun hr => ?_, fun hc => ⟨fun u hu => by rw [hex, State.snapAdvance_wait hc hu, State.quiescedAfter], fun pa e he htype hwf hpa hmax hpoison => ?_⟩⟩
    · obtain ⟨t, ht, hk⟩ := State.snapAdvance_ready hr
      rw [hex, ht]
      exact ⟨_, rfl, State.quiesced_snap hk f⟩
    · have hadv := State.snapAdvance_ok hc he
      have htypes : e.type ≠ .sealed ∧ e.type ≠ .device := by
        simp only [List.mem_cons, List.not_mem_nil, or_false] at htype
        rcases htype with h | h <;> rw [h] <;> decide
      rw [if_neg (by simp only [htypes, hmax, hpoison, Bool.false_eq_true, or_self, not_false_eq_true])] at hadv
      rw [hex, hadv]
      exact ⟨_, rfl, Wrote.congr (State.advance_wrote hwf _ _ hpa _) (State.quiesced_sameMem _ _)⟩

end Sys2Proof.Machine

/-! ### COPY (R399, R400) -/

namespace Sys2Proof.Machine
open Sys2Proof.Claims

theorem State.quiet_wait_iff (s : State) (c aspc : Nat) (sp : Space) (a : DWord) (acc : AccKind) (w : Quiet) :
    (∃ u, s.quiet c aspc sp a acc w = .wait u) ↔ (s.clus c).xfails.find? (fun x => x.1 = .quiet w) = none ∧ s.translate c (.quiet w) aspc sp a acc = .miss := by
  rw [State.quiet]
  cases (s.clus c).xfails.find? (fun x => x.1 = .quiet w) with
  | some x => simp
  | none => cases s.translate c (.quiet w) aspc sp a acc <;> simp

/-- Whether the milestone has to wait depends on nothing that the host is told. -/
theorem SnapReady.host {s : State} {f : Nat} (out : List HostOut) : SnapReady { s with host := out } f ↔ SnapReady s f := by
  have hwait : (∃ u, snapTranslate { s with host := out } f = .wait u) ↔ ∃ u, snapTranslate s f = .wait u := by
    rw [snapTranslate, snapTranslate, State.quiet_wait_iff, State.quiet_wait_iff]
    rfl
  rw [SnapReady, SnapReady]
  refine or_congr Iff.rfl ?_
  rw [← not_exists, ← not_exists]
  exact not_congr hwait

/-! #### The end of a command -/

theorem State.snapFinish_ready {s : State} {f : Nat} (h : SnapReady s f) : SnapEnded s (s.snapFinish f) f false 0 ∧ (s.snapFinish f).host = s.host := by
  obtain ⟨t, ht, hk⟩ := State.snapAdvance_ready h
  rw [State.snapFinish, ht]
  exact ⟨State.snapEnd_ended (hk.snap f) false 0, hk.host⟩

theorem State.snapFinish_notReady {s : State} {f : Nat} (h : ¬ SnapReady s f) : (s.snapFinish f).snap f = { s.snap f with late := true } ∧ (s.snapFinish f).host = s.host := by
  obtain ⟨t, ht, hk⟩ := State.snapAdvance_notReady h
  rw [State.snapFinish, ht]
  refine ⟨?_, hk.host⟩
  rw [State.snap_setSnap, if_pos rfl, hk.snap]

/-! #### Lines as stored -/

/-- The state once the host has heard of more. -/
def State.telling (s : State) (out : List HostOut) : State := { s with host := s.host ++ out }

theorem State.telling_telling (s : State) (o o' : List HostOut) : (s.telling o).telling o' = s.telling (o ++ o') := by
  rw [State.telling, State.telling, State.telling, List.append_assoc]

/-- Line k of a copy, as the host hears of it. -/
def State.copied (s : State) (f : Nat) (dst : DWord) (line k : Nat) : HostOut := .stored f (dst + BitVec.ofNat 64 (64 * k)) (s.storedLine (line + k))

theorem State.copied_succ (s : State) (f : Nat) (dst : DWord) (line k : Nat) : s.copied f dst line (k + 1) = s.copied f (dst + 64) (line + 1) k := by
  have hd : dst + BitVec.ofNat 64 (64 * (k + 1)) = dst + 64 + BitVec.ofNat 64 (64 * k) := by
    rw [BitVec.add_assoc, Nat.mul_add, Nat.add_comm (64 * k), BitVec.ofNat_add]
    rfl
  have hl : line + (k + 1) = line + 1 + k := by omega
  rw [State.copied, State.copied, hd, hl]

theorem State.copyLines_clean {f n : Nat} {s : State} {dst : DWord} {line : Nat} (h : ∀ k, k < n → s.poison.contains (line + k) = false) :
    s.copyLines f dst line n = (s.telling ((List.range n).map (s.copied f dst line)), true) := by
  induction n generalizing s dst line with
  | zero => rw [State.copyLines, List.range_zero, List.map_nil, State.telling, List.append_nil]
  | succ n ih =>
    have h0 : s.poison.contains line = false := h 0 (Nat.succ_pos n)
    have hrest : ∀ k, k < n → s.poison.contains (line + 1 + k) = false := fun k hk => by
      have := h (k + 1) (by omega)
      rwa [Nat.add_comm k 1, ← Nat.add_assoc] at this
    have hfirst : s.copied f dst line 0 = .stored f dst (s.storedLine line) := by simp [State.copied]
    have hmap : s.copied f dst line ∘ Nat.succ = s.copied f (dst + 64) (line + 1) := funext fun k => s.copied_succ f dst line k
    rw [State.copyLines, h0, if_neg Bool.false_ne_true, List.range_succ_eq_map, List.map_cons, hfirst, List.map_map, hmap]
    refine (ih (s := s.telling [.stored f dst (s.storedLine line)]) hrest).trans (congrArg (·, true) ?_)
    rw [State.telling_telling]
    rfl

theorem State.copyLines_poisoned {f n : Nat} {s : State} {dst : DWord} {line : Nat} (h : ∃ k, k < n ∧ s.poison.contains (line + k) = true) :
    ∃ out, s.copyLines f dst line n = ({ s with host := out }, false) := by
  induction n generalizing s dst line with
  | zero => exact absurd h (by simp)
  | succ n ih =>
    obtain ⟨k, hk, hp⟩ := h
    rw [State.copyLines]
    split
    · exact ⟨s.host, rfl⟩
    · rename_i hc
      cases k with
      | zero => exact absurd hp hc
      | succ k => exact ih (s := { s with host := s.host ++ [.stored f dst (s.storedLine line)] }) ⟨k, by omega, by rwa [Nat.add_assoc, Nat.add_comm 1 k]⟩

/-! #### COPY_DONE -/

theorem execCopyDone_idle {s : State} (h : ¬ ((s.snap s.inp.fn).busy = true ∧ (s.snap s.inp.fn).cmd = 2)) : exec .copyDone s = .next s := by
  rw [exec_copyDone, execCopyDone]
  exact if_pos (by rwa [Bool.not_eq_true', Bool.eq_false_iff, Ne, Bool.and_eq_true, decide_eq_true_eq])

section
variable {s : State} (h : (s.snap s.inp.fn).busy = true ∧ (s.snap s.inp.fn).cmd = 2)
include h

theorem execCopyDone_late (hl : (s.snap s.inp.fn).late = true) : exec .copyDone s = .next (s.snapFinish s.inp.fn) := by
  rw [exec_copyDone, execCopyDone]
  dsimp only
  rw [if_neg (by simp [h]), if_pos hl]

variable (hl : (s.snap s.inp.fn).late = false)
include hl

theorem execCopyDone_moves {n : Nat} (hn : n = if s.inp.flag then min s.inp.n ((s.snap s.inp.fn).lenAt.toNat / 64) else (s.snap s.inp.fn).lenAt.toNat / 64) {u : State} {done : Bool}
    (hu : s.copyLines s.inp.fn (s.snap s.inp.fn).dstAt ((s.snap s.inp.fn).srcAt.toNat / 64) n = (u, done)) :
    exec .copyDone s = .next (if done = false then u.snapEnd s.inp.fn true cDEAD_PEER else if s.inp.flag then u.snapEnd s.inp.fn true cPERM else u.snapFinish s.inp.fn) := by
  rw [exec_copyDone, execCopyDone]
  dsimp only
  rw [if_neg (by simp [h]), if_neg (by simp [hl]), ← hn, hu]
  generalize s.inp.flag = failed
  cases done <;> cases failed <;> rfl

end

theorem copy_done (s : State) :
    let f := s.inp.fn
    let w := s.snap f
    let n := w.lenAt.toNat / 64
    let line := w.srcAt.toNat / 64
    let copying := w.busy = true ∧ w.cmd = 2
    let clean := ∀ k, k < n → s.poison.contains (line + k) = false
    let copied := fun (t : State) => t.host.length = s.host.length + n ∧ ∀ k, k < n → t.host[s.host.length + k]? = some (.stored f (w.dstAt + BitVec.ofNat 64 (64 * k)) (s.storedLine (line + k)))
    (¬ copying → exec .copyDone s = .next s) ∧
    (copying → w.late = false → clean → s.inp.flag = false → ∃ t, exec .copyDone s = .next t ∧ copied t ∧ (SnapReady s f → SnapEnded s t f false 0) ∧ (¬ SnapReady s f → t.snap f = { w with late := true })) ∧
    (copying → w.late = true → SnapReady s f → ∃ t, exec .copyDone s = .next t ∧ t.host = s.host ∧ SnapEnded s t f false 0) ∧
    (copying → w.late = false → s.inp.flag = false → (∃ k, k < n ∧ s.poison.contains (line + k) = true) → ∃ t, exec .copyDone s = .next t ∧ SnapEnded s t f true 0x50) ∧
    (copying → w.late = false → clean → s.inp.flag = true → ∃ t, exec .copyDone s = .next t ∧ SnapEnded s t f true 0x11) := by
  intro f w n line copying clean copied
  refine ⟨execCopyDone_idle, fun h hl hc hf => ?_, fun h hl hr => ?_, fun h hl hf hp => ?_, fun h hl hc hf => ?_⟩
  · have hu := State.copyLines_clean (f := f) (dst := w.dstAt) hc
    have hhost : ∀ t : State, t.host = s.host ++ (List.range n).map (s.copied f w.dstAt line) → copied t := fun t ht => by
      refine ⟨by rw [ht, List.length_append, List.length_map, List.length_range], fun k hk => ?_⟩
      rw [ht, List.getElem?_append_right (Nat.le_add_right ..), Nat.add_sub_cancel_left, List.getElem?_map, List.getElem?_range hk]
      rfl
    refine ⟨_, execCopyDone_moves h hl (by rw [hf]; rfl) hu, ?_⟩
    rw [if_neg Bool.true_eq_false.mp, hf, if_neg Bool.false_ne_true]
    by_cases hr : SnapReady s f
    · obtain ⟨hend, hh⟩ := State.snapFinish_ready ((SnapReady.host (s.host ++ (List.range n).map (s.copied f w.dstAt line))).mpr hr)
      exact ⟨hhost _ hh, fun _ => hend, fun hn => absurd hr hn⟩
    · obtain ⟨hlate, hh⟩ := State.snapFinish_notReady (mt (SnapReady.host (s.host ++ (List.range n).map (s.copied f w.dstAt line))).mp hr)
      exact ⟨hhost _ hh, fun hy => absurd hy hr, fun _ => hlate⟩
  · obtain ⟨hend, hh⟩ := State.snapFinish_ready hr
    exact ⟨_, execCopyDone_late h hl, hh, hend⟩
  · obtain ⟨out, hu⟩ := State.copyLines_poisoned (f := f) (dst := w.dstAt) hp
    refine ⟨_, execCopyDone_moves h hl (by rw [hf]; rfl) hu, ?_⟩
    rw [if_pos rfl]
    exact State.snapEnd_ended (s := s) rfl true _
  · have hu := State.copyLines_clean (f := f) (n := min s.inp.n n) (dst := w.dstAt) fun k hk => hc k (lt_of_lt_of_le hk (min_le_right ..))
    refine ⟨_, execCopyDone_moves h hl (by rw [hf]; rfl) hu, ?_⟩
    rw [if_neg Bool.true_eq_false.mp, hf, if_pos rfl]
    exact State.snapEnd_ended (s := s) rfl true _

end Sys2Proof.Machine

/-! ### RESTORE (R399, R400, log entry 35) -/

namespace Sys2Proof.Machine
open Sys2Proof.Claims

/-- What a restored line changes: memory and the keys of its blocks, poison, caches and write generations. -/
def State.StoreOnly (s t : State) : Prop := t = { s with mem := t.mem, hbmKey := t.hbmKey, poison := t.poison, cores := t.cores, gens := t.gens }

theorem State.StoreOnly.trans {s t u : State} (h : s.StoreOnly t) (h' : t.StoreOnly u) : s.StoreOnly u := by
  unfold State.StoreOnly at h h' ⊢
  rw [h] at h'
  exact h'

theorem State.StoreOnly.snaps {s t : State} (h : s.StoreOnly t) : t.snaps = s.snaps := by rw [h]

theorem State.StoreOnly.snapLine {s t : State} (h : s.StoreOnly t) (f line : Nat) : t.snapLine f line = s.snapLine f line := by
  rw [h]
  rfl

/-- A line is laid down: its bytes and its blocks' keys, with no poison left and no copy cached. -/
def State.layLine (s : State) (line : Nat) (bytes : List Byte) (keys : Assoc Nat (Option (List Byte))) : State :=
  ({ s.invalidate (paClus (64 * line)) none line with mem := memPutList s.mem (64 * line) bytes, hbmKey := keys, poison := s.poison.filter (· ≠ line) } : State).bumpGen (64 * line)

theorem State.layLine_storeOnly (s : State) (line : Nat) (bytes : List Byte) (keys : Assoc Nat (Option (List Byte))) : s.StoreOnly (s.layLine line bytes keys) := rfl

/-- A line read from board memory, put in its place. -/
def State.restoreLine (s : State) (line : Nat) (x : List Byte) : State :=
  s.layLine line ((List.range 64).map (fun k => x.getD k 0)) ((List.range 4).foldl (fun m j => Assoc.put (4 * line + j) none m) s.hbmKey)

theorem State.restoreLine_storeOnly (s : State) (line : Nat) (x : List Byte) : s.StoreOnly (s.restoreLine line x) := s.layLine_storeOnly ..

theorem State.layLine_mem (s : State) (line : Nat) (bytes : List Byte) (keys : Assoc Nat (Option (List Byte))) : (s.layLine line bytes keys).mem = memPutList s.mem (64 * line) bytes := rfl
theorem State.layLine_hbmKey (s : State) (line : Nat) (bytes : List Byte) (keys : Assoc Nat (Option (List Byte))) : (s.layLine line bytes keys).hbmKey = keys := rfl
theorem State.layLine_poison (s : State) (line : Nat) (bytes : List Byte) (keys : Assoc Nat (Option (List Byte))) : (s.layLine line bytes keys).poison = s.poison.filter (· ≠ line) := rfl

theorem State.restoreLines_cons (s : State) (f line : Nat) (x : List Byte) (xs : List (List Byte)) :
    s.restoreLines f line (x :: xs) = (if s.snapLine f line then s.restoreLine line x else s).restoreLines f (line + 1) xs := by
  rw [State.restoreLines, State.putStored, State.restoreLine, State.layLine]
  rfl

theorem State.restoreLines_storeOnly (f : Nat) (l : List (List Byte)) (s : State) (line : Nat) : s.StoreOnly (s.restoreLines f line l) := by
  induction l generalizing s line with
  | nil => rfl
  | cons x xs ih =>
    rw [State.restoreLines_cons]
    refine State.StoreOnly.trans ?_ (ih _ _)
    split
    · exact s.restoreLine_storeOnly line x
    · rfl

/-! #### The keys of blocks -/

theorem Assoc.get_putNone {α : Type} (n : Nat) (b j : Nat) (m : Assoc Nat (Option α)) :
    Assoc.get none j ((List.range n).foldl (fun m i => Assoc.put (b + i) none m) m) = if b ≤ j ∧ j < b + n then none else Assoc.get none j m := by
  induction n with
  | zero => rw [if_neg (by omega)]; rfl
  | succ n ih =>
    rw [List.range_succ, List.foldl_append, List.foldl_cons, List.foldl_nil, Assoc.get_put, ih]
    by_cases hj : b + n = j
    · rw [if_pos hj, if_pos (by omega)]
    · rw [if_neg hj]
      exact if_congr (by omega) rfl rfl

theorem Assoc.has_put {κ α : Type} [DecidableEq κ] (k j : κ) (v : α) (m : Assoc κ α) : Assoc.has j (Assoc.put k v m) = (decide (k = j) || Assoc.has j m) := by
  by_cases h : k = j
  · subst h
    rw [decide_eq_true rfl, Bool.true_or, Assoc.has_iff]
    exact List.mem_map.mpr ⟨_, Assoc.mem_put k v m, rfl⟩
  · rw [Assoc.has_put_ne h, decide_eq_false h, Bool.false_or]

theorem Assoc.has_putNone {α : Type} (n : Nat) (b j : Nat) (m : Assoc Nat (Option α)) :
    Assoc.has j ((List.range n).foldl (fun m i => Assoc.put (b + i) none m) m) = (decide (b ≤ j ∧ j < b + n) || Assoc.has j m) := by
  induction n with
  | zero => rw [decide_eq_false (by omega), Bool.false_or]; rfl
  | succ n ih =>
    rw [List.range_succ, List.foldl_append, List.foldl_cons, List.foldl_nil, Assoc.has_put, ih, ← Bool.or_assoc, ← Bool.decide_or]
    exact congrArg (· || _) (decide_eq_decide.mpr (by omega))

/-! #### Lines as stored -/

/-- What a line is stored as depends on its bytes and its blocks' keys. -/
theorem State.storedLine_congr {s t : State} {line : Nat} (hboot : t.boot = s.boot) (hm : ∀ a, a / 64 = line → memGet t.mem a = memGet s.mem a)
    (hk : ∀ j, j / 4 = line → t.blockKey j = s.blockKey j ∧ Assoc.has j t.hbmKey = Assoc.has j s.hbmKey) : t.storedLine line = s.storedLine line := by
  rw [State.storedLine, State.storedLine]
  refine List.flatMap_congr fun j hj => ?_
  have hj := List.mem_range.mp hj
  obtain ⟨hkey, hhas⟩ := hk (4 * line + j) (by omega)
  have hheld : t.heldBlock (4 * line + j) = s.heldBlock (4 * line + j) := List.map_congr_left fun k hk => hm _ (by have := List.mem_range.mp hk; omega)
  rw [State.cipherBlock, State.cipherBlock, hkey, hhas, hheld, hboot]

/-- A line whose blocks hold cipher text is stored as the bytes it lists. -/
theorem State.storedLine_of_cipher {s : State} {line : Nat} (hk : ∀ j, j < 4 → s.blockKey (4 * line + j) = none ∧ Assoc.has (4 * line + j) s.hbmKey = true) :
    s.storedLine line = (List.range 64).map (fun k => memGet s.mem (64 * line + k)) := by
  have hblocks : s.storedLine line = (List.range 4).flatMap (fun j => (List.range 16).map (fun k => memGet s.mem (64 * line + (16 * j + k)))) := by
    refine List.flatMap_congr fun j hj => ?_
    obtain ⟨hkey, hhas⟩ := hk j (List.mem_range.mp hj)
    rw [State.cipherBlock, hkey]
    dsimp only
    rw [if_pos hhas]
    exact List.map_congr_left fun k _ => by rw [show 16 * (4 * line + j) + k = 64 * line + (16 * j + k) by omega]
  rw [hblocks]
  rfl

theorem range_map_getD {α : Type} (x : List α) (d : α) : (List.range x.length).map (fun k => x.getD k d) = x :=
  List.ext_getElem (by simp) fun k h1 h2 => by rw [List.getElem_map, List.getElem_range, List.getD_eq_getElem _ _ h2]

section
variable {s : State} (h : memWf s.mem = true)
include h

theorem State.restoreLine_memGet (line : Nat) (x : List Byte) (a : Nat) : memGet (s.restoreLine line x).mem a = if a / 64 = line then x.getD (a - 64 * line) 0 else memGet s.mem a := by
  rw [State.restoreLine, State.layLine_mem, memGet_putList h, List.length_map, List.length_range]
  by_cases ha : a / 64 = line
  · have hlt : a - 64 * line < 64 := by omega
    rw [if_pos (by omega), if_pos ha, List.getD_eq_getElem _ _ (by rw [List.length_map, List.length_range]; exact hlt), List.getElem_map, List.getElem_range]
  · rw [if_neg (by omega), if_neg ha]

theorem State.restoreLine_stored (line : Nat) {x : List Byte} (hx : x.length = 64) : (s.restoreLine line x).storedLine line = x := by
  rw [State.storedLine_of_cipher fun j hj => ?_]
  · have hget : ∀ k ∈ List.range 64, memGet (s.restoreLine line x).mem (64 * line + k) = x.getD k 0 := fun k hk => by
      have hk := List.mem_range.mp hk
      rw [State.restoreLine_memGet h, if_pos (by omega), Nat.add_sub_cancel_left]
    rw [List.map_congr_left hget, ← hx, range_map_getD]
  · rw [State.blockKey, State.restoreLine, State.layLine_hbmKey, Assoc.get_putNone, Assoc.has_putNone, if_pos (by omega), decide_eq_true (by omega)]
    exact ⟨rfl, rfl⟩

theorem State.restoreLine_stored_ne {line k : Nat} (hk : k ≠ line) (x : List Byte) : (s.restoreLine line x).storedLine k = s.storedLine k := by
  refine State.storedLine_congr ?_ (fun a ha => ?_) fun j hj => ?_
  · rw [s.restoreLine_storeOnly line x]
  · rw [State.restoreLine_memGet h, if_neg (by omega)]
  · rw [State.blockKey, State.restoreLine, State.layLine_hbmKey, Assoc.get_putNone, Assoc.has_putNone, if_neg (by omega), decide_eq_false (by omega)]
    exact ⟨rfl, rfl⟩

theorem State.restoreLine_wf (line : Nat) (x : List Byte) : memWf (s.restoreLine line x).mem = true := by
  rw [State.restoreLine, State.layLine_mem]
  exact memPutList_wf h _ _

end

/-! #### Ranges of lines -/

theorem State.restoreLines_other {f k : Nat} (l : List (List Byte)) {s : State} (h : memWf s.mem = true) {line : Nat} (hk : k < line ∨ line + l.length ≤ k ∨ s.snapLine f k = false) :
    (s.restoreLines f line l).storedLine k = s.storedLine k := by
  induction l generalizing s line with
  | nil => rfl
  | cons x xs ih =>
    have hrest : k < line + 1 ∨ line + 1 + xs.length ≤ k ∨ s.snapLine f k = false := by
      rw [List.length_cons] at hk
      exact hk.imp (by omega) (Or.imp_left (by omega))
    rw [State.restoreLines_cons]
    split
    · rename_i hline
      have hne : k ≠ line := by
        rintro rfl
        simp [hline] at hk
      have hmine := (s.restoreLine_storeOnly line x).snapLine f k
      rw [ih (State.restoreLine_wf h line x) (by rwa [hmine]), State.restoreLine_stored_ne h hne]
    · exact ih h hrest

theorem State.restoreLines_poison {f k : Nat} (l : List (List Byte)) {s : State} {line : Nat} (hk : k ∉ s.poison) : k ∉ (s.restoreLines f line l).poison := by
  induction l generalizing s line with
  | nil => exact hk
  | cons x xs ih =>
    rw [State.restoreLines_cons]
    split
    · refine ih ?_
      rw [State.restoreLine, State.layLine_poison]
      exact fun hm => hk (List.mem_filter.mp hm).1
    · exact ih hk

theorem State.restoreLines_own {f k : Nat} {x : List Byte} (hx : x.length = 64) {l : List (List Byte)} (hl : l[k]? = some x) {s : State} (h : memWf s.mem = true) {line : Nat} (hk : s.snapLine f (line + k) = true) :
    (s.restoreLines f line l).storedLine (line + k) = x ∧ line + k ∉ (s.restoreLines f line l).poison := by
  induction l generalizing s line k with
  | nil => cases hl
  | cons y ys ih =>
    rw [State.restoreLines_cons]
    cases k with
    | zero =>
      obtain rfl : y = x := Option.some.inj hl
      simp only [Nat.add_zero] at hk ⊢
      rw [if_pos hk]
      refine ⟨?_, State.restoreLines_poison ys ?_⟩
      · have hlater := State.restoreLines_other (f := f) ys (State.restoreLine_wf h line y) (line := line + 1) (.inl (Nat.lt_succ_self line))
        rw [hlater, State.restoreLine_stored h line hx]
      · rw [State.restoreLine, State.layLine_poison]
        simp
    | succ k =>
      rw [← Nat.add_assoc, Nat.add_right_comm] at hk ⊢
      split
      · exact ih hl (State.restoreLine_wf h line y) (by rwa [(s.restoreLine_storeOnly line y).snapLine])
      · exact ih hl h hk

/-! #### RESTORE_DONE -/

theorem execRestoreDone_idle {s : State} (h : ¬ ((s.snap s.inp.fn).busy = true ∧ (s.snap s.inp.fn).cmd = 3)) : exec .restoreDone s = .next s := by
  rw [exec_restoreDone, execRestoreDone]
  exact if_pos (by rwa [Bool.not_eq_true', Bool.eq_false_iff, Ne, Bool.and_eq_true, decide_eq_true_eq])

section
variable {s : State} (h : (s.snap s.inp.fn).busy = true ∧ (s.snap s.inp.fn).cmd = 3) (hl : (s.snap s.inp.fn).late = false)
include h hl

theorem execRestoreDone_lines {l : List (List Byte)} (hload : s.inp.load = .lines l) {u : State}
    (hu : s.restoreLines s.inp.fn ((s.snap s.inp.fn).srcAt.toNat / 64) (l.take ((s.snap s.inp.fn).lenAt.toNat / 64)) = u) :
    exec .restoreDone s = .next (if s.inp.flag then u.snapEnd s.inp.fn true cPERM else u.snapFinish s.inp.fn) := by
  rw [exec_restoreDone, execRestoreDone]
  dsimp only
  rw [if_neg (by simp [h]), if_neg (by simp [hl]), hload]
  dsimp only
  rw [hu]

theorem execRestoreDone_none (hload : ∀ l, s.inp.load ≠ .lines l) (hf : s.inp.flag = true) : exec .restoreDone s = .next (s.snapEnd s.inp.fn true cPERM) := by
  rw [exec_restoreDone, execRestoreDone]
  dsimp only
  rw [if_neg (by simp [h]), if_neg (by simp [hl])]
  split
  · rename_i l hload'
    exact absurd hload' (hload l)
  · rw [if_pos hf]

end

theorem State.snapFinish_foreign {s : State} {f : Nat} (h : (s.clus (snapClus s f)).fn ≠ f) : s.snapFinish f = s.snapEnd f false 0 := by
  rw [State.snapFinish, State.snapAdvance_foreign h]

theorem State.StoreOnly.ended {s u : State} (h : s.StoreOnly u) (f : Nat) (err : Bool) (code : Byte) : SnapEnded s (u.snapEnd f err code) f err code :=
  State.snapEnd_ended (by rw [State.snap, h.snaps, State.snap]) err code

theorem restore_done (s : State) :
    let f := s.inp.fn
    let w := s.snap f
    let n := w.lenAt.toNat / 64
    let line := w.srcAt.toNat / 64
    let restoring := w.busy = true ∧ w.cmd = 3
    let mine := fun (k : Nat) => paPkg (64 * k) = s.pkg ∧ (s.clus (paClus (64 * k))).fn = f ∧ paRegion (64 * k) = .hbm
    (¬ restoring → exec .restoreDone s = .next s) ∧
    (restoring → w.late = false → s.inp.flag = true → ∃ t, exec .restoreDone s = .next t ∧ SnapEnded s t f true 0x11 ∧ ((∀ l, s.inp.load ≠ .lines l) → s.sameMem t)) ∧
    (∀ l : List (List Byte), restoring → w.late = false → s.inp.flag = false → s.inp.load = .lines l → l.length = n → memWf s.mem = true → (s.clus (snapClus s f)).fn ≠ f → ∃ t, exec .restoreDone s = .next t ∧ SnapEnded s t f false 0 ∧
      (∀ k x, l[k]? = some x → x.length = 64 → mine (line + k) → t.storedLine (line + k) = x ∧ (line + k) ∉ t.poison) ∧
      ∀ k, (k < line ∨ line + n ≤ k ∨ ¬ mine k) → t.storedLine k = s.storedLine k) := by
  intro f w n line restoring mine
  refine ⟨execRestoreDone_idle, fun h hl hf => ?_, fun l h hl hf hload hlen hwf hc => ?_⟩
  · by_cases hload : ∃ l, s.inp.load = .lines l
    · obtain ⟨l, hload⟩ := hload
      have stored := State.restoreLines_storeOnly f (l.take n) s line
      have hex := execRestoreDone_lines h hl hload rfl
      rw [hf, if_pos rfl] at hex
      exact ⟨_, hex, stored.ended f true _, fun hno => absurd hload (hno l)⟩
    · rw [not_exists] at hload
      exact ⟨_, execRestoreDone_none h hl hload hf, State.snapEnd_ended rfl true _, fun _ => (s.setSnap_data f _).1⟩
  · have hmine : ∀ k, s.snapLine f k = true ↔ mine k := fun k => by simp only [State.snapLine, Bool.and_eq_true, decide_eq_true_eq, and_assoc, mine]
    have stored := State.restoreLines_storeOnly f l s line
    have hown := fun k x hx hlen hk => State.restoreLines_own (f := f) (line := line) (k := k) (x := x) hlen (l := l) hx hwf ((hmine _).mpr hk)
    have hother := fun k hk => State.restoreLines_other (f := f) (k := k) (line := line) l hwf hk
    have hex := execRestoreDone_lines h hl hload (u := s.restoreLines f line l) (by rw [List.take_of_length_le hlen.le])
    generalize s.restoreLines f line l = u at stored hown hother hex
    have hforeign : (u.clus (snapClus u f)).fn ≠ f := by
      rw [stored]
      exact hc
    rw [hf, if_neg Bool.false_ne_true, State.snapFinish_foreign hforeign] at hex
    refine ⟨_, hex, stored.ended f false 0, hown, fun k hk => hother k ?_⟩
    rw [hlen]
    exact hk.imp id (Or.imp id fun hn => Bool.eq_false_iff.mpr (mt (hmine k).mp hn))

end Sys2Proof.Machine

/-! ### O58 -/

namespace Sys2Proof.Machine
open Sys2Proof.Claims

/-- Settles O58: soft errors event by event, then the snapshot commands and the ends of QUIESCE, COPY and RESTORE. -/
theorem errorsAndSnapshots : Obligations.ErrorsAndSnapshots := by
  unfold Obligations.ErrorsAndSnapshots
  refine ⟨corrected_error, telemetry_update, uncorrectable_error, hbm_link_tag_fail, parity_regs, parity_noSlot, parity_tlb, parity_watch, snap_commands, quiesce_done, fun s => ?_⟩
  obtain ⟨copyIdle, copyEnds, copyLate, copyPoisoned, copyFails⟩ := copy_done s
  obtain ⟨restoreIdle, restoreFails, restoreEnds⟩ := restore_done s
  exact ⟨copyIdle, restoreIdle, copyEnds, copyLate, copyPoisoned, copyFails, restoreFails, restoreEnds⟩

end Sys2Proof.Machine

/-! ### O35: rounding and conversion of number formats (R76, R77, R79, R80)

A value m times 2^e is the natural number M in units of 2^q, for a q below every place that matters; rounding it at a place is then rounding M to a
multiple of the number D of units that the place has. -/

namespace Sys2Proof.Machine
open Sys2Proof.Claims

/-- A magnitude with its sign. -/
def withSign (neg : Bool) (n : Nat) : Int := (if neg then -1 else 1) * n

theorem withSign_eq (neg : Bool) (n : Nat) : withSign neg n = if neg then -(n : Int) else n := by
  cases neg <;> simp [withSign]

@[simp] theorem natAbs_withSign (neg : Bool) (n : Nat) : (withSign neg n).natAbs = n := by
  cases neg <;> simp [withSign]

theorem withSign_nonneg (neg : Bool) (n : Nat) : 0 ≤ withSign neg n ↔ neg = false ∨ n = 0 := by
  cases neg <;> simp [withSign]

theorem withSign_nonpos (neg : Bool) (n : Nat) : withSign neg n ≤ 0 ↔ neg = true ∨ n = 0 := by
  cases neg <;> simp [withSign]

theorem withSign_mul (neg : Bool) (n d : Nat) : withSign neg (n * d) = withSign neg n * d := by
  simp [withSign]

theorem units_fin (neg : Bool) (m : Nat) (e q : Int) : (Fl.fin neg m e).units q = withSign neg (m * 2 ^ (e - q).toNat) := rfl

/-! #### Rounding to a multiple -/

/-- Whether a mode takes t * d + r up to (t + 1) * d (R76, R77). -/
def roundsUp (mode : RMode) (step : Word) (neg : Bool) (t r d : Nat) : Bool :=
  match mode with
  | .rne => d < 2 * r || (2 * r = d && t % 2 = 1)
  | .rtz => false
  | .rdn => neg && r ≠ 0
  | .rup => !neg && r ≠ 0
  | .rsto => step.toNat / 2 ^ 8 < r * 2 ^ 24 / d

/-- How many times d stands in the multiple of d that a mode rounds n to. -/
def multiple (mode : RMode) (step : Word) (neg : Bool) (n d : Nat) : Nat :=
  if roundsUp mode step neg (n / d) (n % d) d then n / d + 1 else n / d

theorem roundsUp_zero (mode : RMode) (step : Word) (neg : Bool) (t : Nat) {d : Nat} (hd : 0 < d) : roundsUp mode step neg t 0 d = false := by
  cases mode <;> simp [roundsUp, hd.ne]

theorem roundsUp_scale (mode : RMode) (step : Word) (neg : Bool) (t r d : Nat) {c : Nat} (hc : 0 < c) :
    roundsUp mode step neg t (r * c) (d * c) = roundsUp mode step neg t r d := by
  cases mode with
  | rne => simp only [roundsUp, ← mul_assoc, Nat.mul_lt_mul_right hc, Nat.mul_left_inj hc.ne']
  | rtz => rfl
  | rdn => simp [roundsUp, hc.ne']
  | rup => simp [roundsUp, hc.ne']
  | rsto => simp only [roundsUp, mul_right_comm r c, Nat.mul_div_mul_right _ _ hc]

theorem multiple_mul (mode : RMode) (step : Word) (neg : Bool) (t : Nat) {d : Nat} (hd : 0 < d) : multiple mode step neg (t * d) d = t := by
  simp [multiple, roundsUp_zero, hd]

theorem multiple_mul_of_zero (mode : RMode) (step : Word) (neg : Bool) {n d : Nat} (hd : 0 < d) (hn : n = 0) : multiple mode step neg n d * d = 0 := by
  rw [hn, ← Nat.zero_mul d, multiple_mul _ _ _ _ hd]

theorem multiple_scale (mode : RMode) (step : Word) (neg : Bool) (n d : Nat) {c : Nat} (hc : 0 < c) :
    multiple mode step neg (n * c) (d * c) = multiple mode step neg n d := by
  simp only [multiple, Nat.mul_div_mul_right _ _ hc, Nat.mul_mod_mul_right, roundsUp_scale mode step neg _ _ _ hc]

theorem multiple_eq_or (mode : RMode) (step : Word) (neg : Bool) (n d : Nat) :
    multiple mode step neg n d = n / d ∨ multiple mode step neg n d = n / d + 1 :=
  (ite_eq_or_eq _ _ _).symm

theorem two_pow_toNat_sub {a b c : Int} (hab : a ≤ b) (hbc : b ≤ c) : 2 ^ (c - a).toNat = 2 ^ (c - b).toNat * 2 ^ (b - a).toNat := by
  rw [← pow_add]
  congr 1
  omega

/-- `roundAt` at the place p, in units of a place q that lies below. -/
theorem roundAt_eq_multiple (mode : RMode) (step : Word) (neg : Bool) (m : Nat) {e p q : Int} (he : q ≤ e) (hp : q ≤ p) :
    roundAt mode step neg m e false p = multiple mode step neg (m * 2 ^ (e - q).toNat) (2 ^ (p - q).toNat) := by
  by_cases hpe : p ≤ e
  · rw [two_pow_toNat_sub hp hpe, ← mul_assoc, multiple_mul _ _ _ _ (by positivity), roundAt, if_pos hpe]
  · rw [two_pow_toNat_sub he (not_le.mp hpe).le, multiple_scale _ _ _ _ _ (by positivity), roundAt, if_neg hpe, multiple]
    cases mode <;> simp [roundsUp, Nat.shiftRight_eq_div_pow]

theorem roundAt_zero (mode : RMode) (step : Word) (neg : Bool) (e p : Int) : roundAt mode step neg 0 e false p = 0 := by
  rw [roundAt_eq_multiple mode step neg 0 (min_le_left e p) (min_le_right e p), multiple]
  simp [roundsUp_zero]

/-! #### The rounded number among its neighbours -/

/-- The multiples of d next to n on either side stand on a grid of magnitudes with nothing of it between them, the even ones of them being even
there. -/
structure Neighbours (G even : Int → Prop) (n d : Nat) : Prop where
  pos : 0 < d
  mag : ∀ g, G g ↔ G (g.natAbs : Int)
  evenMag : ∀ g, even g ↔ even (g.natAbs : Int)
  lower : G ((n / d * d : Nat) : Int)
  upper : G (((n / d + 1) * d : Nat) : Int)
  gap : ∀ g : Nat, G g → g ≤ n / d * d ∨ (n / d + 1) * d ≤ g
  evens : ∀ t, t = n / d ∨ t = n / d + 1 → t % 2 = 0 → even ((t * d : Nat) : Int)

section
variable {G even : Int → Prop} {n d : Nat} (h : Neighbours G even n d) (step : Word) (neg : Bool)
include h

/-- The rounded number stands on the grid, and a value of the grid is its own rounding. -/
theorem Neighbours.onto (mode : RMode) : G (withSign neg (multiple mode step neg n d * d)) ∧ (G (withSign neg n) → multiple mode step neg n d * d = n) := by
  constructor
  · rw [h.mag, natAbs_withSign]
    obtain hy | hy := multiple_eq_or mode step neg n d <;> rw [hy]
    exacts [h.lower, h.upper]
  · intro hg
    rw [h.mag, natAbs_withSign] at hg
    have hd : d ∣ n := by
      have hdiv := Nat.div_add_mod' n d
      have hmod := Nat.mod_lt n h.pos
      have hgap := h.gap n hg
      rw [Nat.succ_mul] at hgap
      exact Nat.dvd_of_mod_eq_zero (by omega)
    rw [multiple, Nat.mod_eq_zero_of_dvd hd, roundsUp_zero _ _ _ _ h.pos, if_neg Bool.false_ne_true, Nat.div_mul_cancel hd]

/-- Of the grid nothing lies between the two neighbours, whatever its sign. -/
theorem Neighbours.outside {g : Int} (hg : G g) : g.natAbs ≤ n / d * d ∨ n / d * d + d ≤ g.natAbs :=
  Nat.succ_mul (n / d) d ▸ h.gap _ ((h.mag g).mp hg)

/-- The rounded magnitude is one of two neighbours a and a + d, by the condition under which the mode rounds up, and the grid has nothing between them. -/
theorem Neighbours.rounded (mode : RMode) (up : Prop) [Decidable up] (hup : roundsUp mode step neg (n / d) (n % d) d = true ↔ up) :
    ∃ a r, n = a + r ∧ r < d ∧ n % d = r ∧ multiple mode step neg n d * d = (if up then a + d else a) ∧ ∀ g, G g → g.natAbs ≤ a ∨ a + d ≤ g.natAbs := by
  refine ⟨n / d * d, n % d, (Nat.div_add_mod' n d).symm, Nat.mod_lt n h.pos, rfl, ?_, fun g => h.outside⟩
  simp only [multiple, hup, ite_mul, Nat.succ_mul]

theorem Neighbours.rdn : let y := withSign neg (multiple .rdn step neg n d * d); y ≤ withSign neg n ∧ ∀ g, G g → g ≤ withSign neg n → g ≤ y := by
  obtain ⟨a, r, hn, hr, hmod, hy, hgap⟩ := h.rounded step neg .rdn (neg = true ∧ n % d ≠ 0) (by simp [roundsUp])
  rw [hy, hmod, hn]
  refine ⟨?_, fun g hg => ?_⟩
  · cases neg <;> simp only [withSign_eq] <;> grind
  · have := hgap g hg
    cases neg <;> simp only [withSign_eq] <;> grind

theorem Neighbours.rup : let y := withSign neg (multiple .rup step neg n d * d); withSign neg n ≤ y ∧ ∀ g, G g → withSign neg n ≤ g → y ≤ g := by
  obtain ⟨a, r, hn, hr, hmod, hy, hgap⟩ := h.rounded step neg .rup (neg = false ∧ n % d ≠ 0) (by simp [roundsUp])
  rw [hy, hmod, hn]
  refine ⟨?_, fun g hg => ?_⟩
  · cases neg <;> simp only [withSign_eq] <;> grind
  · have := hgap g hg
    cases neg <;> simp only [withSign_eq] <;> grind

theorem Neighbours.rtz : multiple .rtz step neg n d * d ≤ n ∧ ∀ g, G g → g.natAbs ≤ n → g.natAbs ≤ multiple .rtz step neg n d * d := by
  obtain ⟨a, r, hn, hr, hmod, hy, hgap⟩ := h.rounded step neg .rtz False (by simp [roundsUp])
  rw [hy, hn, if_neg id]
  exact ⟨Nat.le_add_right a r, fun g hg hle => by have := hgap g hg; omega⟩

/-- At a tie the even neighbour is taken. -/
theorem Neighbours.rne_even (htie : 2 * (n % d) = d) : even (withSign neg (multiple .rne step neg n d * d)) := by
  rw [h.evenMag, natAbs_withSign]
  refine h.evens _ (multiple_eq_or _ _ _ _ _) ?_
  simp only [multiple, roundsUp, htie]
  grind

theorem Neighbours.rne : let y := withSign neg (multiple .rne step neg n d * d)
    ∀ g, G g → (y - withSign neg n).natAbs ≤ (g - withSign neg n).natAbs ∧ ((y - withSign neg n).natAbs = (g - withSign neg n).natAbs → g ≠ y → even y) := by
  intro y g hg
  obtain ⟨a, r, hn, hr, hmod, hy, hgap⟩ := h.rounded step neg .rne (d < 2 * (n % d) ∨ 2 * (n % d) = d ∧ n / d % 2 = 1) (by simp [roundsUp])
  have hout := hgap g hg
  have hnear : (y - withSign neg n).natAbs ≤ (g - withSign neg n).natAbs ∧ ((y - withSign neg n).natAbs = (g - withSign neg n).natAbs → g ≠ y → 2 * r = d) := by
    simp only [y, withSign_eq]
    grind
  exact ⟨hnear.1, fun heq hne => h.rne_even step neg (hmod ▸ hnear.2 heq hne)⟩

theorem Neighbours.rsto : ∃ a b : Nat, a ≤ n ∧ n < b ∧ G a ∧ G b ∧ (∀ g : Nat, G g → g ≤ a ∨ b ≤ g) ∧
    multiple .rsto step neg n d * d = if step.toNat / 2 ^ 8 < (n - a) * 2 ^ 24 / (b - a) then b else a := by
  have hdiv := Nat.div_add_mod' n d
  have hmod := Nat.mod_lt n h.pos
  have hnext := Nat.add_one_mul (n / d) d
  refine ⟨n / d * d, (n / d + 1) * d, by omega, by omega, h.lower, h.upper, h.gap, ?_⟩
  rw [show n - n / d * d = n % d by omega, show (n / d + 1) * d - n / d * d = d by omega]
  simp only [multiple, roundsUp, decide_eq_true_eq, ite_mul]

/-- Rounding to a multiple of d is rounding onto the grid. -/
theorem Neighbours.rounds (mode : RMode) : Rounds G even mode step (withSign neg n) (withSign neg (multiple mode step neg n d * d)) := by
  have honto := h.onto step neg mode
  refine ⟨honto.1, fun hg => congrArg (withSign neg) (honto.2 hg), ?_, ?_, ?_, ?_, ?_, ?_, ?_⟩
  · simpa only [withSign_nonneg] using Or.imp_right (multiple_mul_of_zero mode step neg h.pos)
  · simpa only [withSign_nonpos] using Or.imp_right (multiple_mul_of_zero mode step neg h.pos)
  · rintro rfl
    exact h.rdn step neg
  · rintro rfl
    exact h.rup step neg
  · rintro rfl
    simpa only [natAbs_withSign] using h.rtz step neg
  · rintro rfl
    exact h.rne step neg
  · rintro rfl
    simpa only [natAbs_withSign] using h.rsto step neg

end

/-! #### The grid of a floating format -/

theorem onGrid_natAbs (f k0 : Nat) (g : Int) : onGrid f k0 g ↔ onGrid f k0 (g.natAbs : Int) := by
  simp only [onGrid, Int.natAbs_natCast]

theorem evenGrid_natAbs (f k0 : Nat) (g : Int) : evenGrid f k0 g ↔ evenGrid f k0 (g.natAbs : Int) := by
  simp only [evenGrid, Int.natAbs_natCast]

/-- 2^(f + 1) times a power is on the grid as well: as 2^f times the next power. -/
theorem onGrid_mul {f k0 k n : Nat} (hk : k0 ≤ k) (hn : n ≤ 2 ^ (f + 1)) : onGrid f k0 ((n * 2 ^ k : Nat) : Int) := by
  obtain hlt | rfl := hn.lt_or_eq
  · exact ⟨n, k, hlt, hk, Int.natAbs_natCast _⟩
  · exact ⟨2 ^ f, k + 1, Nat.pow_lt_pow_right (by decide) f.lt_succ_self, hk.trans k.le_succ, by rw [Int.natAbs_natCast]; ring⟩

theorem evenGrid_mul {f k0 k n : Nat} (hf : 0 < f) (hk : k0 ≤ k) (hn : n ≤ 2 ^ (f + 1)) (hlow : k = k0 ∨ 2 ^ f ≤ n) (heven : n % 2 = 0) :
    evenGrid f k0 ((n * 2 ^ k : Nat) : Int) := by
  obtain hlt | rfl := hn.lt_or_eq
  · exact ⟨n, k, hlt, heven, by omega, Int.natAbs_natCast _⟩
  · have htwo : 2 ^ f % 2 = 0 := Nat.mod_eq_zero_of_dvd (dvd_pow_self 2 hf.ne')
    exact ⟨2 ^ f, k + 1, Nat.pow_lt_pow_right (by decide) f.lt_succ_self, htwo, .inr ⟨hk.trans k.le_succ, le_rfl⟩, by rw [Int.natAbs_natCast]; ring⟩

/-- Between neighbouring multiples of 2^k of f + 1 bits a grid number would have a lower place, and then more than f + 1 bits. -/
theorem onGrid_gap {f k0 k t g : Nat} (hlow : k = k0 ∨ 2 ^ f ≤ t) (hg : onGrid f k0 g) : g ≤ t * 2 ^ k ∨ (t + 1) * 2 ^ k ≤ g := by
  obtain ⟨n, j, hn, hj, rfl : g = n * 2 ^ j⟩ := hg
  by_cases hkj : k ≤ j
  · obtain ⟨i, rfl⟩ := Nat.exists_eq_add_of_le hkj
    rw [pow_add, ← mul_assoc, mul_right_comm]
    exact (Nat.lt_or_ge t (n * 2 ^ i)).symm.imp (Nat.mul_le_mul_right _) (Nat.mul_le_mul_right _)
  · obtain ⟨i, rfl⟩ := Nat.exists_eq_add_of_lt (not_le.mp hkj)
    refine .inl ?_
    have ht : 2 ^ f ≤ t := hlow.resolve_left (by omega)
    calc n * 2 ^ j ≤ 2 ^ (f + 1) * 2 ^ j := Nat.mul_le_mul_right _ hn.le
      _ = 2 ^ f * 2 ^ (j + 1) := by ring
      _ ≤ t * 2 ^ (j + i + 1) := Nat.mul_le_mul ht (Nat.pow_le_pow_right (by decide) (by omega))

theorem neighbours_grid {f k0 k n : Nat} (hf : 0 < f) (hk : k0 ≤ k) (hn : n / 2 ^ k < 2 ^ (f + 1)) (hlow : k = k0 ∨ 2 ^ f ≤ n / 2 ^ k) :
    Neighbours (onGrid f k0) (evenGrid f k0) n (2 ^ k) where
  pos := by positivity
  mag := onGrid_natAbs f k0
  evenMag := evenGrid_natAbs f k0
  lower := onGrid_mul hk hn.le
  upper := onGrid_mul hk hn
  gap _ := onGrid_gap hlow
  evens t ht heven := evenGrid_mul hf hk (by omega) (by omega) heven

/-! #### Encodings of a floating format -/

/-- The magnitude of an encoding without its sign, in units of the smallest subnormal. -/
def codeUnits (f c : Nat) : Nat := if c < 2 ^ f then c else (c % 2 ^ f + 2 ^ f) * 2 ^ (c / 2 ^ f - 1)

theorem codeUnits_normal (f k : Nat) {r : Nat} (hr : r < 2 ^ f) : codeUnits f (r + (k + 1) * 2 ^ f) = (r + 2 ^ f) * 2 ^ k := by
  have hle : 2 ^ f ≤ r + (k + 1) * 2 ^ f := by rw [add_one_mul]; omega
  rw [codeUnits, if_neg hle.not_gt, Nat.add_mul_mod_self_right, Nat.add_mul_div_right _ _ (by positivity), Nat.mod_eq_of_lt hr, Nat.div_eq_of_lt hr]
  simp

/-- The first code of an exponent continues the codes of the exponent below. -/
theorem codeUnits_carry (f k : Nat) {r : Nat} (hr : r ≤ 2 ^ f) : codeUnits f (r + (k + 1) * 2 ^ f) = (r + 2 ^ f) * 2 ^ k := by
  obtain hlt | rfl := hr.lt_or_eq
  · exact codeUnits_normal f k hlt
  · rw [show 2 ^ f + (k + 1) * 2 ^ f = 0 + (k + 1 + 1) * 2 ^ f by ring, codeUnits_normal f (k + 1) (by positivity)]
    ring

theorem codeUnits_subnormal (f : Nat) {c : Nat} (hc : c ≤ 2 ^ f) : codeUnits f c = c := by
  obtain hlt | rfl := hc.lt_or_eq
  · exact if_pos hlt
  · simpa using codeUnits_normal f 0 (r := 0) (by positivity)

theorem exists_code {f c : Nat} (hc : 2 ^ f ≤ c) : ∃ r k, r < 2 ^ f ∧ c = r + (k + 1) * 2 ^ f := by
  refine ⟨c % 2 ^ f, c / 2 ^ f - 1, Nat.mod_lt _ (by positivity), ?_⟩
  rw [Nat.sub_add_cancel (Nat.div_pos hc (by positivity)), Nat.mod_add_div']

theorem codeUnits_strictMono (f : Nat) : StrictMono (codeUnits f) := by
  refine strictMono_nat_of_lt_succ fun c => ?_
  obtain hc | hc := Nat.lt_or_ge c (2 ^ f)
  · rw [codeUnits_subnormal f hc.le, codeUnits_subnormal f hc]
    exact c.lt_succ_self
  · obtain ⟨r, k, hr, rfl⟩ := exists_code hc
    rw [codeUnits_carry f k hr.le, add_right_comm, codeUnits_carry f k hr]
    exact Nat.mul_lt_mul_of_pos_right (by omega) (by positivity)

/-- A floating format of R69 by what rounding needs of it: the sizes of its fields, its smallest subnormal, its largest finite number and its infinities. -/
structure IsFormat (t : Ty) (f : Nat) (low : Int) (big : Nat) (at_ : Int) : Prop where
  frac : fracBits t = f
  frac_pos : 0 < f
  low_eq : low = 1 - (tyBias t : Int) - f
  low_ge : -300 ≤ low
  low_le : low ≤ at_
  top : codeUnits f (maxFinite t) = big * 2 ^ (at_ - low).toNat
  maxFinite_lt : maxFinite t < 2 ^ signBit t
  finite : t ≠ .e4m3 → maxFinite t < (2 ^ expBits t - 1) * 2 ^ f
  inf : t ≠ .e4m3 → ∀ neg, flOf t (infOf t neg) = .inf neg
  bits : 8 * t.bytes = signBit t + 1
  bytes_le : t.bytes ≤ 4
  notInt : t.isInt = false

theorem isFormat_of_formatOf {t : Ty} {f : Nat} {low : Int} {big : Nat} {at_ : Int} (h : formatOf t = some (f, low, big, at_)) : IsFormat t f low big at_ := by
  cases t <;> simp only [formatOf, Option.some.injEq, Prod.mk.injEq, reduceCtorEq] at h <;> obtain ⟨rfl, rfl, rfl, rfl⟩ := h <;> constructor <;> decide

theorem toNat_signOf {t : Ty} (h32 : signBit t < 32) (neg : Bool) : (signOf t neg).toNat = 2 ^ signBit t * neg.toNat := by
  have hpow : 2 ^ signBit t < 2 ^ 32 := Nat.pow_lt_pow_right (by decide) h32
  cases neg with
  | false => rfl
  | true => rw [signOf, if_pos rfl, BitVec.toNat_shiftLeft, BitVec.toNat_ofNat, Nat.one_mod, Nat.shiftLeft_eq, Nat.one_mul, Nat.mod_eq_of_lt hpow, Bool.toNat_true, Nat.mul_one]

section
variable {t : Ty} {f : Nat} {low : Int} {big : Nat} {at_ : Int} (h : IsFormat t f low big at_)
include h

theorem IsFormat.codeUnits_encodeMag {n : Nat} {p : Int} (hp : low ≤ p) (hn : n ≤ 2 ^ (f + 1)) (hplace : p = low ∨ 2 ^ f ≤ n) :
    codeUnits f (encodeMag t n p) = n * 2 ^ (p - low).toNat := by
  obtain hlt | hge := Nat.lt_or_ge n (2 ^ f)
  · rw [encodeMag, h.frac, if_pos hlt, codeUnits_subnormal f hlt.le, hplace.resolve_right hlt.not_ge, sub_self]
    simp
  · have hexp : (p + f + tyBias t).toNat = (p - low).toNat + 1 := by
      rw [h.low_eq] at hp ⊢
      omega
    rw [encodeMag, h.frac, if_neg hge.not_gt, hexp, Nat.add_comm, codeUnits_carry f _ (by omega), Nat.sub_add_cancel hge]

/-- The place that a value is rounded at: the last of f + 1 bits, or that of the subnormals. A zero, whose place `lastPlace` leaves open, has the latter. -/
theorem IsFormat.roundMag_place (mode : RMode) (step : Word) (neg : Bool) (m : Nat) {e q : Int} (he : q ≤ e) (hq : q ≤ low) :
    ∃ p, low ≤ p ∧ roundMag t mode step neg m e false = encodeMag t (roundAt mode step neg m e false p) p ∧
      m * 2 ^ (e - q).toNat / 2 ^ (p - q).toNat < 2 ^ (f + 1) ∧ (p = low ∨ 2 ^ f ≤ m * 2 ^ (e - q).toNat / 2 ^ (p - q).toNat) := by
  by_cases hm : m = 0
  · refine ⟨low, le_rfl, ?_, by simp [hm], .inl rfl⟩
    simp [roundMag, hm, roundAt_zero, encodeMag]
  · have hlog := Nat.log2_self_le hm
    have hlog' := Nat.lt_log2_self (n := m)
    have hplace : lastPlace t m e = max (e + m.log2 - f) low := by
      rw [lastPlace, bitLen, if_neg hm, h.frac, h.low_eq]
      omega
    refine ⟨lastPlace t m e, by omega, rfl, ?_, ?_⟩
    · rw [Nat.div_lt_iff_lt_mul (by positivity)]
      calc m * 2 ^ (e - q).toNat < 2 ^ (m.log2 + 1) * 2 ^ (e - q).toNat := Nat.mul_lt_mul_of_pos_right hlog' (by positivity)
        _ = 2 ^ (m.log2 + 1 + (e - q).toNat) := (pow_add ..).symm
        _ ≤ 2 ^ (f + 1 + (lastPlace t m e - q).toNat) := Nat.pow_le_pow_right (by decide) (by omega)
        _ = 2 ^ (f + 1) * 2 ^ (lastPlace t m e - q).toNat := pow_add ..
    · by_cases hsub : lastPlace t m e = low
      · exact .inl hsub
      · refine .inr ((Nat.le_div_iff_mul_le (by positivity)).mpr ?_)
        calc 2 ^ f * 2 ^ (lastPlace t m e - q).toNat = 2 ^ (m.log2 + (e - q).toNat) := by rw [← pow_add]; congr 1; omega
          _ = 2 ^ m.log2 * 2 ^ (e - q).toNat := pow_add ..
          _ ≤ m * 2 ^ (e - q).toNat := Nat.mul_le_mul_right _ hlog

/-- `roundMag` rounds a magnitude onto the grid of the format, its exponent unbounded above (R76). -/
theorem IsFormat.roundMag_rounds (mode : RMode) (step : Word) (neg : Bool) (m : Nat) {e q : Int} (he : q ≤ e) (hq : q ≤ low) :
    Rounds (onGrid f (low - q).toNat) (evenGrid f (low - q).toNat) mode step (withSign neg (m * 2 ^ (e - q).toNat))
      (withSign neg (codeUnits f (roundMag t mode step neg m e false) * 2 ^ (low - q).toNat)) := by
  obtain ⟨p, hp, hround, hlt, hplace⟩ := h.roundMag_place mode step neg m he hq
  have hmul := roundAt_eq_multiple mode step neg m he (hq.trans hp)
  have hor := multiple_eq_or mode step neg (m * 2 ^ (e - q).toNat) (2 ^ (p - q).toNat)
  rw [hround, h.codeUnits_encodeMag hp (by omega) (by omega), mul_assoc, ← two_pow_toNat_sub hq hp, hmul]
  exact (neighbours_grid h.frac_pos (by omega) hlt (hplace.imp_left fun hpl => by rw [hpl])).rounds step neg mode

/-! #### What an encoding stands for -/

theorem IsFormat.signBit_lt : signBit t < 32 := by
  have := h.bits
  have := h.bytes_le
  omega

theorem IsFormat.toNat_code (neg : Bool) {c : Nat} (hc : c < 2 ^ signBit t) : (signOf t neg ||| BitVec.ofNat 32 c).toNat = 2 ^ signBit t * neg.toNat + c := by
  have hpow : 2 ^ signBit t < 2 ^ 32 := Nat.pow_lt_pow_right (by decide) h.signBit_lt
  rw [BitVec.toNat_or, toNat_signOf h.signBit_lt, BitVec.toNat_ofNat, Nat.mod_eq_of_lt (hc.trans hpow), Nat.two_pow_add_eq_or_of_lt hc]

/-- The three fields of an encoding (R69). -/
theorem IsFormat.code_fields (neg : Bool) {c : Nat} (hc : c < 2 ^ signBit t) :
    let w := signOf t neg ||| BitVec.ofNat 32 c
    w.getLsbD (signBit t) = neg ∧ w.toNat / 2 ^ f % 2 ^ expBits t = c / 2 ^ f ∧ w.toNat % 2 ^ f = c % 2 ^ f := by
  intro w
  have hsign : signBit t = f + expBits t := by rw [signBit, h.frac]
  have hw : w.toNat = 2 ^ signBit t * neg.toNat + c := h.toNat_code neg hc
  refine ⟨?_, ?_, ?_⟩
  · rw [← BitVec.testBit_toNat, hw, Nat.testBit_two_pow_mul_add _ hc]
    cases neg <;> simp
  · rw [hsign, pow_add] at hc hw
    rw [hw, mul_assoc, Nat.mul_add_div (by positivity), Nat.mul_add_mod_self_left, Nat.mod_eq_of_lt (Nat.div_lt_of_lt_mul hc)]
  · rw [hw, hsign, pow_add, mul_assoc, Nat.mul_add_mod_self_left]

/-- Up to the largest finite number an encoding is a subnormal or a normal number (R69, R70). -/
theorem IsFormat.flOf_code (neg : Bool) {c : Nat} (hc : c ≤ maxFinite t) :
    flOf t (signOf t neg ||| BitVec.ofNat 32 c) = if c / 2 ^ f = 0 then .fin neg (c % 2 ^ f) low else .fin neg (c % 2 ^ f + 2 ^ f) (low + (c / 2 ^ f : Nat) - 1) := by
  obtain ⟨hneg, hexp, hfrac⟩ := h.code_fields neg (hc.trans_lt h.maxFinite_lt)
  have hlow := h.low_eq
  by_cases ht : t = .e4m3
  · subst ht
    obtain rfl : f = 3 := h.frac.symm
    obtain rfl : low = -9 := hlow
    have hfin : ¬ (c / 2 ^ 3 = 15 ∧ c % 2 ^ 3 = 7) := by
      have : c ≤ 126 := hc
      omega
    simp only [flOf, hneg, h.frac, hexp, hfrac, Bool.and_eq_true, decide_eq_true_eq, if_neg hfin, if_true]
    congr 2
    omega
  · have hfin : c / 2 ^ f ≠ 2 ^ expBits t - 1 := (Nat.div_lt_of_lt_mul (Nat.mul_comm _ _ ▸ hc.trans_lt (h.finite ht))).ne
    simp only [flOf, if_neg ht, h.frac, hneg, hexp, hfrac, if_neg hfin, hlow]
    congr 2
    omega

theorem IsFormat.encodes_code (neg : Bool) {q : Int} (hq : q ≤ low) {c : Nat} (hc : c ≤ maxFinite t) :
    Encodes t q (signOf t neg ||| BitVec.ofNat 32 c) neg (withSign neg (codeUnits f c * 2 ^ (low - q).toNat)) := by
  have hlt := hc.trans_lt h.maxFinite_lt
  have hval : ∃ m k, flOf t (signOf t neg ||| BitVec.ofNat 32 c) = .fin neg m (low + (k : Nat)) ∧ codeUnits f c = m * 2 ^ k := by
    rw [h.flOf_code neg hc]
    obtain hsub | hnorm := Nat.lt_or_ge c (2 ^ f)
    · exact ⟨c, 0, by rw [if_pos (Nat.div_eq_of_lt hsub), Nat.mod_eq_of_lt hsub]; simp, by simp [codeUnits, hsub]⟩
    · have hpos : 0 < c / 2 ^ f := Nat.div_pos hnorm (by positivity)
      exact ⟨_, c / 2 ^ f - 1, by rw [if_neg hpos.ne']; congr 1; omega, if_neg hnorm.not_gt⟩
  obtain ⟨m, k, hfl, hcode⟩ := hval
  refine ⟨by rw [hfl]; rfl, by rw [hfl]; rfl, ?_, ?_⟩
  · rw [hfl, units_fin, hcode, mul_assoc, ← pow_add]
    congr 3
    omega
  · rw [h.toNat_code neg hlt, h.bits, pow_succ]
    cases neg <;> simp <;> omega

theorem IsFormat.top_eq {q : Int} (hq : q ≤ low) : big * 2 ^ (at_ - q).toNat = codeUnits f (maxFinite t) * 2 ^ (low - q).toNat := by
  rw [h.top, mul_assoc, ← two_pow_toNat_sub hq h.low_le]

theorem IsFormat.encodes_top (neg : Bool) {q : Int} (hq : q ≤ low) :
    Encodes t q (signOf t neg ||| BitVec.ofNat 32 (maxFinite t)) neg (withSign neg (big * 2 ^ (at_ - q).toNat)) :=
  h.top_eq hq ▸ h.encodes_code neg hq le_rfl

theorem IsFormat.le_top_iff {q : Int} (hq : q ≤ low) {c : Nat} : codeUnits f c * 2 ^ (low - q).toNat ≤ big * 2 ^ (at_ - q).toNat ↔ c ≤ maxFinite t := by
  rw [h.top_eq hq, Nat.mul_le_mul_right_iff (by positivity), (codeUnits_strictMono f).le_iff_le]

/-! #### The two tables: overflow in arithmetic and conversion (R76, R80) -/

theorem IsFormat.convertFl_fin (mode : RMode) (step : Word) (neg : Bool) (m : Nat) (e : Int) :
    convertFl t mode step (.fin neg m e) =
      if maxFinite t < roundMag t mode step neg m e false then .over false (signOf t neg ||| BitVec.ofNat 32 (maxFinite t))
      else .ok (signOf t neg ||| BitVec.ofNat 32 (roundMag t mode step neg m e false)) := by
  rw [convertFl, h.notInt]
  rfl

theorem IsFormat.convertFl_nan (mode : RMode) (step : Word) : convertFl t mode step .nan = .ok (canonNan t) := by
  rw [convertFl, h.notInt]
  rfl

theorem IsFormat.convertFl_inf (mode : RMode) (step : Word) (neg : Bool) :
    convertFl t mode step (.inf neg) = if t = .e4m3 then .over true (signOf t neg ||| BitVec.ofNat 32 (maxFinite t)) else .ok (infOf t neg) := by
  rw [convertFl, h.notInt]
  rfl

end

section
variable {t : Ty} {mode : RMode} {step : Word} {neg : Bool} {m : Nat} {e : Int}

theorem roundFl_fin_of_le (h : roundMag t mode step neg m e false ≤ maxFinite t) :
    roundFl t mode step false (.fin neg m e) = signOf t neg ||| BitVec.ofNat 32 (roundMag t mode step neg m e false) :=
  if_neg h.not_gt

theorem roundFl_fin_of_lt (h : maxFinite t < roundMag t mode step neg m e false) : roundFl t mode step false (.fin neg m e) = overflowTo t mode neg :=
  if_pos h

end

theorem overflowTo_inf {mode : RMode} {neg : Bool} (h : mode = .rne ∨ mode = .rsto ∨ (mode = .rup ∧ neg = false) ∨ (mode = .rdn ∧ neg = true)) (t : Ty) :
    overflowTo t mode neg = infOf t neg := by
  obtain rfl | rfl | ⟨rfl, rfl⟩ | ⟨rfl, rfl⟩ := h <;> rfl

theorem overflowTo_big {mode : RMode} {neg : Bool} (h : mode = .rtz ∨ (mode = .rup ∧ neg = true) ∨ (mode = .rdn ∧ neg = false)) (t : Ty) :
    overflowTo t mode neg = signOf t neg ||| BitVec.ofNat 32 (maxFinite t) := by
  obtain rfl | ⟨rfl, rfl⟩ | ⟨rfl, rfl⟩ := h <;> rfl

/-! #### Rounding and conversion to an integer (R76, R80) -/

theorem intLane_eq_toLane {t : Ty} (ht : t = .int8 ∨ t = .uint8 ∨ t = .int32) (n : Int) : intLane t n = toLane t n := by
  apply BitVec.eq_of_toNat_eq
  obtain rfl | rfl | rfl := ht <;> simp [intLane, toLane, Ty.bytes, Ty.bits] <;> omega

/-- The multiples of 2^k, of which the even integers have one factor more. -/
theorem neighbours_int (k n : Nat) : Neighbours (fun g => g % 2 ^ k = 0) (fun g => g % 2 ^ (1 + k) = 0) n (2 ^ k) where
  pos := by positivity
  mag g := by rw [← Int.dvd_iff_emod_eq_zero, ← Int.dvd_iff_emod_eq_zero, Int.dvd_natAbs]
  evenMag g := by rw [← Int.dvd_iff_emod_eq_zero, ← Int.dvd_iff_emod_eq_zero, Int.dvd_natAbs]
  lower := by simp
  upper := by simp
  gap g hg := by
    obtain ⟨j, rfl⟩ : 2 ^ k ∣ g := by exact_mod_cast Int.dvd_of_emod_eq_zero hg
    rw [mul_comm (2 ^ k) j]
    exact (Nat.lt_or_ge (n / 2 ^ k) j).symm.imp (Nat.mul_le_mul_right _) (Nat.mul_le_mul_right _)
  evens t _ heven := by
    obtain ⟨j, rfl⟩ := Nat.dvd_of_mod_eq_zero heven
    refine Int.emod_eq_zero_of_dvd ⟨j, ?_⟩
    push_cast
    ring

theorem roundInt_eq (mode : RMode) (step : Word) (neg : Bool) (m : Nat) (e : Int) :
    roundInt mode step neg m e = withSign neg (roundAt mode step neg m e false 0) := by
  rw [withSign_eq, roundInt]

/-- `roundInt` rounds to an integer (R76). -/
theorem roundInt_rounds (mode : RMode) (step : Word) (neg : Bool) (m : Nat) {e q : Int} (he : q ≤ e) (hq : q ≤ 0) :
    Rounds (fun g => g % 2 ^ (-q).toNat = 0) (fun g => g % 2 ^ (1 + (-q).toNat) = 0) mode step (withSign neg (m * 2 ^ (e - q).toNat))
      (roundInt mode step neg m e * 2 ^ (-q).toNat) := by
  have hrounds := (neighbours_int (-q).toNat (m * 2 ^ (e - q).toNat)).rounds step neg mode
  rw [← zero_sub, ← roundAt_eq_multiple mode step neg m he hq, withSign_mul _ (roundAt ..), zero_sub, ← roundInt_eq] at hrounds
  exact_mod_cast hrounds

theorem convertFl_int_fin {t : Ty} (ht : t.isInt = true) (mode : RMode) (step : Word) (neg : Bool) (m : Nat) (e : Int) :
    convertFl t mode step (.fin neg m e) =
      if roundInt mode step neg m e < (intRange t).1 then .over false (intLane t (intRange t).1)
      else if (intRange t).2 < roundInt mode step neg m e then .over false (intLane t (intRange t).2)
      else .ok (intLane t (roundInt mode step neg m e)) := by
  rw [convertFl, ht]
  rfl

theorem convertFl_int_nan {t : Ty} (ht : t.isInt = true) (mode : RMode) (step : Word) : convertFl t mode step .nan = .over true 0 := by
  rw [convertFl, ht]
  rfl

theorem convertFl_int_inf {t : Ty} (ht : t.isInt = true) (mode : RMode) (step : Word) (neg : Bool) :
    convertFl t mode step (.inf neg) = .over true (intLane t (if neg then (intRange t).1 else (intRange t).2)) := by
  rw [convertFl, ht]
  rfl

theorem intRange_eq {t : Ty} {lo hi : Int} (h : t = .int8 ∧ lo = -128 ∧ hi = 127 ∨ t = .uint8 ∧ lo = 0 ∧ hi = 255 ∨ t = .int32 ∧ lo = -2147483648 ∧ hi = 2147483647) :
    t.isInt = true ∧ (t = .int8 ∨ t = .uint8 ∨ t = .int32) ∧ (intRange t).1 = lo ∧ (intRange t).2 = hi ∧ lo ≤ hi := by
  obtain ⟨rfl, rfl, rfl⟩ | ⟨rfl, rfl, rfl⟩ | ⟨rfl, rfl, rfl⟩ := h <;> decide

/-- Settles O35: a value is a number of units below every place, `roundAt` rounds it to a multiple of the place's units, the multiples next to it are
its neighbours on the grid, and the encodings count the grid in order. -/
theorem rounding : Obligations.Rounding := by
  unfold Obligations.Rounding
  intro mode step neg m e q v u
  have he : q ≤ e := min_le_left e (-300)
  have hq : q ≤ -300 := min_le_right e (-300)
  constructor
  · intro t f low big at_ ht top
    have hF := isFormat_of_formatOf ht
    have hlow : q ≤ low := hq.trans hF.low_ge
    have hbig := hF.encodes_top neg hlow
    have htop : ((big * 2 ^ (at_ - q).toNat : Nat) : Int) = top := by push_cast; rfl
    rw [withSign_eq, htop] at hbig
    have hle : ((withSign neg (codeUnits f (roundMag t mode step neg m e false) * 2 ^ (low - q).toNat)).natAbs : Int) ≤ top ↔
        roundMag t mode step neg m e false ≤ maxFinite t := by
      rw [natAbs_withSign, ← htop, Nat.cast_le, hF.le_top_iff hlow]
    have hgt := not_iff_not.mpr hle
    rw [not_le, not_le] at hgt
    refine ⟨_, hF.roundMag_rounds mode step neg m he hlow, fun hArith => ⟨fun h => ?_, fun h hmode => ?_, fun h hmode => ?_⟩, fun h => ?_, fun h => ?_,
      hF.convertFl_nan mode step, fun hInf => ?_, fun hNone => ?_⟩
    · rw [roundFl_fin_of_le (hle.mp h)]
      exact hF.encodes_code neg hlow (hle.mp h)
    · rw [roundFl_fin_of_lt (hgt.mp h), overflowTo_inf hmode]
      exact hF.inf (by rintro rfl; simp at hArith) neg
    · rw [roundFl_fin_of_lt (hgt.mp h), overflowTo_big hmode]
      exact hbig
    · exact ⟨_, (hF.convertFl_fin ..).trans (if_neg (hle.mp h).not_gt), hF.encodes_code neg hlow (hle.mp h)⟩
    · exact ⟨_, (hF.convertFl_fin ..).trans (if_pos (hgt.mp h)), hbig⟩
    · exact ⟨_, (hF.convertFl_inf ..).trans (if_neg hInf), hF.inf hInf neg⟩
    · exact ⟨_, (hF.convertFl_inf ..).trans (if_pos hNone), hbig⟩
  · intro t lo hi ht
    obtain ⟨hInt, hlane, rfl, rfl, hrange⟩ := intRange_eq ht
    simp only [← intLane_eq_toLane hlane]
    have hfin := convertFl_int_fin hInt mode step neg m e
    refine ⟨_, roundInt_rounds mode step neg m he (by omega), fun h₁ h₂ => ?_, fun h => ?_, fun h => ?_, convertFl_int_nan hInt mode step, convertFl_int_inf hInt mode step neg⟩
    · exact hfin.trans ((if_neg h₁.not_gt).trans (if_neg h₂.not_gt))
    · exact hfin.trans (if_pos h)
    · exact hfin.trans ((if_neg (hrange.trans h.le).not_gt).trans (if_pos h))

end Sys2Proof.Machine

/-! ### O47: the predictor (R102) -/

namespace Sys2Proof.Machine
open Sys2Proof.Claims

theorem strideWord_iff {k : Nat} (hk : k < 32) : strideWord k = true ↔ 8 * k ∈ strideOffsets := by
  revert k
  decide

theorem strideOffset_eq {o : Nat} (ho : o ∈ strideOffsets) : ∃ k < 32, o = 8 * k := by
  revert o
  decide

theorem signature_eq_iff (a b : List Byte) : signature a = signature b ↔ sameSig a b := by
  rw [signature, signature, List.map_inj_left]
  refine ⟨fun h k hk hn => h k ?_, fun h k hk => ?_⟩
  · rw [List.mem_filter, List.mem_range, Bool.not_eq_true', Bool.eq_false_iff, Ne, strideWord_iff hk]
    exact ⟨hk, hn⟩
  · obtain ⟨hr, hs⟩ := List.mem_filter.mp hk
    have hk32 := List.mem_range.mp hr
    rw [Bool.not_eq_true', Bool.eq_false_iff, Ne, strideWord_iff hk32] at hs
    exact h k hk32 hs

/-- The test that `period` makes of a length. -/
def repeats (h : List (List Byte)) (p : Nat) : Bool :=
  2 * p ≤ h.length && (List.range p).all (fun i => signature (h.getD (h.length - 1 - i) []) = signature (h.getD (h.length - 1 - i - p) []))

theorem period_eq (h : List (List Byte)) : period h = (List.range' 1 8).find? (repeats h) := rfl

theorem isPeriod_iff (h : List (List Byte)) (p : Nat) : isPeriod h p ↔ p ∈ List.range' 1 8 ∧ repeats h p = true := by
  simp only [isPeriod, repeats, List.mem_range'_1, Bool.and_eq_true, List.all_eq_true, List.mem_range, decide_eq_true_eq, signature_eq_iff]
  constructor
  · rintro ⟨h1, h8, hl, hs⟩
    exact ⟨⟨h1, by omega⟩, hl, hs⟩
  · rintro ⟨⟨h1, h8⟩, hl, hs⟩
    exact ⟨h1, by omega, hl, hs⟩

theorem period_eq_none {h : List (List Byte)} (hn : ∀ L, ¬ isPeriod h L) : period h = none := by
  rw [period_eq, List.find?_eq_none]
  exact fun p hp hr => hn p ((isPeriod_iff h p).mpr ⟨hp, hr⟩)

theorem period_eq_some {h : List (List Byte)} {L : Nat} (hL : isPeriod h L) (hmin : ∀ K, isPeriod h K → L ≤ K) : period h = some L := by
  obtain ⟨hmem, hrep⟩ := (isPeriod_iff h L).mp hL
  rw [period_eq, List.find?_range'_eq_some]
  refine ⟨hrep, hmem, fun j hj1 hjL => ?_⟩
  have hj8 : j ∈ List.range' 1 8 := by
    rw [List.mem_range'_1] at hmem ⊢
    omega
  have hno : ¬ repeats h j = true := fun hr => Nat.not_le.mpr hjL (hmin j ((isPeriod_iff h j).mpr ⟨hj8, hr⟩))
  simpa using hno

/-- Word i of the record predicted from the last three entries of a position in the period. -/
def predictedWord (e1 e2 : List Byte) (e3 : Option (List Byte)) (i : Nat) : Option DWord :=
  if strideWord i then predictWord (recWord e1 (8 * i)) (recWord e2 (8 * i)) (e3.map (fun e => recWord e (8 * i))) else some (recWord e1 (8 * i))

theorem predictFrom_eq_none {e1 e2 : List Byte} {e3 : Option (List Byte)} {i : Nat} (hi : predictedWord e1 e2 e3 i = none) :
    ∀ {l : List Nat} (k : Nat), i ∈ l → predictFrom e1 e2 e3 k l = none
  | j :: l, k, hl => by
    rw [predictFrom, ← predictedWord]
    by_cases hj : i = j
    · rw [← hj, hi]
    · rw [predictFrom_eq_none hi k ((List.mem_cons.mp hl).resolve_left hj)]
      cases predictedWord e1 e2 e3 j <;> rfl

theorem predictFrom_eq_some {e1 e2 : List Byte} {e3 : Option (List Byte)} {v : Nat → DWord} (k : Nat) :
    ∀ {l : List Nat}, (∀ i ∈ l, predictedWord e1 e2 e3 i = some (v i)) → predictFrom e1 e2 e3 k l = some (l.flatMap (fun i => dwordBytes (v i)))
  | [], _ => rfl
  | i :: l, h => by
    rw [predictFrom, ← predictedWord, h i (List.mem_cons_self ..), predictFrom_eq_some k fun j hj => h j (List.mem_cons_of_mem _ hj)]
    rfl

/-! #### The words of a record put together from words -/

theorem bytesWord_wordBytes (w : Word) (l : List Byte) : bytesWord (wordBytes w ++ l) = w := by
  have parts : bytesWord (wordBytes w ++ l) = w.extractLsb' 24 8 ++ w.extractLsb' 16 8 ++ w.extractLsb' 8 8 ++ w.extractLsb' 0 8 := rfl
  rw [parts, extractLsb'_append_adjacent w 8 8 16, extractLsb'_append_adjacent w 16 8 8, extractLsb'_append_adjacent w 24 8 0, BitVec.extractLsb'_eq_self]

theorem bytesDWord_dwordBytes (v : DWord) (l : List Byte) : bytesDWord (dwordBytes v ++ l) = v := by
  have tail : (dwordBytes v ++ l).drop 4 = wordBytes (v.extractLsb' 32 32) ++ l := rfl
  rw [bytesDWord, tail, dwordBytes, List.append_assoc, bytesWord_wordBytes, bytesWord_wordBytes, extractLsb'_append_adjacent v 32 32 0, BitVec.extractLsb'_eq_self]

theorem flatMap_dwordBytes_length (v : Nat → DWord) : ∀ l : List Nat, (l.flatMap (fun i => dwordBytes (v i))).length = 8 * l.length
  | [] => rfl
  | i :: l => by
    have hd : (dwordBytes (v i)).length = 8 := rfl
    rw [List.flatMap_cons, List.length_append, flatMap_dwordBytes_length v l, hd, List.length_cons]
    omega

/-- The word at place j of a record written word by word. -/
theorem recWord_flatMap (v : Nat → DWord) {n j : Nat} (hj : j < n) : recWord ((List.range n).flatMap (fun i => dwordBytes (v i))) (8 * j) = v j := by
  obtain ⟨m, rfl⟩ : ∃ m, n = j + (m + 1) := ⟨n - j - 1, by omega⟩
  have head := flatMap_dwordBytes_length v (List.range j)
  rw [List.length_range] at head
  rw [recWord, List.range_add, List.flatMap_append, List.drop_left' head, List.range_succ_eq_map, List.map_cons, List.flatMap_cons, bytesDWord_dwordBytes, Nat.add_zero]

/-! #### A history with a period -/

/-- The word at an offset of the entry j periods before the next record. -/
def entryWord (h : List (List Byte)) (L j o : Nat) : DWord := recWord (h.getD (h.length - j * L) []) o

/-- The last three entries agree on one stride at an offset. -/
def LinearAt (h : List (List Byte)) (L o : Nat) : Prop := 3 * L ≤ h.length ∧ entryWord h L 1 o - entryWord h L 2 o = entryWord h L 2 o - entryWord h L 3 o

/-- Word i of the next record of a history of period L. -/
def nextWord (h : List (List Byte)) (L i : Nat) : Option DWord :=
  predictedWord (h.getD (h.length - L) []) (h.getD (h.length - 2 * L) []) (if 3 * L ≤ h.length then some (h.getD (h.length - 3 * L) []) else none) i

theorem entryWord_one (h : List (List Byte)) (L o : Nat) : entryWord h L 1 o = recWord (h.getD (h.length - L) []) o := by rw [entryWord, Nat.one_mul]

theorem nextWord_other (h : List (List Byte)) (L : Nat) {i : Nat} (hi : i < 32) (ho : 8 * i ∉ strideOffsets) : nextWord h L i = some (entryWord h L 1 (8 * i)) := by
  rw [nextWord, predictedWord, if_neg (mt (strideWord_iff hi).mp ho), entryWord_one]

theorem nextWord_stride (h : List (List Byte)) (L : Nat) {i : Nat} (hi : i < 32) (ho : 8 * i ∈ strideOffsets) :
    nextWord h L i = predictWord (entryWord h L 1 (8 * i)) (entryWord h L 2 (8 * i)) (if 3 * L ≤ h.length then some (entryWord h L 3 (8 * i)) else none) := by
  rw [nextWord, predictedWord, if_pos ((strideWord_iff hi).mpr ho), entryWord_one]
  split <;> rfl

theorem nextWord_linear {h : List (List Byte)} {L i : Nat} (hi : i < 32) (ho : 8 * i ∈ strideOffsets) (hl : LinearAt h L (8 * i)) :
    nextWord h L i = some (entryWord h L 1 (8 * i) + (entryWord h L 1 (8 * i) - entryWord h L 2 (8 * i))) := by
  rw [nextWord_stride h L hi ho, if_pos hl.1]
  exact if_pos hl.2

theorem nextWord_not_linear {h : List (List Byte)} {L i : Nat} (hi : i < 32) (ho : 8 * i ∈ strideOffsets) (hl : ¬ LinearAt h L (8 * i)) :
    nextWord h L i = if entryWord h L 1 (8 * i) = entryWord h L 2 (8 * i) then some (entryWord h L 1 (8 * i)) else none := by
  rw [nextWord_stride h L hi ho]
  by_cases h3 : 3 * L ≤ h.length
  · rw [if_pos h3]
    exact if_neg fun e => hl ⟨h3, e⟩
  · rw [if_neg h3]
    rfl

section
variable {h : List (List Byte)} {L : Nat} (hL : isPeriod h L) (hmin : ∀ K, isPeriod h K → L ≤ K)
include hL hmin

theorem predict_eq_none {i : Nat} (hi : i < 32) (hw : nextWord h L i = none) : predict h = none := by
  rw [predict, period_eq_some hL hmin]
  exact predictFrom_eq_none hw 0 (List.mem_range.mpr hi)

theorem predict_eq_some {v : Nat → DWord} (hw : ∀ i < 32, nextWord h L i = some (v i)) : predict h = some ((List.range 32).flatMap (fun i => dwordBytes (v i))) := by
  rw [predict, period_eq_some hL hmin]
  exact predictFrom_eq_some 0 fun i hi => hw i (List.mem_range.mp hi)

end

/-- Settles O47: the length that `period` finds is the smallest period; each word of the record is predicted by itself, and one word without a prediction leaves none for the record. -/
theorem prediction : Obligations.Prediction := by
  unfold Obligations.Prediction
  intro h _
  refine ⟨fun hn => by rw [predict, period_eq_none hn], fun L hL hmin => ?_⟩
  refine ⟨fun ⟨o, ho, hlin, hne⟩ => ?_, fun hall => ?_⟩
  · obtain ⟨i, hi, rfl⟩ := strideOffset_eq ho
    exact predict_eq_none hL hmin hi ((nextWord_not_linear hi ho hlin).trans (if_neg hne))
  · have keeps {i : Nat} (hi : i < 32) (ho : 8 * i ∈ strideOffsets) (hlin : ¬ LinearAt h L (8 * i)) : nextWord h L i = some (entryWord h L 1 (8 * i)) :=
      (nextWord_not_linear hi ho hlin).trans (if_pos ((hall _ ho).resolve_left hlin))
    have hsome : ∀ i < 32, nextWord h L i = some ((nextWord h L i).getD 0) := by
      intro i hi
      by_cases ho : 8 * i ∈ strideOffsets
      · by_cases hlin : LinearAt h L (8 * i)
        · rw [nextWord_linear hi ho hlin, Option.getD_some]
        · rw [keeps hi ho hlin, Option.getD_some]
      · rw [nextWord_other h L hi ho, Option.getD_some]
    have word {i : Nat} (hi : i < 32) := recWord_flatMap (fun i => (nextWord h L i).getD 0) hi
    refine ⟨_, predict_eq_some hL hmin hsome, by rw [flatMap_dwordBytes_length, List.length_range], fun i hi ho => ?_, fun o ho => ?_⟩
    · rw [word hi, nextWord_other h L hi ho]
      rfl
    · obtain ⟨i, hi, rfl⟩ := strideOffset_eq ho
      rw [word hi]
      refine ⟨fun hlin => ?_, fun hlin => ?_⟩
      · rw [nextWord_linear hi ho hlin]
        rfl
      · rw [keeps hi ho hlin]
        rfl

end Sys2Proof.Machine

/-! ### O44: reading records (R57, R60, R96) -/

namespace Sys2Proof.Machine
open Sys2Proof.Claims

/-! #### The fields of a record -/

theorem fld_eq (v : DWord) (hi lo : Nat) : fld v hi lo = (v.extractLsb' lo (hi + 1 - lo)).toNat := by
  rw [fld, BitVec.extractLsb'_toNat, Nat.shiftRight_eq_div_pow]

theorem fld_bit (v : DWord) (k : Nat) : fld v k k = 1 ↔ v.getLsbD k = true := by
  rw [fld, Nat.add_sub_cancel_left, Nat.pow_one, BitVec.getLsbD, Nat.testBit_eq_decide_div_mod_eq, decide_eq_true_eq]

/-- Bits [lo + n - 1:lo] of a word under their mask. -/
theorem and_mask_eq_zero (v : DWord) (lo n : Nat) : v.toNat &&& ((2 ^ n - 1) <<< lo) = 0 ↔ v.extractLsb' lo n = 0 := by
  have mask : v.toNat &&& ((2 ^ n - 1) <<< lo) = (v.toNat >>> lo % 2 ^ n) <<< lo := by
    rw [← Nat.and_two_pow_sub_one_eq_mod]
    refine Nat.eq_of_testBit_eq fun i => ?_
    simp only [Nat.testBit_and, Nat.testBit_shiftLeft, Nat.testBit_shiftRight, ge_iff_le]
    by_cases h : lo ≤ i
    · simp [h]
    · simp [h]
  rw [mask, BitVec.toNat_eq, BitVec.extractLsb'_toNat, Nat.shiftLeft_eq, BitVec.ofNat_eq_ofNat, BitVec.toNat_zero]
  have := Nat.two_pow_pos lo
  constructor
  · intro h
    rcases Nat.mul_eq_zero.mp h with h | h <;> omega
  · intro h
    rw [h, Nat.zero_mul]

theorem and_masks_eq_zero (v : DWord) (a m b n : Nat) :
    v.toNat &&& ((2 ^ m - 1) <<< a ||| (2 ^ n - 1) <<< b) = 0 ↔ v.extractLsb' a m = 0 ∧ v.extractLsb' b n = 0 := by
  rw [Nat.and_or_distrib_left, Nat.or_eq_zero_iff, and_mask_eq_zero, and_mask_eq_zero]

theorem extractLsb'_bit (v : DWord) (k : Nat) : decide (v.extractLsb' k 1 ≠ 0) = v.getLsbD k := by
  have one : (v.extractLsb' k 1).toNat = v.toNat / 2 ^ k % 2 := by rw [BitVec.extractLsb'_toNat, Nat.shiftRight_eq_div_pow, Nat.pow_one]
  rw [Bool.eq_iff_iff, decide_eq_true_eq, Ne, BitVec.toNat_eq, one, BitVec.getLsbD, Nat.testBit_eq_decide_div_mod_eq, decide_eq_true_eq]
  exact Nat.mod_two_ne_zero

theorem and_word_eq_zero (v : DWord) : v.toNat &&& 0xFFFFFFFFFFFFFFFF = 0 ↔ v = 0 := by
  have := and_mask_eq_zero v 0 64
  rwa [BitVec.extractLsb'_eq_self] at this

theorem firstBad_map (f : Nat → Bool) (g : Nat → Nat) : ∀ l : List Nat, firstBad (l.map (fun j => (f j, g j))) = (l.find? f).map g
  | [] => rfl
  | j :: l => by
    rw [List.map_cons, firstBad, List.find?_cons, firstBad_map f g l]
    cases f j <;> rfl

/-- Word j of a record has a RSV bit set. -/
def reservedSet (l : List Byte) (j : Nat) : Bool := decide ((recWord l (8 * j)).toNat &&& reservedBits (recNdep l) (8 * j) ≠ 0)

theorem reservedSet_of_mask (l : List Byte) {j o lo n : Nat} (ho : 8 * j = o) (hm : reservedBits (recNdep l) o = (2 ^ n - 1) <<< lo) :
    reservedSet l j = decide ((recWord l o).extractLsb' lo n ≠ 0) := by
  rw [reservedSet, ho, hm]
  exact decide_eq_decide.mpr (not_congr (and_mask_eq_zero ..))

theorem reservedSet_of_masks (l : List Byte) {j o a m b n : Nat} (ho : 8 * j = o) (hm : reservedBits (recNdep l) o = (2 ^ m - 1) <<< a ||| (2 ^ n - 1) <<< b) :
    reservedSet l j = (decide ((recWord l o).extractLsb' a m ≠ 0) || decide ((recWord l o).extractLsb' b n ≠ 0)) := by
  rw [reservedSet, ho, hm, ← Bool.decide_or, decide_eq_decide, Ne, and_masks_eq_zero, not_and_or]

theorem reservedSet_of_word (l : List Byte) {j o : Nat} (ho : 8 * j = o) (hm : reservedBits (recNdep l) o = 0xFFFFFFFFFFFFFFFF) : reservedSet l j = decide (recWord l o ≠ 0) := by
  rw [reservedSet, ho, hm]
  exact decide_eq_decide.mpr (not_congr (and_word_eq_zero _))

theorem reservedSet_of_none (l : List Byte) {j : Nat} (hm : reservedBits (recNdep l) (8 * j) = 0) : reservedSet l j = false := by
  rw [reservedSet, hm, Nat.and_zero]
  rfl

/-- The words of dependence i: its address has a RSV field, and one that is not used is RSV whole. -/
theorem reservedSet_dep (l : List Byte) {i : Nat} (hi : i < 4) :
    reservedSet l (12 + 2 * i) = (if i < recNdep l then decide ((recWord l (0x60 + 16 * i)).extractLsb' 48 16 ≠ 0) else decide (recWord l (0x60 + 16 * i) ≠ 0)) ∧
    reservedSet l (13 + 2 * i) = (!(decide (i < recNdep l)) && decide (recWord l (0x68 + 16 * i) ≠ 0)) := by
  have bits (o : Nat) (h1 : 0x60 ≤ o) (h2 : o < 0xA0) : reservedBits (recNdep l) o =
      if (o - 0x60) / 16 < recNdep l then (if o % 16 = 0 then 0xFFFF000000000000 else 0) else 0xFFFFFFFFFFFFFFFF := by
    unfold reservedBits
    repeat rw [if_neg (by omega)]
    rw [if_pos ⟨h1, h2⟩]
  have h0 := bits (0x60 + 16 * i) (by omega) (by omega)
  have h1 := bits (0x68 + 16 * i) (by omega) (by omega)
  have o0 : 8 * (12 + 2 * i) = 0x60 + 16 * i := by omega
  have o1 : 8 * (13 + 2 * i) = 0x68 + 16 * i := by omega
  rw [show (0x60 + 16 * i - 0x60) / 16 = i by omega, if_pos (show (0x60 + 16 * i) % 16 = 0 by omega)] at h0
  rw [show (0x68 + 16 * i - 0x60) / 16 = i by omega, if_neg (show ¬ (0x68 + 16 * i) % 16 = 0 by omega)] at h1
  by_cases hn : i < recNdep l
  · rw [if_pos hn] at h0 h1 ⊢
    rw [reservedSet_of_mask l (lo := 48) (n := 16) o0 h0, reservedSet_of_none l (o1 ▸ h1), decide_eq_true hn]
    exact ⟨rfl, rfl⟩
  · rw [if_neg hn] at h0 h1 ⊢
    rw [reservedSet_of_word l o0 h0, reservedSet_of_word l o1 h1, decide_eq_false hn]
    exact ⟨rfl, rfl⟩

theorem firstBad_append : ∀ l r : List (Bool × Nat), firstBad (l ++ r) = (firstBad l).or (firstBad r)
  | [], _ => rfl
  | (b, o) :: l, r => by
    rw [List.cons_append, firstBad, firstBad, firstBad_append l r]
    cases b <;> rfl

/-- The RSV bits of the words before the dependences. -/
theorem reservedBits_head (d : Nat) :
    reservedBits d 0 = (2 ^ 32 - 1) <<< 0 ∧ reservedBits d 0x18 = (2 ^ 19 - 1) <<< 13 ||| (2 ^ 1 - 1) <<< 3 ∧ reservedBits d 0x20 = (2 ^ 16 - 1) <<< 48 ∧
    reservedBits d 0x28 = (2 ^ 48 - 1) <<< 16 ||| (2 ^ 7 - 1) <<< 8 ∧ reservedBits d 0x30 = (2 ^ 7 - 1) <<< 57 ∧ reservedBits d 0x38 = (2 ^ 20 - 1) <<< 36 ∧
    reservedBits d 0x48 = (2 ^ 52 - 1) <<< 11 ∧ reservedBits d 0x50 = (2 ^ 32 - 1) <<< 32 ∧ reservedBits d 0x58 = 0xFFFFFFFFFFFFFFFF := by
  simp [reservedBits]

theorem recReserved_eq (l : List Byte) : recReserved l = ((List.range 32).find? (reservedSet l)).map (8 * ·) := by
  let row := fun j => (reservedSet l j, 8 * j)
  have words : List.range 32 = [0, 1, 2, 3, 4, 5, 6, 7, 8, 9, 10, 11] ++ (List.range 4).flatMap (fun i => [12 + 2 * i, 13 + 2 * i]) ++
    ([20, 21, 22, 23, 24, 25, 26, 27] ++ (List.range 4).map (fun k => 28 + k)) := rfl
  have free : ∀ j ∈ [1, 2, 8, 20, 21, 22, 23, 24, 25, 26, 27], reservedSet l j = false := fun j hj => reservedSet_of_none l (by fin_cases hj <;> rfl)
  have deps : (List.range 4).flatMap (fun i =>
      [((if i < recNdep l then decide ((recWord l (0x60 + 16 * i)).extractLsb' 48 16 ≠ 0) else decide (recWord l (0x60 + 16 * i) ≠ 0)), 0x60 + 16 * i),
       (!(i < recNdep l) && decide (recWord l (0x68 + 16 * i) ≠ 0), 0x68 + 16 * i)]) = ((List.range 4).flatMap (fun i => [12 + 2 * i, 13 + 2 * i])).map row := by
    rw [List.map_flatMap]
    refine List.flatMap_congr fun i hi => ?_
    obtain ⟨h0, h1⟩ := reservedSet_dep l (List.mem_range.mp hi)
    have o0 : 8 * (12 + 2 * i) = 0x60 + 16 * i := by omega
    have o1 : 8 * (13 + 2 * i) = 0x68 + 16 * i := by omega
    simp only [List.map_cons, List.map_nil, row, h0, h1, o0, o1]
  have tail : (List.range 4).map (fun k => (decide (recWord l (0xE0 + 8 * k) ≠ 0), 0xE0 + 8 * k)) = ((List.range 4).map (fun k => 28 + k)).map row := by
    rw [List.map_map]
    refine List.map_congr_left fun k hk => ?_
    have hk4 := List.mem_range.mp hk
    have o : 8 * (28 + k) = 0xE0 + 8 * k := by omega
    have bits : reservedBits (recNdep l) (0xE0 + 8 * k) = 0xFFFFFFFFFFFFFFFF := by
      interval_cases k <;> rfl
    simp only [Function.comp_apply, row, reservedSet_of_word l o bits, o]
  rw [← firstBad_map]
  unfold recReserved
  simp only [deps, tail, words, List.map_append, firstBad_append]
  have unnamed : firstBad ([20, 21, 22, 23, 24, 25, 26, 27].map row) = none := by
    rw [firstBad_map, Option.map_eq_none_iff, List.find?_eq_none]
    exact fun j hj => by rw [free j (by fin_cases hj <;> decide)]; exact Bool.false_ne_true
  obtain ⟨b0, b18, b20, b28, b30, b38, b48, b50, b58⟩ := reservedBits_head (recNdep l)
  have mask {j o lo n : Nat} := reservedSet_of_mask l (j := j) (o := o) (lo := lo) (n := n)
  have masks {j o a m b n : Nat} := reservedSet_of_masks l (j := j) (o := o) (a := a) (m := m) (b := b) (n := n)
  rw [unnamed, Option.none_or]
  simp only [List.map_cons, List.map_nil, row, firstBad, free 1 (by decide), free 2 (by decide), free 8 (by decide), mask (j := 0) rfl b0, masks (j := 3) rfl b18,
    mask (j := 4) rfl b20, masks (j := 5) rfl b28, mask (j := 6) rfl b30, mask (j := 7) rfl b38, mask (j := 9) rfl b48, mask (j := 10) rfl b50,
    reservedSet_of_word l (j := 11) rfl b58, extractLsb'_bit, Bool.false_eq_true, if_false, Nat.reduceMul]

/-! #### The checks of R60, row by row -/

/-- The triple in which the statements give a failed check. -/
def RecBad.triple (b : RecBad) : Nat × Nat × Nat := (b.reason, b.wofs, b.tidx)

theorem map_ite_of_iff {α β : Type} {P Q : Prop} [Decidable P] [Decidable Q] {f : α → β} {x y : Option α} {x' y' : Option β} (h : P ↔ Q) (hx : x.map f = x') (hy : y.map f = y') :
    (if P then x else y).map f = if Q then x' else y' := by
  by_cases hP : P
  · rw [if_pos hP, if_pos (h.mp hP), hx]
  · rw [if_neg hP, if_neg (mt h.mpr hP), hy]

theorem State.clusOf_eq (s : State) (fn c : Nat) : s.clusOf fn c = decide (c < 128 ∧ (s.clus c).fn = fn) := (Bool.decide_and _ _).symm

/-- The low bits of a field that starts at bit 0. -/
theorem extractLsb'_mod (v : DWord) {n k : Nat} (h : k ≤ n) : (v.extractLsb' 0 n).toNat % 2 ^ k = (v.extractLsb' 0 k).toNat := by
  rw [extractLsb'_toNat_mod, extractLsb'_toNat_mod, Nat.mod_mod_of_dvd _ (Nat.pow_dvd_pow 2 h)]

theorem recDepa_mod (l : List Byte) (i : Nat) : (recDepa l i).toNat % 8 = ((recWord l (0x60 + 16 * i)).extractLsb' 0 3).toNat := by
  rw [← extractLsb'_mod _ (show 3 ≤ 48 by omega), recDepa, BitVec.toNat_setWidth, Nat.mod_eq_of_lt (lt_of_lt_of_le (BitVec.isLt _) (by decide))]
  rfl

/-- What `recordBad` finds is the first failing check of R60. -/
theorem recordBad_eq (s : State) (fn : Nat) (l : List Byte) (map img : Option (List Byte)) :
    (s.recordBad fn l map img).map RecBad.triple = recordFault s fn l map img := by
  unfold State.recordBad recordFault
  simp only [fld_bit]
  simp only [fld_eq, Nat.reduceAdd, Nat.reduceSub]
  refine map_ite_of_iff Iff.rfl rfl ?_
  rw [recReserved_eq]
  change _ = match List.find? (reservedSet l) (List.range 32) with | some j => _ | none => _
  cases List.find? (reservedSet l) (List.range 32) with
  | some j => rfl
  | none =>
    dsimp only [Option.map_none]
    refine map_ite_of_iff ?roots rfl ?_
    case roots =>
      simp only [List.any_filter, List.any_eq_true, Bool.and_eq_true, State.clusOf_eq, decide_eq_true_eq]
      rfl
    refine map_ite_of_iff (by rw [Bool.and_eq_true, decide_eq_true_eq]; rfl) rfl ?_
    refine map_ite_of_iff ?code rfl ?_
    case code =>
      change _ ↔ recCpages l < 1 ∨ 4096 < recCpages l ∨ recCbase l % 4096 ≠ 0
      simp only [Bool.or_eq_true, decide_eq_true_eq, Nat.lt_one_iff, or_assoc]
    refine map_ite_of_iff (by simp only [Bool.or_eq_true, decide_eq_true_eq, or_assoc]; rfl) rfl ?_
    refine map_ite_of_iff ?geometry rfl ?_
    case geometry => 
      simp only [Bool.or_eq_true, decide_eq_true_eq, Nat.lt_one_iff, or_assoc]
      rfl
    refine map_ite_of_iff ?stallk rfl ?_
    case stallk => 
      change _ ↔ recStallk l ≠ 0 ∧ ¬ (16 ≤ recStallk l ∧ recStallk l ≤ 40)
      simp only [Bool.or_eq_true, Bool.and_eq_true, decide_eq_true_eq, not_and_or, Nat.not_le]
    refine map_ite_of_iff ?pmap rfl ?_
    case pmap =>
      rw [Bool.and_eq_true, decide_eq_true_eq]
      refine and_congr_right fun _ => ?_
      cases map with
      | none => simp
      | some m => simp only [State.clusOf_eq, List.any_eq_true, Bool.and_eq_true, decide_eq_true_eq, Bool.not_eq_true', reduceCtorEq, false_or, Option.getD_some]
    refine map_ite_of_iff Iff.rfl rfl ?_
    simp only [recDepa_mod]
    change _ = match List.find? _ (List.range (recNdep l)) with | some i => _ | none => _
    cases List.find? (fun x => decide (((recWord l (96 + 16 * x)).extractLsb' 0 3).toNat ≠ 0)) (List.range (recNdep l)) with
    | some i => rfl
    | none =>
      refine map_ite_of_iff ?slot rfl ?_
      case slot =>
        simp only [Bool.and_eq_true, Bool.not_eq_true', Bool.and_eq_false_iff, decide_eq_false_iff_not, not_and_or, Bool.not_eq_true]
        rfl
      have aligned : ((recWord l 0x30).extractLsb' 0 6).toNat = recTida l % 64 := (extractLsb'_mod _ (by omega)).symm
      rw [aligned]
      change _ = if 256 < recTidn l ∨ recTida l % 64 ≠ 0 ∨ recTidn l ≠ 0 ∧ img = none then _ else match imgBad (img.getD []) (recTidn l) with | some i => _ | none => _
      have offset : ((recWord l 0x38).extractLsb' 0 3).toNat = recChofs l % 8 := (extractLsb'_mod _ (by omega)).symm
      rw [offset]
      change _ = if _ then _ else match imgBad (img.getD []) (recTidn l) with
        | some i => _
        | none => if recCen l = true ∧ (decide (recCclus l < 128 ∧ (s.clus (recCclus l)).fn = fn) = false ∨ recChofs l % 8 ≠ 0) then _ else none
      have completion : (recCen l && (!s.clusOf fn (recCclus l) || decide (recChofs l % 8 ≠ 0))) = true ↔
          recCen l = true ∧ (decide (recCclus l < 128 ∧ (s.clus (recCclus l)).fn = fn) = false ∨ recChofs l % 8 ≠ 0) := by
        simp only [Bool.and_eq_true, Bool.or_eq_true, Bool.not_eq_true', State.clusOf_eq, decide_eq_true_eq]
      have last := map_ite_of_iff (f := RecBad.triple) (x := some ⟨11, 0x38, 0⟩) (y := none) completion rfl rfl
      generalize (if (recCen l && (!s.clusOf fn (recCclus l) || decide (recChofs l % 8 ≠ 0))) = true then some (⟨11, 0x38, 0⟩ : RecBad) else none) = row at last ⊢
      change _ = if _ then _ else match imgBad (img.getD []) (recTidn l) with | some i => _ | none => if _ then Option.map RecBad.triple (some ⟨11, 0x38, 0⟩) else Option.map RecBad.triple none
      rw [← last]
      by_cases hrow : 256 < recTidn l ∨ recTida l % 64 ≠ 0
      · rw [if_pos (by simpa using hrow), if_pos (by simp only [← or_assoc, hrow, true_or])]
        rfl
      · rw [if_neg (by simpa using hrow)]
        by_cases h0 : recTidn l = 0
        · rw [if_pos h0, if_neg (by simpa [h0] using hrow), h0]
          rfl
        · rw [if_neg h0]
          cases img with
          | none =>
            rw [if_pos (.inr (.inr ⟨h0, rfl⟩))]
            rfl
          | some im =>
            rw [if_neg (by simpa using hrow), Option.getD_some]
            dsimp only
            cases imgBad im (recTidn l) with
            | some i => rfl
            | none => rfl

/-! #### Queues under the front end's operations -/

theorem Assoc.put_put {κ α : Type} [DecidableEq κ] (k : κ) (v w : α) : ∀ m : Assoc κ α, Assoc.put k w (Assoc.put k v m) = Assoc.put k w m
  | [] => by simp [Assoc.put]
  | (j, x) :: m => by
    by_cases h : j = k
    · simp [Assoc.put, h]
    · simp [Assoc.put, h, Assoc.put_put k v w m]

@[simp] theorem State.queue_modQueue (s : State) (q : Nat) (f : Queue → Queue) : (s.modQueue q f).queue q = f (s.queue q) := Assoc.get_put_self ..
theorem State.queue_modQueue_ne (s : State) {q r : Nat} (h : r ≠ q) (f : Queue → Queue) : (s.modQueue q f).queue r = s.queue r := Assoc.get_put_ne _ h.symm ..
@[simp] theorem State.queue_post (s : State) (i : Instr) (inp : Inp) (q : Nat) : (s.post i inp).queue q = s.queue q := rfl

theorem State.modQueue_modQueue (s : State) (q : Nat) (f g : Queue → Queue) : (s.modQueue q f).modQueue q g = s.modQueue q (fun k => g (f k)) := by
  have put := Assoc.put_put q (f (s.queue q)) (g (f (s.queue q))) s.queues
  rw [State.modQueue, State.queue_modQueue, State.modQueue, State.modQueue, put]

theorem State.onlyQueue_modQueue (s : State) (q : Nat) (f : Queue → Queue) : OnlyQueue s (s.modQueue q f) q (f (s.queue q)) :=
  ⟨s.queue_modQueue q f, fun _ h => s.queue_modQueue_ne h f, rfl⟩

theorem State.sendMsix_msixOf (s : State) (fn vec : Nat) : s.sendMsix fn vec = { s with host := s.host ++ msixOf fn vec } := by
  rw [State.sendMsix, msixOf]
  by_cases h : fn = 0 ∨ vec < 64
  · rw [if_pos (by simpa using h), if_pos h]
  · rw [if_neg (by simpa using h), if_neg h, List.append_nil]

/-- A queue that has stopped with a reason. -/
def Queue.stopped (k : Queue) (e0 e1 : DWord) (failed : Bool) : Queue := { k with st := .error, err0 := e0, err1 := e1, failed := failed, head := none }

/-- An active queue without a basting launch stops: its own fields change, and its message is sent. -/
theorem State.stopQueue_eq {s : State} {q : Nat} (h : (s.queue q).st = .active) (hb : s.basting? q = none) (e0 e1 : DWord) (failed : Bool) :
    s.stopQueue q e0 e1 failed =
      { s.modQueue q (fun k => k.stopped e0 e1 failed) with host := s.host ++ (if (s.queue q).een then msixOf (s.queue q).fn (s.queue q).evec else []) } := by
  unfold State.stopQueue
  extract_lets k s1 s2
  have told : s2 = { s1 with host := s.host ++ (if k.een then msixOf k.fn k.evec else []) } := by
    unfold s2
    split
    · exact s1.sendMsix_msixOf ..
    · rw [List.append_nil]
      rfl
  have none : s2.basting? q = none := by rw [told]; exact hb
  rw [if_pos h, State.unpickQ, none]
  exact told

theorem State.basting?_of_nil {s : State} (h : s.bastings = []) (q : Nat) : s.basting? q = none := by rw [State.basting?, h]; rfl

/-- What stopping an active queue without a basting launch gives. -/
structure QueueStopped (s t : State) (q : Nat) (e0 e1 : DWord) (failed : Bool) : Prop where
  stops : QueueStops s t q e0 e1
  failed : (t.queue q).failed = failed
  head : (t.queue q).head = none
  nlive : (t.queue q).nlive = (s.queue q).nlive
  prod : (t.queue q).prod = (s.queue q).prod

theorem State.stopQueue_stopped {s : State} {q : Nat} (h : (s.queue q).st = .active) (hb : s.bastings = []) (e0 e1 : DWord) (failed : Bool) :
    QueueStopped s (s.stopQueue q e0 e1 failed) q e0 e1 failed := by
  rw [State.stopQueue_eq h (State.basting?_of_nil hb q)]
  let t : State := { s.modQueue q (fun k => k.stopped e0 e1 failed) with host := s.host ++ (if (s.queue q).een then msixOf (s.queue q).fn (s.queue q).evec else []) }
  have queue : t.queue q = (s.queue q).stopped e0 e1 failed := s.queue_modQueue q fun k => k.stopped e0 e1 failed
  change QueueStopped s t q e0 e1 failed
  refine ⟨⟨?_, ?_, ?_, ?_, rfl, rfl⟩, ?_, ?_, ?_, ?_⟩
  all_goals rw [queue]; rfl

/-- The front end reads no record of the queue. -/
def State.unread (s : State) (q : Nat) : State := s.modQueue q (fun k => { k with head := none })

theorem State.stopQueue_unread {s : State} {q : Nat} (h : (s.queue q).st = .active) (hb : s.bastings = []) (e0 e1 : DWord) (failed : Bool) :
    (s.unread q).stopQueue q e0 e1 failed = s.stopQueue q e0 e1 failed := by
  have queue : (s.unread q).queue q = { s.queue q with head := none } := s.queue_modQueue ..
  have active : ((s.unread q).queue q).st = .active := by rw [queue]; exact h
  rw [State.stopQueue_eq h (State.basting?_of_nil hb q), State.stopQueue_eq active (State.basting?_of_nil (s := s.unread q) hb q), State.unread, State.modQueue_modQueue, State.queue_modQueue]
  rfl

/-- FETCH_FAULT stops the queue with the address of the read that failed (R95, R96). -/
theorem State.fetchFault_stopped {s : State} {q : Nat} (h : (s.queue q).st = .active) (hb : s.bastings = []) (n wofs : Nat) :
    QueueStopped s (s.fetchFault q n wofs) q (err0Word 0x10 n wofs 0) ((s.queue q).slotAddr n + BitVec.ofNat 64 wofs) true := by
  have := State.stopQueue_stopped h hb (err0Word 0x10 n wofs 0) ((s.queue q).slotAddr n + BitVec.ofNat 64 wofs) true
  rwa [← State.stopQueue_unread h hb] at this

theorem Queue.slotAddr_add (k : Queue) (n o : Nat) :
    k.slotAddr n + BitVec.ofNat 64 o = (k.base &&& 0xFFFFFFFFFFFFFF00#64) + BitVec.ofNat 64 (256 * (n % 2 ^ k.logn) + o) := by
  rw [Queue.slotAddr, BitVec.add_assoc, BitVec.ofNat_add]

/-! #### Accepting a record -/

theorem State.recordBad_unread (s : State) (q fn : Nat) (l : List Byte) (map img : Option (List Byte)) : (s.unread q).recordBad fn l map img = s.recordBad fn l map img := rfl

theorem State.acceptRecord_bad {s : State} {q : Nat} (h : (s.queue q).st = .active) (hb : s.bastings = []) {n code ofs ix : Nat} {rcd : List Byte} {map img : Option (List Byte)}
    (hbad : recordFault s (s.queue q).fn rcd map img = some (code, ofs, ix)) : QueueStopped s (s.acceptRecord q n rcd map img) q (err0Word code n ofs ix) 0 true := by
  rw [← recordBad_eq, Option.map_eq_some_iff] at hbad
  obtain ⟨b, hb', htriple⟩ := hbad
  obtain ⟨rfl, rfl, rfl⟩ : b.reason = code ∧ b.wofs = ofs ∧ b.tidx = ix := by simpa [RecBad.triple] using htriple
  have accept : s.acceptRecord q n rcd map img = (s.unread q).stopQueue q (err0Word b.reason n b.wofs b.tidx) 0 true := by
    have fn : ((s.unread q).queue q).fn = (s.queue q).fn := by rw [State.unread, State.queue_modQueue]
    unfold State.acceptRecord
    extract_lets s0
    have found : s0.recordBad (s0.queue q).fn rcd map img = some b := by
      change (s.unread q).recordBad ((s.unread q).queue q).fn rcd map img = some b
      rw [fn, State.recordBad_unread, hb']
    rw [found]
    rfl
  rw [accept, State.stopQueue_unread h hb]
  exact State.stopQueue_stopped h hb ..

theorem State.tryDeps_of_none {s : State} {k : Nat × Nat} {l : Launch} (hl : (s.launches.find? (fun e => e.1 = k)).map (·.2) = some l) (hn : recNdep l.rcd = 0) : s.tryDeps k = s := by
  refine List.foldlRecOn (List.range 4) _ (motive := fun u => u = s) rfl fun u hu i _ => ?_
  rw [hu, hl]
  dsimp only
  rw [if_neg (by omega)]

theorem State.offer_of_ready {s : State} {k : Nat × Nat} {l : Launch} (hl : (s.launches.find? (fun e => e.1 = k)).map (·.2) = some l) (hr : l.ready = true) (hb : s.bastings = []) :
    s.offer k = s.post .teamPlace {} := by
  rw [State.offer, hl]
  dsimp only
  rw [hr, hb]
  rfl

theorem Assoc.find?_append_new {κ α : Type} [DecidableEq κ] {k : κ} {m : Assoc κ α} (h : Assoc.has k m = false) (v : α) : ((m ++ [(k, v)]).find? (fun e => e.1 = k)).map (·.2) = some v := by
  have none : m.find? (fun e => decide (e.1 = k)) = none := by
    rw [List.find?_eq_none]
    intro e he hk
    have := (Assoc.has_iff k m).mpr (List.mem_map.mpr ⟨e, he, of_decide_eq_true hk⟩)
    rw [h] at this
    cases this
  rw [List.find?_append, none]
  simp

/-- What the queue keeps of an accepted record. -/
def Queue.accepted (k : Queue) (n : Nat) (rcd : List Byte) : Queue := { ({ k with head := none } : Queue).remember rcd with cons := n + 1, nlive := k.nlive + 1 }

/-- A record enters the history and nothing else of the queue. -/
theorem Queue.remember_eq (k : Queue) (rcd : List Byte) :
    k.remember rcd = { k with hist := if recBhist rcd then (k.hist ++ [rcd]).drop (k.hist.length + 1 - 24) else k.hist, histNew := if recBhist rcd then true else k.histNew } := by
  rw [Queue.remember]
  by_cases h : recBhist rcd = true
  · simp only [if_pos h]
  · simp only [if_neg h]

theorem State.slotPassed_of_nil {s : State} {q : Nat} (h : (s.queue q).enqs = []) : s.slotPassed q = s := by rw [State.slotPassed, h]

/-- The accepted record stands in its queue and among the launches. -/
def State.launched (s : State) (q n : Nat) (rcd : List Byte) (l : Launch) : State :=
  { s.modQueue q (fun k => k.accepted n rcd) with launches := s.launches ++ [(launchKey q n, l)] }

/-- A record without a fault and without dependences becomes a launch that is offered (R96, R98). -/
theorem State.acceptRecord_good {s : State} {q n : Nat} {rcd : List Byte} {map img : Option (List Byte)} (hgood : recordFault s (s.queue q).fn rcd map img = none) (hdep : recNdep rcd = 0)
    (hb : s.bastings = []) (he : (s.queue q).enqs = []) (hnew : Assoc.has (launchKey q n) s.launches = false) :
    s.acceptRecord q n rcd map img = ((s.launched q n rcd (newLaunch q n rcd (img.getD []) map)).post .teamPlace {}).post .recordRead { id := q } := by
  rw [← recordBad_eq, Option.map_eq_none_iff] at hgood
  have fn : ((s.unread q).queue q).fn = (s.queue q).fn := by rw [State.unread, State.queue_modQueue]
  have found : (s.unread q).recordBad ((s.unread q).queue q).fn rcd map img = none := by rw [fn, State.recordBad_unread, hgood]
  unfold State.acceptRecord
  extract_lets s0 image l s1 s2 s3
  rw [show s0.recordBad (s0.queue q).fn rcd map img = none from found]
  have queue : s1 = s.modQueue q (fun k => k.accepted n rcd) := by
    have passed : s1 = (s.modQueue q (fun k => k.accepted n rcd)).slotPassed q := by
      unfold s1 s0
      rw [State.modQueue_modQueue]
      rfl
    rw [passed, State.slotPassed_of_nil]
    rw [State.queue_modQueue, Queue.accepted, Queue.remember_eq]
    exact he
  have launched : s2 = s.launched q n rcd l := by
    unfold s2
    rw [queue]
    rfl
  have same : s3 = s2 := by
    have none : s2.bastings = [] := by rw [launched]; exact hb
    unfold s3
    rw [none]
    rfl
  have listed : ((s.launched q n rcd l).launches.find? (fun e => e.1 = launchKey q n)).map (·.2) = some l := Assoc.find?_append_new hnew l
  have ready : l.ready = true := by
    have none : recNdep l.rcd = 0 := hdep
    rw [Launch.ready, none]
    rfl
  dsimp only
  rw [same, launched, State.tryDeps_of_none listed hdep, State.offer_of_ready listed ready hb]
  rfl

theorem State.arrives {s : State} {q n : Nat} {rcd : List Byte} {map img : Option (List Byte)} (h : (s.queue q).st = .active) (hx : exec .recordArrival s = .next (s.acceptRecord q n rcd map img)) :
    Arrives s q n rcd map img := by
  refine ⟨fun code ofs ix hbad hb => ?_, fun hgood hdep hb he hnew => ?_⟩
  · have stopped := State.acceptRecord_bad (n := n) h hb hbad
    exact ⟨_, hx, stopped.stops, stopped.failed, stopped.nlive⟩
  · rw [State.acceptRecord_good hgood hdep hb he hnew] at hx
    have queue : (s.launched q n rcd (newLaunch q n rcd (img.getD []) map)).queue q = (s.queue q).accepted n rcd := s.queue_modQueue q fun k => k.accepted n rcd
    rw [Queue.accepted, Queue.remember_eq] at queue
    refine ⟨_, hx, rfl, ?_, ?_, ?_, ?_, ?_, by simp, by simp, rfl, rfl, State.sameMem_of rfl rfl rfl rfl⟩
    all_goals rw [State.queue_post, State.queue_post, queue]
    exact h

/-! #### The events -/

/-- A record that names no map has none read. -/
theorem State.acceptRecord_noMap (s : State) {rcd : List Byte} (h : recPmap rcd = 0) (map map' : Option (List Byte)) {q n : Nat} {img : Option (List Byte)} :
    s.acceptRecord q n rcd map img = s.acceptRecord q n rcd map' img := by
  have bad (u : State) (fn : Nat) : u.recordBad fn rcd map img = u.recordBad fn rcd map' img := by simp only [State.recordBad, h, ne_eq, not_true_eq_false, decide_false, Bool.false_and]
  have matched (b : Basting) (im : List Byte) : b.matches n rcd im map = b.matches n rcd im map' := by
    simp only [Basting.matches, h, ne_eq, not_true_eq_false, decide_false, Bool.false_and, Bool.not_false, Bool.true_or]
  simp only [State.acceptRecord, bad, matched, h, if_true]


theorem execRecordRead_starts {s : State} {q : Nat} (hq : q = s.inp.id) (hr : s.ready = true) (hst : (s.queue q).st = .active) (hh : (s.queue q).head = none)
    (hp : (s.queue q).cons < (s.queue q).prod) (hl : (s.queue q).nlive < 16) :
    ∃ t, exec .recordRead s = .next t ∧ t.queue q = { s.queue q with head := some (s.queue q).cons, rid := s.nextId, got := [], trying := false } ∧
      ((s.queue q).device = true → Sched.event .recordArrival { id := q } ∈ t.pending) := by
  subst hq
  rw [exec_recordRead, execRecordRead]
  dsimp only
  rw [if_pos (by simp [hr, hst, hh, hp, hl])]
  refine ⟨_, rfl, ?_, fun hd => ?_⟩
  · split
    · rw [State.queue_post]
      exact State.queue_modQueue ..
    · exact State.queue_modQueue ..
  · rw [if_pos hd]
    simp

theorem execRecordRead_waits {s : State} {q : Nat} (hq : q = s.inp.id) (h : (s.queue q).st ≠ .active ∨ (s.queue q).head ≠ none ∨ (s.queue q).prod ≤ (s.queue q).cons ∨ 16 ≤ (s.queue q).nlive) :
    exec .recordRead s = .next s := by
  subst hq
  rw [exec_recordRead, execRecordRead]
  refine if_neg fun hall => ?_
  simp only [Bool.and_eq_true, decide_eq_true_eq, Option.isNone_iff_eq_none] at hall
  obtain ⟨⟨⟨⟨-, hst⟩, hh⟩, hp⟩, hl⟩ := hall
  rcases h with h | h | h | h
  · exact h hst
  · exact h hh
  · omega
  · omega

section
variable {s : State} {q n : Nat} (hq : q = s.inp.id) (hh : (s.queue q).head = some n) (hst : (s.queue q).st = .active)
include hq hh hst

theorem execRecordArrival_failed (hd : (s.queue q).device = false) {r : RecordInput} (hload : s.inp.load = .record r) {u : Nat} (hf : r.fail = some u) :
    exec .recordArrival s = .next (s.fetchFault q n (64 * (u % 4))) := by
  subst hq
  rw [exec_recordArrival, execRecordArrival, hh]
  dsimp only
  rw [if_neg (not_not.mpr hst), hd, Bool.not_false, if_pos rfl, hload]
  dsimp only
  rw [hf]

theorem execRecordArrival_whole (hd : (s.queue q).device = false) {r : RecordInput} (hload : s.inp.load = .record r) (hf : r.fail = none) :
    exec .recordArrival s = .next (s.acceptRecord q n (padTo 256 r.record) (r.map.map (fun m => m.take (recTeams r.record))) (r.img.map (fun m => padTo (64 * recTidn r.record) m))) := by
  subst hq
  rw [exec_recordArrival, execRecordArrival, hh]
  dsimp only
  rw [if_neg (not_not.mpr hst), hd, Bool.not_false, if_pos rfl, hload]
  dsimp only
  rw [hf]

/-- The record of a device queue that names neither map nor image is at hand whole. -/
theorem execRecordArrival_device (hd : (s.queue q).device = true) {rcd : List Byte} (hr : Assoc.get (zeros 256) (n % 2 ^ (s.queue q).logn) (s.queue q).ring = rcd)
    (hp : recPmap rcd = 0) (ht : recTidn rcd = 0) : exec .recordArrival s = .next (s.acceptRecord q n rcd none (some [])) := by
  subst hq
  rw [exec_recordArrival, execRecordArrival, hh]
  dsimp only
  rw [if_neg (not_not.mpr hst), hd, hr, if_neg (by decide), State.frontMap, if_pos hp, State.acceptRecord_noMap s hp (some []) none]
  dsimp only
  rw [State.frontImage, if_pos ht]
  dsimp only
  rw [ite_self, ite_self]

theorem execCompletionTimeout_fault (hd : (s.queue q).device = false) : exec .completionTimeout s = .next (s.fetchFault q n (s.inp.ofs / 64 % 4 * 64)) := by
  subst hq
  rw [exec_completionTimeout, execCompletionTimeout, hh]
  dsimp only
  rw [if_pos (by rw [hst, hd]; rfl)]

end

/-- Settles O44: the checks are `recordBad_eq`; what stopping and accepting give are `State.stopQueue_stopped` and `State.acceptRecord_good`. -/
theorem recordReading : Obligations.RecordReading := by
  unfold Obligations.RecordReading
  refine ⟨fun s q hq => ⟨execRecordRead_starts hq, execRecordRead_waits hq⟩, fun s q n hq hh hst => ⟨fun r hd hload => ⟨fun u hf hu hb => ?_, fun hf => ?_⟩, fun hd hp ht => ?_, fun hd ho hb => ?_⟩⟩
  · have fault := State.fetchFault_stopped hst hb n (64 * (u % 4))
    rw [Nat.mod_eq_of_lt hu, Queue.slotAddr_add] at fault
    refine ⟨_, execRecordArrival_failed hq hh hst hd hload hf, ?_⟩
    rw [Nat.mod_eq_of_lt hu]
    exact ⟨fault.head, fault.failed, fault.stops⟩
  · exact State.arrives hst (execRecordArrival_whole hq hh hst hd hload hf)
  · exact State.arrives hst (execRecordArrival_device hq hh hst hd rfl hp ht)
  · have row : s.inp.ofs / 64 % 4 * 64 = s.inp.ofs / 64 * 64 := by omega
    have fault := State.fetchFault_stopped hst hb n (s.inp.ofs / 64 * 64)
    rw [Queue.slotAddr_add] at fault
    refine ⟨_, execCompletionTimeout_fault hq hh hst hd, ?_⟩
    rw [row]
    exact ⟨fault.head, fault.failed, fault.stops⟩

end Sys2Proof.Machine

/-! ### O43: queue registers and commands (R91 to R94, R97) -/

namespace Sys2Proof.Machine
open Sys2Proof.Claims

theorem fnCode_eq (v : DWord) : (v.extractLsb' 0 5).toNat = v.toNat % 32 := extractLsb'_toNat_mod v 5

theorem execQueueFnWrite_takes {s : State} {q : Nat} (hq : q = s.inp.id) (hq' : q < 256) (hr : s.ready = true) (h0 : s.inp.fn = 0) (hst : (s.queue q).st = .absent) (hf : s.inp.val.toNat % 32 ≤ 16) :
    exec .queueFnWrite s = .next (s.modQueue q (fun k => { k with fn := s.inp.val.toNat % 32 })) := by
  rw [exec_queueFnWrite, execQueueFnWrite, if_pos h0, ← hq, State.queueFnWrite, fnCode_eq, if_neg]
  simp [hr, hst, Nat.not_le.mpr hq', Nat.not_lt.mpr hf]

theorem execQueueFnWrite_ignores {s : State} {q : Nat} (hq : q = s.inp.id) (h : s.inp.fn ≠ 0 ∨ (s.queue q).st ≠ .absent ∨ 16 < s.inp.val.toNat % 32) : exec .queueFnWrite s = .next s := by
  rw [exec_queueFnWrite, execQueueFnWrite, State.queueFnWrite, fnCode_eq, ← hq]
  rcases h with h | h | h
  · rw [if_neg h]
  all_goals simp [h]

/-! #### Launches that leave (R97) -/

theorem State.dropWatches_eq (l : List (Nat × Nat × Nat)) (s : State) :
    l.foldl (fun u w => u.dropWatch w.2.1) s = { s with clusters := (l.foldl (fun u w => u.dropWatch w.2.1) s).clusters } := by
  refine List.foldlRecOn l _ (motive := fun u : State => u = { s with clusters := u.clusters }) rfl fun u hu w _ => ?_
  rw [hu]
  rfl

/-- What a launch that leaves changes of the front end (R97), and what it leaves alone. -/
structure State.LaunchGone (s t : State) (l : Launch) : Prop where
  launches : t.launches = s.launches.filter (fun e => e.1 ≠ launchKey l.q l.seq)
  queue : t.queue l.q = ({ s.queue l.q with nlive := (s.queue l.q).nlive - 1 } : Queue).settle
  bastings : t.bastings = s.bastings
  teams : t.teams = s.teams
  host : t.host = s.host
  mem : s.sameMem t

theorem State.launchGone_gone (s : State) (l : Launch) : s.LaunchGone (s.launchGone l) l := by
  unfold State.launchGone
  rw [State.dropWatches_eq]
  generalize (l.watching.foldl (fun u w => u.dropWatch w.2.1) s).clusters = cs
  exact ⟨rfl, Assoc.get_put_self .., rfl, rfl, rfl, State.sameMem_of rfl rfl rfl rfl⟩

/-- A queue that has been destroyed: it drains, or has nothing left. -/
structure Queue.Leaving (k : Queue) : Prop where
  head : k.head = none
  cerr : k.cerr = false
  st : k.st = .draining ∨ k.st = .absent ∧ k.nlive = 0 ∧ k.hist = []

theorem Queue.Leaving.less {k : Queue} (h : k.Leaving) : ({ k with nlive := k.nlive - 1 } : Queue).Leaving :=
  ⟨h.head, h.cerr, h.st.imp id fun ⟨hs, hn, hh⟩ => ⟨hs, by rw [hn], hh⟩⟩

theorem Queue.Leaving.settle {k : Queue} (h : k.Leaving) : k.settle.Leaving := by
  rw [Queue.settle]
  split
  · rename_i hs
    simp only [Bool.and_eq_true, decide_eq_true_eq] at hs
    exact ⟨rfl, h.cerr, .inr ⟨rfl, hs.2, rfl⟩⟩
  · exact h

/-- Once settled the queue drains exactly while launches live, and an absent queue has no history. -/
theorem Queue.Leaving.settled {k : Queue} (h : k.Leaving) : k.settle.st = (if k.settle.nlive = 0 then .absent else .draining) ∧ (k.settle.st = .absent → k.settle.hist = []) := by
  rw [Queue.settle]
  rcases h.st with hs | ⟨hs, hn, hh⟩
  · by_cases hn : k.nlive = 0
    · simp [hs, hn]
    · simp [hs, hn]
  · simp [hs, hn, hh]

/-- The launches of a list that have placed no team leave. -/
def State.dropUnplaced (s : State) (ls : List Launch) : State := ls.foldl (fun u l => if l.placed = 0 then u.launchGone l else u) s

theorem State.mem_dropUnplaced (ls : List Launch) (s : State) (e : (Nat × Nat) × Launch) :
    e ∈ (s.dropUnplaced ls).launches ↔ e ∈ s.launches ∧ ∀ l ∈ ls, l.placed = 0 → e.1 ≠ launchKey l.q l.seq := by
  induction ls generalizing s with
  | nil => simp [State.dropUnplaced]
  | cons l ls ih =>
    rw [State.dropUnplaced, List.foldl_cons, ← State.dropUnplaced, ih, List.forall_mem_cons]
    by_cases hp : l.placed = 0
    · rw [if_pos hp, (s.launchGone_gone l).launches, List.mem_filter, decide_eq_true_eq, and_assoc]
      exact and_congr_right fun _ => and_congr_left fun _ => ⟨fun h _ => h, fun h => h hp⟩
    · rw [if_neg hp]
      exact and_congr_right fun _ => ⟨fun h => ⟨fun h0 => absurd h0 hp, h⟩, fun h => h.2⟩

/-- Draining keeps teams, messages and memory. -/
structure State.Drained (s t : State) (q : Nat) : Prop where
  queue : (t.queue q).Leaving
  bastings : t.bastings = s.bastings
  teams : t.teams = s.teams
  host : t.host = s.host
  mem : s.sameMem t

theorem State.dropUnplaced_drained {s : State} {q : Nat} {ls : List Launch} (hk : (s.queue q).Leaving) (hl : ∀ l ∈ ls, l.q = q) : s.Drained (s.dropUnplaced ls) q := by
  refine List.foldlRecOn ls _ (motive := fun u => s.Drained u q) ⟨hk, rfl, rfl, rfl, fun _ _ => rfl⟩ fun u hu l hm => ?_
  split
  · have gone := u.launchGone_gone l
    have queue := gone.queue
    rw [hl l hm] at queue
    exact ⟨queue ▸ hu.queue.less.settle, gone.bastings.trans hu.bastings, gone.teams.trans hu.teams, gone.host.trans hu.host, hu.mem.trans gone.mem⟩
  · exact hu

theorem mem_launchesOf_of_keyed {s : State} (h : launchesKeyed s) {q : Nat} {l : Launch} (hl : l ∈ s.launchesOf q) : l.q = q ∧ (launchKey l.q l.seq, l) ∈ s.launches := by
  obtain ⟨e, he, rfl⟩ := List.mem_map.mp hl
  obtain ⟨hm, hq⟩ := List.mem_filter.mp he
  have key := h.1 e hm
  refine ⟨?_, ?_⟩
  · rw [← of_decide_eq_true hq, key]
    rfl
  · rw [← key]
    exact hm

/-- Exactly the launches of the queue that have placed a team stay, besides those of other queues. -/
theorem State.dropUnplaced_launches {s : State} {q : Nat} (h : launchesKeyed s) (e : (Nat × Nat) × Launch) :
    e ∈ (s.dropUnplaced (s.launchesOf q)).launches ↔ e ∈ s.launches ∧ (e.1.1 = q → e.2.placed ≠ 0) := by
  rw [State.mem_dropUnplaced]
  refine and_congr_right fun he => ⟨fun hall hq hp => ?_, fun hplaced l hl hp hkey => ?_⟩
  · exact hall e.2 (List.mem_map.mpr ⟨e, List.mem_filter.mpr ⟨he, decide_eq_true hq⟩, rfl⟩) hp (h.1 e he)
  · obtain ⟨hlq, hm⟩ := mem_launchesOf_of_keyed h hl
    have same : e = (launchKey l.q l.seq, l) := List.inj_on_of_nodup_map h.2 he hm hkey
    rw [same] at hplaced
    exact hplaced hlq hp

/-! #### The commands (R93) -/

theorem State.qReach_of {s : State} {q : Nat} (hq : q = s.inp.id) (hq' : q < 256) (hr : s.ready = true) (hl : s.fnLive s.inp.fn = true)
    (hf : s.inp.fn = 0 ∨ (s.queue q).fn = s.inp.fn) : s.qReach s.inp.fn s.inp.id = true := by
  rw [← hq]
  simp [State.qReach, hr, hl, hq', hf]

theorem State.qCommand_of_reach {s : State} (h : s.qReach s.inp.fn s.inp.id = true) (f : Nat → State) : s.qCommand f = .next (f s.inp.id) := by
  rw [State.qCommand, if_pos h]

theorem State.queueCreate_good {s : State} {q : Nat} (hst : (s.queue q).st = .absent) (hok : (s.queue q).lognOk = true) :
    s.queueCreate q = s.modQueue q (fun k => { k with prod := 0, cons := 0, hist := [], histNew := false, err0 := 0, err1 := 0, ncomp := false, nprod := false,
                                                        nreg := false, st := .active, cerr := false, ring := [], head := none, failed := false, fromErr := false, aborting := false }) := by
  simp [State.queueCreate, hst, hok]

theorem State.queueCreate_bad {s : State} {q : Nat} (h : (s.queue q).st ≠ .absent ∨ (s.queue q).lognOk = false) :
    s.queueCreate q = s.modQueue q (fun k => { k with cerr := true }) := by
  rw [State.queueCreate]
  rcases h with h | h
  · simp [h]
  · simp [h]

theorem State.queueDestroy_bad {s : State} {q : Nat} (ha : (s.queue q).st ≠ .active) (he : (s.queue q).st ≠ .error) (hc : s.committing q = false) (abort : Bool) :
    s.queueDestroy q abort = s.modQueue q (fun k => { k with cerr := true }) := by
  simp [State.queueDestroy, hc, ha, he]

theorem State.committing_of_nil {s : State} (h : s.bastings = []) (q : Nat) : s.committing q = false := by
  rw [State.committing, h, List.any_nil]

theorem State.unpickQ_of_none {s : State} {q : Nat} (h : s.basting? q = none) : s.unpickQ q = s := by
  rw [State.unpickQ, h]

/-- The queue that a DESTROY without ABORT drains. -/
def Queue.leave (k : Queue) : Queue := { k with st := .draining, fromErr := k.st = .error, aborting := false, head := none, cerr := false }

theorem Queue.leave_leaving (k : Queue) : k.leave.Leaving := ⟨rfl, rfl, .inl rfl⟩

/-- DESTROY without ABORT drops the launches that have placed no team and settles the queue (R97). -/
theorem State.queueDestroy_eq {s : State} {q : Nat} (hst : (s.queue q).st = .active ∨ (s.queue q).st = .error) (hb : s.bastings = []) (hk : launchesKeyed s) :
    s.queueDestroy q false = ((s.modQueue q Queue.leave).dropUnplaced (s.launchesOf q)).modQueue q (fun k => k.settle) := by
  have drained : (s.modQueue q Queue.leave).Drained ((s.modQueue q Queue.leave).dropUnplaced (s.launchesOf q)) q :=
    State.dropUnplaced_drained (by rw [State.queue_modQueue]; exact Queue.leave_leaving _) fun l hl => (mem_launchesOf_of_keyed hk hl).1
  have unpicked := State.unpickQ_of_none (State.basting?_of_nil (drained.bastings.trans hb) q)
  unfold State.queueDestroy
  extract_lets k s1 s2 s3 s5 live s6 s4
  have left : s4 = s2 := unpicked
  rw [if_neg (by rw [State.committing_of_nil hb]; decide), if_pos (by simpa using hst), left]
  rfl

/-- What remains after DESTROY without ABORT (R97). -/
structure State.Destroyed (s t : State) (q : Nat) : Prop where
  st : (t.queue q).st = (if (t.queue q).nlive = 0 then .absent else .draining)
  cerr : (t.queue q).cerr = false
  head : (t.queue q).head = none
  hist : (t.queue q).st = .absent → (t.queue q).hist = []
  teams : t.teams = s.teams
  host : t.host = s.host
  mem : s.sameMem t
  launches : ∀ e, e ∈ t.launches ↔ e ∈ s.launches ∧ (e.1.1 = q → e.2.placed ≠ 0)

theorem State.queueDestroy_destroyed {s : State} {q : Nat} (hst : (s.queue q).st = .active ∨ (s.queue q).st = .error) (hb : s.bastings = []) (hk : launchesKeyed s) :
    s.Destroyed (s.queueDestroy q false) q := by
  rw [State.queueDestroy_eq hst hb hk]
  have drained : (s.modQueue q Queue.leave).Drained ((s.modQueue q Queue.leave).dropUnplaced (s.launchesOf q)) q :=
    State.dropUnplaced_drained (by rw [State.queue_modQueue]; exact Queue.leave_leaving _) fun l hl => (mem_launchesOf_of_keyed hk hl).1
  have launches := State.dropUnplaced_launches (s := s.modQueue q Queue.leave) (q := q) hk
  obtain ⟨settledSt, settledHist⟩ := drained.queue.settled
  have leaving := drained.queue.settle
  refine ⟨?_, ?_, ?_, ?_, drained.teams, drained.host, drained.mem, launches⟩
  all_goals rw [State.queue_modQueue]
  · exact settledSt
  · exact leaving.cerr
  · exact leaving.head
  · exact settledHist

/-- A record slot that is passed changes only the waiting ENQs of its queue (R315). -/
theorem State.slotPassed_eq (s : State) (q : Nat) :
    ∃ ps, (s.slotPassed q).queue q = { s.queue q with enqs := ps } ∧ (s.slotPassed q).launches = s.launches := by
  rw [State.slotPassed]
  split
  · next h => exact ⟨[], by rw [← h], rfl⟩
  · next p ps _ => exact ⟨ps, by rw [State.queue_post, State.queue_modQueue], rfl⟩

/-- The queue that RESUME makes ACTIVE (R93). -/
def Queue.resumed (k : Queue) (skip : Bool) : Queue :=
  { k with st := .active, cerr := false, failed := false, cons := if k.failed && skip then k.cons + 1 else k.cons }

theorem State.queueResume_error {s : State} {q : Nat} (h : (s.queue q).st = .error) (skip : Bool) :
    ∃ ps, (s.queueResume q skip).queue q = { (s.queue q).resumed skip with enqs := ps } ∧ (s.queueResume q skip).launches = s.launches ∧
      Sched.event .recordRead { id := q } ∈ (s.queueResume q skip).pending := by
  unfold State.queueResume
  extract_lets k s1
  have queue : s1.queue q = (s.queue q).resumed skip := s.queue_modQueue ..
  rw [if_pos h]
  split
  · obtain ⟨ps, passed, launches⟩ := s1.slotPassed_eq q
    exact ⟨ps, by rw [State.queue_post, passed, queue], launches, List.mem_append_right _ (.head _)⟩
  · exact ⟨((s.queue q).resumed skip).enqs, by rw [State.queue_post, queue], rfl, List.mem_append_right _ (.head _)⟩

theorem State.queueResume_bad {s : State} {q : Nat} (h : (s.queue q).st ≠ .error) (skip : Bool) : s.queueResume q skip = s.modQueue q (fun k => { k with cerr := true }) := by
  rw [State.queueResume, if_neg h]

/-! #### Q_PROD (R94) -/

theorem State.prodWrite_ignored {s : State} {q : Nat} (h : (s.queue q).device = true ∨ (s.queue q).st = .absent ∨ (s.queue q).st = .draining) (v : Nat) : s.prodWrite q v = s := by
  rw [State.prodWrite, if_pos (by simpa [or_assoc] using h)]

section
variable {s : State} {q v : Nat} (hd : (s.queue q).device = false) (hst : (s.queue q).st = .active ∨ (s.queue q).st = .error)
include hd hst

theorem State.prodWrite_counts : ¬ ((s.queue q).device || (s.queue q).st = .absent || (s.queue q).st = .draining) = true := by
  rcases hst with h | h
  · simp [hd, h]
  · simp [hd, h]

theorem State.prodWrite_back (hv : v < (s.queue q).prod) :
    s.prodWrite q v = s.modQueue q (fun k => { k.note (err0Word 0x15 k.prod 0 0) 0 with nprod := true }) := by
  rw [State.prodWrite, if_neg (State.prodWrite_counts hd hst), if_pos hv]

theorem State.prodWrite_over (hp : (s.queue q).prod ≤ v) (hv : (s.queue q).cons + 2 ^ (s.queue q).logn < v) :
    s.prodWrite q v = s.stopQueue q (err0Word 0x11 (s.queue q).cons 0 0) 0 false := by
  rw [State.prodWrite, if_neg (State.prodWrite_counts hd hst), if_neg (Nat.not_lt.mpr hp), if_pos hv]

theorem State.prodWrite_good (hp : (s.queue q).prod ≤ v) (hv : v ≤ (s.queue q).cons + 2 ^ (s.queue q).logn) :
    s.prodWrite q v = (s.modQueue q (fun k => { k with prod := v })).post .recordRead { id := q } := by
  rw [State.prodWrite, if_neg (State.prodWrite_counts hd hst), if_neg (Nat.not_lt.mpr hp), if_neg (Nat.not_lt.mpr hv)]

end

theorem Queue.note_active {k : Queue} (h : k.st = .active) (e0 e1 : DWord) : k.note e0 e1 = { k with err0 := e0, err1 := e1 } := by rw [Queue.note, h]

theorem Queue.note_error {k : Queue} (h : k.st = .error) (e0 e1 : DWord) : k.note e0 e1 = k := by rw [Queue.note, h]

/-- A stopping reason leaves a queue in ERROR as it is (R95). -/
theorem State.stopQueue_error {s : State} {q : Nat} (h : (s.queue q).st = .error) (e0 e1 : DWord) (failed : Bool) : OnlyQueue s (s.stopQueue q e0 e1 failed) q (s.queue q) := by
  have only := s.onlyQueue_modQueue q fun k => k.note e0 e1
  rw [Queue.note_error h] at only
  rw [State.stopQueue, if_neg (by rw [h]; decide)]
  exact only

/-! #### Writes by address (R92) -/

/-- A write in the window of a queue that the function reaches is one of its register. -/
theorem State.registerWrite_queue {s : State} {q o : Nat} (hq : q = s.inp.id) (hbar : s.inp.bar = .bar0) (hl : s.fnLive s.inp.fn = true) (hreach : s.qReach s.inp.fn s.inp.id = true) (hq' : q < 256)
    (ho : o < 64) (ha : o % 8 = 0) (hofs : s.inp.ofs = 0x10000 + 64 * q + o) : exec .registerWrite s = .next (s.queueWrite q o s.inp.val) := by
  have word : s.inp.ofs / 8 * 8 = 0x10000 + 64 * q + o := by omega
  have window : (0x10000 + 64 * q + o - 0x10000) / 64 = q := by omega
  have reg : (0x10000 + 64 * q + o) % 64 = o := by omega
  rw [exec_registerWrite, execRegisterWrite, hbar]
  rw [if_pos hl, State.bar0Write, word]
  dsimp only
  rw [window, reg, if_neg (by simp; omega), if_neg (by simp; omega), if_pos (by simp; omega), hq, if_pos hreach]

theorem State.queueWrite_cfg {s : State} {q : Nat} (h : (s.queue q).st = .absent) (v : DWord) :
    s.queueWrite q 0 v = s.modQueue q (fun k => { k with cfg := v &&& 0xFFF01F1F#64 }) := by
  rw [State.queueWrite, if_pos rfl, if_pos h]

theorem State.queueWrite_cfg_ignored {s : State} {q : Nat} (h : (s.queue q).st ≠ .absent) (v : DWord) : s.queueWrite q 0 v = s := by
  rw [State.queueWrite, if_pos rfl, if_neg h]

theorem State.queueWrite_base (s : State) (q : Nat) (v : DWord) : s.queueWrite q 8 v = s.modQueue q (fun k => { k with base := v &&& 0xFFFFFFFFFFFFFF00#64 }) := rfl

theorem State.queueWrite_stat (s : State) (q : Nat) (v : DWord) :
    s.queueWrite q 0x20 v = s.modQueue q (fun k => { k with ncomp := k.ncomp && !v.getLsbD 26, nprod := k.nprod && !v.getLsbD 25, nreg := k.nreg && !v.getLsbD 24 }) := rfl

/-! #### The obligation -/

/-- Settles O43: each command, write of Q_PROD and write by address reaches the lemma about its function of the model; DESTROY folds over
the launches that leave (`State.queueDestroy_destroyed`). -/
theorem queueControl : Obligations.QueueControl := by
  intro s q hq hq' hr
  dsimp only
  refine ⟨fun h0 hst hf => ⟨_, execQueueFnWrite_takes hq hq' hr h0 hst hf, s.onlyQueue_modQueue ..⟩, fun h => execQueueFnWrite_ignores hq h, fun hl hf => ?_, fun hbar hl hf => ?_⟩
  · have reach := State.qReach_of hq hq' hr hl hf
    have create : exec .queueCreate s = .next (s.queueCreate q) := hq ▸ State.qCommand_of_reach reach fun q => s.queueCreate q
    have destroy : exec .queueDestroy s = .next (s.queueDestroy q s.inp.flag) := hq ▸ State.qCommand_of_reach reach fun q => s.queueDestroy q s.inp.flag
    have resume : exec .queueResume s = .next (s.queueResume q s.inp.flag) := hq ▸ State.qCommand_of_reach reach fun q => s.queueResume q s.inp.flag
    have prod : exec .qProdWrite s = .next (s.prodWrite q s.inp.val.toNat) := by rw [exec_qProdWrite, execQProdWrite, if_pos reach, hq]
    refine ⟨fun hst hok => ?_, fun h => ?_, fun ha he hc => ?_, fun hst hab hb hk => ?_, fun hst => ?_, fun hst => ?_, fun h => ?_, fun hd hst => ⟨fun hp hv => ?_, fun hv => ?_, fun hp hv he => ?_, fun hp hv ha hb => ?_⟩⟩
    · refine ⟨_, by rw [create, State.queueCreate_good hst hok], rfl, fun r hne => s.queue_modQueue_ne hne _, ?_⟩
      simp
    · exact ⟨_, by rw [create, State.queueCreate_bad h], s.onlyQueue_modQueue ..⟩
    · exact ⟨_, by rw [destroy, State.queueDestroy_bad ha he hc _], s.onlyQueue_modQueue ..⟩
    · rw [hab] at destroy
      have gone := State.queueDestroy_destroyed hst hb hk
      exact ⟨_, destroy, gone.st, gone.cerr, gone.head, gone.hist, gone.teams, gone.host, gone.mem, gone.launches⟩
    · obtain ⟨ps, queue, launches, told⟩ := State.queueResume_error hst s.inp.flag
      refine ⟨_, resume, ?_, ?_, ?_, ?_, ?_, ?_, launches, told⟩
      all_goals simp [queue, Queue.resumed]
    · exact ⟨_, by rw [resume, State.queueResume_bad hst _], s.onlyQueue_modQueue ..⟩
    · rw [prod, State.prodWrite_ignored h]
    · exact ⟨_, by rw [prod, State.prodWrite_good hd hst hp hv], by rw [State.queue_post, State.queue_modQueue], List.mem_append_right _ (.head _)⟩
    · refine ⟨_, by rw [prod, State.prodWrite_back hd hst hv], ?_⟩
      rw [State.queue_modQueue]
      rcases hst with h | h
      · simp [Queue.note_active h, h]
      · simp [Queue.note_error h, h]
    · exact ⟨_, by rw [prod, State.prodWrite_over hd hst hp hv], State.stopQueue_error he ..⟩
    · have stopped := State.stopQueue_stopped ha hb (err0Word 0x11 (s.queue q).cons 0 0) 0 false
      exact ⟨_, by rw [prod, State.prodWrite_over hd hst hp hv], stopped.prod, stopped.stops⟩
  · have write := fun o ho ha => State.registerWrite_queue (o := o) hq hbar hl (State.qReach_of hq hq' hr hl hf) hq' ho ha
    refine ⟨fun hofs hst => ?_, fun hofs hst => ?_, fun hofs => ?_, fun hofs => ?_⟩
    · exact ⟨_, by rw [write 0 (by decide) rfl hofs, State.queueWrite_cfg hst _], s.onlyQueue_modQueue ..⟩
    · exact by rw [write 0 (by decide) rfl hofs, State.queueWrite_cfg_ignored hst _]
    · exact ⟨_, by rw [write 8 (by decide) rfl hofs, State.queueWrite_base], s.onlyQueue_modQueue ..⟩
    · exact ⟨_, by rw [write 0x20 (by decide) rfl hofs, State.queueWrite_stat], s.onlyQueue_modQueue ..⟩

end Sys2Proof.Machine

/-! ### O48: what unpicking a basting launch leaves alone (R110) -/

namespace Sys2Proof.Machine
open Sys2Proof.Claims

/-- What scrubbing the stores at Z leaves alone: the host, the counts of basting launches, milestones, queues up to their waiting ENQs,
and every byte outside Z. -/
structure State.Scrubs (Z : Nat → Prop) (s t : State) : Prop where
  pkg : t.pkg = s.pkg
  host : t.host = s.host
  bst : t.bst = s.bst
  pub : ∀ c, (t.clus c).pub = (s.clus c).pub
  queue : ∀ r, t.queue r = { s.queue r with enqs := (t.queue r).enqs }
  wf : memWf s.mem = true → memWf t.mem = true
  bytes : memWf s.mem = true → ∀ pa key, ¬ Z pa → t.byteAt pa key = s.byteAt pa key

section
variable {Z : Nat → Prop}

theorem State.Scrubs.refl (s : State) : s.Scrubs Z s := ⟨rfl, rfl, rfl, fun _ => rfl, fun _ => rfl, id, fun _ _ _ _ => rfl⟩

theorem State.Scrubs.trans {s t u : State} (h : s.Scrubs Z t) (h' : t.Scrubs Z u) : s.Scrubs Z u := by
  refine ⟨h'.pkg.trans h.pkg, h'.host.trans h.host, h'.bst.trans h.bst, fun c => (h'.pub c).trans (h.pub c), fun r => ?_, fun hm => h'.wf (h.wf hm),
    fun hm pa key hz => (h'.bytes (h.wf hm) pa key hz).trans (h.bytes hm pa key hz)⟩
  have later := h'.queue r
  rw [h.queue r] at later
  exact later

theorem State.Scrubs.foldl {α : Type} {s : State} {f : State → α → State} {l : List α} (hf : ∀ u : State, u.pkg = s.pkg → ∀ x ∈ l, u.Scrubs Z (f u x)) : s.Scrubs Z (l.foldl f s) :=
  List.foldlRecOn l f (.refl s) fun u hu x hx => hu.trans (hf u hu.pkg x hx)

/-- Memory and queues are untouched, and the clusters' milestones. -/
theorem State.Scrubs.of_pub {s t : State} (h : t = { s with ctxs := t.ctxs, cores := t.cores, clusters := t.clusters, tiles := t.tiles, launches := t.launches, teams := t.teams, bastings := t.bastings, fabric := t.fabric, colls := t.colls, gens := t.gens, readSets := t.readSets, pulls := t.pulls, outReads := t.outReads, items := t.items, deferred := t.deferred, pending := t.pending })
    (hp : ∀ c, (t.clus c).pub = (s.clus c).pub) : s.Scrubs Z t := by
  refine ⟨by rw [h], by rw [h], by rw [h], hp, fun r => by rw [h]; rfl, fun hm => by rw [h]; exact hm, fun _ pa key _ => ?_⟩
  rw [h]
  rfl

theorem State.Scrubs.of_eq {s t : State} (h : t = { s with ctxs := t.ctxs, cores := t.cores, tiles := t.tiles, launches := t.launches, teams := t.teams, bastings := t.bastings, fabric := t.fabric, colls := t.colls, gens := t.gens, readSets := t.readSets, pulls := t.pulls, outReads := t.outReads, items := t.items, deferred := t.deferred, pending := t.pending }) :
    s.Scrubs Z t := by
  have hc : t.clusters = s.clusters := by rw [h]
  refine .of_pub (by rw [hc]; exact h) fun c => by rw [State.clus, State.clus, hc]

/-- A part of each cluster that a map over the clusters keeps. -/
theorem State.part_mapClusters {β : Type} (φ : Clus → β) {s t : State} {g : Nat × Clus → Clus} (hg : ∀ e, φ (g e) = φ e.2) (h : t.clusters = s.clusters.map (fun e => (e.1, g e))) (c : Nat) :
    φ (t.clus c) = φ (s.clus c) := by
  rw [State.clus, State.clus, h, Assoc.get_map Clus.reset c (fun e => (e.1, g e)) fun _ => rfl]
  split
  · exact hg _
  · next hc => rw [Assoc.get_of_not_has Clus.reset c (by simpa using hc)]

theorem State.modClus_scrubs (s : State) (c : Nat) {f : Clus → Clus} (hf : ∀ k, (f k).pub = k.pub) : s.Scrubs Z (s.modClus c f) := by
  refine .of_pub rfl fun d => ?_
  rw [State.clus_modClus_eq]
  split
  · next h => rw [h, hf]
  · rfl

theorem State.modCore_scrubs (s : State) (c n : Nat) (f : Core → Core) : s.Scrubs Z (s.modCore c n f) := .of_eq rfl
theorem State.setCtx_scrubs (s : State) (p : Pos) (x : Ctx) : s.Scrubs Z (s.setCtx p x) := .of_eq rfl
theorem State.post_scrubs (s : State) (i : Instr) (inp : Inp) : s.Scrubs Z (s.post i inp) := .of_eq rfl
theorem State.wakeAll_scrubs (s : State) (q : Pos → Wait → Bool) : s.Scrubs Z (s.wakeAll q) := .of_eq rfl
theorem State.dropWatch_scrubs (s : State) (op : Nat) : s.Scrubs Z (s.dropWatch op) := .of_pub rfl (State.part_mapClusters Clus.pub
  (g := fun e => { e.2 with watches := e.2.watches.filter (fun w => !(w.opkg = s.pkg && w.op = op)), polls := e.2.polls.filter (fun w => w.op ≠ op), asked := e.2.asked.filter (fun w => w.op ≠ op) }) (fun _ => rfl) rfl)
theorem State.bumpGen_scrubs (s : State) (pa : Nat) : s.Scrubs Z (s.bumpGen pa) := .of_eq rfl
theorem State.countSlot_scrubs (s : State) (c slot : Nat) : s.Scrubs Z (s.countSlot c slot) := s.modClus_scrubs c fun _ => rfl

theorem State.queueItem_scrubs (s : State) (d o c : Nat) (b : ItemBody) : s.Scrubs Z (s.queueItem d o c b) := by
  rw [State.queueItem]
  split
  · exact .of_eq rfl
  · exact .of_eq rfl

/-! #### Cancelling -/

theorem Clus.unpin_pub (k : Clus) (l : List (Nat × Space × Nat)) : (k.unpin l).pub = k.pub :=
  List.foldlRecOn l _ (motive := fun x : Clus => x.pub = k.pub) rfl fun _ hx _ _ => hx

theorem State.roomFreed_scrubs (s : State) (cs : List Nat) : s.Scrubs Z (s.roomFreed cs) := by
  rw [State.roomFreed]
  split
  · exact .refl s
  · refine ((s.wakeAll_scrubs _).trans (.foldl fun u _ c _ => ?_)).trans (.foldl fun u _ n _ => u.post_scrubs _ _)
    split
    · exact .refl u
    · exact u.post_scrubs _ _

theorem State.cancelOp_scrubs (s : State) (op : Nat) : s.Scrubs Z (s.cancelOp op) := by
  unfold State.cancelOp
  extract_lets pins s1 gone unwatched s2
  have unpinned : s.Scrubs Z s1 := .foldl fun u _ p _ => u.modClus_scrubs p.1 fun k => k.unpin_pub p.2
  have dropped : s1.Scrubs Z unwatched := (s1.dropWatch_scrubs op).trans (.foldl fun u _ w _ => u.dropWatch_scrubs w)
  have removed : unwatched.Scrubs Z s2 := .of_eq rfl
  have fabric : s2.Scrubs Z (s2.modFab fun f => { f with leases := Assoc.del op f.leases }) := .of_eq rfl
  exact (((unpinned.trans dropped).trans removed).trans fabric).trans (State.roomFreed_scrubs ..)

theorem State.queue_cancelWaits (s : State) (p : Pos) (r : Nat) : (s.cancelWaits p).queue r = (s.queue r).unawaited p := by
  have hq : (s.cancelWaits p).queues = s.queues.map (fun e => (e.1, e.2.unawaited p)) := rfl
  rw [State.queue, State.queue, hq, Assoc.get_map {} r (fun (e : Nat × Queue) => (e.1, e.2.unawaited p)) fun _ => rfl]
  split
  · rfl
  · next h =>
    rw [Assoc.get_of_not_has _ _ (by simpa using h)]
    rfl

theorem State.cancelWaits_scrubs (s : State) (p : Pos) : s.Scrubs Z (s.cancelWaits p) := by
  refine ⟨rfl, rfl, rfl, fun c => ?_, fun r => by rw [State.queue_cancelWaits]; rfl, id, fun _ _ _ _ => rfl⟩
  rw [State.cancelWaits, State.clus_modClus_eq]
  split
  · next h => rw [h]; rfl
  · rfl

theorem State.cancelTeam_scrubs (s : State) (c slot : Nat) (t : Team) : s.Scrubs Z (s.cancelTeam c slot t) := by
  rw [State.cancelTeam]
  refine State.Scrubs.trans (.foldl fun u _ e _ => ?_) (.foldl fun u _ p _ => (u.cancelWaits_scrubs p).trans (State.setCtx_scrubs ..))
  split
  · exact u.cancelOp_scrubs _
  · exact .refl u

/-! #### Scrubbing -/

theorem State.pumpMsgs_scrubs (s : State) (c : Nat) : s.Scrubs Z (s.pumpMsgs c) := by
  rw [State.pumpMsgs]
  split
  · exact .refl s
  · split
    · exact State.Scrubs.trans (s.modClus_scrubs c (by exact fun _ => rfl)) (State.modCore_scrubs ..)
    · exact .refl s

theorem State.answerMsg_scrubs (s : State) (it : MsgItem) (core : Nat) (a : MsgAns) : s.Scrubs Z (s.answerMsg it core a) := by
  rw [State.answerMsg]
  split
  · exact s.post_scrubs _ _
  · exact s.queueItem_scrubs ..

theorem State.mailFreed_scrubs (s : State) (c core : Nat) : s.Scrubs Z (s.mailFreed c core) := by
  unfold State.mailFreed
  extract_lets s0
  have pumped : s.Scrubs Z s0 := by
    unfold s0
    split
    · exact s.pumpMsgs_scrubs c
    · exact .refl s
  clear_value s0
  split
  · exact pumped
  · split
    · exact (pumped.trans (s0.modCore_scrubs ..)).trans (State.answerMsg_scrubs ..)
    · exact pumped

theorem State.clearCore_scrubs (s : State) (c n slot : Nat) (t : Team) : s.Scrubs Z (s.clearCore c n slot t) :=
  (s.modCore_scrubs ..).trans (.foldl fun u _ _ _ => u.mailFreed_scrubs c n)

/-- An address in the store of a core (R32). -/
def InCoreStore (pkg : Nat) (e : Nat × Nat) (pa : Nat) : Prop := corePa pkg e.1 e.2 0 ≤ pa ∧ pa < corePa pkg e.1 e.2 0 + 0x8000

/-- A store consists of whole blocks. -/
theorem inCoreStore_block {pkg : Nat} {e : Nat × Nat} {a b : Nat} (h : a / 16 = b / 16) : InCoreStore pkg e a ↔ InCoreStore pkg e b := by
  rw [InCoreStore, InCoreStore, corePa, mkPa]
  omega

theorem State.zeroCore_scrubs {s : State} {c n : Nat} (hZ : ∀ pa, InCoreStore s.pkg (c, n) pa → Z pa) : s.Scrubs Z (s.zeroCore c n) := by
  unfold State.zeroCore
  extract_lets a s1
  have store : ∀ x, InCoreStore s.pkg (c, n) x ↔ a ≤ x ∧ x < a + 0x8000 := fun _ => Iff.rfl
  clear_value a
  have mem : s1.mem = s.mem.filter (fun e => !(a ≤ e.1 && e.1 < a + 0x8000)) := rfl
  have zeroed : s.Scrubs Z s1 := by
    refine ⟨rfl, rfl, rfl, fun _ => rfl, fun _ => rfl, fun hm => ?_, fun hm pa key hz => State.byteAt_of_block (s := s) (t := s1) (a := pa) (fun b hb => ?_) rfl rfl rfl rfl key⟩
    · rw [mem]
      exact memWf_filter hm _
    · have outside : ¬ (a ≤ b ∧ b < a + 0x8000) := fun h => hz (hZ pa ((inCoreStore_block hb).mp ((store b).mpr h)))
      have kept : (!(a ≤ b && b < a + 0x8000)) = true := by
        rw [Bool.not_eq_true', ← Bool.not_eq_true]
        simpa using outside
      rw [mem, memGet_filter hm (fun x => !(a ≤ x && x < a + 0x8000)), if_pos kept]
  clear_value s1
  have aged : s1.Scrubs Z ((List.range 8).foldl (fun u k => u.bumpGen (a + 4096 * k)) s1) := .foldl fun u _ k _ => u.bumpGen_scrubs (a + 4096 * k)
  refine (zeroed.trans aged).trans (State.modClus_scrubs _ c ?_)
  intro k
  rfl

theorem State.leaveCore_scrubs {s : State} {c n : Nat} (hZ : ∀ pa, InCoreStore s.pkg (c, n) pa → Z pa) (slot : Nat) (zero : Bool) : s.Scrubs Z (s.leaveCore c n slot zero) := by
  rw [State.leaveCore]
  split
  · exact s.modCore_scrubs ..
  · refine State.Scrubs.trans ?_ (State.modCore_scrubs ..)
    split
    · exact State.zeroCore_scrubs hZ
    · exact .refl s

theorem mem_teamCores {l : List (Nat × Nat)} {n : Nat} (h : n ∈ teamCores l) : ∃ p ∈ l, p.1 = n := by
  obtain ⟨p, hp, hn⟩ := List.any_eq_true.mp (List.mem_filter.mp h).2
  exact ⟨p, hp, of_decide_eq_true hn⟩

theorem State.vacate_scrubs {s : State} {c : Nat} {t : Team} (hZ : ∀ p ∈ t.pos, ∀ pa, InCoreStore s.pkg (c, p.1) pa → Z pa) (slot : Nat) (zero : Bool) : s.Scrubs Z (s.vacate c slot t zero) := by
  unfold State.vacate
  extract_lets s1 s2 s3 gone s4
  have cleared : s.Scrubs Z s1 := .foldl fun u _ n _ => u.clearCore_scrubs c n slot t
  have reset : s1.Scrubs Z s2 := .foldl fun u _ p _ => u.setCtx_scrubs p _
  have left : s2.Scrubs Z s3 := .foldl fun u hu n hn => by
    obtain ⟨p, hp, rfl⟩ := mem_teamCores hn
    exact State.leaveCore_scrubs (by rw [hu, reset.pkg, cleared.pkg]; exact hZ p hp) slot zero
  have told : s3.Scrubs Z s4 := by
    unfold s4
    split
    · exact State.Scrubs.trans (.foldl fun v _ e _ => v.post_scrubs _ _) (State.roomFreed_scrubs ..)
    · exact .refl s3
  clear_value s4
  exact (((cleared.trans reset).trans left).trans told).trans (.of_eq rfl)

theorem State.freeBank_scrubs (s : State) (c : Nat) (l : Nat × Nat) : s.Scrubs Z (s.freeBank c l) := by
  rw [State.freeBank]
  split
  · exact .refl s
  · exact s.modClus_scrubs c fun _ => rfl

theorem State.unpickTeam_scrubs {s : State} {c slot : Nat} (hZ : ∀ t, s.team? c slot = some t → ∀ p ∈ t.pos, ∀ pa, InCoreStore s.pkg (c, p.1) pa → Z pa) : s.Scrubs Z (s.unpickTeam c slot) := by
  unfold State.unpickTeam
  split
  · exact .refl s
  · next t ht =>
    extract_lets s1 s2
    have cancelled : s.Scrubs Z s1 := s.cancelTeam_scrubs c slot t
    have unbuffered : s1.Scrubs Z s2 := .foldl fun u _ n _ => u.modCore_scrubs c n _
    have vacated : s2.Scrubs Z (s2.vacate c slot t true) := State.vacate_scrubs (by rw [unbuffered.pkg, cancelled.pkg]; exact hZ t ht) slot true
    exact ((cancelled.trans unbuffered).trans vacated).trans ((State.countSlot_scrubs ..).trans (State.freeBank_scrubs ..))

theorem State.endWalk_scrubs (s : State) (c id : Nat) : s.Scrubs Z (s.endWalk c id) := by
  unfold State.endWalk
  extract_lets s1 s2
  have gone : s.Scrubs Z s1 := s.modClus_scrubs c fun _ => rfl
  have read : s1.Scrubs Z s2 := by
    unfold s2
    repeat' split
    · exact s1.post_scrubs _ _
    · exact .refl s1
    · exact .refl s1
  refine (gone.trans read).trans ?_
  split
  · exact .refl s2
  · exact s2.post_scrubs ..

theorem State.dropXlate_scrubs (s : State) (q : Nat) : s.Scrubs Z (s.dropXlate q) := by
  unfold State.dropXlate
  extract_lets mine s1
  have ended : s.Scrubs Z s1 := .foldl fun u _ w _ => u.endWalk_scrubs w.1 w.2
  exact ended.trans (.of_pub rfl (State.part_mapClusters Clus.pub (g := fun e => { e.2 with tlb := e.2.tlb.filter (fun t => t.bast ≠ some q) }) (fun _ => rfl) rfl))

end

/-! #### The teams of a launch that is unpicked -/

theorem State.unpickTeam_teams (s : State) (c slot : Nat) : (s.unpickTeam c slot).teams = s.teams.filter (fun e => e.1 ≠ (c, slot)) := by
  unfold State.unpickTeam
  split
  · next h =>
    rw [State.team?, Option.map_eq_none_iff, List.find?_eq_none] at h
    exact (List.filter_eq_self.mpr fun e he => by simpa using h e he).symm
  · next t ht =>
    extract_lets s1 s2
    have cancelled : s.TeamsKept s1 := s.cancelTeam_kept c slot t
    have unbuffered : s1.TeamsKept s2 := .foldl (fun u n => u.modCore_kept c n _) _ s1
    have vacated := s2.vacate_kept c slot t true
    have freed := ((s2.vacate c slot t true).countSlot_kept c slot).trans (State.freeBank_kept _ c t.launch)
    rw [freed.teams, vacated.teams, State.withoutTeam, unbuffered.teams, cancelled.teams]

/-- The teams listed are unpicked one after another. -/
def State.unpickTeams (s : State) (l : List ((Nat × Nat) × Team)) : State := l.foldl (fun u e => u.unpickTeam e.1.1 e.1.2) s

theorem State.mem_unpickTeams (l : List ((Nat × Nat) × Team)) (s : State) (e : (Nat × Nat) × Team) : e ∈ (s.unpickTeams l).teams ↔ e ∈ s.teams ∧ ∀ x ∈ l, e.1 ≠ x.1 := by
  induction l generalizing s with
  | nil => simp [State.unpickTeams]
  | cons x l ih =>
    rw [State.unpickTeams, List.foldl_cons, ← State.unpickTeams, ih, State.unpickTeam_teams, List.mem_filter, List.forall_mem_cons, decide_eq_true_eq, and_assoc]

theorem State.mem_of_team? {s : State} {c slot : Nat} {t : Team} (h : s.team? c slot = some t) : ((c, slot), t) ∈ s.teams := by
  obtain ⟨e, he, rfl⟩ := Option.map_eq_some_iff.mp h
  have key : e.1 = (c, slot) := of_decide_eq_true (List.find?_some (p := fun e : (Nat × Nat) × Team => decide (e.1 = (c, slot))) he)
  rw [← key]
  exact List.mem_of_find?_eq_some he

theorem State.unpickTeams_scrubs {Z : Nat → Prop} {s : State} (hZ : ∀ x ∈ s.teams, ∀ p ∈ x.2.pos, ∀ pa, InCoreStore s.pkg (x.1.1, p.1) pa → Z pa) (l : List ((Nat × Nat) × Team)) :
    s.Scrubs Z (s.unpickTeams l) := by
  induction l generalizing s with
  | nil => exact .refl s
  | cons x l ih =>
    have first : s.Scrubs Z (s.unpickTeam x.1.1 x.1.2) := State.unpickTeam_scrubs fun t ht => hZ _ (State.mem_of_team? ht)
    refine first.trans (ih fun y hy => ?_)
    rw [first.pkg]
    rw [State.unpickTeam_teams] at hy
    exact hZ y (List.mem_of_mem_filter hy)

/-! #### The four steps of R110 -/

theorem State.foldl_modClus_shadow {f : Clus → Clus} (hf : ∀ k, (f k).shadow = []) {l : List Nat} {s : State} {c : Nat} (h : c ∈ l ∨ (s.clus c).shadow = []) :
    ((l.foldl (fun u d => u.modClus d f) s).clus c).shadow = [] := by
  induction l generalizing s with
  | nil => exact h.resolve_left List.not_mem_nil
  | cons d l ih =>
    refine ih ?_
    rw [State.clus_modClus_eq]
    split
    · exact .inr (hf _)
    · next hne => exact h.imp_left fun hc => (List.mem_cons.mp hc).resolve_left hne

theorem Assoc.has_del_self {κ α : Type} [DecidableEq κ] (k : κ) (m : Assoc κ α) : Assoc.has k (Assoc.del k m) = false := by
  rw [Bool.eq_false_iff]
  intro h
  obtain ⟨e, he, hk⟩ := List.mem_map.mp ((Assoc.has_iff k _).mp h)
  exact of_decide_eq_true (List.mem_filter.mp he).2 hk

/-- The stores that an unpicking may zero: of the launch's cores, and of the cores of its teams. -/
def State.UnpickStore (s : State) (b : Basting) (pa : Nat) : Prop :=
  (∃ e ∈ b.cores, InCoreStore s.pkg e pa) ∨ ∃ x ∈ s.teams, ∃ p ∈ x.2.pos, InCoreStore s.pkg (x.1.1, p.1) pa

theorem State.unpick_unpicked (s : State) (q : Nat) (b : Basting) : Unpicked s (s.unpick q b) q b := by
  have gone : (s.unpick q b).basting? q = none := by rw [State.basting?_unpick, if_pos rfl]
  revert gone
  unfold State.unpick
  extract_lets k live s1 s2 s3 s4
  intro gone
  have teamsGone : s.Scrubs (s.UnpickStore b) (s.unpickTeams live) := State.unpickTeams_scrubs (fun x hx p hp pa h => .inr ⟨x, hx, p, hp, h⟩) live
  have forgotten : (s.unpickTeams live).Scrubs (s.UnpickStore b) s1 := State.dropXlate_scrubs _ q
  have zeroed : s1.Scrubs (s.UnpickStore b) s2 := .foldl fun u hu e he => State.zeroCore_scrubs fun pa h => .inl ⟨e, he, by rwa [hu, forgotten.pkg, teamsGone.pkg] at h⟩
  have unshadowed : s2.Scrubs (s.UnpickStore b) s3 := .foldl fun u _ c _ => u.modClus_scrubs c fun _ => rfl
  have scrubs := ((teamsGone.trans forgotten).trans zeroed).trans unshadowed
  have teams : s3.teams = (s.unpickTeams live).teams := by
    have zeroedTeams : s1.TeamsKept s2 := List.foldlRecOn b.cores _ (.refl s1) fun u hu e _ => hu.trans (u.zeroCore_kept e.1 e.2)
    have unshadowedTeams : s2.TeamsKept s3 := .foldl (fun u c => u.modClus_kept c _) _ s2
    exact (unshadowedTeams.teams.trans zeroedTeams.teams).trans (State.dropXlate_kept _ q).teams
  refine ⟨gone, fun e he hk => ?_, fun c hc => State.foldl_modClus_shadow (fun _ => rfl) (.inl hc), fun e he => of_decide_eq_true (List.mem_filter.mp he).2, Assoc.has_del_self .., ?_, scrubs.pub, scrubs.host,
    scrubs.queue, fun hm pa key hcores hteams => scrubs.bytes hm pa key ?_⟩
  · obtain ⟨hmem, hkeys⟩ := (State.mem_unpickTeams live s e).mp (teams ▸ he)
    exact hkeys e (List.mem_filter.mpr ⟨hmem, by simpa using hk⟩) rfl
  · rw [← scrubs.bst]
    rfl
  · rintro (⟨e, he, h⟩ | ⟨x, hx, p, hp, h⟩)
    · exact hcores e he h
    · exact hteams x hx p hp h

theorem State.unpickQ_of_some {s : State} {q : Nat} {b : Basting} (h : s.basting? q = some b) (hc : b.st ≠ .committing) : s.unpickQ q = s.unpick q b := by
  rw [State.unpickQ, h]
  exact if_neg hc

theorem State.unpickQ_committing {s : State} {q : Nat} {b : Basting} (h : s.basting? q = some b) (hc : b.st = .committing) : s.unpickQ q = s := by
  rw [State.unpickQ, h]
  exact if_pos hc

theorem State.unpickQ_unpicked {s : State} {q : Nat} {b : Basting} (h : s.basting? q = some b) (hc : b.st ≠ .committing) : Unpicked s (s.unpickQ q) q b := by
  rw [State.unpickQ_of_some h hc]
  exact s.unpick_unpicked q b

end Sys2Proof.Machine

/-! ### O48: BST_CTL, LIFE and GEN_REQ (R104, R108, R112) -/

namespace Sys2Proof.Machine
open Sys2Proof.Claims

theorem State.basting?_unpickQ_ne (s : State) {p q : Nat} (h : p ≠ q) : (s.unpickQ q).basting? p = s.basting? p := by
  rw [State.unpickQ]
  split
  · rfl
  · split
    · rfl
    · rw [State.basting?_unpick, if_neg h]

theorem State.unpickQ_ctl (s : State) (q : Nat) : (s.unpickQ q).bst.ctl = s.bst.ctl := by
  rw [State.unpickQ]
  split
  · rfl
  · next b _ =>
    split
    · rfl
    · rw [(s.unpick_unpicked q b).count]

theorem State.basting?_of_mem {s : State} (h : (s.bastings.map (·.1)).Nodup) {q : Nat} {b : Basting} (hb : (q, b) ∈ s.bastings) : s.basting? q = some b := by
  rw [State.basting?, Option.map_eq_some_iff]
  obtain ⟨e, he⟩ := Option.isSome_iff_exists.mp (List.find?_isSome (p := fun e : Nat × Basting => decide (e.1 = q)).mpr ⟨_, hb, decide_eq_true rfl⟩)
  refine ⟨e, he, ?_⟩
  have key : e.1 = q := of_decide_eq_true (List.find?_some (p := fun e : Nat × Basting => decide (e.1 = q)) he)
  rw [List.inj_on_of_nodup_map h (List.mem_of_find?_eq_some he) hb key]

/-- Of the launches listed those that meet a test are unpicked. -/
def State.unpickWhere (s : State) (P : Nat × Basting → Bool) (l : List (Nat × Basting)) : State := l.foldl (fun u e => if P e then u.unpickQ e.1 else u) s

theorem State.unpickWhere_ctl (s : State) (P : Nat × Basting → Bool) (l : List (Nat × Basting)) : (s.unpickWhere P l).bst.ctl = s.bst.ctl :=
  List.foldlRecOn l _ (motive := fun u : State => u.bst.ctl = s.bst.ctl) rfl fun u hu e _ => by
    split
    · rw [u.unpickQ_ctl, hu]
    · exact hu

theorem State.unpickWhere_unpicks (s : State) (P : Nat × Basting → Bool) (l : List (Nat × Basting)) : s.Unpicks (s.unpickWhere P l) :=
  List.foldlRecOn l _ (.refl s) fun u hu e _ => hu.trans (by split; exacts [u.unpickQ_unpicks e.1, .refl u])

theorem State.unpickWhere_gone {P : Nat × Basting → Bool} {e : Nat × Basting} (hP : P e = true) {l : List (Nat × Basting)} (he : e ∈ l) {s : State}
    (h : ∀ b, s.basting? e.1 = some b → b.st ≠ .committing) : (s.unpickWhere P l).basting? e.1 = none := by
  induction l generalizing s with
  | nil => cases he
  | cons x l ih =>
    rw [State.unpickWhere, List.foldl_cons, ← State.unpickWhere]
    rcases List.mem_cons.mp he with rfl | hl
    · rw [if_pos hP]
      exact ((s.unpickQ e.1).unpickWhere_unpicks P l |>.basting e.1).elim id fun same => same.trans (State.basting?_unpickQ h)
    · refine ih hl fun b hb => ?_
      have step : s.Unpicks (if P x then s.unpickQ x.1 else s) := by split; exacts [s.unpickQ_unpicks x.1, .refl s]
      rcases step.basting e.1 with none | same
      · rw [none] at hb
        cases hb
      · exact h b (same ▸ hb)

theorem State.unpickWhere_kept {P : Nat × Basting → Bool} {q : Nat} {b : Basting} {l : List (Nat × Basting)} {s : State} (hs : s.basting? q = some b)
    (h : ∀ e ∈ l, e.1 = q → P e = true → b.st = .committing) : (s.unpickWhere P l).basting? q = some b := by
  refine List.foldlRecOn l _ (motive := fun u : State => u.basting? q = some b) hs fun u hu e he => ?_
  split
  · next hP =>
    by_cases hq : e.1 = q
    · rw [hq, State.unpickQ_committing hu (h e he hq hP), hu]
    · rw [State.basting?_unpickQ_ne u (Ne.symm hq), hu]
  · exact hu

/-! #### BST_CTL -/

theorem bstCtl_maxb (v : DWord) : (v &&& 0xFF07#64).extractLsb' 0 3 = v.extractLsb' 0 3 := by
  ext i hi
  interval_cases i <;> simp

theorem bstCtl_life (v : DWord) : (v &&& 0xFF07#64).extractLsb' 8 8 = v.extractLsb' 8 8 := by
  ext i hi
  interval_cases i <;> simp

/-- What BST_CTL = v no longer allows: a launch beyond MAXB, or one past LIFE. -/
def State.bstOut (s : State) (v : DWord) (b : Basting) : Prop :=
  let life := (v.extractLsb' 8 8).toNat * 2 ^ 16
  min 4 (v.extractLsb' 0 3).toNat ≤ (s.bastings.filter (fun x => x.2.order < b.order)).length ∨ life = 0 ∨ life < s.since b.start

/-- BST_CTL holds v. -/
def State.bstSet (s : State) (v : DWord) : State := { s with bst := { s.bst with ctl := v &&& 0xFF07#64 } }

theorem State.bstCtlWrite_eq (s : State) (v : DWord) : ∃ P, s.bstCtlWrite v = (s.bstSet v).unpickWhere P s.bastings ∧ ∀ e, P e = true ↔ s.bstOut v e.2 := by
  refine ⟨_, rfl, fun e => ?_⟩
  simp only [Bool.or_eq_true, decide_eq_true_eq, or_assoc, Bst.maxb, Bst.life, bstCtl_maxb, bstCtl_life]
  rfl

/-- BST_CTL unpicks what it no longer allows, and keeps every other launch (R104, R112). -/
theorem bstCtlWrite_clause (s : State) : (s.inp.fn ≠ 0 → exec .bstCtlWrite s = .next s) ∧
    (s.inp.fn = 0 → (s.bastings.map (·.1)).Nodup → ∃ t, exec .bstCtlWrite s = .next t ∧ t.bst.ctl = s.inp.val &&& 0xFF07#64 ∧ (s.bastings = [] → t = s.bstSet s.inp.val) ∧
      ∀ q b, (q, b) ∈ s.bastings → (s.bstOut s.inp.val b → b.st ≠ .committing → t.basting? q = none) ∧ (¬ s.bstOut s.inp.val b ∨ b.st = .committing → t.basting? q = some b)) := by
  rw [exec_bstCtlWrite, execBstCtlWrite]
  refine ⟨fun h => by rw [if_neg h], fun h hnd => ⟨_, by rw [if_pos h], ?_⟩⟩
  obtain ⟨P, eq, hP⟩ := s.bstCtlWrite_eq s.inp.val
  rw [eq]
  refine ⟨State.unpickWhere_ctl .., fun hb => by rw [hb]; rfl, fun q b hb => ?_⟩
  have here : (s.bstSet s.inp.val).basting? q = some b := State.basting?_of_mem (s := s.bstSet s.inp.val) hnd hb
  refine ⟨fun hout hc => ?_, fun hkeep => ?_⟩
  · refine State.unpickWhere_gone (e := (q, b)) ((hP (q, b)).mpr hout) hb fun b' hb' => ?_
    rw [here] at hb'
    cases hb'
    exact hc
  · refine State.unpickWhere_kept here fun e he hq hPe => ?_
    have same : e = (q, b) := List.inj_on_of_nodup_map hnd he hb hq
    rw [same] at hPe
    exact hkeep.resolve_left fun hno => hno ((hP _).mp hPe)

/-! #### One basting launch -/

theorem State.basting?_of_single {s : State} {q : Nat} {b : Basting} (h : s.bastings = [(q, b)]) : s.basting? q = some b := by
  rw [State.basting?, h]
  simp

theorem State.basting?_setBasting (s : State) (q : Nat) (b : Basting) : (s.setBasting q b).basting? q = some b := by
  have put : ∀ m : Assoc Nat Basting, ((Assoc.put q b m).find? (fun e => decide (e.1 = q))).map (·.2) = some b := by
    intro m
    induction m with
    | nil => simp [Assoc.put]
    | cons e m ih =>
      obtain ⟨j, x⟩ := e
      rw [Assoc.put]
      by_cases hj : j = q
      · simp [hj]
      · simp [hj, ih]
  exact put s.bastings

theorem basteUnpick_committing {s : State} {b : Basting} (h : s.bastings = [(s.inp.id, b)]) (hc : b.st = .committing) : exec .basteUnpick s = .next s := by
  rw [exec_basteUnpick, execBasteUnpick, State.unpickQ_committing (State.basting?_of_single h) hc]

theorem basteUnpick_unpicked {s : State} {b : Basting} (h : s.bastings = [(s.inp.id, b)]) (hc : b.st ≠ .committing) : ∃ t, exec .basteUnpick s = .next t ∧ Unpicked s t s.inp.id b :=
  ⟨_, exec_basteUnpick s, State.unpickQ_unpicked (State.basting?_of_single h) hc⟩

theorem basteLifeExpiry_unpicked {s : State} {b : Basting} (h : s.bastings = [(s.inp.id, b)]) (hl : s.bst.life ≤ s.since b.start) (hc : b.st ≠ .committing) :
    ∃ t, exec .basteLifeExpiry s = .next t ∧ Unpicked s t s.inp.id b := by
  rw [exec_basteLifeExpiry, execBasteLifeExpiry, State.basting?_of_single h]
  exact ⟨_, if_pos hl, State.unpickQ_unpicked (State.basting?_of_single h) hc⟩

theorem basteLifeExpiry_ignored {s : State} {b : Basting} (h : s.bastings = [(s.inp.id, b)]) (hl : s.since b.start < s.bst.life ∨ b.st = .committing) : exec .basteLifeExpiry s = .next s := by
  rw [exec_basteLifeExpiry, execBasteLifeExpiry, State.basting?_of_single h]
  dsimp only
  split
  · next hlife => rw [State.unpickQ_committing (State.basting?_of_single h) (hl.resolve_left (Nat.not_lt.mpr hlife))]
  · rfl

/-! #### GEN_REQ and GEN_REPLY (R108) -/

theorem genReq_clause (s : State) : ∃ t, exec .genReq s = .next t ∧ t = { s with items := t.items, fabric := { s.fabric with flowTx := t.fabric.flowTx } } ∧
    ∃ n, t.items = s.items ++ [⟨s.pkg, s.inp.id, s.inp.core, s.inp.clus, n, .genReply s.inp.n (s.inp.nats.map (fun p => (p, Assoc.get 0 p s.gens)))⟩] := by
  refine ⟨_, exec_genReq s, ?_, State.queueItem_items ..⟩
  rw [State.queueItem]
  split <;> rfl

end Sys2Proof.Machine

/-! ### O48: claiming a basting launch (R108, R109) -/

namespace Sys2Proof.Machine
open Sys2Proof.Claims

/-! #### Contexts that change alike -/

theorem State.foldl_modCtx_rest (f : Ctx → Ctx) (l : List Pos) (s : State) : l.foldl (fun u p => u.modCtx p f) s = { s with ctxs := (l.foldl (fun u p => u.modCtx p f) s).ctxs } :=
  List.foldlRecOn l _ (motive := fun u : State => u = { s with ctxs := u.ctxs }) rfl fun u hu p _ => by
    rw [hu]
    rfl

theorem State.ctx_foldl_modCtx {f : Ctx → Ctx} (hf : ∀ x, f (f x) = f x) (l : List Pos) (s : State) (p : Pos) :
    (l.foldl (fun u p => u.modCtx p f) s).ctx p = if p ∈ l then f (s.ctx p) else s.ctx p := by
  induction l generalizing s with
  | nil => rfl
  | cons q l ih =>
    rw [List.foldl_cons, ih]
    by_cases hq : q = p
    · subst hq
      rw [State.ctx_modCtx, hf, if_pos List.mem_cons_self, ite_self]
    · rw [State.ctx_modCtx_ne _ hq]
      simp [Ne.symm hq]

theorem Assoc.mem_of_has {κ α : Type} [DecidableEq κ] (d : α) {k : κ} : ∀ {m : Assoc κ α}, Assoc.has k m = true → (k, Assoc.get d k m) ∈ m
  | [], h => by cases h
  | (j, v) :: m, h => by
    by_cases hj : j = k
    · simp [Assoc.get, hj]
    · have later : Assoc.has k m = true := by simpa [Assoc.has, hj] using h
      simpa [Assoc.get, hj] using .inr (Assoc.mem_of_has d later)

theorem State.mem_bastCtxs {s : State} {q : Nat} {p : Pos} (hb : (s.ctx p).bast = some q) (hp : Assoc.has p s.ctxs = true) : p ∈ s.bastCtxs q :=
  List.mem_map.mpr ⟨_, List.mem_filter.mpr ⟨Assoc.mem_of_has Ctx.reset hp, decide_eq_true hb⟩, rfl⟩

/-! #### BASTE_ADOPT -/

/-- The context is to stop at a boundary. -/
def Ctx.stopped (c : Ctx) : Ctx := { c with stop := true }

/-- The contexts of a basting launch are to stop at a boundary. -/
def State.haltBast (s : State) (q : Nat) : State := (s.bastCtxs q).foldl (fun u p => u.modCtx p Ctx.stopped) s

theorem State.haltBast_rest (s : State) (q : Nat) : s.haltBast q = { s with ctxs := (s.haltBast q).ctxs } := State.foldl_modCtx_rest _ _ s

theorem State.ctx_haltBast (s : State) (q : Nat) (p : Pos) : (s.haltBast q).ctx p = if p ∈ s.bastCtxs q then (s.ctx p).stopped else s.ctx p :=
  State.ctx_foldl_modCtx (f := Ctx.stopped) (fun _ => rfl) _ s p

/-- The pages of other packages in a read set. -/
def foreignPages (pkg : Nat) (l : List (Nat × Nat × Nat)) : List Nat := (l.filter (fun e => paPkg (4096 * e.2.1) ≠ pkg)).map (·.2.1)

theorem mem_firstUse {a : Nat} {l : List Nat} (h : a ∈ l) : a ∈ firstUse l := by
  have kept : ∀ (l acc : List Nat), a ∈ acc ∨ a ∈ l → a ∈ l.foldl (fun acc a => if acc.contains a then acc else acc ++ [a]) acc := by
    intro l
    induction l with
    | nil => exact fun acc h => h.resolve_right List.not_mem_nil
    | cons b l ih =>
      intro acc h
      refine ih _ ?_
      rw [List.mem_cons] at h
      dsimp only
      by_cases hb : acc.contains b = true
      · rw [if_pos hb]
        rcases h with h | rfl | h
        · exact .inl h
        · exact .inl (List.contains_iff_mem.mp hb)
        · exact .inr h
      · rw [if_neg hb, List.mem_append, List.mem_singleton]
        exact or_assoc.mpr h
  exact kept l [] (.inr h)

/-- The generations of the pages listed are asked for, package by package. -/
def State.askGens (s : State) (q : Nat) (pages : List Nat) (l : List Nat) : State := l.foldl (fun u x => u.queueItem x 0 0 (.genReq q (pages.filter (fun g => paPkg (4096 * g) = x)))) s

theorem State.askGens_rest (s : State) (q : Nat) (pages l : List Nat) : s.askGens q pages l = { s with items := (s.askGens q pages l).items, fabric := (s.askGens q pages l).fabric } :=
  List.foldlRecOn l _ (motive := fun u : State => u = { s with items := u.items, fabric := u.fabric }) rfl fun u hu x _ => by
    rw [hu]
    rfl

theorem State.askGens_asked {q : Nat} {pages l : List Nat} {x : Nat} (hx : x ∈ l) (s : State) :
    ∃ n, (⟨s.pkg, x, 0, 0, n, .genReq q (pages.filter (fun g => paPkg (4096 * g) = x))⟩ : Item) ∈ (s.askGens q pages l).items := by
  induction l generalizing s with
  | nil => cases hx
  | cons y l ih =>
    rw [State.askGens, List.foldl_cons, ← State.askGens]
    obtain ⟨n, items⟩ := s.queueItem_items y 0 0 (.genReq q (pages.filter (fun g => paPkg (4096 * g) = y)))
    have pkg : (s.queueItem y 0 0 (.genReq q (pages.filter (fun g => paPkg (4096 * g) = y)))).pkg = s.pkg := by
      rw [State.queueItem]
      split <;> rfl
    generalize s.queueItem y 0 0 (.genReq q (pages.filter (fun g => paPkg (4096 * g) = y))) = u at items pkg
    have later : ∀ e ∈ u.items, e ∈ (u.askGens q pages l).items := fun e he =>
      List.foldlRecOn l _ (motive := fun v : State => e ∈ v.items) he fun v hv z _ => by
        obtain ⟨_, added⟩ := v.queueItem_items z 0 0 (.genReq q (pages.filter (fun g => paPkg (4096 * g) = z)))
        rw [added]
        exact List.mem_append_left _ hv
    rcases List.mem_cons.mp hx with rfl | hl
    · exact ⟨n, later _ (by rw [items]; exact List.mem_append_right _ (.head _))⟩
    · rw [← pkg]
      exact ih hl u

/-- The state in which the launch's pages are compared. -/
def State.adopting (s : State) (q : Nat) (b : Basting) (pages : List Nat) : State := (s.haltBast q).setBasting q { b with st := .revalidating, awaiting := pages }

theorem execBasteAdopt_ignored {s : State} {b : Basting} (h : s.bastings = [(s.inp.id, b)]) (hb : b.st ≠ .running ∨ b.matched = false) : exec .basteAdopt s = .next s := by
  rw [exec_basteAdopt, execBasteAdopt, State.basting?_of_single h]
  dsimp only
  split
  · rfl
  · rw [if_pos (by rcases hb with hb | hb <;> simp [hb])]

theorem Launch.ready_of {l : Launch} (h : ∀ i, i < recNdep l.rcd → Assoc.has i l.dep = true) : l.ready = true :=
  List.all_eq_true.mpr fun i hi => h i (List.mem_range.mp hi)

theorem execBasteAdopt_adopts {s : State} {q : Nat} {b : Basting} {l : Launch} (hq : q = s.inp.id) (h : s.bastings = [(q, b)]) (hst : b.st = .running) (hm : b.matched = true)
    (hl : s.launches = [(launchKey q b.seq, l)]) (hr : l.ready = true) {pages : List Nat} (hp : pages = foreignPages s.pkg (Assoc.get [] q s.readSets)) :
    exec .basteAdopt s = .next (
      let s2 := s.adopting q b pages
      let s3 := s2.askGens q pages (firstUse (pages.map (fun g => paPkg (4096 * g))))
      if pages.any (fun g => s.dead.getLsbD (paPkg (4096 * g))) then s2.unpickQ q else if pages = [] then s3.post .basteRevalidated { id := q } else s3) := by
  have found : (s.launches.find? (fun e => e.1 = launchKey q b.seq)).map (·.2) = some l := by simp [hl]
  have sets : (s.haltBast q).readSets = s.readSets := by rw [s.haltBast_rest q]
  rw [exec_basteAdopt, execBasteAdopt, ← hq, State.basting?_of_single h]
  dsimp only
  rw [found]
  dsimp only
  have halted : (s.bastCtxs q).foldl (fun u p => u.modCtx p (fun c => { c with stop := true })) s = s.haltBast q := rfl
  rw [halted, if_neg (by simp [hst, hm, hr]), sets, ← foreignPages, ← hp, ← State.adopting, ← State.askGens]
  split <;> rfl

theorem basteAdopt_dead {s : State} {q : Nat} {b : Basting} {l : Launch} (hq : q = s.inp.id) (h : s.bastings = [(q, b)]) (hst : b.st = .running) (hm : b.matched = true)
    (hl : s.launches = [(launchKey q b.seq, l)]) (hr : l.ready = true) (hd : ∃ g ∈ foreignPages s.pkg (Assoc.get [] q s.readSets), s.dead.getLsbD (paPkg (4096 * g)) = true) :
    ∃ t, exec .basteAdopt s = .next t ∧ t.basting? q = none := by
  refine ⟨_, execBasteAdopt_adopts hq h hst hm hl hr rfl, ?_⟩
  dsimp only
  rw [if_pos (List.any_eq_true.mpr hd)]
  refine State.basting?_unpickQ fun b' hb' => ?_
  rw [State.adopting, State.basting?_setBasting] at hb'
  cases hb'
  exact fun h => by cases h

/-- BASTE_ADOPT with live owners: every context is to stop, and the owners are asked (R108). -/
theorem basteAdopt_asks {s : State} {q : Nat} {b : Basting} {l : Launch} (hq : q = s.inp.id) (h : s.bastings = [(q, b)]) (hst : b.st = .running) (hm : b.matched = true)
    (hl : s.launches = [(launchKey q b.seq, l)]) (hr : l.ready = true) {foreign : List Nat} (hp : foreign = foreignPages s.pkg (Assoc.get [] q s.readSets))
    (hd : ∀ g ∈ foreign, s.dead.getLsbD (paPkg (4096 * g)) = false) :
    ∃ t, exec .basteAdopt s = .next t ∧ t.basting? q = some { b with st := .revalidating, awaiting := foreign } ∧ (foreign = [] → Sched.event .basteRevalidated { id := q } ∈ t.pending) ∧
      (∀ g ∈ foreign, ∃ n, (⟨s.pkg, paPkg (4096 * g), 0, 0, n, .genReq q (foreign.filter (fun h => paPkg (4096 * h) = paPkg (4096 * g)))⟩ : Item) ∈ t.items) ∧
      (∀ p, (s.ctx p).bast = some q → Assoc.has p s.ctxs = true → (t.ctx p).stop = true) ∧ (∀ p, (t.ctx p).w = (s.ctx p).w ∧ (t.ctx p).pc = (s.ctx p).pc) ∧ s.sameMem t := by
  have live : ¬ foreign.any (fun g => s.dead.getLsbD (paPkg (4096 * g))) = true := by
    rw [List.any_eq_true]
    rintro ⟨g, hg, hdead⟩
    rw [hd g hg] at hdead
    cases hdead
  refine ⟨_, execBasteAdopt_adopts hq h hst hm hl hr hp, ?_⟩
  extract_lets s2 s3
  rw [if_neg live]
  have rest : s3 = { s2 with items := s3.items, fabric := s3.fabric } := s2.askGens_rest ..
  have pkg : s2.pkg = s.pkg := by
    unfold s2
    rw [State.adopting, s.haltBast_rest q]
    rfl
  have asked : ∀ g ∈ foreign, ∃ n, (⟨s.pkg, paPkg (4096 * g), 0, 0, n, .genReq q (foreign.filter (fun h => paPkg (4096 * h) = paPkg (4096 * g)))⟩ : Item) ∈ s3.items := fun g hg => by
    rw [← pkg]
    exact State.askGens_asked (mem_firstUse (List.mem_map.mpr ⟨g, hg, rfl⟩)) s2
  have ctx : ∀ p, s3.ctx p = (s.haltBast q).ctx p := fun p => by rw [rest]; rfl
  have mem : s.sameMem s3 := by
    rw [rest]
    unfold s2
    rw [State.adopting, s.haltBast_rest q]
    exact State.sameMem_of rfl rfl rfl rfl
  have found : s3.basting? q = some { b with st := .revalidating, awaiting := foreign } := by
    rw [rest]
    exact State.basting?_setBasting ..
  have stops : ∀ p, (s.ctx p).bast = some q → Assoc.has p s.ctxs = true → (s3.ctx p).stop = true := fun p hb hp => by
    rw [ctx, State.ctx_haltBast, if_pos (State.mem_bastCtxs hb hp)]
    rfl
  have kept : ∀ p, (s3.ctx p).w = (s.ctx p).w ∧ (s3.ctx p).pc = (s.ctx p).pc := fun p => by
    rw [ctx, State.ctx_haltBast]
    split
    · exact ⟨rfl, rfl⟩
    · exact ⟨rfl, rfl⟩
  clear_value s3
  split
  · exact ⟨found, fun _ => List.mem_append_right _ (.head _), asked, stops, kept, mem⟩
  · next hne => exact ⟨found, fun h => absurd h hne, asked, stops, kept, mem⟩

/-! #### GEN_REPLY -/

theorem execGenReply_ignored {s : State} {b : Basting} (h : s.bastings = [(s.inp.id, b)]) (hst : b.st ≠ .revalidating) : exec .genReply s = .next s := by
  rw [exec_genReply, execGenReply, State.basting?_of_single h]
  exact if_pos hst

theorem execBasteRevalidated_ignored {s : State} {b : Basting} (h : s.bastings = [(s.inp.id, b)]) (hst : b.st ≠ .revalidating) : exec .basteRevalidated s = .next s := by
  rw [exec_basteRevalidated, execBasteRevalidated, State.basting?_of_single h]
  exact if_pos (by simp [hst])

theorem genReply_stale {s : State} {q : Nat} {b : Basting} (hq : q = s.inp.id) (h : s.bastings = [(q, b)]) (hst : b.st = .revalidating)
    (hbad : ∃ g ∈ s.inp.pairs, g.1 ∈ b.awaiting ∧ ∃ e ∈ Assoc.get [] q s.readSets, e.2.1 = g.1 ∧ e.2.2 ≠ g.2) : ∃ t, exec .genReply s = .next t ∧ t.basting? q = none := by
  obtain ⟨g, hg, hw, e, he, hpage, hgen⟩ := hbad
  rw [exec_genReply, execGenReply, ← hq, State.basting?_of_single h]
  dsimp only
  rw [if_neg (not_not.mpr hst), if_pos]
  · refine ⟨_, rfl, State.basting?_unpickQ fun b' hb' => ?_⟩
    rw [State.basting?_setBasting] at hb'
    cases hb'
    rw [hst]
    exact fun h => by cases h
  · exact List.any_eq_true.mpr ⟨g, hg, Bool.and_eq_true_iff.mpr ⟨List.contains_iff_mem.mpr hw, List.any_eq_true.mpr ⟨e, he, by simp [hpage, hgen]⟩⟩⟩

theorem genReply_stands {s : State} {q : Nat} {b : Basting} (hq : q = s.inp.id) (h : s.bastings = [(q, b)]) (hst : b.st = .revalidating)
    (hgood : ∀ g ∈ s.inp.pairs, g.1 ∈ b.awaiting → ∀ e ∈ Assoc.get [] q s.readSets, e.2.1 = g.1 → e.2.2 = g.2) (hall : ∀ g ∈ b.awaiting, ∃ x ∈ s.inp.pairs, x.1 = g) :
    ∃ t, exec .genReply s = .next t ∧ t.basting? q = some { b with awaiting := [] } ∧ t.pending = s.pending ++ [.event .basteRevalidated { id := q }] := by
  have left : b.awaiting.filter (fun g => !s.inp.pairs.any (fun x => x.1 = g)) = [] := by
    rw [List.filter_eq_nil_iff]
    intro g hg
    obtain ⟨x, hx, hxg⟩ := hall g hg
    have : s.inp.pairs.any (fun x => x.1 = g) = true := List.any_eq_true.mpr ⟨x, hx, decide_eq_true hxg⟩
    simp [this]
  rw [exec_genReply, execGenReply, ← hq, State.basting?_of_single h]
  dsimp only
  rw [if_neg (not_not.mpr hst), left, if_neg, if_pos rfl]
  · exact ⟨_, rfl, State.basting?_setBasting .., rfl⟩
  · intro hany
    obtain ⟨g, hg, hbad⟩ := List.any_eq_true.mp hany
    obtain ⟨hw, hset⟩ := Bool.and_eq_true_iff.mp hbad
    obtain ⟨e, he, hstale⟩ := List.any_eq_true.mp hset
    simp only [ne_eq, Bool.and_eq_true, decide_eq_true_eq] at hstale
    exact hstale.2 (hgood g hg (List.contains_iff_mem.mp hw) e he hstale.1)

end Sys2Proof.Machine

/-! ### O48: shadow lines go home (step 3 of R108) -/

namespace Sys2Proof.Machine
open Sys2Proof.Claims

/-- Shadow lines stand in home memory, and no other byte has changed. -/
structure State.LinesHome (s t : State) (L : List (Nat × Nat × List Byte)) : Prop where
  wf : memWf t.mem = true
  home : ∀ x ∈ L, t.bytesAt (64 * x.1) x.2.1 64 = x.2.2
  other : ∀ pa key, (∀ x ∈ L, pa / 64 ≠ x.1) → t.byteAt pa key = s.byteAt pa key

theorem State.LinesHome.nil {s : State} (h : memWf s.mem = true) : s.LinesHome s [] := ⟨h, by simp, fun _ _ _ => rfl⟩

/-- Lines of other addresses that go home later leave those that are home. -/
theorem State.LinesHome.append {s t u : State} {L M : List (Nat × Nat × List Byte)} (h : s.LinesHome t L) (h' : t.LinesHome u M) (hne : ∀ x ∈ L, ∀ y ∈ M, x.1 ≠ y.1) : s.LinesHome u (L ++ M) := by
  refine ⟨h'.wf, fun x hx => ?_, fun pa key hpa => ?_⟩
  · rcases List.mem_append.mp hx with hL | hM
    · have kept : u.bytesAt (64 * x.1) x.2.1 64 = t.bytesAt (64 * x.1) x.2.1 64 := State.bytesAt_congr fun j hj => h'.other _ _ fun y hy => by
        rw [show (64 * x.1 + j) / 64 = x.1 by omega]
        exact hne x hL y hy
      rw [kept, h.home x hL]
    · exact h'.home x hM
  · rw [h'.other pa key fun y hy => hpa y (List.mem_append_right _ hy), h.other pa key fun x hx => hpa x (List.mem_append_left _ hx)]

theorem State.LinesHome.of_sameMem {s t u : State} {L : List (Nat × Nat × List Byte)} (h : s.LinesHome t L) (hm : u.mem = t.mem) (hs : t.sameMem u) : s.LinesHome u L :=
  ⟨by rw [hm]; exact h.wf, fun x hx => by rw [hs.bytesAt, h.home x hx], fun pa key hpa => (hs pa key).trans (h.other pa key hpa)⟩

theorem State.commitLine_home {s : State} (h : memWf s.mem = true) (c : Nat) {x : Nat × Nat × List Byte} (hx : x.2.2.length = 64) : s.LinesHome (s.commitLine c x) [x] := by
  have wrote := State.performWrite_wrote h c none x.2.1 (pa := 64 * x.1) (l := x.2.2) fun j hj => by omega
  refine ⟨State.performWrite_wf h .., fun y hy => ?_, fun pa key hpa => wrote.lines pa key ?_⟩
  · obtain rfl := List.mem_singleton.mp hy
    have new := wrote.new
    rw [hx] at new
    exact new
  · have := hpa x (List.mem_singleton_self x)
    omega

/-- The lines of one cluster go home. -/
def State.commitLines (s : State) (c : Nat) (L : List (Nat × Nat × List Byte)) : State := L.foldl (fun v l => v.commitLine c l) s

theorem State.commitLines_home {L : List (Nat × Nat × List Byte)} (hnd : (L.map (·.1)).Nodup) (hlen : ∀ x ∈ L, x.2.2.length = 64) (c : Nat) {s : State} (h : memWf s.mem = true) : s.LinesHome (s.commitLines c L) L := by
  induction L generalizing s with
  | nil => exact .nil h
  | cons x L ih =>
    rw [List.map_cons, List.nodup_cons] at hnd
    rw [List.forall_mem_cons] at hlen
    have first := State.commitLine_home h c hlen.1
    refine first.append (ih hnd.2 hlen.2 first.wf) fun z hz y hy => ?_
    rw [List.mem_singleton.mp hz]
    exact fun e => hnd.1 (List.mem_map.mpr ⟨y, hy, e.symm⟩)

theorem State.commitLines_homeOnly (s : State) (c : Nat) (L : List (Nat × Nat × List Byte)) : s.HomeOnly (s.commitLines c L) :=
  List.foldlRecOn L _ (.refl s) fun u hu _ _ => hu.trans (u.performWrite_homeOnly ..)

/-- The lines of a cluster go home and shadowing ends there. -/
def State.commitClus (s : State) (c : Nat) : State := (s.commitLines c (s.clus c).shadow).modClus c (fun k => { k with shadow := [], deferredLines := 0 })

theorem State.commitClus_shadow (s : State) (c d : Nat) : ((s.commitClus c).clus d).shadow = if d = c then [] else (s.clus d).shadow := by
  rw [State.commitClus, State.clus_modClus_eq]
  split
  · rfl
  · rw [(s.commitLines_homeOnly c _).clus d]

theorem State.commitClus_home {s : State} {c : Nat} (hnd : ((s.clus c).shadow.map (·.1)).Nodup) (hlen : ∀ x ∈ (s.clus c).shadow, x.2.2.length = 64) (h : memWf s.mem = true) :
    s.LinesHome (s.commitClus c) (s.clus c).shadow :=
  (State.commitLines_home hnd hlen c h).of_sameMem rfl (State.sameMem_of rfl rfl rfl rfl)

/-- The lines of the clusters listed go home, cluster by cluster. -/
def State.commitAll (s : State) (l : List Nat) : State := l.foldl State.commitClus s

theorem State.commitAll_shadow (l : List Nat) (s : State) (d : Nat) : ((s.commitAll l).clus d).shadow = if d ∈ l then [] else (s.clus d).shadow := by
  induction l generalizing s with
  | nil => rfl
  | cons c l ih =>
    rw [State.commitAll, List.foldl_cons, ← State.commitAll, ih, State.commitClus_shadow]
    by_cases hd : d = c
    · rw [if_pos hd, ite_self, if_pos (hd ▸ List.mem_cons_self)]
    · simp [hd]

/-- No line stands in the shadow of two clusters, or twice in one. -/
structure State.ShadowsApart (s : State) (l : List Nat) : Prop where
  clusters : l.Nodup
  lines : ∀ c ∈ l, ((s.clus c).shadow.map (·.1)).Nodup ∧ ∀ x ∈ (s.clus c).shadow, x.2.2.length = 64
  apart : ∀ c ∈ l, ∀ d ∈ l, c ≠ d → ∀ x ∈ (s.clus c).shadow, ∀ y ∈ (s.clus d).shadow, x.1 ≠ y.1

theorem State.commitAll_home {l : List Nat} {s : State} (hs : s.ShadowsApart l) (h : memWf s.mem = true) : s.LinesHome (s.commitAll l) (l.flatMap (fun c => (s.clus c).shadow)) := by
  induction l generalizing s with
  | nil => exact .nil h
  | cons c l ih =>
    obtain ⟨hc, hnd⟩ := List.nodup_cons.mp hs.clusters
    have lines := hs.lines c List.mem_cons_self
    have first := State.commitClus_home lines.1 lines.2 h
    have shadow : ∀ d ∈ l, ((s.commitClus c).clus d).shadow = (s.clus d).shadow := fun d hd => by
      have hne : d ≠ c := fun e => hc (e ▸ hd)
      rw [State.commitClus_shadow, if_neg hne]
    have apart : (s.commitClus c).ShadowsApart l := by
      refine ⟨hnd, fun d hd => ?_, fun d hd e he hne => ?_⟩
      · rw [shadow d hd]
        exact hs.lines d (List.mem_cons_of_mem _ hd)
      · rw [shadow d hd, shadow e he]
        exact hs.apart d (List.mem_cons_of_mem _ hd) e (List.mem_cons_of_mem _ he) hne
    have rest := ih apart first.wf
    rw [List.flatMap_congr shadow] at rest
    refine first.append rest fun x hx y hy => ?_
    obtain ⟨d, hd, hyd⟩ := List.mem_flatMap.mp hy
    exact hs.apart c List.mem_cons_self d (List.mem_cons_of_mem _ hd) (fun e => hc (e ▸ hd)) x hx y hyd

/-- The launch commits: it has no basting state of its own any more (step 3 of R108). -/
structure State.Commits (s t : State) (q : Nat) (b : Basting) : Prop where
  basting : t.basting? q = some { b with st := .committing }
  shadow : ∀ c ∈ b.clusters, (t.clus c).shadow = []
  home : t.sameMem (s.commitAll b.clusters)
  reads : Assoc.has q t.readSets = false

theorem State.commit_commits (s : State) (q : Nat) (b : Basting) : s.Commits (s.commit q b) q b := by
  refine ⟨State.basting?_setBasting .., fun c hc => ?_, fun _ _ => rfl, Assoc.has_del_self ..⟩
  have kept : ((s.commit q b).clus c).shadow = ((s.commitAll b.clusters).clus c).shadow := State.part_mapClusters Clus.shadow
    (g := fun e => { e.2 with tlb := e.2.tlb.map (fun t => if t.bast = some q then { t with bast := none } else t), walks := e.2.walks.map (fun w => if w.bast = some q then { w with bast := none } else w) })
    (fun _ => rfl) rfl c
  rw [kept, State.commitAll_shadow, if_pos hc]

/-! #### BASTE_REVALIDATED -/

section
variable {s : State} {q : Nat} {b : Basting} (hq : q = s.inp.id) (h : s.bastings = [(q, b)]) (hst : b.st = .revalidating) (hw : b.awaiting = []) (hd : b.doomed = false)
include hq h hst hw hd

theorem execBasteRevalidated_looks : exec .basteRevalidated s =
    (if (Assoc.get [] q s.readSets).any (fun e => paPkg (4096 * e.2.1) = s.pkg && Assoc.get 0 e.2.1 s.gens ≠ e.2.2) then .next (s.unpickQ q)
     else if s.bastLanding q b then .next (s.post .basteRevalidated s.inp) else .next ((s.commit q b).post .basteCommitted { id := q })) := by
  rw [exec_basteRevalidated, execBasteRevalidated, ← hq, State.basting?_of_single h]
  exact if_neg (by simp [hst, hw, hd])

theorem basteRevalidated_stale (hbad : ∃ e ∈ Assoc.get [] q s.readSets, paPkg (4096 * e.2.1) = s.pkg ∧ Assoc.get 0 e.2.1 s.gens ≠ e.2.2) : ∃ t, exec .basteRevalidated s = .next t ∧ Unpicked s t q b := by
  obtain ⟨e, he, hpkg, hgen⟩ := hbad
  rw [execBasteRevalidated_looks hq h hst hw hd, if_pos (List.any_eq_true.mpr ⟨e, he, by simp [hpkg, hgen]⟩)]
  exact ⟨_, rfl, State.unpickQ_unpicked (State.basting?_of_single h) (by rw [hst]; exact fun h => by cases h)⟩

variable (hgood : ∀ e ∈ Assoc.get [] q s.readSets, paPkg (4096 * e.2.1) = s.pkg → Assoc.get 0 e.2.1 s.gens = e.2.2)
include hgood

theorem execBasteRevalidated_stands : exec .basteRevalidated s = if s.bastLanding q b then .next (s.post .basteRevalidated s.inp) else .next ((s.commit q b).post .basteCommitted { id := q }) := by
  rw [execBasteRevalidated_looks hq h hst hw hd, if_neg]
  intro hany
  obtain ⟨e, he, hstale⟩ := List.any_eq_true.mp hany
  simp only [ne_eq, Bool.and_eq_true, decide_eq_true_eq] at hstale
  exact hstale.2 (hgood e he hstale.1)

theorem basteRevalidated_waits (hl : s.bastLanding q b = true) : exec .basteRevalidated s = .next { s with pending := s.pending ++ [.event .basteRevalidated s.inp] } := by
  rw [execBasteRevalidated_stands hq h hst hw hd hgood, if_pos hl]
  rfl

theorem basteRevalidated_commits (hl : s.bastLanding q b = false) (hm : memWf s.mem = true) (hs : s.ShadowsApart b.clusters) :
    ∃ t, exec .basteRevalidated s = .next t ∧ t.basting? q = some { b with st := .committing } ∧ Sched.event .basteCommitted { id := q } ∈ t.pending ∧
      (∀ c ∈ b.clusters, (t.clus c).shadow = [] ∧ ∀ x ∈ (s.clus c).shadow, t.bytesAt (64 * x.1) x.2.1 64 = x.2.2) ∧
      (∀ pa key, (∀ c ∈ b.clusters, ∀ x ∈ (s.clus c).shadow, pa / 64 ≠ x.1) → t.byteAt pa key = s.byteAt pa key) ∧ Assoc.has q t.readSets = false := by
  rw [execBasteRevalidated_stands hq h hst hw hd hgood, if_neg (by rw [hl]; exact Bool.false_ne_true)]
  have lines := State.commitAll_home hs hm
  have commits := s.commit_commits q b
  have mem : ((s.commit q b).post .basteCommitted { id := q }).sameMem (s.commitAll b.clusters) := commits.home
  refine ⟨_, rfl, commits.basting, List.mem_append_right _ (.head _), fun c hc => ⟨commits.shadow c hc, fun x hx => ?_⟩, fun pa key hpa => ?_, commits.reads⟩
  · rw [← mem.bytesAt]
    exact lines.home x (List.mem_flatMap.mpr ⟨c, hc, hx⟩)
  · rw [← mem pa key]
    refine lines.other pa key fun x hx => ?_
    obtain ⟨c, hc, hxc⟩ := List.mem_flatMap.mp hx
    exact hpa c hc x hxc

end

end Sys2Proof.Machine

/-! ### O48: replay and claim (steps 4 and 5 of R108) -/

namespace Sys2Proof.Machine
open Sys2Proof.Claims

/-! #### BASTE_COMMITTED -/

/-- The deferred effects of queue q become ones that launch k replays. -/
def State.replays (s : State) (q : Nat) (k : Nat × Nat) (mine : List Deferred) : State := { s with deferred := s.deferred.filter (fun e => e.1 ≠ q), replay := mine.map (fun e => (k, e)) }

/-- A message of the launch to this package arrives as one of the front end's own, under a new number. -/
theorem State.replaySend_local {s : State} {it : MsgItem} (hp : destPkg it.dest = s.pkg) (k : Nat × Nat) : s.replaySend k it =
    (({ s with nextId := s.nextId + 1, replay := setFirst k (.msg { it with num := s.nextId }) s.replay } : State).sends (replayPos it.src) s.nextId (lnchWord k) (destPkg it.dest) (fun c => c)).post .msg
      { load := .msg { it with num := s.nextId, src := replayPos it.src, listed := true } } := if_pos hp

section
variable {s : State} {q : Nat} {b : Basting} (hq : q = s.inp.id) (h : s.bastings = [(q, b)]) (hst : b.st = .committing) (hf : s.inp.flag = false) (hr : s.replay = [])
include hq h hst hf hr

theorem execBasteCommitted_replays {mine : List Deferred} (hm : mine = (s.deferred.filter (fun e => e.1 = q)).map (·.2)) : exec .basteCommitted s =
    .next (((mine.foldl (fun u e => u.countReplay (launchKey q b.seq) e) (s.replays q (launchKey q b.seq) mine)).replayOn (launchKey q b.seq) mine.length).post .basteClaimed { id := q }) := by
  subst hq
  rw [exec_basteCommitted, execBasteCommitted, hf, if_neg Bool.false_ne_true]
  dsimp only
  rw [State.basting?_of_single h]
  dsimp only
  rw [if_neg (by simp [hst, hr]), hr, List.nil_append, ← hm]
  rfl

theorem basteCommitted_nothing (hd : ∀ e ∈ s.deferred, e.1 ≠ q) : exec .basteCommitted s = .next { s with pending := s.pending ++ [.event .basteClaimed { id := q }] } := by
  have none : s.deferred.filter (fun e => e.1 = q) = [] := List.filter_eq_nil_iff.mpr fun e he => by simpa using hd e he
  have all : s.deferred.filter (fun e => e.1 ≠ q) = s.deferred := List.filter_eq_self.mpr fun e he => by simpa using hd e he
  rw [execBasteCommitted_replays (mine := []) hq h hst hf hr (by rw [none, List.map_nil]), List.foldl_nil, State.replays, all, List.map_nil, ← hr]
  rfl

/-- A deferred message goes out as one of the front end's own, and waits for its answer (step 4 of R108). -/
theorem basteCommitted_message {it : MsgItem} (hd : s.deferred = [(q, .msg it)]) (hp : destPkg it.dest = s.pkg) : ∃ t, exec .basteCommitted s = .next t ∧ t.deferred = [] ∧
    t.replay = [(launchKey q b.seq, .msg { it with num := s.nextId })] ∧
    Sched.event .msg { load := .msg { it with num := s.nextId, src := ⟨it.src.clus, it.src.core, it.src.ctx + 8⟩, listed := true } } ∈ t.pending ∧ Sched.event .basteClaimed { id := q } ∈ t.pending := by
  let k := launchKey q b.seq
  let u := (s.replays q k [.msg it]).countReplay k (.msg it)
  have deferred : u.deferred = [] := by
    change s.deferred.filter (fun e => e.1 ≠ q) = []
    rw [hd]
    simp
  have sent : u.replayOn k 1 = u.replaySend k it := by
    have first : u.replay = [(k, .msg it)] := rfl
    rw [State.replayOn, first, List.find?_cons_of_pos (by simp)]
  have waits : (u.replaySend k it).replay = [(k, .msg { it with num := s.nextId })] := by
    rw [State.replaySend_local (s := u) hp]
    exact if_pos rfl
  refine ⟨_, execBasteCommitted_replays (mine := [.msg it]) hq h hst hf hr (by simp [hd]), ?_⟩
  rw [List.foldl_cons, List.foldl_nil, List.length_singleton]
  change ((u.replayOn k 1).post .basteClaimed { id := q }).deferred = [] ∧ ((u.replayOn k 1).post .basteClaimed { id := q }).replay = _ ∧ _ ∈ ((u.replayOn k 1).post .basteClaimed { id := q }).pending ∧
    _ ∈ ((u.replayOn k 1).post .basteClaimed { id := q }).pending
  rw [sent]
  refine ⟨?_, waits, List.mem_append_left _ ?_, List.mem_append_right _ (.head _)⟩
  · rw [State.replaySend_local (s := u) hp]
    exact deferred
  · rw [State.replaySend_local (s := u) hp]
    exact List.mem_append_right _ (.head _)

end

/-! #### BASTE_CLAIMED -/

/-- A context of a claimed launch is an ordinary one, and goes on where it was held back. -/
def Ctx.claimed (c : Ctx) : Ctx := { c with basting := false, stop := false, st := if c.st = .blocked .held then .ready else c.st }

theorem Ctx.claimed_claimed (c : Ctx) : c.claimed.claimed = c.claimed := by
  rw [Ctx.claimed, Ctx.claimed]
  by_cases h : c.st = .blocked .held
  · simp [h]
  · simp [h]

/-- What follows a claim on its clusters: the floors of its dependences, and events. -/
theorem State.claimFollows_rest (g : Nat → Clus → Clus) (f : Nat → Inp) (i : Instr) (l : List Nat) (s : State) :
    l.foldl (fun u c => (u.modClus c (g c)).post i (f c)) s = { s with clusters := (l.foldl (fun u c => (u.modClus c (g c)).post i (f c)) s).clusters, pending := (l.foldl (fun u c => (u.modClus c (g c)).post i (f c)) s).pending } :=
  List.foldlRecOn l _ (motive := fun u : State => u = { s with clusters := u.clusters, pending := u.pending }) rfl fun u hu c _ => by
    rw [hu]
    rfl

/-- The launch as an ordinary one, before its clusters hear of the claim. -/
def State.claimed (s : State) (q : Nat) (b : Basting) : State :=
  let k := launchKey q b.seq
  let left := (s.teams.filter (fun e => e.2.launch = k)).length
  let s1 := (s.bastCtxs q).foldl (fun u p => u.modCtx p Ctx.claimed) s
  let s2 := s1.modLaunch k (fun l => { l with placed := recTeams l.rcd, retired := recTeams l.rcd - left, last := b.teamClus.getLast? })
  { s2 with teams := s2.teams.map (fun e => if e.2.launch = k then (e.1, { e.2 with bast := false }) else e), bastings := Assoc.del q s2.bastings, bst := { s2.bst with claims := s2.bst.claims + 1 } }

/-- A cluster raises the floors of the launch's dependences. -/
def Clus.claimFloors (deps : List (Nat × Nat)) (own : Nat) (k : Clus) : Clus := deps.foldl (fun x d => if d.1 = own then x else x.raiseFloor d.1 d.2) k

theorem execBasteClaimed_claims {s : State} {q : Nat} {b : Basting} (hq : q = s.inp.id) (h : s.bastings = [(q, b)]) (hst : b.st = .committing) (hd : ∀ e ∈ s.deferred, e.1 ≠ q) :
    exec .basteClaimed s = .next ((b.clusters.foldl (fun u c => (u.modClus c (Clus.claimFloors b.deps (paOwner (mkPa s.pkg c 0)))).post .bFetchDone { clus := c }) (s.claimed q b)).post .teamPlace {}) := by
  subst hq
  have done : ¬ (s.deferred.any (fun e => e.1 = s.inp.id)) = true := by
    rw [List.any_eq_true]
    rintro ⟨e, he, hkey⟩
    exact hd e he (of_decide_eq_true hkey)
  rw [exec_basteClaimed, execBasteClaimed, State.basting?_of_single h]
  dsimp only
  rw [if_neg (by rw [hst]; simpa using done)]
  rfl

/-- All teams of a claimed launch are placed; those left have not retired. -/
def Launch.claimed (l : Launch) (left : Nat) (last : Option Nat) : Launch := { l with placed := recTeams l.rcd, retired := recTeams l.rcd - left, last := last }

theorem State.claimed_rest (s : State) (q : Nat) (b : Basting) : ∃ ctxs, s.claimed q b = { s with
    ctxs := ctxs
    launches := s.launches.map (fun e => if e.1 = launchKey q b.seq then (e.1, e.2.claimed (s.teams.filter (fun e => e.2.launch = launchKey q b.seq)).length b.teamClus.getLast?) else e)
    teams := s.teams.map (fun e => if e.2.launch = launchKey q b.seq then (e.1, { e.2 with bast := false }) else e)
    bastings := Assoc.del q s.bastings
    bst := { s.bst with claims := s.bst.claims + 1 } } := by
  refine ⟨((s.bastCtxs q).foldl (fun u p => u.modCtx p Ctx.claimed) s).ctxs, ?_⟩
  rw [State.claimed, State.foldl_modCtx_rest]
  rfl

theorem State.ctx_claimed (s : State) (q : Nat) (b : Basting) (p : Pos) : (s.claimed q b).ctx p = if p ∈ s.bastCtxs q then (s.ctx p).claimed else s.ctx p :=
  State.ctx_foldl_modCtx Ctx.claimed_claimed (s.bastCtxs q) s p

/-- BASTE_CLAIMED: the launch is an ordinary one, its contexts and teams too (step 5 of R108). -/
theorem basteClaimed_claims {s : State} {q : Nat} {b : Basting} (hq : q = s.inp.id) (h : s.bastings = [(q, b)]) (hst : b.st = .committing) (hd : ∀ e ∈ s.deferred, e.1 ≠ q) :
    ∃ t, exec .basteClaimed s = .next t ∧ t.bastings = [] ∧ t.bst = { s.bst with claims := s.bst.claims + 1 } ∧
      (∀ p, (s.ctx p).bast = some q → Assoc.has p s.ctxs = true → (t.ctx p).basting = false ∧ (t.ctx p).stop = false ∧ (t.ctx p).st = (if (s.ctx p).st = .blocked .held then .ready else (s.ctx p).st)) ∧
      (∀ e ∈ t.teams, e.2.launch = launchKey q b.seq → e.2.bast = false) ∧ (∀ e ∈ s.launches, e.1 = launchKey q b.seq → ∃ l, (e.1, l) ∈ t.launches ∧ l.placed = recTeams e.2.rcd) ∧ s.sameMem t := by
  refine ⟨_, execBasteClaimed_claims hq h hst hd, ?_⟩
  rw [State.claimFollows_rest (fun c => Clus.claimFloors b.deps (paOwner (mkPa s.pkg c 0))) (fun c => { clus := c })]
  generalize b.clusters.foldl _ (s.claimed q b) = v
  let t : State := ({ s.claimed q b with clusters := v.clusters, pending := v.pending } : State).post .teamPlace {}
  have ctx : ∀ p, t.ctx p = (s.claimed q b).ctx p := fun _ => rfl
  obtain ⟨ctxs, rest⟩ := s.claimed_rest q b
  have teams : t.teams = s.teams.map (fun e => if e.2.launch = launchKey q b.seq then (e.1, { e.2 with bast := false }) else e) := congrArg State.teams rest
  have bastings : t.bastings = Assoc.del q s.bastings := congrArg State.bastings rest
  have launches := congrArg State.launches rest
  refine ⟨?_, congrArg State.bst rest, fun p hb hp => ?_, fun e he hk => ?_, fun e he hk => ?_, ?_⟩
  · change t.bastings = []
    rw [bastings, h]
    simp [Assoc.del]
  · change (t.ctx p).basting = false ∧ (t.ctx p).stop = false ∧ (t.ctx p).st = _
    rw [ctx, State.ctx_claimed, if_pos (State.mem_bastCtxs hb hp)]
    exact ⟨rfl, rfl, rfl⟩
  · change e ∈ t.teams at he
    rw [teams] at he
    obtain ⟨x, -, rfl⟩ := List.mem_map.mp he
    by_cases hx : x.2.launch = launchKey q b.seq
    · rw [if_pos hx]
    · rw [if_neg hx] at hk
      exact absurd hk hx
  · refine ⟨e.2.claimed (s.teams.filter (fun e => e.2.launch = launchKey q b.seq)).length b.teamClus.getLast?, ?_, rfl⟩
    change _ ∈ (s.claimed q b).launches
    rw [launches]
    exact List.mem_map.mpr ⟨e, he, if_pos hk⟩
  · have mem : s.sameMem (s.claimed q b) := by
      rw [rest]
      exact State.sameMem_of rfl rfl rfl rfl
    exact mem.trans (State.sameMem_of rfl rfl rfl rfl)

end Sys2Proof.Machine

/-! ### O48: what the predictor's reading leaves alone (R103) -/

namespace Sys2Proof.Machine
open Sys2Proof.Claims

/-- What reading through the read table changes: walks and their failures, the queue's reading, and requests to other packages. -/
def State.FrontReads (s t : State) : Prop :=
  t = { s with clusters := t.clusters, queues := t.queues, nextId := t.nextId, outReads := t.outReads, items := t.items, fabric := t.fabric, pending := t.pending }

theorem State.FrontReads.refl (s : State) : s.FrontReads s := rfl

theorem State.FrontReads.trans {s t u : State} (h : s.FrontReads t) (h' : t.FrontReads u) : s.FrontReads u := by
  unfold State.FrontReads at *
  rw [h] at h'
  exact h'

/-- A translation that is not at hand has only been looked for. -/
def QuietRes.Reads (s : State) : QuietRes → Prop
  | .ok _ _ => True
  | .wait t => s.FrontReads t
  | .fail t _ => s.FrontReads t

/-- A span that is not at hand has only been read for. -/
def SpanRead.Reads (s : State) : SpanRead → Prop
  | .ok _ _ _ => True
  | .wait t => s.FrontReads t
  | .fail t => s.FrontReads t

/-- What a step of the predictor's reading leaves has only been read for. -/
def PartReads {α : Type} (s : State) : Except State (State × α) → Prop
  | .error t => s.FrontReads t
  | .ok x => s.FrontReads x.1

theorem State.startWalk_reads (s : State) (c aspc : Nat) (sp : Space) (a : DWord) (acc : AccKind) (r : Requester) : s.FrontReads (s.startWalk c aspc sp a acc r) := rfl

theorem State.quiet_reads (s : State) (c aspc : Nat) (sp : Space) (a : DWord) (acc : AccKind) (w : Quiet) : (s.quiet c aspc sp a acc w).Reads s := by
  rw [State.quiet]
  split
  · exact rfl
  · split
    · exact .refl s
    · rw [QuietRes.Reads, State.quietWalk]
      split
      · exact .refl s
      · exact s.startWalk_reads ..
    · trivial

theorem State.frontX_reads (s : State) (c aspc q no : Nat) (a : DWord) : (s.frontX c aspc q no a).Reads s := by
  rw [State.frontX]
  split
  · exact s.quiet_reads ..
  · split
    · exact rfl
    · split
      · exact .refl s
      · exact s.startWalk_reads ..
      · trivial

theorem State.askPkg_reads (s : State) (c pa key len : Nat) (who : ReadFor) : s.FrontReads (s.askPkg c pa key len who) := by
  rw [State.askPkg]
  split
  · exact .refl s
  · rw [State.queueItem]
    split <;> exact rfl

theorem State.frontUnit_reads (s : State) (c aspc q no : Nat) (a : DWord) : (s.frontUnit c aspc q no a).Reads s := by
  have translated := s.frontX_reads c aspc q no a
  rw [State.frontUnit]
  split
  · next h => rwa [h] at translated
  · next h => rwa [h] at translated
  · split
    · exact .refl s
    · split
      · split
        · exact .refl s
        · trivial
        · dsimp only
          split
          · exact .refl s
          · split
            · exact .refl s
            · exact s.askPkg_reads ..
      · split
        · exact .refl s
        · trivial

theorem State.frontSpan_reads (s : State) (c aspc q no a n : Nat) : (s.frontSpan c aspc q no a n).Reads s := by
  induction n generalizing a with
  | zero => trivial
  | succ n ih =>
    have unit := s.frontUnit_reads c aspc q no (BitVec.ofNat 64 a)
    have later := ih (a + 64)
    rw [State.frontSpan]
    split
    · split
      · trivial
      · exact later
    · exact unit

theorem State.frontBytes_reads (s : State) (q fn aspc no a len : Nat) : PartReads s (s.frontBytes q fn aspc no a len) := by
  rw [State.frontBytes]
  split
  · exact .refl s
  · next c _ =>
    have span := s.frontSpan_reads c aspc q no (a / 64 * 64) ((a % 64 + len + 63) / 64)
    split
    · exact .refl s
    · next h => rwa [h] at span
    · next h => rwa [h] at span

theorem State.frontMap_reads (s : State) (q fn no : Nat) (rcd : List Byte) : PartReads s (s.frontMap q fn no rcd) := by
  rw [State.frontMap]
  split
  · exact .refl s
  · exact s.frontBytes_reads ..

theorem State.frontImage_reads (s : State) (q fn no : Nat) (rcd : List Byte) : PartReads s (s.frontImage q fn no rcd) := by
  rw [State.frontImage]
  split
  · exact .refl s
  · exact s.frontBytes_reads ..

theorem State.depHolds_reads (s : State) (c q : Nat) (rcd : List Byte) (i : Nat) : PartReads s (s.depHolds c q rcd i) := by
  have unit := s.frontUnit_reads c (recAspc rcd) q 0 (recDepa rcd i)
  rw [State.depHolds]
  split
  · next h => rwa [h] at unit
  · next h => rwa [h] at unit
  · exact .refl s

theorem State.depsHold_reads (c q : Nat) (rcd : List Byte) (l : List Nat) (s : State) : PartReads s (s.depsHold c q rcd l) := by
  induction l generalizing s with
  | nil => exact .refl s
  | cons i l ih =>
    have first := s.depHolds_reads c q rcd i
    rw [State.depsHold]
    split
    · next h => rwa [h] at first
    · next h => rwa [h] at first
    · next t d h =>
      rw [h] at first
      have later := ih t
      split
      · next h' =>
        rw [h'] at later
        exact State.FrontReads.trans first later
      · revert later
        cases t.depsHold c q rcd l with
        | error u => exact fun later => State.FrontReads.trans first later
        | ok x => exact fun later => State.FrontReads.trans first later

theorem State.baste0_reads (s : State) (q : Nat) : s.FrontReads (s.baste0 q) := rfl

theorem State.basteReads_reads (s : State) (q : Nat) : s.FrontReads (s.basteReads q) := by
  rw [State.basteReads]
  split
  · exact .refl s
  · exact rfl

/-! #### A record that no basting launch may run -/

/-- The record asks for what a basting launch does not have (R103). -/
def Barred (rcd : List Byte) : Prop := recBok rcd = false ∨ recSys rcd = true ∨ recDebug rcd = true

theorem State.basteTry_barred {rcd : List Byte} (h : Barred rcd) (s : State) (q : Nat) (map img : Option (List Byte)) (deps : List (Nat × Nat)) : s.basteTry q rcd map img deps = none := by
  rw [State.basteTry]
  refine if_pos ?_
  rcases h with h | h | h <;> simp [h]

theorem State.basteGo_barred {rcd : List Byte} (h : Barred rcd) (s : State) (q : Nat) (map img : Option (List Byte)) : s.FrontReads (s.basteGo q rcd map img) := by
  rw [State.basteGo]
  split
  · exact s.baste0_reads q
  · next c _ =>
    have held := s.depsHold_reads c q rcd (List.range (min 4 (recNdep rcd)))
    split
    · next h' => rwa [h'] at held
    · next h' =>
      rw [h'] at held
      exact State.FrontReads.trans held (State.baste0_reads ..)
    · next h' =>
      rw [h'] at held
      rw [State.basteTry_barred h]
      exact State.FrontReads.trans held (State.baste0_reads ..)

theorem basteStart_barred {s : State} {rcd : List Byte} (hp : predict (s.queue s.inp.id).hist = some rcd) (h : Barred rcd) : ∃ t, exec .basteStart s = .next t ∧ s.FrontReads t := by
  rw [exec_basteStart, execBasteStart]
  dsimp only
  split
  · exact ⟨s, rfl, .refl s⟩
  · rw [hp]
    refine ⟨_, rfl, ?_⟩
    have begun := s.basteReads_reads s.inp.id
    generalize s.basteReads s.inp.id = s0 at begun
    split
    · exact begun.trans (s0.basteGo_barred h ..)
    · split
      · exact begun.trans (s0.basteGo_barred h ..)
      · have map := s0.frontMap_reads s.inp.id (s.queue s.inp.id).fn 0 rcd
        split
        · next h' =>
          rw [h'] at map
          exact begun.trans map
        · next s1 m h' =>
          rw [h'] at map
          have image := s1.frontImage_reads s.inp.id (s.queue s.inp.id).fn 0 rcd
          split
          · next h'' =>
            rw [h''] at image
            exact (begun.trans map).trans image
          · next s2 i h'' =>
            rw [h''] at image
            exact ((begun.trans map).trans image).trans (s2.basteGo_barred h ..)

theorem State.FrontReads.kept {s t : State} (h : s.FrontReads t) :
    t.bastings = s.bastings ∧ t.teams = s.teams ∧ t.bst = s.bst ∧ t.launches = s.launches ∧ (∀ p, (t.ctx p).slot = (s.ctx p).slot) ∧ s.sameMem t := by
  rw [h]
  exact ⟨rfl, rfl, rfl, rfl, fun _ => rfl, State.sameMem_of rfl rfl rfl rfl⟩

end Sys2Proof.Machine

/-! ### O48: starting a predicted record (R103) -/

namespace Sys2Proof.Machine
open Sys2Proof.Claims

/-! #### Where nothing starts -/

theorem State.queueIdle_iff (s : State) (q : Nat) : s.queueIdle q = true ↔ (s.queue q).st = .active ∧ (s.queue q).baste = true ∧ (s.queue q).prod = (s.queue q).cons ∧ (s.queue q).histNew = true ∧
    (∀ l ∈ s.launchesOf q, recTeams l.rcd ≤ l.placed) ∧ Assoc.has q s.bastings = false := by
  simp [State.queueIdle, and_assoc]

/-- Every condition of R103 on the machine holds. -/
structure State.MayStart (s : State) (q : Nat) : Prop where
  ready : s.ready = true
  idle : s.queueIdle q = true
  room : s.bastings.length < s.bst.maxb
  life : s.bst.life ≠ 0
  fn : s.quietFn (s.queue q).fn = false

theorem Bst.life_eq_zero {b : Bst} : b.life = 0 ↔ b.ctl.extractLsb' 8 8 = 0 := by
  rw [Bst.life, ← BitVec.toNat_inj]
  simp

theorem basteStart_ignored {s : State} (h : ¬ s.MayStart s.inp.id ∨ predict (s.queue s.inp.id).hist = none) : exec .basteStart s = .next s := by
  rw [exec_basteStart, execBasteStart]
  dsimp only
  split
  · rfl
  · next guard =>
    simp only [Bool.or_eq_true, Bool.not_eq_true', Bool.not_eq_true, not_or, Bool.not_eq_false, Bool.and_eq_true, decide_eq_true_eq] at guard
    obtain ⟨⟨⟨⟨hr, hi⟩, hm⟩, hl⟩, hq⟩ := guard
    rw [h.resolve_left (not_not.mpr ⟨hr, hi, hm, hl, hq⟩)]

theorem not_mayStart {s : State} {q : Nat} (h : s.ready = false ∨ (s.queue q).st ≠ .active ∨ (s.queue q).baste = false ∨ (s.queue q).prod ≠ (s.queue q).cons ∨ (s.queue q).histNew = false ∨
    (∃ l ∈ s.launchesOf q, l.placed < recTeams l.rcd) ∨ (∃ e ∈ s.bastings, e.1 = q) ∨ min 4 (s.bst.ctl.extractLsb' 0 3).toNat ≤ s.bastings.length ∨ s.bst.ctl.extractLsb' 8 8 = 0 ∨ s.quietFn (s.queue q).fn = true) :
    ¬ s.MayStart q := by
  rintro ⟨ready, idle, room, life, fn⟩
  obtain ⟨active, baste, caught, new, placed, none⟩ := (s.queueIdle_iff q).mp idle
  rcases h with h | h | h | h | h | ⟨l, hl, h⟩ | ⟨e, he, rfl⟩ | h | h | h
  · simp [h] at ready
  · exact h active
  · simp [h] at baste
  · exact h caught
  · simp [h] at new
  · exact absurd (placed l hl) (Nat.not_le.mpr h)
  · rw [(Assoc.has_iff e.1 s.bastings).mpr (List.mem_map.mpr ⟨e, he, rfl⟩)] at none
    cases none
  · exact absurd room (Nat.not_lt.mpr h)
  · exact life (Bst.life_eq_zero.mpr h)
  · simp [h] at fn

/-! #### The predictor's look at the machine -/

/-- A cluster without the failures of its walks. -/
def Clus.unfailed (k : Clus) : Clus := { k with xfails := [] }

/-- The predictor has begun to read: it sees clusters, queue and contexts as they were. -/
structure State.Begun (s t : State) (q : Nat) : Prop where
  reads : s.FrontReads t
  clus : ∀ c, (t.clus c).unfailed = (s.clus c).unfailed
  queue : t.queue q = { s.queue q with rid := (t.queue q).rid, got := (t.queue q).got, trying := (t.queue q).trying }

theorem State.basteReads_begun (s : State) (q : Nat) : s.Begun (s.basteReads q) q := by
  refine ⟨s.basteReads_reads q, fun c => ?_, ?_⟩
  · rw [State.basteReads]
    split
    · rfl
    · exact State.part_mapClusters Clus.unfailed (g := fun e => { e.2 with xfails := e.2.xfails.filter (fun x => x.1 ≠ .quiet (.baste q)) }) (fun _ => rfl) rfl c
  · rw [State.basteReads]
    split
    · rfl
    · rw [State.queue_modQueue]
      rfl

section
variable {s t : State} {q : Nat} (h : s.Begun t q)
include h

theorem State.Begun.part {β : Type} (φ : Clus → β) (hφ : ∀ k, φ k.unfailed = φ k) (c : Nat) : φ (t.clus c) = φ (s.clus c) := by rw [← hφ, h.clus, hφ]

theorem State.Begun.fn (c : Nat) : (t.clus c).fn = (s.clus c).fn := h.part Clus.fn (fun _ => rfl) c

theorem State.Begun.clusOf : t.clusOf = s.clusOf := by
  funext fn c
  rw [State.clusOf, State.clusOf, h.fn]

theorem State.Begun.recordFault (fn : Nat) (l : List Byte) (map img : Option (List Byte)) : recordFault t fn l map img = recordFault s fn l map img := by
  have root : ∀ c, (t.clus c).rroot = (s.clus c).rroot := h.part Clus.rroot fun _ => rfl
  have slots : t.sealedSlots = s.sealedSlots := by rw [h.reads]
  simp only [Claims.recordFault, h.fn, root, slots]

theorem State.Begun.clusRing (fn : Nat) (after : Option Nat) : t.clusRing fn after = s.clusRing fn after := by
  unfold State.clusRing
  rw [h.clusOf]

theorem State.Begun.fit (fn c : Nat) (l : Nat × Nat) (rcd : List Byte) : t.fit fn c l rcd = s.fit fn c l rcd := by
  have banks : (t.clus c).bankFor l = (s.clus c).bankFor l := h.part (fun k : Clus => k.bankFor l) (fun _ => rfl) c
  have slot : t.freeSlot c = s.freeSlot c := by rw [h.reads]; rfl
  have free : t.posFree c = s.posFree c := by
    have svc : (t.clus c).svcReserved = (s.clus c).svcReserved := h.part Clus.svcReserved (fun _ => rfl) c
    have ctx : ∀ p, t.ctx p = s.ctx p := fun p => by rw [h.reads]; rfl
    funext n x
    rw [State.posFree, State.posFree, svc, ctx]
  have tile : t.tile c = s.tile c := by rw [h.reads]; rfl
  rw [State.fit, State.fit, h.clusOf, banks, slot, free, tile]

end

end Sys2Proof.Machine

/-! ### O48: the launch that starts (R103, R118) -/

namespace Sys2Proof.Machine
open Sys2Proof.Claims

/-! #### A team is placed -/

/-- What placing a team changes: contexts, cores, clusters and plane arrays, besides the list of teams. -/
def State.PlaceOnly (s t : State) : Prop := t = { s with ctxs := t.ctxs, cores := t.cores, clusters := t.clusters, tiles := t.tiles }

theorem State.PlaceOnly.trans {s t u : State} (h : s.PlaceOnly t) (h' : t.PlaceOnly u) : s.PlaceOnly u := by
  unfold State.PlaceOnly at *
  rw [h] at h'
  exact h'

theorem State.PlaceOnly.foldl {α : Type} {f : State → α → State} (hf : ∀ (u : State) (x : α), u.PlaceOnly (f u x)) (l : List α) (s : State) : s.PlaceOnly (l.foldl f s) :=
  List.foldlRecOn l f (rfl : s.PlaceOnly s) fun u hu x _ => hu.trans (hf u x)

theorem State.modTile_place (s : State) (c n : Nat) (f : Tile → Tile) : s.PlaceOnly (s.modTile c n f) := rfl
theorem State.modCore_place (s : State) (c n : Nat) (f : Core → Core) : s.PlaceOnly (s.modCore c n f) := rfl
theorem State.setCtx_place (s : State) (p : Pos) (x : Ctx) : s.PlaceOnly (s.setCtx p x) := rfl

/-- Every context that is set meets what the contexts set have in common. -/
theorem State.ctx_foldl_setCtx {α : Type} {P : Ctx → Prop} {pos : α → Pos} {ctx : α → Ctx} {l : List α} (hP : ∀ e ∈ l, P (ctx e)) {s : State} {p : Pos} (h : (∃ e ∈ l, pos e = p) ∨ P (s.ctx p)) :
    P ((l.foldl (fun u e => u.setCtx (pos e) (ctx e)) s).ctx p) := by
  induction l generalizing s with
  | nil => exact h.resolve_left fun ⟨_, he, _⟩ => List.not_mem_nil he
  | cons e l ih =>
    rw [List.forall_mem_cons] at hP
    refine ih hP.2 ?_
    dsimp only
    by_cases hp : pos e = p
    · rw [hp, State.ctx_setCtx]
      exact .inr hP.1
    · rw [State.ctx_setCtx_ne _ hp]
      refine h.imp_left fun ⟨x, hx, hxp⟩ => ⟨x, (List.mem_cons.mp hx).resolve_left fun e' => hp (e' ▸ hxp), hxp⟩

/-- A context of a basting launch has begun. -/
def BastBegins (l : Nat × Nat) (x : Ctx) : Prop := x.st = .ready ∧ x.basting = true ∧ x.lnch = lnchWord l

/-- A basting team that is placed. -/
structure State.BastPlaced (s t : State) (c : Nat) (f : Fit) (l : Nat × Nat) (rcd : List Byte) (index : Nat) : Prop where
  rest : t = { s with ctxs := t.ctxs, cores := t.cores, clusters := t.clusters, tiles := t.tiles, teams := t.teams }
  teams : t.teams = s.teams ++ [((c, f.slot), ⟨l, index, f.pos, if recNeedpa rcd then f.tiles else [], true, false, none⟩)]
  ctx : ∀ p ∈ f.pos, BastBegins l (t.ctx ⟨c, p.1, p.2⟩)

theorem State.placeTeam_bast (s : State) (c : Nat) (f : Fit) (l : Nat × Nat) (rcd img : List Byte) (index teamn : Nat) (deps : List (Nat × Nat)) :
    s.BastPlaced (s.placeTeam c f l rcd img index teamn deps true) c f l rcd index := by
  unfold State.placeTeam
  extract_lets tiles capt s1 s2 s3 s4 s5
  have bank : s.PlaceOnly s1 := rfl
  have arrays : s1.PlaceOnly s2 := .foldl (fun u n => u.modTile_place c n _) tiles s1
  have code : s2.PlaceOnly s3 := .foldl (fun u n => u.modCore_place c n _) _ s2
  have contexts : s3.PlaceOnly s4 := .foldl (fun u _ => u.setCtx_place _ _) _ s3
  have placed := ((bank.trans arrays).trans code).trans contexts
  have begins : ∀ p ∈ f.pos, BastBegins l (s4.ctx ⟨c, p.1, p.2⟩) := fun p hp => by
    obtain ⟨i, hi⟩ := List.mem_iff_getElem?.mp hp
    exact State.ctx_foldl_setCtx (pos := fun e : (Nat × Nat) × Nat => ⟨c, e.1.1, e.1.2⟩) (ctx := fun e => startCtx rcd l index teamn f.slot e.2 capt true) (fun _ _ => ⟨rfl, rfl, rfl⟩)
      (.inl ⟨(p, i), List.mem_zipIdx_iff_getElem?.mpr hi, rfl⟩)
  have teams : s4.teams = s.teams := by rw [placed]
  refine ⟨?_, ?_, begins⟩
  · unfold s5
    clear_value s4
    rw [placed]
    rfl
  · change s4.teams ++ _ = _
    rw [teams]

/-! #### The predicted record is started -/

/-- A record that names nothing outside itself, of one team, that passes the checks of R60 and may be basted. -/
structure State.PlainRecord (s : State) (fn : Nat) (rcd : List Byte) : Prop where
  bok : recBok rcd = true
  sys : recSys rcd = false
  debug : recDebug rcd = false
  ndep : recNdep rcd = 0
  pmap : recPmap rcd = 0
  tidn : recTidn rcd = 0
  teams : recTeams rcd = 1
  good : recordFault s fn rcd none none = none

/-- Nothing runs and nothing waits to run. -/
structure State.Vacant (s : State) : Prop where
  launches : s.launches = []
  bastings : s.bastings = []
  teams : s.teams = []
  resumes : ∀ n, (s.clus n).pre.run ≠ 5

theorem State.offers_of_nil {s : State} (h : s.launches = []) : s.offers = [] := by
  have offered : ∀ q, s.offersOf q = [] := fun q => by
    have none : s.launchesOf q = [] := by rw [State.launchesOf, h]; rfl
    rw [State.offersOf, none]
    split <;> rfl
  have all : s.allOffers = [] := by
    unfold State.allOffers
    extract_lets all prio dist
    have none : all = [] := List.flatMap_eq_nil_iff.mpr fun q _ => by simp [offered]
    rw [none]
    rfl
  rw [State.offers, all]
  rfl

theorem State.Vacant.placementPending {s : State} (h : s.Vacant) (c : Nat) : s.placementPending c = false := by
  rw [State.placementPending, State.offers_of_nil h.launches, decide_eq_false (h.resumes c)]
  rfl

theorem State.Begun.vacant {s t : State} {q : Nat} (h : s.Begun t q) (hv : s.Vacant) : t.Vacant :=
  ⟨by rw [h.reads]; exact hv.launches, by rw [h.reads]; exact hv.bastings, by rw [h.reads]; exact hv.teams, fun n => by rw [h.part (fun k => k.pre.run) (fun _ => rfl) n]; exact hv.resumes n⟩

/-- The first cluster of the function that takes the team. -/
def State.firstFit (s : State) (fn : Nat) (l : Nat × Nat) (rcd : List Byte) : Option (Nat × Fit) := (s.clusRing fn none).findSome? (fun c => (s.fit fn c l rcd).map (fun f => (c, f)))

theorem State.Begun.firstFit {s t : State} {q : Nat} (h : s.Begun t q) (fn : Nat) (l : Nat × Nat) (rcd : List Byte) : t.firstFit fn l rcd = s.firstFit fn l rcd := by
  simp only [State.firstFit, h.clusRing, h.fit]

/-- A launch of one team without a map is placed on the first cluster that takes it. -/
theorem State.basteTeams_one {s : State} {fn : Nat} {l : Nat × Nat} {rcd : List Byte} {c : Nat} {f : Fit} (hf : s.firstFit fn l rcd = some (c, f)) {ok : List Nat} (hok : ∀ c ∈ s.clusRing fn none, c ∈ ok)
    (img : List Byte) (deps : List (Nat × Nat)) :
    s.basteTeams fn l rcd img none ok deps 1 0 none = some (s.placeTeam c f l rcd img 0 (recTeams rcd) deps true, [c], (teamCores f.pos).map (fun m => (c, m)) ++ []) := by
  have ring : (s.candidates fn rcd none 0 none).filter (fun c => ok.contains c) = s.clusRing fn none := List.filter_eq_self.mpr fun c hc => List.contains_iff_mem.mpr (hok c hc)
  rw [State.basteTeams, ring, ← State.firstFit, hf]
  rfl

/-- The basting launch that starts. -/
def State.newBasting (s : State) (q : Nat) (rcd : List Byte) (c : Nat) (f : Fit) : Basting :=
  { st := .running, rcd := rcd, img := [], seq := (s.queue q).prod, clusters := [c], teamClus := [c], start := s.clk, order := s.nextId, deps := [], cores := ((teamCores f.pos).map (fun m => (c, m)) ++ []).eraseDups }

theorem State.basteTry_starts {s : State} {q : Nat} {rcd : List Byte} {c : Nat} {f : Fit} (hr : s.PlainRecord (s.queue q).fn rcd) (hv : s.Vacant)
    (hf : s.firstFit (s.queue q).fn (launchKey q (s.queue q).prod) rcd = some (c, f)) :
    ∃ u : State, s.BastPlaced u c f (launchKey q (s.queue q).prod) rcd 0 ∧ s.basteTry q rcd none none [] = some { u with
      readSets := Assoc.del q u.readSets, bastings := Assoc.put q (s.newBasting q rcd c f) u.bastings, bst := { u.bst with starts := u.bst.starts + 1 }, nextId := s.nextId + 1 } := by
  have fault := recordBad_eq s (s.queue q).fn rcd none none
  rw [hr.good, Option.map_eq_none_iff] at fault
  refine ⟨_, s.placeTeam_bast c f _ rcd [] 0 1 [], ?_⟩
  unfold State.basteTry
  extract_lets k ok image l
  have noImage : image = [] := if_pos hr.tidn
  have one : s.basteTeams k.fn l rcd image none ok [] 1 0 none = some (s.placeTeam c f l rcd [] 0 1 [] true, [c], (teamCores f.pos).map (fun m => (c, m)) ++ []) := by
    have allowed : ∀ d ∈ s.clusRing k.fn none, d ∈ ok := fun d hd => by
      obtain ⟨hrange, hfn⟩ := List.mem_filter.mp hd
      refine List.mem_filter.mpr ⟨hrange, ?_⟩
      have reserved : s.reservedBy d = none := by rw [State.reservedBy, hv.bastings]; rfl
      rw [hfn, hv.teams, reserved, hv.placementPending]
      rfl
    have placed := State.basteTeams_one hf allowed [] []
    rw [hr.teams] at placed
    rw [noImage]
    exact placed
  have good : s.recordBad k.fn rcd none none = none := fault
  rw [if_neg (by simp [hr.bok, hr.sys, hr.debug, good]), if_pos hr.pmap, hr.teams, one, noImage]
  rfl

theorem State.firstClus_of_ring {s : State} {fn c : Nat} (h : c ∈ s.clusRing fn none) : ∃ d, s.firstClus fn = some d := by
  obtain ⟨hrange, hfn⟩ := List.mem_filter.mp h
  exact Option.isSome_iff_exists.mp (List.find?_isSome.mpr ⟨c, hrange, hfn⟩)

theorem State.basteGo_starts {s : State} {q : Nat} {rcd : List Byte} {c : Nat} {f : Fit} (hr : s.PlainRecord (s.queue q).fn rcd) (hv : s.Vacant)
    (hf : s.firstFit (s.queue q).fn (launchKey q (s.queue q).prod) rcd = some (c, f)) :
    ∃ u : State, s.BastPlaced u c f (launchKey q (s.queue q).prod) rcd 0 ∧ s.basteGo q rcd none none = ({ u with
      readSets := Assoc.del q u.readSets, bastings := Assoc.put q (s.newBasting q rcd c f) u.bastings, bst := { u.bst with starts := u.bst.starts + 1 }, nextId := s.nextId + 1 } : State).baste0 q := by
  obtain ⟨u, placed, started⟩ := State.basteTry_starts hr hv hf
  obtain ⟨d, hd, -⟩ := List.exists_of_findSome?_eq_some hf
  obtain ⟨first, hfirst⟩ := State.firstClus_of_ring hd
  refine ⟨u, placed, ?_⟩
  rw [State.basteGo, hfirst]
  dsimp only
  rw [hr.ndep]
  change ((s.basteTry q rcd none none []).getD s).baste0 q = _
  rw [started]
  rfl

theorem execBasteStart_host {s : State} {q : Nat} {rcd : List Byte} (hq : q = s.inp.id) (h : s.MayStart q) (hp : predict (s.queue q).hist = some rcd) (hd : (s.queue q).device = false) (hl : s.inp.load = .none) :
    exec .basteStart s = .next ((s.basteReads q).basteGo q rcd none none) := by
  subst hq
  obtain ⟨ready, idle, room, life, fn⟩ := h
  rw [exec_basteStart, execBasteStart]
  dsimp only
  rw [if_neg (by simp [ready, idle, room, life, fn]), hp, hd, hl]
  rfl

/-- BASTE_START starts the predicted record of a host queue where every condition of R103 holds. -/
theorem basteStart_starts {s : State} {q : Nat} {rcd : List Byte} {c : Nat} {f : Fit} (hq : q = s.inp.id) (h : s.MayStart q) (hp : predict (s.queue q).hist = some rcd) (hd : (s.queue q).device = false)
    (hl : s.inp.load = .none) (hr : s.PlainRecord (s.queue q).fn rcd) (hv : s.Vacant) (hf : s.firstFit (s.queue q).fn (launchKey q (s.queue q).prod) rcd = some (c, f)) :
    ∃ t b, exec .basteStart s = .next t ∧ t.basting? q = some b ∧ b.st = .running ∧ b.rcd = rcd ∧ b.seq = (s.queue q).prod ∧ b.clusters = [c] ∧ b.start = s.clk ∧ b.matched = false ∧ b.doomed = false ∧
      t.bst = { s.bst with starts := s.bst.starts + 1 } ∧ t.teams = [((c, f.slot), ⟨launchKey q (s.queue q).prod, 0, f.pos, if recNeedpa rcd then f.tiles else [], true, false, none⟩)] ∧
      (∀ p ∈ f.pos, (t.ctx ⟨c, p.1, p.2⟩).st = .ready ∧ (t.ctx ⟨c, p.1, p.2⟩).basting = true ∧ (t.ctx ⟨c, p.1, p.2⟩).lnch = lnchWord (launchKey q (s.queue q).prod)) ∧
      (t.queue q).cons = (s.queue q).cons ∧ (t.queue q).histNew = false ∧ t.launches = [] ∧ t.host = s.host ∧ s.sameMem t := by
  have begun := s.basteReads_begun q
  have started := execBasteStart_host hq h hp hd hl
  generalize s.basteReads q = s0 at begun started
  have fn : (s0.queue q).fn = (s.queue q).fn := by rw [begun.queue]
  have prod : (s0.queue q).prod = (s.queue q).prod := by rw [begun.queue]
  have cons : (s0.queue q).cons = (s.queue q).cons := by rw [begun.queue]
  have record : s0.PlainRecord (s0.queue q).fn rcd := { hr with good := by rw [begun.recordFault, fn, hr.good] }
  obtain ⟨u, placed, went⟩ := State.basteGo_starts (q := q) record (begun.vacant hv) (by rw [begun.firstFit, fn, prod, hf])
  rw [went] at started
  rw [prod] at placed
  have queue : u.queue q = s0.queue q := by rw [placed.rest]; rfl
  refine ⟨_, s0.newBasting q rcd c f, started, State.basting?_setBasting u q _, rfl, rfl, prod, rfl, ?_, rfl, rfl, ?_, ?_, placed.ctx, ?_, ?_, ?_, ?_, ?_⟩
  · change s0.clk = s.clk
    rw [begun.reads]
  · change ({ u.bst with starts := u.bst.starts + 1 } : Bst) = _
    rw [placed.rest, begun.reads]
  · change u.teams = _
    rw [placed.teams, (begun.vacant hv).teams]
    rfl
  · rw [State.baste0, State.queue_modQueue]
    change (u.queue q).cons = _
    rw [queue, cons]
  · rw [State.baste0, State.queue_modQueue]
  · change u.launches = []
    rw [placed.rest]
    exact (begun.vacant hv).launches
  · change u.host = s.host
    rw [placed.rest, begun.reads]
  · obtain ⟨-, -, -, -, -, first⟩ := begun.reads.kept
    have second : s0.sameMem u := by
      rw [placed.rest]
      exact State.sameMem_of rfl rfl rfl rfl
    exact (first.trans second).trans (State.sameMem_of rfl rfl rfl rfl)

end Sys2Proof.Machine

/-! ### O48: the obligation -/

namespace Sys2Proof.Machine
open Sys2Proof.Claims

theorem State.mayStart_of {s : State} {q : Nat} (hr : s.ready = true) (hst : (s.queue q).st = .active) (hb : (s.queue q).baste = true) (hpc : (s.queue q).prod = (s.queue q).cons)
    (hn : (s.queue q).histNew = true) (hl : s.launches = []) (hbs : s.bastings = []) (hm : 0 < (s.bst.ctl.extractLsb' 0 3).toNat) (hlife : s.bst.ctl.extractLsb' 8 8 ≠ 0)
    (hq : s.quietFn (s.queue q).fn = false) : s.MayStart q := by
  refine ⟨hr, (s.queueIdle_iff q).mpr ⟨hst, hb, hpc, hn, fun l h => ?_, ?_⟩, ?_, fun h => hlife (Bst.life_eq_zero.mp h), hq⟩
  · rw [State.launchesOf, hl] at h
    cases h
  · rw [hbs]
    rfl
  · rw [hbs, Bst.maxb, List.length_nil]
    omega

/-- BASTE_START (R103). -/
theorem basteStart_clause (s : State) (q : Nat) (hq : q = s.inp.id) :
    let k := s.queue q
    (s.ready = false ∨ k.st ≠ .active ∨ k.baste = false ∨ k.prod ≠ k.cons ∨ k.histNew = false ∨ (∃ l ∈ s.launchesOf q, l.placed < recTeams l.rcd) ∨ (∃ e ∈ s.bastings, e.1 = q) ∨
      min 4 (s.bst.ctl.extractLsb' 0 3).toNat ≤ s.bastings.length ∨ s.bst.ctl.extractLsb' 8 8 = 0 ∨ s.quietFn k.fn = true ∨ predict k.hist = none → exec .basteStart s = .next s) ∧
    (∀ rcd, predict k.hist = some rcd → Barred rcd →
      ∃ t, exec .basteStart s = .next t ∧ t.bastings = s.bastings ∧ t.teams = s.teams ∧ t.bst = s.bst ∧ t.launches = s.launches ∧ (∀ p, (t.ctx p).slot = (s.ctx p).slot) ∧ s.sameMem t) := by
  subst hq
  refine ⟨fun h => basteStart_ignored ?_, fun rcd hp hbar => ?_⟩
  · simp only [← or_assoc] at h
    rcases h with h | h
    · simp only [or_assoc] at h
      exact .inl (not_mayStart h)
    · exact .inr h
  · obtain ⟨t, exec, reads⟩ := basteStart_barred hp hbar
    exact ⟨t, exec, reads.kept⟩

/-- Settles O48: each event by the lemma about it; unpicking through what it scrubs (`State.unpick_unpicked`), the commit line by line
(`State.commitAll_home`), the start through what the predictor's reading leaves alone (`State.basteReads_begun`). -/
theorem bastings : Obligations.Bastings := by
  refine ⟨bstCtlWrite_clause, fun s q hq => ⟨(basteStart_clause s q hq).1, (basteStart_clause s q hq).2, ?_⟩, fun s q b hq h => ?_, genReq_clause⟩
  · intro rcd c f hr hst hb hd hpc hn hl hbs hm hlife hqf hp hbok hsys hdbg hndep hpmap htidn hteams hgood hload htm hpre hfit
    exact basteStart_starts hq (State.mayStart_of hr hst hb hpc hn hl hbs hm hlife hqf) hp hd hload ⟨hbok, hsys, hdbg, hndep, hpmap, htidn, hteams, hgood⟩ ⟨hl, hbs, htm, hpre⟩ hfit
  · subst hq
    dsimp only
    refine ⟨execBasteAdopt_ignored h, fun hst hm l hl hdep => ⟨basteAdopt_dead rfl h hst hm hl (Launch.ready_of hdep), basteAdopt_asks rfl h hst hm hl (Launch.ready_of hdep) rfl⟩,
      fun hst => ⟨execGenReply_ignored h hst, execBasteRevalidated_ignored h hst⟩,
      fun hst => ⟨genReply_stale rfl h hst, genReply_stands rfl h hst, basteRevalidated_stale rfl h hst, fun hw hd hgood => ⟨basteRevalidated_waits rfl h hst hw hd hgood, ?_⟩⟩,
      fun hst hf hr hd => ⟨_, basteCommitted_nothing rfl h hst hf hr hd, rfl⟩, fun it hst hf hr hd hp => basteCommitted_message rfl h hst hf hr hd hp, basteClaimed_claims rfl h,
      basteUnpick_committing h, basteUnpick_unpicked h, basteLifeExpiry_unpicked h, basteLifeExpiry_ignored h⟩
    exact fun hland hmem hnd hlines hapart => basteRevalidated_commits rfl h hst hw hd hgood hland hmem ⟨hnd, hlines, hapart⟩

end Sys2Proof.Machine
